-- ==== Sys2Proof/Word.lean ====
section
/-! DEFINITION. The byte and word types of the node, and nothing more: bytes as the manual lays structures out
(R4), and the two register widths of BAR0 (R343). -/

namespace Sys2Proof

/-- One byte of a register, message, ring entry, row, packet or flash structure (R4). -/
abbrev Byte := BitVec 8

/-- A structure as the manual lays it out: byte offsets count from the first byte (R4). -/
abbrev Bytes := List Byte

/-- A 32-bit BAR0 register (R343), also the 32 bits of an FP32 value (R55). -/
abbrev Word32 := BitVec 32

/-- A 64-bit field: a stride stamp, an address, a digest's first 8 bytes. -/
abbrev Word64 := BitVec 64

end Sys2Proof
end

