-- ==== Sys2Proof/Machine/Map.lean ====
section
/-! DEFINITION. Sparse maps: a list of (key, value) pairs with keys strictly rising, so that equal maps are equal data.
A key that is not listed reads as the default the caller names. -/

namespace Sys2Proof.Machine

/-- A sparse map from numbers (ids, addresses, slots) to values, in canonical form when its keys rise strictly. -/
abbrev SMap (α : Type) := List (Nat × α)

/-- The value listed under `k`. -/
def SMap.find? {α : Type} : SMap α → Nat → Option α
  | [], _ => none
  | e :: m, k => if e.1 = k then some e.2 else SMap.find? m k

/-- The value under `k`, or `d` where `k` is not listed. -/
def SMap.getD {α : Type} (m : SMap α) (k : Nat) (d : α) : α := (SMap.find? m k).getD d

/-- Is `k` listed? -/
def SMap.has {α : Type} (m : SMap α) (k : Nat) : Bool := (SMap.find? m k).isSome

/-- List `v` under `k`, keeping the keys rising and dropping an older value of `k`. -/
def SMap.set {α : Type} : SMap α → Nat → α → SMap α
  | [], k, v => [(k, v)]
  | e :: m, k, v =>
    if e.1 < k then e :: SMap.set m k v
    else (k, v) :: (if e.1 = k then m else e :: m)

/-- Remove `k`. -/
def SMap.erase {α : Type} : SMap α → Nat → SMap α
  | [], _ => []
  | e :: m, k => if e.1 = k then m else e :: SMap.erase m k

/-- Change the value under `k` where it is listed. -/
def SMap.update {α : Type} (m : SMap α) (k : Nat) (g : α → α) : SMap α :=
  match SMap.find? m k with
  | some v => SMap.set m k (g v)
  | none => m

/-- Change the value under `k`, which reads as `d` where it is not listed. -/
def SMap.alter {α : Type} (m : SMap α) (k : Nat) (d : α) (g : α → α) : SMap α :=
  SMap.set m k (g (SMap.getD m k d))

/-- Change every value. -/
def SMap.mapVals {α β : Type} (m : SMap α) (g : Nat → α → β) : SMap β := m.map fun (k, v) => (k, g k v)

/-- The keys from `b` on rise strictly: the first is at least `b`, and each next one above the last. -/
def SMap.risesFrom {α : Type} : Nat → SMap α → Bool
  | _, [] => true
  | b, e :: m => decide (b ≤ e.1) && SMap.risesFrom (e.1 + 1) m

/-- The canonical form: keys strictly rising. -/
def SMap.wf {α : Type} (m : SMap α) : Bool := SMap.risesFrom 0 m

end Sys2Proof.Machine
end

