-- ==== Sys2Proof/Machine/Rows.lean ====
section
/-! DEFINITION. The rows and records of indexes and tables, and the remount checkpoint that holds those which HBM alone
holds between versions (R60, R112, R120, R123, R246, R335). -/

namespace Sys2Proof.Machine

/-- A row held by a shard: its slot, generation, 64-byte metadata, codes and full-precision record (R61, R62, R65). -/
structure Row where
  shard : Nat                     -- shard | R110 05 | none
  slot : Nat                      -- slot, 40 bits | R60 03 | none
  gen : Nat                       -- generation, 8 bits | R60 03 | none
  key : Nat                       -- user key, 48 bits | R59 03 | none
  level : Nat                     -- top layer in the version that holds it | R108 05 | none
  head : Bytes                    -- metadata block, 64 bytes | R61 03 | none
  codes : Bytes                   -- codes, padded | R62 03 | none
  record : Bytes                  -- full-precision elements | R65 03 | none
  commit : Nat                    -- commit stride of a delta row; 0 for a base row | R224 11 | none
  deriving DecidableEq, Repr

/-- An adjacency list: the targets of a row on a layer, each with its generation at the time (R112). -/
structure AdjList where
  shard : Nat                     -- shard | R110 05 | none
  layer : Nat                     -- layer | R112 05 | none
  slot : Nat                      -- slot of the row | R114 05 | none
  targets : List (Nat × Nat)      -- (target slot, generation), slots ascending | R113 05 | none
  deriving DecidableEq, Repr

/-- A committed overlay entry: a back edge added to a row by an online insert (R120, R224). -/
structure Overlay where
  shard : Nat                     -- shard | R120 05 | none
  slot : Nat                      -- slot of the row that has the record | R120 05 | none
  target : Nat                    -- slot of the inserted row | R120 05 | none
  gen : Nat                       -- its generation | R120 05 | none
  commit : Nat                    -- commit stride | R224 11 | none
  deriving DecidableEq, Repr

/-- A committed delete (R123, R225). -/
structure Tomb where
  shard : Nat                     -- shard | R123 05 | none
  slot : Nat                      -- slot | R123 05 | none
  gen : Nat                       -- generation | R225 11 | none
  commit : Nat                    -- commit stride | R225 11 | none
  deriving DecidableEq, Repr

/-- A table row's dirty copy or a version's row with its optimiser state (R233, R246). -/
structure TableRow where
  id : Nat                        -- row id | R232 12 | none
  row : Bytes                     -- metadata block and codes | R233 12 | none
  state : Bytes                   -- optimiser state record | R246 12 | none
  applied : Nat                   -- apply stride of the last update | R254 12 | none
  step : Nat                      -- last step applied to it | R254 12 | none
  poisoned : Bool                 -- poisoned on this member | R248 12 | no
  deriving DecidableEq, Repr

/-- An index's part of a checkpoint (R335). -/
structure IndexLog where
  index : Nat                     -- index id | R335 15 | none
  delta : List Row                -- delta log | R335 15 | none
  lists : List AdjList            -- its adjacency lists | R335 15 | none
  overlays : List Overlay         -- overlay records | R335 15 | none
  tombs : List Tomb               -- tombstone bitmap | R335 15 | none
  recent : List Tomb              -- recent-delete list | R335 15 | none
  lastGen : SMap Nat              -- last generations | R116 05 | none
  deriving DecidableEq, Repr

/-- A table's part of a checkpoint (R335). -/
structure TableLog where
  table : Nat                     -- table id | R335 15 | none
  dirty : List TableRow           -- update area with its optimiser state | R335 15 | none
  committed : Nat                 -- committed step count | R335 15 | none
  deriving DecidableEq, Repr

/-- A remount checkpoint (R335). -/
structure Checkpoint where
  indexes : List IndexLog         -- indexes | R335 15 | none
  tables : List TableLog          -- tables | R335 15 | none
  deriving DecidableEq, Repr

end Sys2Proof.Machine
end

