-- ==== Sys2Proof/Syntax.lean ====
section
/-! DEFINITION. The commands of the node: one constructor per row of spec/opcode_table.json.
An operand is what the step needs from outside the node: the function or unit it names, a value a host writes,
bytes that a DMA read, a fabric message or a flash read brings, or which unit the environment lets fail. -/

namespace Sys2Proof

/-- What the steps of a port's training bring (R294, R295), each within its bound: light (optical ports), the lanes adapted,
codeword lock, the peer's identity (node id, herd id, stride code, the check value of its route image), and the times t1 to t4
of the timing flit's round trips in 1/16 cycles. -/
structure PortReport where
  light : Bool
  adapted : BitVec 4
  locked : Bool
  peer : Nat
  herd : Nat
  code : Nat
  route : List Byte
  trips : List (Nat × Nat × Nat × Nat)
  deriving DecidableEq, Repr

/-- The message bits of a codeword (R288): its control field of 20 bits and its 10 flit slots of 64 bytes. -/
structure Codeword where
  control : Nat
  slots : List (List Byte)
  deriving DecidableEq, Repr

/-- The margins that the farrier measures of a unit, at guardband 0 in a re-plan (R429, R432): the unit as kind and instance
of R337, kind 0 being an HBM pseudo-channel, 64 × stack + pseudo-channel. -/
structure UnitMargin where
  kind : Nat
  num : Nat
  timing : Int
  voltage : Int
  deriving DecidableEq, Repr

/-- What the farrier measures of one domain at a re-plan or in a sweep (R429, R432): the margins of its units, and the timing margin
that each guardband step adds. -/
structure DomainReport where
  domain : Nat
  units : List UnitMargin
  perStep : Nat
  deriving DecidableEq, Repr

/-- What the tests of one start-up stage bring (R414): whether an HBM stack failed, the capacity in GB of the DDR modules
(0 where their population breaks R205), the units that failed as (kind, instance) pairs of R337, and the domain
measurements. -/
structure UnitReport where
  stackFailed : Bool
  module : Nat
  failed : List (Nat × Nat)
  domains : List DomainReport
  deriving DecidableEq, Repr

/-- What the flash scan finds (R257, R416): the targets of each channel (0 where the population breaks R257), the blocks of
a die and its rated endurance, whether paddock 0's maps are lost, and the user paddocks whose map cannot be rebuilt. -/
structure ScanReport where
  targets : Nat
  dieBlocks : Nat
  endurance : Nat
  mapsLost : Bool
  lostPaddocks : List Nat
  deriving DecidableEq, Repr

/-- What stage 9 finds (R334, R336, R422): whether the node's own checkpoint can be read; whether this node or its partner was
fenced in the remount that ended; the partner's digest of its checkpoint and its version digests as (object, version, digest),
where the partner is there; its checkpoint and the mirrored units it committed alone as (paddock, unit, data), where it supplies
them; and the lowest committed step count among each table's spans. -/
structure RestoreReport where
  own : Bool
  fenced : Bool
  partnerFenced : Bool
  digest : Option Nat
  versions : List (Nat × Nat × Nat)
  partner : Option Machine.Checkpoint
  units : List (Nat × Nat × Bytes)
  steps : List (Nat × Nat)
  deriving DecidableEq, Repr

/-- Where a doorbell write lands (R349, R353): ring doorbell `index` of a context, or a storage queue. -/
inductive Doorbell where
  | ring (context index : Nat)
  | queue (id : Nat)
  deriving DecidableEq, Repr

/-- One queue head that the storage class's admission reads by DMA (R277): the queue, its entry, and for a WRITE the
4 KiB units read from the buffer address, each with whether it read poison. -/
structure QueueHead where
  queue : Nat
  entry : Bytes
  data : List (Bytes × Bool)
  deriving DecidableEq, Repr

/-- The sort unit that runs a command's selections, and the block steps, numbered from 0 through all of them, in which its
registers' parity fails (R134, R138). -/
structure SortUse where
  unit : Nat
  parity : List Nat
  deriving DecidableEq, Repr

/-- The scoring tile that runs a command's share, the single-bit errors corrected in its SRAM, and whether an error there
was uncorrectable (R148, R150). -/
structure TileUse where
  tile : Nat
  fixed : Nat
  lost : Bool
  deriving DecidableEq, Repr

/-- How a flash read of a slot or unit went (R261): corrected bits, retries, and whether it stayed uncorrectable. A read
that is not listed was clean. -/
structure FlashRead where
  unit : Nat
  corrected : Nat
  retries : Nat
  lost : Bool
  deriving DecidableEq, Repr

/-- What the span partner answers for a unit that it was asked for (R282, R283): its data, none where it cannot supply it. -/
structure PartnerUnit where
  unit : Nat
  data : List Byte
  deriving DecidableEq, Repr

/-- The commands, in the table's order. `f` is a global function number 0 to 63 (R341). -/
inductive Instr where
  -- mailboxes (17_messages.md)
  | mbSubmit (f : Nat)
  | requestTake (f : Nat) (fetched : Bytes)
  | mbReplyAck (f : Nat)
  | replyPost (f : Nat)
  | noteHeadWrite (f : Nat) (value : Word32)
  | notificationPost (f : Nat)
  -- control messages: the opcode's own processing of the request that function f's mailbox took first
  | deviceFormat (f : Nat)
  | deviceCapabilities (f : Nat)
  | contextCreate (f : Nat)
  | contextClose (f : Nat)
  | contextReserve (f : Nat)
  | contextStatus (f : Nat)
  | ringOpen (f : Nat)
  | ringClose (f : Nat)
  | residencySet (f : Nat)
  | residencyPin (f : Nat)
  | residencyReplicate (f : Nat)
  | gaitCheck (f : Nat) (image : Bytes)
  | gaitLoad (f : Nat) (image : Bytes)
  | gaitStage (f : Nat)
  | gaitCancel (f : Nat)
  | gaitStatus (f : Nat)
  | indexCreate (f : Nat)
  | indexClose (f : Nat)
  | indexBuild (f : Nat)
  | indexCompact (f : Nat)
  | indexSwitch (f : Nat)
  | indexRelease (f : Nat)
  | indexStatus (f : Nat)
  | programLoad (f : Nat) (image : Bytes)
  | programUnload (f : Nat)
  | programStatus (f : Nat)
  | tableCreate (f : Nat)
  | tableClose (f : Nat)
  | tableBuild (f : Nat)
  | tableFold (f : Nat)
  | tableSwitch (f : Nat)
  | tableRelease (f : Nat)
  | tableStatus (f : Nat)
  | tableRowWrite (f : Nat)
  | paddockCreate (f : Nat)
  | paddockDelete (f : Nat)
  | paddockStatus (f : Nat)
  | storageQueueCreate (f : Nat)
  | storageQueueDelete (f : Nat)
  | storageWeightsSet (f : Nat)
  | flashHealthLog (f : Nat)
  | fabricRouteSet (f : Nat) (image : Bytes)
  | fabricWindowSet (f : Nat)
  | fabricRegionSet (f : Nat)
  | fabricGateStage (f : Nat)
  | fabricGateCancel (f : Nat)
  | fabricPolicerSet (f : Nat)
  | fabricLinkStatus (f : Nat)
  | herdStatus (f : Nat)
  | herdTeardown (f : Nat)
  | herdRemount (f : Nat)
  | herdRemountCancel (f : Nat)
  | herdUnitReturn (f : Nat)
  | trustAttest (f : Nat)
  | trustBrandRecord (f : Nat)
  | trustFwUpdate (f : Nat) (image : Bytes)
  | trustDebugChallenge (f : Nat)
  | trustDebugUnlock (f : Nat)
  | trustIdeKey (f : Nat)
  | healthAgeingReport (f : Nat)
  | healthUnits (f : Nat)
  -- management plane (R403, R428)
  | mctpAttestation (payload : Bytes)
  | mctpBrandRecord
  | mctpFirmwareVersion
  | mctpAgeingReport
  | mctpUnitLists
  | mctpMirrorRead (offset length : Nat)
  -- planes (R16, R17)
  | controlCoreFault
  | controlCoreRestarted
  | managementCoreCrash
  -- registers (16_host_registers.md, 09_arbitration.md)
  | registerWrite (f : Nat) (bar offset size : Nat) (value reassert : Word64)
  | strideLoRead (f : Nat)
  | intCauseClear (f : Nat) (value reassert : Word32)
  | intMaskWrite (f : Nat) (value : Word32)
  | dbFaultClear (f : Nat) (value reassert : Word32)
  | bar2ErrClear (f : Nat) (value reassert : Word32)
  | arbFlagsClear (f : Nat) (arbiter : Nat) (value reassert : Word32)
  | subTailWrite (f : Nat) (bell : Doorbell) (value : Word32)
  | cplHeadWrite (f : Nat) (bell : Doorbell) (value : Word32)
  | bar2Fence (f : Nat)
  | bar2Read (f : Nat) (address length : Nat)
  | bar2Write (f : Nat) (address : Nat) (data : Bytes)
  | bar2Atomic (f : Nat) (address : Nat) (op size : Nat) (a b : Word64)
  | msixVectorUnmask (f : Nat) (vector : Nat)
  -- links and functions
  | linkUp (link : Nat) (rates : BitVec 6)
  | linkDown (link : Nat)
  | perstNAssert (link : Nat)
  | functionLevelReset (f : Nat)
  | vfRemoval (link : Nat) (numVfs : Nat)
  | ideIntegrityFailure (link stream : Nat)
  -- the stride (02_stride_and_gait.md, 01_node_overview.md)
  | strideBoundary (overrun : List Nat)
  | mirrorPublication
  -- the query path (04_query_path.md)
  | queryAdmission (ring : Nat) (entry : Bytes) (tile : TileUse)
  | shardSubRequestReceive (message : Bytes) (poisonRows poisonLists : List Nat) (sorter : SortUse)
  | layer0Round (search : Nat) (poisonRows poisonLists : List Nat) (sorter : SortUse) (tile : TileUse)
  | shardReplySend (search : Nat)
  | shardReplyReceive (message aside : Bytes)
  | queryMerge (handle passes : Nat) (sorter : SortUse)
  | rerankRead (search : Nat) (reads : List FlashRead) (poisonRows : List Nat) (tile : TileUse)
  | detourRequest (message : Bytes) (reads : List FlashRead) (tile : TileUse)
  | rerankReplySend (search : Nat)
  | rerankReplyReceive (message aside : Bytes)
  | replyDeadline (handle : Nat)
  | finalMerge (handle : Nat) (weightsPoisoned : Bool) (sorter : SortUse) (tile : TileUse)
  -- updates (11_updates_visibility.md)
  | updateAdmission (ring : Nat) (entry : Bytes) (tile : TileUse)
  | updateForwardReceive (message : Bytes) (poisonRows poisonLists : List Nat) (sorter : SortUse)
  | linkingRound (update : Nat) (poisonRows poisonLists : List Nat) (sorter : SortUse) (tile : TileUse)
  | updateStaging (tiles : List TileUse)
  | mirrorRecordReceive (message : Bytes)
  | mirrorAckReceive (handle : Nat) (entryNode : Nat)
  | mirrorConfirmReceive (handle : Nat) (entryNode : Nat)
  | commitDigestReceive (stride digest : Nat)
  | commitDigestDeadline
  | updateAckReceive (message : Bytes)
  | updateReplyDeadline (handle : Nat)
  -- embedding lookups and training (12_embedding_training.md)
  | lookupAdmission (ring : Nat) (entry : Bytes)
  | lookupSubRequestReceive (message : Bytes) (poisoned : List Nat)
  | lookupPooling (handle : Nat)
  | stepAdmission (ring : Nat) (entry : Bytes) (tile : TileUse)
  | stepSegmentReceive (message : Bytes)
  | stepMerge (table : Nat) (tile : TileUse)
  | stepMirror (table : Nat) (tile : TileUse)
  | stepMirrorReceive (message : Bytes) (tile : TileUse)
  | stepApply (table : Nat) (uncorrectable : List Nat)
  | stepDigestReceive (table step digest : Nat) (poisoned : List Nat)
  | stepNoticeReceive (message : Bytes)
  | stepPoisonRepair (table : Nat) (row : Nat) (image state : Bytes)
  -- storage and flash (13_flash_storage.md)
  | storageAdmission (cls : Nat) (heads : List QueueHead)
  | storageRead (command : Nat) (reads : List FlashRead) (answers : List PartnerUnit)
  | mirroredWriteReceive (message : Bytes)
  | storageDetourRead (paddock start count : Nat) (reads : List FlashRead)
  | arrayOperationIssue (channel : Nat) (lost : List Nat) (reads : List FlashRead) (answers : List PartnerUnit)
  | arrayOperationComplete (channel target : Nat) (good : Bool)
  | programStatusRead (channel target : Nat)
  | pagePaddingTimeout (paddock channel : Nat)
  | wearLevelCheck
  | mapCheckpoint
  | flashTemperatureSample (celsius : List Int)
  -- near-memory units (08_near_memory.md)
  | qload (command : Bytes) (poisoned : Bool)
  | scan (command : Bytes)
  | update (command : Bytes) (poisoned : Bool)
  | rowwrite (command : Bytes) (poisoned : Bool)
  | burstGrant (stack : Nat)
  | burstEnd (unit : Nat)
  | arbiterDecision (arbiter : Nat) (requests : BitVec 8) (blocked : BitVec 8) (tenure : Nat) (waited : List Nat) (cycle : Nat)
  -- residency, versions
  | migrationSelection (object : Nat)
  | migrationCopy (object row : Nat) (stopped : Bool)
  | buildAdmission (object : Nat) (poisonRows : List Nat) (reads : List FlashRead)
  | versionBuilt (object : Nat)
  | switchTupleReceive (object version stride digest : Nat)
  | goRecordDeadline
  | goRecordReceive (object version stride digest : Nat)
  | versionPairReceive (object version : Nat)
  | versionPairDeadline
  | indexCloseDrained (object : Nat)
  | contextCloseDrained (context : Nat)
  | granuleScrub
  -- the fabric (14_evusk_fabric.md)
  | frameReceive (port : Nat) (codewords : List Codeword) (corrected uncorrectable : Nat)
  | headerRecordReceive (port : Nat) (header : Word64) (body : Bytes)
  | routerForward (port : Nat) (header : Word64) (body : Bytes)
  | creditReturn (port : Nat)
  | creditMessageReceive (port : Nat) (credits : List Nat)
  | memoryOperation (port cls : Nat) (record : Bytes)
  | operationResponseReceive (port : Nat) (cls : Nat) (record : Bytes)
  | operationTimeout
  | portTraining (port : Nat) (report : PortReport)
  | portDown (port : Nat)
  | laserModuleDark (second : Bool)
  | strideMarkReceive (port : Nat) (stride sendOffset : Nat) (arrival : Int)
  | parentMarkLoss
  | outOfStep
  | strideInEdge (arrival : Int)
  | strideInLoss
  -- membership (15_spans_and_herds.md)
  | heartbeatSend
  | heartbeatReceive (port : Nat) (record : Bytes)
  | heartbeatMiss
  | accusationReceive (record : Bytes)
  | vouchReceive (record : Bytes)
  | fenceDecision
  | fenceRecordReceive (port : Nat) (record : Bytes)
  | remountCheckpoint
  | remountRestart
  -- power, pins, start-up (20_startup.md, 22_electrical_package.md)
  | powerArrival
  | powerRemoval
  | resetNAssert
  | resetNRelease
  | pwrfailNAssert
  | powerFailFlushEnd
  | undervoltage
  | junctionSample (eighths : List Int)
  | railsInRegulation (failure : Nat)
  | firmwareMeasuredStart (secret : Bytes)
  | tackImageReceive (image : Bytes)
  | unitTraining (stage : Nat) (report : UnitReport)
  | flashScan (report : ScanReport)
  | joinRecordReceive (record : Bytes)
  | joinClose
  | joinCloseTimeout
  | rootSilentTimeout
  | joinCloseReceive (firstStride : Nat)
  | strideLock (errors : List Int)
  | serviceGaitAdoption (absent : List Nat)
  | lateJoinWait
  | stateRestore (report : RestoreReport)
  | versionFill (object version : Nat) (reads : List FlashRead)
  | stageTimeout
  | farrierSweep (report : DomainReport)
  -- rows added after the others
  | rerankRequestReceive (message : Bytes)
  | lookupReplyReceive (message aside : Bytes)
  | stepNoticeDeadline (table : Nat)
  | stepDigestDeadline (table : Nat)
  | transportResend (handle : Nat)
  | scheduledOperationIssue (cls : Nat) (record : Bytes) (isFence : Bool)
  | busMasterEnableWrite (f : Nat) (enable : Bool)
  deriving DecidableEq, Repr

end Sys2Proof
end

