-- ==== Sys2Proof/Decode.lean ====
section
/-! DEFINITION. The table's bits. Every row of spec/opcode_table.json lists no bit fields: a command of this node is no word,
so no word spells one. -/

namespace Sys2Proof

/-- The command that a word spells by the table's bits: the table gives no row any bits, so none. -/
def decodeTableWord (_nbits _w : Nat) : Option Instr := none

end Sys2Proof
end

