-- ==== Sys2Proof/Machine/Bytes.lean ====
section
/-! DEFINITION. Reading and writing the manual's byte layouts: little-endian fields, zero checks, padding and bit
ranges (R4, R6, the Notation table of 00_scope.md). -/

namespace Sys2Proof.Machine

/-- The little-endian number that bytes spell (R4). -/
def leNat (b : Bytes) : Nat := b.foldr (fun x acc => x.toNat + 256 * acc) 0

/-- The `n`-byte little-endian field at offset `off`; bytes beyond the structure read as zero. -/
def le (b : Bytes) (off n : Nat) : Nat := leNat ((b.drop off).take n)

/-- `v` as `n` little-endian bytes (R4). -/
def toLe (n v : Nat) : Bytes := (List.range n).map fun i => BitVec.ofNat 8 (v / 256 ^ i)

/-- A signed value as `n` little-endian bytes, two's complement. -/
def toLeInt (n : Nat) (v : Int) : Bytes := toLe n (v % (256 ^ n : Int)).toNat

/-- Byte `i` as a number. -/
def byteAt (b : Bytes) (i : Nat) : Nat := (b.getD i 0).toNat

/-- Are the `n` bytes from `off` all zero (R6)? -/
def zeroAt (b : Bytes) (off n : Nat) : Bool := ((b.drop off).take n).all fun x => decide (x = 0)

/-- `n` zero bytes. -/
def zeros (n : Nat) : Bytes := List.replicate n 0

/-- Exactly `n` bytes: cut or filled with zeros. -/
def fit (n : Nat) (b : Bytes) : Bytes := b.take n ++ zeros (n - b.length)

/-- The next multiple of `m` at or above `n`. -/
def roundUp (n m : Nat) : Nat := (n + m - 1) / m * m

/-- Fill with zero bytes up to a multiple of `m`. -/
def padTo (m : Nat) (b : Bytes) : Bytes := b ++ zeros (roundUp b.length m - b.length)

/-- Division rounded up. -/
def ceilDiv (n m : Nat) : Nat := (n + m - 1) / m

/-- Bits [lo + n - 1 : lo] of a number. -/
def bitsOf (v lo n : Nat) : Nat := v / 2 ^ lo % 2 ^ n

/-- Bit `i` of a number. -/
def bitOf (v i : Nat) : Bool := v / 2 ^ i % 2 == 1

/-- Overwrite the bytes from `off` on. -/
def putAt (b : Bytes) (off : Nat) (new : Bytes) : Bytes := b.take off ++ new ++ b.drop (off + new.length)

/-- A number read as two's complement of `n` bits. -/
def signedOf (n v : Nat) : Int := if 2 ^ (n - 1) ≤ v % 2 ^ n then (v % 2 ^ n : Int) - 2 ^ n else (v % 2 ^ n : Int)

/-- 1 for true. -/
def bit01 (b : Bool) : Nat := if b then 1 else 0

/-- The sum of a list of numbers. -/
def sumNat (l : List Nat) : Nat := l.foldl (· + ·) 0

/-- The largest of a list of numbers, 0 for none. -/
def maxNat (l : List Nat) : Nat := l.foldl Nat.max 0

/-- The bytes of a list cut into pieces of `n` bytes, with `fuel` pieces at most. -/
def chunks (n : Nat) : Nat → Bytes → List Bytes
  | 0, _ => []
  | fuel + 1, b => if b.isEmpty then [] else b.take n :: chunks n fuel (b.drop n)

/-- The bits of a mask, ascending, among the first `n`. -/
def bitList (n v : Nat) : List Nat := (List.range n).filter fun i => bitOf v i

/-- An ascending list with a number in its place, once. -/
def insertNat (x : Nat) (l : List Nat) : List Nat := l.filter (· < x) ++ x :: l.filter (x < ·)

/-- A list in the order `lt`, equal elements in the order they came. -/
def sortBy {α : Type} (lt : α → α → Bool) (l : List α) : List α :=
  l.foldr (fun x placed => placed.takeWhile (lt · x) ++ x :: placed.dropWhile (lt · x)) []

/-- Keep the first of equal elements. -/
def dedupNat (l : List Nat) : List Nat := l.foldl (fun acc x => if acc.contains x then acc else acc ++ [x]) []

end Sys2Proof.Machine
end

