-- ==== Sys2Proof/Machine/Crypto.lean ====
section
/-! DEFINITION. The two check functions that the node computes over bytes: CRC-32C (R367, R40, R288) and SHA-384
(R397, R220). SHA-384 is computed as FIPS 180-4 gives it: the manual names it and does not print it (log entry 8). -/

namespace Sys2Proof.Machine

/-- One bit of the reflected CRC-32C register (R367). -/
def crcBit (r : Nat) : Nat := if r % 2 = 1 then Nat.xor (r / 2) 0x82F6_3B78 else r / 2

/-- One byte through the register. -/
def crcByte (r : Nat) (b : Byte) : Nat := (List.range 8).foldl (fun r _ => crcBit r) (Nat.xor r b.toNat)

/-- CRC-32C of bytes: initial value and final XOR 0xFFFF_FFFF (R367). -/
def crc32c (b : Bytes) : Nat := Nat.xor (b.foldl crcByte 0xFFFF_FFFF) 0xFFFF_FFFF

/-- A 64-bit word rotated right. -/
def rotr (x n : Nat) : Nat := x / 2 ^ n + x % 2 ^ n * 2 ^ (64 - n)

/-- The first 80 primes, from which the round constants come. -/
def shaPrimes : List Nat := (List.range 410).filter fun n => 2 ≤ n ∧ ((List.range 21).all fun d => d < 2 ∨ n ≤ d ∨ n % d ≠ 0)

/-- The integer cube root of a number below 2^207, its bits tried from the highest down. -/
def icbrt (n : Nat) : Nat := (List.range 69).foldr (fun i r => if (r + 2 ^ i) ^ 3 ≤ n then r + 2 ^ i else r) 0

/-- The round constants: the first 64 bits of the fractional parts of the primes' cube roots. -/
def shaK : List Nat := shaPrimes.map fun p => icbrt (p * 2 ^ 192) % 2 ^ 64

/-- The initial hash value of SHA-384. -/
def sha384Init : List Nat :=
  [0xcbbb9d5dc1059ed8, 0x629a292a367cd507, 0x9159015a3070dd17, 0x152fecd8f70e5939, 0x67332667ffc00b31,
   0x8eb44a8768581511, 0xdb0c2e0d64f98fa7, 0x47b5481dbefa4fa4]

/-- The big-endian number that bytes spell. -/
def beNat (b : Bytes) : Nat := b.foldl (fun a x => a * 256 + x.toNat) 0

/-- `v` as `n` big-endian bytes. -/
def toBe (n v : Nat) : Bytes := (toLe n v).reverse

/-- The message schedule: each further word from the last sixteen, newest first. -/
def shaExpand : Nat → List Nat → List Nat
  | 0, w => w
  | fuel + 1, w =>
    let s0 := let x := w.getD 14 0; Nat.xor (Nat.xor (rotr x 1) (rotr x 8)) (x / 2 ^ 7)
    let s1 := let x := w.getD 1 0; Nat.xor (Nat.xor (rotr x 19) (rotr x 61)) (x / 2 ^ 6)
    shaExpand fuel (((s1 + w.getD 6 0 + s0 + w.getD 15 0) % 2 ^ 64) :: w)

/-- One round on the eight working words. -/
def shaRound (v : List Nat) (kw : Nat × Nat) : List Nat :=
  match v with
  | [a, b, c, d, e, f, g, h] =>
    let s1 := Nat.xor (Nat.xor (rotr e 14) (rotr e 18)) (rotr e 41)
    let ch := Nat.xor (Nat.land e f) (Nat.land (2 ^ 64 - 1 - e) g)
    let t1 := (h + s1 + ch + kw.1 + kw.2) % 2 ^ 64
    let s0 := Nat.xor (Nat.xor (rotr a 28) (rotr a 34)) (rotr a 39)
    let mj := Nat.xor (Nat.xor (Nat.land a b) (Nat.land a c)) (Nat.land b c)
    [(t1 + s0 + mj) % 2 ^ 64, a, b, c, (d + t1) % 2 ^ 64, e, f, g]
  | _ => v

/-- One 128-byte block. -/
def shaBlock (hash : List Nat) (block : Bytes) : List Nat :=
  let w := (shaExpand 64 (((chunks 8 16 block).map beNat).reverse)).reverse
  let v := (shaK.zip w).foldl shaRound hash
  (hash.zip v).map fun p => (p.1 + p.2) % 2 ^ 64

/-- SHA-384 of bytes: 48 bytes. -/
def sha384 (b : Bytes) : Bytes :=
  let padded := b ++ [0x80] ++ zeros ((128 - (b.length + 17) % 128) % 128) ++ toBe 16 (8 * b.length)
  let hash := (chunks 128 (padded.length / 128) padded).foldl shaBlock sha384Init
  (hash.take 6).flatMap (toBe 8)

/-- The first 8 bytes of a SHA-384 digest, little-endian, as the short digests of R128 and R220 carry them. -/
def digest64 (b : Bytes) : Nat := le (sha384 b) 0 8

end Sys2Proof.Machine
end

