-- ==== Sys2Proof/Config.lean ====
section
/-! DEFINITION. What one part fixes and the manual does not print, and the free values: constants with no body, so
that no proof can see what they are. A claim that holds for this model holds whatever they are. -/

namespace Sys2Proof.Config

/-- The value the model takes for its n-th draw where the manual states an effect and not the value (log entry 1). -/
opaque freeValue : Nat → BitVec 64

/-- Byte i of the one-time programmable brand record of this part (R401); bytes 4 to 11 are its package serial. -/
opaque brandByte : Nat → Byte

/-- Byte i of measurement 0, the SHA-384 of the boot ROM fixed at manufacture (R397). -/
opaque romMeasureByte : Nat → Byte

/-- Byte i of a public key in the boot ROM: 0 firmware, 1 tack authority, 2 identity authority, 3 debug authority (R394). -/
opaque romKeyByte (key i : Nat) : Byte

/-- The scalar of the device key pair, from the bytes that HKDF gives: R395 names the derivation and does not say how its
bytes give a scalar (log entry 113). -/
opaque scalarOf (material : Bytes) : Nat

/-- Byte i of the key of context 0's own structures, whose derivation the manual does not give (R200, R260, log entry 113). -/
opaque ownKeyByte (i : Nat) : Byte

/-- Byte i of a firmware image of release 1.6.0 from byte 12 on: its length, stage table, stages and signature (R396); in copy
A and in copy B. -/
opaque factoryByte (copyB : Bool) (i : Nat) : Byte

/-- The length of such an image. -/
opaque factoryLength (copyB : Bool) : Nat

/-- Does the range of requester IDs that the host associated with a selective IDE stream of a link, in the IDE Extended Capability,
hold a function (R359, R408)? -/
opaque ideCovers (link stream function : Nat) : Bool

/-- Do the check values of two neighbours' route images agree: R294 has them exchanged and does not say which agree (log entry
107). -/
opaque routesAgree (own peer : Bytes) : Bool

/-- The integer that rounding a value that is no number or infinite gives, in pass 2 of an UPDATE or in an INT8
conversion, which the manual does not state (R153, R176, log entry 91). -/
opaque roundBad (bits : BitVec 32) : Int

/-- The largest of FP32 values among which one is no number, which the manual does not state (R153, log entry 91). -/
opaque maxBad (values : List (BitVec 32)) : BitVec 32

/-- HBM bytes of the working state of a share under a key: of a query (1), shard-search (2), update (3), lookup (4) or step
(5), which the manual charges to its context and does not print (R383, log entry 112). -/
opaque workingBytes (share key : Nat) : Nat

/-- What RELU, GELU, TANH, SIGMOID, EXP and RSQRT (0 to 5) give where no exact result exists: for an argument that is no
number, GELU of −∞ and RSQRT of a negative value (R154, log entry 91). -/
opaque functionBad (function : Nat) (bits : BitVec 32) : BitVec 32

/-- What Ironer emits for a scoring program's feature lookups in one offset of its class's plan, by resource kind, which the
manual does not print (R164): for a number of rows, over a table's shards, of D elements. -/
opaque lookupAmount (offset kind rows shards dim : Nat) : Nat

/-- Byte i of the LDPC parity of a flash codeword's data, whose code the manual does not print (R259). -/
opaque ldpcByte (data : Bytes) (i : Nat) : Byte

/-- The order in which a version's structures enter its digest, which the manual calls fixed and does not print
(R128): it arranges their bytes. -/
opaque arrange : Bytes → Bytes

end Sys2Proof.Config
end

