-- ==== Sys2Proof/Machine/State.lean ====
section
/-! DEFINITION. The state of the node, as plain data: every register, queue, table, counter and pin the manual gives
it, the queue of waiting commands, and the node's outputs. A trailing comment on a field gives what it is, the rule
and file that name it, and its reset value. Resets written DESIGN are the model's own (log entry 2). -/

namespace Sys2Proof.Machine

/-! ## Control plane -/

/-- A control request after it was taken (R366, R368). -/
structure Request where
  func : Nat                      -- issuing function | R341 16 | none waits
  opcode : Nat                    -- opcode, 16 bits | R366 17 | none waits
  context : Nat                   -- context id, 12 bits | R366 17 | none waits
  flags : Nat                     -- header flags, 16 bits | R366 17 | none waits
  tag : Nat                       -- tag, 32 bits | R366 17 | none waits
  stamp : Nat                     -- stride stamp, 64 bits | R366 17 | none waits
  payload : Bytes                 -- payload, inline or fetched | R368 17 | none waits
  replyAddr : Nat                 -- indirect reply address, 64 bits | R362 17 | none waits
  refusal : Option Nat            -- status of the first failed check, if one failed | R370 17 | none waits
  order : Nat                     -- how many requests were taken before it | R378 17 | none waits
  others : Nat                    -- requests outstanding when it was submitted | R372 17 | none waits
  mute : Bool                     -- its function detached since: its reply is discarded | R360 16 | none waits
  deriving DecidableEq, Repr

/-- A reply that waits to be posted (R365, R369). -/
structure Reply where
  opcode : Nat                    -- echoed opcode | R366 17 | none waits
  context : Nat                   -- echoed context | R366 17 | none waits
  tag : Nat                       -- echoed tag | R366 17 | none waits
  status : Nat                    -- status, 16 bits | R380 17 | none waits
  stamp : Nat                     -- stride stamp | R369 17 | none waits
  payload : Bytes                 -- reply payload | R365 17 | none waits
  indirect : Option Nat           -- DMA reply address, with INDIRECT_REPLY | R365 17 | none waits
  order : Nat                     -- how many requests were taken before its request | R378 17 | none waits
  deriving DecidableEq, Repr

/-- A notification (R377). -/
structure Note where
  opcode : Nat                    -- its opcode, or that of the failed request | R377 17 | none queued
  context : Nat                   -- context of the event | R377 17 | none queued
  tag : Nat                       -- tag of the request that began the work, or 0 | R377 17 | none queued
  status : Nat                    -- status | R377 17 | none queued
  stamp : Nat                     -- stride of the event | R369 17 | none queued
  payload : Bytes                 -- up to 64 bytes | R377 17 | none queued
  deriving DecidableEq, Repr

/-- A control mailbox (R362, R363). -/
structure Mailbox where
  area : SMap Byte                -- request header, descriptor, inline payload: 2,048 bytes | R362 17 | DESIGN 0
  ready : Bool                    -- MB_STATUS.READY | R363 17 | 0
  reqFree : Bool                  -- MB_STATUS.REQ_FREE | R363 17 | 0
  submitted : Bool                -- a submitted request waits to be taken | R364 17 | no
  among : Nat                     -- requests outstanding when it was submitted | R372 17 | 0
  replyValid : Bool               -- MB_STATUS.REPLY_VALID | R363 17 | 0
  outstanding : Nat               -- MB_STATUS.OUTSTANDING, 6 bits | R363 17 | 0
  negotiated : Bool               -- the function has negotiated format 2.1 | R372 17 | unnegotiated
  taken : List Request            -- requests that passed the checks and wait for their opcode's processing | R378 17 | none
  replies : List Reply            -- replies ready and not yet posted | R365 17 | none
  replyArea : Bytes               -- reply header and inline reply payload: 1,024 bytes | R362 17 | empty (reads 0)
  noteHead : Word32               -- NOTE_HEAD | R363 17 | 0
  noteTail : Word32               -- NOTE_TAIL | R363 17 | 0
  noteLost : Word32               -- NOTE_LOST | R363 17 | 0
  noteSlots : SMap Bytes          -- 8 notification slots of 96 bytes | R362 17 | empty (read 0)
  noteQueue : List Note           -- queued notifications, up to 1,024 beyond the slots | R377 17 | none
  deriving DecidableEq, Repr

/-- The event a class E reply waits for (R376, R133, R256, R272, R275, R388). -/
inductive Event where
  | ringClosed (ring : Nat)
  | queueDeleted (queue : Nat)
  | objectClosed (object : Nat)
  | paddockDeleted (paddock : Nat)
  | contextClosed (context : Nat)
  | firmwareWritten
  deriving DecidableEq, Repr

/-- A class E request that waits for its event (R378). -/
structure Deferred where
  event : Event                   -- the event its reply waits for | R378 17 | none
  request : Request               -- the request | R378 17 | none
  adopted : Nat                   -- the stride whose commit window adopts it | R369 17 | none
  deriving DecidableEq, Repr

/-- The control and management planes' own state (R16 to R19). -/
structure Control where
  coreDown : Bool                 -- a control core has faulted and its restart runs | R17 01 | no
  coreAt : Nat                    -- stride of the fault | R17 01 | 0
  heldNotes : List (Nat × Note)   -- notifications held during the restart, with their function | R17 01 | none
  turn : Nat                      -- function whose request was taken last | R378 17 | DESIGN 63
  takenCount : Nat                -- requests taken | R378 17 | 0
  serving : Nat                   -- order of the request whose opcode was processed last | R378 17 | 0
  deferred : List Deferred        -- class E requests | R378 17 | none
  mgmtDown : Bool                 -- the management core restarts | R16 01 | no
  heldEvents : List (Nat × Nat × Nat) -- PLDM events that wait for the management core: (kind, subject, stride) | R22 01 | none
  deriving DecidableEq, Repr

/-- One BAR2 aperture's registers (R355). -/
structure Aperture where
  ctl : Word32                    -- AP_CTL: VALID, MODE, CONTEXT | R355 16 | 0
  target : Word32                 -- AP_TARGET: NODE, WINDOW | R355 16 | 0
  base : Word32                   -- AP_BASE: OFFSET_HI | R355 16 | 0
  deriving DecidableEq, Repr

/-- A BAR2 request in flight: its operations' tags, the bytes they cover and what has come back (R356). -/
structure Bar2Request where
  func : Nat                      -- function | R356 16 | none
  kind : Nat                      -- 0 read, 1 write, 2 AtomicOp | R356 16 | none
  address : Nat                   -- BAR2 offset | R356 16 | none
  aperture : Nat                  -- aperture number | R356 16 | none
  pieces : List (Nat × Nat × Nat) -- (operation tag, BAR2 offset, bytes) of each piece, in ascending address | R356 16 | none
  done : SMap Nat                 -- results by operation tag | R356 16 | none
  failed : Option Nat             -- status of the first failed piece | R357 16 | none
  deriving DecidableEq, Repr

/-- An MSI-X table entry but its mask bit (R342): where a vector's message goes and what it says. -/
structure MsixEntry where
  address : Word64                -- message address | R342 16 | DESIGN 0
  data : Word32                   -- message data | R342 16 | DESIGN 0
  deriving DecidableEq, Repr

/-- The registers of one function (R345, R346, R347, R354, R355, R357). -/
structure FuncRegs where
  attached : Bool                 -- attached: its link is up and no detachment stands | R360 16 | no
  busMaster : Bool                -- Bus Master Enable | R360 16 | PRESUMED 0 (PCI Express)
  detachPending : Bool            -- its rings close at the next boundary | R360 16 | no
  intCause : Word32               -- INT_CAUSE | R346 16 | 0
  intMask : Word32                -- INT_MASK | R346 16 | 0x0000_0200
  dbFault : Word32                -- DB_FAULT | R346 16 | 0
  strideHi : Word32               -- STRIDE_HI latch | R347 16 | 0
  apShadow : SMap Aperture        -- aperture registers as last written (RWS shadow) | R355 16 | 0
  apLive : SMap Aperture          -- aperture registers adopted | R355 16 | 0
  apDirty : List Nat              -- apertures written since the last adoption | R8 00 | none
  bar2Err : Word32                -- BAR2_ERR | R357 16 | 0
  bar2ErrAddr : Word64            -- BAR2_ERR_ADDR | R357 16 | 0
  bar2ErrCount : Word32           -- BAR2_ERR_COUNT | R357 16 | 0
  fenceTags : List Nat            -- operation tags a BAR2 fence still waits for | R358 16 | none
  held : List Instr               -- BAR2 requests held behind the fence, oldest first | R358 16 | none
  msixTable : SMap MsixEntry      -- MSI-X table entries written | R342 16 | DESIGN zeros
  msixMask : Word32               -- MSI-X vector mask bits, 32 vectors | R354 16 | PRESUMED 0xFFFF_FFFF (PCI Express)
  msixPending : Word32            -- MSI-X pending bits | R354 16 | PRESUMED 0 (PCI Express)
  deriving DecidableEq, Repr

/-- An IDE key (R408). -/
structure IdeKey where
  stream : Nat                    -- 0 link stream, 1 to 8 selective | R408 19 | none installed
  direction : Nat                 -- 0 receive, 1 transmit | R408 19 | none installed
  set : Nat                       -- key set 0 or 1 | R408 19 | none installed
  sub : Nat                       -- 0 posted, 1 non-posted, 2 completion | R408 19 | none installed
  key : Bytes                     -- 256-bit AES key | R408 19 | none installed
  deriving DecidableEq, Repr

/-- One PCI Express link (R339, R340, R359). -/
structure Link where
  up : Bool                       -- the link is up | R339 16 | down
  rate : Nat                      -- trained rate: 1 to 5 for 2.5, 5, 8, 16 and 32 GT/s, 6 for 64 GT/s in Flit Mode | R339 16 | 0
  lanes : List Nat                -- lanes that the link runs on | R339 16 | none
  numVfs : Nat                    -- VFs enabled | R340 16 | PRESUMED 0 (PCI Express)
  keys : List IdeKey              -- IDE keys installed | R408 19 | none
  insecure : List Nat             -- IDE streams in the insecure state | R359 16 | none
  aer : List Nat                  -- streams whose failed integrity checks AER has reported, oldest first | R359 16 | none
  deriving DecidableEq, Repr

/-- A ring or storage queue with its doorbell registers (R349, R353, R375, R275). -/
structure Ring where
  context : Nat                   -- owning context | R375 17 | none open
  func : Nat                      -- function its context is bound to | R341 16 | none open
  kind : Nat                      -- RING_STATE.KIND 1 query 2 update 3 lookup 4 step 5 storage | R349 16 | 0
  depth : Nat                     -- RING_STATE.DEPTH | R349 16 | 0
  slotSize : Nat                  -- slot size in bytes | R375 17 | none open
  subAddr : Nat                   -- submission ring address | R375 17 | none open
  cplAddr : Nat                   -- completion ring address | R375 17 | none open
  cplSlot : Nat                   -- completion slot size | R375 17 | none open
  vector : Nat                    -- MSI-X vector | R375 17 | none open
  maxK : Nat                      -- largest k | R375 17 | none open
  maxWidth : Nat                  -- largest search width | R375 17 | none open
  descent : Nat                   -- descent limit | R375 17 | none open
  maxDepth : Nat                  -- largest shard depth | R375 17 | none open
  maxM : Nat                      -- largest re-rank count | R375 17 | none open
  shardCap : Nat                  -- re-rank cap per shard | R375 17 | none open
  channelCap : Nat                -- re-rank cap per shard and channel | R375 17 | none open
  linkRounds : Nat                -- linking rounds (update) | R375 17 | none open
  maxShards : Nat                 -- largest shard count | R375 17 | none open
  priority : Nat                  -- storage queue priority 0 to 3 | R275 13 | none open
  cls : Nat                       -- storage class index | R275 13 | none open
  isOpen : Bool                   -- RING_STATE.OPEN: adopted and not closed | R349 16 | 0
  closing : Bool                  -- a close has been adopted: nothing more is admitted | R376 17 | no
  stopped : Bool                  -- its job was torn down: nothing more is admitted | R333 15 | no
  lost : Bool                     -- its function detached: completions are discarded | R360 16 | no
  subTail : Word32                -- SUB_TAIL | R349 16 | 0
  cplHead : Word32                -- CPL_HEAD | R349 16 | 0
  cplTail : Word32                -- CPL_TAIL | R349 16 | 0
  seenTail : Word32               -- SUB_TAIL as it stood at cycle 0 of the present stride | R29 02 | 0
  seenHead : Word32               -- CPL_HEAD as it stood at cycle 0 of the present stride | R351 16 | 0
  admitted : Nat                  -- entries admitted since the ring was opened | R350 16 | 0
  stepped : Nat                   -- entries admitted in the present stride | R29 02 | 0
  reserved : Nat                  -- completion slots reserved and not yet written | R83 04 | 0
  written : List (Nat × Nat × Nat × Bytes) -- completions not yet published: (stride written, admission stride, ring order, entry) | R84 04 | none
  placed : Nat                    -- how many of them, from the first, are in the completion ring | R352 16 | 0
  deriving DecidableEq, Repr

/-! ## Gaits -/

/-- The units a gait uses, a start admitted, or a map names (R41). -/
structure UnitSet where
  tiles : BitVec 96               -- tiles | R41 02 | none
  nmus : BitVec 512               -- near-memory units | R41 02 | none
  sorts : BitVec 16               -- sort units | R41 02 | none
  travs : BitVec 16               -- traversal engines | R41 02 | none
  flash : BitVec 32               -- flash channels | R41 02 | none
  lanes : BitVec 36               -- fabric lanes | R41 02 | none
  ddr : BitVec 12                 -- DDR channels | R41 02 | none
  hbmStacks : BitVec 8            -- stacks | R41 02 | none
  deriving DecidableEq, Repr

/-- A context-table entry (R42). -/
structure GaitContext where
  id : Nat                        -- context id | R42 02 | none
  isolate : Bool                  -- isolation requested | R42 02 | none
  first : Nat                     -- first class | R42 02 | none
  count : Nat                     -- class count | R42 02 | none
  deriving DecidableEq, Repr

/-- A class-table entry (R43). -/
structure GaitClass where
  context : Nat                   -- owner | R43 02 | none
  kind : Nat                      -- kind 1 to 8 | R43 02 | none
  elastic : Bool                  -- elastic flag | R43 02 | none
  len : Nat                       -- plan length L | R43 02 | none
  ring : Nat                      -- ring id, 0xFFFF for none | R43 02 | none
  first : Nat                     -- first plan record | R43 02 | none
  count : Nat                     -- plan record count | R43 02 | none
  deriving DecidableEq, Repr

/-- A plan record (R44). -/
structure PlanRecord where
  cls : Nat                       -- class index | R44 02 | none
  off : Nat                       -- offset d | R44 02 | none
  res : Nat                       -- resource id | R44 02 | none
  amount : Nat                    -- amount | R44 02 | none
  deriving DecidableEq, Repr

/-- A gait as its image describes it (R40). -/
structure Gait where
  id : Nat                        -- gait id, 64 bits | R40 02 | none
  period : Nat                    -- P | R40 02 | none
  code : Nat                      -- stride code | R40 02 | none
  units : UnitSet                 -- unit set | R41 02 | none
  contexts : List GaitContext     -- context table | R42 02 | none
  classes : List GaitClass        -- class table | R43 02 | none
  plans : List PlanRecord         -- plan records | R44 02 | none
  adm : List (List Nat)           -- admission counts, per class and stride index | R44 02 | none
  deriving DecidableEq, Repr

/-- One of the four gait slots (R50): state 0 empty, 1 loaded, 2 staged, 3 running. -/
structure GaitSlot where
  st : Nat                        -- slot state | R50 02 | 0 empty
  gait : Option Gait              -- the gait it holds | R50 02 | none
  stride : Nat                    -- adoption stride or staged E | R50 02 | 0
  isolated : List Nat             -- contexts marked isolated | R49 02 | none
  deriving DecidableEq, Repr

/-- Gait control (R50 to R53) and the weights of storage classes (R276). -/
structure GaitState where
  slots : List GaitSlot           -- slots 0 to 3 | R50 02 | empty
  service : Bool                  -- the built-in service gait runs | R52 02 | no
  mounted : Option UnitSet        -- mounted set of this remount | R52 02 | none yet
  admitted : UnitSet              -- admitted set | R52 02 | none yet
  outgoing : List (Gait × Nat × Nat)  -- earlier gaits whose work may still run: when each was adopted, and replaced | R53 02 | none
  classAdmitted : SMap Nat        -- units admitted this stride, by class (storage: 32 × class + channel + 2^20) | R37 02 | 0
  weights : SMap (List Nat)       -- weights of high, medium, low per storage class | R276 13 | 1, 1, 1
  credits : SMap (List Nat)       -- credits cr[] per storage class | R277 13 | DESIGN 0
  served : SMap Nat               -- queue last served, by 4 × class + level | R277 13 | DESIGN none
  deriving DecidableEq, Repr

/-! ## Contexts and memory -/

/-- A context (R381, R382, R386). -/
structure Context where
  func : Nat                      -- function it is bound to | R382 18 | none open
  st : Nat                        -- 1 open, 2 closing | R387 18 | none open
  hbm : Nat                       -- HBM reservation, bytes | R386 18 | 0
  ddr : Nat                       -- DDR reservation, bytes | R386 18 | 0
  kinds : SMap Nat                -- per-stride reservation by kind | R386 18 | 0
  wrapped : Option Bytes          -- flash key as paddock 0 keeps it, wrapped under the node key | R385 18 | drawn
  flashKey : Option Bytes         -- flash key in the key store, 512 bits | R385 18 | drawn
  ddrKey : Option Bytes           -- DDR key in the key store, 512 bits | R385 18 | drawn
  closedAt : Nat                  -- B + Lmax − 1, when closing: the first stride of its key step | R388 18 | 0
  swept : Bool                    -- objects closed and keys erased | R388 18 | no
  tornAt : Option Nat             -- the boundary at which its job was last torn down | R333 15 | none
  tagFaults : Nat                 -- tag faults since creation | R384 18 | 0
  deriving DecidableEq, Repr

/-- The owner tag of a 1 MiB granule (R383): state 1 owned, 2 scrubbing; an unlisted granule is free. -/
structure Granule where
  owner : Nat                     -- context id | R383 18 | free
  st : Nat                        -- 1 owned, 2 scrubbing | R383 18 | free
  scrubbed : Nat                  -- blocks scrubbed so far | R389 18 | 0
  deriving DecidableEq, Repr

/-- HBM and the owner tags (R183, R201, R383). -/
structure Memory where
  bytes : List Host.Cell          -- HBM bytes by 39-bit address, canonical, unlisted reads 0 | R201 10 | DESIGN 0
  checks : SMap (BitVec 64)       -- check fields that are not the code of their block's data, by block number | R183 08 | all valid
  hbmTags : SMap Granule          -- HBM granule tags by granule number | R383 18 | free
  ddrTags : SMap Granule          -- DDR granule tags by granule number | R383 18 | free
  scrubQueue : List Nat           -- released HBM granules in order of release | R389 18 | none
  ddrChannels : Nat               -- n, the DDR channels admitted | R202 10 | 0
  ddrModule : Nat                 -- DDR bytes per channel | R205 10 | 0
  deriving DecidableEq, Repr

/-- A fabric window (R302). -/
structure Window where
  context : Nat                   -- context | R302 14 | closed
  base : Nat                      -- HBM base | R302 14 | closed
  size : Nat                      -- bytes | R302 14 | closed
  deriving DecidableEq, Repr

/-- A region-table entry (R308). -/
structure Region where
  window : Nat                    -- window | R308 14 | invalid
  owner : Nat                     -- owner node | R308 14 | invalid
  base : Nat                      -- offset in the window | R308 14 | invalid
  length : Nat                    -- bytes | R308 14 | invalid
  deriving DecidableEq, Repr

/-! ## Index and table versions -/

/-- An index or table version (R125): state 1 building, 2 built, 3 current, 4 retained, 5 draining. -/
structure Version where
  num : Nat                       -- version number | R125 05 | none
  st : Nat                        -- state | R125 05 | 0 none
  cut : Nat                       -- cut stride | R127 05 | none
  digest : Nat                    -- digest, 64 bits | R128 05 | none
  cutStep : Nat                   -- cut step of a fold | R253 12 | none
  filled : Bool                   -- filled from paddock 0 in this start | R423 20 | none
  since : Nat                     -- stride at which it became current, 0 if it never was | R131 05 | none
  keepTo : Nat                    -- draining: no query of any node uses it from this boundary on | R131 05 | none
  rows : List Row                 -- the rows of the version on this node | R110 05 | none
  dir : SMap Nat                  -- layer-0 directory: the 8-byte entry of each slot, by shard × 2^40 + slot | R114 05 | 0
  lists : List AdjList            -- its adjacency lists, every layer | R110 05 | none
  replicas : List (Nat × Nat)     -- (user key, replica slot key) pairs | R212 10 | none
  deriving DecidableEq, Repr

/-- A pending update record of a span member (R219): the update record header's fields, its reserved locator, row,
list and back-edge items, and whether the other member's reply is held. -/
structure Pending where
  entryNode : Nat                 -- entry node | R217 11 | none
  ring : Nat                      -- ring id | R217 11 | none
  handle : Nat                    -- update handle | R217 11 | none
  admitAt : Nat                     -- A | R217 11 | none
  sequence : Nat                  -- sequence | R217 11 | none
  context : Nat                   -- context | R217 11 | none
  op : Nat                        -- 1 insert, 2 delete | R217 11 | none
  key : Nat                       -- user key | R217 11 | none
  shard : Nat                     -- shard | R217 11 | none
  updateId : Nat                  -- update id | R217 11 | none
  slot : Nat                      -- reserved slot | R218 11 | none
  gen : Nat                       -- reserved generation | R218 11 | none
  row : Option Row                -- the row of an insert | R218 11 | none
  targets : List (Nat × Nat)      -- its adjacency list | R218 11 | none
  items : List (Nat × Nat)        -- back-edge items: target locators | R219 11 | none
  commit : Nat                    -- K | R219 11 | none
  serving : Bool                  -- this node is the serving member | R216 11 | none
  held : Bool                     -- the other member's reply is held | R219 11 | none
  final : Option Nat              -- final status after resolution | R222 11 | none
  deriving DecidableEq, Repr

/-- An accepted switch not yet due (R130, R254). -/
structure Switch where
  version : Nat                   -- version | R130 05 | none
  stride : Nat                    -- E | R130 05 | none
  digest : Nat                    -- digest | R130 05 | none
  retain : Bool                   -- flag bit 0 | R129 05 | none
  rebase : Bool                   -- flag bit 1: move the training base | R254 12 | none
  go : Bool                       -- go record sent or held | R130 05 | none
  settled : Bool                  -- switched or dropped: it stands until E has passed | R130 05 | no
  request : Request               -- the request, for a failure notification | R377 17 | none
  deriving DecidableEq, Repr

/-- An accepted or running build, compaction or fold (R126, R127, R252, R253). -/
structure Build where
  kind : Nat                      -- 0 build, 1 compaction or fold | R129 05 | none
  version : Nat                   -- version number | R129 05 | none
  cls : Nat                       -- build class | R129 05 | none
  source : Nat                    -- source paddock | R129 05 | none
  count : Nat                     -- record count | R129 05 | none
  cut : Option Nat                -- C, once admitted | R127 05 | none
  status : Nat                    -- ST_OK, or why it will be refused | R126 05 | none
  bad : Nat                       -- first offending record, 0xFFFF_FFFF if none | R129 05 | none
  request : Request               -- the request, for its notification's tag | R377 17 | none
  deriving DecidableEq, Repr

/-- A hot copy (R207). -/
structure HotCopy where
  row : Nat                       -- slot key or row id | R207 10 | none
  stack : Nat                     -- stack of the copy | R209 10 | none
  address : Nat                   -- HBM address | R207 10 | none
  deriving DecidableEq, Repr

/-- A move admitted by a migration class (R227). -/
structure Move where
  row : Nat                       -- slot key or row id | R227 11 | none
  address : Nat                   -- destination HBM address | R227 11 | none
  stack : Nat                     -- destination stack | R209 10 | none
  stride : Nat                    -- N | R227 11 | none
  void : Bool                     -- void | R230 11 | none
  deriving DecidableEq, Repr

/-- A host's pin on a row (R210): the row at the slot, while it is the row of its generation. -/
structure Pin where
  row : Nat                       -- slot key or row id | R210 10 | none
  gen : Nat                       -- generation of an index row | R210 10 | none
  key : Nat                       -- user key or row id that named it | R210 10 | none
  deriving DecidableEq, Repr

/-- Residency settings and state of an object (R207 to R212). -/
structure Residency where
  mask : BitVec 8                 -- stack mask | R208 10 | DESIGN all stacks
  cls : Nat                       -- migration class, 0xFFFF none | R208 10 | DESIGN 0xFFFF
  quota : Nat                     -- quota, bytes | R208 10 | DESIGN 0
  period : Nat                    -- period | R208 10 | DESIGN 16
  moves : Nat                     -- moves per period | R208 10 | DESIGN 0
  hits : SMap Nat                 -- hit counters, 8 bits | R209 10 | 0
  candidates : List Nat           -- candidate table | R209 10 | none
  pins : List Pin                 -- pins of the host | R210 10 | none
  hot : List HotCopy              -- hot copies | R207 10 | none
  chosen : List Nat               -- moves chosen and not yet admitted, in choice order | R209 10 | none
  running : List Move             -- moves of the present stride | R227 11 | none
  demoted : List Nat              -- demotions, whose entries empty at the next boundary | R209 10 | none
  turn : Nat                      -- stack the round robin placed on last | R209 10 | DESIGN 7
  deriving DecidableEq, Repr

/-- An index (R107). -/
structure Index where
  context : Nat                   -- context | R107 05 | none
  dim : Nat                       -- D | R107 05 | none
  width : Nat                     -- code width 0 INT8, 1 INT4 | R107 05 | none
  fp : Nat                        -- full-precision format 1 FP16, 2 BF16 | R107 05 | none
  dists : Nat                     -- distances | R107 05 | none
  buildDist : Nat                 -- build distance | R107 05 | none
  typeA : Nat                     -- field A type | R107 05 | none
  typeB : Nat                     -- field B type | R107 05 | none
  m0 : Nat                        -- layer-0 degree | R107 05 | none
  mu : Nat                        -- upper degree | R107 05 | none
  shift : Nat                     -- level shift b | R107 05 | none
  wb : Nat                        -- build width | R107 05 | none
  db : Nat                        -- build depth | R107 05 | none
  back : Nat                      -- back edges | R107 05 | none
  shards : Nat                    -- shard count N | R107 05 | none
  seed : Nat                      -- seed | R107 05 | none
  slotCap : Nat                   -- slot capacity | R107 05 | none
  deltaCap : Nat                  -- delta capacity | R107 05 | none
  overlayCap : Nat                -- overlay capacity | R107 05 | none
  map : List Nat                  -- shard map | R107 05 | none
  versions : List Version         -- versions | R125 05 | none
  lastNum : Nat                   -- highest version number given | R125 05 | 0
  delta : List Row                -- delta rows committed | R224 11 | none
  deltaLists : List AdjList       -- their adjacency lists | R120 05 | none
  overlays : List Overlay         -- overlay entries | R120 05 | none
  tombs : List Tomb               -- tombstoned rows with their commit stride (the bitmap and its history) | R123 05 | none
  recent : List Tomb              -- recent-delete list | R225 11 | none
  lastGen : SMap Nat              -- last generation of each slot, by shard × 2^40 + slot | R116 05 | 0
  reserved : List Nat             -- slots reserved by inserts, by shard × 2^40 + slot | R116 05 | none
  pending : List Pending          -- pending update records | R219 11 | none
  epoch : Nat                     -- epoch pointer | R222 11 | 0
  switch : Option Switch          -- accepted switch not yet due | R130 05 | none
  tuple : Option (Nat × Nat × Nat) -- partner's switch tuple (version, E, digest) | R130 05 | none
  tupleAt : Nat                   -- stride in which it came | R130 05 | 0
  pair : Option Nat               -- partner's version in force, awaited since E | R130 05 | none
  pairDue : Bool                  -- a pair comparison runs in this stride | R130 05 | no
  build : Option Build            -- accepted or running build | R126 05 | none
  closing : Option Nat            -- adopting boundary of INDEX_CLOSE | R133 05 | none
  resid : Residency               -- residency | R207 10 | see Residency
  replicaList : List Nat          -- replica list | R212 10 | none
  stale : Nat                     -- stale edges skipped since creation | R132 05 | 0
  backDropped : Nat               -- back edges dropped since creation | R132 05 | 0
  deriving DecidableEq, Repr

/-- A table version: number, state and rows (R252). -/
structure TableVersion where
  num : Nat                       -- version number | R252 12 | none
  st : Nat                        -- state, as R125 | R252 12 | none
  cut : Nat                       -- cut stride | R253 12 | none
  digest : Nat                    -- digest | R253 12 | none
  cutStep : Nat                   -- cut step | R253 12 | none
  filled : Bool                   -- filled in this start | R423 20 | none
  keepTo : Nat                    -- draining: no lookup of any node uses it from this boundary on | R131 12 | none
  rows : List TableRow            -- rows held on this node | R234 12 | none
  deriving DecidableEq, Repr

/-- A contribution of a segment (R242, R243); `g` holds FP32 bit patterns. -/
structure Contribution where
  row : Nat                       -- row id | R243 12 | none
  seq : Nat                       -- source sequence | R242 12 | none
  g : List Word32                 -- gradient | R242 12 | none
  deriving DecidableEq, Repr

/-- A participant's segment (R243). -/
structure Segment where
  source : Nat                    -- source node | R243 12 | none
  step : Nat                      -- step number | R243 12 | none
  refused : Bool                  -- REFUSED | R243 12 | none
  lr : Word32                     -- learning rate | R243 12 | none
  contribs : List Contribution    -- contributions | R243 12 | none
  deriving DecidableEq, Repr

/-- A merged row of a step: its gradient, and after the optimiser its update and new state (R244, R245). -/
structure Merged where
  row : Nat                       -- row id | R244 12 | none
  g : List Word32                 -- merged gradient | R244 12 | none
  delta : List Word32             -- update Δ | R245 12 | none
  state : Bytes                   -- new state record | R245 12 | none
  finite : Bool                   -- every d and state value is finite | R245 12 | none
  deriving DecidableEq, Repr

/-- A step on an owner or its partner (R240 to R249). -/
structure Step where
  num : Nat                       -- step number | R240 12 | none
  admitAt : Nat                     -- T | R240 12 | none
  owner : Bool                    -- this node owns the rows | R232 12 | none
  segments : List Segment         -- segments received | R243 12 | none
  merged : List Merged            -- merged rows | R244 12 | none
  lr : Word32                     -- learning rate | R243 12 | none
  dropped : Nat                   -- dropped contributions | R244 12 | none
  void : Option Nat               -- the step is void, with its status | R243 12 | none
  held : Bool                     -- the other member's reply is held | R247 12 | none
  applied : Bool                  -- applied on this member | R247 12 | none
  updated : Nat                   -- rows updated | R249 12 | none
  clipped : Nat                   -- clipped elements | R249 12 | none
  poisoned : List Nat             -- rows poisoned on this member | R248 12 | none
  digest : Nat                    -- own step digest | R249 12 | none
  stage : Nat                     -- 0 gathering, 1 merged, 2 mirrored, 3 applied | R247 12 | none
  exchanged : Bool                -- partner's digest compared | R249 12 | none
  spoiled : Bool                  -- an error in a tile's SRAM spoiled what its optimiser made | R150 07 | no
  peerPoisoned : List Nat         -- rows poisoned on the partner | R248 12 | none
  deriving DecidableEq, Repr

/-- A participant's step entry (R241, R249). -/
structure StepEntry where
  table : Nat                     -- table id | R241 12 | none
  ring : Nat                      -- step ring | R240 12 | none
  order : Nat                     -- ring order | R84 04 | none
  stepId : Nat                    -- step id | R241 12 | none
  num : Nat                       -- step number | R240 12 | none
  admitAt : Nat                     -- T | R240 12 | none
  status : Nat                    -- ST_OK or the refusal | R241 12 | none
  owners : List Nat               -- owners a notice is due from | R249 12 | none
  notices : List (Nat × Nat × Nat × Nat × Nat) -- (owner, flags, rows updated, clipped, dropped) | R249 12 | none
  deriving DecidableEq, Repr

/-- An embedding table (R231). -/
structure Table where
  context : Nat                   -- context | R231 12 | none
  dim : Nat                       -- D | R231 12 | none
  width : Nat                     -- code width | R231 12 | none
  opt : Nat                       -- optimiser | R231 12 | none
  shards : Nat                    -- shard count | R231 12 | none
  seed : Nat                      -- seed | R231 12 | none
  rowCap : Nat                    -- row capacity | R231 12 | none
  areaCap : Nat                   -- update-area capacity | R231 12 | none
  eps : Word32                    -- epsilon | R231 12 | none
  b1 : Word32                     -- beta 1 | R231 12 | none
  b2 : Word32                     -- beta 2 | R231 12 | none
  c1 : Word32                     -- 1 - beta 1, computed at creation | R245 12 | none
  c2 : Word32                     -- 1 - beta 2, computed at creation | R245 12 | none
  map : List Nat                  -- shard map | R231 12 | none
  participants : List Nat         -- participants | R231 12 | none
  versions : List TableVersion    -- versions | R252 12 | none
  lastNum : Nat                   -- highest version number given | R252 12 | 0
  base : Nat                      -- training base, 0 none | R234 12 | 0
  dirty : List TableRow           -- dirty copies of the update area | R234 12 | none
  places : SMap Nat               -- HBM address of each dirty copy, by row id | R234 12 | none
  committed : Nat                 -- committed step count | R249 12 | 0
  started : Nat                   -- number of the last step started | R240 12 | 0
  steps : List Step               -- steps in flight | R240 12 | none
  barrier : List (Bytes × List Nat) -- lookup sub-requests that wait at the apply barrier, with their poisoned rows | R235 12 | none
  switch : Option Switch          -- accepted switch not yet due | R254 12 | none
  tuple : Option (Nat × Nat × Nat) -- partner's switch tuple | R254 12 | none
  tupleAt : Nat                   -- stride in which it came | R254 12 | 0
  pair : Option Nat               -- partner's version in force | R130 05 | none
  pairDue : Bool                  -- a pair comparison runs in this stride | R130 05 | no
  build : Option Build            -- accepted or running build or fold | R252 12 | none
  closing : Option Nat            -- adopting boundary of TABLE_CLOSE | R256 12 | none
  writes : List (Nat × TableRow)  -- TABLE_ROW_WRITE rows by adopting stride | R255 12 | none
  resid : Residency               -- residency | R207 10 | see Residency
  dropped : Nat                   -- dropped contributions since creation | R256 12 | 0
  clippedAll : Nat                -- clipped elements since creation | R256 12 | 0
  updatedAll : Nat                -- updated rows, running total | R250 12 | 0
  lastClipped : Nat               -- clipped count of the last committed step | R250 12 | 0
  lastUpdated : Nat               -- updated count of the last committed step | R250 12 | 0
  deriving DecidableEq, Repr

/-- A layer of a scoring program (R160). -/
structure Layer where
  k : Nat                         -- K | R160 07 | none
  n : Nat                         -- N | R160 07 | none
  format : Nat                    -- weight format | R160 07 | none
  kind : Nat                      -- 0 dense, 1 norm | R160 07 | none
  blob : Bytes                    -- blob | R160 07 | none
  deriving DecidableEq, Repr

/-- An operation of a scoring program (R159). -/
structure ProgOp where
  code : Nat                      -- opcode | R159 07 | none
  mode : Nat                      -- mode or function | R159 07 | none
  a : Nat                         -- source A | R159 07 | none
  b : Nat                         -- source B | R159 07 | none
  c : Nat                         -- source C | R159 07 | none
  dst : Nat                       -- destination | R159 07 | none
  layer : Nat                     -- layer | R159 07 | none
  heads : Nat                     -- heads | R159 07 | none
  width : Nat                     -- width | R159 07 | none
  eps : Word32                    -- epsilon | R159 07 | none
  deriving DecidableEq, Repr

/-- A scoring program (R158). -/
structure Program where
  context : Nat                   -- context | R158 07 | none
  id : Nat                        -- program id | R158 07 | none
  ring : Nat                      -- ring id | R158 07 | none
  slots : Nat                     -- window slots w | R158 07 | none
  flags : Nat                     -- flags | R158 07 | none
  cmax : Nat                      -- candidates per query | R158 07 | none
  featTable : Nat                 -- feature table id | R158 07 | none
  featWidth : Nat                 -- F | R158 07 | none
  ops : List ProgOp               -- operations | R159 07 | none
  layers : List Layer             -- layers | R160 07 | none
  bound : Bool                    -- binding adopted | R165 07 | none
  unbound : Bool                  -- unbinding adopted | R165 07 | none
  window : List Nat               -- layer that each slot of the HBM window holds | R162 07 | none
  channel : Option Nat            -- DDR channel that the plan names for its blobs | R162 07 | none
  cost : List Nat                 -- TILE, DDR_BLOCK, HBM_BLOCK, buffer space | R163 07 | none
  deriving DecidableEq, Repr

/-! ## Work in flight -/

/-- A result or traversal entry (R73, R135): locator and position serve the traversal and the sort. -/
structure Entry where
  key : Nat                       -- user key | R73 03 | none
  flags : BitVec 16               -- entry flags | R74 03 | none
  rank : Nat                      -- rank key, 32 bits | R71 03 | none
  score : Word32                  -- score | R73 03 | none
  slot : Nat                      -- locator slot | R60 03 | none
  gen : Nat                       -- locator generation | R60 03 | none
  shard : Nat                     -- shard it came from | R98 04 | none
  pos : Nat                       -- position in a selection | R136 06 | none
  dups : Nat                      -- duplicate counter, 16 bits | R134 06 | none
  deriving DecidableEq, Repr

/-- A candidate of a shard-search: an entry with its expanded mark (R92). -/
structure Candidate where
  entry : Entry                   -- entry | R92 04 | none
  expanded : Bool                 -- expanded mark | R92 04 | none
  deriving DecidableEq, Repr

/-- The floor of a pass: the last entry output by the pass before (R139, R141). -/
structure Floor where
  rank : Nat                      -- rank key | R139 06 | none
  key : Nat                       -- user key | R139 06 | none
  pos : Nat                       -- position, compared without deduplication | R141 06 | none
  deriving DecidableEq, Repr

/-- A chained selection between its passes (R141, R142). -/
structure Selection where
  out : List Entry                -- entries output so far | R141 06 | none
  boundary : Option Entry         -- boundary entry of the last pass | R144 06 | none
  dups : Nat                      -- duplicate count | R141 06 | 0
  want : Nat                      -- entries still wanted | R141 06 | none
  floor : Option Floor            -- floor of the next pass | R141 06 | none
  excl : List Nat                 -- exclusion set of the next pass | R141 06 | none
  steps : Nat                     -- block steps run | R137 06 | 0
  ended : Bool                    -- no further pass runs | R141 06 | no
  poisoned : Bool                 -- a parity error set POISONED on an entry held | R138 06 | no
  deriving DecidableEq, Repr

/-- A coordinated query (R85 to R103). -/
structure Query where
  ring : Nat                      -- ring id | R85 04 | none
  order : Nat                     -- ring order | R84 04 | none
  cls : Nat                       -- class that admitted it | R84 04 | none
  elastic : Bool                  -- that class is elastic | R38 02 | none
  qid : Nat                       -- query id | R81 04 | none
  index : Nat                     -- index id | R81 04 | none
  context : Nat                   -- context | R85 04 | none
  version : Nat                   -- base version of the snapshot | R86 04 | none
  named : Bool                    -- the version was named | R86 04 | none
  k : Nat                         -- requested k | R81 04 | none
  width : Nat                     -- W | R81 04 | none
  depth : Nat                     -- shard depth | R81 04 | none
  m : Nat                         -- re-rank count | R81 04 | none
  program : Nat                   -- program id | R81 04 | none
  filter : Bytes                  -- filter block | R77 03 | none
  record : Bytes                  -- query record | R68 03 | none
  admitAt : Nat                     -- S | R85 04 | none
  len : Nat                       -- plan length L | R84 04 | none
  descent : Nat                   -- descent limit | R90 04 | none
  shardCap : Nat                  -- re-rank cap per shard | R98 04 | none
  channelCap : Nat                -- re-rank cap per shard and channel | R98 04 | none
  serving : List (Nat × Nat)      -- (shard, serving node) | R89 04 | none
  replies : SMap (List Entry)     -- shard replies held | R98 04 | none
  chain : Option Selection        -- merge selection between its passes | R142 06 | none
  merged : List Entry             -- merged list or re-rank set, in merged-list order | R98 04 | none
  exact : List Entry              -- exact entries received | R101 04 | none
  failed : List (Nat × Nat × Nat) -- items whose exact entry could not be had: (shard, slot, generation) | R105 04 | none
  waiting : List Nat              -- shards whose reply of the present phase is awaited | R105 04 | none
  phase : Nat                     -- 0 traversal, 1 merged, 2 re-rank replies in | R98 04 | none
  flags : BitVec 16               -- header flags gathered | R103 04 | none
  dups : Nat                      -- duplicate count | R146 06 | none
  tie : Bool                      -- TIE_AT_BOUNDARY of the merge | R144 06 | none
  features : List (Nat × List Word32) -- feature rows by user key | R157 07 | none
  featAwait : List Nat            -- shards of the feature table awaited | R157 07 | none
  featPoisoned : List Nat         -- user keys whose feature row was poisoned | R105 04 | none
  late : Bool                     -- stopped at a boundary | R30 02 | none
  deriving DecidableEq, Repr

/-- A shard-search, with the re-rank it later serves (R91 to R101). -/
structure Search where
  cls : Nat                       -- class that admitted it | R91 04 | none
  elastic : Bool                  -- that class is elastic | R38 02 | none
  coord : Nat                     -- coordinating node | R90 04 | none
  handle : Nat                    -- query handle | R90 04 | none
  shard : Nat                     -- shard | R90 04 | none
  admitAt : Nat                     -- S | R90 04 | none
  index : Nat                     -- index id | R90 04 | none
  context : Nat                   -- context | R90 04 | none
  version : Nat                   -- base version | R90 04 | none
  named : Bool                    -- version named | R90 04 | none
  width : Nat                     -- W | R90 04 | none
  depth : Nat                     -- shard depth | R90 04 | none
  descent : Nat                   -- descent limit | R90 04 | none
  filter : Bytes                  -- filter block | R90 04 | none
  record : Bytes                  -- query record | R90 04 | none
  cand : List Candidate           -- candidate list | R92 04 | none
  candSlot : Option Entry         -- its boundary slot, while it has at most 64 entries | R147 06 | none
  result : List Entry             -- result list | R92 04 | none
  resultSlot : Option Entry       -- its boundary slot, likewise | R147 06 | none
  visited : List (Nat × Nat)      -- visited set of locators | R92 04 | none
  fetched : List Nat              -- slots whose adjacency is prefetched, in candidate order | R94 04 | none
  poisoned : Bool                 -- a poisoned input was read | R105 04 | none
  done : Bool                     -- traversal has ended or the list is frozen | R95 04 | none
  items : List (Nat × Nat)        -- re-rank items (slot, generation) | R99 04 | none
  exact : List Entry              -- exact entries computed | R100 04 | none
  detour : Bool                   -- served through the detour path | R105 04 | none
  len : Nat                       -- plan length of its class | R91 04 | none
  roundAt : Nat                   -- stride of its last round | R94 04 | none
  phase : Nat                     -- 0 traversal, 1 replied, 2 records read | R97 04 | none
  deriving DecidableEq, Repr

/-- An update at its entry node (R215, R220). -/
structure EntryUpdate where
  ring : Nat                      -- ring id | R215 11 | none
  order : Nat                     -- ring order | R84 04 | none
  updateId : Nat                  -- update id | R213 11 | none
  admitAt : Nat                     -- A | R215 11 | none
  commit : Nat                    -- K | R216 11 | none
  serving : Nat                   -- serving node | R216 11 | none
  index : Nat                     -- index id | R213 11 | none
  deriving DecidableEq, Repr

/-- An update at its serving member before staging (R216, R218). -/
structure ServedUpdate where
  entryNode : Nat                 -- entry node | R217 11 | none
  ring : Nat                      -- ring id | R217 11 | none
  handle : Nat                    -- handle | R217 11 | none
  admitAt : Nat                     -- A | R217 11 | none
  sequence : Nat                  -- sequence | R217 11 | none
  index : Nat                     -- index id | R217 11 | none
  context : Nat                   -- context | R217 11 | none
  op : Nat                        -- operation | R217 11 | none
  key : Nat                       -- user key | R217 11 | none
  shard : Nat                     -- shard | R217 11 | none
  updateId : Nat                  -- update id | R217 11 | none
  record : Bytes                  -- full-precision record | R217 11 | none
  search : Option Search          -- linking search | R218 11 | none
  rounds : Nat                    -- stride of the last linking round, or of the descent | R218 11 | none
  links : Nat                     -- linking rounds still to make | R218 11 | none
  len : Nat                       -- plan length of the shard-update class | R216 11 | none
  deriving DecidableEq, Repr

/-- A lookup at its coordinating node (R236, R237). -/
structure Lookup where
  ring : Nat                      -- ring id | R236 12 | none
  order : Nat                     -- ring order | R84 04 | none
  cls : Nat                       -- class that admitted it | R84 04 | none
  elastic : Bool                  -- that class is elastic | R38 02 | none
  lookupId : Nat                  -- lookup id | R236 12 | none
  table : Nat                     -- table id | R236 12 | none
  view : Nat                      -- version field: the view | R235 12 | none
  version : Nat                   -- version read | R239 12 | none
  admitAt : Nat                     -- S | R237 12 | none
  len : Nat                       -- plan length | R84 04 | none
  bags : List Nat                 -- bag sizes | R236 12 | none
  pooling : Nat                   -- pooling | R236 12 | none
  format : Nat                    -- output format | R236 12 | none
  address : Nat                   -- result address | R236 12 | none
  rows : List Nat                 -- row ids in entry order | R236 12 | none
  got : List (Nat × List Word32)  -- decoded rows received, by row id | R237 12 | none
  awaiting : List Nat             -- shards awaited | R238 12 | none
  flags : Nat                     -- flags | R239 12 | none
  absent : Nat                    -- absent rows | R239 12 | none
  late : Bool                     -- stopped at a boundary | R30 02 | none
  deriving DecidableEq, Repr

/-- The data-plane work in flight and the request tags (R11, R33, R88). -/
structure Work where
  tags : List Nat                 -- request tags held, 18 bits each | R11 01 | none
  shareTags : Nat                 -- further request tags that shares of this stride hold | R88 04 | 0
  overdue : List Nat               -- work that needs more than its plan's amount, as STRIDE_BOUNDARY names it | R151 07 | none
  queries : SMap Query            -- coordinated queries by handle | R88 04 | none
  searches : SMap Search          -- shard-searches by search key | R91 04 | none
  updates : SMap EntryUpdate      -- entry updates by handle | R216 11 | none
  served : SMap ServedUpdate      -- served updates by update key | R216 11 | none
  lookups : SMap Lookup           -- lookups by handle | R237 12 | none
  steps : List StepEntry          -- own step entries in flight | R241 12 | none
  digests : SMap Nat              -- own commit digests by stride | R220 11 | none
  peerDigests : SMap Nat          -- partner's commit digests by stride | R220 11 | none
  deriving DecidableEq, Repr

/-! ## Storage and flash -/

/-- An earlier write of a unit, under a newer one that is not yet wholly programmed or while its own program is pending (R265,
R281). -/
structure PastWrite where
  data : Bytes                    -- 4,096 bytes | R281 13 | none
  mapped : Bool                   -- the map held it | R264 13 | none
  phys : Nat                      -- the physical unit that holds it | R264 13 | none
  buffered : Bool                 -- its program has not succeeded | R265 13 | none
  sequence : Nat                  -- write sequence | R264 13 | none
  since : Nat                     -- commit stride | R265 13 | none
  group : Nat                     -- units of the write | R264 13 | none
  deriving DecidableEq, Repr

/-- A 4 KiB unit of a paddock (R264, R265): its data, whether the map or the buffer holds it. -/
structure StoredUnit where
  data : Bytes                    -- 4,096 bytes | R263 13 | reads as zeros
  mapped : Bool                   -- map bit 34 | R264 13 | 0
  deferredBit : Bool              -- map bit 35: a deferred error is pending | R264 13 | 0
  phys : Nat                      -- map bits [33:0]: the physical unit | R264 13 | 0
  buffered : Bool                 -- held by the write buffer until its program succeeds | R265 13 | no
  sequence : Nat                  -- write sequence | R264 13 | 0
  since : Nat                     -- commit stride, for the padding timeout | R265 13 | 0
  under : List PastWrite          -- earlier writes that flash or the buffer still holds, newest first | R281 13 | none
  group : Nat                     -- units of the write that it belongs to | R264 13 | 0
  single : Bool                   -- committed with SINGLE since a fence | R336 15 | no
  deriving DecidableEq, Repr

/-- A paddock (R271). -/
structure Paddock where
  context : Nat                   -- owner | R271 13 | none
  mirrored : Bool                 -- flag bit 0 | R271 13 | none
  op : Nat                        -- over-provisioning, percent | R271 13 | none
  share : Nat                     -- buffer share, 256 KiB units | R271 13 | none
  cls : Nat                       -- program class | R271 13 | none
  capacity : Nat                  -- 4 KiB units | R271 13 | none
  st : Nat                        -- 0 not adopted yet, 1 writable, 2 read-only, 3 deleting | R273 13 | none
  units : SMap StoredUnit         -- units that differ from an unwritten one | R264 13 | reads as zeros
  ranges : List (Nat × Nat)       -- deferred ranges not yet reported, oldest first | R282 13 | none
  deriving DecidableEq, Repr

/-- A storage command in flight (R278, R280). -/
structure StorageCommand where
  queue : Nat                     -- queue id | R275 13 | none
  order : Nat                     -- ring order | R84 04 | none
  cmdId : Nat                     -- command id | R278 13 | none
  op : Nat                        -- 1 READ, 2 WRITE, 3 DEALLOCATE | R278 13 | none
  inHbm : Bool                    -- flag bit 0 | R278 13 | none
  paddock : Nat                   -- paddock | R278 13 | none
  start : Nat                     -- start unit | R278 13 | none
  count : Nat                     -- unit count | R278 13 | none
  address : Nat                   -- buffer address | R278 13 | none
  data : List Bytes               -- data of a WRITE, or read by a READ | R280 13 | none
  admitAt : Nat                     -- S | R280 13 | none
  len : Nat                       -- plan length | R84 04 | none
  elastic : Bool                  -- its class is elastic | R38 02 | none
  status : Nat                    -- status so far | R282 13 | none
  errStart : Nat                  -- error start unit | R279 13 | 0
  errCount : Nat                  -- error unit count | R279 13 | 0
  flags : Nat                     -- completion flags | R279 13 | 0
  held : Bool                     -- the partner's reply is held, or none is needed | R274 13 | none
  read : Bool                     -- a READ's units have been read | R280 13 | no
  pages : List (Option Nat)       -- where flash holds a READ's units, as its map lookup found | R280 13 | none
  cached : List (Nat × Nat)       -- units that a READ takes from the buffer, by write sequence | R280 13 | none
  asked : List Nat                -- uncorrectable units of a READ asked of the partner | R283 13 | none
  deriving DecidableEq, Repr

/-- A mirrored write staged for the partner (R274). -/
structure MirroredWrite where
  paddock : Nat                   -- paddock | R274 13 | none
  start : Nat                     -- start unit | R274 13 | none
  data : List Bytes               -- data | R274 13 | none
  commit : Nat                    -- commit stride | R274 13 | none
  held : Bool                     -- the confirm is held | R274 13 | none
  number : Nat                    -- the partner's number of the command | R274 13 | none
  units : Nat                     -- units of a deallocation, 0 for a write | R318 15 | none
  deriving DecidableEq, Repr

/-- An array operation (R258): kind 0 program SLC, 1 program normal, 2 erase. -/
structure ArrayOp where
  kind : Nat                      -- kind | R258 13 | none
  paddock : Nat                   -- paddock of the page or block | R263 13 | none
  block : Nat                     -- target × 2^16 + block: of an erase, or of a program once issued | R263 13 | none
  page : Nat                      -- page of the block, once issued | R263 13 | none
  units : List (Nat × Nat)        -- (unit, write sequence) of the units in the page | R265 13 | none
  move : Bool                     -- a levelling move: the map switches at the boundary after success | R269 13 | none
  cost : Nat                      -- units of target time that it takes, with the reads that suspended it | R258 13 | none
  need : Nat                      -- FLASH_ARRAY units charged before it is issued | R266 13 | none
  cls : Nat                       -- class that charges it; 2^16 + n: share n of context 0 | R36 02 | none
  charged : Nat                   -- units charged so far | R258 13 | 0
  issued : Nat                    -- stride of issue | R258 13 | none
  failed : Option Bool            -- completion status, once complete: failed or not | R265 13 | none
  ended : Nat                     -- stride of completion | R265 13 | none
  tries : Nat                     -- blocks tried | R282 13 | none
  asked : List Nat                -- its units asked of the span partner | R282 13 | none
  deriving DecidableEq, Repr

/-- A temperature log of a scope (R270). -/
structure TempLog where
  max : Int                       -- maximum since manufacture, degrees C | R270 13 | DESIGN 0
  above : List Nat                -- time above thresholds 1 to 3, in cycles | R270 13 | 0
  history : List Nat              -- time in each of 16 bins, in cycles | R270 13 | 0
  deriving DecidableEq, Repr

/-- A flash block (R263, R267, R269). -/
structure Block where
  count : Nat                     -- program/erase count | R269 13 | DESIGN 0
  st : Nat                        -- 0 free, 1 open, 2 closed, 3 retired, 4 levelling destination, 5 awaiting erase | R266 13 | DESIGN free
  paddock : Nat                   -- paddock of its pool; 4,096: of none yet | R263 13 | none
  pages : Nat                     -- pages programmed | R257 13 | 0
  deriving DecidableEq, Repr

/-- A flash channel (R257, R258, R267, R269, R426). -/
structure FlashChannel where
  queues : SMap (List ArrayOp)    -- array operations by target, in issue order | R258 13 | none
  done : SMap (List ArrayOp)      -- completed programs whose status is not read, by target | R265 13 | none
  waiting : List ArrayOp          -- operations whose charges are not complete, in order | R258 13 | none
  blocks : SMap Block             -- blocks by target × 2^16 + block, where not a fresh free block | R263 13 | free, count 0
  spare : Nat                     -- spare blocks remaining | R267 13 | DESIGN 3 % of the population, set by the scan
  levelling : Option Nat          -- block being levelled | R269 13 | none
  reads : Nat                     -- FLASH_OP units used in the present stride | R258 13 | 0
  shares : SMap Nat               -- of them, those of context 0's shares, by share | R36 02 | 0
  own : SMap (Nat × Nat)          -- paddock 0's map: physical page and write sequence by page | R264 13 | none
  staging : Bytes                 -- 64 KiB staging buffer: zeros beyond its length | R262 13 | zeros
  journal : List (Nat × Nat × Nat) -- map changes not yet journalled: paddock, unit, count | R264 13 | none
  corrected : Nat                 -- corrected bits | R261 13 | 0
  retries : Nat                   -- read retries | R261 13 | 0
  uncorrectable : Nat             -- uncorrectable reads | R261 13 | 0
  progFails : Nat                 -- program failures | R270 13 | 0
  eraseFails : Nat                -- erase failures | R270 13 | 0
  deferredErrors : Nat            -- deferred write errors | R282 13 | 0
  programmed : Nat                -- units programmed | R270 13 | 0
  hostUnits : Nat                 -- units written by hosts | R270 13 | 0
  temp : TempLog                  -- its NAND packages' temperatures | R270 13 | see TempLog
  now : Int                       -- hottest NAND package at the last sample, degrees C | R426 21 | DESIGN 0
  deriving DecidableEq, Repr

/-- A checkpoint of the maps (R264). -/
structure MapCheckpoint where
  stride : Nat                    -- stride in which it was written | R264 13 | none
  user : SMap (List (Nat × Nat))  -- user paddocks' map entries by unit | R264 13 | none
  own : SMap (SMap (Nat × Nat))   -- paddock 0's map by channel | R264 13 | none
  deriving DecidableEq, Repr

/-- Flash as a whole (R257, R264, R268, R270, R284). -/
structure Flash where
  targets : Nat                   -- t, targets per channel | R257 13 | DESIGN 8
  dieBlocks : Nat                 -- blocks per die | R257 13 | DESIGN 16,384
  endurance : Nat                 -- rated endurance | R257 13 | DESIGN 10,000
  channels : SMap FlashChannel    -- channels where not fresh | R257 13 | fresh
  paddocks : SMap Paddock         -- user paddocks | R271 13 | none
  commands : SMap StorageCommand  -- storage commands in flight | R280 13 | none
  nextCommand : Nat               -- number of the next command | R280 13 | 0
  mirrored : List MirroredWrite   -- partner's mirrored writes staged | R274 13 | none
  sequence : Nat                  -- write sequence | R264 13 | 0
  readOnly : Bool                 -- read-only mode | R268 13 | no
  readOnlyFrom : Nat              -- boundary from which writes are refused | R268 13 | 0
  readOnlyChannel : Nat           -- channel that entered it | R379 17 | 0
  checkpoints : Nat               -- map checkpoints written | R264 13 | 0
  map : Option MapCheckpoint      -- the last map checkpoint | R264 13 | none
  sampled : Option Nat            -- stride of the last temperature sample | R270 13 | none
  lastStride : Nat                -- last stride recorded in paddock 0 | R418 20 | 0
  temp : TempLog                  -- the node's temperature log: its hottest package | R270 13 | see TempLog
  flushed : Bool                  -- the SLC flush region holds a flush | R284 13 | no
  checkpoint : Option Checkpoint  -- latest remount checkpoint in paddock 0 | R335 15 | none
  deriving DecidableEq, Repr

/-! ## Near-memory units and arbiters -/

/-- A query slot of a unit's query store (R173). -/
structure QuerySlot where
  context : Nat                   -- context of its QLOAD | R173 08 | empty
  image : Bytes                   -- slot image | R173 08 | empty
  poisoned : Bool                 -- a block of the image was poisoned | R186 08 | no
  deriving DecidableEq, Repr

/-- A burst that waits for the gate or runs (R167, R170). -/
structure Burst where
  unit : Nat                      -- unit | R167 08 | none
  kind : Nat                      -- 0 read, 1 write, 2 load | R167 08 | none
  bank : Nat                      -- bank | R167 08 | none
  bytes : Nat                     -- bytes | R167 08 | none
  row : Nat                       -- first block of the locked row, for a write | R179 08 | none
  rowBlocks : Nat                 -- its blocks | R179 08 | none
  last : Bool                     -- last write burst of its row | R179 08 | none
  booked : Bool                   -- its start is booked | R181 08 | no
  slot : Nat                      -- gate slot in which a booked start lies | R181 08 | 0
  blocks : List Nat               -- HBM blocks that it reads or writes, in order | R174 08 | none
  image : Option Bytes            -- what it writes; none: the poison pattern | R186 08 | none
  whole : Bool                    -- load burst of a QLOAD to a whole stack | R169 08 | no
  deriving DecidableEq, Repr

/-- A command that a unit has received and not ended (R178). -/
structure UnitCommand where
  number : Nat                    -- its number among the commands of all units | R178 08 | none
  bytes : Bytes                   -- header, row references and load data | R171 08 | none
  poisoned : Bool                 -- a block of its load data read poison | R186 08 | none
  phase : Nat                     -- 0 waits, 1 loads, 2 reads, 3 writes | R176 08 | 0
  left : Nat                      -- bursts of the phase not yet ended | R167 08 | 0
  completion : Bytes              -- completion to return when the write has ended | R177 08 | none
  clipped : Nat                   -- elements that its write clips | R176 08 | 0
  own : Bool                      -- issued by the training path or the migration engine | R170 08 | no
  move : Option (Nat × Nat)       -- move it belongs to: (object, row) | R229 11 | none
  twin : Option Nat               -- dual UPDATE: status of the writable copy's UPDATE | R230 11 | none
  deriving DecidableEq, Repr

/-- A near-memory unit (R166). -/
structure NmuUnit where
  slots : SMap QuerySlot          -- query store, 8 slots | R166 08 | empty
  burst : Option Burst            -- burst in progress | R167 08 | none
  lock : Option (Nat × Nat)       -- row lock: first HBM block and blocks | R179 08 | none
  rowBuffer : List (Option Bytes) -- blocks read by the running command, none where lost; zeroed at the end of every command | R178 08 | zeros
  commands : List UnitCommand     -- commands received and not ended, oldest first: the head runs | R178 08 | none
  deriving DecidableEq, Repr

/-- A stack's counters (R188, R426). -/
structure StackCounters where
  reads : Nat                     -- read bursts started | R188 08 | 0
  writes : Nat                    -- write bursts started | R188 08 | 0
  loads : Nat                     -- load bursts started | R188 08 | 0
  corrected : Nat                 -- corrected symbols | R188 08 | 0
  uncorrectable : Nat             -- uncorrectable reads | R188 08 | 0
  poisonReads : Nat               -- poison reads | R188 08 | 0
  poisonWritten : Nat             -- poison patterns written | R188 08 | 0
  refused : Nat                   -- refused commands | R188 08 | 0
  byBurst : Nat                   -- accesses delayed by a burst | R188 08 | 0
  byLock : Nat                    -- accesses delayed by a row lock | R188 08 | 0
  longest : Nat                   -- longest row-lock delay of the last stride, cycles | R188 08 | 0
  clipped : Nat                   -- elements clipped | R188 08 | 0
  deriving DecidableEq, Repr

/-- The stacks: units, gates, counters, and the unit commands' records and completions (R166 to R188). -/
structure Nmu where
  units : SMap NmuUnit            -- units where not fresh | R166 08 | empty
  waiting : SMap (List Burst)     -- bursts waiting at each stack's gate, in order of request | R170 08 | none
  granted : SMap Nat              -- starts granted this stride, per stack | R34 02 | 0
  slots : SMap Nat                -- gate slots passed this stride, per stack | R34 02 | 0
  bursts : SMap Nat               -- bursts started this stride, per near-memory unit | R427 21 | 0
  received : Nat                  -- commands received by units | R178 08 | 0
  counters : SMap StackCounters   -- counters per stack | R188 08 | 0
  answers : List (Nat × Bytes)    -- score records and completions returned, by request tag | R171 08 | none
  dieWaiters : List (Nat × Nat × Bool) -- die-class accesses that wait: address, bytes, for a row lock | R180 08 | none
  lockWaiters : List (Nat × Bytes) -- operation records waiting for a row lock or a burst: (256 × class + port, + 2^16 for a lock; record) | R180 08 | none
  deriving DecidableEq, Repr

/-- An arbiter (R189 to R195). -/
structure Arbiter where
  prio : Word32                   -- ARB_PRIO | R194 09 | per R189
  waitLim : List Nat              -- wait limits adopted, slots 0 to 7 | R194 09 | 8
  holdLim : List Nat              -- hold limits adopted, slots 0 to 7 | R194 09 | 8; flash 255
  waitShadow : List Nat           -- wait limits as last written | R194 09 | 8
  holdShadow : List Nat           -- hold limits as last written | R194 09 | 8; flash 255
  flags : Word32                  -- ARB_FLAGS | R194 09 | 0
  strideFlags : Word32            -- flags of the present stride | R195 09 | 0
  waits : List Nat                -- wait counters w[] | R191 09 | DESIGN 0
  reached : List Nat              -- decision at which a wait counter reached its limit, 0 none | R191 09 | DESIGN 0
  decisions : Nat                 -- decisions made | R191 09 | 0
  holder : Option Nat             -- present holder h | R191 09 | DESIGN none
  lastGrant : Nat                 -- slot last granted | R191 09 | DESIGN 7
  forced : Nat                    -- forced wins | R195 09 | 0
  cut : Nat                       -- cut-offs | R195 09 | 0
  longest : List Nat              -- longest wait of each slot in this stride, cycles | R195 09 | 0
  deriving DecidableEq, Repr

/-! ## Sort units and scoring tiles -/

/-- A held register of a sort unit (R134); each entry carries its duplicate counter. -/
structure SortRegister where
  held : List Entry               -- up to 64 entries, in order | R134 06 | DESIGN empty
  slot : Option Entry             -- boundary slot | R134 06 | DESIGN empty
  deriving DecidableEq, Repr

/-- A sort unit (R134). -/
structure SortUnit where
  block : List Entry              -- block register, 64 entries | R134 06 | DESIGN empty
  serving : SortRegister          -- held register of the running step | R134 06 | DESIGN empty
  other : SortRegister            -- the other held register | R134 06 | DESIGN empty
  excl : List Nat                 -- exclusion store, 1,024 user keys | R134 06 | DESIGN empty
  parity : Bool                   -- a parity error set POISONED in the running selection | R138 06 | no
  deriving DecidableEq, Repr

/-- A scoring tile (R148, R149). -/
structure Tile where
  context : Option Nat            -- context whose share it last ran | R149 07 | none
  buffers : SMap (List Word32)    -- buffer space, 1,920 KiB: what a program's share left in each buffer, token by token | R148 07 | DESIGN zeros
  staging : Bytes                 -- weight staging, 128 KiB: what a program's share last loaded | R148 07 | DESIGN zeros
  batchAt : Nat                   -- stride of the program batch that it ran last | R156 07 | DESIGN 0
  batchOf : Nat                   -- program of that batch: 2^16 × context + id | R156 07 | DESIGN 0
  batch : List Nat                -- tokens of the groups in that batch, in the order placed | R156 07 | none
  deriving DecidableEq, Repr

/-! ## The fabric and membership -/

/-- A gate list: (end cycle, gate mask) entries and the weights of classes 4 to 7 (R311). -/
structure GateList where
  entries : List (Nat × Nat)      -- entries; none: every gate open | R311 14 | every gate open
  weights : List Nat              -- weights of classes 4 to 7 | R311 14 | 1
  deriving DecidableEq, Repr

/-- An ingress policer (R313, R314). -/
structure Policer where
  mode : Nat                      -- 0 off, 1 colour-blind, 2 colour-aware | R314 14 | DESIGN off
  cir : Nat                       -- CIR, MB/s | R314 14 | 0
  pir : Nat                       -- PIR, MB/s | R314 14 | 0
  cbs : Nat                       -- CBS, bytes | R314 14 | 0
  pbs : Nat                       -- PBS, bytes | R314 14 | 0
  tc : Nat                        -- tokens of the committed bucket | R313 14 | full at adoption
  tp : Nat                        -- tokens of the peak bucket | R313 14 | full at adoption
  green : Nat                     -- green count | R426 21 | 0
  yellow : Nat                    -- yellow count | R426 21 | 0
  red : Nat                       -- red count | R426 21 | 0
  deriving DecidableEq, Repr

/-- A message or operation record that waits at a port's egress arbiter (R290, R291). -/
structure Leaving where
  cls : Nat                       -- class | R32 02 | none
  header : Option Nat             -- header record; none for classes 3 and 4 | R290 14 | none
  flits : List Bytes              -- flits not yet sent | R291 14 | none
  since : Option Nat              -- first frame that may carry its flits, once announced | R290 14 | none
  deriving DecidableEq, Repr

/-- A message or operation record in a port's ingress buffer (R292, R293, R301). -/
structure Arriving where
  cls : Nat                       -- class | R290 14 | none
  body : Bytes                    -- body in whole flits | R291 14 | none
  left : Nat                      -- flits that frames have not yet brought | R290 14 | none
  stride : Nat                    -- stride that it is attributed to | R301 14 | none
  broken : Bool                   -- a flit was in a discarded frame | R293 14 | none
  refused : Bool                  -- discarded when its header record came | R313 14 | none
  deriving DecidableEq, Repr

/-- A frame sent (R288): the lane of each codeword, and the codewords. -/
structure Frame where
  port : Nat                      -- port | R286 14 | none
  lanes : List Nat                -- lane ids by codeword | R288 14 | none
  codewords : List Codeword       -- codewords | R288 14 | none
  deriving DecidableEq, Repr

/-- A fabric port (R286 to R316). -/
structure Port where
  st : Nat                        -- 0 unused, 1 training, 2 in service, 3 down | R316 14 | 0
  reason : Nat                    -- failure reason | R294 14 | 0
  lanes : BitVec 4                -- lanes in service | R287 14 | 0
  role : Nat                      -- role of the route image | R299 14 | 0
  delay : Nat                     -- one-way delay, 1/16 cycles | R295 14 | 0
  peer : Nat                      -- peer node | R316 14 | 0
  corrected : Nat                 -- corrected codewords | R316 14 | 0
  uncorrectable : Nat             -- uncorrectable codewords | R316 14 | 0
  badNow : Nat                    -- uncorrectable codewords of this stride | R315 14 | 0
  discarded : Nat                 -- messages discarded | R316 14 | 0
  credits : List Nat              -- credits held per class, 0 to 7 | R292 14 | 4,096 each
  freed : List Nat                -- ingress flits freed and not yet returned, per class | R292 14 | 0
  stalls : List Nat               -- credit stalls per class | R426 21 | 0
  sent : List Nat                 -- flits sent per class | R426 21 | 0
  leaving : List Leaving          -- messages and records that wait at the egress arbiter | R291 14 | none
  headerHigh : Option Nat         -- high word of the header record whose low word the last frame carried | R289 14 | none
  frames : Nat                    -- frames sent | R288 14 | 0
  groups : List (Nat × List Bytes) -- groups of the frame being sent: tag and 4 flits | R288 14 | none
  lane : Nat                      -- lane in service, by position, of the next codeword | R288 14 | 0
  deficit : List Nat              -- deficits of classes 4 to 7, by class | R310 14 | 0
  turn : Nat                      -- class of the weighted group last served | R310 14 | DESIGN 7
  headerLow : Option Nat          -- low word of a header record whose high word is due | R289 14 | none
  records : List Word64           -- header records joined and not yet taken | R289 14 | none
  ingress : List Arriving         -- messages and records of the ingress buffer | R292 14 | none
  gate : GateList                 -- gate list in force | R311 14 | every gate open, weights 1
  staged : List (Nat × GateList)  -- staged gate lists by E, rising | R312 14 | none
  policers : SMap Policer         -- policers by class | R314 14 | off
  phase : Int                     -- phase error of the last mark | R297 14 | 0
  marks : Nat                     -- stride of the last mark received | R298 14 | 0
  deriving DecidableEq, Repr

/-- A memory-semantic operation outstanding at its issuer (R303, R307). -/
structure OutOp where
  tag : Nat                       -- operation tag | R303 14 | none
  node : Nat                      -- destination node | R303 14 | none
  window : Nat                    -- destination window | R302 14 | none
  context : Nat                   -- context | R303 14 | none
  cls : Nat                       -- class 3 or 4 | R303 14 | none
  issued : Nat                    -- stride of issue | R307 14 | none
  func : Option Nat               -- issuing function of a BAR2 operation | R356 16 | none
  deriving DecidableEq, Repr

/-- A resendable message of a transport (R293): bulk ingest or storage replication. -/
structure Transport where
  handle : Nat                    -- handle | R293 14 | none
  dest : Nat                      -- destination | R293 14 | none
  cls : Nat                       -- class 5 or 6 | R293 14 | none
  body : Bytes                    -- message | R293 14 | none
  deriving DecidableEq, Repr

/-- The fabric (R286 to R317). -/
structure Fabric where
  ports : List Port               -- nine ports | R286 14 | unused
  root : Nat                      -- stride root | R296 14 | 0
  parent : Nat                    -- primary parent port, 0xFF none | R299 14 | DESIGN 0xFF
  backup : Nat                    -- backup parent port, 0xFF none | R299 14 | DESIGN 0xFF
  depth : Nat                     -- mark depth | R299 14 | 0
  onBackup : Bool                 -- follows the backup parent | R298 14 | no
  routes : SMap Nat               -- route table entries other than 0xF | R299 14 | unreachable
  image : Bytes                   -- route image in force | R299 14 | none
  heldImage : Option Bytes        -- route image held for the next remount | R299 14 | none
  windows : SMap Window           -- windows 1 to 511 | R302 14 | closed
  regions : SMap Region           -- region table | R308 14 | invalid
  ops : List OutOp                -- operations outstanding | R307 14 | none
  requests : List Bar2Request     -- BAR2 requests in flight | R356 16 | none
  classFences : SMap (List Nat)   -- tags a scheduled class's fence waits for | R306 14 | none
  transports : List Transport     -- resendable messages | R293 14 | none
  lost : List (Nat × Nat × Bytes) -- messages and records discarded on arrival: (class, stride, body) | R293 14 | none
  correction : Int                -- correction of the next stride, 1/16 cycles | R297 14 | 0
  longer : Int                    -- by how much the present stride is longer, 1/16 cycles | R297 14 | 0
  toBackup : Bool                 -- it follows its backup parent from the next boundary | R298 14 | no
  wideErrors : Nat                -- successive strides with phase error above 250 cycles | R298 14 | 0
  noMark : Nat                    -- strides without a mark on either parent port | R298 14 | 0
  outStep : Bool                  -- reported out of step | R298 14 | no
  strideIn : Bool                 -- STRIDE_IN edges are followed (root only) | R447 22 | no
  noEdge : Nat                    -- strides without a STRIDE_IN edge | R447 22 | 0
  deriving DecidableEq, Repr

/-- A fence held or adopted (R325). -/
structure Fence where
  subject : Nat                   -- fenced node | R324 15 | none
  reason : Nat                    -- reason | R324 15 | none
  decider : Nat                   -- decider | R324 15 | none
  stride : Nat                    -- decision stride D | R324 15 | none
  own : Bool                      -- decided by this node: its events are already raised | R325 15 | none
  deriving DecidableEq, Repr

/-- What a watcher keeps of a peer (R322). -/
structure Peer where
  lastHeard : Nat                 -- stride of the last heartbeat | R322 15 | 0
  misses : Nat                    -- consecutive misses | R322 15 | 0
  firstMiss : Nat                 -- stride of the first of them | R324 15 | 0
  suspected : Bool                -- suspected | R322 15 | no
  outStep : Bool                  -- its heartbeat had out-of-step set | R324 15 | no
  behind : Nat                    -- consecutive heartbeats with an epoch above ours | R324 15 | 0
  beat : Nat                      -- stride of sending of its last heartbeat | R324 15 | 0
  deriving DecidableEq, Repr

/-- Membership (R321 to R329). -/
structure Membership where
  epoch : Nat                     -- membership epoch | R325 15 | 0
  fenced : List Nat               -- fenced nodes | R338 15 | none
  held : List Fence               -- fence records held and not adopted | R325 15 | none
  seen : List (Nat × Nat × Nat)   -- fence records seen: (subject, decider, D) | R325 15 | none
  repeats : List Fence            -- records this node floods again at D+1 and D+2 | R325 15 | none
  peers : SMap Peer               -- watched peers by node id | R322 15 | none
  accusations : List (Nat × Nat × Nat) -- (subject, watcher, stride received) | R324 15 | none
  vouches : List (Nat × Nat)      -- (subject, stride received) | R324 15 | none
  divergence : Bool               -- a span divergence was raised | R220 11 | no
  heardAny : Nat                  -- stride in which a heartbeat was last heard on any port | R323 15 | 0
  silent : Bool                   -- two strides have passed without a heartbeat | R323 15 | no
  beating : Bool                  -- heartbeats have begun | R420 20 | no
  deriving DecidableEq, Repr

/-! ## Telemetry -/

/-- Counters of the node section (R426). -/
structure NodeCounters where
  overruns : Nat                  -- overruns | R426 21 | 0
  scheduled : Nat                 -- scheduled traffic discarded | R426 21 | 0
  lateReplies : Nat               -- late replies discarded | R426 21 | 0
  tileFixes : Nat                 -- tile SRAM corrections | R426 21 | 0
  tagFaults : Nat                 -- tag faults, all contexts | R426 21 | 0
  residency : Nat                 -- residency overflows | R426 21 | 0
  voidMoves : Nat                 -- void moves | R426 21 | 0
  backDropped : Nat               -- back edges dropped | R426 21 | 0
  stale : Nat                     -- stale edges skipped | R426 21 | 0
  features : Nat                  -- feature rows absent | R426 21 | 0
  millivolts : Nat                -- input voltage, mV | R426 21 | DESIGN 0
  tenths : Nat                    -- input power, 0.1 W | R426 21 | DESIGN 0
  temps : List Int                -- west die, east die, hottest base die, hottest NAND, 1/8 degrees C | R426 21 | DESIGN 0
  deriving DecidableEq, Repr

/-- Counters of a context section (R426). -/
structure ContextCounters where
  admitted : Nat                  -- entries admitted | R426 21 | 0
  published : Nat                 -- completions published | R426 21 | 0
  late : Nat                      -- completions with LATE | R426 21 | 0
  poisoned : Nat                  -- completions with POISONED | R426 21 | 0
  deriving DecidableEq, Repr

/-- An ageing domain's record (R434). -/
structure DomainRecord where
  domain : Nat                    -- domain code | R434 21 | none
  flags : Nat                     -- flags | R434 21 | 0
  worst : Nat                     -- worst instance | R434 21 | 0
  timing : Int                    -- timing margin | R434 21 | 0
  voltage : Int                   -- voltage margin | R434 21 | 0
  guard : Nat                     -- guardband, mV | R434 21 | 0
  retired : Nat                   -- units retired | R434 21 | 0
  life : Nat                      -- projected life, hours | R434 21 | 0
  hours : Nat                     -- power-on hours | R434 21 | 0
  stride : Nat                    -- stride of measurement | R434 21 | 0
  deriving DecidableEq, Repr

/-- One snapshot of the telemetry mirror, and the status figures drawn from it (R21, R425, R426). -/
structure Snapshot where
  first : Nat                     -- stride stamp, first copy | R425 21 | 0
  last : Nat                      -- stride stamp, second copy | R425 21 | 0
  live : Bool                     -- stage 8 entered: the bank does not read zero | R426 21 | no
  select : Word32                 -- TELEM_SELECT in force | R425 21 | 0
  nodeState : Word32              -- NODE_STATE | R425 21 | 0
  node : NodeCounters             -- node section | R426 21 | 0
  hbmStacks : SMap StackCounters  -- stack sections | R426 21 | 0
  arbiters : SMap (Nat × Nat × List Nat) -- arbiter sections: forced, cut, longest waits | R426 21 | 0
  ports : List Port               -- port sections | R426 21 | 0
  flash : SMap FlashChannel       -- flash channel sections | R426 21 | 0
  margins : List DomainRecord     -- margin section | R425 21 | none
  contexts : SMap ContextCounters -- context sections | R426 21 | 0
  faults : SMap Nat               -- context tag faults | R426 21 | 0
  groups : SMap (List Nat)        -- optional groups by select bit | R427 21 | 0
  indexes : SMap (List Nat)       -- INDEX_STATUS counters by id | R132 05 | none
  tables : SMap (List Nat)        -- TABLE_STATUS counters by id | R256 12 | none
  paddocks : SMap (List Nat)      -- PADDOCK_STATUS counters by number | R273 13 | none
  usage : SMap (List Nat)         -- CONTEXT_STATUS figures by id | R387 18 | none
  flashReadOnly : Bool            -- read-only mode | R270 13 | 0
  flashTemp : TempLog             -- the node's temperature log | R270 13 | 0
  overrun : Bool                  -- its publication sets the overrun cause | R30 02 | no
  arbiter : Bool                  -- its publication sets the arbiter cause | R195 09 | no
  readOnly : Option Nat           -- its publication sets the read-only cause, with the channel | R268 13 | none
  deriving DecidableEq, Repr

/-- Telemetry: live counters and the two mirror banks (R21, R425). -/
structure Telemetry where
  node : NodeCounters             -- live node counters | R426 21 | 0
  contexts : SMap ContextCounters -- live context counters | R426 21 | 0
  select : Word32                 -- TELEM_SELECT | R345 16 | 0
  bankA : Snapshot                -- mirror bank A | R425 21 | reads 0
  bankB : Snapshot                -- mirror bank B | R425 21 | reads 0
  publishedB : Bool               -- MIRROR_BANK.PUBLISHED | R347 16 | 0
  stamp : Nat                     -- MIRROR_STAMP | R347 16 | 0
  overrun : Bool                  -- an overrun happened since the last snapshot | R30 02 | no
  dropped : Nat                   -- completions of detached functions discarded | R360 16 | 0
  roSeen : Bool                   -- read-only mode has been shown in a snapshot | R268 13 | no
  deriving DecidableEq, Repr

/-! ## The node as a whole -/

/-- Options of the tack image (R400). -/
structure Tack where
  herd : Nat                      -- herd id | R399 19 | none
  node : Nat                      -- node id | R400 19 | none
  code : Nat                      -- stride code | R400 19 | none
  linkMode : Nat                  -- link mode | R400 19 | 0
  strideIn : Bool                 -- STRIDE_IN enable | R400 19 | 0
  route : Bytes                   -- route image | R400 19 | none
  wearLimit : Nat                 -- wear-level limit | R400 19 | 500
  thresholds : List Nat           -- flash temperature thresholds | R400 19 | 70, 85, 95
  limits : List Nat               -- arbiter limits, 80 bytes, empty where the image sets none | R400 19 | per R194
  deriving DecidableEq, Repr

/-- The unit record and the remount record of the boot area (R335, R414, R433). -/
structure UnitRecord where
  retired : List (Nat × Nat)      -- retirement list: (kind, instance) | R414 20 | DESIGN none
  testList : List (Nat × Nat)     -- test list | R414 20 | DESIGN none
  margins : SMap (List (Int × Nat)) -- (zero-guardband margin, hours) of the last 8 re-plans, by domain | R433 21 | none
  hours : Nat                     -- power-on time, in cycles | R433 21 | DESIGN 0
  trip : Option (Nat × Nat)       -- cause and stride of a protective stop | R436 21 | none
  remount : Option (Nat × Nat × Bytes) -- remount record: (remount id, stride code, route image), unused | R335 15 | none
  plan : List DomainRecord        -- records of the last re-plan | R434 21 | none
  planStride : Nat                -- S0 of the start that made the plan | R434 21 | 0
  retirements : Nat               -- retirements at the last re-plan | R434 21 | 0
  deriving DecidableEq, Repr

/-- A firmware copy of the boot area (R396). -/
structure FwCopy where
  sequence : Nat                  -- sequence number | R396 19 | DESIGN 0
  length : Nat                    -- image length of the copy record | R396 19 | that of its image
  digest : Bytes                  -- SHA-384 of the image in the copy record | R396 19 | that of its image
  image : Bytes                   -- the image | R396 19 | release 1.6.0, bytes the manual does not print free
  deriving DecidableEq, Repr

/-- The node's own registers, pins and start-up (R345, R394 to R424, R436, R443 to R445). -/
structure Node where
  st : Nat                        -- NODE_STATE.STATE | R345 16 | 0
  stage : Nat                     -- NODE_STATE.STAGE | R345 16 | 0
  failure : Nat                   -- NODE_STATE.FAILURE | R345 16 | 0
  id : Nat                        -- NODE_ID.ID | R345 16 | 0
  joined : Bool                   -- NODE_ID.JOINED | R345 16 | 0
  supply : Bool                   -- 52 V in range | R443 22 | DESIGN absent
  resetLow : Bool                 -- RESET_N is low | R443 22 | DESIGN high
  alert : Bool                    -- ALERT_N asserted | R445 22 | no
  railsOn : Bool                  -- internal rails on | R443 22 | off
  stopped : Bool                  -- stopped after a power-fail flush, trip or fence | R284 13 | no
  flushing : Bool                 -- a power-fail flush runs | R284 13 | no
  resetHeld : Bool                -- a RESET_N waits for the flush to end | R444 22 | no
  served : Bool                   -- mailboxes are served | R371 17 | no
  tack : Option Tack              -- tack image accepted | R399 19 | none
  measures : List Bytes           -- measurements 0 to 6 | R397 19 | none
  copyB : Bool                    -- copy B runs | R402 19 | 0
  update : Option (Bool × Bytes)  -- firmware update outstanding: copy B or not, and its image | R404 19 | none
  secret : Bytes                  -- device secret that this start derived | R395 19 | DESIGN none
  copies : FwCopy × FwCopy        -- copies A and B | R396 19 | DESIGN both 1.6.0
  version : Nat                   -- FW_VERSION | R344 16 | 0x0001_0600
  digest : Bytes                  -- FW_DIGEST, 48 bytes | R344 16 | measured at start
  serial : Nat                    -- PKG_SERIAL, 64 bits | R344 16 | brand record (free)
  brand : Bytes                   -- brand record, 336 bytes | R401 19 | brand record (free)
  starts : Nat                    -- starts since 52 V arrived | R402 19 | 0
  unlocks : Nat                   -- unlocks since 52 V arrived | R402 19 | 0
  unlocked : Bool                 -- NODE_FLAGS.DEBUG_UNLOCKED | R345 16 | 0
  scope : Nat                     -- debug scope opened | R406 19 | 0
  challenge : Option Bytes        -- debug challenge outstanding | R406 19 | none
  remountStart : Bool             -- this start was a remount | R402 19 | no
  record : UnitRecord             -- unit record | R414 20 | see UnitRecord
  sweep : List DomainRecord       -- latest in-service margins | R434 21 | none
  draft : List DomainRecord       -- this start's re-plan, the report's from stage 8 on | R434 21 | none
  retiring : Nat                  -- units retired by this start's re-plan | R434 21 | 0
  samples : List Int              -- die and base-die sensors at the last sample, 1/8 degrees C | R436 21 | none
  joins : List (Nat × Nat × Nat)  -- join records held: (node, last stride, serial) | R418 20 | none
  joinClosed : Bool               -- the join has closed | R419 20 | no
  s0 : Nat                        -- S0 | R419 20 | 0
  locked : Bool                   -- locked to the stride marks | R420 20 | no
  trained : List Nat              -- ports with a training result in this start | R417 20 | none
  deriving DecidableEq, Repr

/-- The stride clock (R25, R26, R347). `window` is 0 in the commit window, 1 in the work window, 2 in the drain guard. -/
structure Clock where
  stride : Nat                    -- stride counter, 64 bits | R25 02 | 0
  code : Nat                      -- stride code 1, 2 or 3; 0 before a start sets it | R26 02 | 0
  window : Nat                    -- phase of the stride | R26 02 | 0
  armed : Option (Nat × Nat × Nat) -- armed remount: (R, new stride code, remount id) | R335 15 | none
  remounting : Option (Nat × Nat) -- a remount has begun: (R, Lmax) | R335 15 | none
  checkpointed : Bool             -- the remount checkpoint is written | R335 15 | no
  deriving DecidableEq, Repr

/-- A change accepted by the control plane and due at a boundary (R31). -/
inductive Change where
  | createContext (context func : Nat)
  | closeContext (context : Nat)
  | reserve (context : Nat) (payload : Bytes)
  | openRing (ring : Nat) (data : Ring)
  | closeRing (ring : Nat)
  | residency (object : Nat) (data : Residency)
  | createIndex (id : Nat) (data : Index)
  | createTable (id : Nat) (data : Table)
  | closeObject (id : Nat)
  | bindProgram (key : Nat) (data : Program)
  | unbindProgram (key : Nat)
  | createPaddock (num : Nat) (data : Paddock)
  | deletePaddock (num : Nat)
  | openQueue (queue : Nat) (data : Ring)
  | closeQueue (queue : Nat)
  | weights (cls : Nat) (w : List Nat)
  | window (num : Nat) (data : Option Window)
  | region (num : Nat) (data : Option Region)
  | policer (port cls : Nat) (data : Policer)
  | teardown (context : Nat)
  | release (object version : Nat)
  deriving DecidableEq, Repr

/-- A message sent into the fabric: class, destination (a node id, or 2^15 + port for a port's neighbour), body, and what
the receiver must know of it that the manual places nowhere in the body (log entry 24). -/
structure Sent where
  cls : Nat                       -- class | R32 02 | none
  dest : Nat                      -- destination | R290 14 | none
  body : Bytes                    -- message body or record | R291 14 | none
  aside : Bytes                   -- what travels beside the body | log entry 24 | none
  deriving DecidableEq, Repr

/-- A PCI Express completion returned for a BAR2 request (R357): status 0 data, 1 poisoned data, 2 Completer Abort,
3 Unsupported Request. -/
structure PcieCompletion where
  func : Nat                      -- function | R357 16 | none
  status : Nat                    -- completion status | R357 16 | none
  data : Bytes                    -- data | R356 16 | none
  deriving DecidableEq, Repr

/-- What has left the node, oldest first: the model's record of its outputs (log entry 5). -/
structure Output where
  sent : List Sent                -- fabric messages | R291 14 | none
  frames : List Frame             -- frames sent | R288 14 | none
  dma : List (Nat × Nat × Bytes)  -- DMA writes to hosts: (function, address, bytes) | R352 16 | none
  msix : List (Nat × Nat)         -- MSI-X messages: (function, vector) | R354 16 | none
  pldm : List (Nat × Nat × Nat)   -- PLDM events: (kind, subject, stride) | R428 21 | none
  mctp : List Bytes               -- MCTP replies | R403 19 | none
  pcie : List PcieCompletion      -- BAR2 completions | R357 16 | none
  pulses : Nat                    -- STRIDE_OUT pulses | R448 22 | 0
  deriving DecidableEq, Repr

/-- An accepted change that waits for its adoption (R31). -/
structure Accepted where
  due : Nat                       -- adopting stride | R31 02 | none
  order : Nat                     -- how many requests were taken before the one that asked for it | R378 17 | none
  change : Change                 -- the change | R31 02 | none
  deriving DecidableEq, Repr

/-- The state of the node and the queue of commands that wait, first in, first out. -/
structure State where
  pending : List Instr            -- waiting commands, the model's own queue | the row's cut | empty
  clk : Clock                     -- stride clock | R25 02 | see Clock
  node : Node                     -- node registers and start-up | R345 16 | see Node
  funcs : SMap FuncRegs           -- function registers by global number | R341 16 | see FuncRegs
  links : SMap Link               -- PCI Express links 0 and 1 | R339 16 | see Link
  mbx : SMap Mailbox              -- control mailboxes by function | R362 17 | see Mailbox
  ctl : Control                   -- control and management planes | R19 01 | see Control
  changes : List Accepted         -- accepted changes | R31 02 | none
  gaits : GaitState               -- gaits | R50 02 | see GaitState
  contexts : SMap Context         -- user contexts by id | R381 18 | none
  mem : Memory                    -- HBM, check symbols and owner tags | R201 10 | see Memory
  rings : SMap Ring               -- rings by ring id | R349 16 | none open
  queues : SMap Ring              -- storage queues by id | R353 16 | none open
  indexes : SMap Index            -- indexes by id | R107 05 | none
  tables : SMap Table             -- tables by id | R231 12 | none
  programs : SMap Program         -- scoring programs by context × 2^16 + id | R158 07 | none
  work : Work                     -- work in flight | R88 04 | none
  flash : Flash                   -- flash and storage | R257 13 | see Flash
  sorts : SMap SortUnit           -- sort units 0 to 15 where not fresh | R134 06 | see SortUnit
  tiles : SMap Tile               -- scoring tiles 0 to 95 where not fresh | R148 07 | see Tile
  nmu : Nmu                       -- near-memory units | R166 08 | see Nmu
  arb : SMap Arbiter              -- arbiters that differ from their reset | R189 09 | see Arbiter
  fab : Fabric                    -- fabric | R286 14 | see Fabric
  memb : Membership               -- membership | R321 15 | see Membership
  tel : Telemetry                 -- telemetry | R425 21 | see Telemetry
  out : Output                    -- outputs | log entry 5 | none
  draws : Nat                     -- the model's own counter of free values drawn | log entry 1 | DESIGN 0
  deriving DecidableEq, Repr

/-- Why the node stops on a command. -/
inductive Fault where
  /-- Raised by every meaning when an operand names a function, link, port, stack, unit, channel, arbiter or offset
  that the manual says the node does not have (R10, R189, R286, R341, R343). Safe: no hardware behaviour is lost,
  since no such unit exists to act. -/
  | noSuchUnit
  deriving DecidableEq, Repr

/-- Why a command has no meaning. -/
inductive Refusal where
  /-- Raised only by an arm of exec for a command that has no meaning yet. Safe. -/
  | notModelled (mnemonic : String)
  deriving DecidableEq, Repr

/-! ## Reset

Every field right after power: nothing supplied, nothing started. Where the manual states no value, log entry 2
names the one chosen. -/

/-- A function's registers at reset (R345, R346, R355, R357). -/
def FuncRegs.reset : FuncRegs :=
  { attached := false, busMaster := false, detachPending := false, intCause := 0,
    intMask := 0x200, dbFault := 0, strideHi := 0, apShadow := [], apLive := [], apDirty := [], bar2Err := 0, bar2ErrAddr := 0,
    bar2ErrCount := 0, fenceTags := [], held := [], msixTable := [], msixMask := 0xFFFF_FFFF, msixPending := 0 }

/-- A mailbox at reset (R363). -/
def Mailbox.reset : Mailbox :=
  { area := [], ready := false, reqFree := false, submitted := false, among := 0, replyValid := false, outstanding := 0,
    negotiated := false, taken := [], replies := [], replyArea := [], noteHead := 0, noteTail := 0, noteLost := 0,
    noteSlots := [], noteQueue := [] }

/-- A link at reset. -/
def Link.reset : Link := { up := false, rate := 0, lanes := [], numVfs := 0, keys := [], insecure := [], aer := [] }

/-- A sort unit that has run nothing (log entry 2). -/
def SortUnit.reset : SortUnit :=
  { block := [], serving := { held := [], slot := none }, other := { held := [], slot := none }, excl := [],
    parity := false }

/-- A tile whose SRAM is zeroed and that has run no share (log entry 2). -/
def Tile.reset : Tile := { context := none, buffers := [], staging := [], batchAt := 0, batchOf := 0, batch := [] }

/-- An empty unit set. -/
def UnitSet.none : UnitSet :=
  { tiles := 0, nmus := 0, sorts := 0, travs := 0, flash := 0, lanes := 0, ddr := 0, hbmStacks := 0 }

/-- An empty gait slot. -/
def GaitSlot.empty : GaitSlot := { st := 0, gait := none, stride := 0, isolated := [] }

/-- Residency of an object before its first RESIDENCY_SET (log entry 2). -/
def Residency.reset : Residency :=
  { mask := 0xFF, cls := 0xFFFF, quota := 0, period := 16, moves := 0, hits := [], candidates := [], pins := [],
    hot := [], chosen := [], running := [], demoted := [], turn := 7 }

/-- A gate list before one is adopted: every gate open, every weight 1 (R311). -/
def GateList.reset : GateList := { entries := [], weights := [1, 1, 1, 1] }

/-- A port before training: one credit per flit of the peer's 4,096-flit class buffers (R292). -/
def Port.reset : Port :=
  { st := 0, reason := 0, lanes := 0, role := 0, delay := 0, peer := 0, corrected := 0, uncorrectable := 0,
    badNow := 0, discarded := 0, credits := [4096, 4096, 4096, 4096, 4096, 4096, 4096, 4096],
    freed := [0, 0, 0, 0, 0, 0, 0, 0], stalls := [0, 0, 0, 0, 0, 0, 0, 0], sent := [0, 0, 0, 0, 0, 0, 0, 0],
    leaving := [], headerHigh := none, frames := 0, groups := [], lane := 0, deficit := [0, 0, 0, 0, 0, 0, 0, 0], turn := 7,
    headerLow := none, records := [], ingress := [], gate := GateList.reset, staged := [], policers := [], phase := 0, marks := 0 }

/-- The fabric before a route image is in force. -/
def Fabric.reset : Fabric :=
  { ports := List.replicate 9 Port.reset, root := 0, parent := 0xFF, backup := 0xFF, depth := 0, onBackup := false,
    routes := [], image := [], heldImage := none, windows := [], regions := [], ops := [], requests := [],
    classFences := [], transports := [], lost := [], correction := 0, longer := 0, toBackup := false, wideErrors := 0, noMark := 0,
    outStep := false,
    strideIn := false, noEdge := 0 }

/-- Membership before the join. -/
def Membership.reset : Membership :=
  { epoch := 0, fenced := [], held := [], seen := [], repeats := [], peers := [], accusations := [], vouches := [],
    divergence := false, heardAny := 0, silent := false, beating := false }

/-- Node counters at zero. -/
def NodeCounters.zero : NodeCounters :=
  { overruns := 0, scheduled := 0, lateReplies := 0, tileFixes := 0, tagFaults := 0, residency := 0, voidMoves := 0,
    backDropped := 0, stale := 0, features := 0, millivolts := 0, tenths := 0, temps := [0, 0, 0, 0] }

/-- A temperature log with nothing sampled. -/
def TempLog.zero : TempLog := { max := 0, above := [0, 0, 0], history := List.replicate 16 0 }

/-- A mirror bank that reads zero. -/
def Snapshot.zero : Snapshot :=
  { first := 0, last := 0, live := false, select := 0, nodeState := 0, node := NodeCounters.zero, hbmStacks := [],
    arbiters := [], ports := [], flash := [], margins := [], contexts := [], faults := [], groups := [],
    indexes := [], tables := [], paddocks := [], usage := [], flashReadOnly := false, flashTemp := TempLog.zero,
    overrun := false, arbiter := false, readOnly := none }

/-- Telemetry before the first boundary. -/
def Telemetry.reset : Telemetry :=
  { node := NodeCounters.zero, contexts := [], select := 0, bankA := Snapshot.zero,
    bankB := Snapshot.zero, publishedB := false, stamp := 0, overrun := false, dropped := 0, roSeen := false }

/-- Flash as manufactured: 8 targets of 16,384 blocks per channel, nothing written (log entry 2). -/
def Flash.reset : Flash :=
  { targets := 8, dieBlocks := 16384, endurance := 10000, channels := [], paddocks := [], commands := [],
    nextCommand := 0, mirrored := [], sequence := 0, readOnly := false, readOnlyFrom := 0, readOnlyChannel := 0,
    checkpoints := 0, map := none, sampled := none, lastStride := 0, temp := TempLog.zero, flushed := false,
    checkpoint := none }

/-- The unit record of a part that has never started. -/
def UnitRecord.reset : UnitRecord :=
  { retired := [], testList := [], margins := [], hours := 0, trip := none, remount := none, plan := [],
    planStride := 0, retirements := 0 }

/-- The 336 bytes of the brand record (R401). -/
def brandRecord : Bytes := (List.range 336).map Config.brandByte

/-- The package serial, bytes 4 to 11 of the brand record, little-endian (R4, R401). -/
def packageSerial : Nat :=
  ((List.range 8).map fun i => (Config.brandByte (4 + i)).toNat * 256 ^ i).foldl (· + ·) 0

/-- The firmware image of release 1.6.0 that a part is made with: magic, format, part and version, and free bytes (R2, R344,
R396). -/
def factoryImage (copyB : Bool) : Bytes :=
  toLe 4 0x4D52_4946 ++ toLe 2 1 ++ toLe 2 0x7200 ++ toLe 4 0x0001_0600 ++
    (List.range (Config.factoryLength copyB)).map (Config.factoryByte copyB)

/-- A firmware copy as the part is made (R396). -/
def FwCopy.reset (copyB : Bool) : FwCopy :=
  { sequence := 0, length := (factoryImage copyB).length, digest := sha384 (factoryImage copyB), image := factoryImage copyB }

/-- The node's registers and pins with no supply (R345). -/
def Node.reset : Node :=
  { st := 0, stage := 0, failure := 0, id := 0, joined := false, supply := false, resetLow := false, alert := false,
    railsOn := false, stopped := false, flushing := false, resetHeld := false, served := false, tack := none,
    measures := [], copyB := false, update := none, secret := [],
    copies := (FwCopy.reset false, FwCopy.reset true),
    version := 0x0001_0600, digest := [], serial := packageSerial, brand := brandRecord, starts := 0, unlocks := 0,
    unlocked := false, scope := 0, challenge := none, remountStart := false, record := UnitRecord.reset, sweep := [],
    draft := [], retiring := 0,
    samples := [], joins := [], joinClosed := false, s0 := 0, locked := false, trained := [] }

/-- The state right after reset: every register at its reset value, no unit started, no command waiting. -/
def State.reset : State :=
  { pending := [],
    clk := { stride := 0, code := 0, window := 0, armed := none, remounting := none, checkpointed := false },
    node := Node.reset, funcs := [], links := [], mbx := [],
    ctl := { coreDown := false, coreAt := 0, heldNotes := [], turn := 63, takenCount := 0, serving := 0, deferred := [],
             mgmtDown := false, heldEvents := [] },
    changes := [],
    gaits :=
      { slots := [GaitSlot.empty, GaitSlot.empty, GaitSlot.empty, GaitSlot.empty], service := false, mounted := none,
        admitted := UnitSet.none, outgoing := [], classAdmitted := [], weights := [], credits := [], served := [] },
    contexts := [],
    mem :=
      { bytes := [], checks := [], hbmTags := [], ddrTags := [], scrubQueue := [], ddrChannels := 0, ddrModule := 0 },
    rings := [], queues := [], indexes := [], tables := [], programs := [],
    work :=
      { tags := [], shareTags := 0, overdue := [], queries := [], searches := [], updates := [], served := [], lookups := [],
        steps := [], digests := [],
        peerDigests := [] },
    flash := Flash.reset, sorts := [], tiles := [],
    nmu := { units := [], waiting := [], granted := [], slots := [], bursts := [], received := 0, counters := [], answers := [],
             dieWaiters := [], lockWaiters := [] },
    arb := [], fab := Fabric.reset, memb := Membership.reset, tel := Telemetry.reset,
    out := { sent := [], frames := [], dma := [], msix := [], pldm := [], mctp := [], pcie := [], pulses := 0 }, draws := 0 }

end Sys2Proof.Machine
end

