-- ==== Sys2Proof/Machine/Ops.lean ====
section
/-! DEFINITION. The operations that meanings share: the guard of every command, the outputs, interrupt causes and
MSI-X, mailboxes' replies and notifications, HBM bytes, tags, counters, scheduled changes and free values. -/

namespace Sys2Proof.Machine

/-- The status codes of R380. -/
abbrev stOk : Nat := 0x0000
/-- ST_PENDING -/
abbrev stPending : Nat := 0x0001
/-- ST_BAD_FORMAT_VERSION -/
abbrev stBadFormat : Nat := 0x0010
/-- ST_BAD_OPCODE -/
abbrev stBadOpcode : Nat := 0x0011
/-- ST_BAD_LENGTH -/
abbrev stBadLength : Nat := 0x0012
/-- ST_BAD_CHECK -/
abbrev stBadCheck : Nat := 0x0013
/-- ST_BAD_VALUE -/
abbrev stBadValue : Nat := 0x0014
/-- ST_NO_CONTEXT -/
abbrev stNoContext : Nat := 0x0020
/-- ST_NOT_OWNER -/
abbrev stNotOwner : Nat := 0x0021
/-- ST_NOT_PERMITTED -/
abbrev stNotPermitted : Nat := 0x0022
/-- ST_NO_VERSION -/
abbrev stNoVersion : Nat := 0x0024
/-- ST_KEY_EXISTS -/
abbrev stKeyExists : Nat := 0x0025
/-- ST_NO_KEY -/
abbrev stNoKey : Nat := 0x0026
/-- ST_DOES_NOT_FIT -/
abbrev stDoesNotFit : Nat := 0x0030
/-- ST_NO_RESOURCE -/
abbrev stNoResource : Nat := 0x0031
/-- ST_NOT_UNTIL_REMOUNT -/
abbrev stNotUntilRemount : Nat := 0x0032
/-- ST_TOO_LATE -/
abbrev stTooLate : Nat := 0x0033
/-- ST_MEDIA_ERROR -/
abbrev stMediaError : Nat := 0x0040
/-- ST_READ_ONLY -/
abbrev stReadOnly : Nat := 0x0041
/-- ST_DEFERRED_WRITE_ERROR -/
abbrev stDeferredWrite : Nat := 0x0042
/-- ST_TARGET_LOST -/
abbrev stTargetLost : Nat := 0x0050
/-- ST_JOB_TORN_DOWN -/
abbrev stJobTornDown : Nat := 0x0051
/-- ST_POISONED -/
abbrev stPoisoned : Nat := 0x0060
/-- ST_AUTH_FAILED -/
abbrev stAuthFailed : Nat := 0x0080
/-- ST_INTERNAL -/
abbrev stInternal : Nat := 0x00F0

/-- Every meaning ends here: the effect where the operands name units the node has, else the fault (R10). -/
def guarded (ok : Bool) (eff : State → State) (s : State) : Host.Outcome State Fault Refusal :=
  if ok then .next (eff s) else .fault .noSuchUnit

/-! ## The functions and links (R339 to R341) -/

/-- The link mode the tack image sets. -/
def State.linkMode (s : State) : Nat := (s.node.tack.map (·.linkMode)).getD 0

/-- Functions 0 to 63 exist (R341). -/
def funcOk (f : Nat) : Bool := f < 64

/-- The link of a function. -/
def State.linkOf (s : State) (f : Nat) : Nat := if s.linkMode = 1 then f / 32 else 0

/-- Is `f` the PF of its link? -/
def State.isPf (s : State) (f : Nat) : Bool := f = 0 || (s.linkMode = 1 && f = 32)

/-- The PFs, whose mailboxes take node-wide events (R377). -/
def State.pfs (s : State) : List Nat := if s.linkMode = 1 then [0, 32] else [0]

/-- The functions of a link. -/
def State.linkFuncs (s : State) (link : Nat) : List Nat :=
  if s.linkMode = 1 then (List.range 32).map (· + 32 * link) else if link = 0 then List.range 64 else []

/-- Links that the mode gives the node. -/
def State.hasLink (s : State) (link : Nat) : Bool := link = 0 || (link = 1 && s.linkMode = 1)

/-- Registers of function `f`. -/
def State.func (s : State) (f : Nat) : FuncRegs := SMap.getD s.funcs f FuncRegs.reset

/-- Change the registers of function `f`. -/
def State.modFunc (s : State) (f : Nat) (g : FuncRegs → FuncRegs) : State :=
  { s with funcs := SMap.set s.funcs f (g (s.func f)) }

/-- Mailbox of function `f`. -/
def State.mailbox (s : State) (f : Nat) : Mailbox := SMap.getD s.mbx f Mailbox.reset

/-- Change the mailbox of function `f`. -/
def State.modMailbox (s : State) (f : Nat) (g : Mailbox → Mailbox) : State :=
  { s with mbx := SMap.set s.mbx f (g (s.mailbox f)) }

/-- The link's own state. -/
def State.link (s : State) (l : Nat) : Link := SMap.getD s.links l Link.reset

/-- Change a link's own state. -/
def State.modLink (s : State) (l : Nat) (g : Link → Link) : State :=
  { s with links := SMap.set s.links l (g (s.link l)) }

/-- May function `f` issue DMA (R360)? -/
def State.dmaOk (s : State) (f : Nat) : Bool := (s.func f).attached && (s.func f).busMaster

/-! ## Outputs -/

/-- The route of node `n`: an egress port, 0xE this node, 0xF unreachable (R299). -/
def State.routeOf (s : State) (n : Nat) : Nat := SMap.getD s.fab.routes n 0xF

/-- Add to one entry of a list of counters. -/
def addAt (l : List Nat) (i n : Nat) : List Nat := l.set i (l.getD i 0 + n)

/-- Change a port. -/
def State.modPort (s : State) (p : Nat) (g : Port → Port) : State :=
  { s with fab := { s.fab with ports := s.fab.ports.modify p g } }

/-- Do the messages of a class have header records: every class but 3 and 4, of operation records (R290, R291)? -/
def announced (cls : Nat) : Bool := cls ≠ 3 && cls ≠ 4

/-- A body padded with zero bytes to whole flits (R291). -/
def wholeFlits (b : Bytes) : Bytes := fit (64 * ceilDiv b.length 64) b

/-- The flits of a body (R291). -/
def flitsOf (b : Bytes) : List Bytes := (List.range (ceilDiv b.length 64)).map fun i => fit 64 (b.drop (64 * i))

/-- The header record of a message of `flits` flits from its source: green, no router passed (R290). -/
def headerRecord (flits dest cls source : Nat) : Nat :=
  flits % 2 ^ 16 + dest % 2 ^ 15 * 2 ^ 16 + cls % 8 * 2 ^ 31 + source % 2 ^ 15 * 2 ^ 34

/-- A message of a class, with its header record, or an operation record goes to a port's egress queue, from which its arbiter
sends it (R291, R310). -/
def Port.sends (p : Port) (cls header : Nat) (body : Bytes) : Port :=
  { p with leaving := p.leaving ++ [{ cls := cls, header := if announced cls then some header else none, flits := flitsOf body,
                                      since := if announced cls then none else some 0 }] }

/-- Flits of a class queued at a port (R310). -/
def Port.queued (p : Port) (cls : Nat) : Nat := sumNat ((p.leaving.filter fun x => x.cls = cls).map fun x => x.flits.length)

/-- Record a message as sent. -/
def State.emit (s : State) (cls dest : Nat) (body aside : Bytes) : State :=
  { s with out := { s.out with sent := s.out.sent ++ [{ cls := cls, dest := dest, body := body, aside := aside }] } }

/-- Is a node fenced in this node's membership state? -/
def State.isFenced (s : State) (n : Nat) : Bool := s.memb.fenced.contains n

/-- Is a port open to traffic: in service, and its peer not fenced (R315, R328)? -/
def State.portOpen (s : State) (p : Nat) : Bool :=
  let x := s.fab.ports.getD p Port.reset
  x.st = 2 && !s.isFenced x.peer

/-- Send a fabric message or record of class `cls` to node `dest`: discarded and counted where the node is unreachable, or its
route's port is down or leads through a fenced node (R300, R315, R328). A message to this node crosses no port. The transports
of classes 5 and 6 keep it for a resend (R293). `aside` is what the receiver must know of it beside its body (log entry 24).
-/
def State.sendWith (s : State) (cls dest : Nat) (body aside : Bytes) : State :=
  let r := s.routeOf dest
  if dest = s.node.id then s.emit cls dest body aside
  else if !s.portOpen r then
    { s with tel := { s.tel with node := { s.tel.node with scheduled := s.tel.node.scheduled + 1 } } }
  else
    let s1 := (s.modPort r fun p => p.sends cls (headerRecord (ceilDiv body.length 64) dest cls s.node.id) body).emit cls dest
      body aside
    if cls = 5 ∨ cls = 6 then
      { s1 with fab := { s1.fab with
          transports := s1.fab.transports ++ [{ handle := s1.fab.transports.length, dest := dest, cls := cls, body := body }] } }
    else s1

/-- Send a message that its body says whole. -/
def State.send (s : State) (cls dest : Nat) (body : Bytes) : State := s.sendWith cls dest body []

/-- Send a message to the neighbour on a port: destination 2^15 + port, and the peer in its header record. -/
def State.sendPort (s : State) (cls port : Nat) (body : Bytes) : State :=
  (s.modPort port fun p =>
    p.sends cls (headerRecord (ceilDiv body.length 64) p.peer cls s.node.id) body).emit cls (2 ^ 15 + port) body []

/-! ## Ingress -/

/-- Count a message or record discarded on a port (R316). -/
def State.discard (s : State) (p n : Nat) : State := s.modPort p fun x => { x with discarded := x.discarded + n }

/-- Scheduled traffic discarded (R426). -/
def State.scheduledLost (s : State) : State :=
  { s with tel := { s.tel with node := { s.tel.node with scheduled := s.tel.node.scheduled + 1 } } }

/-- Flits leave a class's ingress buffer: their credits are freed; class 0 has none (R292). -/
def Port.frees (p : Port) (cls flits : Nat) : Port := if cls = 0 then p else { p with freed := addAt p.freed cls flits }

/-- Messages and records that were discarded on arrival: what would deliver one of them has no effect (R293). -/
def State.lose (s : State) (cls : Nat) (body : Bytes) : State :=
  { s with fab := { s.fab with lost := s.fab.lost ++ [(cls, s.clk.stride, body)] } }

/-- Is an entry of the ingress buffer the message of a class with a body? -/
def Arriving.holds (x : Arriving) (cls : Nat) (body : Bytes) : Bool := x.cls = cls && !x.refused && x.body = body

/-- A message of classes 1 to 3 whose last flit comes after the end of the stride that it is attributed to is late (R301). -/
def Arriving.late (x : Arriving) (stride : Nat) : Bool := decide (1 ≤ x.cls ∧ x.cls ≤ 3 ∧ x.left ≠ 0 ∧ x.stride < stride)

/-- A message or record of a class reaches the engine or router that takes it: one discarded on arrival has no effect (R293,
R301, R313); one of the ingress buffer leaves it; one of which nothing was announced is taken as it is given, and discarded and
counted where the node it came from is fenced (R328). Is it taken, and the state that its receiver works on. -/
def State.arrival (s : State) (cls source : Nat) (message : Bytes) : Bool × State :=
  let body := wholeFlits message
  match s.fab.lost.find? fun l => l.1 = cls && l.2.2 = body with
  | some l => (false, { s with fab := { s.fab with lost := s.fab.lost.erase l } })
  | none =>
    match (List.range 9).findSome? fun p =>
      ((s.fab.ports.getD p Port.reset).ingress.find? fun x => x.holds cls body).map fun x => (p, x) with
    | none => if source ≠ s.node.id && s.isFenced source then (false, s.scheduledLost) else (true, s)
    | some (p, x) =>
      let t := s.modPort p fun y => { y.frees cls (ceilDiv body.length 64) with ingress := y.ingress.erase x }
      if x.late s.clk.stride then (false, (t.discard p 1).scheduledLost) else (true, t)

/-- What a message or record does as it reaches its receiver: the receiver's effect, where it is taken. -/
def State.arrives (s : State) (cls source : Nat) (message : Bytes) (take : State → State) : State :=
  let (taken, t) := s.arrival cls source message
  if taken then take t else t

/-- Write to a host through function `f`; discarded where the function may issue no DMA (R360). -/
def State.dma (s : State) (f address : Nat) (body : Bytes) : State :=
  if s.dmaOk f then { s with out := { s.out with dma := s.out.dma ++ [(f, address, body)] } } else s

/-- Raise MSI-X vector `v` of function `f`: sent, or pending while masked; never sent while detached (R354, R360). -/
def State.vector (s : State) (f v : Nat) : State :=
  if (s.func f).attached then
    if bitOf (s.func f).msixMask.toNat v then
      s.modFunc f fun r => { r with msixPending := r.msixPending ||| BitVec.ofNat 32 (2 ^ v) }
    else { s with out := { s.out with msix := s.out.msix ++ [(f, v)] } }
  else s

/-- A PLDM event: delivered, or held while the management core restarts (R22). -/
def State.pldm (s : State) (kind subject stride : Nat) : State :=
  if s.ctl.mgmtDown then { s with ctl := { s.ctl with heldEvents := s.ctl.heldEvents ++ [(kind, subject, stride)] } }
  else { s with out := { s.out with pldm := s.out.pldm ++ [(kind, subject, stride)] } }

/-- Answer over MCTP: the management core serves it from the end of stage 2 (R412), not while it restarts. -/
def State.mctpReply (s : State) (body : Bytes) : State :=
  if s.ctl.mgmtDown || !s.node.served then s else { s with out := { s.out with mctp := s.out.mctp ++ [body] } }

/-- A PCI Express completion for function `f`. -/
def State.pcie (s : State) (f status : Nat) (data : Bytes) : State :=
  { s with out := { s.out with pcie := s.out.pcie ++ [{ func := f, status := status, data := data }] } }

/-! ## Interrupt causes (R346) -/

/-- The causes by bit. -/
abbrev causeReply : Nat := 0
/-- MBOX_NOTIFY -/
abbrev causeNotify : Nat := 1
/-- MEMBERSHIP -/
abbrev causeMembership : Nat := 2
/-- OVERRUN -/
abbrev causeOverrun : Nat := 3
/-- ARBITER -/
abbrev causeArbiter : Nat := 4
/-- READ_ONLY -/
abbrev causeReadOnly : Nat := 5
/-- DOORBELL_FAULT -/
abbrev causeDoorbell : Nat := 6
/-- HOST_POISON -/
abbrev causePoison : Nat := 7
/-- BAR2_ERROR -/
abbrev causeBar2 : Nat := 8
/-- MIRROR -/
abbrev causeMirror : Nat := 9
/-- PEER_LINK -/
abbrev causePeer : Nat := 10

/-- Set cause `bit` of function `f`; vector 0 is raised when it goes from clear to set while unmasked (R346). A
detached function's registers stay at reset (R360). -/
def State.cause (s : State) (f bit : Nat) : State :=
  let r := s.func f
  if r.attached then
    let s' := s.modFunc f fun r => { r with intCause := r.intCause ||| BitVec.ofNat 32 (2 ^ bit) }
    if bitOf r.intCause.toNat bit || bitOf r.intMask.toNat bit then s' else s'.vector f 0
  else s

/-- Set a PF cause in every PF. -/
def State.pfCause (s : State) (bit : Nat) : State := s.pfs.foldl (fun s f => s.cause f bit) s

/-! ## The stride clock -/

/-- The current stride. -/
def State.stride (s : State) : Nat := s.clk.stride

/-- Is the node ready (R371)? -/
def State.ready (s : State) : Bool := s.node.st = 1

/-- Does the data plane run: joined the herd and neither stopped, fenced nor failed (R329, R371)? -/
def State.running (s : State) : Bool :=
  !s.node.stopped && ((s.node.st = 0 && s.node.stage ≥ 9) || s.node.st = 1 || s.node.st = 4)

/-- The stride whose commit window adopts a change accepted now (R8, R31). -/
def State.nextBoundary (s : State) : Nat := s.clk.stride + 1

/-- Queue a change for the next boundary (R31), in the order of the request that asks for it (R378). -/
def State.schedule (s : State) (c : Change) : State :=
  { s with changes := s.changes ++ [{ due := s.nextBoundary, order := s.ctl.serving, change := c }] }

/-! ## Messages (R365 to R369, R377) -/

/-- Header flag bits. -/
def flagsOf (reply note : Bool) : Nat := bit01 reply + 2 * bit01 note

/-- A 32-byte header of format 2.1 with its check over the payload (R366, R367). -/
def header (opcode context flags tag length stamp status : Nat) (payload : Bytes) : Bytes :=
  let h := [2, 1] ++ toLe 2 opcode ++ toLe 2 context ++ toLe 2 flags ++ toLe 4 tag ++ toLe 4 length ++ toLe 8 stamp ++
    toLe 4 status
  h ++ toLe 4 (crc32c (h ++ payload))

/-- The stamp of a reply that adopts no change: it gets the stride of its writing (R369). -/
abbrev unstamped : Nat := 0

/-- Queue the reply to a request; a request of a function detached since has none (R360, R378). -/
def State.reply (s : State) (q : Request) (status stamp : Nat) (payload : Bytes) : State :=
  if q.mute then s else s.modMailbox q.func fun m =>
    { m with
      replies := m.replies ++
        [{ opcode := q.opcode, context := q.context, tag := q.tag, status := status, stamp := stamp,
           payload := payload, indirect := if bitOf q.flags 3 then some q.replyAddr else none, order := q.order }] }

/-- Notifications that a mailbox holds before one is discarded: those its free slots take, and 1,024 more (R377). -/
def Mailbox.noteRoom (m : Mailbox) : Nat := 8 - (m.noteTail - m.noteHead).toNat + 1024

/-- A notification is queued, or, where no room is left, discarded and counted (R377). -/
def Mailbox.queueNote (m : Mailbox) (n : Note) : Mailbox :=
  if m.noteQueue.length < m.noteRoom then { m with noteQueue := m.noteQueue ++ [n] }
  else { m with noteLost := if m.noteLost = 0xFFFF_FFFF then m.noteLost else m.noteLost + 1 }

/-- Queue a notification for function `f` (R377); held while a control core restarts (R17); a detached function's
mailbox takes none (R360). -/
def State.note (s : State) (f opcode context tag status stamp : Nat) (payload : Bytes) : State :=
  let n : Note := { opcode := opcode, context := context, tag := tag, status := status, stamp := stamp,
                    payload := payload.take 64 }
  if s.ctl.coreDown then { s with ctl := { s.ctl with heldNotes := s.ctl.heldNotes ++ [(f, n)] } }
  else if (s.mailbox f).ready then s.modMailbox f fun m => m.queueNote n
  else s

/-- A node-wide notification: function 0, and function 32 in link mode 1 (R377). -/
def State.noteNode (s : State) (opcode status stamp : Nat) (payload : Bytes) : State :=
  s.pfs.foldl (fun s f => s.note f opcode 0 0 status stamp payload) s

/-- The function of a context. -/
def State.funcOf (s : State) (context : Nat) : Nat := ((SMap.find? s.contexts context).map (·.func)).getD 0

/-- A notification that an accepted request failed later: the first 64 bytes of its payload (R377). -/
def State.noteFailed (s : State) (q : Request) (status stamp : Nat) : State :=
  s.note q.func q.opcode q.context q.tag status stamp q.payload

/-! ## HBM bytes: sparse, canonical, unlisted bytes read 0 (log entry 6) -/

/-- What a byte of memory that nothing has written reads as. -/
def memDefault : Byte := 0

/-- Read one byte. -/
def readByte (m : List Host.Cell) (a : Nat) : Byte := SMap.getD m a memDefault

/-- Write one byte; a byte equal to the default is not listed. -/
def writeByte (m : List Host.Cell) (a : Nat) (v : Byte) : List Host.Cell :=
  if v = memDefault then SMap.erase m a else SMap.set m a v

/-- Read `n` bytes from `a` up. -/
def readBytes (m : List Host.Cell) (a n : Nat) : Bytes := (List.range n).map fun i => readByte m (a + i)

/-- Write bytes from `a` up. -/
def writeBytes (m : List Host.Cell) : Nat → Bytes → List Host.Cell
  | _, [] => m
  | a, v :: b => writeBytes (writeByte m a v) (a + 1) b

/-- The canonical form: addresses strictly rising and no listed byte equal to the default. -/
def cellsWf (m : List Host.Cell) : Bool := SMap.wf m && m.all fun c => decide (c.2 ≠ memDefault)

/-- The memory's canonical form. -/
def Memory.wf (m : Memory) : Bool := cellsWf m.bytes

/-- HBM addresses are 39 bits: 512 GB (R201). -/
def hbmSize : Nat := 2 ^ 39

/-- Read HBM bytes. -/
def State.hbmRead (s : State) (a n : Nat) : Bytes := readBytes s.mem.bytes a n

/-- Write HBM bytes, and leave every check field of the blocks written valid. -/
def State.hbmWrite (s : State) (a : Nat) (b : Bytes) : State :=
  { s with mem := { s.mem with
      bytes := writeBytes s.mem.bytes a b,
      checks := s.mem.checks.filter fun c => !decide (a < 64 * c.1 + 64 ∧ 64 * c.1 < a + b.length) } }

/-! ## Free values (log entry 1) -/

/-- The next free value. -/
def State.drawn (s : State) : Word64 := Config.freeValue s.draws

/-- Advance the counter of free values. -/
def State.draw (s : State) : State := { s with draws := s.draws + 1 }

/-- `n` free bytes. -/
def State.drawnBytes (s : State) (n : Nat) : Bytes :=
  (List.range n).map fun i => (Config.freeValue (s.draws + i)).truncate 8

/-- Advance past `n` free values. -/
def State.drawN (s : State) (n : Nat) : State := { s with draws := s.draws + n }

/-! ## Counters -/

/-- Change the node's live counters. -/
def State.count (s : State) (g : NodeCounters → NodeCounters) : State :=
  { s with tel := { s.tel with node := g s.tel.node } }

/-- Shares that are stopped are counted as overruns, which the next snapshot reports (R30). -/
def State.countStops (s : State) (n : Nat) : State :=
  if n = 0 then s
  else
    let t := s.count fun c => { c with overruns := c.overruns + n }
    { t with tel := { t.tel with overrun := true } }

/-- A context's live counters. -/
def State.ctxCount (s : State) (context : Nat) (g : ContextCounters → ContextCounters) : State :=
  { s with tel := { s.tel with
      contexts := SMap.alter s.tel.contexts context { admitted := 0, published := 0, late := 0, poisoned := 0 } g } }

/-- Count traffic discarded (R91, R238, R316). -/
def State.scheduledDrop (s : State) : State := s.count fun c => { c with scheduled := c.scheduled + 1 }

/-- A tag fault charged to a context (R384). -/
def State.tagFault (s : State) (context : Nat) : State :=
  { (s.count fun c => { c with tagFaults := c.tagFaults + 1 }) with
    contexts := SMap.update s.contexts context fun c => { c with tagFaults := c.tagFaults + 1 } }

/-! ## Request tags (R11, R88): a free one of 262,144, which the manual does not choose -/

/-- The first free tag at or above a start, wrapping. -/
def freeTagFrom (held : List Nat) : Nat → Nat → Option Nat
  | 0, _ => none
  | fuel + 1, t => if held.contains t then freeTagFrom held fuel ((t + 1) % 262144) else some t

/-- A free request tag, if the works' handles and the shares of this stride leave one (R11, R88): the first from a free value
on. -/
def State.freeTag (s : State) : Option Nat :=
  if 262144 ≤ s.work.tags.length + s.work.shareTags then none
  else freeTagFrom s.work.tags (min 262144 (s.work.tags.length + 1)) (s.drawn.toNat % 262144)

/-- Take a request tag. -/
def State.takeTag (s : State) (t : Nat) : State :=
  { s.draw with work := { s.draw.work with tags := t :: s.work.tags } }

/-- Release a request tag. -/
def State.dropTag (s : State) (t : Nat) : State := { s with work := { s.work with tags := s.work.tags.filter (· ≠ t) } }

/-! ## Spans and nodes (R318, R338) -/

/-- The other member of the span. -/
def partnerOf (n : Nat) : Nat := if n % 2 = 0 then n + 1 else n - 1

/-- This node's id. -/
def State.me (s : State) : Nat := s.node.id

/-- This node's partner. -/
def State.partner (s : State) : Nat := partnerOf s.node.id

/-- Is the near node of a span this node? -/
def State.isNear (s : State) : Bool := s.node.id % 2 = 0

end Sys2Proof.Machine
end

