-- ==== Sys2Proof/Machine/Arbiter.lean ====
section
/-! DEFINITION. The arbiters of shared ports: their slots and resets, the decision of R191 and the flags
(09_arbitration.md). -/

namespace Sys2Proof.Machine

/-- Arbiters 0 to 566 exist (R189). -/
def arbiterOk (n : Nat) : Bool := n < 567

/-- The kind of arbiter `n` (R189). -/
def arbiterKind (n : Nat) : Nat := if n < 512 then 0 else if n < 524 then 1 else if n < 556 then 2 else if n < 565 then 3 else 4

/-- Its requester slots. -/
def arbiterSlots (n : Nat) : Nat := if n < 512 then 3 else 5

/-- Slot priorities at the ready state, packed as ARB_PRIO (R189, R194). -/
def arbiterPrio (n : Nat) : Word32 :=
  match arbiterKind n with
  | 0 => 0x0000_088F
  | 1 => 0x0004_688C
  | 2 => 0x0003_546A
  | 3 => 0x0006_CDEF
  | _ => 0x0004_6A8C

/-- The ARB_PRIO bits that software can change: present slots that are not fixed (R189, R194). -/
def arbiterPrioMask (n : Nat) : Word32 :=
  match arbiterKind n with
  | 0 => 0x0000_0FF0
  | 3 => 0x000F_0000
  | _ => 0x000F_FFFF

/-- Is slot `i` present in arbiter `n`? -/
def arbiterHere (n i : Nat) : Bool := i < arbiterSlots n

/-- Has slot `i` a wait limit: it is present and not a fixed slot that R192 protects, the host class of a pseudo-channel and
class 0 of a fabric port (R194)? -/
def arbiterWaits (n i : Nat) : Bool := arbiterHere n i && !((arbiterKind n = 0 || arbiterKind n = 3) && i = 0)

/-- An arbiter at the ready state (R194); its reserved limits read zero (R6). -/
def Arbiter.reset (n : Nat) : Arbiter :=
  let wait := (List.range 8).map fun i => if arbiterWaits n i then 8 else 0
  let hold := (List.range 8).map fun i => if arbiterHere n i then (if arbiterKind n = 2 then 255 else 8) else 0
  { prio := arbiterPrio n, waitLim := wait, holdLim := hold, waitShadow := wait, holdShadow := hold, flags := 0, strideFlags := 0,
    waits := List.replicate 8 0, reached := List.replicate 8 0, decisions := 0, holder := none, lastGrant := 7,
    forced := 0, cut := 0, longest := List.replicate 8 0 }

/-- The limits of an arbiter at the ready state: those of its kind in the tack image's 80 bytes for its present slots, where
the image sets them (R194, R400). -/
def Arbiter.withLimits (n : Nat) (limits : List Nat) (a : Arbiter) : Arbiter :=
  if limits.length ≠ 80 then a
  else
    let pick (o : Nat) (keep : Nat → Nat → Bool) (l : List Nat) : List Nat :=
      l.mapIdx fun i v => if keep n i then limits.getD (16 * arbiterKind n + o + i) v else v
    { a with waitLim := pick 0 arbiterWaits a.waitLim, waitShadow := pick 0 arbiterWaits a.waitLim,
             holdLim := pick 8 arbiterHere a.holdLim, holdShadow := pick 8 arbiterHere a.holdLim }

/-- Arbiter `n`. -/
def State.arbiter (s : State) (n : Nat) : Arbiter :=
  SMap.getD s.arb n ((Arbiter.reset n).withLimits n ((s.node.tack.map (·.limits)).getD []))

/-- Change arbiter `n`. -/
def State.modArbiter (s : State) (n : Nat) (g : Arbiter → Arbiter) : State :=
  { s with arb := SMap.set s.arb n (g (s.arbiter n)) }

/-- The priority of slot `i`. -/
def Arbiter.prioOf (a : Arbiter) (i : Nat) : Nat := bitsOf a.prio.toNat (4 * i) 4

/-- Change the `i`-th number of a list. -/
def setNat (l : List Nat) (i v : Nat) : List Nat := l.set i v

/-- The slots of `cand` of the highest priority, and among them the first after the one last granted (R191). -/
def Arbiter.byPriority (a : Arbiter) (cand : List Nat) : Option Nat :=
  let top := maxNat (cand.map a.prioOf)
  let best := cand.filter fun i => a.prioOf i = top
  match best.filter fun i => a.lastGrant < i with
  | i :: _ => some i
  | [] => best.head?

/-- Requests that no forced win passes (R192): class 0 at a fabric port, and at a pseudo-channel the host class and any
access that has waited for a unit burst or row lock. -/
def isProtected (n : Nat) (blocked : BitVec 8) (i : Nat) : Bool :=
  (arbiterKind n = 3 && i = 0) || (arbiterKind n = 0 && (i = 0 || bitOf blocked.toNat i))

/-- Note the decision at which a slot's counter reached its limit: it stands while the counter does (R191). -/
def Arbiter.mark (a : Arbiter) : Arbiter :=
  { a with reached := (List.range 8).map fun i =>
      let lim := a.waitLim.getD i 0
      if decide (lim ≠ 0) && decide (lim ≤ a.waits.getD i 0) then
        (if a.reached.getD i 0 = 0 then a.decisions + 1 else a.reached.getD i 0)
      else 0 }

/-- The slot of `forced` that reached its limit first, the lowest on a tie. -/
def Arbiter.firstForced (a : Arbiter) (forced : List Nat) : Option Nat :=
  forced.foldl (fun best i => match best with
    | none => some i
    | some b => if a.reached.getD i 0 < a.reached.getD b 0 then some i else some b) none

/-- One decision (R191, R192): requests waiting, those blocked by a unit, the holder's tenure and each slot's wait in
cycles. -/
def Arbiter.decide (n : Nat) (requests blocked : BitVec 8) (tenure : Nat) (waited : List Nat) (a : Arbiter) : Arbiter :=
  let asking := (List.range (arbiterSlots n)).filter fun i => bitOf requests.toNat i
  let cutOff : Option Nat := match a.holder with
    | some h =>
      if asking.contains h && a.holdLim.getD h 0 ≠ 0 && 16 * a.holdLim.getD h 0 < tenure && asking ≠ [h] then some h
      else none
    | none => none
  let cand := asking.filter fun i => some i ≠ cutOff
  let a := a.mark
  let safe := cand.filter (isProtected n blocked)
  let forced := if safe.isEmpty then cand.filter fun i =>
      a.waitLim.getD i 0 ≠ 0 && a.waitLim.getD i 0 ≤ a.waits.getD i 0 else []
  let winner := match a.firstForced forced with
    | some i => some i
    | none => a.byPriority (if safe.isEmpty then cand else safe)
  match winner with
  | none => a
  | some g =>
    let waits := (List.range 8).map fun i =>
      if i = g then 0 else if cand.contains i then a.waits.getD i 0 + 1 else a.waits.getD i 0
    let b : Arbiter := { a with
      waits := waits, decisions := a.decisions + 1, holder := some g, lastGrant := g,
      longest := setNat a.longest g (max (a.longest.getD g 0) (waited.getD g 0)),
      strideFlags := a.strideFlags ||| (match cutOff with | some h => BitVec.ofNat 32 (2 ^ h) | none => 0) |||
        (if forced.contains g then BitVec.ofNat 32 (2 ^ (8 + g)) else 0),
      cut := a.cut + bit01 cutOff.isSome, forced := a.forced + bit01 (forced.contains g) }
    ({ b with decisions := a.decisions }.mark) |> fun c => { c with decisions := a.decisions + 1 }

/-! ## Egress of a fabric port (R291, R292, R310, R311) -/

/-- The classes whose gates are open in a cycle of the stride: every one where no gate list was adopted (R311). -/
def GateList.openAt (g : GateList) (cycle : Nat) : Nat := ((g.entries.find? fun e => cycle < e.1).map (·.2)).getD 255

/-- May flits of a message go in a frame: an operation record's, and those of a message from the second frame after its header
record's high word on (R290)? -/
def Leaving.free (x : Leaving) (frame : Nat) : Bool := x.since.any (· ≤ frame)

/-- Flits of a class that may go in the present frame. -/
def Port.ready (p : Port) (cls : Nat) : Nat :=
  sumNat ((p.leaving.filter fun x => x.cls = cls && x.free p.frames).map fun x => x.flits.length)

/-- Has a class a flit that may go, and its gate open? -/
def Port.wants (p : Port) (cycle cls : Nat) : Bool := decide (0 < p.ready cls) && bitOf (p.gate.openAt cycle) cls

/-- May a class be served in a cycle: it wants to be, and holds credit; class 0 needs none (R292, R310)? -/
def Port.eligible (p : Port) (cycle cls : Nat) : Bool := p.wants cycle cls && (cls = 0 || decide (0 < p.credits.getD cls 0))

/-- The requests at a port's arbiter: classes 0 to 3, and the weighted group (R189). -/
def Port.requests (p : Port) (cycle : Nat) : BitVec 8 :=
  if p.st ≠ 2 then 0
  else BitVec.ofNat 8 (sumNat ((List.range 5).map fun i =>
    if (if i < 4 then p.eligible cycle i else (List.range 4).any fun c => p.eligible cycle (4 + c)) then 2 ^ i else 0))

/-- The class of the weighted group that is served: the one whose round it is while its deficit holds a group, else the next
with an open gate, a queued flit and credit, which takes its quantum of 4 × weight flits (R310). -/
def Port.weighted (p : Port) (cycle : Nat) : Nat × Port :=
  if p.eligible cycle p.turn && decide (4 ≤ p.turn ∧ 4 ≤ p.deficit.getD p.turn 0) then (p.turn, p)
  else
    match ((List.range 4).map fun i => 4 + (p.turn + 1 + i) % 4).find? (p.eligible cycle) with
    | some c => (c, { p with turn := c, deficit := addAt p.deficit c (4 * p.gate.weights.getD (c - 4) 1) })
    | none => (p.turn, p)

/-- Take up to `n` flits of a class that may go in a frame, in the order of their messages (R291): the flits, and what still
waits. -/
def takeFlits (frame cls : Nat) : Nat → List Leaving → List Bytes × List Leaving
  | _, [] => ([], [])
  | n, x :: xs =>
    if x.cls = cls && x.free frame then
      let (fs, rest) := takeFlits frame cls (n - x.flits.length) xs
      (x.flits.take n ++ fs, if x.flits.length ≤ n then rest else { x with flits := x.flits.drop n } :: rest)
    else
      let (fs, rest) := takeFlits frame cls n xs
      (fs, x :: rest)

/-- The flits of a class that its next group carries: up to 4, each at the cost of one of the peer's credits; class 0 needs none
(R291, R292). -/
def Port.groupFlits (p : Port) (cls : Nat) : Nat := min (min 4 (p.ready cls)) (if cls = 0 then 4 else p.credits.getD cls 0)

/-- One group of a class leaves: flits, and zero padding flits in the slots left (R291); a class whose queue empties loses its
deficit (R310). -/
def Port.sendGroup (p : Port) (cls : Nat) : Port :=
  let n := p.groupFlits cls
  let (flits, rest) := takeFlits p.frames cls n p.leaving
  { p with
    leaving := rest,
    groups := p.groups ++ [(cls, flits ++ List.replicate (4 - n) (zeros 64))],
    sent := addAt p.sent cls n,
    credits := if cls = 0 then p.credits else p.credits.set cls (p.credits.getD cls 0 - n),
    deficit := p.deficit.set cls (if p.queued cls = n then 0 else p.deficit.getD cls 0 - 4) }

/-- An idle group leaves: tag 8 (R289). -/
def Port.sendIdle (p : Port) : Port := { p with groups := p.groups ++ [(8, List.replicate 4 (zeros 64))] }

/-- The message whose header record is next: the first one queued that is not announced (log entry 107). -/
def Port.nextHeader (p : Port) : Option Nat := p.leaving.findSome? fun x => if x.since.isNone then x.header else none

/-- The half of a header record that the present frame carries: a high word due, else the next record's low word, else 0, which
starts no record (R289). -/
def Port.half (p : Port) : Nat := p.headerHigh.getD ((p.nextHeader.getD 0) % 2 ^ 32)

/-- The control field of codeword `i` of a frame with group tags and a half of a header record (R289). -/
def controlField (tags : List Nat) (half i : Nat) : Nat :=
  i + 4 * bitsOf (sumNat (tags.mapIdx fun g t => t * 16 ^ g) + half * 2 ^ 40) (18 * i) 18

/-- The lanes in service of a port, as lane ids (R286, R287). -/
def Port.laneIds (p : Port) (number : Nat) : List Nat := (bitList 4 p.lanes.toNat).map fun l => 4 * number + l

/-- The frame of a port's ten groups: group g is flit slot g of its four codewords, which go to the lanes in service in
rotation (R288). -/
def Port.frame (p : Port) (number : Nat) : Frame :=
  let lanes := p.laneIds number
  { port := number, lanes := (List.range 4).map fun k => lanes.getD ((p.lane + k) % lanes.length) 0,
    codewords := (List.range 4).map fun k =>
      { control := controlField (p.groups.map (·.1)) p.half k, slots := p.groups.map fun g => g.2.getD k (zeros 64) } }

/-- Mark the first message that is not announced: its flits may go from a frame on. -/
def announceFirst (frame : Nat) : List Leaving → List Leaving
  | [] => []
  | x :: xs => if x.since.isNone then { x with since := some frame } :: xs else x :: announceFirst frame xs

/-- The port after a frame: a record whose high word it carried is announced (R289, R290). -/
def Port.nextFrame (p : Port) : Port :=
  { p with
    groups := [], frames := p.frames + 1,
    lane := if p.laneIds 0 = [] then 0 else (p.lane + 4) % (p.laneIds 0).length,
    headerHigh := if p.headerHigh.isSome then none else p.nextHeader.map fun h => h / 2 ^ 32,
    leaving := if p.headerHigh.isSome then announceFirst (p.frames + 2) p.leaving else p.leaving }

/-- With its tenth group a port's frame goes out (R288). -/
def State.closeFrame (s : State) (port : Nat) : State :=
  let p := s.fab.ports.getD port Port.reset
  if p.groups.length < 10 then s
  else ({ s with out := { s.out with frames := s.out.frames ++ [p.frame port] } }).modPort port Port.nextFrame

/-- A class that wants to be served and holds no credit stalls for the group (R292, R426). -/
def Port.stall (p : Port) (cycle : Nat) : Port :=
  { p with stalls := (List.range 8).foldl (fun l c => if p.wants cycle c && !p.eligible cycle c then addAt l c 1 else l) p.stalls }

/-- What a decision of a port's arbiter sends: a group of the class that a slot stands for (R189, R310). -/
def Port.granted (p : Port) (cycle slot : Nat) : Port :=
  if slot < 4 then p.sendGroup slot else ((p.weighted cycle).2).sendGroup (p.weighted cycle).1

/-- A decision at a port's arbiter, among the classes that may be served in the cycle: the group goes into the port's frame, an
idle one where none asks. -/
def State.egress (s : State) (port : Nat) (requests blocked : BitVec 8) (tenure : Nat) (waited : List Nat) (cycle : Nat) : State :=
  let n := 556 + port
  let p := s.fab.ports.getD port Port.reset
  let req := requests &&& p.requests cycle
  let t := (s.modArbiter n (Arbiter.decide n req blocked tenure waited)).modPort port fun p => p.stall cycle
  if p.st ≠ 2 then t
  else (t.modPort port fun p => if req = 0 then p.sendIdle else p.granted cycle (t.arbiter n).lastGrant).closeFrame port

/-- ARBITER_DECISION (R190, R191); a fabric port's sends a group of flits. `cycle` is the cycle of the stride. -/
def arbiterDecisionEff (n : Nat) (requests blocked : BitVec 8) (tenure : Nat) (waited : List Nat) (cycle : Nat) (s : State) : State :=
  if 556 ≤ n ∧ n < 565 then s.egress (n - 556) requests blocked tenure waited cycle
  else s.modArbiter n (Arbiter.decide n requests blocked tenure waited)

/-- ARBITER_DECISION -/
def execArbiterDecision (n : Nat) (requests blocked : BitVec 8) (tenure : Nat) (waited : List Nat) (cycle : Nat) (s : State) :
    Host.Outcome State Fault Refusal :=
  guarded (arbiterOk n) (arbiterDecisionEff n requests blocked tenure waited cycle) s

/-- ARB_FLAGS takes the flags of the stride just ended in the commit window (R195). -/
def Arbiter.commitFlags (a : Arbiter) : Arbiter := { a with flags := a.flags ||| a.strideFlags, strideFlags := 0 }

/-- The limits last written are adopted in the commit window (R193, R7). -/
def Arbiter.adoptLimits (a : Arbiter) : Arbiter := { a with waitLim := a.waitShadow, holdLim := a.holdShadow }

end Sys2Proof.Machine
end

