-- ==== Sys2Proof/Machine/Operands.lean ====
section
/-! DEFINITION. The operand forms of control messages: the opcode catalogue with each opcode's sender class, reply
class and layout lengths (R379), the checks of R370 in their order, and how an opcode finds the request it processes
and answers it. -/

namespace Sys2Proof.Machine

/-- A row of the catalogue (R379): sender 0 M, 1 C, 2 A, 3 N (R374); class 0 A, 1 B, 2 E (R378); the request length where
the layout fixes it; the largest reply payload (R368). -/
structure OpInfo where
  sender : Nat
  cls : Nat
  length : Option Nat
  reply : Nat
  deriving DecidableEq, Repr

/-- The catalogue. -/
def opInfo : Nat → Option OpInfo
  | 0x0101 => some ⟨2, 0, some 8, 8⟩
  | 0x0102 => some ⟨2, 0, some 0, 112⟩
  | 0x0201 => some ⟨0, 0, some 16, 0⟩
  | 0x0202 => some ⟨0, 2, some 8, 0⟩
  | 0x0203 => some ⟨0, 0, some 152, 32⟩
  | 0x0204 => some ⟨1, 0, some 0, 184⟩
  | 0x0210 => some ⟨1, 0, some 64, 16⟩
  | 0x0211 => some ⟨1, 2, some 4, 0⟩
  | 0x0220 => some ⟨1, 0, some 32, 0⟩
  | 0x0221 => some ⟨1, 0, none, 0⟩
  | 0x0222 => some ⟨1, 0, none, 0⟩
  | 0x0301 => some ⟨0, 1, some 24, 48⟩
  | 0x0302 => some ⟨0, 1, some 24, 48⟩
  | 0x0303 => some ⟨0, 1, some 16, 32⟩
  | 0x0304 => some ⟨0, 0, some 16, 0⟩
  | 0x0305 => some ⟨0, 0, some 0, 640⟩
  | 0x0401 => some ⟨1, 0, none, 0⟩
  | 0x0402 => some ⟨1, 2, some 32, 0⟩
  | 0x0403 => some ⟨1, 0, some 32, 32⟩
  | 0x0404 => some ⟨1, 0, some 32, 32⟩
  | 0x0405 => some ⟨1, 0, some 32, 0⟩
  | 0x0406 => some ⟨1, 0, some 32, 0⟩
  | 0x0407 => some ⟨1, 0, some 4, 200⟩
  | 0x0408 => some ⟨3, 0, none, 0⟩
  | 0x0409 => some ⟨1, 1, some 16, 48⟩
  | 0x040A => some ⟨1, 0, some 4, 0⟩
  | 0x040B => some ⟨1, 0, some 4, 48⟩
  | 0x0501 => some ⟨1, 0, none, 0⟩
  | 0x0502 => some ⟨1, 2, some 32, 0⟩
  | 0x0503 => some ⟨1, 0, some 32, 32⟩
  | 0x0504 => some ⟨1, 0, some 32, 32⟩
  | 0x0505 => some ⟨1, 0, some 32, 0⟩
  | 0x0506 => some ⟨1, 0, some 32, 0⟩
  | 0x0507 => some ⟨1, 0, some 4, 200⟩
  | 0x0508 => some ⟨1, 0, none, 0⟩
  | 0x0509 => some ⟨3, 0, none, 0⟩
  | 0x0601 => some ⟨1, 0, some 32, 0⟩
  | 0x0602 => some ⟨1, 2, some 4, 0⟩
  | 0x0603 => some ⟨1, 0, some 4, 48⟩
  | 0x0604 => some ⟨1, 0, some 32, 0⟩
  | 0x0605 => some ⟨1, 2, none, 0⟩
  | 0x0606 => some ⟨1, 0, some 8, 0⟩
  | 0x0607 => some ⟨2, 0, some 4, 192⟩
  | 0x0608 => some ⟨3, 0, none, 0⟩
  | 0x0701 => some ⟨0, 1, some 16, 0⟩
  | 0x0702 => some ⟨1, 0, some 24, 0⟩
  | 0x0703 => some ⟨1, 0, some 32, 0⟩
  | 0x0704 => some ⟨0, 0, none, 0⟩
  | 0x0705 => some ⟨0, 0, some 16, 0⟩
  | 0x0706 => some ⟨0, 0, some 20, 0⟩
  | 0x0707 => some ⟨2, 0, some 0, 296⟩
  | 0x0708 => some ⟨2, 0, some 0, 2592⟩
  | 0x0709 => some ⟨0, 0, some 8, 0⟩
  | 0x070A => some ⟨0, 0, some 24, 0⟩
  | 0x070B => some ⟨0, 0, some 4, 0⟩
  | 0x070C => some ⟨3, 0, none, 0⟩
  | 0x0801 => some ⟨2, 0, some 64, 848⟩
  | 0x0802 => some ⟨2, 0, some 0, 336⟩
  | 0x0803 => some ⟨0, 1, some 24, 48⟩
  | 0x0804 => some ⟨0, 0, none, 48⟩
  | 0x0805 => some ⟨0, 0, some 144, 0⟩
  | 0x0901 => some ⟨2, 0, some 0, 480⟩
  | 0x0902 => some ⟨2, 0, some 0, 400⟩
  | _ => none

/-- The opcodes served in every node state once the firmware runs (R371). -/
def anyStateOps : List Nat :=
  [0x0101, 0x0102, 0x0801, 0x0802, 0x0803, 0x0804, 0x0805, 0x0901, 0x0902, 0x0708, 0x070B]

/-- Is the payload length the opcode's where the layout fixes it? TRUST_DEBUG_UNLOCK is 8 bytes for operation 0 and 160
for operation 1 (R406). -/
def lengthFits (opcode length : Nat) (payload : Bytes) : Bool :=
  if opcode = 0x0804 then length = (if byteAt payload 0 = 0 then 8 else 160)
  else match opInfo opcode with
    | some i => (match i.length with | some n => length = n | none => true)
    | none => true

/-- The payload length within R368, and the reply's room. -/
def lengthCheck (opcode flags length payAddr replyAddr capacity : Nat) (payload : Bytes) : Bool :=
  let largest : Nat := match opInfo opcode with | some i => i.reply | none => 0
  (if bitOf flags 2 then decide (length ≤ 65536 ∧ payAddr % 64 = 0) else decide (length ≤ 1984)) &&
  (if bitOf flags 3 then decide (replyAddr % 64 = 0 ∧ largest ≤ capacity) else decide (largest ≤ 992)) &&
  lengthFits opcode length payload

/-- Is the context open for requests: context 0 from start-up, a user context until its close is adopted, and none
while debug is unlocked (R381, R390, R407)? -/
def State.contextOpen (s : State) (c : Nat) : Bool :=
  if c = 0 then true
  else if s.node.unlocked then false
  else match SMap.find? s.contexts c with
    | some x => x.st = 1
    | none => false

/-- Is the format of a request's header the negotiated one, or is it DEVICE_FORMAT (R370, R372)? -/
def State.formatOk (s : State) (f : Nat) (h : Bytes) : Bool :=
  le h 2 2 = 0x0101 || ((s.mailbox f).negotiated && byteAt h 0 = 2 && byteAt h 1 = 1)

/-- Is a stride stamp 0, or not below the current stride (R370)? -/
def State.stampOk (s : State) (stamp : Nat) : Bool := stamp = 0 || s.stride ≤ stamp

/-- Does the node state allow an opcode (R371)? -/
def State.stateOk (s : State) (opcode : Nat) : Bool := s.ready || anyStateOps.contains opcode

/-- The first failing check of R370, up to the node state, for a request as its mailbox holds it: header `h`, its
descriptor `d` and its payload. -/
def State.requestCheck (s : State) (f : Nat) (h d payload : Bytes) : Option Nat :=
  let opcode := le h 2 2
  let context := le h 4 2
  let flags := le h 6 2
  let length := le h 12 4
  let sender : Nat := match opInfo opcode with | some i => i.sender | none => 3
  if !s.formatOk f h then some stBadFormat
  else if !lengthCheck opcode flags length (le d 0 8) (le d 8 8) (le d 16 4) payload then some stBadLength
  else if le h 28 4 ≠ crc32c (h.take 28 ++ payload) then some stBadCheck
  else if sender = 3 then some stBadOpcode
  else if 4096 ≤ context ∨ bitsOf flags 4 12 ≠ 0 ∨ bitsOf flags 0 2 ≠ 0 ∨ le h 24 4 ≠ 0 then some stBadFormat
  else if (sender = 0 ∧ (f ≠ 0 ∨ context ≠ 0)) ∨ (sender = 1 ∧ context = 0) then some stNotPermitted
  else if !s.contextOpen context then some stNoContext
  else if context ≠ 0 ∧ s.funcOf context ≠ f then some stNotOwner
  else if !s.stampOk (le h 16 8) then some stTooLate
  else if !s.stateOk opcode then some stNotUntilRemount
  else none

/-- The payload-less reply of a refused request (R370), stamped when it is written (R369). -/
def refusedReply (q : Request) (status : Nat) : Reply :=
  { opcode := q.opcode, context := q.context, tag := q.tag, status := status, stamp := unstamped, payload := [],
    indirect := if bitOf q.flags 3 then some q.replyAddr else none, order := q.order }

/-- Answer, in taken order, the requests at the front that a check refused (R370, R378). -/
def flushRefused : List Request → List Request × List Reply
  | [] => ([], [])
  | q :: l =>
    match q.refusal with
    | some st =>
      let (rest, out) := flushRefused l
      if q.mute then (rest, out) else (rest, refusedReply q st :: out)
    | none => (q :: l, [])

/-- Let the refusals at the front of a mailbox's taken requests be answered. -/
def State.flush (s : State) (f : Nat) : State :=
  s.modMailbox f fun m =>
    { m with taken := (flushRefused m.taken).1, replies := m.replies ++ (flushRefused m.taken).2 }

/-- The oldest taken request of function `f`, if it is of this opcode and the control cores run. -/
def State.front (s : State) (f opcode : Nat) : Option Request :=
  if s.ctl.coreDown then none
  else match (s.mailbox f).taken with
    | q :: _ => if q.opcode = opcode then some q else none
    | [] => none

/-- What refuses a request whose processing begins now, though it passed when it was taken: its stamp lies below the stride, or the
node state no longer allows its opcode (R366, R370, R371). -/
def State.untimely (s : State) (q : Request) : Option Nat :=
  if !s.stampOk q.stamp then some stTooLate
  else if !s.stateOk q.opcode then some stNotUntilRemount
  else none

/-- The request that an opcode's processing takes up: the oldest taken of function `f`, if it is of that opcode, is still in
time and the control cores run. -/
def State.headRequest (s : State) (f opcode : Nat) : Option Request :=
  (s.front f opcode).filter fun q => (s.untimely q).isNone

/-- Drop the oldest taken request; it is the one being served. -/
def State.popRequest (s : State) (f : Nat) : State :=
  { s with ctl := { s.ctl with
      serving := (((s.mailbox f).taken.head?).map Request.order).getD s.ctl.serving } }.modMailbox f fun m =>
    { m with taken := m.taken.drop 1 }

/-- Refuse, with no payload, a request of this opcode at the front that comes too late or in a wrong node state; nothing happens
where there is none. -/
def State.turnAway (s : State) (f opcode : Nat) : State :=
  match s.front f opcode with
  | none => s
  | some q =>
    match s.untimely q with
    | some st => ((s.popRequest f).reply q st unstamped []).flush f
    | none => s

/-- Run an opcode's processing on the request it finds: `act` gives the state after its effect and what it answers,
or no answer yet (class E). A request that is no longer in time is turned away; without one nothing happens. -/
def State.serve (s : State) (f opcode : Nat) (act : State → Request → State × Option (Nat × Nat × Bytes)) : State :=
  match s.headRequest f opcode with
  | none => s.turnAway f opcode
  | some q =>
    let (t, answer) := act (s.popRequest f) q
    let t' := match answer with
      | some (status, stamp, payload) => t.reply q status stamp payload
      | none => t
    t'.flush f

/-- A refusal: nothing changes. Its reply is stamped when it is written (R369). -/
def refuse (s : State) (status : Nat) (payload : Bytes := []) : State × Option (Nat × Nat × Bytes) :=
  (s, some (status, unstamped, payload))

/-- An accepted change of the data plane, stamped with its adopting stride (R369). -/
def accept (s : State) (c : Change) (payload : Bytes := []) : State × Option (Nat × Nat × Bytes) :=
  (s.schedule c, some (stOk, s.nextBoundary, payload))

/-- An answer that reports. -/
def report (s : State) (payload : Bytes) : State × Option (Nat × Nat × Bytes) := (s, some (stOk, unstamped, payload))

/-- An accepted class E request: its reply waits for its event (R378). -/
def defer (s : State) (e : Event) (q : Request) (adopted : Nat) : State :=
  { s with ctl := { s.ctl with deferred := s.ctl.deferred ++ [{ event := e, request := q, adopted := adopted }] } }

/-- The event happened: answer the requests that waited for it, stamped as they ask. -/
def State.happened (s : State) (e : Event) (status : Nat) (stamp : Option Nat) (payload : Bytes := []) : State :=
  let due := s.ctl.deferred.filter fun d => decide (d.event = e)
  let s' := { s with ctl := { s.ctl with deferred := s.ctl.deferred.filter fun d => !decide (d.event = e) } }
  due.foldl (fun s d => s.reply d.request status (stamp.getD d.adopted) payload) s'

/-- The `n`-byte field at `off` of a request's payload. -/
def Request.field (q : Request) (off n : Nat) : Nat := le q.payload off n

end Sys2Proof.Machine
end

