-- ==== Sys2Proof/Machine/Gait.lean ====
section
/-! DEFINITION. Gaits: the resources and their capacities (R32), the gait image (R40 to R44), the girth check (R45 to
R49, R461), and the transition check (R53). -/

namespace Sys2Proof.Machine

/-! ## Capacities -/

/-- W, the cycles of the work window, by stride code (R26). -/
def workCycles (code : Nat) : Nat := if code = 1 then 295904 else if code = 3 then 1233404 else 608404

/-- Cycles of a stride, by stride code (R26). -/
def strideCycles (code : Nat) : Nat := if code = 1 then 312500 else if code = 3 then 1250000 else 625000

/-- The first cycle of the drain guard (R26). -/
def guardCycle (code : Nat) : Nat := 4096 + workCycles code

/-- A resource id of R32. -/
def resOf (kind inst : Nat) : Nat := kind * 1024 + inst

/-- The kind of a resource id. -/
def kindOf (res : Nat) : Nat := res / 1024

/-- The instance of a resource id. -/
def instOf (res : Nat) : Nat := res % 1024

/-- The number of instances of a kind (R32). -/
def kindCount : Nat → Nat
  | 0x01 => 96
  | 0x02 => 8
  | 0x03 => 16
  | 0x04 => 16
  | 0x05 => 8
  | 0x06 => 8
  | 0x07 => 12
  | 0x08 => 12
  | 0x09 => 32
  | 0x0A => 32
  | 0x0B => 1
  | 0x0C => 72
  | 0x0D => 2
  | 0x0E => 32
  | 0x0F => 1
  | _ => 0

/-- Lanes of a port in a unit set. -/
def UnitSet.portLanes (u : UnitSet) (port : Nat) : Nat :=
  ((List.range 4).filter fun l => bitOf u.lanes.toNat (4 * port + l)).length

/-- R461: does a resource instance lie within a unit set? DESIGN CHOICE (log entry 80): an instance number out of its kind's
range lies in no unit set, so that step 4 of the girth check refuses it (reason 0x03); a kind outside 1 to 15 is a field of
step 1.4. -/
def UnitSet.holds (u : UnitSet) (res : Nat) : Bool :=
  let i := instOf res
  decide (i < kindCount (kindOf res)) &&
  match kindOf res with
  | 0x01 => bitOf u.tiles.toNat i
  | 0x02 => bitOf u.hbmStacks.toNat i && bitsOf u.nmus.toNat (64 * i) 64 ≠ 0
  | 0x03 => bitOf u.sorts.toNat i
  | 0x04 => bitOf u.travs.toNat i
  | 0x05 => bitOf u.hbmStacks.toNat i
  | 0x06 => bitOf u.hbmStacks.toNat i
  | 0x07 => bitOf u.ddr.toNat i
  | 0x08 => bitOf u.ddr.toNat i
  | 0x09 => bitOf u.flash.toNat i
  | 0x0A => bitOf u.flash.toNat i
  | 0x0E => bitOf u.flash.toNat i
  | 0x0C => u.portLanes (i / 8) ≠ 0
  | _ => true

/-- Is every unit of one set in another? -/
def UnitSet.within (u v : UnitSet) : Bool :=
  decide (u.tiles &&& ~~~v.tiles = 0) && decide (u.nmus &&& ~~~v.nmus = 0) && decide (u.sorts &&& ~~~v.sorts = 0) &&
  decide (u.travs &&& ~~~v.travs = 0) && decide (u.flash &&& ~~~v.flash = 0) && decide (u.lanes &&& ~~~v.lanes = 0) &&
  decide (u.ddr &&& ~~~v.ddr = 0) && decide (u.hbmStacks &&& ~~~v.hbmStacks = 0)

/-- The union of two sets (R53). -/
def UnitSet.union (u v : UnitSet) : UnitSet :=
  { tiles := u.tiles ||| v.tiles, nmus := u.nmus ||| v.nmus, sorts := u.sorts ||| v.sorts, travs := u.travs ||| v.travs,
    flash := u.flash ||| v.flash, lanes := u.lanes ||| v.lanes, ddr := u.ddr ||| v.ddr, hbmStacks := u.hbmStacks ||| v.hbmStacks }

/-- Targets of a flash channel in service: the population less the dies retired (R32, R414). -/
def State.targetsOf (s : State) (channel : Nat) : Nat :=
  s.flash.targets -
    (s.node.record.retired.filter fun p => p.1 = 0x09 && p.2 / 8 = channel && p.2 % 8 < s.flash.targets).length

/-- The capacity of a resource instance for a stride of `w` work cycles, before the deductions of R32, which are counted
as demand (see `partsOf`). -/
def State.capacity (s : State) (w : Nat) (u : UnitSet) (res : Nat) : Nat :=
  match kindOf res with
  | 0x01 => w
  | 0x02 => 4 * (w / 25)
  | 0x03 => 64 * (w / 28)
  | 0x04 => w / 32
  | 0x05 => 14 * w
  | 0x06 => 64 * (w / 8)
  | 0x07 => 77 * w / 200
  | 0x08 => w / 4
  | 0x09 => 63 * w / 50
  | 0x0A => s.targetsOf (instOf res) * (w / 6250)
  | 0x0B => 262144
  | 0x0C => 5 * w * u.portLanes (instOf res / 8) / 16
  | 0x0D => 175 * w / 16
  | 0x0E => s.targetsOf (instOf res) * (w / 6250)
  | _ => w

/-- What fills a resource's capacity, with weights (R32, R47): HBM blocks and 32 for each burst; array units and one
for each flash read; the running sum of a port's classes up to this one. -/
def partsOf (res : Nat) : List (Nat × Nat) :=
  let i := instOf res
  match kindOf res with
  | 0x05 => [(res, 1), (resOf 0x02 i, 32)]
  | 0x0E => [(res, 1), (resOf 0x0A i, 1)]
  | 0x0C => (List.range (i % 8 + 1)).map fun c => (resOf 0x0C (i / 8 * 8 + c), 1)
  | _ => [(res, 1)]

/-- The resources whose check a demand on `res` enters. -/
def relatedOf (res : Nat) : List Nat :=
  let i := instOf res
  match kindOf res with
  | 0x02 => [res, resOf 0x05 i]
  | 0x0A => [res, resOf 0x0E i]
  | 0x0C => (List.range 8).map fun c => resOf 0x0C (i / 8 * 8 + c)
  | _ => [res]

/-- Context 0's minima on every instance of a unit set, in ascending resource id (R35). -/
def minimaOf (code : Nat) (u : UnitSet) : List (Nat × Nat) :=
  let on (kind amount : Nat) : List (Nat × Nat) :=
    ((List.range (kindCount kind)).map (resOf kind)).filterMap fun r => if u.holds r then some (r, amount) else none
  on 0x05 65536 ++ on 0x07 2048 ++ on 0x0A 8 ++ [(resOf 0x0B 0, 4096)] ++
    ((List.range 9).flatMap fun p =>
      if u.portLanes p ≠ 0 then [(resOf 0x0C (8 * p), 512), (resOf 0x0C (8 * p + 7), 256)] else []) ++
    on 0x0E (workCycles code / 12500)

/-! ## The image -/

/-- The unit-set block at an offset (R41). -/
def parseUnits (b : Bytes) (o : Nat) : UnitSet :=
  { tiles := BitVec.ofNat 96 (le b o 12), nmus := BitVec.ofNat 512 (le b (o + 12) 64),
    sorts := BitVec.ofNat 16 (le b (o + 76) 2), travs := BitVec.ofNat 16 (le b (o + 78) 2),
    flash := BitVec.ofNat 32 (le b (o + 80) 4), lanes := BitVec.ofNat 36 (le b (o + 84) 5),
    ddr := BitVec.ofNat 12 (le b (o + 89) 2), hbmStacks := BitVec.ofNat 8 (le b (o + 91) 1) }

/-- The unit-set block of a set (R41). -/
def UnitSet.bytes (u : UnitSet) : Bytes :=
  toLe 12 u.tiles.toNat ++ toLe 64 u.nmus.toNat ++ toLe 2 u.sorts.toNat ++ toLe 2 u.travs.toNat ++
    toLe 4 u.flash.toNat ++ toLe 5 u.lanes.toNat ++ toLe 2 u.ddr.toNat ++ toLe 1 u.hbmStacks.toNat ++ zeros 4

/-- The tables an image's header locates, whatever they hold (R40 to R44). -/
def parseGait (b : Bytes) : Gait :=
  let nctx := le b 20 2
  let ncls := le b 22 2
  let period := byteAt b 6
  let ct := le b 28 4
  let cl := le b 32 4
  let pr := le b 36 4
  let at' := le b 44 4
  { id := le b 8 8, period := period, code := byteAt b 7, units := parseUnits b (le b 24 4),
    contexts := (List.range nctx).map fun i =>
      let o := ct + 16 * i
      { id := le b o 2, isolate := bitOf (le b (o + 2) 2) 0, first := le b (o + 4) 2, count := le b (o + 6) 2 },
    classes := (List.range ncls).map fun k =>
      let o := cl + 16 * k
      { context := le b o 2, kind := byteAt b (o + 2), elastic := bitOf (byteAt b (o + 3)) 0, len := byteAt b (o + 4),
        ring := le b (o + 6) 2, first := le b (o + 8) 4, count := le b (o + 12) 4 },
    plans := (List.range (le b 40 4)).map fun j =>
      let o := pr + 16 * j
      { cls := le b o 2, off := byteAt b (o + 2), res := le b (o + 4) 2, amount := le b (o + 8) 8 },
    adm := (List.range ncls).map fun k => (List.range period).map fun i => le b (at' + 4 * (k * period + i)) 4 }

/-- The blocks that a header locates: (offset, bytes). -/
def gaitBlocks (b : Bytes) : List (Nat × Nat) :=
  [(le b 24 4, 96), (le b 28 4, 16 * le b 20 2), (le b 32 4, 16 * le b 22 2), (le b 36 4, 16 * le b 40 4),
   (le b 44 4, 4 * byteAt b 6 * le b 22 2)]

/-- Are the numbers strictly rising? -/
def rising : List Nat → Bool
  | a :: b :: l => decide (a < b) && rising (b :: l)
  | _ => true

/-- The order key of a plan record: class, offset, resource (R44). -/
def PlanRecord.key (p : PlanRecord) : Nat := (p.cls * 256 + p.off) * 65536 + p.res

/-- The contexts' classes: each context's range lies in the table, the ranges do not overlap, and every class lies in
its owner's range (R42, R43). -/
def contextRanges (g : Gait) : Bool :=
  (g.contexts.all fun c => decide (c.first + c.count ≤ g.classes.length)) &&
  ((List.range g.classes.length).all fun k =>
    match g.classes[k]?, g.contexts.filter (fun c => c.first ≤ k && k < c.first + c.count) with
    | some cl, [c] => decide (cl.context = c.id)
    | _, _ => false)

/-- The plan records of the classes follow one another in class order and cover the table (R43, R44). -/
def planRanges (next total : Nat) : List GaitClass → Bool
  | [] => next = total
  | c :: l => (c.count = 0 || c.first = next) && decide (next + c.count ≤ total) && planRanges (next + c.count) total l

/-- R46 step 1.4: every other field. DESIGN CHOICE (log entry 80): a block that starts inside the 64-byte header is a fault of
this step. -/
def gaitFieldsOk (b : Bytes) (g : Gait) : Bool :=
  let us := le b 24 4
  decide (1 ≤ g.period ∧ g.period ≤ 64 ∧ 1 ≤ g.code ∧ g.code ≤ 3 ∧ g.id ≠ 0) &&
  decide (1 ≤ g.contexts.length ∧ g.contexts.length ≤ 4096 ∧ 1 ≤ g.classes.length ∧ g.classes.length ≤ 16384) &&
  ((gaitBlocks b).all fun p => p.1 % 8 = 0 && 64 ≤ p.1) &&
  decide (le b (us + 84) 5 < 2 ^ 36 ∧ le b (us + 89) 2 < 2 ^ 12) && zeroAt b (us + 92) 4 &&
  -- the context table
  rising (g.contexts.map (·.id)) && (g.contexts.all fun c => c.id < 4096) && (g.contexts.any fun c => c.id = 0) &&
  ((List.range g.contexts.length).all fun i =>
    le b (le b 28 4 + 16 * i + 2) 2 < 2 && zeroAt b (le b 28 4 + 16 * i + 8) 8) &&
  contextRanges g &&
  -- the class table
  ((List.range g.classes.length).all fun k =>
    byteAt b (le b 32 4 + 16 * k + 3) < 2 && byteAt b (le b 32 4 + 16 * k + 5) = 0) &&
  (g.classes.all fun c =>
    decide (1 ≤ c.kind ∧ c.kind ≤ 8) && (c.kind ≠ 8 || c.context = 0) && decide (1 ≤ c.len ∧ c.len ≤ 64) &&
      !(c.kind = 7 && c.elastic) && !(c.kind = 1 && decide (16 < c.len))) &&
  -- the plan records
  planRanges 0 g.plans.length g.classes &&
  ((List.range g.plans.length).all fun j =>
    byteAt b (le b 36 4 + 16 * j + 3) = 0 && zeroAt b (le b 36 4 + 16 * j + 6) 2) &&
  rising (g.plans.map PlanRecord.key) &&
  ((List.range g.classes.length).all fun k =>
    match g.classes[k]? with
    | some c => ((g.plans.drop c.first).take c.count).all fun p => p.cls = k && p.off < c.len
    | none => false) &&
  (g.plans.all fun p => decide (1 ≤ kindOf p.res ∧ kindOf p.res ≤ 15))

/-- R46 step 1: the structure of an image, as the status of its first fault; `id?` is the request's gait id (R50). -/
def gaitStructure (b : Bytes) (length : Nat) (id? : Option Nat) : Nat :=
  if le b 0 4 ≠ 0x5449_4147 ∨ le b 4 2 ≠ 1 then stBadFormat
  else if b.length ≠ length ∨ le b 16 4 ≠ b.length ∨ b.length < 64 ∨
      (gaitBlocks b).any (fun p => decide (b.length < p.1 + p.2)) then stBadLength
  else if (b.drop 48).take 16 ≠ (sha384 (b.drop 64)).take 16 ∨ (match id? with | some i => i != le b 8 8 | none => false) = true
    then stBadCheck
  else if !gaitFieldsOk b (parseGait b) then stBadFormat
  else stOk

/-! ## Demand (R39) -/

/-- One contribution to a stride's demand: `old` marks the outgoing gait of a transition. -/
structure Use where
  context : Nat
  old : Bool
  cls : Nat
  res : Nat
  amount : Nat
  deriving DecidableEq, Repr

/-- The count a class admits at a stride index. -/
def Gait.admits (g : Gait) (cls index : Nat) : Nat := (g.adm.getD cls []).getD index 0

/-- The stride index of stride `u` under a gait adopted at `origin` (R39). -/
def Gait.index (g : Gait) (u origin : Int) : Nat := ((u - origin) % (max g.period 1 : Int)).toNat

/-- The fixed classes' demand in stride `t`, from admissions at strides `u` with `lo ≤ u` and `u < hi` where those bounds
are given (R39, R53). -/
def Gait.usesAt (g : Gait) (old : Bool) (t origin : Int) (lo hi : Option Int) : List Use :=
  g.plans.filterMap fun p =>
    match g.classes[p.cls]? with
    | none => none
    | some c =>
      let u : Int := t - p.off
      let inside := (match lo with | some l => decide (l ≤ u) | none => true) &&
        (match hi with | some h => decide (u < h) | none => true)
      let a := g.admits p.cls (g.index u origin)
      if c.elastic || kindOf p.res = 0x0F || !inside || a * p.amount = 0 then none
      else some { context := c.context, old := old, cls := p.cls, res := p.res, amount := a * p.amount }

/-- The demand that a list of contributions puts on weighted parts. -/
def demandOn (uses : List Use) (parts : List (Nat × Nat)) : Nat :=
  sumNat (uses.map fun u => u.amount * sumNat ((parts.filter fun q => q.1 = u.res).map (·.2)))

/-- The resources to check, ascending. -/
def resourcesOf (uses : List Use) : List Nat := (uses.flatMap fun u => relatedOf u.res).foldl (fun l r => insertNat r l) []

/-- The contexts that contribute, ascending. -/
def contextsOf (uses : List Use) : List Nat := uses.foldl (fun l u => insertNat u.context l) []

/-- The 32-byte refusal record (R48). DESIGN CHOICE (log entry 80): a demand or a limit of 2^64 or more, which the record's
field cannot hold, reads 2^64 − 1; the sums themselves are exact (R39). -/
def refusalRecord (reason index res context cls stride demand limit : Nat) : Bytes :=
  toLe 1 reason ++ toLe 1 index ++ toLe 2 res ++ toLe 2 context ++ toLe 2 cls ++ toLe 8 stride ++
    toLe 8 (min demand (2 ^ 64 - 1)) ++ toLe 8 (min limit (2 ^ 64 - 1))

/-- The lowest-indexed class of a context with a non-zero amount on the resources that `on` accepts (R47, R48). -/
def Gait.classOn (g : Gait) (context : Nat) (on : Nat → Bool) : Nat :=
  ((List.range g.classes.length).find? fun k =>
    (g.classes[k]?.map (·.context)) = some context &&
      (g.plans.any fun p => p.cls = k && p.amount ≠ 0 && on p.res)).getD 0xFFFF

/-- The class a transition refusal names: the incoming gait's in the failing stride, else the outgoing one's with bit 15
(R53, R48). -/
def transitionClass (uses : List Use) (context : Nat) (on : Nat → Bool) : Nat :=
  let mine := uses.filter fun u => u.context = context && on u.res
  let least (l : List Use) : Option Nat := l.foldl (fun b u => match b with
    | none => some u.cls
    | some c => some (min c u.cls)) none
  match least (mine.filter fun u => !u.old) with
  | some c => c
  | none => match least mine with
    | some c => c + 0x8000
    | none => 0xFFFF

/-- The context whose contribution first makes the running sum exceed a capacity (R47). -/
def firstOver (cap : Nat) : Nat → List (Nat × Nat) → Nat
  | _, [] => 0
  | run, (c, d) :: l => if cap < run + d then c else firstOver cap (run + d) l

/-- The first resource whose demand exceeds its capacity: (resource, context, demand, limit) (R46 step 8, R47). -/
def State.overCapacity (s : State) (w : Nat) (u : UnitSet) (uses : List Use) : Option (Nat × Nat × Nat × Nat) :=
  (resourcesOf uses).findSome? fun r =>
    let parts := partsOf r
    let cap := s.capacity w u r
    let total := demandOn uses parts
    if total ≤ cap then none
    else
      let groups := if kindOf r = 0x0C then parts.map fun q => [q] else [parts]
      let contribs := groups.flatMap fun g =>
        (contextsOf uses).map fun c => (c, demandOn (uses.filter fun x => x.context = c) g)
      some (r, firstOver cap 0 contribs, total, cap)

/-- The resources that name a class for a failure on `r` (R47): the failing id of a port, else all that fill it. DESIGN
CHOICE (log entry 80): bursts count as an amount on their stack's HBM_BLOCK, and flash reads as one on FLASH_ARRAY. -/
def namesOn (r x : Nat) : Bool := if kindOf r = 0x0C then x = r else (partsOf r).any fun q => q.1 = x

/-- A context's reservation of a kind; context 0 has none to keep. -/
def State.reservation (s : State) (c kind : Nat) : Nat :=
  ((SMap.find? s.contexts c).map fun x => SMap.getD x.kinds kind 0).getD 0

/-- The first context and kind beyond its reservation: (kind, context, demand, limit) (R46 step 8). -/
def State.overReservation (s : State) (uses : List Use) : Option (Nat × Nat × Nat × Nat) :=
  (contextsOf uses).findSome? fun c =>
    if c = 0 then none
    else
      (List.range 16).findSome? fun k =>
        let d := sumNat ((uses.filter fun u => u.context = c && kindOf u.res = k).map (·.amount))
        let lim := s.reservation c k
        if lim < d then some (k, c, d, lim) else none

/-! ## The girth check -/

/-- The set that stands as mounted: the mounted set, or the admitted set before the first gait (R52). -/
def State.mountedSet (s : State) : UnitSet := s.gaits.mounted.getD s.gaits.admitted

/-- The number of a plan record's failure in step 4, 6 or 7: (class, record). -/
def Gait.findPlan (g : Gait) (bad : PlanRecord → Bool) : Option PlanRecord := g.plans.find? bad

/-- Step 7: a resource on which one unit of an elastic class does not fit at some offset: (class, resource, demand,
capacity). DESIGN CHOICE (log entry 80): of several, the lowest class's, at its lowest offset, on the lowest resource, a
port's FLIT ids as running sums (R47). -/
def State.elasticOver (s : State) (w : Nat) (g : Gait) : Option (Nat × Nat × Nat × Nat) :=
  (List.range g.classes.length).findSome? fun k =>
    match g.classes[k]? with
    | none => none
    | some c =>
      if !c.elastic then none
      else
        (List.range c.len).findSome? fun d =>
          let uses := (g.plans.filter fun p => p.cls = k && p.off = d && kindOf p.res ≠ 0x0F).map fun p =>
            ({ context := c.context, old := false, cls := k, res := p.res, amount := p.amount } : Use)
          (resourcesOf uses).findSome? fun r =>
            let need := demandOn uses (partsOf r)
            if s.capacity w g.units r < need then some (k, r, need, s.capacity w g.units r) else none

/-- Step 8 at stride index `i`, as a refusal record. -/
def State.strideCheck (s : State) (w : Nat) (g : Gait) (i : Nat) : Option Bytes :=
  let uses := g.usesAt false (i : Int) 0 none none
  match s.overCapacity w g.units uses with
  | some (r, c, d, l) => some (refusalRecord 0x01 i r c (g.classOn c (namesOn r)) 0 d l)
  | none =>
    match s.overReservation uses with
    | some (k, c, d, l) => some (refusalRecord 0x02 i (resOf k 0) c (g.classOn c fun x => kindOf x = k) 0 d l)
    | none => none

/-- Step 5: the first minimum of context 0 that a gait lacks: (resource, demand, minimum). DESIGN CHOICE (log entry 80): the
resources are taken in ascending id, and for each the stride indices in ascending order. -/
def Gait.lacksMinimum (g : Gait) (code : Nat) : Option (Nat × Nat × Nat) :=
  (minimaOf code g.units).findSome? fun (r, need) =>
    (List.range g.period).findSome? fun (i : Nat) =>
      let have' := sumNat (((g.usesAt false (i : Int) 0 none none).filter fun u => u.context = 0 && u.res = r).map (·.amount))
      if have' < need then some (r, have', need) else none

/-- Is the gait now checked the first of this remount: none has been adopted, and none is staged ahead of it (R206)? -/
def State.firstGait (s : State) : Bool := s.gaits.mounted.isNone && !(s.gaits.slots.any fun x => x.st = 2)

/-- R46 steps 2 to 8: the status and the refusal record. DESIGN CHOICE (log entry 80): the record of a unit outside the set
(reason 0x03), to which no limit belongs, has limit 0. -/
def State.girthSteps (s : State) (g : Gait) : Nat × Bytes :=
  let w := workCycles s.clk.code
  let mounted := s.mountedSet
  if g.code ≠ s.clk.code ∨ !g.units.within mounted ∨
      -- R206: the first gait holds every DDR channel and stack the farrier admitted
      (s.firstGait ∧ (g.units.ddr ≠ mounted.ddr ∨ g.units.hbmStacks ≠ mounted.hbmStacks)) then
    (stNotUntilRemount, zeros 32)
  else if g.contexts.any (fun c => c.id ≠ 0 && !((SMap.find? s.contexts c.id).any fun x => x.st = 1)) then
    (stNoContext, zeros 32)
  else
    let ctxOf (k : Nat) : Nat := (g.classes[k]?.map (·.context)).getD 0
    match g.findPlan fun p => !g.units.holds p.res with
    | some p => (stDoesNotFit, refusalRecord 0x03 0xFF p.res (ctxOf p.cls) p.cls 0 p.amount 0)
    | none =>
    match g.lacksMinimum s.clk.code with
    | some (r, d, l) => (stDoesNotFit, refusalRecord 0x04 0xFF r 0 0xFFFF 0 d l)
    | none =>
    match g.findPlan fun p => kindOf p.res = 0x0F && decide (w < p.amount) with
    | some p => (stDoesNotFit, refusalRecord 0x05 0xFF p.res (ctxOf p.cls) p.cls 0 p.amount w)
    | none =>
    match s.elasticOver w g with
    | some (k, r, d, l) => (stDoesNotFit, refusalRecord 0x07 0xFF r (ctxOf k) k 0 d l)
    | none =>
    match (List.range g.period).findSome? (s.strideCheck w g) with
    | some rec => (stDoesNotFit, rec)
    | none => (stOk, zeros 32)

/-- R49: the contexts marked isolated. -/
def Gait.isolatedContexts (g : Gait) : List Nat :=
  (g.contexts.filter fun c =>
    c.isolate && ((g.classes.filter fun k => k.context = c.id).all fun k =>
      !k.elastic && (k.ring = 0xFFFF || k.ring / 4 = c.id))).map (·.id)

/-- R46 on an image that a request fetched. -/
def State.girthCheck (s : State) (b : Bytes) (length : Nat) (id? : Option Nat) : Nat × Bytes :=
  let st := gaitStructure b length id?
  if st ≠ stOk then (st, zeros 32) else s.girthSteps (parseGait b)

/-- The longest plan length of a gait. -/
def Gait.longest (g : Gait) : Nat := maxNat (g.classes.map (·.len))

/-- R53: the transition check of gait `b` staged at `e` after gait `a` adopted at `origin`. DESIGN CHOICE (log entry 80): a
reservation that fails here names its kind with instance 0, as reason 0x02 does. -/
def State.transitionCheck (s : State) (a : Gait) (origin : Nat) (b : Gait) (e : Nat) : Nat × Bytes :=
  let w := workCycles s.clk.code
  let units := a.units.union b.units
  let bad := (List.range (a.longest - 1)).findSome? fun i =>
    let t := e + i
    let uses := a.usesAt true t origin (some origin) (some e) ++ b.usesAt false t e (some e) none
    match s.overCapacity w units uses with
    | some (r, c, d, l) => some (refusalRecord 0x06 0xFF r c (transitionClass uses c (namesOn r)) t d l)
    | none =>
      match s.overReservation uses with
      | some (k, c, d, l) =>
        some (refusalRecord 0x06 0xFF (resOf k 0) c (transitionClass uses c fun x => kindOf x = k) t d l)
      | none => none
  match bad with
  | some rec => (stDoesNotFit, rec)
  | none => (stOk, zeros 32)

/-! ## The gaits in force -/

/-- The built-in service gait: context 0 at its minima over a unit set (R52). -/
def serviceGait (code : Nat) (u : UnitSet) : Gait :=
  let plans := (minimaOf code u).map fun (r, a) => ({ cls := 0, off := 0, res := r, amount := a } : PlanRecord)
  { id := 0, period := 1, code := code, units := u, contexts := [{ id := 0, isolate := false, first := 0, count := 1 }],
    classes := [{ context := 0, kind := 8, elastic := false, len := 1, ring := 0xFFFF, first := 0, count := plans.length }],
    plans := plans, adm := [[1]] }

/-- Slot `n`. -/
def State.slot (s : State) (n : Nat) : GaitSlot := s.gaits.slots.getD n GaitSlot.empty

/-- The gait in force and the stride it was adopted at: slot 0, or the service gait (R50, R52). -/
def State.gaitNow (s : State) : Gait × Nat :=
  match (s.slot 0).gait with
  | some g => (g, (s.slot 0).stride)
  | none => (serviceGait s.clk.code s.gaits.admitted, s.node.s0)

/-- The outgoing gaits, with the strides at which each was adopted and replaced, through the strides in which their work may
still run: to E + L_A − 2 (R53). -/
def State.outgoingNow (s : State) : List (Gait × Nat × Nat) :=
  s.gaits.outgoing.filter fun a => s.clk.stride + 2 ≤ a.2.2 + a.1.longest

/-- The units in service for scheduled work: those of the running gait, and of the outgoing ones while their work runs
(R53). -/
def State.unitsNow (s : State) : UnitSet := s.outgoingNow.foldl (fun u a => u.union a.1.units) s.gaitNow.1.units

/-- Is a unit in service: it lies in the mounted set, outside which units are powered down (R52), and in the units of the gaits
whose work runs (R53)? -/
def State.unitUp (s : State) (kind n : Nat) : Bool := s.mountedSet.holds (resOf kind n) && s.unitsNow.holds (resOf kind n)

/-- The gait that will be in force at a boundary: one staged for it, else the present one (R20). -/
def State.gaitAt (s : State) (stride : Nat) : Gait :=
  ((s.gaits.slots.find? fun sl => sl.st = 2 && sl.stride = stride).bind (·.gait)).getD s.gaitNow.1

/-- The outgoing gait under which work admitted in stride `a` runs, with its adoption. -/
def State.outgoingOf (s : State) (a : Nat) : Option (Gait × Nat × Nat) :=
  s.outgoingNow.find? fun o => decide (o.2.1 ≤ a ∧ a < o.2.2)

/-- The gait under which work admitted in stride `a` runs, and its adoption: the running one, or the outgoing one in force at
`a` (R53). -/
def State.gaitOf (s : State) (a : Nat) : Gait × Nat :=
  let (g, e) := s.gaitNow
  if e ≤ a then (g, e) else ((s.outgoingOf a).map fun o => (o.1, o.2.1)).getD (g, e)

/-- The class of work admitted in stride `a`. -/
def State.classAt (s : State) (a k : Nat) : Option GaitClass := (s.gaitOf a).1.classes[k]?

/-- The amount that class `k`, admitted in stride `a`, has in stride `at'` of the resources that `on` accepts: what its plan
gives its own unit there (R44, R53), or for a detour class the reserve that all its admissions give that stride (R106). -/
def State.planAt (s : State) (a k : Nat) (on : Nat → Bool) (at' : Nat) : Nat :=
  let (g, e) := s.gaitOf a
  if (g.classes[k]?).any fun c => c.kind = 7 then
    sumNat ((g.plans.filter fun p => p.cls = k && on p.res && decide (e + p.off ≤ at')).map fun p =>
      g.admits k (g.index ((at' : Int) - p.off) e) * p.amount)
  else sumNat ((g.plans.filter fun p => p.cls = k && a + p.off = at' && on p.res).map (·.amount))

/-- The amount of a kind, over all instances, that the plan of class `k`, admitted in stride `a`, gives the present
stride. -/
def State.planNow (s : State) (a k kind : Nat) : Nat := s.planAt a k (fun r => kindOf r = kind) s.clk.stride

/-- Does a share of class `k`, admitted in stride `a` and planned for stride `due`, need more cycles of tile `t` than its plan
gives it there (R151)? A late share of an elastic class is measured by the stride it was planned for (R38). -/
def State.lacks (s : State) (a k due t cost : Nat) : Bool := decide (s.planAt a k (fun r => r = resOf 0x01 t) due < cost)

/-- A share of the work that `word` names to STRIDE_BOUNDARY needs `cost` cycles of tile `t`: where its plan gives less, the
share overruns, and the next boundary stops it (R151, R30). -/
def State.needs (s : State) (word a k due t cost : Nat) : State :=
  if s.lacks a k due t cost && !s.work.overdue.contains word then
    { s with work := { s.work with overdue := s.work.overdue ++ [word] } }
  else s

/-- A share takes request tags beside the `handles` that its work holds, within its plan's TAG amount, which an elastic class
keeps for shares past its plan (R38); they are released with the share, at the next boundary (R88, R28). -/
def State.takeShare (s : State) (a k handles need : Nat) : State :=
  let room := match s.classAt a k with
    | some c => if c.elastic && decide (a + c.len ≤ s.clk.stride) then need else s.planNow a k 0x0B - handles
    | none => 0
  { s with work := { s.work with shareTags := s.work.shareTags + min need room } }

/-- Lmax, the longest plan length of the running gait. -/
def State.lmax (s : State) : Nat := s.gaitNow.1.longest

/-- The class of the running gait that serves a ring: it names the ring id, the context and the kind (R375). -/
def Gait.classOf (g : Gait) (context kind ring : Nat) : Option Nat :=
  (List.range g.classes.length).find? fun k =>
    match g.classes[k]? with
    | some c => c.context = context && c.kind = kind && c.ring = ring
    | none => false

/-- A class of a context and kind that no ring feeds. -/
def Gait.freeClassOf (g : Gait) (context kind : Nat) : Option Nat := g.classOf context kind 0xFFFF

/-- Class `k` of a gait. -/
def Gait.cls? (g : Gait) (k : Nat) : Option GaitClass := g.classes[k]?

/-- The count that class `k` of the running gait admits in the present stride (R39). -/
def State.admitLimit (s : State) (k : Nat) : Nat :=
  let (g, e) := s.gaitNow
  g.admits k (g.index s.stride e)

/-- Units that class `k` has admitted in the present stride. -/
def State.admittedNow (s : State) (k : Nat) : Nat := SMap.getD s.gaits.classAdmitted k 0

/-- Has class `k` room for another unit in the present stride (R29, R37)? -/
def State.classRoom (s : State) (k : Nat) : Bool := s.admittedNow k < s.admitLimit k

/-- Does scheduled work start now: the data plane runs and the stride is in its work window (R28)? -/
def State.working (s : State) : Bool := s.running && s.clk.window = 1 && !s.node.flushing

/-- The admission count of class `k` in a stride. -/
def State.admitsAt (s : State) (k stride : Nat) : Nat :=
  let (g, e) := s.gaitNow
  if e ≤ stride then g.admits k (g.index stride e)
  else ((s.outgoingOf stride).map fun a => a.1.admits k (a.1.index stride a.2.1)).getD 0

/-- Count one unit more of class `k` in the present stride. -/
def State.admitTo (s : State) (k : Nat) : State :=
  { s with gaits := { s.gaits with classAdmitted := SMap.set s.gaits.classAdmitted k (s.admittedNow k + 1) } }

/-- The largest admission count of a class in the period. -/
def Gait.largest (g : Gait) (k : Nat) : Nat := maxNat (g.adm.getD k [])

/-- The amount a class's plan gives a resource at an offset. -/
def Gait.planAmount (g : Gait) (k off res : Nat) : Nat :=
  sumNat ((g.plans.filter fun p => p.cls = k && p.off = off && p.res = res).map (·.amount))

end Sys2Proof.Machine
end

