-- ==== Sys2Proof/Machine/Mailbox.lean ====
section
/-! DEFINITION. The mailbox: submission, taking, replies and notifications (17_messages.md). -/

namespace Sys2Proof.Machine

/-- The IDE stream that carries a function's requests: a selective stream in use whose association holds the function, else the
link stream (R359). The association is the host's, in the IDE Extended Capability (R408). -/
def State.ideStream (s : State) (f : Nat) : Nat :=
  let l := s.link (s.linkOf f)
  (((List.range 8).map (· + 1)).find? fun n =>
    (l.insecure.contains n || l.keys.any fun k => k.stream = n) && Config.ideCovers (s.linkOf f) n f).getD 0

/-- Does a host access through function `f` reach the node: the function is attached, and the stream that carries it is not in the
insecure state (R359, R360)? -/
def State.reach (s : State) (f : Nat) : Bool :=
  (s.func f).attached && ((s.link (s.linkOf f)).insecure.isEmpty || !(s.link (s.linkOf f)).insecure.contains (s.ideStream f))

/-- R364: a write to MB_SUBMIT submits the request area, and is ignored while REQ_FREE is clear. -/
def mbSubmitEff (f : Nat) (s : State) : State :=
  if s.reach f && (s.mailbox f).reqFree then
    s.modMailbox f fun m => { m with reqFree := false, submitted := true, among := m.outstanding }
  else s

/-- MB_SUBMIT -/
def execMbSubmit (f : Nat) (s : State) : Host.Outcome State Fault Refusal := guarded (funcOk f) (mbSubmitEff f) s

/-- The request header in a mailbox's request area (R362). -/
def Mailbox.header (m : Mailbox) : Bytes := readBytes m.area 0 32

/-- The indirect descriptor (R362). -/
def Mailbox.descriptor (m : Mailbox) : Bytes := readBytes m.area 0x20 32

/-- The payload of the submitted request: inline, or as fetched by DMA (R368). -/
def Mailbox.payload (m : Mailbox) (fetched : Bytes) : Bytes :=
  if bitOf (le m.header 6 2) 2 then fit (min (le m.header 12 4) 65536) fetched
  else readBytes m.area 0x40 (min (le m.header 12 4) 1984)

/-- Must a submitted request's payload be fetched: it is indirect, and no check that stands before its check value refuses it, the
length of TRUST_DEBUG_UNLOCK aside, which its payload decides (R368, R370)? -/
def State.fetches (s : State) (f : Nat) : Bool :=
  let m := s.mailbox f
  let opcode := le m.header 2 2
  let d := m.descriptor
  bitOf (le m.header 6 2) 2 && s.formatOk f m.header && decide (le d 0 8 % 64 = 0 ∧ le m.header 12 4 ≤ 65536) &&
    (opcode = 0x0804 || lengthCheck opcode (le m.header 6 2) (le m.header 12 4) (le d 0 8) (le d 8 8) (le d 16 4) [])

/-- May a mailbox's submitted request be taken: the control cores run, and DMA can fetch its payload where one must be? -/
def State.takeable (s : State) (f : Nat) : Bool :=
  (s.mailbox f).submitted && !s.ctl.coreDown && !(s.fetches f && !s.dmaOk f)

/-- The mailbox whose request is taken next: in rotation by function number, from the one after the last (R378). -/
def State.nextTaken (s : State) : Option Nat :=
  ((List.range 64).map fun i => (s.ctl.turn + 1 + i) % 64).find? s.takeable

/-- The submitted request as it is taken, with the verdict of R370's checks. -/
def State.takenRequest (s : State) (f : Nat) (fetched : Bytes) : Request :=
  let m := s.mailbox f
  let h := m.header
  let p := m.payload fetched
  { func := f, opcode := le h 2 2, context := le h 4 2, flags := le h 6 2, tag := le h 8 4, stamp := le h 16 8,
    payload := p, replyAddr := le m.descriptor 8 8, refusal := s.requestCheck f h m.descriptor p, order := s.ctl.takenCount,
    others := m.among, mute := false }

/-- R364, R370, R378: take the submitted request and check it, when its function's turn has come. A payload that DMA cannot fetch
leaves it waiting. -/
def requestTakeEff (f : Nat) (fetched : Bytes) (s : State) : State :=
  if s.nextTaken ≠ some f then s
  else
    let q := s.takenRequest f fetched
    ({ s with ctl := { s.ctl with turn := f, takenCount := s.ctl.takenCount + 1 } }.modMailbox f fun m =>
      { m with submitted := false, outstanding := m.outstanding + 1, reqFree := decide (m.outstanding + 1 < 32),
               taken := m.taken ++ [q] }).flush f

/-- REQUEST_TAKE -/
def execRequestTake (f : Nat) (fetched : Bytes) (s : State) : Host.Outcome State Fault Refusal :=
  guarded (funcOk f) (requestTakeEff f fetched) s

/-- R365, R364: a write to MB_REPLY_ACK frees the reply area, and lets REQ_FREE return where fewer than 32 requests are
outstanding. -/
def mbReplyAckEff (f : Nat) (s : State) : State :=
  if s.reach f && (s.mailbox f).replyValid then
    s.modMailbox f fun m => { m with replyValid := false, reqFree := m.ready && !m.submitted && decide (m.outstanding < 32) }
  else s

/-- MB_REPLY_ACK -/
def execMbReplyAck (f : Nat) (s : State) : Host.Outcome State Fault Refusal := guarded (funcOk f) (mbReplyAckEff f) s

/-- A reply's header as it is written in a stride (R366, R369): it carries the adopting stride, or else the stride of its
writing. -/
def Reply.header (r : Reply) (stride : Nat) : Bytes :=
  Machine.header r.opcode r.context (if r.indirect.isSome then 9 else 1) r.tag r.payload.length
    (if r.stamp = unstamped then stride else r.stamp) r.status r.payload

/-- May a reply be posted: it is of class E, or no request of its mailbox taken before it waits for its firmware update (R378)? -/
def State.postable (s : State) (f : Nat) (r : Reply) : Bool :=
  (opInfo r.opcode).any (fun i => i.cls = 2) ||
    !s.ctl.deferred.any fun d => decide (d.event = .firmwareWritten ∧ d.request.func = f ∧ d.request.order < r.order)

/-- R365: post the oldest ready reply once the reply area is free. -/
def replyPostEff (f : Nat) (s : State) : State :=
  let m := s.mailbox f
  match m.replies.find? (s.postable f) with
  | none => s
  | some r =>
    if m.replyValid || !m.ready || s.ctl.coreDown then s
    else
      let s1 := match r.indirect with
        | some a => s.dma f a r.payload
        | none => s
      let body := if r.indirect.isSome then r.header s.stride else r.header s.stride ++ r.payload
      (s1.modMailbox f fun m =>
        { m with replies := m.replies.erase r, replyValid := true, outstanding := m.outstanding - 1,
                 replyArea := putAt (fit 1024 m.replyArea) 0 (body.take 1024) }).cause f causeReply

/-- REPLY_POST -/
def execReplyPost (f : Nat) (s : State) : Host.Outcome State Fault Refusal := guarded (funcOk f) (replyPostEff f) s

/-- R363: a write to NOTE_HEAD, ignored below its present value or beyond NOTE_TAIL, as signed differences. -/
def noteHeadWriteEff (f : Nat) (value : Word32) (s : State) : State :=
  let m := s.mailbox f
  if s.reach f && decide (0 ≤ (value - m.noteHead).toInt) && decide (0 ≤ (m.noteTail - value).toInt) then
    s.modMailbox f fun m => { m with noteHead := value }
  else s

/-- NOTE_HEAD_WRITE -/
def execNoteHeadWrite (f : Nat) (value : Word32) (s : State) : Host.Outcome State Fault Refusal :=
  guarded (funcOk f) (noteHeadWriteEff f value) s

/-- A notification as its slot holds it (R366, R377). -/
def Note.bytes (n : Note) : Bytes :=
  fit 96 (Machine.header n.opcode n.context 2 n.tag n.payload.length n.stamp n.status n.payload ++ n.payload)

/-- R377: post the oldest queued notification where a slot is free. -/
def notificationPostEff (f : Nat) (s : State) : State :=
  let m := s.mailbox f
  match m.noteQueue with
  | [] => s
  | n :: rest =>
    if !m.ready || s.ctl.coreDown then s
    else if (m.noteTail - m.noteHead).toNat < 8 then
      (s.modMailbox f fun m =>
        { m with noteQueue := rest, noteSlots := SMap.set m.noteSlots (m.noteTail.toNat % 8) n.bytes,
                 noteTail := m.noteTail + 1 }).cause f causeNotify
    else s

/-- NOTIFICATION_POST -/
def execNotificationPost (f : Nat) (s : State) : Host.Outcome State Fault Refusal :=
  guarded (funcOk f) (notificationPostEff f) s

end Sys2Proof.Machine
end

