-- ==== Sys2Proof/Machine/Registers.lean ====
section
/-! DEFINITION. BAR0: writes by access code, causes and masks, doorbells, MSI-X and the stride counter mirror
(16_host_registers.md, 09_arbitration.md). -/

namespace Sys2Proof.Machine

/-- A write-one-to-clear register after a write, where the bits of `reassert` reassert in the same cycle (R7). -/
def clearOnes (reg value reassert : Word32) : Word32 := reg &&& ~~~(value &&& ~~~reassert)

/-- R346: write one to clear INT_CAUSE bits; a bit whose cause reasserts in the same cycle stays set (R7). -/
def intCauseClearEff (f : Nat) (value reassert : Word32) (s : State) : State :=
  if s.reach f then s.modFunc f fun r => { r with intCause := clearOnes r.intCause value reassert } else s

/-- INT_CAUSE_CLEAR -/
def execIntCauseClear (f : Nat) (value reassert : Word32) (s : State) : Host.Outcome State Fault Refusal :=
  guarded (funcOk f) (intCauseClearEff f value reassert) s

/-- R346: a write to INT_MASK takes effect at once and sends vector 0 when it unmasks a set cause. -/
def intMaskWriteEff (f : Nat) (value : Word32) (s : State) : State :=
  if s.reach f then
    let r := s.func f
    let s' := s.modFunc f fun r => { r with intMask := value }
    if r.intCause &&& r.intMask &&& ~~~value ≠ 0 then s'.vector f 0 else s'
  else s

/-- INT_MASK_WRITE -/
def execIntMaskWrite (f : Nat) (value : Word32) (s : State) : Host.Outcome State Fault Refusal :=
  guarded (funcOk f) (intMaskWriteEff f value) s

/-- R346: writing 1 to DB_FAULT.VALID clears it. -/
def dbFaultClearEff (f : Nat) (value reassert : Word32) (s : State) : State :=
  if s.reach f then s.modFunc f fun r => { r with dbFault := clearOnes r.dbFault (value &&& 0x8000_0000) reassert } else s

/-- DB_FAULT_CLEAR -/
def execDbFaultClear (f : Nat) (value reassert : Word32) (s : State) : Host.Outcome State Fault Refusal :=
  guarded (funcOk f) (dbFaultClearEff f value reassert) s

/-- R357: writing 1 to BAR2_ERR.VALID re-arms the latch. -/
def bar2ErrClearEff (f : Nat) (value reassert : Word32) (s : State) : State :=
  if s.reach f then s.modFunc f fun r => { r with bar2Err := clearOnes r.bar2Err (value &&& 0x8000_0000) reassert } else s

/-- BAR2_ERR_CLEAR -/
def execBar2ErrClear (f : Nat) (value reassert : Word32) (s : State) : Host.Outcome State Fault Refusal :=
  guarded (funcOk f) (bar2ErrClearEff f value reassert) s

/-- R194: the arbiter range is live in the PF of link 0 alone. -/
def State.arbLive (s : State) (f : Nat) : Bool := s.reach f && f = 0

/-- R195: write one to clear ARB_FLAGS bits. -/
def arbFlagsClearEff (f n : Nat) (value reassert : Word32) (s : State) : State :=
  if s.arbLive f then s.modArbiter n fun a => { a with flags := clearOnes a.flags value reassert } else s

/-- ARB_FLAGS_CLEAR -/
def execArbFlagsClear (f n : Nat) (value reassert : Word32) (s : State) : Host.Outcome State Fault Refusal :=
  guarded (funcOk f && arbiterOk n) (arbFlagsClearEff f n value reassert) s

/-- R347: a 4-byte read of STRIDE_LO latches the upper half; the page reads zero until the node joins the herd. -/
def strideLoReadEff (f : Nat) (s : State) : State :=
  if s.reach f then
    let v := if s.node.joined then s.clk.stride else 0
    (s.modFunc f fun r => { r with strideHi := BitVec.ofNat 32 (v / 2 ^ 32) }).pcie f 0 (toLe 4 v)
  else s.pcie f 3 []

/-- STRIDE_LO_READ -/
def execStrideLoRead (f : Nat) (s : State) : Host.Outcome State Fault Refusal :=
  guarded (funcOk f) (strideLoReadEff f) s

/-! ## Doorbells (R349 to R353) -/

/-- Doorbells that exist: four in each of 4,096 context blocks, and 1,024 storage queues. -/
def bellOk : Doorbell → Bool
  | .ring c i => c < 4096 && i < 4
  | .queue q => q < 1024

/-- The ring or queue behind a doorbell. -/
def State.bell (s : State) : Doorbell → Option Ring
  | .ring c i => SMap.find? s.rings (4 * c + i)
  | .queue q => SMap.find? s.queues q

/-- Change the ring or queue behind a doorbell. -/
def State.modBell (s : State) (b : Doorbell) (g : Ring → Ring) : State :=
  match b with
  | .ring c i => { s with rings := SMap.update s.rings (4 * c + i) g }
  | .queue q => { s with queues := SMap.update s.queues q g }

/-- Is the doorbell block live in function `f`: a block of a context bound to it (R343, R353)? -/
def State.bellLive (s : State) (f : Nat) (b : Doorbell) : Bool :=
  s.reach f && match b with
    | .ring c _ => (SMap.find? s.contexts c).any fun x => x.func = f
    | .queue q => (SMap.find? s.queues q).any fun r => r.func = f

/-- DB_FAULT as it latches an ignored write (R346). -/
def dbFaultWord (context : Nat) (b : Doorbell) (reason : Nat) : Word32 :=
  BitVec.ofNat 32 (match b with
    | .ring c i => c + i * 2 ^ 12 + reason * 2 ^ 25 + 2 ^ 31
    | .queue q => context + 2 ^ 14 + q * 2 ^ 15 + reason * 2 ^ 25 + 2 ^ 31)

/-- R350: an ignored doorbell write sets DOORBELL_FAULT and latches the first fault. -/
def State.doorbellFault (s : State) (f : Nat) (b : Doorbell) (reason : Nat) : State :=
  let context := ((s.bell b).map (·.context)).getD 0
  (s.modFunc f fun r => if bitOf r.dbFault.toNat 31 then r else { r with dbFault := dbFaultWord context b reason }).cause
    f causeDoorbell

/-- Is a ring open to its host? -/
def Ring.usable (r : Ring) : Bool := r.isOpen && !r.lost

/-- R350: why a SUB_TAIL write is ignored, 0 for none. -/
def Ring.tailFault (r : Ring) (value : Word32) : Nat :=
  if !r.usable then 1
  else if (value - r.subTail).toInt < 0 then 2
  else if 0 < (value - BitVec.ofNat 32 (r.admitted + r.depth)).toInt then 3
  else 0

/-- R350: why a CPL_HEAD write is ignored, 0 for none. -/
def Ring.headFault (r : Ring) (value : Word32) : Nat :=
  if !r.usable then 1
  else if (value - r.cplHead).toInt < 0 then 2
  else if 0 < (value - r.cplTail).toInt then 4
  else 0

/-- A doorbell write: ignored in a block that is not live, else taken, or a doorbell fault. -/
def State.doorbell (s : State) (f : Nat) (b : Doorbell) (fault : Ring → Nat) (g : Ring → Ring) : State :=
  if !s.bellLive f b then s
  else
    match s.bell b with
    | none => s.doorbellFault f b 1
    | some r => if fault r = 0 then s.modBell b g else s.doorbellFault f b (fault r)

/-- SUB_TAIL posts entries (R349, R350). -/
def subTailWriteEff (f : Nat) (b : Doorbell) (value : Word32) (s : State) : State :=
  s.doorbell f b (fun r => r.tailFault value) fun r => { r with subTail := value }

/-- SUB_TAIL_WRITE -/
def execSubTailWrite (f : Nat) (b : Doorbell) (value : Word32) (s : State) : Host.Outcome State Fault Refusal :=
  guarded (funcOk f && bellOk b) (subTailWriteEff f b value) s

/-- CPL_HEAD consumes completions (R349, R350). -/
def cplHeadWriteEff (f : Nat) (b : Doorbell) (value : Word32) (s : State) : State :=
  s.doorbell f b (fun r => r.headFault value) fun r => { r with cplHead := value }

/-- CPL_HEAD_WRITE -/
def execCplHeadWrite (f : Nat) (b : Doorbell) (value : Word32) (s : State) : Host.Outcome State Fault Refusal :=
  guarded (funcOk f && bellOk b) (cplHeadWriteEff f b value) s

/-- R354: unmasking a vector sends its message if its pending bit is set; one of a ring or queue stays pending until cycle
4,095 in a commit window. -/
def msixVectorUnmaskEff (f v : Nat) (s : State) : State :=
  if s.reach f then
    let bit := BitVec.ofNat 32 (2 ^ v)
    let now := bitOf (s.func f).msixPending.toNat v && (v = 0 || s.clk.window ≠ 0)
    let s' := s.modFunc f fun r => { r with msixMask := r.msixMask &&& ~~~bit }
    if now then (s'.modFunc f fun r => { r with msixPending := r.msixPending &&& ~~~bit }).vector f v else s'
  else s

/-- A vector is masked: its messages pend (R354). -/
def msixVectorMask (f v : Nat) (s : State) : State :=
  s.modFunc f fun r => { r with msixMask := r.msixMask ||| BitVec.ofNat 32 (2 ^ v) }

/-- MSIX_VECTOR_UNMASK: every function has vectors 0 to 31 (R354). -/
def execMsixVectorUnmask (f v : Nat) (s : State) : Host.Outcome State Fault Refusal :=
  guarded (funcOk f && decide (v < 32)) (msixVectorUnmaskEff f v) s

/-- An aperture whose registers read zero. -/
def Aperture.zero : Aperture := { ctl := 0, target := 0, base := 0 }

end Sys2Proof.Machine
end

