-- ==== Sys2Proof/Machine/Bar2.lean ====
section
/-! DEFINITION. Memory-semantic operations at their issuer (R303, R306, R307), and BAR2 (R355 to R358). -/

namespace Sys2Proof.Machine

/-! ## Operations at the issuer -/

/-- The code of a size of 1, 2, 4 or 8 bytes (R303). -/
def sizeCode (bytes : Nat) : Nat := if bytes = 1 then 0 else if bytes = 2 then 1 else if bytes = 4 then 2 else 3

/-- A fabric address (R302). -/
def fabricAddress (node window offset : Nat) : Nat := node % 2 ^ 15 + window % 2 ^ 9 * 2 ^ 15 + offset % 2 ^ 40 * 2 ^ 24

/-- An operation record, request or response (R303). -/
def opRecord (address op size requester context flags tag status a b result : Nat) : Bytes :=
  toLe 8 address ++ toLe 1 op ++ toLe 1 size ++ toLe 2 requester ++ toLe 2 context ++ toLe 1 flags ++ zeros 1 ++
    toLe 4 tag ++ toLe 2 status ++ zeros 2 ++ toLe 8 a ++ toLe 8 b ++ toLe 8 result ++ zeros 16

/-- Issue an operation: its tag, or the status it completes with at once: ST_TARGET_LOST at a fenced target (R328),
ST_NO_RESOURCE when no request tag is left (log entry 69). -/
def State.issueOp (s : State) (cls context : Nat) (func : Option Nat) (address op size a b : Nat) : State × (Nat ⊕ Nat) :=
  let node := address % 2 ^ 15
  if s.isFenced node then (s, .inr stTargetLost)
  else
    match s.freeTag with
    | none => (s, .inr stNoResource)
    | some t =>
      let o : OutOp := { tag := t, node := node, window := address / 2 ^ 15 % 2 ^ 9, context := context, cls := cls,
                         issued := s.stride, func := func }
      let s1 := s.takeTag t
      let s2 := { s1 with fab := { s1.fab with ops := s1.fab.ops ++ [o] } }
      (s2.send cls node (opRecord address op size s.me context 0 t 0 a b 0), .inl t)

/-! ## BAR2 requests -/

/-- The fewest naturally aligned pieces of at most 8 bytes, in ascending address: (offset, bytes) (R356). -/
def splitPieces : Nat → Nat → Nat → List (Nat × Nat)
  | 0, _, _ => []
  | fuel + 1, a, n =>
    if n = 0 then []
    else
      let b := if a % 8 = 0 ∧ 8 ≤ n then 8 else if a % 4 = 0 ∧ 4 ≤ n then 4 else if a % 2 = 0 ∧ 2 ≤ n then 2 else 1
      (a, b) :: splitPieces fuel (a + b) (n - b)

/-- BAR2 is 64 GiB: 64 apertures of 1 GiB (R355). -/
def bar2Size : Nat := 2 ^ 36

/-- The aperture of a BAR2 offset. -/
def apertureOf (address : Nat) : Nat := address / 2 ^ 30

/-- Is an aperture valid? -/
def Aperture.valid (a : Aperture) : Bool := bitOf a.ctl.toNat 0

/-- Its mode. -/
def Aperture.mode (a : Aperture) : Nat := bitsOf a.ctl.toNat 1 3

/-- Its issuing context. -/
def Aperture.ctx (a : Aperture) : Nat := bitsOf a.ctl.toNat 16 12

/-- The fabric address of a BAR2 offset (R355). -/
def Aperture.address (a : Aperture) (offset : Nat) : Nat :=
  fabricAddress (bitsOf a.target.toNat 0 15) (bitsOf a.target.toNat 16 9) (bitsOf a.base.toNat 0 10 * 2 ^ 30 + offset % 2 ^ 30)

/-- Latch a failure in BAR2_ERR, where none stands since VALID was cleared, and set BAR2_ERROR (R355, R357). -/
def State.bar2Latch (s : State) (f status aperture : Nat) (write : Bool) (address : Nat) : State :=
  (s.modFunc f fun r =>
    if bitOf r.bar2Err.toNat 31 then r
    else
      { r with bar2Err := BitVec.ofNat 32 (status % 2 ^ 16 + aperture % 64 * 2 ^ 16 + bit01 write * 2 ^ 22 + 2 ^ 31),
                bar2ErrAddr := BitVec.ofNat 64 address }).cause f causeBar2

/-- R357: count a failed operation, and latch it. -/
def State.bar2Fail (s : State) (f status aperture : Nat) (write : Bool) (address : Nat) : State :=
  (s.modFunc f fun r =>
    { r with bar2ErrCount := if r.bar2ErrCount = 0xFFFF_FFFF then r.bar2ErrCount else r.bar2ErrCount + 1 }).bar2Latch f status
    aperture write address

/-- The completion of a request whose every piece has its result (R356, R357). -/
def State.bar2Complete (s : State) (q : Bar2Request) : State :=
  let bytes := sumNat (q.pieces.map fun p => p.2.2)
  if q.kind = 1 then s
  else
    match q.failed with
    | none => s.pcie q.func 0 (q.pieces.flatMap fun p => toLe p.2.2 (SMap.getD q.done p.1 0))
    | some st =>
      if st = stPoisoned then
        (s.pcie q.func 1 (List.replicate bytes 0xFF)).cause q.func causePoison
      else s.pcie q.func 2 []

/-- Is every piece of a request done? -/
def Bar2Request.finished (q : Bar2Request) : Bool := q.pieces.all fun p => SMap.has q.done p.1

/-- Take up a request: its pieces as operations, in ascending address. `op?` refuses a piece with a status or gives its
operation and operands by (offset, bytes). -/
def State.bar2Start (s : State) (f kind address : Nat) (ap : Aperture) (pieces : List (Nat × Nat))
    (op : Nat → Nat → Nat ⊕ (Nat × Nat × Nat)) : State :=
  let q0 : Bar2Request := { func := f, kind := kind, address := address, aperture := apertureOf address, pieces := [],
                            done := [], failed := none }
  let failPiece (s : State) (q : Bar2Request) (p : Nat × Nat) (st : Nat) : State × Bar2Request :=
    let t := 2 ^ 18 + q.pieces.length
    (s.bar2Fail f st q.aperture (kind = 1) p.1,
     { q with pieces := q.pieces ++ [(t, p.1, p.2)], done := SMap.set q.done t 0,
              failed := match q.failed with | none => some st | some x => some x })
  let (t, q) := pieces.foldl (fun (s, q) p =>
    match op p.1 p.2 with
    | .inl st => failPiece s q p st
    | .inr (code, a, b) =>
      match s.issueOp 4 ap.ctx (some f) (ap.address p.1) code (sizeCode p.2) a b with
      | (s', .inl tag) => (s', { q with pieces := q.pieces ++ [(tag, p.1, p.2)] })
      | (s', .inr st) => failPiece s' q p st) (s, q0)
  if q.finished then t.bar2Complete q else { t with fab := { t.fab with requests := t.fab.requests ++ [q] } }

/-- The aperture in force that an address falls in. -/
def State.aperture (s : State) (f address : Nat) : Aperture := SMap.getD (s.func f).apLive (apertureOf address) Aperture.zero

/-- A request in an invalid aperture fails whole (R357). -/
def State.bar2Invalid (s : State) (f kind address : Nat) : State :=
  let t := s.bar2Fail f stBadValue (apertureOf address) (kind = 1) address
  if kind = 1 then t else t.pcie f 2 []

/-- A BAR2 read that is not held (R356). -/
def State.bar2DoRead (s : State) (f address length : Nat) : State :=
  let ap := s.aperture f address
  if !ap.valid then s.bar2Invalid f 0 address
  else s.bar2Start f 0 address ap (splitPieces length address length) fun _ _ => .inr (1, 0, 0)

/-- The operation of an aperture mode (R355): STORE, ADD, MIN_S, MIN_U, MAX_S, MAX_U; other modes are refused. -/
def modeOp (mode : Nat) : Option Nat :=
  match mode with
  | 0 => some 2
  | 1 => some 3
  | 2 => some 6
  | 3 => some 7
  | 4 => some 8
  | 5 => some 9
  | _ => none

/-- A BAR2 write that is not held. -/
def State.bar2DoWrite (s : State) (f address : Nat) (data : Bytes) : State :=
  let ap := s.aperture f address
  if !ap.valid then s.bar2Invalid f 1 address
  else s.bar2Start f 1 address ap (splitPieces data.length address data.length) fun off n =>
    match modeOp ap.mode with
    | none => .inl stBadValue
    | some op => if op ≠ 2 ∧ n < 4 then .inl stBadValue else .inr (op, le data (off - address) n, 0)

/-- A BAR2 AtomicOp that is not held: 0 FetchAdd, 1 Swap, 2 CAS (R356). -/
def State.bar2DoAtomic (s : State) (f address op size : Nat) (a b : Word64) : State :=
  let ap := s.aperture f address
  if !ap.valid then s.bar2Invalid f 2 address
  else s.bar2Start f 2 address ap [(address, size)] fun _ _ =>
    if ap.mode ≠ 0 then .inl stBadValue
    else .inr (if op = 0 then 3 else if op = 1 then 4 else 5, a.toNat % 256 ^ size, b.toNat % 256 ^ size)

/-- Operations of BAR2 that function `f` has outstanding. -/
def State.bar2Tags (s : State) (f : Nat) : List Nat := (s.fab.ops.filter fun o => o.func = some f).map (·.tag)

/-- R358: a fence waits for every operation issued before it. -/
def State.bar2DoFence (s : State) (f : Nat) : State := s.modFunc f fun r => { r with fenceTags := s.bar2Tags f }

/-- Run one held request. -/
def State.bar2Run (s : State) : Instr → State
  | .bar2Fence f => s.bar2DoFence f
  | .bar2Read f a n => s.bar2DoRead f a n
  | .bar2Write f a d => s.bar2DoWrite f a d
  | .bar2Atomic f a op n x y => s.bar2DoAtomic f a op n x y
  | _ => s

/-- Run a function's held requests, oldest first, until a fence waits again. -/
def State.bar2Release (f : Nat) : Nat → State → State
  | 0, s => s
  | fuel + 1, s =>
    match (s.func f).fenceTags, (s.func f).held with
    | [], i :: rest => State.bar2Release f fuel ((s.modFunc f fun r => { r with held := rest }).bar2Run i)
    | _, _ => s

/-- Take a request: held behind a fence, or run at once (R358). -/
def State.bar2Take (s : State) (f : Nat) (i : Instr) : State :=
  if (s.func f).fenceTags.isEmpty && (s.func f).held.isEmpty then s.bar2Run i
  else s.modFunc f fun r => { r with held := r.held ++ [i] }

/-- Does a BAR2 request reach the node? A read or AtomicOp that does not is answered with Unsupported Request (R359). -/
def bar2Eff (f : Nat) (i : Instr) (completes : Bool) (s : State) : State :=
  if s.reach f then s.bar2Take f i else if completes then s.pcie f 3 [] else s

/-- BAR2_FENCE (R358) -/
def execBar2Fence (f : Nat) (s : State) : Host.Outcome State Fault Refusal :=
  guarded (funcOk f) (bar2Eff f (.bar2Fence f) false) s

/-- BAR2_READ (R356): a PCI Express read is at most 4 KiB. -/
def execBar2Read (f address length : Nat) (s : State) : Host.Outcome State Fault Refusal :=
  guarded (funcOk f && decide (address < bar2Size ∧ 0 < length ∧ length ≤ 4096)) (bar2Eff f (.bar2Read f address length) true) s

/-- BAR2_WRITE (R356): at most 512 bytes, the greatest payload (R340). -/
def execBar2Write (f address : Nat) (data : Bytes) (s : State) : Host.Outcome State Fault Refusal :=
  guarded (funcOk f && decide (address < bar2Size ∧ 0 < data.length ∧ data.length ≤ 512))
    (bar2Eff f (.bar2Write f address data) false) s

/-- An AtomicOp of the sizes that the node completes; a CAS of 16 bytes is answered with Unsupported Request (R340). -/
def bar2AtomicEff (f address op size : Nat) (a b : Word64) (s : State) : State :=
  if size = 16 then s.pcie f 3 [] else bar2Eff f (.bar2Atomic f address op size a b) true s

/-- BAR2_ATOMIC (R356): FetchAdd, Swap or CAS of 4 or 8 bytes, and CAS of 16. -/
def execBar2Atomic (f address op size : Nat) (a b : Word64) (s : State) : Host.Outcome State Fault Refusal :=
  guarded (funcOk f && decide (address < bar2Size ∧ op < 3 ∧ (size = 4 ∨ size = 8 ∨ (size = 16 ∧ op = 2))))
    (bar2AtomicEff f address op size a b) s

/-! ## Responses (R303, R306, R307) -/

/-- Enter a result into the BAR2 request that an operation belongs to. -/
def State.bar2Result (s : State) (f tag status result : Nat) : State :=
  match s.fab.requests.find? fun q => q.func = f && q.pieces.any fun p => p.1 = tag with
  | none => s
  | some q =>
    let at' := ((q.pieces.find? fun p => p.1 = tag).map fun p => p.2.1).getD q.address
    let s1 := if status = stOk then s else s.bar2Fail f status q.aperture (q.kind = 1) at'
    let q1 := { q with
      done := SMap.set q.done tag result,
      failed := if status = stOk then q.failed else match q.failed with | none => some status | some x => some x }
    let rest := s1.fab.requests.erase q
    if q1.finished then ({ s1 with fab := { s1.fab with requests := rest } }).bar2Complete q1
    else { s1 with fab := { s1.fab with requests := s1.fab.requests.map fun x => if x = q then q1 else x } }

/-- An operation completes: its tag is free, fences no longer wait for it, and its BAR2 request has its result. -/
def State.completeOp (s : State) (o : OutOp) (status result : Nat) : State :=
  let s1 := { s with fab := { s.fab with
    ops := s.fab.ops.erase o,
    classFences := (SMap.mapVals s.fab.classFences fun _ l => l.filter (· ≠ o.tag)).filter fun p => !p.2.isEmpty } }
  let s2 := s1.dropTag o.tag
  match o.func with
  | none => s2
  | some f =>
    let s3 := (s2.bar2Result f o.tag status result).modFunc f fun r => { r with fenceTags := r.fenceTags.filter (· ≠ o.tag) }
    State.bar2Release f (s3.func f).held.length s3

/-- OPERATION_TIMEOUT (R307): operations without a response by the end of the second stride after their issue. -/
def operationTimeoutEff (s : State) : State :=
  (s.fab.ops.filter fun o => o.issued + 2 < s.stride).foldl (fun s o => s.completeOp o stTargetLost 0) s

/-- OPERATION_TIMEOUT -/
def execOperationTimeout (s : State) : Host.Outcome State Fault Refusal := guarded true operationTimeoutEff s

/-- SCHEDULED_OPERATION_ISSUE (R303, R306): an operation of a kind 6 class on class 3, or its fence. An operation behind
a fence that still waits is not sent. -/
def scheduledOperationIssueEff (cls : Nat) (record : Bytes) (isFence : Bool) (s : State) : State :=
  match s.gaitNow.1.cls? cls with
  | none => s
  | some c =>
    if !s.working || c.kind ≠ 6 then s
    else if isFence then
      let tags := (s.fab.ops.filter fun o => o.cls = 3 && o.context = c.context).map (·.tag)
      if tags.isEmpty then s else { s with fab := { s.fab with classFences := SMap.set s.fab.classFences c.context tags } }
    else if SMap.has s.fab.classFences c.context || !s.classRoom cls then s
    else
      ((s.admitTo cls).issueOp 3 c.context none (le record 0 8) (byteAt record 8) (byteAt record 9) (le record 24 8) (le record 32 8)).1

/-- SCHEDULED_OPERATION_ISSUE -/
def execScheduledOperationIssue (cls : Nat) (record : Bytes) (isFence : Bool) (s : State) :
    Host.Outcome State Fault Refusal :=
  guarded (decide (cls < 16384)) (scheduledOperationIssueEff cls record isFence) s

end Sys2Proof.Machine
end

