-- ==== Sys2Proof/Machine/Link.lean ====
section
/-! DEFINITION. Links and functions attach and detach (R339, R340, R359 to R361, R449). -/

namespace Sys2Proof.Machine

/-! ## What enumeration finds (R340) -/

/-- Vendor id. -/
abbrev vendorId : Nat := 0x1F5C

/-- Device id of a function: a PF's or a VF's. -/
def State.deviceId (s : State) (f : Nat) : Nat := if s.isPf f then 0x7200 else 0x7201

/-- Class code: processing accelerator. -/
abbrev classCode : Nat := 0x12_0000

/-- Sizes of BAR0, BAR2 and BAR4 (R342). -/
def barSize (bar : Nat) : Nat := if bar = 0 then 2 ^ 21 else if bar = 2 then 2 ^ 36 else if bar = 4 then 2 ^ 13 else 0

/-- The PCI Express lanes of a link (R339): ×16, or ×8 each in mode 1. -/
def State.linkLanes (s : State) (link : Nat) : List Nat :=
  if s.linkMode = 1 then (List.range 8).map (· + 8 * link) else List.range 16

/-- The highest rate of those that a host's port shares with the node, which has all six (R339). -/
def commonRate (rates : BitVec 6) : Nat := maxNat ((bitList 6 rates.toNat).map (· + 1))

/-! ## Attaching and detaching -/

/-- A lost ring: its host sees it no more, and what it holds is discarded (R360, R361). -/
def Ring.lose (r : Ring) : Ring := { r with lost := true, written := [], placed := 0 }

/-- A ring or queue of a function that detaches before it was opened opens closed (R360). -/
def Change.losing (f : Nat) : Change → Change
  | .openRing id r => .openRing id (if r.func = f then { r.lose with closing := true } else r)
  | .openQueue id r => .openQueue id (if r.func = f then { r.lose with closing := true } else r)
  | c => c

/-- What a detachment does to a function at once (R360): registers and mailbox return to reset, its outstanding requests
are still carried out and never answered, its BAR2 requests are discarded, and its rings are lost to it. -/
def State.detach (s : State) (f : Nat) : State :=
  let mute (q : Request) : Request := { q with mute := true }
  let s1 := s.modFunc f fun _ => { FuncRegs.reset with detachPending := true }
  let s2 := s1.modMailbox f fun m => { Mailbox.reset with taken := m.taken.map mute }
  { s2 with
    ctl := { s2.ctl with
      deferred := s2.ctl.deferred.map fun d => if d.request.func = f then { d with request := mute d.request } else d,
      heldNotes := s2.ctl.heldNotes.filter fun p => p.1 ≠ f },
    fab := { s2.fab with requests := s2.fab.requests.filter fun r => r.func ≠ f },
    changes := s2.changes.map fun c => { c with change := c.change.losing f },
    rings := SMap.mapVals s2.rings fun _ r => if r.func = f then r.lose else r,
    queues := SMap.mapVals s2.queues fun _ r => if r.func = f then r.lose else r,
    tel := { s2.tel with
      select := if f = 0 then 0 else s2.tel.select,
      dropped := s2.tel.dropped + sumNat (((s2.rings.map (·.2) ++ s2.queues.map (·.2)).filter fun r => r.func = f).map fun r =>
        r.written.length) } }

/-- A function attaches: its registers read their reset values and the control plane serves its mailbox (R361, R371). -/
def State.attach (s : State) (f : Nat) : State :=
  let s1 := s.modFunc f fun r => { r with attached := true }
  if s.node.served then s1.modMailbox f fun m => { m with ready := true, reqFree := true } else s1

/-- Detach each attached function of a list. -/
def State.detachAll (s : State) (fs : List Nat) : State :=
  fs.foldl (fun s f => if (s.func f).attached then s.detach f else s) s

/-- The other link's PF learns that this link came up or went down, in mode 1 (R346). -/
def State.peerLink (s : State) (link : Nat) : State :=
  if s.linkMode = 1 then s.cause (32 * (1 - link)) causePeer else s

/-- R339, R413: a link trains to the highest common rate, once the tack image is accepted. Its host enumerates every function
that the mode gives the link (log entry 13). -/
def linkUpEff (link : Nat) (rates : BitVec 6) (s : State) : State :=
  if (s.link link).up || !s.hasLink link || !s.node.railsOn || s.node.tack.isNone || rates = 0 then s
  else
    let s1 := s.modLink link fun _ =>
      { Link.reset with up := true, rate := commonRate rates, lanes := s.linkLanes link,
                        numVfs := (s.linkFuncs link).length - 1 }
    ((s.linkFuncs link).foldl State.attach s1).peerLink link

/-- Links 0 and 1 exist (R339). -/
def linkOk (link : Nat) : Bool := link < 2

/-- LINK_UP -/
def execLinkUp (link : Nat) (rates : BitVec 6) (s : State) : Host.Outcome State Fault Refusal :=
  guarded (linkOk link) (linkUpEff link rates) s

/-- R360, R408: a link goes down; its functions detach and its IDE keys are erased. -/
def linkDownEff (link : Nat) (s : State) : State :=
  if (s.link link).up then
    ((s.detachAll (s.linkFuncs link)).modLink link fun _ => Link.reset).peerLink link
  else s

/-- LINK_DOWN -/
def execLinkDown (link : Nat) (s : State) : Host.Outcome State Fault Refusal := guarded (linkOk link) (linkDownEff link) s

/-- PERST_N_ASSERT: it resets the PCI Express interface of its link and nothing else (R449, R360). -/
def execPerstNAssert (link : Nat) (s : State) : Host.Outcome State Fault Refusal :=
  guarded (linkOk link) (linkDownEff link) s

/-- R360, R372: a function resets. It detaches and, its reset done, is attached again with registers at reset. -/
def functionLevelResetEff (f : Nat) (s : State) : State :=
  if (s.func f).attached then (s.detach f).attach f else s

/-- FUNCTION_LEVEL_RESET -/
def execFunctionLevelReset (f : Nat) (s : State) : Host.Outcome State Fault Refusal :=
  guarded (funcOk f) (functionLevelResetEff f) s

/-- The VFs of a link above the first `n`. -/
def State.vfsAbove (s : State) (link n : Nat) : List Nat := (s.linkFuncs link).drop (n + 1)

/-- R360: NumVFs of a link is written (0: VF Enable cleared). The VFs removed detach; VFs enabled again attach. -/
def vfRemovalEff (link n : Nat) (s : State) : State :=
  if (s.link link).up then
    let gone := s.detachAll (s.vfsAbove link n)
    let back := (s.linkFuncs link).take (n + 1)
    (back.foldl (fun s f => if (s.func f).attached then s else s.attach f) gone).modLink link fun l => { l with numVfs := n }
  else s

/-- VF_REMOVAL: NumVFs runs to 63, or 31 per link in mode 1 (R340). -/
def execVfRemoval (link n : Nat) (s : State) : Host.Outcome State Fault Refusal :=
  guarded (linkOk link && decide (n < 64)) (fun s => vfRemovalEff link (min n ((s.linkFuncs link).length - 1)) s) s

/-- IDE_INTEGRITY_FAILURE: the TLP is discarded and reported through AER, and its stream enters the insecure state, its keys
no longer good, until new keys are installed (R359). -/
def execIdeIntegrityFailure (link stream : Nat) (s : State) : Host.Outcome State Fault Refusal :=
  guarded (linkOk link && decide (stream < 9))
    (fun s => if (s.link link).up then s.modLink link fun l =>
      { l with aer := l.aer ++ [stream], insecure := insertNat stream l.insecure,
               keys := l.keys.filter fun k => k.stream ≠ stream } else s) s

/-- R360: Bus Master Enable gates the function's DMA and detaches nothing. -/
def busMasterEnableWriteEff (f : Nat) (enable : Bool) (s : State) : State :=
  if (s.func f).attached then s.modFunc f fun r => { r with busMaster := enable } else s

/-- BUS_MASTER_ENABLE_WRITE -/
def execBusMasterEnableWrite (f : Nat) (enable : Bool) (s : State) : Host.Outcome State Fault Refusal :=
  guarded (funcOk f) (busMasterEnableWriteEff f enable) s

end Sys2Proof.Machine
end

