-- ==== Sys2Proof/Machine/Float.lean ====
section
/-! DEFINITION. The floating-point arithmetic of R55 and R56: every step computes exactly and rounds once, to nearest
with ties to even; subnormals are kept, nothing is fused. -/

namespace Sys2Proof.Machine

/-- A floating-point value taken apart: finite values are (-1)^s × m × 2^e. -/
inductive FVal where
  | nan
  | inf (s : Bool)
  | fin (s : Bool) (m : Nat) (e : Int)
  deriving DecidableEq, Repr

/-- An IEEE 754 binary format: exponent and fraction widths (R55). -/
structure Fmt where
  eb : Nat
  mb : Nat
  deriving DecidableEq, Repr

/-- IEEE 754 binary32. -/
def fp32 : Fmt := ⟨8, 23⟩
/-- IEEE 754 binary16. -/
def fp16 : Fmt := ⟨5, 10⟩
/-- The upper 16 bits of binary32. -/
def bf16 : Fmt := ⟨8, 7⟩
/-- OFP8 E5M2, laid out as an IEEE format. -/
def e5m2 : Fmt := ⟨5, 2⟩

/-- The exponent bias. -/
def Fmt.bias (f : Fmt) : Nat := 2 ^ (f.eb - 1) - 1

/-- The bits of +infinity. -/
def Fmt.infBits (f : Fmt) : Nat := (2 ^ f.eb - 1) * 2 ^ f.mb

/-- The sign bit's weight. -/
def Fmt.signBit (f : Fmt) : Nat := 2 ^ (f.eb + f.mb)

/-- Take the bits of a format apart. -/
def Fmt.decode (f : Fmt) (w : Nat) : FVal :=
  let s := bitOf w (f.eb + f.mb)
  let ex := bitsOf w f.mb f.eb
  let fr := bitsOf w 0 f.mb
  if ex = 2 ^ f.eb - 1 then (if fr = 0 then .inf s else .nan)
  else if ex = 0 then .fin s fr (1 - (f.bias : Int) - f.mb)
  else .fin s (fr + 2 ^ f.mb) ((ex : Int) - f.bias - f.mb)

/-- `m × 2^e` in units of `2^q`, rounded to nearest with ties to even (R56). -/
def roundUnits (m : Nat) (e q : Int) : Nat :=
  if q ≤ e then m * 2 ^ (e - q).toNat
  else
    let d := (q - e).toNat
    let r := m / 2 ^ d
    let lo := m % 2 ^ d
    let half := 2 ^ (d - 1)
    if half < lo ∨ (lo = half ∧ r % 2 = 1) then r + 1 else r

/-- Round an exact finite value into a format (R56): overflow gives infinity, a zero keeps its sign. -/
def Fmt.round (f : Fmt) (s : Bool) (m : Nat) (e : Int) : Nat :=
  let sign := if s then f.signBit else 0
  if m = 0 then sign
  else
    let lead : Int := e + (Nat.log2 m : Int)
    let q : Int := max (lead - f.mb) (1 - (f.bias : Int) - f.mb)
    let r := roundUnits m e q
    let bits := (q + f.mb + f.bias - 1).toNat * 2 ^ f.mb + r
    sign + min bits f.infBits

/-- The quiet NaN the node writes (R72). -/
def Fmt.nanBits (f : Fmt) : Nat := f.infBits + 2 ^ (f.mb - 1)

/-- Put a value into a format, rounding once. -/
def Fmt.encode (f : Fmt) : FVal → Nat
  | .nan => f.nanBits
  | .inf s => (if s then f.signBit else 0) + f.infBits
  | .fin s m e => f.round s m e

/-- An FP32 pattern taken apart. -/
def f32 (w : Word32) : FVal := fp32.decode w.toNat

/-- A value as an FP32 pattern. -/
def toF32 (v : FVal) : Word32 := BitVec.ofNat 32 (fp32.encode v)

/-- Is the value NaN or infinite (R57)? -/
def FVal.bad : FVal → Bool
  | .fin .. => false
  | _ => true

/-- The negated value. -/
def FVal.neg : FVal → FVal
  | .nan => .nan
  | .inf s => .inf (!s)
  | .fin s m e => .fin (!s) m e

/-- The signed significand. -/
def sgn (s : Bool) (m : Nat) : Int := if s then -(m : Int) else m

/-- The exact sum. -/
def FVal.add : FVal → FVal → FVal
  | .nan, _ => .nan
  | _, .nan => .nan
  | .inf s, .inf t => if s = t then .inf s else .nan
  | .inf s, .fin .. => .inf s
  | .fin .., .inf t => .inf t
  | .fin s m e, .fin t n d =>
    let q := min e d
    let v := sgn s m * 2 ^ (e - q).toNat + sgn t n * 2 ^ (d - q).toNat
    if v = 0 then .fin (s && t) 0 q else .fin (decide (v < 0)) v.natAbs q

/-- The exact product. -/
def FVal.mul : FVal → FVal → FVal
  | .nan, _ => .nan
  | _, .nan => .nan
  | .inf s, .inf t => .inf (s != t)
  | .inf s, .fin t n _ => if n = 0 then .nan else .inf (s != t)
  | .fin s m _, .inf t => if m = 0 then .nan else .inf (s != t)
  | .fin s m e, .fin t n d => .fin (s != t) (m * n) (e + d)

/-- The quotient to 80 bits below the operands' exponents, its lowest bit sticky: exact for one rounding. -/
def FVal.div : FVal → FVal → FVal
  | .nan, _ => .nan
  | _, .nan => .nan
  | .inf _, .inf _ => .nan
  | .inf s, .fin t _ _ => .inf (s != t)
  | .fin s _ e, .inf t => .fin (s != t) 0 e
  | .fin s m e, .fin t n d =>
    if n = 0 then (if m = 0 then .nan else .inf (s != t))
    else
      let q := m * 2 ^ 80 / n
      let r := m * 2 ^ 80 % n
      .fin (s != t) (2 * q + (if r = 0 then 0 else 1)) (e - d - 81)

/-- The integer square root, its bits tried from the highest down. -/
def isqrt (n : Nat) : Nat :=
  (List.range (Nat.log2 n / 2 + 2)).foldr (fun i r => if (r + 2 ^ i) ^ 2 ≤ n then r + 2 ^ i else r) 0

/-- The square root with a sticky lowest bit: exact for one rounding. -/
def FVal.sqrt : FVal → FVal
  | .nan => .nan
  | .inf s => if s then .nan else .inf false
  | .fin s m e =>
    if m = 0 then .fin s 0 e
    else if s then .nan
    else
      let (n, d) := if e % 2 = 0 then (m * 2 ^ 80, e - 80) else (m * 2 ^ 81, e - 81)
      let r := isqrt n
      .fin false (2 * r + (if r * r = n then 0 else 1)) (d / 2 - 1)

/-- `a + b` in FP32. -/
def fadd (a b : Word32) : Word32 := toF32 ((f32 a).add (f32 b))
/-- `-a`. -/
def fneg (a : Word32) : Word32 := toF32 (f32 a).neg
/-- `a - b` in FP32. -/
def fsub (a b : Word32) : Word32 := toF32 ((f32 a).add (f32 b).neg)
/-- `a * b` in FP32. -/
def fmul (a b : Word32) : Word32 := toF32 ((f32 a).mul (f32 b))
/-- `a / b` in FP32. -/
def fdiv (a b : Word32) : Word32 := toF32 ((f32 a).div (f32 b))
/-- `sqrtf(a)`. -/
def fsqrt (a : Word32) : Word32 := toF32 (f32 a).sqrt
/-- `fabsf(a)`. -/
def fabs (a : Word32) : Word32 := a &&& 0x7FFF_FFFF
/-- `(float)i`. -/
def fofInt (i : Int) : Word32 := toF32 (.fin (decide (i < 0)) i.natAbs 0)
/-- 1.0f. -/
def fone : Word32 := 0x3F80_0000

/-- Is a pattern NaN or infinite? -/
def fbad (a : Word32) : Bool := (f32 a).bad
/-- Is it NaN? -/
def fnan (a : Word32) : Bool := decide (f32 a = .nan)
/-- Is it zero, of either sign? -/
def fzero (a : Word32) : Bool := decide (a &&& 0x7FFF_FFFF = 0)

/-- The order key of a non-NaN value: rising with the value, -0 equal to +0 (R71's `ord`). -/
def ordKey (a : Word32) : Nat :=
  if a = 0x8000_0000 then 0x8000_0000
  else if bitOf a.toNat 31 then 0xFFFF_FFFF - a.toNat else a.toNat + 0x8000_0000

/-- `a < b` for non-NaN values. -/
def flt (a b : Word32) : Bool := !fnan a && !fnan b && decide (ordKey a < ordKey b)
/-- `a ≤ b` for non-NaN values. -/
def fle (a b : Word32) : Bool := !fnan a && !fnan b && decide (ordKey a ≤ ordKey b)

/-- The maximum in ascending element order: a later element replaces an earlier one only when it is greater; free where an
element is no number (log entry 91). -/
def fmax : List Word32 → Word32
  | [] => 0
  | x :: l => if (x :: l).any fnan then Config.maxBad (x :: l) else l.foldl (fun m y => if flt m y then y else m) x
/-- The minimum, likewise. -/
def fmin : List Word32 → Word32
  | [] => 0
  | x :: l => l.foldl (fun m y => if flt y m then y else m) x

/-- `rne(a)`: the nearest integer, ties to even; free for a value that is not finite (R153, R176, log entry 91). -/
def rne (a : Word32) : Int :=
  match f32 a with
  | .fin s m e => sgn s (roundUnits m e 0)
  | _ => Config.roundBad a

/-- Clamp an integer. -/
def clamp (v lo hi : Int) : Int := max lo (min hi v)

/-- FP32 to BF16 bits, rounding once. -/
def toBf16 (a : Word32) : Nat := bf16.encode (f32 a)
/-- BF16 bits widened exactly to FP32. -/
def ofBf16 (w : Nat) : Word32 := BitVec.ofNat 32 (w % 2 ^ 16 * 2 ^ 16)
/-- FP32 to FP16 bits, rounding once. -/
def toFp16 (a : Word32) : Nat := fp16.encode (f32 a)
/-- FP16 bits widened exactly to FP32. -/
def ofFp16 (w : Nat) : Word32 := toF32 (fp16.decode w)

/-- OFP8 E4M3 taken apart: no infinities, NaN only at all ones. -/
def decodeE4m3 (w : Nat) : FVal :=
  let s := bitOf w 7
  let ex := bitsOf w 3 4
  let fr := bitsOf w 0 3
  if ex = 15 ∧ fr = 7 then .nan
  else if ex = 0 then .fin s fr (-9)
  else .fin s (fr + 8) ((ex : Int) - 10)

/-- A finite FP8 or MX element byte as an exact value: 0 E4M3, 1 E5M2 (R55). -/
def decodeFp8 (fmt w : Nat) : FVal := if fmt = 0 then decodeE4m3 w else e5m2.decode w

/-- Conversion into an FP8 format, saturating at its largest finite value (R56). The exponent range of E4M3 runs one
step beyond an IEEE layout's, so its rounding uses a wider exponent field. -/
def toFp8 (fmt : Nat) (a : Word32) : FVal :=
  let maxV : Nat × Int := if fmt = 0 then (448, 0) else (57344, 0)
  match f32 a with
  | .nan => .nan
  | .inf s => .fin s maxV.1 maxV.2
  | .fin s m e =>
    let mb : Nat := if fmt = 0 then 3 else 2
    let emin : Int := if fmt = 0 then -6 else -14
    if m = 0 then .fin s 0 0
    else
      let lead : Int := e + (Nat.log2 m : Int)
      let q : Int := max (lead - mb) (emin - mb)
      let r := roundUnits m e q
      -- the rounded value r × 2^q against the largest finite value
      if 0 ≤ q ∧ maxV.1 < r * 2 ^ q.toNat then .fin s maxV.1 0 else .fin s r q

/-- MXFP4 E2M1 element (R55): values 0, 0.5, 1, 1.5, 2, 3, 4, 6 and their negatives. -/
def decodeE2m1 (w : Nat) : FVal :=
  let s := bitOf w 3
  let ex := bitsOf w 1 2
  let fr := bitsOf w 0 1
  if ex = 0 then .fin s fr (-1) else .fin s (fr + 2) ((ex : Int) - 2)

/-- `2^k` times a value, exactly. -/
def FVal.scale (k : Int) : FVal → FVal
  | .fin s m e => .fin s m (e + k)
  | v => v

/-- The four-lane sum of R70: lane i mod 4, then (a0 + a1) + (a2 + a3). -/
def laneSum (p : List Word32) : Word32 :=
  let lane (j : Nat) : Word32 :=
    ((p.zip (List.range p.length)).filter fun x => x.2 % 4 = j).foldl (fun a x => fadd a x.1) 0
  fadd (fadd (lane 0) (lane 1)) (fadd (lane 2) (lane 3))

/-- The sum in ascending element order, from +0. -/
def fsum (p : List Word32) : Word32 := p.foldl fadd 0

/-- `ord(f)` of R71. -/
def ord (a : Word32) : Nat := ordKey a

/-! ## The function unit (R154)

Fixed-point arithmetic with 512 fraction bits; a value is an integer number of 2^-512. One rounding at the end. -/

/-- One in fixed point. -/
def fxOne : Int := 2 ^ 512

/-- A finite value in fixed point, truncated below 2^-512. -/
def toFx : FVal → Int
  | .fin s m e =>
    let v : Int := if -512 ≤ e then m * 2 ^ (e + 512).toNat else m / 2 ^ (-512 - e).toNat
    if s then -v else v
  | _ => 0

/-- A fixed-point value rounded to FP32. -/
def ofFx (v : Int) : Word32 := toF32 (.fin (decide (v < 0)) v.natAbs (-512))

/-- The fixed-point product. -/
def fxMul (a b : Int) : Int := a * b / 2 ^ 512

/-- The exponential series from term `k` with term value `t`, `fuel` terms. -/
def fxExpSeries (x : Int) : Nat → Nat → Int → Int → Int
  | 0, _, _, acc => acc
  | fuel + 1, k, t, acc => let t' := fxMul t x / (k : Int); fxExpSeries x fuel (k + 1) t' (acc + t')

/-- e^x in fixed point: the series at x / 2^16, squared 16 times. -/
def fxExp (x : Int) : Int :=
  let y := fxExpSeries (x / 2 ^ 16) 60 1 fxOne fxOne
  (List.range 16).foldl (fun z _ => fxMul z z) y

/-- The series of the error-function integral: sum of (-1)^n x^(2n+1) / (2^n n! (2n+1)). -/
def fxPhiSeries (x2 : Int) : Nat → Nat → Int → Int → Int
  | 0, _, _, acc => acc
  | fuel + 1, n, t, acc =>
    let t' := -(fxMul t x2) / (2 * (n : Int))
    fxPhiSeries x2 fuel (n + 1) t' (acc + t' / (2 * (n : Int) + 1))

/-- sqrt(2π) in fixed point, from 2π to 512 bits by Machin's formula. -/
def fxArctanInv (k : Nat) : Int :=
  ((List.range 240).foldl (fun (p : Int × Int) (n : Nat) =>
    (p.1 + (if n % 2 = 0 then p.2 / (2 * (n : Int) + 1) else -(p.2 / (2 * (n : Int) + 1))), p.2 / ((k * k : Nat) : Int)))
    ((0 : Int), fxOne / (k : Int))).1

/-- π in fixed point. -/
def fxPi : Int := 4 * (4 * fxArctanInv 5 - fxArctanInv 239)

/-- sqrt(2π) in fixed point. -/
def fxSqrt2Pi : Int := (isqrt ((2 * fxPi).natAbs * 2 ^ 512) : Int)

/-- Φ(x), the standard normal distribution function, for |x| ≤ 16. -/
def fxPhi (x : Int) : Int := fxOne / 2 + (fxPhiSeries (fxMul x x) 700 1 x x) * 2 ^ 512 / fxSqrt2Pi

/-- EXP of R154: beyond the FP32 range it overflows or rounds to zero. -/
def fexp (a : Word32) : Word32 :=
  match f32 a with
  | .nan => Config.functionBad 4 a
  | .inf s => if s then 0 else toF32 (.inf false)
  | v =>
    let x := toFx v
    if 100 * fxOne < x then toF32 (.inf false) else if x < -150 * fxOne then 0 else ofFx (fxExp x)

/-- SIGMOID of R154. -/
def fsigmoid (a : Word32) : Word32 :=
  match f32 a with
  | .nan => Config.functionBad 3 a
  | .inf s => if s then 0 else fone
  | v =>
    let x := toFx v
    if 100 * fxOne < x then fone else if x < -150 * fxOne then 0
    else let z := fxExp (if x < 0 then x else -x)
      if x < 0 then ofFx (z * fxOne / (fxOne + z)) else ofFx (fxOne * fxOne / (fxOne + z))

/-- TANH of R154. -/
def ftanh (a : Word32) : Word32 :=
  match f32 a with
  | .nan => Config.functionBad 2 a
  | .inf s => if s then fneg fone else fone
  | .fin s m e =>
    -- below 2^-40 the nearest value is the argument itself
    if e + (Nat.log2 m : Int) < -40 then a
    else
      let x := toFx (.fin false m e)
      let t := if 50 * fxOne < x then fxOne else
        let z := fxExp (-2 * x); (fxOne - z) * fxOne / (fxOne + z)
      ofFx (if s then -t else t)

/-- GELU of R154, x · Φ(x) taken as one function. -/
def fgelu (a : Word32) : Word32 :=
  match f32 a with
  | .nan => Config.functionBad 1 a
  | .inf s => if s then Config.functionBad 1 a else a
  | .fin s m e =>
    let x := toFx (.fin s m e)
    if 16 * fxOne < x then a else if x < -16 * fxOne then 0x8000_0000
    else if m = 0 then a
    else toF32 (FVal.mul (.fin s m e) (.fin false (fxPhi x).natAbs (-512)))

/-- RELU of R154: max(x, +0). -/
def frelu (a : Word32) : Word32 := if fnan a then Config.functionBad 0 a else if flt 0 a then a else 0

/-- RSQRT of R154: 1 / √x rounded once, from x to 300 bits. -/
def frsqrt (a : Word32) : Word32 :=
  match f32 a with
  | .nan => Config.functionBad 5 a
  | .inf s => if s then Config.functionBad 5 a else 0
  | .fin s m e =>
    if m = 0 then toF32 (.inf s)
    else if s then Config.functionBad 5 a
    else
      -- 1/√(m 2^e) = √(2^(2k) / m') 2^(-k - e'/2) with e' even
      let (n, d) : Nat × Int := if e % 2 = 0 then (m, e) else (2 * m, e - 1)
      toF32 (.fin false (2 * isqrt (2 ^ 400 / n) + 1) (-201 - d / 2))

/-- ln x for a positive fixed-point argument of at least 2^-40, by bisection of e^y on 64 fraction bits. -/
def fxLn (x : Int) : Int :=
  (List.range 72).foldl (fun (y : Int) (i : Nat) =>
    let c := y + 2 ^ (512 + 5 - i)
    if fxExp c ≤ x then c else y) (-32 * fxOne)

end Sys2Proof.Machine
end

