-- ==== Sys2Proof/Machine/Formats.lean ====
section
/-! DEFINITION. Vectors, rows, query records, scores, rank keys, results and filters (03_formats.md). -/

namespace Sys2Proof.Machine

/-! ## Elements, codes and quantisation -/

/-- Bytes of an element: 0 FP32, 1 FP16, 2 BF16 (R66). -/
def elemSize (format : Nat) : Nat := if format = 0 then 4 else 2

/-- An element's bits converted exactly to FP32. -/
def elemOf (format w : Nat) : Word32 :=
  if format = 0 then BitVec.ofNat 32 w else if format = 1 then ofFp16 w else ofBf16 w

/-- FP32 converted to an element format, rounding once (R56). -/
def elemBits (format : Nat) (a : Word32) : Nat :=
  if format = 0 then a.toNat else if format = 1 then toFp16 a else toBf16 a

/-- `n` elements from offset `o`, as FP32. -/
def elemsAt (format : Nat) (b : Bytes) (o n : Nat) : List Word32 :=
  (List.range n).map fun i => elemOf format (le b (o + i * elemSize format) (elemSize format))

/-- Elements laid out in a format. -/
def elemBytes (format : Nat) (x : List Word32) : Bytes := x.flatMap fun a => toLe (elemSize format) (elemBits format a)

/-- Bytes of `d` codes: width 0 INT8, 1 INT4 (R62). -/
def codeBytes (width d : Nat) : Nat := if width = 0 then d else (d + 1) / 2

/-- Pack codes and pad to 64 bytes (R62). -/
def packCodes (width : Nat) (c : List Int) : Bytes :=
  if width = 0 then padTo 64 (c.map fun v => BitVec.ofInt 8 v)
  else
    padTo 64 ((List.range ((c.length + 1) / 2)).map fun j =>
      BitVec.ofNat 8 ((c.getD (2 * j) 0 % 16).toNat + 16 * (c.getD (2 * j + 1) 0 % 16).toNat))

/-- Code `i` of packed codes. -/
def codeAt (width : Nat) (b : Bytes) (i : Nat) : Int :=
  if width = 0 then signedOf 8 (byteAt b i)
  else signedOf 4 (byteAt b (i / 2) / (if i % 2 = 0 then 1 else 16) % 16)

/-- The `d` codes of a row. -/
def codesOf (width d : Nat) (b : Bytes) : List Int := (List.range d).map (codeAt width b)

/-- The sum of integers. -/
def sumInt (l : List Int) : Int := l.foldl (· + ·) 0

/-- Σ aᵢbᵢ over integers, exact. -/
def dotInt (a b : List Int) : Int := ((a.zip b).map fun p => p.1 * p.2).foldl (· + ·) 0

/-- A quantised vector: offset and scale as BF16 bits, and codes (R63). -/
structure Quantised where
  o : Nat
  s : Nat
  codes : List Int
  deriving DecidableEq, Repr

/-- 2.0f. -/
def ftwo : Word32 := 0x4000_0000

/-- R63: quantise FP32 elements; none where the row cannot be quantised. -/
def quantise (width : Nat) (x : List Word32) : Option Quantised :=
  let mx := fmax x
  let mn := fmin x
  let sum := fadd mx mn
  let diff := fsub mx mn
  let o := toBf16 (fdiv sum ftwo)
  let s := toBf16 (fdiv diff (if width = 0 then fofInt 255 else fofInt 15))
  if fbad sum ∨ fbad diff ∨ fbad (ofBf16 o) ∨ fbad (ofBf16 s) then none
  else
    let lo : Int := if width = 0 then -128 else -8
    let hi : Int := if width = 0 then 127 else 7
    some { o := o, s := s, codes := x.map fun a =>
      if fzero (ofBf16 s) then 0 else clamp (rne (fdiv (fsub a (ofBf16 o)) (ofBf16 s))) lo hi }

/-- Is any element NaN or infinite (R57)? -/
def anyBad (x : List Word32) : Bool := x.any fbad

/-- R64: the squared norm and the inverse norm, as FP16 bits, or none where the row is refused. `dists` are the
distances of the index. -/
def norms (dists : Nat) (x : List Word32) : Option (Nat × Nat) :=
  let sum := fsum (x.map fun a => fmul a a)
  let sq := toFp16 sum
  let inv := toFp16 (fdiv fone (fsqrt sum))
  let big := fbad (ofFp16 sq)
  if big ∧ bitOf dists 2 then none
  else if bitOf dists 1 ∧ (fzero (ofFp16 inv) ∨ fzero sum) then none
  else some (if big then 0x7BFF else sq, if bitOf dists 1 then inv else 0)

/-- A row's metadata block (R61). -/
def metaBlock (attrs : Bytes) (key gen width fp dists : Nat) (q : Quantised) (sq inv d : Nat) : Bytes :=
  fit 16 attrs ++ toLe 6 key ++ toLe 1 gen ++
    toLe 1 (width + 2 * bit01 (bitOf dists 1) + 4 * bit01 (fp = 2)) ++ toLe 2 q.s ++ toLe 2 q.o ++ toLe 2 sq ++
    toLe 2 inv ++ toLeInt 4 (sumInt q.codes) ++ toLe 2 d ++ zeros 26

/-- The user key of a metadata block. -/
def keyOfMeta (b : Bytes) : Nat := le b 16 6

/-- The attribute block: bytes 0 to 15 (R61). -/
def attrsOf (b : Bytes) : Bytes := b.take 16

/-- Bytes of a row: metadata and codes (R62). -/
def rowBytes (width d : Nat) : Nat := 64 + 64 * ceilDiv (codeBytes width d) 64

/-- Bytes of a full-precision record (R65). -/
def recordBytes (d : Nat) : Nat := 64 + roundUp (2 * d) 64

/-! ## The query record (R66 to R68) -/

/-- The query record of FP32 elements under a distance and a full-precision format, or none where the query is refused
with ST_BAD_VALUE. -/
def queryRecord (dist fp : Nat) (q : List Word32) : Option Bytes :=
  let d := q.length
  let m := fmax (q.map fabs)
  let qs := fdiv m (fofInt 127)
  let qi : List Int := q.map fun a => if fzero qs then 0 else clamp (rne (fdiv a qs)) (-127) 127
  let qsum := sumInt qi
  let qsq := dotInt qi qi
  let qeBits := q.map (elemBits fp)
  let qe := qeBits.map (elemOf fp)
  let full := laneSum (qe.map fun a => fmul a a)
  if anyBad q ∨ anyBad qe ∨ (dist = 1 ∧ (qsq = 0 ∨ fzero full)) then none
  else
    let qinv := if dist = 1 then fdiv fone (fmul qs (fsqrt (fofInt qsq))) else 0
    let qinvE := if dist = 1 then fdiv fone (fsqrt full) else 0
    some (toLe 2 d ++ toLe 1 dist ++ toLe 1 fp ++ toLe 4 qs.toNat ++ toLeInt 4 qsum ++ toLeInt 4 qsq ++
      toLe 4 qinv.toNat ++ toLe 4 qinvE.toNat ++ zeros 40 ++ padTo 64 (qi.map fun v => BitVec.ofInt 8 v) ++
      padTo 64 (qeBits.flatMap (toLe 2)))

/-- The dimension count of a query record. -/
def recDim (r : Bytes) : Nat := le r 0 2
/-- Its distance. -/
def recDist (r : Bytes) : Nat := byteAt r 2
/-- Its full-precision format. -/
def recFp (r : Bytes) : Nat := byteAt r 3
/-- An FP32 field. -/
def recF32 (r : Bytes) (o : Nat) : Word32 := BitVec.ofNat 32 (le r o 4)
/-- Its INT8 codes. -/
def recCodes (r : Bytes) : List Int := (List.range (recDim r)).map fun i => signedOf 8 (byteAt r (64 + i))
/-- Its full-precision elements as FP32. -/
def recElems (r : Bytes) : List Word32 := elemsAt (recFp r) r (64 + roundUp (recDim r) 64) (recDim r)
/-- The length of a query record of dimension `d` (R68). -/
def queryRecordBytes (d : Nat) : Nat := 64 + roundUp d 64 + roundUp (2 * d) 64

/-! ## Scores (R69 to R72) -/

/-- R69: the code score of a row (metadata, codes) for a query record. -/
def codeScore (r head codes : Bytes) : Word32 :=
  let width := byteAt head 23 % 2
  let dot := dotInt (recCodes r) (codesOf width (recDim r) codes)
  let s := ofBf16 (le head 24 2)
  let o := ofBf16 (le head 26 2)
  let qs := recF32 r 4
  let ip := fmul qs (fadd (fmul s (fofInt dot)) (fmul o (fofInt (signedOf 32 (le r 8 4)))))
  match recDist r with
  | 0 => ip
  | 1 => fmul (fmul ip (recF32 r 16)) (ofFp16 (le head 30 2))
  | _ => fadd (fsub (fmul (fmul qs qs) (fofInt (signedOf 32 (le r 12 4)))) (fmul ftwo ip)) (ofFp16 (le head 28 2))

/-- R70: the exact score of a full-precision record (metadata, elements). -/
def exactScore (r head elems : Bytes) : Word32 :=
  let xe := elemsAt (recFp r) elems 0 (recDim r)
  let qe := recElems r
  match recDist r with
  | 0 => laneSum ((qe.zip xe).map fun p => fmul p.1 p.2)
  | 1 => fmul (fmul (laneSum ((qe.zip xe).map fun p => fmul p.1 p.2)) (recF32 r 20)) (ofFp16 (le head 30 2))
  | _ => laneSum ((qe.zip xe).map fun p => fmul (fsub p.1 p.2) (fsub p.1 p.2))

/-- R71, R72: the rank key, the score field and NONFINITE of a score. -/
def keyed (dist : Nat) (sc : Word32) : Nat × Word32 × Bool :=
  if fnan sc then (0xFFFF_FFFE, 0x7FC0_0000, true)
  else
    let v := if dist = 2 then sc else fneg sc
    (ord v, if fzero sc then 0 else sc, fbad sc)

/-! ## Entries and results (R73 to R76) -/

/-- Entry flag bits (R74). -/
abbrev flPad : BitVec 16 := 1
/-- EXACT -/
abbrev flExact : BitVec 16 := 2
/-- POISONED -/
abbrev flPoisoned : BitVec 16 := 4
/-- DETOUR -/
abbrev flDetour : BitVec 16 := 8
/-- LATE -/
abbrev flLate : BitVec 16 := 16
/-- NONFINITE -/
abbrev flNonfinite : BitVec 16 := 32
/-- PROGRAM -/
abbrev flProgram : BitVec 16 := 64

/-- Is a flag set? -/
def hasFlag (flags f : BitVec 16) : Bool := flags &&& f ≠ 0

/-- An entry of a row that scored `sc`. -/
def scoredEntry (dist : Nat) (sc : Word32) (key slot gen shard : Nat) (flags : BitVec 16) : Entry :=
  let (rank, score, nf) := keyed dist sc
  { key := key, flags := if nf then flags ||| flNonfinite else flags, rank := rank, score := score, slot := slot,
    gen := gen, shard := shard, pos := 0, dups := 0 }

/-- A result entry's 16 bytes (R73). -/
def Entry.bytes (e : Entry) : Bytes := toLe 6 e.key ++ toLe 2 e.flags.toNat ++ toLe 4 e.rank ++ toLe 4 e.score.toNat

/-- A result entry from its bytes. -/
def entryOf (b : Bytes) (shard : Nat) : Entry :=
  { key := le b 0 6, flags := BitVec.ofNat 16 (le b 6 2), rank := le b 8 4, score := BitVec.ofNat 32 (le b 12 4),
    slot := 0, gen := 0, shard := shard, pos := 0, dups := 0 }

/-- The padding entry (R75). -/
def padEntry : Bytes := toLe 6 0xFFFF_FFFF_FFFF ++ toLe 2 1 ++ toLe 4 0xFFFF_FFFF ++ zeros 4

/-- The 32-byte result header (R75). -/
def resultHeader (n k flags status dups version admitAt : Nat) : Bytes :=
  toLe 2 n ++ toLe 2 k ++ toLe 2 flags ++ toLe 2 status ++ toLe 2 (min dups 0xFFFF) ++ zeros 6 ++ toLe 8 version ++
    toLe 8 admitAt

/-- Header and exactly k entries (R75). -/
def resultBlock (k flags status dups version admitAt : Nat) (entries : List Entry) : Bytes :=
  resultHeader entries.length k flags status dups version admitAt ++ entries.flatMap Entry.bytes ++
    (List.replicate (k - entries.length) padEntry).flatten

/-! ## Filters (R77 to R80) -/

/-- The number of terms of a filter block. -/
def filterTerms (b : Bytes) : Nat := byteAt b 0

/-- The bytes of a filter block: 8 and 16 per term. -/
def filterLength (b : Bytes) : Nat := 8 + 16 * filterTerms b

/-- Term `i`'s 16 bytes. -/
def filterTerm (b : Bytes) (i : Nat) : Bytes := (b.drop (8 + 16 * i)).take 16

/-- Compare field values by type: 0 U32, 1 S32, 2 F32. `le' a b` and `eq' a b` of R78. -/
def numLe (type a b : Nat) : Bool :=
  match type with
  | 0 => a ≤ b
  | 1 => signedOf 32 a ≤ signedOf 32 b
  | _ => fle (BitVec.ofNat 32 a) (BitVec.ofNat 32 b)

/-- Equality by type; -0 equals +0. -/
def numEq (type a b : Nat) : Bool := if type = 2 then numLe type a b && numLe type b a else a = b

/-- Is a term true of an attribute block (R77, R78)? -/
def termTrue (typeA typeB : Nat) (attrs t : Bytes) : Bool :=
  let tags := le attrs 0 8
  let mask := le t 8 8
  let (type, f) := if byteAt t 2 = 1 then (typeA, le attrs 8 4) else (typeB, le attrs 12 4)
  let v := le t 8 4
  match byteAt t 0 with
  | 0x01 => Nat.land tags mask = mask
  | 0x02 => Nat.land tags mask ≠ 0
  | 0x03 => Nat.land tags mask = 0
  | 0x10 => numEq type f v
  | 0x11 => !numEq type f v
  | 0x12 => numLe type f v && !numEq type f v
  | 0x13 => numLe type f v
  | 0x14 => numLe type v f && !numEq type f v
  | 0x15 => numLe type v f
  | _ => numLe type v f && numLe type f (le t 12 4)

/-- R78: a filter passes a row if it has no term, or if some group has all of its terms true. -/
def filterPass (typeA typeB : Nat) (filter attrs : Bytes) : Bool :=
  let terms := (List.range (filterTerms filter)).map (filterTerm filter)
  terms.isEmpty ||
    ((List.range 16).any fun g =>
      let mine := terms.filter fun t => byteAt t 1 = g
      !mine.isEmpty && mine.all (termTrue typeA typeB attrs))

/-- Is the operation a tag operation, or a comparison with one operand? -/
def isTagOp (op : Nat) : Bool := op = 0x01 || op = 0x02 || op = 0x03
/-- Operations 0x10 to 0x15. -/
def isCompareOp (op : Nat) : Bool := decide (0x10 ≤ op ∧ op ≤ 0x15)

/-- A value fault of one term (R79 step 3), given the group before it. -/
def termFault (typeA typeB before : Nat) (t : Bytes) : Bool :=
  let op := byteAt t 0
  let field := byteAt t 2
  let type := if field = 1 then typeA else typeB
  let nanAt (o : Nat) : Bool := type = 2 && fnan (BitVec.ofNat 32 (le t o 4))
  !(isTagOp op || isCompareOp op || op = 0x16) || decide (15 < byteAt t 1) || decide (byteAt t 1 < before) ||
    (if isTagOp op then decide (field ≠ 0)
     else decide (field ≠ 1 ∧ field ≠ 2) || nanAt 8 || (op = 0x16 && (nanAt 12 || !numLe type (le t 8 4) (le t 12 4))))

/-- R79: the status of a filter block. -/
def filterCheck (typeA typeB : Nat) (b : Bytes) : Nat :=
  let n := filterTerms b
  let terms := (List.range n).map (filterTerm b)
  if 16 < n then stBadValue
  else if !(zeroAt b 1 7 && terms.all fun t => zeroAt t 3 5 && (!isCompareOp (byteAt t 0) || zeroAt t 12 4)) then
    stBadFormat
  else if (List.range n).any fun i =>
      termFault typeA typeB (if i = 0 then 0 else byteAt (filterTerm b (i - 1)) 1) (filterTerm b i) then stBadValue
  else stOk

end Sys2Proof.Machine
end

