-- ==== Sys2Proof/Machine/Select.lean ====
section
/-! DEFINITION. Selection of the best K entries on a sort unit: the block steps and passes of R137 to R139, chained by
R141 (06_selection.md). -/

namespace Sys2Proof.Machine

/-- A sort entry of a traversal list: its carried bits are the 48 locator bits. A result entry is a sort entry as it
stands (R135). -/
def Entry.traversalBytes (e : Entry) : Bytes :=
  let l := e.slot % 2 ^ 40 + e.gen % 256 * 2 ^ 40
  toLe 6 e.key ++ toLe 2 (l % 2 ^ 16) ++ toLe 4 e.rank ++ toLe 4 (l / 2 ^ 16)

/-- The 48 carried bits of a sort entry, which the unit never interprets (R135). -/
def carriedBits (b : Bytes) : Nat := le b 6 2 + le b 12 4 * 2 ^ 16

/-- The order of R136: rank key, user key, position. -/
def Entry.before (a b : Entry) : Bool :=
  a.rank < b.rank || (a.rank = b.rank && (a.key < b.key || (a.key = b.key && a.pos < b.pos)))

/-- Does an entry lie at or below the floor: by (rank, user) with deduplication, by (rank, user, pos) without (R139)? -/
def Floor.covers (f : Floor) (dedup : Bool) (e : Entry) : Bool :=
  e.rank < f.rank || (e.rank = f.rank && (e.key < f.key || (e.key = f.key && (dedup || e.pos ≤ f.pos))))

/-- Insert into an ordered list. -/
def insertEntry (e : Entry) : List Entry → List Entry
  | [] => [e]
  | x :: l => if e.before x then e :: x :: l else x :: insertEntry e l

/-- Order entries (R136). -/
def sortEntries (l : List Entry) : List Entry := l.foldr insertEntry []

/-- Of two copies of a user key, is `y` the one kept: lower rank key, or equal and earlier (R139)? -/
def keeps (y x : Entry) : Bool := y.rank < x.rank || (y.rank = x.rank && y.pos < x.pos)

/-- One copy of a key is dropped into the other's 16-bit counter (R134), which the model lets stay at 0xFFFF
(DESIGN CHOICE, log entry 81: R139 saturates the sums alone). -/
def Entry.absorb (a b : Entry) : Entry := { a with dups := min 0xFFFF (a.dups + b.dups + 1) }

/-- Deduplicate the entries of a block, in order, against those held and those of the block before them. The result is
what is left of both. -/
def dedupInto (kept : List Entry) : List Entry → List Entry
  | [] => kept
  | x :: l =>
    match kept.find? fun y => y.key = x.key with
    | none => dedupInto (kept ++ [x]) l
    | some y =>
      if keeps y x then dedupInto (kept.map fun z => if z.key = x.key then z.absorb x else z) l
      else dedupInto ((kept.filter fun z => z.key ≠ x.key) ++ [x.absorb y]) l

/-- R138: what a parity error in a block step does to an entry held at its end. -/
def Entry.poison (e : Entry) : Entry := { e with flags := e.flags ||| flPoisoned }

/-- The unit takes up another held list: it goes into the held register that is not serving, and the two change places. -/
def SortUnit.load (u : SortUnit) (held : List Entry) (slot : Option Entry) (excl : List Nat) : SortUnit :=
  { u with serving := { held := held, slot := slot }, other := u.serving, excl := excl }

/-- A block step of R139, its entries already those that count: what is held, the boundary slot and the block go into
order, and the best `kp` and the next one stay. -/
def SortUnit.blockStep (u : SortUnit) (dedup : Bool) (kp : Nat) (fails : Bool) (entries : List Entry) : SortUnit :=
  let blk := sortEntries entries
  let before := u.serving.held ++ u.serving.slot.toList
  let all := sortEntries (if dedup then dedupInto before blk else before ++ blk)
  let held := all.take kp
  { u with block := blk, parity := u.parity || (fails && !held.isEmpty),
           serving := { held := if fails then held.map Entry.poison else held, slot := all[kp]? } }

/-- The block steps over an input, 64 entries each, numbered from `step` on; `parity` lists the steps that fail. -/
def SortUnit.blocks (dedup : Bool) (kp : Nat) (use : Entry → Bool) (parity : List Nat) :
    Nat → Nat → SortUnit → List Entry → SortUnit
  | 0, _, u, _ => u
  | fuel + 1, step, u, input =>
    if input.isEmpty then u
    else
      SortUnit.blocks dedup kp use parity fuel (step + 1)
        (u.blockStep dedup kp (parity.contains step) ((input.take 64).filter use)) (input.drop 64)

/-- The block steps that an input takes (R137). -/
def blockSteps (input : List Entry) : Nat := ceilDiv input.length 64

/-- Does an entry count in a pass (R139)? -/
def Selection.uses (c : Selection) (dedup : Bool) (e : Entry) : Bool :=
  !hasFlag e.flags flPad && !(match c.floor with | some f => f.covers dedup e | none => false) && !c.excl.contains e.key

/-- A selection of K entries that has run no pass (R141). -/
def Selection.start (k : Nat) : Selection :=
  { out := [], boundary := none, dups := 0, want := k, floor := none, excl := [], steps := 0, ended := k = 0,
    poisoned := false }

/-- One pass of a selection on a unit (R139, R141). -/
def Selection.pass (dedup : Bool) (parity : List Nat) (input : List Entry) (p : Selection × SortUnit) :
    Selection × SortUnit :=
  let c := p.1
  if c.ended then p
  else
    let kp := min 64 c.want
    let u := SortUnit.blocks dedup kp (c.uses dedup) parity (blockSteps input) c.steps
      ({ p.2 with parity := false }.load [] none c.excl) input
    let held := u.serving.held
    ({ out := c.out ++ held, boundary := u.serving.slot,
       dups := min 0xFFFF (c.dups + (if dedup then min 0xFFFF (sumNat (held.map (·.dups))) else 0)),
       want := c.want - kp,
       floor := held.getLast?.map fun e => { rank := e.rank, key := e.key, pos := e.pos },
       excl := if dedup then c.excl ++ held.map (·.key) else [],
       steps := c.steps + blockSteps input, ended := held.length < kp || c.want ≤ 64,
       poisoned := c.poisoned || u.parity }, u)

/-- Up to `n` passes (R141, R142). -/
def Selection.passes (dedup : Bool) (parity : List Nat) (input : List Entry) : Nat → Selection × SortUnit → Selection × SortUnit
  | 0, p => p
  | n + 1, p => Selection.passes dedup parity input n (Selection.pass dedup parity input p)

/-- Number the positions of the input lists, list by list (R136). -/
def numbered (l : List Entry) : List Entry := (l.zip (List.range l.length)).map fun (e, i) => { e with pos := i, dups := 0 }

/-- A whole selection of the best `k` entries of the input, on a unit (R139, R141). -/
def SortUnit.select (u : SortUnit) (dedup : Bool) (k : Nat) (parity : List Nat) (input : List Entry) : Selection × SortUnit :=
  Selection.passes dedup parity (numbered input) (k / 64 + 1) (Selection.start k, u)

/-- The selection that no parity error meets: what the passes give, on whichever unit they run (R134). -/
def select (dedup : Bool) (k : Nat) (input : List Entry) : Selection := (SortUnit.reset.select dedup k [] input).1

/-- R144: TIE_AT_BOUNDARY. -/
def Selection.tie (x : Selection) (k : Nat) : Bool :=
  x.out.length = k && match x.boundary, x.out.getLast? with
    | some b, some l => b.rank = l.rank
    | _, _ => false

/-- A held list between strides, with its boundary slot (R147), and the unit that served it. -/
structure Kept where
  held : List Entry
  slot : Option Entry
  unit : SortUnit
  steps : Nat
  poisoned : Bool
  deriving DecidableEq, Repr

/-- R147: re-select a held list of at most `k` entries with the entries that come after it. Up to 64 entries it is loaded
into a held register, and only the new entries are stepped; a longer list is chained again from the start. The block steps
are numbered from `first` on. -/
def SortUnit.hold (u : SortUnit) (k first : Nat) (parity : List Nat) (held : List Entry) (slot : Option Entry)
    (new : List Entry) : Kept :=
  let steps := parity.filterMap fun p => if first ≤ p then some (p - first) else none
  if k ≤ 64 then
    let old := held.length + slot.toList.length
    let all := numbered (held ++ slot.toList ++ new)
    let v := SortUnit.blocks false k (fun _ => true) steps (blockSteps new) 0
      ({ u with parity := false }.load (all.take held.length) ((all.take old).drop held.length).head? []) (all.drop old)
    { held := v.serving.held, slot := v.serving.slot, unit := v, steps := blockSteps new, poisoned := v.parity }
  else
    let p := u.select false k steps (held ++ new)
    { held := p.1.out, slot := none, unit := p.2, steps := p.1.steps, poisoned := p.1.poisoned }

end Sys2Proof.Machine
end

