-- ==== Sys2Proof/Machine/Graph.lean ====
section
/-! DEFINITION. The graph of an index: shards and levels (R108), locators (R60), adjacency records (R112, R113), what a
snapshot shows (R122, R124, R224, R225), the traversal (R92 to R95) and linking (R119, R120, R127). -/

namespace Sys2Proof.Machine

/-! ## Hashes, locators and adjacency records -/

/-- mix of R108. -/
def mix (z : BitVec 64) : BitVec 64 :=
  let a := (z ^^^ (z >>> 30)) * 0xBF58476D1CE4E5B9#64
  let b := (a ^^^ (a >>> 27)) * 0x94D049BB133111EB#64
  b ^^^ (b >>> 31)

/-- R108: the shard of a user key. -/
def shardOf (seed shards uk : Nat) : Nat := (mix (BitVec.ofNat 64 (uk % 2 ^ 48) ^^^ BitVec.ofNat 64 seed)).toNat % max shards 1

/-- Trailing zero bits of a number, up to `n`. -/
def ctzUpTo : Nat → Nat → Nat
  | 0, _ => 0
  | n + 1, v => if v % 2 = 1 then 0 else 1 + ctzUpTo n (v / 2)

/-- R108: the top layer of a user key under level shift `b`. -/
def levelOf (seed b uk : Nat) : Nat :=
  let h := (mix (BitVec.ofNat 64 (uk % 2 ^ 48) ^^^ BitVec.ofNat 64 seed ^^^ 0x5A5A5A5A5A5A5A5A#64)).toNat
  if h = 0 then 15 else min 15 (ctzUpTo 64 h / max b 1)

/-- A locator as its 48 bits (R60). -/
def locator (slot gen : Nat) : Nat := slot % 2 ^ 40 + gen % 256 * 2 ^ 40

/-- The slot of a locator. -/
def locSlot (l : Nat) : Nat := l % 2 ^ 40

/-- The generation of a locator. -/
def locGen (l : Nat) : Nat := l / 2 ^ 40 % 256

/-- Key of a slot over the shards of an index. -/
def slotKey (shard slot : Nat) : Nat := shard * 2 ^ 40 + slot

/-- Unsigned LEB128, in the fewest bytes (R113). -/
def leb128 : Nat → Nat → Bytes
  | 0, _ => []
  | n + 1, v => if v < 128 then [BitVec.ofNat 8 v] else BitVec.ofNat 8 (128 + v % 128) :: leb128 n (v / 128)

/-- The deltas of ascending targets, each at least 1 (R113). -/
def deltasOf : List Nat → List Nat
  | a :: b :: l => (b - a) :: deltasOf (b :: l)
  | _ => []

/-- An adjacency record, padded (R112, R113). -/
def adjacencyRecord (layer : Nat) (targets : List (Nat × Nat)) : Bytes :=
  let body := (match targets with | [] => [] | t :: _ => toLe 5 t.1) ++ (deltasOf (targets.map (·.1))).flatMap (leb128 10)
  padTo 64 (toLe 1 targets.length ++ toLe 1 layer ++ toLe 2 (8 + targets.length + body.length) ++ zeros 4 ++
    targets.map (fun t => BitVec.ofNat 8 t.2) ++ body)

/-- One LEB128 value and the bytes after it. -/
def readLeb : Nat → Bytes → Nat × Bytes
  | 0, b => (0, b)
  | _, [] => (0, [])
  | n + 1, x :: b => if x.toNat < 128 then (x.toNat, b) else let (v, r) := readLeb n b; (x.toNat % 128 + 128 * v, r)

/-- `n` further targets, each a delta above the one before. -/
def readTargets : Nat → Nat → Bytes → List Nat
  | 0, _, _ => []
  | n + 1, last, b => let (d, r) := readLeb 10 b; (last + d) :: readTargets n (last + d) r

/-- The targets of an adjacency record. -/
def parseAdjacency (b : Bytes) : List (Nat × Nat) :=
  let c := byteAt b 0
  if c = 0 then []
  else
    let first := le b (8 + c) 5
    let ts := first :: readTargets (c - 1) first (b.drop (13 + c))
    (ts.zip (List.range c)).map fun p => (p.1, byteAt b (8 + p.2))

/-- The bytes an adjacency record takes, with its padding. -/
def adjacencyLength (b : Bytes) : Nat := roundUp (le b 2 2) 64

/-- Insert a target in ascending slot order (R113). -/
def insertTarget (t : Nat × Nat) : List (Nat × Nat) → List (Nat × Nat)
  | [] => [t]
  | x :: l => if t.1 < x.1 then t :: x :: l else x :: insertTarget t l

/-- Targets in stored order, each slot once. -/
def sortTargets (l : List (Nat × Nat)) : List (Nat × Nat) :=
  l.foldl (fun acc t => if acc.any fun x => x.1 = t.1 then acc else insertTarget t acc) []

/-! ## Rows -/

/-- R61 to R65: the row of full-precision elements `x` (as FP32 exact values of the index's format), or none where it
cannot be quantised or its norms are refused. -/
def Index.makeRow (ix : Index) (attrs : Bytes) (key shard slot gen : Nat) (x : List Word32) : Option Row :=
  match quantise ix.width x, norms ix.dists x with
  | some q, some (sq, inv) =>
    some { shard := shard, slot := slot, gen := gen, key := key, level := 0,
           head := metaBlock attrs key gen ix.width ix.fp ix.dists q sq inv ix.dim,
           codes := packCodes ix.width q.codes, record := padTo 64 (elemBytes ix.fp x), commit := 0 }
  | _, _ => none

/-- A row given its slot and generation (R116). -/
def Row.placed (r : Row) (slot gen : Nat) : Row := { r with slot := slot, gen := gen, head := putAt r.head 22 (toLe 1 gen) }

/-- The full-precision record of a row (R65). -/
def Row.full (r : Row) : Bytes := r.head ++ r.record

/-- The generation after the last one of a slot (R116). -/
def nextGen (last : Nat) : Nat := last % 255 + 1

/-! ## Versions and snapshots -/

/-- Is a version's part of a shard readable: current, retained or draining (R111, R116)? Building and built versions
hold their slots too. -/
def Version.readable (v : Version) : Bool := v.st = 3 || v.st = 4 || v.st = 5

/-- Version `n` of an index. -/
def Index.version? (ix : Index) (n : Nat) : Option Version := ix.versions.find? fun v => v.num = n

/-- The current version (R125). -/
def Index.current (ix : Index) : Option Version := ix.versions.find? fun v => v.st = 3

/-- Its number, 0 if none. -/
def Index.currentNum (ix : Index) : Nat := (ix.current.map (·.num)).getD 0

/-- The row a version holds at a slot. -/
def Version.rowAt (v : Version) (shard slot : Nat) : Option Row := v.rows.find? fun r => r.shard = shard && r.slot = slot

/-- A version's list of a row on a layer. -/
def Version.listAt (v : Version) (shard layer slot : Nat) : List (Nat × Nat) :=
  ((v.lists.find? fun l => l.shard = shard && l.layer = layer && l.slot = slot).map (·.targets)).getD []

/-- Put a list. -/
def Version.setList (v : Version) (shard layer slot : Nat) (t : List (Nat × Nat)) : Version :=
  { v with lists := (v.lists.filter fun l => !(l.shard = shard && l.layer = layer && l.slot = slot)) ++
      [{ shard := shard, layer := layer, slot := slot, targets := t }] }

/-- The entry point of a shard in a version: the highest level, and of those the lowest user key (R115). -/
def Version.entry (v : Version) (shard : Nat) : Option Row :=
  (v.rows.filter fun r => r.shard = shard).foldl (fun best r => match best with
    | none => some r
    | some b => if b.level < r.level ∨ (b.level = r.level ∧ r.key < b.key) then some r else some b) none

/-- The order of upper rows: ascending user key (R115), and of a row and its replica the lower slot first (DESIGN CHOICE, log
entry 82). -/
def Row.below (a b : Row) : Bool := decide (a.key < b.key ∨ (a.key = b.key ∧ a.slot < b.slot))

/-- The upper rows of a shard in a version: the place of each is its upper id (R115). -/
def Version.uppers (v : Version) (shard : Nat) : List Row :=
  sortBy Row.below (v.rows.filter fun r => r.shard = shard && decide (0 < r.level))

/-- The upper id of the row at a slot. -/
def Version.upperId (v : Version) (shard slot : Nat) : Nat := (v.uppers shard).findIdx fun r => r.slot = slot

/-- The first list unit of an upper row (R115): each row before it takes one unit of 448 bytes for each of its upper layers
(DESIGN CHOICE, log entry 82: the units follow one another in ascending upper id). -/
def Version.firstUnit (v : Version) (shard u : Nat) : Nat := sumNat (((v.uppers shard).take u).map (·.level))

/-- The upper-table entry of upper id `u` (R115). -/
def Version.upperEntry (v : Version) (shard u : Nat) : Bytes :=
  match (v.uppers shard)[u]? with
  | some r => toLe 6 (locator r.slot r.gen) ++ toLe 1 r.level ++ zeros 1 ++ toLe 4 (v.firstUnit shard u) ++ zeros 4
  | none => zeros 16

/-- A list as its adjacency record holds it: its targets are slots on layer 0 and upper ids above (R112). -/
def Version.listRecord (v : Version) (l : AdjList) : Bytes :=
  adjacencyRecord l.layer (if l.layer = 0 then l.targets else l.targets.map fun t => (v.upperId l.shard t.1, t.2))

/-- Where the list of upper id `u` on a layer lies in the upper list area, in bytes (R115). -/
def Version.upperListAt (v : Version) (shard u layer : Nat) : Nat := 448 * (v.firstUnit shard u + layer - 1)

/-- The fields of a directory entry: the list's address in 64-byte units, and its blocks (R114). -/
def dirAddress (e : Nat) : Nat := e % 2 ^ 34
/-- The blocks of a directory entry, 0 where the slot holds no row. -/
def dirBlocks (e : Nat) : Nat := e / 2 ^ 34 % 8

/-- The base key map of a shard: (user key, locator) of each live row, by user key (R117). A replica stands in the replica
table instead (R212). -/
def Version.keyMap (v : Version) (shard : Nat) : List (Nat × Nat) :=
  ((sortBy (fun a b => decide (a.key < b.key))
    (v.rows.filter fun r => r.shard = shard && !v.replicas.contains (r.key, slotKey shard r.slot)))).map
    fun r => (r.key, locator r.slot r.gen)

/-- A key-map entry's 16 bytes, 256 of them in a 4 KiB block. -/
def keyEntry (e : Nat × Nat) : Bytes := toLe 6 e.1 ++ toLe 6 e.2 ++ zeros 4

/-- Every `n`-th element of a list, from its first. -/
def everyNth {α : Type} (n : Nat) (l : List α) : List α := (List.range (ceilDiv l.length n)).filterMap fun i => l[i * n]?

/-- The fence index: the first user key of every 4 KiB block of the key map (R117). -/
def Version.fences (v : Version) (shard : Nat) : List Nat := everyNth 256 ((v.keyMap shard).map (·.1))

/-- The locator that the base key map gives for a user key: the fence index names the one block to read (R117). -/
def Version.findKey (v : Version) (shard key : Nat) : Option Nat :=
  let block := ((v.fences shard).filter fun k => k ≤ key).length - 1
  ((((v.keyMap shard).drop (256 * block)).take 256).find? fun e => e.1 = key).map (·.2)

/-- The replica table of a shard: user key and replica locator, 16 bytes each (R212). -/
def Version.replicaTable (v : Version) (shard : Nat) : Bytes :=
  (v.replicas.filter fun p => p.2 / 2 ^ 40 = shard).flatMap fun p =>
    keyEntry (p.1, locator (p.2 % 2 ^ 40) (((v.rowAt shard (p.2 % 2 ^ 40)).map (·.gen)).getD 0))

/-- What a query or a linking search sees of a shard: a base version, with the delta log up to a stride, or, when a
version is named, alone (R86). -/
structure View where
  ix : Index
  ver : Version
  shard : Nat
  upTo : Option Nat
  deriving DecidableEq, Repr

/-- The committed delta row at a slot. -/
def Index.deltaAt (ix : Index) (shard slot : Nat) : Option Row := ix.delta.find? fun r => r.shard = shard && r.slot = slot

/-- R224: the delta row at a slot in a snapshot. -/
def View.deltaRow (v : View) (slot : Nat) : Option Row :=
  match v.upTo, v.ix.deltaAt v.shard slot with
  | some s, some r => if v.ver.cut < r.commit ∧ r.commit ≤ s then some r else none
  | _, _ => none

/-- The row at a slot in a snapshot. -/
def View.row (v : View) (slot : Nat) : Option Row :=
  match v.ver.rowAt v.shard slot with
  | some r => some r
  | none => v.deltaRow slot

/-- The generation at a slot in a snapshot; 0 for no row (R124). -/
def View.gen (v : View) (slot : Nat) : Nat := ((v.row slot).map (·.gen)).getD 0

/-- R122: is a target a delta row committed after the admission stride, and so absent? -/
def View.absent (v : View) (slot : Nat) : Bool :=
  match v.upTo, v.ix.deltaAt v.shard slot with
  | some s, some r => s < r.commit && (v.ver.rowAt v.shard slot).isNone
  | _, _ => false

/-- R225: is a row tombstoned in a snapshot? -/
def View.tombstoned (v : View) (r : Row) : Bool :=
  match v.upTo with
  | none => false
  | some s =>
    (v.ix.tombs.any fun t => t.shard = v.shard && t.slot = r.slot && t.gen = r.gen) &&
      !(v.ix.recent.any fun t => t.shard = v.shard && t.slot = r.slot && t.gen = r.gen && s < t.commit)

/-- R122, R224: the edges of a row on a layer, in stored order: its own list, then its overlay entries in force. -/
def View.edges (v : View) (layer slot : Nat) : List (Nat × Nat) :=
  if 0 < layer then v.ver.listAt v.shard layer slot
  else
    let own :=
      match v.ver.rowAt v.shard slot with
      | some _ => v.ver.listAt v.shard 0 slot
      | none =>
        ((v.ix.deltaLists.find? fun l => l.shard = v.shard && l.slot = slot).map (·.targets)).getD []
    match v.upTo with
    | none => own
    | some s =>
      own ++ sortTargets ((v.ix.overlays.filter fun o => o.shard = v.shard && o.slot = slot && o.commit ≤ s).map
        fun o => (o.target, o.gen))

/-! ## Traversal (R92 to R95) -/

/-- The order of the lists: (rank key, user key). -/
def Entry.ahead (a b : Entry) : Bool := a.rank < b.rank || (a.rank = b.rank && a.key < b.key)

/-- Insert into a result list. -/
def insertResult (e : Entry) : List Entry → List Entry
  | [] => [e]
  | x :: l => if e.ahead x then e :: x :: l else x :: insertResult e l

/-- R92: entries of the candidate list. -/
def candidateRoom (width depth : Nat) : Nat := min 1024 (max depth (8 * width))

/-- A search under way with what it has met: stale edges, the entries it scored from the present list, those it scored
since its lists were last selected (with whether each may be returned), and the sort unit that selects. -/
structure Walk where
  search : Search
  stale : Nat
  found : List Entry
  fresh : List (Entry × Bool)
  unit : SortUnit
  deriving DecidableEq, Repr

/-- A walk of a search that has met nothing. -/
def Search.walk (q : Search) (u : SortUnit) : Walk := { search := q, stale := 0, found := [], fresh := [], unit := u }

/-- Score one row (R94, R95); `skip` is a slot never returned (R119), `bad` the slots whose codes read poison (R105). -/
def Walk.score (w : Walk) (v : View) (skip : Option Nat) (bad : List Nat) (r : Row) : Walk :=
  let q := w.search
  let q1 := { q with visited := (r.slot, r.gen) :: q.visited }
  if bad.contains r.slot then { w with search := { q1 with poisoned := true } }
  else
    let e := scoredEntry (recDist q.record) (codeScore q.record r.head r.codes) r.key r.slot r.gen q.shard 0
    let mayReturn := skip ≠ some r.slot && !v.tombstoned r && filterPass v.ix.typeA v.ix.typeB q.filter (attrsOf r.head)
    { w with search := q1, found := w.found ++ [e], fresh := w.fresh ++ [(e, mayReturn)] }

/-- R146, R147: select both lists again from what they hold and the entries scored since, in scoring order: the candidate
list's block steps first. A parity error poisons what is held, and with it the share (R138, R103). -/
def Walk.settle (w : Walk) (parity : List Nat) : Walk :=
  let q := w.search
  let old := q.cand
  let c := w.unit.hold (candidateRoom q.width q.depth) 0 parity (old.map (·.entry)) q.candSlot (w.fresh.map (·.1))
  let r := c.unit.hold q.depth c.steps parity q.result q.resultSlot ((w.fresh.filter (·.2)).map (·.1))
  { w with
    fresh := [], unit := r.unit,
    search := { q with
      cand := c.held.map fun e => { entry := e, expanded := (old[e.pos]?).any (·.expanded) }, candSlot := c.slot,
      result := r.held, resultSlot := r.slot, poisoned := q.poisoned || c.poisoned || r.poisoned } }

/-- One edge of a list (R94, R122, R124). -/
def Walk.edge (w : Walk) (v : View) (skip : Option Nat) (bad : List Nat) (t : Nat × Nat) : Walk :=
  if v.absent t.1 then w
  else
    match v.row t.1 with
    | some r =>
      if r.gen ≠ t.2 then { w with stale := w.stale + 1 }
      else if w.search.visited.contains (t.1, t.2) then w
      else w.score v skip bad r
    | none => { w with stale := w.stale + 1 }

/-- The edges of one list, in stored order. -/
def Walk.list (w : Walk) (v : View) (skip : Option Nat) (bad : List Nat) (layer slot : Nat) : Walk :=
  (v.edges layer slot).foldl (fun w t => w.edge v skip bad t) { w with found := [] }

/-- The first of a list of entries in list order. -/
def bestOf (l : List Entry) : Option Entry :=
  l.foldl (fun b e => match b with
    | none => some e
    | some x => if e.ahead x then some e else some x) none

/-- R93: the greedy descent from `layer`, down to layer `floor`, with `limit` expansions left. `badLists` are the slots
whose lists read poison. -/
def Walk.descend (v : View) (skip : Option Nat) (bad badLists : List Nat) (floor : Nat) :
    Nat → Nat → Entry → Walk → Walk × Entry
  | 0, _, best, w => (w, best)
  | limit + 1, layer, best, w =>
    if layer < floor then (w, best)
    else
      let w1 :=
        if badLists.contains best.slot then { w with found := [], search := { w.search with poisoned := true } }
        else w.list v skip bad layer best.slot
      match bestOf w1.found with
      | some e =>
        if e.ahead best then Walk.descend v skip bad badLists floor limit layer e w1
        else if layer = 0 then (w1, best)
        else Walk.descend v skip bad badLists floor limit (layer - 1) best w1
      | none => if layer = 0 then (w1, best) else Walk.descend v skip bad badLists floor limit (layer - 1) best w1

/-- Mark candidates expanded. -/
def markExpanded (slots : List Nat) (l : List Candidate) : List Candidate :=
  l.map fun c => if slots.contains c.entry.slot then { c with expanded := true } else c

/-- Choose the best `n` unexpanded candidates, mark them and prefetch their lists (R94). A list that reads poison leaves
its candidate expanded and its neighbours untaken (R105). -/
def Walk.prefetch (w : Walk) (badLists : List Nat) (n : Nat) : Walk :=
  let q := w.search
  let next := ((q.cand.filter fun c => !c.expanded).take n).map fun c => c.entry.slot
  let good := next.filter fun x => !badLists.contains x
  { w with search :=
      { q with cand := markExpanded next q.cand, fetched := good, done := next.isEmpty,
               poisoned := q.poisoned || next.any badLists.contains } }

/-- The start of a search on `layer`: the descent from the entry point to layer + 1, and the first prefetch. Without an
entry point on that layer there is nothing to walk. -/
def Walk.start (w : Walk) (v : View) (skip : Option Nat) (bad badLists parity : List Nat) (limit layer : Nat) : Walk :=
  match v.ver.entry v.shard with
  | none => { w with search := { w.search with done := true } }
  | some r =>
    if r.level < layer then { w with search := { w.search with done := true } }
    else
      let w1 := { w with found := [] }.score v skip bad r
      match w1.found.head? with
      | none => { w1 with search := { w1.search with done := true } }
      | some e =>
        let (w2', best) := Walk.descend v skip bad badLists (layer + 1) limit r.level e w1
        let w2 := w2'.settle parity
        let bads := badLists.contains best.slot
        { w2 with search :=
            { w2.search with
                cand := markExpanded [best.slot] w2.search.cand,
                fetched := if bads then [] else [best.slot],
                poisoned := w2.search.poisoned || bads } }

/-- One round on a layer (R94); the last one prefetches nothing. -/
def Walk.round (w : Walk) (v : View) (skip : Option Nat) (bad badLists parity : List Nat) (layer : Nat) (last : Bool) : Walk :=
  if w.search.done then w
  else
    let w1 := (w.search.fetched.foldl (fun w slot => w.list v skip bad layer slot) w).settle parity
    let w2 := w1.prefetch (if last then [] else badLists) w.search.width
    if last then { w2 with search := { w2.search with fetched := [] } } else w2

/-- Rounds until no unexpanded candidate remains, or `fuel` of them. -/
def Walk.rounds (v : View) (skip : Option Nat) (bad : List Nat) (layer : Nat) : Nat → Walk → Walk
  | 0, w => w
  | fuel + 1, w => if w.search.done then w else Walk.rounds v skip bad layer fuel (w.round v skip bad [] [] layer false)

/-! ## Linking (R119, R120, R126, R127) -/

/-- A filter block with no term. -/
def noFilter : Bytes := zeros 8

/-- R119 step 1: the query record of a row under the build distance. -/
def Index.recordOf (ix : Index) (r : Row) : Bytes :=
  (queryRecord ix.buildDist ix.fp (elemsAt ix.fp r.record 0 ix.dim)).getD []

/-- A search that links row `r`: width Wb, depth Db, no filter (R119 step 3). -/
def Index.linkSearch (ix : Index) (r : Row) (ver : Nat) : Search :=
  { cls := 0, elastic := false, coord := 0, handle := 0, shard := r.shard, admitAt := 0, index := 0,
    context := ix.context, version := ver, named := false, width := ix.wb, depth := ix.db, descent := 0, filter := noFilter,
    record := ix.recordOf r, cand := [], candSlot := none, result := [], resultSlot := none, visited := [], fetched := [],
    poisoned := false, done := false, items := [], exact := [],
    detour := false, len := 0, roundAt := 0, phase := 0 }

/-- What a build has met: stale edges, and the rows that it scored, as slot keys (R124, R209). -/
structure Met where
  stale : Nat
  scored : List Nat
  deriving DecidableEq, Repr

/-- R119 steps 2 to 4 on a layer: the best `m` of the result list, and what was met; `bad` are the slots whose codes read poison. -/
def View.neighboursFor (v : View) (r : Row) (bad : List Nat) (layer m : Nat) : List Entry × Met :=
  let fuel := v.ver.rows.length + v.ix.delta.length + 17
  let w := Walk.start ((v.ix.linkSearch r v.ver.num).walk SortUnit.reset) v (some r.slot) bad [] [] fuel layer
  let w' := Walk.rounds v (some r.slot) bad layer fuel w
  (w'.search.result.take m, { stale := w'.stale, scored := w'.search.visited.reverse.map fun x => slotKey r.shard x.1 })

/-- R120, R127: the best `m` targets by code score against row `r`, in stored order; a target that `row?` does not give
with its generation, or whose codes read poison (`bad`), has no code score and is dropped. -/
def Index.bestTargets (ix : Index) (row? : Nat → Option Row) (bad : List Nat) (r : Row) (m : Nat) (edges : List (Nat × Nat)) :
    List (Nat × Nat) :=
  let rec' := ix.recordOf r
  let scored := (sortTargets edges).filterMap fun t =>
    match row? t.1 with
    | some x =>
      if x.gen = t.2 ∧ x.slot ≠ r.slot ∧ ¬ bad.contains x.slot then
        some (scoredEntry ix.buildDist (codeScore rec' x.head x.codes) x.key x.slot x.gen r.shard 0)
      else none
    | none => none
  sortTargets (((scored.foldl (fun l e => insertResult e l) []).take m).map fun e => (e.slot, e.gen))

/-- The degree of a layer (R119 step 4). -/
def Index.degree (ix : Index) (layer : Nat) : Nat := if layer = 0 then ix.m0 else ix.mu

/-- Upper lists are stored in ascending upper id (R113, R115). -/
def Version.stored (v : Version) (shard layer : Nat) (l : List (Nat × Nat)) : List (Nat × Nat) :=
  let before (a b : Nat × Nat) : Bool := match v.rowAt shard a.1, v.rowAt shard b.1 with
    | some x, some y => x.below y
    | _, _ => false
  if layer = 0 then l else sortBy before l

/-- Slots of a shard among slot keys. -/
def slotsOf (shard : Nat) (keys : List Nat) : List Nat := keys.filterMap fun k => if k / 2 ^ 40 = shard then some (k % 2 ^ 40) else none

/-- R119, R120: link row `r` on one layer of a version being built, with its back edges; `bad` are the slots of the shard whose
codes read poison. -/
def Index.linkLayer (ix : Index) (bad : List Nat) (p : Version × Met) (r : Row) (layer : Nat) : Version × Met :=
  let v : View := { ix := ix, ver := p.1, shard := r.shard, upTo := none }
  let (best, met) := v.neighboursFor r bad layer (ix.degree layer)
  let own := p.1.setList r.shard layer r.slot (p.1.stored r.shard layer (sortTargets (best.map fun e => (e.slot, e.gen))))
  let ver := best.foldl (fun ver e =>
    let present := ver.listAt r.shard layer e.slot
    let next :=
      if present.length < ix.degree layer then sortTargets (present ++ [(r.slot, r.gen)])
      else
        match ver.rowAt r.shard e.slot with
        | some n => ix.bestTargets (fun t => if t = r.slot then some r else ver.rowAt r.shard t) bad n (ix.degree layer)
            (present ++ [(r.slot, r.gen)])
        | none => present
    ver.setList r.shard layer e.slot (ver.stored r.shard layer next)) own
  (ver, { stale := p.2.stale + met.stale, scored := p.2.scored ++ met.scored })

/-- The layers `top`, top - 1, …, `bottom`. -/
def layersDown (top bottom : Nat) : List Nat := ((List.range (top + 1 - bottom)).map (· + bottom)).reverse

/-- Add a row to a version, linking it on its layers from the top down to `bottom` (R119 step 5). The row is placed
before it is linked, at no level, so that its own lists order and no search starts from it. -/
def Index.addRow (ix : Index) (bad : List Nat) (p : Version × Met) (r : Row) (level bottom : Nat) : Version × Met :=
  let others := p.1.rows.filter fun x => !(x.shard = r.shard && x.slot = r.slot)
  let linked := (layersDown level bottom).foldl (fun p layer => ix.linkLayer (slotsOf r.shard bad) p r layer)
    ({ p.1 with rows := others ++ [{ r with level := 0 }] }, p.2)
  ({ linked.1 with rows := others ++ [{ r with level := level }] }, linked.2)

/-! ## Free slots (R116) -/

/-- Slots of a shard that a version, the delta log or a reservation holds. -/
def Index.usedSlots (ix : Index) (shard : Nat) : List Nat :=
  ((ix.versions.flatMap (·.rows)) ++ ix.delta).filterMap (fun r => if r.shard = shard then some r.slot else none) ++
    ix.reserved.filterMap fun k => if k / 2 ^ 40 = shard then some (k % 2 ^ 40) else none

/-- The lowest number from `n` on that is not in a list. -/
def lowestFree (used : List Nat) : Nat → Nat → Nat
  | 0, n => n
  | fuel + 1, n => if used.contains n then lowestFree used fuel (n + 1) else n

/-- The lowest free slot of a shard, if one is left. -/
def Index.freeSlot (ix : Index) (shard : Nat) : Option Nat :=
  let used := ix.usedSlots shard
  let n := lowestFree used (used.length + 1) 0
  if n < ix.slotCap then some n else none

/-- The later of two last generations of a slot, which follow one another from 1 to 255 and round again (R116): the one at most
127 generations ahead of the other; 0 is that of a slot that has held no row. -/
def laterGen (a b : Nat) : Nat := if a = 0 then b else if b = 0 then a else if (b + 255 - a) % 255 ≤ 127 then b else a

/-- The generation that the next row of a slot takes (R116). -/
def Index.genFor (ix : Index) (shard slot : Nat) : Nat := nextGen (SMap.getD ix.lastGen (slotKey shard slot) 0)

/-- The live row of a user key in a shard: the delta key map first, whose rows count only above the current base's cut
(R224), then the base key map (R117, R118). -/
def Index.liveRow (ix : Index) (shard key : Nat) : Option Row :=
  let alive (r : Row) : Bool := r.shard = shard && r.key = key &&
    !(ix.tombs.any fun t => t.shard = shard && t.slot = r.slot && t.gen = r.gen)
  let cut := (ix.current.map (·.cut)).getD 0
  match ix.delta.find? fun r => decide (cut < r.commit) && alive r with
  | some r => some r
  | none =>
    (ix.current.bind fun v => (v.findKey shard key).bind fun l => v.rowAt shard (locSlot l)).bind fun r =>
      if alive r then some r else none

/-! ## Builds and compactions -/

/-- A build under way: the index with its last generations, the version, what was met, and the first user key that found no free
slot; `bad` are the slot keys whose codes read poison (R120). -/
structure Building where
  ix : Index
  ver : Version
  met : Met
  full : Option Nat
  bad : List Nat
  deriving DecidableEq, Repr

/-- Place a row in the lowest free slot of its shard and link it on its layers (R116, R119). -/
def Building.put (b : Building) (r : Row) : Building :=
  if b.full.isSome then b
  else
    let held : Index := { b.ix with versions := b.ver :: b.ix.versions }
    match held.freeSlot r.shard with
    | none => { b with full := some r.key }
    | some slot =>
      let gen := b.ix.genFor r.shard slot
      let (ver, met) := b.ix.addRow b.bad (b.ver, b.met) (r.placed slot gen) (levelOf b.ix.seed b.ix.shift r.key) 0
      { b with ix := { b.ix with lastGen := SMap.set b.ix.lastGen (slotKey r.shard slot) gen }, ver := ver, met := met }

/-- R212: each listed key that is live in the version receives a replica, in ascending user key. -/
def Building.replicate (b : Building) (keys : List Nat) : Building :=
  (sortBy (fun x y => decide (x < y)) (dedupNat keys)).foldl (fun b key =>
    match b.ver.rows.find? fun r => r.key = key with
    | none => b
    | some r =>
      let slot := ((({ b.ix with versions := b.ver :: b.ix.versions } : Index)).freeSlot r.shard).getD 0
      let c := b.put r
      if c.full.isSome then c else { c with ver := { c.ver with replicas := c.ver.replicas ++ [(key, slotKey r.shard slot)] } }) b

/-- R116, R126: place and link the rows of a build, in ascending user key, then its replicas (R212). -/
def Index.buildRows (ix : Index) (num cut : Nat) (rows : List Row) (bad : List Nat) : Building :=
  let empty : Version := { num := num, st := 1, cut := cut, digest := 0, cutStep := 0, filled := false, since := 0, keepTo := 0, rows := [],
                           dir := [], lists := [], replicas := [] }
  ((sortBy (fun a b => decide (a.key < b.key)) rows).foldl Building.put { ix := ix, ver := empty, met := ⟨0, []⟩, full := none,
                                                                          bad := bad }).replicate
    ix.replicaList

/-- R127: the version that compacts the shards of `base` from the snapshot of stride `c`, taken at that stride. A replica
lasts only for the version that was built with it (R212). -/
def Index.compact (ix : Index) (base : Version) (num c : Nat) (shards bad : List Nat) : Version × Met :=
  let empty : Version := { num := num, st := 1, cut := c, digest := 0, cutStep := 0, filled := false, since := 0, keepTo := 0, rows := [],
                           dir := [], lists := [], replicas := [] }
  let viewOf (shard : Nat) : View := { ix := ix, ver := base, shard := shard, upTo := some c }
  let liveOf (shard : Nat) : List Row :=
    let v := viewOf shard
    ((base.rows ++ ix.delta).filter fun r => r.shard = shard && v.row r.slot = some r && !v.tombstoned r &&
      !base.replicas.contains (r.key, slotKey r.shard r.slot))
  let isBase (r : Row) : Bool := (base.rowAt r.shard r.slot).isSome
  let live := shards.flatMap liveOf
  -- the survivors keep their slots, generations and, as base rows, their levels
  let held : Version := { empty with rows := live.map fun r => { r with level := if isBase r then r.level else 0, commit := 0 } }
  let rowIn (shard : Nat) (t : Nat) : Option Row := live.find? fun r => r.shard = shard && r.slot = t
  let survives (shard : Nat) (t : Nat × Nat) : Bool := (rowIn shard t.1).any fun r => r.gen = t.2
  -- steps 2 and 3: layer 0
  let low := live.foldl (fun ver r =>
    let v := viewOf r.shard
    let own := v.edges 0 r.slot
    let gone := own.filter fun t => !survives r.shard t
    let overlaid := ix.overlays.any fun o => o.shard = r.shard && o.slot = r.slot && o.commit ≤ c
    let list :=
      if isBase r && !overlaid && gone.isEmpty then base.listAt r.shard 0 r.slot
      else
        let more := gone.flatMap fun t => if v.gen t.1 = t.2 then v.edges 0 t.1 else []
        ix.bestTargets (rowIn r.shard) (slotsOf r.shard bad) r ix.m0 ((own ++ more).filter (survives r.shard))
    ver.setList r.shard 0 r.slot list) held
  -- step 4: repair the upper rows that survive
  let high := (live.filter fun r => isBase r && 0 < r.level).foldl (fun ver r =>
    (layersDown r.level 1).foldl (fun ver layer =>
      let own := base.listAt r.shard layer r.slot
      let gone := own.filter fun t => !survives r.shard t
      let list :=
        if gone.isEmpty then own
        else
          let more := gone.flatMap fun t =>
            if (base.rowAt r.shard t.1).any fun x => x.gen = t.2 then base.listAt r.shard layer t.1 else []
          ix.bestTargets (rowIn r.shard) (slotsOf r.shard bad) r ix.mu ((own ++ more).filter (survives r.shard))
      ver.setList r.shard layer r.slot (ver.stored r.shard layer list)) ver) low
  -- rows new to the upper layers, in ascending user key
  let fresh := sortBy (fun a b => decide (a.key < b.key))
    (live.filter fun r => !isBase r && 0 < levelOf ix.seed ix.shift r.key)
  fresh.foldl (fun p r => ix.addRow bad p { r with commit := 0 } (levelOf ix.seed ix.shift r.key) 1) (high, ⟨0, []⟩)

/-- The lowest address at which `n` blocks overlap no list of `used`, given as directory entries. -/
def listRoom (used : List Nat) (n : Nat) : Nat :=
  let free (a : Nat) : Bool := used.all fun e => a + n ≤ dirAddress e || dirAddress e + dirBlocks e ≤ a
  ((sortBy (fun a b => decide (a < b)) (0 :: used.map fun e => dirAddress e + dirBlocks e)).find? free).getD 0

/-- R110, R111, R114: give every layer-0 list of a version its place in the index's list area. A list that another version
holds unchanged shares its blocks; any other takes the lowest blocks that no version uses (DESIGN CHOICE, log entry 82: the
manual does not say which free blocks). -/
def Index.placeLists (ix : Index) (v : Version) : Version :=
  let others := ix.versions.filter fun o => o.num ≠ v.num
  let rows := sortBy (fun a b => decide (slotKey a.shard a.slot < slotKey b.shard b.slot)) v.rows
  { v with dir := rows.foldl (fun d r =>
      let k := slotKey r.shard r.slot
      let list := v.listAt r.shard 0 r.slot
      let same := others.find? fun o => SMap.has o.dir k && o.listAt r.shard 0 r.slot = list
      let n := (adjacencyRecord 0 list).length / 64
      let e := match same with
        | some o => SMap.getD o.dir k 0
        | none => listRoom ((others.flatMap fun o => o.dir.map (·.2)) ++ d.map (·.2)) n + n * 2 ^ 34
      SMap.set d k e) [] }

/-- The bytes of a version's structures, in an order that Config.arrange stands for (R128): rows with their levels, lists,
directory, generation array, upper tables, key maps and replica tables. -/
def Version.bytes (v : Version) : Bytes :=
  let shards := dedupNat (v.rows.map (·.shard))
  toLe 8 v.num ++ (v.rows.flatMap fun r => toLe 2 r.shard ++ toLe 6 (locator r.slot r.gen) ++ toLe 1 r.level ++ r.head ++
    r.codes ++ r.record) ++
  (v.lists.flatMap fun l => toLe 2 l.shard ++ toLe 6 l.slot ++ v.listRecord l) ++
  (v.rows.flatMap fun r => toLe 8 (SMap.getD v.dir (slotKey r.shard r.slot) 0) ++ toLe 1 r.gen) ++
  shards.flatMap fun j =>
    ((List.range (v.uppers j).length).flatMap fun u => v.upperEntry j u) ++ (v.keyMap j).flatMap keyEntry ++ v.replicaTable j

/-- R128: the version digest. -/
def Version.digestOf (v : Version) : Nat := digest64 (Config.arrange v.bytes)

end Sys2Proof.Machine
end

