-- ==== Sys2Proof/Machine/Flags.lean ====
section
/-! DEFINITION. The flags of a query's result header and how they follow from its shares and entries (R75, R103, R105,
R144), and the flags of the other completions (R214, R239, R241, R279). -/

namespace Sys2Proof.Machine

/-- TIE_AT_BOUNDARY (R75). -/
abbrev hdrTie : BitVec 16 := 1
/-- POISONED -/
abbrev hdrPoisoned : BitVec 16 := 2
/-- DETOUR -/
abbrev hdrDetour : BitVec 16 := 4
/-- LATE -/
abbrev hdrLate : BitVec 16 := 8
/-- NONFINITE -/
abbrev hdrNonfinite : BitVec 16 := 16
/-- EXACT -/
abbrev hdrExact : BitVec 16 := 32
/-- PROGRAM -/
abbrev hdrProgram : BitVec 16 := 64

/-- A header flag where a condition holds. -/
def flagIf (c : Bool) (f : BitVec 16) : BitVec 16 := if c then f else 0

/-- R75, R103: the flags of a finished query: those gathered from its shares, EXACT with a re-rank, PROGRAM with a
program, the tie rule of R144, and NONFINITE of a returned entry. -/
def resultFlags (gathered : BitVec 16) (reranked program tie : Bool) (returned : List Entry) : BitVec 16 :=
  gathered ||| flagIf reranked hdrExact ||| flagIf program hdrProgram ||| flagIf tie hdrTie |||
    flagIf (returned.any fun e => hasFlag e.flags flNonfinite) hdrNonfinite

/-- R105: what a shard-search adds to the header of its query. -/
def shareFlags (poisoned detour : Bool) : BitVec 16 := flagIf poisoned hdrPoisoned ||| flagIf detour hdrDetour

/-- An update's completion flags (R214): SINGLE and UNKNOWN. -/
def updateFlags (single unknown : Bool) : Nat := bit01 single + 2 * bit01 unknown

end Sys2Proof.Machine
end

