-- ==== Sys2Proof/Machine/Rings.lean ====
section
/-! DEFINITION. What rings of every kind share: admission (R29, R37, R83), completions (R83, R84), the objects of
contexts and the changes that stand accepted and not yet adopted (R31). -/

namespace Sys2Proof.Machine

/-! ## Rings and storage queues -/

/-- A ring by id. -/
def State.ring? (s : State) (id : Nat) : Option Ring := SMap.find? s.rings id

/-- Change a ring. -/
def State.modRing (s : State) (id : Nat) (g : Ring → Ring) : State := { s with rings := SMap.update s.rings id g }

/-- Change a storage queue. -/
def State.modQueue (s : State) (id : Nat) (g : Ring → Ring) : State := { s with queues := SMap.update s.queues id g }

/-- Entries posted before cycle 0 of the present stride and not yet admitted (R29). -/
def Ring.eligible (r : Ring) : Nat := (r.seenTail - BitVec.ofNat 32 r.admitted).toNat

/-- Completion slots neither unread, nor written, nor reserved (R83, R351). -/
def Ring.freeSlots (r : Ring) : Nat := r.depth - ((r.cplTail - r.seenHead).toNat + r.written.length + r.reserved)

/-- Do rings take entries now: work starts, and no remount has begun (R335)? -/
def State.admitting (s : State) : Bool := s.working && s.clk.remounting.isNone

/-- Is a context open for its own work? -/
def State.contextLive (s : State) (c : Nat) : Bool := (SMap.find? s.contexts c).any fun x => x.st = 1

/-- May a ring take an entry now: it is open, not closing or torn down, its context live, an entry is eligible, a completion slot is
free, and its function can fetch the entry (R29, R83, R333, R360, R376, R388)? -/
def State.mayAdmit (s : State) (r : Ring) : Bool :=
  s.admitting && r.isOpen && !r.closing && !r.stopped && !r.lost && s.contextLive r.context && decide (0 < r.eligible) &&
    decide (0 < r.freeSlots) && s.dmaOk r.func

/-- The class of the running gait that serves a ring, if it has room in this stride (R37, R375). -/
def State.ringClass (s : State) (id : Nat) (r : Ring) : Option Nat :=
  match s.gaitNow.1.classOf r.context r.kind id with
  | some k => if s.classRoom k then some k else none
  | none => none

/-- An entry taken in: its ring, the class and the class's plan length, its ring order and its bytes. -/
structure Admission where
  id : Nat
  ring : Ring
  cls : Nat
  len : Nat
  elastic : Bool
  order : Nat
  entry : Bytes
  deriving DecidableEq, Repr

/-- Admit the next entry of ring `id` (R29, R83): one unit of the class, a completion slot reserved, the context's count
raised. Nothing where the ring admits nothing. -/
def State.admitRing (s : State) (id kind : Nat) (entry : Bytes) (act : State → Admission → State) : State :=
  match s.ring? id with
  | none => s
  | some r =>
    if r.kind ≠ kind ∨ !s.mayAdmit r then s
    else
      match s.ringClass id r with
      | none => s
      | some k =>
        let len := ((s.gaitNow.1.cls? k).map (·.len)).getD 1
        let elastic := (s.gaitNow.1.cls? k).any (·.elastic)
        let t := ((s.modRing id fun r =>
          { r with admitted := r.admitted + 1, stepped := r.stepped + 1, reserved := r.reserved + 1 }).admitTo k).ctxCount
            r.context fun c => { c with admitted := c.admitted + 1 }
        act t { id := id, ring := r, cls := k, len := len, elastic := elastic, order := r.admitted, entry := fit r.slotSize entry }

/-- A ring with a completion in the slot reserved for it; a detached function's completions are discarded (R83, R360). -/
def Ring.completed (r : Ring) (stride admitAt order : Nat) (entry : Bytes) : Ring :=
  { r with reserved := r.reserved - 1, written := if r.lost then r.written else r.written ++ [(stride, admitAt, order, entry)] }

/-- Completions of detached functions are counted (R360). -/
def State.dropCompletions (s : State) (n : Nat) : State := { s with tel := { s.tel with dropped := s.tel.dropped + n } }

/-- Write a completion of a ring. -/
def State.complete (s : State) (id admitAt order : Nat) (entry : Bytes) : State :=
  (s.modRing id fun r => r.completed s.stride admitAt order entry).dropCompletions (bit01 ((s.ring? id).any fun r => r.lost))

/-- The same for a storage queue. -/
def State.completeQueue (s : State) (id admitAt order : Nat) (entry : Bytes) : State :=
  (s.modQueue id fun r => r.completed s.stride admitAt order entry).dropCompletions
    (bit01 ((SMap.find? s.queues id).any fun r => r.lost))

/-- The order of publication: ascending admission stride, then ring order (R84). -/
def publishOrder (l : List (Nat × Nat × Nat × Bytes)) : List (Nat × Nat × Nat × Bytes) :=
  sortBy (fun a b => decide (a.2.1 < b.2.1 ∨ (a.2.1 = b.2.1 ∧ a.2.2.1 < b.2.2.1))) l

/-- Put completions into the ring's host memory by DMA, from its producer index on (R84, R352). -/
def State.putCompletions (s : State) (r : Ring) : Nat → List (Nat × Nat × Nat × Bytes) → State
  | _, [] => s
  | i, (_, _, _, e) :: l =>
    (s.dma r.func (r.cplAddr + i % r.depth * r.cplSlot) e).putCompletions r (i + 1) l

/-- The completions of a ring that strides before `n` wrote and that are not yet in its completion ring, in the order of
publication. -/
def Ring.unplaced (r : Ring) (n : Nat) : List (Nat × Nat × Nat × Bytes) :=
  publishOrder ((r.written.drop r.placed).filter fun w => decide (w.1 < n))

/-- Place a ring's completions of the strides before `n` (R352). -/
def State.place (s : State) (n : Nat) (r : Ring) (store : State → (Ring → Ring) → State) : State :=
  let l := r.unplaced n
  if l.isEmpty then s
  else store (s.putCompletions r (r.cplTail.toNat + r.placed) l) fun r =>
    { r with written := r.written.take r.placed ++ l ++ (r.written.drop r.placed).filter fun w => !decide (w.1 < n),
             placed := r.placed + l.length }

/-- Every ring and storage queue places what the strides before `n` wrote: a stride's completions at its end, when their order is
known (R84, R352). -/
def State.placeAll (s : State) (n : Nat) : State :=
  let s1 := s.rings.foldl (fun (s : State) p => s.place n p.2 fun s g => s.modRing p.1 g) s
  s.queues.foldl (fun (s : State) p => s.place n p.2 fun s g => s.modQueue p.1 g) s1

/-- What of a ring is due at cycle 4,095: the completions that earlier strides wrote (R84). -/
def State.due (s : State) (r : Ring) : List (Nat × Nat × Nat × Bytes) := r.written.filter fun w => decide (w.1 < s.stride)

/-- Publish what a ring wrote in earlier strides: CPL_TAIL advances past it (R84, R352). -/
def State.publish (s : State) (r : Ring) (store : State → (Ring → Ring) → State) : State :=
  let n := (s.due r).length
  if n = 0 then s
  else
    (store s fun r =>
      { r with cplTail := r.cplTail + BitVec.ofNat 32 n, written := r.written.filter fun w => !decide (w.1 < s.stride),
               placed := r.placed - n }).ctxCount
        r.context fun c => { c with published := c.published + n }

/-- A list of pairs with each pair once. -/
def dedupPairs (l : List (Nat × Nat)) : List (Nat × Nat) := l.foldl (fun acc x => if acc.contains x then acc else acc ++ [x]) []

/-- The vectors due at this boundary, each once, whatever the number of its rings (R354). -/
def State.dueVectors (s : State) : List (Nat × Nat) :=
  dedupPairs (((s.rings.map (·.2) ++ s.queues.map (·.2)).filter fun r => !(s.due r).isEmpty).map fun r => (r.func, r.vector))

/-- A closing ring whose last completion is published: its close is answered, and it is no longer open (R376). -/
def State.ringDrained (s : State) (id : Nat) : State :=
  match s.ring? id with
  | some r =>
    if r.closing && r.isOpen && r.written.isEmpty && r.reserved = 0 then
      (s.happened (.ringClosed id) stOk none).modRing id fun r => { r with isOpen := false }
    else s
  | none => s

/-- Vectors 1 to 31 whose messages unmasking left pending until now (R354). -/
def State.pendingVectors (s : State) : List (Nat × Nat) :=
  s.funcs.flatMap fun p => ((List.range 32).filter fun v =>
    v ≠ 0 && bitOf p.2.msixPending.toNat v && !bitOf p.2.msixMask.toNat v).map fun v => (p.1, v)

/-- Send vectors' messages, each once: an unmasked one is no longer pending. -/
def State.sendVectors (s : State) (l : List (Nat × Nat)) : State :=
  l.foldl (fun (s : State) v =>
    let bit := BitVec.ofNat 32 (2 ^ v.2)
    (s.modFunc v.1 fun r => { r with msixPending := r.msixPending &&& (~~~bit ||| r.msixMask) }).vector v.1 v.2) s

/-- Cycle 4,095: every ring and storage queue publishes, the vectors due are raised, and drained rings close. -/
def State.publishAll (s : State) : State :=
  let s0 := s.placeAll s.stride
  let vs := dedupPairs (s0.dueVectors ++ s0.pendingVectors)
  let s1 := s0.rings.foldl (fun (s : State) p => s.publish p.2 fun s g => s.modRing p.1 g) s0
  let s2 := s0.queues.foldl (fun (s : State) p => s.publish p.2 fun s g => s.modQueue p.1 g) s1
  (s2.rings.map (·.1)).foldl State.ringDrained (s2.sendVectors vs)

/-! ## Accepted changes -/

/-- The changes not yet adopted. -/
def State.waiting (s : State) : List Change := s.changes.map (·.change)

/-- A ring being opened at an id. -/
def State.openingRing (s : State) (id : Nat) : Bool :=
  s.waiting.any fun c => match c with | .openRing i _ => i = id | _ => false

/-- A ring whose close waits. -/
def State.closingRing (s : State) (id : Nat) : Bool :=
  s.waiting.any fun c => match c with | .closeRing i => i = id | _ => false

/-- Is a context id open, closing or being created? -/
def State.contextTaken (s : State) (c : Nat) : Bool :=
  SMap.has s.contexts c || s.waiting.any fun x => match x with | .createContext i _ => i = c | _ => false

/-- A reservation as last accepted: HBM bytes, DDR bytes, amounts by kind (R386). -/
structure Reservation where
  hbm : Nat
  ddr : Nat
  kinds : SMap Nat
  deriving DecidableEq, Repr

/-- The reservation a CONTEXT_RESERVE payload carries; the entry of kind 0x0F is reserved (R386). -/
def parseReservation (b : Bytes) : Reservation :=
  { hbm := le b 8 8, ddr := le b 16 8,
    kinds := ((List.range 14).map fun i => (i + 1, le b (32 + 8 * i) 8)).filter fun p => p.2 ≠ 0 }

/-- The reservation of a context that stands accepted. -/
def State.acceptedReservation (s : State) (c : Nat) : Reservation :=
  let base : Reservation := match SMap.find? s.contexts c with
    | some x => { hbm := x.hbm, ddr := x.ddr, kinds := x.kinds }
    | none => { hbm := 0, ddr := 0, kinds := [] }
  s.waiting.foldl (fun r ch => match ch with
    | .reserve i p => if i = c then parseReservation p else r
    | _ => r) base

/-! ## Objects: indexes and tables share one id space (R231) -/

/-- Does an id name an index or table, open, closing or being created? -/
def State.objectTaken (s : State) (id : Nat) : Bool :=
  SMap.has s.indexes id || SMap.has s.tables id ||
    s.waiting.any fun c => match c with
      | .createIndex i _ => i = id
      | .createTable i _ => i = id
      | _ => false

/-- The context and residency of an index or table. -/
def State.object? (s : State) (id : Nat) : Option (Nat × Residency) :=
  match SMap.find? s.indexes id with
  | some x => some (x.context, x.resid)
  | none => (SMap.find? s.tables id).map fun x => (x.context, x.resid)

/-- Change an index. -/
def State.modIndex (s : State) (id : Nat) (g : Index → Index) : State := { s with indexes := SMap.update s.indexes id g }

/-- Change a table. -/
def State.modTable (s : State) (id : Nat) (g : Table → Table) : State := { s with tables := SMap.update s.tables id g }

/-- Change the residency of an object. -/
def State.modResidency (s : State) (id : Nat) (g : Residency → Residency) : State :=
  if SMap.has s.indexes id then s.modIndex id fun x => { x with resid := g x.resid }
  else s.modTable id fun x => { x with resid := g x.resid }

/-- The span of a shard. -/
def spanAt (map : List Nat) (j : Nat) : Nat := map.getD j 0 % 2 ^ 14

/-- The shards of an object that this node holds (R107, R318). -/
def State.held (s : State) (map : List Nat) : List Nat :=
  (List.range map.length).filter fun j => map.getD j 0 % 2 ^ 14 = s.node.id / 2

/-! ## Bytes that a context's structures take (R107, R110, R383; log entry 22) -/

/-- Bytes of the largest adjacency record of `m` targets (R113). -/
def listBytes (m : Nat) : Nat := roundUp (8 + m + 5 + min (m - 1) 31 * 6 + (m - 1 - min (m - 1) 31) * 5) 64

/-- The space of a row copy that a near-memory unit may read (R168): rows of 2 KiB or less share 2 KiB ranges, larger
ones start on a 2 KiB boundary. -/
def copyBytes (row : Nat) : Nat := if row = 0 then 0 else if row ≤ 2048 then 2048 / (2048 / row) else roundUp row 2048

/-- HBM bytes that an index's delta and overlay capacities fix per shard: rows, lists, key-map entries, records and
128-byte overlay records. -/
def Index.fixedBytes (x : Index) : Nat :=
  x.deltaCap * (rowBytes x.width x.dim + listBytes x.m0 + 16 + recordBytes x.dim) + x.overlayCap * 128

/-- The space of `n` row copies in 2 KiB ranges, whole ranges of those that share one (R168). -/
def copySpace (n row : Nat) : Nat :=
  if row = 0 then 0 else if row ≤ 2048 then ceilDiv n (2048 / row) * 2048 else n * roundUp row 2048

/-- The offset of the `i`-th row copy of a run of copies: as many to a 2 KiB range as fit, one behind another (R168). -/
def copyRun (i row : Nat) : Nat :=
  if row = 0 then 0 else if row ≤ 2048 then i / (2048 / row) * 2048 + i % (2048 / row) * row else i * roundUp row 2048

/-- The DDR offset of the `i`-th row of a run of rows: no row crosses a granule of 8 KiB (R202). -/
def ddrRun (i row : Nat) : Nat := let per := max 1 (8192 / row); i / per * 8192 + i % per * row

/-- The slots that an index's versions hold rows at, each once: row codes lie at a fixed address for each slot, shared by
the versions (R110). -/
def Index.slotsHeld (x : Index) : List Nat :=
  dedupNat (x.versions.flatMap fun v => v.rows.map fun r => slotKey r.shard r.slot)

/-- The slots at which an index holds or is about to hold a row: those of its versions, of the delta log and those reserved for
inserts. -/
def Index.slotsUsed (x : Index) : List Nat :=
  dedupNat (x.slotsHeld ++ (x.delta.map fun r => slotKey r.shard r.slot) ++ x.reserved)

/-- HBM bytes of an index's versions (R110, R212): directory entry and generation of every slot for each version, the
shared tombstone bit and hit counter of each slot, an insert's among them (R107), the shared codes of upper rows, and each
version's upper tables, upper lists and replica tables. -/
def Index.hbmBytes (x : Index) : Nat :=
  let n := x.slotsHeld.length
  let live := x.slotsUsed.length
  let filled := x.versions.filter fun v => !v.rows.isEmpty
  let upper (v : Version) : List Row := v.rows.filter fun r => decide (0 < r.level)
  filled.length * 9 * n + ceilDiv live 8 + live +
    copySpace (dedupNat (filled.flatMap fun v => (upper v).map fun r => slotKey r.shard r.slot)).length (rowBytes x.width x.dim) +
    sumNat (filled.map fun v => sumNat ((upper v).map fun r => 16 + 448 * r.level) + 16 * v.replicas.length)

/-- DDR bytes of an index's versions (R110, R202): shared row codes in whole granules as far as they fill them, each list
that two versions hold once, and each version's key map. -/
def Index.ddrBytes (x : Index) : Nat :=
  ddrRun x.slotsHeld.length (rowBytes x.width x.dim) +
    64 * sumNat ((dedupNat (x.versions.flatMap fun v => v.dir.map (·.2))).map dirBlocks) +
    16 * sumNat (x.versions.map fun v => v.rows.length - v.replicas.length)

/-- Bytes of an element's optimiser state record (R246). -/
def stateBytes (opt dim : Nat) : Nat := if opt = 2 then 64 else if opt = 3 then roundUp (16 + 2 * dim) 64 else 0

/-- HBM bytes of a table's update area per shard. -/
def Table.fixedBytes (x : Table) : Nat := x.areaCap * (copyBytes (rowBytes x.width x.dim) + stateBytes x.opt x.dim)

/-- DDR bytes of a table's versions: rows and states that versions have in common once, and each version's key map
(R110, R253). -/
def Table.ddrBytes (x : Table) : Nat :=
  let n := (x.versions.flatMap (·.rows)).eraseDups.length
  ddrRun n (rowBytes x.width x.dim) + n * stateBytes x.opt x.dim + 16 * sumNat (x.versions.map fun v => v.rows.length)

/-- The HBM window of a program: its slots, each as large as the largest blob (R162). -/
def Program.windowBytes (p : Program) : Nat := p.slots * (p.layers.map fun l => roundUp l.blob.length 64).foldl max 0

/-- The DDR bytes of a program's blobs (R162). -/
def Program.blobBytes (p : Program) : Nat := sumNat (p.layers.map fun l => roundUp l.blob.length 64)

/-- Bytes of an object's hot copies and the copies that moves are making. -/
def Residency.bytes (r : Residency) (row : Nat) : Nat := (r.hot.length + r.running.length) * copyBytes row

/-- HBM bytes of working state that a context's queries, shard-searches, updates, lookups and steps hold (R383): how much each takes
is free (log entry 112). -/
def State.workingBytes (s : State) (c : Nat) : Nat :=
  let mine (r : Nat) : Bool := r / 4 = c
  sumNat ((s.work.queries.filter fun q => q.2.context = c).map fun q => Config.workingBytes 1 q.1) +
  sumNat ((s.work.searches.filter fun q => q.2.context = c).map fun q => Config.workingBytes 2 q.1) +
  sumNat ((s.work.updates.filter fun u => mine u.2.ring).map fun u => Config.workingBytes 3 u.1) +
  sumNat ((s.work.lookups.filter fun l => mine l.2.ring).map fun l => Config.workingBytes 4 l.1) +
  sumNat ((s.work.steps.filter fun t => mine t.ring).map fun t => Config.workingBytes 5 t.num)

/-- HBM bytes that a context's indexes, tables, program windows, fabric windows and paddock maps (R264) use, open or
accepted, and the working state of its shares (R383). -/
def State.hbmInUse (s : State) (c : Nat) : Nat :=
  s.workingBytes c +
  sumNat ((s.indexes.filter fun p => p.2.context = c).map fun p =>
    (s.held p.2.map).length * p.2.fixedBytes + p.2.hbmBytes + p.2.resid.bytes (rowBytes p.2.width p.2.dim)) +
  sumNat ((s.tables.filter fun p => p.2.context = c).map fun p =>
    (s.held p.2.map).length * p.2.fixedBytes + p.2.resid.bytes (rowBytes p.2.width p.2.dim)) +
  sumNat ((s.programs.filter fun p => p.2.context = c).map fun p => p.2.windowBytes) +
  sumNat ((s.fab.windows.filter fun w => w.2.context = c).map fun w => w.2.size) +
  5 * sumNat ((s.flash.paddocks.filter fun p => p.2.context = c).map fun p => p.2.capacity) +
  sumNat (s.waiting.map fun ch => match ch with
    | .createIndex _ x => if x.context = c then (s.held x.map).length * x.fixedBytes else 0
    | .createTable _ x => if x.context = c then (s.held x.map).length * x.fixedBytes else 0
    | .createPaddock _ x => if x.context = c then 5 * x.capacity else 0
    | .bindProgram _ p => if p.context = c then p.windowBytes else 0
    | _ => 0)

/-- DDR bytes that a context's indexes, tables and bound programs use. -/
def State.ddrInUse (s : State) (c : Nat) : Nat :=
  sumNat ((s.indexes.filter fun p => p.2.context = c).map fun p => p.2.ddrBytes) +
  sumNat ((s.tables.filter fun p => p.2.context = c).map fun p => p.2.ddrBytes) +
  sumNat ((s.programs.filter fun p => p.2.context = c).map fun p => p.2.blobBytes) +
  sumNat (s.waiting.map fun ch => match ch with
    | .bindProgram _ p => if p.context = c then p.blobBytes else 0
    | _ => 0)

/-- Does a context's reservation hold what it uses (R107)? -/
def State.holdsUse (s : State) (ctx : Nat) : Bool :=
  let r := s.acceptedReservation ctx
  decide (s.hbmInUse ctx ≤ r.hbm ∧ s.ddrInUse ctx ≤ r.ddr)

/-! ## DDR addresses (R202) -/

/-- Where a node DDR address lies: its channel and the offset in it, the address interleaved over the admitted channels in
granules of 8 KiB. -/
def ddrPlace (channels : List Nat) (a : Nat) : Nat × Nat :=
  let g := a / 8192
  (channels.getD (g % max 1 channels.length) 0, g / max 1 channels.length * 8192 + a % 8192)

/-- The channels admitted at the remount, ascending. -/
def State.ddrList (s : State) : List Nat := bitList 12 s.gaits.admitted.ddr.toNat

/-- The die of a DDR channel: 0 west, 1 east. -/
def ddrDie (channel : Nat) : Nat := channel / 6

/-- The DDR address of the row of a slot in an area that begins at `base` (a multiple of 8 KiB): fixed for the slot
(R110), and never across a granule. -/
def rowAddress (base slot row : Nat) : Nat := base + ddrRun slot row

/-- The published mirror bank (R21, R347). -/
def State.shown (s : State) : Snapshot := if s.tel.publishedB then s.tel.bankB else s.tel.bankA

end Sys2Proof.Machine
end

