-- ==== Sys2Proof/Machine/Context.lean ====
section
/-! DEFINITION. Contexts, rings and residency settings: their messages' own checks and what they schedule
(18_contexts_isolation.md, R375, R376, R208 to R212). -/

namespace Sys2Proof.Machine

/-! ## Granules (R383, R389) -/

/-- Bytes of a granule. -/
abbrev granuleSize : Nat := 2 ^ 20

/-- HBM granules of a stack. -/
abbrev stackGranules : Nat := 65536

/-- The `j`-th granule of a stack in the order of granting, spread over its pseudo-channels (log entry 23). -/
def hbmGranule (stack j : Nat) : Nat := stack * stackGranules + j % 64 * 1024 + j / 64

/-- The `j`-th granule of a DDR channel. -/
def ddrGranule (channel j : Nat) : Nat := channel * 262144 + j

/-- The first index from `j` on whose granule is untagged. -/
def firstFree (tags : SMap Granule) (num : Nat → Nat) : Nat → Nat → Nat
  | 0, j => j
  | fuel + 1, j => if SMap.has tags (num j) then firstFree tags num fuel (j + 1) else j

/-- The lowest free granule of one place that has `n` of them, if one is left. -/
def freeGranule (tags : SMap Granule) (num : Nat → Nat) (n : Nat) : Option Nat :=
  let j := firstFree tags num (tags.length + 1) 0
  if j < n then some (num j) else none

/-- A granule owned by a context. -/
def ownedGranule (context : Nat) : Granule := { owner := context, st := 1, scrubbed := 0 }

/-- Grant granules to a context, round-robin over places (stacks or channels): the turn goes on from the `next`-th granule of the
context. -/
def grant (context : Nat) (num : Nat → Nat → Nat) (size : Nat) (places : List Nat) :
    (count next : Nat) → SMap Granule → SMap Granule
  | 0, _, tags => tags
  | n + 1, k, tags =>
    let turn := places.drop (k % max places.length 1) ++ places.take (k % max places.length 1)
    match turn.findSome? fun p => freeGranule tags (num p) size with
    | some g => grant context num size places n (k + 1) (SMap.set tags g (ownedGranule context))
    | none => tags

/-- Context 0's HBM granules: `n` of them round-robin over the mounted stacks, and the highest of each pseudo-channel, which
holds its calibration area (R383, R430). -/
def ownHbm (mounted : List Nat) (n : Nat) : SMap Granule :=
  mounted.zipIdx.flatMap fun k =>
    let mine := (n + mounted.length - 1 - k.2) / mounted.length
    (List.range 64).flatMap fun p =>
      ((List.range ((mine + 63 - p) / 64)).map (hbmGranule k.1 p + ·) ++ [hbmGranule k.1 p + 1023]).map fun g => (g, ownedGranule 0)

/-- Context 0's fixed DDR share: the highest 64 granules of each admitted channel (R383). -/
def ownDdr (channels : List Nat) (first : Nat) : SMap Granule :=
  channels.flatMap fun c => (List.range 64).map fun i => (ddrGranule c (first + i), ownedGranule 0)

/-- The granules of a context, ascending. -/
def ownedBy (tags : SMap Granule) (context : Nat) : List Nat :=
  (tags.filter fun p => p.2.owner = context && p.2.st = 1).map (·.1)

/-- HBM address ranges that hot copies, moves, dirty copies and open windows of a context stand in: (first, bytes). -/
def State.hbmSpans (s : State) (context : Nat) : List (Nat × Nat) :=
  let ofResid (r : Residency) (row : Nat) : List (Nat × Nat) :=
    r.hot.map (fun h => (h.address, row)) ++ r.running.map fun m => (m.address, row)
  ((s.indexes.filter fun p => p.2.context = context).flatMap fun p => ofResid p.2.resid (rowBytes p.2.width p.2.dim)) ++
  ((s.tables.filter fun p => p.2.context = context).flatMap fun p =>
    ofResid p.2.resid (rowBytes p.2.width p.2.dim) ++ p.2.places.map fun d => (d.2, rowBytes p.2.width p.2.dim)) ++
  (s.fab.windows.filter fun p => p.2.context = context).map fun p => (p.2.base, p.2.size)

/-- Release the unused granules of a context above `keep` of them, highest address first: HBM granules go to the scrub,
DDR granules are free at once (R386, R388). -/
def State.shrinkHbm (s : State) (context keep : Nat) : State :=
  let mine := ownedBy s.mem.hbmTags context
  let busy (g : Nat) : Bool := (s.hbmSpans context).any fun p => g * granuleSize < p.1 + p.2 && p.1 < (g + 1) * granuleSize
  let gone := ((mine.filter fun g => !busy g).reverse).take (mine.length - keep)
  { s with mem := { s.mem with
      hbmTags := gone.foldl (fun t g => SMap.set t g { owner := context, st := 2, scrubbed := 0 }) s.mem.hbmTags,
      scrubQueue := s.mem.scrubQueue ++ gone } }

/-- The same for DDR. -/
def State.shrinkDdr (s : State) (context keep : Nat) : State :=
  let mine := ownedBy s.mem.ddrTags context
  let gone := mine.reverse.take (mine.length - keep)
  { s with mem := { s.mem with ddrTags := gone.foldl (fun t g => SMap.erase t g) s.mem.ddrTags } }

/-- DDR granules of a channel that a context can own: context 0 keeps the highest 64 MiB (R383). -/
def State.channelGranules (s : State) : Nat := s.mem.ddrModule / granuleSize - 64

/-- HBM granules of context 0 that structures take: the write buffer (R265) and paddock 0's map, 8 bytes a page (R264). -/
def State.ownGranules (s : State) : Nat :=
  16 * s.flash.targets + ceilDiv (8 * sumNat (s.flash.channels.map fun c => c.2.own.length)) granuleSize

/-- Context 0's granules are held under its id, and never free (R383). -/
def State.grantOwn (s : State) : State :=
  { s with mem := { s.mem with
      hbmTags := ownHbm (bitList 8 s.mountedSet.hbmStacks.toNat) s.ownGranules,
      ddrTags := ownDdr (bitList 12 s.gaits.admitted.ddr.toNat) s.channelGranules } }

/-- R386: grant or release granules to meet a reservation as it is adopted. -/
def State.adoptReservation (s : State) (context : Nat) (r : Reservation) : State :=
  let h := r.hbm / granuleSize
  let d := r.ddr / granuleSize
  let u := s.mountedSet
  let hHave := (ownedBy s.mem.hbmTags context).length
  let dHave := (ownedBy s.mem.ddrTags context).length
  let s1 := { s with contexts := SMap.update s.contexts context fun x => { x with hbm := r.hbm, ddr := r.ddr, kinds := r.kinds } }
  let s2 :=
    if hHave < h then
      { s1 with mem := { s1.mem with
          hbmTags := grant context hbmGranule stackGranules (bitList 8 u.hbmStacks.toNat) (h - hHave) hHave s1.mem.hbmTags } }
    else s1.shrinkHbm context h
  if dHave < d then
    { s2 with mem := { s2.mem with
        ddrTags := grant context ddrGranule s.channelGranules (bitList 12 s.gaits.admitted.ddr.toNat) (d - dHave) dHave
          s2.mem.ddrTags } }
  else s2.shrinkDdr context d

/-! ## CONTEXT_CREATE, CONTEXT_CLOSE, CONTEXT_RESERVE, CONTEXT_STATUS -/

/-- Does a gait of any slot name a context (R382)? -/
def State.gaitNames (s : State) (c : Nat) : Bool :=
  s.gaits.slots.any fun sl => sl.gait.any fun g => g.contexts.any fun x => x.id = c

/-- CONTEXT_CREATE (R382) -/
def contextCreateEff (f : Nat) (s : State) : State :=
  s.serve f 0x0201 fun s q =>
    let c := q.field 0 2
    let fn := q.field 2 1
    if s.node.unlocked then refuse s stNotPermitted
    else if c = 0 ∨ 4096 ≤ c ∨ 64 ≤ fn ∨ s.contextTaken c then refuse s stBadValue
    else if s.gaitNames c then refuse s stNoResource
    else accept s (.createContext c fn)

/-- CONTEXT_CREATE -/
def execContextCreate (f : Nat) (s : State) : Host.Outcome State Fault Refusal := guarded (funcOk f) (contextCreateEff f) s

/-- CONTEXT_CLOSE (R388): its reply waits for the last granule. -/
def contextCloseEff (f : Nat) (s : State) : State :=
  s.serve f 0x0202 fun s q =>
    let c := q.field 0 2
    let closing := s.waiting.any fun x => match x with | .closeContext i => i = c | _ => false
    if c = 0 ∨ 4096 ≤ c then refuse s stBadValue
    else if !((SMap.find? s.contexts c).any fun x => x.st = 1) ∨ closing then refuse s stNoContext
    else ((defer s (.contextClosed c) q s.nextBoundary).schedule (.closeContext c), none)

/-- CONTEXT_CLOSE -/
def execContextClose (f : Nat) (s : State) : Host.Outcome State Fault Refusal := guarded (funcOk f) (contextCloseEff f) s

/-- The capacity of a kind over the mounted set, summed over its instances; a port's classes share one capacity (R32). -/
def State.kindCapacity (s : State) (kind : Nat) : Nat :=
  let u := s.mountedSet
  let w := workCycles s.clk.code
  let ids := if kind = 0x0C then (List.range 9).map fun p => resOf kind (8 * p) else (List.range (kindCount kind)).map (resOf kind)
  sumNat ((ids.filter u.holds).map (s.capacity w u))

/-- Every context's accepted amount of a kind, with one context's replaced, and context 0's minima. -/
def State.kindTotal (s : State) (c : Nat) (r : Reservation) (kind : Nat) : Nat :=
  let others := (s.contexts.map (·.1)).filter fun x => x ≠ c
  SMap.getD r.kinds kind 0 + sumNat (others.map fun x => SMap.getD (s.acceptedReservation x).kinds kind 0) +
    sumNat (((minimaOf s.clk.code s.mountedSet).filter fun p => kindOf p.1 = kind).map (·.2))

/-- R386 step 3: do capacities hold? HBM blocks carry 32 for each burst, array units one for each read (R32). -/
def State.kindsFit (s : State) (c : Nat) (r : Reservation) : Bool :=
  (List.range 14).all fun i =>
    let k := i + 1
    let extra := if k = 0x05 then 32 * s.kindTotal c r 0x02 else if k = 0x0E then s.kindTotal c r 0x0A else 0
    s.kindTotal c r k + extra ≤ s.kindCapacity k

/-- Granules, of those that `inPlace` takes in, that a context can neither keep nor be granted: not free and not its own, or free
and promised by an accepted reservation of another context that is adopted next. -/
def State.granulesTaken (s : State) (tags : SMap Granule) (inPlace : Nat → Bool) (want : Reservation → Nat) (c : Nat) : Nat :=
  let others := (s.contexts.filter fun x => x.1 ≠ c && !x.2.swept).map (·.1)
  (tags.filter fun p => inPlace p.1 && !(p.2.owner = c && p.2.st = 1)).length +
    sumNat (others.map fun x => want (s.acceptedReservation x) / granuleSize - (ownedBy tags x).length)

/-- R386 step 3: HBM and DDR within what is free or owned, and not below what is in use. -/
def State.bytesFit (s : State) (c : Nat) (r : Reservation) : Bool :=
  let mounted := bitList 8 s.mountedSet.hbmStacks.toNat
  let channels := bitList 12 s.gaits.admitted.ddr.toNat
  let hTaken := s.granulesTaken s.mem.hbmTags (fun g => mounted.contains (g / stackGranules)) Reservation.hbm c
  let dTaken := s.granulesTaken s.mem.ddrTags (fun g => decide (g % 262144 < s.channelGranules)) Reservation.ddr c
  decide (r.hbm / granuleSize + hTaken ≤ stackGranules * mounted.length ∧
    r.ddr / granuleSize + dTaken ≤ s.channelGranules * channels.length ∧
    s.hbmInUse c ≤ r.hbm ∧ s.ddrInUse c ≤ r.ddr)

/-- R386 step 4: the first reservation failure of the running and staged gaits under the new reservation. -/
def State.gaitsBreak (s : State) (c : Nat) (r : Reservation) : Option Bytes :=
  let t := { s with contexts := SMap.mapVals s.contexts fun i x =>
    if i = c then { x with kinds := r.kinds } else { x with kinds := (s.acceptedReservation i).kinds } }
  let staged := s.gaits.slots.filterMap fun sl => if sl.st = 2 then sl.gait else none
  (s.gaitNow.1 :: staged).findSome? fun g =>
    (List.range g.period).findSome? fun (i : Nat) =>
      match t.overReservation (g.usesAt false (i : Int) 0 none none) with
      | some (k, x, d, l) => some (refusalRecord 0x02 i (resOf k 0) x (g.classOn x fun y => kindOf y = k) 0 d l)
      | none => none

/-- CONTEXT_RESERVE (R386) -/
def contextReserveEff (f : Nat) (s : State) : State :=
  s.serve f 0x0203 fun s q =>
    let c := q.field 0 2
    let r := parseReservation q.payload
    if c = 0 ∨ 4096 ≤ c ∨ r.hbm % granuleSize ≠ 0 ∨ r.ddr % granuleSize ≠ 0 then refuse s stBadValue
    else if !((SMap.find? s.contexts c).any fun x => x.st = 1) then refuse s stNoContext
    else if !s.kindsFit c r || !s.bytesFit c r then refuse s stNoResource
    else
      match s.gaitsBreak c r with
      | some rec => refuse s stDoesNotFit rec
      | none => accept s (.reserve c q.payload)

/-- CONTEXT_RESERVE -/
def execContextReserve (f : Nat) (s : State) : Host.Outcome State Fault Refusal := guarded (funcOk f) (contextReserveEff f) s

/-- Doorbell indexes of a context whose ring is open, as bits (R387). -/
def State.openBells (s : State) (c : Nat) : Nat :=
  sumNat ((List.range 4).map fun i =>
    if (s.ring? (4 * c + i)).any fun r => r.isOpen && !r.closing then 2 ^ i else 0)

/-- The CONTEXT_STATUS reply payload (R387): the counters as of the published snapshot. -/
def State.contextStatus (s : State) (c : Nat) (x : Context) : Bytes :=
  let fig (i : Nat) : Nat := ((SMap.getD s.shown.usage c []).getD i 0)
  let isolated := (s.slot 0).isolated.contains c
  toLe 2 c ++ toLe 1 x.func ++ toLe 1 x.st ++ toLe 2 (bit01 isolated) ++ toLe 1 (s.openBells c) ++ zeros 1 ++
    toLe 8 x.hbm ++ toLe 8 (fig 0) ++ toLe 8 x.ddr ++ toLe 8 (fig 1) ++ toLe 2 (fig 2) ++ toLe 2 (fig 3) ++
    toLe 2 (fig 4) ++ zeros 2 ++ toLe 8 (fig 5) ++ toLe 8 s.shown.first ++
    (List.range 15).flatMap fun i => toLe 8 (SMap.getD x.kinds (i + 1) 0)

/-- The figures a snapshot keeps for CONTEXT_STATUS: HBM and DDR in use, paddocks, indexes, tables, tag faults. -/
def State.usageOf (s : State) (c : Nat) (x : Context) : List Nat :=
  [s.hbmInUse c, s.ddrInUse c, (s.flash.paddocks.filter fun p => p.2.context = c).length,
   (s.indexes.filter fun p => p.2.context = c).length, (s.tables.filter fun p => p.2.context = c).length, x.tagFaults]

/-- CONTEXT_STATUS (R387) -/
def contextStatusEff (f : Nat) (s : State) : State :=
  s.serve f 0x0204 fun s q =>
    match SMap.find? s.contexts q.context with
    | some x => report s (s.contextStatus q.context x)
    | none => refuse s stNoContext (zeros 184)

/-- CONTEXT_STATUS -/
def execContextStatus (f : Nat) (s : State) : Host.Outcome State Fault Refusal := guarded (funcOk f) (contextStatusEff f) s

/-! ## RING_OPEN, RING_CLOSE (R375, R376) -/

/-- Slot sizes a kind allows: smallest, largest (R373). -/
def slotRange (kind : Nat) : Nat × Nat :=
  match kind with
  | 1 => (512, 20480)
  | 2 => (64, 16448)
  | 3 => (128, 20480)
  | _ => (64, 64)

/-- R375 step 1: is a value of the payload out of range? -/
def ringValueBad (b : Bytes) : Bool :=
  let kind := byteAt b 1
  let within (v lo hi : Nat) : Bool := decide (lo ≤ v ∧ v ≤ hi)
  !(within (byteAt b 0) 0 3 && within kind 1 4 && within (le b 2 2) 2 4096 && le b 8 8 % 4096 = 0 &&
    le b 16 8 % 4096 = 0 && within (byteAt b 24) 1 31 &&
    (if kind = 1 then
      within (le b 26 2) 1 1024 && within (byteAt b 28) 1 64 && within (byteAt b 29) 1 255 && within (le b 30 2) 1 1024 &&
        within (le b 32 2) 0 1024 && within (byteAt b 34) 1 64 && within (byteAt b 35) 1 32 &&
        within (le b 38 2) 1 4096 && byteAt b 36 = 0
    else le b 26 2 = 0 && (if kind = 2 then within (byteAt b 36) 1 64 else byteAt b 36 = 0)))

/-- The completion slot size (R375). -/
def completionSlot (kind k : Nat) : Nat := if kind = 1 then 64 * ceilDiv (48 + 16 * k) 64 else 32

/-- The ring that a RING_OPEN payload describes. -/
def parseRing (context func : Nat) (b : Bytes) : Ring :=
  { context := context, func := func, kind := byteAt b 1, depth := le b 2 2, slotSize := le b 4 4, subAddr := le b 8 8,
    cplAddr := le b 16 8, cplSlot := completionSlot (byteAt b 1) (le b 26 2), vector := byteAt b 24, maxK := le b 26 2,
    maxWidth := byteAt b 28, descent := byteAt b 29, maxDepth := le b 30 2, maxM := le b 32 2, shardCap := byteAt b 34,
    channelCap := byteAt b 35, linkRounds := byteAt b 36, maxShards := le b 38 2, priority := 0, cls := 0xFFFF,
    isOpen := true, closing := false, stopped := false, lost := false, subTail := 0, cplHead := 0, cplTail := 0, seenTail := 0,
    seenHead := 0, admitted := 0, stepped := 0, reserved := 0, written := [], placed := 0 }

/-- Is a ring id taken: by a ring open or closing, or being opened (R375)? -/
def State.ringTaken (s : State) (id : Nat) : Bool := SMap.has s.rings id || s.openingRing id

/-- RING_OPEN (R375) -/
def ringOpenEff (f : Nat) (s : State) : State :=
  s.serve f 0x0210 fun s q =>
    let b := q.payload
    let id := 4 * q.context + byteAt b 0
    let (lo, hi) := slotRange (byteAt b 1)
    let none16 := zeros 16
    if ringValueBad b then refuse s stBadValue none16
    else if le b 4 4 % 64 ≠ 0 ∨ le b 4 4 < lo ∨ hi < le b 4 4 then refuse s stBadValue none16
    else if (List.range 4).all fun i => s.ringTaken (4 * q.context + i) then refuse s stNoResource none16
    else if s.ringTaken id then refuse s stBadValue none16
    else if ((s.gaitAt s.nextBoundary).classOf q.context (byteAt b 1) id).isNone then refuse s stBadValue none16
    else if byteAt b 1 = 1 ∧ 1048576 < le b 38 2 * le b 30 2 then refuse s stBadValue none16
    else
      accept s (.openRing id (parseRing q.context f b))
        (toLe 2 id ++ toLe 1 (byteAt b 0) ++ zeros 1 ++ toLe 4 (completionSlot (byteAt b 1) (le b 26 2)) ++ zeros 8)

/-- RING_OPEN -/
def execRingOpen (f : Nat) (s : State) : Host.Outcome State Fault Refusal := guarded (funcOk f) (ringOpenEff f) s

/-- RING_CLOSE (R376) -/
def ringCloseEff (f : Nat) (s : State) : State :=
  s.serve f 0x0211 fun s q =>
    let i := q.field 0 1
    let id := 4 * q.context + i
    let live := ((s.ring? id).any fun r => r.isOpen && !r.closing) || s.openingRing id
    if 4 ≤ i ∨ !live ∨ s.closingRing id then refuse s stBadValue
    else ((defer s (.ringClosed id) q s.nextBoundary).schedule (.closeRing id), none)

/-- RING_CLOSE -/
def execRingClose (f : Nat) (s : State) : Host.Outcome State Fault Refusal := guarded (funcOk f) (ringCloseEff f) s

/-! ## Residency settings (R208, R210, R212) -/

/-- Is a class index that of a class of the context, fed by no ring, in the running gait? -/
def State.ownClass (s : State) (context k : Nat) : Bool :=
  (s.gaitNow.1.cls? k).any fun c => c.context = context && c.ring = 0xFFFF

/-- The residency of an object as last accepted: the settings of the newest change that waits. -/
def State.acceptedResidency (s : State) (id : Nat) (r : Residency) : Residency :=
  s.waiting.foldl (fun r c => match c with
    | .residency i d => if i = id then d else r
    | _ => r) r

/-- Bytes of a row copy of an object. -/
def State.objectCopy (s : State) (id : Nat) : Nat :=
  match SMap.find? s.indexes id with
  | some x => copyBytes (rowBytes x.width x.dim)
  | none => ((SMap.find? s.tables id).map fun x => copyBytes (rowBytes x.width x.dim)).getD 0

/-- The quotas of a context's objects, with one object's replaced. -/
def State.quotas (s : State) (context id quota : Nat) : Nat :=
  let of (p : Nat × Residency) : Nat := if p.1 = id then quota else (s.acceptedResidency p.1 p.2).quota
  sumNat (((s.indexes.filter fun p => p.2.context = context).map fun p => of (p.1, p.2.resid)) ++
    (s.tables.filter fun p => p.2.context = context).map fun p => of (p.1, p.2.resid))

/-- The generation of the row at a slot of an index: the current version's, or a committed delta row's. -/
def Index.genAt (x : Index) (shard slot : Nat) : Option Nat :=
  match x.current.bind fun v => v.rowAt shard slot with
  | some r => some r.gen
  | none => (x.deltaAt shard slot).map (·.gen)

/-- The pinned rows of an index under residency `r`: those of the host's pins whose row still stands at its slot, and home
and replica of every replicated key of the current version (R210, R212). -/
def Index.pinnedRows (x : Index) (r : Residency) : List Nat :=
  let host := r.pins.filter fun p => x.genAt (p.row / 2 ^ 40) (p.row % 2 ^ 40) = some p.gen
  let pairs := (x.current.map fun v => v.replicas.flatMap fun p =>
    p.2 :: (v.rows.filter fun r => r.key = p.1).map fun r => slotKey r.shard r.slot).getD []
  dedupNat (host.map (·.row) ++ pairs)

/-- The pinned rows of an object. -/
def State.pinnedRows (s : State) (id : Nat) (r : Residency) : List Nat :=
  match SMap.find? s.indexes id with
  | some x => x.pinnedRows r
  | none => dedupNat (r.pins.map (·.row))

/-- RESIDENCY_SET (R208) -/
def residencySetEff (f : Nat) (s : State) : State :=
  s.serve f 0x0220 fun s q =>
    let b := q.payload
    let id := le b 0 4
    let table := SMap.has s.tables id
    match s.object? id with
    | none => refuse s stBadValue
    | some (ctx, r0) =>
      if ctx ≠ q.context then refuse s stNotOwner
      else
        let r := s.acceptedResidency id r0
        let cls := le b 6 2
        if 1 < byteAt b 4 ∨ (byteAt b 4 = 1) ≠ (table = true) ∨ byteAt b 5 = 0 ∨ le b 8 8 % 2048 ≠ 0 ∨
            le b 16 2 < 16 ∨ 4096 < le b 16 2 ∨ (cls ≠ 0xFFFF ∧ !s.ownClass q.context cls) then refuse s stBadValue
        else if (s.acceptedReservation q.context).hbm < s.quotas q.context id (le b 8 8) ∨
            le b 8 8 < (s.pinnedRows id r).length * s.objectCopy id then refuse s stNoResource
        else
          accept s (.residency id
            { r with mask := BitVec.ofNat 8 (byteAt b 5), cls := cls, quota := le b 8 8, period := le b 16 2,
                     moves := le b 18 2 })

/-- RESIDENCY_SET -/
def execResidencySet (f : Nat) (s : State) : Host.Outcome State Fault Refusal := guarded (funcOk f) (residencySetEff f) s

/-- The pin that a key of a residency message makes in an object: on an index's row at its slot, or on a table's row, if
the key is live (R210). -/
def State.pinOf (s : State) (id key : Nat) : Option Pin :=
  match SMap.find? s.indexes id with
  | some x => (x.liveRow (shardOf x.seed x.shards key) key).map fun r =>
      { row := slotKey r.shard r.slot, gen := r.gen, key := key }
  | none =>
    match SMap.find? s.tables id with
    | some t =>
      if t.versions.any fun v => v.st = 3 && v.rows.any fun r => r.id = key then some { row := key, gen := 0, key := key }
      else none
    | none => none

/-- The keys of a list of 8-byte entries. -/
def keysAt (b : Bytes) (off n : Nat) : List Nat := (List.range n).map fun i => le b (off + 8 * i) 6

/-- RESIDENCY_PIN (R210, R211) -/
def residencyPinEff (f : Nat) (s : State) : State :=
  s.serve f 0x0221 fun s q =>
    let b := q.payload
    let id := le b 0 4
    let n := le b 8 4
    match s.object? id with
    | none => refuse s stBadValue
    | some (ctx, r0) =>
      let r := s.acceptedResidency id r0
      let keys := keysAt b 16 n
      let made := keys.map (s.pinOf id)
      let r' : Residency := { r with pins := (r.pins ++ keys.filterMap (s.pinOf id)).eraseDups }
      if ctx ≠ q.context then refuse s stNotOwner
      else if 1 < byteAt b 4 ∨ n = 0 ∨ 4096 < n then refuse s stBadValue
      else if b.length ≠ 16 + 8 * n then refuse s stBadLength
      else if byteAt b 4 = 1 then accept s (.residency id { r with pins := r.pins.filter fun x => !keys.contains x.key })
      else if made.any fun x => x.isNone then refuse s stNoKey
      else if r.quota < (s.pinnedRows id r').length * s.objectCopy id then refuse s stNoResource
      else accept s (.residency id r')

/-- RESIDENCY_PIN -/
def execResidencyPin (f : Nat) (s : State) : Host.Outcome State Fault Refusal := guarded (funcOk f) (residencyPinEff f) s

/-- RESIDENCY_REPLICATE (R212): the list replaces the previous one and serves the next build. -/
def residencyReplicateEff (f : Nat) (s : State) : State :=
  s.serve f 0x0222 fun s q =>
    let b := q.payload
    let id := le b 0 4
    let n := le b 4 4
    match SMap.find? s.indexes id with
    | none => refuse s stBadValue
    | some x =>
      if x.context ≠ q.context then refuse s stNotOwner
      else if 65536 < n then refuse s stBadValue
      else if b.length ≠ 8 + 8 * n then refuse s stBadLength
      else report (s.modIndex id fun x => { x with replicaList := keysAt b 8 n }) []

/-- RESIDENCY_REPLICATE -/
def execResidencyReplicate (f : Nat) (s : State) : Host.Outcome State Fault Refusal :=
  guarded (funcOk f) (residencyReplicateEff f) s

end Sys2Proof.Machine
end

