-- ==== Sys2Proof/Machine/IndexMsg.lean ====
section
/-! DEFINITION. The messages of indexes (R107, R125 to R133) and of embedding tables (R231, R252 to R256). -/

namespace Sys2Proof.Machine

/-! ## What the index and table messages share -/

/-- Is an object closing: its close stands accepted (R133)? -/
def State.closingObject (s : State) (id : Nat) : Bool :=
  s.waiting.any fun c => match c with | .closeObject i => i = id | _ => false

/-- Does an index or table message of context `ctx` reach its object: the status of the refusal, or ST_OK (R129, R133)?
`closed` is the object's own mark. -/
def State.objectStatus (s : State) (id ctx : Nat) (owner : Option (Nat × Option Nat)) : Nat :=
  match owner with
  | none => stBadValue
  | some (c, closed) =>
    if closed.isSome || s.closingObject id then stBadValue else if c ≠ ctx then stNotOwner else stOk

/-- The index's context and close mark. -/
def State.indexOwner (s : State) (id : Nat) : Option (Nat × Option Nat) :=
  (SMap.find? s.indexes id).map fun x => (x.context, x.closing)

/-- The table's. -/
def State.tableOwner (s : State) (id : Nat) : Option (Nat × Option Nat) :=
  (SMap.find? s.tables id).map fun x => (x.context, x.closing)

/-- Is a class an update-kind class of a context, fed by no ring in the running gait (R127, R129)? -/
def State.buildClassOk (s : State) (ctx k : Nat) : Bool :=
  (s.gaitNow.1.cls? k).any fun c => c.context = ctx && c.kind = 2 && c.ring = 0xFFFF

/-- Does the node refuse writes to flash (R268)? -/
def State.refusesWrites (s : State) : Bool := s.flash.readOnly && decide (s.flash.readOnlyFrom ≤ s.stride)

/-- R126, R252: the source of a build against its paddock; `size` is the bytes of a record. Paddock 0, the node's own, is no
paddock of a context: ST_BAD_VALUE (DESIGN CHOICE, log entry 104). -/
def State.sourceStatus (s : State) (ctx pad count size : Nat) : Nat :=
  match SMap.find? s.flash.paddocks pad with
  | none => stBadValue
  | some p =>
    if p.st = 0 ∨ p.st = 3 then stBadValue
    else if p.context ≠ ctx then stNotOwner
    else if p.capacity * 4096 < count * size then stBadValue
    else stOk

/-- The checks that every build, compaction and fold passes after its own (R129, R268, R319). -/
def State.buildStatus (s : State) (ctx k held versions : Nat) (building : Bool) : Nat :=
  if !s.buildClassOk ctx k then stBadValue
  else if 0 < held && (s.isFenced s.partner || s.isFenced s.me) then stNotUntilRemount
  else if s.refusesWrites then stReadOnly
  else if building || 4 ≤ versions then stNoResource
  else stOk

/-- The first failure of a list of statuses. -/
def firstStatus (l : List Nat) : Nat := (l.find? fun x => x ≠ stOk).getD stOk

/-- The reply payload of a build or compaction: the request's, with the new version, or 0 where it is refused (R129). -/
def buildReply (q : Request) (version : Nat) : Bytes := putAt (fit 32 q.payload) 8 (toLe 8 version)

/-- The fields of the operation payload (R129). -/
def Request.opVersion (q : Request) : Nat := q.field 8 8

/-- The switch tuple, go record and version pair that span members exchange on class 1 (R130): a mark, the object, the
version, E and the digest. Their layout is the model's (log entry 24). -/
def versionMessage (mark object version stride digest : Nat) : Bytes :=
  toLe 4 mark ++ toLe 4 object ++ toLe 8 version ++ toLe 8 stride ++ toLe 8 digest

/-- Mark of a switch tuple. -/
abbrev markTuple : Nat := 1
/-- Mark of a go record. -/
abbrev markGo : Nat := 2
/-- Mark of a version pair. -/
abbrev markPair : Nat := 3

/-- R130: the status of a switch to `version` at `e`: built here, or no shard held; E far enough; no other accepted whose E
has not passed. DESIGN CHOICE (log entry 83): where no shard is held and four versions stand, one more is refused with
ST_NO_RESOURCE, so that the limit of R125 holds. -/
def State.switchStatus (s : State) (held versions : Nat) (st : Option Nat) (pending : Bool) (version e : Nat) : Nat :=
  if version = 0 ∨ (0 < held ∧ st ≠ some 2) ∨ (st.any fun n => n ≠ 2) then stBadValue
  else if e < s.stride + 4 then stTooLate
  else if pending then stBadValue
  else if held = 0 ∧ st.isNone ∧ 4 ≤ versions then stNoResource
  else stOk

/-- A pending switch of an object. -/
def pendingSwitch (version e digest flags : Nat) (q : Request) : Switch :=
  { version := version, stride := e, digest := digest, retain := bitOf flags 0, rebase := bitOf flags 1, go := false,
    settled := false, request := q }

/-! ## INDEX_CREATE -/

/-- The index that an INDEX_CREATE payload describes (R107). -/
def parseIndex (ctx : Nat) (b : Bytes) : Index :=
  { context := ctx, dim := le b 4 2, width := byteAt b 6, fp := byteAt b 7, dists := byteAt b 8, buildDist := byteAt b 9,
    typeA := byteAt b 10, typeB := byteAt b 11, m0 := byteAt b 12, mu := byteAt b 13, shift := byteAt b 14,
    wb := byteAt b 15, db := le b 16 2, back := byteAt b 18, shards := le b 20 2, seed := le b 24 8,
    slotCap := le b 32 8, deltaCap := le b 40 4, overlayCap := le b 44 4,
    map := (List.range (le b 20 2)).map fun j => le b (64 + 2 * j) 2 % 2 ^ 14,
    versions := [], lastNum := 0, delta := [], deltaLists := [], overlays := [], tombs := [], recent := [],
    lastGen := [], reserved := [], pending := [], epoch := 0, switch := none, tuple := none, tupleAt := 0, pair := none,
    pairDue := false, build := none, closing := none, resid := Residency.reset, replicaList := [], stale := 0,
    backDropped := 0 }

/-- R107: is every property in its range? A Distances byte with one of bits 3 to 7 set is out of range (DESIGN CHOICE, log
entry 104). -/
def Index.inRange (x : Index) : Bool :=
  let within (v lo hi : Nat) : Bool := decide (lo ≤ v ∧ v ≤ hi)
  within x.dim 1 4096 && within x.width 0 1 && within x.fp 1 2 && within x.dists 1 7 && within x.buildDist 0 2 &&
    bitOf x.dists x.buildDist && within x.typeA 0 2 && within x.typeB 0 2 && within x.m0 4 64 && within x.mu 4 64 &&
    within x.shift 1 6 && within x.wb 1 64 && within x.db x.m0 1024 && within x.back 0 16 && within x.shards 1 4096 &&
    within x.slotCap 1 (2 ^ 40) && within x.overlayCap 1 16777215

/-- INDEX_CREATE (R107) -/
def indexCreateEff (f : Nat) (s : State) : State :=
  s.serve f 0x0401 fun s q =>
    let b := q.payload
    let id := le b 0 4
    let x := parseIndex q.context b
    if b.length ≠ 64 + 2 * le b 20 2 then refuse s stBadLength
    else if id = 0 ∨ s.objectTaken id ∨ !x.inRange then refuse s stBadValue
    else if (s.acceptedReservation q.context).hbm < s.hbmInUse q.context + (s.held x.map).length * x.fixedBytes then
      refuse s stNoResource
    else accept s (.createIndex id x)

/-- INDEX_CREATE -/
def execIndexCreate (f : Nat) (s : State) : Host.Outcome State Fault Refusal := guarded (funcOk f) (indexCreateEff f) s

/-! ## INDEX_CLOSE -/

/-- R133: from the acceptance of a close, a switch still due, builds, and versions never switched in are dropped. -/
def Index.closeAccepted (x : Index) : Index :=
  { x with switch := none, build := none, versions := x.versions.filter fun v => v.st ≠ 1 && v.st ≠ 2 }

/-- INDEX_CLOSE (R133) -/
def indexCloseEff (f : Nat) (s : State) : State :=
  s.serve f 0x0402 fun s q =>
    let id := q.field 0 4
    let st := s.objectStatus id q.context (s.indexOwner id)
    if st ≠ stOk then refuse s st
    else
      (((defer s (.objectClosed id) q s.nextBoundary).modIndex id Index.closeAccepted).schedule (.closeObject id), none)

/-- INDEX_CLOSE -/
def execIndexClose (f : Nat) (s : State) : Host.Outcome State Fault Refusal := guarded (funcOk f) (indexCloseEff f) s

/-! ## INDEX_BUILD, INDEX_COMPACT -/

/-- An empty version. -/
def emptyVersion (num st : Nat) : Version :=
  { num := num, st := st, cut := 0, digest := 0, cutStep := 0, filled := false, since := 0, keepTo := 0, rows := [], dir := [],
    lists := [], replicas := [] }

/-- The number that a new version takes: one above the highest given or held (R125, R127). -/
def Index.nextVersion (x : Index) : Nat := max x.lastNum (maxNat (x.versions.map (·.num))) + 1

/-- The same for a table. -/
def Table.nextVersion (x : Table) : Nat := max x.lastNum (maxNat (x.versions.map (·.num))) + 1

/-- Does a switch wait that brings in a version not yet among `nums`? -/
def bringsVersion (w : Option Switch) (nums : List Nat) : Bool := w.any fun w => !w.settled && !nums.contains w.version

/-- The versions of an index, with one that a pending switch brings in (R125). -/
def Index.versionCount (x : Index) : Nat := x.versions.length + bit01 (bringsVersion x.switch (x.versions.map (·.num)))

/-- The same for a table. -/
def Table.versionCount (x : Table) : Nat := x.versions.length + bit01 (bringsVersion x.switch (x.versions.map (·.num)))

/-- Take up a build or compaction of an index: its version is building. -/
def Index.begin (x : Index) (kind : Nat) (q : Request) : Index :=
  let v := x.nextVersion
  { x with
    lastNum := v, versions := x.versions ++ [emptyVersion v 1],
    build := some { kind := kind, version := v, cls := q.field 6 2, source := q.field 24 2, count := q.field 28 4,
                    cut := none, status := stOk, bad := 0xFFFF_FFFF, request := q } }

/-- INDEX_BUILD (R126) -/
def indexBuildEff (f : Nat) (s : State) : State :=
  s.serve f 0x0403 fun s q =>
    let id := q.field 0 4
    match SMap.find? s.indexes id with
    | none => refuse s stBadValue (buildReply q 0)
    | some x =>
      let st := firstStatus
        [s.objectStatus id q.context (s.indexOwner id),
         s.sourceStatus q.context (q.field 24 2) (q.field 28 4) (recordBytes x.dim),
         s.buildStatus q.context (q.field 6 2) (s.held x.map).length x.versionCount x.build.isSome]
      if st ≠ stOk then refuse s st (buildReply q 0)
      else (s.modIndex id fun x => x.begin 0 q, some (stPending, unstamped, buildReply q x.nextVersion))

/-- INDEX_BUILD -/
def execIndexBuild (f : Nat) (s : State) : Host.Outcome State Fault Refusal := guarded (funcOk f) (indexBuildEff f) s

/-- INDEX_COMPACT (R127) -/
def indexCompactEff (f : Nat) (s : State) : State :=
  s.serve f 0x0404 fun s q =>
    let id := q.field 0 4
    match SMap.find? s.indexes id with
    | none => refuse s stBadValue (buildReply q 0)
    | some x =>
      let st := firstStatus
        [s.objectStatus id q.context (s.indexOwner id),
         (if x.current.isNone then stNoVersion else stOk),
         s.buildStatus q.context (q.field 6 2) (s.held x.map).length x.versionCount x.build.isSome]
      if st ≠ stOk then refuse s st (buildReply q 0)
      else (s.modIndex id fun x => x.begin 1 q, some (stPending, unstamped, buildReply q x.nextVersion))

/-- INDEX_COMPACT -/
def execIndexCompact (f : Nat) (s : State) : Host.Outcome State Fault Refusal := guarded (funcOk f) (indexCompactEff f) s

/-! ## INDEX_SWITCH, INDEX_RELEASE, INDEX_STATUS -/

/-- INDEX_SWITCH (R130): accepted with E as its stamp; the partner is sent the tuple. -/
def indexSwitchEff (f : Nat) (s : State) : State :=
  s.serve f 0x0405 fun s q =>
    let id := q.field 0 4
    let v := q.opVersion
    let e := q.field 16 8
    match SMap.find? s.indexes id with
    | none => refuse s stBadValue
    | some x =>
      let ver := x.version? v
      let st := firstStatus
        [s.objectStatus id q.context (s.indexOwner id),
         s.switchStatus (s.held x.map).length x.versions.length (ver.map (·.st)) x.switch.isSome v e]
      if st ≠ stOk then refuse s st
      else
        let digest := (ver.map (·.digest)).getD 0
        let t := s.modIndex id fun x => { x with switch := some (pendingSwitch v e digest (q.field 4 1 % 2) q) }
        (t.send 1 s.partner (versionMessage markTuple id v e digest), some (stOk, e, []))

/-- INDEX_SWITCH -/
def execIndexSwitch (f : Nat) (s : State) : Host.Outcome State Fault Refusal := guarded (funcOk f) (indexSwitchEff f) s

/-- INDEX_RELEASE (R129, R131): a retained version moves to draining at the next boundary. DESIGN CHOICE (log entry 84): a
version that is neither current nor retained is refused as the current one is, with ST_BAD_VALUE. -/
def indexReleaseEff (f : Nat) (s : State) : State :=
  s.serve f 0x0406 fun s q =>
    let id := q.field 0 4
    match SMap.find? s.indexes id with
    | none => refuse s stBadValue
    | some x =>
      let st := s.objectStatus id q.context (s.indexOwner id)
      if st ≠ stOk then refuse s st
      else if (x.version? q.opVersion).map (·.st) ≠ some 4 then refuse s stBadValue
      else accept s (.release id q.opVersion)

/-- INDEX_RELEASE -/
def execIndexRelease (f : Nat) (s : State) : Host.Outcome State Fault Refusal := guarded (funcOk f) (indexReleaseEff f) s

/-- The four version entries of a status reply, from a snapshot's figures (R132). -/
def versionEntries (figs : List Nat) : Bytes :=
  (List.range 4).flatMap fun i =>
    let at' (j : Nat) : Nat := figs.getD (4 * i + j) 0
    toLe 8 (at' 0) ++ toLe 1 (at' 1) ++ zeros 7 ++ toLe 8 (at' 2) ++ toLe 8 (at' 3)

/-- The figures a snapshot keeps of an index: shards held, current version, live and tombstoned rows, delta rows, overlay
records, stale edges, back edges dropped, and number, state, cut and digest of each version (R132). Replica rows of the
current version count as live rows (DESIGN CHOICE, log entry 78). -/
def State.indexFigures (s : State) (x : Index) : List Nat :=
  let dead (r : Row) : Bool := x.tombs.any fun t => t.shard = r.shard && t.slot = r.slot && t.gen = r.gen
  let base := (x.current.map (·.rows)).getD []
  -- a row that the current version folded stays in the delta log while an older version is readable; it counts once
  let rows := base ++ x.delta.filter fun r => !(base.any fun b => b.shard = r.shard && b.slot = r.slot && b.gen = r.gen)
  [(s.held x.map).length, x.currentNum, (rows.filter fun r => !dead r).length, (rows.filter dead).length, x.delta.length,
   (x.overlays.map fun o => slotKey o.shard o.slot).eraseDups.length, x.stale, x.backDropped] ++
    x.versions.flatMap fun v => [v.num, v.st, v.cut, v.digest]

/-- INDEX_STATUS (R132) -/
def indexStatusEff (f : Nat) (s : State) : State :=
  s.serve f 0x0407 fun s q =>
    let id := q.field 0 4
    match SMap.find? s.indexes id with
    | none => refuse s stBadValue (zeros 200)
    | some x =>
      if x.context ≠ q.context then refuse s stNotOwner (zeros 200)
      else
        let figs := SMap.getD s.shown.indexes id []
        let g (i : Nat) : Nat := figs.getD i 0
        report s (toLe 4 id ++ toLe 2 (s.held x.map).length ++ zeros 2 ++ toLe 8 (g 1) ++ toLe 8 (g 2) ++ toLe 8 (g 3) ++
          toLe 8 (g 4) ++ toLe 4 (g 5) ++ zeros 4 ++ toLe 8 (g 6) ++ toLe 8 (g 7) ++ toLe 8 s.shown.first ++
          versionEntries (figs.drop 8))

/-- INDEX_STATUS -/
def execIndexStatus (f : Nat) (s : State) : Host.Outcome State Fault Refusal := guarded (funcOk f) (indexStatusEff f) s

/-! ## Table rows (R233, R246, R252) -/

/-- The metadata block of a table row (R233). -/
def tableMeta (id width dim : Nat) (q : Quantised) : Bytes :=
  toLe 6 id ++ zeros 17 ++ toLe 1 width ++ toLe 2 q.s ++ toLe 2 q.o ++ zeros 4 ++ toLeInt 4 (sumInt q.codes) ++ toLe 2 dim ++
    zeros 26

/-- A state record at its start: zero, but for Adam's p1 and p2, which are 1.0 (R246). -/
def freshState (opt dim : Nat) : Bytes :=
  if opt = 3 then putAt (zeros (stateBytes opt dim)) 4 (toLe 4 0x3F80_0000 ++ toLe 4 0x3F80_0000)
  else zeros (stateBytes opt dim)

/-- A table's row from FP32 elements, its state at its start; none where an element is not finite or the row cannot be
quantised (R57, R63, R246). -/
def Table.makeRow (x : Table) (id : Nat) (elems : List Word32) : Option TableRow :=
  if anyBad elems then none
  else (quantise x.width elems).map fun q =>
    { id := id, row := tableMeta id x.width x.dim q ++ packCodes x.width q.codes, state := freshState x.opt x.dim,
      applied := 0, step := 0, poisoned := false }

/-- Bytes of a table source record (R252). -/
def Table.sourceBytes (x : Table) : Nat := roundUp (8 + 4 * x.dim) 64

/-- The row id and the elements of a source record. -/
def Table.sourceRecord (x : Table) (b : Bytes) : Nat × List Word32 := (le b 0 6, elemsAt 0 b 8 x.dim)

/-- Version `n` of a table. -/
def Table.version? (x : Table) (n : Nat) : Option TableVersion := x.versions.find? fun v => v.num = n

/-- The current version. -/
def Table.current (x : Table) : Option TableVersion := x.versions.find? fun v => v.st = 3

/-- A row of a version. -/
def TableVersion.rowAt (v : TableVersion) (id : Nat) : Option TableRow := v.rows.find? fun r => r.id = id

/-- The row of the training base. -/
def Table.baseRow (x : Table) (id : Nat) : Option TableRow := (x.version? x.base).bind fun v => v.rowAt id

/-- R235: a row of the live view: its dirty copy, or the training base's row. -/
def Table.liveRow (x : Table) (id : Nat) : Option TableRow :=
  match x.dirty.find? fun r => r.id = id with
  | some r => some r
  | none => x.baseRow id

/-! ## TABLE_CREATE, TABLE_CLOSE -/

/-- The table that a TABLE_CREATE payload describes (R231). -/
def parseTable (ctx : Nat) (b : Bytes) : Table :=
  let n := le b 8 2
  let w (o : Nat) : Word32 := BitVec.ofNat 32 (le b o 4)
  { context := ctx, dim := le b 4 2, width := byteAt b 6, opt := byteAt b 7, shards := n, seed := le b 16 8,
    rowCap := le b 24 8, areaCap := le b 32 4, eps := w 36, b1 := w 40, b2 := w 44, c1 := fsub fone (w 40),
    c2 := fsub fone (w 44), map := (List.range n).map fun j => le b (64 + 2 * j) 2 % 2 ^ 14,
    participants := (List.range (le b 10 2)).map fun j => le b (64 + 2 * n + 2 * j) 2 % 2 ^ 15,
    versions := [], lastNum := 0, base := 0, dirty := [], places := [], committed := 0, started := 0, steps := [], barrier := [],
    switch := none, tuple := none, tupleAt := 0, pair := none, pairDue := false, build := none, closing := none, writes := [],
    resid := Residency.reset, dropped := 0, clippedAll := 0, updatedAll := 0, lastClipped := 0, lastUpdated := 0 }

/-- R231: is every field in its range? -/
def Table.inRange (x : Table) : Bool :=
  let within (v lo hi : Nat) : Bool := decide (lo ≤ v ∧ v ≤ hi)
  let beta (v : Word32) : Bool := fle 0 v && flt v fone
  within x.dim 1 1024 && within x.width 0 1 && within x.opt 0 3 && within x.shards 1 4096 &&
    within x.participants.length 0 (if x.opt = 0 then 0 else 4096) && within x.rowCap 1 (2 ^ 40) &&
    (x.opt < 2 || (flt 0 x.eps && !fbad x.eps)) && (x.opt ≠ 3 || (beta x.b1 && beta x.b2)) && rising x.participants

/-- TABLE_CREATE (R231) -/
def tableCreateEff (f : Nat) (s : State) : State :=
  s.serve f 0x0501 fun s q =>
    let b := q.payload
    let id := le b 0 4
    let x := parseTable q.context b
    if b.length ≠ 64 + 2 * le b 8 2 + 2 * le b 10 2 then refuse s stBadLength
    else if id = 0 ∨ s.objectTaken id ∨ !x.inRange then refuse s stBadValue
    else if (s.acceptedReservation q.context).hbm < s.hbmInUse q.context + (s.held x.map).length * x.fixedBytes then
      refuse s stNoResource
    else accept s (.createTable id x)

/-- TABLE_CREATE -/
def execTableCreate (f : Nat) (s : State) : Host.Outcome State Fault Refusal := guarded (funcOk f) (tableCreateEff f) s

/-- R256: as Index.closeAccepted. -/
def Table.closeAccepted (x : Table) : Table :=
  { x with switch := none, build := none, versions := x.versions.filter fun v => v.st ≠ 1 && v.st ≠ 2 }

/-- TABLE_CLOSE (R256) -/
def tableCloseEff (f : Nat) (s : State) : State :=
  s.serve f 0x0502 fun s q =>
    let id := q.field 0 4
    let st := s.objectStatus id q.context (s.tableOwner id)
    if st ≠ stOk then refuse s st
    else
      (((defer s (.objectClosed id) q s.nextBoundary).modTable id Table.closeAccepted).schedule (.closeObject id), none)

/-- TABLE_CLOSE -/
def execTableClose (f : Nat) (s : State) : Host.Outcome State Fault Refusal := guarded (funcOk f) (tableCloseEff f) s

/-! ## TABLE_BUILD, TABLE_FOLD -/

/-- Take up a build or fold of a table. -/
def Table.begin (x : Table) (kind : Nat) (q : Request) : Table :=
  let v := x.nextVersion
  { x with
    lastNum := v,
    versions := x.versions ++ [{ num := v, st := 1, cut := 0, digest := 0, cutStep := 0, filled := false, keepTo := 0, rows := [] }],
    build := some { kind := kind, version := v, cls := q.field 6 2, source := q.field 24 2, count := q.field 28 4,
                    cut := none, status := stOk, bad := 0xFFFF_FFFF, request := q } }

/-- TABLE_BUILD (R252) -/
def tableBuildEff (f : Nat) (s : State) : State :=
  s.serve f 0x0503 fun s q =>
    let id := q.field 0 4
    match SMap.find? s.tables id with
    | none => refuse s stBadValue (buildReply q 0)
    | some x =>
      let st := firstStatus
        [s.objectStatus id q.context (s.tableOwner id),
         s.sourceStatus q.context (q.field 24 2) (q.field 28 4) x.sourceBytes,
         s.buildStatus q.context (q.field 6 2) (s.held x.map).length x.versionCount x.build.isSome]
      if st ≠ stOk then refuse s st (buildReply q 0)
      else (s.modTable id fun x => x.begin 0 q, some (stPending, unstamped, buildReply q x.nextVersion))

/-- TABLE_BUILD -/
def execTableBuild (f : Nat) (s : State) : Host.Outcome State Fault Refusal := guarded (funcOk f) (tableBuildEff f) s

/-- TABLE_FOLD (R253): it needs a training base to fold, as a compaction needs a current version. -/
def tableFoldEff (f : Nat) (s : State) : State :=
  s.serve f 0x0504 fun s q =>
    let id := q.field 0 4
    match SMap.find? s.tables id with
    | none => refuse s stBadValue (buildReply q 0)
    | some x =>
      let st := firstStatus
        [s.objectStatus id q.context (s.tableOwner id),
         (if x.base = 0 then stNoVersion else stOk),
         s.buildStatus q.context (q.field 6 2) (s.held x.map).length x.versionCount x.build.isSome]
      if st ≠ stOk then refuse s st (buildReply q 0)
      else (s.modTable id fun x => x.begin 1 q, some (stPending, unstamped, buildReply q x.nextVersion))

/-- TABLE_FOLD -/
def execTableFold (f : Nat) (s : State) : Host.Outcome State Fault Refusal := guarded (funcOk f) (tableFoldEff f) s

/-! ## TABLE_SWITCH, TABLE_RELEASE, TABLE_STATUS, TABLE_ROW_WRITE -/

/-- TABLE_SWITCH (R254) -/
def tableSwitchEff (f : Nat) (s : State) : State :=
  s.serve f 0x0505 fun s q =>
    let id := q.field 0 4
    let v := q.opVersion
    let e := q.field 16 8
    match SMap.find? s.tables id with
    | none => refuse s stBadValue
    | some x =>
      let ver := x.version? v
      let st := firstStatus
        [s.objectStatus id q.context (s.tableOwner id),
         s.switchStatus (s.held x.map).length x.versions.length (ver.map (·.st)) x.switch.isSome v e]
      if st ≠ stOk then refuse s st
      else
        let digest := (ver.map (·.digest)).getD 0
        let t := s.modTable id fun x => { x with switch := some (pendingSwitch v e digest (q.field 4 1) q) }
        (t.send 1 s.partner (versionMessage markTuple id v e digest), some (stOk, e, []))

/-- TABLE_SWITCH -/
def execTableSwitch (f : Nat) (s : State) : Host.Outcome State Fault Refusal := guarded (funcOk f) (tableSwitchEff f) s

/-- TABLE_RELEASE (R256): neither the current version nor the training base (R254). -/
def tableReleaseEff (f : Nat) (s : State) : State :=
  s.serve f 0x0506 fun s q =>
    let id := q.field 0 4
    match SMap.find? s.tables id with
    | none => refuse s stBadValue
    | some x =>
      let st := s.objectStatus id q.context (s.tableOwner id)
      if st ≠ stOk then refuse s st
      else if (x.version? q.opVersion).map (·.st) ≠ some 4 ∨ x.base = q.opVersion then refuse s stBadValue
      else accept s (.release id q.opVersion)

/-- TABLE_RELEASE -/
def execTableRelease (f : Nat) (s : State) : Host.Outcome State Fault Refusal := guarded (funcOk f) (tableReleaseEff f) s

/-- The figures a snapshot keeps of a table: shards held, current version, training base, committed steps, dirty copies,
poisoned rows, dropped contributions, clipped elements, the clipped and updated counts of the last committed step and the
updated total (R250), and the versions (R256). -/
def State.tableFigures (s : State) (x : Table) : List Nat :=
  [(s.held x.map).length, (x.current.map (·.num)).getD 0, x.base, x.committed, x.dirty.length,
   (x.dirty.filter fun r => r.poisoned).length, x.dropped, x.clippedAll, x.lastClipped, x.lastUpdated, x.updatedAll] ++
    x.versions.flatMap fun v => [v.num, v.st, v.cut, v.digest]

/-- TABLE_STATUS (R256) -/
def tableStatusEff (f : Nat) (s : State) : State :=
  s.serve f 0x0507 fun s q =>
    let id := q.field 0 4
    match SMap.find? s.tables id with
    | none => refuse s stBadValue (zeros 200)
    | some x =>
      if x.context ≠ q.context then refuse s stNotOwner (zeros 200)
      else
        let figs := SMap.getD s.shown.tables id []
        let g (i : Nat) : Nat := figs.getD i 0
        report s (toLe 4 id ++ toLe 2 (s.held x.map).length ++ zeros 2 ++ toLe 8 (g 1) ++ toLe 8 (g 2) ++ toLe 8 (g 3) ++
          toLe 8 (g 4) ++ toLe 8 (g 5) ++ toLe 8 (g 6) ++ toLe 8 (g 7) ++ toLe 8 s.shown.first ++ versionEntries (figs.drop 11))

/-- TABLE_STATUS -/
def execTableStatus (f : Nat) (s : State) : Host.Outcome State Fault Refusal := guarded (funcOk f) (tableStatusEff f) s

/-- The owner of a span's rows for a step admitted now: its near node, or its off node where the near one is fenced (R232). -/
def State.ownerOf (s : State) (span : Nat) : Nat := if s.isFenced (2 * span) then 2 * span + 1 else 2 * span

/-- The owners of a table, ascending. -/
def State.ownersOf (s : State) (x : Table) : List Nat :=
  (List.range x.shards).foldl (fun l j => insertNat (s.ownerOf (spanAt x.map j)) l) []

/-- Is this node an owner of a table now? -/
def State.owns (s : State) (x : Table) : Bool := (s.ownersOf x).contains s.me

/-- Does a stride coincide with the apply stride T+3 of a step in flight (R247, R255)? The span partner of an owner learns of a
step only in T+2: to it each stride counts in which the gait starts a step of the context's tables (log entry 90). -/
def State.applies (s : State) (id : Nat) (x : Table) (stride : Nat) : Bool :=
  (x.steps.any fun t => t.admitAt + 3 = stride) ||
    (s.work.steps.any fun t => t.table = id && t.status = stOk && t.admitAt + 3 = stride) ||
    (!s.owns x && !(s.held x.map).isEmpty && decide (s.node.s0 + 3 ≤ stride) &&
      (s.gaitNow.1.freeClassOf x.context 4).any fun k => decide (0 < s.admitsAt k (stride - 3)))

/-- TABLE_ROW_WRITE (R255): the rows wait for the adopting stride. -/
def tableRowWriteEff (f : Nat) (s : State) : State :=
  s.serve f 0x0508 fun s q =>
    let b := q.payload
    let id := le b 0 4
    let n := le b 4 4
    match SMap.find? s.tables id with
    | none => refuse s stBadValue
    | some x =>
      let st := s.objectStatus id q.context (s.tableOwner id)
      let recs := (List.range n).map fun i => x.sourceRecord (b.drop (8 + i * x.sourceBytes))
      let rows := recs.map fun r => x.makeRow r.1 r.2
      if st ≠ stOk then refuse s st
      else if n = 0 ∨ 256 < n then refuse s stBadValue
      else if b.length ≠ 8 + n * x.sourceBytes then refuse s stBadLength
      else if recs.any fun r => (x.liveRow r.1).isNone then refuse s stNoKey
      else if rows.any fun r => r.isNone then refuse s stBadValue
      else if s.applies id x s.nextBoundary then refuse s stTooLate
      else
        (s.modTable id fun x => { x with writes := x.writes ++ (rows.filterMap fun r => r).map fun r => (s.nextBoundary, r) },
         some (stOk, s.nextBoundary, []))

/-- TABLE_ROW_WRITE -/
def execTableRowWrite (f : Nat) (s : State) : Host.Outcome State Fault Refusal := guarded (funcOk f) (tableRowWriteEff f) s

end Sys2Proof.Machine
end

