-- ==== Sys2Proof/Machine/Keys.lean ====
section
/-! DEFINITION. The key functions that the manual names and does not print, as their standards give them (log entry 8): HMAC and HKDF
over SHA-384 (R395, R408), ECDSA on brainpoolP384r1 with nonces of RFC 6979 (R394), and AES-256 with its key wrap of RFC 3394 and
its XTS mode (R200, R260, R385, R408). -/

namespace Sys2Proof.Machine

/-! ## HMAC and HKDF -/

/-- HMAC with SHA-384. -/
def hmac384 (key message : Bytes) : Bytes :=
  let k := fit 128 (if 128 < key.length then sha384 key else key)
  let pad (v : Byte) : Bytes := k.map fun x => x ^^^ v
  sha384 (pad 0x5C ++ sha384 (pad 0x36 ++ message))

/-- The characters of a text as bytes. -/
def ascii (t : String) : Bytes := t.toList.map fun c => BitVec.ofNat 8 c.toNat

/-- The first 48 bytes that HKDF with SHA-384 expands. -/
def hkdf384 (salt material : Bytes) (info : String) : Bytes := hmac384 (hmac384 salt material) (ascii info ++ [1])

/-! ## brainpoolP384r1 -/

/-- The field's prime. -/
abbrev curveP : Nat := 0x8CB91E82A3386D280F5D6F7E50E641DF152F7109ED5456B412B1DA197FB71123ACD3A729901D1A71874700133107EC53

/-- The coefficient of x. -/
abbrev curveA : Nat := 0x7BC382C63D8C150C3C72080ACE05AFA0C2BEA28E4FB22787139165EFBA91F90F8AA5814A503AD4EB04A8C7DD22CE2826

/-- The constant coefficient. -/
abbrev curveB : Nat := 0x04A8C7DD22CE28268B39B55416F0447C2FB77DE107DCD2A62E880EA53EEB62D57CB4390295DBC9943AB78696FA504C11

/-- The order of the base point. -/
abbrev curveQ : Nat := 0x8CB91E82A3386D280F5D6F7E50E641DF152F7109ED5456B31F166E6CAC0425A7CF3AB6AF6B7FC3103B883202E9046565

/-- The base point. -/
def curveG : Nat × Nat :=
  (0x1D1C64F068CF45FFA2A63A81B7C13F6B8847A3E77EF14FE3DB7FCAFE0CBD10E8E826E03436D646AAEF87B2E247D4AF1E,
   0x8ABE1D7520F9C2A45CB1EB8E95CFD55262B70B29FEEC5864E19C054FF99129280E4646217791811142820341263C5315)

/-- b to the power e modulo p, by the bits of e. -/
def powMod (p : Nat) : (bits b e : Nat) → Nat
  | 0, _, _ => 1 % p
  | n + 1, b, e =>
    let h := powMod p n (b * b % p) (e / 2)
    if e % 2 = 1 then h * b % p else h

/-- The inverse modulo a prime of 384 bits. -/
def invMod (p a : Nat) : Nat := powMod p 384 (a % p) (p - 2)

/-- The sum of two points of the curve; none is the point at infinity. -/
def pointAdd (a b : Option (Nat × Nat)) : Option (Nat × Nat) :=
  match a, b with
  | none, b => b
  | a, none => a
  | some (x1, y1), some (x2, y2) =>
    let chord (slope : Nat) : Option (Nat × Nat) :=
      let x := (slope * slope + (curveP - x1) + (curveP - x2)) % curveP
      some (x, (slope * (x1 + (curveP - x)) + (curveP - y1)) % curveP)
    if x1 ≠ x2 then chord ((y2 + (curveP - y1)) * invMod curveP (x2 + (curveP - x1)) % curveP)
    else if y1 = y2 ∧ y1 ≠ 0 then chord ((3 * x1 * x1 + curveA) * invMod curveP (2 * y1) % curveP)
    else none

/-- A multiple of a point, by the bits of the scalar. -/
def pointMul : (bits k : Nat) → Option (Nat × Nat) → Option (Nat × Nat)
  | 0, _, _ => none
  | n + 1, k, p =>
    let h := pointMul n (k / 2) (pointAdd p p)
    if k % 2 = 1 then pointAdd h p else h

/-- Does a point lie on the curve? -/
def onCurve (x y : Nat) : Bool :=
  decide (x < curveP ∧ y < curveP ∧ y * y % curveP = (x * x * x + curveA * x + curveB) % curveP)

/-- A public key as bytes, X then Y, each little-endian (R394). -/
def pointBytes (p : Option (Nat × Nat)) : Bytes :=
  match p with
  | some (x, y) => toLe 48 x ++ toLe 48 y
  | none => zeros 96

/-- The public key of a scalar. -/
def publicKey (d : Nat) : Bytes := pointBytes (pointMul 384 d (some curveG))

/-- Does a signature, r then s, verify over a message under a public key (R394)? -/
def ecdsaVerifies (key message signature : Bytes) : Bool :=
  let x := le key 0 48
  let y := le key 48 48
  let r := le signature 0 48
  let t := le signature 48 48
  let w := invMod curveQ t
  let u := pointMul 384 (beNat (sha384 message) * w % curveQ) (some curveG)
  let v := pointMul 384 (r * w % curveQ) (some (x, y))
  onCurve x y && decide (0 < r ∧ r < curveQ ∧ 0 < t ∧ t < curveQ) &&
    match pointAdd u v with
    | some (x1, _) => decide (x1 % curveQ = r)
    | none => false

/-- The signature, r and s, of a digest under a scalar and a nonce, where neither is 0. -/
def signWith (d z k : Nat) : Option (Nat × Nat) :=
  match pointMul 384 k (some curveG) with
  | some (x, _) =>
    let r := x % curveQ
    let t := invMod curveQ k * (z + r * d) % curveQ
    if r = 0 ∨ t = 0 then none else some (r, t)
  | none => none

/-- The tries of RFC 6979: the first nonce in range that gives a signature. -/
def signTries (d z : Nat) : (tries : Nat) → (k v : Bytes) → Bytes
  | 0, _, _ => zeros 96
  | n + 1, k, v =>
    let v1 := hmac384 k v
    let nonce := beNat v1
    match if nonce = 0 ∨ curveQ ≤ nonce then none else signWith d z nonce with
    | some (r, t) => toLe 48 r ++ toLe 48 t
    | none => signTries d z n (hmac384 k (v1 ++ [0])) (hmac384 (hmac384 k (v1 ++ [0])) v1)

/-- The signature of a message under a scalar, its nonce chosen under RFC 6979 (R394). -/
def ecdsaSign (d : Nat) (message : Bytes) : Bytes :=
  let z := beNat (sha384 message) % curveQ
  let seed := toBe 48 d ++ toBe 48 z
  let v0 : Bytes := List.replicate 48 1
  let k1 := hmac384 (zeros 48) (v0 ++ [0] ++ seed)
  let v1 := hmac384 k1 v0
  let k2 := hmac384 k1 (v1 ++ [1] ++ seed)
  signTries d z 64 k2 (hmac384 k2 v1)

/-! ## AES-256 -/

/-- Twice an element of the field of 256. -/
def dbl (b : Byte) : Byte := (b <<< 1) ^^^ (if b.msb then 0x1B else 0)

/-- The product in the field of 256, by the bits of the second factor. -/
def gmul (a b : Byte) : Byte :=
  ((List.range 8).foldl (fun (p : Byte × Byte) i => (if b.getLsbD i then p.1 ^^^ p.2 else p.1, dbl p.2)) (0, a)).1

/-- The inverse in the field of 256: the 254th power. -/
def ginv (a : Byte) : Byte :=
  let sq (x : Byte) : Byte := gmul x x
  let a2 := sq a
  let a4 := sq a2
  let a8 := sq a4
  let a16 := sq a8
  let a32 := sq a16
  let a64 := sq a32
  gmul (sq a64) (gmul a64 (gmul a32 (gmul a16 (gmul a8 (gmul a4 a2)))))

/-- The substitution of a byte. -/
def subByte (b : Byte) : Byte :=
  let x := ginv b
  x ^^^ x.rotateLeft 1 ^^^ x.rotateLeft 2 ^^^ x.rotateLeft 3 ^^^ x.rotateLeft 4 ^^^ 0x63

/-- Its inverse. -/
def unsubByte (b : Byte) : Byte := ginv (b.rotateLeft 1 ^^^ b.rotateLeft 3 ^^^ b.rotateLeft 6 ^^^ 0x05)

/-- The exclusive or of byte strings of one length. -/
def xorBytes (a b : Bytes) : Bytes := List.zipWith (· ^^^ ·) a b

/-- The further words of the key schedule, each from the last eight, newest first. -/
def aesWords : Nat → List Bytes → List Bytes
  | 0, w => w
  | fuel + 1, w =>
    let i := w.length
    let last := w.getD 0 []
    let step :=
      if i % 8 = 0 then
        xorBytes ((last.drop 1 ++ last.take 1).map subByte)
          [(List.range (i / 8 - 1)).foldl (fun b _ => dbl b) 1, 0, 0, 0]
      else if i % 8 = 4 then last.map subByte
      else last
    aesWords fuel (xorBytes (w.getD 7 []) step :: w)

/-- The fifteen round keys. -/
def roundKeys (key : Bytes) : List Bytes := chunks 16 15 ((aesWords 52 (chunks 4 8 (fit 32 key)).reverse).reverse.flatten)

/-- The rows of the state turned left by their number, `n` times. -/
def shiftRows (n : Nat) (b : Bytes) : Bytes :=
  (List.range 16).map fun i => b.getD ((i / 4 + n * (i % 4)) % 4 * 4 + i % 4) 0

/-- Each column times the polynomial of these coefficients. -/
def mixColumns (c : List Byte) (b : Bytes) : Bytes :=
  (List.range 16).map fun i =>
    (List.range 4).foldl (fun x j => x ^^^ gmul (b.getD (i / 4 * 4 + j) 0) (c.getD ((j + 4 - i % 4) % 4) 0)) 0

/-- AES-256 of a block. -/
def aesEncrypt (key block : Bytes) : Bytes :=
  let ks := roundKeys key
  let whole := (ks.drop 1).dropLast.foldl
    (fun b k => xorBytes (mixColumns [2, 3, 1, 1] (shiftRows 1 (b.map subByte))) k) (xorBytes block (ks.getD 0 []))
  xorBytes (shiftRows 1 (whole.map subByte)) (ks.getD 14 [])

/-- Its inverse. -/
def aesDecrypt (key block : Bytes) : Bytes :=
  let ks := (roundKeys key).reverse
  let undo (b : Bytes) : Bytes := (shiftRows 3 b).map unsubByte
  let whole := (ks.drop 1).dropLast.foldl
    (fun b k => mixColumns [14, 11, 13, 9] (xorBytes (undo b) k)) (xorBytes block (ks.getD 0 []))
  xorBytes (undo whole) (ks.getD 14 [])

/-- The initial value of the key wrap. -/
def wrapInit : Bytes := List.replicate 8 0xA6

/-- AES key wrap of RFC 3394: six passes over the 8-byte parts, each step numbered. -/
def keyWrap (key plain : Bytes) : Bytes :=
  let n := plain.length / 8
  let step (x : Bytes × List Bytes) (t : Nat) : Bytes × List Bytes :=
    let b := aesEncrypt key (x.1 ++ x.2.getD (t % n) [])
    (xorBytes (b.take 8) (toBe 8 (t + 1)), x.2.set (t % n) (b.drop 8))
  let x := (List.range (6 * n)).foldl step (wrapInit, chunks 8 n plain)
  x.1 ++ x.2.flatten

/-- The key that a wrapped one gives back, where its check holds. -/
def keyUnwrap (key wrapped : Bytes) : Option Bytes :=
  let n := wrapped.length / 8 - 1
  let step (x : Bytes × List Bytes) (t : Nat) : Bytes × List Bytes :=
    let b := aesDecrypt key (xorBytes x.1 (toBe 8 (t + 1)) ++ x.2.getD (t % n) [])
    (b.take 8, x.2.set (t % n) (b.drop 8))
  let x := (List.range (6 * n)).reverse.foldl step (wrapped.take 8, chunks 8 n (wrapped.drop 8))
  if x.1 = wrapInit then some x.2.flatten else none

/-- AES-256-XTS of a data unit of whole blocks under a 512-bit key, its tweak the unit's number. -/
def xtsEncrypt (key : Bytes) (tweak : Nat) (data : Bytes) : Bytes :=
  let alpha (t : Nat) : Nat := if t < 2 ^ 127 then 2 * t else Nat.xor (2 * t - 2 ^ 128) 0x87
  let step (x : Nat × List Bytes) (b : Bytes) : Nat × List Bytes :=
    (alpha x.1, xorBytes (aesEncrypt (key.take 32) (xorBytes b (toLe 16 x.1))) (toLe 16 x.1) :: x.2)
  let first := le (aesEncrypt (key.drop 32) (toLe 16 tweak)) 0 16
  ((chunks 16 (data.length / 16) data).foldl step (first, [])).2.reverse.flatten

/-! ## The keys of the part (R385, R394, R395) -/

/-- A public key that the boot ROM holds: 0 firmware, 1 tack authority, 2 identity authority, 3 debug authority (R394). -/
def romKey (i : Nat) : Bytes := (List.range 96).map (Config.romKeyByte i)

/-- The scalar of the device key pair that a device secret gives (R395): how HKDF's bytes give a scalar is free (log entry 113). -/
def deviceScalar (secret : Bytes) : Nat := 1 + Config.scalarOf (hkdf384 (zeros 48) secret "DJH device key") % (curveQ - 1)

/-- The 256-bit node key that a device secret gives (R395). -/
def nodeKey (secret : Bytes) : Bytes := (hkdf384 (zeros 48) secret "DJH node key").take 32

/-- The 512-bit key of context 0's own structures (R200, R260), which the manual does not derive: free. -/
def ownKey : Bytes := (List.range 64).map Config.ownKeyByte

/-! ## Firmware images (R396 to R398) -/

/-- Offset and length of stage `i` (from 0) of a firmware image (R396). -/
def fwStage (b : Bytes) (i : Nat) : Nat × Nat := (le b (16 + 16 * i) 4, le b (20 + 16 * i) 4)

/-- The largest length of each stage. -/
def fwLimits : List Nat := [2 ^ 19, 2 ^ 20, 2 ^ 22, 2 ^ 20]

/-- The measurements of an image's four stages (R397). -/
def fwStages (b : Bytes) : List Bytes :=
  (List.range 4).map fun i => sha384 ((b.drop (fwStage b i).1).take (fwStage b i).2)

/-- The firmware digest of an image: over the digests of its four stages (R398). -/
def fwDigest (b : Bytes) : Bytes := sha384 ((fwStages b).flatMap fun m => m)

end Sys2Proof.Machine
end

