-- ==== Sys2Proof/Machine/Flash.lean ====
section
/-! DEFINITION. Flash channels: blocks, pools and array operations (R257 to R269), temperatures and the health log
(R270). -/

namespace Sys2Proof.Machine

/-! ## Channels and blocks -/

/-- A channel on which nothing has happened: its spare pool is 3 % of its blocks (R267). -/
def Flash.fresh (x : Flash) : FlashChannel :=
  { queues := [], done := [], waiting := [], blocks := [], spare := x.targets * x.dieBlocks * 3 / 100, levelling := none,
    reads := 0, shares := [], own := [], staging := [], journal := [], corrected := 0, retries := 0, uncorrectable := 0,
    progFails := 0, eraseFails := 0, deferredErrors := 0,
    programmed := 0, hostUnits := 0, temp := TempLog.zero, now := 0 }

/-- Channel `c`. -/
def State.channel (s : State) (c : Nat) : FlashChannel := SMap.getD s.flash.channels c s.flash.fresh

/-- Change channel `c`. -/
def State.modChannel (s : State) (c : Nat) (g : FlashChannel → FlashChannel) : State :=
  { s with flash := { s.flash with channels := SMap.set s.flash.channels c (g (s.channel c)) } }

/-- Change a paddock. -/
def State.modPaddock (s : State) (p : Nat) (g : Paddock → Paddock) : State :=
  { s with flash := { s.flash with paddocks := SMap.update s.flash.paddocks p g } }

/-- Channels 0 to 31 exist (R257). -/
def channelOk (c : Nat) : Bool := c < 32

/-- Targets of a channel in service (R257, R414). -/
def State.targetList (s : State) (c : Nat) : List Nat :=
  (List.range s.flash.targets).filter fun t => !s.node.record.retired.contains (0x09, 8 * c + t)

/-- The mark of a block that no pool has taken. -/
abbrev noPool : Nat := 4096

/-- A block that nothing has used. -/
def freshBlock : Block := { count := 0, st := 0, paddock := noPool, pages := 0 }

/-- Key of a block: target × 2^16 + number. -/
def blockKey (target block : Nat) : Nat := target * 2 ^ 16 + block

/-- A block of a channel. -/
def FlashChannel.block (c : FlashChannel) (key : Nat) : Block := SMap.getD c.blocks key freshBlock

/-- Change a block. -/
def FlashChannel.modBlock (c : FlashChannel) (key : Nat) (g : Block → Block) : FlashChannel :=
  { c with blocks := SMap.alter c.blocks key freshBlock g }

/-- Where unit `slot` of a page lies: the 34-bit physical unit of R264, numbered by channel, target, block, page. -/
def physOf (channel key page slot : Nat) : Nat :=
  (((channel * 8 + key / 2 ^ 16) * 2 ^ 14 + key % 2 ^ 14) * 1024 + page) * 4 + slot

/-- Does a physical unit lie in a block of a channel? -/
def physIn (channel key phys : Nat) : Bool := phys / 4096 = (channel * 8 + key / 2 ^ 16) * 2 ^ 14 + key % 2 ^ 14

/-- The page of a physical unit. -/
def physPage (phys : Nat) : Nat := phys / 4 % 1024

/-- The channel of a unit of a user paddock (R263). -/
def unitChannel (paddock unit : Nat) : Nat := (unit + paddock) % 32

/-- The flash channel of a record (R203). -/
def recordChannel (shard slot : Nat) : Nat := (slot + shard) % 32

/-- A unit's newest write, as one of its writes. -/
def StoredUnit.newest (x : StoredUnit) : PastWrite :=
  { data := x.data, mapped := x.mapped, phys := x.phys, buffered := x.buffered, sequence := x.sequence, since := x.since,
    group := x.group }

/-- A unit's writes that flash or the buffer holds, newest first. -/
def StoredUnit.writes (x : StoredUnit) : List PastWrite := x.newest :: x.under

/-- Change the write of a unit with a sequence. -/
def StoredUnit.modWrite (x : StoredUnit) (q : Nat) (g : PastWrite → PastWrite) : StoredUnit :=
  if x.sequence = q then
    let w := g x.newest
    { x with data := w.data, phys := w.phys, buffered := w.buffered }
  else { x with under := x.under.map fun w => if w.sequence = q then g w else w }

/-- What a block holds that is valid: page, unit and write sequence of each unit of a user paddock, and each page of paddock 0
(R263, R266). Writes that a power failure could still bring back are valid (R281). -/
def State.heldIn (s : State) (channel key : Nat) : List (Nat × Nat × Nat) :=
  let pad := ((s.channel channel).block key).paddock
  if pad = 0 then
    ((s.channel channel).own.filter fun p => physIn channel key (4 * p.2.1)).map fun p => (p.2.1 % 1024, p.1, p.2.2)
  else
    (((SMap.find? s.flash.paddocks pad).map (·.units)).getD []).flatMap fun u =>
      (u.2.writes.filter fun w => w.mapped && !w.buffered && physIn channel key w.phys).map fun w =>
        (physPage w.phys, u.1, w.sequence)

/-- The valid pages of a block, ascending (R266). -/
def State.validPages (s : State) (channel key : Nat) : List Nat :=
  (s.heldIn channel key).foldl (fun l u => insertNat u.1 l) []

/-- The operations of a channel that are not yet done with. -/
def FlashChannel.ops (c : FlashChannel) : List ArrayOp :=
  c.waiting ++ c.queues.flatMap (·.2) ++ c.done.flatMap (·.2)

/-! ## Pages (R257, R259) -/

/-- Parity bytes of a codeword (R259). -/
def parityBytes (d : Nat) : Nat := 4 * ((d + 63) / 64)

/-- Bytes that a page holds: data and spare (R257). -/
def pageBytes : Nat := 16384 + 2048

/-- Bytes of a page that codewords fill: all but the 1,024 spare bytes kept for unit metadata (R259). -/
def pageWords : Nat := pageBytes - 1024

/-- Paddock-0 records of one size that stand on a page, each one codeword: none spans two pages (R203, R259). -/
def recordsPerPage (size : Nat) : Nat := pageWords / (size + parityBytes size)

/-- A page of paddock 0: what kind of structure (0 an index's records, 1 an index's version, 2 a table's version), of which
object, which part of it (the shard, or the version) and which page of the part. The manual prints no page numbers (DESIGN
CHOICE, log entry 66). -/
def ownPage (kind object part page : Nat) : Nat := ((kind * 2 ^ 32 + object) * 2 ^ 64 + part) * 2 ^ 32 + page

/-- Kind, object and part of a page of paddock 0. -/
def ownPart (p : Nat) : Nat × Nat × Nat := (p / 2 ^ 128, p / 2 ^ 96 % 2 ^ 32, p / 2 ^ 32 % 2 ^ 64)

/-- Where the full-precision record of a slot lies on its channel: the page, counted from the first page of its shard's
records there, and the byte of the page; the manual does not give the order of a channel's records, which the model takes as
ascending slots (log entry 66). -/
def recordPlace (slot size : Nat) : Nat × Nat :=
  (slot / 32 / recordsPerPage size, slot / 32 % recordsPerPage size * (size + parityBytes size))

/-- The pages of paddock 0 that a channel holds of a structure of `bytes` bytes, laid out in 4 KiB units, unit u on channel
u mod 32 (R263): four units a page. -/
def spreadPages (bytes ch : Nat) : Nat := ceilDiv ((ceilDiv bytes 4096 + 31 - ch) / 32) 4

/-- The pages of paddock 0 with the records of an index on a channel: its slots held with a record there (R203). -/
def Index.recordPages (x : Index) (id ch : Nat) (slots : List (Nat × Nat)) : List Nat :=
  (slots.filter fun k => recordChannel k.1 k.2 = ch).foldl
    (fun l k => insertNat (ownPage 0 id k.1 (recordPlace k.2 (recordBytes x.dim)).1) l) []

/-- Blocks that the pool of paddock 0 takes on a channel for the records of the indexes' rows and for the structures that it
persists, with its over-provisioning of 7 % (R203, R266, R271). -/
def State.ownBlocks (s : State) (ch : Nat) : Nat :=
  let records := sumNat (s.indexes.map fun x => (x.2.recordPages x.1 ch (x.2.slotsHeld.map fun k => (k / 2 ^ 40, k % 2 ^ 40))).length)
  let pages := records + ((s.channel ch).own.filter fun p => (ownPart p.1).1 ≠ 0).length
  if pages = 0 then 0 else ceilDiv (pages * 100) (93 * 1024) + s.flash.targets

/-! ## Operations (R258, R265) -/

/-- Put an operation behind those that wait on a channel. -/
def State.wait (s : State) (c : Nat) (o : ArrayOp) : State := s.modChannel c fun x => { x with waiting := x.waiting ++ [o] }

/-- The pages that garbage collection moves for each new page, at most: g of R266, by the over-provisioning. -/
def movedPages (op : Nat) : Nat := ceilDiv (100 - op) (max op 1)

/-- What a program class is charged for each new page of a paddock: the page's program and those of the pages moved, with
2 units for each towards the erases (R258, R266). -/
def pageNeed (op : Nat) : Nat := 242 * (1 + movedPages op)

/-- A page program in normal mode: units of one paddock with their write sequences, issued once `need` units are charged. -/
def pageOp (paddock cls : Nat) (units : List (Nat × Nat)) (move : Bool) (need : Nat) : ArrayOp :=
  { kind := 1, paddock := paddock, block := 0, page := 0, units := units, move := move, cost := 240, need := need, cls := cls,
    charged := 0, issued := 0, failed := none, ended := 0, tries := 0, asked := [] }

/-- A page program in SLC mode, of a structure of context 0 (R36). -/
def slcOp (share : Nat) : ArrayOp :=
  { kind := 0, paddock := 0, block := 0, page := 0, units := [], move := false, cost := 60, need := 60, cls := share,
    charged := 0, issued := 0, failed := none, ended := 0, tries := 0, asked := [] }

/-- A block erase: one that garbage collection causes is paid for by the pages written (R258). -/
def eraseOp (paddock cls key : Nat) (paid : Bool) : ArrayOp :=
  { kind := 2, paddock := paddock, block := key, page := 0, units := [], move := false, cost := 1600,
    need := if paid then 0 else 1600, cls := cls, charged := 0, issued := 0, failed := none, ended := 0, tries := 0, asked := [] }

/-- Class marks of context 0's shares (R36): wear levelling. -/
abbrev levelShare : Nat := 2 ^ 16
/-- Erases of deleted paddocks' blocks. -/
abbrev eraseShare : Nat := 2 ^ 16 + 1
/-- Map journal and checkpoint programs. -/
abbrev journalShare : Nat := 2 ^ 16 + 2
/-- Boot area and unit record. -/
abbrev bootShare : Nat := 2 ^ 16 + 3
/-- Farrier reference-page reads. -/
abbrev farrierShare : Nat := 2 ^ 16 + 4
/-- Map and unit-record reads at checkpoint. -/
abbrev checkpointShare : Nat := 2 ^ 16 + 5

/-- A share of context 0's FLASH_ARRAY minimum on a channel, by the work window's cycles: each scales with W, and the boot
area has what the others leave of the minimum (R35, R36). -/
def arrayShare (share w : Nat) : Nat :=
  let scaled (n : Nat) : Nat := n * w / 608404
  if share = levelShare then scaled 24
  else if share = journalShare then scaled 12
  else if share = eraseShare then scaled 8
  else if share = bootShare then w / 12500 - (scaled 24 + scaled 12 + scaled 8)
  else 0

/-- A share of its FLASH_OP minimum of 8 (R36). -/
def readShare (share : Nat) : Nat :=
  if share = farrierShare ∨ share = levelShare then 1
  else if share = journalShare ∨ share = bootShare ∨ share = checkpointShare then 2
  else 0

/-- Array units that a gait's plan of a class gives a channel in the present stride, from its admissions in the strides from
its adoption on, and before `hi` where that is given (R44, R53). -/
def State.planCharge (s : State) (g : Gait) (from_ : Nat) (hi : Option Nat) (cls channel : Nat) : Nat :=
  sumNat (g.plans.map fun p =>
    if p.cls = cls ∧ p.res = resOf 0x0E channel ∧ from_ + p.off ≤ s.stride ∧ (hi.all fun e => decide (s.stride < e + p.off)) then
      g.admits cls (g.index ((s.stride : Int) - p.off) from_) * p.amount
    else 0)

/-- Array units that a class charges on a channel in the present stride, with what admissions under the outgoing gait still
bring (R36, R53, R258). -/
def State.arrayCharge (s : State) (cls channel : Nat) : Nat :=
  if 2 ^ 16 ≤ cls then arrayShare cls (workCycles s.clk.code)
  else
    s.planCharge s.gaitNow.1 s.gaitNow.2 none cls channel +
      sumNat (s.outgoingNow.map fun o => s.planCharge o.1 o.2.1 (some o.2.2) cls channel)

/-- Give what a class has of a stride to its waiting operations, in order: each takes what it lacks. -/
def payOps (cls : Nat) : Nat → List ArrayOp → List ArrayOp
  | _, [] => []
  | left, o :: l =>
    if o.cls = cls then { o with charged := min o.need (o.charged + left) } :: payOps cls (left - (o.need - o.charged)) l
    else o :: payOps cls left l

/-- The charges of a stride, of every class that has operations waiting. -/
def chargeOps (amount : Nat → Nat) (l : List ArrayOp) : List ArrayOp :=
  (dedupNat (l.map (·.cls))).foldl (fun l k => payOps k (amount k) l) l

/-- R258: the charges of a stride, on every channel in service with waiting operations (R52); the reads of the stride before are
over. -/
def State.chargeFlash (s : State) : State :=
  { s with flash := { s.flash with
      channels := SMap.mapVals s.flash.channels fun c x =>
        { x with waiting := if s.unitUp 0x0E c then chargeOps (fun k => s.arrayCharge k c) x.waiting else x.waiting,
                 reads := 0, shares := [] } } }

/-- A page read: one FLASH_OP unit, by which the array operation that it suspends on its target grows (R258). -/
def FlashChannel.pageRead (c : FlashChannel) (target : Option Nat) : FlashChannel :=
  { c with
    reads := c.reads + 1,
    queues := match target with
      | some t => SMap.update c.queues t fun q => match q with
        | o :: l => { o with cost := o.cost + 1 } :: l
        | [] => []
      | none => c.queues }

/-- Count what a read met (R261): one that stays uncorrectable has made its three retries. -/
def FlashChannel.countRead (c : FlashChannel) (x : FlashRead) : FlashChannel :=
  { c with
    corrected := c.corrected + x.corrected,
    retries := c.retries + (if x.lost then 3 else min 3 x.retries),
    uncorrectable := c.uncorrectable + bit01 x.lost }

/-- What a share of context 0 has left of the stride's reads (R36): what it leaves unused lapses. -/
def FlashChannel.shareLeft (c : FlashChannel) (share : Nat) : Nat := readShare share - SMap.getD c.shares share 0

/-- A page read of a share of context 0. -/
def FlashChannel.shareRead (c : FlashChannel) (share : Nat) (target : Option Nat) : FlashChannel :=
  { c.pageRead target with shares := SMap.alter c.shares share 0 (· + 1) }

/-- A read that met nothing. -/
def cleanRead (unit : Nat) : FlashRead := { unit := unit, corrected := 0, retries := 0, lost := false }

/-- What the reads say of a unit. -/
def readOf (reads : List FlashRead) (unit : Nat) : FlashRead := (reads.find? fun r => r.unit = unit).getD (cleanRead unit)

/-- Did a read need all three retries, so that its block is retired (R267)? -/
def retires (x : FlashRead) : Bool := x.lost || decide (3 ≤ x.retries)

/-- The block key of a physical unit. -/
def physKey (phys : Nat) : Nat := blockKey (phys / 2 ^ 26 % 8) (phys / 4096 % 2 ^ 14)

/-- Data deciphered into the staging buffer; the channel sends what it computes from it, and zeroes it (R262, R266). -/
def FlashChannel.stage (c : FlashChannel) (data : Bytes) : FlashChannel := { c with staging := fit 65536 data }

/-- R262: the staging space is zeroed when the entry has been sent. -/
def FlashChannel.unstage (c : FlashChannel) : FlashChannel := { c with staging := [] }

/-- Queued time of a target. -/
def FlashChannel.queued (c : FlashChannel) (t : Nat) : Nat := sumNat ((SMap.getD c.queues t []).map (·.cost))

/-- The target with the least queued time, the lowest of equals (R258, R263). -/
def FlashChannel.idlest (c : FlashChannel) (targets : List Nat) : Option Nat :=
  targets.foldl (fun b t => match b with
    | none => some t
    | some x => if c.queued t < c.queued x then some t else some x) none

/-- The lowest unlisted block number of a target. -/
def FlashChannel.unused (c : FlashChannel) (target : Nat) : Nat :=
  lowestFree ((c.blocks.filter fun b => b.1 / 2 ^ 16 = target).map fun b => b.1 % 2 ^ 16) (c.blocks.length + 1) 0

/-- The free blocks of a paddock's pool on a target; where it has none, those that no pool has taken: the listed ones, and the
lowest that nothing has used (R263, R272). -/
def FlashChannel.freeOn (c : FlashChannel) (dieBlocks paddock target : Nat) : List (Nat × Block) :=
  let free (p : Nat) := c.blocks.filter fun b => b.1 / 2 ^ 16 = target && b.2.st = 0 && b.2.paddock = p
  if (free paddock).isEmpty then
    free noPool ++ (if c.unused target < dieBlocks then [(blockKey target (c.unused target), freshBlock)] else [])
  else free paddock

/-- Of free blocks, the one with the lowest program/erase count, or for a levelling move the highest, and of equals the
lowest number (R269). -/
def chooseBlock (highest : Bool) (l : List (Nat × Block)) : Option Nat :=
  (l.foldl (fun (b : Option (Nat × Block)) x => match b with
    | none => some x
    | some y =>
      if (if highest then y.2.count < x.2.count else x.2.count < y.2.count) ∨
          (x.2.count = y.2.count ∧ x.1 % 2 ^ 16 < y.1 % 2 ^ 16) then some x
      else some y) none).map (·.1)

/-- Open a free block for a paddock. -/
def FlashChannel.openBlock (c : FlashChannel) (st paddock key : Nat) : Nat × FlashChannel :=
  (key, c.modBlock key fun b => { b with st := st, paddock := paddock, pages := 0 })

/-- The block a page of a paddock goes to on a target: its open block, else a free one, opened. -/
def FlashChannel.place (c : FlashChannel) (dieBlocks paddock target : Nat) : Option (Nat × FlashChannel) :=
  match List.find? (fun b => b.2.st = 1 && b.2.paddock = paddock && b.1 / 2 ^ 16 = target) c.blocks with
  | some b => some (b.1, c)
  | none => (chooseBlock false (c.freeOn dieBlocks paddock target)).map (c.openBlock 1 paddock)

/-- The block a levelling move goes to: the one that takes them, else the free block with the highest count of the paddock's pool
on the channel (R269). -/
def FlashChannel.placeLevel (c : FlashChannel) (dieBlocks paddock : Nat) (targets : List Nat) : Option (Nat × FlashChannel) :=
  match List.find? (fun b => b.2.st = 4 && b.2.paddock = paddock) c.blocks with
  | some b => some (b.1, c)
  | none =>
    let l := targets.flatMap (c.freeOn dieBlocks paddock)
    let mine := l.filter fun b => b.2.paddock = paddock
    (chooseBlock true (if mine.isEmpty then l else mine)).map (c.openBlock 4 paddock)

/-- Issue an operation on a channel: a program is placed on its target, block and page; its block closes when full
(R258, R263). -/
def State.issue (s : State) (ch : Nat) (o : ArrayOp) : State :=
  let targets := s.targetList ch
  if o.kind = 2 then
    s.modChannel ch fun c =>
      { c with queues := SMap.alter c.queues (o.block / 2 ^ 16) [] fun q => q ++ [{ o with issued := s.stride }] }
  else
    let c := s.channel ch
    -- targets from the idlest on: the first that can take the page
    let order := sortBy (fun a b => decide (c.queued a < c.queued b)) targets
    match if o.move && o.cls = levelShare then c.placeLevel s.flash.dieBlocks o.paddock targets
        else order.findSome? fun t => c.place s.flash.dieBlocks o.paddock t with
    | none => s.modChannel ch fun c => { c with waiting := o :: c.waiting }
    | some (key, c1) =>
      let page := (c1.block key).pages
      let c2 := c1.modBlock key fun b =>
        { b with pages := page + 1, st := if page + 1 = 1024 then 2 else b.st }
      let o' := { o with block := key, page := page, issued := s.stride }
      s.modChannel ch fun _ =>
        { c2 with queues := SMap.alter c2.queues (key / 2 ^ 16) [] fun q => q ++ [o'],
                  programmed := c2.programmed + o.units.length }

/-- R266: the blocks a paddock's pool may hold on a channel: its capacity with its over-provisioning, and the open ones. -/
def Paddock.poolBlocks (p : Paddock) (targets : Nat) : Nat :=
  ceilDiv (ceilDiv p.capacity 128 * 100) ((100 - p.op) * 1024) + targets

/-- Move the valid pages of a block, `n` at most (R266, R267, R269): moves that garbage collection makes are paid for by the
page that causes them. -/
def State.moveOut (s : State) (ch key n : Nat) (cls : Nat) (paid : Bool) : State :=
  let pad := ((s.channel ch).block key).paddock
  let queued := (s.channel ch).ops
  let held := s.heldIn ch key
  let going (u : Nat × Nat × Nat) : Bool := queued.any fun o => o.move && o.paddock = pad && o.units.contains u.2
  let pages := (s.validPages ch key).filter fun pg => held.any fun u => u.1 = pg && !going u
  (pages.take n).foldl (fun s pg =>
    s.wait ch (pageOp pad cls ((held.filter fun u => u.1 = pg).map (·.2)) true (if paid then 0 else 240))) s

/-- Over-provisioning and block limit of a pool on a channel: paddock 0's is 7 % (R266). -/
def State.poolOf (s : State) (ch pad : Nat) : Option (Nat × Nat) :=
  if pad = 0 then some (7, ceilDiv ((s.channel ch).own.length * 100) (93 * 1024) + s.flash.targets)
  else (SMap.find? s.flash.paddocks pad).map fun p => (p.op, p.poolBlocks s.flash.targets)

/-- R266: garbage collection of a paddock's pool before a new page of a class: where the pool is full, the closed block with the
fewest valid pages gives up to g of them, and is erased once it holds none. -/
def State.collect (s : State) (ch pad cls : Nat) : State :=
  match s.poolOf ch pad with
  | none => s
  | some (op, limit) =>
    let mine := (s.channel ch).blocks.filter fun b => b.2.paddock = pad && (b.2.st = 1 || b.2.st = 2 || b.2.st = 4)
    if mine.length < limit then s
    else
      match (mine.filter fun b => b.2.st = 2).foldl (fun (v : Option (Nat × Nat)) b =>
          let n := (s.validPages ch b.1).length
          match v with
          | none => some (b.1, n)
          | some (k, m) => if n < m ∨ (n = m ∧ b.1 % 2 ^ 16 < k % 2 ^ 16) then some (b.1, n) else some (k, m)) none with
      | none => s
      | some (key, 0) =>
        (s.modChannel ch fun c => c.modBlock key fun b => { b with st := 5 }).wait ch (eraseOp pad cls key true)
      | some (key, _) => s.moveOut ch key (movedPages op) cls true

/-- The data of a unit's write. -/
def State.writeOf (s : State) (pad unit q : Nat) : Option PastWrite :=
  ((SMap.find? s.flash.paddocks pad).bind fun p => SMap.find? p.units unit).bind fun x => x.writes.find? fun w => w.sequence = q

/-- Where the page that a move takes its units from lies, as a physical unit, with its data. -/
def State.sourceOf (s : State) (ch : Nat) (o : ArrayOp) : Option (Nat × Bytes) :=
  match o.units with
  | [] => none
  | u :: _ =>
    if o.paddock = 0 then (SMap.find? (s.channel ch).own u.1).bind fun p => if p.2 = u.2 then some (4 * p.1, []) else none
    else (s.writeOf o.paddock u.1 u.2).map fun w =>
      (w.phys, o.units.flatMap fun u => ((s.writeOf o.paddock u.1 u.2).map (·.data)).getD [])

/-! ## Paddock 0 (R203, R258, R263, R266) -/

/-- A build class programs pages of paddock 0 on a channel: each is charged with what its collection takes (R258, R266). -/
def State.writeOwn (s : State) (cls : Nat) (pages : Nat → List Nat) : State :=
  let q := s.flash.sequence + 1
  (List.range 32).foldl (fun s ch => (pages ch).foldl (fun s p => s.wait ch (pageOp 0 cls [(p, q)] false (pageNeed 7))) s)
    { s with flash := { s.flash with sequence := q } }

/-- Is a page of an object still to be programmed into paddock 0 (R128)? -/
def State.persisting (s : State) (object : Nat) : Bool :=
  s.flash.channels.any fun c => c.2.ops.any fun o =>
    o.paddock = 0 && !o.move && o.units.any fun u => (ownPart u.1).2.1 = object

/-- Read the pages of paddock 0 that hold a version of an object and its records, as the fill does: each takes a FLASH_OP unit, and
what the reads of a channel met, `reads` by channel, is counted (R258, R261). -/
def State.readOwn (s : State) (object version : Nat) (reads : List FlashRead) : State :=
  { s with flash := { s.flash with channels := SMap.mapVals s.flash.channels fun ch c =>
      let mine := c.own.filter fun p => (ownPart p.1).2.1 = object && ((ownPart p.1).1 = 0 || (ownPart p.1).2.2 = version)
      if mine.isEmpty then c
      else (mine.foldl (fun c p => c.pageRead (some (4 * p.2.1 / 2 ^ 26 % 8))) c).countRead (readOf reads ch) } }

/-- Pages of paddock 0 whose structure is gone hold nothing valid. -/
def State.trimOwn (s : State) : State :=
  let live (p : Nat) : Bool :=
    let (kind, id, part) := ownPart p
    if kind = 2 then (SMap.find? s.tables id).any fun x => x.versions.any fun v => v.num = part
    else (SMap.find? s.indexes id).any fun x => kind = 0 || x.versions.any fun v => v.num = part
  { s with flash := { s.flash with channels := SMap.mapVals s.flash.channels fun _ c =>
      { c with own := c.own.filter fun p => live p.1 } } }

/-- Context 0 programs a record or image of `bytes` bytes into the boot area of a channel, in SLC mode, and reads it back, in its
boot share (R36, R404). -/
def State.bootWrite (s : State) (ch bytes : Nat) : State :=
  s.modChannel ch fun c =>
    let c := if 0 < c.shareLeft bootShare then c.shareRead bootShare none else c
    { c with waiting := c.waiting ++ List.replicate (ceilDiv bytes 16384) (slcOp bootShare) }

/-! ## Retirement, read-only mode, deferred errors (R267, R268, R282) -/

/-- R268: enter read-only mode. -/
def State.enterReadOnly (s : State) (ch : Nat) : State :=
  if s.flash.readOnly then s
  else { s with flash := { s.flash with readOnly := true, readOnlyFrom := s.nextBoundary, readOnlyChannel := ch } }

/-- R267: retire a block; a spare replaces it, or the node enters read-only mode. Its valid pages move. -/
def State.retireBlock (s : State) (ch key : Nat) : State :=
  let c := s.channel ch
  if (c.block key).st = 3 then s
  else
    let cls := ((SMap.find? s.flash.paddocks (c.block key).paddock).map (·.cls)).getD eraseShare
    let s1 := s.moveOut ch key 1024 cls true
    let s2 := s1.modChannel ch fun c =>
      { c.modBlock key fun b => { b with st := 3 } with
        spare := c.spare - 1,
        levelling := if c.levelling = some key then none else c.levelling }
    if c.spare = 0 then s2.enterReadOnly ch else s2

/-- R100: a record of paddock 0 is read on its channel: a FLASH_OP unit, which lengthens the array operation of the target whose
page holds it (R32, R258), with what the read met (R261), through the staging buffer, which is zeroed when the entry has been
sent (R262). A block whose read needed all three retries is retired (R267). -/
def State.readRecord (s : State) (index dim shard slot : Nat) (record : Bytes) (r : FlashRead) : State :=
  let ch := recordChannel shard slot
  let page := (SMap.find? (s.channel ch).own (ownPage 0 index shard (recordPlace slot (recordBytes dim)).1)).map fun p => 4 * p.1
  let t := s.modChannel ch fun c =>
    (((c.pageRead (page.map fun p => p / 2 ^ 26 % 8)).countRead r).stage record).unstage
  match page with
  | some p => if retires r then t.retireBlock ch (physKey p) else t
  | none => t

/-- Join an ascending list of units into ranges (start, count). -/
def rangesOf : List Nat → List (Nat × Nat)
  | [] => []
  | u :: l =>
    match rangesOf l with
    | (a, n) :: r => if u + 1 = a then (u, n + 1) :: r else (u, 1) :: (a, n) :: r
    | [] => [(u, 1)]

/-- Note a map change for the channel's journal (R264). -/
def State.journalled (s : State) (ch pad unit count : Nat) : State :=
  s.modChannel ch fun c => { c with journal := c.journal ++ [(pad, unit, count)] }

/-- R282: committed units whose data is lost are marked, and their ranges reported later. An earlier write under a newer one is
only dropped. -/
def State.deferFail (s : State) (ch pad : Nat) (units : List (Nat × Nat)) : State :=
  let top (u : Nat × Nat) : Bool := ((SMap.find? s.flash.paddocks pad).bind fun p => SMap.find? p.units u.1).any fun x => x.sequence = u.2
  let gone := (units.filter top).map (·.1)
  let s1 := s.modPaddock pad fun p =>
    { p with
      units := units.foldl (fun m u => SMap.update m u.1 fun x =>
        (if x.sequence = u.2 then { x with deferredBit := true, buffered := false }
         else { x with under := x.under.filter fun w => w.sequence ≠ u.2 } : StoredUnit)) p.units,
      ranges := p.ranges ++ rangesOf (gone.foldl (fun l u => insertNat u l) []) }
  s1.modChannel ch fun c => { c with deferredErrors := c.deferredErrors + gone.length }

/-! ## Issue (R258, R282) -/

/-- May the span partner be asked for units of a paddock: one is mirrored, or paddock 0 (R267, R282)? -/
def State.askable (s : State) (pad : Nat) : Bool :=
  (pad = 0 || (SMap.find? s.flash.paddocks pad).any fun p => p.mirrored) && !s.isFenced s.partner

/-- The partner's data for a unit, where it supplies it. -/
def answerOf (answers : List PartnerUnit) (unit : Nat) : Option Bytes :=
  (answers.find? fun a => a.unit = unit).bind fun a => if a.data.isEmpty then none else some (fit 4096 a.data)

/-- Put the partner's data into writes of a paddock. -/
def State.takeAnswers (s : State) (pad : Nat) (units : List (Nat × Nat)) (answers : List PartnerUnit) : State :=
  let put (m : SMap StoredUnit) (u : Nat × Nat) : SMap StoredUnit :=
    match answerOf answers u.1 with
    | some d => SMap.update m u.1 fun x => x.modWrite u.2 fun w => { w with data := d }
    | none => m
  s.modPaddock pad fun p => { p with units := units.foldl put p.units }

/-- An operation whose units `bad` cannot be read: a live partner is asked for those not yet asked for, and it waits; else those
that nobody supplied are lost, and it goes on with the others (R267, R282). -/
def State.recover (s : State) (ch : Nat) (o : ArrayOp) (bad : List (Nat × Nat)) (answers : List PartnerUnit)
    (go : State → ArrayOp → State) : State :=
  let fresh := bad.filter fun u => !o.asked.contains u.1
  let rest : State := s.modChannel ch fun c => { c with waiting := c.waiting.erase o }
  if !fresh.isEmpty && s.askable o.paddock then
    let n := { o with asked := o.asked ++ fresh.map (·.1) }
    (s.modChannel ch fun c => { c with waiting := c.waiting.map fun x => if x = o then n else x }).send 6 s.partner
      (toLe 2 o.paddock ++ fresh.flatMap fun u => toLe 8 u.1)
  else
    let gone := (o.units.filter fun u => o.asked.contains u.1 && (answerOf answers u.1).isNone) ++ fresh
    let t := (rest.takeAnswers o.paddock (o.units.filter fun u => o.asked.contains u.1) answers)
    let t := if gone.isEmpty then t else t.deferFail ch o.paddock gone
    let left := o.units.filter fun u => !gone.contains u
    if left.isEmpty && !o.units.isEmpty then t else go t { o with units := left, asked := [] }

/-- May an operation be issued in this stride: its charges are complete, its partner's answers are there, the share of its read
is left, and a block to be erased holds nothing valid (R36, R258, R269)? -/
def State.issuable (s : State) (ch : Nat) (answers : List PartnerUnit) (o : ArrayOp) : Bool :=
  decide (o.need ≤ o.charged) &&
  (o.asked.all fun u => answers.any (fun a => a.unit = u) || !s.askable o.paddock) &&
  (!(o.move && o.cls = levelShare) || decide (0 < (s.channel ch).shareLeft levelShare)) &&
  (o.kind ≠ 2 || (s.validPages ch o.block).isEmpty)

/-- A moved page's read takes a FLASH_OP unit, of levelling's share where levelling moves it, goes through the staging buffer, and
is counted; a block that needed all three retries is retired (R261, R266, R267, R269). -/
def State.readMoved (s : State) (ch : Nat) (o : ArrayOp) (r : FlashRead) : State :=
  match s.sourceOf ch o with
  | none => s
  | some (phys, data) =>
    let t := s.modChannel ch fun c =>
      let target := some (phys / 2 ^ 26 % 8)
      (((if o.cls = levelShare then c.shareRead levelShare target else c.pageRead target).countRead r).stage data).unstage
    if retires r then t.retireBlock ch (physKey phys) else t

/-- R269: levelling goes on: the next valid page of the source waits for its charges; once none is left to move, the source's erase
does. -/
def State.levelStep (s : State) (ch : Nat) : State :=
  match (s.channel ch).levelling with
  | none => s
  | some key =>
    if (s.channel ch).waiting.any fun o => o.cls = levelShare then s
    else
      let t := s.moveOut ch key 1 levelShare false
      if (t.channel ch).waiting.length ≠ (s.channel ch).waiting.length ∨ ((s.channel ch).block key).st = 5 then t
      else
        (s.modChannel ch fun c => c.modBlock key fun b => { b with st := 5 }).wait ch
          (eraseOp ((s.channel ch).block key).paddock levelShare key false)

/-- ARRAY_OPERATION_ISSUE (R258): issue the first waiting operation that may be. `lost` names units whose buffered data can no
longer be read, `reads` what the read of a moved page met (named by its first unit), `answers` what the partner supplies. -/
def arrayOperationIssueEff (ch : Nat) (lost : List Nat) (reads : List FlashRead) (answers : List PartnerUnit) (s : State) :
    State :=
  if !s.working || !s.unitUp 0x0E ch then s
  else
    match (s.channel ch).waiting.find? (s.issuable ch answers) with
    | none => s
    | some o =>
      if o.move then
        let r := readOf reads ((o.units.headD (0, 0)).1)
        ((s.readMoved ch o r).recover ch o (if r.lost then o.units else []) answers fun t o => t.issue ch o).levelStep ch
      else if o.kind = 1 then
        s.recover ch o (o.units.filter fun u => lost.contains u.1) answers fun t o => (t.collect ch o.paddock o.cls).issue ch o
      else
        let t := s.modChannel ch fun c =>
          { c with waiting := c.waiting.erase o, journal := if o.cls = journalShare then [] else c.journal }
        t.issue ch o

/-- ARRAY_OPERATION_ISSUE -/
def execArrayOperationIssue (channel : Nat) (lost : List Nat) (reads : List FlashRead) (answers : List PartnerUnit) (s : State) :
    Host.Outcome State Fault Refusal :=
  guarded (channelOk channel) (arrayOperationIssueEff channel lost reads answers) s

/-! ## Completion and status (R258, R265) -/

/-- R269: the spread of a channel: the highest count of its blocks in service less the lowest of its closed blocks. -/
def FlashChannel.spread (c : FlashChannel) (targets : List Nat) : Option (Nat × Nat) :=
  let live := c.blocks.filter fun b => b.2.st ≠ 3 && targets.contains (b.1 / 2 ^ 16)
  let top := maxNat (live.map fun b => b.2.count)
  ((live.filter fun b => b.2.st = 2).foldl (fun (v : Option (Nat × Nat)) b => match v with
    | none => some (b.1, b.2.count)
    | some (k, n) => if b.2.count < n ∨ (b.2.count = n ∧ b.1 % 2 ^ 16 < k % 2 ^ 16) then some (b.1, b.2.count) else some (k, n))
    none).map fun p => (p.1, top - p.2)

/-- The wear-level limit (R269). -/
def State.wearLimit (s : State) : Nat := (s.node.tack.map (·.wearLimit)).getD 500

/-- Choose a levelling source where the spread is above `above`, else stop levelling. -/
def State.levelFrom (s : State) (ch above : Nat) : State :=
  match (s.channel ch).spread (s.targetList ch) with
  | some (key, n) =>
    if above < n then (s.modChannel ch fun c => { c with levelling := some key }).levelStep ch
    else s.modChannel ch fun c => { c with levelling := none }
  | none => s.modChannel ch fun c => { c with levelling := none }

/-- ARRAY_OPERATION_COMPLETE (R258): the oldest operation of a target ends. A program waits for its status to be read;
an erased block is free, in its pool or, of a deleted paddock, in none; a failed erase retires its block (R267). -/
def arrayOperationCompleteEff (ch t : Nat) (good : Bool) (s : State) : State :=
  match SMap.getD (s.channel ch).queues t [] with
  | [] => s
  | o :: rest =>
    let s1 := s.modChannel ch fun c =>
      { c with queues := if rest.isEmpty then SMap.erase c.queues t else SMap.set c.queues t rest }
    if o.kind ≠ 2 then
      s1.modChannel ch fun c =>
        { c with done := SMap.alter c.done t [] fun d => d ++ [{ o with failed := some (!good), ended := s.stride }] }
    else
      let level := (s.channel ch).levelling = some o.block
      let s2 := if good then
          s1.modChannel ch fun c => c.modBlock o.block fun b =>
            { count := b.count + 1, st := 0, pages := 0,
              paddock := if o.paddock = 0 || SMap.has s.flash.paddocks o.paddock then o.paddock else noPool }
        else (s1.modChannel ch fun c => { c with eraseFails := c.eraseFails + 1 }).retireBlock ch o.block
      if level then s2.levelFrom ch (s.wearLimit - 50) else s2

/-- ARRAY_OPERATION_COMPLETE -/
def execArrayOperationComplete (channel target : Nat) (good : Bool) (s : State) : Host.Outcome State Fault Refusal :=
  guarded (channelOk channel && decide (target < 8)) (arrayOperationCompleteEff channel target good) s

/-- The write sequences of a paddock of which a unit is still only in the buffer. -/
def Paddock.pendingSeqs (p : Paddock) : List Nat :=
  dedupNat (p.units.flatMap fun u => (u.2.writes.filter (·.buffered)).map (·.sequence))

/-- Of the writes under one, newest first, those that stay: while what is above them is not wholly programmed (R281), or their own
program is pending (R265). -/
def keepUnder (open' : List Nat) : Bool → List PastWrite → List PastWrite
  | _, [] => []
  | needed, w :: l =>
    let rest := keepUnder open' (needed && open'.contains w.sequence) l
    if needed || w.buffered then w :: rest else rest

/-- A write all of whose units are programmed needs what was under it no longer (R281), and a deallocated unit under which
nothing is left needs no entry. -/
def Paddock.forget (p : Paddock) : Paddock :=
  let open' := p.pendingSeqs
  { p with units := (SMap.mapVals p.units fun _ x =>
      { x with under := keepUnder open' (open'.contains x.sequence) x.under }).filter fun u => u.2.mapped || !u.2.under.isEmpty }

/-- The units of a page programmed with good status: what was buffered leaves the buffer, and what moved has moved (R264, R265). A
page of paddock 0 is in its map. -/
def State.pageGood (s : State) (ch : Nat) (o : ArrayOp) : State :=
  if o.paddock = 0 then
    s.modChannel ch fun c =>
      { c with own := o.units.foldl (fun m u =>
          let q := (SMap.find? m u.1).map (·.2)
          if (if o.move then q = some u.2 else q.all fun q => decide (q ≤ u.2)) then
            SMap.set m u.1 (physOf ch o.block o.page 0 / 4, u.2)
          else m) c.own }
  else
    (s.modPaddock o.paddock fun p =>
      { p with units := (List.range o.units.length).foldl (fun m i =>
          let (u, q) := o.units.getD i (0, 0)
          SMap.update m u fun x => x.modWrite q fun w =>
            if w.buffered != o.move then { w with buffered := false,
                                                  phys := physOf ch o.block o.page i } else w) p.units }.forget).journalled
      ch o.paddock ((o.units.headD (0, 0)).1) o.units.length

/-- The program of a target whose status may be read: it completed in an earlier stride (R265). -/
def State.toRead (s : State) (ch t : Nat) : Option ArrayOp :=
  (SMap.getD (s.channel ch).done t []).find? fun o => !o.move && decide (o.ended < s.stride)

/-- The running copy of the firmware. -/
def State.fwRunning (s : State) : FwCopy := if s.node.copyB then s.node.copies.2 else s.node.copies.1

/-- Does an array operation of the boot area's share stand on a channel, waiting, under way or not yet read? -/
def FlashChannel.bootBusy (c : FlashChannel) : Bool :=
  let boot (o : ArrayOp) : Bool := o.cls = bootShare
  c.waiting.any boot || c.queues.any (fun q => q.2.any boot) || c.done.any fun q => q.2.any boot

/-- R404: once the last page of an update is programmed and read back, its copy record is written, with a sequence number one above
the running copy's, and the request is answered with the new firmware digest. -/
def State.fwWritten (s : State) (ch : Nat) : State :=
  match s.node.update with
  | none => s
  | some (b, image) =>
    if ch ≠ (if b then 16 else 0) || (s.channel ch).bootBusy then s
    else
      let c : FwCopy := { sequence := s.fwRunning.sequence + 1, length := image.length, digest := sha384 image, image := image }
      ({ s with node := { s.node with
          update := none, copies := if b then (s.node.copies.1, c) else (c, s.node.copies.2) } }).happened .firmwareWritten stOk
        (some unstamped) (fwDigest image)

/-- PROGRAM_STATUS_READ (R265): a good page leaves the buffer; a failed program retires its block and is programmed
again, ahead of newer pages, until it has failed on three blocks in turn (R282). -/
def programStatusReadEff (ch t : Nat) (s : State) : State :=
  match s.toRead ch t with
  | none => s
  | some o =>
    let s1 := s.modChannel ch fun c =>
      { c with done := SMap.update c.done t fun d => d.erase o }
    if o.failed = some false then (s1.pageGood ch o).fwWritten ch
    else
      let s2 := (s1.modChannel ch fun c => { c with progFails := c.progFails + 1 }).retireBlock ch o.block
      let again (tries : Nat) (asked : List Nat) (s : State) : State := s.modChannel ch fun c =>
        { c with waiting :=
            { o with block := 0, page := 0, charged := 0, failed := none, tries := tries, asked := asked } :: c.waiting }
      let lost := o.units.filter fun p => (s.writeOf o.paddock p.1 p.2).any (·.buffered)
      if o.tries < 2 ∨ o.paddock = 0 then again (o.tries + 1) [] s2
      else if s.askable o.paddock then
        -- the partner's copy is fetched on class 6 and programmed again
        again 0 (lost.map (·.1)) (s2.send 6 s.partner (toLe 2 o.paddock ++ (lost.flatMap fun u => toLe 8 u.1)))
      else s2.deferFail ch o.paddock lost

/-- PROGRAM_STATUS_READ -/
def execProgramStatusRead (channel target : Nat) (s : State) : Host.Outcome State Fault Refusal :=
  guarded (channelOk channel && decide (target < 8)) (programStatusReadEff channel target) s

/-- R269, R266: at a boundary, the map entries of pages moved with good status switch; a failed move retires its block
and is made again. -/
def State.switchMoves (s : State) (ch : Nat) : State :=
  let moved := ((s.channel ch).done.flatMap (·.2)).filter (·.move)
  let s1 := s.modChannel ch fun c =>
    { c with done := (SMap.mapVals c.done fun _ d => d.filter fun o => !o.move).filter fun p => !p.2.isEmpty }
  let s2 := moved.foldl (fun s o =>
    if o.failed = some false then s.pageGood ch o
    else ((s.modChannel ch fun c => { c with progFails := c.progFails + 1 }).retireBlock ch o.block).wait ch
      { o with block := 0, page := 0, charged := 0, failed := none, tries := o.tries + 1 }) s1
  if moved.isEmpty then s else s2.levelStep ch

/-! ## Pages of committed units (R265) -/

/-- Committed units of a paddock on a channel that wait for a page, in commit order. -/
def State.unpaged (s : State) (pad ch : Nat) : List (Nat × PastWrite) :=
  let taken := (s.channel ch).ops.flatMap fun o => if o.paddock = pad && !o.move then o.units else []
  sortBy (fun a b => decide (a.2.sequence < b.2.sequence ∨ (a.2.sequence = b.2.sequence ∧ a.1 < b.1)))
    ((((SMap.find? s.flash.paddocks pad).map (·.units)).getD []).flatMap fun u =>
      if unitChannel pad u.1 = ch then
        (u.2.writes.filter fun w => w.buffered && !taken.contains (u.1, w.sequence)).map fun w => (u.1, w)
      else [])

/-- What a new page of a paddock is charged. -/
def State.pageNeedOf (s : State) (pad : Nat) : Nat := pageNeed (((SMap.find? s.flash.paddocks pad).map (·.op)).getD 7)

/-- Form pages of four units while four wait. -/
def State.formPages (pad ch : Nat) : Nat → State → State
  | 0, s => s
  | fuel + 1, s =>
    let w := s.unpaged pad ch
    if w.length < 4 then s
    else
      let cls := ((SMap.find? s.flash.paddocks pad).map (·.cls)).getD 0
      State.formPages pad ch fuel
        (s.wait ch (pageOp pad cls ((w.take 4).map fun u => (u.1, u.2.sequence)) false (s.pageNeedOf pad)))

/-- PAGE_PADDING_TIMEOUT (R265): units that have waited 16 strides for companions go in a page padded with zeros. -/
def pagePaddingTimeoutEff (pad ch : Nat) (s : State) : State :=
  let w := s.unpaged pad ch
  if w.any fun u => u.2.since + 16 ≤ s.stride then
    s.wait ch (pageOp pad (((SMap.find? s.flash.paddocks pad).map (·.cls)).getD 0)
      ((w.take 4).map fun u => (u.1, u.2.sequence)) false (s.pageNeedOf pad))
  else s

/-- PAGE_PADDING_TIMEOUT: paddocks are numbered 0 to 4,095. -/
def execPagePaddingTimeout (paddock channel : Nat) (s : State) : Host.Outcome State Fault Refusal :=
  guarded (channelOk channel && decide (paddock < 4096)) (pagePaddingTimeoutEff paddock channel) s

/-! ## Periodic work -/

/-- WEAR_LEVEL_CHECK (R269): in the commit window of every 64th stride. -/
def wearLevelCheckEff (s : State) : State :=
  if s.running && s.clk.window = 0 && s.stride % 64 = 0 then
    (List.range 32).foldl (fun s ch => if (s.channel ch).levelling.isSome then s else s.levelFrom ch s.wearLimit) s
  else s

/-- WEAR_LEVEL_CHECK -/
def execWearLevelCheck (s : State) : Host.Outcome State Fault Refusal := guarded true wearLevelCheckEff s

/-- The array and read units that a checkpoint takes on a channel: context 0 reads the map and the unit record and programs a
page of each in SLC mode, on the journal's and the boot area's shares, whose pages it reads back. The manual does not print
their sizes (DESIGN CHOICE, log entry 88). -/
def FlashChannel.checkpoint (c : FlashChannel) : FlashChannel :=
  let read (share : Nat) (c : FlashChannel) : FlashChannel := if 0 < c.shareLeft share then c.shareRead share none else c
  let c := read bootShare (read journalShare (read checkpointShare (read checkpointShare c)))
  { c with waiting := c.waiting ++ [slcOp journalShare, slcOp bootShare], journal := [] }

/-- A page of the map journal waits on every channel whose map has changed (R264). -/
def State.writeJournal (s : State) : State :=
  { s with flash := { s.flash with channels := SMap.mapVals s.flash.channels fun _ c =>
      if c.journal.isEmpty || c.waiting.any (fun o => o.cls = journalShare) then c
      else { c with waiting := c.waiting ++ [slcOp journalShare] } } }

/-- A map entry of a user paddock as a number (R264): the physical unit, the mapped and the deferred-error bit. -/
def StoredUnit.entry (x : StoredUnit) : Nat := x.phys % 2 ^ 34 + 2 ^ 34 * bit01 x.mapped + 2 ^ 35 * bit01 x.deferredBit

/-- The maps as a checkpoint stores them (R264). -/
def State.mapsNow (s : State) : MapCheckpoint :=
  { stride := s.stride,
    user := SMap.mapVals s.flash.paddocks fun _ p => p.units.map fun u => (u.1, u.2.entry),
    own := SMap.mapVals s.flash.channels fun _ c => c.own }

/-- MAP_CHECKPOINT (R264, R418, R433): every 4,096 strides context 0 writes each map, the last stride and the unit record's
hours. -/
def mapCheckpointEff (s : State) : State :=
  if s.running && decide (s.stride % 4096 = 0) && (s.flash.map.all fun m => m.stride ≠ s.stride) then
    let t := (List.range 32).foldl (fun s ch => s.modChannel ch FlashChannel.checkpoint) s
    let s := t
    { s with flash := { s.flash with checkpoints := s.flash.checkpoints + 1, map := some s.mapsNow, lastStride := s.stride },
             node := { s.node with record := { s.node.record with hours := s.node.record.hours + 4096 * strideCycles s.clk.code } } }
  else s

/-- MAP_CHECKPOINT -/
def execMapCheckpoint (s : State) : Host.Outcome State Fault Refusal := guarded true mapCheckpointEff s

/-- The bin of a temperature (R270). -/
def tempBin (c : Int) : Nat := if c < 30 then 0 else min 15 (1 + ((c - 30) / 5).toNat)

/-- Add a sample's time to a log: 4,096 strides (R270). -/
def TempLog.sample (t : TempLog) (first : Bool) (thresholds : List Nat) (cycles : Nat) (c : Int) : TempLog :=
  { max := if first || decide (t.max < c) then c else t.max,
    above := (List.range 3).map fun i =>
      t.above.getD i 0 + (if ((thresholds.getD i 0 : Nat) : Int) < c then cycles else 0),
    history := (List.range 16).map fun i => t.history.getD i 0 + (if i = tempBin c then cycles else 0) }

/-- The flash temperature thresholds (R270). -/
def State.thresholds (s : State) : List Nat := (s.node.tack.map (·.thresholds)).getD [70, 85, 95]

/-- The hottest of a list of readings. -/
def hottest : List Int → Int
  | [] => 0
  | [a] => a
  | a :: l => max a (hottest l)

/-- Has a log no sample yet? -/
def TempLog.empty (t : TempLog) : Bool := t.history.all fun x => x = 0

/-- FLASH_TEMPERATURE_SAMPLE (R270), every 4,096 strides: the hottest package of each channel, and of the node. -/
def flashTemperatureSampleEff (celsius : List Int) (s : State) : State :=
  if celsius.isEmpty || !s.node.railsOn || s.stride % 4096 ≠ 0 || s.flash.sampled = some s.stride then s
  else
    let cyc := 4096 * strideCycles s.clk.code
    let s1 := (List.range (min 32 celsius.length)).foldl (fun s ch =>
      s.modChannel ch fun c => { c with temp := c.temp.sample c.temp.empty s.thresholds cyc (celsius.getD ch 0),
                                        now := celsius.getD ch 0 }) s
    { s1 with
      flash := { s1.flash with
        sampled := some s.stride,
        temp := s1.flash.temp.sample s1.flash.temp.empty s.thresholds cyc (hottest (celsius.take 32)) },
      tel := { s1.tel with node := { s1.tel.node with temps := s1.tel.node.temps.set 3 (8 * hottest (celsius.take 32)) } } }

/-- FLASH_TEMPERATURE_SAMPLE -/
def execFlashTemperatureSample (celsius : List Int) (s : State) : Host.Outcome State Fault Refusal :=
  guarded true (flashTemperatureSampleEff celsius) s

/-! ## The health log (R270) -/

/-- Minutes of a count of cycles at 2.5 GHz. -/
def minutesOf (cycles : Nat) : Nat := cycles / 150000000000

/-- The health log of a channel, or of the node for `none`, from the published snapshot. -/
def State.healthLog (s : State) (scope : Option Nat) : Bytes :=
  let snap := s.shown
  let chan (c : Nat) : FlashChannel := SMap.getD snap.flash c s.flash.fresh
  let cs := match scope with | some c => [c] | none => List.range 32
  let low := cs.foldl (fun b c => if (chan c).spare < (chan b).spare then c else b) (cs.getD 0 0)
  let total (g : FlashChannel → Nat) : Nat := sumNat (cs.map fun c => g (chan c))
  let counts := cs.flatMap fun c => (chan c).blocks.map fun b => b.2.count
  let closed := cs.flatMap fun c => ((chan c).blocks.filter fun b => b.2.st = 2).map fun b => b.2.count
  let least := closed.foldl (fun (b : Option Nat) x => some (match b with | none => x | some y => min x y)) none
  let wear := maxNat (cs.map fun c =>
    sumNat ((chan c).blocks.map fun b => b.2.count) * 100 / (max 1 (s.flash.targets * s.flash.dieBlocks) * max 1 s.flash.endurance))
  let t := match scope with | some c => (chan c).temp | none => snap.flashTemp
  toLe 8 snap.first ++ toLe 4 (total (·.spare)) ++ toLe 4 (chan low).spare ++ toLe 1 low ++
    toLe 1 (bit01 snap.flashReadOnly) ++ toLe 2 (min 255 wear) ++ toLe 4 s.flash.endurance ++ toLe 4 (maxNat counts) ++
    toLe 4 (least.getD 0) ++ toLe 8 (total (·.corrected)) ++ toLe 8 (total (·.retries)) ++ toLe 8 (total (·.uncorrectable)) ++
    toLe 8 (total (·.progFails)) ++ toLe 8 (total (·.eraseFails)) ++ toLe 8 (total (·.deferredErrors)) ++
    toLe 8 (total (·.hostUnits)) ++ toLe 8 (total (·.programmed)) ++ toLeInt 2 t.max ++
    ((List.range 3).flatMap fun i => toLe 1 (s.thresholds.getD i 0)) ++ zeros 3 ++
    ((List.range 3).flatMap fun i => toLe 4 (minutesOf (t.above.getD i 0))) ++ zeros 12 ++
    (List.range 16).flatMap fun i => toLe 4 (minutesOf (t.history.getD i 0))

/-- FLASH_HEALTH_LOG (R270) -/
def flashHealthLogEff (f : Nat) (s : State) : State :=
  s.serve f 0x0607 fun s q =>
    let c := q.field 0 1
    if c = 0xFF then report s (s.healthLog none)
    else if c < 32 then report s (s.healthLog (some c))
    else refuse s stBadValue (zeros 192)

/-- FLASH_HEALTH_LOG -/
def execFlashHealthLog (f : Nat) (s : State) : Host.Outcome State Fault Refusal := guarded (funcOk f) (flashHealthLogEff f) s

end Sys2Proof.Machine
end

