-- ==== Sys2Proof/Machine/Rs.lean ====
section
/-! DEFINITION. The check symbols of HBM blocks: the Reed-Solomon code of R183, the poison pattern of R185, and reading
and poisoning blocks (R184 to R186). -/

namespace Sys2Proof.Machine

/-! ## GF(2^16) -/

/-- Multiply by alpha = 2 modulo 0x1_A011 (R183). -/
def gfDouble (x : Nat) : Nat := if 2 ^ 15 ≤ x then Nat.xor (2 * x) 0x1A011 else 2 * x

/-- Multiply: the bits of `y` from the highest down, `n` of them. -/
def gfMulBits (x y : Nat) : Nat → Nat → Nat
  | 0, acc => acc
  | n + 1, acc => gfMulBits x y n (if bitOf y n then Nat.xor (gfDouble acc) x else gfDouble acc)

/-- The field's product. -/
def gfMul (x y : Nat) : Nat := gfMulBits x y 16 0

/-- alpha^j. -/
def gfAlpha : Nat → Nat
  | 0 => 1
  | j + 1 => gfDouble (gfAlpha j)

/-- The codeword's symbols from the highest power down: d_0 to d_31, then p_0 to p_3 (R183). -/
def codeword (data check : Bytes) : List Nat :=
  (List.range 32).map (fun i => le data (2 * i) 2) ++ (List.range 4).map fun j => le check (2 * j) 2

/-- The syndrome S_j = c(alpha^j). -/
def syndrome (c : List Nat) (j : Nat) : Nat := c.foldl (fun acc d => Nat.xor (gfMul (gfAlpha j) acc) d) 0

/-- The four syndromes. -/
def syndromes (c : List Nat) : List Nat := (List.range 4).map (syndrome c)

/-- Multiply a polynomial (highest coefficient first) by x - alpha^j. -/
def gfTimesRoot (g : List Nat) (j : Nat) : List Nat :=
  (List.range (g.length + 1)).map fun i =>
    Nat.xor (g.getD i 0) (if i = 0 then 0 else gfMul (gfAlpha j) (g.getD (i - 1) 0))

/-- The generator's coefficients below x^4. -/
def rsGenerator : List Nat := (gfTimesRoot (gfTimesRoot (gfTimesRoot (gfTimesRoot [1] 0) 1) 2) 3).drop 1

/-- The valid check symbols of a block: the remainder of d(x) x^4 by the generator (R183). -/
def rsCheck (data : Bytes) : List Nat :=
  let g := rsGenerator
  (List.range 32).foldl (fun r i =>
    let fb := Nat.xor (le data (2 * i) 2) (r.getD 0 0)
    (List.range 4).map fun j => Nat.xor (r.getD (j + 1) 0) (gfMul fb (g.getD j 0))) [0, 0, 0, 0]

/-- The check field that holds symbols p_0 to p_3. -/
def checkWord (p : List Nat) : BitVec 64 := BitVec.ofNat 64 (leNat (p.flatMap (toLe 2)))

/-- The check field of the poison pattern (R185). -/
def poisonCheck : BitVec 64 := checkWord [0xB7E1, 0x4C2D, 0, 0]

/-- What decoding a block finds (R183, R185). -/
inductive BlockRead where
  | clean (data : Bytes)
  | corrected (data : Bytes)
  | poison
  | uncorrectable
  deriving DecidableEq, Repr

/-- The data of a block that can be used. -/
def BlockRead.data : BlockRead → Bytes
  | .clean d => d
  | .corrected d => d
  | _ => zeros 64

/-- Is a block poison or uncorrectable (R186)? -/
def BlockRead.lost : BlockRead → Bool
  | .poison => true
  | .uncorrectable => true
  | _ => false

/-- The power of x at which a single error explains the syndromes. -/
def errorPlace (s0 s1 s2 s3 : Nat) : Option Nat :=
  if s0 = 0 then none
  else (List.range 36).find? fun i =>
    let x := gfAlpha i
    s1 = gfMul s0 x && s2 = gfMul s1 x && s3 = gfMul s2 x

/-- Decode a block with its check field: no error, the poison syndromes, one symbol in error, or neither (R183, R185). -/
def rsDecode (data check : Bytes) : BlockRead :=
  let s := syndromes (codeword data check)
  if s = [0, 0, 0, 0] then .clean data
  else if s = syndromes (codeword (zeros 64) (toLe 8 poisonCheck.toNat)) then .poison
  else
    match errorPlace (s.getD 0 0) (s.getD 1 0) (s.getD 2 0) (s.getD 3 0) with
    | none => .uncorrectable
    | some i =>
      -- power 35 - k is data symbol k; powers 3 to 0 are the check symbols
      if i < 4 then .corrected data
      else .corrected (putAt data (2 * (35 - i)) (toLe 2 (Nat.xor (le data (2 * (35 - i)) 2) (s.getD 0 0))))

/-- Decode HBM block `b`, whose check field is valid unless it is listed. -/
def State.blockRead (s : State) (b : Nat) : BlockRead :=
  let data := s.hbmRead (64 * b) 64
  match SMap.find? s.mem.checks b with
  | none => .clean data
  | some w => rsDecode data (toLe 8 w.toNat)

/-- Write the poison pattern to `n` blocks from block `b` (R185). -/
def State.poisonBlocks (s : State) (b n : Nat) : State :=
  (List.range n).foldl (fun s i =>
    let t := s.hbmWrite (64 * (b + i)) (zeros 64)
    { t with mem := { t.mem with checks := SMap.set t.mem.checks (b + i) poisonCheck } }) s

/-! ## What the controllers count, and accesses that wait for a unit (R180, R185, R188) -/

/-- Stack counters at zero. -/
def StackCounters.zero : StackCounters :=
  { reads := 0, writes := 0, loads := 0, corrected := 0, uncorrectable := 0, poisonReads := 0, poisonWritten := 0,
    refused := 0, byBurst := 0, byLock := 0, longest := 0, clipped := 0 }

/-- Change a stack's counters. -/
def State.modStack (s : State) (stack : Nat) (g : StackCounters → StackCounters) : State :=
  { s with nmu := { s.nmu with counters := SMap.alter s.nmu.counters stack StackCounters.zero g } }

/-- The stack of an HBM address: 64 GB each (R201). -/
def stackOf (address : Nat) : Nat := address / 2 ^ 36

/-- Count what reading a block found (R183, R185, R188). -/
def State.countRead (s : State) (address : Nat) (r : BlockRead) : State :=
  s.modStack (stackOf address) fun c =>
    match r with
    | .clean _ => c
    | .corrected _ => { c with corrected := c.corrected + 1 }
    | .poison => { c with poisonReads := c.poisonReads + 1 }
    | .uncorrectable => { c with uncorrectable := c.uncorrectable + 1 }

/-- Is an HBM block inside a row that a unit has locked (R180, R181)? -/
def State.lockedBlock (s : State) (block : Nat) : Bool :=
  s.nmu.units.any fun u => u.2.lock.any fun l => l.1 ≤ block && block < l.1 + l.2

/-- Is a read or write burst under way in the bank of a block (R167, R180)? -/
def State.burstOver (s : State) (block : Nat) : Bool :=
  s.nmu.units.any fun u => u.1 = block / 2 ^ 24 && u.2.burst.any fun x => x.kind ≠ 2 && x.bank = block / 32 % 64

/-- Does an access to a block wait for a unit: for the end of a row lock, or of the burst in its bank (R180)? -/
def State.unitHolds (s : State) (block : Nat) : Bool := s.lockedBlock block || s.burstOver block

/-- The HBM blocks that `n` bytes from `address` up touch. -/
def rangeBlocks (address n : Nat) : List Nat :=
  if n = 0 then []
  else (List.range ((address + n - 1) / 64 + 1 - address / 64)).map fun i => address / 64 + i

/-- Does a die-class access to `n` bytes wait for a unit (R180)? A command that makes one while it waits has no effect but the
count of the delay, and is sent again when the unit has ended (log entry 35). -/
def State.dieWaits (s : State) (address n : Nat) : Bool :=
  s.nmu.units.any (fun u => u.2.lock.isSome || u.2.burst.isSome) && (rangeBlocks address n).any s.unitHolds

/-- Count an access that waits: for a row lock, else for a burst (R188). -/
def State.countWait (s : State) (block : Nat) : State :=
  s.modStack (stackOf (64 * block)) fun c =>
    if s.lockedBlock block then { c with byLock := c.byLock + 1 } else { c with byBurst := c.byBurst + 1 }

/-- A die-class access waits: it is counted once (R180, R188), and no burst that is not booked starts in its way. -/
def State.countDieWait (s : State) (address n : Nat) : State :=
  if s.nmu.dieWaiters.any fun w => w.1 = address && w.2.1 = n then s
  else
    let b := ((rangeBlocks address n).find? s.unitHolds).getD (address / 64)
    let t := s.countWait b
    { t with nmu := { t.nmu with dieWaiters := t.nmu.dieWaiters ++ [(address, n, s.lockedBlock b)] } }

/-- An access that waited for a row lock has been granted (R188): the delay is at most 562 cycles (R181) and free below that (log
entry 1). -/
def State.longerDelay (s : State) (stack : Nat) : State :=
  (s.draw).modStack stack fun c => { c with longest := max c.longest (s.drawn.toNat % 563) }

/-- A die-class access is granted: it waits no longer. -/
def State.endDieWait (s : State) (address n : Nat) : State :=
  match s.nmu.dieWaiters.find? fun w => w.1 = address && w.2.1 = n with
  | none => s
  | some w =>
    let t := { s with nmu := { s.nmu with dieWaiters := s.nmu.dieWaiters.erase w } }
    if w.2.2 then t.longerDelay (stackOf address) else t

/-- Count what the controller found in reading `n` bytes from an HBM address (R185, R188). -/
def State.countRange (s : State) (address n : Nat) : State :=
  (rangeBlocks address n).foldl (fun s b => s.countRead (64 * b) (s.blockRead b)) s

end Sys2Proof.Machine
end

