-- ==== Sys2Proof/Machine/Storage.lean ====
section
/-! DEFINITION. Paddocks, storage queues and storage commands (R271 to R283). -/

namespace Sys2Proof.Machine

/-! ## Paddock messages -/

/-- Is a class a program class of a context: kind 5, fed by no ring (R265)? -/
def State.programClassOk (s : State) (ctx k : Nat) : Bool :=
  (s.gaitNow.1.cls? k).any fun c => c.context = ctx && c.kind = 5 && c.ring = 0xFFFF

/-- The paddock that a PADDOCK_CREATE payload describes (R271). -/
def parsePaddock (ctx : Nat) (b : Bytes) : Paddock :=
  { context := ctx, mirrored := bitOf (byteAt b 2) 0, op := byteAt b 3, share := le b 4 2, cls := le b 6 2,
    capacity := le b 8 8, st := 0, units := [], ranges := [] }

/-- The paddocks open or accepted. -/
def State.allPaddocks (s : State) : List (Nat × Paddock) :=
  s.flash.paddocks ++ s.waiting.filterMap fun c => match c with | .createPaddock n p => some (n, p) | _ => none

/-- R271: blocks of a channel that are left for user paddocks once spares, retired blocks, the pools of the paddocks
there are, paddock 0's among them, and deleted paddocks' blocks that await erase (R272) are set aside. -/
def State.freeBlocksOn (s : State) (ch : Nat) : Nat :=
  let c := s.channel ch
  let out := (c.blocks.filter fun b =>
    b.2.st = 3 || (b.2.st = 5 && b.2.paddock ≠ 0 && !(s.allPaddocks.any fun p => p.1 = b.2.paddock))).length
  (s.targetList ch).length * s.flash.dieBlocks -
    (c.spare + out + s.ownBlocks ch + sumNat (s.allPaddocks.map fun p => p.2.poolBlocks s.flash.targets))

/-- PADDOCK_CREATE (R271) -/
def paddockCreateEff (f : Nat) (s : State) : State :=
  s.serve f 0x0601 fun s q =>
    let n := q.field 0 2
    let p := parsePaddock q.context q.payload
    let taken := s.allPaddocks.any fun x => x.1 = n
    if n = 0 ∨ 4096 ≤ n ∨ taken ∨ p.op < 7 ∨ 50 < p.op ∨ p.share = 0 ∨ 480 < p.share ∨ p.capacity = 0 ∨
        p.capacity % 2048 ≠ 0 ∨ !s.programClassOk q.context p.cls then refuse s stBadValue
    else if ((List.range 32).any fun ch => s.freeBlocksOn ch < p.poolBlocks s.flash.targets) ∨
        (s.acceptedReservation q.context).hbm < s.hbmInUse q.context + 5 * p.capacity ∨
        60 * s.flash.targets < p.share + sumNat (s.allPaddocks.map fun x => x.2.share) then refuse s stNoResource
    else if s.refusesWrites then refuse s stReadOnly
    else accept s (.createPaddock n p)

/-- PADDOCK_CREATE -/
def execPaddockCreate (f : Nat) (s : State) : Host.Outcome State Fault Refusal := guarded (funcOk f) (paddockCreateEff f) s

/-- Is a paddock being deleted? -/
def State.deletingPaddock (s : State) (n : Nat) : Bool :=
  s.waiting.any fun c => match c with | .deletePaddock i => i = n | _ => false

/-- PADDOCK_DELETE (R272): its reply waits for the last admitted command. -/
def paddockDeleteEff (f : Nat) (s : State) : State :=
  s.serve f 0x0602 fun s q =>
    let n := q.field 0 2
    match SMap.find? s.flash.paddocks n with
    | none => refuse s stBadValue
    | some p =>
      if p.st = 3 ∨ s.deletingPaddock n then refuse s stBadValue
      else if p.context ≠ q.context then refuse s stNotOwner
      else ((defer s (.paddockDeleted n) q s.nextBoundary).schedule (.deletePaddock n), none)

/-- PADDOCK_DELETE -/
def execPaddockDelete (f : Nat) (s : State) : Host.Outcome State Fault Refusal := guarded (funcOk f) (paddockDeleteEff f) s

/-- Does a paddock's buffer hold a write of a unit? -/
def Paddock.buffers (p : Paddock) (unit sequence : Nat) : Bool :=
  (SMap.find? p.units unit).any fun x => x.writes.any fun w => w.buffered && w.sequence = sequence

/-- Units that stand in the buffer or are admitted to it, with those that only an admitted READ still uses (R265, R280). -/
def State.buffered (s : State) (on : Nat → Nat → Bool) : Nat :=
  sumNat (s.flash.paddocks.map fun p => sumNat (p.2.units.map fun u =>
    if on p.1 u.1 then (u.2.writes.filter (·.buffered)).length else 0)) +
  sumNat (s.flash.commands.map fun c =>
    if c.2.op = 2 ∧ c.2.status = stOk then ((List.range c.2.count).filter fun i => on c.2.paddock (c.2.start + i)).length
    else (c.2.cached.filter fun u => on c.2.paddock u.1 &&
      !((SMap.find? s.flash.paddocks c.2.paddock).any fun p => p.buffers u.1 u.2)).length) +
  sumNat (s.flash.mirrored.map fun w => ((List.range w.data.length).filter fun i => on w.paddock (w.start + i)).length)

/-- Blocks of a paddock that await erase (R272). -/
def State.awaitingErase (s : State) (n : Nat) : Nat :=
  sumNat (s.flash.channels.map fun c => (c.2.blocks.filter fun b => b.2.st = 5 && b.2.paddock = n).length)

/-- The figures a snapshot keeps of a paddock: mapped and buffered units, deferred errors pending, blocks awaiting
erase (R273). -/
def State.paddockFigures (s : State) (n : Nat) (p : Paddock) : List Nat :=
  [(p.units.filter fun u => u.2.mapped).length, s.buffered fun k _ => k = n,
   (p.units.filter fun u => u.2.deferredBit).length, s.awaitingErase n]

/-- PADDOCK_STATUS (R273) -/
def paddockStatusEff (f : Nat) (s : State) : State :=
  s.serve f 0x0603 fun s q =>
    let n := q.field 0 2
    match SMap.find? s.flash.paddocks n with
    | none => refuse s stBadValue (zeros 48)
    | some p =>
      if p.context ≠ q.context then refuse s stNotOwner (zeros 48)
      else
        let g (i : Nat) : Nat := (SMap.getD s.shown.paddocks n []).getD i 0
        let st := if p.st = 1 ∧ s.refusesWrites then 2 else p.st
        report s (toLe 2 n ++ toLe 2 p.context ++ toLe 1 st ++ toLe 1 (bit01 p.mirrored) ++ toLe 1 p.op ++ zeros 1 ++
          toLe 8 p.capacity ++ toLe 8 (g 0) ++ toLe 4 (g 1) ++ toLe 4 (g 2) ++ toLe 8 (g 3) ++ toLe 8 s.shown.first)

/-- PADDOCK_STATUS -/
def execPaddockStatus (f : Nat) (s : State) : Host.Outcome State Fault Refusal := guarded (funcOk f) (paddockStatusEff f) s

/-! ## Storage queues (R275, R276) -/

/-- Is a class a storage class of a context (R275)? -/
def State.storageClassOk (s : State) (ctx k : Nat) : Bool :=
  (s.gaitNow.1.cls? k).any fun c => c.context = ctx && c.kind = 5

/-- The queue that a STORAGE_QUEUE_CREATE payload describes. -/
def parseQueue (ctx func : Nat) (b : Bytes) : Ring :=
  { context := ctx, func := func, kind := 5, depth := le b 2 2, slotSize := 64, subAddr := le b 8 8, cplAddr := le b 16 8,
    cplSlot := 32, vector := le b 24 2, maxK := 0, maxWidth := 0, descent := 0, maxDepth := 0, maxM := 0, shardCap := 0,
    channelCap := 0, linkRounds := 0, maxShards := 0, priority := byteAt b 4, cls := le b 6 2, isOpen := true,
    closing := false, stopped := false, lost := false, subTail := 0, cplHead := 0, cplTail := 0, seenTail := 0, seenHead := 0,
    admitted := 0, stepped := 0, reserved := 0, written := [], placed := 0 }

/-- Queues being opened. -/
def State.openingQueues (s : State) : List Nat :=
  s.waiting.filterMap fun c => match c with | .openQueue i _ => some i | _ => none

/-- STORAGE_QUEUE_CREATE (R275) -/
def storageQueueCreateEff (f : Nat) (s : State) : State :=
  s.serve f 0x0604 fun s q =>
    let b := q.payload
    let id := le b 0 2
    let r := parseQueue q.context f b
    let taken := SMap.has s.queues id || s.openingQueues.contains id
    if 1024 ≤ id ∨ taken ∨ r.depth < 2 ∨ 4096 < r.depth ∨ 3 < r.priority ∨ r.subAddr % 4096 ≠ 0 ∨ r.cplAddr % 4096 ≠ 0 ∨
        r.vector = 0 ∨ 31 < r.vector ∨ !s.storageClassOk q.context r.cls ∨ s.gaitNow.1.largest r.cls < 64 then
      refuse s stBadValue
    else if 1024 ≤ s.queues.length + s.openingQueues.length then refuse s stNoResource
    else accept s (.openQueue id r)

/-- STORAGE_QUEUE_CREATE -/
def execStorageQueueCreate (f : Nat) (s : State) : Host.Outcome State Fault Refusal :=
  guarded (funcOk f) (storageQueueCreateEff f) s

/-- STORAGE_QUEUE_DELETE (R275) -/
def storageQueueDeleteEff (f : Nat) (s : State) : State :=
  s.serve f 0x0605 fun s q =>
    let id := q.field 0 2
    let leaving := s.waiting.any fun c => match c with | .closeQueue i => i = id | _ => false
    match SMap.find? s.queues id with
    | none => refuse s stBadValue
    | some r =>
      if !r.isOpen ∨ r.closing ∨ leaving then refuse s stBadValue
      else if r.context ≠ q.context then refuse s stNotOwner
      else ((defer s (.queueDeleted id) q s.nextBoundary).schedule (.closeQueue id), none)

/-- STORAGE_QUEUE_DELETE -/
def execStorageQueueDelete (f : Nat) (s : State) : Host.Outcome State Fault Refusal :=
  guarded (funcOk f) (storageQueueDeleteEff f) s

/-- STORAGE_WEIGHTS_SET (R276) -/
def storageWeightsSetEff (f : Nat) (s : State) : State :=
  s.serve f 0x0606 fun s q =>
    let k := q.field 0 2
    let w := [q.field 2 1, q.field 3 1, q.field 4 1]
    if !s.storageClassOk q.context k ∨ w.contains 0 then refuse s stBadValue else accept s (.weights k w)

/-- STORAGE_WEIGHTS_SET -/
def execStorageWeightsSet (f : Nat) (s : State) : Host.Outcome State Fault Refusal :=
  guarded (funcOk f) (storageWeightsSetEff f) s

/-! ## Closing -/

/-- A closing queue whose last admitted command has completed: its deletion is answered, and its id is free from the next
boundary (R275). -/
def State.queueDrained (s : State) (id : Nat) : State :=
  match SMap.find? s.queues id with
  | some r =>
    if r.closing && r.isOpen && !(s.flash.commands.any fun c => c.2.queue = id) then
      (s.happened (.queueDeleted id) stOk none).modQueue id fun r => { r with isOpen := false }
    else s
  | none => s

/-- A deleted paddock's blocks on a channel wait for their erase; its pages are no longer programmed (R272). -/
def FlashChannel.dropPaddock (c : FlashChannel) (n : Nat) : FlashChannel :=
  let erasing (k : Nat) : Bool := c.queues.any fun q => q.2.any fun o => o.kind = 2 && o.block = k
  let mine := (c.blocks.filter fun b => b.2.paddock = n && b.2.st ≠ 0 && b.2.st ≠ 3 && !erasing b.1).map (·.1)
  let c := { c with blocks := SMap.mapVals c.blocks fun _ b => if b.paddock = n ∧ b.st = 0 then { b with paddock := noPool } else b }
  { mine.foldl (fun c k => c.modBlock k fun b => { b with st := 5 }) c with
    waiting := (c.waiting.filter fun o => o.paddock ≠ n) ++ mine.map fun k => eraseOp n eraseShare k false,
    levelling := if c.levelling.any mine.contains then none else c.levelling }

/-- A deleting paddock whose last admitted command has completed: the map is freed, its blocks wait for their erase in
context 0's budget, and the deletion is answered (R272). -/
def State.paddockDrained (s : State) (n : Nat) : State :=
  match SMap.find? s.flash.paddocks n with
  | some p =>
    if p.st = 3 && !(s.flash.commands.any fun c => c.2.paddock = n) then
      let s1 := { s with flash := { s.flash with
        paddocks := SMap.erase s.flash.paddocks n,
        mirrored := s.flash.mirrored.filter fun w => w.paddock ≠ n,
        channels := SMap.mapVals s.flash.channels fun _ c => c.dropPaddock n } }
      s1.happened (.paddockDeleted n) stOk none
    else s
  | none => s

/-! ## Storage commands (R277 to R282) -/

/-- A completion entry (R279). -/
def StorageCommand.completion (c : StorageCommand) : Bytes :=
  toLe 4 c.cmdId ++ toLe 2 c.status ++ toLe 2 c.flags ++ toLe 8 c.admitAt ++ toLe 8 c.errStart ++ toLe 4 c.errCount ++
    toLe 2 c.queue ++ zeros 2

/-- Write a command's completion and be done with it. -/
def State.finishCommand (s : State) (n : Nat) (c : StorageCommand) : State :=
  let s1 := s.completeQueue c.queue c.admitAt c.order c.completion
  let s2 := { s1 with flash := { s1.flash with commands := SMap.erase s1.flash.commands n } }
  (s2.queueDrained c.queue).paddockDrained c.paddock

/-- The command that an entry spells (R278). -/
def parseCommand (queue order admitAt len : Nat) (elastic : Bool) (b : Bytes) : StorageCommand :=
  { queue := queue, order := order, cmdId := le b 0 4, op := byteAt b 4, inHbm := bitOf (byteAt b 5) 0,
    paddock := le b 6 2, start := le b 8 8, count := le b 16 4, address := le b 24 8, data := [], admitAt := admitAt, len := len,
    elastic := elastic, status := stOk, errStart := 0, errCount := 0, flags := 0, held := true, read := false, pages := [],
    cached := [], asked := [] }

/-- Are the unit count and the opcode such that the command names `count` units to transfer? -/
def StorageCommand.transfers (c : StorageCommand) : Bool := (c.op = 1 || c.op = 2) && decide (1 ≤ c.count ∧ c.count ≤ 64)

/-- The units of the class's admission count that a command takes, by channel (R277). -/
def StorageCommand.takes (c : StorageCommand) : List (Nat × Nat) :=
  if c.transfers then
    (List.range c.count).foldl (fun m i => SMap.alter m (unitChannel c.paddock (c.start + i)) 0 (· + 1)) ([] : SMap Nat)
  else [(unitChannel c.paddock c.start, 1)]

/-- Key of a storage class's units admitted on a channel in this stride. -/
def storageKey (cls ch : Nat) : Nat := 2 ^ 20 + 32 * cls + ch

/-- Does a command fit into its class's room, on channels in service (R52, R277)? -/
def State.storageFits (s : State) (cls : Nat) (c : StorageCommand) : Bool :=
  c.takes.all fun p => s.unitUp 0x0A p.1 && decide (SMap.getD s.gaits.classAdmitted (storageKey cls p.1) 0 + p.2 ≤ s.admitLimit cls)

/-- R277, R265: is there buffer room for a WRITE in the paddock's share and on each of its channels? -/
def State.bufferRoom (s : State) (paddock start count : Nat) : Bool :=
  match SMap.find? s.flash.paddocks paddock with
  | none => true
  | some p =>
    decide (s.buffered (fun n _ => n = paddock) + count ≤ 64 * p.share) &&
    ((List.range (min count 32)).all fun i =>
      let ch := unitChannel paddock (start + i)
      let mine := ((List.range count).filter fun j => unitChannel paddock (start + j) = ch).length
      s.buffered (fun n u => unitChannel n u = ch) + mine ≤ 120 * s.flash.targets)

/-- R384: does a context own every granule of an HBM range? -/
def State.ownsHbm (s : State) (ctx a n : Nat) : Bool :=
  decide (a + n ≤ hbmSize) &&
  ((List.range ((a + n - 1) / granuleSize + 1 - a / granuleSize)).all fun i =>
    (SMap.find? s.mem.hbmTags (a / granuleSize + i)).any fun g => g.owner = ctx && g.st = 1)

/-- R282: the status of a command at admission, in the order of its table; `poison`: its source reads poison. -/
def State.commandStatus (s : State) (ctx : Nat) (b : Bytes) (c : StorageCommand) (poison : Bool) : Nat :=
  let known := decide (1 ≤ c.op ∧ c.op ≤ 3)
  let limit := if c.op = 3 then 65536 else 64
  if known && decide (c.count = 0 ∨ limit < c.count) then stBadLength
  else if 1 < byteAt b 5 ∨ !zeroAt b 20 4 ∨ !zeroAt b 32 32 then stBadFormat
  else if !known then stBadValue
  else
    match SMap.find? s.flash.paddocks c.paddock with
    | none => stBadValue
    | some p =>
      if p.st = 0 ∨ p.st = 3 ∨ p.capacity < c.start + c.count ∨ c.address % 4096 ≠ 0 ∨ (c.op = 3 ∧ c.address ≠ 0) ∨
          (c.op = 2 ∧ c.start / 64 ≠ (c.start + c.count - 1) / 64) then stBadValue
      else if p.context ≠ ctx ∨ (c.inHbm ∧ c.op ≠ 3 ∧ !s.ownsHbm ctx c.address (4096 * c.count)) then stNotOwner
      else if !p.ranges.isEmpty then stDeferredWrite
      else if c.op ≠ 1 ∧ (s.refusesWrites ∨ p.st = 2) then stReadOnly
      else if c.op = 2 ∧ poison then stPoisoned
      else stOk

/-- A unit as a READ admitted now sees it (R280): its data, or none where its deferred-error bit is set. -/
def Paddock.view (p : Paddock) (u : Nat) : Option Bytes :=
  match SMap.find? p.units u with
  | some x => if x.deferredBit then none else some (if x.mapped then x.data else zeros 4096)
  | none => some (zeros 4096)

/-- Where flash holds a unit that a READ reads there: none where the buffer holds it or it is not mapped, or not readable. -/
def Paddock.pageOf (p : Paddock) (u : Nat) : Option Nat :=
  (SMap.find? p.units u).bind fun x => if x.buffered || !x.mapped || x.deferredBit then none else some x.phys

/-- The units from `start` that stand in the buffer, by write sequence. -/
def Paddock.cachedFrom (p : Paddock) (start count : Nat) : List (Nat × Nat) :=
  (p.units.filter fun u => decide (start ≤ u.1 ∧ u.1 < start + count) && u.2.buffered).map fun u => (u.1, u.2.sequence)

/-- The first range of failing units of a READ, from what was read. -/
def StorageCommand.marked (c : StorageCommand) : StorageCommand :=
  let bad := (List.range c.data.length).filter fun i => (c.data.getD i []).isEmpty
  match rangesOf bad with
  | [] => c
  | (a, n) :: _ => { c with status := stMediaError, errStart := c.start + a, errCount := n }

/-- The message that mirrors a write to the partner (R274), or a deallocation (R318), which names its units in place of data. -/
def mirrorMessage (number : Nat) (c : StorageCommand) : Bytes :=
  toLe 4 number ++ toLe 2 c.paddock ++ toLe 2 (if c.op = 3 then 0 else c.count) ++ toLe 8 c.start ++ toLe 8 (c.admitAt + 2) ++
    (if c.op = 3 then toLe 4 c.count else c.data.flatten)

/-- The source data of a WRITE: HBM, or what DMA brought; with whether any of it reads poison. -/
def State.writeData (s : State) (c : StorageCommand) (h : QueueHead) : List Bytes × Bool :=
  let n := min c.count 64
  if c.inHbm then
    let blocks (i : Nat) : List BlockRead := (List.range 64).map fun j => s.blockRead ((c.address + 4096 * i) / 64 + j)
    ((List.range n).map fun i => (blocks i).flatMap BlockRead.data,
     (List.range n).any fun i => (blocks i).any BlockRead.lost)
  else ((List.range n).map fun i => fit 4096 (h.data.getD i ([], false)).1, (h.data.take n).any (·.2))

/-- Does a WRITE take its data from HBM of its own context that the command may read? -/
def State.takesHbm (s : State) (ctx : Nat) (c : StorageCommand) : Bool :=
  c.op = 2 && c.inHbm && c.transfers && s.ownsHbm ctx c.address (4096 * c.count)

/-- Admit a command: checked, its data taken in or its map looked up, a request tag held for each unit (R280). -/
def State.admitCommand (s : State) (cls : Nat) (r : Ring) (h : QueueHead) : State :=
  let b := fit 64 h.entry
  let k? := s.gaitNow.1.cls? cls
  let c := parseCommand h.queue r.admitted s.stride ((k?.map (·.len)).getD 3) (k?.any (·.elastic)) b
  let (data, poison) := if c.op = 2 then s.writeData c h else ([], false)
  let st := s.commandStatus r.context b c poison
  let s0 := if s.takesHbm r.context c then (s.countRange c.address (4096 * c.count)).endDieWait c.address (4096 * c.count) else s
  let s1 := (s0.modQueue h.queue fun r =>
    { r with admitted := r.admitted + 1, stepped := r.stepped + 1, reserved := r.reserved + 1 }).ctxCount r.context
      fun x => { x with admitted := x.admitted + 1 }
  let s2 := { s1 with gaits := { s1.gaits with
    classAdmitted := c.takes.foldl (fun (m : SMap Nat) (p : Nat × Nat) => SMap.alter m (storageKey cls p.1) 0 (· + p.2)) s1.gaits.classAdmitted } }
  let p? := SMap.find? s.flash.paddocks c.paddock
  let mirrored := p?.any fun p => p.mirrored
  let c1 : StorageCommand :=
    if st = stDeferredWrite then
      let (a, n) := ((p?.map (·.ranges)).getD []).headD (0, 0)
      { c with status := st, errStart := a, errCount := n }
    else if st ≠ stOk then { c with status := st, flags := if st = stPoisoned then 4 else 0 }
    else if c.op = 1 then
      { c with
        data := (List.range c.count).map fun i => ((p?.bind fun p => p.view (c.start + i))).getD [],
        pages := (List.range c.count).map fun i => p?.bind fun p => p.pageOf (c.start + i),
        cached := (p?.map fun p => p.cachedFrom c.start c.count).getD [] }
    else { c with data := data, held := !(c.op = 2 && mirrored) }
  let n := s2.flash.nextCommand
  let s3 := { s2 with flash := { s2.flash with
    commands := SMap.set s2.flash.commands n c1, nextCommand := n + 1 } }
  let s4 := if st = stDeferredWrite then s3.modPaddock c.paddock fun p => { p with ranges := p.ranges.drop 1 }
    else if st = stOk ∧ c.op ≠ 3 then s3.takeShare s.stride cls 0 c.count
    else s3
  if st = stOk ∧ c.op ≠ 1 ∧ mirrored ∧ !s.isFenced s.partner then s4.send 6 s.partner (mirrorMessage n c1) else s4

/-- The next queue after `last` among candidates, ascending and round again. -/
def nextQueue (last : Option Nat) (qs : List Nat) : Option Nat :=
  let sorted := sortBy (fun a b => decide (a < b)) qs
  match last with
  | none => sorted.head?
  | some l => match sorted.find? fun q => decide (l < q) with
    | some q => some q
    | none => sorted.head?

/-- Key of the queue that did not fit and is chosen first at the next stride. -/
def heldKey (cls : Nat) : Nat := 2 ^ 20 + cls

/-- R277: choose the queue whose head is next, with the credits and round-robin places that the choice leaves. -/
def State.nextStorage (s : State) (cls : Nat) (ready : List (Nat × Nat)) : Option (Nat × State) :=
  let at' (p : Nat) : List Nat := (ready.filter fun q => q.2 = p).map (·.1)
  let lastOf (p : Nat) : Option Nat := SMap.find? s.gaits.served (4 * cls + p)
  let serve (p q : Nat) (cr : List Nat) : State := { s with gaits := { s.gaits with
    served := SMap.set s.gaits.served (4 * cls + p) q, credits := SMap.set s.gaits.credits cls cr } }
  let cr := SMap.getD s.gaits.credits cls [0, 0, 0]
  let held := (SMap.find? s.gaits.served (heldKey cls)).bind fun q => if ready.any fun x => x.1 = q then some q else none
  match held with
  | some q => some (q, { s with gaits := { s.gaits with served := SMap.erase s.gaits.served (heldKey cls) } })
  | none =>
    match nextQueue (lastOf 0) (at' 0) with
    | some q => some (q, serve 0 q cr)
    | none =>
      let live := [1, 2, 3].filter fun p => !(at' p).isEmpty
      let cr1 := if live.any fun p => 0 < cr.getD (p - 1) 0 then cr else SMap.getD s.gaits.weights cls [1, 1, 1]
      match live.find? fun p => 0 < cr1.getD (p - 1) 0 with
      | none => none
      | some p =>
        (nextQueue (lastOf p) (at' p)).map fun q => (q, serve p q (cr1.set (p - 1) (cr1.getD (p - 1) 0 - 1)))

/-- R277's loop over the heads that DMA read, each queue's in ring order. A WRITE whose HBM source waits for a unit (R180) stays
at its queue's head, as one that does not fit (log entry 35). -/
def State.admitStorage (cls : Nat) : Nat → List QueueHead → State → State
  | 0, _, s => s
  | fuel + 1, heads, s =>
    let ready := (s.queues.filter fun q =>
      q.2.cls = cls && s.mayAdmit q.2 && heads.any fun h => h.queue = q.1).map fun q => (q.1, q.2.priority)
    match s.nextStorage cls ready with
    | none => s
    | some (id, t) =>
      match heads.find? fun h => h.queue = id, SMap.find? s.queues id with
      | some h, some r =>
        let c := parseCommand id r.admitted s.stride 3 false (fit 64 h.entry)
        let waits := s.takesHbm r.context c && s.dieWaits c.address (4096 * c.count)
        if s.storageFits cls c && (c.op ≠ 2 || !c.transfers || s.bufferRoom c.paddock c.start c.count) && !waits then
          State.admitStorage cls fuel (heads.erase h) (t.admitCommand cls r h)
        else
          let t := if waits then t.countDieWait c.address (4096 * c.count) else t
          { t with gaits := { t.gaits with served := SMap.set t.gaits.served (heldKey cls) id } }
      | _, _ => t

/-- STORAGE_ADMISSION (R277) -/
def storageAdmissionEff (cls : Nat) (heads : List QueueHead) (s : State) : State :=
  if s.working then State.admitStorage cls heads.length heads s else s

/-- STORAGE_ADMISSION: a gait has at most 16,384 classes (R46). -/
def execStorageAdmission (cls : Nat) (heads : List QueueHead) (s : State) : Host.Outcome State Fault Refusal :=
  guarded (decide (cls < 16384)) (storageAdmissionEff cls heads) s

/-- Change a unit of a paddock if it still stands where a READ found it. -/
def Paddock.modAt (p : Paddock) (u phys : Nat) (g : StoredUnit → StoredUnit) : Paddock :=
  { p with units := SMap.update p.units u fun x => if x.mapped && !x.buffered && decide (x.phys = phys) then g x else x }

/-- Change a command in flight. -/
def State.modStorage (s : State) (n : Nat) (g : StorageCommand → StorageCommand) : State :=
  { s with flash := { s.flash with commands := SMap.update s.flash.commands n g } }

/-- A unit that nobody supplies is a media error; its deferred-error bit is set (R267, R282). -/
def State.mediaError (s : State) (n : Nat) (c : StorageCommand) (u phys : Nat) : State :=
  (s.modPaddock c.paddock fun p => p.modAt u phys fun x => { x with deferredBit := true }).modStorage n fun c =>
    { c with data := c.data.set (u - c.start) [] }

/-- What a READ does with a unit that stays uncorrectable (R282, R283): a live partner of a mirrored paddock is asked for it; else
it is a media error. -/
def State.readFails (s : State) (n : Nat) (c : StorageCommand) (p : Paddock) (u phys : Nat) : State :=
  if p.mirrored && !s.isFenced s.partner then
    (s.send 6 s.partner (toLe 2 c.paddock ++ toLe 8 u ++ toLe 4 1)).modStorage n fun c => { c with asked := c.asked ++ [u] }
  else s.mediaError n c u phys

/-- One unit of a READ in S+1: a page read where its map lookup found it in flash, with what the read met (R258, R261, R280). A
block whose read needed all three retries is retired (R267). -/
def State.readUnit (s : State) (n : Nat) (c : StorageCommand) (reads : List FlashRead) (u : Nat) : State :=
  match SMap.find? s.flash.paddocks c.paddock, c.pages.getD (u - c.start) none with
  | some p, some phys =>
    let ch := unitChannel c.paddock u
    let r := readOf reads u
    let s1 := s.modChannel ch fun k => (k.pageRead (some (phys / 2 ^ 26 % 8))).countRead r
    let s2 := if retires r then s1.retireBlock ch (physKey phys) else s1
    if r.lost then s2.readFails n c p u phys else s2
  | _, _ => s

/-- Deliver a READ's units to its buffer (R280); failing units are not returned. A delivery to HBM compares the granules' tags
with the command's context (R384). -/
def State.deliver (s : State) (c : StorageCommand) : State :=
  let ctx := ((SMap.find? s.queues c.queue).map (·.context)).getD 0
  (List.range c.data.length).foldl (fun s i =>
    let d := c.data.getD i []
    let a := c.address + 4096 * i
    if d.isEmpty then s
    else if c.inHbm then (if s.ownsHbm ctx a 4096 then s.hbmWrite a d else s.tagFault ctx)
    else s.dma (((SMap.find? s.queues c.queue).map (·.func)).getD 0) a d) s

/-- Is the present stride the one that a READ's plan gives a share, or for an elastic class one after it (R37, R38)? -/
def StorageCommand.due (c : StorageCommand) (stride off : Nat) : Bool :=
  decide (c.admitAt + off ≤ stride) && (c.elastic || decide (stride + 3 ≤ c.admitAt + c.len + off))

/-- Put committed units into a paddock's buffer (R264, R265). -/
def State.commitUnits (s : State) (pad start : Nat) (data : List Bytes) (single host : Bool) : State :=
  let q := s.flash.sequence + 1
  let under (p : Paddock) (u : Nat) : List PastWrite := ((SMap.find? p.units u).map (·.writes)).getD []
  let s1 := { s with flash := { s.flash with sequence := q } }.modPaddock pad fun p =>
    { p with units := (List.range data.length).foldl (fun m i => SMap.set m (start + i)
        { data := data.getD i [], mapped := true, deferredBit := false, phys := 0, buffered := true, sequence := q,
          since := s.stride, under := under p (start + i), group := data.length, single := single }) p.units }.forget
  let chans := dedupNat ((List.range data.length).map fun i => unitChannel pad (start + i))
  chans.foldl (fun s ch =>
    let n := ((List.range data.length).filter fun i => unitChannel pad (start + i) = ch).length
    let s2 := (if host then s.modChannel ch fun c => { c with hostUnits := c.hostUnits + n } else s).journalled ch pad start n
    State.formPages pad ch data.length s2) s1

/-- Deallocate units (R280): they read as zeros. What of them is still to be programmed stays in the buffer until then (R265). -/
def State.dropUnits (s : State) (pad start count : Nat) : State :=
  let q := s.flash.sequence + 1
  ({ s with flash := { s.flash with sequence := q } }.modPaddock pad fun p =>
    { p with units := SMap.mapVals p.units fun u x =>
        if start ≤ u ∧ u < start + count then
          { data := zeros 4096, mapped := false, deferredBit := false, phys := 0, buffered := false, sequence := q, since := s.stride,
            under := x.writes, group := 1, single := false }
        else x }.forget).journalled (unitChannel pad start) pad start count

/-- The partner's data is written back over a failed unit that still stands where it was read, where the buffer has room for it
(R265, R283). -/
def State.writeBack (s : State) (pad u phys : Nat) (d : Bytes) : State :=
  let same := ((SMap.find? s.flash.paddocks pad).bind fun p => SMap.find? p.units u).any fun x =>
    x.mapped && !x.buffered && decide (x.phys = phys)
  if same && s.bufferRoom pad u 1 then s.commitUnits pad u [d] false false else s

/-- A unit that a READ asked of the partner (R283): its data is delivered and written back, and the completion carries DETOUR; a
unit that the partner cannot supply is a media error. -/
def State.takeDetour (n : Nat) (c : StorageCommand) (answers : List PartnerUnit) (s : State) (u : Nat) : State :=
  let phys := (c.pages.getD (u - c.start) none).getD 0
  match answerOf answers u with
  | some d =>
    (s.writeBack c.paddock u phys d).modStorage n fun c =>
      { c with data := c.data.set (u - c.start) d, flags := if bitOf c.flags 1 then c.flags else c.flags + 2 }
  | none => s.mediaError n c u phys

/-- STORAGE_READ (R280): in S+1 the units are read; in S+2 what the partner supplies is taken in (R283), and they are delivered and
the completion is written. A delivery to HBM waits for a unit that holds its blocks (R180). -/
def storageReadEff (n : Nat) (reads : List FlashRead) (answers : List PartnerUnit) (s : State) : State :=
  match SMap.find? s.flash.commands n with
  | none => s
  | some c =>
    if !s.working ∨ c.op ≠ 1 ∨ c.status ≠ stOk then s
    else if !c.read then
      if !c.due s.stride 1 then s
      else
        ((List.range c.count).foldl (fun s i => s.readUnit n c reads (c.start + i)) s).modStorage n fun c => { c with read := true }
    else if !c.due s.stride 2 then s
    else if c.inHbm && s.dieWaits c.address (4096 * c.count) then s.countDieWait c.address (4096 * c.count)
    else
      let t := c.asked.foldl (State.takeDetour n c answers) s
      let d := (SMap.find? t.flash.commands n).getD c
      ((t.endDieWait c.address (4096 * c.count)).deliver d).finishCommand n d.marked

/-- STORAGE_READ -/
def execStorageRead (command : Nat) (reads : List FlashRead) (answers : List PartnerUnit) (s : State) :
    Host.Outcome State Fault Refusal :=
  guarded true (storageReadEff command reads answers) s

/-- R30: a READ whose plan is over with its units not delivered is stopped. Its completion reports the whole range as failed
(DESIGN CHOICE, log entry 89: an entry has no late flag). -/
def State.stopRead (s : State) (n : Nat) (c : StorageCommand) : State :=
  s.finishCommand n { c with status := stMediaError, errStart := c.start, errCount := c.count }

/-- MIRRORED_WRITE_RECEIVE (R274): the partner's write is staged in the paddock's share and acked; a write that cannot be
staged is not. A deallocation is staged too (R318). One for a paddock that is gone is discarded and counted (R390). -/
def mirroredWriteReceiveEff (m : Bytes) (s : State) : State :=
  let number := le m 0 4
  let pad := le m 4 2
  let count := le m 6 2
  let start := le m 8 8
  let stage (w : MirroredWrite) : State := { s with flash := { s.flash with mirrored := s.flash.mirrored ++ [w] } }
  match SMap.find? s.flash.paddocks pad with
  | none => s.scheduledDrop
  | some p =>
    if !s.running || !p.mirrored || p.st ≠ 1 || s.isFenced s.partner || decide (le m 16 8 < s.stride) then s
    else if count = 0 then
      stage { paddock := pad, start := start, data := [], commit := le m 16 8, held := true, number := number, units := le m 24 4 }
    else if s.refusesWrites || decide (p.capacity < start + count ∨ 64 < count) || !s.bufferRoom pad start count then s
    else
      (stage { paddock := pad, start := start, data := (List.range count).map fun i => fit 4096 (m.drop (24 + 4096 * i)),
               commit := le m 16 8, held := false, number := number, units := 0 }).send 6 s.partner (toLe 4 number)

/-- MIRRORED_WRITE_RECEIVE -/
def execMirroredWriteReceive (message : Bytes) (s : State) : Host.Outcome State Fault Refusal :=
  guarded true (fun s => s.arrives 6 s.partner message (mirroredWriteReceiveEff message)) s

/-- STORAGE_DETOUR_READ (R283): from its detour reserve, the partner serves the units of an uncorrectable mirrored READ, for its
answer and to be written back. -/
def storageDetourReadEff (pad start count : Nat) (reads : List FlashRead) (s : State) : State :=
  match SMap.find? s.flash.paddocks pad with
  | none => s
  | some p =>
    match s.gaitNow.1.freeClassOf p.context 7 with
    | none => s
    | some d =>
      if !s.working || !p.mirrored || !s.classRoom d then s
      else
        let one (s : State) (u : Nat) : State :=
          match p.pageOf u with
          | some phys =>
            let r := readOf reads u
            let t := s.modChannel (unitChannel pad u) fun k => (k.pageRead (some (phys / 2 ^ 26 % 8))).countRead r
            if retires r then t.retireBlock (unitChannel pad u) (physKey phys) else t
          | none => s
        let got (u : Nat) : Bytes :=
          if reads.any fun r => r.unit = u && r.lost then [] else (p.view u).getD []
        (((List.range count).foldl (fun s i => one s (start + i)) (s.admitTo d)).send 6 s.partner
          (toLe 2 pad ++ toLe 8 start ++ toLe 4 count ++ (List.range count).flatMap fun i => got (start + i)))

/-- STORAGE_DETOUR_READ: a READ names at most 64 units. -/
def execStorageDetourRead (paddock start count : Nat) (reads : List FlashRead) (s : State) : Host.Outcome State Fault Refusal :=
  guarded (decide (paddock < 4096 ∧ count ≤ 64)) (storageDetourReadEff paddock start count reads) s

/-! ## The commit of writes and deallocations (R280, R274) -/

/-- The commit of one command at the boundary of S+2. A mirrored write whose partner is fenced by then commits alone: it carries
SINGLE (R221, R274). -/
def State.commitCommand (s : State) (n : Nat) (c : StorageCommand) : State :=
  if c.status ≠ stOk then s.finishCommand n c
  else if c.op = 3 then (s.dropUnits c.paddock c.start c.count).finishCommand n c
  else
    let mirrored := (SMap.find? s.flash.paddocks c.paddock).any fun p => p.mirrored
    let alone := mirrored && s.isFenced s.partner
    if c.held || alone then
      (s.commitUnits c.paddock c.start c.data alone true).finishCommand n { c with flags := if alone then 1 else 0 }
    else s.finishCommand n { c with status := stTargetLost }

/-- The commit of the partner's mirrored write or deallocation, where the confirm is held, else it is void. -/
def State.commitMirrored (s : State) (w : MirroredWrite) : State :=
  if !w.held then s
  else if w.units ≠ 0 then s.dropUnits w.paddock w.start w.units
  else s.commitUnits w.paddock w.start w.data false false

/-- R280, R274: at the boundary of S+2, refused commands complete, and writes and deallocations commit in admission order; so do
the partner's. Both members take those of the node with the lower id first, so that they end alike (R318; DESIGN CHOICE, log
entry 35). -/
def State.commitStorage (s : State) : State :=
  let due := s.flash.commands.filter fun c => c.2.admitAt + 2 ≤ s.stride && (c.2.op ≠ 1 || c.2.status ≠ stOk)
  let mirrored := s.flash.mirrored.filter fun w => w.commit ≤ s.stride
  let own (s : State) : State := due.foldl (fun s c => s.commitCommand c.1 c.2) s
  let theirs (s : State) : State := mirrored.foldl State.commitMirrored s
  let s1 := { s with flash := { s.flash with mirrored := s.flash.mirrored.filter fun w => s.stride < w.commit } }
  if s.me < s.partner then theirs (own s1) else own (theirs s1)

/-- Request tags that storage commands in flight hold: one a unit in each stride of their plan (R33, R280). -/
def State.storageTags (s : State) : Nat :=
  sumNat ((s.flash.commands.filter fun c => c.2.status = stOk && c.2.op ≠ 3).map fun c => c.2.count)

/-- The partner's ack of a mirrored write (R274, R219): the reply is held and a confirm goes back. -/
def State.storageAck (s : State) (number : Nat) : State :=
  match SMap.find? s.flash.commands number with
  | some c =>
    if c.held ∨ c.op ≠ 2 ∨ c.status ≠ stOk then s
    else ({ s with flash := { s.flash with
        commands := SMap.update s.flash.commands number fun c => { c with held := true } } }).send 6 s.partner (toLe 4 number)
  | none => s

/-- The confirm of a mirrored write staged here. -/
def State.storageConfirm (s : State) (number : Nat) : State :=
  { s with flash := { s.flash with
      mirrored := s.flash.mirrored.map fun w => if w.number = number then { w with held := true } else w } }

end Sys2Proof.Machine
end

