-- ==== Sys2Proof/Machine/Fabric.lean ====
section
/-! DEFINITION. The fabric: its messages (R299 to R317), frames, header records and routing (R289 to R301), credits,
memory-semantic operations at their target (R304, R305, R309), ports (R315) and stride marks (R296 to R298, R447). -/

namespace Sys2Proof.Machine

/-! ## Route images (R299) -/

/-- Entry `n` of a route image's table. -/
def routeEntry (b : Bytes) (n : Nat) : Nat := byteAt b (64 + n / 2) / (if n % 2 = 0 then 1 else 16) % 16

/-- Nodes of a route table. -/
abbrev routeNodes : Nat := 20480

/-- Is a byte of a route image a port, or `no`? -/
def portByte (v no : Nat) : Bool := v < 9 || v = no

/-- The status of a route image for node `me`: structure as R46 step 1, then the faults of R299. The root alone has no primary
parent port. -/
def routeStatus (b : Bytes) (length me : Nat) : Nat :=
  let role (p : Nat) : Nat := byteAt b (8 + p)
  let entries := (List.range routeNodes).map (routeEntry b)
  let names := (entries.filter (· < 9)) ++ ([byteAt b 17, byteAt b 18].filter (· < 9))
  if le b 0 4 ≠ 0x4554_5552 ∨ le b 4 2 ≠ 1 then stBadFormat
  else if b.length ≠ length ∨ b.length ≠ 10304 then stBadLength
  else if (b.drop 32).take 16 ≠ (sha384 (b.drop 64)).take 16 then stBadCheck
  else if ((List.range 9).any fun p => 2 < role p) ∨ role 8 ≠ 1 ∨ le b 6 2 % 2 ≠ 0 ∨ !portByte (byteAt b 17) 0xFF ∨
      !portByte (byteAt b 18) 0xFF ∨ !zeroAt b 20 12 ∨ !zeroAt b 48 16 ∨
      (byteAt b 17 = 0xFF) ≠ (le b 6 2 = me) ∨ (entries.any fun e => 8 < e && e ≠ 0xE && e ≠ 0xF) then stBadFormat
  else if routeEntry b me ≠ 0xE ∨ (List.range routeNodes).any (fun n => n != me && routeEntry b n == 0xE) ∨
      routeEntry b (partnerOf me) ≠ 8 ∨ (names.any fun p => role p = 0) ∨ 6 < byteAt b 19 then stBadValue
  else stOk

/-- Put a route image in force (R299, R296). -/
def State.adoptRoute (s : State) (b : Bytes) : State :=
  { s with fab := { s.fab with
      root := le b 6 2, parent := byteAt b 17, backup := byteAt b 18, depth := byteAt b 19, image := b,
      routes := ((List.range routeNodes).map fun n => (n, routeEntry b n)).filter fun p => p.2 ≠ 0xF,
      ports := s.fab.ports.mapIdx fun p x => { x with role := byteAt b (8 + p) } } }

/-- FABRIC_ROUTE_SET (R299) on the image its DMA brings: held for the next remount. -/
def fabricRouteSetEff (f : Nat) (image : Bytes) (s : State) : State :=
  if !s.dmaOk f && (s.headRequest f 0x0701).any (fun q => q.field 8 8 % 64 = 0) then s
  else s.serve f 0x0701 fun s q =>
    let b := image.take (q.field 0 4)
    if q.field 8 8 % 64 ≠ 0 then refuse s stBadValue
    else if routeStatus b (q.field 0 4) s.me ≠ stOk then refuse s (routeStatus b (q.field 0 4) s.me)
    else report { s with fab := { s.fab with heldImage := some b } } []

/-- FABRIC_ROUTE_SET -/
def execFabricRouteSet (f : Nat) (image : Bytes) (s : State) : Host.Outcome State Fault Refusal :=
  guarded (funcOk f) (fabricRouteSetEff f image) s

/-! ## Windows and regions (R302, R308) -/

/-- A window as last accepted. -/
def State.acceptedWindow (s : State) (w : Nat) : Option Window :=
  s.waiting.foldl (fun x c => match c with
    | .window i d => if i = w then d else x
    | _ => x) (SMap.find? s.fab.windows w)

/-- FABRIC_WINDOW_SET (R302) -/
def fabricWindowSetEff (f : Nat) (s : State) : State :=
  s.serve f 0x0702 fun s q =>
    let w := q.field 0 2
    let isOpen := bitOf (q.field 2 1) 0
    let base := q.field 8 8
    let size := q.field 16 8
    let now := s.acceptedWindow w
    if w = 0 ∨ 511 < w then refuse s stBadValue
    else if now.any fun x => x.context ≠ q.context then refuse s stNotOwner
    else if !isOpen then (if now.isNone then refuse s stBadValue else accept s (.window w none))
    else if base % 2048 ≠ 0 ∨ size = 0 ∨ size % 2048 ≠ 0 then refuse s stBadValue
    else if !s.ownsHbm q.context base size then refuse s stNotOwner
    else accept s (.window w (some { context := q.context, base := base, size := size }))

/-- FABRIC_WINDOW_SET -/
def execFabricWindowSet (f : Nat) (s : State) : Host.Outcome State Fault Refusal := guarded (funcOk f) (fabricWindowSetEff f) s

/-- The region table as last accepted. -/
def State.acceptedRegions (s : State) : SMap Region :=
  s.waiting.foldl (fun m c => match c with
    | .region i (some r) => SMap.set m i r
    | .region i none => SMap.erase m i
    | _ => m) s.fab.regions

/-- FABRIC_REGION_SET (R308): an entry that stands for another context's window is not overwritten. -/
def fabricRegionSetEff (f : Nat) (s : State) : State :=
  s.serve f 0x0703 fun s q =>
    let n := q.field 0 2
    let w := q.field 2 2
    let r : Region := { window := w, owner := q.field 4 2 % 2 ^ 15, base := q.field 8 8, length := q.field 16 8 }
    let table := s.acceptedRegions
    let held := (SMap.find? table n).bind fun x => s.acceptedWindow x.window
    match s.acceptedWindow w with
    | none => refuse s stBadValue
    | some x =>
      if 4096 ≤ n then refuse s stBadValue
      else if x.context ≠ q.context ∨ held.any (fun y => y.context ≠ q.context) then refuse s stNotOwner
      else if !bitOf (q.field 6 1) 0 then accept s (.region n none)
      else if r.base % 64 ≠ 0 ∨ r.length = 0 ∨ r.length % 64 ≠ 0 ∨ x.size < r.base + r.length ∨
          table.any (fun p => p.1 != n && p.2.window == w && decide (p.2.base < r.base + r.length ∧ r.base < p.2.base + p.2.length))
        then refuse s stBadValue
      else accept s (.region n (some r))

/-- FABRIC_REGION_SET -/
def execFabricRegionSet (f : Nat) (s : State) : Host.Outcome State Fault Refusal := guarded (funcOk f) (fabricRegionSetEff f) s

/-! ## Gate lists and policers (R311 to R314) -/

/-- Port `p`. -/
def State.port (s : State) (p : Nat) : Port := s.fab.ports.getD p Port.reset

/-- The gate list of a FABRIC_GATE_STAGE payload. -/
def parseGates (b : Bytes) : GateList :=
  { entries := (List.range (byteAt b 1)).map fun i => (le b (16 + 8 * i) 4, byteAt b (20 + 8 * i)),
    weights := (List.range 4).map fun c => byteAt b (2 + c) }

/-- R311: is a gate list refused? -/
def GateList.bad (g : GateList) (cycles : Nat) : Bool :=
  !rising (g.entries.map (·.1)) || ((g.entries.getLast?.map (·.1)).getD 0 != cycles) ||
    (g.entries.any fun e => e.1 = 0 || !(bitOf e.2 0 && bitOf e.2 1)) || g.weights.contains 0

/-- FABRIC_GATE_STAGE (R311, R312) -/
def fabricGateStageEff (f : Nat) (s : State) : State :=
  s.serve f 0x0704 fun s q =>
    let b := q.payload
    let p := byteAt b 0
    let n := byteAt b 1
    let e := le b 8 8
    let g := parseGates b
    if b.length ≠ 16 + 8 * n then refuse s stBadLength
    else if 8 < p ∨ n = 0 ∨ 16 < n ∨ g.bad (strideCycles s.clk.code) ∨ (s.port p).role = 0 then refuse s stBadValue
    else if e < s.stride + 4 ∨ (s.port p).staged.any (fun x => decide (e ≤ x.1)) then refuse s stTooLate
    else (s.modPort p fun x => { x with staged := x.staged ++ [(e, g)] }, some (stOk, e, []))

/-- FABRIC_GATE_STAGE -/
def execFabricGateStage (f : Nat) (s : State) : Host.Outcome State Fault Refusal := guarded (funcOk f) (fabricGateStageEff f) s

/-- FABRIC_GATE_CANCEL (R312): too late beyond E − 3, whether or not the list has been adopted since. -/
def fabricGateCancelEff (f : Nat) (s : State) : State :=
  s.serve f 0x0705 fun s q =>
    let p := q.field 0 1
    let e := q.field 8 8
    if 8 < p then refuse s stBadValue
    else if e < s.stride + 3 then refuse s stTooLate
    else if !(s.port p).staged.any (fun x => x.1 == e) then refuse s stBadValue
    else report (s.modPort p fun x => { x with staged := x.staged.filter fun y => y.1 ≠ e }) []

/-- FABRIC_GATE_CANCEL -/
def execFabricGateCancel (f : Nat) (s : State) : Host.Outcome State Fault Refusal := guarded (funcOk f) (fabricGateCancelEff f) s

/-- R313: does a port's role police a class? -/
def polices (role cls : Nat) : Bool := (role = 1 && cls = 5) || (role = 2 && 4 ≤ cls && cls ≤ 7)

/-- FABRIC_POLICER_SET (R314): both buckets are full at adoption. -/
def fabricPolicerSetEff (f : Nat) (s : State) : State :=
  s.serve f 0x0706 fun s q =>
    let p := q.field 0 1
    let c := q.field 1 1
    let within (v lo hi : Nat) : Bool := decide (lo ≤ v ∧ v ≤ hi)
    let cir := q.field 4 4
    let pir := q.field 8 4
    let cbs := q.field 12 4
    let pbs := q.field 16 4
    if 8 < p ∨ !polices (s.port p).role c ∨ 2 < q.field 2 1 ∨ !within cir 1 200000 ∨ !within pir cir 200000 ∨
        !within cbs 64 (2 ^ 31) ∨ !within pbs 64 (2 ^ 31) then refuse s stBadValue
    else accept s (.policer p c
      { mode := q.field 2 1, cir := cir, pir := pir, cbs := cbs, pbs := pbs, tc := cbs, tp := pbs, green := 0, yellow := 0,
        red := 0 })

/-- FABRIC_POLICER_SET -/
def execFabricPolicerSet (f : Nat) (s : State) : Host.Outcome State Fault Refusal := guarded (funcOk f) (fabricPolicerSetEff f) s

/-- One port's 32 bytes of FABRIC_LINK_STATUS (R316). -/
def Port.status (p : Port) : Bytes :=
  toLe 1 p.st ++ toLe 1 p.reason ++ toLe 1 p.lanes.toNat ++ toLe 1 p.role ++ toLe 4 p.delay ++ toLe 8 p.corrected ++
    toLe 8 p.uncorrectable ++ toLe 4 p.discarded ++ toLe 2 p.peer ++ zeros 2

/-- FABRIC_LINK_STATUS (R316): as of the published snapshot. -/
def fabricLinkStatusEff (f : Nat) (s : State) : State :=
  s.serve f 0x0707 fun s _ =>
    report s (toLe 8 s.shown.first ++ (List.range 9).flatMap fun p =>
      match s.shown.ports[p]? with
      | some x => x.status
      | none => zeros 32)

/-- FABRIC_LINK_STATUS -/
def execFabricLinkStatus (f : Nat) (s : State) : Host.Outcome State Fault Refusal := guarded (funcOk f) (fabricLinkStatusEff f) s

/-! ## Ports (R315, R286) -/

/-- Nine ports (R286). -/
def portOk (p : Nat) : Bool := p < 9

/-- A membership event: the cause, the HERD_EVENT notification and the PLDM event, each on its own (R22, R338). -/
def State.herdEvent (s : State) (event reason subject decider port stride epoch : Nat) : State :=
  let body := toLe 1 event ++ toLe 1 reason ++ toLe 2 subject ++ toLe 2 decider ++ toLe 1 port ++ zeros 1 ++ toLe 8 stride ++
    toLe 8 epoch ++ zeros 8
  ((s.noteNode 0x070C stOk stride body).pfCause causeMembership).pldm 1 subject stride

/-- R315: a port out of service: its queued flits are discarded and counted, and so is each message whose last flit has not
come. -/
def Port.goDown (p : Port) : Port :=
  { p with
    st := 3, reason := 0x09, lanes := 0, leaving := [], headerHigh := none, groups := [], deficit := List.replicate 8 0,
    headerLow := none, records := [], ingress := p.ingress.filter fun x => x.left = 0,
    discarded := p.discarded + sumNat ((List.range 8).map p.queued) +
      (p.ingress.filter fun x => x.left ≠ 0 && !x.refused).length }

/-- R315: a port goes down until the next remount, and the loss is a membership event. -/
def State.portDown (s : State) (p : Nat) : State :=
  if (s.port p).st = 2 then
    let cut := (s.port p).ingress.filter fun x => x.left ≠ 0 && !x.refused
    ((cut.foldl (fun (s : State) x => s.lose x.cls x.body) s).modPort p Port.goDown).herdEvent 2 0x09 s.me 0xFFFF p s.stride
      s.memb.epoch
  else s

/-- PORT_DOWN (R315) -/
def execPortDown (port : Nat) (s : State) : Host.Outcome State Fault Refusal :=
  guarded (portOk port) (fun s => s.portDown port) s

/-- LASER_MODULE_DARK (R286): module A carries ports 0 to 3, module B ports 4 to 7. -/
def execLaserModuleDark (second : Bool) (s : State) : Host.Outcome State Fault Refusal :=
  guarded true (fun s => (if second then [4, 5, 6, 7] else [0, 1, 2, 3]).foldl State.portDown s) s

/-! ## Frames and credits (R289, R292, R293) -/

/-- The 72-bit frame control word of a frame's four control fields: bits [19:2] of each (R289). -/
def frameWord (fields : List Nat) : Nat := sumNat (fields.mapIdx fun i f => bitsOf f 2 18 * 2 ^ (18 * i))

/-- The ten group tags of a frame. -/
def frameTags (fields : List Nat) : List Nat := (List.range 10).map fun g => bitsOf (frameWord fields) (4 * g) 4

/-- The indexes of its codewords. -/
def frameIndexes (fields : List Nat) : List Nat := fields.map (· % 4)

/-- Its half of a header record. -/
def frameHalf (fields : List Nat) : Nat := bitsOf (frameWord fields) 40 32

/-- R289: is a whole frame discarded? -/
def frameBad (fields : List Nat) (uncorrectable : Nat) : Bool :=
  ((frameTags fields).any fun t => 8 < t) || frameIndexes fields ≠ [0, 1, 2, 3] || decide (0 < uncorrectable)

/-- The low word of a header record whose high word is due after a frame with a half: one whose length field is 0 starts no
record (R289). -/
def Port.halfTaken (p : Port) (half : Nat) : Option Nat :=
  match p.headerLow with
  | some _ => none
  | none => if half % 2 ^ 16 = 0 then none else some half

/-- The header record that a frame's half completes, if one was begun (R289). -/
def Port.joins (p : Port) (half : Nat) : List Word64 := (p.headerLow.map fun low => BitVec.ofNat 64 (low + half * 2 ^ 32)).toList

/-- The flits of a frame with their classes: group by group, the slots of a group in the order of the codewords (R288). -/
def frameFlits (codewords : List Codeword) : List (Nat × Bytes) :=
  ((frameTags (codewords.map (·.control))).mapIdx fun g tag =>
    if tag < 8 then codewords.map fun c => (tag, c.slots.getD g (zeros 64)) else []).flatten

/-- An operation record comes in (R291): one of zeros is padding, one of a discarded frame is lost (R293). -/
def State.recordFlit (s : State) (p : Nat) (bad : Bool) (cls : Nat) (flit : Bytes) : State :=
  if flit.all (· == 0) then s
  else if bad then (s.discard p 1).lose cls flit
  else s.modPort p fun x =>
    { x with ingress := x.ingress ++ [{ cls := cls, body := flit, left := 0, stride := s.stride, broken := false, refused := false }] }

/-- An entry of the ingress buffer with the next flit of its message in its place. -/
def Arriving.take (x : Arriving) (bad : Bool) (flit : Bytes) : Arriving :=
  { x with body := putAt x.body (x.body.length - 64 * x.left) flit, left := x.left - 1, broken := x.broken || bad }

/-- A flit of a message that is announced comes in (R290, R293, R301): it belongs to the first message of its class that has flits
to come; where there is none it is padding (R291). With the last flit, a message with a flit in a discarded frame, and a message of
classes 1 and 2 of a stride that is over, are discarded and counted. -/
def State.messageFlit (s : State) (p : Nat) (bad : Bool) (cls : Nat) (flit : Bytes) : State :=
  match (s.port p).ingress.find? fun x => x.cls = cls && x.left ≠ 0 with
  | none => s
  | some x =>
    let y := x.take bad flit
    let late := x.late s.stride
    if y.left ≠ 0 ∨ !(y.broken || y.refused || late) then
      s.modPort p fun z => { z with ingress := z.ingress.map fun e => if e = x then y else e }
    else
      let t0 := s.modPort p fun z => { z.frees cls (y.body.length / 64) with ingress := z.ingress.erase x }
      let known := y.refused && s.fab.lost.any fun l => l.1 = cls && l.2.2 = y.body
      let t := if known then t0 else t0.lose cls y.body
      if y.refused then t else if late && !y.broken then (t.discard p 1).scheduledLost else t.discard p 1

/-- A flit of a class comes in by a port. -/
def State.flit (p : Nat) (bad : Bool) (s : State) (f : Nat × Bytes) : State :=
  if announced f.1 then s.messageFlit p bad f.1 f.2 else s.recordFlit p bad f.1 f.2

/-- FRAME_RECEIVE (R288, R289, R293, R315): the frame as its port sent it, with how many of its codewords were corrected and how
many could not be. A discarded frame loses every message and record with a flit in it, and its half of a header record. -/
def frameReceiveEff (p : Nat) (codewords : List Codeword) (corrected uncorrectable : Nat) (s : State) : State :=
  let fields := codewords.map (·.control)
  let bad := frameBad fields uncorrectable
  if (s.port p).st ≠ 2 then s
  else
    let s1 := s.modPort p fun x =>
      { x with corrected := x.corrected + corrected, uncorrectable := x.uncorrectable + uncorrectable,
               badNow := x.badNow + uncorrectable,
               records := if bad then x.records else x.records ++ x.joins (frameHalf fields),
               headerLow := if bad then none else x.halfTaken (frameHalf fields) }
    let s2 := (frameFlits codewords).foldl (State.flit p bad) s1
    if 16 < (s2.port p).badNow then s2.portDown p else s2

/-- Are four codewords of message bits given: control fields of 20 bits, and 10 slots of 64 bytes (R288)? -/
def frameOk (codewords : List Codeword) (corrected uncorrectable : Nat) : Bool :=
  decide (codewords.length = 4 ∧ corrected + uncorrectable ≤ 4) &&
    codewords.all fun c => decide (c.control < 2 ^ 20 ∧ c.slots.length = 10) && c.slots.all fun b => b.length = 64

/-- FRAME_RECEIVE -/
def execFrameReceive (port : Nat) (codewords : List Codeword) (corrected uncorrectable : Nat) (s : State) :
    Host.Outcome State Fault Refusal :=
  guarded (portOk port && frameOk codewords corrected uncorrectable)
    (frameReceiveEff port codewords corrected uncorrectable) s

/-- A credit message: four bytes a class (R292, log entry 24). -/
def creditMessage (credits : List Nat) : Bytes := fit 64 ((List.range 8).flatMap fun c => toLe 4 (credits.getD c 0))

/-- CREDIT_RETURN (R292): the credits freed go back in a one-flit message of class 0, four bytes a class; a node that is fenced
sends none (R329). -/
def creditReturnEff (p : Nat) (s : State) : State :=
  if (s.port p).st ≠ 2 ∨ s.node.st = 2 then s
  else
    (s.sendPort 0 p (creditMessage (s.port p).freed)).modPort p fun x => { x with freed := List.replicate 8 0 }

/-- CREDIT_RETURN -/
def execCreditReturn (port : Nat) (s : State) : Host.Outcome State Fault Refusal :=
  guarded (portOk port) (creditReturnEff port) s

/-- CREDIT_MESSAGE_RECEIVE (R292): at most one credit per flit of the peer's 4,096-flit buffers; a fenced peer's message is
discarded and counted (R328). -/
def creditMessageReceiveEff (p : Nat) (credits : List Nat) (s : State) : State :=
  if (s.port p).st ≠ 2 then s
  else if s.isFenced (s.port p).peer then s.discard p 1
  else s.modPort p fun x =>
    { x with credits := (List.range 8).map fun c =>
        if c = 0 then x.credits.getD 0 0 else min 4096 (x.credits.getD c 0 + credits.getD c 0) }

/-- CREDIT_MESSAGE_RECEIVE -/
def execCreditMessageReceive (port : Nat) (credits : List Nat) (s : State) : Host.Outcome State Fault Refusal :=
  guarded (portOk port) (fun s => s.arrives 0 s.me (creditMessage credits) (creditMessageReceiveEff port credits)) s

/-- TRANSPORT_RESEND (R293): the message goes out again, unchanged. -/
def transportResendEff (h : Nat) (s : State) : State :=
  match s.fab.transports.find? fun t => t.handle = h with
  | none => s
  | some t =>
    let r := s.routeOf t.dest
    if !s.running then s
    else if !s.portOpen r then s.scheduledLost
    else (s.modPort r fun p => p.sends t.cls (headerRecord (ceilDiv t.body.length 64) t.dest t.cls s.me) t.body).emit t.cls
      t.dest t.body []

/-- TRANSPORT_RESEND -/
def execTransportResend (handle : Nat) (s : State) : Host.Outcome State Fault Refusal :=
  guarded true (transportResendEff handle) s

/-! ## Header records, policing and routing (R290, R300, R301, R313, R328) -/

/-- Fields of a header record (R290). -/
def hdrLength (h : Word64) : Nat := bitsOf h.toNat 0 16
/-- Destination. -/
def hdrDest (h : Word64) : Nat := bitsOf h.toNat 16 15
/-- Class. -/
def hdrClass (h : Word64) : Nat := bitsOf h.toNat 31 3
/-- Source. -/
def hdrSource (h : Word64) : Nat := bitsOf h.toNat 34 15
/-- Pre-colour. -/
def hdrYellow (h : Word64) : Bool := bitOf h.toNat 49
/-- Hops. -/
def hdrHops (h : Word64) : Nat := bitsOf h.toNat 50 2

/-- The two-rate three-colour marker of RFC 2698: 0 green, 1 yellow, 2 red, with the buckets after (R313). -/
def Policer.mark (p : Policer) (bytes : Nat) (yellow : Bool) : Nat × Policer :=
  if p.mode = 0 then (0, p)
  else if p.tp < bytes then (2, { p with red := p.red + 1 })
  else if (p.mode = 2 && yellow) || p.tc < bytes then (1, { p with tp := p.tp - bytes, yellow := p.yellow + 1 })
  else (0, { p with tp := p.tp - bytes, tc := p.tc - bytes, green := p.green + 1 })

/-- A policer that is off. -/
def Policer.off : Policer :=
  { mode := 0, cir := 0, pir := 0, cbs := 0, pbs := 0, tc := 0, tp := 0, green := 0, yellow := 0, red := 0 }

/-- R313: police a message of a class on a port: whether it passes. -/
def State.police (s : State) (p cls bytes : Nat) (yellow : Bool) : Bool × State :=
  if polices (s.port p).role cls then
    let (c, q) := (SMap.getD (s.port p).policers cls Policer.off).mark bytes yellow
    let t := if SMap.has (s.port p).policers cls then
        s.modPort p fun x => { x with policers := SMap.set x.policers cls q } else s
    if c = 2 then (false, t.discard p 1) else (true, t)
  else (true, s)

/-- May a message of a class from `source` be taken on a port: a gateway discards classes 0 to 3 (R313), class 1 travels
on port 8 alone (R301), a fenced node's traffic is discarded (R328), and a stopped node takes nothing? -/
def State.takes (s : State) (p cls source : Nat) : Bool :=
  !((s.port p).role = 2 && cls < 4) && !(cls = 1 && p ≠ 8) && !s.isFenced source

/-- The ingress entry of a message that a header record announces, and of which a body is known. -/
def arriving (h : Word64) (body : Bytes) (stride : Nat) (refused : Bool) : Arriving :=
  { cls := hdrClass h, body := fit (64 * hdrLength h) body, left := hdrLength h, stride := stride, broken := false,
    refused := refused }

/-- A message is refused as its header record comes: discarded whole, at once, whatever flits of it come (R313, R328). -/
def State.refuseMessage (s : State) (p : Nat) (x : Arriving) : State :=
  (s.modPort p fun y => { y with ingress := y.ingress ++ [x] }).lose x.cls x.body

/-- A message is taken: its flits come into the ingress buffer. One that an earlier sending lost is no longer lost (R293). -/
def State.acceptMessage (s : State) (p : Nat) (x : Arriving) : State :=
  { s.modPort p fun y => { y with ingress := y.ingress ++ [x] } with
    fab := { (s.modPort p fun y => { y with ingress := y.ingress ++ [x] }).fab with
      lost := s.fab.lost.filter fun l => !(l.1 = x.cls && l.2.2 = x.body) } }

/-- HEADER_RECORD_RECEIVE (R290, R313): the record that frames joined first and that was not yet taken, else the one given,
announces a message, which is policed; what passes goes on to its own step, here or by the router. -/
def headerRecordReceiveEff (p : Nat) (header : Word64) (body : Bytes) (s : State) : State :=
  let h := (s.port p).records.headD header
  let s0 := s.modPort p fun x => { x with records := x.records.tail }
  let cls := hdrClass h
  if (s.port p).st ≠ 2 then s
  else if hdrLength h = 0 || !announced cls || s.node.stopped then s0
  else if !s.takes p cls (hdrSource h) then
    let t := (s0.refuseMessage p (arriving h body s.stride true)).discard p 1
    if cls < 4 then t.scheduledLost else t
  else
    let (pass, t) := s0.police p cls (64 * hdrLength h) (hdrYellow h)
    if pass then t.acceptMessage p (arriving h body s.stride false) else t.refuseMessage p (arriving h body s.stride true)

/-- HEADER_RECORD_RECEIVE -/
def execHeaderRecordReceive (port : Nat) (header : Word64) (body : Bytes) (s : State) : Host.Outcome State Fault Refusal :=
  guarded (portOk port) (headerRecordReceiveEff port header body) s

/-- A record of class 3 or 4 from `source` comes in by a port: policed (R313), discarded where nothing of it is taken. A record
that this node sent to itself crosses no port. -/
def State.recordIn (s : State) (p cls source : Nat) : Bool × State :=
  if source = s.me then (true, s)
  else if (s.port p).st ≠ 2 then (false, s)
  else if !s.takes p cls source then (false, if cls < 4 then (s.discard p 1).scheduledLost else s.discard p 1)
  else s.police p cls 64 false

/-- Is a record a response (R303)? -/
def recordResponse (record : Bytes) : Bool := bitOf (byteAt record 14) 0

/-- The node that holds a record's location: its address field's (R302). -/
def recordHome (record : Bytes) : Nat := le record 0 8 % 2 ^ 15

/-- The node that requests it. -/
def recordRequester (record : Bytes) : Nat := le record 10 2 % 2 ^ 15

/-- A record goes to its location's node, and a response back to the requester (R291, R303). -/
def recordDest (record : Bytes) : Nat := if recordResponse record then recordRequester record else recordHome record

/-- The node that sent it. -/
def recordSource (record : Bytes) : Nat := if recordResponse record then recordHome record else recordRequester record

/-- A record with one hop more: it carries its hops itself, in bits [2:1] of its flags (R303). -/
def recordHop (record : Bytes) : Bytes := putAt record 14 (toLe 1 (byteAt record 14 + 2))

/-- A message that is not a record: one that the port takes no such traffic of is discarded and counted (R301, R313, R328). -/
def State.messageIn (s : State) (p cls source : Nat) : Bool × State :=
  if s.takes p cls source then (true, s)
  else (false, if cls < 4 then (s.discard p 1).scheduledLost else s.discard p 1)

/-- ROUTER_FORWARD (R300, R328): to another node, one hop more, out of its egress port; discarded and counted beyond 3
hops, on a route that is unreachable or out of service, and from or to a fenced node. Of a record of classes 3 and 4 only the
class, its group's tag, is taken from `h`: the record says the rest. -/
def routerForwardEff (p : Nat) (h : Word64) (body : Bytes) (s : State) : State :=
  let cls := hdrClass h
  let dest := if announced cls then hdrDest h else recordDest body
  let source := if announced cls then hdrSource h else recordSource body
  let egress := s.routeOf dest
  let hops := if announced cls then hdrHops h else bitsOf (byteAt body 14) 1 2
  let (pass, t) := if announced cls then s.messageIn p cls source else s.recordIn p cls source
  if !s.running || (s.port p).st ≠ 2 || dest = s.me then s
  else if !pass then t
  else if 3 ≤ hops || 9 ≤ egress || !s.portOpen egress || s.isFenced dest || s.isFenced source then
    (t.discard p 1).scheduledLost
  else
    let out := if announced cls then body else recordHop body
    (t.modPort egress fun x => x.sends cls (h.toNat + 2 ^ 50) out).emit cls (2 ^ 15 + egress) out []

/-- ROUTER_FORWARD -/
def execRouterForward (port : Nat) (header : Word64) (body : Bytes) (s : State) : Host.Outcome State Fault Refusal :=
  guarded (portOk port) (fun s => s.arrives (hdrClass header) s.me body (routerForwardEff port header body)) s

/-! ## Memory-semantic operations at their target (R303 to R305, R309) -/

/-- Does the context of an access match the granule's tag (R384)? Context 0 passes. -/
def State.tagOk (s : State) (ctx address : Nat) : Bool :=
  ctx = 0 || (SMap.find? s.mem.hbmTags (address / granuleSize)).any fun g => g.owner = ctx && g.st = 1

/-- The new value of a location (R303): `n` bytes, old value, operands A and B. -/
def opValue (op n old a b : Nat) : Nat :=
  let m := 256 ^ n
  let lower (signed : Bool) : Bool :=
    if signed then decide (signedOf (8 * n) a < signedOf (8 * n) old) else decide (a % m < old)
  match op with
  | 2 => a % m
  | 3 => (old + a) % m
  | 4 => a % m
  | 5 => if old = a % m then b % m else old
  | 6 => if lower true then a % m else old
  | 7 => if lower false then a % m else old
  | 8 => if lower true then old else a % m
  | 9 => if lower false then old else a % m
  | _ => old

/-- R309: does the requester own a location: the owner of the region it lies in, or this node where it lies in none? -/
def State.ownsRegion (s : State) (requester window offset : Nat) : Bool :=
  match List.find? (fun r => r.2.window = window && r.2.base ≤ offset && offset < r.2.base + r.2.length) s.fab.regions with
  | some r => r.2.owner = requester
  | none => requester = s.me

/-- Perform an operation on its window's HBM: status and result (R304, R305). -/
def State.performOp (s : State) (requester context address op size a b : Nat) : State × Nat × Nat :=
  let w := address / 2 ^ 15 % 2 ^ 9
  let off := address / 2 ^ 24
  let n := 2 ^ size
  match SMap.find? s.fab.windows w with
  | none => (s, stNotOwner, 0)
  | some x =>
    if x.context ≠ context then (s, stNotOwner, 0)
    else if x.size < off + n ∨ 3 < size ∨ off % n ≠ 0 ∨ op = 0 ∨ 9 < op then (s, stBadValue, 0)
    else if op ≠ 1 ∧ !s.ownsRegion requester w off then (s, stNotOwner, 0)
    else
      let at' := x.base + off
      if !s.tagOk context at' then (s.tagFault context, stPoisoned, 0)
      else
        let r := s.blockRead (at' / 64)
        let t := s.countRead at' r
        if r.lost then (t, stPoisoned, 0)
        else
          let old := le r.data (at' % 64) n
          let t1 := if op = 1 then t
            else t.hbmWrite (at' / 64 * 64) (putAt r.data (at' % 64) (toLe n (opValue op n old a b)))
          (t1, stOk, if op = 2 then 0 else old)

/-- Perform an operation record and return its response on its class (R303). -/
def State.answerOp (s : State) (cls : Nat) (record : Bytes) : State :=
  let requester := recordRequester record
  let context := le record 12 2 % 2 ^ 12
  let address := le record 0 8
  let (t, st, result) :=
    s.performOp requester context address (byteAt record 8) (byteAt record 9) (le record 24 8) (le record 32 8)
  t.send cls requester (opRecord address (byteAt record 8) (byteAt record 9) requester context 1
    (le record 16 4 % 2 ^ 18) st (le record 24 8) (le record 32 8) result)

/-- The HBM block of a record's location, where its window is open. -/
def State.opBlock (s : State) (record : Bytes) : Option Nat :=
  (SMap.find? s.fab.windows (le record 0 8 / 2 ^ 15 % 2 ^ 9)).map fun x => (x.base + le record 0 8 / 2 ^ 24) / 64

/-- Have two requests of class and record one issuer, node, context and class, and one window (R306)? -/
def sameStream (c d : Nat) (x y : Bytes) : Bool :=
  c = d && recordRequester x = recordRequester y && le x 12 2 % 2 ^ 12 = le y 12 2 % 2 ^ 12 &&
    le x 0 8 / 2 ^ 15 % 2 ^ 9 = le y 0 8 / 2 ^ 15 % 2 ^ 9

/-- The class of a request that waits. -/
def waiterClass (w : Nat × Bytes) : Nat := w.1 / 256 % 256

/-- A request waits, with whether a row lock holds it. -/
def State.holdOp (s : State) (p cls : Nat) (record : Bytes) (locked : Bool) : State :=
  { s with nmu := { s.nmu with lockWaiters := s.nmu.lockWaiters ++ [(256 * cls + p + 2 ^ 16 * bit01 locked, record)] } }

/-- MEMORY_OPERATION (R304): a request for this node, policed and checked; one that meets a row lock or a burst in its bank
waits for its end (R180), and so does one behind an earlier request of its issuer to its window that waits (R306). -/
def memoryOperationEff (p cls : Nat) (record : Bytes) (s : State) : State :=
  if !s.running || recordHome record ≠ s.me || recordResponse record then s
  else
    let (pass, t) := s.recordIn p cls (recordRequester record)
    if !pass then t
    else
      match (t.opBlock record).filter t.unitHolds with
      | some b => (t.holdOp p cls record (t.lockedBlock b)).countWait b
      | none =>
        if t.nmu.lockWaiters.any fun w => sameStream (waiterClass w) cls w.2 record then t.holdOp p cls record false
        else t.answerOp cls record

/-- MEMORY_OPERATION: on class 3 or 4 (R303). -/
def execMemoryOperation (port cls : Nat) (record : Bytes) (s : State) : Host.Outcome State Fault Refusal :=
  guarded (portOk port && decide (cls = 3 ∨ cls = 4)) (fun s => s.arrives cls s.me record (memoryOperationEff port cls record)) s

/-- OPERATION_RESPONSE_RECEIVE (R303): a response comes in as a record of its class; one to no outstanding operation, or after
the second stride from its operation's issue, is discarded and counted (R307). -/
def operationResponseReceiveEff (p cls : Nat) (record : Bytes) (s : State) : State :=
  if !recordResponse record then s
  else
    let (pass, t) := s.recordIn p cls (recordHome record)
    if !pass then t
    else
      match t.fab.ops.find? fun o => o.tag = le record 16 4 % 2 ^ 18 && decide (t.stride ≤ o.issued + 2) with
      | none => t.count fun c => { c with lateReplies := c.lateReplies + 1 }
      | some o => t.completeOp o (le record 20 2) (le record 40 8)

/-- OPERATION_RESPONSE_RECEIVE: on class 3 or 4 (R303). -/
def execOperationResponseReceive (port cls : Nat) (record : Bytes) (s : State) : Host.Outcome State Fault Refusal :=
  guarded (portOk port && decide (cls = 3 ∨ cls = 4)) (fun s => s.arrives cls s.me record (operationResponseReceiveEff port cls record)) s

/-- The requests that still wait: those whose block a unit holds, and those behind one of the same issuer to the same window
(R180, R306). -/
def State.stillLocked (s : State) : List (Nat × Bytes) :=
  s.nmu.lockWaiters.foldl (fun l w =>
    if (s.opBlock w.2).any s.unitHolds || l.any (fun x => sameStream (waiterClass x) (waiterClass w) x.2 w.2) then l ++ [w] else l) []

/-- Operations that waited for a lock or a burst that has ended are performed, in their order of arrival (R180, R181, R306). -/
def State.releaseLocked (s : State) : State :=
  let stay := s.stillLocked
  let due := s.nmu.lockWaiters.filter fun w => !stay.contains w
  let s1 := { s with nmu := { s.nmu with lockWaiters := stay } }
  let s2 := due.foldl (fun s w => s.answerOp (waiterClass w) w.2) s1
  (due.filter fun w => 2 ^ 16 ≤ w.1).foldl (fun t w => t.longerDelay (stackOf (64 * (s.opBlock w.2).getD 0))) s2

/-! ## Stride marks (R296 to R298, R447) -/

/-- Is this node the stride root: the named root, or its off node once the root is fenced (R296)? -/
def State.isRoot (s : State) : Bool :=
  s.me = s.fab.root || (s.me = partnerOf s.fab.root && s.isFenced s.fab.root)

/-- The node's primary parent port: the route image's, and the span port at the root's off node (R296). -/
def State.primaryPort (s : State) : Nat := if s.me = partnerOf s.fab.root then 8 else s.fab.parent

/-- The port whose marks this node follows. -/
def State.parentPort (s : State) : Nat := if s.fab.onBackup then s.fab.backup else s.primaryPort

/-- A correction is clamped to 16 cycles either way, in 1/16 cycles (R297). -/
def clampCorrection (e : Int) : Int := max (-256) (min 256 e)

/-- Cycles of the present stride's drain guard: whole cycles of the correction are added to it, and the clock's phase
interpolator takes up the remainder of 1/16 cycles, `longer % 16` (R297). -/
def State.drainGuard (s : State) : Int := 12500 + s.fab.longer / 16

/-- A correction falls to the stride whose mark brought it (R297, its worked example): the present one, or the next where the mark
came before its cycle 0. -/
def State.correct (s : State) (early : Bool) (e : Int) : State :=
  if early then { s with fab := { s.fab with correction := clampCorrection e } }
  else { s with fab := { s.fab with longer := clampCorrection e } }

/-- A stride mark: the stride and the send offset, in one flit (R297). -/
def strideMark (stride offset : Nat) : Bytes := toLe 8 stride ++ toLe 4 offset ++ zeros 52

/-- STRIDE_MARK_RECEIVE (R297, R298): the arrival is in 1/16 cycles from the cycle 0 of the mark's stride. A fenced node's mark is
discarded and counted (R328). -/
def strideMarkReceiveEff (p stride sendOffset : Nat) (arrival : Int) (s : State) : State :=
  let e : Int := arrival - (s.port p).delay - sendOffset
  if (s.port p).st ≠ 2 then s
  else if s.isFenced (s.port p).peer then s.discard p 1
  else
    let s1 := s.modPort p fun x => { x with phase := e, marks := max x.marks stride }
    if s.isRoot || p ≠ s.parentPort then s1
    else
      { s1.correct (s.stride < stride) e with fab := { (s1.correct (s.stride < stride) e).fab with
          wideErrors := if e.natAbs ≤ 4000 then 0 else if (s.port p).marks + 1 = stride then s.fab.wideErrors + 1 else 1 } }

/-- STRIDE_MARK_RECEIVE -/
def execStrideMarkReceive (port stride sendOffset : Nat) (arrival : Int) (s : State) : Host.Outcome State Fault Refusal :=
  guarded (portOk port) (fun s => s.arrives 0 s.me (strideMark stride sendOffset) (strideMarkReceiveEff port stride sendOffset arrival)) s

/-- Strides since the last mark on a port. -/
def State.sinceMark (s : State) (p : Nat) : Nat := s.stride - (s.port p).marks

/-- PARENT_MARK_LOSS (R298): two strides without a mark on the parent port, and a backup port to follow from the next boundary. -/
def parentMarkLossEff (s : State) : State :=
  if s.running && !s.isRoot && !s.fab.onBackup && decide (s.fab.backup < 9 ∧ 2 ≤ s.sinceMark s.primaryPort) then
    { s with fab := { s.fab with toBackup := true } }
  else s

/-- PARENT_MARK_LOSS -/
def execParentMarkLoss (s : State) : Host.Outcome State Fault Refusal := guarded true parentMarkLossEff s

/-- OUT_OF_STEP (R298): two wide errors in successive strides, or four strides without a mark on either parent port. -/
def outOfStepEff (s : State) : State :=
  if s.running && !s.isRoot && decide (2 ≤ s.fab.wideErrors ∨ 4 ≤ s.fab.noMark) then
    { s with fab := { s.fab with outStep := true } }
  else s

/-- OUT_OF_STEP -/
def execOutOfStep (s : State) : Host.Outcome State Fault Refusal := guarded true outOfStepEff s

/-- STRIDE_IN_EDGE (R447): a mark of delay 0 and send offset 0, at the root where the tack image enables it. -/
def strideInEdgeEff (arrival : Int) (s : State) : State :=
  if s.isRoot && s.fab.strideIn && s.clk.code ≠ 0 then
    { s.correct (arrival < 0) arrival with fab := { (s.correct (arrival < 0) arrival).fab with noEdge := 0 } }
  else s

/-- STRIDE_IN_EDGE -/
def execStrideInEdge (arrival : Int) (s : State) : Host.Outcome State Fault Refusal := guarded true (strideInEdgeEff arrival) s

/-- STRIDE_IN_LOSS (R447): after two strides without an edge the root goes on with its own clock, uncorrected. -/
def strideInLossEff (s : State) : State :=
  if s.isRoot && s.fab.strideIn && decide (2 ≤ s.fab.noEdge) then { s with fab := { s.fab with correction := 0 } } else s

/-- STRIDE_IN_LOSS -/
def execStrideInLoss (s : State) : Host.Outcome State Fault Refusal := guarded true strideInLossEff s

end Sys2Proof.Machine
end

