-- ==== Sys2Proof/Machine/Health.lean ====
section
/-! DEFINITION. The farrier: floors, guardbands, the projection of life and the records it reports (R429 to R435), with
HEALTH_AGEING_REPORT, HEALTH_UNITS and the sweeps. -/

namespace Sys2Proof.Machine

/-! ## Domains (R429, R432, R434) -/

/-- The 14 domains in report order. -/
def domainCodes : List Nat := [0x00, 0x01, 0x10, 0x11, 0x12, 0x13, 0x14, 0x15, 0x16, 0x17, 0x20, 0x30, 0x40, 0x41]

/-- Timing and voltage floors: ps and mV, 0.01 dB for optical lanes. -/
def floorsOf (d : Nat) : Nat × Nat :=
  if d ≤ 1 then (15, 20) else if d ≤ 0x17 then (25, 40) else if d = 0x20 then (30, 35) else if d = 0x40 then (0, 6) else (0, 0)

/-- The plan target of the timing margin. -/
def targetOf (d : Nat) : Int := if d ≤ 1 then 45 else if d ≤ 0x17 then 40 else 45

/-- The highest guardband step, of 5 mV each. -/
def stepsOf (d : Nat) : Nat := if d ≤ 1 then 8 else if d ≤ 0x17 then 6 else 0

/-- Does the domain report a timing margin? -/
def timed (d : Nat) : Bool := d ≤ 0x20

/-- The domain of a unit (R32, R134, R434): tiles 0 to 47, sort units and engines 0 to 7 are on the west die; lanes 32 to
35, of the span port, are electrical. -/
def domainOf (u : Nat × Nat) : Nat :=
  match u.1 with
  | 0x01 => u.2 / 48
  | 0x03 => u.2 / 8
  | 0x04 => u.2 / 8
  | 0x00 => 0x10 + u.2 / 64
  | 0x02 => 0x10 + u.2 / 64
  | 0x07 => 0x20
  | 0x09 => 0x30
  | _ => if u.2 < 32 then 0x41 else 0x40

/-- The measurements that a report has of units of its domain. -/
def unitsOf (r : DomainReport) : List UnitMargin := r.units.filter fun u => domainOf (u.kind, u.num) = r.domain

/-- The unit of the domain with the least margin, of timing where the domain reports it and else of voltage; the first of equals. -/
def worstUnit (r : DomainReport) : UnitMargin :=
  let margin (u : UnitMargin) : Int := if timed r.domain then u.timing else u.voltage
  match unitsOf r with
  | [] => { kind := 0, num := 0, timing := 0, voltage := 0 }
  | u :: l => l.foldl (fun w x => if margin x < margin w then x else w) u

/-- The units of the domain below a floor at a guardband step, as (kind, instance) (R431, R432). -/
def unitsBelow (r : DomainReport) (step : Nat) : List (Nat × Nat) :=
  let low (u : UnitMargin) : Bool :=
    (timed r.domain && decide (u.timing + r.perStep * step < (floorsOf r.domain).1)) || decide (u.voltage < (floorsOf r.domain).2)
  ((unitsOf r).filter low).map fun u => (u.kind, u.num)

/-- The lowest step from `n` on at which every unit reaches the target, with `fuel` steps left; the highest where none does
(R432). -/
def lowestStep (target : Int) (units : List UnitMargin) (perStep : Nat) : Nat → Nat → Nat
  | 0, n => n
  | fuel + 1, n =>
    if units.all fun u => decide (target ≤ u.timing + perStep * n) then n else lowestStep target units perStep fuel (n + 1)

/-- The guardband step of a domain. -/
def guardStep (r : DomainReport) : Nat :=
  if 0x20 ≤ r.domain then 0 else lowestStep (targetOf r.domain) (unitsOf r) r.perStep (stepsOf r.domain) 0

/-- The units below floor at the step that the re-plan chooses. -/
def planBelow (r : DomainReport) : List (Nat × Nat) := unitsBelow r (guardStep r)

/-! ## The projection (R433), in fixed point of 64 fraction bits -/

/-- One, in fixed point. -/
def fixOne : Nat := 2 ^ 64

/-- The sum of y^(2i+1) / (2i+1), the inverse hyperbolic tangent of y. -/
def atanhFix (y : Nat) : Nat :=
  ((List.range 40).foldl (fun (acc : Nat × Nat) i => (acc.1 + acc.2 / (2 * i + 1), acc.2 * y / fixOne * y / fixOne)) (0, y)).1

/-- ln 2. -/
def ln2Fix : Nat := 2 * atanhFix (fixOne / 3)

/-- ln n, for n above 0. -/
def lnFix (n : Nat) : Nat :=
  let k := n.log2
  let m := n * fixOne / 2 ^ k
  k * ln2Fix + 2 * atanhFix ((m - fixOne) * fixOne / (m + fixOne))

/-- The whole part of e^x. -/
def expFix (x : Nat) : Nat :=
  let k := x / ln2Fix
  let r := x % ln2Fix
  let t := ((List.range 30).foldl (fun (acc : Nat × Nat) i => (acc.1 + acc.2, acc.2 * r / fixOne / (i + 1))) (0, fixOne)).1
  t * 2 ^ k / fixOne

/-- What unbounded life reads as. -/
abbrev unbounded : Nat := 0xFFFF_FFFF

/-- The projected life from the records (margin, hours): the t at which a − b ln t plus `extra` reaches the floor. -/
def projectedLife (records : List (Int × Nat)) (extra floor : Int) : Nat :=
  let l := records.filter fun r => 0 < r.2
  let n : Int := l.length
  let sum (g : Int × Nat → Int) : Int := l.foldl (fun a r => a + g r) 0
  let sx := sum fun r => lnFix r.2
  let sy := sum fun r => r.1
  let sxy := sum fun r => lnFix r.2 * r.1
  let sxx := sum fun r => lnFix r.2 * lnFix r.2
  let num := n * sxy - sx * sy
  let den := n * sxx - sx * sx
  if n < 2 ∨ 0 ≤ num ∨ den ≤ 0 then unbounded
  else
    let e := (sy + n * (extra - floor)) * den / (n * (-num)) + sx / n
    if e < 0 then 0 else if 32 * (ln2Fix : Int) ≤ e then unbounded else min unbounded (expFix e.toNat)

/-! ## Records (R434) -/

/-- A domain of which nothing is measured. -/
def DomainRecord.blank (d : Nat) : DomainRecord :=
  { domain := d, flags := 0, worst := 0, timing := 0, voltage := 0, guard := 0, retired := 0, life := unbounded, hours := 0,
    stride := 0 }

/-- Its 32 bytes. -/
def DomainRecord.bytes (r : DomainRecord) : Bytes :=
  toLe 1 r.domain ++ toLe 1 r.flags ++ toLe 2 r.worst ++ toLeInt 2 r.timing ++ toLeInt 2 r.voltage ++
    toLe 2 (floorsOf r.domain).1 ++ toLe 2 (floorsOf r.domain).2 ++ toLe 2 r.guard ++ toLe 2 r.retired ++ toLe 4 r.life ++
    toLe 4 r.hours ++ toLe 8 r.stride

/-- The record of a domain in a list. -/
def recordOf (l : List DomainRecord) (d : Nat) : DomainRecord :=
  (l.find? fun r => r.domain = d).getD (DomainRecord.blank d)

/-- Put a domain's record. -/
def putRecord (l : List DomainRecord) (r : DomainRecord) : List DomainRecord :=
  (l.filter fun x => x.domain ≠ r.domain) ++ [r]

/-- Power-on hours: 9 × 10^12 cycles of 2.5 GHz each. -/
def State.hours (s : State) : Nat := s.node.record.hours / 9000000000000

/-- Units of a domain retired. -/
def State.retiredIn (s : State) (d : Nat) : Nat := (s.node.record.retired.filter fun u => domainOf u = d).length

/-! ## The re-plan (R432, R433), called by the stage that measures the domain -/

/-- Re-plan one domain: its guardband, its record, and the retirement of the units below floor; a lane below floor is out of
service for the remount instead. -/
def State.replan (s : State) (r : DomainReport) : State :=
  let step := guardStep r
  let w := worstUnit r
  let timing := if timed r.domain then w.timing + r.perStep * step else 0
  let history := (SMap.getD s.node.record.margins r.domain [] ++
    [(if timed r.domain then w.timing else w.voltage, s.hours)]).reverse.take 8 |>.reverse
  let floor : Int := if timed r.domain then (floorsOf r.domain).1 else (floorsOf r.domain).2
  let gone := (planBelow r).filter fun u => u.1 ≠ 0x10 && u.1 ≠ 0 && !s.node.record.retired.contains u
  let s1 := { s with node := { s.node with record := { s.node.record with
    retired := s.node.record.retired ++ gone,
    margins := SMap.set s.node.record.margins r.domain history } } }
  let x : DomainRecord :=
    { domain := r.domain, flags := 0, worst := w.num, timing := timing, voltage := w.voltage, guard := 5 * step,
      retired := s1.retiredIn r.domain,
      life := projectedLife history (if timed r.domain then r.perStep * stepsOf r.domain else 0) floor,
      hours := s.hours, stride := s.stride }
  { s1 with node := { s1.node with
      draft := putRecord s1.node.draft x, retiring := s1.node.retiring + gone.length, sweep := putRecord s1.node.sweep x } }

/-- R434: from stage 8 on, the report carries the plan of this start. -/
def State.adoptPlan (s : State) : State :=
  { s with node := { s.node with
      record := { s.node.record with
        plan := s.node.draft.foldl putRecord s.node.record.plan, retirements := s.node.retiring },
      draft := [], retiring := 0 } }

/-! ## FARRIER_SWEEP (R429, R431) -/

/-- PLDM event kinds (R428; kind 1 is membership). -/
abbrev pldmStartFailed : Nat := 2
/-- Read-only mode. -/
abbrev pldmReadOnly : Nat := 3
/-- A junction sensor crosses 105 °C. -/
abbrev pldmJunction : Nat := 4
/-- A monitor below its floor. -/
abbrev pldmFloor : Nat := 5
/-- A protective stop. -/
abbrev pldmStop : Nat := 6
/-- A request for the tack image. -/
abbrev pldmTack : Nat := 7

/-- Has a domain a unit in a set (R434)? -/
def UnitSet.hasDomain (u : UnitSet) (d : Nat) : Bool :=
  let die (n : Nat) : Bool :=
    bitsOf u.tiles.toNat (48 * n) 48 ≠ 0 || bitsOf u.sorts.toNat (8 * n) 8 ≠ 0 || bitsOf u.travs.toNat (8 * n) 8 ≠ 0
  match d with
  | 0x00 => die 0
  | 0x01 => die 1
  | 0x20 => u.ddr ≠ 0
  | 0x30 => u.flash ≠ 0
  | 0x40 => bitsOf u.lanes.toNat 32 4 ≠ 0
  | 0x41 => bitsOf u.lanes.toNat 0 32 ≠ 0
  | n => bitOf u.hbmStacks.toNat (n - 0x10)

/-- The reads of the flash domain's reference pages: one FLASH_OP unit of the farrier's share on each channel in service (R36,
R429, R430). -/
def State.farrierReads (s : State) : State :=
  (List.range 32).foldl (fun s ch =>
    if s.unitUp 0x0A ch then s.modChannel ch fun c => c.shareRead farrierShare none else s) s

/-- Is the farrier's share of a channel's reads in this stride used up? -/
def State.farrierSpent (s : State) : Bool :=
  (List.range 32).any fun ch => s.unitUp 0x0A ch && (s.channel ch).shareLeft farrierShare = 0

/-- Strides from a sweep of a domain to the next: each stack is swept in 64, DDR in 256, the rest every 4,096 (R429). -/
def cadenceOf (d : Nat) : Nat := if d ≤ 1 then 4096 else if d ≤ 0x17 then 64 else if d = 0x20 then 256 else 4096

/-- Is a sweep of a domain due: none was made yet, or the last one is its cadence ago? -/
def State.sweepDue (s : State) (d : Nat) : Bool :=
  (s.node.sweep.find? fun r => r.domain = d).all fun r => decide (r.stride + cadenceOf d ≤ s.stride)

/-- FARRIER_SWEEP: within a remount the farrier measures and reports only, domains with a unit in the mounted set (R52), at their
cadence (R429). A sweep of flash whose reads the stride has no share for waits (R36). -/
def farrierSweepEff (r : DomainReport) (s : State) : State :=
  if !s.running || !s.mountedSet.hasDomain r.domain || !s.sweepDue r.domain || (r.domain = 0x30 && s.farrierSpent) then s
  else
    let s := if r.domain = 0x30 then s.farrierReads else s
    let old := recordOf s.node.sweep r.domain
    let w := worstUnit r
    let low := !(unitsBelow r 0).isEmpty
    let x : DomainRecord :=
      { old with flags := if low then 1 else old.flags, worst := w.num, timing := if timed r.domain then w.timing else 0,
                 voltage := w.voltage, life := (recordOf s.node.record.plan r.domain).life, hours := s.hours,
                 stride := s.stride }
    let s1 := { s with node := { s.node with sweep := putRecord s.node.sweep x } }
    if low ∧ old.flags = 0 then s1.pldm pldmFloor r.domain s.stride else s1

/-- FARRIER_SWEEP: of one of the 14 domains. -/
def execFarrierSweep (report : DomainReport) (s : State) : Host.Outcome State Fault Refusal :=
  guarded (domainCodes.contains report.domain) (farrierSweepEff report) s

/-! ## HEALTH_AGEING_REPORT, HEALTH_UNITS (R434, R435) -/

/-- The domain of the lowest projected life, the first in report order. -/
def limiting (l : List DomainRecord) : Nat × Nat :=
  domainCodes.foldl (fun (best : Nat × Nat) d =>
    let life := (recordOf l d).life
    if life < best.2 then (d, life) else best) (0, (recordOf l 0).life)

/-- The 480 bytes of the ageing report. -/
def State.ageingReport (s : State) : Bytes :=
  let r := s.node.record
  let low := limiting r.plan
  toLe 8 r.planStride ++ toLe 8 s.shown.first ++ toLe 4 s.hours ++ toLe 4 low.2 ++ toLe 1 low.1 ++ zeros 3 ++
    toLe 4 r.retirements ++ domainCodes.flatMap fun d => (recordOf r.plan d).bytes

/-- The bits of the units of a kind in a list. -/
def unitBits (l : List (Nat × Nat)) (kind : Nat) : Nat :=
  sumNat ((dedupNat ((l.filter fun u => u.1 = kind).map (·.2))).map fun i => 2 ^ i)

/-- A unit map of a list of units (R435): the unit-set block without flash channels, then a byte of targets a channel. -/
def unitMap (l : List (Nat × Nat)) : Bytes :=
  let u : UnitSet :=
    { tiles := BitVec.ofNat 96 (unitBits l 0x01), nmus := BitVec.ofNat 512 (unitBits l 0x02),
      sorts := BitVec.ofNat 16 (unitBits l 0x03), travs := BitVec.ofNat 16 (unitBits l 0x04), flash := 0,
      lanes := BitVec.ofNat 36 (unitBits l 0x10), ddr := BitVec.ofNat 12 (unitBits l 0x07), hbmStacks := 0 }
  u.bytes ++ toLe 32 (unitBits l 0x09)

/-- The unit map of the mounted set: its flash dies are the targets in service of its channels. -/
def State.mountedMap (s : State) : Bytes :=
  let u := s.mountedSet
  ({ u with flash := 0 } : UnitSet).bytes ++ (List.range 32).flatMap fun c =>
    toLe 1 (if bitOf u.flash.toNat c then sumNat ((s.targetList c).map fun t => 2 ^ t) else 0)

/-- The 400 bytes of the unit lists. -/
def State.unitLists (s : State) : Bytes :=
  toLe 8 s.shown.first ++ zeros 8 ++ unitMap s.node.record.retired ++ unitMap s.node.record.testList ++ s.mountedMap

/-- HEALTH_AGEING_REPORT (R434) -/
def healthAgeingReportEff (f : Nat) (s : State) : State := s.serve f 0x0901 fun s _ => report s s.ageingReport

/-- HEALTH_AGEING_REPORT -/
def execHealthAgeingReport (f : Nat) (s : State) : Host.Outcome State Fault Refusal :=
  guarded (funcOk f) (healthAgeingReportEff f) s

/-- HEALTH_UNITS (R435) -/
def healthUnitsEff (f : Nat) (s : State) : State := s.serve f 0x0902 fun s _ => report s s.unitLists

/-- HEALTH_UNITS -/
def execHealthUnits (f : Nat) (s : State) : Host.Outcome State Fault Refusal :=
  guarded (funcOk f) (healthUnitsEff f) s

/-! ## Vendor commands 0x04 and 0x05 (R428) -/

/-- MCTP_AGEING_REPORT -/
def execMctpAgeingReport (s : State) : Host.Outcome State Fault Refusal :=
  guarded true (fun s => s.mctpReply s.ageingReport) s

/-- MCTP_UNIT_LISTS -/
def execMctpUnitLists (s : State) : Host.Outcome State Fault Refusal :=
  guarded true (fun s => s.mctpReply s.unitLists) s

end Sys2Proof.Machine
end

