-- ==== Sys2Proof/Machine/Nmu.lean ====
section
/-! DEFINITION. The near-memory units: their commands on HBM rows, the re-quantisation that UPDATE makes, the burst gate
of each stack and the row locks (08_near_memory.md). A unit keeps the commands it receives in order and runs the head: its
bursts pass the gate, it reads as read bursts end and writes as write bursts end (log entry 25). -/

namespace Sys2Proof.Machine

/-- A unit that has done nothing. -/
def NmuUnit.fresh : NmuUnit := { slots := [], burst := none, lock := none, rowBuffer := [], commands := [] }

/-- Unit `u`. -/
def State.unit (s : State) (u : Nat) : NmuUnit := SMap.getD s.nmu.units u NmuUnit.fresh

/-- Change unit `u`. -/
def State.modUnit (s : State) (u : Nat) (g : NmuUnit → NmuUnit) : State :=
  { s with nmu := { s.nmu with units := SMap.set s.nmu.units u (g (s.unit u)) } }

/-- Does a unit take commands: it is in the mounted set and in the running gait's unit set (R187), or in the outgoing gait's
while that one's work runs (R53)? -/
def State.unitRuns (s : State) (u : Nat) : Bool :=
  bitOf s.mountedSet.nmus.toNat u && bitOf s.unitsNow.nmus.toNat u

/-- Return bytes to a request tag (R171). -/
def State.answer (s : State) (tag : Nat) (b : Bytes) : State :=
  { s with nmu := { s.nmu with answers := s.nmu.answers ++ [(tag, b)] } }

/-! ## The command's fields (R171, R172) -/

/-- Opcode. -/
def cmdOp (b : Bytes) : Nat := byteAt b 0
/-- Slot mask. -/
def cmdMask (b : Bytes) : Nat := byteAt b 1
/-- Context. -/
def cmdContext (b : Bytes) : Nat := le b 2 2 % 4096
/-- Request tag. -/
def cmdTag (b : Bytes) : Nat := le b 4 4 % 2 ^ 18
/-- Unit. -/
def cmdUnit (b : Bytes) : Nat := le b 8 2 % 512
/-- Is it for a whole stack? -/
def cmdWhole (b : Bytes) : Bool := bitOf (le b 8 2) 15
/-- Row count. -/
def cmdRows (b : Bytes) : Nat := byteAt b 10
/-- Data length. -/
def cmdLength (b : Bytes) : Nat := le b 12 4
/-- Row reference `i`: its first block and its length in blocks. -/
def cmdRow (b : Bytes) (i : Nat) : Nat × Nat := (le b (16 + 4 * i) 4 % 2 ^ 24, le b (16 + 4 * i) 4 / 2 ^ 24 % 2 ^ 7)
/-- The load data. -/
def cmdData (b : Bytes) : Bytes := fit (cmdLength b) (b.drop (16 + 4 * cmdRows b))

/-- R178: is a reserved field of a command of opcode `op` zero, and its row count and mask what the opcode asks? Of these
refusals R178 does not list: a QLOAD mask that does not name one slot or a length over 4,608, a row count out of range, a SCAN
with data, and an UPDATE or ROWWRITE mask other than 0 (DESIGN CHOICE, log entry 106). -/
def cmdFieldsOk (op : Nat) (b : Bytes) : Bool :=
  decide (cmdOp b = op) && decide (le b 2 2 < 4096) && decide (le b 4 4 < 2 ^ 18) && zeroAt b 11 1 &&
  decide (bitsOf (le b 8 2) 9 6 = 0) && (op = 1 || !cmdWhole b) &&
  (if op = 1 then decide (cmdRows b = 0 ∧ (bitList 8 (cmdMask b)).length = 1 ∧ cmdLength b ≤ 4608)
   else if op = 2 then decide (1 ≤ cmdRows b ∧ cmdRows b ≤ 8 ∧ cmdLength b = 0)
   else decide (cmdRows b = 1 ∧ cmdMask b = 0)) &&
  ((List.range (cmdRows b)).all fun i => decide (le b (16 + 4 * i) 4 < 2 ^ 31))

/-- R168, R172: does a row reference lie in the pseudo-channel and keep to the 2 KiB rule? -/
def rowRefOk (r : Nat × Nat) : Bool :=
  decide (2 ≤ r.2 ∧ r.2 ≤ 65 ∧ r.1 + r.2 ≤ 2 ^ 24) &&
    (if r.2 ≤ 32 then r.1 / 32 = (r.1 + r.2 - 1) / 32 else r.1 % 32 = 0)

/-- All row references. -/
def cmdRefs (b : Bytes) : List (Nat × Nat) := (List.range (cmdRows b)).map (cmdRow b)

/-- Node block number of block `k` of a unit's pseudo-channel (R201). -/
def unitBlock (u k : Nat) : Nat := u * 2 ^ 24 + k

/-- The bank of a block (R167). -/
def bankOf (block : Nat) : Nat := block / 32 % 64

/-- Count a refused command (R178). -/
def State.refusedCommand (s : State) (u : Nat) : State := s.modStack (u / 64) fun c => { c with refused := c.refused + 1 }

/-! ## Bursts (R167, R174, R181) -/

/-- A burst of a kind. -/
def burstOf (unit kind bank bytes : Nat) (blocks : List Nat) : Burst :=
  { unit := unit, kind := kind, bank := bank, bytes := bytes, row := 0, rowBlocks := 0, last := false, booked := false, slot := 0,
    blocks := blocks, image := none, whole := false }

/-- Load bursts of `n` bytes; `whole` into every unit of the stack that has the command. -/
def loadBursts (unit n : Nat) (whole : Bool) : List Burst :=
  (List.range (ceilDiv n 2048)).map fun i => { burstOf unit 2 0 (min 2048 (n - 2048 * i)) [] with whole := whole }

/-- The HBM blocks of `n` blocks of a unit's pseudo-channel from block `k` on. -/
def unitBlocks (unit k n : Nat) : List Nat := (List.range n).map fun i => unitBlock unit (k + i)

/-- Read bursts of rows in reference order (R174): a row joins the last burst where its bank and size allow. -/
def readBursts (unit : Nat) (rows : List (Nat × Nat)) : List Burst :=
  rows.foldl (fun l r =>
    let n := 64 * r.2
    let pieces := (List.range (ceilDiv n 2048)).map fun i =>
      burstOf unit 0 (bankOf (r.1 + 32 * i)) (min 2048 (n - 2048 * i)) (unitBlocks unit (r.1 + 32 * i) (min 32 (r.2 - 32 * i)))
    match l.getLast? with
    | some x =>
      if n ≤ 2048 ∧ x.bank = bankOf r.1 ∧ x.bytes + n ≤ 2048 then
        l.dropLast ++ [{ x with bytes := x.bytes + n, blocks := x.blocks ++ unitBlocks unit r.1 r.2 }]
      else l ++ pieces
    | none => pieces) []

/-- Write bursts of a row, under its lock (R179): `image` is the row, or none for the poison pattern. -/
def writeBursts (unit : Nat) (r : Nat × Nat) (image : Option Bytes) : List Burst :=
  let n := ceilDiv r.2 32
  (List.range n).map fun i =>
    { burstOf unit 1 (bankOf (r.1 + 32 * i)) (min 2048 (64 * r.2 - 2048 * i))
        (unitBlocks unit (r.1 + 32 * i) (min 32 (r.2 - 32 * i))) with
        row := unitBlock unit r.1, rowBlocks := r.2, last := i + 1 = n,
        image := image.map fun b => (b.drop (2048 * i)).take 2048 }

/-- Put bursts at their stack's gate (R170). -/
def State.requestBursts (s : State) (stack : Nat) (l : List Burst) : State :=
  { s with nmu := { s.nmu with waiting := SMap.alter s.nmu.waiting stack [] (· ++ l) } }

/-! ## Blocks as a unit reads and writes them -/

/-- A block as a unit reads it, with the tag check of R384: where it fails the block is poison. -/
def State.unitRead (s : State) (ctx block : Nat) : BlockRead :=
  if s.tagOk ctx (64 * block) then s.blockRead block else .poison

/-- What the row buffer holds of a block: its data, or none where it is lost. -/
def BlockRead.held (r : BlockRead) : Option Bytes := if r.lost then none else some r.data

/-- Count what reading blocks found (R183, R185, R384): an access to a granule of another context is one tag fault. -/
def State.countBlocks (s : State) (ctx : Nat) (blocks : List Nat) : State :=
  if blocks.all fun b => s.tagOk ctx (64 * b) then blocks.foldl (fun s b => s.countRead (64 * b) (s.blockRead b)) s
  else s.tagFault ctx

/-- Write blocks that follow one another, or poison them (R184, R186), where every granule's tag allows (R384). -/
def State.unitWrite (s : State) (ctx : Nat) (blocks : List Nat) (image : Option Bytes) : State :=
  let first := blocks.headD 0
  if !(blocks.all fun b => s.tagOk ctx (64 * b)) then s.tagFault ctx
  else
    match image with
    | some b => s.hbmWrite (64 * first) b
    | none =>
      (s.poisonBlocks first blocks.length).modStack (stackOf (64 * first)) fun c =>
        { c with poisonWritten := c.poisonWritten + blocks.length }

/-- The bytes of blocks in the row buffer: zeros where a block is lost. -/
def heldData (l : List (Option Bytes)) : Bytes := l.flatMap fun b => b.getD (zeros 64)

/-- Is a block among them lost? -/
def heldLost (l : List (Option Bytes)) : Bool := l.any Option.isNone

/-! ## UPDATE's arithmetic (R176) -/

/-- The metadata fields of a row that a unit rewrites. -/
def rowScale (b : Bytes) : Word32 := ofBf16 (le b 24 2)
/-- Offset. -/
def rowOffset (b : Bytes) : Word32 := ofBf16 (le b 26 2)
/-- Code sum. -/
def rowSum (b : Bytes) : Int := signedOf 32 (le b 32 4)
/-- Dimension count. -/
def rowDim (b : Bytes) : Nat := le b 36 2
/-- Code width. -/
def rowWidth (b : Bytes) : Nat := byteAt b 23 % 2
/-- Codes. -/
def rowCodes (b : Bytes) : List Int := codesOf (rowWidth b) (rowDim b) (b.drop 64)
/-- The decoded elements: (c × s) + o, each step rounded (R237). -/
def rowValues (b : Bytes) : List Word32 := (rowCodes b).map fun c => fadd (fmul (fofInt c) (rowScale b)) (rowOffset b)

/-- What UPDATE makes of a row. -/
inductive RowUpdate where
  | bad
  | done (row : Bytes) (clipped : Nat)
  deriving DecidableEq, Repr

/-- R176: both passes over a row's bytes with the update Δ; `bad` where a value is not finite. -/
def updateRow (b : Bytes) (delta : List Word32) : RowUpdate :=
  let w := rowWidth b
  let y := ((rowValues b).zip delta).map fun p => fadd p.1 p.2
  let sum := fadd (fmax y) (fmin y)
  let diff := fsub (fmax y) (fmin y)
  if anyBad y || fbad sum || fbad diff then .bad
  else
    let o2 := toBf16 (fdiv sum ftwo)
    let s2 := toBf16 (fdiv diff (fofInt (if w = 0 then 255 else 15)))
    let lo : Int := if w = 0 then -128 else -8
    let hi : Int := if w = 0 then 127 else 7
    let r := y.map fun v => if fzero (ofBf16 s2) then 0 else rne (fdiv (fsub v (ofBf16 o2)) (ofBf16 s2))
    let c := r.map fun v => clamp v lo hi
    let head := putAt (putAt (putAt (b.take 64) 24 (toLe 2 s2)) 26 (toLe 2 o2)) 32 (toLeInt 4 (sumInt c))
    .done (head ++ fit (b.length - 64) (packCodes w c)) ((r.zip c).filter fun p => p.1 ≠ p.2).length

/-- The row-write completion (16 bytes). -/
def rowCompletion (status clipped : Nat) (row : Option Bytes) : Bytes :=
  toLe 2 status ++ toLe 2 clipped ++
    (match row with
      | some b => (b.drop 32).take 4 ++ (b.drop 24).take 2 ++ (b.drop 26).take 2
      | none => zeros 8) ++ zeros 4

/-! ## Slot images and score records (R173 to R175) -/

/-- The bytes of a slot image (R173): the record's head, its filter block, its codes. -/
def imageFilter (b : Bytes) : Bytes := (b.drop 64).take (filterLength (b.drop 64))

/-- The query record that a slot image stands for, without its full-precision elements. -/
def imageRecord (b : Bytes) : Bytes := b.take 64 ++ b.drop (64 + roundUp (filterLength (b.drop 64)) 64)

/-- The numeric field types that a context's row was written under: those of the index that holds the row's metadata, or
else of the context's first index (log entry 25). -/
def State.typesOf (s : State) (ctx : Nat) (head : Bytes) : Nat × Nat :=
  let mine := s.indexes.filter fun p => p.2.context = ctx
  let holds (x : Index) : Bool :=
    (x.versions.any fun v => v.rows.any fun r => r.head = head) || x.delta.any fun r => r.head = head
  match (mine.find? fun p => holds p.2) <|> mine.head? with
  | some p => (p.2.typeA, p.2.typeB)
  | none => (0, 0)

/-- One score record (R174, R175). -/
def scoreRecord (types : Nat × Nat) (slot : Nat) (q : QuerySlot) (row : Bytes) (poisoned : Bool) : Bytes :=
  if poisoned || q.poisoned then toLe 6 (keyOfMeta row) ++ toLe 1 (byteAt row 22) ++ toLe 1 (slot + 16) ++ toLe 4 0xFFFF_FFFF ++ zeros 4
  else
    let r := imageRecord q.image
    let (rank, score, nonfinite) := keyed (recDist r) (codeScore r (row.take 64) (row.drop 64))
    let pass := filterPass types.1 types.2 (imageFilter q.image) (attrsOf row)
    toLe 6 (keyOfMeta row) ++ toLe 1 (byteAt row 22) ++ toLe 1 (slot + 8 * bit01 pass + 32 * bit01 nonfinite) ++ toLe 4 rank ++
      toLe 4 score.toNat

/-- The rows of a SCAN in what the unit has read, in reference order. -/
def splitRows : List (Nat × Nat) → List (Option Bytes) → List (List (Option Bytes))
  | [], _ => []
  | r :: rows, l => l.take r.2 :: splitRows rows (l.drop r.2)

/-- The score records of a SCAN, in row order and then by slot, over the blocks read. -/
def State.scanRecords (s : State) (u ctx mask : Nat) (rows : List (Nat × Nat)) (read : List (Option Bytes)) : Bytes :=
  (splitRows rows read).flatMap fun l =>
    let row := heldData l
    (bitList 8 mask).flatMap fun n =>
      match SMap.find? (s.unit u).slots n with
      | some q => scoreRecord (s.typesOf ctx (row.take 64)) n q row (heldLost l)
      | none => []

/-! ## What UPDATE and ROWWRITE end in (R176 to R178, R186) -/

/-- The completion of a row that was read and left unchanged: code sum 0, and the scale and offset that the row stores (R177). -/
def keptCompletion (status : Nat) (row : Bytes) : Bytes :=
  toLe 2 status ++ zeros 6 ++ (row.drop 24).take 2 ++ (row.drop 26).take 2 ++ zeros 4

/-- The end of an UPDATE or ROWWRITE: refused; a row read and left as it is; or its status and clipped count with the write it
makes: none, the poison pattern, or a row image. -/
inductive RowEnd where
  | refused
  | kept (status : Nat) (row : Bytes)
  | done (status clipped : Nat) (write : Option (Option Bytes))
  deriving DecidableEq, Repr

/-- UPDATE, once Δ is loaded and its row read. Where the row has a lost block and its D or the data length is bad too, R178 would
refuse and R186 poisons: the row is poisoned (DESIGN CHOICE, log entry 106). -/
def updateEnd (b : Bytes) (poisoned : Bool) (read : List (Option Bytes)) : RowEnd :=
  let row := heldData read
  let d := rowDim row
  if heldLost read then .done stPoisoned 0 (some none)
  else if !decide (1 ≤ d ∧ d ≤ 1024 ∧ cmdLength b = 64 * ceilDiv (4 * d) 64) then .refused
  else if poisoned || decide (sumInt (rowCodes row) ≠ rowSum row) then .done stPoisoned 0 (some none)
  else
    match updateRow row (elemsAt 0 (cmdData b) 0 d) with
    | .bad => .kept stBadValue row
    | .done new n => .done stOk n (some (some new))

/-- ROWWRITE, once its image is loaded. -/
def rowwriteEnd (b : Bytes) (poisoned : Bool) : RowEnd :=
  let image := fit (64 * (cmdRow b 0).2) (cmdData b)
  if poisoned then .done stPoisoned 0 (some none)
  else if sumInt (rowCodes image) ≠ rowSum image then .done stBadCheck 0 none
  else .done stOk 0 (some (some image))

/-! ## A unit's commands (R178) -/

/-- Is an UPDATE or ROWWRITE refused at its start, and a SCAN: the fields, the row references, the slots (R178)? -/
def State.refuses (s : State) (u : Nat) (b : Bytes) : Bool :=
  let op := cmdOp b
  !(cmdFieldsOk op b && (cmdRefs b).all rowRefOk &&
    (op ≠ 2 || (bitList 8 (cmdMask b)).all fun n => (SMap.find? (s.unit u).slots n).any fun q => q.context = cmdContext b))

/-- The units that hold a command not ended. -/
def State.holders (s : State) (c : UnitCommand) : List Nat :=
  (s.nmu.units.filter fun p => p.2.commands.any fun x => x.number = c.number).map (·.1)

/-- Change the command that a unit runs. -/
def State.modCommand (s : State) (u : Nat) (g : UnitCommand → UnitCommand) : State :=
  s.modUnit u fun x =>
    { x with commands := match x.commands with
        | c :: l => g c :: l
        | [] => [] }

/-- A unit's command ends: its row buffer is zeroed, and the next command is the head (R178). -/
def State.dropCommand (s : State) (u : Nat) : State :=
  s.modUnit u fun x => { x with commands := x.commands.drop 1, rowBuffer := [] }

/-- R230: the move that a command belongs to is void. -/
def State.voidMove (s : State) (m : Nat × Nat) : State :=
  s.modResidency m.1 fun r => { r with running := r.running.map fun x => if x.row = m.2 then { x with void := true } else x }

/-- A command ends with a completion: it goes to its request tag, or to the engine that issued it, whose move is void where the
status asks that (R171, R230). -/
def State.endCommand (s : State) (u : Nat) (c : UnitCommand) (completion : Bytes) : State :=
  let st := le completion 0 2
  let s1 := (s.dropCommand u).modStack (u / 64) fun k => { k with clipped := k.clipped + c.clipped }
  if !c.own then s1.answer (cmdTag c.bytes) completion
  else
    match c.move with
    | some m =>
      if st = stPoisoned ∨ st = stBadCheck ∨ (c.twin.any fun x => x != st) = true then s1.voidMove m else s1
    | none => s1

/-- Bursts of a phase of a unit's running command are requested. -/
def State.enterPhase (s : State) (u phase : Nat) (l : List Burst) : State :=
  (s.modCommand u fun c => { c with phase := phase, left := l.length }).requestBursts (u / 64) l

/-- The end of an UPDATE or ROWWRITE before its write: it ends at once, or its write bursts are requested. -/
def State.writePhase (s : State) (u : Nat) (c : UnitCommand) : RowEnd → State
  | .refused => (s.refusedCommand u).endCommand u c (rowCompletion stBadValue 0 none)
  | .kept st row => s.endCommand u c (keptCompletion st row)
  | .done st _ none => s.endCommand u c (rowCompletion st 0 none)
  | .done st n (some image) =>
    (s.modCommand u fun c => { c with completion := rowCompletion st n image, clipped := n }).enterPhase u 3
      (writeBursts u (cmdRow c.bytes 0) image)

/-- A QLOAD has loaded its image: the slot of every unit that holds it is filled (R173). -/
def State.endLoad (s : State) (c : UnitCommand) : State :=
  let slot := ((bitList 8 (cmdMask c.bytes)).head?).getD 0
  let q : QuerySlot := { context := cmdContext c.bytes, image := cmdData c.bytes, poisoned := c.poisoned }
  (s.holders c).foldl (fun s u => (s.modUnit u fun x => { x with slots := SMap.set x.slots slot q }).dropCommand u) s

/-- The phase of a unit's running command is over: the next begins (R173, R174, R176, R177). -/
def State.nextPhase (s : State) (u : Nat) (c : UnitCommand) : State :=
  let b := c.bytes
  let read := (s.unit u).rowBuffer
  if c.phase = 3 then s.endCommand u c c.completion
  else if cmdOp b = 1 then s.endLoad c
  else if cmdOp b = 4 then s.writePhase u c (rowwriteEnd b c.poisoned)
  else if c.phase ≤ 1 then s.enterPhase u 2 (readBursts u (cmdRefs b))
  else if cmdOp b = 2 then
    (s.answer (cmdTag b) (s.scanRecords u (cmdContext b) (cmdMask b) (cmdRefs b) read)).dropCommand u
  else s.writePhase u c (updateEnd b c.poisoned read)

/-- Begin the command at the head of a unit: refused, or its first bursts are requested. A QLOAD to a whole stack begins when it
is the head of every unit that holds it, with one set of bursts (R169, R178). -/
def State.beginCommand (s : State) (u : Nat) (c : UnitCommand) : State :=
  let b := c.bytes
  if s.refuses u b then
    if cmdOp b ≤ 2 then (s.refusedCommand u).dropCommand u
    else (s.refusedCommand u).endCommand u c (rowCompletion stBadValue 0 none)
  else
    let loads := loadBursts u (cmdLength b) (cmdWhole b)
    if cmdOp b = 1 then
      let held := s.holders c
      if !(held.all fun v => ((s.unit v).commands.head?).any fun x => x.number = c.number) then s
      else if loads.isEmpty then s.endLoad c
      else (held.foldl (fun s v => s.modCommand v fun c => { c with phase := 1, left := loads.length }) s).requestBursts (u / 64) loads
    else if loads.isEmpty then s.nextPhase u c
    else s.enterPhase u 1 loads

/-- Begin every command of a stack that is the head of its unit and waits. -/
def State.beginHeads (s : State) (stack : Nat) : State :=
  (s.nmu.units.filter fun p => p.1 / 64 = stack).foldl (fun s p =>
    match (s.unit p.1).commands with
    | c :: _ => if c.phase = 0 then s.beginCommand p.1 c else s
    | [] => s) s

/-- Begin what can begin on a stack, until nothing more ends at once. -/
def State.runStack (s : State) (stack : Nat) : State :=
  let n := sumNat ((s.nmu.units.filter fun p => p.1 / 64 = stack).map fun p => p.2.commands.length)
  (List.range n).foldl (fun s _ => s.beginHeads stack) s

/-- Count a command received. -/
def State.countReceived (s : State) : State := { s with nmu := { s.nmu with received := s.nmu.received + 1 } }

/-- Units receive a command: it stands behind those that they have, and begins where it is the head (R178). -/
def State.receive (s : State) (units : List Nat) (c : UnitCommand) : State :=
  let c1 := { c with number := s.nmu.received }
  ((units.foldl (fun s u => s.modUnit u fun x => { x with commands := x.commands ++ [c1] }) s).countReceived).runStack
    (units.headD 0 / 64)

/-- A command as it is received. -/
def newCommand (b : Bytes) (poisoned : Bool) : UnitCommand :=
  { number := 0, bytes := b, poisoned := poisoned, phase := 0, left := 0, completion := [], clipped := 0, own := false,
    move := none, twin := none }

/-- The units that a command names and that take commands now: all of a stack's for a QLOAD with bit 15 of the unit field
(R171, R187). -/
def State.namedUnits (s : State) (b : Bytes) : List Nat :=
  (if cmdOp b = 1 && cmdWhole b then (List.range 64).map (cmdUnit b / 64 * 64 + ·) else [cmdUnit b]).filter s.unitRuns

/-- A unit command of an opcode comes to its stack's controller. One of another opcode, as one with a field out of place, is
refused (R178). -/
def unitCommandEff (op : Nat) (b : Bytes) (poisoned : Bool) (s : State) : State :=
  let units := s.namedUnits b
  if !s.working || units.isEmpty then s
  else if cmdOp b ≠ op then s.refusedCommand (cmdUnit b)
  else s.receive units (newCommand b poisoned)

/-- QLOAD (R173) -/
def execQload (command : Bytes) (poisoned : Bool) (s : State) : Host.Outcome State Fault Refusal :=
  guarded true (unitCommandEff 1 command poisoned) s

/-- SCAN (R174, R175, R178) -/
def execScan (command : Bytes) (s : State) : Host.Outcome State Fault Refusal := guarded true (unitCommandEff 2 command false) s

/-- UPDATE (R176, R178, R184, R186) -/
def execUpdate (command : Bytes) (poisoned : Bool) (s : State) : Host.Outcome State Fault Refusal :=
  guarded true (unitCommandEff 3 command poisoned) s

/-- ROWWRITE (R177, R178, R184, R186) -/
def execRowwrite (command : Bytes) (poisoned : Bool) (s : State) : Host.Outcome State Fault Refusal :=
  guarded true (unitCommandEff 4 command poisoned) s

/-! ## The gate (R34, R169, R170, R179, R181) -/

/-- Does an access wait in the bank that a burst would use? It is granted ahead of the burst (R180). -/
def State.awaited (s : State) (x : Burst) : Bool :=
  let mine (b : Nat) : Bool := b / 2 ^ 24 = x.unit && b / 32 % 64 = x.bank
  (s.nmu.dieWaiters.any fun w => (rangeBlocks w.1 w.2.1).any mine) ||
    s.nmu.lockWaiters.any fun w => (s.opBlock w.2).any mine

/-- May a waiting burst start: its unit runs none, no burst of its unit waits ahead of it, and no access waits for its bank, but
for the booked starts of a row whose lock that access waits for (R180, R181)? -/
def State.mayStart (s : State) (ahead : List Burst) (x : Burst) : Bool :=
  (s.unit x.unit).burst.isNone && !(ahead.any fun y => y.unit = x.unit) && (x.booked || x.kind = 2 || !s.awaited x)

/-- Pseudo-channels of a stack that are in a burst: a load burst into several units counts as one (R169). -/
def State.inBurst (s : State) (stack : Nat) : Nat :=
  (s.nmu.units.filter fun p => p.1 / 64 = stack && p.2.burst.any fun x => x.unit = p.1).length

/-- Start a burst: a write burst takes its row's lock (R179), a load burst for a whole stack runs in every unit that holds its
command (R169). -/
def State.startBurst (s : State) (stack : Nat) (x : Burst) : State :=
  let units := if x.whole then (((s.unit x.unit).commands.head?).map s.holders).getD [x.unit] else [x.unit]
  let s1 := units.foldl (fun s u => s.modUnit u fun n =>
    { n with burst := some x, lock := if x.kind = 1 then some (x.row, x.rowBlocks) else n.lock }) s
  let s2 := s1.modStack stack fun c =>
    { c with reads := c.reads + bit01 (x.kind = 0), writes := c.writes + bit01 (x.kind = 1), loads := c.loads + bit01 (x.kind = 2) }
  { s2 with nmu := { s2.nmu with
      granted := SMap.alter s2.nmu.granted stack 0 (· + 1),
      bursts := units.foldl (fun m u => SMap.alter m u 0 (· + 1)) s2.nmu.bursts } }

/-- The later write bursts of a row whose first one is granted in a slot, with the slot booked for each: every burst ahead lasts
260 cycles, so they follow 11 slots apart (R181). -/
def bookedFor (slot : Nat) (x : Burst) (l : List Burst) : List Burst :=
  let later := l.filter fun y => y.unit = x.unit && y.kind = 1 && y.row = x.row && !y.booked
  (List.range (x.rowBlocks / 32 + 1)).filterMap fun i =>
    (later[i]?).map fun y => { y with booked := true, slot := slot + 11 * (i + 1) }

/-- Can the starts that a write burst needs after it be booked: fewer than 4 are, in each slot, and the slots lie in the
stride (R181)? -/
def canBook (slots : Nat) (all book : List Burst) : Bool :=
  book.all fun y => decide (y.slot < slots) && decide ((all.filter fun z => z.booked && z.slot = y.slot).length < 4)

/-- Take the bursts that start in a slot, at most `n`, from a list in the order of granting; answer those that still wait. A
booked burst does not start before its slot. -/
def State.grantFrom (s : State) (stack slot slots : Nat) : Nat → Nat → List Burst → List Burst → State × List Burst
  | 0, _, ahead, l => (s, ahead ++ l)
  | _, 0, ahead, l => (s, ahead ++ l)
  | _, _, ahead, [] => (s, ahead)
  | fuel + 1, n + 1, ahead, x :: l =>
    let book := if x.kind = 1 && !x.booked then bookedFor slot x l else []
    if s.mayStart ahead x && (!x.booked || decide (x.slot ≤ slot)) && canBook slots (ahead ++ l) book then
      let rest := l.map fun y =>
        (book.find? fun z => z.unit = y.unit && z.kind = y.kind && z.row = y.row && z.blocks = y.blocks && !y.booked).getD y
      (s.startBurst stack x).grantFrom stack slot slots fuel n ahead rest
    else s.grantFrom stack slot slots fuel (n + 1) (ahead ++ [x]) l

/-- Pseudo-channels of a stack that the gate lets be in a burst at once (R34, R169). -/
abbrev burstLimit : Nat := 44

/-- BURST_GRANT (R170): one slot of the gate, of the W / 25 of a stride (R34). Booked starts come first. -/
def burstGrantEff (stack : Nat) (s : State) : State :=
  let slot := SMap.getD s.nmu.slots stack 0
  let slots := workCycles s.clk.code / 25
  if !s.working || slots ≤ slot then s
  else
    let w := SMap.getD s.nmu.waiting stack []
    let order := (w.filter (·.booked)) ++ w.filter fun x => !x.booked
    let s1 := { s with nmu := { s.nmu with
      waiting := SMap.set s.nmu.waiting stack [], slots := SMap.set s.nmu.slots stack (slot + 1) } }
    let (t, left) := s1.grantFrom stack slot slots order.length (min 4 (burstLimit - s1.inBurst stack)) [] order
    { t with nmu := { t.nmu with waiting := SMap.set t.nmu.waiting stack left } }

/-- BURST_GRANT: stacks 0 to 7. -/
def execBurstGrant (stack : Nat) (s : State) : Host.Outcome State Fault Refusal :=
  guarded (decide (stack < 8)) (burstGrantEff stack) s

/-- A burst has moved its blocks: what a read burst read is in the row buffer, a write burst's piece is in HBM, and at the last
write burst of a row its lock is released (R179, R184). -/
def State.burstMoved (s : State) (u ctx : Nat) (x : Burst) : State :=
  if x.kind = 0 then
    (s.countBlocks ctx x.blocks).modUnit u fun n =>
      { n with burst := none, rowBuffer := n.rowBuffer ++ x.blocks.map fun b => (s.unitRead ctx b).held }
  else if x.kind = 1 then
    (s.unitWrite ctx x.blocks x.image).modUnit u fun n => { n with burst := none, lock := if x.last then none else n.lock }
  else s.modUnit u fun n => { n with burst := none }

/-- A burst of a unit's running command has ended: with the last of its phase the next phase begins. -/
def State.burstDone (s : State) (u : Nat) : State :=
  match (s.unit u).commands with
  | [] => s
  | c :: _ =>
    if c.left = 1 then s.nextPhase u c
    else s.modCommand u fun c => { c with left := c.left - 1 }

end Sys2Proof.Machine
end

