-- ==== Sys2Proof/Machine/Engine.lean ====
section
/-! DEFINITION. What the migration engine and the training path do in HBM: where a row copy goes (R168, R201, R209, R234) and
the unit commands that they issue of their own (R170, R227 to R229, R247). -/

namespace Sys2Proof.Machine

/-! ## Places of row copies -/

/-- The offsets at which copies of rows of `row` bytes lie in a granule: 64-byte aligned, as many to a 2 KiB range as fit
(R168). -/
def copyRuns (row : Nat) : List Nat :=
  let n := if row = 0 then 0 else if row ≤ 2048 then granuleSize / 2048 * (2048 / row) else granuleSize / roundUp row 2048
  (List.range n).map fun i => copyRun i row

/-- Free places for a copy of a row of `row` bytes in a granule, given the spans in use. -/
def freePlaces (spans : List (Nat × Nat)) (row g : Nat) : List Nat :=
  ((copyRuns row).map fun o => g * granuleSize + o).filter fun a => !(spans.any fun p => a < p.1 + p.2 && p.1 < a + row)

/-- The free places of a context on each unit of a list whose pseudo-channel may hold a copy now: the unit is mounted, and in
service in a running gait (R187, R209). -/
def State.placesOn (s : State) (ctx row : Nat) (units : List Nat) : List (List Nat) :=
  let spans := s.hbmSpans ctx
  let mine := ownedBy s.mem.hbmTags ctx
  (units.filter s.unitRuns).map fun u => (mine.filter fun g => g / 1024 = u).flatMap (freePlaces spans row)

/-- The lowest place on the unit with the most free ones, the first of equals. -/
def bestPlace (free : List (List Nat)) : Option Nat :=
  (free.foldl (fun (b : List Nat) l => if b.length < l.length then l else b) []).head?

/-- R209: where a promotion goes on a stack: the pseudo-channel with the most free space of the context, the lowest of
equals, and there the lowest place. -/
def State.placeOn (s : State) (ctx row stack : Nat) : Option Nat :=
  bestPlace (s.placesOn ctx row ((List.range 64).map (64 * stack + ·)))

/-- R234: where a new dirty copy goes: over the stacks of the residency mask, the pseudo-channel with the most free space,
the lowest stack and then the lowest pseudo-channel of equals. -/
def State.dirtyPlace (s : State) (ctx row mask : Nat) : Option Nat :=
  bestPlace (s.placesOn ctx row ((bitList 8 mask).flatMap fun k => (List.range 64).map (64 * k + ·)))

/-! ## Their unit commands -/

/-- The bytes of a row command of opcode `op` on the row of `blocks` blocks at an HBM address (R171, R172). An engine's own
command has no request tag of the tag space: its tag field is 0. -/
def rowCommand (op ctx address blocks : Nat) (data : Bytes) : Bytes :=
  toLe 1 op ++ zeros 1 ++ toLe 2 ctx ++ zeros 4 ++ toLe 2 (address / 2 ^ 30) ++ toLe 1 1 ++ zeros 1 ++ toLe 4 data.length ++
    toLe 4 (address % 2 ^ 30 / 64 + blocks * 2 ^ 24) ++ data

/-- An engine issues a row command: its unit receives it behind those that it has (R178). -/
def State.issueRow (s : State) (op ctx address blocks : Nat) (data : Bytes) (poisoned : Bool) (move : Option (Nat × Nat))
    (twin : Option Nat) : State :=
  let u := address / 2 ^ 30
  if s.unitRuns u then
    s.receive [u] { newCommand (rowCommand op ctx address blocks data) poisoned with own := true, move := move, twin := twin }
  else s

/-- ROWWRITE of a row image (R177). -/
def State.issueRowwrite (s : State) (ctx address : Nat) (image : Bytes) (poisoned : Bool) (move : Option (Nat × Nat)) : State :=
  s.issueRow 4 ctx address (ceilDiv image.length 64) image poisoned move none

/-- UPDATE of a row of `blocks` blocks by a vector (R176); `twin` is the status that the row's writable copy had of the same
update, where this one is its dual (R228, R230). -/
def State.issueUpdate (s : State) (ctx address blocks : Nat) (delta : List Word32) (move : Option (Nat × Nat))
    (twin : Option Nat) : State :=
  s.issueRow 3 ctx address blocks (padTo 64 (delta.flatMap fun w => toLe 4 w.toNat)) false move twin

/-- Put the place of a table row's dirty copy. -/
def Table.setPlace (x : Table) (row address : Nat) : Table := { x with places := SMap.set x.places row address }

/-- R234: the place of a row that is about to have a dirty copy. A hot copy becomes it without moving data; otherwise its bytes
go by ROWWRITE to the place of R234. -/
def State.placeDirty (s : State) (id row : Nat) (bytes : Bytes) : State :=
  match SMap.find? s.tables id with
  | none => s
  | some x =>
    if SMap.has x.places row then s
    else
      match x.resid.hot.find? fun h => h.row = row with
      | some h =>
        s.modTable id fun x =>
          { x.setPlace row h.address with resid := { x.resid with hot := x.resid.hot.filter fun h => h.row ≠ row } }
      | none =>
        match s.dirtyPlace x.context (rowBytes x.width x.dim) x.resid.mask.toNat with
        | some a => (s.modTable id fun x => x.setPlace row a).issueRowwrite x.context a bytes false none
        | none => s

/-- R228: the dual of a step's update of a row, to the destination of a move of the row in this stride; `status` is the writable
copy's outcome. -/
def State.issueDual (s : State) (id row : Nat) (delta : List Word32) (status : Nat) : State :=
  match SMap.find? s.tables id with
  | none => s
  | some x =>
    match x.resid.running.find? fun m => m.row = row with
    | some m => s.issueUpdate x.context m.address (rowBytes x.width x.dim / 64) delta (some (id, row)) (some status)
    | none => s

/-- A step's update of a row goes to its dirty copy (R247). -/
def State.issueStepUpdate (s : State) (id row : Nat) (delta : List Word32) : State :=
  match SMap.find? s.tables id with
  | none => s
  | some x =>
    match SMap.find? x.places row with
    | some a => s.issueUpdate x.context a (rowBytes x.width x.dim / 64) delta none none
    | none => s

end Sys2Proof.Machine
end

