-- ==== Sys2Proof/Machine/Lookup.lean ====
section
/-! DEFINITION. Embedding lookups: their admission, the row reads of a serving member, pooling and the feature rows of
scoring programs (R89, R157, R209, R235 to R239). -/

namespace Sys2Proof.Machine

/-! ## Hit counters (R209) -/

/-- Count a read of a row from DDR: the counter saturates at 255, and a row that reaches 16 without a hot copy enters the
candidate table. The mark says that the table was full. -/
def Residency.touch (r : Residency) (row : Nat) : Residency × Bool :=
  let old := SMap.getD r.hits row 0
  let r1 := { r with hits := SMap.set r.hits row (min 255 (old + 1)) }
  if old = 15 ∧ ¬ (r.hot.any fun h => h.row = row) ∧ ¬ r.candidates.contains row then
    if r.candidates.length < 4096 then ({ r1 with candidates := r1.candidates ++ [row] }, false) else (r1, true)
  else (r1, false)

/-- Count the reads of rows of an object from DDR. -/
def State.touchRows (s : State) (object : Nat) (rows : List Nat) : State :=
  rows.foldl (fun s row =>
    match s.object? object with
    | none => s
    | some (_, r) =>
      let s1 := s.modResidency object fun r => (r.touch row).1
      if (r.touch row).2 then s1.count fun c => { c with residency := c.residency + 1 } else s1) s

/-- Has a row of an object a hot copy? -/
def Residency.isHot (r : Residency) (row : Nat) : Bool := r.hot.any fun h => h.row = row

/-! ## The serving member (R89) -/

/-- The member that serves shard `j` of a span for coordinating node `c`: near when c + j is even; the other one where the
chosen one is fenced. The mark says that the choice was changed. -/
def State.servingOf (s : State) (c j span : Nat) : Nat × Bool :=
  let chosen := if (c + j) % 2 = 0 then 2 * span else 2 * span + 1
  if s.isFenced chosen && !s.isFenced (partnerOf chosen) then (partnerOf chosen, true) else (chosen, false)

/-- Does this node hold a shard (R318)? -/
def State.holds (s : State) (map : List Nat) (j : Nat) : Bool := decide (j < map.length) && decide (spanAt map j = s.me / 2)

/-- The member of a span that R89 chooses for shard `j` of coordinating node `c`, were both live. -/
def chosenMember (c j span : Nat) : Nat := if (c + j) % 2 = 0 then 2 * span else 2 * span + 1

/-- The class of a context that takes forwarded work of a kind, and the work's plan length: the class of that kind fed by no
ring, or, for work taken over from a fenced partner, the context's detour class (R38, R330). -/
def State.serveClass (s : State) (ctx kind : Nat) (takeover : Bool) : Option (Nat × Nat) :=
  let g := s.gaitNow.1
  let lenOf (k : Nat) : Nat := ((g.cls? k).map (·.len)).getD 1
  match g.freeClassOf ctx kind, g.freeClassOf ctx 7 with
  | some k, some d => some (if takeover then d else k, lenOf k)
  | some k, none => if takeover then none else some (k, lenOf k)
  | none, some d => if takeover then some (d, lenOf d) else none
  | none, none => none

/-- Has a row a hot copy that a running unit may score: the copy is that of the row which the slot holds in the current version or
in the delta log (R207, R209), on a pseudo-channel whose unit runs (R187)? -/
def Index.copyRuns (x : Index) (s : State) (r : Row) : Bool :=
  x.genAt r.shard r.slot = some r.gen &&
    x.resid.hot.any fun h => h.row = slotKey r.shard r.slot && s.unitRuns (h.address / 2 ^ 30)

/-! ## Tiles (R148 to R150) -/

/-- A scoring tile. -/
def State.tile (s : State) (n : Nat) : Tile := SMap.getD s.tiles n Tile.reset

/-- Put a tile. -/
def State.putTile (s : State) (n : Nat) (t : Tile) : State := { s with tiles := SMap.set s.tiles n t }

/-- The cycles a tile spends on zeroing before a share of a context (R149). -/
def Tile.zeroing (t : Tile) (ctx : Nat) : Nat := if t.context.isSome && t.context ≠ some ctx then 512 else 0

/-- A tile takes up a share of a context: its SRAM is zeroed where the share before was another context's (R149), and the
errors that its code corrected are counted (R150). -/
def State.useTile (s : State) (u : TileUse) (ctx : Nat) : State :=
  (if (s.tile u.tile).context = some ctx then s else s.putTile u.tile { Tile.reset with context := some ctx }).count
    fun c => { c with tileFixes := c.tileFixes + u.fixed }

/-! ## Views (R235) -/

/-- The version field of the live view. -/
abbrev liveView : Nat := 0xFFFF_FFFF_FFFF_FFFF

/-- The version that a view reads: the current one, the training base, or a named one that is retained or current. None
until the table's first version is current and filled (R423). -/
def Table.viewVersion (x : Table) (view : Nat) : Option Nat :=
  match x.current with
  | none => none
  | some c =>
    if !c.filled then none
    else if view = 0 then some c.num
    else if view = liveView then some x.base
    else (x.version? view).bind fun v => if v.st = 3 ∨ v.st = 4 then some v.num else none

/-- May a lookup that was admitted read a view's rows: a named version serves those until it is freed (R254)? -/
def Table.readable (x : Table) (view : Nat) : Bool :=
  (x.viewVersion view).isSome || (x.version? view).any fun v => v.st = 5 && v.filled

/-- A row of a view. -/
def Table.viewRow (x : Table) (view id : Nat) : Option TableRow :=
  if view = liveView then x.liveRow id
  else ((if view = 0 then x.current else x.version? view)).bind fun v => v.rowAt id

/-! ## LOOKUP_ADMISSION (R236, R237, R239) -/

/-- Bag sizes of an entry. -/
def bagSizes (e : Bytes) : List Nat := (List.range (le e 16 2)).map fun i => le e (64 + 2 * i) 2

/-- Where the row ids of an entry begin. -/
def rowsOffset (e : Bytes) : Nat := 64 + roundUp (2 * le e 16 2) 8

/-- Row ids of an entry. -/
def lookupRows (e : Bytes) : List Nat := (List.range (sumNat (bagSizes e))).map fun i => le e (rowsOffset e + 8 * i) 6

/-- Bytes of a bag's result. -/
def bagBytes (dim format : Nat) : Nat := 64 * ceilDiv (dim * (if format = 0 then 4 else 2)) 64

/-- R239: the status of a lookup entry, by the order of R85; a table that is closing is as none (R256). Reserved bytes behind
the header are ignored (R6). -/
def State.lookupStatus (s : State) (r : Ring) (e : Bytes) : Nat :=
  let b := le e 16 2
  let sizes := bagSizes e
  let total := sumNat sizes
  let len := le e 20 4
  if len < 64 ∨ r.slotSize < len ∨ len ≠ rowsOffset e + 8 * total then stBadLength
  else if !zeroAt e 36 28 then stBadFormat
  else
    match SMap.find? s.tables (le e 4 4) with
    | none => stBadValue
    | some x =>
      if x.closing.isSome then stBadValue
      else if x.context ≠ r.context then stNotOwner
      else if b < 1 ∨ 256 < b ∨ 2 < byteAt e 18 ∨ 1 < byteAt e 19 ∨ 2048 < total ∨
          (sizes.any fun n => n < 1 || 256 < n || (byteAt e 18 = 0 && n ≠ 1)) then stBadValue
      else if le e 32 4 ≠ b * bagBytes x.dim (byteAt e 19) then stBadLength
      else if !s.ownsHbm r.context (le e 24 8) (le e 32 4) then stNotOwner
      else if (x.viewVersion (le e 8 8)).isNone then stNoVersion
      else stOk

/-- The lookup completion entry (R239). -/
def lookupCompletion (id status flags admitAt version absent : Nat) : Bytes :=
  toLe 4 id ++ toLe 2 status ++ toLe 2 flags ++ toLe 8 admitAt ++ toLe 8 version ++ toLe 4 absent ++ zeros 4

/-- The lookup sub-request (R238). -/
def lookupSub (node shard handle admitAt table context version : Nat) (rows : List Nat) : Bytes :=
  toLe 2 node ++ toLe 2 shard ++ toLe 4 handle ++ toLe 8 admitAt ++ toLe 4 table ++ toLe 2 context ++ toLe 2 rows.length ++
    toLe 8 version ++ rows.flatMap (toLe 8)

/-- Send each shard its rows, in entry order, in ascending shard; answer the shards asked. -/
def State.sendLookups (s : State) (x : Table) (table handle admitAt version : Nat) (rows : List Nat) : State × List Nat :=
  let shard (r : Nat) : Nat := shardOf x.seed x.shards r
  let asked := (List.range x.shards).filter fun j => rows.any fun r => shard r = j
  (asked.foldl (fun s j =>
    s.send 2 (s.servingOf s.me j (spanAt x.map j)).1
      (lookupSub s.me j handle admitAt table x.context version (rows.filter fun r => shard r = j))) s, asked)

/-- LOOKUP_ADMISSION on an entry taken in. -/
def State.admitLookup (s : State) (tag : Nat) (a : Admission) : State :=
  let e := a.entry
  let st := s.lookupStatus a.ring e
  match SMap.find? s.tables (le e 4 4) with
  | some x =>
    if st ≠ stOk then s.complete a.id s.stride a.order (lookupCompletion (le e 0 4) st 0 s.stride 0 0)
    else
      let rows := lookupRows e
      let (t, asked) := (s.takeTag tag).sendLookups x (le e 4 4) tag s.stride (le e 8 8) rows
      let l : Lookup :=
        { ring := a.id, order := a.order, cls := a.cls, elastic := a.elastic, lookupId := le e 0 4, table := le e 4 4,
          view := le e 8 8, version := (x.viewVersion (le e 8 8)).getD 0, admitAt := s.stride, len := a.len, bags := bagSizes e,
          pooling := byteAt e 18, format := byteAt e 19, address := le e 24 8, rows := rows, got := [],
          awaiting := asked, flags := 0, absent := 0, late := false }
      ({ t with work := { t.work with lookups := SMap.set t.work.lookups tag l } }).takeShare s.stride a.cls 1 asked.length
  | none => s.complete a.id s.stride a.order (lookupCompletion (le e 0 4) st 0 s.stride 0 0)

/-- LOOKUP_ADMISSION: without a free request tag the entry waits in its ring. -/
def lookupAdmissionEff (ring : Nat) (entry : Bytes) (s : State) : State :=
  match s.freeTag with
  | none => s
  | some t => s.admitRing ring 3 entry fun s a => s.admitLookup t a

/-- LOOKUP_ADMISSION: ring ids are 4 × context + doorbell index (R375). -/
def execLookupAdmission (ring : Nat) (entry : Bytes) (s : State) : Host.Outcome State Fault Refusal :=
  guarded (decide (ring < 16384)) (lookupAdmissionEff ring entry) s

/-! ## The serving member (R237, R238) -/

/-- Count a reply that came after its stride (R105). -/
def State.lateReply (s : State) : State := s.count fun c => { c with lateReplies := c.lateReplies + 1 }

/-- What a shard's reply says beside its body: the handle, the shard and the sender (log entry 24). -/
def replyAside (handle shard node : Nat) : Bytes := toLe 4 handle ++ toLe 2 shard ++ toLe 2 node

/-- What a lookup reply says of a row beside its values: its id, and 0 read, 1 absent, 2 poisoned (log entry 24). -/
def rowAside (id state : Nat) : Bytes := toLe 6 id ++ toLe 2 state

/-- A row's D values in a lookup reply (R238). -/
def replyRow (dim : Nat) (values : List Word32) : Bytes := (List.range dim).flatMap fun i => toLe 4 (values.getD i 0).toNat

/-- The rows of a sub-request. -/
def subRows (m : Bytes) : List Nat := (List.range (le m 22 2)).map fun i => le m (32 + 8 * i) 6

/-- A row as a view gives it to a lookup: 0 read with its values, 1 absent, 2 poisoned. -/
def Table.readRow (x : Table) (view : Nat) (poisoned : List Nat) (id : Nat) : Nat × List Word32 :=
  match x.viewRow view id with
  | none => (1, [])
  | some r => if r.poisoned || poisoned.contains id then (2, []) else (0, rowValues r.row)

/-- The rows of a sub-request that are read from DDR: those that the view holds, without a dirty or a hot copy to read
(R209, R235). -/
def Table.ddrReads (x : Table) (view : Nat) (rows : List Nat) : List Nat :=
  rows.filter fun id => (x.viewRow view id).isSome && !(view = liveView && x.dirty.any fun r => r.id = id) &&
    !(x.resid.isHot id && x.viewRow view id = x.viewRow 0 id)

/-- Where the copies in HBM that a sub-request reads lie, by row (R207, R235). -/
def Table.copyReads (x : Table) (view : Nat) (rows : List Nat) : List (Nat × Nat) :=
  rows.filterMap fun id =>
    if (x.viewRow view id).isNone ∨ (x.ddrReads view [id]).contains id then none
    else if view = liveView && x.dirty.any fun r => r.id = id then (SMap.find? x.places id).map fun a => (id, a)
    else (x.resid.hot.find? fun h => h.row = id).map fun h => (id, h.address)

/-- The bytes of a table's row. -/
def Table.rowSize (x : Table) : Nat := rowBytes x.width x.dim

/-- Copies that a sub-request reads and that a unit holds now (R180). -/
def State.copiesHeld (s : State) (x : Table) (m : Bytes) : List Nat :=
  ((x.copyReads (le m 24 8) (subRows m)).map (·.2)).filter fun a => s.dieWaits a x.rowSize

/-- The row reads of a sub-request, and its reply (R237, R238). What the reads of copies in HBM meet is counted (R185, R188), and a
copy of which a block is lost is a poisoned row. -/
def State.serveLookup (s : State) (x : Table) (m : Bytes) (poisoned : List Nat) : State :=
  let view := le m 24 8
  let rows := subRows m
  let copies := x.copyReads view rows
  let lost := (copies.filter fun c => (rangeBlocks c.2 x.rowSize).any fun b => (s.blockRead b).lost).map (·.1)
  let t := copies.foldl (fun s c => (s.countRange c.2 x.rowSize).endDieWait c.2 x.rowSize) s
  let read (id : Nat) : Nat × List Word32 := x.readRow view (poisoned ++ lost) id
  (t.touchRows (le m 16 4) (x.ddrReads view rows)).sendWith 2 (le m 0 2 % 2 ^ 15)
    (rows.flatMap fun id => replyRow x.dim (read id).2)
    (replyAside (le m 4 4 % 2 ^ 18) (le m 2 2) s.me ++ rows.flatMap fun id => rowAside id (read id).1)

/-- Is the apply barrier of a table up: a step's updates of this stride are not all in (R235), or a row awaits the partner's
repair in this stride (R248)? -/
def State.barred (s : State) (x : Table) : Bool :=
  x.steps.any fun t =>
    (t.admitAt + 3 = s.stride && t.stage = 2 && t.void.isNone) ||
      (t.admitAt + 4 = s.stride && t.applied && !s.isFenced s.partner && t.poisoned.any fun r => !t.peerPoisoned.contains r)

/-- Serve a sub-request of a table, or hold it while a unit holds a copy that it reads (R180). -/
def State.serveOrHold (id : Nat) (s : State) (w : Bytes × List Nat) : State :=
  match SMap.find? s.tables id with
  | none => s
  | some x =>
    let held := s.copiesHeld x w.1
    if held.isEmpty then s.serveLookup x w.1 w.2
    else (held.foldl (fun s a => s.countDieWait a x.rowSize) s).modTable id fun x => { x with barrier := x.barrier ++ [w] }

/-- The sub-requests that the apply barrier or a unit held are served once it is down, in order. -/
def State.passBarrier (s : State) (id : Nat) : State :=
  match SMap.find? s.tables id with
  | none => s
  | some x =>
    if x.barrier.isEmpty ∨ s.barred x then s
    else x.barrier.foldl (State.serveOrHold id) (s.modTable id fun x => { x with barrier := [] })

/-- The sub-requests of every table that can be served now. -/
def State.passHeld (s : State) : State := (s.tables.map (·.1)).foldl State.passBarrier s

/-- A version that a lookup reads is kept past that lookup's completion (R254). -/
def Table.keepFor (x : Table) (view last : Nat) : Table :=
  { x with versions := x.versions.map fun v => if v.num = view then { v with keepTo := max v.keepTo last } else v }

/-- LOOKUP_SUB_REQUEST_RECEIVE: `poisoned` names the rows whose read meets poison. While the apply barrier is up the reads
wait (R235). -/
def lookupSubRequestReceiveEff (m : Bytes) (poisoned : List Nat) (s : State) : State :=
  let shard := le m 2 2
  let ctx := le m 20 2 % 4096
  let view := le m 24 8
  if !s.working then s
  else
    match SMap.find? s.tables (le m 16 4), s.serveClass ctx 3
        (chosenMember (le m 0 2 % 2 ^ 15) shard (s.me / 2) ≠ s.me && s.isFenced s.partner) with
    | some x, some (k, len) =>
      if x.context ≠ ctx ∨ !s.holds x.map shard ∨ !x.readable view ∨ !s.classRoom k ∨ s.stride ≠ le m 8 8 + 1 then
        s.scheduledDrop
      else
        let t := (s.admitTo k).takeShare s.stride k 0 1
        let t1 := t.modTable (le m 16 4) fun x => x.keepFor view (s.stride + len + 1)
        if s.barred x then t1.modTable (le m 16 4) fun x => { x with barrier := x.barrier ++ [(m, poisoned)] }
        else State.serveOrHold (le m 16 4) t1 (m, poisoned)
    | _, _ => s.scheduledDrop

/-- LOOKUP_SUB_REQUEST_RECEIVE -/
def execLookupSubRequestReceive (message : Bytes) (poisoned : List Nat) (s : State) : Host.Outcome State Fault Refusal :=
  guarded true (fun s => s.arrives 2 (le message 0 2 % 2 ^ 15) message (lookupSubRequestReceiveEff message poisoned)) s

/-! ## The coordinating node (R237, R157) -/

/-- The rows of a lookup reply: (row id, state, values). -/
def parseReplyRows (dim : Nat) (m aside : Bytes) : List (Nat × Nat × List Word32) :=
  ((chunks 8 2048 (aside.drop 8)).zip (List.range 2048)).map fun p => (le p.1 0 6, le p.1 6 2, elemsAt 0 m (4 * dim * p.2) dim)

/-- Take a lookup's reply of one shard. -/
def Lookup.take (l : Lookup) (shard : Nat) (rows : List (Nat × Nat × List Word32)) : Lookup :=
  { l with
    awaiting := l.awaiting.filter (· ≠ shard),
    got := l.got ++ (rows.filter fun r => r.2.1 = 0).map fun r => (r.1, r.2.2),
    absent := l.absent + (rows.filter fun r => r.2.1 = 1).length,
    flags := if rows.any fun r => r.2.1 = 2 then l.flags ||| 1 else l.flags }

/-- LOOKUP_REPLY_RECEIVE: a lookup's reply in stride S+1, or feature rows of a query's program by S+L−2 (R157). -/
def lookupReplyReceiveEff (m aside : Bytes) (s : State) : State :=
  let h := le aside 0 4 % 2 ^ 18
  let shard := le aside 4 2
  match SMap.find? s.work.lookups h with
  | some l =>
    match SMap.find? s.tables l.table with
    | some x =>
      if s.stride ≠ l.admitAt + 1 ∨ !l.awaiting.contains shard then s.lateReply
      else { s with work := { s.work with lookups := SMap.set s.work.lookups h (l.take shard (parseReplyRows x.dim m aside)) } }
    | none => s.lateReply
  | none =>
    match SMap.find? s.work.queries h with
    | some q =>
      match (SMap.find? s.programs (q.context * 2 ^ 16 + q.program)).bind fun p => SMap.find? s.tables p.featTable with
      | some x =>
        if q.admitAt + q.len < s.stride + 2 ∨ !q.featAwait.contains shard then s.lateReply
        else
          let rows := parseReplyRows x.dim m aside
          let s1 := s.count fun c => { c with features := c.features + (rows.filter fun r => r.2.1 = 1).length }
          let q1 : Query :=
            { q with
              featAwait := q.featAwait.filter (· ≠ shard),
              features := q.features ++ (rows.filter fun r => r.2.1 = 0).map (fun r => (r.1, r.2.2)),
              flags := if rows.any fun r => r.2.1 = 2 then q.flags ||| hdrPoisoned else q.flags,
              featPoisoned := q.featPoisoned ++ (rows.filter fun r => r.2.1 = 2).map (·.1) }
          { s1 with work := { s1.work with queries := SMap.set s1.work.queries h q1 } }
      | none => s.lateReply
    | none => s.lateReply

/-- LOOKUP_REPLY_RECEIVE -/
def execLookupReplyReceive (message aside : Bytes) (s : State) : Host.Outcome State Fault Refusal :=
  guarded true (fun s => s.arrives 2 (le aside 6 2 % 2 ^ 15) message (lookupReplyReceiveEff message aside)) s

/-- The bags of rows. -/
def bagsOf : List Nat → List Nat → List (List Nat)
  | [], _ => []
  | n :: sizes, rows => rows.take n :: bagsOf sizes (rows.drop n)

/-- R237: the pooled vector of a bag: from +0, adding in entry order, a mean divided once. -/
def Lookup.pool (l : Lookup) (dim : Nat) (bag : List Nat) : List Word32 :=
  let row (id : Nat) : List Word32 := ((l.got.find? fun g => g.1 = id).map (·.2)).getD []
  let sum := bag.foldl (fun acc id => (List.range dim).map fun i => fadd (acc.getD i 0) ((row id).getD i 0))
    (List.replicate dim 0)
  if l.pooling = 2 then sum.map fun v => fdiv v (fofInt bag.length) else sum

/-- The result bytes of a lookup: bag vectors in order, each padded to 64 bytes. -/
def Lookup.result (l : Lookup) (dim : Nat) : Bytes :=
  (bagsOf l.bags l.rows).flatMap fun bag =>
    padTo 64 ((l.pool dim bag).flatMap fun v => if l.format = 0 then toLe 4 v.toNat else toLe 2 (toBf16 v))

/-- Flags of a lookup's completion: POISONED, ABSENT, LATE (R239). -/
def Lookup.finalFlags (l : Lookup) : Nat :=
  bit01 (bitOf l.flags 0) + 2 * bit01 (0 < l.absent) + 4 * bit01 (l.late || !l.awaiting.isEmpty)

/-- Complete a lookup and release its tag. -/
def State.finishLookup (s : State) (h : Nat) (l : Lookup) (status : Nat) : State :=
  let ctx := ((s.ring? l.ring).map (·.context)).getD 0
  let s1 := s.complete l.ring l.admitAt l.order
    (lookupCompletion l.lookupId status (if status = stOk then l.finalFlags else 0) l.admitAt l.version l.absent)
  let s2 := s1.ctxCount ctx fun c =>
    { c with late := c.late + bit01 (bitOf l.finalFlags 2), poisoned := c.poisoned + bit01 (bitOf l.flags 0) }
  ({ s2 with work := { s2.work with lookups := SMap.erase s2.work.lookups h } }).dropTag h

/-- LOOKUP_POOLING: in the last stride of the plan, S+2 of the reference plan, or later where the class is elastic (R38).
Shares whose reply is absent are stopped (R30, R238). The result's writes wait for a unit that holds their blocks (R180). -/
def lookupPoolingEff (h : Nat) (s : State) : State :=
  match SMap.find? s.work.lookups h with
  | none => s
  | some l =>
    if !s.working ∨ s.stride + 1 < l.admitAt + l.len ∨ (!l.elastic ∧ s.stride + 1 ≠ l.admitAt + l.len) then s
    else
      let t := s.countStops l.awaiting.length
      match SMap.find? s.tables l.table with
      | some x =>
        let out := l.result x.dim
        if s.dieWaits l.address out.length then s.countDieWait l.address out.length
        else
          let t := t.endDieWait l.address out.length
          (if s.ownsHbm x.context l.address out.length then t.hbmWrite l.address out else t.tagFault x.context).finishLookup h l stOk
      | none => t.finishLookup h l stOk

/-- LOOKUP_POOLING: handles are request tags (R11). -/
def execLookupPooling (handle : Nat) (s : State) : Host.Outcome State Fault Refusal :=
  guarded (decide (handle < 262144)) (lookupPoolingEff handle) s

/-! ## BURST_END -/

/-- BURST_END (R167, R179, R180): the burst in a unit ends, and what waited for its bank or its lock is performed, held
lookups' reads among it. A load burst for a whole stack ends in every unit that it runs in. -/
def burstEndEff (u : Nat) (s : State) : State :=
  match (s.unit u).burst with
  | none => s
  | some x =>
    let ctx := (((s.unit x.unit).commands.head?).map fun c => cmdContext c.bytes).getD 0
    let t :=
      if x.whole then
        let others := (s.nmu.units.filter fun p => p.2.burst = some x && p.1 ≠ x.unit).map (·.1)
        (others.foldl (fun s v => (s.modUnit v fun n => { n with burst := none }).modCommand v fun c =>
          { c with left := c.left - 1 }) s).burstMoved x.unit ctx x
      else s.burstMoved u ctx x
    (((t.burstDone x.unit).runStack (x.unit / 64)).releaseLocked).passHeld

/-- BURST_END: units 0 to 511. -/
def execBurstEnd (unit : Nat) (s : State) : Host.Outcome State Fault Refusal :=
  guarded (decide (unit < 512)) (burstEndEff unit) s

end Sys2Proof.Machine
end

