-- ==== Sys2Proof/Machine/Migration.lean ====
section
/-! DEFINITION. Residency: the selection of moves (R209), the copy of a move (R227) and the switch at the next boundary
(R211, R227, R230). -/

namespace Sys2Proof.Machine

/-! ## Selection (R209) -/

/-- Hits of a row. -/
def Residency.hitsOf (r : Residency) (row : Nat) : Nat := SMap.getD r.hits row 0

/-- Rows by hits descending, slot ascending. -/
def Residency.hottestFirst (r : Residency) (l : List Nat) : List Nat :=
  sortBy (fun a b => decide (r.hitsOf b < r.hitsOf a ∨ (r.hitsOf a = r.hitsOf b ∧ a < b))) l

/-- Unpinned rows of a list with hot copies by hits ascending, slot descending. -/
def Residency.coldest (r : Residency) (pinned rows : List Nat) : List Nat :=
  sortBy (fun a b => decide (r.hitsOf a < r.hitsOf b ∨ (r.hitsOf a = r.hitsOf b ∧ b < a))) (rows.filter fun x => !pinned.contains x)

/-- The loop of R209: `free` is the quota left, `size` a copy's bytes, and the number bounds the moves. -/
def Residency.choose (size : Nat) (pinned : List Nat) : Nat → Int → List Nat → List Nat → Residency → Residency
  | 0, _, _, _, r => r
  | _, _, _, [], r => r
  | moves + 1, free, cold, x :: hot, r =>
    if size ≤ free then choose size pinned moves (free - size) cold hot { r with chosen := r.chosen ++ [x] }
    else
      match cold with
      | [] => r
      | y :: cold' =>
        if ¬ pinned.contains x ∧ r.hitsOf x ≤ 2 * r.hitsOf y then r
        else choose size pinned moves free cold' hot { r with chosen := r.chosen ++ [x], demoted := r.demoted ++ [y] }

/-- Demotions that a lower quota asks for: the coldest copies beyond it (R208). -/
def Residency.shrink (size : Nat) : Nat → Int → List Nat → Residency → Residency × Int × List Nat
  | 0, free, cold, r => (r, free, cold)
  | _, free, [], r => (r, free, [])
  | n + 1, free, y :: cold, r =>
    if free < 0 then shrink size n (free + size) cold { r with demoted := r.demoted ++ [y] } else (r, free, y :: cold)

/-- R209: one selection. `dirty` are the rows that residency leaves alone (R207), `dead` the tombstoned rows, whose copies are
demoted (R211). Without a migration class there are no moves, but demotions there are (R208). -/
def Residency.selectMoves (r : Residency) (size : Nat) (dirty pinned dead : List Nat) : Residency :=
  let copies := r.hot.map (·.row)
  let (gone, have') := copies.partition fun x => dead.contains x && !pinned.contains x
  let wants (l : List Nat) : List Nat := l.filter fun x => !copies.contains x && !dirty.contains x && !dead.contains x
  let hot := r.hottestFirst (wants pinned) ++ r.hottestFirst ((wants r.candidates).filter fun x => !pinned.contains x)
  let free : Int := (r.quota : Int) - (have'.length * size : Nat)
  let (r1, free1, cold) := Residency.shrink size have'.length free (r.coldest pinned have')
    { r with chosen := [], demoted := r.demoted ++ gone }
  let r2 := Residency.choose size pinned (if r.cls = 0xFFFF then 0 else r.moves) free1 cold hot r1
  { r2 with candidates := [], hits := (SMap.mapVals r.hits fun _ h => h / 2).filter fun p => p.2 ≠ 0 }

/-- Rows with hot copies that are tombstoned: those whose copy stands at a slot that a tombstone names (R211). -/
def State.deadRows (s : State) (id : Nat) : List Nat :=
  match SMap.find? s.indexes id with
  | some x => (x.resid.hot.map (·.row)).filter fun k =>
      x.tombs.any fun t => slotKey t.shard t.slot = k && x.genAt t.shard t.slot = some t.gen
  | none => []

/-- Rows of a table that have dirty copies. -/
def State.dirtyRows (s : State) (id : Nat) : List Nat :=
  ((SMap.find? s.tables id).map fun x => x.dirty.map (·.id)).getD []

/-- MIGRATION_SELECTION: in the commit window of a stride that is a multiple of the period; the moves of the last selection
that were not admitted are dropped and counted. -/
def migrationSelectionEff (id : Nat) (s : State) : State :=
  match s.object? id with
  | none => s
  | some (_, r) =>
    if !s.running ∨ s.clk.window ≠ 0 ∨ s.stride % max r.period 1 ≠ 0 then s
    else
      (s.modResidency id fun r => r.selectMoves (s.objectCopy id) (s.dirtyRows id) (s.pinnedRows id r) (s.deadRows id)).count fun c =>
        { c with residency := c.residency + r.chosen.length }

/-- MIGRATION_SELECTION: object ids are 32 bits. -/
def execMigrationSelection (object : Nat) (s : State) : Host.Outcome State Fault Refusal :=
  guarded (decide (object < 2 ^ 32)) (migrationSelectionEff object) s

/-! ## The copy (R209, R227, R229) -/

/-- The bytes of a row that a move reads, and whether they are poison: the current version's row of an index, or a table row's
dirty copy or current row. -/
def State.moveSource (s : State) (id row : Nat) : Option (Bytes × Bool) :=
  match SMap.find? s.indexes id with
  | some x => (x.current.bind fun v => v.rowAt (row / 2 ^ 40) (row % 2 ^ 40)).map fun r => (r.head ++ r.codes, false)
  | none =>
    (SMap.find? s.tables id).bind fun x =>
      match x.dirty.find? fun d => d.id = row with
      | some d => some (d.row, d.poisoned)
      | none => (x.current.bind fun v => v.rowAt row).map fun r => (r.row, false)

/-- The stack of the row's other copy where a replica and its home lie on different stacks (R212). -/
def State.otherStacks (s : State) (id row : Nat) (r : Residency) : List Nat :=
  match (SMap.find? s.indexes id).bind fun x => x.current with
  | none => []
  | some v =>
    let home := v.rowAt (row / 2 ^ 40) (row % 2 ^ 40)
    let key := home.map (·.key)
    let pair := v.replicas.filter fun p => some p.1 = key
    let mates := pair.flatMap fun p =>
      p.2 :: ((v.rows.filter fun x => x.key = p.1).map fun x => slotKey x.shard x.slot)
    (r.hot.filter fun h => h.row ≠ row && mates.contains h.row).map (·.stack) ++
      (r.running.filter fun m => m.row ≠ row && mates.contains m.row).map (·.stack)

/-- The next stack of a mask after the last one used, round-robin, that is mounted; `avoid` only where another is left. -/
def nextStack (mask mounted : Nat) (turn : Nat) (avoid : List Nat) : Option Nat :=
  let order := (List.range 8).map fun i => (turn + 1 + i) % 8
  let ok := order.filter fun k => bitOf mask k && bitOf mounted k
  match ok.find? fun k => !avoid.contains k with
  | some k => some k
  | none => ok.head?

/-- May a row of an object move now: it is the first move chosen and not yet admitted, or a table row whose dirty copy moves
(R227, R228; DESIGN CHOICE, log entry 58: the manual does not say what chooses a dirty copy)? -/
def State.mayMove (s : State) (id row : Nat) (r : Residency) : Bool :=
  r.chosen.head? = some row ||
    ((SMap.find? s.tables id).any fun x => SMap.has x.places row) && !(r.running.any fun m => m.row = row)

/-- R180, R185, R188: a move reads its source, a dirty copy in HBM: not while a lock or a burst holds it, which is counted. -/
def State.moveRead (s : State) (id row : Nat) : Bool × State :=
  match (SMap.find? s.tables id).bind fun x => (SMap.find? x.places row).map fun a => (a, x.rowSize) with
  | none => (true, s)
  | some (a, n) => if s.dieWaits a n then (false, s.countDieWait a n) else (true, (s.countRange a n).endDieWait a n)

/-- MIGRATION_COPY: a move is admitted into the migration class while it has room: its source is read, and its destination
written by the engine's own ROWWRITE (R177, R227, R229). A move without a source or a place is dropped and counted; `stopped`
is a copy that the end of the stride stops (R30, R230). The read of a dirty copy waits for a unit that holds it (R180), and
what it meets is counted (R188). -/
def migrationCopyEff (id row : Nat) (stopped : Bool) (s : State) : State :=
  match s.object? id with
  | none => s
  | some (ctx, r) =>
    match s.moveRead id row with
    | (false, s) => s
    | (true, s) =>
      if !s.working ∨ !s.mayMove id row r ∨ !s.contextLive ctx ∨ !s.classRoom r.cls ∨ (s.gaitNow.1.cls? r.cls).isNone then s
      else
        let s1 := s.modResidency id fun r => { r with chosen := r.chosen.filter (· ≠ row) }
        let size := ((s.moveSource id row).map fun b => b.1.length).getD 0
        let dest := (nextStack r.mask.toNat s.mountedSet.hbmStacks.toNat r.turn (s.otherStacks id row r)).bind fun k =>
          (s.placeOn ctx size k).map fun a => (k, a)
        match s.moveSource id row, dest with
        | some (b, poisoned), some (k, a) =>
          let s2 := (s1.admitTo r.cls).modResidency id fun r =>
            { r with turn := k,
                     running := r.running ++ [{ row := row, address := a, stack := k, stride := s.stride, void := stopped }] }
          if stopped then s2.countStops 1 else s2.issueRowwrite ctx a b poisoned (some (id, row))
        | _, _ => s1.count fun c => { c with residency := c.residency + 1 }

/-- MIGRATION_COPY: object ids are 32 bits. -/
def execMigrationCopy (object row : Nat) (stopped : Bool) (s : State) : Host.Outcome State Fault Refusal :=
  guarded (decide (object < 2 ^ 32)) (migrationCopyEff object row stopped) s

/-! ## The boundary after (R211, R227, R230) -/

/-- Demoted entries are emptied. -/
def Residency.demote (r : Residency) : Residency :=
  { r with hot := r.hot.filter fun h => !r.demoted.contains h.row, demoted := [] }

/-- R227 step 3: the entries of moves that are not void name their destinations; `keep` says which rows take one. -/
def Residency.switchMoves (r : Residency) (keep : Move → Bool) : Residency :=
  let go := r.running.filter fun m => !m.void && keep m
  { r with
    running := [],
    hot := (r.hot.filter fun h => !(go.any fun m => m.row = h.row)) ++
      go.map fun m => { row := m.row, stack := m.stack, address := m.address } }

/-- Void moves are counted (R230). -/
def Residency.voids (r : Residency) : Nat := (r.running.filter fun m => m.void).length

/-- R211: the generation of a copy in HBM. -/
def State.copyGen (s : State) (address : Nat) : Nat := byteAt (s.hbmRead address 64) 22

/-- Does an index's current version hold at a slot the row whose copy stands at an address? -/
def State.copyStands (s : State) (x : Index) (row address : Nat) : Bool :=
  (x.current.bind fun v => v.rowAt (row / 2 ^ 40) (row % 2 ^ 40)).any fun r => r.gen = s.copyGen address

/-- After a version switch of an index, copies whose generation differs are demoted (R211). -/
def State.dropStaleCopies (s : State) (id : Nat) : State :=
  s.modIndex id fun x =>
    { x with resid := { x.resid with hot := x.resid.hot.filter fun h => s.copyStands x h.row h.address } }

/-- After a version switch of a table, its hot copies are demoted, and with them the destinations of moves but for those of dirty
copies, and void ones, which are still to be counted (R211, R230). -/
def State.dropTableCopies (s : State) (id : Nat) : State :=
  s.modTable id fun x => { x with resid := { x.resid with
    hot := [], running := x.resid.running.filter fun m => m.void || SMap.has x.places m.row } }

/-- R228: the destination of a move that is not void becomes the dirty copy of a row that has one by now; other HBM copies of the
row are freed. -/
def Table.switchDirty (x : Table) (live : Bool) : Table :=
  let go := x.resid.running.filter fun m => live && !m.void && SMap.has x.places m.row
  { x with
    places := go.foldl (fun p m => SMap.set p m.row m.address) x.places,
    resid := { x.resid with hot := x.resid.hot.filter fun h => !(go.any fun m => m.row = h.row) } }

/-- Step 5 of R222 on every object: moves switch, void ones are counted, and nothing of a closing context is switched. -/
def State.switchResidency (s : State) : State :=
  let live (ctx : Nat) : Bool := (SMap.find? s.contexts ctx).any fun c => c.st = 1
  let n := sumNat (s.indexes.map fun p => p.2.resid.voids) + sumNat (s.tables.map fun p => p.2.resid.voids)
  { s with
    indexes := SMap.mapVals s.indexes fun _ x =>
      { x with resid := x.resid.switchMoves fun m => live x.context && s.copyStands x m.row m.address },
    tables := SMap.mapVals s.tables fun _ x =>
      let y := x.switchDirty (live x.context)
      { y with resid := y.resid.switchMoves fun m => live y.context && !SMap.has y.places m.row } }.count
    fun c => { c with voidMoves := c.voidMoves + n }

end Sys2Proof.Machine
end

