-- ==== Sys2Proof/Machine/Program.lean ====
section
/-! DEFINITION. Scoring programs: the image (R158 to R161), the cost (R162, R163), the check against plans (R164), and
what a program computes for a token group (R153, R154, R157, R159). -/

namespace Sys2Proof.Machine

/-! ## MX blocks (R58) and layers (R160) -/

/-- Bytes of an MX block by weight format: 0 MXFP8 E4M3, 1 MXFP8 E5M2, 2 MXINT8, 3 MXFP4. -/
def mxBytes (format : Nat) : Nat := if format = 3 then 17 else 33

/-- Element `i` of an MX block, without its scale; MXINT8 as its integer. -/
def mxElem (format : Nat) (block : Bytes) (i : Nat) : FVal :=
  match format with
  | 2 => let v := signedOf 8 (byteAt block (1 + i)); .fin (decide (v < 0)) v.natAbs 0
  | 3 => decodeE2m1 (byteAt block (1 + i / 2) / (if i % 2 = 0 then 1 else 16) % 16)
  | f => decodeFp8 f (byteAt block (1 + i))

/-- The scale byte of an MX block. -/
def mxScale (block : Bytes) : Nat := byteAt block 0

/-- Is a block refused under R57: scale 0xFF, or an element NaN or infinite? -/
def mxBad (format : Nat) (block : Bytes) : Bool :=
  mxScale block = 0xFF || ((List.range 32).any fun i => (mxElem format block i).bad)

/-- Bytes of a dense layer's biases, padded. -/
def biasBytes (n : Nat) : Nat := roundUp (2 * n) 64

/-- MX blocks of a weight row. -/
def Layer.blocksPerRow (l : Layer) : Nat := ceilDiv l.k 32

/-- The blob length that a layer's layout gives (R160). -/
def Layer.length (l : Layer) : Nat :=
  if l.kind = 1 then 2 * biasBytes l.n
  else biasBytes l.n + roundUp (l.n * l.blocksPerRow * mxBytes l.format) 64

/-- Block `b` of weight row `j`. -/
def Layer.block (l : Layer) (j b : Nat) : Bytes :=
  (l.blob.drop (biasBytes l.n + (j * l.blocksPerRow + b) * mxBytes l.format)).take (mxBytes l.format)

/-- Bias or gain `j`. -/
def Layer.bias (l : Layer) (j : Nat) : Word32 := ofBf16 (le l.blob (2 * j) 2)

/-- Bias `j` of a norm layer. -/
def Layer.beta (l : Layer) (j : Nat) : Word32 := ofBf16 (le l.blob (biasBytes l.n + 2 * j) 2)

/-- Does a layer hold a weight, bias or gain that R57 refuses? -/
def Layer.bad (l : Layer) : Bool :=
  ((List.range l.n).any fun j => fbad (l.bias j) || (l.kind = 1 && fbad (l.beta j))) ||
    (l.kind = 0 && ((List.range l.n).any fun j =>
      (List.range l.blocksPerRow).any fun b => mxBad l.format (l.block j b)))

/-- 64-byte blocks of a layer's blob. -/
def Layer.blocks (l : Layer) : Nat := ceilDiv l.blob.length 64

/-! ## The image -/

/-- The program an image describes, whatever it holds (R158 to R160). -/
def parseProgram (context : Nat) (b : Bytes) : Program :=
  { context := context, id := le b 6 2, ring := le b 8 2, slots := byteAt b 12, flags := byteAt b 13, cmax := le b 14 2,
    featTable := le b 16 4, featWidth := le b 20 2,
    ops := (List.range (byteAt b 11)).map fun i =>
      let o := le b 28 4 + 16 * i
      { code := byteAt b o, mode := byteAt b (o + 1), a := byteAt b (o + 2), b := byteAt b (o + 3), c := byteAt b (o + 4),
        dst := byteAt b (o + 5), layer := byteAt b (o + 6), heads := byteAt b (o + 7), width := le b (o + 8) 2,
        eps := BitVec.ofNat 32 (le b (o + 12) 4) },
    layers := (List.range (byteAt b 10)).map fun i =>
      let o := le b 32 4 + 16 * i
      { k := le b (o + 8) 2, n := le b (o + 10) 2, format := byteAt b (o + 12), kind := byteAt b (o + 13),
        blob := (b.drop (le b o 4)).take (le b (o + 4) 4) },
    bound := false, unbound := false, window := [], channel := none, cost := [] }

/-- The blocks an image locates: (offset, bytes). -/
def programBlocks (b : Bytes) : List (Nat × Nat) :=
  [(le b 28 4, 16 * byteAt b 11), (le b 32 4, 16 * byteAt b 10)] ++
    (List.range (byteAt b 10)).map fun i => (le b (le b 32 4 + 16 * i) 4, le b (le b 32 4 + 16 * i + 4) 4)

/-- Fields of an operation that must be zero or in range for its opcode (R159). -/
def ProgOp.shapeOk (o : ProgOp) (layers : Nat) : Bool :=
  let dst := decide (1 ≤ o.dst ∧ o.dst ≤ 7)
  decide (o.a < 8) &&
  match o.code with
  | 0x01 => o.mode < 4 && o.b = 0 && o.c = 0 && dst && o.layer < layers && o.heads = 0 && decide (1 ≤ o.width) && o.eps = 0
  | 0x02 => o.mode < 4 && o.b = 0 && o.c = 0 && dst && o.layer = 0 && o.heads = 0 && o.width = 0 && o.eps = 0
  | 0x03 => o.mode = 0 && o.b < 8 && o.c = 0 && dst && o.layer = 0 && o.heads = 0 && o.width = 0 && o.eps = 0
  | 0x04 => o.mode = 0 && o.b = 0 && o.c = 0 && dst && o.layer < layers && o.heads = 0 && o.width = 0 && flt 0 o.eps &&
      !fbad o.eps
  | 0x05 => o.mode < 4 && o.b < 8 && o.c < 8 && dst && o.layer = 0 && decide (1 ≤ o.heads ∧ o.heads ≤ 32) && o.width = 0 &&
      o.eps = 0
  | 0x07 => o.mode = 0 && o.b = 0 && o.c = 0 && o.dst = 0 && o.layer = 0 && o.heads = 0 && o.width = 0 && o.eps = 0
  | _ => false

/-- Layers are numbered in order of their first use (R160). -/
def layersInOrder (next : Nat) : List ProgOp → Bool
  | [] => true
  | o :: l =>
    if o.code = 0x01 ∨ o.code = 0x04 then decide (o.layer ≤ next) && layersInOrder (max next (o.layer + 1)) l
    else layersInOrder next l

/-- Every other structural field of an image (R158 to R160, R162), as R46 step 1.4. -/
def programFieldsOk (b : Bytes) (p : Program) : Bool :=
  let n := p.layers.length
  decide (p.id ≤ 0xFFFE ∧ 1 ≤ n ∧ n ≤ 64 ∧ 2 ≤ p.ops.length ∧ 2 ≤ p.slots ∧ p.slots ≤ 64 ∧ p.flags < 8) &&
  (n = 1 || decide (p.slots ≤ n)) && (p.flags % 2 = 0 || p.slots = n) &&
  decide (1 ≤ p.cmax ∧ p.cmax ≤ 1024 ∧ p.featWidth ≤ 1024) && (p.featTable ≠ 0 || p.featWidth = 0) &&
  zeroAt b 22 2 && zeroAt b 36 12 && ((programBlocks b).all fun q => q.1 % 64 = 0 && 64 ≤ q.1) &&
  ((List.range p.ops.length).all fun i => zeroAt b (le b 28 4 + 16 * i + 10) 2) &&
  ((List.range n).all fun i => zeroAt b (le b 32 4 + 16 * i + 14) 2) &&
  (p.ops.all fun o => o.shapeOk n) && layersInOrder 0 p.ops &&
  (p.layers.all fun l =>
    decide (1 ≤ l.n ∧ l.kind < 2) && (if l.kind = 1 then l.format = 0xFF else decide (l.format < 4 ∧ 1 ≤ l.k)) &&
      l.blob.length = l.length)

/-- The structural status of an image, in the order of R46 step 1. -/
def programStructure (b : Bytes) (length : Nat) (p : Program) : Nat :=
  if le b 0 4 ≠ 0x474F_5250 ∨ le b 4 2 ≠ 1 then stBadFormat
  else if b.length ≠ length ∨ le b 24 4 ≠ b.length ∨ b.length < 64 ∨
      (programBlocks b).any (fun q => decide (b.length < q.1 + q.2)) then stBadLength
  else if (b.drop 48).take 16 ≠ (sha384 (b.drop 64)).take 16 then stBadCheck
  else if !programFieldsOk b p then stBadFormat
  else stOk

/-- Does the program include qe, and the score (R158)? -/
def Program.hasQe (p : Program) : Bool := bitOf p.flags 1
/-- Flag bit 2. -/
def Program.hasScore (p : Program) : Bool := bitOf p.flags 2
/-- Flag bit 0. -/
def Program.resident (p : Program) : Bool := bitOf p.flags 0

/-- Does a mode suit a weight format (R161)? -/
def modeSuits (mode format : Nat) : Bool := if format = 2 then mode = 0 || mode = 3 else mode ≠ 0

/-- The width an operation gives its destination, or none where R161 refuses it; `w` holds the buffers' widths. -/
def Program.opWidth (p : Program) (w : List Nat) (o : ProgOp) : Option Nat :=
  let wa := w.getD o.a 0
  let wb := w.getD o.b 0
  let wc := w.getD o.c 0
  let layer := p.layers[o.layer]?
  if wa = 0 then none
  else
    match o.code with
    | 0x01 => match layer with
      | some l =>
        if l.kind = 0 ∧ l.n = o.width ∧ l.k = roundUp wa 32 ∧ modeSuits o.mode l.format then some o.width else none
      | none => none
    | 0x02 => some wa
    | 0x03 => if wb = wa then some wa else none
    | 0x04 => match layer with
      | some l => if l.kind = 1 ∧ l.n = wa then some wa else none
      | none => none
    | 0x05 => if o.mode ≠ 0 ∧ wb = wa ∧ wc = wa ∧ wa % o.heads = 0 then some wa else none
    | _ => some wa

/-- The buffers' widths after each operation, or none where a source is unwritten or widths disagree (R161). -/
def Program.widthsFrom (p : Program) : List Nat → List ProgOp → Option (List (List Nat))
  | w, [] => some [w]
  | w, o :: l =>
    match p.opWidth w o with
    | none => none
    | some n =>
      let w' := if o.code = 0x07 then w else w.set o.dst n
      match p.widthsFrom w' l with
      | some r => some (w :: r)
      | none => none

/-- The widths of the buffers before each operation and after the last, where buffer 0 holds `n` elements. -/
def Program.widthsOf (p : Program) (n : Nat) : Option (List (List Nat)) := p.widthsFrom [n, 0, 0, 0, 0, 0, 0, 0] p.ops

/-- The elements of buffer 0 (R157). With qe the query's dimension is part of it, and no dimension stands in the image: the
model takes the first width under which R161 admits the program, trying the multiples of 32 before the others (log entry 21). -/
def Program.exact0 (p : Program) : Nat :=
  let n := p.featWidth + bit01 p.hasScore
  if p.hasQe then
    ((((List.range 161).map fun i => 32 * (i + 1)) ++ (List.range 4096).map fun d => n + d + 1).find? fun w =>
      (p.widthsOf w).isSome).getD 32
  else n

/-- Its padded width K0. -/
def Program.width0 (p : Program) : Nat := max 32 (roundUp p.exact0 32)

/-- The widths before each operation and after the last (R161). -/
def Program.widths (p : Program) : Option (List (List Nat)) := p.widthsOf p.exact0

/-- R161: is a program refused with ST_BAD_VALUE? -/
def Program.badValue (p : Program) : Bool :=
  p.widths.isNone || (p.ops.getLast?.map (·.code)) ≠ some 0x07 || (p.ops.dropLast.any fun o => o.code = 0x07) ||
    p.layers.any Layer.bad

/-! ## Cost (R162, R163) -/

/-- The format factor f of a mode. -/
def modeFactor (mode : Nat) : Nat := if mode = 0 then 1 else if mode = 3 then 4 else 2

/-- The cycles of an operation on token groups of the sizes `groups`, given the buffers' widths (R163). -/
def Program.opCycles (p : Program) (w groups : List Nat) (o : ProgOp) : Nat :=
  let t := ceilDiv (sumNat groups) 32
  let n := w.getD o.a 0
  match o.code with
  | 0x01 => 24 + t * ceilDiv o.width 32 * roundUp ((p.layers[o.layer]?.map (·.k)).getD 0) 32 * modeFactor o.mode
  | 0x02 => 8 + t * ceilDiv n 32
  | 0x03 => 8 + t * ceilDiv n 32
  | 0x04 => 16 + 3 * t * ceilDiv n 32
  | 0x05 =>
    32 + sumNat (groups.map fun c =>
      o.heads * (2 * ceilDiv c 32 * ceilDiv c 32 * (n / o.heads) * modeFactor o.mode + 4 * c))
  | _ => 8 + t

/-- Cycles to load a layer's blob (R162). -/
def Layer.loadCycles (l : Layer) : Nat := 400 + ceilDiv (13 * l.blocks) 5

/-- The last operation that reads layer `i`. -/
def Program.lastUse (p : Program) (i : Nat) : Nat :=
  maxNat ((List.range p.ops.length).filter fun k => match p.ops[k]? with
    | some o => (o.code = 0x01 || o.code = 0x04) && o.layer = i
    | none => false)

/-- A load that no earlier operation can release never starts. -/
def never : Nat := 2 ^ 60

/-- The end of the load of layers 0 to `i`, given the ends of the operations before the one that asks (R162). -/
def Program.loadEnds (p : Program) (ends : List Nat) : Nat → List Nat
  | 0 => [((p.layers[0]?.map Layer.loadCycles).getD 0)]
  | i + 1 =>
    let before := p.loadEnds ends i
    let freed :=
      if i + 1 < p.slots then 0 else ends.getD (p.lastUse (i + 1 - p.slots)) never
    before ++ [max (before.getLast?.getD 0) freed + ((p.layers[i + 1]?.map Layer.loadCycles).getD 0)]

/-- The ends of the operations, in order, from the end of input assembly. -/
def Program.timeline (p : Program) (groups : List Nat) : List (ProgOp × List Nat) → List Nat → Nat → List Nat
  | [], ends, _ => ends
  | (o, w) :: l, ends, now =>
    let ready :=
      if p.resident ∨ ¬ (o.code = 0x01 ∨ o.code = 0x04) then 0 else (p.loadEnds ends o.layer).getD o.layer 0
    let e := max now ready + p.opCycles w groups o
    p.timeline groups l (ends ++ [e]) e

/-- The span of a batch of token groups on a tile, from the start of the share to the end of OUT (R156, R163). -/
def Program.span (p : Program) (groups : List Nat) : Nat :=
  let start := 16 + ceilDiv (sumNat groups) 32 * (p.width0 / 32)
  ((p.timeline groups (p.ops.zip (p.widths.getD [])) [] start).getLast?).getD start

/-- All the layers' blob blocks. -/
def Program.blobBlocks (p : Program) : Nat := sumNat (p.layers.map Layer.blocks)

/-- Blocks of a feature row in HBM, by the table's width and dimension (R233). -/
def featBlocks (t : Option Table) : Nat :=
  match t with
  | some t => rowBytes t.width t.dim / 64
  | none => 0

/-- The largest padded width each buffer takes, over the buffers that are used. -/
def Program.bufferWidth (p : Program) : Nat :=
  let all := p.widths.getD []
  sumNat ((List.range 8).map fun b => roundUp (maxNat (all.map fun w => w.getD b 0)) 32)

/-- TILE and CHAIN, DDR_BLOCK, HBM_BLOCK and buffer space for `groups` groups of `c` tokens (R163); `feat` are the blocks of
a feature row, of which none is read where F is 0. -/
def Program.costs (p : Program) (feat groups c : Nat) : List Nat :=
  let blobs := p.blobBlocks
  let stream := if p.resident then 0 else blobs
  let rows := if p.featWidth = 0 then 0 else groups * c * feat
  [p.span (List.replicate groups c), stream, stream + blobs + rows, groups * c * p.bufferWidth * 4]

/-- What a plan lacks of a demand on a kind at an offset: (resource, demand, plan amount). A share lies on one tile, and its blobs
on one DDR channel, so of these kinds the instance with the largest amount counts; of the others all instances do. -/
def Gait.lacks (g : Gait) (k off kind demand : Nat) : Option (Nat × Nat × Nat) :=
  let records := g.plans.filter fun p => p.cls = k && p.off = off && kindOf p.res = kind
  let (res, amount) := if kind = 0x01 ∨ kind = 0x07 then
      records.foldl (fun b p => if b.2 < p.amount then (p.res, p.amount) else b) (((records.head?).map (·.res)).getD (resOf kind 0), 0)
    else (((records.head?).map (·.res)).getD (resOf kind 0), sumNat (records.map (·.amount)))
  if amount < demand then some (res, demand, amount) else none

/-- The first of some shortages, in ascending resource id. -/
def firstShort (l : List (Nat × Nat × Nat)) : Option (Nat × Nat × Nat) :=
  (sortBy (fun a b => decide (a.1 < b.1)) l).head?

/-- What class `k` of a gait lacks of a program's cost at its last offset, and of its feature lookups in the earlier ones
(R164); `feature` gives the rows, and the shards and dimension of the table, of a program that looks rows up. Buffer space is
no resource: it is named where nothing else is short. -/
def Gait.shortOf (g : Gait) (k : Nat) (cost : List Nat) (feature : Option (Nat × Nat × Nat)) : Option (Nat × Nat × Nat) :=
  match g.classes[k]? with
  | none => some (resOf 0x01 0, cost.getD 0 0, 0)
  | some c =>
    let own := ([(0x01, cost.getD 0 0), (0x05, cost.getD 2 0), (0x07, cost.getD 1 0), (0x0F, cost.getD 0 0)]).filterMap fun d =>
      g.lacks k (c.len - 1) d.1 d.2
    let early := match feature with
      | some (rows, shards, dim) => (List.range (c.len - 1)).flatMap fun off =>
          [0x05, 0x0B, 0x0C].filterMap fun kind => g.lacks k off kind (Config.lookupAmount off kind rows shards dim)
      | none => []
    match firstShort (own ++ early) with
    | some x => some x
    | none => if 1966080 < cost.getD 3 0 then some (0, cost.getD 3 0, 1966080) else none

/-- A program's cost for the class of a gait that its ring feeds, at the class's largest admission count (R164). -/
def State.programCost (s : State) (g : Gait) (k : Nat) (p : Program) : List Nat :=
  p.costs (featBlocks (SMap.find? s.tables p.featTable)) (g.largest k) p.cmax

/-- The first short resource of a program in a gait; a gait without a class for its ring plans nothing for it. -/
def State.programShort (s : State) (g : Gait) (p : Program) : Option (Nat × Nat × Nat) :=
  match g.classOf p.context 1 p.ring with
  | none => some (resOf 0x01 0, (p.costs (featBlocks (SMap.find? s.tables p.featTable)) 1 p.cmax).getD 0 0, 0)
  | some k => g.shortOf k (s.programCost g k p)
      (if p.featWidth = 0 then none
       else (SMap.find? s.tables p.featTable).map fun t => (g.largest k * p.cmax, t.shards, t.dim))

/-- The DDR channel that a plan names for a program's blobs, at its class's last offset (R162). -/
def Gait.programChannel (g : Gait) (p : Program) : Option Nat :=
  (g.classOf p.context 1 p.ring).bind fun k =>
    ((g.plans.find? fun r => r.cls = k && r.off + 1 = ((g.cls? k).map (·.len)).getD 1 && kindOf r.res = 0x07).map
      fun r => r.res % 1024)

/-- What the HBM window holds when layers 0 to `n` - 1 have been loaded, layer i into slot i mod w (R162). -/
def Program.windowAfter (p : Program) (n : Nat) : List Nat :=
  (List.range (min p.slots n)).map fun i => i + (n - 1 - i) / p.slots * p.slots

/-! ## What a program computes -/

/-- A token's source in a mode: the converted elements, and the INT8 scale (R153). -/
def convertTokens (mode : Nat) (x : List Word32) : List FVal × Word32 :=
  match mode with
  | 0 =>
    let sa := fdiv (fmax (x.map fabs)) (fofInt 127)
    (x.map fun a =>
      let v : Int := if fzero sa then 0 else clamp (rne (fdiv a sa)) (-127) 127
      FVal.fin (decide (v < 0)) v.natAbs 0, sa)
  | 3 => (x.map fun a => f32 (ofBf16 (toBf16 a)), fone)
  | m => (x.map (toFp8 (m - 1)), fone)

/-- The product of two converted values under a mode: exact but for BF16, which rounds to FP32. -/
def modeProduct (mode : Nat) (a b : FVal) : FVal := if mode = 3 then f32 (toF32 (a.mul b)) else a.mul b

/-- One block's sum in FP32, each addition rounded. -/
def blockSum (mode : Nat) (ps : List (FVal × FVal)) : Word32 :=
  ps.foldl (fun t p => toF32 ((f32 t).add (modeProduct mode p.1 p.2))) 0

/-- Zeros up to a multiple of 32. -/
def padVec (x : List Word32) : List Word32 := x ++ List.replicate (roundUp x.length 32 - x.length) 0

/-- R153: one output element of a dense operation. -/
def denseOut (l : Layer) (mode : Nat) (a : List FVal) (sa : Word32) (j : Nat) : Word32 :=
  let acc := (List.range l.blocksPerRow).foldl (fun acc b =>
    let blk := l.block j b
    let ps := (List.range 32).map fun i => ((a.getD (32 * b + i) (.fin false 0 0)), mxElem l.format blk i)
    let p :=
      if mode = 0 then
        let t := ps.foldl (fun t p => t.add (p.1.mul p.2)) (FVal.fin false 0 0)
        toF32 ((f32 (toF32 t)).scale ((mxScale blk : Int) - 133))
      else
        -- in BF16 mode a MXINT8 element carries its 2^-6 in the element
        let ps := if l.format = 2 then ps.map fun p => (p.1, p.2.scale (-6)) else ps
        toF32 ((f32 (blockSum mode ps)).scale ((mxScale blk : Int) - 127))
    fadd acc p) 0
  fadd (if mode = 0 then fmul acc sa else acc) (l.bias j)

/-- DENSE on one token. -/
def denseToken (l : Layer) (mode : Nat) (x : List Word32) : List Word32 :=
  let (a, sa) := convertTokens mode (padVec x)
  (List.range l.n).map (denseOut l mode a sa)

/-- ACT. -/
def actFn (mode : Nat) (a : Word32) : Word32 :=
  if mode = 0 then frelu a else if mode = 1 then fgelu a else if mode = 2 then ftanh a else fsigmoid a

/-- NORM on one token. -/
def normToken (l : Layer) (eps : Word32) (x : List Word32) : List Word32 :=
  let n := fofInt x.length
  let mu := fdiv (fsum x) n
  let v := fdiv (fsum (x.map fun a => fmul (fsub a mu) (fsub a mu))) n
  let r := frsqrt (fadd v eps)
  (x.zip (List.range x.length)).map fun p => fadd (fmul (fmul (fsub p.1 mu) r) (l.bias p.2)) (l.beta p.2)

/-- ATTN on a token group: sources A, B, C of every token. -/
def attnGroup (mode heads : Nat) (a b c : List (List Word32)) : List (List Word32) :=
  let width := (a.head?.map List.length).getD 0
  let dh := width / heads
  let r := frsqrt (fofInt dh)
  let conv (x : List Word32) : List FVal := (convertTokens mode x).1
  let a' := a.map conv
  let b' := b.map conv
  a'.map fun ai =>
    (List.range heads).flatMap fun h =>
      let slice (x : List FVal) : List FVal := (x.drop (h * dh)).take dh
      let s := b'.map fun bj => fmul (blockSum mode ((slice ai).zip (slice bj))) r
      let m := fmax s
      let e := s.map fun x => fexp (fsub x m)
      let z := fsum e
      (List.range dh).map fun d =>
        fsum ((e.zip c).map fun p => fmul (fdiv p.1 z) (p.2.getD (h * dh + d) 0))

/-- One operation on the buffers of a token group; `bufs` holds, per buffer, the tokens' vectors. -/
def Program.run1 (p : Program) (bufs : List (List (List Word32))) (o : ProgOp) : List (List (List Word32)) :=
  let a := bufs.getD o.a []
  let b := bufs.getD o.b []
  let c := bufs.getD o.c []
  let layer : Layer := (p.layers[o.layer]?).getD { k := 0, n := 0, format := 0, kind := 0, blob := [] }
  match o.code with
  | 0x01 => bufs.set o.dst (a.map (denseToken layer o.mode))
  | 0x02 => bufs.set o.dst (a.map fun x => x.map (actFn o.mode))
  | 0x03 => bufs.set o.dst ((a.zip b).map fun q => (q.1.zip q.2).map fun r => fadd r.1 r.2)
  | 0x04 => bufs.set o.dst (a.map (normToken layer o.eps))
  | 0x05 => bufs.set o.dst (attnGroup o.mode o.heads a b c)
  | _ => bufs

/-- Buffer 0 of one token (R157): qe, the features and the score, as flagged. DESIGN CHOICE (log entry 100): where F is larger
than the table's dimension, the elements past it are zeros. -/
def Program.input (p : Program) (qe features : List Word32) (score : Word32) : List Word32 :=
  (if p.hasQe then qe else []) ++ (List.range p.featWidth).map (fun i => features.getD i 0) ++
    (if p.hasScore then [score] else [])

/-- The buffers after the operations on a token group, each token's vector in each (R159). -/
def Program.buffers (p : Program) (tokens : List (List Word32)) : List (List (List Word32)) :=
  p.ops.foldl p.run1 [tokens, [], [], [], [], [], [], []]

/-- The program's output y for each token of a group (R156, R159). -/
def Program.run (p : Program) (tokens : List (List Word32)) : List Word32 :=
  match p.ops.getLast? with
  | some o => ((p.buffers tokens).getD o.a []).map fun x => x.getD 0 0
  | none => []

end Sys2Proof.Machine
end

