-- ==== Sys2Proof/Machine/GaitMsg.lean ====
section
/-! DEFINITION. The gait messages (R50 to R53) and the scoring-program messages (R158 to R165). -/

namespace Sys2Proof.Machine

/-! ## GAIT_CHECK, GAIT_LOAD -/

/-- The 48-byte reply payload of GAIT_CHECK and GAIT_LOAD (R50). -/
def gaitReply (g : Option Gait) (rec : Bytes) : Bytes :=
  (match g with
    | some g => toLe 8 g.id ++ toLe 2 g.contexts.length ++ toLe 2 g.isolatedContexts.length
    | none => zeros 12) ++ zeros 4 ++ rec

/-- Change slot `n`. -/
def State.setSlot (s : State) (n : Nat) (x : GaitSlot) : State :=
  { s with gaits := { s.gaits with slots := s.gaits.slots.set n x } }

/-- The checks before anything is fetched (R50 step 1, R51). -/
def State.gaitSlotCheck (s : State) (load : Bool) (slot address : Nat) : Nat :=
  if !load then (if slot ≠ 0 ∨ address % 64 ≠ 0 then stBadValue else stOk)
  else if slot = 0 then stNoResource
  else if 3 < slot then stBadValue
  else if (s.slot slot).st = 2 then stNoResource
  else if address % 64 ≠ 0 then stBadValue
  else stOk

/-- Does the request at the head name an image that is to be fetched: it passes the checks that stand before that? -/
def State.fetchesGait (s : State) (load : Bool) (opcode f : Nat) : Bool :=
  (s.headRequest f opcode).any fun q => s.gaitSlotCheck load (q.field 0 1) (q.field 8 8) = stOk

/-- GAIT_CHECK and GAIT_LOAD on the image their DMA brings; a request that is to fetch one waits while its function may issue
no DMA. -/
def gaitImageEff (load : Bool) (opcode f : Nat) (image : Bytes) (s : State) : State :=
  if !s.dmaOk f && s.fetchesGait load opcode f then s
  else s.serve f opcode fun s q =>
    let slot := q.field 0 1
    let st := s.gaitSlotCheck load slot (q.field 8 8)
    if st ≠ stOk then refuse s st (gaitReply none (zeros 32))
    else
      let b := image.take (q.field 4 4)
      let (v, rec) := s.girthCheck b (q.field 4 4) (some (q.field 16 8))
      if v ≠ stOk then refuse s v (gaitReply none rec)
      else
        let g := parseGait b
        let t := if load then
            s.setSlot slot { st := 1, gait := some g, stride := 0, isolated := g.isolatedContexts }
          else s
        report t (gaitReply (some g) (zeros 32))

/-- GAIT_CHECK (R50) -/
def execGaitCheck (f : Nat) (image : Bytes) (s : State) : Host.Outcome State Fault Refusal :=
  guarded (funcOk f) (gaitImageEff false 0x0301 f image) s

/-- GAIT_LOAD (R50, R51) -/
def execGaitLoad (f : Nat) (image : Bytes) (s : State) : Host.Outcome State Fault Refusal :=
  guarded (funcOk f) (gaitImageEff true 0x0302 f image) s

/-! ## GAIT_STAGE, GAIT_CANCEL, GAIT_STATUS -/

/-- The staged slots, by their E: (slot number, slot). -/
def State.stagedSlots (s : State) : List (Nat × GaitSlot) :=
  sortBy (fun a b => decide (a.2.stride < b.2.stride))
    (([1, 2, 3].map fun n => (n, s.slot n)).filter fun p => p.2.st = 2)

/-- The gait before one staged now, and the stride at which it was, or will be, adopted (R53). -/
def State.gaitBefore (s : State) : Gait × Nat :=
  match s.stagedSlots.getLast? with
  | some (_, x) => match x.gait with
    | some g => (g, x.stride)
    | none => s.gaitNow
  | none => s.gaitNow

/-- The programs that are bound, or accepted to be (R164, R165). -/
def State.boundPrograms (s : State) : List Program :=
  ((s.programs.map (·.2)).filter fun p => p.bound && !p.unbound) ++
    s.waiting.filterMap fun c => match c with | .bindProgram _ p => some p | _ => none

/-- A bound program that a gait's class no longer covers (R164). -/
def State.uncovers (s : State) (g : Gait) : Bool := s.boundPrograms.any fun p => (s.programShort g p).isSome

/-- GAIT_STAGE (R51, R53, R164) -/
def gaitStageEff (f : Nat) (s : State) : State :=
  s.serve f 0x0303 fun s q =>
    let n := q.field 0 1
    let e := q.field 8 8
    let z := zeros 32
    match (s.slot n).gait with
    | none => refuse s stBadValue z
    | some g =>
      if n = 0 ∨ 3 < n ∨ (s.slot n).st ≠ 1 then refuse s stBadValue z
      else if e < s.stride + 4 then refuse s stTooLate z
      else if s.stagedSlots.any fun p => e ≤ p.2.stride then refuse s stTooLate z
      else
        let (v, rec) := s.girthSteps g
        if v ≠ stOk then refuse s v rec
        else
          let (a, origin) := s.gaitBefore
          let (v2, rec2) := s.transitionCheck a origin g e
          if v2 ≠ stOk then refuse s v2 rec2
          else if s.uncovers g then refuse s stNoResource z
          else (s.setSlot n { (s.slot n) with st := 2, stride := e }, some (stOk, e, z))

/-- GAIT_STAGE -/
def execGaitStage (f : Nat) (s : State) : Host.Outcome State Fault Refusal := guarded (funcOk f) (gaitStageEff f) s

/-- Return to loaded every gait staged for `e` or later (R51, R53). -/
def State.unstageFrom (s : State) (e : Nat) : State :=
  { s with gaits := { s.gaits with slots := s.gaits.slots.map fun x =>
      if x.st = 2 ∧ e ≤ x.stride then { x with st := 1, stride := 0 } else x } }

/-- GAIT_CANCEL (R51) -/
def gaitCancelEff (f : Nat) (s : State) : State :=
  s.serve f 0x0304 fun s q =>
    let n := q.field 0 1
    let x := s.slot n
    if n = 0 ∨ 3 < n ∨ x.st = 0 then refuse s stBadValue
    else if x.st = 1 then report (s.setSlot n GaitSlot.empty) []
    else if x.stride < s.stride + 3 then refuse s stTooLate
    else report (s.unstageFrom x.stride) []

/-- GAIT_CANCEL -/
def execGaitCancel (f : Nat) (s : State) : Host.Outcome State Fault Refusal := guarded (funcOk f) (gaitCancelEff f) s

/-- One slot's 32 bytes of GAIT_STATUS (R50). -/
def GaitSlot.status (x : GaitSlot) : Bytes :=
  toLe 8 ((x.gait.map (·.id)).getD 0) ++ toLe 8 x.stride ++ toLe 1 x.st ++ toLe 1 ((x.gait.map (·.period)).getD 0) ++
    toLe 2 x.isolated.length ++ zeros 12

/-- A bitmap of the numbers in a list, `n` bytes. -/
def bitmap (n : Nat) (l : List Nat) : Bytes := toLe n (sumNat ((dedupNat l).map fun i => 2 ^ i))

/-- GAIT_STATUS (R50). While the service gait runs, slot 0 is empty. -/
def gaitStatusEff (f : Nat) (s : State) : State :=
  s.serve f 0x0305 fun s _ =>
    report s ((List.range 4).flatMap (fun n => (s.slot n).status) ++ bitmap 512 (s.slot 0).isolated)

/-- GAIT_STATUS -/
def execGaitStatus (f : Nat) (s : State) : Host.Outcome State Fault Refusal := guarded (funcOk f) (gaitStatusEff f) s

/-! ## Scoring programs (R164, R165) -/

/-- Key of a program. -/
def programKey (context id : Nat) : Nat := context * 2 ^ 16 + id

/-- The 48-byte reply payload of the program messages (R165). -/
def programReply (p : Program) (short : Option (Nat × Nat × Nat)) (cost : List Nat) : Bytes :=
  let (r, d, l) := short.getD (0, cost.getD 0 0, 0)
  toLe 2 p.id ++ toLe 2 p.ring ++ toLe 2 r ++ zeros 2 ++ toLe 8 d ++ toLe 8 l ++ toLe 8 (cost.getD 1 0) ++
    toLe 8 (cost.getD 2 0) ++ toLe 8 (cost.getD 3 0)

/-- The running gait and every staged one. -/
def State.liveGaits (s : State) : List Gait := s.gaitNow.1 :: s.stagedSlots.filterMap fun p => p.2.gait

/-- Does a ring hold a program, bound or being bound (R165)? -/
def State.ringBound (s : State) (context ring : Nat) : Bool :=
  (s.programs.any fun p => p.2.context = context && p.2.ring = ring && !p.2.unbound) ||
    s.waiting.any fun c => match c with | .bindProgram _ p => p.context = context && p.ring = ring | _ => false

/-- The checks of PROGRAM_LOAD, with the context's reservation (R383, log entry 86), after the image's structure (R161, R164): a
status, and the short resource. DESIGN CHOICE (log entry 101): an id already taken, a c_max too small, a table that is not
there and a ring that is no open query ring of the context answer ST_BAD_VALUE. -/
def State.programCheck (s : State) (p : Program) : Nat × Option (Nat × Nat × Nat) :=
  let key := programKey p.context p.id
  let taken := SMap.has s.programs key || s.waiting.any fun c => match c with | .bindProgram k _ => k = key | _ => false
  let held := s.acceptedReservation p.context
  let featured := p.featTable = 0 || (SMap.find? s.tables p.featTable).isSome
  match s.ring? p.ring with
  | none => (stBadValue, none)
  | some r =>
    if p.badValue ∨ r.kind ≠ 1 ∨ r.context ≠ p.context ∨ !r.isOpen ∨ taken ∨ !featured ∨ p.cmax < max r.maxK r.maxM then
      (stBadValue, none)
    else if p.featTable ≠ 0 ∧ ((SMap.find? s.tables p.featTable).map (·.context)) ≠ some p.context then (stNotOwner, none)
    else if s.ringBound p.context p.ring ∨ held.hbm < s.hbmInUse p.context + p.windowBytes ∨
        held.ddr < s.ddrInUse p.context + p.blobBytes then
      (stNoResource, none)
    else
      match s.liveGaits.findSome? fun g => s.programShort g p with
      | some x => (stNoResource, some x)
      | none => (stOk, none)

/-- The cost that a program reports: that of the running gait's class. -/
def State.reportedCost (s : State) (p : Program) : List Nat :=
  match s.gaitNow.1.classOf p.context 1 p.ring with
  | some k => s.programCost s.gaitNow.1 k p
  | none => p.costs (featBlocks (SMap.find? s.tables p.featTable)) 1 p.cmax

/-- PROGRAM_LOAD (R158 to R165) on the image its DMA brings; a request that is to fetch one waits while its function may issue
no DMA. -/
def programLoadEff (f : Nat) (image : Bytes) (s : State) : State :=
  if !s.dmaOk f && (s.headRequest f 0x0409).any (fun q => q.field 8 8 % 64 = 0) then s
  else s.serve f 0x0409 fun s q =>
    let z := zeros 48
    let b := image.take (q.field 0 4)
    let p := parseProgram q.context b
    if q.field 8 8 % 64 ≠ 0 then refuse s stBadValue z
    else if programStructure b (q.field 0 4) p ≠ stOk then refuse s (programStructure b (q.field 0 4) p) z
    else
      let cost := s.reportedCost p
      match s.programCheck p with
      | (st, short) =>
        if st ≠ stOk then refuse s st (if short.isSome then programReply p short cost else z)
        else accept s (.bindProgram (programKey p.context p.id)
          { p with cost := cost, channel := s.gaitNow.1.programChannel p }) (programReply p none cost)

/-- PROGRAM_LOAD -/
def execProgramLoad (f : Nat) (image : Bytes) (s : State) : Host.Outcome State Fault Refusal :=
  guarded (funcOk f) (programLoadEff f image) s

/-- Is a program bound, and its unbinding not accepted? -/
def State.boundProgram (s : State) (key : Nat) : Option Program :=
  let leaving := s.waiting.any fun c => match c with | .unbindProgram k => k = key | _ => false
  match SMap.find? s.programs key with
  | some p => if p.bound && !p.unbound && !leaving then some p else none
  | none => none

/-- PROGRAM_UNLOAD (R165). DESIGN CHOICE (log entry 101): an id that is not bound answers ST_BAD_VALUE. -/
def programUnloadEff (f : Nat) (s : State) : State :=
  s.serve f 0x040A fun s q =>
    let key := programKey q.context (q.field 0 2)
    if (s.boundProgram key).isNone then refuse s stBadValue else accept s (.unbindProgram key)

/-- PROGRAM_UNLOAD -/
def execProgramUnload (f : Nat) (s : State) : Host.Outcome State Fault Refusal := guarded (funcOk f) (programUnloadEff f) s

/-- PROGRAM_STATUS (R165) -/
def programStatusEff (f : Nat) (s : State) : State :=
  s.serve f 0x040B fun s q =>
    match SMap.find? s.programs (programKey q.context (q.field 0 2)) with
    | none => refuse s stBadValue (zeros 48)
    | some p => report s (programReply p none (s.reportedCost p))

/-- PROGRAM_STATUS -/
def execProgramStatus (f : Nat) (s : State) : Host.Outcome State Fault Refusal := guarded (funcOk f) (programStatusEff f) s

end Sys2Proof.Machine
end

