-- ==== Sys2Proof/Machine/Query.lean ====
section
/-! DEFINITION. The query path: admission, the shard-searches and their re-rank reads, the detour path, the merges and
the completion (04_query_path.md, 06_selection.md, 07_scoring_tiles.md). -/

namespace Sys2Proof.Machine

/-! ## Parts shared by the path -/

/-- Change a query. -/
def State.modQuery (s : State) (h : Nat) (g : Query → Query) : State :=
  { s with work := { s.work with queries := SMap.update s.work.queries h g } }

/-- Change a shard-search. -/
def State.modSearch (s : State) (key : Nat) (g : Search → Search) : State :=
  { s with work := { s.work with searches := SMap.update s.work.searches key g } }

/-- Key of a shard-search: its coordinating node, handle and shard. -/
def searchKey (coord handle shard : Nat) : Nat := (coord * 2 ^ 18 + handle) * 4096 + shard

/-- Count stale edges skipped (R95, R124, R132). -/
def State.addStale (s : State) (index n : Nat) : State :=
  (s.modIndex index fun x => { x with stale := x.stale + n }).count fun c => { c with stale := c.stale + n }

/-- The view of a search's snapshot. -/
def Index.viewOf (x : Index) (v : Version) (q : Search) : View :=
  { ix := x, ver := v, shard := q.shard, upTo := if q.named then none else some q.admitAt }

/-- The index and version that a search reads. -/
def State.searchView (s : State) (q : Search) : Option View :=
  (SMap.find? s.indexes q.index).bind fun x => (x.version? q.version).map fun v => x.viewOf v q

/-- Is the present stride, moved by an offset to `n`, the one that a plan gives a share, `m`, or, for an elastic class, one
after it (R38)? -/
def dueAt (elastic : Bool) (n m : Nat) : Bool := n = m || (elastic && decide (m < n))

/-- A sort unit. -/
def State.sortUnit (s : State) (n : Nat) : SortUnit := SMap.getD s.sorts n SortUnit.reset

/-- Put what a selection leaves in a sort unit. -/
def State.putSort (s : State) (n : Nat) (u : SortUnit) : State := { s with sorts := SMap.set s.sorts n u }

/-- R151: the cycles of build mode. -/
def buildCycles (dim : Nat) : Nat := 200 + 4 * ceilDiv dim 32

/-- R151: the cycles of scan mode over `n` rows of a code width. -/
def scanCycles (width dim n : Nat) : Nat :=
  if n = 0 then 0 else 40 + ceilDiv n 32 * (ceilDiv dim (if width = 1 then 64 else 32) + 2)

/-- R151: the cycles of lane mode over `n` records. -/
def laneCycles (dim n : Nat) : Nat := if n = 0 then 0 else 40 + ceilDiv n 32 * (ceilDiv dim 4 + 8)

/-! ## QUERY_ADMISSION (R81 to R90) -/

/-- Where the query vector block stands. -/
def vectorOffset (e : Bytes) : Nat := 72 + 16 * byteAt e 64

/-- The elements of an entry as exact FP32 values. -/
def vectorElems (e : Bytes) : List Word32 := elemsAt (byteAt e (vectorOffset e + 2)) e (vectorOffset e + 8) (le e (vectorOffset e) 2)

/-- R86, R423: the base version that a query's version field names. -/
def Index.snapshotVersion (x : Index) (v : Nat) : Option Nat :=
  match x.current with
  | none => none
  | some c =>
    if !c.filled then none
    else if v = 0 then some c.num
    else (x.version? v).bind fun r => if (r.st = 3 ∨ r.st = 4) ∧ r.filled then some v else none

/-- Is a program id none, or that of a program bound to the ring (R165)? -/
def State.programOk (s : State) (ctx ring id : Nat) : Bool :=
  id = 0xFFFF || (SMap.find? s.programs (programKey ctx id)).any fun p => p.bound && !p.unbound && p.ring = ring

/-- R85: the status of a query entry of ring `id`; an index that is closing is as none (R133). -/
def State.queryStatus (s : State) (id : Nat) (r : Ring) (e : Bytes) : Nat :=
  let o := vectorOffset e
  let fmt := byteAt e (o + 2)
  let d := le e o 2
  let len := le e 32 4
  let k := le e 16 2
  let w := byteAt e 19
  let depth := le e 20 2
  let m := le e 22 2
  let dist := byteAt e 18
  if len < 80 ∨ r.slotSize < len ∨ len ≠ o + 8 + d * elemSize fmt then stBadLength
  else if !(zeroAt e 26 6 && zeroAt e 36 28) then stBadFormat
  else
    match SMap.find? s.indexes (le e 4 4) with
    | none => stBadValue
    | some x =>
      if x.closing.isSome then stBadValue
      else if x.context ≠ r.context then stNotOwner
      else if k < 1 ∨ r.maxK < k ∨ w < 1 ∨ r.maxWidth < w ∨ depth < 1 ∨ r.maxDepth < depth ∨ r.maxM < m ∨
          (m ≠ 0 ∧ m < k) ∨ r.maxShards < x.shards ∨ !s.programOk r.context id (le e 24 2) then stBadValue
      else if 2 < dist ∨ !bitOf x.dists dist then stBadValue
      else
        let f := filterCheck x.typeA x.typeB (e.drop 64)
        if f ≠ stOk then f
        else if d ≠ x.dim then stBadLength
        else if 2 < fmt ∨ (queryRecord dist x.fp (vectorElems e)).isNone then stBadValue
        else if (x.snapshotVersion (le e 8 8)).isNone then stNoVersion
        else stOk

/-- The completion of a query (R82): prefix, header and exactly k entries. -/
def queryCompletion (qid stride k flags status dups version admitAt : Nat) (l : List Entry) : Bytes :=
  toLe 4 qid ++ toLe 4 (48 + 16 * k) ++ toLe 8 stride ++ resultBlock k flags status dups version admitAt l

/-- The shard sub-request (R90). -/
def subRequest (node shard handle : Nat) (q : Query) (descent : Nat) : Bytes :=
  toLe 2 node ++ toLe 2 shard ++ toLe 4 handle ++ toLe 8 q.admitAt ++ toLe 8 q.version ++ toLe 4 q.index ++ toLe 2 q.context ++
    toLe 1 q.width ++ toLe 1 (bit01 q.named) ++ toLe 2 q.depth ++ toLe 2 descent ++ toLe 2 q.filter.length ++ zeros 2 ++
    toLe 4 q.record.length ++ zeros 20 ++ q.filter ++ q.record

/-- Admit a query that passed its checks: its record built on a tile that spent `zeroing` cycles first (R149, R151), its handle
taken, its sub-requests sent in ascending shard. -/
def State.admitQuery (s : State) (tag : Nat) (tile : TileUse) (zeroing : Nat) (a : Admission) (x : Index) : State :=
  let e := a.entry
  let q : Query :=
    { ring := a.id, order := a.order, cls := a.cls, elastic := a.elastic, qid := le e 0 4, index := le e 4 4, context := a.ring.context,
      version := (x.snapshotVersion (le e 8 8)).getD 0, named := le e 8 8 ≠ 0, k := le e 16 2, width := byteAt e 19,
      depth := le e 20 2, m := le e 22 2, program := le e 24 2, filter := (e.drop 64).take (8 + 16 * byteAt e 64),
      record := (queryRecord (byteAt e 18) x.fp (vectorElems e)).getD [], admitAt := s.stride, len := a.len,
      descent := a.ring.descent, shardCap := a.ring.shardCap, channelCap := a.ring.channelCap,
      serving := (List.range x.shards).map fun j => (j, (s.servingOf s.me j (spanAt x.map j)).1),
      replies := [], chain := none, merged := [], exact := [], failed := [], waiting := List.range x.shards, phase := 0,
      flags := 0, dups := 0,
      tie := false, features := [], featAwait := [], featPoisoned := [], late := false }
  let t := s.takeTag tag
  let t1 : State := { t with work := { t.work with queries := SMap.set t.work.queries tag q } }
  let t2 := (t1.needs (8 * tag) s.stride a.cls s.stride tile.tile (buildCycles x.dim + zeroing)).takeShare s.stride a.cls 1 x.shards
  q.serving.foldl (fun s p => s.send 2 p.2 (subRequest s.me p.1 tag q q.descent)) t2

/-- QUERY_ADMISSION on an entry taken in, whose share the tile takes up: refused entries complete at once (R76, R85), and so does
one whose record an uncorrectable error in the tile's SRAM spoils (R150). -/
def State.takeQuery (s0 : State) (tag : Nat) (tile : TileUse) (a : Admission) : State :=
  let e := a.entry
  let s := s0.useTile tile a.ring.context
  let checked := s.queryStatus a.id a.ring e
  let st := if checked = stOk ∧ tile.lost then stPoisoned else checked
  let k := if 1 ≤ le e 16 2 ∧ le e 16 2 ≤ a.ring.maxK then le e 16 2 else 0
  match SMap.find? s.indexes (le e 4 4) with
  | some x =>
    if st = stOk then s.admitQuery tag tile ((s0.tile tile.tile).zeroing a.ring.context) a x
    else s.complete a.id s.stride a.order (queryCompletion (le e 0 4) s.stride k 0 st 0 0 0 [])
  | none => s.complete a.id s.stride a.order (queryCompletion (le e 0 4) s.stride k 0 st 0 0 0 [])

/-- QUERY_ADMISSION: without a free request tag, or on a tile that is not in service (R52), the entry waits in its ring. -/
def queryAdmissionEff (ring : Nat) (entry : Bytes) (tile : TileUse) (s : State) : State :=
  match s.freeTag with
  | none => s
  | some t => if s.unitUp 0x01 tile.tile then s.admitRing ring 1 entry fun s a => s.takeQuery t tile a else s

/-- QUERY_ADMISSION: ring ids are 4 × context + doorbell index (R375), tiles 0 to 95 (R10). -/
def execQueryAdmission (ring : Nat) (entry : Bytes) (tile : TileUse) (s : State) : Host.Outcome State Fault Refusal :=
  guarded (decide (ring < 16384 ∧ tile.tile < 96)) (queryAdmissionEff ring entry tile) s

/-! ## The shard-search (R91 to R97) -/

/-- The filter block of a sub-request. -/
def subFilter (m : Bytes) : Bytes := (m.drop 64).take (le m 36 2)

/-- Its query record. -/
def subRecord (m : Bytes) : Bytes := (m.drop (64 + le m 36 2)).take (le m 40 4)

/-- The search that a sub-request describes. -/
def searchOf (m : Bytes) (cls : Nat) (elastic : Bool) (len : Nat) : Search :=
  { cls := cls, elastic := elastic, coord := le m 0 2 % 2 ^ 15, handle := le m 4 4 % 2 ^ 18, shard := le m 2 2,
    admitAt := le m 8 8, index := le m 24 4,
    context := le m 28 2, version := le m 16 8, named := bitOf (byteAt m 31) 0, width := byteAt m 30, depth := le m 32 2,
    descent := le m 34 2, filter := subFilter m, record := subRecord m, cand := [], candSlot := none, result := [],
    resultSlot := none, visited := [], fetched := [],
    poisoned := false, done := false, items := [], exact := [], detour := false, len := len, roundAt := 0,
    phase := 0 }

/-- Key of a search. -/
def Search.key (q : Search) : Nat := searchKey q.coord q.handle q.shard

/-- May this node serve a search: the index belongs to the context named, this node holds the shard, and its current
version is filled (R91, R423)? -/
def State.maySearch (s : State) (q : Search) : Bool :=
  match SMap.find? s.indexes q.index with
  | some x =>
    x.context = q.context && s.holds x.map q.shard && (x.current.any fun v => v.filled) &&
      (x.version? q.version).any fun v => v.readable && v.filled
  | none => false

/-- The rows of a code width that a share's near-memory bursts score: as many to a burst of 2,048 bytes as fit (R167). -/
def burstRows (bursts row : Nat) : Nat := if row ≤ 2048 then bursts * (2048 / max 1 row) else bursts / ceilDiv row 2048

/-- The rows that a walk scored since `before`, in scoring order. -/
def Search.newRows (before after : Search) : List (Nat × Nat) :=
  (after.visited.take (after.visited.length - before.visited.length)).reverse

/-- Of the rows scored, those that a tile scored from DDR: rows of the base version but for the first `room` that HBM holds
too, the upper rows and those with a hot copy whose unit runs (R187), which the near-memory units score (R96, log entry 85). -/
def View.ddrScored (v : View) (s : State) (room : Nat) (bad : List Nat) (scored : List (Nat × Nat)) : List Nat :=
  let rows := (scored.filter fun p => !bad.contains p.1).filterMap fun p => v.ver.rowAt v.shard p.1
  let inHbm (r : Row) : Bool := decide (0 < r.level) || v.ix.copyRuns s r
  let unit := ((rows.filter inHbm).map (·.slot)).take room
  (rows.filter fun r => !unit.contains r.slot).map fun r => slotKey v.shard r.slot

/-- The rows that a share's near-memory budget of the present stride scores. -/
def State.nmuRoom (s : State) (a k row : Nat) : Nat := burstRows (s.planNow a k 0x02) row

/-- A version that a search reads is kept until the commit window after its query's completion, which is two strides past
the search's own plan (R131, log entry 76). -/
def Index.keepFor (x : Index) (num last : Nat) : Index :=
  { x with versions := x.versions.map fun v => if v.num = num then { v with keepTo := max v.keepTo last } else v }

/-- Does a search run on a sort unit now: the stride is in its work window, and the unit and a traversal engine are in service
(R28, R52)? -/
def State.searching (s : State) (sorter : SortUse) : Bool :=
  s.working && s.unitUp 0x03 sorter.unit && (List.range 16).any (s.unitUp 0x04)

/-- SHARD_SUB_REQUEST_RECEIVE (R91, R93) -/
def shardSubRequestReceiveEff (m : Bytes) (poisonRows poisonLists : List Nat) (sorter : SortUse) (s : State) : State :=
  if !s.searching sorter then s
  else
    match s.serveClass (le m 28 2) 1
        (chosenMember (le m 0 2 % 2 ^ 15) (le m 2 2) (s.me / 2) ≠ s.me && s.isFenced s.partner) with
    | none => s.scheduledDrop
    | some (k, len) =>
      let q := searchOf m k ((s.gaitNow.1.cls? k).any (·.elastic)) len
      match s.searchView q with
      | none => s.scheduledDrop
      | some v =>
        if !s.maySearch q || !s.classRoom k || decide (s.stride ≠ q.admitAt + 1) then s.scheduledDrop
        else
          let w := Walk.start (({ q with roundAt := s.stride } : Search).walk (s.sortUnit sorter.unit)) v none poisonRows
            poisonLists sorter.parity q.descent 0
          let fromDdr := v.ddrScored s (s.nmuRoom s.stride k (rowBytes v.ix.width v.ix.dim)) poisonRows (q.newRows w.search)
          let s1 := ((s.admitTo k).addStale q.index w.stale).touchRows q.index fromDdr
          let s2 := (s1.putSort sorter.unit w.unit).takeShare s.stride k 0 64
          let s3 := s2.modIndex q.index fun x => x.keepFor q.version (q.admitAt + q.len + 2)
          { s3 with work := { s3.work with searches := SMap.set s3.work.searches q.key w.search } }

/-- SHARD_SUB_REQUEST_RECEIVE: sort units are 0 to 15 (R10). -/
def execShardSubRequestReceive (message : Bytes) (poisonRows poisonLists : List Nat) (sorter : SortUse) (s : State) :
    Host.Outcome State Fault Refusal :=
  guarded (decide (sorter.unit < 16)) (fun s => s.arrives 2 (le message 0 2 % 2 ^ 15) message (shardSubRequestReceiveEff message poisonRows poisonLists sorter)) s

/-- LAYER0_ROUND (R94): one round in each stride of the plan from its second to its fifth-last; the last one of the plan
prefetches nothing. -/
def layer0RoundEff (key : Nat) (poisonRows poisonLists : List Nat) (sorter : SortUse) (tile : TileUse) (s : State) : State :=
  match SMap.find? s.work.searches key with
  | none => s
  | some q =>
    if !s.searching sorter ∨ !s.unitUp 0x01 tile.tile ∨ q.phase ≠ 0 ∨ s.stride ≤ q.roundAt ∨ q.admitAt + q.len < s.stride + 4 then s
    else
      match s.searchView q with
      | none => s
      | some v =>
        let w := (q.walk (s.sortUnit sorter.unit)).round v none poisonRows poisonLists sorter.parity 0
          (s.stride + 4 = q.admitAt + q.len)
        let a := q.admitAt + 1
        let fromDdr := v.ddrScored s (s.nmuRoom a q.cls (rowBytes v.ix.width v.ix.dim)) poisonRows (q.newRows w.search)
        let cost := scanCycles v.ix.width v.ix.dim fromDdr.length + (s.tile tile.tile).zeroing q.context
        let s1 := (s.addStale q.index w.stale).touchRows q.index fromDdr
        let s2 := if fromDdr.isEmpty then s1 else (s1.useTile tile q.context).needs (8 * key + 1) a q.cls s.stride tile.tile cost
        ((s2.putSort sorter.unit w.unit).takeShare a q.cls 0 64).modSearch key fun _ => { w.search with roundAt := s.stride }

/-- LAYER0_ROUND: sort units are 0 to 15, tiles 0 to 95 (R10). -/
def execLayer0Round (search : Nat) (poisonRows poisonLists : List Nat) (sorter : SortUse) (tile : TileUse) (s : State) :
    Host.Outcome State Fault Refusal :=
  guarded (decide (sorter.unit < 16 ∧ tile.tile < 96)) (layer0RoundEff search poisonRows poisonLists sorter tile) s

/-- A reply of a shard: a result header and its entries (R97, R101). -/
def shardReply (q : Search) (flags : BitVec 16) (l : List Entry) : Bytes :=
  resultHeader l.length 0 flags.toNat stOk 0 q.version q.admitAt ++ l.flatMap Entry.bytes

/-- What goes beside a reply: the handle, the shard and the sender, the locators of its entries, and those of the items
whose exact entry could not be had (log entry 24). -/
def shardAside (node : Nat) (q : Search) (l : List Entry) (failed : List (Nat × Nat)) : Bytes :=
  replyAside q.handle q.shard node ++ (l.flatMap fun e => toLe 8 (locator e.slot e.gen)) ++
    failed.flatMap fun p => toLe 8 (locator p.1 p.2)

/-- Send a shard's reply to the coordinating node, on class 2. -/
def State.searchReply (s : State) (q : Search) (flags : BitVec 16) (l : List Entry) (failed : List (Nat × Nat)) : State :=
  (s.sendWith 2 q.coord (shardReply q flags l) (shardAside s.me q l failed)).takeShare (q.admitAt + 1) q.cls 0 1

/-- SHARD_REPLY_SEND (R97): in S+7 of the reference plan the frozen result list goes to the coordinating node. -/
def shardReplySendEff (key : Nat) (s : State) : State :=
  match SMap.find? s.work.searches key with
  | none => s
  | some q =>
    if !s.working ∨ q.phase ≠ 0 ∨ !dueAt q.elastic (s.stride + 3) (q.admitAt + q.len) then s
    else
      (s.searchReply q (shareFlags q.poisoned false) q.result []).modSearch key fun q => { q with phase := 1, done := true }

/-- SHARD_REPLY_SEND -/
def execShardReplySend (search : Nat) (s : State) : Host.Outcome State Fault Refusal := guarded true (shardReplySendEff search) s

/-! ## Replies at the coordinating node -/

/-- The handle and the shard of a reply. -/
def asideHandle (aside : Bytes) : Nat := le aside 0 4 % 2 ^ 18
/-- The shard of a reply. -/
def asideShard (aside : Bytes) : Nat := le aside 4 2
/-- Locator `i` beside a reply, as slot and generation. -/
def asideItem (aside : Bytes) (i : Nat) : Nat × Nat := (locSlot (le aside (8 + 8 * i) 6), locGen (le aside (8 + 8 * i) 6))

/-- The entries of a reply, with their locators. -/
def replyEntries (m aside : Bytes) : List Entry :=
  (List.range (le m 0 2)).map fun i =>
    { entryOf (m.drop (32 + 16 * i)) (asideShard aside) with slot := (asideItem aside i).1, gen := (asideItem aside i).2 }

/-- The items that a reply gives up. -/
def replyFailed (m aside : Bytes) : List (Nat × Nat) :=
  (List.range ((aside.length - 8) / 8 - le m 0 2)).map fun i => asideItem aside (le m 0 2 + i)

/-- The header flags of a reply. -/
def replyFlags (m : Bytes) : BitVec 16 := BitVec.ofNat 16 (le m 4 2)

/-- SHARD_REPLY_RECEIVE: a reply of a shard awaited, in its stride; any other is late (R105). -/
def shardReplyReceiveEff (m aside : Bytes) (s : State) : State :=
  let h := asideHandle aside
  let j := asideShard aside
  match SMap.find? s.work.queries h with
  | none => s.lateReply
  | some q =>
    if q.phase ≠ 0 ∨ q.chain.isSome ∨ !dueAt q.elastic (s.stride + 5) (q.admitAt + q.len) ∨ !q.waiting.contains j then s.lateReply
    else (s.modQuery h fun q =>
      { q with replies := SMap.set q.replies j (replyEntries m aside), waiting := q.waiting.filter (· ≠ j),
               flags := q.flags ||| replyFlags m }).takeShare q.admitAt q.cls 1 1

/-- SHARD_REPLY_RECEIVE -/
def execShardReplyReceive (message aside : Bytes) (s : State) : Host.Outcome State Fault Refusal :=
  guarded true (fun s => s.arrives 2 (le aside 6 2 % 2 ^ 15) message (shardReplyReceiveEff message aside)) s

/-! ## QUERY_MERGE (R98, R99) -/

/-- R98: the re-rank set, by walking the merged list under the two caps. -/
def rerankSet (m shardCap channelCap : Nat) (l : List Entry) : List Entry :=
  l.foldl (fun set e =>
    let mine := set.filter fun x => x.shard = e.shard
    let chan := mine.filter fun x => recordChannel x.shard x.slot = recordChannel e.shard e.slot
    if m ≤ set.length ∨ shardCap ≤ mine.length ∨ channelCap ≤ chan.length then set else set ++ [e]) []

/-- The items of a re-rank request. -/
def itemBytes (l : List (Nat × Nat)) : Bytes := l.flatMap fun p => toLe 8 (locator p.1 p.2)

/-- The whole form of a re-rank or detour request: the sub-request, with its filter block and query record, then the items
(R105, R106; log entry 24). -/
def wholeRequest (node : Nat) (q : Query) (shard handle : Nat) (items : List (Nat × Nat)) : Bytes :=
  subRequest node shard handle q q.descent ++ itemBytes items

/-- Send each shard of the re-rank set its request: to the member that served it, or with the query record to its partner
where that member is fenced (R99, R105). -/
def State.sendReranks (s : State) (h : Nat) (q : Query) (set : List Entry) : State :=
  q.serving.foldl (fun s p =>
    let items := (set.filter fun e => e.shard = p.1).map fun e => (e.slot, e.gen)
    if items.isEmpty then s
    else if s.isFenced p.2 then s.send 2 (partnerOf p.2) (wholeRequest s.me q p.1 h items)
    else s.send 2 p.2 ((subRequest s.me p.1 h q q.descent).take 32 ++ itemBytes items)) s

/-- Send for the feature rows of a query's final candidates (R157). DESIGN CHOICE (log entry 100): where the table has been
closed, a reply stays absent. -/
def State.sendFeatures (s : State) (h : Nat) (q : Query) : State :=
  match SMap.find? s.programs (programKey q.context q.program) with
  | none => s
  | some p =>
    if p.featWidth = 0 ∨ q.merged.isEmpty then s
    else
      match SMap.find? s.tables p.featTable with
      | none => s.modQuery h fun q => { q with featAwait := [0] }
      | some x =>
        let (t, asked) := s.sendLookups x p.featTable h s.stride 0 (q.merged.map (·.key))
        t.modQuery h fun q => { q with featAwait := asked }

/-- The merge selection of a query has ended: the merged list or the re-rank set, the re-rank requests and the feature
lookups that follow (R98, R99, R157). -/
def State.mergeEnds (s : State) (h : Nat) (q : Query) (sel : Selection) : State :=
  let set := if q.m = 0 then sel.out else rerankSet q.m q.shardCap q.channelCap sel.out
  let asked := if q.m = 0 then [] else dedupNat (set.map (·.shard))
  let q1 : Query :=
    { q with chain := none, merged := set, dups := sel.dups, tie := decide (q.m = 0) && sel.tie q.k, phase := 1,
             waiting := asked }
  let s1 := s.modQuery h fun _ => q1
  let s2 := if q.m = 0 then s1 else s1.sendReranks h q1 set
  (if q.program = 0xFFFF then s2 else s2.sendFeatures h q1).takeShare q.admitAt q.cls 1 asked.length

/-- Is this a stride in which passes of a query's merge run: from S+8 of the reference plan to the last before its final
merge (R142)? -/
def Query.merges (q : Query) (stride : Nat) : Bool :=
  decide (q.admitAt + q.len ≤ stride + 4) && (q.elastic || decide (stride + 2 ≤ q.admitAt + q.len))

/-- QUERY_MERGE: up to `passes` passes of the merge selection over the replies held; the shares whose reply is absent are
stopped (R30, R105). Between strides a selection waits in the query's working state (R142). -/
def queryMergeEff (h passes : Nat) (sorter : SortUse) (s : State) : State :=
  match SMap.find? s.work.queries h with
  | none => s
  | some q =>
    if !s.working ∨ !s.unitUp 0x03 sorter.unit ∨ q.phase ≠ 0 ∨ !q.merges s.stride then s
    else
      let begun := q.chain.getD (Selection.start (max q.k q.m))
      let (sel, u) := Selection.passes true (sorter.parity.map (· + begun.steps)) (numbered (q.replies.flatMap (·.2))) passes
        (begun, s.sortUnit sorter.unit)
      let q1 : Query :=
        { q with chain := some sel, waiting := [],
                 flags := q.flags ||| flagIf (!q.waiting.isEmpty) hdrLate ||| flagIf sel.poisoned hdrPoisoned }
      let s1 := (s.countStops q.waiting.length).putSort sorter.unit u
      if sel.ended then s1.mergeEnds h q1 sel else s1.modQuery h fun _ => q1

/-- QUERY_MERGE: handles are request tags (R11), sort units 0 to 15 (R10). -/
def execQueryMerge (handle passes : Nat) (sorter : SortUse) (s : State) : Host.Outcome State Fault Refusal :=
  guarded (decide (handle < 262144 ∧ sorter.unit < 16)) (queryMergeEff handle passes sorter) s

/-! ## Re-rank (R99 to R101, R105, R106) -/

/-- Items of a request from an offset on. -/
def itemsFrom (m : Bytes) (o : Nat) : List (Nat × Nat) :=
  (List.range ((m.length - o) / 8)).map fun i => (locSlot (le m (o + 8 * i) 6), locGen (le m (o + 8 * i) 6))

/-- RERANK_REQUEST_RECEIVE (R99): the serving member holds the items; the partner of a fenced member also takes the query
record that comes with them, and serves it from its detour reserve (R38, R105). -/
def rerankRequestReceiveEff (m : Bytes) (s : State) : State :=
  let key := searchKey (le m 0 2 % 2 ^ 15) (le m 4 4 % 2 ^ 18) (le m 2 2)
  if !s.working then s
  else
    match SMap.find? s.work.searches key with
    | some q =>
      if q.phase = 1 ∧ dueAt q.elastic (s.stride + 2) (q.admitAt + q.len) ∧ s.maySearch q then
        (s.modSearch key fun q => { q with items := itemsFrom m 32 }).takeShare (q.admitAt + 1) q.cls 0 1
      else s.scheduledDrop
    | none =>
      match s.serveClass (le m 28 2) 1 true with
      | none => s.scheduledDrop
      | some (d, len) =>
        let q := searchOf m d false len
        if s.maySearch q && s.classRoom d && decide (s.stride + 2 = q.admitAt + q.len) then
          let q1 : Search :=
            { q with detour := true, phase := 1, done := true, items := itemsFrom m (64 + le m 36 2 + le m 40 4) }
          let s1 := (s.admitTo d).modIndex q.index fun x => x.keepFor q.version (q.admitAt + q.len + 2)
          { s1 with work := { s1.work with searches := SMap.set s1.work.searches key q1 } }
        else s.scheduledDrop

/-- RERANK_REQUEST_RECEIVE -/
def execRerankRequestReceive (message : Bytes) (s : State) : Host.Outcome State Fault Refusal :=
  guarded true (fun s => s.arrives 2 (le message 0 2 % 2 ^ 15) message (rerankRequestReceiveEff message)) s

/-- The slots whose flash read stays uncorrectable. -/
def lostReads (reads : List FlashRead) : List Nat := (reads.filter (·.lost)).map (·.unit)

/-- Is the record of a slot read from flash: is its row one of the base version (R100)? -/
def View.onFlash (v : View) (slot : Nat) : Bool := (v.ver.rowAt v.shard slot).isSome

/-- R100: the exact entry of an item: the record's user key and generation are those of the snapshot's row and of the item,
and its attributes pass the filter. None for a read that `bad` loses (a flash read, or the delta log's record), a mismatch or
a filter failure. -/
def View.exactEntry (v : View) (q : Search) (bad : List Nat) (item : Nat × Nat) : Option Entry :=
  match v.row item.1 with
  | none => none
  | some r =>
    let record := r.full
    if bad.contains item.1 ∨ keyOfMeta record ≠ r.key ∨ byteAt record 22 ≠ item.2 ∨
        !filterPass v.ix.typeA v.ix.typeB q.filter (attrsOf record) then none
    else some (scoredEntry (recDist q.record) (exactScore q.record (record.take 64) (record.drop 64)) r.key r.slot r.gen q.shard
      (flExact ||| flagIf q.detour flDetour))

/-- Entries in ascending (rank key, user key) (R101). -/
def rankedEntries (l : List Entry) : List Entry := sortBy Entry.ahead l

/-- Read the records of slots of a shard from flash: each read takes a FLASH_OP unit of its channel and lengthens the array
operation that it suspends (R32, R258), and what it met is counted (R261). -/
def State.readRecords (s : State) (v : View) (q : Search) (slots : List Nat) (reads : List FlashRead) : State :=
  slots.foldl (fun s n => s.readRecord q.index v.ix.dim q.shard n (((v.row n).map (·.full)).getD []) (readOf reads n)) s

/-- RERANK_READ (R100): in S+9 of the reference plan. What failed stays in the items, but for records of the delta log that
read poison (`poisonRows`): those give no entry, and the share is poisoned (R105, R150). -/
def rerankReadEff (key : Nat) (reads : List FlashRead) (poisonRows : List Nat) (tile : TileUse) (s : State) : State :=
  match SMap.find? s.work.searches key with
  | none => s
  | some q =>
    if !s.working ∨ !s.unitUp 0x01 tile.tile ∨ q.phase ≠ 1 ∨ q.items.isEmpty ∨ !dueAt q.elastic (s.stride + 1) (q.admitAt + q.len) then s
    else
      match s.searchView q with
      | none => s
      | some v =>
        let deltas := q.items.filter fun i => !v.onFlash i.1
        let poisoned := deltas.filter fun i => poisonRows.contains i.1
        let items := q.items.filter fun i => !poisoned.contains i
        let bad := (lostReads reads).filter v.onFlash
        let a := q.admitAt + 1
        let cost := laneCycles v.ix.dim deltas.length + (s.tile tile.tile).zeroing q.context
        let s1 := if deltas.isEmpty then s
          else (s.useTile tile q.context).needs (8 * key + 1) a q.cls (q.admitAt + q.len - 1) tile.tile cost
        ((s1.readRecords v q ((q.items.map (·.1)).filter v.onFlash) reads).takeShare a q.cls 0 q.items.length).modSearch key fun q =>
          { q with exact := rankedEntries (items.filterMap (v.exactEntry q bad)),
                   items := items.filter fun i => (v.exactEntry q bad i).isNone, phase := 2,
                   poisoned := q.poisoned || !poisoned.isEmpty }

/-- RERANK_READ: tiles are 0 to 95 (R10). -/
def execRerankRead (search : Nat) (reads : List FlashRead) (poisonRows : List Nat) (tile : TileUse) (s : State) :
    Host.Outcome State Fault Refusal :=
  guarded (decide (tile.tile < 96)) (rerankReadEff search reads poisonRows tile) s

/-- The sub-request that a held search came with, for a detour (R106). -/
def Search.request (q : Search) : Bytes :=
  toLe 2 q.coord ++ toLe 2 q.shard ++ toLe 4 q.handle ++ toLe 8 q.admitAt ++ toLe 8 q.version ++ toLe 4 q.index ++
    toLe 2 q.context ++ toLe 1 q.width ++ toLe 1 (bit01 q.named) ++ toLe 2 q.depth ++ toLe 2 q.descent ++
    toLe 2 q.filter.length ++ zeros 2 ++ toLe 4 q.record.length ++ zeros 20 ++ q.filter ++ q.record

/-- RERANK_REPLY_SEND (R101, R106): in S+10 of the reference plan the failed items go to the span partner, and the exact
entries to the coordinating node. Where no partner can be asked (it is fenced, or the reader serves for it), the items are
given up at once, as after a detour read that fails too (DESIGN CHOICE, log entry 87). -/
def rerankReplySendEff (key : Nat) (s : State) : State :=
  match SMap.find? s.work.searches key with
  | none => s
  | some q =>
    if !s.working ∨ q.phase ≠ 2 ∨ !dueAt q.elastic s.stride (q.admitAt + q.len) then s
    else
      let alone := q.detour || s.isFenced s.partner
      let bad := !q.items.isEmpty
      let s1 := if bad && !alone then s.send 2 s.partner (q.request ++ itemBytes q.items) else s
      (s1.searchReply q (shareFlags (bad || q.poisoned) (bad || q.detour)) q.exact (if alone then q.items else [])).modSearch key
        fun q => { q with phase := 3 }

/-- RERANK_REPLY_SEND -/
def execRerankReplySend (search : Nat) (s : State) : Host.Outcome State Fault Refusal := guarded true (rerankReplySendEff search) s

/-- DETOUR_REQUEST (R106): in S+10 of the reference plan the partner reads the failed items from its own flash, a tile computing
those of the delta log, within its detour reserve (R38, R151), and answers the coordinating node. -/
def detourRequestEff (m : Bytes) (reads : List FlashRead) (tile : TileUse) (s : State) : State :=
  if !s.working || !s.unitUp 0x01 tile.tile then s
  else
    match s.serveClass (le m 28 2) 1 true with
    | none => s.scheduledDrop
    | some (d, len) =>
      let q : Search := { searchOf m d false len with detour := true }
      match s.searchView q with
      | none => s.scheduledDrop
      | some v =>
        if !s.maySearch q || !s.classRoom d || decide (s.stride ≠ q.admitAt + q.len) then s.scheduledDrop
        else
          let items := itemsFrom m (64 + le m 36 2 + le m 40 4)
          let deltas := (items.filter fun i => !v.onFlash i.1).map (·.1)
          let bad := (lostReads reads).filter v.onFlash ++ (if tile.lost then deltas else [])
          let s1 := s.readRecords v q ((items.map (·.1)).filter v.onFlash) reads
          let s2 := if deltas.isEmpty then s1.admitTo d else (s1.admitTo d).useTile tile q.context
          let cost := laneCycles v.ix.dim deltas.length + (s.tile tile.tile).zeroing q.context
          if !deltas.isEmpty && s.lacks s.stride d s.stride tile.tile cost then s2.countStops 1
          else
            s2.searchReply q (shareFlags true true) (rankedEntries (items.filterMap (v.exactEntry q bad)))
              (items.filter fun i => (v.exactEntry q bad i).isNone)

/-- DETOUR_REQUEST: tiles are 0 to 95 (R10). -/
def execDetourRequest (message : Bytes) (reads : List FlashRead) (tile : TileUse) (s : State) :
    Host.Outcome State Fault Refusal :=
  guarded (decide (tile.tile < 96)) (fun s => s.arrives 2 s.partner message (detourRequestEff message reads tile)) s

/-- Is an item of the re-rank set answered: by an exact entry, or as given up? -/
def Query.answered (q : Query) (e : Entry) : Bool :=
  (q.exact.any fun x => x.shard = e.shard && x.slot = e.slot && x.gen = e.gen) || q.failed.contains (e.shard, e.slot, e.gen)

/-- A query with a re-rank reply of shard `j`: the shard is awaited until each of its items is answered. -/
def Query.takeExact (q : Query) (j : Nat) (entries : List Entry) (failed : List (Nat × Nat)) (flags : BitVec 16) : Query :=
  let q1 : Query := { q with exact := q.exact ++ entries, failed := q.failed ++ failed.map fun p => (j, p.1, p.2),
                             flags := q.flags ||| flags }
  { q1 with waiting := if q1.merged.all fun e => e.shard ≠ j || q1.answered e then q.waiting.filter (· ≠ j) else q.waiting }

/-- RERANK_REPLY_RECEIVE: exact entries of a shard awaited, in their stride; any other reply is late (R105). -/
def rerankReplyReceiveEff (m aside : Bytes) (s : State) : State :=
  let h := asideHandle aside
  let j := asideShard aside
  match SMap.find? s.work.queries h with
  | none => s.lateReply
  | some q =>
    if q.phase ≠ 1 ∨ !dueAt q.elastic (s.stride + 2) (q.admitAt + q.len) ∨ !q.waiting.contains j then s.lateReply
    else (s.modQuery h fun q => q.takeExact j (replyEntries m aside) (replyFailed m aside) (replyFlags m)).takeShare q.admitAt q.cls 1 1

/-- RERANK_REPLY_RECEIVE -/
def execRerankReplyReceive (message aside : Bytes) (s : State) : Host.Outcome State Fault Refusal :=
  guarded true (fun s => s.arrives 2 (le aside 6 2 % 2 ^ 15) message (rerankReplyReceiveEff message aside)) s

/-! ## REPLY_DEADLINE and FINAL_MERGE (R102, R103, R105, R156, R157) -/

/-- REPLY_DEADLINE: at the end of the stride that schedules them, absent replies make their share stopped, which is counted
(R30). An elastic class has no such stride (R38). -/
def replyDeadlineEff (h : Nat) (s : State) : State :=
  if s.clk.window ≠ 2 then s
  else
    match SMap.find? s.work.queries h, SMap.find? s.work.lookups h with
    | some q, _ =>
      let due := !q.elastic && ((q.phase = 0 && s.stride + 5 = q.admitAt + q.len) || (q.phase = 1 && s.stride + 2 = q.admitAt + q.len))
      if due && !(q.waiting.isEmpty && q.featAwait.isEmpty) then
        (s.countStops q.waiting.length).modQuery h fun q => { q with flags := q.flags ||| hdrLate, waiting := [] }
      else s
    | none, some l =>
      if s.stride = l.admitAt + 1 ∧ ¬ l.awaiting.isEmpty then
        { s with work := { s.work with lookups := SMap.update s.work.lookups h fun l => { l with late := true } } }
      else s
    | none, none => s

/-- REPLY_DEADLINE: handles are request tags (R11). -/
def execReplyDeadline (handle : Nat) (s : State) : Host.Outcome State Fault Refusal :=
  guarded (decide (handle < 262144)) (replyDeadlineEff handle) s

/-- R102: an item of the re-rank set with its exact entry, or its code entry: with DETOUR where the detour read failed,
with LATE where no entry came. -/
def Query.finalItem (q : Query) (e : Entry) : Entry :=
  match q.exact.find? fun x => x.shard = e.shard && x.slot = e.slot && x.gen = e.gen with
  | some x => x
  | none => { e with flags := e.flags ||| (if q.failed.contains (e.shard, e.slot, e.gen) then flDetour else flLate) }

/-- The final candidate set (R102). -/
def Query.finalSet (q : Query) : List Entry := if q.m = 0 then q.merged else q.merged.map q.finalItem

/-- R157: the tokens of a program, one for each candidate in merged-list order; the zeros that pad a vector to a multiple
of 32 are put in where a dense operation reads it (R153). -/
def Program.tokens (p : Program) (q : Query) (l : List Entry) : List (List Word32) :=
  l.map fun e => p.input (recElems q.record) (((q.features.find? fun f => f.1 = e.key).map (·.2)).getD []) e.score

/-- R156: the scores of a program over the candidates. -/
def Program.scores (p : Program) (q : Query) (l : List Entry) : List Word32 := p.run (p.tokens q l)

/-- A candidate under its program's output y: y replaces the score, ord(−y) the rank key, and the score is no exact one any
more (R102, R71, R72, R74). -/
def Entry.scored (e : Entry) (y : Word32) : Entry :=
  let (rank, score, nonfinite) := keyed 0 y
  { e with rank := rank, score := score, flags := (e.flags &&& ~~~(flNonfinite ||| flExact)) ||| flProgram ||| flagIf nonfinite flNonfinite }

/-- The candidates after their query's program: those that poison reached, or all where a feature reply is absent, keep
their score and key (R105, R157). An attention operation carries poison to every candidate of the group. -/
def Query.applyProgram (q : Query) (p : Program) (weightsPoisoned : Bool) (l : List Entry) : List Entry :=
  if !q.featAwait.isEmpty then l.map fun e => { e with flags := e.flags ||| flLate }
  else
    let spread := p.ops.any fun o => o.code = 0x05
    let hit (e : Entry) : Bool :=
      weightsPoisoned || q.featPoisoned.contains e.key || (spread && l.any fun x => q.featPoisoned.contains x.key)
    (l.zip (p.scores q l)).map fun c => if hit c.1 then { c.1 with flags := c.1.flags ||| flPoisoned } else c.1.scored c.2

/-- Write a query's completion, count it and release its handle. -/
def State.finishQuery (s : State) (h : Nat) (q : Query) (flags : BitVec 16) (status : Nat) (l : List Entry) : State :=
  let s1 := s.complete q.ring q.admitAt q.order
    (queryCompletion q.qid s.stride q.k flags.toNat status (if status = stOk then q.dups else 0) q.version q.admitAt l)
  let s2 := s1.ctxCount q.context fun c =>
    { c with late := c.late + bit01 (hasFlag flags hdrLate), poisoned := c.poisoned + bit01 (hasFlag flags hdrPoisoned) }
  ({ s2 with work := { s2.work with queries := SMap.erase s2.work.queries h } }).dropTag h

/-- What a program's share leaves in its tile and in the program's HBM window (R148, R162). -/
def State.ranProgram (s : State) (key : Nat) (p : Program) (tile : TileUse) (tokens : List (List Word32)) : State :=
  let bufs := p.buffers tokens
  let t : Tile := { s.tile tile.tile with
    buffers := (List.range 8).foldl (fun m b => if (bufs.getD b []).isEmpty then m else SMap.set m b (bufs.getD b []).flatten) [],
    staging := ((p.layers.getLast?.map (·.blob)).getD []).take 131072 }
  { s.putTile tile.tile t with programs := SMap.update s.programs key fun p => { p with window := p.windowAfter p.layers.length } }

/-- The program that a query names. -/
def State.queryProgram (s : State) (q : Query) : Option Program :=
  if q.program = 0xFFFF then none else SMap.find? s.programs (programKey q.context q.program)

/-- FINAL_MERGE with the final selection on a sort unit, and the completion (R102, R103, R146). -/
def State.completeQuery (s : State) (h : Nat) (q : Query) (weightsPoisoned : Bool) (sorter : SortUse) : State :=
  let p? := s.queryProgram q
  let set := q.finalSet
  let ran := p?.isSome && q.featAwait.isEmpty
  let scored := match p? with
    | some p => q.applyProgram p weightsPoisoned set
    | none => set
  let whole := q.m = 0 && p?.isNone
  let (sel, u) := (s.sortUnit sorter.unit).select true q.k sorter.parity scored
  let l := if whole then q.merged else sel.out
  let tie := if q.m = 0 then q.tie else sel.tie q.k
  let late := q.late || !q.waiting.isEmpty || (set.any fun e => hasFlag e.flags flLate) || (p?.isSome && !q.featAwait.isEmpty)
  let poison := (ran && (weightsPoisoned || scored.any fun e => hasFlag e.flags flPoisoned)) || (!whole && sel.poisoned)
  let flags := resultFlags (q.flags ||| flagIf late hdrLate ||| flagIf poison hdrPoisoned) (decide (0 < q.m)) ran tie l
  let s1 := s.countStops (q.waiting.length + (if p?.isSome then q.featAwait.length else 0))
  (if whole then s1 else s1.putSort sorter.unit u).finishQuery h q flags stOk l

/-- The batch of a program on a tile in a stride, with a group of `n` tokens put to it: the groups of all the ring's queries that
reach their final stride together run as one share, which streams each layer once (R156). -/
def Tile.batchWith (t : Tile) (stride key n : Nat) : List Nat :=
  (if t.batchAt = stride ∧ t.batchOf = key then t.batch else []) ++ [n]

/-- A tile holds a batch. -/
def State.placeBatch (s : State) (tile key : Nat) (batch : List Nat) : State :=
  s.putTile tile { s.tile tile with batchAt := s.stride, batchOf := key, batch := batch }

/-- FINAL_MERGE: in S+L−1. A program's token group joins its tile's batch; where the batch takes more of the tile than the plan
gives, the query overruns and is stopped at the boundary (R151, R156, R163). An uncorrectable error in the tile's SRAM poisons
the program's outputs (R150). -/
def finalMergeEff (h : Nat) (weightsPoisoned : Bool) (sorter : SortUse) (tile : TileUse) (s : State) : State :=
  match SMap.find? s.work.queries h with
  | none => s
  | some q =>
    if !s.working ∨ !s.unitUp 0x03 sorter.unit ∨ !s.unitUp 0x01 tile.tile ∨ q.phase ≠ 1 ∨
        !dueAt q.elastic (s.stride + 1) (q.admitAt + q.len) then s
    else
      match s.queryProgram q with
      | none => s.completeQuery h q weightsPoisoned sorter
      | some p =>
        if !q.featAwait.isEmpty then s.completeQuery h q weightsPoisoned sorter
        else
          let key := programKey q.context q.program
          let batch := (s.tile tile.tile).batchWith s.stride key q.finalSet.length
          let due := q.admitAt + q.len - 1
          let cost := p.span batch + (s.tile tile.tile).zeroing q.context
          let s1 := (s.useTile tile q.context).placeBatch tile.tile key batch
          if s.lacks q.admitAt q.cls due tile.tile cost then s1.needs (8 * h) q.admitAt q.cls due tile.tile cost
          else (s1.ranProgram key p tile (p.tokens q q.finalSet)).completeQuery h q (weightsPoisoned || tile.lost) sorter

/-- FINAL_MERGE: handles are request tags (R11), sort units 0 to 15, tiles 0 to 95 (R10). -/
def execFinalMerge (handle : Nat) (weightsPoisoned : Bool) (sorter : SortUse) (tile : TileUse) (s : State) :
    Host.Outcome State Fault Refusal :=
  guarded (decide (handle < 262144 ∧ sorter.unit < 16 ∧ tile.tile < 96)) (finalMergeEff handle weightsPoisoned sorter tile) s

/-- A query whose last stride ended without its final merge: the completion reserved for it is written with no entries and
LATE (R30, R83), and EXACT where it asked for a re-rank (R103). -/
def State.stopQuery (s : State) (h : Nat) (q : Query) : State :=
  s.finishQuery h q (resultFlags (q.flags ||| hdrLate) (decide (0 < q.m)) false false []) stOk []

end Sys2Proof.Machine
end

