-- ==== Sys2Proof/Machine/Train.lean ====
section
/-! DEFINITION. Training steps: the participants' segments, the owners' merge, the optimisers, mirroring, apply, digests
and notices (R240 to R251, R334). The layouts of class-1 messages and notices are the model's (log entry 24). -/

namespace Sys2Proof.Machine

/-- The owner of a row. -/
def State.ownerOfRow (s : State) (x : Table) (row : Nat) : Nat := s.ownerOf (spanAt x.map (shardOf x.seed x.shards row))

/-! ## The gradient buffer (R242) -/

/-- Bytes of a record's gradient. -/
def gradBytes (format dim : Nat) : Nat :=
  if format = 0 then 2 * dim else if format ≤ 2 then dim else ceilDiv dim 32 * mxBytes (format - 3)

/-- Element `i` of a gradient, before its one rounding. -/
def gradElem (format : Nat) (b : Bytes) (i : Nat) : FVal :=
  if format = 0 then bf16.decode (le b (2 * i) 2)
  else if format ≤ 2 then decodeFp8 (format - 1) (byteAt b i)
  else
    let f := format - 3
    let block := (b.drop (i / 32 * mxBytes f)).take (mxBytes f)
    (mxElem f block (i % 32)).scale ((mxScale block : Int) - (if f = 2 then 133 else 127))

/-- Is a gradient refused: an MX block whose scale is 0xFF (R57)? -/
def gradBad (format dim : Nat) (b : Bytes) : Bool :=
  3 ≤ format && (List.range (ceilDiv dim 32)).any fun i => byteAt b (i * mxBytes (format - 3)) = 0xFF

/-- The contributions of a buffer's records, or the status of its first fault. -/
def parseGradients (format dim : Nat) : Nat → Nat → Bytes → Except Nat (List Contribution)
  | 0, _, b => if b.isEmpty then .ok [] else .error stBadLength
  | n + 1, seq, b =>
    let c := le b 0 2
    let need := 8 + 8 * c + gradBytes format dim
    if b.length < 64 then .error stBadLength
    else if c < 1 ∨ 256 < c ∨ 1 < byteAt b 2 then .error stBadValue
    else if b.length < roundUp need 64 then .error stBadLength
    else
      let body := b.drop (8 + 8 * c)
      let g := (List.range dim).map fun i => toF32 (gradElem format body i)
      if gradBad format dim body || anyBad g then .error stBadValue
      else
        let scaled := if byteAt b 2 = 1 then g.map fun v => fmul v (fdiv fone (fofInt c)) else g
        let mine := (List.range c).map fun i => ({ row := le b (8 + 8 * i) 6, seq := seq + i, g := scaled } : Contribution)
        match parseGradients format dim n (seq + c) (b.drop (roundUp need 64)) with
        | .ok l => .ok (mine ++ l)
        | .error e => .error e

/-- R241, checks 1 to 6: the status of a step entry before its buffer is read. A table that is closing is as none (R256). -/
def State.stepChecks (s : State) (ctx : Nat) (e : Bytes) : Nat :=
  let addr := le e 32 8
  let len := le e 28 4
  if !(zeroAt e 21 3 && zeroAt e 40 24) then stBadFormat
  else
    match SMap.find? s.tables (le e 4 4) with
    | none => stBadValue
    | some x =>
      if x.closing.isSome then stBadValue
      else if x.context ≠ ctx then stNotOwner
      else if !(x.current.any fun v => v.filled) then stNoVersion
      else if le e 8 8 ≠ x.started + 1 ∨ fbad (BitVec.ofNat 32 (le e 16 4)) ∨ 6 < byteAt e 20 ∨ 65535 < le e 24 4 ∨
          addr % 64 ≠ 0 then stBadValue
      else if 0 < len ∧ !s.ownsHbm ctx addr len then stNotOwner
      else stOk

/-- R241, R242: the status of a step entry, and its contributions. A buffer with a lost block reads poison (R185, R186). DESIGN
CHOICE (log entry 102): so does one whose share an uncorrectable error in the tile's SRAM spoils (R150). -/
def State.stepStatus (s : State) (ctx : Nat) (tile : TileUse) (e : Bytes) : Nat × List Contribution :=
  let addr := le e 32 8
  let len := le e 28 4
  let st := s.stepChecks ctx e
  if st ≠ stOk then (st, [])
  else
    let blocks := (List.range (ceilDiv len 64)).map fun i => s.blockRead (addr / 64 + i)
    if blocks.any BlockRead.lost || tile.lost then (stPoisoned, [])
    else
      match parseGradients (byteAt e 20) (((SMap.find? s.tables (le e 4 4)).map (·.dim)).getD 0) (le e 24 4) 0
          ((blocks.flatMap BlockRead.data).take len) with
      | .ok l => (stOk, l)
      | .error st => (st, [])

/-! ## Segments (R243) -/

/-- A segment's bytes. -/
def segmentBytes (table : Nat) (g : Segment) : Bytes :=
  toLe 4 table ++ toLe 8 g.step ++ toLe 2 g.source ++ toLe 2 (bit01 g.refused) ++ toLe 4 g.lr.toNat ++
    toLe 4 g.contribs.length ++ zeros 8 ++ g.contribs.flatMap fun c =>
      toLe 6 c.row ++ zeros 2 ++ toLe 4 c.seq ++ zeros 4 ++ c.g.flatMap fun v => toLe 4 v.toNat

/-- A segment as received. -/
def parseSegment (dim : Nat) (m : Bytes) : Segment :=
  { source := le m 12 2, step := le m 4 8, refused := bitOf (le m 14 2) 0, lr := BitVec.ofNat 32 (le m 16 4),
    contribs := (List.range (le m 20 4)).map fun i =>
      let o := 32 + i * (16 + 4 * dim)
      { row := le m o 6, seq := le m (o + 8) 4, g := elemsAt 0 m (o + 16) dim } }

/-- A step that has begun. -/
def newStep (num admitAt : Nat) (owner : Bool) : Step :=
  { num := num, admitAt := admitAt, owner := owner, segments := [], merged := [], lr := 0, dropped := 0, void := none,
    held := false, applied := false, updated := 0, clipped := 0, poisoned := [], digest := 0, stage := 0, exchanged := false,
    spoiled := false, peerPoisoned := [] }

/-- Change a step of a table. -/
def State.modStep (s : State) (table num : Nat) (g : Step → Step) : State :=
  s.modTable table fun x => { x with steps := x.steps.map fun t => if t.num = num then g t else t }

/-- A step of a table. -/
def Table.step? (x : Table) (num : Nat) : Option Step := x.steps.find? fun t => t.num = num

/-- Owner's steps of a context's tables that were admitted in a stride. -/
def State.stepsOf (s : State) (ctx stride : Nat) : Nat :=
  sumNat ((s.tables.filter fun p => p.2.context = ctx).map fun p =>
    (p.2.steps.filter fun t => t.owner && t.admitAt = stride).length)

/-- Take a segment at an owner. Its owner step class, which no ring feeds, admits a step in T: the first segment that comes in
T takes its unit (R240, R301); an owner that took over for its fenced partner draws on its detour class (R330). A segment that
comes in T+1 begins a step of the stride before, where that admitted one; any other is discarded. -/
def State.takeSegment (s : State) (table : Nat) (g : Segment) : State :=
  match SMap.find? s.tables table with
  | none => s.scheduledDrop
  | some x =>
    if !s.owns x then s.scheduledDrop
    else
      match x.step? g.step with
      | some t =>
        if t.stage ≠ 0 ∨ t.admitAt + 1 < s.stride then s.scheduledDrop
        else s.modStep table g.step fun t =>
          if t.segments.any fun y => y.source = g.source then t else { t with segments := t.segments ++ [g] }
      | none =>
        let start (s : State) (at' : Nat) : State := s.modTable table fun x =>
          { x with steps := x.steps ++ [{ newStep g.step at' true with segments := [g] }] }
        match s.serveClass x.context 4 (!s.isNear && s.isFenced s.partner) with
        | none => s.scheduledDrop
        | some (k, _) =>
          if s.classRoom k then start (s.admitTo k) s.stride
          else if s.stepsOf x.context (s.stride - 1) < s.admitsAt k (s.stride - 1) then start s (s.stride - 1)
          else s.scheduledDrop

/-- Send each owner its segment; this node keeps its own. -/
def State.sendSegments (s : State) (table num : Nat) (x : Table) (refused : Bool) (lr : Word32) (l : List Contribution) : State :=
  (s.ownersOf x).foldl (fun s o =>
    let g : Segment :=
      { source := s.me, step := num, refused := refused, lr := lr,
        contribs := if refused then [] else l.filter fun c => s.ownerOfRow x c.row = o }
    if o = s.me then s.takeSegment table g else s.send 2 o (segmentBytes table g)) s

/-! ## STEP_ADMISSION (R240, R241) -/

/-- The table whose steps a ring's entries become where an entry does not say it: the context's first one in which this node
takes part (log entry 26). -/
def State.stepTable (s : State) (ctx : Nat) : Option (Nat × Table) :=
  List.find? (fun (p : Nat × Table) => p.2.context = ctx && p.2.participants.contains s.me) s.tables

/-- Begin an admitted entry's step, whose buffer a tile decodes (R240). A refused entry still becomes its step, of the ring's
table where it names none of its context (R241). -/
def State.admitStep (before : State) (tile : TileUse) (a : Admission) : State :=
  let e := a.entry
  let ctx := a.ring.context
  let s := before.useTile tile ctx
  let (st, l) := s.stepStatus ctx tile e
  let named := (SMap.find? s.tables (le e 4 4)).bind fun x => if x.context = ctx then some (le e 4 4, x) else none
  let s0 := if s.stepChecks ctx e = stOk then (s.countRange (le e 32 8) (le e 28 4)).endDieWait (le e 32 8) (le e 28 4) else s
  let put (s : State) (table num : Nat) (owners : List Nat) : State :=
    let t : StepEntry := { table := table, ring := a.id, order := a.order, stepId := le e 0 4, num := num, admitAt := s.stride,
                           status := st, owners := owners, notices := [] }
    { s with work := { s.work with steps := s.work.steps ++ [t] } }
  match named <|> s.stepTable ctx with
  | none => put s0 (le e 4 4) (le e 8 8) []
  | some (table, x) =>
    let num := x.started + 1
    let s1 := put (s0.modTable table fun x => { x with started := num }) table num (s.ownersOf x)
    s1.sendSegments table num x (st ≠ stOk) (BitVec.ofNat 32 (le e 16 4)) l

/-- A step stride that finds no entry in the ring: the step is void, by a REFUSED segment to every owner (R243). -/
def State.missStep (s : State) (r : Ring) (cls : Nat) : State :=
  match s.stepTable r.context with
  | none => s
  | some (id, x) =>
    ((s.admitTo cls).modTable id fun x => { x with started := x.started + 1 }).sendSegments id (x.started + 1) x true 0 []

/-- Does an entry's gradient buffer wait for a near-memory unit (R180)? -/
def State.stepWaits (s : State) (ctx : Nat) (e : Bytes) : Bool :=
  s.stepChecks ctx e = stOk && s.dieWaits (le e 32 8) (le e 28 4)

/-- STEP_ADMISSION -/
def stepAdmissionEff (ring : Nat) (entry : Bytes) (tile : TileUse) (s : State) : State :=
  match s.ring? ring with
  | none => s
  | some r =>
    if !s.unitUp 0x01 tile.tile then s
    else if r.kind = 4 ∧ s.admitting ∧ r.isOpen ∧ !r.closing ∧ !r.stopped ∧ s.contextLive r.context ∧ r.eligible = 0 then
      match s.ringClass ring r with
      | some k => s.missStep r k
      | none => s
    else if s.stepWaits r.context (fit r.slotSize entry) then
      if r.kind = 4 ∧ s.mayAdmit r then s.countDieWait (le entry 32 8) (le entry 28 4) else s
    else s.admitRing ring 4 entry fun s a => s.admitStep tile a

/-- STEP_ADMISSION: ring ids are 4 × context + doorbell index (R375), tiles 0 to 95 (R10). -/
def execStepAdmission (ring : Nat) (entry : Bytes) (tile : TileUse) (s : State) : Host.Outcome State Fault Refusal :=
  guarded (decide (ring < 16384 ∧ tile.tile < 96)) (stepAdmissionEff ring entry tile) s

/-- STEP_SEGMENT_RECEIVE (R243) -/
def stepSegmentReceiveEff (m : Bytes) (s : State) : State :=
  if !s.running then s
  else
    match SMap.find? s.tables (le m 0 4) with
    | none => s.scheduledDrop
    | some x => s.takeSegment (le m 0 4) (parseSegment x.dim m)

/-- STEP_SEGMENT_RECEIVE -/
def execStepSegmentReceive (message : Bytes) (s : State) : Host.Outcome State Fault Refusal :=
  guarded true (fun s => s.arrives 2 (le message 12 2 % 2 ^ 15) message (stepSegmentReceiveEff message)) s

/-! ## STEP_MERGE (R243, R244) -/

/-- Is a fold of a table being built (R253)? -/
def Table.folding (x : Table) : Bool := x.build.any fun b => b.kind = 1 && b.cut.isSome

/-- Why an owner voids a step: a refused or absent segment, unequal learning rates, or a table that has closed (R256), with
ST_OK; a fold being built, with ST_NO_RESOURCE (R253). -/
def Table.voids (x : Table) (t : Step) (stride : Nat) : Option Nat :=
  let seg (p : Nat) : Option Segment := t.segments.find? fun g => g.source = p
  let lrs := t.segments.map (·.lr)
  if x.folding then some stNoResource
  else if x.closing.any fun b => b ≤ stride then some stOk
  else if (x.participants.any fun p => match seg p with | none => true | some g => g.refused) ||
      (lrs.any fun v => some v ≠ lrs.head?) then some stOk
  else none

/-- Pass 1 of R244: the rows that have room, in ascending row id, by shard. -/
def Table.rowsWithRoom (x : Table) (rows : List Nat) : List Nat :=
  let shard (r : Nat) : Nat := shardOf x.seed x.shards r
  (rows.foldl (fun (p : List Nat × List Nat) r =>
    if (x.liveRow r).isNone then p
    else if x.dirty.any fun d => d.id = r then (p.1 ++ [r], p.2)
    else
      let n := (x.dirty.filter fun d => shard d.id = shard r).length + (p.2.filter fun d => shard d = shard r).length
      if n < x.areaCap then (p.1 ++ [r], p.2 ++ [r]) else p) ([], [])).1

/-- Contributions in canonical order: participants in ascending node id, then source sequence. -/
def Table.canonical (x : Table) (t : Step) : List Contribution :=
  x.participants.flatMap fun p =>
    match t.segments.find? fun g => g.source = p with
    | some g => sortBy (fun a b => decide (a.seq < b.seq)) g.contribs
    | none => []

/-- Pass 2 of R244: the merged rows, ascending, and the contributions dropped. -/
def Table.merge (x : Table) (t : Step) : List Merged × Nat :=
  let all := x.canonical t
  let rows := all.foldl (fun l c => insertNat c.row l) []
  let ok := x.rowsWithRoom rows
  let acc (r : Nat) : List Word32 := (all.filter fun c => c.row = r).foldl (fun a c =>
    (List.range x.dim).map fun i => fadd (a.getD i 0) (c.g.getD i 0)) (List.replicate x.dim 0)
  (ok.map fun r => { row := r, g := acc r, delta := [], state := [], finite := false },
   (all.filter fun c => !ok.contains c.row).length)

/-- A step of a table at a stage of its plan, in the stride `offset` after T. -/
def Table.stepAt (x : Table) (owner : Option Bool) (stage offset stride : Nat) : Option Step :=
  x.steps.find? fun t => t.stage = stage && t.admitAt + offset = stride && (match owner with | some o => t.owner == o | none => true)

/-- R243: a step of the stride before of which no segment came: its owner step class admitted a unit then, and no owner's step
of the context took it. It is one of the context's first table that this node owns rows of (log entry 26), and its number follows
the last. -/
def State.absentStep (s : State) (table : Nat) (x : Table) : Option Step :=
  let mine := List.find? (fun (p : Nat × Table) => p.2.context = x.context && s.owns p.2) s.tables
  match s.gaitNow.1.freeClassOf x.context 4 with
  | none => none
  | some k =>
    if mine.any (fun p => p.1 = table) && (x.current.any fun v => v.filled) && x.closing.isNone &&
        decide (0 < s.stride ∧ s.stepsOf x.context (s.stride - 1) < s.admitsAt k (s.stride - 1)) then
      some (newStep (maxNat (x.committed :: x.steps.map (·.num)) + 1) (s.stride - 1) true)
    else none

/-- STEP_MERGE: in T+1, on a tile. An owner that already committed the step applies nothing for it (R334). DESIGN CHOICE (log
entry 102): a merge that an uncorrectable error in the tile's SRAM spoils voids the step with ST_POISONED (R150). -/
def stepMergeEff (table : Nat) (tile : TileUse) (s : State) : State :=
  match SMap.find? s.tables table with
  | none => s
  | some x =>
    if !s.working || !s.unitUp 0x01 tile.tile then s
    else
      match x.stepAt (some true) 0 1 s.stride with
      | some t =>
        let void := if t.num ≤ x.committed then none
          else t.void <|> x.voids t s.stride <|> (if tile.lost then some stPoisoned else none)
        let (m, n) := if void.isSome ∨ t.num ≤ x.committed then ([], 0) else x.merge t
        (s.useTile tile x.context).modStep table t.num fun t =>
          { t with void := void, merged := m, dropped := n, lr := ((t.segments.head?).map (·.lr)).getD 0, stage := 1 }
      | none =>
        match s.absentStep table x with
        | some t => s.modTable table fun x => { x with steps := x.steps ++ [{ t with void := some stOk, stage := 1 }] }
        | none => s

/-- STEP_MERGE: table ids are 32 bits, tiles 0 to 95 (R10). -/
def execStepMerge (table : Nat) (tile : TileUse) (s : State) : Host.Outcome State Fault Refusal :=
  guarded (decide (table < 2 ^ 32 ∧ tile.tile < 96)) (stepMergeEff table tile) s

/-! ## The optimisers (R245, R246) -/

/-- An FP32 field of a state record. -/
def stateF32 (b : Bytes) (o : Nat) : Word32 := BitVec.ofNat 32 (le b o 4)

/-- What the optimiser makes of a gradient and a row's state: Δ, the new state, and whether every value is finite. -/
structure Optimised where
  delta : List Word32
  state : Bytes
  finite : Bool
  deriving DecidableEq, Repr

/-- SGD. -/
def optSgd (lr : Word32) (g : List Word32) (state : Bytes) : Optimised :=
  let d := g.map fun v => fneg (fmul lr v)
  { delta := d, state := state, finite := !anyBad d }

/-- Row-wise Adagrad. -/
def optAdagrad (eps lr : Word32) (g : List Word32) (state : Bytes) : Optimised :=
  let a := fadd (stateF32 state 0) (fdiv (fsum (g.map fun v => fmul v v)) (fofInt g.length))
  let den := fadd (fsqrt a) eps
  let d := g.map fun v => fneg (fdiv (fmul lr v) den)
  { delta := d, state := putAt state 0 (toLe 4 a.toNat), finite := !anyBad d && !fbad a }

/-- INT8 codes of values over a BF16 scale: the scale's bits, the codes. -/
def momentCodes (lo : Int) (v : List Word32) : Nat × List Int :=
  let s := toBf16 (fdiv (fmax (v.map fabs)) (fofInt 127))
  (s, v.map fun a => if fzero (ofBf16 s) then 0 else clamp (rne (fdiv a (ofBf16 s))) lo 127)

/-- Adam. -/
def optAdam (x : Table) (lr : Word32) (g : List Word32) (state : Bytes) : Optimised :=
  let d := x.dim
  let p1 := fmul (stateF32 state 4) x.b1
  let p2 := fmul (stateF32 state 8) x.b2
  let sm := ofBf16 (le state 12 2)
  let su := ofBf16 (le state 14 2)
  let m2 := (List.range d).map fun i =>
    fadd (fmul x.b1 (fmul (fofInt (signedOf 8 (byteAt state (16 + i)))) sm)) (fmul x.c1 (g.getD i 0))
  let v2 := (List.range d).map fun i =>
    let u := fmul (fofInt (signedOf 8 (byteAt state (16 + d + i)))) su
    fadd (fmul x.b2 (fmul u u)) (fmul x.c2 (fmul (g.getD i 0) (g.getD i 0)))
  let delta := (m2.zip v2).map fun p =>
    fneg (fdiv (fmul lr (fdiv p.1 (fsub fone p1))) (fadd (fsqrt (fdiv p.2 (fsub fone p2))) x.eps))
  let (s1, cm) := momentCodes (-127) m2
  let (s2, cu) := momentCodes 0 (v2.map fsqrt)
  { delta := delta,
    state := padTo 64 (toLe 4 (le state 0 4 + 1) ++ toLe 4 p1.toNat ++ toLe 4 p2.toNat ++ toLe 2 s1 ++ toLe 2 s2 ++
      cm.map (fun c => BitVec.ofInt 8 c) ++ cu.map fun c => BitVec.ofInt 8 c),
    finite := !anyBad delta && !anyBad m2 && !anyBad v2 && !fbad p1 && !fbad p2 && !fbad (ofBf16 s1) && !fbad (ofBf16 s2) }

/-- The optimiser of a table. -/
def Table.optimise (x : Table) (lr : Word32) (g : List Word32) (state : Bytes) : Optimised :=
  if x.opt = 2 then optAdagrad x.eps lr g state
  else if x.opt = 3 then optAdam x lr g state
  else optSgd lr g state

/-- Run the optimiser on every merged row of a step. -/
def Table.optimiseAll (x : Table) (t : Step) : List Merged :=
  t.merged.map fun m =>
    let o := x.optimise t.lr m.g (((x.liveRow m.row).map (·.state)).getD [])
    { m with delta := o.delta, state := o.state, finite := o.finite }

/-! ## Mirroring (R247) -/

/-- Mark of a step's mirror message. -/
abbrev markStep : Nat := 4
/-- Mark of its ack. -/
abbrev markStepAck : Nat := 5
/-- Mark of its confirm. -/
abbrev markStepConfirm : Nat := 6
/-- Mark of a step digest. -/
abbrev markStepDigest : Nat := 7
/-- Mark of a row repair. -/
abbrev markRepair : Nat := 8

/-- The head of a step's class-1 messages. -/
def stepHead (mark table num : Nat) : Bytes := toLe 4 mark ++ toLe 4 table ++ toLe 8 num

/-- The mirror message: lr, the void verdict, the dropped count, and a record for each merged row. -/
def stepMirrorBytes (table : Nat) (t : Step) : Bytes :=
  stepHead markStep table t.num ++ toLe 4 t.lr.toNat ++ toLe 2 (bit01 t.void.isSome) ++ toLe 2 (t.void.getD 0) ++
    toLe 4 t.dropped ++ toLe 4 t.merged.length ++
    t.merged.flatMap fun m => toLe 6 m.row ++ zeros 10 ++ m.g.flatMap fun v => toLe 4 v.toNat

/-- A step of T+2 whose rows the optimiser has run over, on a tile that may have spoiled what it made. -/
def Table.optimised (x : Table) (t : Step) (tile : TileUse) : Step :=
  { t with merged := x.optimiseAll t, stage := 2, spoiled := tile.lost }

/-- STEP_MIRROR: in T+2 the owner mirrors the step and runs the optimiser on a tile. -/
def stepMirrorEff (table : Nat) (tile : TileUse) (s : State) : State :=
  match SMap.find? s.tables table with
  | none => s
  | some x =>
    match x.stepAt (some true) 1 2 s.stride with
    | none => s
    | some t =>
      if !s.working || !s.unitUp 0x01 tile.tile then s
      else
        let s1 := if s.isFenced s.partner then s else s.send 1 s.partner (stepMirrorBytes table t)
        (s1.useTile tile x.context).modStep table t.num fun t => x.optimised t tile

/-- STEP_MIRROR: table ids are 32 bits, tiles 0 to 95 (R10). -/
def execStepMirror (table : Nat) (tile : TileUse) (s : State) : Host.Outcome State Fault Refusal :=
  guarded (decide (table < 2 ^ 32 ∧ tile.tile < 96)) (stepMirrorEff table tile) s

/-- The step that a mirror message brings to the partner. -/
def parseMirror (x : Table) (num admitAt : Nat) (m : Bytes) : Step :=
  { newStep num admitAt false with
    lr := BitVec.ofNat 32 (le m 16 4), void := if le m 20 2 = 1 then some (le m 22 2) else none, dropped := le m 24 4,
    merged := (List.range (le m 28 4)).map fun i =>
      let o := 32 + i * (16 + 4 * x.dim)
      { row := le m o 6, g := elemsAt 0 m (o + 16) x.dim, delta := [], state := [], finite := false } }

/-- STEP_MIRROR_RECEIVE: in T+2 the partner stages the records, runs the optimiser on a tile and acks; the owner that receives the
ack confirms; the partner that receives the confirm holds it. What comes for a table that is gone is discarded and counted
(R390). -/
def stepMirrorReceiveEff (m : Bytes) (tile : TileUse) (s : State) : State :=
  let mark := le m 0 4
  let table := le m 4 4
  let num := le m 8 8
  match SMap.find? s.tables table with
  | none => s.scheduledDrop
  | some x =>
    if !s.running || s.isFenced s.partner then s
    else if mark = markStep then
      if (x.step? num).isSome || !s.unitUp 0x01 tile.tile then s
      else
        let t := x.optimised (parseMirror x num (s.stride - 2) m) tile
        ((s.useTile tile x.context).modTable table fun x => { x with steps := x.steps ++ [t] }).send 1 s.partner
          (stepHead markStepAck table num)
    else if mark = markStepAck then
      if (x.step? num).any fun t => t.owner && t.stage = 2 && t.admitAt + 2 = s.stride then
        (s.modStep table num fun t => { t with held := true }).send 1 s.partner (stepHead markStepConfirm table num)
      else s
    else if mark = markStepConfirm then
      if (x.step? num).any fun t => !t.owner && t.stage = 2 && t.admitAt + 2 = s.stride then
        s.modStep table num fun t => { t with held := true }
      else s
    else s

/-- STEP_MIRROR_RECEIVE: tiles are 0 to 95 (R10). -/
def execStepMirrorReceive (message : Bytes) (tile : TileUse) (s : State) : Host.Outcome State Fault Refusal :=
  guarded (decide (tile.tile < 96)) (fun s => s.arrives 1 s.partner message (stepMirrorReceiveEff message tile)) s

/-! ## STEP_APPLY (R247 to R249) -/

/-- Put a row's dirty copy. -/
def putDirty (d : List TableRow) (r : TableRow) : List TableRow :=
  if d.any fun x => x.id = r.id then d.map fun x => if x.id = r.id then r else x else d ++ [r]

/-- What becomes of a merged row where a step applies (R247, R248). -/
inductive RowFate where
  | absent
  | dropped
  | poisoned
  | updated (row : Bytes) (clipped : Nat)
  deriving DecidableEq, Repr

/-- What becomes of a merged row: it is poisoned where its row or state reads so, and left as it is where a value of Δ, of its
state or of the row is not finite (R245, R176). -/
def Table.fate (x : Table) (uncorrectable : List Nat) (m : Merged) : RowFate :=
  match x.liveRow m.row with
  | none => .absent
  | some r =>
    if r.poisoned || uncorrectable.contains m.row || decide (sumInt (rowCodes r.row) ≠ rowSum r.row) then .poisoned
    else if !m.finite then .dropped
    else
      match updateRow r.row m.delta with
      | .bad => .dropped
      | .done row n => .updated row n

/-- What applying one merged row does to a table and its step: the dirty copy created or updated, the row poisoned, or the
row left as it is and counted as dropped. -/
def applyRow (num stride : Nat) (uncorrectable : List Nat) (p : Table × Step) (m : Merged) : Table × Step :=
  let (x, t) := p
  match x.liveRow m.row, x.fate uncorrectable m with
  | some r, .poisoned =>
    ({ x with dirty := putDirty x.dirty { r with row := zeros r.row.length, state := zeros r.state.length, poisoned := true,
                                                  applied := stride, step := num } }, { t with poisoned := t.poisoned ++ [m.row] })
  | some r, .updated row n =>
    ({ x with dirty := putDirty x.dirty { r with row := row, state := m.state, applied := stride, step := num } },
     { t with updated := t.updated + 1, clipped := t.clipped + n })
  | _, .dropped => (x, { t with dropped := t.dropped + 1 })
  | _, _ => p

/-- The unit commands of an applied row, from what the table held before (R228, R234, R247, R248): its dirty copy gets its place,
and takes Δ by UPDATE, or the poison pattern by ROWWRITE; the destination of a move takes the same Δ, beside the status that
the writable copy had (R230). -/
def State.applyInHbm (s : State) (id : Nat) (before : Table) (uncorrectable : List Nat) (m : Merged) : State :=
  match before.liveRow m.row, before.fate uncorrectable m with
  | some r, .poisoned =>
    let s1 := s.placeDirty id m.row r.row
    match (SMap.find? s1.tables id).bind fun x => SMap.find? x.places m.row with
    | some a => (s1.issueRowwrite before.context a r.row true none).issueDual id m.row m.delta stPoisoned
    | none => s1
  | some r, .updated _ _ => ((s.placeDirty id m.row r.row).issueStepUpdate id m.row m.delta).issueDual id m.row m.delta stOk
  | _, _ => s

/-- R249: the step digest over the merged rows that are not in a list of poisoned rows. -/
def Table.stepDigest (x : Table) (t : Step) (poisoned : List Nat) : Nat :=
  digest64 (toLe 8 t.num ++ ((t.merged.map (·.row)).filter fun r => !poisoned.contains r).flatMap fun r =>
    toLe 6 r ++ (match x.liveRow r with
      | some y => (y.row.drop 32).take 4 ++ (y.row.drop 24).take 4
      | none => zeros 8))

/-- The digest message: the digest and the list of poisoned rows. -/
def stepDigestBytes (table num digest : Nat) (poisoned : List Nat) : Bytes :=
  stepHead markStepDigest table num ++ toLe 8 digest ++ toLe 4 poisoned.length ++ poisoned.flatMap (toLe 8)

/-- An owner's notice. -/
def noticeBytes (table owner : Nat) (t : Step) (single : Bool) : Bytes :=
  toLe 4 table ++ toLe 8 t.num ++ toLe 2 (t.void.getD stOk) ++
    toLe 2 (bit01 t.void.isSome + 2 * bit01 single + 8 * bit01 (!t.poisoned.isEmpty) + 16 * bit01 (0 < t.dropped)) ++
    toLe 4 t.updated ++ toLe 4 t.clipped ++ toLe 4 t.dropped ++ toLe 2 owner

/-- The owner's notices to every participant. -/
def State.sendNotices (s : State) (table num : Nat) (single : Bool) : State :=
  match SMap.find? s.tables table with
  | none => s
  | some x =>
    match x.step? num with
    | none => s
    | some t => if t.owner then x.participants.foldl (fun s p => s.send 2 p (noticeBytes table s.me t single)) s else s

/-- STEP_APPLY: in T+3 each member applies the step if it holds the other's reply, or alone where its partner is fenced, and
sends its digest; `uncorrectable` names rows whose row or state reads so. A step that meets a fold being built is void (R253).
Then the apply barrier falls (R235, log entry 90). -/
def stepApplyEff (table : Nat) (uncorrectable : List Nat) (s : State) : State :=
  match SMap.find? s.tables table with
  | none => s
  | some x =>
    match x.stepAt none 2 3 s.stride with
    | none => s
    | some t =>
      if !s.working then s
      else
        let alone := s.isFenced s.partner
        let may := t.held || alone
        let void := t.void <|> if x.folding then some stNoResource else if may then none else some stOk
        let t1 : Step := { t with void := void, held := may, stage := 3 }
        -- DESIGN CHOICE (log entry 102): what a tile spoiled of the step is poison of its rows (R150, R248)
        let bad := if t.spoiled then t.merged.map (·.row) else uncorrectable
        let (x2, t2) := if void.isSome then (x, t1)
          else t1.merged.foldl (applyRow t.num s.stride bad) (x, { t1 with applied := true })
        let t3 : Step := { t2 with digest := x2.stepDigest t2 t2.poisoned, exchanged := alone }
        let s1 := if void.isSome then s else t1.merged.foldl (fun s m => s.applyInHbm table x bad m) s
        let s2 := ((s1.modTable table fun y => { y with dirty := x2.dirty }).modStep table t.num fun _ => t3).passBarrier table
        if alone then s2.sendNotices table t.num true
        else s2.send 1 s.partner (stepDigestBytes table t.num t3.digest t3.poisoned)

/-- STEP_APPLY: table ids are 32 bits. -/
def execStepApply (table : Nat) (uncorrectable : List Nat) (s : State) : Host.Outcome State Fault Refusal :=
  guarded (decide (table < 2 ^ 32)) (stepApplyEff table uncorrectable) s

/-! ## Digests, notices and repairs (R248, R249) -/

/-- Raise a span divergence to the membership protocol (R220). -/
def State.diverges (s : State) : State := { s with memb := { s.memb with divergence := true } }

/-- STEP_DIGEST_RECEIVE: a digest covers the rows outside the list that comes with it. A member that has poisoned further
rows sends its digest again over the union and compares what answers that (log entry 27). -/
def stepDigestReceiveEff (table num digest : Nat) (poisoned : List Nat) (s : State) : State :=
  match SMap.find? s.tables table with
  | none => s
  | some x =>
    match x.step? num with
    | none => s
    | some t =>
      if !s.running ∨ t.stage ≠ 3 ∨ t.exchanged ∨ s.stride ≠ t.admitAt + 3 then s
      else
        let both := dedupNat (t.poisoned ++ poisoned)
        let more := poisoned.any fun r => !t.poisoned.contains r
        let known := t.poisoned.all poisoned.contains
        let s1 := s.modStep table num fun t =>
          { t with peerPoisoned := if t.peerPoisoned.isEmpty then poisoned else t.peerPoisoned, exchanged := known }
        let s2 := if more ∧ t.peerPoisoned.isEmpty then
            s1.send 1 s.partner (stepDigestBytes table num (x.stepDigest t both) both) else s1
        if !known then s2
        else
          let s3 := if x.stepDigest t both = digest then s2 else s2.diverges
          s3.sendNotices table num false

/-- STEP_DIGEST_RECEIVE: table ids are 32 bits. -/
def execStepDigestReceive (table step digest : Nat) (poisoned : List Nat) (s : State) : Host.Outcome State Fault Refusal :=
  guarded (decide (table < 2 ^ 32)) (stepDigestReceiveEff table step digest poisoned) s

/-- Is the partner suspected or fenced, so that what it does not send is no divergence (R327)? -/
def State.partnerExcused (s : State) : Bool :=
  s.isFenced s.partner || ((SMap.find? s.memb.peers s.partner).any fun p => p.suspected)

/-- STEP_DIGEST_DEADLINE: a digest absent at the end of T+3 is a span divergence, unless the partner is suspected or fenced
(R327). -/
def stepDigestDeadlineEff (table : Nat) (s : State) : State :=
  match SMap.find? s.tables table with
  | none => s
  | some x =>
    match x.steps.find? fun t => t.stage = 3 && !t.exchanged && t.admitAt + 3 = s.stride with
    | none => s
    | some t =>
      if s.clk.window ≠ 2 ∨ !s.running then s
      else
        let t1 := s.modStep table t.num fun t => { t with exchanged := true }
        (if s.partnerExcused then t1 else t1.diverges).sendNotices table t.num false

/-- STEP_DIGEST_DEADLINE: table ids are 32 bits. -/
def execStepDigestDeadline (table : Nat) (s : State) : Host.Outcome State Fault Refusal :=
  guarded (decide (table < 2 ^ 32)) (stepDigestDeadlineEff table) s

/-- The step completion entry (R249). -/
def stepCompletion (t : StepEntry) (status flags : Nat) : Bytes :=
  let sum (f : Nat × Nat × Nat × Nat × Nat → Nat) : Nat := sumNat (t.notices.map f)
  toLe 4 t.stepId ++ toLe 2 status ++ toLe 2 flags ++ toLe 8 t.num ++ toLe 4 (sum fun n => n.2.2.1) ++
    toLe 4 (sum fun n => n.2.2.2.1) ++ toLe 4 (sum fun n => n.2.2.2.2) ++ zeros 4

/-- Write a participant's completion: its own refusal with VOID; what the owners' notices give; or, where a notice is
missing, ST_TARGET_LOST with UNKNOWN. -/
def State.finishStep (s : State) (t : StepEntry) (missing : Bool) : State :=
  let given := t.notices.foldl (fun a n => a ||| n.2.1 % 2 ^ 16) 0
  let status := if t.status ≠ stOk then t.status else if missing then stTargetLost
    else firstStatus (t.notices.map fun n => n.2.1 / 2 ^ 16)
  let flags := if t.status ≠ stOk then given ||| 1 else if missing then given ||| 4 else given
  let ctx := ((s.ring? t.ring).map (·.context)).getD 0
  let s1 := { s with work := { s.work with steps := s.work.steps.filter fun y => !(y.ring = t.ring && y.order = t.order) } }
  (s1.complete t.ring t.admitAt t.order (stepCompletion t status flags)).ctxCount ctx fun c =>
    { c with poisoned := c.poisoned + bit01 (bitOf flags 3) }

/-- STEP_NOTICE_RECEIVE: in T+3; with the last notice the completion is written. -/
def stepNoticeReceiveEff (m : Bytes) (s : State) : State :=
  match s.work.steps.find? fun t => t.table = le m 0 4 && t.num = le m 4 8 && t.admitAt + 3 = s.stride with
  | none => s.lateReply
  | some t =>
    let owner := le m 28 2
    if !s.running ∨ !t.owners.contains owner ∨ t.notices.any fun n => n.1 = owner then s
    else
      let n := (owner, le m 14 2 + 2 ^ 16 * le m 12 2, le m 16 4, le m 20 4, le m 24 4)
      let t1 : StepEntry := { t with notices := t.notices ++ [n] }
      if t1.owners.all fun o => t1.notices.any fun n => n.1 = o then s.finishStep t1 false
      else { s with work := { s.work with
        steps := s.work.steps.map fun y => if y.ring = t.ring ∧ y.order = t.order then t1 else y } }

/-- STEP_NOTICE_RECEIVE -/
def execStepNoticeReceive (message : Bytes) (s : State) : Host.Outcome State Fault Refusal :=
  guarded true (fun s => s.arrives 2 (le message 28 2 % 2 ^ 15) message (stepNoticeReceiveEff message)) s

/-- STEP_NOTICE_DEADLINE: the completion of T+3 is written without the notices that are missing. -/
def stepNoticeDeadlineEff (table : Nat) (s : State) : State :=
  if s.clk.window ≠ 2 ∨ !s.running then s
  else (s.work.steps.filter fun t => t.table = table && t.admitAt + 3 = s.stride).foldl (fun s t => s.finishStep t true) s

/-- STEP_NOTICE_DEADLINE: table ids are 32 bits. -/
def execStepNoticeDeadline (table : Nat) (s : State) : Host.Outcome State Fault Refusal :=
  guarded (decide (table < 2 ^ 32)) (stepNoticeDeadlineEff table) s

/-- The poisoned member writes a row that the partner sent: by ROWWRITE under the apply barrier, which falls with the last such
row (R248). -/
def State.repairRow (s : State) (table row num : Nat) (image state : Bytes) : State :=
  let s1 := (s.modTable table fun x =>
    { x with dirty := x.dirty.map fun d =>
        if d.id = row then { d with row := fit d.row.length image, state := fit d.state.length state, poisoned := false } else d }).modStep
    table num fun t => { t with poisoned := t.poisoned.filter (· ≠ row) }
  let s2 := match SMap.find? s1.tables table with
    | some x => match SMap.find? x.places row with
      | some a => s1.issueRowwrite x.context a (fit (rowBytes x.width x.dim) image) false none
      | none => s1
    | none => s1
  s2.passBarrier table

/-- STEP_POISON_REPAIR: in T+4 a row poisoned on one member only is rewritten. The member that holds it sends its image and
state record from its detour reserve; the poisoned member, with what it received, writes them. -/
def stepPoisonRepairEff (table row : Nat) (image state : Bytes) (s : State) : State :=
  match SMap.find? s.tables table with
  | none => s
  | some x =>
    match x.steps.find? fun t => t.admitAt + 4 = s.stride && (t.poisoned.contains row != t.peerPoisoned.contains row) with
    | none => s
    | some t =>
      if !s.working then s
      else if t.poisoned.contains row then s.repairRow table row t.num image state
      else
        match x.liveRow row, s.gaitNow.1.freeClassOf x.context 7 with
        | some r, some d =>
          if s.classRoom d then (s.admitTo d).send 1 s.partner (stepHead markRepair table t.num ++ toLe 8 row ++ r.row ++ r.state)
          else s
        | _, _ => s

/-- STEP_POISON_REPAIR: table ids are 32 bits. -/
def execStepPoisonRepair (table row : Nat) (image state : Bytes) (s : State) : Host.Outcome State Fault Refusal :=
  guarded (decide (table < 2 ^ 32)) (stepPoisonRepairEff table row image state) s

/-! ## The commit (R249, R250), called at the boundary of T+4 -/

/-- Advance a table's committed count past the steps due, and drop the steps that are over. A step that this member could
not apply for want of its partner's reply does not advance it. -/
def Table.commitSteps (x : Table) (stride : Nat) : Table :=
  let due := x.steps.filter fun t => t.admitAt + 4 = stride && t.stage = 3 && (t.applied || (t.void.isSome && t.held))
  due.foldl (fun x t =>
    { x with
      committed := max x.committed t.num, dropped := x.dropped + t.dropped, clippedAll := x.clippedAll + t.clipped,
      updatedAll := x.updatedAll + t.updated, lastClipped := t.clipped,
      lastUpdated := t.updated }) { x with steps := x.steps.filter fun t => stride < t.admitAt + 5 }

end Sys2Proof.Machine
end

