-- ==== Sys2Proof/Machine/Update.lean ====
section
/-! DEFINITION. Inserts and deletes: the entry node's checks and forwarding, linking, staging and mirroring, the commit of
a stride's records, and the completions (11_updates_visibility.md). -/

namespace Sys2Proof.Machine

/-! ## UPDATE_ADMISSION (R213 to R217) -/

/-- R215: the entry length that an entry should have. -/
def updateLength (e : Bytes) : Nat := if byteAt e 8 = 2 then 64 else 64 + le e 10 2 * elemSize (byteAt e 9)

/-- The elements of an insert, converted to the index's full-precision format and from it to FP32 (R65, R63). -/
def Index.insertElems (x : Index) (e : Bytes) : List Word32 :=
  (elemsAt (byteAt e 9) e 64 (le e 10 2)).map fun a => elemOf x.fp (elemBits x.fp a)

/-- Is an F32 attribute field of an attribute block not finite (R57)? -/
def Index.attrsBad (x : Index) (attrs : Bytes) : Bool :=
  (x.typeA = 2 && fbad (BitVec.ofNat 32 (le attrs 8 4))) || (x.typeB = 2 && fbad (BitVec.ofNat 32 (le attrs 12 4)))

/-- The row that an insert brings, without its slot and generation. -/
def Index.insertRow (x : Index) (e : Bytes) : Option Row :=
  let key := le e 12 6
  if anyBad (elemsAt (byteAt e 9) e 64 (le e 10 2)) || anyBad (x.insertElems e) || x.attrsBad (e.drop 32) then none
  else x.makeRow ((e.drop 32).take 16) key (shardOf x.seed x.shards key) 0 0 (x.insertElems e)

/-- R215: the status of an update entry; an index that is closing is as none (R133). -/
def State.updateStatus (s : State) (r : Ring) (e : Bytes) : Nat :=
  let op := byteAt e 8
  if le e 20 4 ≠ updateLength e ∨ r.slotSize < le e 20 4 then stBadLength
  else if !(zeroAt e 18 2 && zeroAt e 24 8 && zeroAt e 48 16) then stBadFormat
  else
    match SMap.find? s.indexes (le e 4 4) with
    | none => stBadValue
    | some x =>
      if x.closing.isSome then stBadValue
      else if x.context ≠ r.context then stNotOwner
      else if !(x.current.any fun v => v.filled) then stNoVersion
      else if (op ≠ 1 ∧ op ≠ 2) ∨ (op = 1 ∧ 2 < byteAt e 9) then stBadValue
      else if le e 12 6 = 0xFFFF_FFFF_FFFF then stBadValue
      else if op = 1 ∧ le e 10 2 ≠ x.dim then stBadLength
      else if op = 1 ∧ (x.insertRow e).isNone then stBadValue
      else stOk

/-- R214: the completion entry; the commit stride and locator of an update that did not commit are 0. -/
def updateCompletion (id status flags admitAt commit loc : Nat) : Bytes :=
  let ok := status = stOk
  toLe 4 id ++ toLe 2 status ++ toLe 2 flags ++ toLe 8 admitAt ++ toLe 8 (if ok then commit else 0) ++
    toLe 6 (if ok then loc else 0) ++ zeros 2

/-- R217: the update record header. -/
def recordHeader (node ring handle admitAt sequence index context op key shard id length : Nat) : Bytes :=
  toLe 2 node ++ toLe 2 ring ++ toLe 4 handle ++ toLe 8 admitAt ++ toLe 8 sequence ++ toLe 4 index ++ toLe 2 context ++
    toLe 1 op ++ zeros 1 ++ toLe 6 key ++ toLe 2 shard ++ toLe 4 id ++ toLe 4 length ++ zeros 16

/-- The serving member of an update admitted now: the near node, or the off node where the near one is fenced (R216). -/
def State.updateMember (s : State) (span : Nat) : Nat := if s.isFenced (2 * span) then 2 * span + 1 else 2 * span

/-- Admit an update that passed its checks: its tag is its handle until K, and its record goes to the serving member. -/
def State.admitUpdate (s : State) (tag : Nat) (a : Admission) (x : Index) : State :=
  let e := a.entry
  let key := le e 12 6
  let j := shardOf x.seed x.shards key
  let member := s.updateMember (spanAt x.map j)
  let body := if byteAt e 8 = 1 then ((x.insertRow e).map Row.full).getD [] else []
  let u : EntryUpdate := { ring := a.id, order := a.order, updateId := le e 0 4, admitAt := s.stride,
                           commit := s.stride + a.len - 1, serving := member, index := le e 4 4 }
  let t := s.takeTag tag
  { t with work := { t.work with updates := SMap.set t.work.updates tag u } }.send 2 member
    (recordHeader s.me a.id tag s.stride a.order (le e 4 4) a.ring.context (byteAt e 8) key j (le e 0 4) body.length ++ body)

/-- UPDATE_ADMISSION on an entry taken in, whose checks and record a tile makes (R216): a refused update completes at once
(R215). DESIGN CHOICE (log entry 102): so does one whose share an uncorrectable error in the tile's SRAM spoils, with
ST_POISONED (R150). -/
def State.takeUpdate (s0 : State) (tag : Nat) (tile : TileUse) (a : Admission) : State :=
  let e := a.entry
  let s := s0.useTile tile a.ring.context
  let checked := s.updateStatus a.ring e
  let st := if checked = stOk ∧ tile.lost then stPoisoned else checked
  match SMap.find? s.indexes (le e 4 4) with
  | some x =>
    if st = stOk then s.admitUpdate tag a x
    else s.complete a.id s.stride a.order (updateCompletion (le e 0 4) st 0 s.stride 0 0)
  | none => s.complete a.id s.stride a.order (updateCompletion (le e 0 4) st 0 s.stride 0 0)

/-- UPDATE_ADMISSION: without a free request tag the entry waits in its ring. -/
def updateAdmissionEff (ring : Nat) (entry : Bytes) (tile : TileUse) (s : State) : State :=
  match s.freeTag with
  | none => s
  | some t => if s.unitUp 0x01 tile.tile then s.admitRing ring 2 entry fun s a => s.takeUpdate t tile a else s

/-- UPDATE_ADMISSION: ring ids are 4 × context + doorbell index (R375), tiles 0 to 95 (R10). -/
def execUpdateAdmission (ring : Nat) (entry : Bytes) (tile : TileUse) (s : State) : Host.Outcome State Fault Refusal :=
  guarded (decide (ring < 16384 ∧ tile.tile < 96)) (updateAdmissionEff ring entry tile) s

/-! ## The serving member (R216, R218) -/

/-- Key of an update at its serving member. -/
def updateKey (entryNode handle : Nat) : Nat := entryNode * 2 ^ 18 + handle

/-- A forwarded update as its header spells it. -/
def parseForward (m : Bytes) (len stride : Nat) : ServedUpdate :=
  { entryNode := le m 0 2 % 2 ^ 15, ring := le m 2 2, handle := le m 4 4 % 2 ^ 18, admitAt := le m 8 8, sequence := le m 16 8,
    index := le m 24 4, context := le m 28 2, op := byteAt m 30, key := le m 32 6, shard := le m 38 2,
    updateId := le m 40 4, record := (m.drop 64).take (le m 44 4), search := none, rounds := stride, links := 0, len := len }

/-- The base version current at a stride (R131): the current one, or the outgoing one after a switch since. -/
def Index.baseAt (x : Index) (a : Nat) : Option Version :=
  (x.versions.filter fun v => v.readable && v.since ≤ a && 0 < v.since).foldl (fun best v => match best with
    | none => some v
    | some b => if b.since < v.since then some v else some b) none

/-- The row of a forwarded insert at a slot and generation: quantised from its full-precision record (R63, R65). -/
def Index.servedRow (x : Index) (u : ServedUpdate) (slot gen : Nat) : Option Row :=
  x.makeRow (u.record.take 16) u.key u.shard slot gen (elemsAt x.fp u.record 64 x.dim)

/-- R218: the start of an insert's linking: its query record, and the descent on the snapshot of A. -/
def Index.startLink (x : Index) (u : ServedUpdate) (cls : Nat) (bad badLists : List Nat) (sorter : SortUse) (unit : SortUnit) :
    Option (View × Walk) :=
  match x.baseAt u.admitAt, x.servedRow u 0 0 with
  | some v, some r =>
    let q : Search :=
      { x.linkSearch r v.num with cls := cls, admitAt := u.admitAt, index := u.index, roundAt := u.admitAt + 1 }
    some (x.viewOf v q, Walk.start (q.walk unit) (x.viewOf v q) none bad badLists sorter.parity (v.rows.length + 17) 0)
  | _, _ => none

/-- R218: the linking rounds that the update class declares: those of the ring of the record's id, where one is open here,
else as many as the plan has strides between the descent in A+1 and the staging in A+5 (DESIGN CHOICE, log entry 50: a
forwarded record does not carry them). -/
def State.linksOf (s : State) (u : ServedUpdate) : Nat :=
  match SMap.find? s.rings u.ring with
  | some r => if r.kind = 2 ∧ r.isOpen then r.linkRounds else u.len - 3
  | none => u.len - 3

/-- What a step of a linking search leaves beside its lists: the stale edges and the hits of rows read from DDR, the sort unit
and the tags of its list reads (R88, R124, R209). -/
def State.linked (s : State) (v : View) (bad : List Nat) (before : Search) (w : Walk) (a : Nat) (sorter : SortUse) : State :=
  let q := w.search
  let fromDdr := v.ddrScored s (s.nmuRoom a q.cls (rowBytes v.ix.width v.ix.dim)) bad (before.newRows q)
  ((((s.addStale q.index w.stale).touchRows q.index fromDdr).putSort sorter.unit w.unit)).takeShare a q.cls 0 8

/-- UPDATE_FORWARD_RECEIVE (R216): admitted in A+1 into the shard-update class, else discarded and counted. The version that an
insert's search reads is kept for it (R131). -/
def updateForwardReceiveEff (m : Bytes) (poisonRows poisonLists : List Nat) (sorter : SortUse) (s : State) : State :=
  if !s.searching sorter then s
  else
    match s.serveClass (le m 28 2) 2 (!s.isNear && s.isFenced s.partner) with
    | none => s.scheduledDrop
    | some (k, len) =>
      let u := parseForward m len s.stride
      match SMap.find? s.indexes u.index with
      | none => s.scheduledDrop
      | some x =>
        if x.context ≠ u.context ∨ !s.holds x.map u.shard ∨ s.stride ≠ u.admitAt + 1 ∨ !s.classRoom k ∨
            !(x.current.any fun v => v.filled) then s.scheduledDrop
        else
          let serve (s : State) (u : ServedUpdate) : State :=
            { s with work := { s.work with served := SMap.set s.work.served (updateKey u.entryNode u.handle) u } }
          match (if u.op = 1 then x.startLink u k poisonRows poisonLists sorter (s.sortUnit sorter.unit) else none) with
          | none => serve (s.admitTo k) u
          | some (v, w) =>
            let s1 := (s.admitTo k).linked v poisonRows { w.search with visited := [] } w s.stride sorter
            serve (s1.modIndex u.index fun x => x.keepFor w.search.version (u.admitAt + u.len))
              { u with search := some w.search, links := s.linksOf u }

/-- UPDATE_FORWARD_RECEIVE: sort units are 0 to 15 (R10). -/
def execUpdateForwardReceive (message : Bytes) (poisonRows poisonLists : List Nat) (sorter : SortUse) (s : State) :
    Host.Outcome State Fault Refusal :=
  guarded (decide (sorter.unit < 16)) (fun s => s.arrives 2 (le message 0 2 % 2 ^ 15) message (updateForwardReceiveEff message poisonRows poisonLists sorter)) s

/-- LINKING_ROUND (R218): one round in each stride between the descent and the staging, until the rounds that the class declares
are made or no unexpanded candidate remains; the last one prefetches nothing. A tile scores the rows read from DDR (R151). -/
def linkingRoundEff (key : Nat) (poisonRows poisonLists : List Nat) (sorter : SortUse) (tile : TileUse) (s : State) : State :=
  match SMap.find? s.work.served key with
  | none => s
  | some u =>
    match u.search with
    | none => s
    | some q =>
      if !s.searching sorter ∨ !s.unitUp 0x01 tile.tile ∨ u.links = 0 ∨ s.stride ≤ u.rounds ∨ u.admitAt + u.len < s.stride + 2 then s
      else
        match s.searchView q with
        | none => s
        | some v =>
          let last := decide (u.links = 1 ∨ s.stride + 2 = u.admitAt + u.len)
          let w := (q.walk (s.sortUnit sorter.unit)).round v none poisonRows poisonLists sorter.parity 0 last
          let a := u.admitAt + 1
          let rows := (v.ddrScored s (s.nmuRoom a q.cls (rowBytes v.ix.width v.ix.dim)) poisonRows (q.newRows w.search)).length
          let cost := scanCycles v.ix.width v.ix.dim rows + (s.tile tile.tile).zeroing q.context
          let s1 := s.linked v poisonRows q w a sorter
          let s2 := if rows = 0 then s1 else (s1.useTile tile q.context).needs (8 * key + 2) a q.cls s.stride tile.tile cost
          { s2 with work := { s2.work with
              served := SMap.update s2.work.served key fun u =>
                { u with search := some w.search, rounds := s.stride, links := u.links - 1 } } }

/-- LINKING_ROUND: sort units are 0 to 15, tiles 0 to 95 (R10). -/
def execLinkingRound (update : Nat) (poisonRows poisonLists : List Nat) (sorter : SortUse) (tile : TileUse) (s : State) :
    Host.Outcome State Fault Refusal :=
  guarded (decide (sorter.unit < 16 ∧ tile.tile < 96)) (linkingRoundEff update poisonRows poisonLists sorter tile) s

/-! ## UPDATE_STAGING (R218, R219) -/

/-- The record order of updates on a shard (R217). -/
def recordBefore (a b : Nat × Nat × Nat × Nat) : Bool :=
  a.1 < b.1 || (a.1 = b.1 && (a.2.1 < b.2.1 || (a.2.1 = b.2.1 && (a.2.2.1 < b.2.2.1 ||
    (a.2.2.1 = b.2.2.1 && a.2.2.2 < b.2.2.2)))))

/-- A pending record's place in that order. -/
def Pending.place (p : Pending) : Nat × Nat × Nat × Nat := (p.admitAt, p.entryNode, p.ring, p.sequence)

/-- Pending records in record order. -/
def inRecordOrder (l : List Pending) : List Pending := sortBy (fun a b => recordBefore a.place b.place) l

/-- A served update as a pending record of stride K, before its slot is reserved. -/
def ServedUpdate.toPending (u : ServedUpdate) (k : Nat) : Pending :=
  { entryNode := u.entryNode, ring := u.ring, handle := u.handle, admitAt := u.admitAt, sequence := u.sequence,
    context := u.context, op := u.op, key := u.key, shard := u.shard, updateId := u.updateId, slot := 0, gen := 0,
    row := none, targets := [], items := [], commit := k, serving := true, held := false, final := none }

/-- Delta rows of a shard, committed or reserved. -/
def Index.deltaUse (x : Index) (shard : Nat) : Nat :=
  (x.delta.filter fun r => r.shard = shard).length + (x.reserved.filter fun k => k / 2 ^ 40 = shard).length

/-- R218: stage one update of the stride: a slot reserved and the row, list and back-edge items built, or ST_NO_RESOURCE. -/
def Index.stage (x : Index) (u : ServedUpdate) (k : Nat) : Index × Pending :=
  let p := u.toPending k
  if u.op ≠ 1 then ({ x with pending := x.pending ++ [p] }, p)
  else
    let none' : Pending := { p with final := some stNoResource }
    match x.freeSlot u.shard with
    | none => ({ x with pending := x.pending ++ [none'] }, none')
    | some slot =>
      if x.deltaCap ≤ x.deltaUse u.shard then ({ x with pending := x.pending ++ [none'] }, none')
      else
        let gen := x.genFor u.shard slot
        let best := ((u.search.map (·.result)).getD []).take x.m0
        let q : Pending :=
          { p with slot := slot, gen := gen, row := x.servedRow u slot gen,
                   targets := sortTargets (best.map fun e => (e.slot, e.gen)),
                   items := (best.take x.back).map fun e => (e.slot, e.gen) }
        ({ x with pending := x.pending ++ [q], reserved := insertNat (slotKey u.shard slot) x.reserved }, q)

/-- R219: the mirror record of a pending record. -/
def Pending.mirror (p : Pending) (index : Nat) : Bytes :=
  let full := (p.row.map Row.full).getD []
  recordHeader p.entryNode p.ring p.handle p.admitAt p.sequence index p.context p.op p.key p.shard p.updateId full.length ++
    toLe 6 (locator p.slot p.gen) ++ toLe 2 p.items.length ++ zeros 8 ++
    (match p.row with
     | none => []
     | some r => full ++ r.head ++ r.codes ++ adjacencyRecord 0 p.targets ++ itemBytes p.items)

/-- Stage one update, within its context's reservation (R107): it leaves the served ones, and its mirror record goes to a partner
that is not fenced (R219, R221). A tile builds an insert's row and list (R216). DESIGN CHOICE (log entry 102): where an
uncorrectable error in its SRAM spoils them, the insert ends with ST_POISONED and is not mirrored (R150). -/
def State.stageOne (s : State) (w : ServedUpdate × TileUse) : State :=
  let (u, tile) := w
  let s0 := if u.op = 1 then s.useTile tile u.context else s
  let s1 := { s0 with work := { s0.work with served := SMap.erase s0.work.served (updateKey u.entryNode u.handle) } }
  match SMap.find? s.indexes u.index with
  | none => s1
  | some x =>
    let (x1, p1) := x.stage u (s.stride + 1)
    let t := { s1 with indexes := SMap.set s1.indexes u.index x1 }
    let (s2, p) :=
      if p1.final.isNone ∧ u.op = 1 ∧ (!t.holdsUse u.context ∨ tile.lost) then
        let none' : Pending :=
          { u.toPending (s.stride + 1) with final := some (if t.holdsUse u.context then stPoisoned else stNoResource) }
        ({ s1 with indexes := SMap.set s1.indexes u.index { x with pending := x.pending ++ [none'] } }, none')
      else (t, p1)
    if p.final.isSome || s.isFenced s.partner then s2 else s2.send 1 s.partner (p.mirror u.index)

/-- The updates that are staged in the present stride, in record order (R217): those whose K is the next. -/
def State.stagedNow (s : State) : List ServedUpdate :=
  sortBy (fun (a b : ServedUpdate) =>
      recordBefore (a.admitAt, a.entryNode, a.ring, a.sequence) (b.admitAt, b.entryNode, b.ring, b.sequence))
    ((s.work.served.map (·.2)).filter fun u => s.stride + 1 = u.admitAt + u.len)

/-- Item `i` of a list of tile uses; one that is not listed is tile 0's, without an error. -/
def tileFor (tiles : List TileUse) (i : Nat) : TileUse := tiles.getD i { tile := 0, fixed := 0, lost := false }

/-- UPDATE_STAGING: the updates of the stride in record order, the n-th one on the n-th tile named. -/
def updateStagingEff (tiles : List TileUse) (s : State) : State :=
  if !s.working || !(tiles.all fun t => s.unitUp 0x01 t.tile) then s
  else (s.stagedNow.zipIdx.map fun p => (p.1, tileFor tiles p.2)).foldl State.stageOne s

/-- UPDATE_STAGING: tiles are 0 to 95 (R10). -/
def execUpdateStaging (tiles : List TileUse) (s : State) : Host.Outcome State Fault Refusal :=
  guarded (tiles.all fun t => decide (t.tile < 96)) (updateStagingEff tiles) s

/-! ## Mirroring (R219) -/

/-- Marks of the class-1 messages of updates (log entry 24). -/
abbrev markUpdateAck : Nat := 9
/-- Confirm. -/
abbrev markUpdateConfirm : Nat := 10
/-- Commit digest. -/
abbrev markCommitDigest : Nat := 11

/-- A class-1 message that names an update. -/
def updateMark (mark handle entryNode : Nat) : Bytes := toLe 4 mark ++ toLe 4 handle ++ toLe 2 entryNode ++ zeros 6

/-- Item pairs at an offset. -/
def itemsAt (m : Bytes) (o n : Nat) : List (Nat × Nat) :=
  (List.range n).map fun i => (locSlot (le m (o + 8 * i) 6), locGen (le m (o + 8 * i) 6))

/-- The pending record that a mirror record brings to an index, for commit stride `k`. -/
def Index.parseMirror (x : Index) (m : Bytes) (k : Nat) : Pending :=
  let u := parseForward m 0 0
  let full := le m 44 4
  let loc := le m 64 6
  let codesLen := rowBytes x.width x.dim - 64
  let o := 80 + full
  let row : Row :=
    { shard := u.shard, slot := locSlot loc, gen := locGen loc, key := u.key, level := 0, head := (m.drop o).take 64,
      codes := (m.drop (o + 64)).take codesLen, record := (m.drop 144).take (full - 64), commit := 0 }
  let adj := m.drop (o + 64 + codesLen)
  { u.toPending k with
    slot := if u.op = 1 then locSlot loc else 0, gen := if u.op = 1 then locGen loc else 0,
    row := if u.op = 1 then some row else none,
    targets := if u.op = 1 then parseAdjacency adj else [],
    items := if u.op = 1 then itemsAt m (o + 64 + codesLen + adjacencyLength adj) (le m 70 2) else [],
    serving := false }

/-- R219: does a mirror record fit the index: the shard is held, its lengths are the index's, and the slot is free here? -/
def State.mirrorOk (s : State) (x : Index) (m : Bytes) : Bool :=
  let u := parseForward m 0 0
  x.context = u.context && s.holds x.map u.shard &&
    (if u.op = 1 then
      le m 44 4 = recordBytes x.dim && decide (80 + recordBytes x.dim + rowBytes x.width x.dim < m.length) &&
        !(x.usedSlots u.shard).contains (locSlot (le m 64 6)) && decide (x.deltaUse u.shard < x.deltaCap)
     else u.op = 2)

/-- MIRROR_RECORD_RECEIVE: staged as pending for the next stride, and acknowledged. -/
def mirrorRecordReceiveEff (m : Bytes) (s : State) : State :=
  if !s.working then s
  else
    match SMap.find? s.indexes (le m 24 4) with
    | none => s.scheduledDrop
    | some x =>
      if !s.mirrorOk x m then s.scheduledDrop
      else
        let p := x.parseMirror m (s.stride + 1)
        let x' : Index :=
          { x with pending := x.pending ++ [p],
                   reserved := if p.op = 1 then insertNat (slotKey p.shard p.slot) x.reserved else x.reserved }
        { s with indexes := SMap.set s.indexes (le m 24 4) x' }.send 1 s.partner
          (updateMark markUpdateAck p.handle p.entryNode)

/-- MIRROR_RECORD_RECEIVE -/
def execMirrorRecordReceive (message : Bytes) (s : State) : Host.Outcome State Fault Refusal :=
  guarded true (fun s => s.arrives 1 s.partner message (mirrorRecordReceiveEff message)) s

/-- Does a pending record of the next stride answer to a handle of an entry node, on a side of the mirror? -/
def Pending.named (p : Pending) (serving : Bool) (handle entryNode stride : Nat) : Bool :=
  p.serving = serving && p.handle = handle && p.entryNode = entryNode && p.commit = stride + 1 && p.final.isNone

/-- Hold the other member's reply for a pending record. -/
def State.holdPending (s : State) (serving : Bool) (handle entryNode : Nat) : State :=
  { s with indexes := SMap.mapVals s.indexes fun _ x =>
      { x with pending := x.pending.map fun p =>
          if p.named serving handle entryNode s.stride then { p with held := true } else p } }

/-- Is there such a record? -/
def State.hasPending (s : State) (serving : Bool) (handle entryNode : Nat) : Bool :=
  s.indexes.any fun x => x.2.pending.any fun p => p.named serving handle entryNode s.stride

/-- MIRROR_ACK_RECEIVE: the serving member holds the ack and sends a confirm. Handles from 2^18 up name the mirrored writes
of storage (R274). -/
def mirrorAckReceiveEff (handle entryNode : Nat) (s : State) : State :=
  if 2 ^ 18 ≤ handle then s.storageAck (handle - 2 ^ 18)
  else if s.working && s.hasPending true handle entryNode then
    (s.holdPending true handle entryNode).send 1 s.partner (updateMark markUpdateConfirm handle entryNode)
  else s

/-- MIRROR_ACK_RECEIVE: node ids are 15 bits. -/
def execMirrorAckReceive (handle entryNode : Nat) (s : State) : Host.Outcome State Fault Refusal :=
  guarded (decide (entryNode < 32768)) (mirrorAckReceiveEff handle entryNode) s

/-- MIRROR_CONFIRM_RECEIVE: the partner holds the confirm. -/
def mirrorConfirmReceiveEff (handle entryNode : Nat) (s : State) : State :=
  if 2 ^ 18 ≤ handle then s.storageConfirm (handle - 2 ^ 18)
  else if s.working then s.holdPending false handle entryNode
  else s

/-- MIRROR_CONFIRM_RECEIVE: node ids are 15 bits. -/
def execMirrorConfirmReceive (handle entryNode : Nat) (s : State) : Host.Outcome State Fault Refusal :=
  guarded (decide (entryNode < 32768)) (mirrorConfirmReceiveEff handle entryNode) s

/-! ## The commit of stride K (R219 to R225) -/

/-- Release a record's slot reservation. -/
def Index.unreserve (x : Index) (p : Pending) : Index :=
  { x with reserved := x.reserved.filter fun k => !(decide (p.op = 1) && k = slotKey p.shard p.slot) }

/-- R222 step 2: does a record commit: it holds the other member's reply, or this node serves it alone (R221)? -/
def Pending.commits (p : Pending) (alone : Bool) : Bool := p.held || (p.serving && alone)

/-- The replicas of a row, in every version that holds the row (R212). -/
def Index.replicasOf (x : Index) (r : Row) : List Row :=
  x.versions.flatMap fun v =>
    if (v.rowAt r.shard r.slot).any fun o => o.gen = r.gen then
      v.rows.filter fun c => c.shard = r.shard && c.key = r.key && v.replicas.contains (c.key, slotKey c.shard c.slot)
    else []

/-- R223: resolve a delete: its key's live row is tombstoned, with its replicas (R212), or there is none. -/
def Index.resolveDelete (x : Index) (k : Nat) (p : Pending) : Index × Nat :=
  match x.liveRow p.shard p.key with
  | none => (x, stNoKey)
  | some r =>
    let copies := (x.replicasOf r).filter fun c => c.slot ≠ r.slot ∧
      ¬ (x.tombs.any fun t => t.shard = p.shard && t.slot = c.slot && t.gen = c.gen)
    let ts := (r :: copies).map fun r => ({ shard := p.shard, slot := r.slot, gen := r.gen, commit := k } : Tomb)
    ({ x with tombs := x.tombs ++ ts, recent := x.recent ++ ts }, stOk)

/-- Entries that an overlay record may hold (R120). -/
abbrev overlayRoom : Nat := 16

/-- R222: one back-edge item enters its target's overlay record, or is dropped and counted (R120). -/
def Index.addOverlay (k : Nat) (p : Pending) (x : Index) (item : Nat × Nat) : Index :=
  let mine := x.overlays.filter fun o => o.shard = p.shard && o.slot = item.1
  let records := dedupNat ((x.overlays.filter fun o => o.shard = p.shard).map (·.slot))
  if overlayRoom ≤ mine.length ∨ (mine.isEmpty ∧ x.overlayCap ≤ records.length) then
    { x with backDropped := x.backDropped + 1 }
  else
    { x with overlays := x.overlays ++
        [{ shard := p.shard, slot := item.1, target := p.slot, gen := p.gen, commit := k }] }

/-- R223: resolve an insert: its key must not be live. -/
def Index.resolveInsert (x : Index) (k : Nat) (p : Pending) : Index × Nat :=
  match x.liveRow p.shard p.key, p.row with
  | none, some r =>
    let x1 : Index :=
      { x with
        delta := x.delta ++ [{ r with commit := k }],
        deltaLists := (x.deltaLists.filter fun l => !(l.shard = p.shard && l.slot = p.slot)) ++
          [{ shard := p.shard, layer := 0, slot := p.slot, targets := p.targets }],
        tombs := x.tombs.filter fun t => !(t.shard = p.shard && t.slot = p.slot),
        lastGen := SMap.set x.lastGen (slotKey p.shard p.slot) p.gen }
    ((p.items.foldl (Index.addOverlay k p) x1).unreserve p, stOk)
  | _, _ => (x.unreserve p, stKeyExists)

/-- Resolve records one after another, each against the state the earlier ones left. -/
def Index.resolveAll (k : Nat) (step : Index → Nat → Pending → Index × Nat) : List Pending → Index → Index × List Pending
  | [], x => (x, [])
  | p :: l, x =>
    let (x1, st) := step x k p
    let (x2, out) := Index.resolveAll k step l x1
    (x2, { p with final := some st } :: out)

/-- R225: entries of the recent-delete list are retired at K + 16. -/
def Index.retireRecent (x : Index) (k : Nat) : Index := { x with recent := x.recent.filter fun t => k < t.commit + 16 }

/-- R222 steps 2 to 4 on one index: the index after stride `k`'s commit, and its records with their final status. -/
def Index.commit (x : Index) (k : Nat) (alone : Bool) : Index × List Pending :=
  let due := inRecordOrder (x.pending.filter fun p => p.commit = k)
  let x0 : Index := { x with pending := x.pending.filter fun p => p.commit ≠ k }
  let done := due.filter fun p => p.final.isSome
  let open' := due.filter fun p => p.final.isNone
  let void := open'.filter fun p => !p.commits alone
  let go := open'.filter fun p => p.commits alone
  let x1 := void.foldl Index.unreserve x0
  let (x2, dels) := Index.resolveAll k Index.resolveDelete (go.filter fun p => p.op ≠ 1) x1
  let (x3, ins) := Index.resolveAll k Index.resolveInsert (go.filter fun p => p.op = 1) x2
  ({ x3.retireRecent k with epoch := k },
   inRecordOrder (done ++ (void.map fun p => { p with final := some stTargetLost }) ++ dels ++ ins))

/-- R220: the commit digest of a stride over its records in record order: handle, final status and locator. -/
def commitDigest (k : Nat) (l : List Pending) : Nat :=
  digest64 (toLe 8 k ++ l.flatMap fun p =>
    toLe 4 p.handle ++ toLe 2 (p.final.getD stOk) ++
      toLe 6 (if p.op = 1 ∧ p.final = some stOk then locator p.slot p.gen else 0))

/-- The ack to the entry node (log entry 24): handle, status, flags, K, locator. -/
def updateAck (k : Nat) (alone : Bool) (p : Pending) : Bytes :=
  let st := p.final.getD stOk
  toLe 4 p.handle ++ toLe 2 st ++ toLe 2 (bit01 (alone && st = stOk)) ++ toLe 8 k ++
    toLe 8 (if p.op = 1 ∧ st = stOk then locator p.slot p.gen else 0)

/-- The commit of the present stride on every index: steps 2 to 4 of R222, then the digest and the acks of its work
window. Records of K are those not void (log entry 28). -/
def State.commitUpdates (s : State) : State :=
  let k := s.stride
  let alone := s.isFenced s.partner
  let all := s.indexes.map fun p => (p.1, p.2.commit k alone)
  let dropped := sumNat (all.map fun p => p.2.1.backDropped) - sumNat (s.indexes.map fun p => p.2.backDropped)
  let s1 := { s with indexes := all.map fun (p : Nat × Index × List Pending) => (p.1, p.2.1) }.count
    fun c => { c with backDropped := c.backDropped + dropped }
  let records := inRecordOrder (all.flatMap fun p => p.2.2)
  let kept := records.filter fun p => p.final ≠ some stTargetLost ∧ p.final ≠ some stNoResource
  let d := commitDigest k kept
  let s2 :=
    if kept.isEmpty || alone then s1
    else
      { s1 with work := { s1.work with digests := SMap.set s1.work.digests k d } }.send 1 s.partner
        (toLe 4 markCommitDigest ++ zeros 4 ++ toLe 8 k ++ toLe 8 d)
  (records.filter fun p => p.serving).foldl (fun s p => s.send 2 p.entryNode (updateAck k alone p)) s2

/-! ## Digests (R220, R327) -/

/-- COMMIT_DIGEST_RECEIVE: the partner's digest of the present stride, against this node's own, or that of no record. -/
def commitDigestReceiveEff (stride digest : Nat) (s : State) : State :=
  if s.clk.window = 0 ∨ stride ≠ s.stride then s
  else
    let s1 := { s with work := { s.work with peerDigests := SMap.set s.work.peerDigests stride digest } }
    if SMap.getD s.work.digests stride (commitDigest stride []) = digest then s1 else s1.diverges

/-- COMMIT_DIGEST_RECEIVE -/
def execCommitDigestReceive (stride digest : Nat) (s : State) : Host.Outcome State Fault Refusal :=
  guarded true (commitDigestReceiveEff stride digest) s

/-- COMMIT_DIGEST_DEADLINE: at the end of K. -/
def commitDigestDeadlineEff (s : State) : State :=
  if s.clk.window = 2 && SMap.has s.work.digests s.stride && !SMap.has s.work.peerDigests s.stride && !s.partnerExcused then
    s.diverges
  else s

/-- COMMIT_DIGEST_DEADLINE -/
def execCommitDigestDeadline (s : State) : Host.Outcome State Fault Refusal := guarded true commitDigestDeadlineEff s

/-! ## The entry node's completion (R214, R220) -/

/-- Write an update's completion and release its handle. -/
def State.finishUpdate (s : State) (h : Nat) (u : EntryUpdate) (status flags loc : Nat) : State :=
  let s1 := s.complete u.ring u.admitAt u.order (updateCompletion u.updateId status flags u.admitAt u.commit loc)
  ({ s1 with work := { s1.work with updates := SMap.erase s1.work.updates h } }).dropTag h

/-- UPDATE_ACK_RECEIVE: in K. -/
def updateAckReceiveEff (m : Bytes) (s : State) : State :=
  let h := le m 0 4 % 2 ^ 18
  match SMap.find? s.work.updates h with
  | none => s.lateReply
  | some u =>
    if u.commit ≠ s.stride ∨ s.clk.window = 0 then s.lateReply
    else s.finishUpdate h u (le m 4 2) (le m 6 2 % 2) (le m 16 6)

/-- UPDATE_ACK_RECEIVE -/
def execUpdateAckReceive (message : Bytes) (s : State) : Host.Outcome State Fault Refusal :=
  guarded true (fun s => s.arrives 2 s.me message (updateAckReceiveEff message)) s

/-- The completion of an update that has no reply: ST_TARGET_LOST with UNKNOWN. -/
def State.loseUpdate (s : State) (h : Nat) (u : EntryUpdate) : State := s.finishUpdate h u stTargetLost 2 0

/-- UPDATE_REPLY_DEADLINE: at the end of K. -/
def updateReplyDeadlineEff (h : Nat) (s : State) : State :=
  match SMap.find? s.work.updates h with
  | none => s
  | some u => if s.clk.window = 2 ∧ u.commit = s.stride then s.loseUpdate h u else s

/-- UPDATE_REPLY_DEADLINE: handles are request tags (R11). -/
def execUpdateReplyDeadline (handle : Nat) (s : State) : Host.Outcome State Fault Refusal :=
  guarded (decide (handle < 262144)) (updateReplyDeadlineEff handle) s

end Sys2Proof.Machine
end

