-- ==== Sys2Proof/Machine/Version.lean ====
section
/-! DEFINITION. Versions of indexes and tables: the admission and the end of builds, the span's agreement on a switch, the
switch itself and the freeing of versions; and the ends of closed indexes, tables and contexts, with the scrub of granules
(R126 to R133, R252 to R256, R388, R389). -/

namespace Sys2Proof.Machine

/-! ## Builds (R126, R127, R252, R253) -/

/-- The `n`-byte pieces of a paddock's content, packed from byte 0; units never written read as zeros (R271). So do units that
cannot be read, so that a build refuses the first record there (DESIGN CHOICE, log entry 65). -/
def Paddock.records (p : Paddock) (size count : Nat) : List Bytes :=
  let unit (u : Nat) : Bytes := (p.view u).getD (zeros 4096)
  (List.range count).map fun i =>
    let first := i * size / 4096
    let last := (i * size + size - 1) / 4096
    ((((List.range (last + 1 - first)).map (· + first)).flatMap unit).drop (i * size % 4096)).take size

/-- The row that a source record gives an index, or none where the record is refused on its own (R126). -/
def Index.sourceRow (x : Index) (b : Bytes) : Option Row :=
  let key := le b 16 6
  let elems := elemsAt x.fp b 64 x.dim
  if !zeroAt b 22 14 || le b 36 2 ≠ x.dim || key = 0xFFFF_FFFF_FFFF || anyBad elems || x.attrsBad b then none
  else x.makeRow (b.take 16) key (shardOf x.seed x.shards key) 0 0 elems

/-- Check records in order, keeping the rows: the position of the first refused, a repeated key included, or the rows. -/
def checkSource {α : Type} (row : Bytes → Option α) (key shard : α → Nat) (held : List Nat) :
    Nat → List Nat → List Bytes → Except Nat (List α)
  | _, _, [] => .ok []
  | i, seen, b :: l =>
    match row b with
    | none => .error i
    | some r =>
      if seen.contains (key r) || !held.contains (shard r) then .error i
      else (checkSource row key shard held (i + 1) (key r :: seen) l).map (r :: ·)

/-- The version that a build of an index makes at its cut stride, or the refusal and the offending record; with it the
index's last generations and what was met. `bad` are the slots whose codes read poison (R120). -/
def Index.runBuild (x : Index) (b : Build) (c : Nat) (held : List Nat) (source : List Bytes) (poison : List Nat) :
    Index × Version × Met × Nat × Nat :=
  let fail (status bad : Nat) : Index × Version × Met × Nat × Nat := (x, emptyVersion b.version 1, ⟨0, []⟩, status, bad)
  match checkSource x.sourceRow Row.key Row.shard held 0 [] source with
  | .error i => fail stBadValue i
  | .ok rows =>
    let d := x.buildRows b.version c rows poison
    match d.full with
    | some key => fail stNoResource (((List.range rows.length).find? fun i => (rows[i]?).map Row.key = some key).getD 0xFFFF_FFFF)
    | none => (d.ix, x.placeLists d.ver, d.met, stOk, 0xFFFF_FFFF)

/-- The version that a compaction of an index makes at its cut stride (R127), with its replicas (R212). -/
def Index.runCompact (x : Index) (b : Build) (c : Nat) (held poison : List Nat) : Index × Version × Met × Nat × Nat :=
  match x.current with
  | none => (x, emptyVersion b.version 1, ⟨0, []⟩, stNoVersion, 0xFFFF_FFFF)
  | some base =>
    let p := x.compact base b.version c held poison
    let d : Building := Building.replicate { ix := x, ver := p.1, met := p.2, full := none, bad := poison } x.replicaList
    if d.full.isSome then (x, emptyVersion b.version 1, ⟨0, []⟩, stNoResource, 0xFFFF_FFFF)
    else (d.ix, x.placeLists d.ver, d.met, stOk, 0xFFFF_FFFF)

/-- Put a version in place of the one of its number. -/
def Index.setVersion (x : Index) (v : Version) : Index :=
  { x with versions := x.versions.map fun o => if o.num = v.num then v else o }

/-- The same for a table. -/
def Table.setVersion (x : Table) (v : TableVersion) : Table :=
  { x with versions := x.versions.map fun o => if o.num = v.num then v else o }

/-- The source records of a build. -/
def State.buildSource (s : State) (b : Build) (size : Nat) : List Bytes :=
  ((SMap.find? s.flash.paddocks b.source).map fun p => p.records size b.count).getD []

/-- The key map of a table version (R117, R234): an entry for each row, in ascending row id, with the row's locator. A row holds no
slot that the manual numbers; the model's is its place among the version's rows in ascending row id (DESIGN CHOICE, log entry
103). -/
def TableVersion.keyMap (v : TableVersion) : List (Nat × Nat) :=
  (sortBy (fun (a b : TableRow) => decide (a.id < b.id)) v.rows).zipIdx.map fun p => (p.1.id, locator p.2 0)

/-- The bytes of a table version's structures, which its digest covers (R128): rows, optimiser states and key map. -/
def TableVersion.bytes (v : TableVersion) : Bytes :=
  toLe 8 v.num ++ (v.rows.flatMap fun r => toLe 6 r.id ++ r.row ++ r.state) ++ v.keyMap.flatMap keyEntry

/-- The pages of paddock 0 that a version of an index is persisted in (R128, R203): the records of the rows that the current version
does not hold alike, and the version's structures. -/
def Index.pagesOf (x : Index) (id : Nat) (v : Version) (ch : Nat) : List Nat :=
  let old := (x.current.map (·.rows)).getD []
  let fresh := (v.rows.filter fun r => !old.contains r).map fun r => (r.shard, r.slot)
  x.recordPages id ch fresh ++ (List.range (spreadPages v.bytes.length ch)).map (ownPage 1 id v.num)

/-- The same for a table's version. -/
def TableVersion.pagesOf (v : TableVersion) (id ch : Nat) : List Nat :=
  (List.range (spreadPages v.bytes.length ch)).map (ownPage 2 id v.num)

/-- Does a tile score a row of a version under construction from DDR: it is no upper row, and has no hot copy (R96, R209)? -/
def Version.tileScores (v : Version) (copied : Row → Bool) (k : Nat) : Bool :=
  (v.rowAt (k / 2 ^ 40) (k % 2 ^ 40)).any fun r => r.level = 0 && !copied r

/-- Admit an index's build: its cut stride is now, and its version is made from the state of this stride (R127). -/
def State.admitIndexBuild (s : State) (id : Nat) (x : Index) (b : Build) (poison : List Nat) : State :=
  let c := s.stride
  let (x1, v, met, status, bad) :=
    if b.kind = 0 then x.runBuild b c (s.held x.map) (s.buildSource b (recordBytes x.dim)) poison
    else x.runCompact b c (s.held x.map) poison
  let done (x : Index) (v : Version) (status bad : Nat) : Index :=
    { x.setVersion v with build := some { b with cut := some c, status := status, bad := bad } }
  let t := { s with indexes := SMap.set s.indexes id (done x1 v status bad) }.addStale id met.stale
  if status = stOk ∧ !t.holdsUse x.context then
    { s with indexes := SMap.set s.indexes id (done x (emptyVersion b.version 1) stNoResource 0xFFFF_FFFF) }
  else if status = stOk then
    (t.touchRows id (met.scored.filter fun k => v.tileScores (x.copyRuns s) k)).writeOwn b.cls (x.pagesOf id v)
  else t

/-- Rows of a shard beyond a table's row capacity: the id of the first, in ascending row id. -/
def Table.overfull (x : Table) (rows : List TableRow) : Option Nat :=
  let shard (r : TableRow) : Nat := shardOf x.seed x.shards r.id
  (sortBy (fun a b => decide (a.id < b.id)) rows).find? (fun r =>
    x.rowCap ≤ (rows.filter fun o => o.id < r.id && shard o = shard r).length) |>.map (·.id)

/-- The version that a build of a table makes (R252). -/
def Table.runBuild (x : Table) (b : Build) (c : Nat) (held : List Nat) (source : List Bytes) : TableVersion × Nat × Nat :=
  let empty : TableVersion :=
    { num := b.version, st := 1, cut := c, digest := 0, cutStep := 0, filled := false, keepTo := 0, rows := [] }
  let row (b : Bytes) : Option TableRow :=
    let (id, elems) := x.sourceRecord b
    if id = 0xFFFF_FFFF_FFFF then none else x.makeRow id elems
  match checkSource row TableRow.id (fun r => shardOf x.seed x.shards r.id) held 0 [] source with
  | .error i => (empty, stBadValue, i)
  | .ok rows =>
    match x.overfull rows with
    | some id => (empty, stNoResource, ((List.range rows.length).find? fun i => (rows[i]?).map TableRow.id = some id).getD 0xFFFF_FFFF)
    | none => ({ empty with rows := sortBy (fun a b => decide (a.id < b.id)) rows }, stOk, 0xFFFF_FFFF)

/-- The version that a fold of a table makes: the training base with its dirty copies as they stand (R253). -/
def Table.runFold (x : Table) (b : Build) (c : Nat) : TableVersion × Nat × Nat :=
  let base := ((x.version? x.base).map (·.rows)).getD []
  ({ num := b.version, st := 1, cut := c, digest := 0, cutStep := x.committed, filled := false, keepTo := 0,
     rows := base.map fun r => (x.dirty.find? fun d => d.id = r.id).getD r }, stOk, 0xFFFF_FFFF)

/-- Admit a table's build or fold. -/
def State.admitTableBuild (s : State) (id : Nat) (x : Table) (b : Build) : State :=
  let c := s.stride
  let (v, status, bad) :=
    if b.kind = 0 then x.runBuild b c (s.held x.map) (s.buildSource b x.sourceBytes) else x.runFold b c
  let done (v : TableVersion) (status bad : Nat) : State :=
    { s with tables := SMap.set s.tables id { x.setVersion v with build := some { b with cut := some c, status := status, bad := bad } } }
  let t := done v status bad
  if status = stOk ∧ !t.holdsUse x.context then done { v with rows := [] } stNoResource 0xFFFF_FFFF
  else if status = stOk then t.writeOwn b.cls (v.pagesOf id)
  else t

/-- Has a step of a table been applied in the present stride? A fold is then admitted in the next, so that its cut step's updates
are all before C (R253). -/
def State.appliedNow (s : State) (x : Table) : Bool := x.steps.any fun t => t.applied && t.admitAt + 3 = s.stride

/-- A build reads the units of its source: what flash holds takes a FLASH_OP unit each, and what the reads met is counted (R258,
R261). A unit that cannot be read gets its deferred-error bit (R267). -/
def State.readSource (s : State) (b : Build) (size : Nat) (reads : List FlashRead) : State :=
  match SMap.find? s.flash.paddocks b.source with
  | none => s
  | some p =>
    (List.range (ceilDiv (b.count * size) 4096)).foldl (fun s u => match p.pageOf u with
      | some phys =>
        let r := readOf reads u
        let ch := unitChannel b.source u
        let t := s.modChannel ch fun k => (k.pageRead (some (phys / 2 ^ 26 % 8))).countRead r
        let t := if retires r then t.retireBlock ch (physKey phys) else t
        if r.lost then t.modPaddock b.source fun p => p.modAt u phys fun x => { x with deferredBit := true } else t
      | none => s) s

/-- BUILD_ADMISSION: the build class takes up an accepted build while it has room; `poisonRows` are the slots, by shard, whose codes
read poison, and `reads` what the reads of its source met. -/
def buildAdmissionEff (id : Nat) (poisonRows : List Nat) (reads : List FlashRead) (s : State) : State :=
  let may (ctx : Nat) (b : Build) : Bool := s.working && b.cut.isNone && s.buildClassOk ctx b.cls && s.classRoom b.cls
  match SMap.find? s.indexes id, SMap.find? s.tables id with
  | some x, _ =>
    match x.build with
    | some b =>
      if may x.context b then
        (if b.kind = 0 then (s.admitTo b.cls).readSource b (recordBytes x.dim) reads else s.admitTo b.cls).admitIndexBuild id x b poisonRows
      else s
    | none => s
  | none, some x =>
    match x.build with
    | some b =>
      if may x.context b && !(b.kind = 1 && s.appliedNow x) then
        (if b.kind = 0 then (s.admitTo b.cls).readSource b x.sourceBytes reads else s.admitTo b.cls).admitTableBuild id x b
      else s
    | none => s
  | none, none => s

/-- BUILD_ADMISSION: object ids are 32 bits. -/
def execBuildAdmission (object : Nat) (poisonRows : List Nat) (reads : List FlashRead) (s : State) :
    Host.Outcome State Fault Refusal :=
  guarded (decide (object < 2 ^ 32)) (buildAdmissionEff object poisonRows reads) s

/-! ## VERSION_BUILT (R128, R129, R256) -/

/-- The payload of INDEX_VERSION_READY and TABLE_VERSION_READY. -/
def readyPayload (id status version cut digest bad step : Nat) : Bytes :=
  toLe 4 id ++ toLe 2 status ++ zeros 2 ++ toLe 8 version ++ toLe 8 cut ++ toLe 8 digest ++ toLe 4 bad ++ toLe 4 step

/-- Raise the notification of a build's outcome. -/
def State.versionReady (s : State) (opcode id : Nat) (b : Build) (status digest step : Nat) : State :=
  s.note b.request.func opcode b.request.context b.request.tag status s.stride
    (readyPayload id status b.version (b.cut.getD 0) digest b.bad step)

/-- End an index's build: the version is built, or refused and its blocks freed. -/
def State.endIndexBuild (s : State) (id : Nat) (x : Index) (b : Build) (status : Nat) : State :=
  match x.version? b.version with
  | none => s
  | some v =>
    if status = stOk then
      let d := v.digestOf
      let x1 : Index := { x.setVersion { v with st := 2, digest := d, filled := true } with build := none }
      { s with indexes := SMap.set s.indexes id x1 }.versionReady 0x0408 id b stOk d 0
    else
      let x1 : Index := { x with build := none, versions := x.versions.filter fun o => o.num ≠ b.version }
      { s with indexes := SMap.set s.indexes id x1 }.versionReady 0x0408 id b status 0 0

/-- End a table's build or fold. TABLE_BUILD sets the committed step count to 0, and steps are numbered from 1 again (R240). -/
def State.endTableBuild (s : State) (id : Nat) (x : Table) (b : Build) (status : Nat) : State :=
  match x.version? b.version with
  | none => s
  | some v =>
    if status = stOk then
      let d := digest64 (Config.arrange v.bytes)
      let x1 : Table := { x.setVersion { v with st := 2, digest := d, filled := true } with build := none }
      let x1 : Table := if b.kind = 0 then { x1 with committed := 0, started := 0 } else x1
      { s with tables := SMap.set s.tables id x1 }.versionReady 0x0509 id b stOk d (v.cutStep % 2 ^ 32)
    else
      let x1 : Table := { x with build := none, versions := x.versions.filter fun o => o.num ≠ b.version }
      { s with tables := SMap.set s.tables id x1 }.versionReady 0x0509 id b status 0 0

/-- VERSION_BUILT: an admitted build ends, once its structures are persisted in paddock 0 (R128). -/
def versionBuiltEff (id : Nat) (s : State) : State :=
  match SMap.find? s.indexes id, SMap.find? s.tables id with
  | some x, _ =>
    match x.build with
    | some b => if s.running && b.cut.isSome && !s.persisting id then s.endIndexBuild id x b b.status else s
    | none => s
  | none, some x =>
    match x.build with
    | some b => if s.running && b.cut.isSome && !s.persisting id then s.endTableBuild id x b b.status else s
    | none => s
  | none, none => s

/-- VERSION_BUILT: object ids are 32 bits. -/
def execVersionBuilt (object : Nat) (s : State) : Host.Outcome State Fault Refusal :=
  guarded (decide (object < 2 ^ 32)) (versionBuiltEff object) s

/-- R319: a fence of either member voids the builds, admitted or not, of objects of which this node holds a shard. -/
def State.voidBuilds (s : State) : State :=
  let s1 := s.indexes.foldl (fun s p => match p.2.build with
    | some b => if (s.held p.2.map).isEmpty then s else s.endIndexBuild p.1 p.2 b stNotUntilRemount
    | none => s) s
  s1.tables.foldl (fun s p => match p.2.build with
    | some b => if (s.held p.2.map).isEmpty then s else s.endTableBuild p.1 p.2 b stNotUntilRemount
    | none => s) s1

/-! ## The span's agreement on a switch (R130, R254) -/

/-- The switch of an object. -/
def State.switchOf (s : State) (id : Nat) : Option Switch :=
  match SMap.find? s.indexes id with
  | some x => x.switch
  | none => (SMap.find? s.tables id).bind fun x => x.switch

/-- Set an object's switch. -/
def State.setSwitch (s : State) (id : Nat) (w : Option Switch) : State :=
  (s.modIndex id fun x => { x with switch := w }).modTable id fun x => { x with switch := w }

/-- The partner's tuple for an object. -/
def State.tupleOf (s : State) (id : Nat) : Option (Nat × Nat × Nat) :=
  match SMap.find? s.indexes id with
  | some x => x.tuple
  | none => (SMap.find? s.tables id).bind fun x => x.tuple

/-- The stride in which it came. -/
def State.tupleStride (s : State) (id : Nat) : Nat :=
  match SMap.find? s.indexes id with
  | some x => x.tupleAt
  | none => ((SMap.find? s.tables id).map (·.tupleAt)).getD 0

/-- The version in force of an object, 0 if none. -/
def State.versionInForce (s : State) (id : Nat) : Nat :=
  match SMap.find? s.indexes id with
  | some x => x.currentNum
  | none => ((SMap.find? s.tables id).bind fun x => x.current.map (·.num)).getD 0

/-- SWITCH_TUPLE_RECEIVE -/
def switchTupleReceiveEff (id version stride digest : Nat) (s : State) : State :=
  if !s.running then s
  else
    (s.modIndex id fun x => { x with tuple := some (version, stride, digest), tupleAt := s.stride }).modTable id fun x =>
      { x with tuple := some (version, stride, digest), tupleAt := s.stride }

/-- SWITCH_TUPLE_RECEIVE: object ids are 32 bits. -/
def execSwitchTupleReceive (object version stride digest : Nat) (s : State) : Host.Outcome State Fault Refusal :=
  guarded (decide (object < 2 ^ 32)) (switchTupleReceiveEff object version stride digest) s

/-- Every index and table. -/
def State.objects (s : State) : List Nat := s.indexes.map (·.1) ++ s.tables.map (·.1)

/-- A switch that will not happen (R130): it stands as settled until E has passed, and a notification is raised. -/
def State.dropSwitch (s : State) (id : Nat) (w : Switch) : State :=
  (s.setSwitch id (some { w with settled := true })).noteFailed w.request stBadCheck s.stride

/-- The near node's decision on one object whose E is the next stride: it holds the off node's matching tuple by cycle 0 of this
one, or the switch is dropped. -/
def State.decideSwitch (s : State) (id : Nat) : State :=
  match s.switchOf id with
  | some w =>
    if w.stride ≠ s.stride + 1 ∨ w.go ∨ w.settled then s
    else if s.tupleOf id = some (w.version, w.stride, w.digest) ∧ s.tupleStride id < s.stride then
      (s.setSwitch id (some { w with go := true })).send 1 s.partner (versionMessage markGo id w.version w.stride w.digest)
    else s.dropSwitch id w
  | none => s

/-- GO_RECORD_DEADLINE: the near node decides for the span, unless its partner is fenced. -/
def goRecordDeadlineEff (s : State) : State :=
  if !s.running || !s.isNear || s.isFenced s.partner then s else s.objects.foldl State.decideSwitch s

/-- GO_RECORD_DEADLINE -/
def execGoRecordDeadline (s : State) : Host.Outcome State Fault Refusal := guarded true goRecordDeadlineEff s

/-- GO_RECORD_RECEIVE: the off node holds the go record of its own accepted switch. -/
def goRecordReceiveEff (id version stride digest : Nat) (s : State) : State :=
  match s.switchOf id with
  | some w =>
    if s.running && !s.isNear && decide (w.version = version ∧ w.stride = stride ∧ w.digest = digest ∧ s.stride < stride) then
      s.setSwitch id (some { w with go := true })
    else s
  | none => s

/-- GO_RECORD_RECEIVE: object ids are 32 bits. -/
def execGoRecordReceive (object version stride digest : Nat) (s : State) : Host.Outcome State Fault Refusal :=
  guarded (decide (object < 2 ^ 32)) (goRecordReceiveEff object version stride digest) s

/-- Is a version pair of an object due in this stride, and the partner's not yet held? -/
def State.pairAwaited (s : State) (id : Nat) : Bool :=
  ((SMap.find? s.indexes id).any fun x => x.pairDue && x.pair.isNone) ||
    (SMap.find? s.tables id).any fun x => x.pairDue && x.pair.isNone

/-- VERSION_PAIR_RECEIVE: in the work window of E; a difference is a span divergence. -/
def versionPairReceiveEff (id version : Nat) (s : State) : State :=
  if !s.running || s.clk.window = 0 || !s.pairAwaited id then s
  else
    let t := (s.modIndex id fun x => { x with pair := some version }).modTable id fun x => { x with pair := some version }
    if s.versionInForce id = version then t else t.diverges

/-- VERSION_PAIR_RECEIVE: object ids are 32 bits. -/
def execVersionPairReceive (object version : Nat) (s : State) : Host.Outcome State Fault Refusal :=
  guarded (decide (object < 2 ^ 32)) (versionPairReceiveEff object version) s

/-- VERSION_PAIR_DEADLINE: at the end of E a pair is absent, and the partner is neither suspected nor fenced. -/
def versionPairDeadlineEff (s : State) : State :=
  if s.running && s.clk.window = 2 && !s.partnerExcused && s.objects.any s.pairAwaited then s.diverges else s

/-- VERSION_PAIR_DEADLINE -/
def execVersionPairDeadline (s : State) : Host.Outcome State Fault Refusal := guarded true versionPairDeadlineEff s

/-! ## The switch at E, and the freeing of versions (R131, R254) -/

/-- Make a version current: the outgoing one is retained or draining, and no sooner free than `keepTo`. A node that holds no shard
keeps the version's number. -/
def Index.become (x : Index) (w : Switch) (keepTo : Nat) : Index :=
  let old := x.versions.map fun v =>
    if v.st = 3 then { v with st := if w.retain then 4 else 5, keepTo := max v.keepTo keepTo } else v
  let known := old.any fun v => v.num = w.version
  let vs := if known then old else old ++ [{ emptyVersion w.version 2 with filled := true }]
  { x with
    versions := vs.map fun v => if v.num = w.version then { v with st := 3, since := w.stride } else v,
    lastNum := max x.lastNum w.version, switch := some { w with settled := true }, tuple := none }

/-- The same for a table; flag bit 1 moves the training base, and dirty copies last updated before the version's cut go, with
their places. -/
def Table.become (x : Table) (w : Switch) (keepTo : Nat) : Table :=
  let old := x.versions.map fun v =>
    if v.st = 3 then { v with st := if w.retain then 4 else 5, keepTo := max v.keepTo keepTo } else v
  let known := old.any fun v => v.num = w.version
  let vs := if known then old else
    old ++ [{ num := w.version, st := 2, cut := 0, digest := 0, cutStep := 0, filled := true, keepTo := 0, rows := [] }]
  let next := vs.map fun v => if v.num = w.version then { v with st := 3 } else v
  let cut := ((next.find? fun v => v.st = 3).map (·.cut)).getD 0
  let dirty := if w.rebase then x.dirty.filter fun d => cut ≤ d.applied else x.dirty
  { x with
    versions := next, lastNum := max x.lastNum w.version, switch := some { w with settled := true }, tuple := none,
    base := if w.rebase then w.version else x.base,
    dirty := dirty, places := x.places.filter fun p => dirty.any fun d => d.id = p.1 }

/-- The boundary at which a version that stops serving now is free at the earliest: a shard node still takes the sub-requests of
the stride before (R131, log entry 76). -/
def State.drainFrom (s : State) (map : List Nat) : Nat := if (s.held map).isEmpty then s.stride else s.stride + 1

/-- Does a due switch happen on this member (R130)? -/
def State.maySwitch (s : State) (w : Switch) : Bool := s.isFenced s.partner || w.go

/-- One object's switch due now, with the version pair of its work window. -/
def State.applySwitch (s : State) (id : Nat) : State :=
  match s.switchOf id with
  | some w =>
    if w.stride ≠ s.stride then s
    else
      let s1 :=
        if w.settled then s
        else if s.maySwitch w then
          let t := (s.modIndex id fun x => x.become w (s.drainFrom x.map)).modTable id fun x => x.become w (s.drainFrom x.map)
          if SMap.has t.indexes id then t.dropStaleCopies id else t.dropTableCopies id
        else s.dropSwitch id w
      let s2 := (s1.modIndex id fun x => { x with tuple := none, pair := none, pairDue := true }).modTable id fun x =>
        { x with tuple := none, pair := none, pairDue := true }
      if s.isFenced s.partner then s2 else s2.send 1 s.partner (versionMessage markPair id (s2.versionInForce id) s.stride 0)
  | none => s

/-- A switch whose E has passed is no more (R130). -/
def pastSwitch (stride : Nat) (w : Option Switch) : Option Switch := w.filter fun w => decide (stride ≤ w.stride)

/-- Step 1 of R222 on every object. -/
def State.applySwitches (s : State) : State :=
  let s0 := { s with
    indexes := SMap.mapVals s.indexes fun _ x => { x with pairDue := false, pair := none, switch := pastSwitch s.stride x.switch },
    tables := SMap.mapVals s.tables fun _ x => { x with pairDue := false, pair := none, switch := pastSwitch s.stride x.switch } }
  s0.objects.foldl State.applySwitch s0

/-- Is a version of an index used by admitted work? -/
def State.indexVersionUsed (s : State) (id num : Nat) : Bool :=
  (s.work.queries.any fun q => q.2.index = id && q.2.version = num) ||
    (s.work.searches.any fun q => q.2.index = id && q.2.version = num) ||
    s.work.served.any fun u => u.2.index = id && u.2.search.any fun q => q.version = num

/-- Is a version of a table used by an admitted lookup? -/
def State.tableVersionUsed (s : State) (id num : Nat) : Bool :=
  s.work.lookups.any fun l => l.2.table = id && l.2.version = num

/-- R131: once no older version is readable, what a version folded leaves the delta log; a tombstone goes with its row. -/
def Index.settle (x : Index) : Index :=
  match x.current with
  | none => x
  | some c =>
    if x.versions.any fun v => v.readable && v.num < c.num then x
    else
      let delta := x.delta.filter fun r => c.cut < r.commit
      let rows := delta ++ x.versions.flatMap (·.rows)
      { x with
        delta := delta,
        deltaLists := x.deltaLists.filter fun l => delta.any fun r => r.shard = l.shard && r.slot = l.slot,
        overlays := x.overlays.filter fun o => c.cut < o.commit,
        tombs := x.tombs.filter fun t => rows.any fun r => r.shard = t.shard && r.slot = t.slot && r.gen = t.gen }

/-- Draining versions that nothing uses are freed (R131), once no query that another node admitted before the draining can
still reach this one; a table's training base is kept (R254). -/
def State.freeVersions (s : State) : State :=
  { s with
    indexes := SMap.mapVals s.indexes fun id x =>
      { x with versions := x.versions.filter fun v => v.st ≠ 5 || s.stride < v.keepTo || s.indexVersionUsed id v.num }.settle,
    tables := SMap.mapVals s.tables fun id x =>
      { x with versions := x.versions.filter fun v => v.st ≠ 5 || v.num = x.base || s.stride < v.keepTo || s.tableVersionUsed id v.num } }

/-! ## Closed indexes and tables (R133, R256) -/

/-- Does admitted work use an object? -/
def State.objectUsed (s : State) (id : Nat) : Bool :=
  (s.work.queries.any fun q => q.2.index = id) || (s.work.searches.any fun q => q.2.index = id) ||
    (s.work.updates.any fun u => u.2.index = id) || (s.work.served.any fun u => u.2.index = id) ||
    (s.work.lookups.any fun l => l.2.table = id) || (s.work.steps.any fun t => t.table = id) ||
    ((SMap.find? s.indexes id).any fun x => !x.pending.isEmpty) || ((SMap.find? s.tables id).any fun x => !x.steps.isEmpty)

/-- Free an object: its id is free once the close's reply is sent. -/
def State.freeObject (s : State) (id : Nat) : State :=
  { s with indexes := SMap.erase s.indexes id, tables := SMap.erase s.tables id }.happened (.objectClosed id) stOk none

/-- INDEX_CLOSE_DRAINED: from the adopting boundary of the close, once nothing admitted uses the index or table. -/
def indexCloseDrainedEff (id : Nat) (s : State) : State :=
  let closing := ((SMap.find? s.indexes id).any fun x => x.closing.any fun b => b ≤ s.stride) ||
    (SMap.find? s.tables id).any fun x => x.closing.any fun b => b ≤ s.stride
  if closing && !s.objectUsed id then s.freeObject id else s

/-- INDEX_CLOSE_DRAINED: object ids are 32 bits. -/
def execIndexCloseDrained (object : Nat) (s : State) : Host.Outcome State Fault Refusal :=
  guarded (decide (object < 2 ^ 32)) (indexCloseDrainedEff object) s

/-! ## Closed contexts (R388) and the scrub (R389) -/

/-- Has a context admitted work, or completions not yet published? -/
def State.contextUsed (s : State) (c : Nat) : Bool :=
  let mine (r : Nat) : Bool := r / 4 = c
  (s.work.queries.any fun q => q.2.context = c) || (s.work.updates.any fun u => mine u.2.ring) ||
    (s.work.lookups.any fun l => mine l.2.ring) || (s.work.steps.any fun t => mine t.ring) ||
    (s.flash.commands.any fun k => (SMap.find? s.queues k.2.queue).any fun q => q.context = c) ||
    (s.rings.any fun r => r.2.context = c && !r.2.written.isEmpty) ||
    (s.queues.any fun r => r.2.context = c && !r.2.written.isEmpty)

/-- The last granule of a swept context is scrubbed: the close is answered, stamped with this stride. -/
def State.closeScrubbed (s : State) (c : Nat) : State :=
  if ((SMap.find? s.contexts c).any fun x => x.swept) && !(s.mem.hbmTags.any fun g => g.2.owner = c) then
    s.happened (.contextClosed c) stOk (some s.stride)
  else s

/-- CONTEXT_CLOSE_DRAINED: objects close, keys are erased, DDR granules become free at once and HBM granules wait for
their scrub. -/
def contextCloseDrainedEff (c : Nat) (s : State) : State :=
  match SMap.find? s.contexts c with
  | none => s
  | some x =>
    if x.st ≠ 2 ∨ x.swept ∨ s.stride < x.closedAt ∨ s.contextUsed c then s
    else
      let ids := (s.indexes.filter fun p => p.2.context = c).map (·.1) ++ (s.tables.filter fun p => p.2.context = c).map (·.1)
      let pads := (s.flash.paddocks.filter fun p => p.2.context = c).map (·.1)
      let s1 := ids.foldl State.freeObject s
      let s2 := pads.foldl (fun s n => (s.modPaddock n fun p => { p with st := 3 }).paddockDrained n) s1
      let s3 := { s2 with
        programs := s2.programs.filter fun p => p.2.context ≠ c,
        contexts := SMap.update s2.contexts c fun x => { x with swept := true, wrapped := none, flashKey := none, ddrKey := none } }
      ((s3.shrinkHbm c 0).shrinkDdr c 0).closeScrubbed c

/-- CONTEXT_CLOSE_DRAINED: contexts are 12 bits. -/
def execContextCloseDrained (context : Nat) (s : State) : Host.Outcome State Fault Refusal :=
  guarded (decide (context < 4096)) (contextCloseDrainedEff context) s

/-- Blocks of a granule. -/
abbrev granuleBlocks : Nat := 16384

/-- Write zero data and valid check symbols over HBM (R389). -/
def State.hbmZero (s : State) (a n : Nat) : State :=
  { s with mem := { s.mem with
      bytes := s.mem.bytes.filter fun c => !decide (a ≤ c.1 ∧ c.1 < a + n),
      checks := s.mem.checks.filter fun c => !decide (a ≤ 64 * c.1 ∧ 64 * c.1 < a + n) } }

/-- Scrub the granules of a stack in order of release, `budget` blocks of them. -/
def State.scrubStack : List Nat → Nat → State → State
  | [], _, s => s
  | g :: l, budget, s =>
    match SMap.find? s.mem.hbmTags g with
    | none => State.scrubStack l budget s
    | some t =>
      let n := min budget (granuleBlocks - t.scrubbed)
      if s.dieWaits (g * granuleSize + 64 * t.scrubbed) (64 * n) then State.scrubStack l budget s
      else
      let z := s.hbmZero (g * granuleSize + 64 * t.scrubbed) (64 * n)
      if t.scrubbed + n = granuleBlocks then
        let z1 := { z with mem := { z.mem with hbmTags := SMap.erase z.mem.hbmTags g,
                                               scrubQueue := z.mem.scrubQueue.filter (· ≠ g) } }
        State.scrubStack l (budget - n) (z1.closeScrubbed t.owner)
      else { z with mem := { z.mem with hbmTags := SMap.set z.mem.hbmTags g { t with scrubbed := t.scrubbed + n } } }

/-- GRANULE_SCRUB: one stride's 49,152 blocks on each stack. -/
def granuleScrubEff (s : State) : State :=
  if !s.running ∨ s.clk.window = 0 then s
  else
    (List.range 8).foldl (fun s k => State.scrubStack (s.mem.scrubQueue.filter fun g => g / stackGranules = k) 49152 s) s

/-- GRANULE_SCRUB -/
def execGranuleScrub (s : State) : Host.Outcome State Fault Refusal := guarded true granuleScrubEff s

/-! ## VERSION_FILL (R423) -/

/-- VERSION_FILL: a version restored from paddock 0 is filled: it can be searched, read and switched. -/
def versionFillEff (id version : Nat) (s : State) : State :=
  (s.modIndex id fun x =>
    { x with versions := x.versions.map fun v => if v.num = version then { v with filled := true } else v }).modTable id fun x =>
    { x with versions := x.versions.map fun v => if v.num = version then { v with filled := true } else v }

end Sys2Proof.Machine
end

