-- ==== Sys2Proof/Machine/Mirror.lean ====
section
/-! DEFINITION. The telemetry mirror: what a snapshot holds, its layout in a bank, its publication with the causes derived
from it, and the management plane's reads (R21, R425 to R428). -/

namespace Sys2Proof.Machine

/-! ## Writing a snapshot (R21) -/

/-- NODE_STATE as one word (R345). -/
def State.nodeWord (s : State) : Word32 := BitVec.ofNat 32 (s.node.st + 16 * s.node.stage + 2 ^ 16 * s.node.failure)

/-- Entries of the optional groups by select bit (R427). -/
def groupSizes : List Nat := [96, 512, 16, 12, 32, 2]

/-- Bytes of an entry of a group. -/
def groupWidth (bit : Nat) : Nat := if bit = 2 ∨ bit = 3 ∨ bit = 5 then 8 else 4

/-- A temperature not sampled in a stride. -/
def unsampled : Int := -32768

/-- The figures of the groups selected: bursts per near-memory unit and FLASH_OP units used per channel; what the other units
did in the stride, cycle by cycle, is a free value (log entry 1). -/
def State.groupFigures (s : State) : SMap (List Nat) × State :=
  (List.range 6).foldl (fun (acc : SMap (List Nat) × State) b =>
    if bitOf s.tel.select.toNat b then
      let n := groupSizes.getD b 0
      if b = 1 then (SMap.set acc.1 b ((List.range n).map fun u => SMap.getD s.nmu.bursts u 0), acc.2)
      else if b = 4 then (SMap.set acc.1 b ((List.range n).map fun c => (s.channel c).reads), acc.2)
      else (SMap.set acc.1 b ((List.range n).map fun i => (Config.freeValue (acc.2.draws + i)).toNat % 256 ^ groupWidth b),
        acc.2.drawN n)
    else acc) ([], s)

/-- The temperatures of a snapshot: the highest reading of the stride, or the last shown where none was taken. -/
def State.shownTemps (s : State) : List Int :=
  (s.tel.node.temps.zip s.shown.node.temps).map fun t => if t.1 = unsampled then t.2 else t.1

/-- The snapshot of the counters as they stand, stamped with the stride that has ended. -/
def State.snapshot (s : State) (stamp : Nat) (groups : SMap (List Nat)) (volts watts : Nat) : Snapshot :=
  { first := stamp, last := stamp, live := s.node.stage ≥ 8, select := s.tel.select, nodeState := s.nodeWord,
    node := { s.tel.node with millivolts := volts, tenths := watts, temps := s.shownTemps },
    hbmStacks := s.nmu.counters,
    arbiters := SMap.mapVals s.arb fun _ a => (a.forced, a.cut, a.longest),
    ports := s.fab.ports, flash := s.flash.channels, margins := s.node.sweep, contexts := s.tel.contexts,
    faults := SMap.mapVals s.contexts fun _ c => c.tagFaults,
    groups := groups,
    indexes := SMap.mapVals s.indexes fun _ x => s.indexFigures x,
    tables := SMap.mapVals s.tables fun _ x => s.tableFigures x,
    paddocks := SMap.mapVals s.flash.paddocks fun n p => s.paddockFigures n p,
    usage := SMap.mapVals s.contexts fun c x => s.usageOf c x,
    flashReadOnly := s.flash.readOnly, flashTemp := s.flash.temp,
    overrun := s.tel.overrun, arbiter := s.arb.any fun a => a.2.strideFlags ≠ 0,
    readOnly := if s.flash.readOnly && !s.tel.roSeen then some s.flash.readOnlyChannel else none }

/-- The mean input voltage and power of the stride are measured, so free here. -/
def State.writeMirror (s : State) (stamp : Nat) : State :=
  let (groups, s1) := s.groupFigures
  let x := s1.snapshot stamp groups ((Config.freeValue s1.draws).toNat % 2 ^ 32) ((Config.freeValue (s1.draws + 1)).toNat % 2 ^ 32)
  let s2 := s1.drawN 2
  { s2 with tel := { s2.tel with
      bankA := if s.tel.publishedB then x else s2.tel.bankA,
      bankB := if s.tel.publishedB then s2.tel.bankB else x,
      overrun := false, roSeen := s.flash.readOnly,
      node := { s2.tel.node with temps := s2.tel.node.temps.map fun _ => unsampled } } }

/-! ## MIRROR_PUBLICATION (R19, R21, R30, R195, R268) -/

/-- MIRROR_PUBLICATION: the bank just written is published, its causes are raised, completions are published unless the node
is fenced (R84, R329), and the work window begins. -/
def mirrorPublicationEff (s : State) : State :=
  if s.clk.window ≠ 0 ∨ s.clk.code = 0 ∨ !s.node.joined ∨ s.node.stopped then s
  else
    let x := if s.tel.publishedB then s.tel.bankA else s.tel.bankB
    let s1 := { s with
      clk := { s.clk with window := 1 },
      tel := { s.tel with publishedB := !s.tel.publishedB, stamp := x.first } }
    let s2 := (List.range 64).foldl (fun s f => s.cause f causeMirror) s1
    let s3 := if x.overrun then s2.pfCause causeOverrun else s2
    let s4 := if x.arbiter then s3.pfCause causeArbiter else s3
    let s5 := match x.readOnly with
      | some ch =>
        ((s4.pfCause causeReadOnly).noteNode 0x0608 stOk s.stride (toLe 1 ch ++ zeros 7)).pldm pldmReadOnly ch x.first
      | none => s4
    if s.running then s5.publishAll else s5

/-- MIRROR_PUBLICATION -/
def execMirrorPublication (s : State) : Host.Outcome State Fault Refusal := guarded true mirrorPublicationEff s

/-! ## The layout of a bank (R425 to R427) -/

/-- The node section, from 0x40. -/
def NodeCounters.bytes (c : NodeCounters) : Bytes :=
  toLe 8 c.overruns ++ toLe 8 c.scheduled ++ toLe 8 c.lateReplies ++ toLe 8 c.tileFixes ++ toLe 8 c.tagFaults ++
    toLe 8 c.residency ++ toLe 8 c.voidMoves ++ toLe 8 c.backDropped ++ toLe 8 c.stale ++ toLe 8 c.features ++
    toLe 4 c.millivolts ++ toLe 4 c.tenths ++ c.temps.flatMap fun t => toLeInt 2 t

/-- A stack section. -/
def StackCounters.bytes (c : StackCounters) : Bytes :=
  toLe 8 c.reads ++ toLe 8 c.writes ++ toLe 8 c.loads ++ toLe 8 c.corrected ++ toLe 4 c.uncorrectable ++
    toLe 4 c.poisonReads ++ toLe 4 c.poisonWritten ++ toLe 4 c.refused ++ toLe 8 c.byBurst ++ toLe 8 c.byLock ++
    toLe 4 c.longest ++ zeros 4 ++ toLe 8 c.clipped

/-- A port section. -/
def Port.mirrorBytes (p : Port) : Bytes :=
  let colours (g : Policer → Nat) : Bytes :=
    (List.range 4).flatMap fun i => toLe 4 (((SMap.find? p.policers (4 + i)).map g).getD 0)
  ((List.range 8).flatMap fun c => toLe 8 (p.sent.getD c 0)) ++ ((List.range 8).flatMap fun c => toLe 4 (p.stalls.getD c 0)) ++
    colours (·.green) ++ colours (·.yellow) ++ colours (·.red) ++ toLeInt 4 p.phase ++ toLe 4 p.discarded

/-- A flash channel section. -/
def FlashChannel.mirrorBytes (c : FlashChannel) : Bytes :=
  let inService := c.blocks.filter fun b => b.2.st ≠ 3
  let closed := (inService.filter fun b => b.2.st = 2).map fun b => b.2.count
  let lowest : Nat := match closed with
    | [] => 0
    | n :: l => l.foldl Nat.min n
  toLe 8 c.corrected ++ toLe 8 c.retries ++ toLe 8 c.uncorrectable ++ toLe 4 c.progFails ++ toLe 4 c.eraseFails ++
    toLe 4 c.spare ++ toLe 4 (maxNat (inService.map fun b => b.2.count)) ++ toLe 4 lowest ++ toLe 4 c.deferredErrors ++
    toLe 8 c.programmed ++ toLeInt 2 (8 * c.now)

/-- A context section. -/
def contextSection (c : ContextCounters) (faults : Nat) : Bytes :=
  toLe 8 c.admitted ++ toLe 8 c.published ++ toLe 8 faults ++ toLe 4 c.late ++ toLe 4 c.poisoned

/-- The piece of a bank that an offset lies in: its base and its bytes. -/
def Snapshot.piece (x : Snapshot) (fresh : FlashChannel) (o : Nat) : Nat × Bytes :=
  if o < 0x40 then (0, toLe 8 x.first ++ toLe 2 1 ++ zeros 2 ++ toLe 4 x.select.toNat ++ toLe 4 x.nodeState.toNat)
  else if o < 0x100 then (0x40, x.node.bytes)
  else if o < 0x500 then
    let n := (o - 0x100) / 128
    (0x100 + 128 * n, ((SMap.find? x.hbmStacks n).map StackCounters.bytes).getD [])
  else if o < 0x4BE0 then
    let n := (o - 0x500) / 32
    (0x500 + 32 * n, match SMap.find? x.arbiters n with
      | some (forced, cut, longest) => toLe 4 forced ++ toLe 4 cut ++ (List.range 8).flatMap fun i => toLe 2 (longest.getD i 0)
      | none => [])
  else if o < 0x4C00 then (0x4BE0, [])
  else if o < 0x52C0 then
    let n := (o - 0x4C00) / 192
    (0x4C00 + 192 * n, match x.ports[n]? with
      | some p => p.mirrorBytes
      | none => [])
  else if o < 0x5300 then (0x52C0, [])
  else if o < 0x5B00 then
    let n := (o - 0x5300) / 64
    (0x5300 + 64 * n, (SMap.getD x.flash n fresh).mirrorBytes)
  else if o < 0x5C00 then (0x5B00, [])
  else if o < 0x5DC0 then
    let n := (o - 0x5C00) / 32
    (0x5C00 + 32 * n, (recordOf x.margins (domainCodes.getD n 0)).bytes)
  else if o < 0x1_0000 then (0x5DC0, [])
  else if o < 0x3_0000 then
    let n := (o - 0x1_0000) / 32
    (0x1_0000 + 32 * n,
      contextSection (SMap.getD x.contexts n { admitted := 0, published := 0, late := 0, poisoned := 0 }) (SMap.getD x.faults n 0))
  else if o < 0x3_FFF8 then
    let starts := [0x3_0000, 0x3_0200, 0x3_0A00, 0x3_0A80, 0x3_0B00, 0x3_0B80]
    let b := ((List.range 6).filter fun i => starts.getD i 0 ≤ o).getLast?.getD 0
    (starts.getD b 0, (SMap.getD x.groups b []).flatMap fun v => toLe (groupWidth b) v)
  else (0x3_FFF8, toLe 8 x.last)

/-- Bytes of a bank; it reads zero until stage 8 has been entered. -/
def Snapshot.read (x : Snapshot) (fresh : FlashChannel) (o n : Nat) : Bytes :=
  (List.range n).map fun i =>
    let p := x.piece fresh (o + i)
    if x.live then p.2.getD (o + i - p.1) 0 else 0

/-! ## PLDM sensors and vendor command 0x06 (R428) -/

/-- The numeric sensors: input voltage, input power and the four temperatures, of the published bank. -/
def State.numericSensors (s : State) : List Int :=
  (s.shown.node.millivolts : Int) :: (s.shown.node.tenths : Int) :: s.shown.node.temps

/-- The state sensors: NODE_STATE.STATE and read-only mode. -/
def State.stateSensors (s : State) : Nat × Bool := (s.shown.nodeState.toNat % 16, s.shown.flashReadOnly)

/-- MCTP_MIRROR_READ: the published bank's stamp, then the bytes. A length that is no multiple of 8 or above 1,024, or bytes
beyond the bank, get no answer. -/
def mctpMirrorReadEff (o n : Nat) (s : State) : State :=
  if n % 8 ≠ 0 ∨ 1024 < n ∨ 2 ^ 18 < o + n then s
  else s.mctpReply (toLe 8 (if s.shown.live then s.shown.first else 0) ++ s.shown.read s.flash.fresh o n)

/-- MCTP_MIRROR_READ: an offset of 4 bytes and a length of 2. -/
def execMctpMirrorRead (offset length : Nat) (s : State) : Host.Outcome State Fault Refusal :=
  guarded (decide (offset < 2 ^ 32 ∧ length < 2 ^ 16)) (mctpMirrorReadEff offset length) s

end Sys2Proof.Machine
end

