-- ==== Sys2Proof/Machine/Bar0.lean ====
section
/-! DEFINITION. BAR0 as a host reads and writes it: what a write to any register does by its access code, what each word
reads as, and each function's view of the telemetry mirror (16_host_registers.md, R7, R194). -/

namespace Sys2Proof.Machine

/-! ## A write to any other field acts by its access code (R7) -/

/-- Replace the limits of four slots, from slot `4 * half`, by the bytes of a written register; absent slots and the wait
limits of protected fixed slots are reserved (R194). -/
def putLimits (l : List Nat) (half : Nat) (keep : Nat → Bool) (value : Word32) : List Nat :=
  (List.range 8).map fun i => if i / 4 = half && keep i then bitsOf value.toNat (8 * (i % 4)) 8 else l.getD i 0

/-- A write into arbiter `n`'s block at offset `o` (R194). -/
def Arbiter.write (n o : Nat) (value reassert : Word32) (a : Arbiter) : Arbiter :=
  if o = 0x04 then
    { a with prio := (a.prio &&& ~~~arbiterPrioMask n) ||| (value &&& arbiterPrioMask n) }
  else if o = 0x08 then { a with waitShadow := putLimits a.waitShadow 0 (arbiterWaits n) value }
  else if o = 0x0C then { a with waitShadow := putLimits a.waitShadow 1 (arbiterWaits n) value }
  else if o = 0x10 then { a with holdShadow := putLimits a.holdShadow 0 (arbiterHere n) value }
  else if o = 0x14 then { a with holdShadow := putLimits a.holdShadow 1 (arbiterHere n) value }
  else if o = 0x18 then { a with flags := clearOnes a.flags value reassert }
  else a

/-- A write into aperture registers: the shadow copy (R355, R7). -/
def Aperture.write (o : Nat) (value : Word32) (a : Aperture) : Aperture :=
  if o = 0 then { a with ctl := value &&& 0x0FFF_000F }
  else if o = 4 then { a with target := value &&& 0x01FF_7FFF }
  else if o = 8 then { a with base := value &&& 0x0000_03FF }
  else a

/-- A write into a mailbox's own 4 KiB (R362, R363). The node alone writes the reply and notification areas. -/
def mailboxWrite (f o : Nat) (value : Word32) (s : State) : State :=
  if o < 0x800 then
    s.modMailbox f fun m => { m with area := writeBytes m.area o (toLe 4 value.toNat) }
  else if o = 0xF00 then mbSubmitEff f s
  else if o = 0xF08 then mbReplyAckEff f s
  else if o = 0xF0C then noteHeadWriteEff f value s
  else s

/-- A write of one word of BAR0 by function `f` (R343); space that the map does not name ignores writes. `reassert` gives the
bits of a write-one-to-clear register whose cause reasserts in the same cycle. -/
def bar0Write (f offset : Nat) (value reassert : Word32) (s : State) : State :=
  if offset = 0x1020 then (if f = 0 then { s with tel := { s.tel with select := value &&& 0x3F } } else s)
  else if offset = 0x2000 then intCauseClearEff f value reassert s
  else if offset = 0x2004 then intMaskWriteEff f value s
  else if offset = 0x2008 then dbFaultClearEff f value reassert s
  else if 0x4000 ≤ offset ∧ offset < 0x4400 then
    if offset % 16 = 12 then s
    else
      s.modFunc f fun r =>
        { r with apShadow := SMap.alter r.apShadow ((offset - 0x4000) / 16) Aperture.zero (Aperture.write (offset % 16) value),
                 apDirty := insertNat ((offset - 0x4000) / 16) r.apDirty }
  else if offset = 0x4400 then bar2Eff f (.bar2Fence f) false s
  else if offset = 0x4408 then bar2ErrClearEff f value reassert s
  else if 0x1_0000 ≤ offset ∧ offset < 0x5_0000 then
    if (offset - 0x1_0000) / 4096 = f then mailboxWrite f ((offset - 0x1_0000) % 4096) value s else s
  else if 0x10_0000 ≤ offset ∧ offset < 0x14_0000 then
    let b := Doorbell.ring ((offset - 0x10_0000) / 64) (offset % 64 / 16)
    if offset % 16 = 0 then subTailWriteEff f b value s
    else if offset % 16 = 4 then cplHeadWriteEff f b value s else s
  else if 0x14_0000 ≤ offset ∧ offset < 0x14_8DC0 then
    if s.arbLive f then
      s.modArbiter ((offset - 0x14_0000) / 64) (Arbiter.write ((offset - 0x14_0000) / 64) (offset % 64) value reassert)
    else s
  else if 0x15_0000 ≤ offset ∧ offset < 0x15_4000 then
    let b := Doorbell.queue ((offset - 0x15_0000) / 16)
    if offset % 16 = 0 then subTailWriteEff f b value s
    else if offset % 16 = 4 then cplHeadWriteEff f b value s else s
  else s

/-- A write of one word of an MSI-X table entry: address, data, or vector control, whose bit 0 masks the vector (R342, R354). -/
def bar4Write (f offset : Nat) (value : Word32) (s : State) : State :=
  let v := offset / 16
  let entry (g : MsixEntry → MsixEntry) : State :=
    s.modFunc f fun r => { r with msixTable := SMap.alter r.msixTable v { address := 0, data := 0 } g }
  if 0x200 ≤ offset then s
  else if offset % 16 = 0 then entry fun e => { e with address := (e.address >>> 32).setWidth 32 ++ value }
  else if offset % 16 = 4 then entry fun e => { e with address := value ++ e.address.setWidth 32 }
  else if offset % 16 = 8 then entry fun e => { e with data := value }
  else if bitOf value.toNat 0 then msixVectorMask f v s
  else msixVectorUnmaskEff f v s

/-- A write of one word of BAR0 or BAR4. -/
def wordWrite (f bar offset : Nat) (value reassert : Word32) (s : State) : State :=
  if bar = 0 then bar0Write f offset value reassert s else bar4Write f offset value s

/-- A write by function `f` (R343): 8 naturally aligned bytes are two words, lower first; a narrow or unaligned write is answered
with Unsupported Request and changes nothing. -/
def registerWriteEff (f bar offset size : Nat) (value reassert : Word64) (s : State) : State :=
  if !s.reach f then s
  else if size = 4 ∧ offset % 4 = 0 then wordWrite f bar offset (value.setWidth 32) (reassert.setWidth 32) s
  else if size = 8 ∧ offset % 8 = 0 then
    wordWrite f bar (offset + 4) ((value >>> 32).setWidth 32) ((reassert >>> 32).setWidth 32)
      (wordWrite f bar offset (value.setWidth 32) (reassert.setWidth 32) s)
  else s.pcie f 3 []

/-- REGISTER_WRITE: a write of 1, 2, 4 or 8 bytes into BAR0 or BAR4 (R342, R343). -/
def execRegisterWrite (f bar offset size : Nat) (value reassert : Word64) (s : State) : Host.Outcome State Fault Refusal :=
  guarded (funcOk f && decide ((bar = 0 ∨ bar = 4) ∧ offset < barSize bar ∧ (size = 1 ∨ size = 2 ∨ size = 4 ∨ size = 8)))
    (registerWriteEff f bar offset size value reassert) s

/-! ## What a read of BAR0 answers

The table has no command for a read but STRIDE_LO's, whose latch is its effect. These functions say what a read of every
other word answers; `cycle` is the cycle within the stride at the read, which the state does not count. -/

/-- The identity page, which reads the same in every function (R344). -/
def State.identityWord (s : State) (o : Nat) : Nat :=
  if o = 0x00 then 0x4D55_5248
  else if o = 0x04 then 0xB000_7200
  else if o = 0x08 then s.node.version
  else if o = 0x0C then 0x0201_0201
  else if 0x10 ≤ o ∧ o < 0x40 then le s.node.digest (o - 0x10) 4
  else if o = 0x40 then s.node.serial % 2 ^ 32
  else if o = 0x44 then s.node.serial / 2 ^ 32
  else 0

/-- NODE_FLAGS (R345). -/
def State.nodeFlags (s : State) (f : Nat) : Nat :=
  bit01 s.node.unlocked + 2 * bit01 s.flash.readOnly + 4 * bit01 (s.isPf f && s.isFenced s.partner) + 8 * s.linkMode +
    16 * s.linkOf f + 32 * bit01 (s.isPf f && s.linkMode = 1 && (s.link (1 - s.linkOf f)).up)

/-- Contexts bound to function `f` (R345). -/
def State.boundContexts (s : State) (f : Nat) : List Nat := (s.contexts.filter fun c => c.2.func = f).map (·.1)

/-- The status and control page (R345). -/
def State.statusWord (s : State) (f o : Nat) : Nat :=
  if o = 0x00 then s.nodeWord.toNat
  else if o = 0x04 then s.node.id + 2 ^ 15 * bit01 s.node.joined
  else if o = 0x08 then s.nodeFlags f
  else if o = 0x0C then f + 64 * bit01 (s.isPf f) + 2 ^ 16 * (s.boundContexts f).length
  else if o = 0x20 then (if f = 0 then s.tel.select.toNat else 0)
  else 0

/-- The interrupt cause and mask page (R346). -/
def FuncRegs.causeWord (r : FuncRegs) (o : Nat) : Nat :=
  if o = 0x00 then r.intCause.toNat else if o = 0x04 then r.intMask.toNat else if o = 0x08 then r.dbFault.toNat else 0

/-- The stride counter mirror page, zero until the node joins (R347). -/
def State.strideWord (s : State) (f o cycle : Nat) : Nat :=
  if !s.node.joined then 0
  else if o = 0x00 then s.stride % 2 ^ 32
  else if o = 0x04 then (s.func f).strideHi.toNat
  else if o = 0x08 then cycle % 2 ^ 21 + 2 ^ 21 * s.clk.window + 2 ^ 23 * s.clk.code
  else if o = 0x10 then s.tel.stamp % 2 ^ 32
  else if o = 0x14 then s.tel.stamp / 2 ^ 32
  else if o = 0x18 then bit01 s.tel.publishedB
  else if o = 0x20 ∨ o = 0x24 then ((s.clk.armed.map (·.1)).getD 0) / 2 ^ (8 * (o - 0x20)) % 2 ^ 32
  else 0

/-- The aperture registers as last written, and the fence and error registers; the fence is write-only (R355, R357, R7). -/
def FuncRegs.apertureWord (r : FuncRegs) (o : Nat) : Nat :=
  if o < 0x400 then
    let a := SMap.getD r.apShadow (o / 16) Aperture.zero
    if o % 16 = 0 then a.ctl.toNat else if o % 16 = 4 then a.target.toNat else if o % 16 = 8 then a.base.toNat else 0
  else if o = 0x408 then r.bar2Err.toNat
  else if o = 0x410 then r.bar2ErrAddr.toNat % 2 ^ 32
  else if o = 0x414 then r.bar2ErrAddr.toNat / 2 ^ 32
  else if o = 0x418 then r.bar2ErrCount.toNat
  else 0

/-- A mailbox's own 4 KiB; MB_SUBMIT and MB_REPLY_ACK are write-only (R362, R363, R7). -/
def Mailbox.word (m : Mailbox) (o : Nat) : Nat :=
  if o < 0x800 then le (readBytes m.area o 4) 0 4
  else if o < 0xC00 then le m.replyArea (o - 0x800) 4
  else if o < 0xF00 then le (SMap.getD m.noteSlots ((o - 0xC00) / 96) []) ((o - 0xC00) % 96) 4
  else if o = 0xF04 then
    bit01 m.ready + 2 * bit01 m.reqFree + 4 * bit01 m.replyValid + 2 ^ 8 * m.outstanding
  else if o = 0xF0C then m.noteHead.toNat
  else if o = 0xF10 then m.noteTail.toNat
  else if o = 0xF14 then m.noteLost.toNat
  else 0

/-- A doorbell's four words (R349, R353). -/
def Ring.word (r : Ring) (o : Nat) : Nat :=
  if o = 0 then r.subTail.toNat
  else if o = 4 then r.cplHead.toNat
  else if o = 8 then r.cplTail.toNat
  else bit01 r.isOpen + 2 * r.kind + 2 ^ 8 * r.depth

/-- A doorbell as function `f` reads it: zero in a block that is not live there, and of a ring lost by a detachment (R361). -/
def State.bellWord (s : State) (f : Nat) (b : Doorbell) (o : Nat) : Nat :=
  if s.bellLive f b then ((s.bell b).map fun r => if r.lost then 0 else r.word o).getD 0 else 0

/-- Four limits from slot `4 * half`. -/
def limitsWord (l : List Nat) (half : Nat) : Nat := le ((l.drop (4 * half)).take 4 |>.map (BitVec.ofNat 8)) 0 4

/-- The register block of arbiter `n`: ARB_ID, the priorities, the limits last written and the flags (R194, R7). -/
def Arbiter.word (n : Nat) (a : Arbiter) (o : Nat) : Nat :=
  if o = 0x00 then n + 2 ^ 10 * arbiterKind n + 2 ^ 13 * arbiterSlots n
  else if o = 0x04 then a.prio.toNat
  else if o = 0x08 then limitsWord a.waitShadow 0
  else if o = 0x0C then limitsWord a.waitShadow 1
  else if o = 0x10 then limitsWord a.holdShadow 0
  else if o = 0x14 then limitsWord a.holdShadow 1
  else if o = 0x18 then a.flags.toNat
  else 0

/-- Bank A or bank B of the mirror. -/
def State.bank (s : State) (b : Bool) : Snapshot := if b then s.tel.bankB else s.tel.bankA

/-- R348: may function `f` see the byte at offset `o` of a bank: link 0's PF sees all, another function the two stamps and
the sections of the contexts bound to it? -/
def State.seesByte (s : State) (f o : Nat) : Bool :=
  f = 0 || o < 8 || 0x3_FFF8 ≤ o ||
    (0x1_0000 ≤ o && o < 0x3_0000 && (s.boundContexts f).contains ((o - 0x1_0000) / 32))

/-- R348: bytes of a bank as function `f` reads them. -/
def State.bankBytes (s : State) (f : Nat) (b : Bool) (o n : Nat) : Bytes :=
  ((s.bank b).read s.flash.fresh o n).mapIdx fun i v => if s.seesByte f (o + i) then v else 0

/-- The word of BAR0 at an aligned offset, as function `f` reads it (R343). -/
def State.bar0Word (s : State) (f offset cycle : Nat) : Nat :=
  if offset < 0x1000 then s.identityWord offset
  else if offset < 0x2000 then s.statusWord f (offset - 0x1000)
  else if offset < 0x3000 then (s.func f).causeWord (offset - 0x2000)
  else if offset < 0x4000 then s.strideWord f (offset - 0x3000) cycle
  else if offset < 0x5000 then (s.func f).apertureWord (offset - 0x4000)
  else if 0x1_0000 ≤ offset ∧ offset < 0x5_0000 then
    if (offset - 0x1_0000) / 4096 = f then (s.mailbox f).word ((offset - 0x1_0000) % 4096) else 0
  else if 0x10_0000 ≤ offset ∧ offset < 0x14_0000 then
    s.bellWord f (.ring ((offset - 0x10_0000) / 64) (offset % 64 / 16)) (offset % 16)
  else if 0x14_0000 ≤ offset ∧ offset < 0x14_8DC0 then
    let n := (offset - 0x14_0000) / 64
    if s.arbLive f then (s.arbiter n).word n (offset % 64) else 0
  else if 0x15_0000 ≤ offset ∧ offset < 0x15_4000 then
    s.bellWord f (.queue ((offset - 0x15_0000) / 16)) (offset % 16)
  else if 0x18_0000 ≤ offset ∧ offset < 0x1C_0000 then le (s.bankBytes f false (offset - 0x18_0000) 4) 0 4
  else if 0x1C_0000 ≤ offset ∧ offset < 0x20_0000 then le (s.bankBytes f true (offset - 0x1C_0000) 4) 0 4
  else 0

/-- R358: a read of BAR2_ERR stays behind a fence of its function until every operation the fence waits for has its
outcome. -/
def State.readHeld (s : State) (f offset : Nat) : Bool := offset / 4 * 4 = 0x4408 && !(s.func f).fenceTags.isEmpty

/-- What a read of BAR0 or BAR4 answers: Unsupported Request, nothing yet where it is held behind a fence (R358), or data. -/
inductive ReadAnswer where
  | unsupported
  | held
  | data (value : Nat)
  deriving DecidableEq, Repr

/-- The word of BAR4 at an aligned offset: the MSI-X table, and the pending-bit array (R342). -/
def FuncRegs.bar4Word (r : FuncRegs) (offset : Nat) : Nat :=
  let e := SMap.getD r.msixTable (offset / 16) { address := 0, data := 0 }
  if offset < 0x200 then
    if offset % 16 = 0 then e.address.toNat % 2 ^ 32
    else if offset % 16 = 4 then e.address.toNat / 2 ^ 32
    else if offset % 16 = 8 then e.data.toNat
    else bit01 (bitOf r.msixMask.toNat (offset / 16))
  else if offset = 0x1000 then r.msixPending.toNat
  else 0

/-- A read of BAR0: Unsupported Request for a function that is not reached, a narrow or unaligned access. An 8-byte read is two
words, lower first, but of STRIDE_LO and STRIDE_HI it gives both halves from one instant (R343, R347). A read of BAR2_ERR is held
behind a fence (R358). -/
def State.bar0Read (s : State) (f offset size cycle : Nat) : ReadAnswer :=
  if !s.reach f then .unsupported
  else if size = 4 ∧ offset % 4 = 0 then (if s.readHeld f offset then .held else .data (s.bar0Word f offset cycle))
  else if size = 8 ∧ offset % 8 = 0 then
    if s.readHeld f offset then .held
    else .data (if offset = 0x3000 then (if s.node.joined then s.stride else 0)
      else s.bar0Word f offset cycle + 2 ^ 32 * s.bar0Word f (offset + 4) cycle)
  else .unsupported

/-- A read of BAR4. -/
def State.bar4Read (s : State) (f offset size : Nat) : ReadAnswer :=
  if !s.reach f then .unsupported
  else if size = 4 ∧ offset % 4 = 0 then .data ((s.func f).bar4Word offset)
  else if size = 8 ∧ offset % 8 = 0 then .data ((s.func f).bar4Word offset + 2 ^ 32 * (s.func f).bar4Word (offset + 4))
  else .unsupported

end Sys2Proof.Machine
end

