-- ==== Sys2Proof/Machine/Device.lean ====
section
/-! DEFINITION. Format negotiation and capabilities (R372, R373), and the control and management planes' own failures
(R16, R17). -/

namespace Sys2Proof.Machine

/-- The 8-byte payload of every DEVICE_FORMAT reply (R372). -/
def formatReply (chosen : Nat) : Bytes := toLe 2 chosen ++ toLe 2 0x0201 ++ toLe 2 0x0201 ++ zeros 2

/-- R372: negotiate the format of the issuing function, which had no other request outstanding when it sent this one. -/
def deviceFormatEff (f : Nat) (s : State) : State :=
  s.serve f 0x0101 fun s q =>
    if q.mute then (s, none)
    else if q.others ≠ 0 then refuse s stBadValue (formatReply 0)
    else if q.field 2 2 ≤ 0x0201 ∧ 0x0201 ≤ q.field 0 2 then
      report (s.modMailbox f fun m => { m with negotiated := true }) (formatReply 0x0201)
    else refuse s stBadFormat (formatReply 0)

/-- DEVICE_FORMAT -/
def execDeviceFormat (f : Nat) (s : State) : Host.Outcome State Fault Refusal :=
  guarded (funcOk f) (deviceFormatEff f) s

/-- A ring format entry (R373). -/
def ringFormat (kind smallest largest base perK : Nat) : Bytes :=
  toLe 1 kind ++ toLe 1 1 ++ zeros 2 ++ toLe 4 smallest ++ toLe 4 largest ++ toLe 2 base ++ toLe 2 perK

/-- The DEVICE_CAPABILITIES reply payload (R373). -/
def capabilities : Bytes :=
  toLe 2 0x0201 ++ toLe 2 0x0201 ++ toLe 4 0x0001_0600 ++ toLe 2 32 ++ toLe 2 1984 ++ toLe 2 992 ++ toLe 2 8 ++
  toLe 4 65536 ++ zeros 12 ++ ringFormat 1 512 20480 48 16 ++ ringFormat 2 64 16448 32 0 ++
  ringFormat 3 128 20480 32 0 ++ ringFormat 4 64 64 32 0 ++ ringFormat 5 64 64 32 0

/-- DEVICE_CAPABILITIES (R373) -/
def execDeviceCapabilities (f : Nat) (s : State) : Host.Outcome State Fault Refusal :=
  guarded (funcOk f) (fun s => s.serve f 0x0102 fun s _ => report s capabilities) s

/-! ## The test port (R451, R406) -/

/-- What the IEEE 1149.1 port's IDCODE reads (R451). -/
def jtagIdcode : Word32 := 0xB720_0ABF

/-- The test port's instructions: those of boundary scan, and the debug instructions that an unlock opens by its scope. -/
inductive JtagOp where
  | bypass | idcode | sample | preload | extest | clamp | highz | coreDebug | planeDebug
  deriving DecidableEq, Repr

/-- Does the port offer an instruction: the boundary-scan ones always, a debug one where an unlock opened its scope? -/
def State.jtagOffers (s : State) : JtagOp → Bool
  | .coreDebug => s.node.unlocked && bitOf s.node.scope 0
  | .planeDebug => s.node.unlocked && bitOf s.node.scope 1
  | _ => true

/-- Kinds of land. -/
inductive Land where
  | singleEnded | ddr | flash | pciExpress | spanPort | referenceClock
  deriving DecidableEq, Repr

/-- Does the boundary-scan chain cover a land? -/
def Land.scanned : Land → Bool
  | .singleEnded | .ddr | .flash => true
  | .pciExpress | .spanPort | .referenceClock => false

/-! ## Failures of the planes -/

/-- R17: a control core faults. Until the restart, at most 2 strides on, no request is taken or processed and notifications are
held. -/
def controlCoreFaultEff (s : State) : State :=
  { s with ctl := { s.ctl with coreDown := true, coreAt := if s.ctl.coreDown then s.ctl.coreAt else s.stride } }

/-- CONTROL_CORE_FAULT -/
def execControlCoreFault (s : State) : Host.Outcome State Fault Refusal := guarded true controlCoreFaultEff s

/-- Every request of a mailbox taken and not yet replied, answered with ST_INTERNAL, in the order it would have been
answered (R17): replies ready, then requests taken. -/
def internalReplies (m : Mailbox) : List Reply :=
  (m.replies.map fun r => { r with status := stInternal, stamp := unstamped, payload := [] }) ++
    ((m.taken.filter fun q => !q.mute).map fun q => refusedReply q stInternal)

/-- R17: the restart answers every outstanding request with ST_INTERNAL, keeps work already begun, and posts the
notifications held. -/
def controlCoreRestartedEff (s : State) : State :=
  if !s.ctl.coreDown then s
  else
    let mbx := SMap.mapVals s.mbx fun _ m => { m with taken := [], replies := internalReplies m }
    let s1 := { s with mbx := mbx }
    -- class E requests that wait for their event are outstanding too; their work runs on
    let s2 := s.ctl.deferred.foldl (fun s d => s.reply d.request stInternal unstamped []) s1
    let s3 := { s2 with ctl := { s2.ctl with coreDown := false, deferred := [], heldNotes := [] } }
    s.ctl.heldNotes.foldl
      (fun s p => if (s.mailbox p.1).ready then s.modMailbox p.1 fun m => m.queueNote p.2 else s)
      s3

/-- CONTROL_CORE_RESTARTED -/
def execControlCoreRestarted (s : State) : Host.Outcome State Fault Refusal := guarded true controlCoreRestartedEff s

/-- R16, R22: the management core crashes. Nothing of the other planes changes; its events and answers wait for its
restart, which the model places at the next stride boundary (log entry 12). -/
def managementCoreCrashEff (s : State) : State := { s with ctl := { s.ctl with mgmtDown := true } }

/-- MANAGEMENT_CORE_CRASH -/
def execManagementCoreCrash (s : State) : Host.Outcome State Fault Refusal := guarded true managementCoreCrashEff s

/-- The management core is back: it reads the events that waited, in order (R22). -/
def State.managementRestart (s : State) : State :=
  { s with
    ctl := { s.ctl with mgmtDown := false, heldEvents := [] },
    out := { s.out with pldm := s.out.pldm ++ s.ctl.heldEvents } }

end Sys2Proof.Machine
end

