-- ==== Sys2Proof/Machine/Membership.lean ====
section
/-! DEFINITION. The membership protocol: heartbeats, accusations, vouches, fence decisions and records, the adoption of
fences (R321 to R329), and the teardown of a job (R333). -/

namespace Sys2Proof.Machine

/-! ## Membership records (R321) -/

/-- A membership record, 64 bytes. -/
def membRecord (kind reason sender subject flags stride epoch decision ports : Nat) : Bytes :=
  toLe 1 kind ++ toLe 1 reason ++ toLe 2 sender ++ toLe 2 subject ++ toLe 2 flags ++ toLe 8 stride ++ toLe 8 epoch ++
    toLe 8 decision ++ toLe 2 ports ++ zeros 30

/-- The sender of a membership record. -/
def membSender (r : Bytes) : Nat := le r 2 2 % 2 ^ 15

/-- Its subject. -/
def membSubject (r : Bytes) : Nat := le r 4 2 % 2 ^ 15

/-- The ports in service. -/
def State.portsInService (s : State) : List Nat := (List.range 9).filter fun p => (s.port p).st = 2

/-- Send a record on every port in service but one. -/
def State.flood (s : State) (except : Option Nat) (body : Bytes) : State :=
  (s.portsInService.filter fun p => except ≠ some p).foldl (fun s p => s.sendPort 0 p body) s

/-- The ports that join this node and a peer: trained, on a herd port or the span port, in service or down since. -/
def State.portsTo (s : State) (n : Nat) : List Nat :=
  (List.range 9).filter fun p =>
    (p = 8 || (s.port p).role = 1) && (s.port p).peer = n && ((s.port p).st = 2 || ((s.port p).st = 3 && (s.port p).reason = 9))

/-- The peers that this node watches: its partner over port 8 and the nodes on its herd ports (R321). -/
def State.watched (s : State) : List Nat :=
  let peers := (List.range 9).filterMap fun p =>
    if (p = 8 || (s.port p).role = 1) && ((s.port p).st = 2 || ((s.port p).st = 3 && (s.port p).reason = 9)) then
      some (s.port p).peer
    else none
  (dedupNat peers).filter fun n => n ≠ s.me && !s.isFenced n

/-- A watched peer of which nothing has been heard. -/
def Peer.fresh : Peer := { lastHeard := 0, misses := 0, firstMiss := 0, suspected := false, outStep := false, behind := 0, beat := 0 }

/-- What is kept of a peer. -/
def State.peer (s : State) (n : Nat) : Peer := SMap.getD s.memb.peers n Peer.fresh

/-- Change membership. -/
def State.modMemb (s : State) (g : Membership → Membership) : State := { s with memb := g s.memb }

/-- The stride root: the one named, or its off node once it is fenced (R296). -/
def State.rootNow (s : State) : Nat := if s.isFenced s.fab.root then partnerOf s.fab.root else s.fab.root

/-- The stride root, or its off node where the subject is the root or the root's near node (R324). -/
def State.deciderOf (s : State) (subject : Nat) : Nat :=
  let root := s.rootNow
  if subject = root ∨ (subject = partnerOf root ∧ subject % 2 = 0) then partnerOf subject else root

/-- Do heartbeats run outside the commit window: the node has reached S0 and is not stopped (R322, R329, R420)? -/
def State.beats (s : State) : Bool := s.memb.beating && s.clk.window ≠ 0

/-- Is this node fenced, so that it sends nothing but heartbeats (R329)? -/
def State.selfFenced (s : State) : Bool := s.node.st = 2

/-! ## HEARTBEAT_SEND (R322, R325) -/

/-- This node's heartbeat. -/
def State.heartbeat (s : State) : Bytes :=
  membRecord 1 0 s.me s.me (bit01 s.fab.outStep) s.stride s.memb.epoch 0 (sumNat (s.portsInService.map fun p => 2 ^ p))

/-- The record of a fence. -/
def State.fenceRecord (s : State) (x : Fence) : Bytes :=
  membRecord 4 x.reason x.decider x.subject 0 s.stride s.memb.epoch x.stride 0

/-- An accusation of a subject goes to a node; one for this node itself is held here. -/
def State.accuse (s : State) (subject : Nat) (dst : Nat) : State :=
  if dst = s.me then
    s.modMemb fun m => { m with accusations := m.accusations ++ [(subject, s.me, s.stride)] }
  else s.send 0 dst (membRecord 2 0 s.me subject 0 s.stride s.memb.epoch 0 0)

/-- Accuse a suspected peer to its partner and to the stride root (R322). -/
def State.accuseBoth (s : State) (subject : Nat) : State :=
  (dedupNat [partnerOf subject, s.rootNow]).foldl (fun s n => s.accuse subject n) s

/-- HEARTBEAT_SEND: heartbeats, accusations of the peers suspected, and the fence records of D+1 and D+2. -/
def heartbeatSendEff (s : State) : State :=
  if !s.beats || s.clk.window ≠ 1 then s
  else
    let s1 := s.flood none s.heartbeat
    if s.selfFenced then s1
    else
      let s2 := (s1.memb.repeats.filter fun x => x.stride < s1.stride).foldl (fun s x => s.flood none (s.fenceRecord x)) s1
      let s3 := s2.modMemb fun m => { m with repeats := m.repeats.filter fun x => s.stride < x.stride + 2 }
      (s.watched.filter fun n => (s.peer n).suspected).foldl State.accuseBoth s3

/-- HEARTBEAT_SEND -/
def execHeartbeatSend (s : State) : Host.Outcome State Fault Refusal := guarded true heartbeatSendEff s

/-! ## HEARTBEAT_RECEIVE, ACCUSATION_RECEIVE, VOUCH_RECEIVE (R322, R324) -/

/-- Does this node take membership records, in every phase of the stride (R322, R325): heartbeats run, and it is not fenced
itself? -/
def State.listens (s : State) : Bool := s.memb.beating && !s.selfFenced

/-- Take a membership record from a sender: a fenced node's is discarded and counted (R328). -/
def State.takesFrom (s : State) (sender : Nat) (take : State → State) : State :=
  if !s.listens then s else if s.isFenced sender then s.scheduledLost else take s

/-- What is kept of a peer once its heartbeat `r` is heard: one that was heard already on another port counts once (R324). -/
def Peer.hears (x : Peer) (r : Bytes) (epoch stride : Nat) : Peer :=
  { x with
    lastHeard := stride, outStep := bitOf (le r 6 2) 0, beat := le r 8 8,
    behind := if epoch < le r 16 8 then (if x.beat = le r 8 8 then max 1 x.behind else x.behind + 1) else 0 }

/-- R323: have two strides passed without a heartbeat on any port? -/
def State.silentNow (s : State) : Bool := s.memb.silent || decide (s.memb.heardAny + 3 ≤ s.stride)

/-- HEARTBEAT_RECEIVE: a fenced node's heartbeat is discarded and counted (R328). -/
def heartbeatReceiveEff (p : Nat) (r : Bytes) (s : State) : State :=
  let n := membSender r
  if !s.listens || (s.port p).st ≠ 2 || byteAt r 0 ≠ 1 then s
  else if s.isFenced n then s.discard p 1
  else
    s.modMemb fun m =>
      { m with
        heardAny := s.stride, silent := s.silentNow,
        peers := SMap.alter m.peers n Peer.fresh fun x => x.hears r m.epoch s.stride }

/-- HEARTBEAT_RECEIVE -/
def execHeartbeatReceive (port : Nat) (record : Bytes) (s : State) : Host.Outcome State Fault Refusal :=
  guarded (portOk port) (fun s => s.arrives 0 s.me record (heartbeatReceiveEff port record)) s

/-- A vouch for a subject goes to a node; one for this node itself is held here. -/
def State.vouchTo (s : State) (subject dst : Nat) : State :=
  if dst = s.me then s.modMemb fun m => { m with vouches := m.vouches ++ [(subject, s.stride)] }
  else s.send 0 dst (membRecord 3 0 s.me subject 0 s.stride s.memb.epoch 0 0)

/-- A vouch for a subject goes to the stride root, and to the node that decides where that is another (R322, R324). -/
def State.vouch (s : State) (subject : Nat) : State :=
  (dedupNat [s.rootNow, s.deciderOf subject]).foldl (fun s n => s.vouchTo subject n) s

/-- ACCUSATION_RECEIVE: held for the decision; a partner that heard the subject in this stride or the last vouches. -/
def accusationReceiveEff (r : Bytes) (s : State) : State :=
  let subject := membSubject r
  if byteAt r 0 ≠ 2 then s
  else s.takesFrom (membSender r) fun s =>
    let s1 := s.modMemb fun m => { m with accusations := m.accusations ++ [(subject, membSender r, s.stride)] }
    if subject = s.partner ∧ SMap.has s.memb.peers subject ∧ s.stride ≤ (s.peer subject).lastHeard + 1 then
      s1.vouch subject
    else s1

/-- ACCUSATION_RECEIVE -/
def execAccusationReceive (record : Bytes) (s : State) : Host.Outcome State Fault Refusal :=
  guarded true (fun s => s.arrives 0 s.me record (accusationReceiveEff record)) s

/-- VOUCH_RECEIVE: only a subject's partner vouches for it. -/
def vouchReceiveEff (r : Bytes) (s : State) : State :=
  let subject := membSubject r
  if byteAt r 0 ≠ 3 then s
  else s.takesFrom (membSender r) fun s =>
    if membSender r ≠ partnerOf subject then s else s.modMemb fun m => { m with vouches := m.vouches ++ [(subject, s.stride)] }

/-- VOUCH_RECEIVE -/
def execVouchReceive (record : Bytes) (s : State) : Host.Outcome State Fault Refusal :=
  guarded true (fun s => s.arrives 0 s.me record (vouchReceiveEff record)) s

/-! ## HEARTBEAT_MISS (R322) -/

/-- Has a peer's miss of the present stride been counted? -/
def Peer.counted (x : Peer) (stride : Nat) : Bool := 0 < x.misses && stride < x.firstMiss + x.misses

/-- Did the peer miss this stride: no heartbeat, or a port to it is down? -/
def State.missed (s : State) (n : Nat) : Bool :=
  (s.peer n).lastHeard ≠ s.stride || (s.portsTo n).any fun p => (s.port p).st = 3

/-- Does this node still receive heartbeats from others? -/
def State.hearsOthers (s : State) (n : Nat) : Bool :=
  s.memb.peers.any fun p => p.1 ≠ n && p.2.lastHeard = s.stride

/-- Count one peer's stride. -/
def State.countMiss (s : State) (n : Nat) : State :=
  let x := s.peer n
  if x.counted s.stride then s
  else
    let x' : Peer :=
      if s.missed n then
        { x with misses := x.misses + 1, firstMiss := if x.misses = 0 then s.stride else x.firstMiss,
                 suspected := x.suspected || (decide (1 ≤ x.misses) && s.hearsOthers n) }
      else { x with misses := 0, suspected := false }
    s.modMemb fun m => { m with peers := SMap.set m.peers n x' }

/-- HEARTBEAT_MISS: at the end of a stride. -/
def heartbeatMissEff (s : State) : State :=
  if !s.beats || s.clk.window ≠ 2 || s.selfFenced then s else s.watched.foldl State.countMiss s

/-- HEARTBEAT_MISS -/
def execHeartbeatMiss (s : State) : Host.Outcome State Fault Refusal := guarded true heartbeatMissEff s

/-! ## FENCE_DECISION (R323, R324) -/

/-- R323: no heartbeat on any port for two consecutive strides, whatever is heard since, or no herd port in service. -/
def State.isolated (s : State) : Bool :=
  s.silentNow || !(s.portsInService.any fun p => (s.port p).role = 1)

/-- The span's rule: what this node decides about its partner or, cut off from it, about itself. -/
def State.spanDecision (s : State) : Option (Nat × Nat) :=
  let x := s.peer s.partner
  if !(s.watched.contains s.partner) then none
  else if x.outStep then some (s.partner, 3)
  else if s.isNear && s.memb.divergence then some (s.partner, 4)
  else if x.misses < 2 then none
  else if s.isNear then some (s.partner, 1)
  else if s.memb.accusations.any fun a => a.1 = s.partner && a.2.1 ≠ s.me && x.firstMiss ≤ a.2.2 then some (s.partner, 1)
  else if x.firstMiss + 3 ≤ s.stride then some (s.me, 2)
  else none

/-- The root's rule about one subject: two watchers accuse it, its partner does not vouch, and the stride after the first
accusation has come without a fence of it. -/
def State.rootDecides (s : State) (subject : Nat) : Bool :=
  let mine := s.memb.accusations.filter fun a => a.1 = subject
  let now := mine.filter fun a => s.stride ≤ a.2.2 + 1
  decide (2 ≤ (dedupNat (now.map fun a => a.2.1)).length) && (mine.any fun a => a.2.2 < s.stride) &&
    !(s.memb.vouches.any fun v => v.1 = subject && decide (s.stride ≤ v.2 + 1)) && s.deciderOf subject = s.me

/-- The fences that this node decides in this stride: (subject, reason). -/
def State.fences (s : State) : List (Nat × Nat) :=
  if s.isolated then [(s.me, 5)]
  else if s.memb.peers.any fun p => 2 ≤ p.2.behind && !s.isFenced p.1 then [(s.me, 6)]
  else
    let span := match s.spanDecision with
      | some d => [d]
      | none => []
    let subjects := (dedupNat (s.memb.accusations.map fun a => a.1)).filter fun n => !(span.any fun d => d.1 = n)
    (span ++ ((subjects.filter s.rootDecides).map fun n => (n, 1))).filter fun d =>
      !s.isFenced d.1 && !(s.memb.held.any fun x => x.subject = d.1)

/-- R22, R338: the events of a fence, which carry its decision stride and the epoch after its adoption. -/
def State.fenceEvent (s : State) (x : Fence) (epoch : Nat) : State :=
  s.herdEvent 1 x.reason x.subject x.decider 0xFF x.stride epoch

/-- The fence of a subject that this node decides in this stride. -/
def State.ownFence (s : State) (d : Nat × Nat) : Fence :=
  { subject := d.1, reason := d.2, decider := s.me, stride := s.stride, own := true }

/-- Decide one fence: its record is held and flooded at once (R325). -/
def State.decideFence (s : State) (d : Nat × Nat) : State :=
  let x := s.ownFence d
  let s1 := s.modMemb fun m =>
    { m with held := m.held ++ [x], seen := m.seen ++ [(x.subject, x.decider, x.stride)], repeats := m.repeats ++ [x],
             divergence := false }
  s1.flood none (s1.fenceRecord x)

/-- R327: where both members of a span decide against each other in one stride, the near node's record stands. -/
def standing (l : List Fence) : List Fence :=
  l.filter fun x => !(x.decider % 2 = 1 && x.subject = partnerOf x.decider &&
    l.any fun y => y.decider = x.subject && y.subject = x.decider && y.stride = x.stride)

/-- The epoch after a subject's adoption: fences held are adopted in ascending node id (R325, R338). -/
def State.epochOf (s : State) (subject : Nat) : Nat :=
  s.memb.epoch + 1 + (dedupNat (((standing s.memb.held).map (·.subject)).filter (· < subject))).length

/-- R329: the node learns that it is fenced: it stops, and programs its committed storage units (R284). -/
def State.stopFenced (s : State) : State :=
  { s with node := { s.node with st := 2 }, flash := { s.flash with flushed := true } }

/-- Decide the fences of this stride: each is held and flooded, then its events are raised; a node that fences itself stops. -/
def State.decideFences (s : State) (l : List (Nat × Nat)) : State :=
  let t := l.foldl State.decideFence s
  let t1 := l.foldl (fun (t : State) d => t.fenceEvent (s.ownFence d) (t.epochOf d.1)) t
  if l.any fun d => d.1 = s.me then t1.stopFenced else t1

/-- FENCE_DECISION: the first cycle of the drain guard (R26, R324). -/
def fenceDecisionEff (s : State) : State :=
  if s.clk.window ≠ 1 then s
  else
    let s1 := { s with clk := { s.clk with window := 2 } }
    if !s.memb.beating || s.selfFenced then s1 else s1.decideFences s1.fences

/-- FENCE_DECISION -/
def execFenceDecision (s : State) : Host.Outcome State Fault Refusal := guarded true fenceDecisionEff s

/-! ## FENCE_RECORD_RECEIVE and adoption (R325, R327, R328) -/

/-- FENCE_RECORD_RECEIVE: in every phase of the stride; a record not seen is held and forwarded. A node that receives its own
stops (R327, R329), unless its own decision stands against it. -/
def fenceRecordReceiveEff (p : Nat) (r : Bytes) (s : State) : State :=
  let x : Fence := { subject := membSubject r, reason := byteAt r 1, decider := membSender r, stride := le r 24 8, own := false }
  if !s.memb.beating || s.selfFenced || (s.port p).st ≠ 2 || byteAt r 0 ≠ 4 then s
  else if s.isFenced x.decider then s.discard p 1
  else if s.memb.seen.contains (x.subject, x.decider, x.stride) then s
  else
    let t := (s.modMemb fun m =>
      { m with seen := m.seen ++ [(x.subject, x.decider, x.stride)],
               held := if s.isFenced x.subject then m.held else m.held ++ [x] }).flood (some p) r
    if x.subject = s.me && (standing t.memb.held).contains x then t.stopFenced else t

/-- FENCE_RECORD_RECEIVE -/
def execFenceRecordReceive (port : Nat) (record : Bytes) (s : State) : Host.Outcome State Fault Refusal :=
  guarded (portOk port) (fun s => s.arrives 0 s.me record (fenceRecordReceiveEff port record)) s

/-- Adopt one fence: the epoch rises, its events are raised unless this node decided it, a node that is itself the subject
stops (R329), and a fenced partner voids the builds of its span (R319). -/
def State.adoptFence (s : State) (x : Fence) : State :=
  if s.isFenced x.subject then s
  else
    let s1 := s.modMemb fun m =>
      { m with epoch := m.epoch + 1, fenced := insertNat x.subject m.fenced, peers := SMap.erase m.peers x.subject,
               accusations := m.accusations.filter fun a => a.1 ≠ x.subject }
    let s2 := if x.own then s1 else s1.fenceEvent x s1.memb.epoch
    if x.subject = s.me then s2.stopFenced
    else if x.subject = s.partner then s2.voidBuilds
    else s2

/-- R325: adopt the fences held, in ascending node id. -/
def State.adoptFences (s : State) : State :=
  let l := sortBy (fun (a b : Fence) => decide (a.subject < b.subject)) (standing s.memb.held)
  l.foldl State.adoptFence (s.modMemb fun m => { m with held := [] })

/-! ## HERD_STATUS, HERD_TEARDOWN, HERD_REMOUNT, HERD_UNIT_RETURN (R333 to R338) -/

/-- The fenced bitmap: bit n for node n. -/
def fencedBitmap (fenced : List Nat) : Bytes :=
  fenced.foldl (fun (b : Bytes) n => b.modify (n / 8) fun x => x ||| BitVec.ofNat 8 (2 ^ (n % 8))) (zeros 2560)

/-- HERD_STATUS (R338) -/
def herdStatusEff (f : Nat) (s : State) : State :=
  s.serve f 0x0708 fun s _ =>
    let own := if s.node.st = 2 then 1 else if s.node.st = 3 then 2 else 0
    let partner := if s.isFenced s.partner then 2 else if (s.peer s.partner).suspected then 1 else 0
    report s (toLe 8 s.shown.first ++ toLe 8 s.memb.epoch ++ toLe 2 s.partner ++ toLe 1 own ++ toLe 1 partner ++
      toLe 4 s.memb.fenced.length ++ toLe 8 ((s.clk.armed.map (·.1)).getD 0) ++ fencedBitmap s.memb.fenced)

/-- HERD_STATUS -/
def execHerdStatus (f : Nat) (s : State) : Host.Outcome State Fault Refusal := guarded (funcOk f) (herdStatusEff f) s

/-- HERD_TEARDOWN (R333): of an open context. -/
def herdTeardownEff (f : Nat) (s : State) : State :=
  s.serve f 0x0709 fun s q =>
    let c := q.field 0 2
    if c = 0 ∨ 4096 ≤ c then refuse s stBadValue
    else if !((SMap.find? s.contexts c).any fun x => x.st = 1) then refuse s stNoContext
    else accept s (.teardown c)

/-- HERD_TEARDOWN -/
def execHerdTeardown (f : Nat) (s : State) : Host.Outcome State Fault Refusal := guarded (funcOk f) (herdTeardownEff f) s

/-- HERD_REMOUNT (R335), the request at the head being one that arms. -/
def herdRemountEff (f : Nat) (s : State) : State :=
  if (s.headRequest f 0x070A).any fun q => bitOf (q.field 9 1) 0 then s
  else s.serve f 0x070A fun s q =>
    let r := q.field 0 8
    let code := q.field 8 1
    if code = 0 ∨ 3 < code then refuse s stBadValue
    else if r < s.stride + 4 then refuse s stTooLate
    else ({ s with clk := { s.clk with armed := some (r, code, q.field 16 8) } }, some (stOk, r, []))

/-- HERD_REMOUNT -/
def execHerdRemount (f : Nat) (s : State) : Host.Outcome State Fault Refusal := guarded (funcOk f) (herdRemountEff f) s

/-- HERD_REMOUNT_CANCEL (R335): flags bit 0; accepted up to R − 3. -/
def herdRemountCancelEff (f : Nat) (s : State) : State :=
  if (s.headRequest f 0x070A).any fun q => !bitOf (q.field 9 1) 0 then s
  else s.serve f 0x070A fun s _ =>
    match s.clk.armed with
    | none => refuse s stBadValue
    | some (r, _, _) =>
      if r < s.stride + 3 then refuse s stTooLate
      else report { s with clk := { s.clk with armed := none } } []

/-- HERD_REMOUNT_CANCEL -/
def execHerdRemountCancel (f : Nat) (s : State) : Host.Outcome State Fault Refusal :=
  guarded (funcOk f) (herdRemountCancelEff f) s

/-- R337: the units of a kind that may be offered. -/
def returnableUnits (kind : Nat) : Nat :=
  match kind with
  | 0x01 => 96
  | 0x02 => 512
  | 0x03 => 16
  | 0x04 => 16
  | 0x07 => 12
  | 0x09 => 256
  | 0x10 => 36
  | _ => 0

/-- Has the first gait of this remount been adopted (R52)? -/
def State.gaitAdopted (s : State) : Bool := s.gaits.mounted.isSome

/-- HERD_UNIT_RETURN (R337) -/
def herdUnitReturnEff (f : Nat) (s : State) : State :=
  s.serve f 0x070B fun s q =>
    let u := (q.field 0 1, q.field 2 2)
    if returnableUnits u.1 ≤ u.2 then refuse s stBadValue
    else if s.gaitAdopted then refuse s stNotUntilRemount
    else
      let l := s.node.record.testList
      report { s with node := { s.node with record := { s.node.record with
        testList := if l.contains u then l else l ++ [u] } } } []

/-- HERD_UNIT_RETURN -/
def execHerdUnitReturn (f : Nat) (s : State) : Host.Outcome State Fault Refusal := guarded (funcOk f) (herdUnitReturnEff f) s

/-! ## The teardown as it is adopted (R333) -/

/-- Do rings of a ring id belong to a context (R375)? -/
def ringOf (c ring : Nat) : Bool := ring / 4 = c

/-- Stop a context's own work: every reserved completion slot gets ST_JOB_TORN_DOWN; its scheduled operations, which have none,
release their tags. -/
def State.stopJob (s : State) (c : Nat) : State :=
  let s1 := (s.work.queries.filter fun q => q.2.context = c).foldl (fun s q => s.finishQuery q.1 q.2 0 stJobTornDown []) s
  let s2 := (s1.work.updates.filter fun u => ringOf c u.2.ring).foldl (fun s u => s.finishUpdate u.1 u.2 stJobTornDown 0 0) s1
  let s3 := (s2.work.lookups.filter fun l => ringOf c l.2.ring).foldl (fun s l => s.finishLookup l.1 l.2 stJobTornDown) s2
  let s4 := (s3.work.steps.filter fun t => ringOf c t.ring).foldl (fun s t =>
    s.complete t.ring t.admitAt t.order (stepCompletion { t with notices := [] } stJobTornDown 0))
    { s3 with work := { s3.work with steps := s3.work.steps.filter fun t => !ringOf c t.ring } }
  let s5 := (s4.fab.ops.filter fun o => o.context = c && o.func.isNone).foldl (fun s o => s.completeOp o stJobTornDown 0) s4
  (s5.flash.commands.filter fun k => (SMap.find? s5.queues k.2.queue).any fun q => q.context = c).foldl (fun s k =>
    s.finishCommand k.1 { k.2 with status := stJobTornDown }) s5

/-- Drop the work on a context's objects that this node does for other nodes. -/
def State.dropServed (s : State) (c : Nat) : State :=
  { s with
    work := { s.work with
      searches := s.work.searches.filter fun q => q.2.context ≠ c,
      served := s.work.served.filter fun u => u.2.context ≠ c },
    tables := SMap.mapVals s.tables fun _ x =>
      if x.context = c then { x with steps := x.steps.filter fun t => t.applied } else x }

/-- A context's windows close, and the region entries for them become invalid (R333, R388). -/
def State.closeWindows (s : State) (c : Nat) : State :=
  let gone := (s.fab.windows.filter fun w => w.2.context = c).map (·.1)
  { s with fab := { s.fab with
      windows := s.fab.windows.filter fun w => w.2.context ≠ c,
      regions := s.fab.regions.filter fun r => !gone.contains r.2.window } }

/-- A ring or queue of a torn-down job: it admits nothing more, and this commit window publishes what it holds (R333). -/
def Ring.stop (r : Ring) (stride : Nat) : Ring :=
  { r with stopped := true, written := r.written.map fun w => (min w.1 (stride - 1), w.2) }

/-- R333: tear down a context's job in the commit window. A ring opened later admits as any other (log entry 77). -/
def State.tearDown (s : State) (c : Nat) : State :=
  let stop (r : Ring) : Ring := if r.context = c then r.stop s.stride else r
  let t := ((s.stopJob c).dropServed c).closeWindows c
  { t with
    rings := SMap.mapVals t.rings fun _ r => stop r,
    queues := SMap.mapVals t.queues fun _ r => stop r,
    contexts := SMap.update t.contexts c fun x => { x with tornAt := some s.stride } }

end Sys2Proof.Machine
end

