-- ==== Sys2Proof/Machine/Power.lean ====
section
/-! DEFINITION. Power and pins: what a node keeps without its rails (R24, R402), RESET_N, PWRFAIL_N with the flush of
R284, the protective stops of R436, and the remount's checkpoint and restart (R335). -/

namespace Sys2Proof.Machine

/-! ## What stays on flash -/

/-- A paddock as it stands when the rails go: of each write not wholly programmed, either every unit is new or every unit is
old (R281), which the manual leaves open (log entry 1); after a flush every committed unit is kept (R284). -/
def Paddock.unpowered (p : Paddock) (flushed : Bool) (draws : Nat) : Paddock :=
  let seqs := p.pendingSeqs
  let lost (q : Nat) : Bool :=
    !flushed && (match seqs.findIdx? fun x => x = q with
      | some i => (Config.freeValue (draws + i)).toNat % 2 = 1
      | none => false)
  { p with units := p.units.filterMap fun u =>
      if lost u.2.sequence then
        ((u.2.under.find? fun w => !lost w.sequence).bind fun w =>
          if w.mapped then
            some (u.1, { u.2 with data := w.data, phys := w.phys, buffered := w.buffered, sequence := w.sequence, since := w.since,
                                  group := w.group, deferredBit := false, under := [], single := false })
          else none)
      else if u.2.mapped then some (u.1, { u.2 with under := [] })
      else none }

/-- A channel as it stands: no operation is in progress, its staging buffer is empty, the scan has rebuilt the maps whose changes
were not journalled (R264), and every block that waits for its erase is on the erase list. -/
def FlashChannel.unpowered (c : FlashChannel) : FlashChannel :=
  { c with
    queues := [], done := [], levelling := none, reads := 0, shares := [], staging := [], journal := [],
    waiting := (c.blocks.filter fun b => b.2.st = 5).map fun b => eraseOp b.2.paddock eraseShare b.1 false }

/-- Flash without power: no command is in progress, and a paddock whose deletion was adopted is gone. -/
def Flash.unpowered (x : Flash) (draws : Nat) : Flash :=
  let gone := (x.paddocks.filter fun p => p.2.st = 3).map (·.1)
  { x with
    channels := SMap.mapVals x.channels fun _ c => (gone.foldl (fun c n => c.dropPaddock n) c).unpowered,
    paddocks := (x.paddocks.filter fun p => p.2.st ≠ 3).map fun p => (p.1, p.2.unpowered x.flushed draws),
    commands := [], mirrored := [] }

/-- Free values that the loss draws. -/
def Flash.draws (x : Flash) : Nat := sumNat (x.paddocks.map fun p => p.2.pendingSeqs.length)

/-- An index as paddock 0 keeps it: its versions built, current and retained (R128, R422), and each slot's last
generation, which is kept for the life of the index (R116); HBM's logs are gone (R320). Its residency settings, pins and replica
list stay: that they too are flash contents is the model's choice (DESIGN CHOICE, log entry 105). -/
def Index.unpowered (x : Index) : Index :=
  { x with
    versions := (x.versions.filter fun v => v.st = 2 || v.st = 3 || v.st = 4).map fun v =>
      { v with filled := false, since := bit01 (v.st = 3) },
    delta := [], deltaLists := [], overlays := [], tombs := [], recent := [], reserved := [], pending := [],
    epoch := 0, switch := none, tuple := none, tupleAt := 0, pair := none, pairDue := false, build := none,
    resid := { x.resid with
      hits := [], candidates := [], hot := [], chosen := [], running := [], demoted := [], turn := Residency.reset.turn } }

/-- A table as paddock 0 keeps it. -/
def Table.unpowered (x : Table) : Table :=
  { x with
    versions := (x.versions.filter fun v => v.st = 2 || v.st = 3 || v.st = 4 || v.num = x.base).map fun v =>
      { v with filled := false },
    dirty := [], places := [], barrier := [], committed := ((x.versions.find? fun v => v.num = x.base).map (·.cutStep)).getD 0,
    started := 0, steps := [],
    switch := none, tuple := none, tupleAt := 0, pair := none, pairDue := false, build := none, writes := [],
    resid := { x.resid with
      hits := [], candidates := [], hot := [], chosen := [], running := [], demoted := [], turn := Residency.reset.turn } }

/-- R24: the node without its rails: flash, the boot area and what paddock 0 holds stay. `retained` keeps the security
core's registers, which only the loss of 52 V clears (R402). -/
def State.wiped (s : State) (retained : Bool) : State :=
  { State.reset with
    pending := s.pending, out := s.out, draws := s.draws + s.flash.draws,
    flash := s.flash.unpowered s.draws,
    contexts := SMap.mapVals s.contexts fun _ c => { c with flashKey := none, ddrKey := none, tornAt := none },
    indexes := (s.indexes.filter fun x => x.2.closing.isNone).map fun x => (x.1, x.2.unpowered),
    tables := (s.tables.filter fun x => x.2.closing.isNone).map fun x => (x.1, x.2.unpowered),
    programs := (s.programs.filter fun p => p.2.bound && !p.2.unbound).map fun p => (p.1, { p.2 with window := [], channel := none }),
    node := { Node.reset with
      supply := s.node.supply, resetLow := s.node.resetLow, copies := s.node.copies, record := s.node.record,
      serial := s.node.serial, brand := s.node.brand,
      starts := if retained then s.node.starts else 0, unlocks := if retained then s.node.unlocks else 0,
      unlocked := retained && s.node.unlocked, scope := if retained then s.node.scope else 0 } }

/-- A start begins at stage 1 (R409, R443) where 52 V is present and RESET_N is high. -/
def State.begin (s : State) : State :=
  if s.node.supply ∧ !s.node.resetLow then
    { s with node := { s.node with st := 0, stage := 1, failure := 0, starts := s.node.starts + 1 } }
  else s

/-! ## POWER_ARRIVAL, POWER_REMOVAL, UNDERVOLTAGE -/

/-- POWER_ARRIVAL: 52 V has been in range for 100 ms. -/
def powerArrivalEff (s : State) : State :=
  if s.node.supply then s else ({ s with node := { s.node with supply := true } }).begin

/-- POWER_ARRIVAL (R443) -/
def execPowerArrival (s : State) : Host.Outcome State Fault Refusal := guarded true powerArrivalEff s

/-- POWER_REMOVAL (R24) and UNDERVOLTAGE (R436): every rail is off at once and nothing is flushed; the registers that 52 V
alone keeps clear with it. -/
def powerRemovalEff (s : State) : State :=
  let t := s.wiped false
  { t with node := { t.node with supply := false } }

/-- POWER_REMOVAL -/
def execPowerRemoval (s : State) : Host.Outcome State Fault Refusal := guarded true powerRemovalEff s

/-- UNDERVOLTAGE: the input fell below 44.0 V for 5 µs. -/
def execUndervoltage (s : State) : Host.Outcome State Fault Refusal :=
  guarded true (fun s => if s.node.supply then powerRemovalEff s else s) s

/-! ## RESET_N -/

/-- RESET_N_ASSERT (R443, R444): held off while a flush runs. -/
def resetNAssertEff (s : State) : State :=
  let t := { s with node := { s.node with resetLow := true } }
  if s.node.flushing then { t with node := { t.node with resetHeld := true } } else t.wiped true

/-- RESET_N_ASSERT -/
def execResetNAssert (s : State) : Host.Outcome State Fault Refusal := guarded true resetNAssertEff s

/-- RESET_N_RELEASE: a new start, unless the reset itself still waits for a flush. -/
def resetNReleaseEff (s : State) : State :=
  if !s.node.resetLow then s
  else
    let t := { s with node := { s.node with resetLow := false } }
    if s.node.resetHeld then t else t.begin

/-- RESET_N_RELEASE -/
def execResetNRelease (s : State) : Host.Outcome State Fault Refusal := guarded true resetNReleaseEff s

/-! ## PWRFAIL_N and the flush (R284, R444) -/

/-- A stopped node: it does nothing more until RESET_N or the loss of 52 V (R284, R410, R436). -/
def State.halt (s : State) (st : Nat) : State :=
  { s with node := { s.node with st := st, stopped := true }, memb := { s.memb with beating := false } }

/-- R284: stop, abandon the erases in progress, and let the flush run. -/
def State.startFlush (s : State) (st : Nat) : State :=
  let t := s.halt st
  { t with
    node := { t.node with flushing := true },
    flash := { t.flash with channels := SMap.mapVals t.flash.channels fun _ c =>
      let erases := c.queues.flatMap fun q => q.2.filter fun o => o.kind = 2
      { c with queues := SMap.mapVals c.queues fun _ q => q.filter fun o => o.kind ≠ 2, waiting := erases ++ c.waiting } } }

/-- Has the node reached the ready state in this start, so that something may be committed (R424)? -/
def State.hasRun (s : State) : Bool := s.node.st = 1 || s.node.st = 2 || s.node.st = 4

/-- PWRFAIL_N_ASSERT: no effect while RESET_N is low; before the ready state nothing is flushed (R424). -/
def pwrfailNAssertEff (s : State) : State :=
  if !s.node.supply || s.node.resetLow || s.node.flushing || s.node.stopped || s.node.st = 6 then s
  else if s.hasRun then s.startFlush 5
  else s.halt 5

/-- PWRFAIL_N_ASSERT -/
def execPwrfailNAssert (s : State) : Host.Outcome State Fault Refusal := guarded true pwrfailNAssertEff s

/-- POWER_FAIL_FLUSH_END: every committed unit stands in the flush region with the last stride (R284, R418); a reset that
waited takes effect. -/
def powerFailFlushEndEff (s : State) : State :=
  if !s.node.flushing then s
  else
    let t := { s with
      node := { s.node with flushing := false },
      flash := { s.flash with flushed := true, lastStride := s.stride } }
    if s.node.resetHeld then (t.wiped true).begin else t

/-- POWER_FAIL_FLUSH_END -/
def execPowerFailFlushEnd (s : State) : Host.Outcome State Fault Refusal := guarded true powerFailFlushEndEff s

/-- STRIDE_OUT at a cycle of the stride: high for the first 100 ns, low before the node has joined and while it is stopped
(R448). -/
def State.strideOut (s : State) (cycle : Nat) : Bool := s.node.joined && !s.node.stopped && decide (cycle < 250)

/-! ## JUNCTION_SAMPLE (R428, R436) -/

/-- 105 °C, the upper critical threshold of a junction sensor, and 115 °C, in eighths. -/
abbrev hotJunction : Int := 840
/-- The trip. -/
abbrev tripJunction : Int := 920

/-- Raise the event of each sensor that crosses 105 °C upward. -/
def State.crossings (s : State) (now : List Int) : State :=
  (List.range now.length).foldl (fun s i =>
    if hotJunction < now.getD i 0 ∧ s.node.samples.getD i 0 ≤ hotJunction then s.pldm pldmJunction i s.stride else s) s

/-- The highest of the stride's readings: west die, east die, hottest base die; NAND is sampled apart. -/
def mergeTemps (t : List Int) (now : List Int) : List Int :=
  [max (t.getD 0 0) (now.getD 0 0), max (t.getD 1 0) (now.getD 1 0), max (t.getD 2 0) (hottest (now.drop 2)), t.getD 3 0]

/-- R436: the junction trip. A trip during a flush lets it run on (R437). -/
def State.trip (s : State) : State :=
  let t := { s with node := { s.node with
    alert := true, record := { s.node.record with trip := some (1, s.stride) } } }
  let t1 := if s.node.flushing then t else if s.hasRun then t.startFlush 5 else t.halt 5
  ({ t1 with node := { t1.node with st := 5 } }).pldm pldmStop 1 s.stride

/-- JUNCTION_SAMPLE: the west die, the east die, then the base dies of stacks 0 to 7. -/
def junctionSampleEff (now : List Int) (s : State) : State :=
  if !s.node.railsOn then s
  else
    let hot := (List.range now.length).any fun i => tripJunction ≤ now.getD i 0 && tripJunction ≤ s.node.samples.getD i 0
    let s1 := s.crossings now
    let s2 := { s1 with
      node := { s1.node with samples := now },
      tel := { s1.tel with node := { s1.tel.node with temps := mergeTemps s1.tel.node.temps now } } }
    if hot && !s.node.alert then s2.trip else s2

/-- JUNCTION_SAMPLE: ten sensors (R436). -/
def execJunctionSample (eighths : List Int) (s : State) : Host.Outcome State Fault Refusal :=
  guarded (decide (eighths.length = 10)) (junctionSampleEff eighths) s

/-! ## The remount (R335) -/

/-- What a checkpoint holds of the state that HBM alone holds. -/
def State.takeCheckpoint (s : State) : Checkpoint :=
  { indexes := s.indexes.map fun x =>
      { index := x.1, delta := x.2.delta, lists := x.2.deltaLists, overlays := x.2.overlays, tombs := x.2.tombs,
        recent := x.2.recent, lastGen := x.2.lastGen },
    tables := s.tables.map fun x => { table := x.1, dirty := x.2.dirty, committed := x.2.committed } }

/-- The bytes that a checkpoint digest covers, whose order the manual does not print (R335). -/
def Checkpoint.bytes (c : Checkpoint) : Bytes :=
  Config.arrange ((c.indexes.flatMap fun x =>
    toLe 4 x.index ++ (x.delta.flatMap fun r => toLe 2 r.shard ++ toLe 6 (locator r.slot r.gen) ++ r.head ++ r.codes ++
        r.record ++ toLe 8 r.commit) ++
      (x.lists.flatMap fun l => toLe 2 l.shard ++ toLe 6 l.slot ++ adjacencyRecord 0 l.targets) ++
      (x.overlays.flatMap fun o => toLe 2 o.shard ++ toLe 6 o.slot ++ toLe 6 (locator o.target o.gen) ++ toLe 8 o.commit) ++
      ((x.tombs ++ x.recent).flatMap fun t => toLe 2 t.shard ++ toLe 6 (locator t.slot t.gen) ++ toLe 8 t.commit)) ++
    c.tables.flatMap fun x =>
      toLe 4 x.table ++ toLe 8 x.committed ++ x.dirty.flatMap fun r => toLe 6 r.id ++ r.row ++ r.state ++ toLe 8 r.applied)

/-- Mark of a checkpoint digest on class 1 (log entry 24). -/
abbrev markCheckpoint : Nat := 12

/-- REMOUNT_CHECKPOINT: at R + Lmax the checkpoint goes to paddock 0, with the last stride, and the members exchange its
digest. -/
def remountCheckpointEff (s : State) : State :=
  match s.clk.remounting with
  | none => s
  | some (r, lmax) =>
    if !s.running ∨ s.clk.checkpointed ∨ s.stride < r + lmax then s
    else
      let c := s.takeCheckpoint
      let t := { s with
        clk := { s.clk with checkpointed := true },
        flash := { s.flash with checkpoint := some c, lastStride := s.stride } }
      if s.isFenced s.partner then t
      else t.send 1 s.partner (toLe 4 markCheckpoint ++ zeros 4 ++ toLe 8 s.stride ++ toLe 8 (digest64 c.bytes))

/-- REMOUNT_CHECKPOINT -/
def execRemountCheckpoint (s : State) : Host.Outcome State Fault Refusal := guarded true remountCheckpointEff s

/-- REMOUNT_RESTART: the remount record takes the remount id, the new stride code and the route image to use (R299), and
the node restarts as on RESET_N. -/
def remountRestartEff (s : State) : State :=
  if !s.clk.checkpointed ∨ !s.running then s
  else
    let (id, code) := match s.clk.armed with
      | some (_, c, i) => (i, c)
      | none => (0, s.clk.code)
    let s1 := { s with
      flash := { s.flash with flushed := true },
      node := { s.node with record := { s.node.record with
        remount := some (id, code, s.fab.heldImage.getD s.fab.image) } } }
    (s1.wiped true).begin

/-- REMOUNT_RESTART -/
def execRemountRestart (s : State) : Host.Outcome State Fault Refusal := guarded true remountRestartEff s

end Sys2Proof.Machine
end

