-- ==== Sys2Proof/Machine/Trust.lean ====
section
/-! DEFINITION. Trust messages, in band and over MCTP: attestation, the brand record, firmware update, debug unlock and
IDE keys (19_trust_identity.md). -/

namespace Sys2Proof.Machine

/-! ## TRUST_ATTEST (R402) -/

/-- Measurement `i`, zeros where none is taken yet. -/
def State.measure (s : State) (i : Nat) : Bytes := fit 48 (s.node.measures.getD i [])

/-- Bytes 0 to 751 of a report. -/
def State.reportBody (s : State) (nonce : Bytes) (management : Bool) : Bytes :=
  toLe 2 1 ++ toLe 2 (bit01 s.node.unlocked + 2 * bit01 s.node.copyB + 4 * bit01 management + 8 * bit01 s.node.remountStart) ++
    toLe 4 s.node.version ++ toLe 8 (if s.node.joined then s.stride else 0) ++ toLe 4 s.node.starts ++ toLe 4 s.node.unlocks ++
    toLe 2 (if s.node.tack.isSome then s.node.id else 0xFFFF) ++ zeros 6 ++ fit 48 nonce ++
    ((List.range 7).flatMap s.measure) ++ fit 336 s.node.brand

/-- A signed report. -/
def State.attestation (s : State) (nonce : Bytes) (management : Bool) : Bytes :=
  let body := s.reportBody nonce management
  body ++ ecdsaSign (deviceScalar s.node.secret) body

/-- TRUST_ATTEST (R402) -/
def trustAttestEff (f : Nat) (s : State) : State :=
  s.serve f 0x0801 fun s q => report s (s.attestation (q.payload.take 48) false)

/-- TRUST_ATTEST -/
def execTrustAttest (f : Nat) (s : State) : Host.Outcome State Fault Refusal := guarded (funcOk f) (trustAttestEff f) s

/-- TRUST_BRAND_RECORD (R401) -/
def trustBrandRecordEff (f : Nat) (s : State) : State := s.serve f 0x0802 fun s _ => report s (fit 336 s.node.brand)

/-- TRUST_BRAND_RECORD -/
def execTrustBrandRecord (f : Nat) (s : State) : Host.Outcome State Fault Refusal :=
  guarded (funcOk f) (trustBrandRecordEff f) s

/-! ## TRUST_FW_UPDATE (R404, R405) -/

/-- The copy record at the head of a copy (R396). -/
def FwCopy.record (c : FwCopy) : Bytes := toLe 8 c.sequence ++ toLe 4 c.length ++ fit 48 c.digest ++ zeros 4

/-- Does the firmware key's signature over an image verify (R396)? -/
def fwSigned (b : Bytes) : Bool := ecdsaVerifies (romKey 0) (b.take (b.length - 96)) (b.drop (b.length - 96))

/-- Is the header of an image as R396 has it: magic, format, part, its own length of at most 7 MiB, and four stages in it on 64-byte
boundaries, none longer than allowed? -/
def fwWellMade (b : Bytes) : Bool :=
  decide (le b 0 4 = 0x4D52_4946 ∧ le b 4 2 = 1 ∧ le b 6 2 = 0x7200 ∧ le b 12 4 = b.length ∧ b.length ≤ 7 * 2 ^ 20) &&
    (List.range 4).all fun i =>
      decide ((fwStage b i).1 % 64 = 0 ∧ (fwStage b i).2 ≤ fwLimits.getD i 0 ∧ (fwStage b i).1 + (fwStage b i).2 ≤ b.length)

/-- Does a copy verify: the digest of its record is that of its image, and the image is signed and well made (R396, log entry
113)? -/
def FwCopy.verifies (c : FwCopy) : Bool :=
  decide (c.digest = sha384 c.image ∧ c.length = c.image.length) && fwSigned c.image && fwWellMade c.image

/-- R404: the status of an image fetched, where the payload's flag allows an older version or not. -/
def State.fwStatus (s : State) (b : Bytes) (older : Bool) : Nat :=
  if !fwSigned b then stAuthFailed
  else if !fwWellMade b ∨ (le b 8 4 < s.node.version ∧ !older) then stBadValue
  else stOk

/-- Is an update's reply still to be posted? -/
def State.fwOutstanding (s : State) : Bool :=
  s.node.update.isSome || (s.mailbox 0).replies.any fun r => r.opcode = 0x0803 && r.status = stOk

/-- A copy whose blocks are erased: nothing of it verifies until its record is written (R405). -/
def FwCopy.erased : FwCopy := { sequence := 0, length := 0, digest := [], image := [] }

/-- TRUST_FW_UPDATE on the image its DMA brings: it goes to the copy that is not running, its copy record last; the reply waits for
that. -/
def trustFwUpdateEff (f : Nat) (image : Bytes) (s : State) : State :=
  if !s.dmaOk f && (s.headRequest f 0x0803).any (fun q => q.field 8 8 % 64 = 0) then s
  else s.serve f 0x0803 fun s q =>
    let b := image.take (q.field 4 4)
    let st := s.fwStatus b (bitOf (q.field 1 1) 0)
    if q.field 8 8 % 64 ≠ 0 then refuse s stBadValue
    else if s.fwOutstanding then refuse s stNoResource
    else if st ≠ stOk then refuse s st
    else
      let t := { s with node := { s.node with
        update := some (!s.node.copyB, b),
        copies := if s.node.copyB then (.erased, s.node.copies.2) else (s.node.copies.1, .erased) } }
      (defer (t.bootWrite (if s.node.copyB then 0 else 16) (64 + b.length)) .firmwareWritten q unstamped, none)

/-- TRUST_FW_UPDATE -/
def execTrustFwUpdate (f : Nat) (image : Bytes) (s : State) : Host.Outcome State Fault Refusal :=
  guarded (funcOk f) (trustFwUpdateEff f image) s

/-! ## TRUST_DEBUG_CHALLENGE, TRUST_DEBUG_UNLOCK (R406, R407) -/

/-- TRUST_DEBUG_CHALLENGE: operation 0, a fresh challenge that replaces one outstanding. -/
def trustDebugChallengeEff (f : Nat) (s : State) : State :=
  if (s.headRequest f 0x0804).any fun q => byteAt q.payload 0 ≠ 0 then s
  else s.serve f 0x0804 fun s _ =>
    let c := s.drawnBytes 48
    report { s.drawN 48 with node := { s.node with challenge := some c } } c

/-- TRUST_DEBUG_CHALLENGE -/
def execTrustDebugChallenge (f : Nat) (s : State) : Host.Outcome State Fault Refusal :=
  guarded (funcOk f) (trustDebugChallengeEff f) s

/-- Does an unlock's token verify, over the package serial, the challenge and the scope? -/
def State.tokenOk (s : State) (b : Bytes) : Bool :=
  s.node.challenge = some ((b.drop 16).take 48) &&
    ecdsaVerifies (romKey 3) (toLe 8 s.node.serial ++ (b.drop 16).take 48 ++ (b.drop 8).take 8) ((b.drop 64).take 96)

/-- TRUST_DEBUG_UNLOCK: operation 1. The challenge is spent. -/
def trustDebugUnlockEff (f : Nat) (s : State) : State :=
  if (s.headRequest f 0x0804).any fun q => byteAt q.payload 0 = 0 then s
  else s.serve f 0x0804 fun s q =>
    let t := { s with node := { s.node with challenge := none } }
    if byteAt q.payload 0 ≠ 1 then refuse t stBadValue
    else if !s.tokenOk q.payload then refuse t stAuthFailed
    else if 9 ≤ s.node.stage then refuse t stNotUntilRemount
    else
      report { t with node := { t.node with
        unlocked := true, unlocks := t.node.unlocks + 1, scope := Nat.lor t.node.scope (bitsOf (le q.payload 8 8) 0 2) } } []

/-- TRUST_DEBUG_UNLOCK -/
def execTrustDebugUnlock (f : Nat) (s : State) : Host.Outcome State Fault Refusal :=
  guarded (funcOk f) (trustDebugUnlockEff f) s

/-! ## TRUST_IDE_KEY (R408) -/

/-- Do two keys take the same place? -/
def IdeKey.same (a b : IdeKey) : Bool := a.stream = b.stream && a.direction = b.direction && a.set = b.set && a.sub = b.sub

/-- Install a key in its place; a stream is secure again once a key set of it holds all six of its keys. -/
def Link.install (l : Link) (k : IdeKey) : Link :=
  let keys := (l.keys.filter fun x => !x.same k) ++ [k]
  let whole := (List.range 2).all fun d => (List.range 3).all fun sub => keys.any fun x => x.same { k with direction := d, sub := sub }
  { l with keys := keys, insecure := if whole then l.insecure.filter fun n => n ≠ k.stream else l.insecure }

/-- The stream key that a request's host key and wrapped key give: unwrapped under a key derived from the point that the host's key
shares with the device key; none where the host's point is not on the curve or the wrap does not check (R408). -/
def State.ideKey (s : State) (host wrapped : Bytes) : Option Bytes :=
  let x := le host 0 48
  let y := le host 48 48
  if !onCurve x y then none
  else (pointMul 384 (deviceScalar s.node.secret) (some (x, y))).bind fun p =>
    keyUnwrap ((hkdf384 (toLe 8 s.node.serial) (toLe 48 p.1) "DJH IDE").take 32) (fit 40 wrapped)

/-- TRUST_IDE_KEY (R408) -/
def trustIdeKeyEff (f : Nat) (s : State) : State :=
  s.serve f 0x0805 fun s q =>
    let b := q.payload
    let link := byteAt b 0
    if !s.hasLink link ∨ 8 < byteAt b 1 ∨ 1 < byteAt b 2 ∨ 1 < byteAt b 3 ∨ 2 < byteAt b 4 then refuse s stBadValue
    else
      match s.ideKey ((b.drop 8).take 96) ((b.drop 104).take 40) with
      | none => refuse s stBadCheck
      | some key =>
        report (s.modLink link fun l => l.install
          { stream := byteAt b 1, direction := byteAt b 2, set := byteAt b 3, sub := byteAt b 4, key := key }) []

/-- TRUST_IDE_KEY -/
def execTrustIdeKey (f : Nat) (s : State) : Host.Outcome State Fault Refusal := guarded (funcOk f) (trustIdeKeyEff f) s

/-! ## Vendor commands 0x01 to 0x03 over MCTP (R403) -/

/-- MCTP_ATTESTATION: the security core answers the management plane's queue. -/
def execMctpAttestation (payload : Bytes) (s : State) : Host.Outcome State Fault Refusal :=
  guarded true (fun s => s.mctpReply (s.attestation (payload.take 48) true)) s

/-- MCTP_BRAND_RECORD -/
def execMctpBrandRecord (s : State) : Host.Outcome State Fault Refusal :=
  guarded true (fun s => s.mctpReply (fit 336 s.node.brand)) s

/-- MCTP_FIRMWARE_VERSION -/
def execMctpFirmwareVersion (s : State) : Host.Outcome State Fault Refusal :=
  guarded true (fun s => s.mctpReply (toLe 4 s.node.version ++ fit 48 s.node.digest)) s

end Sys2Proof.Machine
end

