-- ==== Sys2Proof/Machine/Startup.lean ====
section
/-! DEFINITION. The nine stages of a start: rails, measured firmware, the tack image, unit tests, the flash scan, ports, the
join, the service gait, and the restore of state with the fill of versions (20_startup.md, R394 to R400). -/

namespace Sys2Proof.Machine

/-! ## Stages and failure (R409, R410) -/

/-- Is the start in a stage? -/
def State.inStage (s : State) (n : Nat) : Bool := s.node.supply && s.node.st = 0 && s.node.stage = n && !s.node.stopped

/-- Enter a stage. -/
def State.enter (s : State) (n : Nat) : State := { s with node := { s.node with stage := n } }

/-- R410, R445: the start fails: STATE 6, the code, ALERT_N, a PLDM event if the management core runs, and no more work. -/
def State.fail (s : State) (code : Nat) : State :=
  let t := s.halt 6
  let t1 := { t with node := { t.node with failure := code, alert := true } }
  if s.node.served then t1.pldm pldmStartFailed code s.stride else t1

/-- STAGE_TIMEOUT: a stage that exceeds its bound. -/
def stageTimeoutEff (s : State) : State :=
  if s.node.supply && s.node.st = 0 && !s.node.stopped && decide (1 ≤ s.node.stage ∧ s.node.stage ≤ 9) then
    s.fail (256 * s.node.stage + 0xFF)
  else s

/-- STAGE_TIMEOUT -/
def execStageTimeout (s : State) : Host.Outcome State Fault Refusal := guarded true stageTimeoutEff s

/-! ## Stage 1 (R412) -/

/-- RAILS_IN_REGULATION: stage 1 ends, or fails. -/
def railsInRegulationEff (failure : Nat) (s : State) : State :=
  if !s.inStage 1 then s
  else if failure ≠ 0 then s.fail failure
  else ({ s with node := { s.node with railsOn := true } }).enter 2

/-- RAILS_IN_REGULATION: 0, or the failure code of stage 1 (R410). -/
def execRailsInRegulation (failure : Nat) (s : State) : Host.Outcome State Fault Refusal :=
  guarded (decide (failure = 0 ∨ failure = 0x0101 ∨ failure = 0x0102)) (railsInRegulationEff failure) s

/-! ## Stage 2 (R395 to R398, R412) -/

/-- The copy that the ROM uses: the one of the higher sequence number that verifies, else the other (R396); B? -/
def State.chosenCopy (s : State) : Option Bool :=
  let (a, b) := s.node.copies
  if a.sequence < b.sequence ∧ b.verifies = true then some true
  else if a.verifies then some false
  else if b.verifies then some true
  else none

/-- Is the public key that a device secret gives the one in the brand record (R395, R401)? -/
def State.keyAgrees (s : State) (secret : Bytes) : Bool := publicKey (deviceScalar secret) = ((fit 336 s.node.brand).drop 136).take 96

/-- Is the brand record signed with the identity authority key (R394, R401)? -/
def State.brandVerifies (s : State) : Bool :=
  ecdsaVerifies (romKey 2) ((fit 336 s.node.brand).take 240) ((fit 336 s.node.brand).drop 240)

/-- FIRMWARE_MEASURED_START: the security core derives its keys from the secret that its circuit gives; measurement 0 is the
ROM's, and 1 to 4 are of the stages of the copy that runs, which the firmware digest covers (R395 to R398). MCTP is served
from here, and the tack image is asked for (R413). -/
def firmwareMeasuredStartEff (secret : Bytes) (s : State) : State :=
  if !s.inStage 2 then s
  else if !s.keyAgrees secret then s.fail 0x0202
  else if !s.brandVerifies then s.fail 0x0203
  else
    match s.chosenCopy with
    | none => s.fail 0x0201
    | some b =>
      let image := (if b then s.node.copies.2 else s.node.copies.1).image
      let t := { s with node := { s.node with
        secret := secret, measures := (List.range 48).map Config.romMeasureByte :: fwStages image, copyB := b,
        version := le image 8 4, digest := fwDigest image, served := true, challenge := none,
        remountStart := s.node.record.remount.isSome } }
      (t.enter 3).pldm pldmTack 0 0

/-- FIRMWARE_MEASURED_START -/
def execFirmwareMeasuredStart (secret : Bytes) (s : State) : Host.Outcome State Fault Refusal :=
  guarded true (firmwareMeasuredStartEff secret) s

/-! ## Stage 3: the tack image (R399, R400, R413) -/

/-- The options of an image, (id, value) each, from the bytes after the header; none where they do not fill them. -/
def tackOptions : Nat → Bytes → Option (List (Nat × Bytes))
  | 0, b => if b.isEmpty then some [] else none
  | fuel + 1, b =>
    let len := le b 2 2
    let size := 4 + roundUp len 8
    if b.length < size then none
    else (tackOptions fuel (b.drop size)).map fun l => (le b 0 2, (b.drop 4).take len) :: l

/-- The size of an option, 0 for an id that is not known. -/
def optionSize (id : Nat) : Nat :=
  match id with
  | 1 => 2
  | 2 => 1
  | 3 => 1
  | 4 => 1
  | 5 => 10304
  | 6 => 2
  | 7 => 3
  | 8 => 80
  | _ => 0

/-- The tack image as its options give it, where every option is known, of its size, single and in range, and the required
ones are there (R400). -/
def tackOf (herd : Nat) (l : List (Nat × Bytes)) : Option Tack :=
  let ids := l.map (·.1)
  let get (id : Nat) : Option Bytes := (l.find? fun o => o.1 = id).map (·.2)
  let num (id d : Nat) : Nat := ((get id).map leNat).getD d
  let th : List Nat := match get 7 with
    | some b => b.map fun x => x.toNat
    | none => [70, 85, 95]
  let t : Tack :=
    { herd := herd, node := num 1 0, code := num 2 0, linkMode := num 3 0, strideIn := num 4 0 = 1, route := (get 5).getD [],
      wearLimit := num 6 500, thresholds := th, limits := ((get 8).getD []).map fun x => x.toNat }
  if (l.any fun o => optionSize o.1 = 0 || o.2.length ≠ optionSize o.1) || (dedupNat ids).length ≠ ids.length ||
      !([1, 2, 5].all fun i => ids.contains i) || 20479 < t.node || t.code = 0 || 3 < t.code || 1 < t.linkMode || 1 < num 4 0 ||
      t.wearLimit < 100 || 4000 < t.wearLimit || !rising th || routeStatus t.route 10304 t.node ≠ stOk then none
  else some t

/-- R400: the tack image that the ROM accepts, or none. -/
def parseTack (b : Bytes) : Option Tack :=
  let herd := le b 8 8
  let scope := le b 128 8
  if b.length < 352 ∨ le b 0 4 ≠ 0x4B43_4154 ∨ le b 4 2 ≠ 1 ∨ le b 6 2 ≠ 0x7200 ∨ herd = 0 ∨ le b 16 4 ≠ b.length then none
  else if !ecdsaVerifies (romKey 1) ((b.drop 32).take 112) ((b.drop 144).take 96) || (scope ≠ 0 && scope ≠ herd) ||
      !ecdsaVerifies ((b.drop 32).take 96) (b.take (b.length - 96)) (b.drop (b.length - 96)) then none
  else (tackOptions (le b 20 4) ((b.drop 256).take (b.length - 352))).bind (tackOf herd)

/-- TACK_IMAGE_RECEIVE: the first complete image; where the controller sends none, an empty one, the start fails with the code
that the table gives for it (R410, log entry 113). At a remount the record's stride code and route image stand in for the
image's. -/
def tackImageReceiveEff (b : Bytes) (s : State) : State :=
  if !s.inStage 3 then s
  else if b.isEmpty then s.fail 0x0301
  else
    match parseTack b with
    | none => s.fail 0x0302
    | some t =>
      let (code, route) := match s.node.record.remount with
        | some (_, c, image) => (c, image)
        | none => (t.code, t.route)
      let s1 := { s with
        clk := { s.clk with code := code },
        node := { s.node with
          tack := some { t with code := code, route := route }, id := t.node,
          measures := s.node.measures.take 5 ++ [sha384 b, sha384 ((b.drop 32).take 96)] } }
      let s2 := s1.adoptRoute route
      ({ s2 with fab := { s2.fab with strideIn := t.strideIn } }).enter 4

/-- TACK_IMAGE_RECEIVE -/
def execTackImageReceive (image : Bytes) (s : State) : Host.Outcome State Fault Refusal :=
  guarded true (tackImageReceiveEff image) s

/-! ## Stages 4 and 6: units (R414, R415, R432) -/

/-- The stage that tests a kind of unit. -/
def stageOfKind (kind : Nat) : Nat := if kind = 0x09 then 5 else if kind = 0x10 then 6 else 4

/-- Settle the tests of a stage: a unit that failed is retired; one on the test list that passed leaves both lists, one
that failed leaves the test list. Lanes are out of service for the remount only. -/
def State.settleUnits (s : State) (stage : Nat) (failed : List (Nat × Nat)) : State :=
  let r := s.node.record
  let mine := r.testList.filter fun u => stageOfKind u.1 = stage
  let passed := mine.filter fun u => !failed.contains u
  let out := failed.filter fun u => u.1 ≠ 0x10 && !r.retired.contains u
  { s with node := { s.node with
      record := { r with
        testList := r.testList.filter fun u => !mine.contains u,
        retired := (r.retired.filter fun u => !passed.contains u) ++ out },
      retiring := s.node.retiring + out.length } }

/-- R414, R432: lanes that failed or stay below floor are out of service for the remount, and with its last lane a port. -/
def State.dropLanes (s : State) (lost : List (Nat × Nat)) : State :=
  { s with fab := { s.fab with ports := s.fab.ports.mapIdx fun n p =>
      let lanes := BitVec.ofNat 4 (sumNat ((List.range 4).map fun l =>
        if bitOf p.lanes.toNat l && !lost.contains (0x10, 4 * n + l) then 2 ^ l else 0))
      { p with lanes := lanes, st := if lanes = 0 ∧ p.st = 2 then 3 else p.st } } }

/-- Supported DDR modules in GB (R205). -/
def modules : List Nat := [64, 96, 128, 192, 256]

/-- The bits of `n` units of a kind that are not retired. -/
def State.inService (s : State) (kind n : Nat) : Nat :=
  sumNat ((List.range n).map fun i => if s.node.record.retired.contains (kind, i) then 0 else 2 ^ i)

/-- The admitted set after stage 4: every unit that is not retired; all 8 stacks; lanes come with their ports (R52). -/
def State.admitUnits (s : State) (lanes : BitVec 36) : State :=
  { s with gaits := { s.gaits with admitted :=
      { tiles := BitVec.ofNat 96 (s.inService 0x01 96), nmus := BitVec.ofNat 512 (s.inService 0x02 512),
        sorts := BitVec.ofNat 16 (s.inService 0x03 16), travs := BitVec.ofNat 16 (s.inService 0x04 16),
        flash := 0xFFFF_FFFF, lanes := lanes, ddr := BitVec.ofNat 12 (s.inService 0x07 12), hbmStacks := 0xFF } } }

/-- The lanes in service of the ports. -/
def State.portLanes (s : State) : BitVec 36 :=
  BitVec.ofNat 36 (sumNat ((List.range 9).map fun p => if (s.port p).st = 2 then (s.port p).lanes.toNat * 16 ^ p else 0))

/-- An off node whose span port is not in service (R410). -/
def State.spanMissing (s : State) : Bool := !s.isNear && (s.port 8).st ≠ 2

/-- The join record of this node (R418). -/
def State.joinRecord (s : State) : Bytes :=
  toLe 1 5 ++ zeros 1 ++ toLe 2 s.me ++ zeros 4 ++ toLe 8 ((s.node.tack.map (·.herd)).getD 0) ++ toLe 8 s.flash.lastStride ++
    toLe 8 s.node.serial ++ zeros 32

/-- Send a join record toward the parents (R418). -/
def State.toParents (s : State) (b : Bytes) : State :=
  ((dedupNat [s.primaryPort, s.fab.backup]).filter fun p => (s.port p).st = 2 && p < 9).foldl (fun s p => s.sendPort 0 p b) s

/-- Stage 7 is entered: the remount record is used up, and the join record goes out; the root and its off node hold their
own. -/
def State.enterJoin (s : State) : State :=
  let t := { s with node := { s.node with
    record := { s.node.record with remount := none }, joins := [(s.me, s.flash.lastStride, s.node.serial)] } }
  (t.enter 7).toParents t.joinRecord

/-- UNIT_TRAINING of stage 4, 5 or 6: tests, retirements and the farrier's re-plan. The scan ends stage 5. -/
def unitTrainingEff (stage : Nat) (r : UnitReport) (s : State) : State :=
  if !s.inStage stage then s
  else if stage = 4 ∧ (r.stackFailed ∨ (r.domains.any fun d => (planBelow d).any fun u => u.1 = 0) = true) then s.fail 0x0401
  else if stage = 4 ∧ !modules.contains r.module then s.fail 0x0402
  else
    let s1 := r.domains.foldl State.replan (s.settleUnits stage r.failed)
    if stage = 4 then
      let s2 := s1.admitUnits 0
      ({ s2 with mem := { s2.mem with
          ddrModule := r.module * 2 ^ 30, ddrChannels := (bitList 12 s2.gaits.admitted.ddr.toNat).length } }).enter 5
    else if stage = 6 then
      let s0 := s1.dropLanes (r.failed ++ r.domains.flatMap planBelow)
      let s2 := s0.admitUnits s0.portLanes
      if !(s2.portsInService.any fun p => (s2.port p).role = 1) then s2.fail 0x0601
      else if s2.spanMissing then s2.fail 0x0602
      else s2.enterJoin
    else s1

/-- UNIT_TRAINING -/
def execUnitTraining (stage : Nat) (report : UnitReport) (s : State) : Host.Outcome State Fault Refusal :=
  guarded (decide (4 ≤ stage ∧ stage ≤ 6)) (unitTrainingEff stage report) s

/-! ## Stage 5: the flash scan (R257, R267, R416) -/

/-- Carry out a page program at once, as the scan does. -/
def State.programNow (ch : Nat) (s : State) (o : ArrayOp) : State :=
  match (s.targetList ch).findSome? fun t => (s.channel ch).place s.flash.dieBlocks o.paddock t with
  | none => s
  | some (key, c1) =>
    let page := (c1.block key).pages
    let c2 := c1.modBlock key fun b => { b with pages := page + 1, st := if page + 1 = 1024 then 2 else b.st }
    (s.modChannel ch fun _ => c2).pageGood ch { o with block := key, page := page }

/-- Program a page of a paddock. -/
def State.programPage (ch pad : Nat) (s : State) (units : List (Nat × PastWrite)) : State :=
  s.programNow ch (pageOp pad 0 (units.map fun u => (u.1, u.2.sequence)) false 0)

/-- Cut a list into groups of four. -/
def fours {α : Type} : Nat → List α → List (List α)
  | 0, _ => []
  | fuel + 1, l => if l.isEmpty then [] else l.take 4 :: fours fuel (l.drop 4)

/-- Program a paddock's buffered units of one channel. -/
def State.programUnits (pad : Nat) (s : State) (ch : Nat) : State :=
  let l := s.unpaged pad ch
  (fours l.length l).foldl (State.programPage ch pad) s

/-- R416 step 1: program back the flush region. -/
def State.programBack (s : State) : State :=
  let t := (s.flash.paddocks.map (·.1)).foldl (fun s pad => (List.range 32).foldl (State.programUnits pad) s) s
  { t with flash := { t.flash with flushed := false } }

/-- The moves that wait on a channel are made at once. -/
def State.movesNow (s : State) (ch : Nat) : State :=
  let moves := (s.channel ch).waiting.filter (·.move)
  moves.foldl (State.programNow ch) (s.modChannel ch fun c => { c with waiting := c.waiting.filter fun o => !o.move })

/-- R267: the blocks of a die retired in this stage are replaced, and their valid data moves during the scan. -/
def State.retireDie (s : State) (u : Nat × Nat) : State :=
  if u.1 ≠ 0x09 then s
  else
    let ch := u.2 / 8
    (((s.channel ch).blocks.filter fun b =>
      b.1 / 2 ^ 16 = u.2 % 8 && (b.2.st = 1 || b.2.st = 2 || b.2.st = 4)).foldl (fun s b => s.retireBlock ch b.1) s).movesNow ch

/-- The ports in use train together from the start of stage 6 (R294, R417). -/
def State.enterTraining (s : State) : State :=
  let t := s.enter 6
  { t with fab := { t.fab with ports := t.fab.ports.map fun p => if p.role = 0 then p else { p with st := 1 } } }

/-- FLASH_SCAN: the population is R257's; the maps are rebuilt; a paddock whose map is lost is read-only. Read-only mode,
recorded on flash, stands. -/
def flashScanEff (r : ScanReport) (s : State) : State :=
  if !s.inStage 5 then s
  else if r.targets = 0 ∨ 8 < r.targets ∨ (r.dieBlocks ≠ 8192 ∧ r.dieBlocks ≠ 16384) ∨ r.endurance < 10000 then s.fail 0x0501
  else if r.mapsLost then s.fail 0x0502
  else
    let s1 := { s with flash := { s.flash with targets := r.targets, dieBlocks := r.dieBlocks, endurance := r.endurance } }
    let s2 := s1.node.record.retired.foldl State.retireDie s1.programBack
    let s3 := r.lostPaddocks.foldl (fun s n => s.modPaddock n fun p => { p with st := 2 }) s2
    s3.enterTraining

/-- FLASH_SCAN -/
def execFlashScan (report : ScanReport) (s : State) : Host.Outcome State Fault Refusal := guarded true (flashScanEff report) s

/-! ## Stage 6: ports (R294, R295, R417) -/

/-- Twice the one-way delay of each round trip, `(t4 − t1) − (t3 − t2)`, in ascending order (R295). -/
def roundTrips (r : PortReport) : List Int :=
  sortBy (fun (a b : Int) => decide (a < b)) (r.trips.map fun t => ((t.2.2.2 : Int) - t.1) - ((t.2.2.1 : Int) - t.2.1))

/-- The median of the one-way delays: of 1,024 the mean of the two in the middle, in whole units (R295, log entry 107). -/
def measuredDelay (r : PortReport) : Nat :=
  (((roundTrips r).getD (r.trips.length / 2 - 1) 0 + (roundTrips r).getD (r.trips.length / 2) 0) / 4).toNat

/-- R295: step 5 fails where 1,024 round trips were not measured, or where the 10th and 90th percentiles, the 103rd and the
922nd in order, differ by more than 16 units. -/
def delaySpreads (r : PortReport) : Bool :=
  r.trips.length ≠ 1024 || decide (2 * 16 < (roundTrips r).getD 921 0 - (roundTrips r).getD 102 0)

/-- Step 4 of a port's training (R294): the failure reason of the peer's identity, 0 for none. Port 8 leads to the span partner,
and no port to the node itself; the rule does not say which check values agree, so that is free (log entry 107). -/
def State.identityReason (s : State) (p : Nat) (r : PortReport) : Nat :=
  if r.herd ≠ (s.node.tack.map (·.herd)).getD 0 then 0x05
  else if r.code ≠ s.clk.code then 0x06
  else if r.peer = s.me ∨ (p = 8 ∧ r.peer ≠ s.partner) ∨
      !Config.routesAgree ((s.fab.image.drop 32).take 16) r.route then 0x07
  else 0

/-- The failure reason of a port's training: that of its first failed step, 0 for none (R294). -/
def State.trainingReason (s : State) (p : Nat) (r : PortReport) : Nat :=
  if p < 8 ∧ !r.light then 0x01
  else if r.adapted = 0 then 0x02
  else if !r.locked then 0x03
  else if s.identityReason p r ≠ 0 then s.identityReason p r
  else if delaySpreads r then 0x08
  else 0

/-- PORT_TRAINING: a port in use trains, or is out of service for the remount with its reason. -/
def portTrainingEff (p : Nat) (r : PortReport) (s : State) : State :=
  if !s.inStage 6 || (s.port p).role = 0 then s
  else
    let reason := s.trainingReason p r
    ({ s with node := { s.node with trained := insertNat p s.node.trained } }).modPort p fun x =>
      if reason = 0 then { x with st := 2, reason := 0, lanes := r.adapted, delay := measuredDelay r, peer := r.peer }
      else { x with st := 3, reason := reason, lanes := 0, delay := 0, peer := 0 }

/-- PORT_TRAINING: peers are node ids of 15 bits. -/
def execPortTraining (port : Nat) (report : PortReport) (s : State) : Host.Outcome State Fault Refusal :=
  guarded (portOk port && decide (report.peer < 2 ^ 15)) (portTrainingEff port report) s

/-! ## Stage 7: the join (R418 to R421) -/

/-- JOIN_RECORD_RECEIVE: a record not yet seen is held and goes on toward the parents; a node that meets its own id with a
lower serial fails, so of two nodes of one id the lower serial is admitted (R418, R419). -/
def joinRecordReceiveEff (b : Bytes) (s : State) : State :=
  let r := (le b 2 2 % 2 ^ 15, le b 16 8, le b 24 8)
  if !s.inStage 7 || s.node.joinClosed || byteAt b 0 ≠ 5 || le b 8 8 ≠ (s.node.tack.map (·.herd)).getD 0 then s
  else if r.1 = s.me ∧ r.2.2 < s.node.serial then s.fail 0x0702
  else if s.node.joins.contains r then s
  else ({ s with node := { s.node with joins := s.node.joins ++ [r] } }).toParents b

/-- JOIN_RECORD_RECEIVE -/
def execJoinRecordReceive (record : Bytes) (s : State) : Host.Outcome State Fault Refusal :=
  guarded true (fun s => s.arrives 0 s.me record (joinRecordReceiveEff record)) s

/-- Nodes that the route table does not mark unreachable. -/
def State.herdNodes (s : State) : List Nat := s.fab.routes.map (·.1)

/-- The join close that this node sends or sends on, itself as the sender (R418; log entry 116). -/
def State.joinCloseRecord (s : State) (s0 : Nat) : Bytes :=
  toLe 1 6 ++ zeros 1 ++ toLe 2 s.me ++ zeros 4 ++ toLe 8 ((s.node.tack.map (·.herd)).getD 0) ++ zeros 8 ++
    toLe 8 s.node.serial ++ toLe 8 s0 ++ zeros 24

/-- Close the join as root: S0 is 65,536 above the highest last stride; the counter starts 64 strides before it. -/
def State.closeJoin (s : State) : State :=
  let s0 := maxNat (s.node.joins.map fun j => j.2.1) + 65536
  ({ s with
    clk := { s.clk with stride := s0 - 64, window := 0 },
    node := { s.node with joinClosed := true, s0 := s0, locked := true } }).flood none (s.joinCloseRecord s0)

/-- Is this node the named root in an open join? -/
def State.rootJoining (s : State) : Bool := s.inStage 7 && !s.node.joinClosed && s.me = s.fab.root

/-- JOIN_CLOSE: the root holds a record of every node. -/
def joinCloseEff (s : State) : State :=
  if s.rootJoining && s.herdNodes.all fun n => s.node.joins.any fun j => j.1 = n then s.closeJoin else s

/-- JOIN_CLOSE -/
def execJoinClose (s : State) : Host.Outcome State Fault Refusal := guarded true joinCloseEff s

/-- JOIN_CLOSE_TIMEOUT: 1,000 ms after the last new record. -/
def execJoinCloseTimeout (s : State) : Host.Outcome State Fault Refusal :=
  guarded true (fun s => if s.rootJoining then s.closeJoin else s) s

/-- ROOT_SILENT_TIMEOUT: the root's off node closes the join. -/
def execRootSilentTimeout (s : State) : Host.Outcome State Fault Refusal :=
  guarded true (fun s =>
    if s.inStage 7 && !s.node.joinClosed && s.me = partnerOf s.fab.root then s.closeJoin else s) s

/-- JOIN_CLOSE_RECEIVE: the counter is set; the close goes on. A node that waits for a remount joins with it (R421). -/
def joinCloseReceiveEff (s0 : Nat) (s : State) : State :=
  if (s.inStage 7 || (s.node.st = 3 && !s.node.stopped)) && !s.node.joinClosed && decide (64 ≤ s0) then
    ({ s with
      clk := { s.clk with stride := s0 - 64, window := 0 },
      node := { s.node with joinClosed := true, s0 := s0, st := 0 } }).flood none (s.joinCloseRecord s0)
  else s

/-- JOIN_CLOSE_RECEIVE -/
def execJoinCloseReceive (firstStride : Nat) (s : State) : Host.Outcome State Fault Refusal :=
  guarded (decide (firstStride < 2 ^ 64)) (joinCloseReceiveEff firstStride) s

/-- Are eight errors in a row within 16 cycles, in 1/16 cycles? -/
def eightWithin : Nat → List Int → Bool
  | 8, _ => true
  | _, [] => false
  | n, e :: l => if e.natAbs ≤ 256 then eightWithin (n + 1) l else eightWithin 0 l

/-- STRIDE_LOCK: the phase errors of the lock strides lock the node; it fails where they have not by S0 − 1. -/
def strideLockEff (errors : List Int) (s : State) : State :=
  if !s.inStage 7 || !s.node.joinClosed || s.node.locked then s
  else if eightWithin 0 errors then { s with node := { s.node with locked := true } }
  else if s.node.s0 ≤ s.stride + 1 then s.fail 0x0701
  else s

/-- STRIDE_LOCK -/
def execStrideLock (errors : List Int) (s : State) : Host.Outcome State Fault Refusal := guarded true (strideLockEff errors) s

/-- LATE_JOIN_WAIT: the join has closed, or no remount runs: the node waits with its ports trained (R421). -/
def lateJoinWaitEff (s : State) : State :=
  if s.inStage 7 && !s.node.joinClosed then { s with node := { s.node with st := 3 } } else s

/-- LATE_JOIN_WAIT -/
def execLateJoinWait (s : State) : Host.Outcome State Fault Refusal := guarded true lateJoinWaitEff s

/-! ## Stage 8: the service gait (R52, R420, R426) -/

/-- Do context 0's minima fit the admitted units? -/
def State.serviceFits (s : State) : Bool :=
  let u := s.gaits.admitted
  (minimaOf s.clk.code u).all fun p => p.2 ≤ s.capacity (workCycles s.clk.code) u p.1

/-- Counters count from here. -/
def State.zeroCounters (s : State) : State :=
  { s with
    tel := { s.tel with node := { NodeCounters.zero with temps := s.tel.node.temps }, contexts := [] },
    nmu := { s.nmu with counters := [] },
    arb := SMap.mapVals s.arb fun _ a => { a with forced := 0, cut := 0, longest := List.replicate 8 0 },
    flash := { s.flash with channels := SMap.mapVals s.flash.channels fun _ c =>
      { c with corrected := 0, retries := 0, uncorrectable := 0, progFails := 0, eraseFails := 0, deferredErrors := 0,
               programmed := 0, hostUnits := 0 } },
    fab := { s.fab with ports := s.fab.ports.map fun p =>
      { p with corrected := 0, uncorrectable := 0, discarded := 0, stalls := List.replicate 8 0, sent := List.replicate 8 0 } } }

/-- The fences of the nodes absent from the join (R420). -/
def State.absentFences (s : State) (absent : List Nat) : List Fence :=
  (sortBy (fun (a b : Nat) => decide (a < b)) (dedupNat absent)).map fun n =>
    { subject := n, reason := 1, decider := s.fab.root, stride := s.node.s0 - 1, own := false }

/-- The nodes absent: as the root counts them, or as the root's records tell the others. -/
def State.absentNodes (s : State) (told : List Nat) : List Nat :=
  if s.me = s.fab.root then s.herdNodes.filter fun n => !(s.node.joins.any fun j => j.1 = n)
  else told.filter fun n => n ≠ s.me

/-- SERVICE_GAIT_ADOPTION: at S0. -/
def serviceGaitAdoptionEff (absent : List Nat) (s : State) : State :=
  if !s.inStage 7 || !s.node.joinClosed || s.stride ≠ s.node.s0 || !s.node.locked then s
  else
    let s1 := (s.enter 8).zeroCounters.adoptPlan
    if !s1.serviceFits then s1.fail 0x0801
    else
      let s2 := (s1.absentFences (s1.absentNodes absent)).foldl State.adoptFence s1
      ({ s2 with
        node := { s2.node with joined := true, record := { s2.node.record with planStride := s.node.s0 } },
        gaits := { s2.gaits with service := true },
        memb := { s2.memb with beating := true, heardAny := s.stride } }).enter 9

/-- SERVICE_GAIT_ADOPTION: node ids run to 20,479. -/
def execServiceGaitAdoption (absent : List Nat) (s : State) : Host.Outcome State Fault Refusal :=
  guarded (absent.all fun n => n < 20480) (serviceGaitAdoptionEff absent) s

/-! ## Stage 9: the restore (R334, R336, R385, R390, R422) -/

/-- Step 1: a context recorded as closing is gone, with its objects; its paddocks wait for their erase. -/
def State.finishCloses (s : State) : State :=
  let gone := (s.contexts.filter fun c => c.2.st = 2).map (·.1)
  let pads := (s.flash.paddocks.filter fun p => gone.contains p.2.context).map (·.1)
  { s with
    contexts := s.contexts.filter fun c => c.2.st ≠ 2,
    indexes := s.indexes.filter fun x => !gone.contains x.2.context,
    tables := s.tables.filter fun x => !gone.contains x.2.context,
    programs := s.programs.filter fun x => !gone.contains x.2.context,
    flash := { s.flash with
      paddocks := s.flash.paddocks.filter fun p => !pads.contains p.1,
      channels := SMap.mapVals s.flash.channels fun _ c => pads.foldl (fun c n => c.dropPaddock n) c } }

/-- Step 2: each user context's flash key is unwrapped and a DDR key drawn, unless debug is unlocked (R407). -/
def State.unwrapKeys (s : State) : State :=
  if s.node.unlocked then s
  else
    (s.contexts.map (·.1)).foldl (fun (s : State) c =>
      { s.drawN 64 with contexts := SMap.update s.contexts c fun x =>
          { x with flashKey := x.wrapped.bind (keyUnwrap (nodeKey s.node.secret)), ddrKey := some (s.drawnBytes 64) } }) s

/-- Step 4: an index's logs, of which the part that its current version has taken in is left out (R131). -/
def Index.restore (x : Index) (c : Checkpoint) (id : Nat) : Index :=
  match c.indexes.find? fun l => l.index = id with
  | none => x
  | some l =>
    ({ x with delta := l.delta, deltaLists := l.lists, overlays := l.overlays, tombs := l.tombs, recent := l.recent,
              lastGen := l.lastGen.foldl (fun m p => SMap.set m p.1 (laterGen (SMap.getD m p.1 0) p.2)) x.lastGen } : Index).settle

/-- A table's update area and committed step count. -/
def Table.restore (x : Table) (c : Checkpoint) (id : Nat) : Table :=
  match c.tables.find? fun l => l.table = id with
  | none => x
  | some l =>
    let cut := ((x.versions.find? fun v => v.num = x.base).map (·.cut)).getD 0
    { x with dirty := l.dirty.filter fun d => cut ≤ d.applied, committed := max x.committed l.committed }

/-- Take a checkpoint's state. -/
def State.restoreFrom (s : State) (c : Checkpoint) : State :=
  { s with
    indexes := SMap.mapVals s.indexes fun id x => x.restore c id,
    tables := SMap.mapVals s.tables fun id x => x.restore c id }

/-- Take the node's own checkpoint, where one was written. -/
def State.restoreOwn (s : State) : State :=
  match s.flash.checkpoint with
  | some c => s.restoreFrom c
  | none => s

/-- R334: each participant numbers its next step one above the lowest committed count of the table's spans. -/
def State.restoreSteps (s : State) (steps : List (Nat × Nat)) : State :=
  { s with tables := SMap.mapVals s.tables fun id x =>
      { x with started := match steps.find? fun p => p.1 = id with
        | some p => p.2
        | none => x.committed } }

/-- R336: mirrored units that the partner committed alone. -/
def State.takeUnits (s : State) (units : List (Nat × Nat × Bytes)) : State :=
  units.foldl (fun s u => s.commitUnits u.1 u.2.1 [fit 4096 u.2.2] false false) s

/-- Step 5: each context's reserved granules are granted again, after context 0's own (R383). -/
def State.grantAll (s : State) : State :=
  s.contexts.foldl (fun s c => s.adoptReservation c.1 { hbm := c.2.hbm, ddr := c.2.ddr, kinds := c.2.kinds }) s.grantOwn

/-- The survivor's record of units committed alone starts anew (R336). -/
def State.clearSingle (s : State) : State :=
  { s with flash := { s.flash with paddocks := SMap.mapVals s.flash.paddocks fun _ p =>
      { p with units := SMap.mapVals p.units fun _ u => { u with single := false } } } }

/-- Did every context get its HBM? -/
def State.granted (s : State) : Bool :=
  s.contexts.all fun c => c.2.hbm / granuleSize ≤ (ownedBy s.mem.hbmTags c.1).length

/-- The digest of a version that this node holds. -/
def State.versionDigest (s : State) (object version : Nat) : Option Nat :=
  match SMap.find? s.indexes object, SMap.find? s.tables object with
  | some x, _ => (x.versions.find? fun v => v.num = version).map (·.digest)
  | none, some x => (x.versions.find? fun v => v.num = version).map (·.digest)
  | none, none => none

/-- R336: do the members' digests differ, of their checkpoints or of a version? -/
def State.digestsDiffer (s : State) (r : RestoreReport) : Bool :=
  r.digest.any fun d => s.flash.checkpoint.map (fun c => digest64 c.bytes) ≠ some d ||
    r.versions.any fun v => s.versionDigest v.1 v.2.1 ≠ some v.2.2

/-- R336: does this node take its partner's state: it was fenced, or it is the off node, neither was, and the digests differ? -/
def State.takesState (s : State) (r : RestoreReport) : Bool :=
  r.fenced || (!r.partnerFenced && !s.isNear && s.digestsDiffer r)

/-- R336: does the partner take this node's state? -/
def State.suppliesState (s : State) (r : RestoreReport) : Bool :=
  r.partnerFenced || (!r.fenced && s.isNear && s.digestsDiffer r)

/-- R336: the checkpoint that the partner takes goes over the span port, and after it every mirrored unit committed alone (log entry
24). -/
def State.supplyPartner (s : State) : State :=
  let s1 := match s.flash.checkpoint with
    | some c => s.sendPort 1 8 c.bytes
    | none => s
  s1.flash.paddocks.foldl (fun s p => (p.2.units.filter fun u => u.2.single).foldl (fun s u =>
    s.sendPort 6 8 (toLe 2 p.1 ++ toLe 8 u.1 ++ (p.2.view u.1).getD [])) s) s1

/-- The state restored from a checkpoint (R336, R422): the partner's where this node takes it or cannot read its own; none where
neither can be had. -/
def State.restored (s : State) (r : RestoreReport) : Option State :=
  match r.partner with
  | some c => if s.takesState r || !r.own then some ((s.restoreFrom c).takeUnits r.units) else some (s.restoreOwn)
  | none => if r.own then some s.restoreOwn else none

/-- STATE_RESTORE (R422): the checkpoint is restored, and supplied to a partner that takes it (R336); then the node is ready. -/
def stateRestoreEff (r : RestoreReport) (s : State) : State :=
  if !s.inStage 9 then s
  else if s.node.unlocked then
    { s.finishCloses.grantOwn with node := { s.node with st := 1 } }
  else
    let s1 := s.finishCloses.unwrapKeys
    match s1.restored r with
    | none => s.fail 0x0901
    | some s2 =>
      let s3 := ((if s.suppliesState r then s2.supplyPartner else s2).restoreSteps r.steps).grantAll
      if s3.granted then { s3.clearSingle with node := { s3.node with st := 1 } } else s.fail 0x0902

/-- STATE_RESTORE -/
def execStateRestore (report : RestoreReport) (s : State) : Host.Outcome State Fault Refusal :=
  guarded true (stateRestoreEff report) s

/-! ## VERSION_FILL (R423) -/

/-- The versions restored and not yet filled: context, object, version. -/
def State.unfilled (s : State) : List (Nat × Nat × Nat) :=
  (s.indexes.flatMap fun p => (p.2.versions.filter fun v => v.st ≠ 1 && !v.filled).map fun v => (p.2.context, p.1, v.num)) ++
    s.tables.flatMap fun p => (p.2.versions.filter fun v => v.st ≠ 1 && !v.filled).map fun v => (p.2.context, p.1, v.num)

/-- The order of filling: ascending context id, then object id, then version (R423). -/
def fillBefore (a b : Nat × Nat × Nat) : Bool :=
  decide (a.1 < b.1 ∨ (a.1 = b.1 ∧ (a.2.1 < b.2.1 ∨ (a.2.1 = b.2.1 ∧ a.2.2 < b.2.2))))

/-- Is a version of an object the next to be filled? -/
def State.fillsNext (s : State) (id version : Nat) : Bool :=
  s.unfilled.any fun a => a.2 = (id, version) && !(s.unfilled.any fun b => fillBefore b a)

/-- VERSION_FILL: the next version restored and not yet filled, read from paddock 0. -/
def versionFilledEff (id version : Nat) (reads : List FlashRead) (s : State) : State :=
  if !s.ready || s.node.stopped || !s.fillsNext id version then s
  else
    match SMap.find? s.indexes id, SMap.find? s.tables id with
    | some x, _ =>
      match x.versions.find? fun v => v.num = version && !v.filled with
      | some v =>
        (versionFillEff id version (s.readOwn id version reads)).note (s.funcOf x.context) 0x0408 x.context 0 stOk s.stride
          (readyPayload id stOk version v.cut v.digest 0xFFFF_FFFF 0)
      | none => s
    | none, some x =>
      match x.versions.find? fun v => v.num = version && !v.filled with
      | some v =>
        (versionFillEff id version (s.readOwn id version reads)).note (s.funcOf x.context) 0x0509 x.context 0 stOk s.stride
          (readyPayload id stOk version v.cut v.digest 0xFFFF_FFFF (v.cutStep % 2 ^ 32))
      | none => s
    | none, none => s

/-- VERSION_FILL: object ids are 32 bits. -/
def execVersionFill (object version : Nat) (reads : List FlashRead) (s : State) : Host.Outcome State Fault Refusal :=
  guarded (decide (object < 2 ^ 32)) (versionFilledEff object version reads) s

end Sys2Proof.Machine
end

