-- ==== Sys2Proof/Machine/Boundary.lean ====
section
/-! DEFINITION. The stride boundary: what the old stride leaves unfinished (R30), the new count and its marks (R25, R297),
and the steps of the commit window in the order of R27: visibility from cycle 16, adoption from cycle 1,024. The mirror's
snapshot is taken of the state at the end of the old stride (R21); MIRROR_PUBLICATION publishes it, with the completions. -/

namespace Sys2Proof.Machine

/-! ## The end of the old stride (R30) -/

/-- R30: a table's step of which a share of a stride was not done is stopped: the owner sends no more for it, and its participants
hear nothing of it (R249). -/
def State.stopSteps (s : State) (table : Nat) (which : Step → Bool) : State :=
  s.modTable table fun x => { x with steps := x.steps.filter fun t => !which t }

/-- Steps that still have a share to do. -/
def Step.running (t : Step) : Bool := decide (t.stage < 3)

/-- Is a share of a step due in a stride left undone? -/
def Step.behind (t : Step) (stride : Nat) : Bool :=
  (t.owner && decide (t.stage = 0 ∧ t.admitAt + 1 = stride)) || decide (t.stage = 1 ∧ t.admitAt + 2 = stride) ||
    decide (t.stage = 2 ∧ t.admitAt + 3 = stride)

/-- Work that still runs at the boundary is named by 8 × key + kind: kind 0 a query by handle, 1 a shard-search by key, 2 a
served update by key, 3 a lookup by handle, 4 a storage READ by number, 5 the steps of a table, 6 an update at its entry node by
handle, 7 a scheduled operation by tag. A share that is stopped is not resumed: its reply is absent (R105, R220). -/
def State.stopWork (s : State) (w : Nat) : State :=
  let key := w / 8
  match w % 8 with
  | 0 => s.modQuery key fun q => { q with late := true }
  | 1 => { s with work := { s.work with searches := SMap.erase s.work.searches key } }
  | 2 => { s with work := { s.work with served := SMap.erase s.work.served key } }
  | 3 => { s with work := { s.work with lookups := SMap.update s.work.lookups key fun l => { l with late := true } } }
  | 4 => match SMap.find? s.flash.commands key with
    | some c => s.stopRead key c
    | none => s
  | 5 => s.stopSteps key Step.running
  | 6 => match SMap.find? s.work.updates key with
    | some u => s.loseUpdate key u
    | none => s
  | _ => match s.fab.ops.find? fun o => o.tag = key with
    | some o => s.completeOp o stTargetLost 0
    | none => s

/-- Stop a piece of work, and count it. -/
def State.overran (s : State) (w : Nat) : State := (s.stopWork w).countStops 1

/-- Does a word name work in flight? -/
def State.inFlight (s : State) (w : Nat) : Bool :=
  let key := w / 8
  match w % 8 with
  | 0 => SMap.has s.work.queries key
  | 1 => SMap.has s.work.searches key
  | 2 => SMap.has s.work.served key
  | 3 => SMap.has s.work.lookups key
  | 4 => (SMap.find? s.flash.commands key).any fun c => c.op = 1 && c.status = stOk
  | 5 => (SMap.find? s.tables key).any fun x => x.steps.any Step.running
  | 6 => SMap.has s.work.updates key
  | _ => s.fab.ops.any fun o => o.tag = key && o.cls = 3

/-- Work of fixed classes whose plan ends with the old stride and that its last step did not finish: stopped, counted, its
completion written late (R30, R83); and steps with a share of the stride undone. An elastic class's work goes on (R38). -/
def State.stopOverdue (s : State) : State :=
  let n := s.stride + 1
  let qs := s.work.queries.filter fun q => !q.2.elastic && decide (q.2.admitAt + q.2.len ≤ n)
  let ls := s.work.lookups.filter fun l => !l.2.elastic && decide (l.2.admitAt + l.2.len ≤ n)
  let rs := s.flash.commands.filter fun c =>
    !c.2.elastic && c.2.op = 1 && c.2.status = stOk && decide (c.2.admitAt + c.2.len ≤ n)
  let s1 := qs.foldl (fun (s : State) q => (s.overran (8 * q.1)).stopQuery q.1 q.2) s
  let s2 := ls.foldl (fun (s : State) l => (s.overran (8 * l.1 + 3)).finishLookup l.1 { l.2 with late := true } stOk) s1
  let s3 := rs.foldl (fun (s : State) c => s.overran (8 * c.1 + 4)) s2
  s3.tables.foldl (fun (s : State) x =>
    let k := (x.2.steps.filter fun t => t.behind s.stride).length
    if k = 0 then s else (s.stopSteps x.1 fun t => t.behind s.stride).countStops k) s3

/-- The commands that units have not ended are stopped, each an overrun (R30); a move that one belongs to is void (R230). Lookup
sub-requests that the apply barrier still holds are stopped with them (R235). -/
def State.stopUnits (s : State) : State :=
  let left := s.nmu.units.flatMap fun u => u.2.commands
  let held := sumNat (s.tables.map fun x => x.2.barrier.length)
  let s1 := ((left.filterMap fun c => c.move).foldl State.voidMove s).countStops
    ((dedupNat (left.map fun c => c.number)).length + held)
  { s1 with tables := SMap.mapVals s1.tables fun _ x => { x with barrier := [] }, nmu := { s1.nmu with dieWaiters := [] } }

/-- Replies that never came by the end of their stride: updates of this stride's commit, and steps of T+3 (R216, R249). -/
def State.endReplies (s : State) : State :=
  let us := s.work.updates.filter fun u => u.2.commit ≤ s.stride
  let s1 := us.foldl (fun (s : State) u => s.loseUpdate u.1 u.2) s
  (s1.work.steps.filter fun t => t.admitAt + 3 ≤ s.stride).foldl (fun (s : State) t => s.finishStep t true) s1

/-- Work for other nodes whose plan is over is dropped, with what is kept of older strides and the tags of the old stride's shares
(R88). A search of an elastic class is kept for 64 strides more, the longest plan (DESIGN CHOICE, log entry 89). -/
def State.dropStale (s : State) : State :=
  let n := s.stride + 1
  { s with
    work := { s.work with
      searches := s.work.searches.filter fun q => n ≤ q.2.admitAt + q.2.len + 64 * bit01 q.2.elastic,
      served := s.work.served.filter fun u => n ≤ u.2.admitAt + u.2.len,
      overdue := [], shareTags := s.storageTags,
      digests := s.work.digests.filter fun d => s.stride ≤ d.1,
      peerDigests := s.work.peerDigests.filter fun d => s.stride ≤ d.1 },
    memb := { s.memb with
      accusations := s.memb.accusations.filter fun a => n ≤ a.2.2 + 4,
      vouches := s.memb.vouches.filter fun v => n ≤ v.2 + 4 } }

/-- R30 at the end of a stride: the work named overran, and that whose shares needed more than their plan gives. -/
def State.endStride (s : State) (overrun : List Nat) : State :=
  let s1 := (dedupNat (s.work.overdue ++ overrun)).foldl (fun (s : State) w => if s.inFlight w then s.overran w else s) s
  s1.stopUnits.stopOverdue.endReplies.dropStale

/-! ## Cycles 0 to 15: the count and the marks (R25, R29, R297, R298, R448) -/

/-- The mark goes out on every port in service; a fenced node sends none (R297, R329). The offset at which a port sends is
the node's own, below 16 cycles, and free (log entry 1). -/
def State.sendMarks (s : State) : State :=
  if s.selfFenced then s
  else s.portsInService.foldl (fun (s : State) p =>
    (s.sendPort 0 p (strideMark s.stride (s.drawn.toNat % 256))).draw) s

/-- A ring at cycle 0: what counts for this stride's admissions (R29, R351). -/
def Ring.open0 (r : Ring) : Ring := { r with seenTail := r.subTail, seenHead := r.cplHead, stepped := 0 }

/-- Strides without a mark on either parent port, up to the old stride (R298). -/
def State.markless (s : State) (old : Nat) : Nat :=
  let m (p : Nat) : Nat := if p < 9 then (s.port p).marks else 0
  if old ≤ max (m s.primaryPort) (m s.fab.backup) then 0 else s.fab.noMark + 1

/-- R314: the token buckets refill over a stride, in bytes of CIR and PIR (log entry 29). -/
def Policer.refill (p : Policer) (cycles : Nat) : Policer :=
  { p with tc := min p.cbs (p.tc + p.cir * cycles / 2500), tp := min p.pbs (p.tp + p.pir * cycles / 2500) }

/-- A port at cycle 0. -/
def Port.open0 (p : Port) (cycles : Nat) : Port :=
  { p with badNow := 0, policers := SMap.mapVals p.policers fun _ x => x.refill cycles }

/-- The near-memory units at the boundary: query stores empty (R173), no command or burst runs on, no row stays locked
(R30). -/
def Nmu.open0 (x : Nmu) : Nmu :=
  { x with
    units := SMap.mapVals x.units fun _ u => { u with slots := [], burst := none, lock := none, commands := [], rowBuffer := [] },
    waiting := [], granted := [], slots := [], bursts := [],
    counters := SMap.mapVals x.counters fun _ c => { c with longest := 0 } }

/-- Cycle 0: the counter advances and per-stride counts begin anew. -/
def State.advance (s : State) : State :=
  let cycles := strideCycles s.clk.code
  { s with
    clk := { s.clk with stride := s.stride + 1, window := 0 },
    out := { s.out with pulses := s.out.pulses + bit01 (s.node.joined && !s.selfFenced) },
    rings := SMap.mapVals s.rings fun _ r => r.open0,
    queues := SMap.mapVals s.queues fun _ r => r.open0,
    gaits := { s.gaits with classAdmitted := [] },
    arb := SMap.mapVals s.arb fun _ a => { a with longest := List.replicate 8 0 },
    nmu := s.nmu.open0,
    fab := { s.fab with
      ports := s.fab.ports.map fun p => p.open0 cycles,
      lost := s.fab.lost.filter fun l => s.stride ≤ l.2.1,
      noMark := s.markless s.stride, longer := s.fab.correction, correction := 0, onBackup := s.fab.onBackup || s.fab.toBackup,
      toBackup := false,
      noEdge := if s.isRoot && s.fab.strideIn then s.fab.noEdge + 1 else s.fab.noEdge } }

/-! ## Cycles 16 to 1,023: visibility (R27, R222, R325) -/

/-- A row of TABLE_ROW_WRITE due now becomes a dirty copy, written by ROWWRITE to its place (R234, R255). -/
def State.writeRow (s : State) (id : Nat) (r : TableRow) : State :=
  let s1 := s.placeDirty id r.id r.row
  let s2 := s1.modTable id fun x => { x with dirty := putDirty x.dirty { r with applied := s.stride } }
  match (SMap.find? s2.tables id).bind fun x => (SMap.find? x.places r.id).map fun a => (x.context, a) with
  | some (c, a) => s2.issueRowwrite c a r.row false none
  | none => s2

/-- A table's rows due now are written. -/
def State.applyWrites (s : State) (id : Nat) : State :=
  match SMap.find? s.tables id with
  | none => s
  | some x =>
    let due := (x.writes.filter fun w => w.1 ≤ s.stride).map (·.2)
    due.foldl (fun s r => s.writeRow id r) (s.modTable id fun x => { x with writes := x.writes.filter fun w => s.stride < w.1 })

/-- R239: a lookup's version is fixed at the boundary of S+1, in whose stride its rows are read. -/
def State.fixLookups (s : State) : State :=
  { s with work := { s.work with lookups := SMap.mapVals s.work.lookups fun _ l =>
      if l.admitAt + 1 = s.stride then
        { l with version := ((SMap.find? s.tables l.table).bind fun x => x.viewVersion l.view).getD l.version }
      else l } }

/-- What becomes visible at the boundary, after the fences: versions, updates, steps, storage, residency (R222, R249, R280,
R227, R269), and then versions that nothing uses are freed (R131). -/
def State.visibility (s : State) : State :=
  let s1 := s.applySwitches.commitUpdates
  let s2 := { s1 with tables := SMap.mapVals s1.tables fun _ x => x.commitSteps s.stride }
  let s3 := s2.commitStorage
  let s4 := { s3 with
    indexes := SMap.mapVals s3.indexes fun _ x => { x with resid := x.resid.demote },
    tables := SMap.mapVals s3.tables fun _ x => { x with resid := x.resid.demote } }
  let s5 := (List.range 32).foldl (fun (s : State) ch => s.switchMoves ch) s4.switchResidency
  ((s5.tables.map (·.1)).foldl State.applyWrites s5).fixLookups.freeVersions

/-! ## Cycles 1,024 to 2,047: adoption (R20, R27, R31) -/

/-- R355: an aperture is adopted: invalid, with BAR2_ERR latched, where the context it names is not bound to the function, or is
closing (R388). -/
def State.adoptAperture (s : State) (f a : Nat) : State :=
  let x := SMap.getD (s.func f).apShadow a Aperture.zero
  let bound := (SMap.find? s.contexts x.ctx).any fun c => c.func = f && c.st = 1
  if !bound then
    (s.modFunc f fun r =>
      { r with apLive := SMap.set r.apLive a { x with ctl := x.ctl &&& 0xFFFF_FFFE } }).bar2Latch f stNotOwner a false
        (a * 2 ^ 30)
  else s.modFunc f fun r => { r with apLive := SMap.set r.apLive a x }

/-- The RWS fields adopt their shadows (R7, R8, R20): arbiter limits, and the apertures written. -/
def State.adoptShadows (s : State) : State :=
  let s1 := { s with arb := SMap.mapVals s.arb fun _ a => a.adoptLimits }
  s1.funcs.foldl (fun (s : State) p =>
    (p.2.apDirty.foldl (fun (s : State) a => s.adoptAperture p.1 a) s).modFunc p.1 fun r => { r with apDirty := [] }) s1

/-- A port from the adoption of the first gait: its lanes outside the mounted set are powered down, and without a lane it is out
of service (R52). -/
def Port.keepLanes (p : Port) (mounted : BitVec 36) (number : Nat) : Port :=
  let lanes := p.lanes &&& BitVec.ofNat 4 (mounted.toNat / 2 ^ (4 * number) % 16)
  { p with lanes := lanes, st := if lanes = 0 ∧ (p.st = 1 ∨ p.st = 2) then 0 else p.st }

/-- R52: at the adoption of the first gait its unit set is the mounted set; ports and lanes outside it are powered down, and the
margins of domains without a unit in it lapse. -/
def State.mount (s : State) (u : UnitSet) : State :=
  { s with
    gaits := { s.gaits with mounted := some u },
    fab := { s.fab with ports := (List.range s.fab.ports.length).zipWith (fun n (p : Port) => p.keepLanes u.lanes n) s.fab.ports },
    node := { s.node with sweep := s.node.sweep.filter fun r => u.hasDomain r.domain } }

/-- A gait staged for this stride moves to slot 0 (R51); the first one's unit set is the mounted set (R52). -/
def State.adoptGait (s : State) : State :=
  match (s.stagedSlots.find? fun p => p.2.stride = s.stride) with
  | none => s
  | some (n, x) =>
    match x.gait with
    | none => s
    | some g =>
      let t := if s.gaits.mounted.isNone then s.mount g.units else s
      { t with gaits := { t.gaits with
          slots := (s.gaits.slots.set n GaitSlot.empty).set 0 { x with st := 3 },
          service := false,
          outgoing := s.outgoingNow ++ [(s.gaitNow.1, s.gaitNow.2, s.stride)] } }

/-- Gate lists staged for this stride (R311, R312). -/
def Port.adoptGates (p : Port) (stride : Nat) : Port :=
  match (p.staged.filter fun x => x.1 ≤ stride).getLast? with
  | some x => { p with gate := x.2, staged := p.staged.filter fun y => stride < y.1 }
  | none => p

/-- A context as CONTEXT_CREATE makes it: no reservation, no granules, no rings, fresh keys (R382, R385). -/
def State.createContext (s : State) (c f : Nat) : State :=
  let key := s.drawnBytes 64
  let x : Context :=
    { func := f, st := 1, hbm := 0, ddr := 0, kinds := [], wrapped := some (keyWrap (nodeKey s.node.secret) key), flashKey := some key,
      ddrKey := some ((s.drawN 64).drawnBytes 64), closedAt := 0, swept := false, tornAt := none, tagFaults := 0 }
  { s.drawN 128 with contexts := SMap.set s.contexts c x }

/-- The settings of a RESIDENCY_SET or RESIDENCY_PIN, over what the residency has become since (R208, R210). -/
def Residency.adopt (now d : Residency) : Residency :=
  { now with mask := d.mask, cls := d.cls, quota := d.quota, period := d.period, moves := d.moves, pins := d.pins }

/-- From the adoption of its close, an index or table admits nothing; a table's steps in flight are void (R133, R256). -/
def State.closeObject (s : State) (id : Nat) : State :=
  (s.modIndex id fun x => { x.closeAccepted with closing := some s.stride }).modTable id fun x =>
    { x.closeAccepted with
      closing := some s.stride,
      steps := x.steps.map fun t => if t.stage < 3 && t.void.isNone then { t with void := some stOk } else t }

/-- A context's residency moves stop, and its builds are voided without notification (R388). -/
def Residency.stopAll (r : Residency) : Residency := { r with chosen := [], running := [], moves := 0 }

/-- R388 at B: the context closes. Its key step comes with R388's third row: at B + Lmax − 1 at the earliest, or at once where
its job was torn down (R390). -/
def State.closeContext (s : State) (c : Nat) : State :=
  match SMap.find? s.contexts c with
  | none => s
  | some x =>
    let shut (r : Ring) : Ring := if r.context = c then { r with closing := true } else r
    let x1 : Context := { x with st := 2, closedAt := if x.tornAt = some s.stride then s.stride else s.stride + s.lmax - 1 }
    let s1 := { s.closeWindows c with
      contexts := SMap.set s.contexts c x1,
      rings := SMap.mapVals s.rings fun _ r => shut r,
      queues := SMap.mapVals s.queues fun _ r => shut r,
      funcs := SMap.mapVals s.funcs fun _ r =>
        { r with apLive := SMap.mapVals r.apLive fun _ a => if a.ctx = c then { a with ctl := a.ctl &&& 0xFFFF_FFFE } else a },
      indexes := SMap.mapVals s.indexes fun _ x =>
        if x.context = c then { x with build := none, versions := x.versions.filter fun v => v.st ≠ 1, resid := x.resid.stopAll }
        else x,
      tables := SMap.mapVals s.tables fun _ x =>
        if x.context = c then { x with build := none, versions := x.versions.filter fun v => v.st ≠ 1, resid := x.resid.stopAll }
        else x }
    (s1.queues.map (·.1)).foldl State.queueDrained s1

/-- Adopt one change (R31). -/
def State.applyChange (s : State) : Change → State
  | .createContext c f => s.createContext c f
  | .closeContext c => s.closeContext c
  | .reserve c b => if SMap.has s.contexts c then s.adoptReservation c (parseReservation b) else s
  | .openRing id r => if SMap.has s.contexts r.context then { s with rings := SMap.set s.rings id r } else s
  | .closeRing id => s.modRing id fun r => { r with closing := true }
  | .residency id d => s.modResidency id fun r => r.adopt d
  | .createIndex id x => { s with indexes := SMap.set s.indexes id x }
  | .createTable id x => { s with tables := SMap.set s.tables id x }
  | .closeObject id => s.closeObject id
  | .bindProgram key p => { s with programs := SMap.set s.programs key {
      p with bound := true, window := if p.resident then p.windowAfter p.layers.length else [] } }
  | .unbindProgram key => { s with programs := SMap.update s.programs key fun p => { p with unbound := true } }
  | .createPaddock n p => { s with flash := { s.flash with paddocks := SMap.set s.flash.paddocks n { p with st := 1 } } }
  | .deletePaddock n => (s.modPaddock n fun p => { p with st := 3 }).paddockDrained n
  | .openQueue id r => { s with queues := SMap.set s.queues id r }
  | .closeQueue id => (s.modQueue id fun r => { r with closing := true }).queueDrained id
  | .weights k w =>
    { s with gaits := { s.gaits with weights := SMap.set s.gaits.weights k w, credits := SMap.erase s.gaits.credits k } }
  | .window n (some w) => { s with fab := { s.fab with windows := SMap.set s.fab.windows n w } }
  | .window n none => { s with fab := { s.fab with windows := SMap.erase s.fab.windows n } }
  | .region n (some r) => { s with fab := { s.fab with regions := SMap.set s.fab.regions n r } }
  | .region n none => { s with fab := { s.fab with regions := SMap.erase s.fab.regions n } }
  | .policer p k d => s.modPort p fun x =>
    let old := SMap.getD x.policers k Policer.off
    { x with policers := SMap.set x.policers k { d with green := old.green, yellow := old.yellow, red := old.red } }
  | .teardown c => s.tearDown c
  | .release id v =>
    (s.modIndex id fun x =>
      { x with versions := x.versions.map fun y => if y.num = v ∧ y.st = 4 then
          { y with st := 5, keepTo := max y.keepTo (s.drainFrom x.map) } else y }).modTable
      id fun x =>
        { x with versions := x.versions.map fun y => if y.num = v ∧ y.st = 4 then
            { y with st := 5, keepTo := max y.keepTo (s.drainFrom x.map) } else y }

/-- R390: the order at one boundary: teardowns run before the closes of contexts, and both after everything else. -/
def Change.rank : Change → Nat
  | .teardown _ => 1
  | .closeContext _ => 2
  | _ => 0

/-- Adopt every change due, each rank in the order in which the requests were taken (R378). -/
def State.adoptChanges (s : State) : State :=
  let due := (sortBy (fun (a b : Accepted) => decide (a.order < b.order)) (s.changes.filter fun c => c.due ≤ s.stride)).map (·.change)
  let t := { s with changes := s.changes.filter fun c => s.stride < c.due }
  ((due.filter fun c => c.rank = 0) ++ (due.filter fun c => c.rank = 1) ++ due.filter fun c => c.rank = 2).foldl
    State.applyChange t

/-- The rings and storage queues of functions that detached close; the regions of their contexts' windows become invalid, and the
windows stay (R360, R381, log entry 111). -/
def State.closeDetached (s : State) : State :=
  (s.funcs.filter fun p => p.2.detachPending).foldl (fun (s : State) p =>
    let shut (r : Ring) : Ring := if r.func = p.1 then { r with closing := true, lost := true } else r
    let own (r : Region) : Bool := (SMap.find? s.fab.windows r.window).any fun (w : Window) => s.funcOf w.context = p.1
    let t : State := { s with
      rings := SMap.mapVals s.rings fun _ r => shut r,
      queues := SMap.mapVals s.queues fun _ r => shut r,
      fab := { s.fab with regions := s.fab.regions.filter fun r => !own r.2 } }
    (t.queues.map (·.1)).foldl State.queueDrained (t.modFunc p.1 fun r => { r with detachPending := false })) s

/-- What is free from this boundary on: ids of rings and queues that closed (R275, R376), programs unbound that no query runs
(R165), contexts wholly swept (R388). -/
def State.release (s : State) : State :=
  let spent (r : Ring) : Bool := !r.isOpen && r.written.isEmpty && r.reserved = 0
  let dead (c : Nat) (x : Context) : Bool := x.swept && !(s.mem.hbmTags.any fun g => g.2.owner = c)
  let gone := (s.contexts.filter fun c => dead c.1 c.2).map (·.1)
  { s with
    rings := s.rings.filter fun r => !spent r.2 && !gone.contains r.2.context,
    queues := s.queues.filter fun r => !spent r.2 && !gone.contains r.2.context,
    programs := s.programs.filter fun p =>
      !(p.2.unbound && !(s.work.queries.any fun q => programKey q.2.context q.2.program = p.1)),
    contexts := s.contexts.filter fun c => !dead c.1 c.2 }

/-- R335 at stride R: nothing is admitted from now on; staged gaits and gate lists are cancelled. -/
def State.remountAt (s : State) : State :=
  match s.clk.armed with
  | some (r, _, _) =>
    if r ≠ s.stride ∨ s.node.st ≠ 1 then s
    else
      let t := s.unstageFrom 0
      { t with
        clk := { t.clk with remounting := some (r, s.lmax) },
        node := { t.node with st := 4 },
        fab := { t.fab with ports := t.fab.ports.map fun p => { p with staged := [] } } }
  | none => s

/-- Everything adopted in cycles 1,024 to 2,047. -/
def State.adoption (s : State) : State :=
  let s1 := s.remountAt.adoptShadows.adoptGait
  let s2 := { s1 with fab := { s1.fab with ports := s1.fab.ports.map fun (p : Port) => p.adoptGates s.stride } }
  s2.release.closeDetached.adoptChanges

/-! ## STRIDE_BOUNDARY (R27) -/

/-- The flags of the stride just ended join ARB_FLAGS, with the mirror's write (R195). -/
def State.commitFlags (s : State) : State := { s with arb := SMap.mapVals s.arb fun _ a => a.commitFlags }

/-- STRIDE_BOUNDARY, while the node has a stride clock: the counter counts from the close of the join. A node that is
fenced counts on, and commits and adopts nothing but fences (R329); before S0 a node only counts and marks (R420), and at S0 it
writes the mirror's first snapshot (R21). A control core that faulted two strides ago has been restarted by now (R17). -/
def strideBoundaryEff (overrun : List Nat) (s : State) : State :=
  if s.clk.code = 0 ∨ !s.node.joinClosed ∨ s.node.stopped ∨ 5 ≤ s.node.st then s
  else
    let s1 := if s.running then (s.endStride overrun).placeAll (s.stride + 1) else s
    let s2 := if s.node.joined ∨ s.stride + 1 = s.node.s0 then (s1.writeMirror s.stride).commitFlags else s1
    let s3 := (if s2.running then s2.advance.releaseLocked else s2.advance).sendMarks
    let s4 := if s.node.joined then s3.adoptFences else s3
    let s5 := if s4.running then s4.visibility.adoption.trimOwn.writeJournal.chargeFlash else s4
    let s6 := if s5.ctl.mgmtDown then s5.managementRestart else s5
    if s6.ctl.coreDown ∧ s6.ctl.coreAt + 2 ≤ s6.stride then controlCoreRestartedEff s6 else s6

/-- STRIDE_BOUNDARY -/
def execStrideBoundary (overrun : List Nat) (s : State) : Host.Outcome State Fault Refusal :=
  guarded true (strideBoundaryEff overrun) s

end Sys2Proof.Machine
end

