-- ==== Sys2Proof/Machine/Dispatch.lean ====
section
/-! DEFINITION. One arm per command: a direct call of its meaning. -/

namespace Sys2Proof.Machine

/-- A command's effect on everything but the queue. -/
def exec (i : Instr) (s : State) : Host.Outcome State Fault Refusal :=
  match i with
  | .mbSubmit f => Sys2Proof.Machine.execMbSubmit f s
  | .requestTake f fetched => Sys2Proof.Machine.execRequestTake f fetched s
  | .mbReplyAck f => Sys2Proof.Machine.execMbReplyAck f s
  | .replyPost f => Sys2Proof.Machine.execReplyPost f s
  | .noteHeadWrite f value => Sys2Proof.Machine.execNoteHeadWrite f value s
  | .notificationPost f => Sys2Proof.Machine.execNotificationPost f s
  | .deviceFormat f => Sys2Proof.Machine.execDeviceFormat f s
  | .deviceCapabilities f => Sys2Proof.Machine.execDeviceCapabilities f s
  | .contextCreate f => Sys2Proof.Machine.execContextCreate f s
  | .contextClose f => Sys2Proof.Machine.execContextClose f s
  | .contextReserve f => Sys2Proof.Machine.execContextReserve f s
  | .contextStatus f => Sys2Proof.Machine.execContextStatus f s
  | .ringOpen f => Sys2Proof.Machine.execRingOpen f s
  | .ringClose f => Sys2Proof.Machine.execRingClose f s
  | .residencySet f => Sys2Proof.Machine.execResidencySet f s
  | .residencyPin f => Sys2Proof.Machine.execResidencyPin f s
  | .residencyReplicate f => Sys2Proof.Machine.execResidencyReplicate f s
  | .gaitCheck f image => Sys2Proof.Machine.execGaitCheck f image s
  | .gaitLoad f image => Sys2Proof.Machine.execGaitLoad f image s
  | .gaitStage f => Sys2Proof.Machine.execGaitStage f s
  | .gaitCancel f => Sys2Proof.Machine.execGaitCancel f s
  | .gaitStatus f => Sys2Proof.Machine.execGaitStatus f s
  | .indexCreate f => Sys2Proof.Machine.execIndexCreate f s
  | .indexClose f => Sys2Proof.Machine.execIndexClose f s
  | .indexBuild f => Sys2Proof.Machine.execIndexBuild f s
  | .indexCompact f => Sys2Proof.Machine.execIndexCompact f s
  | .indexSwitch f => Sys2Proof.Machine.execIndexSwitch f s
  | .indexRelease f => Sys2Proof.Machine.execIndexRelease f s
  | .indexStatus f => Sys2Proof.Machine.execIndexStatus f s
  | .programLoad f image => Sys2Proof.Machine.execProgramLoad f image s
  | .programUnload f => Sys2Proof.Machine.execProgramUnload f s
  | .programStatus f => Sys2Proof.Machine.execProgramStatus f s
  | .tableCreate f => Sys2Proof.Machine.execTableCreate f s
  | .tableClose f => Sys2Proof.Machine.execTableClose f s
  | .tableBuild f => Sys2Proof.Machine.execTableBuild f s
  | .tableFold f => Sys2Proof.Machine.execTableFold f s
  | .tableSwitch f => Sys2Proof.Machine.execTableSwitch f s
  | .tableRelease f => Sys2Proof.Machine.execTableRelease f s
  | .tableStatus f => Sys2Proof.Machine.execTableStatus f s
  | .tableRowWrite f => Sys2Proof.Machine.execTableRowWrite f s
  | .paddockCreate f => Sys2Proof.Machine.execPaddockCreate f s
  | .paddockDelete f => Sys2Proof.Machine.execPaddockDelete f s
  | .paddockStatus f => Sys2Proof.Machine.execPaddockStatus f s
  | .storageQueueCreate f => Sys2Proof.Machine.execStorageQueueCreate f s
  | .storageQueueDelete f => Sys2Proof.Machine.execStorageQueueDelete f s
  | .storageWeightsSet f => Sys2Proof.Machine.execStorageWeightsSet f s
  | .flashHealthLog f => Sys2Proof.Machine.execFlashHealthLog f s
  | .fabricRouteSet f image => Sys2Proof.Machine.execFabricRouteSet f image s
  | .fabricWindowSet f => Sys2Proof.Machine.execFabricWindowSet f s
  | .fabricRegionSet f => Sys2Proof.Machine.execFabricRegionSet f s
  | .fabricGateStage f => Sys2Proof.Machine.execFabricGateStage f s
  | .fabricGateCancel f => Sys2Proof.Machine.execFabricGateCancel f s
  | .fabricPolicerSet f => Sys2Proof.Machine.execFabricPolicerSet f s
  | .fabricLinkStatus f => Sys2Proof.Machine.execFabricLinkStatus f s
  | .herdStatus f => Sys2Proof.Machine.execHerdStatus f s
  | .herdTeardown f => Sys2Proof.Machine.execHerdTeardown f s
  | .herdRemount f => Sys2Proof.Machine.execHerdRemount f s
  | .herdRemountCancel f => Sys2Proof.Machine.execHerdRemountCancel f s
  | .herdUnitReturn f => Sys2Proof.Machine.execHerdUnitReturn f s
  | .trustAttest f => Sys2Proof.Machine.execTrustAttest f s
  | .trustBrandRecord f => Sys2Proof.Machine.execTrustBrandRecord f s
  | .trustFwUpdate f image => Sys2Proof.Machine.execTrustFwUpdate f image s
  | .trustDebugChallenge f => Sys2Proof.Machine.execTrustDebugChallenge f s
  | .trustDebugUnlock f => Sys2Proof.Machine.execTrustDebugUnlock f s
  | .trustIdeKey f => Sys2Proof.Machine.execTrustIdeKey f s
  | .healthAgeingReport f => Sys2Proof.Machine.execHealthAgeingReport f s
  | .healthUnits f => Sys2Proof.Machine.execHealthUnits f s
  | .mctpAttestation payload => Sys2Proof.Machine.execMctpAttestation payload s
  | .mctpBrandRecord => Sys2Proof.Machine.execMctpBrandRecord s
  | .mctpFirmwareVersion => Sys2Proof.Machine.execMctpFirmwareVersion s
  | .mctpAgeingReport => Sys2Proof.Machine.execMctpAgeingReport s
  | .mctpUnitLists => Sys2Proof.Machine.execMctpUnitLists s
  | .mctpMirrorRead offset length => Sys2Proof.Machine.execMctpMirrorRead offset length s
  | .controlCoreFault => Sys2Proof.Machine.execControlCoreFault s
  | .controlCoreRestarted => Sys2Proof.Machine.execControlCoreRestarted s
  | .managementCoreCrash => Sys2Proof.Machine.execManagementCoreCrash s
  | .registerWrite f bar offset size value reassert => Sys2Proof.Machine.execRegisterWrite f bar offset size value reassert s
  | .strideLoRead f => Sys2Proof.Machine.execStrideLoRead f s
  | .intCauseClear f value reassert => Sys2Proof.Machine.execIntCauseClear f value reassert s
  | .intMaskWrite f value => Sys2Proof.Machine.execIntMaskWrite f value s
  | .dbFaultClear f value reassert => Sys2Proof.Machine.execDbFaultClear f value reassert s
  | .bar2ErrClear f value reassert => Sys2Proof.Machine.execBar2ErrClear f value reassert s
  | .arbFlagsClear f arbiter value reassert => Sys2Proof.Machine.execArbFlagsClear f arbiter value reassert s
  | .subTailWrite f bell value => Sys2Proof.Machine.execSubTailWrite f bell value s
  | .cplHeadWrite f bell value => Sys2Proof.Machine.execCplHeadWrite f bell value s
  | .bar2Fence f => Sys2Proof.Machine.execBar2Fence f s
  | .bar2Read f address length => Sys2Proof.Machine.execBar2Read f address length s
  | .bar2Write f address data => Sys2Proof.Machine.execBar2Write f address data s
  | .bar2Atomic f address op size a b => Sys2Proof.Machine.execBar2Atomic f address op size a b s
  | .msixVectorUnmask f vector => Sys2Proof.Machine.execMsixVectorUnmask f vector s
  | .linkUp link rates => Sys2Proof.Machine.execLinkUp link rates s
  | .linkDown link => Sys2Proof.Machine.execLinkDown link s
  | .perstNAssert link => Sys2Proof.Machine.execPerstNAssert link s
  | .functionLevelReset f => Sys2Proof.Machine.execFunctionLevelReset f s
  | .vfRemoval link numVfs => Sys2Proof.Machine.execVfRemoval link numVfs s
  | .ideIntegrityFailure link stream => Sys2Proof.Machine.execIdeIntegrityFailure link stream s
  | .strideBoundary overrun => Sys2Proof.Machine.execStrideBoundary overrun s
  | .mirrorPublication => Sys2Proof.Machine.execMirrorPublication s
  | .queryAdmission ring entry tile => Sys2Proof.Machine.execQueryAdmission ring entry tile s
  | .shardSubRequestReceive message poisonRows poisonLists sorter => Sys2Proof.Machine.execShardSubRequestReceive message poisonRows poisonLists sorter s
  | .layer0Round search poisonRows poisonLists sorter tile => Sys2Proof.Machine.execLayer0Round search poisonRows poisonLists sorter tile s
  | .shardReplySend search => Sys2Proof.Machine.execShardReplySend search s
  | .shardReplyReceive message aside => Sys2Proof.Machine.execShardReplyReceive message aside s
  | .queryMerge handle passes sorter => Sys2Proof.Machine.execQueryMerge handle passes sorter s
  | .rerankRead search reads poisonRows tile => Sys2Proof.Machine.execRerankRead search reads poisonRows tile s
  | .detourRequest message reads tile => Sys2Proof.Machine.execDetourRequest message reads tile s
  | .rerankReplySend search => Sys2Proof.Machine.execRerankReplySend search s
  | .rerankReplyReceive message aside => Sys2Proof.Machine.execRerankReplyReceive message aside s
  | .replyDeadline handle => Sys2Proof.Machine.execReplyDeadline handle s
  | .finalMerge handle weightsPoisoned sorter tile => Sys2Proof.Machine.execFinalMerge handle weightsPoisoned sorter tile s
  | .updateAdmission ring entry tile => Sys2Proof.Machine.execUpdateAdmission ring entry tile s
  | .updateForwardReceive message poisonRows poisonLists sorter => Sys2Proof.Machine.execUpdateForwardReceive message poisonRows poisonLists sorter s
  | .linkingRound update poisonRows poisonLists sorter tile => Sys2Proof.Machine.execLinkingRound update poisonRows poisonLists sorter tile s
  | .updateStaging tiles => Sys2Proof.Machine.execUpdateStaging tiles s
  | .mirrorRecordReceive message => Sys2Proof.Machine.execMirrorRecordReceive message s
  | .mirrorAckReceive handle entryNode => Sys2Proof.Machine.execMirrorAckReceive handle entryNode s
  | .mirrorConfirmReceive handle entryNode => Sys2Proof.Machine.execMirrorConfirmReceive handle entryNode s
  | .commitDigestReceive stride digest => Sys2Proof.Machine.execCommitDigestReceive stride digest s
  | .commitDigestDeadline => Sys2Proof.Machine.execCommitDigestDeadline s
  | .updateAckReceive message => Sys2Proof.Machine.execUpdateAckReceive message s
  | .updateReplyDeadline handle => Sys2Proof.Machine.execUpdateReplyDeadline handle s
  | .lookupAdmission ring entry => Sys2Proof.Machine.execLookupAdmission ring entry s
  | .lookupSubRequestReceive message poisoned => Sys2Proof.Machine.execLookupSubRequestReceive message poisoned s
  | .lookupPooling handle => Sys2Proof.Machine.execLookupPooling handle s
  | .stepAdmission ring entry tile => Sys2Proof.Machine.execStepAdmission ring entry tile s
  | .stepSegmentReceive message => Sys2Proof.Machine.execStepSegmentReceive message s
  | .stepMerge table tile => Sys2Proof.Machine.execStepMerge table tile s
  | .stepMirror table tile => Sys2Proof.Machine.execStepMirror table tile s
  | .stepMirrorReceive message tile => Sys2Proof.Machine.execStepMirrorReceive message tile s
  | .stepApply table uncorrectable => Sys2Proof.Machine.execStepApply table uncorrectable s
  | .stepDigestReceive table step digest poisoned => Sys2Proof.Machine.execStepDigestReceive table step digest poisoned s
  | .stepNoticeReceive message => Sys2Proof.Machine.execStepNoticeReceive message s
  | .stepPoisonRepair table row image state => Sys2Proof.Machine.execStepPoisonRepair table row image state s
  | .storageAdmission cls heads => Sys2Proof.Machine.execStorageAdmission cls heads s
  | .storageRead command reads answers => Sys2Proof.Machine.execStorageRead command reads answers s
  | .mirroredWriteReceive message => Sys2Proof.Machine.execMirroredWriteReceive message s
  | .storageDetourRead paddock start count reads => Sys2Proof.Machine.execStorageDetourRead paddock start count reads s
  | .arrayOperationIssue channel lost reads answers => Sys2Proof.Machine.execArrayOperationIssue channel lost reads answers s
  | .arrayOperationComplete channel target good => Sys2Proof.Machine.execArrayOperationComplete channel target good s
  | .programStatusRead channel target => Sys2Proof.Machine.execProgramStatusRead channel target s
  | .pagePaddingTimeout paddock channel => Sys2Proof.Machine.execPagePaddingTimeout paddock channel s
  | .wearLevelCheck => Sys2Proof.Machine.execWearLevelCheck s
  | .mapCheckpoint => Sys2Proof.Machine.execMapCheckpoint s
  | .flashTemperatureSample celsius => Sys2Proof.Machine.execFlashTemperatureSample celsius s
  | .qload command poisoned => Sys2Proof.Machine.execQload command poisoned s
  | .scan command => Sys2Proof.Machine.execScan command s
  | .update command poisoned => Sys2Proof.Machine.execUpdate command poisoned s
  | .rowwrite command poisoned => Sys2Proof.Machine.execRowwrite command poisoned s
  | .burstGrant stack => Sys2Proof.Machine.execBurstGrant stack s
  | .burstEnd unit => Sys2Proof.Machine.execBurstEnd unit s
  | .arbiterDecision arbiter requests blocked tenure waited cycle => Sys2Proof.Machine.execArbiterDecision arbiter requests blocked tenure waited cycle s
  | .migrationSelection object => Sys2Proof.Machine.execMigrationSelection object s
  | .migrationCopy object row stopped => Sys2Proof.Machine.execMigrationCopy object row stopped s
  | .buildAdmission object poisonRows reads => Sys2Proof.Machine.execBuildAdmission object poisonRows reads s
  | .versionBuilt object => Sys2Proof.Machine.execVersionBuilt object s
  | .switchTupleReceive object version stride digest => Sys2Proof.Machine.execSwitchTupleReceive object version stride digest s
  | .goRecordDeadline => Sys2Proof.Machine.execGoRecordDeadline s
  | .goRecordReceive object version stride digest => Sys2Proof.Machine.execGoRecordReceive object version stride digest s
  | .versionPairReceive object version => Sys2Proof.Machine.execVersionPairReceive object version s
  | .versionPairDeadline => Sys2Proof.Machine.execVersionPairDeadline s
  | .indexCloseDrained object => Sys2Proof.Machine.execIndexCloseDrained object s
  | .contextCloseDrained context => Sys2Proof.Machine.execContextCloseDrained context s
  | .granuleScrub => Sys2Proof.Machine.execGranuleScrub s
  | .frameReceive port codewords corrected uncorrectable => Sys2Proof.Machine.execFrameReceive port codewords corrected uncorrectable s
  | .headerRecordReceive port header body => Sys2Proof.Machine.execHeaderRecordReceive port header body s
  | .routerForward port header body => Sys2Proof.Machine.execRouterForward port header body s
  | .creditReturn port => Sys2Proof.Machine.execCreditReturn port s
  | .creditMessageReceive port credits => Sys2Proof.Machine.execCreditMessageReceive port credits s
  | .memoryOperation port cls record => Sys2Proof.Machine.execMemoryOperation port cls record s
  | .operationResponseReceive port cls record => Sys2Proof.Machine.execOperationResponseReceive port cls record s
  | .operationTimeout => Sys2Proof.Machine.execOperationTimeout s
  | .portTraining port report => Sys2Proof.Machine.execPortTraining port report s
  | .portDown port => Sys2Proof.Machine.execPortDown port s
  | .laserModuleDark second => Sys2Proof.Machine.execLaserModuleDark second s
  | .strideMarkReceive port stride sendOffset arrival => Sys2Proof.Machine.execStrideMarkReceive port stride sendOffset arrival s
  | .parentMarkLoss => Sys2Proof.Machine.execParentMarkLoss s
  | .outOfStep => Sys2Proof.Machine.execOutOfStep s
  | .strideInEdge arrival => Sys2Proof.Machine.execStrideInEdge arrival s
  | .strideInLoss => Sys2Proof.Machine.execStrideInLoss s
  | .heartbeatSend => Sys2Proof.Machine.execHeartbeatSend s
  | .heartbeatReceive port record => Sys2Proof.Machine.execHeartbeatReceive port record s
  | .heartbeatMiss => Sys2Proof.Machine.execHeartbeatMiss s
  | .accusationReceive record => Sys2Proof.Machine.execAccusationReceive record s
  | .vouchReceive record => Sys2Proof.Machine.execVouchReceive record s
  | .fenceDecision => Sys2Proof.Machine.execFenceDecision s
  | .fenceRecordReceive port record => Sys2Proof.Machine.execFenceRecordReceive port record s
  | .remountCheckpoint => Sys2Proof.Machine.execRemountCheckpoint s
  | .remountRestart => Sys2Proof.Machine.execRemountRestart s
  | .powerArrival => Sys2Proof.Machine.execPowerArrival s
  | .powerRemoval => Sys2Proof.Machine.execPowerRemoval s
  | .resetNAssert => Sys2Proof.Machine.execResetNAssert s
  | .resetNRelease => Sys2Proof.Machine.execResetNRelease s
  | .pwrfailNAssert => Sys2Proof.Machine.execPwrfailNAssert s
  | .powerFailFlushEnd => Sys2Proof.Machine.execPowerFailFlushEnd s
  | .undervoltage => Sys2Proof.Machine.execUndervoltage s
  | .junctionSample eighths => Sys2Proof.Machine.execJunctionSample eighths s
  | .railsInRegulation failure => Sys2Proof.Machine.execRailsInRegulation failure s
  | .firmwareMeasuredStart secret => Sys2Proof.Machine.execFirmwareMeasuredStart secret s
  | .tackImageReceive image => Sys2Proof.Machine.execTackImageReceive image s
  | .unitTraining stage report => Sys2Proof.Machine.execUnitTraining stage report s
  | .flashScan report => Sys2Proof.Machine.execFlashScan report s
  | .joinRecordReceive record => Sys2Proof.Machine.execJoinRecordReceive record s
  | .joinClose => Sys2Proof.Machine.execJoinClose s
  | .joinCloseTimeout => Sys2Proof.Machine.execJoinCloseTimeout s
  | .rootSilentTimeout => Sys2Proof.Machine.execRootSilentTimeout s
  | .joinCloseReceive firstStride => Sys2Proof.Machine.execJoinCloseReceive firstStride s
  | .strideLock errors => Sys2Proof.Machine.execStrideLock errors s
  | .serviceGaitAdoption absent => Sys2Proof.Machine.execServiceGaitAdoption absent s
  | .lateJoinWait => Sys2Proof.Machine.execLateJoinWait s
  | .stateRestore report => Sys2Proof.Machine.execStateRestore report s
  | .versionFill object version reads => Sys2Proof.Machine.execVersionFill object version reads s
  | .stageTimeout => Sys2Proof.Machine.execStageTimeout s
  | .farrierSweep report => Sys2Proof.Machine.execFarrierSweep report s
  | .rerankRequestReceive message => Sys2Proof.Machine.execRerankRequestReceive message s
  | .lookupReplyReceive message aside => Sys2Proof.Machine.execLookupReplyReceive message aside s
  | .stepNoticeDeadline table => Sys2Proof.Machine.execStepNoticeDeadline table s
  | .stepDigestDeadline table => Sys2Proof.Machine.execStepDigestDeadline table s
  | .transportResend handle => Sys2Proof.Machine.execTransportResend handle s
  | .scheduledOperationIssue cls record isFence => Sys2Proof.Machine.execScheduledOperationIssue cls record isFence s
  | .busMasterEnableWrite f enable => Sys2Proof.Machine.execBusMasterEnableWrite f enable s

end Sys2Proof.Machine
end

