-- ==== Sys2Proof/WellFormed.lean ====
section
/-! DEFINITION. Which commands name only units that the node has (R10, R341): one arm per constructor. A command that is not
well formed stops with a fault of its own in the machine; every well-formed one runs. -/

namespace Sys2Proof

/-- Functions 0 to 63 (R341). -/
def isFunc (f : Nat) : Bool := decide (f < 64)

/-- Links 0 and 1 (R339). -/
def isLink (l : Nat) : Bool := decide (l < 2)

/-- Fabric ports 0 to 8 (R286). -/
def isPort (p : Nat) : Bool := decide (p < 9)

/-- Flash channels 0 to 31 (R257). -/
def isChannel (c : Nat) : Bool := decide (c < 32)

/-- Arbiters 0 to 566 (R189). -/
def isArbiter (n : Nat) : Bool := decide (n < 567)

/-- Doorbells: four in each context's block (R349), one of each storage queue (R353). -/
def isBell : Doorbell → Bool
  | .ring c i => decide (c < 4096) && decide (i < 4)
  | .queue q => decide (q < 1024)

/-- Ageing domains by code (R434). -/
def isDomain (d : Nat) : Bool :=
  d == 0x00 || d == 0x01 || (decide (0x10 ≤ d) && decide (d ≤ 0x17)) || d == 0x20 || d == 0x30 || d == 0x40 || d == 0x41

/-- Four codewords of ten 64-byte slots and a 20-bit control field, of which at most four were not clean (R288). -/
def isFrame (codewords : List Codeword) (corrected uncorrectable : Nat) : Bool :=
  decide (codewords.length = 4 ∧ corrected + uncorrectable ≤ 4) &&
    codewords.all fun c => decide (c.control < 2 ^ 20 ∧ c.slots.length = 10) && c.slots.all fun b => b.length = 64

/-- Is every operand that names a unit within the node's? -/
def WellFormed : Instr → Bool
  | .mbSubmit f | .requestTake f _ | .mbReplyAck f | .replyPost f | .noteHeadWrite f _ | .notificationPost f |
    .deviceFormat f | .deviceCapabilities f | .contextCreate f | .contextClose f | .contextReserve f |
    .contextStatus f | .ringOpen f | .ringClose f | .residencySet f | .residencyPin f | .residencyReplicate f |
    .gaitCheck f _ | .gaitLoad f _ | .gaitStage f | .gaitCancel f | .gaitStatus f | .indexCreate f | .indexClose f |
    .indexBuild f | .indexCompact f | .indexSwitch f | .indexRelease f | .indexStatus f | .programLoad f _ |
    .programUnload f | .programStatus f | .tableCreate f | .tableClose f | .tableBuild f | .tableFold f |
    .tableSwitch f | .tableRelease f | .tableStatus f | .tableRowWrite f | .paddockCreate f | .paddockDelete f |
    .paddockStatus f | .storageQueueCreate f | .storageQueueDelete f | .storageWeightsSet f | .flashHealthLog f |
    .fabricRouteSet f _ | .fabricWindowSet f | .fabricRegionSet f | .fabricGateStage f | .fabricGateCancel f |
    .fabricPolicerSet f | .fabricLinkStatus f | .herdStatus f | .herdTeardown f | .herdRemount f |
    .herdRemountCancel f | .herdUnitReturn f | .trustAttest f | .trustBrandRecord f | .trustFwUpdate f _ |
    .trustDebugChallenge f | .trustDebugUnlock f | .trustIdeKey f | .healthAgeingReport f | .healthUnits f |
    .strideLoRead f | .intCauseClear f _ _ | .intMaskWrite f _ | .dbFaultClear f _ _ | .bar2ErrClear f _ _ |
    .bar2Fence f | .functionLevelReset f | .busMasterEnableWrite f _ => isFunc f
  | .mctpAttestation _ | .mctpBrandRecord | .mctpFirmwareVersion | .mctpAgeingReport | .mctpUnitLists |
    .controlCoreFault | .controlCoreRestarted | .managementCoreCrash | .strideBoundary _ | .mirrorPublication |
    .shardReplySend _ | .shardReplyReceive _ _ | .rerankReplySend _ | .rerankReplyReceive _ _ |
    .mirrorRecordReceive _ | .commitDigestReceive _ _ | .commitDigestDeadline | .updateAckReceive _ |
    .lookupSubRequestReceive _ _ | .stepSegmentReceive _ | .stepNoticeReceive _ | .storageRead _ _ _ |
    .mirroredWriteReceive _ | .wearLevelCheck | .mapCheckpoint | .flashTemperatureSample _ | .qload _ _ | .scan _ |
    .update _ _ | .rowwrite _ _ | .goRecordDeadline | .versionPairDeadline | .granuleScrub | .operationTimeout |
    .laserModuleDark _ | .parentMarkLoss | .outOfStep | .strideInEdge _ | .strideInLoss | .heartbeatSend |
    .heartbeatMiss | .accusationReceive _ | .vouchReceive _ | .fenceDecision | .remountCheckpoint | .remountRestart |
    .powerArrival | .powerRemoval | .resetNAssert | .resetNRelease | .pwrfailNAssert | .powerFailFlushEnd |
    .undervoltage | .firmwareMeasuredStart _ | .tackImageReceive _ | .flashScan _ | .joinRecordReceive _ |
    .joinClose | .joinCloseTimeout | .rootSilentTimeout | .strideLock _ | .lateJoinWait | .stateRestore _ |
    .stageTimeout | .rerankRequestReceive _ | .lookupReplyReceive _ _ | .transportResend _ => true
  | .mctpMirrorRead offset length => decide (offset < 2 ^ 32 ∧ length < 2 ^ 16)
  | .registerWrite f bar offset size _ _ =>
    isFunc f && decide ((bar = 0 ∨ bar = 4) ∧ offset < (if bar = 0 then 2 ^ 21 else 8192) ∧ (size = 1 ∨ size = 2 ∨ size = 4 ∨ size = 8))
  | .arbFlagsClear f n _ _ => isFunc f && isArbiter n
  | .subTailWrite f b _ | .cplHeadWrite f b _ => isFunc f && isBell b
  | .bar2Read f address length => isFunc f && decide (address < 2 ^ 36 ∧ 0 < length ∧ length ≤ 4096)
  | .bar2Write f address data => isFunc f && decide (address < 2 ^ 36 ∧ 0 < data.length ∧ data.length ≤ 512)
  | .bar2Atomic f address op size _ _ =>
    isFunc f && decide (address < 2 ^ 36 ∧ op < 3 ∧ (size = 4 ∨ size = 8 ∨ (size = 16 ∧ op = 2)))
  | .msixVectorUnmask f v => isFunc f && decide (v < 32)
  | .linkUp link _ | .linkDown link | .perstNAssert link => isLink link
  | .vfRemoval link n => isLink link && decide (n < 64)
  | .ideIntegrityFailure link stream => isLink link && decide (stream < 9)
  | .queryAdmission ring _ tile | .updateAdmission ring _ tile | .stepAdmission ring _ tile =>
    decide (ring < 16384 ∧ tile.tile < 96)
  | .shardSubRequestReceive _ _ _ sorter | .updateForwardReceive _ _ _ sorter => decide (sorter.unit < 16)
  | .layer0Round _ _ _ sorter tile | .linkingRound _ _ _ sorter tile => decide (sorter.unit < 16 ∧ tile.tile < 96)
  | .queryMerge handle _ sorter => decide (handle < 262144 ∧ sorter.unit < 16)
  | .rerankRead _ _ _ tile | .detourRequest _ _ tile | .stepMirrorReceive _ tile => decide (tile.tile < 96)
  | .replyDeadline handle | .updateReplyDeadline handle | .lookupPooling handle => decide (handle < 262144)
  | .finalMerge handle _ sorter tile => decide (handle < 262144 ∧ sorter.unit < 16 ∧ tile.tile < 96)
  | .updateStaging tiles => tiles.all fun t => decide (t.tile < 96)
  | .mirrorAckReceive _ entryNode | .mirrorConfirmReceive _ entryNode => decide (entryNode < 32768)
  | .lookupAdmission ring _ => decide (ring < 16384)
  | .stepMerge table tile | .stepMirror table tile => decide (table < 2 ^ 32 ∧ tile.tile < 96)
  | .stepApply table _ | .stepDigestReceive table _ _ _ | .stepPoisonRepair table _ _ _ | .stepNoticeDeadline table |
    .stepDigestDeadline table => decide (table < 2 ^ 32)
  | .storageAdmission cls _ | .scheduledOperationIssue cls _ _ => decide (cls < 16384)
  | .storageDetourRead paddock _ count _ => decide (paddock < 4096 ∧ count ≤ 64)
  | .arrayOperationIssue channel _ _ _ => isChannel channel
  | .arrayOperationComplete channel target _ | .programStatusRead channel target =>
    isChannel channel && decide (target < 8)
  | .pagePaddingTimeout paddock channel => isChannel channel && decide (paddock < 4096)
  | .burstGrant stack => decide (stack < 8)
  | .burstEnd unit => decide (unit < 512)
  | .arbiterDecision n _ _ _ _ _ => isArbiter n
  | .migrationSelection object | .migrationCopy object _ _ | .buildAdmission object _ _ | .versionBuilt object |
    .switchTupleReceive object _ _ _ | .goRecordReceive object _ _ _ | .versionPairReceive object _ |
    .indexCloseDrained object | .versionFill object _ _ => decide (object < 2 ^ 32)
  | .contextCloseDrained context => decide (context < 4096)
  | .frameReceive port codewords corrected uncorrectable => isPort port && isFrame codewords corrected uncorrectable
  | .headerRecordReceive port _ _ | .routerForward port _ _ | .creditReturn port | .creditMessageReceive port _ |
    .portDown port | .strideMarkReceive port _ _ _ | .heartbeatReceive port _ | .fenceRecordReceive port _ => isPort port
  | .memoryOperation port cls _ | .operationResponseReceive port cls _ => isPort port && decide (cls = 3 ∨ cls = 4)
  | .portTraining port report => isPort port && decide (report.peer < 2 ^ 15)
  | .junctionSample eighths => decide (eighths.length = 10)
  | .railsInRegulation failure => decide (failure = 0 ∨ failure = 0x0101 ∨ failure = 0x0102)
  | .unitTraining stage _ => decide (4 ≤ stage ∧ stage ≤ 6)
  | .joinCloseReceive firstStride => decide (firstStride < 2 ^ 64)
  | .serviceGaitAdoption absent => absent.all fun n => n < 20480
  | .farrierSweep report => isDomain report.domain

end Sys2Proof
end

