-- ==== Sys2Proof/Safety.lean ====
section
/-! DEFINITION. What a safe state is, in the terms that statements use: the invariants that every step keeps, and the
words in which statements say what answering a request does. -/

namespace Sys2Proof

open Sys2Proof.Machine

/-- HBM keeps its canonical form: equal memories are equal data. -/
def MemInv (s : State) : Prop := cellsWf s.mem.bytes = true

/-- The state in which the request `q` of function `f` has left the head of its mailbox's taken requests, `t` being what
its effect made of the state, and its reply is queued; refusals that now stand at the front are answered after it (R378). -/
def settled (f : Nat) (t : State) (q : Request) (status stamp : Nat) (payload : Bytes) : State :=
  (t.reply q status stamp payload).flush f

/-- A stack on which no command waits to begin and no operation waits for a unit: the head of each of its units has begun, and
commands have the numbers that they were given as they were received. -/
abbrev StackQuiet (s : State) (stack : Nat) : Prop :=
  s.nmu.lockWaiters = [] ∧
  ∀ p ∈ s.nmu.units, (∀ c ∈ p.2.commands, c.number < s.nmu.received) ∧
    (p.1 / 64 = stack → ∀ c ∈ p.2.commands.head?, c.phase ≠ 0)

/-- `t` is `s` once unit `u`, which had no command, has received `b` and its load bursts wait at the gate. -/
def LoadsBegun (s t : State) (u : Nat) (b : Bytes) (poisoned : Bool) : Prop :=
  (t.unit u).commands =
      [{ newCommand b poisoned with number := s.nmu.received, phase := 1, left := ceilDiv (cmdLength b) 2048 }] ∧
    SMap.getD t.nmu.waiting (u / 64) [] = SMap.getD s.nmu.waiting (u / 64) [] ++ loadBursts u (cmdLength b) (cmdWhole b) ∧
    (∀ v, v ≠ u → t.unit v = s.unit v) ∧ t.mem = s.mem

/-- The burst `x` runs in unit `u`, the last one of a phase of its only command `c`. -/
abbrev LastBurst (s : State) (u : Nat) (x : Burst) (c : UnitCommand) (phase : Nat) : Prop :=
  (s.unit u).burst = some x ∧ x.unit = u ∧ x.whole = false ∧ (s.unit u).commands = [c] ∧ c.phase = phase ∧ c.left = 1 ∧
    StackQuiet s (u / 64)

end Sys2Proof
end

