-- ==== Sys2Proof/Certificates/Slice0/Obligations.lean ====
section
/-! DEFINITION. The statements: what each command does where it runs its own effect, with what it leaves unchanged, and rules
of the whole machine and of its data. -/

open Sys2Proof Sys2Proof.Machine

/-! ## The machine as a whole -/

/-- A step runs the command at the front of the queue on the state with the queue's rest, and idles on an empty queue (the
idling is the model's choice, log entry 3). -/
def Obligations.StepRunsFrontCommand : Prop :=
  (∀ c s, step (s.push c) = exec c s) ∧
  (∀ c rest s, s.pending = c :: rest → step s = exec c { s with pending := rest }) ∧
  (∀ s, s.pending = [] → step s = .next s)

/-- Every command whose operands name units that the node has runs to a next state, whatever the state, and one that names
a unit it does not have stops with a fault; no command is refused. It also rests on the readings that the model chose
in log entries 7 and 9. -/
def Obligations.EveryCommandCompletes : Prop :=
  (∀ c s, WellFormed c = true → ∃ t, exec c s = .next t) ∧
  (∀ c s, WellFormed c = false → exec c s = .fault .noSuchUnit)

/-- A step that runs a command leaves exactly the queue's rest waiting: no command puts another into the queue. -/
def Obligations.StepConsumesOneCommand : Prop :=
  ∀ c rest s t, s.pending = c :: rest → step s = .next t → t.pending = rest

/-- The state after reset keeps HBM in its canonical form, with no byte listed. It also rests on the readings that the
model chose in log entry 6. -/
def Obligations.MemoryCanonicalAtReset : Prop :=
  MemInv State.reset ∧ ∀ a, readByte State.reset.mem.bytes a = 0

/-- Every step keeps HBM in its canonical form. It also rests on the readings that the model chose in log entry 6. -/
def Obligations.MemoryCanonicalKept : Prop :=
  ∀ s t, MemInv s → step s = .next t → MemInv t

/-- R25, R418, R420: only the boundary advances the stride counter, by one; only the close of a join sets it, and only the
loss of the rails or a restart clears it; every other command leaves it. It also rests on the readings that the model
chose in log entries 3 and 79. -/
def Obligations.StrideCounterForward : Prop :=
  (∀ w s t, exec (.strideBoundary w) s = .next t → t.clk.stride = s.clk.stride ∨ t.clk.stride = s.clk.stride + 1) ∧
  (∀ c s t, exec c s = .next t →
    c ∉ [.joinClose, .joinCloseTimeout, .rootSilentTimeout, .powerRemoval, .undervoltage, .resetNAssert, .powerFailFlushEnd,
      .remountRestart] → (∀ w, c ≠ .strideBoundary w) → (∀ k, c ≠ .joinCloseReceive k) → t.clk.stride = s.clk.stride) ∧
  (∀ c s t, exec c s = .next t → c ∈ [.powerRemoval, .undervoltage, .resetNAssert, .powerFailFlushEnd, .remountRestart] →
    t.clk.stride = s.clk.stride ∨ t.clk.stride = 0)

/-- R24, R167, R177, R179, R183, R185, R237, R280, R304, R389: these commands alone write HBM: the end of a burst, by
which UPDATE, ROWWRITE, training and migration write their rows; fabric operations on this node; lookups' results;
storage reads into HBM; the scrub; and the boundary, which lets waiting operations run; the loss of the rails clears
it. It also rests on the readings that the model chose in log entries 25 and 35. -/
def Obligations.HbmWritersNamed : Prop :=
  ∀ c s t, exec c s = .next t →
    (∀ w, c ≠ .strideBoundary w) → (∀ h, c ≠ .lookupPooling h) → (∀ b l a, c ≠ .storageRead b l a) →
    (∀ u, c ≠ .burstEnd u) → (∀ p k r, c ≠ .memoryOperation p k r) →
    c ∉ [.granuleScrub, .powerRemoval, .undervoltage, .resetNAssert, .powerFailFlushEnd, .remountRestart] →
    t.mem.bytes = s.mem.bytes

/-- R325: a fence holds until the next remount: no command but a restart or the loss of the rails takes a node out of the
fenced set, the epoch rises by one for each fence adopted, and only the boundary and the service gait's adoption adopt
one. It also rests on the readings that the model chose in log entry 38. -/
def Obligations.FencesHold : Prop :=
  (∀ c s t, exec c s = .next t →
    c ∉ [.powerRemoval, .undervoltage, .resetNAssert, .powerFailFlushEnd, .remountRestart] →
    (∀ n ∈ s.memb.fenced, n ∈ t.memb.fenced) ∧
    t.memb.epoch + s.memb.fenced.length = s.memb.epoch + t.memb.fenced.length) ∧
  (∀ c s t, exec c s = .next t →
    c ∉ [.powerRemoval, .undervoltage, .resetNAssert, .powerFailFlushEnd, .remountRestart] →
    (∀ w, c ≠ .strideBoundary w) → (∀ l, c ≠ .serviceGaitAdoption l) →
    t.memb.fenced = s.memb.fenced ∧ t.memb.epoch = s.memb.epoch)

/-- R24, R345, R346, R355, R363: after reset no unit has started: the node is starting with no stage reached, no failure
code, no node id and no membership; each function has no cause raised, the mirror cause masked, and no fault or
failure latched; its mailbox takes nothing; no context, ring, index, table or paddock exists and no change waits
(fields whose reset value the manual does not state are not named here). -/
def Obligations.ResetState : Prop :=
  State.reset.pending = [] ∧ State.reset.changes = [] ∧
  State.reset.node.st = 0 ∧ State.reset.node.stage = 0 ∧ State.reset.node.failure = 0 ∧ State.reset.node.id = 0 ∧
  State.reset.node.joined = false ∧ State.reset.node.unlocked = false ∧ State.reset.tel.select = 0 ∧
  (∀ f, (State.reset.func f).intCause = 0 ∧ (State.reset.func f).intMask = 0x200 ∧ (State.reset.func f).dbFault = 0 ∧
    (State.reset.func f).bar2Err = 0) ∧
  (∀ f, (State.reset.mailbox f).ready = false ∧ (State.reset.mailbox f).replyValid = false ∧
    (State.reset.mailbox f).negotiated = false ∧ (State.reset.mailbox f).taken = []) ∧
  State.reset.contexts = [] ∧ State.reset.rings = [] ∧ State.reset.queues = [] ∧ State.reset.indexes = [] ∧
  State.reset.tables = [] ∧ State.reset.flash.paddocks = [] ∧ State.reset.memb.fenced = [] ∧
  State.reset.gaits.service = false ∧ State.reset.work.queries = []

/-! ## Rules on data -/

/-- R374: an accepted request comes from a sender of its opcode's class: one of class M from function 0 with context 0,
one of class C with a context bound to the function, one of class A with context 0 or a context bound to it, and none
is of an opcode that only the node sends. -/
def Obligations.SendersChecked : Prop :=
  (∀ (s : State) f h d p i, s.requestCheck f h d p = none → opInfo (le h 2 2) = some i →
    (i.sender = 0 → f = 0 ∧ le h 4 2 = 0) ∧
    (i.sender = 1 → le h 4 2 ≠ 0 ∧ s.funcOf (le h 4 2) = f) ∧
    (i.sender = 2 → le h 4 2 = 0 ∨ s.funcOf (le h 4 2) = f) ∧ i.sender ≠ 3) ∧
  (∀ (s : State) f h d p, s.requestCheck f h d p = none → (opInfo (le h 2 2)).isSome = true) ∧
  (∀ o i, opInfo o = some i → i.sender = (
    if o ∈ [0x0201, 0x0202, 0x0203, 0x0301, 0x0302, 0x0303, 0x0304, 0x0305, 0x0701, 0x0704, 0x0705, 0x0706, 0x0709, 0x070A,
      0x070B, 0x0803, 0x0804, 0x0805] then 0
    else if o ∈ [0x0101, 0x0102, 0x0607, 0x0707, 0x0708, 0x0801, 0x0802, 0x0901, 0x0902] then 2
    else if o ∈ [0x0408, 0x0509, 0x0608, 0x070C] then 3 else 1))

/-- R62: the codes of a row follow its 64-byte metadata block; they are packed one byte an element, or two to a byte with
the even element in the low half; the area is filled with zero bytes to a multiple of 64 bytes, and the codes read
back are those packed, whatever stands in the padding. -/
def Obligations.CodesPacked : Prop :=
  (∀ c, (∀ v ∈ c, -128 ≤ v ∧ v ≤ 127) → codesOf 0 c.length (packCodes 0 c) = c ∧
    ∀ i, i < c.length → byteAt (packCodes 0 c) i = (c.getD i 0 % 256).toNat) ∧
  (∀ c, (∀ v ∈ c, -8 ≤ v ∧ v ≤ 7) → codesOf 1 c.length (packCodes 1 c) = c ∧
    ∀ j, j < (c.length + 1) / 2 → byteAt (packCodes 1 c) j % 16 = (c.getD (2 * j) 0 % 16).toNat ∧
      byteAt (packCodes 1 c) j / 16 = (c.getD (2 * j + 1) 0 % 16).toNat) ∧
  (∀ w c, w < 2 → 64 + (packCodes w c).length = rowBytes w c.length ∧
    ∀ i, (if w = 0 then c.length else (c.length + 1) / 2) ≤ i → byteAt (packCodes w c) i = 0) ∧
  (∀ w d b x, w < 2 → (∀ i, i < (if w = 0 then d else (d + 1) / 2) → byteAt b i = byteAt x i) →
    sumInt (codesOf w d b) = sumInt (codesOf w d x)) ∧
  (∀ w d, rowBytes w d = 64 + 64 * (((if w = 0 then d else (d + 1) / 2) + 63) / 64)) ∧
  (∀ b, rowCodes b = codesOf (rowWidth b) (rowDim b) (b.drop 64)) ∧
  rowBytes 0 4096 = 4160 ∧ ∀ w d, d ≤ 4096 → rowBytes w d ≤ 4160

/-- R136: each input entry has its position in input order; entries are ordered by rank key, then user key, then position;
the position decides only between entries equal in both keys, and is written to no output. -/
def Obligations.SelectionOrdered : Prop :=
  (∀ (l : List Entry) i (e : Entry), l[i]? = some e → (numbered l)[i]? = some { e with pos := i, dups := 0 }) ∧
  (∀ l, (numbered l).length = l.length) ∧
  (∀ a b : Entry, a.before b = true ↔ a.rank < b.rank ∨ (a.rank = b.rank ∧ (a.key < b.key ∨ (a.key = b.key ∧ a.pos < b.pos)))) ∧
  (∀ l, (sortEntries l).Perm l ∧ (sortEntries l).Pairwise fun a b => b.before a = false) ∧
  (∀ (a b : Entry) p r, (a.rank ≠ b.rank ∨ a.key ≠ b.key) →
    Entry.before { a with pos := p } { b with pos := r } = a.before b) ∧
  (∀ (e : Entry) p, Entry.bytes { e with pos := p } = e.bytes)

/-- R145: a selection that holds fewer entries than asked for has no boundary entry and sets no tie; the completion then
carries its entries followed by padding entries up to the number asked for. -/
def Obligations.ShortSelections : Prop :=
  (∀ d k l, (select d k l).out.length < k → (select d k l).boundary = none ∧ (select d k l).tie k = false) ∧
  (∀ k flags st dups v a (l : List Entry), l.length < k → ∃ head, head.length = 32 ∧
    resultBlock k flags st dups v a l = head ++ l.flatMap Entry.bytes ++
      (List.replicate (k - l.length) (toLe 6 0xFFFF_FFFF_FFFF ++ toLe 2 0x0001 ++ toLe 4 0xFFFF_FFFF ++ toLe 4 0)).flatten)

/-- R136, R140, R141: with deduplication off a selection is the first k of its input entries, padding left out, in the
order of rank key, user key and position, however many chained passes it takes. It also rests on the readings that the
model chose in log entry 81. -/
def Obligations.SelectionKeepsBest : Prop :=
  ∀ k l, (select false k l).out = (sortEntries ((numbered l).filter fun e => !hasFlag e.flags flPad)).take k

/-- R90, R217, R289: what the coordinating node writes into a shard sub-request, and the entry node into an update record,
the other node reads back whole, at every value that the fields admit; and the control fields that a port writes into
a frame give back the ten group tags and the header half in every case. It also rests on the readings that the model
chose in log entries 24 and 107. -/
def Obligations.MessagesReadBack : Prop :=
  (∀ node ring handle a n index ctx op key shard id (body : Bytes) len at', node < 2 ^ 15 → ring < 2 ^ 16 → handle < 2 ^ 18 →
    a < 2 ^ 64 → n < 2 ^ 64 → index < 2 ^ 32 → ctx < 2 ^ 16 → op < 2 ^ 8 → key < 2 ^ 48 → shard < 2 ^ 16 → id < 2 ^ 32 →
    body.length < 2 ^ 32 →
    parseForward (recordHeader node ring handle a n index ctx op key shard id body.length ++ body) len at' =
      { entryNode := node, ring := ring, handle := handle, admitAt := a, sequence := n, index := index, context := ctx,
        op := op, key := key, shard := shard, updateId := id, record := body, search := none, rounds := at', links := 0, len := len } ∧
    (recordHeader node ring handle a n index ctx op key shard id body.length).length = 64) ∧
  (∀ (q : Query) node shard handle descent rest cls elastic len, node < 2 ^ 15 → shard < 2 ^ 16 → handle < 2 ^ 18 → q.admitAt < 2 ^ 64 →
    q.version < 2 ^ 64 → q.index < 2 ^ 32 → q.context < 2 ^ 16 → q.width < 2 ^ 8 → q.depth < 2 ^ 16 →
    q.filter.length < 2 ^ 16 → q.record.length < 2 ^ 32 →
    let x := searchOf (subRequest node shard handle q descent ++ rest) cls elastic len
    x.coord = node ∧ x.shard = shard ∧ x.handle = handle ∧ x.admitAt = q.admitAt ∧ x.version = q.version ∧
      x.index = q.index ∧ x.context = q.context ∧ x.width = q.width ∧ x.named = q.named ∧ x.depth = q.depth ∧
      x.filter = q.filter ∧ x.record = q.record ∧ x.descent = descent % 2 ^ 16) ∧
  (∀ tags half fields, tags.length = 10 → (∀ t ∈ tags, t ≤ 8) → half < 2 ^ 32 →
    fields = (List.range 4).map (controlField tags half) →
    frameTags fields = tags ∧ frameHalf fields = half ∧ frameIndexes fields = [0, 1, 2, 3] ∧ ∀ f ∈ fields, f < 2 ^ 20)

/-- R108: the shard and the layers of a row follow from its user key alone: its shard is the mixed key modulo the shard
count, and it stands on layer l up to 15 exactly where 2 to the power of the level shift times l divides the mixed
key. -/
def Obligations.KeysPlaced : Prop :=
  (∀ seed n key, key < 2 ^ 48 → 1 ≤ n →
    shardOf seed n key = (mix (BitVec.ofNat 64 key ^^^ BitVec.ofNat 64 seed)).toNat % n) ∧
  (∀ z : BitVec 64, ∃ a b, a = (z ^^^ (z >>> 30)) * 0xBF58476D1CE4E5B9#64 ∧ b = (a ^^^ (a >>> 27)) * 0x94D049BB133111EB#64 ∧
    mix z = b ^^^ (b >>> 31)) ∧
  (∀ seed shift key h, key < 2 ^ 48 → 1 ≤ shift →
    h = (mix (BitVec.ofNat 64 key ^^^ BitVec.ofNat 64 seed ^^^ 0x5A5A5A5A5A5A5A5A#64)).toNat →
    levelOf seed shift key ≤ 15 ∧ (∀ l, l ≤ 15 → (l ≤ levelOf seed shift key ↔ 2 ^ (shift * l) ∣ h)))

/-- R356: the pieces of a request are naturally aligned, at most 8 bytes, in ascending address, and cover exactly its
bytes. -/
def Obligations.RequestPiecesCover : Prop :=
  ∀ a n, (∀ p ∈ splitPieces n a n, (p.2 = 1 ∨ p.2 = 2 ∨ p.2 = 4 ∨ p.2 = 8) ∧ p.1 % p.2 = 0) ∧
    (splitPieces n a n).flatMap (fun p => (List.range p.2).map (p.1 + ·)) = (List.range n).map (a + ·)

/-! ## Host access: mailboxes, registers, BAR2, links -/

/-- R364, R365, R363: a write to MB_SUBMIT submits the request area while REQ_FREE is set and is ignored while it is
clear; a write to MB_REPLY_ACK frees the reply area, and the request area while fewer than 32 requests are
outstanding; a write to NOTE_HEAD moves it within its present value and NOTE_TAIL, and is ignored outside them.
Nothing else changes. R364, R365, R377, R378: the mailboxes with a request to take are served in rotation by function
number; a submitted request is taken behind those taken before it, and the mailbox counts it as outstanding and frees
its request area while fewer than 32 are; the oldest reply that may be posted is posted to the free reply area, with
cause MBOX_REPLY; the oldest queued notification is posted to the slot of NOTE_TAIL, with cause MBOX_NOTIFY; one
beyond the free slots and 1,024 queued is discarded and counted as it is raised. It also rests on the readings that
the model chose in log entries 11, 16 and 79. -/
def Obligations.MailboxServed : Prop :=
  (∀ f s, f < 64 → s.reach f = true → (s.mailbox f).reqFree = true →
    exec (.mbSubmit f) s = .next (s.modMailbox f fun m =>
      { m with reqFree := false, submitted := true, among := m.outstanding })) ∧
  (∀ f s, f < 64 → (s.mailbox f).reqFree = false → exec (.mbSubmit f) s = .next s) ∧
  (∀ f s, f < 64 → s.reach f = true → (s.mailbox f).replyValid = true →
    exec (.mbReplyAck f) s = .next (s.modMailbox f fun m =>
      { m with replyValid := false, reqFree := m.ready && !m.submitted && decide (m.outstanding < 32) })) ∧
  (∀ f s, f < 64 → (s.mailbox f).replyValid = false → exec (.mbReplyAck f) s = .next s) ∧
  (∀ f v s, f < 64 → s.reach f = true → 0 ≤ (v - (s.mailbox f).noteHead).toInt → 0 ≤ ((s.mailbox f).noteTail - v).toInt →
    exec (.noteHeadWrite f v) s = .next (s.modMailbox f fun m => { m with noteHead := v })) ∧
  (∀ f v s, f < 64 → ((v - (s.mailbox f).noteHead).toInt < 0 ∨ ((s.mailbox f).noteTail - v).toInt < 0) →
    exec (.noteHeadWrite f v) s = .next s) ∧
  (∀ f d s, f < 64 → s.nextTaken = some f →
    exec (.requestTake f d) s = .next (({ s with ctl := { s.ctl with
      turn := f, takenCount := s.ctl.takenCount + 1 } }.modMailbox f fun m =>
      { m with submitted := false, outstanding := m.outstanding + 1, reqFree := decide (m.outstanding + 1 < 32),
               taken := m.taken ++ [s.takenRequest f d] }).flush f)) ∧
  (∀ f d s, f < 64 → s.nextTaken ≠ some f → exec (.requestTake f d) s = .next s) ∧
  (∀ (s : State) f g, s.nextTaken = some f → g < 64 → s.takeable g = true →
    s.takeable f = true ∧ f < 64 ∧ (f + 63 - s.ctl.turn % 64) % 64 ≤ (g + 63 - s.ctl.turn % 64) % 64) ∧
  (∀ f r s, f < 64 → (s.mailbox f).replies.find? (s.postable f) = some r → (s.mailbox f).replyValid = false →
    (s.mailbox f).ready = true → s.ctl.coreDown = false → r.indirect = none →
    exec (.replyPost f) s = .next ((s.modMailbox f fun m =>
      { m with replies := m.replies.erase r, replyValid := true, outstanding := m.outstanding - 1,
               replyArea := putAt (fit 1024 m.replyArea) 0 ((r.header s.stride ++ r.payload).take 1024) }).cause
      f causeReply)) ∧
  (∀ f n rest s, f < 64 → (s.mailbox f).noteQueue = n :: rest → (s.mailbox f).ready = true → s.ctl.coreDown = false →
    ((s.mailbox f).noteTail - (s.mailbox f).noteHead).toNat < 8 →
    exec (.notificationPost f) s = .next ((s.modMailbox f fun m =>
      { m with noteQueue := rest, noteSlots := SMap.set m.noteSlots (m.noteTail.toNat % 8) n.bytes,
               noteTail := m.noteTail + 1 }).cause f causeNotify)) ∧
  (∀ (s : State) f op c tag st stride p, s.ctl.coreDown = false → (s.mailbox f).ready = true →
    s.note f op c tag st stride p = s.modMailbox f fun m =>
      if m.noteQueue.length < 8 - (m.noteTail - m.noteHead).toNat + 1024 then
        { m with noteQueue := m.noteQueue ++ [{ opcode := op, context := c, tag := tag, status := st, stamp := stride,
                                                payload := p.take 64 }] }
      else { m with noteLost := if m.noteLost = 0xFFFF_FFFF then m.noteLost else m.noteLost + 1 })

/-- R372, R373, R17, R16: DEVICE_FORMAT with no other request outstanding as it was submitted chooses format 2.1 where the
range asked for holds it; DEVICE_CAPABILITIES reports the capabilities; a control core that faults takes no request
until its restart; a crash of the management core stops its own answers and leaves the control and data planes as they
were. It also rests on the readings that the model chose in log entries 11 and 12. -/
def Obligations.DevicePlanes : Prop :=
  (∀ f s q, f < 64 → s.headRequest f 0x0101 = some q → q.mute = false →
    q.others = 0 → q.field 2 2 ≤ 0x0201 → 0x0201 ≤ q.field 0 2 →
    exec (.deviceFormat f) s = .next (settled f
      ((s.popRequest f).modMailbox f fun m => { m with negotiated := true }) q stOk unstamped (formatReply 0x0201))) ∧
  (∀ f s q, f < 64 → s.headRequest f 0x0102 = some q →
    exec (.deviceCapabilities f) s = .next (settled f (s.popRequest f) q stOk unstamped capabilities)) ∧
  (∀ s, exec .controlCoreFault s = .next { s with ctl := { s.ctl with
    coreDown := true, coreAt := if s.ctl.coreDown then s.ctl.coreAt else s.stride } }) ∧
  (∀ s, exec .managementCoreCrash s = .next { s with ctl := { s.ctl with mgmtDown := true } }) ∧
  (∀ s, s.ctl.coreDown = true → ∃ t, exec .controlCoreRestarted s = .next t ∧ t.ctl.coreDown = false ∧
    t.ctl.deferred = [] ∧ t.ctl.heldNotes = [] ∧ t.clk = s.clk ∧ t.mem = s.mem ∧ t.work = s.work ∧
    ∀ f, (t.mailbox f).taken = [])

/-- R346, R357, R195, R7: in a function that the access reaches, writing one clears a cause bit, DB_FAULT.VALID,
BAR2_ERR.VALID (those bits alone) and a bit of ARB_FLAGS, unless the bit's cause reasserts in the same cycle; a write
to INT_MASK replaces it, and sends vector 0 exactly where it unmasks a set cause. Nothing else changes. R347: a 4-byte
read of STRIDE_LO returns the counter's lower half and latches its upper half in the function's STRIDE_HI; before the
node has joined its herd both read zero. R354: unmasking a vector clears its mask bit; where its pending bit is set
the message is sent and the bit clears, but for a vector of rings and queues in a commit window, which stays pending
until the window's end. The vector control word of a table entry masks and unmasks its vector, and the entry's other
words read back as written. It also rests on the readings that the model chose in log entries 5, 18 and 109. -/
def Obligations.RegisterAccesses : Prop :=
  (∀ f v re s, f < 64 → s.reach f = true →
    exec (.intCauseClear f v re) s = .next (s.modFunc f fun r => { r with intCause := r.intCause &&& ~~~(v &&& ~~~re) })) ∧
  (∀ f v s, f < 64 → s.reach f = true → (s.func f).intCause &&& (s.func f).intMask &&& ~~~v = 0 →
    exec (.intMaskWrite f v) s = .next (s.modFunc f fun r => { r with intMask := v })) ∧
  (∀ f v s, f < 64 → s.reach f = true → (s.func f).intCause &&& (s.func f).intMask &&& ~~~v ≠ 0 →
    exec (.intMaskWrite f v) s = .next ((s.modFunc f fun r => { r with intMask := v }).vector f 0)) ∧
  (∀ f v re s, f < 64 → s.reach f = true → exec (.dbFaultClear f v re) s =
    .next (s.modFunc f fun r => { r with dbFault := r.dbFault &&& ~~~(v &&& 0x8000_0000 &&& ~~~re) })) ∧
  (∀ f v re s, f < 64 → s.reach f = true → exec (.bar2ErrClear f v re) s =
    .next (s.modFunc f fun r => { r with bar2Err := r.bar2Err &&& ~~~(v &&& 0x8000_0000 &&& ~~~re) })) ∧
  (∀ n v re s, n < 567 → s.reach 0 = true →
    exec (.arbFlagsClear 0 n v re) s = .next (s.modArbiter n fun a => { a with flags := a.flags &&& ~~~(v &&& ~~~re) })) ∧
  (∀ f n v re s, f < 64 → n < 567 → f ≠ 0 → exec (.arbFlagsClear f n v re) s = .next s) ∧
  (∀ f v re s, f < 64 → s.reach f = false →
    exec (.intCauseClear f v re) s = .next s ∧ exec (.intMaskWrite f v) s = .next s ∧
    exec (.dbFaultClear f v re) s = .next s ∧ exec (.bar2ErrClear f v re) s = .next s) ∧
  (∀ f s, f < 64 → s.reach f = true → s.node.joined = true → ∃ t, exec (.strideLoRead f) s = .next t ∧
    (t.func f).strideHi = BitVec.ofNat 32 (s.clk.stride / 2 ^ 32) ∧
    t.out.pcie = s.out.pcie ++ [{ func := f, status := 0, data := toLe 4 s.clk.stride }] ∧
    (∀ g, g ≠ f → t.func g = s.func g) ∧ t.clk = s.clk ∧ t.mem = s.mem ∧ t.mbx = s.mbx) ∧
  (∀ f s, f < 64 → s.reach f = true → s.node.joined = false → ∃ t, exec (.strideLoRead f) s = .next t ∧
    (t.func f).strideHi = 0 ∧ t.out.pcie = s.out.pcie ++ [{ func := f, status := 0, data := [0, 0, 0, 0] }]) ∧
  (∀ f v s, f < 64 → v < 32 → s.reach f = true →
    (bitOf (s.func f).msixPending.toNat v = false ∨ (v ≠ 0 ∧ s.clk.window = 0)) →
    ∃ t, exec (.msixVectorUnmask f v) s = .next t ∧ (t.func f).msixMask.getLsbD v = false ∧ t.out = s.out ∧
      (t.func f).msixPending = (s.func f).msixPending ∧
      (∀ j, j ≠ v → (t.func f).msixMask.getLsbD j = (s.func f).msixMask.getLsbD j) ∧ ∀ g, g ≠ f → t.func g = s.func g) ∧
  (∀ f v s, f < 64 → v < 32 → s.reach f = true → bitOf (s.func f).msixPending.toNat v = true →
    (v = 0 ∨ s.clk.window ≠ 0) →
    ∃ t, exec (.msixVectorUnmask f v) s = .next t ∧ (t.func f).msixMask.getLsbD v = false ∧
      (t.func f).msixPending.getLsbD v = false ∧ t.out.msix = s.out.msix ++ [(f, v)] ∧
      (∀ j, j ≠ v → (t.func f).msixPending.getLsbD j = (s.func f).msixPending.getLsbD j) ∧ ∀ g, g ≠ f → t.func g = s.func g) ∧
  (∀ f v (x re : Word64) s, f < 64 → v < 32 → s.reach f = true → x.getLsbD 0 = true →
    exec (.registerWrite f 4 (16 * v + 12) 4 x re) s =
      .next (s.modFunc f fun r => { r with msixMask := r.msixMask ||| BitVec.ofNat 32 (2 ^ v) })) ∧
  (∀ f v (x re : Word64) s, f < 64 → v < 32 → s.reach f = true → x.getLsbD 0 = false →
    exec (.registerWrite f 4 (16 * v + 12) 4 x re) s = exec (.msixVectorUnmask f v) s) ∧
  (∀ f v i (x re : Word64) s, f < 64 → v < 32 → s.reach f = true → i < 3 → ∃ t,
    exec (.registerWrite f 4 (16 * v + 4 * i) 4 x re) s = .next t ∧
    t.bar4Read f (16 * v + 4 * i) 4 = .data (x.toNat % 2 ^ 32) ∧
    (∀ j, j < 3 → j ≠ i → t.bar4Read f (16 * v + 4 * j) 4 = s.bar4Read f (16 * v + 4 * j) 4) ∧
    (t.func f).msixMask = (s.func f).msixMask ∧ ∀ g, g ≠ f → t.func g = s.func g)

/-- R194, R344, R347, R348: the identity page reads the same in every function; an arbiter's limits read back as last
written, and its block reads zero outside link 0's PF; the stride counter's page is zero until the node joins; link
0's PF sees a mirror bank whole, and another function sees the two stamps and the sections of the contexts bound to
it, and zero elsewhere; BAR2_ERR is not answered while a BAR2 fence of the function waits (R358). It also rests on the
readings that the model chose in log entry 49. -/
def Obligations.Bar0Read : Prop :=
  (∀ (s : State) f g o c d, o < 0x1000 → o % 4 = 0 → s.reach f = true → s.reach g = true →
    s.bar0Read f o 4 c = s.bar0Read g o 4 d ∧ s.bar0Read f 0 4 c = .data 0x4D55_5248) ∧
  (∀ s n (v re : Word64) c, n < 567 → s.reach 0 = true → ∃ t,
    exec (.registerWrite 0 0 (0x14_0000 + 64 * n + 4) 4 v re) s = .next t ∧
    t.bar0Read 0 (0x14_0000 + 64 * n + 4) 4 c =
      .data (((s.arbiter n).prio &&& ~~~arbiterPrioMask n) ||| (v.setWidth 32 &&& arbiterPrioMask n)).toNat ∧
    ∀ k, k ≠ n → t.arbiter k = s.arbiter k) ∧
  (∀ s f n o (v re : Word64) c, f < 64 → f ≠ 0 → n < 567 → o < 64 → o % 4 = 0 → s.reach f = true →
    exec (.registerWrite f 0 (0x14_0000 + 64 * n + o) 4 v re) s = .next s ∧
    s.bar0Read f (0x14_0000 + 64 * n + o) 4 c = .data 0) ∧
  (∀ (s : State) f o c, 0x3000 ≤ o → o < 0x4000 → o % 4 = 0 → s.reach f = true → s.node.joined = false →
    s.bar0Read f o 4 c = .data 0) ∧
  (∀ (s : State) (b : Bool) o c, o + 4 ≤ 0x4_0000 → o % 4 = 0 → s.reach 0 = true →
    s.bar0Read 0 ((if b then 0x1C_0000 else 0x18_0000) + o) 4 c = .data (le ((s.bank b).read s.flash.fresh o 4) 0 4)) ∧
  (∀ (s : State) f (b : Bool) o c, f ≠ 0 → o % 4 = 0 → 8 ≤ o → o + 4 ≤ 0x3_FFF8 → s.reach f = true →
    (o < 0x1_0000 ∨ 0x3_0000 ≤ o ∨ ∀ x ∈ s.contexts, x.1 = (o - 0x1_0000) / 32 → x.2.func ≠ f) →
    s.bar0Read f ((if b then 0x1C_0000 else 0x18_0000) + o) 4 c = .data 0) ∧
  (∀ (s : State) f (b : Bool) o c, o % 4 = 0 → o + 4 ≤ 0x4_0000 → s.reach f = true → (o < 8 ∨ 0x3_FFF8 ≤ o ∨ (0x1_0000 ≤ o ∧ o < 0x3_0000 ∧
    ∃ x ∈ s.contexts, x.1 = (o - 0x1_0000) / 32 ∧ x.2.func = f)) →
    s.bar0Read f ((if b then 0x1C_0000 else 0x18_0000) + o) 4 c = .data (le ((s.bank b).read s.flash.fresh o 4) 0 4)) ∧
  (∀ (s : State) f c, s.reach f = true → s.bar0Read f 0x4408 4 c =
    if (s.func f).fenceTags.isEmpty then .data (s.func f).bar2Err.toNat else .held)

/-- R349, R350: in a live doorbell block of an open ring or queue, a SUB_TAIL that neither goes back nor passes ADMITTED
plus the depth, and a CPL_HEAD between its value and the tail, are taken; any other write is ignored, sets
DOORBELL_FAULT and latches DB_FAULT where its VALID is clear. R343, R7, R194: a 4-byte register write does what the
command of its register does; it writes the request area of the function's own mailbox, the telemetry select of
function 0, the shadow copy of an aperture register, and an arbiter's priorities; a write to BAR2_FENCE starts a
fence; reserved bits of the select stay zero (R6); an aligned 8-byte write is two 4-byte writes, the lower first; an
unaligned or narrow one changes nothing and completes as Unsupported Request; one to another function's mailbox
changes nothing. It also rests on the readings that the model chose in log entry 18. -/
def Obligations.DoorbellsAndRegisterWrites : Prop :=
  (∀ f b v s r, f < 64 → isBell b = true → s.bellLive f b = true → s.bell b = some r → r.isOpen = true → r.lost = false →
    0 ≤ (v - r.subTail).toInt → (v - BitVec.ofNat 32 (r.admitted + r.depth)).toInt ≤ 0 →
    exec (.subTailWrite f b v) s = .next (s.modBell b fun r => { r with subTail := v })) ∧
  (∀ f b v s r, f < 64 → isBell b = true → s.bellLive f b = true → s.bell b = some r → r.isOpen = true → r.lost = false →
    0 ≤ (v - r.cplHead).toInt → (v - r.cplTail).toInt ≤ 0 →
    exec (.cplHeadWrite f b v) s = .next (s.modBell b fun r => { r with cplHead := v })) ∧
  (∀ f b v s r, f < 64 → isBell b = true → s.bellLive f b = true → s.bell b = some r → r.tailFault v ≠ 0 →
    ∃ t, exec (.subTailWrite f b v) s = .next t ∧ t.rings = s.rings ∧ t.queues = s.queues ∧
      (t.func f).intCause.getLsbD 6 = true ∧
      (t.func f).dbFault = if bitOf (s.func f).dbFault.toNat 31 then (s.func f).dbFault
        else dbFaultWord r.context b (r.tailFault v)) ∧
  (∀ f b v s r, f < 64 → isBell b = true → s.bellLive f b = true → s.bell b = some r → r.headFault v ≠ 0 →
    ∃ t, exec (.cplHeadWrite f b v) s = .next t ∧ t.rings = s.rings ∧ t.queues = s.queues ∧
      (t.func f).intCause.getLsbD 6 = true ∧
      (t.func f).dbFault = if bitOf (s.func f).dbFault.toNat 31 then (s.func f).dbFault
        else dbFaultWord r.context b (r.headFault v)) ∧
  (∀ f b v s, f < 64 → isBell b = true → s.bellLive f b = false →
    exec (.subTailWrite f b v) s = .next s ∧ exec (.cplHeadWrite f b v) s = .next s) ∧
  (∀ f (v re : Word64) s, f < 64 → s.reach f = true →
    exec (.registerWrite f 0 0x2000 4 v re) s = exec (.intCauseClear f (v.setWidth 32) (re.setWidth 32)) s ∧
    exec (.registerWrite f 0 0x2004 4 v re) s = exec (.intMaskWrite f (v.setWidth 32)) s ∧
    exec (.registerWrite f 0 0x2008 4 v re) s = exec (.dbFaultClear f (v.setWidth 32) (re.setWidth 32)) s ∧
    exec (.registerWrite f 0 0x4400 4 v re) s = exec (.bar2Fence f) s ∧
    exec (.registerWrite f 0 0x4408 4 v re) s = exec (.bar2ErrClear f (v.setWidth 32) (re.setWidth 32)) s) ∧
  (∀ (v re : Word64) s, s.reach 0 = true →
    exec (.registerWrite 0 0 0x1020 4 v re) s = .next { s with tel := { s.tel with select := v.setWidth 32 &&& 0x3F } }) ∧
  (∀ f o (v re : Word64) s, f < 64 → s.reach f = true → o % 4 = 0 → o < 0x800 →
    exec (.registerWrite f 0 (0x1_0000 + 4096 * f + o) 4 v re) s =
      .next (s.modMailbox f fun m => { m with area := writeBytes m.area o (toLe 4 v.toNat) })) ∧
  (∀ f a o (v re : Word64) s, f < 64 → s.reach f = true → a < 64 → o = 0 ∨ o = 4 ∨ o = 8 → ∃ t,
    exec (.registerWrite f 0 (0x4000 + 16 * a + o) 4 v re) s = .next t ∧ (t.func f).apLive = (s.func f).apLive ∧
      SMap.find? (t.func f).apShadow a =
        some (Aperture.write o (v.setWidth 32) (SMap.getD (s.func f).apShadow a Aperture.zero)) ∧
      a ∈ (t.func f).apDirty ∧ ∀ g, g ≠ f → t.func g = s.func g) ∧
  (∀ n (v re : Word64) s, n < 567 → s.reach 0 = true →
    exec (.registerWrite 0 0 (0x14_0000 + 64 * n + 4) 4 v re) s = .next (s.modArbiter n fun a =>
      { a with prio := (a.prio &&& ~~~arbiterPrioMask n) ||| (v.setWidth 32 &&& arbiterPrioMask n) })) ∧
  (∀ f c i (v re : Word64) s, f < 64 → s.reach f = true → c < 4096 → i < 4 →
    exec (.registerWrite f 0 (0x10_0000 + 64 * c + 16 * i) 4 v re) s = exec (.subTailWrite f (.ring c i) (v.setWidth 32)) s ∧
    exec (.registerWrite f 0 (0x10_0000 + 64 * c + 16 * i + 4) 4 v re) s =
      exec (.cplHeadWrite f (.ring c i) (v.setWidth 32)) s) ∧
  (∀ f b o (v re : Word64) s, f < 64 → s.reach f = true → (b = 0 ∨ b = 4) → o < barSize b → o % 8 = 0 →
    exec (.registerWrite f b o 8 v re) s = .next (wordWrite f b (o + 4) ((v >>> 32).setWidth 32) ((re >>> 32).setWidth 32)
      (wordWrite f b o (v.setWidth 32) (re.setWidth 32) s))) ∧
  (∀ f b o n (v re : Word64) s, f < 64 → s.reach f = true → (b = 0 ∨ b = 4) → o < barSize b →
    (n = 1 ∨ n = 2 ∨ n = 4 ∨ n = 8) → (n < 4 ∨ o % n ≠ 0) →
    exec (.registerWrite f b o n v re) s = .next (s.pcie f 3 [])) ∧
  (∀ f g o (v re : Word64) s, f < 64 → g < 64 → g ≠ f → o < 4096 → o % 4 = 0 → s.reach f = true →
    exec (.registerWrite f 0 (0x1_0000 + 4096 * g + o) 4 v re) s = .next s)

/-- R355, R356, R358: with no fence waiting, in a valid aperture whose target stands, an aligned 8-byte read becomes one
LOAD of class 4 with a fresh request tag, an aligned 8-byte write in mode 0 one STORE, and an AtomicOp in mode 0 its
operation; behind a fence a request is held; a fence with operations outstanding waits for them; a read in an invalid
aperture completes with Completer Abort and is counted; a 128-bit AtomicOp is an Unsupported Request (R340). R303,
R306, R307, R313: a response that comes in by a port in service, unpoliced, frees the tag of the operation it answers,
and a read's last response completes the read with its data; a response to no outstanding operation, and one that
comes after the second stride after its issue, is discarded and counted; after OPERATION_TIMEOUT no operation stands
whose second stride after its issue has ended; a class of kind 6 issues its operation, or its fence waits for the
context's operations. It also rests on the readings that the model chose in log entries 67, 68 and 69. -/
def Obligations.Bar2AndOperations : Prop :=
  (∀ f a s tag, f < 64 → a < 2 ^ 36 → a % 8 = 0 → s.reach f = true → (s.func f).fenceTags = [] → (s.func f).held = [] →
    (s.aperture f a).valid = true → s.isFenced ((s.aperture f a).address a % 2 ^ 15) = false → s.freeTag = some tag →
    ∃ t, exec (.bar2Read f a 8) s = .next t ∧ t.work.tags = tag :: s.work.tags ∧
      t.fab.ops = s.fab.ops ++ [{ tag := tag, node := (s.aperture f a).address a % 2 ^ 15,
                                  window := (s.aperture f a).address a / 2 ^ 15 % 2 ^ 9, context := (s.aperture f a).ctx, cls := 4,
                                  issued := s.stride, func := some f }] ∧
      t.fab.requests = s.fab.requests ++ [{ func := f, kind := 0, address := a, aperture := apertureOf a,
                                            pieces := [(tag, a, 8)], done := [], failed := none }]) ∧
  (∀ f a s tag data, f < 64 → a < 2 ^ 36 → a % 8 = 0 → data.length = 8 → s.reach f = true → (s.func f).fenceTags = [] →
    (s.func f).held = [] → (s.aperture f a).valid = true → (s.aperture f a).mode = 0 →
    s.isFenced ((s.aperture f a).address a % 2 ^ 15) = false → s.freeTag = some tag →
    ∃ t, exec (.bar2Write f a data) s = .next t ∧ t.work.tags = tag :: s.work.tags ∧
      t.fab.requests = s.fab.requests ++ [{ func := f, kind := 1, address := a, aperture := apertureOf a,
                                            pieces := [(tag, a, 8)], done := [], failed := none }] ∧
      t = { (s.issueOp 4 (s.aperture f a).ctx (some f) ((s.aperture f a).address a) 2 3 (le data 0 8) 0).1 with
            fab := t.fab }) ∧
  (∀ f a op n x y s tag, f < 64 → a < 2 ^ 36 → op < 3 → n = 4 ∨ n = 8 → s.reach f = true → (s.func f).fenceTags = [] →
    (s.func f).held = [] → (s.aperture f a).valid = true → (s.aperture f a).mode = 0 →
    s.isFenced ((s.aperture f a).address a % 2 ^ 15) = false → s.freeTag = some tag →
    ∃ t, exec (.bar2Atomic f a op n x y) s = .next t ∧ t.work.tags = tag :: s.work.tags ∧
      t.fab.requests = s.fab.requests ++ [{ func := f, kind := 2, address := a, aperture := apertureOf a,
                                            pieces := [(tag, a, n)], done := [], failed := none }]) ∧
  (∀ f a x y s, f < 64 → a < 2 ^ 36 → exec (.bar2Atomic f a 2 16 x y) s = .next (s.pcie f 3 [])) ∧
  (∀ f s, f < 64 → s.reach f = true → (s.func f).fenceTags = [] → (s.func f).held = [] →
    exec (.bar2Fence f) s = .next (s.modFunc f fun r =>
      { r with fenceTags := (s.fab.ops.filter fun o => o.func = some f).map (·.tag) })) ∧
  (∀ f a n s, f < 64 → a < 2 ^ 36 → 0 < n → n ≤ 4096 → s.reach f = true → (s.func f).fenceTags ≠ [] →
    exec (.bar2Read f a n) s = .next (s.modFunc f fun r => { r with held := r.held ++ [.bar2Read f a n] })) ∧
  (∀ f a n s, f < 64 → a < 2 ^ 36 → 0 < n → n ≤ 4096 → s.reach f = true → (s.func f).fenceTags = [] →
    (s.func f).held = [] → (s.aperture f a).valid = false → ∃ t, exec (.bar2Read f a n) s = .next t ∧
      (t.func f).bar2ErrCount = (if (s.func f).bar2ErrCount = 0xFFFF_FFFF then 0xFFFF_FFFF else (s.func f).bar2ErrCount + 1) ∧
      t.out.pcie = s.out.pcie ++ [{ func := f, status := 2, data := [] }] ∧ t.fab = s.fab ∧ t.work = s.work) ∧
  (∀ p cls rec s u o, p < 9 → cls = 3 ∨ cls = 4 → s.arrival cls s.me rec = (true, u) → (u.port p).st = 2 →
    u.takes p cls (le rec 0 8 % 2 ^ 15) = true → polices (u.port p).role cls = false → bitOf (byteAt rec 14) 0 = true →
    (u.fab.ops.find? fun o => o.tag = le rec 16 4 % 2 ^ 18 && decide (u.stride ≤ o.issued + 2)) = some o →
    o.func = none → ∃ t, exec (.operationResponseReceive p cls rec) s = .next t ∧ o.tag ∉ t.work.tags ∧
      t.fab.ops = u.fab.ops.erase o ∧ t.funcs = u.funcs ∧ t.out = u.out ∧ t.mem = u.mem) ∧
  (∀ p cls rec s u o q a n, p < 9 → cls = 3 ∨ cls = 4 → s.arrival cls s.me rec = (true, u) → (u.port p).st = 2 →
    u.takes p cls (le rec 0 8 % 2 ^ 15) = true → polices (u.port p).role cls = false → bitOf (byteAt rec 14) 0 = true →
    (u.fab.ops.find? fun o => o.tag = le rec 16 4 % 2 ^ 18 && decide (u.stride ≤ o.issued + 2)) = some o →
    ∀ f, o.func = some f → le rec 20 2 = stOk → (u.func f).held = [] →
    (u.fab.requests.find? fun q => q.func = f && q.pieces.any fun p => p.1 = o.tag) = some q → q.func = f → q.kind = 0 →
    q.pieces = [(o.tag, a, n)] → q.done = [] → q.failed = none →
    ∃ t, exec (.operationResponseReceive p cls rec) s = .next t ∧ o.tag ∉ t.work.tags ∧
      t.fab.requests = u.fab.requests.erase q ∧ (t.func f).fenceTags = (u.func f).fenceTags.filter (· ≠ o.tag) ∧
      t.out.pcie = u.out.pcie ++ [{ func := f, status := 0, data := toLe n (le rec 40 8) }]) ∧
  (∀ p cls rec s u, p < 9 → cls = 3 ∨ cls = 4 → s.arrival cls s.me rec = (true, u) → (u.port p).st = 2 →
    u.takes p cls (le rec 0 8 % 2 ^ 15) = true → polices (u.port p).role cls = false → bitOf (byteAt rec 14) 0 = true →
    (∀ o ∈ u.fab.ops, o.tag = le rec 16 4 % 2 ^ 18 → o.issued + 2 < u.stride) →
    exec (.operationResponseReceive p cls rec) s = .next (u.count fun c => { c with lateReplies := c.lateReplies + 1 })) ∧
  (∀ s, ∃ t, exec .operationTimeout s = .next t ∧ ∀ o ∈ t.fab.ops, s.stride ≤ o.issued + 2) ∧
  (∀ k rec s c tag, k < 16384 → s.gaitNow.1.cls? k = some c → c.kind = 6 → s.working = true → s.classRoom k = true →
    SMap.has s.fab.classFences c.context = false → s.isFenced (le rec 0 8 % 2 ^ 15) = false → s.freeTag = some tag →
    ∃ t, exec (.scheduledOperationIssue k rec false) s = .next t ∧ t.work.tags = tag :: s.work.tags ∧
      t.fab.ops = s.fab.ops ++ [{ tag := tag, node := le rec 0 8 % 2 ^ 15, window := le rec 0 8 / 2 ^ 15 % 2 ^ 9,
                                  context := c.context, cls := 3, issued := s.stride, func := none }]) ∧
  (∀ k rec s c, k < 16384 → s.gaitNow.1.cls? k = some c → c.kind = 6 → s.working = true →
    (∃ o ∈ s.fab.ops, o.cls = 3 ∧ o.context = c.context) → ∃ t, exec (.scheduledOperationIssue k rec true) s = .next t ∧
      SMap.find? t.fab.classFences c.context =
        some ((s.fab.ops.filter fun o => o.cls = 3 && o.context = c.context).map (·.tag)) ∧ t.fab.ops = s.fab.ops)

/-- R339, R361, R360, R408, R449: a link of the node's mode that is down comes up once the tack image is accepted, at the
highest rate common to both ends and on the lanes of its mode, and its functions attach; a link that goes down, or
whose PERST_N is asserted, detaches its functions, forgets its keys and reads as after reset. R360, R359: a function
level reset returns an attached function's registers to reset, attached again; removed VFs detach and those that stay
are attached; an IDE integrity failure puts its stream into the insecure state without keys and is reported by AER;
Bus Master Enable is written and detaches nothing. It also rests on the readings that the model chose in log entries
13, 16, 73 and 109. -/
def Obligations.LinksAndFunctions : Prop :=
  (∀ l (r : BitVec 6) s, l < 2 → (s.link l).up = false → s.hasLink l = true → s.node.railsOn = true → s.node.tack ≠ none →
    r ≠ 0 → ∃ t, exec (.linkUp l r) s = .next t ∧ (t.link l).up = true ∧ (t.link l).numVfs = (s.linkFuncs l).length - 1 ∧
      (t.link l).rate = commonRate r ∧ r.getLsbD ((t.link l).rate - 1) = true ∧
      (∀ i < 6, r.getLsbD i = true → i < (t.link l).rate) ∧
      (t.link l).lanes = (if s.linkMode = 1 then (List.range 8).map (· + 8 * l) else List.range 16) ∧
      (∀ f ∈ s.linkFuncs l, (t.func f).attached = true) ∧ t.mem = s.mem ∧ t.work = s.work) ∧
  (∀ l s, l < 2 → (s.link l).up = true → ∃ t, exec (.linkDown l) s = .next t ∧ exec (.perstNAssert l) s = .next t ∧
    t.link l = Link.reset ∧ (∀ f ∈ s.linkFuncs l, (t.func f).attached = false) ∧ t.mem = s.mem ∧ t.contexts = s.contexts ∧
    t.indexes = s.indexes ∧ t.tables = s.tables) ∧
  (∀ f s, f < 64 → (s.func f).attached = true → ∃ t, exec (.functionLevelReset f) s = .next t ∧
    t.func f = { FuncRegs.reset with attached := true, detachPending := true } ∧
    (t.mailbox f).ready = s.node.served ∧ (t.mailbox f).replies = [] ∧ (t.mailbox f).negotiated = false ∧
    (∀ q ∈ (t.mailbox f).taken, q.mute = true) ∧ (∀ g, g ≠ f → t.func g = s.func g ∧ t.mailbox g = s.mailbox g) ∧
    (∀ r ∈ t.rings, r.2.func = f → r.2.lost = true) ∧ t.mem = s.mem) ∧
  (∀ l n s, l < 2 → n < 64 → (s.link l).up = true → n < (s.linkFuncs l).length →
    ∃ t, exec (.vfRemoval l n) s = .next t ∧ (t.link l).numVfs = n ∧
      (∀ f ∈ (s.linkFuncs l).drop (n + 1), (t.func f).attached = false) ∧
      (∀ f ∈ (s.linkFuncs l).take (n + 1), (t.func f).attached = true)) ∧
  (∀ l k s, l < 2 → k < 9 → (s.link l).up = true →
    exec (.ideIntegrityFailure l k) s = .next (s.modLink l fun x =>
      { x with aer := x.aer ++ [k], insecure := insertNat k x.insecure, keys := x.keys.filter fun y => y.stream ≠ k })) ∧
  (∀ f e s, f < 64 → (s.func f).attached = true →
    exec (.busMasterEnableWrite f e) s = .next (s.modFunc f fun r => { r with busMaster := e }))

/-! ## Requests of the catalogue -/

/-- R382, R386, R387, R388: CONTEXT_CREATE and CONTEXT_RESERVE that pass their checks are accepted and schedule their
change for the next boundary; CONTEXT_CLOSE of an open context schedules the close and its reply waits for the last
granule; CONTEXT_STATUS reports the context. Each answers the request at the head of its function's taken requests.
R375, R376: RING_OPEN with values in range, a free doorbell index and a class of the gait that names the ring is
accepted, opens the ring at the next boundary and reports its ring id and its completion slot size; RING_CLOSE of an
open ring schedules the close, and its reply waits for the drain. It also rests on the readings that the model chose
in log entries 11, 19, 22, 111 and 112. -/
def Obligations.ContextAndRingRequests : Prop :=
  (∀ f s q, f < 64 → s.headRequest f 0x0201 = some q → s.node.unlocked = false → 0 < q.field 0 2 → q.field 0 2 < 4096 →
    q.field 2 1 < 64 → s.contextTaken (q.field 0 2) = false → s.gaitNames (q.field 0 2) = false →
    exec (.contextCreate f) s = .next (settled f
      ((s.popRequest f).schedule (.createContext (q.field 0 2) (q.field 2 1))) q stOk (s.stride + 1) [])) ∧
  (∀ f s q x, f < 64 → s.headRequest f 0x0202 = some q → 0 < q.field 0 2 → q.field 0 2 < 4096 →
    SMap.find? s.contexts (q.field 0 2) = some x → x.st = 1 → Change.closeContext (q.field 0 2) ∉ s.waiting →
    exec (.contextClose f) s = .next (((defer (s.popRequest f) (.contextClosed (q.field 0 2)) q (s.stride + 1)).schedule
      (.closeContext (q.field 0 2))).flush f)) ∧
  (∀ f s q x, f < 64 → s.headRequest f 0x0203 = some q → 0 < q.field 0 2 → q.field 0 2 < 4096 →
    (parseReservation q.payload).hbm % granuleSize = 0 → (parseReservation q.payload).ddr % granuleSize = 0 →
    SMap.find? s.contexts (q.field 0 2) = some x → x.st = 1 →
    s.kindsFit (q.field 0 2) (parseReservation q.payload) = true →
    s.bytesFit (q.field 0 2) (parseReservation q.payload) = true →
    s.gaitsBreak (q.field 0 2) (parseReservation q.payload) = none →
    exec (.contextReserve f) s = .next (settled f
      ((s.popRequest f).schedule (.reserve (q.field 0 2) q.payload)) q stOk (s.stride + 1) [])) ∧
  (∀ f s q x, f < 64 → s.headRequest f 0x0204 = some q → SMap.find? s.contexts q.context = some x →
    exec (.contextStatus f) s = .next (settled f (s.popRequest f) q stOk unstamped (s.contextStatus q.context x))) ∧
  (∀ f s q c, f < 64 → s.headRequest f 0x0210 = some q → ringValueBad q.payload = false →
    le q.payload 4 4 % 64 = 0 → (slotRange (byteAt q.payload 1)).1 ≤ le q.payload 4 4 →
    le q.payload 4 4 ≤ (slotRange (byteAt q.payload 1)).2 → s.ringTaken (4 * q.context + byteAt q.payload 0) = false →
    (s.gaitAt s.nextBoundary).classOf q.context (byteAt q.payload 1) (4 * q.context + byteAt q.payload 0) = some c →
    (byteAt q.payload 1 = 1 → le q.payload 38 2 * le q.payload 30 2 ≤ 1048576) →
    exec (.ringOpen f) s = .next (settled f
      ((s.popRequest f).schedule
        (.openRing (4 * q.context + byteAt q.payload 0) (parseRing q.context f q.payload))) q stOk (s.stride + 1)
      (toLe 2 (4 * q.context + byteAt q.payload 0) ++ toLe 1 (byteAt q.payload 0) ++ zeros 1 ++
        toLe 4 (completionSlot (byteAt q.payload 1) (le q.payload 26 2)) ++ zeros 8))) ∧
  (∀ f s q r, f < 64 → s.headRequest f 0x0211 = some q → q.field 0 1 < 4 →
    s.ring? (4 * q.context + q.field 0 1) = some r → r.isOpen = true → r.closing = false →
    s.closingRing (4 * q.context + q.field 0 1) = false →
    exec (.ringClose f) s = .next (((defer (s.popRequest f) (.ringClosed (4 * q.context + q.field 0 1)) q (s.stride + 1)).schedule
      (.closeRing (4 * q.context + q.field 0 1))).flush f))

/-- R208, R210, R211, R212: RESIDENCY_SET, RESIDENCY_PIN in both operations and RESIDENCY_REPLICATE that pass their checks
are accepted; the first two take effect at the next boundary, and the list of a RESIDENCY_REPLICATE replaces the
index's previous list at once and serves its next build. R209, R227: in the commit window of a multiple of the period
an object's selection is made and the moves of the last one not admitted are counted, an unpinned tombstoned row's
copy being demoted; a move that may be made is admitted into the migration class and written by the engine's ROWWRITE,
or is void where the end of the stride stops its copy; one without a source is dropped and counted, and one whose
source a lock or a burst holds waits (R180). It also rests on the readings that the model chose in log entries 11, 22,
23, 58 and 105. -/
def Obligations.ResidencyServed : Prop :=
  (∀ f s q r0, f < 64 → s.headRequest f 0x0220 = some q → s.object? (q.field 0 4) = some (q.context, r0) →
    byteAt q.payload 4 = bit01 (SMap.has s.tables (q.field 0 4)) → byteAt q.payload 5 ≠ 0 →
    le q.payload 8 8 % 2048 = 0 → 16 ≤ le q.payload 16 2 → le q.payload 16 2 ≤ 4096 →
    (le q.payload 6 2 ≠ 0xFFFF → s.ownClass q.context (le q.payload 6 2) = true) →
    s.quotas q.context (q.field 0 4) (le q.payload 8 8) ≤ (s.acceptedReservation q.context).hbm →
    (s.pinnedRows (q.field 0 4) (s.acceptedResidency (q.field 0 4) r0)).length * s.objectCopy (q.field 0 4) ≤ le q.payload 8 8 →
    exec (.residencySet f) s = .next (settled f
      ((s.popRequest f).schedule (.residency (q.field 0 4)
        { s.acceptedResidency (q.field 0 4) r0 with
          mask := BitVec.ofNat 8 (byteAt q.payload 5), cls := le q.payload 6 2, quota := le q.payload 8 8,
          period := le q.payload 16 2, moves := le q.payload 18 2 })) q stOk (s.stride + 1) [])) ∧
  (∀ f s q r0, f < 64 → s.headRequest f 0x0221 = some q → s.object? (q.field 0 4) = some (q.context, r0) →
    byteAt q.payload 4 = 0 → 0 < le q.payload 8 4 → le q.payload 8 4 ≤ 4096 →
    q.payload.length = 16 + 8 * le q.payload 8 4 →
    (∀ k ∈ keysAt q.payload 16 (le q.payload 8 4), (s.pinOf (q.field 0 4) k).isSome = true) →
    (s.pinnedRows (q.field 0 4) { s.acceptedResidency (q.field 0 4) r0 with
      pins := ((s.acceptedResidency (q.field 0 4) r0).pins ++
        (keysAt q.payload 16 (le q.payload 8 4)).filterMap (s.pinOf (q.field 0 4))).eraseDups }).length *
        s.objectCopy (q.field 0 4) ≤ (s.acceptedResidency (q.field 0 4) r0).quota →
    exec (.residencyPin f) s = .next (settled f
      ((s.popRequest f).schedule (.residency (q.field 0 4)
        { s.acceptedResidency (q.field 0 4) r0 with
          pins := ((s.acceptedResidency (q.field 0 4) r0).pins ++
            (keysAt q.payload 16 (le q.payload 8 4)).filterMap (s.pinOf (q.field 0 4))).eraseDups }))
      q stOk (s.stride + 1) [])) ∧
  (∀ f s q r0, f < 64 → s.headRequest f 0x0221 = some q → s.object? (q.field 0 4) = some (q.context, r0) →
    byteAt q.payload 4 = 1 → 0 < le q.payload 8 4 → le q.payload 8 4 ≤ 4096 →
    q.payload.length = 16 + 8 * le q.payload 8 4 →
    exec (.residencyPin f) s = .next (settled f
      ((s.popRequest f).schedule (.residency (q.field 0 4)
        { s.acceptedResidency (q.field 0 4) r0 with
          pins := (s.acceptedResidency (q.field 0 4) r0).pins.filter fun x =>
            !(keysAt q.payload 16 (le q.payload 8 4)).contains x.key }))
      q stOk (s.stride + 1) [])) ∧
  (∀ f s q x, f < 64 → s.headRequest f 0x0222 = some q → SMap.find? s.indexes (q.field 0 4) = some x →
    x.context = q.context → q.field 4 4 ≤ 65536 → q.payload.length = 8 + 8 * q.field 4 4 →
    exec (.residencyReplicate f) s = .next (settled f
      ((s.popRequest f).modIndex (q.field 0 4) fun x => { x with replicaList := keysAt q.payload 8 (q.field 4 4) })
      q stOk unstamped [])) ∧
  (∀ id s c r, id < 2 ^ 32 → s.object? id = some (c, r) → s.running = true → s.clk.window = 0 → r.cls ≠ 0xFFFF →
    0 < r.period → s.stride % r.period = 0 → exec (.migrationSelection id) s = .next
      ((s.modResidency id fun r => r.selectMoves (s.objectCopy id) (s.dirtyRows id) (s.pinnedRows id r) (s.deadRows id)).count
        fun c => { c with residency := c.residency + r.chosen.length })) ∧
  (∀ (r : Residency) size dirty pinned dead row, row ∈ r.hot.map (·.row) → row ∈ dead → row ∉ pinned →
    row ∈ (r.selectMoves size dirty pinned dead).demoted) ∧
  (∀ id row s0 s c r b poisoned a k, id < 2 ^ 32 → s0.object? id = some (c, r) → s0.moveRead id row = (true, s) →
    s.working = true → s.mayMove id row r = true →
    s.contextLive c = true → s.classRoom r.cls = true → (s.gaitNow.1.cls? r.cls).isSome = true →
    s.moveSource id row = some (b, poisoned) →
    nextStack r.mask.toNat s.mountedSet.hbmStacks.toNat r.turn (s.otherStacks id row r) = some k →
    s.placeOn c b.length k = some a →
    exec (.migrationCopy id row false) s0 = .next
      ((((s.modResidency id fun r => { r with chosen := r.chosen.filter (· ≠ row) }).admitTo r.cls).modResidency id fun r =>
        { r with turn := k,
                 running := r.running ++ [{ row := row, address := a, stack := k, stride := s.stride, void := false }] }).issueRowwrite
        c a b poisoned (some (id, row))) ∧
    ∃ t r', exec (.migrationCopy id row true) s0 = .next t ∧ t.object? id = some (c, r') ∧ r'.chosen = r.chosen.filter (· ≠ row) ∧
      r'.running = r.running ++ [{ row := row, address := a, stack := k, stride := s.stride, void := true }] ∧
      r'.hot = r.hot ∧ t.mem = s0.mem) ∧
  (∀ id row s0 s c r stop, id < 2 ^ 32 → s0.object? id = some (c, r) → s0.moveRead id row = (true, s) → s.working = true →
    s.mayMove id row r = true → s.contextLive c = true → s.classRoom r.cls = true → (s.gaitNow.1.cls? r.cls).isSome = true →
    s.moveSource id row = none →
    exec (.migrationCopy id row stop) s0 = .next ((s.modResidency id fun r => { r with chosen := r.chosen.filter (· ≠ row) }).count
      fun c => { c with residency := c.residency + 1 })) ∧
  (∀ id row s s' c r stop, id < 2 ^ 32 → s.object? id = some (c, r) → s.moveRead id row = (false, s') →
    exec (.migrationCopy id row stop) s = .next s')

/-- R50, R51: on an image that passes the girth check, GAIT_CHECK reports and changes no slot, and GAIT_LOAD puts the gait
into an upper slot that holds no staged gait and reports. R51, R53: GAIT_STAGE of a loaded gait for an E at least 4
strides ahead and after every staged gait, whose girth steps and transition pass and that still covers every bound
program, stages it for E and answers with stamp E; GAIT_CANCEL of a loaded gait empties its slot, and of a gait staged
at least 3 strides ahead returns it and those staged after it to loaded; GAIT_STATUS reports the four slots. It also
rests on the readings that the model chose in log entries 11, 14, 70 and 80. -/
def Obligations.GaitsServed : Prop :=
  (∀ f image s q, f < 64 → s.dmaOk f = true → s.headRequest f 0x0301 = some q → q.field 0 1 = 0 → q.field 8 8 % 64 = 0 →
    (s.girthCheck (image.take (q.field 4 4)) (q.field 4 4) (some (q.field 16 8))).1 = stOk →
    exec (.gaitCheck f image) s = .next (settled f (s.popRequest f) q stOk unstamped
      (gaitReply (some (parseGait (image.take (q.field 4 4)))) (zeros 32)))) ∧
  (∀ f image s q, f < 64 → s.dmaOk f = true → s.headRequest f 0x0302 = some q → 1 ≤ q.field 0 1 → q.field 0 1 ≤ 3 →
    (s.slot (q.field 0 1)).st ≠ 2 → q.field 8 8 % 64 = 0 →
    (s.girthCheck (image.take (q.field 4 4)) (q.field 4 4) (some (q.field 16 8))).1 = stOk →
    exec (.gaitLoad f image) s = .next (settled f
      ((s.popRequest f).setSlot (q.field 0 1)
        { st := 1, gait := some (parseGait (image.take (q.field 4 4))), stride := 0,
          isolated := (parseGait (image.take (q.field 4 4))).isolatedContexts })
      q stOk unstamped (gaitReply (some (parseGait (image.take (q.field 4 4)))) (zeros 32)))) ∧
  (∀ f s q g, f < 64 → s.headRequest f 0x0303 = some q → 1 ≤ q.field 0 1 → q.field 0 1 ≤ 3 →
    (s.slot (q.field 0 1)).st = 1 → (s.slot (q.field 0 1)).gait = some g → s.stride + 4 ≤ q.field 8 8 →
    (∀ p ∈ s.stagedSlots, p.2.stride < q.field 8 8) → (s.girthSteps g).1 = stOk →
    (s.transitionCheck s.gaitBefore.1 s.gaitBefore.2 g (q.field 8 8)).1 = stOk → s.uncovers g = false →
    exec (.gaitStage f) s = .next (settled f
      ((s.popRequest f).setSlot (q.field 0 1) { s.slot (q.field 0 1) with st := 2, stride := q.field 8 8 })
      q stOk (q.field 8 8) (zeros 32))) ∧
  (∀ f s q, f < 64 → s.headRequest f 0x0304 = some q → 1 ≤ q.field 0 1 → q.field 0 1 ≤ 3 →
    (s.slot (q.field 0 1)).st = 1 →
    exec (.gaitCancel f) s = .next (settled f
      ((s.popRequest f).setSlot (q.field 0 1) GaitSlot.empty) q stOk unstamped [])) ∧
  (∀ f s q, f < 64 → s.headRequest f 0x0304 = some q → 1 ≤ q.field 0 1 → q.field 0 1 ≤ 3 →
    (s.slot (q.field 0 1)).st = 2 → s.stride + 3 ≤ (s.slot (q.field 0 1)).stride →
    exec (.gaitCancel f) s = .next (settled f
      ((s.popRequest f).unstageFrom (s.slot (q.field 0 1)).stride) q stOk unstamped [])) ∧
  (∀ f s q, f < 64 → s.headRequest f 0x0304 = some q → 1 ≤ q.field 0 1 → q.field 0 1 ≤ 3 →
    (s.slot (q.field 0 1)).st = 2 → (s.slot (q.field 0 1)).stride < s.stride + 3 →
    exec (.gaitCancel f) s = .next (settled f (s.popRequest f) q stTooLate unstamped [])) ∧
  (∀ f s q, f < 64 → s.headRequest f 0x0305 = some q →
    exec (.gaitStatus f) s = .next (settled f (s.popRequest f) q stOk unstamped
      ((s.slot 0).status ++ (s.slot 1).status ++ (s.slot 2).status ++ (s.slot 3).status ++
        bitmap 512 (s.slot 0).isolated)))

/-- R158, R164, R165: PROGRAM_LOAD of an image whose structure and cost pass binds the program at the next boundary and
reports its cost; PROGRAM_UNLOAD of a bound program unbinds it at the next boundary; PROGRAM_STATUS reports. It also
rests on the readings that the model chose in log entries 14, 21, 72, 86, 92, 100 and 101. -/
def Obligations.ProgramRequestsServed : Prop :=
  (∀ f image s q, f < 64 → s.dmaOk f = true → s.headRequest f 0x0409 = some q → q.field 8 8 % 64 = 0 →
    programStructure (image.take (q.field 0 4)) (q.field 0 4) (parseProgram q.context (image.take (q.field 0 4))) = stOk →
    (s.programCheck (parseProgram q.context (image.take (q.field 0 4)))).1 = stOk →
    exec (.programLoad f image) s = .next (settled f
      ((s.popRequest f).schedule (.bindProgram
        (programKey (parseProgram q.context (image.take (q.field 0 4))).context
          (parseProgram q.context (image.take (q.field 0 4))).id)
        { parseProgram q.context (image.take (q.field 0 4)) with
          cost := s.reportedCost (parseProgram q.context (image.take (q.field 0 4))),
          channel := s.gaitNow.1.programChannel (parseProgram q.context (image.take (q.field 0 4))) }))
      q stOk (s.stride + 1)
      (programReply (parseProgram q.context (image.take (q.field 0 4))) none
        (s.reportedCost (parseProgram q.context (image.take (q.field 0 4))))))) ∧
  (∀ f s q p, f < 64 → s.headRequest f 0x040A = some q → s.boundProgram (programKey q.context (q.field 0 2)) = some p →
    exec (.programUnload f) s = .next (settled f
      ((s.popRequest f).schedule (.unbindProgram (programKey q.context (q.field 0 2)))) q stOk (s.stride + 1) [])) ∧
  (∀ f s q p, f < 64 → s.headRequest f 0x040B = some q →
    SMap.find? s.programs (programKey q.context (q.field 0 2)) = some p →
    exec (.programStatus f) s = .next (settled f (s.popRequest f) q stOk unstamped
      (programReply p none (s.reportedCost p))))

/-- R107, R133: INDEX_CREATE in range, with a free object id and room for its fixed part, creates the index at the next
boundary; INDEX_CLOSE drops at once what was never switched in and schedules the close, and its reply waits for it.
R231, R256: the same for embedding tables. It also rests on the readings that the model chose in log entries 19, 22
and 104. -/
def Obligations.ObjectsCreatedAndClosed : Prop :=
  (∀ f s q, f < 64 → s.headRequest f 0x0401 = some q → q.payload.length = 64 + 2 * q.field 20 2 → q.field 0 4 ≠ 0 →
    s.objectTaken (q.field 0 4) = false → (parseIndex q.context q.payload).inRange = true →
    s.hbmInUse q.context + (s.held (parseIndex q.context q.payload).map).length *
      (parseIndex q.context q.payload).fixedBytes ≤ (s.acceptedReservation q.context).hbm →
    exec (.indexCreate f) s = .next (settled f
      ((s.popRequest f).schedule (.createIndex (q.field 0 4) (parseIndex q.context q.payload))) q stOk (s.stride + 1) [])) ∧
  (∀ f s q, f < 64 → s.headRequest f 0x0402 = some q →
    s.objectStatus (q.field 0 4) q.context (s.indexOwner (q.field 0 4)) = stOk →
    exec (.indexClose f) s = .next ((((defer (s.popRequest f) (.objectClosed (q.field 0 4)) q (s.stride + 1)).modIndex
      (q.field 0 4) Index.closeAccepted).schedule (.closeObject (q.field 0 4))).flush f)) ∧
  (∀ f s q, f < 64 → s.headRequest f 0x0501 = some q →
    q.payload.length = 64 + 2 * q.field 8 2 + 2 * q.field 10 2 → q.field 0 4 ≠ 0 →
    s.objectTaken (q.field 0 4) = false → (parseTable q.context q.payload).inRange = true →
    s.hbmInUse q.context + (s.held (parseTable q.context q.payload).map).length *
      (parseTable q.context q.payload).fixedBytes ≤ (s.acceptedReservation q.context).hbm →
    exec (.tableCreate f) s = .next (settled f
      ((s.popRequest f).schedule (.createTable (q.field 0 4) (parseTable q.context q.payload))) q stOk (s.stride + 1) [])) ∧
  (∀ f s q, f < 64 → s.headRequest f 0x0502 = some q →
    s.objectStatus (q.field 0 4) q.context (s.tableOwner (q.field 0 4)) = stOk →
    exec (.tableClose f) s = .next ((((defer (s.popRequest f) (.objectClosed (q.field 0 4)) q (s.stride + 1)).modTable
      (q.field 0 4) Table.closeAccepted).schedule (.closeObject (q.field 0 4))).flush f))

/-- R126, R127, R130, R131, R132: INDEX_BUILD and INDEX_COMPACT that pass their checks take the next version number, list
it as building and answer ST_PENDING with it; INDEX_SWITCH to a built version, E at least 4 strides ahead, is pending
for E, tells the partner and answers with stamp E; INDEX_RELEASE releases a retained version at the next boundary;
INDEX_STATUS reports the published figures. R252 to R256: the same for the versions of embedding tables; a fold needs
a training base, and the training base is not released. TABLE_ROW_WRITE of live rows, in a stride that no step applies
in, holds the rows for the next boundary. It also rests on the readings that the model chose in log entries 64, 71,
83, 84, 103 and 104. -/
def Obligations.VersionRequestsServed : Prop :=
  (∀ f s q x, f < 64 → s.headRequest f 0x0403 = some q → SMap.find? s.indexes (q.field 0 4) = some x →
    s.objectStatus (q.field 0 4) q.context (s.indexOwner (q.field 0 4)) = stOk →
    s.sourceStatus q.context (q.field 24 2) (q.field 28 4) (recordBytes x.dim) = stOk →
    s.buildStatus q.context (q.field 6 2) (s.held x.map).length x.versionCount x.build.isSome = stOk →
    exec (.indexBuild f) s = .next (settled f ((s.popRequest f).modIndex (q.field 0 4) fun x =>
      { x with
        lastNum := x.nextVersion, versions := x.versions ++ [emptyVersion x.nextVersion 1],
        build := some { kind := 0, version := x.nextVersion, cls := q.field 6 2, source := q.field 24 2,
                        count := q.field 28 4, cut := none, status := stOk, bad := 0xFFFF_FFFF, request := q } })
      q stPending unstamped (buildReply q x.nextVersion))) ∧
  (∀ f s q x v, f < 64 → s.headRequest f 0x0404 = some q → SMap.find? s.indexes (q.field 0 4) = some x →
    s.objectStatus (q.field 0 4) q.context (s.indexOwner (q.field 0 4)) = stOk → x.current = some v →
    s.buildStatus q.context (q.field 6 2) (s.held x.map).length x.versionCount x.build.isSome = stOk →
    exec (.indexCompact f) s = .next (settled f ((s.popRequest f).modIndex (q.field 0 4) fun x =>
      { x with
        lastNum := x.nextVersion, versions := x.versions ++ [emptyVersion x.nextVersion 1],
        build := some { kind := 1, version := x.nextVersion, cls := q.field 6 2, source := q.field 24 2,
                        count := q.field 28 4, cut := none, status := stOk, bad := 0xFFFF_FFFF, request := q } })
      q stPending unstamped (buildReply q x.nextVersion))) ∧
  (∀ f s q x, f < 64 → s.headRequest f 0x0405 = some q → SMap.find? s.indexes (q.field 0 4) = some x →
    s.objectStatus (q.field 0 4) q.context (s.indexOwner (q.field 0 4)) = stOk → 0 < q.field 8 8 →
    (s.held x.map ≠ [] → (x.version? (q.field 8 8)).map (·.st) = some 2) →
    (s.held x.map = [] → (x.version? (q.field 8 8)).map (·.st) = some 2 ∨
      (x.version? (q.field 8 8) = none ∧ x.versions.length < 4)) →
    s.stride + 4 ≤ q.field 16 8 → x.switch = none →
    exec (.indexSwitch f) s = .next (settled f
      (((s.popRequest f).modIndex (q.field 0 4) fun y => { y with
        switch := some { version := q.field 8 8, stride := q.field 16 8,
                         digest := ((x.version? (q.field 8 8)).map (·.digest)).getD 0,
                         retain := bitOf (q.field 4 1 % 2) 0, rebase := bitOf (q.field 4 1 % 2) 1, go := false,
                         settled := false, request := q } }).send
        1 s.partner (versionMessage markTuple (q.field 0 4) (q.field 8 8) (q.field 16 8)
          (((x.version? (q.field 8 8)).map (·.digest)).getD 0)))
      q stOk (q.field 16 8) [])) ∧
  (∀ f s q x v, f < 64 → s.headRequest f 0x0406 = some q → SMap.find? s.indexes (q.field 0 4) = some x →
    s.objectStatus (q.field 0 4) q.context (s.indexOwner (q.field 0 4)) = stOk →
    x.version? (q.field 8 8) = some v → v.st = 4 →
    exec (.indexRelease f) s = .next (settled f
      ((s.popRequest f).schedule (.release (q.field 0 4) (q.field 8 8))) q stOk (s.stride + 1) [])) ∧
  (∀ f s q x figs, f < 64 → s.headRequest f 0x0407 = some q → SMap.find? s.indexes (q.field 0 4) = some x →
    x.context = q.context → figs = SMap.getD s.shown.indexes (q.field 0 4) [] →
    exec (.indexStatus f) s = .next (settled f (s.popRequest f) q stOk unstamped
      (toLe 4 (q.field 0 4) ++ toLe 2 (s.held x.map).length ++ zeros 2 ++ toLe 8 (figs.getD 1 0) ++
        toLe 8 (figs.getD 2 0) ++ toLe 8 (figs.getD 3 0) ++ toLe 8 (figs.getD 4 0) ++ toLe 4 (figs.getD 5 0) ++ zeros 4 ++
        toLe 8 (figs.getD 6 0) ++ toLe 8 (figs.getD 7 0) ++ toLe 8 s.shown.first ++ versionEntries (figs.drop 8)))) ∧
  (∀ f s q x, f < 64 → s.headRequest f 0x0503 = some q → SMap.find? s.tables (q.field 0 4) = some x →
    s.objectStatus (q.field 0 4) q.context (s.tableOwner (q.field 0 4)) = stOk →
    s.sourceStatus q.context (q.field 24 2) (q.field 28 4) x.sourceBytes = stOk →
    s.buildStatus q.context (q.field 6 2) (s.held x.map).length x.versionCount x.build.isSome = stOk →
    exec (.tableBuild f) s = .next (settled f ((s.popRequest f).modTable (q.field 0 4) fun x => x.begin 0 q)
      q stPending unstamped (buildReply q x.nextVersion))) ∧
  (∀ f s q x, f < 64 → s.headRequest f 0x0504 = some q → SMap.find? s.tables (q.field 0 4) = some x →
    s.objectStatus (q.field 0 4) q.context (s.tableOwner (q.field 0 4)) = stOk → 0 < x.base →
    s.buildStatus q.context (q.field 6 2) (s.held x.map).length x.versionCount x.build.isSome = stOk →
    exec (.tableFold f) s = .next (settled f ((s.popRequest f).modTable (q.field 0 4) fun x => x.begin 1 q)
      q stPending unstamped (buildReply q x.nextVersion))) ∧
  (∀ f s q x, f < 64 → s.headRequest f 0x0505 = some q → SMap.find? s.tables (q.field 0 4) = some x →
    s.objectStatus (q.field 0 4) q.context (s.tableOwner (q.field 0 4)) = stOk → 0 < q.field 8 8 →
    (s.held x.map ≠ [] → (x.version? (q.field 8 8)).map (·.st) = some 2) →
    (s.held x.map = [] → (x.version? (q.field 8 8)).map (·.st) = some 2 ∨
      (x.version? (q.field 8 8) = none ∧ x.versions.length < 4)) →
    s.stride + 4 ≤ q.field 16 8 → x.switch = none →
    exec (.tableSwitch f) s = .next (settled f
      (((s.popRequest f).modTable (q.field 0 4) fun y => { y with
        switch := some { version := q.field 8 8, stride := q.field 16 8,
                         digest := ((x.version? (q.field 8 8)).map (·.digest)).getD 0,
                         retain := bitOf (q.field 4 1) 0, rebase := bitOf (q.field 4 1) 1, go := false,
                         settled := false, request := q } }).send
        1 s.partner (versionMessage markTuple (q.field 0 4) (q.field 8 8) (q.field 16 8)
          (((x.version? (q.field 8 8)).map (·.digest)).getD 0)))
      q stOk (q.field 16 8) [])) ∧
  (∀ f s q x v, f < 64 → s.headRequest f 0x0506 = some q → SMap.find? s.tables (q.field 0 4) = some x →
    s.objectStatus (q.field 0 4) q.context (s.tableOwner (q.field 0 4)) = stOk →
    x.version? (q.field 8 8) = some v → v.st = 4 → x.base ≠ q.field 8 8 →
    exec (.tableRelease f) s = .next (settled f
      ((s.popRequest f).schedule (.release (q.field 0 4) (q.field 8 8))) q stOk (s.stride + 1) [])) ∧
  (∀ f s q x figs, f < 64 → s.headRequest f 0x0507 = some q → SMap.find? s.tables (q.field 0 4) = some x →
    x.context = q.context → figs = SMap.getD s.shown.tables (q.field 0 4) [] →
    exec (.tableStatus f) s = .next (settled f (s.popRequest f) q stOk unstamped
      (toLe 4 (q.field 0 4) ++ toLe 2 (s.held x.map).length ++ zeros 2 ++ toLe 8 (figs.getD 1 0) ++
        toLe 8 (figs.getD 2 0) ++ toLe 8 (figs.getD 3 0) ++ toLe 8 (figs.getD 4 0) ++ toLe 8 (figs.getD 5 0) ++
        toLe 8 (figs.getD 6 0) ++ toLe 8 (figs.getD 7 0) ++ toLe 8 s.shown.first ++ versionEntries (figs.drop 11)))) ∧
  (∀ f s q x (rows : List TableRow), f < 64 → s.headRequest f 0x0508 = some q → SMap.find? s.tables (q.field 0 4) = some x →
    s.objectStatus (q.field 0 4) q.context (s.tableOwner (q.field 0 4)) = stOk → 0 < q.field 4 4 → q.field 4 4 ≤ 256 →
    q.payload.length = 8 + q.field 4 4 * x.sourceBytes →
    (∀ i < q.field 4 4, x.liveRow (x.sourceRecord (q.payload.drop (8 + i * x.sourceBytes))).1 ≠ none) →
    (List.range (q.field 4 4)).map (fun i =>
      x.makeRow (x.sourceRecord (q.payload.drop (8 + i * x.sourceBytes))).1
        (x.sourceRecord (q.payload.drop (8 + i * x.sourceBytes))).2) = rows.map some →
    s.applies (q.field 0 4) x (s.stride + 1) = false →
    exec (.tableRowWrite f) s = .next (settled f ((s.popRequest f).modTable (q.field 0 4) fun x =>
      { x with writes := x.writes ++ rows.map fun r => (s.stride + 1, r) }) q stOk (s.stride + 1) []))

/-- R271 to R273: PADDOCK_CREATE that passes its checks creates the paddock at the next boundary; PADDOCK_DELETE of an
open paddock schedules its deletion, and its reply waits for the last admitted command; PADDOCK_STATUS reports the
published figures. R275, R276, R270: STORAGE_QUEUE_CREATE with values in range and a storage class of its context
opens the queue at the next boundary; STORAGE_QUEUE_DELETE of an open queue schedules its closing, and its reply waits
for the drain; STORAGE_WEIGHTS_SET replaces a class's weights at the next boundary; FLASH_HEALTH_LOG reports a
channel's log or the node's. It also rests on the readings that the model chose in log entries 19 and 66. -/
def Obligations.StorageRequestsServed : Prop :=
  (∀ f s q p, f < 64 → s.headRequest f 0x0601 = some q → p = parsePaddock q.context q.payload →
    0 < q.field 0 2 → q.field 0 2 < 4096 → (∀ x ∈ s.allPaddocks, x.1 ≠ q.field 0 2) → 7 ≤ p.op → p.op ≤ 50 →
    0 < p.share → p.share ≤ 480 → 0 < p.capacity → p.capacity % 2048 = 0 → s.programClassOk q.context p.cls = true →
    (∀ ch < 32, p.poolBlocks s.flash.targets ≤ s.freeBlocksOn ch) →
    s.hbmInUse q.context + 5 * p.capacity ≤ (s.acceptedReservation q.context).hbm →
    p.share + sumNat (s.allPaddocks.map fun x => x.2.share) ≤ 60 * s.flash.targets → s.refusesWrites = false →
    exec (.paddockCreate f) s = .next (settled f
      ((s.popRequest f).schedule (.createPaddock (q.field 0 2) p)) q stOk (s.stride + 1) [])) ∧
  (∀ f s q p, f < 64 → s.headRequest f 0x0602 = some q → SMap.find? s.flash.paddocks (q.field 0 2) = some p →
    p.st ≠ 3 → s.deletingPaddock (q.field 0 2) = false → p.context = q.context →
    exec (.paddockDelete f) s = .next (((defer (s.popRequest f) (.paddockDeleted (q.field 0 2)) q (s.stride + 1)).schedule
      (.deletePaddock (q.field 0 2))).flush f)) ∧
  (∀ f s q p figs, f < 64 → s.headRequest f 0x0603 = some q → SMap.find? s.flash.paddocks (q.field 0 2) = some p →
    p.context = q.context → figs = SMap.getD s.shown.paddocks (q.field 0 2) [] →
    exec (.paddockStatus f) s = .next (settled f (s.popRequest f) q stOk unstamped
      (toLe 2 (q.field 0 2) ++ toLe 2 p.context ++ toLe 1 (if p.st = 1 ∧ s.refusesWrites then 2 else p.st) ++
        toLe 1 (bit01 p.mirrored) ++ toLe 1 p.op ++ zeros 1 ++ toLe 8 p.capacity ++ toLe 8 (figs.getD 0 0) ++
        toLe 4 (figs.getD 1 0) ++ toLe 4 (figs.getD 2 0) ++ toLe 8 (figs.getD 3 0) ++ toLe 8 s.shown.first))) ∧
  (∀ f s q r, f < 64 → s.headRequest f 0x0604 = some q → r = parseQueue q.context f q.payload → q.field 0 2 < 1024 →
    SMap.has s.queues (q.field 0 2) = false → q.field 0 2 ∉ s.openingQueues → 2 ≤ r.depth → r.depth ≤ 4096 →
    r.priority ≤ 3 → r.subAddr % 4096 = 0 → r.cplAddr % 4096 = 0 → 1 ≤ r.vector → r.vector ≤ 31 →
    s.storageClassOk q.context r.cls = true → 64 ≤ s.gaitNow.1.largest r.cls →
    s.queues.length + s.openingQueues.length < 1024 →
    exec (.storageQueueCreate f) s = .next (settled f
      ((s.popRequest f).schedule (.openQueue (q.field 0 2) r)) q stOk (s.stride + 1) [])) ∧
  (∀ f s q r, f < 64 → s.headRequest f 0x0605 = some q → SMap.find? s.queues (q.field 0 2) = some r → r.isOpen = true →
    r.closing = false → Change.closeQueue (q.field 0 2) ∉ s.waiting → r.context = q.context →
    exec (.storageQueueDelete f) s = .next (((defer (s.popRequest f) (.queueDeleted (q.field 0 2)) q (s.stride + 1)).schedule
      (.closeQueue (q.field 0 2))).flush f)) ∧
  (∀ f s q, f < 64 → s.headRequest f 0x0606 = some q → s.storageClassOk q.context (q.field 0 2) = true →
    0 < q.field 2 1 → 0 < q.field 3 1 → 0 < q.field 4 1 →
    exec (.storageWeightsSet f) s = .next (settled f ((s.popRequest f).schedule
      (.weights (q.field 0 2) [q.field 2 1, q.field 3 1, q.field 4 1])) q stOk (s.stride + 1) [])) ∧
  (∀ f s q, f < 64 → s.headRequest f 0x0607 = some q → q.field 0 1 = 0xFF →
    exec (.flashHealthLog f) s = .next (settled f (s.popRequest f) q stOk unstamped (s.healthLog none))) ∧
  (∀ f s q, f < 64 → s.headRequest f 0x0607 = some q → q.field 0 1 < 32 →
    exec (.flashHealthLog f) s = .next (settled f (s.popRequest f) q stOk unstamped (s.healthLog (some (q.field 0 1))))) ∧
  (∀ f s q, f < 64 → s.headRequest f 0x0607 = some q → 32 ≤ q.field 0 1 → q.field 0 1 < 0xFF →
    exec (.flashHealthLog f) s = .next (settled f (s.popRequest f) q stBadValue unstamped (zeros 192)))

/-- R299, R302, R308: FABRIC_ROUTE_SET of a valid image holds it for the next remount and changes no route;
FABRIC_WINDOW_SET opens and closes a window, and FABRIC_REGION_SET sets and clears a region entry, at the next
boundary. R311 to R314, R316: FABRIC_GATE_STAGE stages a valid list for an E at least 4 strides ahead and after those
staged on its port, and answers with stamp E; FABRIC_GATE_CANCEL takes back a list at least 3 strides ahead, and is
too late after; FABRIC_POLICER_SET sets a policer, its buckets full, at the next boundary; FABRIC_LINK_STATUS reports
the nine ports of the published snapshot. It also rests on the readings that the model chose in log entries 14 and 67. -/
def Obligations.FabricRequestsServed : Prop :=
  (∀ f image s q, f < 64 → s.dmaOk f = true → s.headRequest f 0x0701 = some q → q.field 8 8 % 64 = 0 →
    routeStatus (image.take (q.field 0 4)) (q.field 0 4) s.me = stOk → ∃ t, exec (.fabricRouteSet f image) s = .next t ∧
      t = settled f { s.popRequest f with fab := { s.fab with heldImage := some (image.take (q.field 0 4)) } }
        q stOk unstamped [] ∧ t.fab.routes = s.fab.routes) ∧
  (∀ f s q, f < 64 → s.headRequest f 0x0702 = some q → 0 < q.field 0 2 → q.field 0 2 ≤ 511 →
    (∀ x, s.acceptedWindow (q.field 0 2) = some x → x.context = q.context) → bitOf (q.field 2 1) 0 = true →
    q.field 8 8 % 2048 = 0 → 0 < q.field 16 8 → q.field 16 8 % 2048 = 0 →
    s.ownsHbm q.context (q.field 8 8) (q.field 16 8) = true →
    exec (.fabricWindowSet f) s = .next (settled f ((s.popRequest f).schedule
      (.window (q.field 0 2) (some { context := q.context, base := q.field 8 8, size := q.field 16 8 })))
      q stOk (s.stride + 1) [])) ∧
  (∀ f s q x, f < 64 → s.headRequest f 0x0702 = some q → 0 < q.field 0 2 → q.field 0 2 ≤ 511 →
    s.acceptedWindow (q.field 0 2) = some x → x.context = q.context → bitOf (q.field 2 1) 0 = false →
    exec (.fabricWindowSet f) s = .next (settled f ((s.popRequest f).schedule (.window (q.field 0 2) none))
      q stOk (s.stride + 1) [])) ∧
  (∀ f s q x, f < 64 → s.headRequest f 0x0703 = some q → s.acceptedWindow (q.field 2 2) = some x → x.context = q.context →
    q.field 0 2 < 4096 →
    (∀ e y, SMap.find? s.acceptedRegions (q.field 0 2) = some e → s.acceptedWindow e.window = some y → y.context = q.context) →
    bitOf (q.field 6 1) 0 = true → q.field 8 8 % 64 = 0 → 0 < q.field 16 8 → q.field 16 8 % 64 = 0 →
    q.field 8 8 + q.field 16 8 ≤ x.size →
    (∀ p ∈ s.acceptedRegions, p.1 ≠ q.field 0 2 → p.2.window = q.field 2 2 →
      q.field 8 8 + q.field 16 8 ≤ p.2.base ∨ p.2.base + p.2.length ≤ q.field 8 8) →
    exec (.fabricRegionSet f) s = .next (settled f ((s.popRequest f).schedule (.region (q.field 0 2)
      (some { window := q.field 2 2, owner := q.field 4 2 % 2 ^ 15, base := q.field 8 8, length := q.field 16 8 })))
      q stOk (s.stride + 1) [])) ∧
  (∀ f s q x, f < 64 → s.headRequest f 0x0703 = some q → s.acceptedWindow (q.field 2 2) = some x → x.context = q.context →
    q.field 0 2 < 4096 →
    (∀ e y, SMap.find? s.acceptedRegions (q.field 0 2) = some e → s.acceptedWindow e.window = some y → y.context = q.context) →
    bitOf (q.field 6 1) 0 = false →
    exec (.fabricRegionSet f) s = .next (settled f ((s.popRequest f).schedule (.region (q.field 0 2) none))
      q stOk (s.stride + 1) [])) ∧
  (∀ f s q, f < 64 → s.headRequest f 0x0704 = some q → q.payload.length = 16 + 8 * byteAt q.payload 1 →
    byteAt q.payload 0 ≤ 8 → 1 ≤ byteAt q.payload 1 → byteAt q.payload 1 ≤ 16 →
    (parseGates q.payload).bad (strideCycles s.clk.code) = false → (s.port (byteAt q.payload 0)).role ≠ 0 →
    s.stride + 4 ≤ q.field 8 8 → (∀ x ∈ (s.port (byteAt q.payload 0)).staged, x.1 < q.field 8 8) →
    exec (.fabricGateStage f) s = .next (settled f ((s.popRequest f).modPort (byteAt q.payload 0) fun x =>
      { x with staged := x.staged ++ [(q.field 8 8, parseGates q.payload)] }) q stOk (q.field 8 8) [])) ∧
  (∀ f s q, f < 64 → s.headRequest f 0x0705 = some q → q.field 0 1 ≤ 8 →
    (∃ x ∈ (s.port (q.field 0 1)).staged, x.1 = q.field 8 8) → s.stride + 3 ≤ q.field 8 8 →
    exec (.fabricGateCancel f) s = .next (settled f ((s.popRequest f).modPort (q.field 0 1) fun x =>
      { x with staged := x.staged.filter fun y => y.1 ≠ q.field 8 8 }) q stOk unstamped [])) ∧
  (∀ f s q, f < 64 → s.headRequest f 0x0705 = some q → q.field 0 1 ≤ 8 → q.field 8 8 < s.stride + 3 →
    exec (.fabricGateCancel f) s = .next (settled f (s.popRequest f) q stTooLate unstamped [])) ∧
  (∀ f s q, f < 64 → s.headRequest f 0x0706 = some q → q.field 0 1 ≤ 8 →
    polices (s.port (q.field 0 1)).role (q.field 1 1) = true → q.field 2 1 ≤ 2 → 1 ≤ q.field 4 4 → q.field 4 4 ≤ 200000 →
    q.field 4 4 ≤ q.field 8 4 → q.field 8 4 ≤ 200000 → 64 ≤ q.field 12 4 → q.field 12 4 ≤ 2 ^ 31 → 64 ≤ q.field 16 4 →
    q.field 16 4 ≤ 2 ^ 31 → ∃ z, z.mode = q.field 2 1 ∧ z.cir = q.field 4 4 ∧ z.pir = q.field 8 4 ∧ z.cbs = q.field 12 4 ∧
      z.pbs = q.field 16 4 ∧ z.tc = z.cbs ∧ z.tp = z.pbs ∧
      exec (.fabricPolicerSet f) s = .next (settled f
        ((s.popRequest f).schedule (.policer (q.field 0 1) (q.field 1 1) z)) q stOk (s.stride + 1) [])) ∧
  (∀ f s q, f < 64 → s.headRequest f 0x0707 = some q → s.shown.ports.length = 9 →
    exec (.fabricLinkStatus f) s = .next (settled f (s.popRequest f) q stOk unstamped
      (toLe 8 s.shown.first ++ s.shown.ports.flatMap Port.status)))

/-- R333, R335, R337, R338: HERD_STATUS reports the membership state; HERD_TEARDOWN of an open context tears it down at
the next boundary; HERD_REMOUNT arms a remount at least 4 strides ahead and answers with its stride;
HERD_REMOUNT_CANCEL disarms it at least 3 strides ahead; HERD_UNIT_RETURN before the first gait of the mount enters
the unit in the test list once. R299, R335: at R + Lmax each member keeps in paddock 0 what HBM alone holds, with the
last stride, and sends its partner the digest; once that is written the node restarts with the remount id, the new
stride code and the route image to use. It also rests on the readings that the model chose in log entries 39, 47, 105
and 108. -/
def Obligations.HerdRequestsAndRemount : Prop :=
  (∀ f s q, f < 64 → s.headRequest f 0x0708 = some q → ∃ own partner,
    own = (if s.node.st = 2 then 1 else if s.node.st = 3 then 2 else 0) ∧
    partner = (if s.isFenced s.partner then 2 else if (s.peer s.partner).suspected then 1 else 0) ∧
    exec (.herdStatus f) s = .next (settled f (s.popRequest f) q stOk unstamped
      (toLe 8 s.shown.first ++ toLe 8 s.memb.epoch ++ toLe 2 s.partner ++ toLe 1 own ++ toLe 1 partner ++
        toLe 4 s.memb.fenced.length ++ toLe 8 ((s.clk.armed.map (·.1)).getD 0) ++ fencedBitmap s.memb.fenced))) ∧
  (∀ f s q x, f < 64 → s.headRequest f 0x0709 = some q → 0 < q.field 0 2 → q.field 0 2 < 4096 →
    SMap.find? s.contexts (q.field 0 2) = some x → x.st = 1 →
    exec (.herdTeardown f) s = .next (settled f ((s.popRequest f).schedule (.teardown (q.field 0 2)))
      q stOk (s.stride + 1) [])) ∧
  (∀ f s q, f < 64 → s.headRequest f 0x070A = some q → bitOf (q.field 9 1) 0 = false → 1 ≤ q.field 8 1 → q.field 8 1 ≤ 3 →
    s.stride + 4 ≤ q.field 0 8 →
    exec (.herdRemount f) s = .next (settled f { s.popRequest f with
      clk := { s.clk with armed := some (q.field 0 8, q.field 8 1, q.field 16 8) } } q stOk (q.field 0 8) [])) ∧
  (∀ f s q r c i, f < 64 → s.headRequest f 0x070A = some q → bitOf (q.field 9 1) 0 = true →
    s.clk.armed = some (r, c, i) → s.stride + 3 ≤ r →
    exec (.herdRemountCancel f) s = .next (settled f { s.popRequest f with clk := { s.clk with armed := none } }
      q stOk unstamped [])) ∧
  (∀ f s q r c i, f < 64 → s.headRequest f 0x070A = some q → bitOf (q.field 9 1) 0 = true →
    s.clk.armed = some (r, c, i) → r < s.stride + 3 →
    exec (.herdRemountCancel f) s = .next (settled f (s.popRequest f) q stTooLate unstamped [])) ∧
  (∀ f s q, f < 64 → s.headRequest f 0x070B = some q → q.field 2 2 < returnableUnits (q.field 0 1) → s.gaits.mounted = none →
    exec (.herdUnitReturn f) s = .next (settled f { s.popRequest f with node := { s.node with record := { s.node.record with
      testList := if s.node.record.testList.contains (q.field 0 1, q.field 2 2) then s.node.record.testList
        else s.node.record.testList ++ [(q.field 0 1, q.field 2 2)] } } } q stOk unstamped [])) ∧
  (∀ s r lmax, s.clk.remounting = some (r, lmax) → s.running = true → s.clk.checkpointed = false → r + lmax ≤ s.stride →
    ∃ t, exec .remountCheckpoint s = .next t ∧ t.clk.checkpointed = true ∧ t.flash.checkpoint = some s.takeCheckpoint ∧
      t.flash.lastStride = s.stride ∧ t.mem = s.mem ∧ t.indexes = s.indexes ∧ t.tables = s.tables ∧ t.node = s.node ∧
      t.flash.paddocks = s.flash.paddocks ∧
      (s.isFenced s.partner = false → t = { s with
        clk := { s.clk with checkpointed := true }
        flash := { s.flash with checkpoint := some s.takeCheckpoint, lastStride := s.stride } }.send 1 s.partner
          (toLe 4 markCheckpoint ++ zeros 4 ++ toLe 8 s.stride ++ toLe 8 (digest64 s.takeCheckpoint.bytes)))) ∧
  (∀ s r c i, s.clk.checkpointed = true → s.running = true → s.clk.armed = some (r, c, i) → s.node.supply = true →
    s.node.resetLow = false → ∃ t, exec .remountRestart s = .next t ∧
      t.node.record.remount = some (i, c, s.fab.heldImage.getD s.fab.image) ∧ t.node.stage = 1 ∧ t.node.st = 0 ∧
      t.node.starts = s.node.starts + 1 ∧ t.mem = State.reset.mem ∧ t.flash.checkpoint = s.flash.checkpoint ∧
      t.flash.lastStride = s.flash.lastStride ∧ t.pending = s.pending)

/-- R401, R402, R404, R434, R435: TRUST_ATTEST answers with the signed report over the request's nonce; TRUST_BRAND_RECORD
with the brand record; TRUST_FW_UPDATE of an image that passes the checks erases the copy that is not running and
writes it, one above the running copy's sequence, and answers once its last page is programmed; of one that does not,
it reports the check's status and writes nothing; HEALTH_AGEING_REPORT and HEALTH_UNITS report. R406, R407, R408: a
debug challenge is fresh, free and replaces the one outstanding; an unlock whose token verifies over the serial, the
challenge and the scope unlocks before stage 9 and spends the challenge, and one that does not verify spends it and
unlocks nothing; an IDE key that unwraps is installed in its link, and one that does not is refused with no effect. It
also rests on the readings that the model chose in log entries 1, 8, 14, 43 and 113. -/
def Obligations.TrustRequestsServed : Prop :=
  (∀ f s q, f < 64 → s.headRequest f 0x0801 = some q →
    exec (.trustAttest f) s = .next (settled f (s.popRequest f) q stOk unstamped
      (s.reportBody (q.payload.take 48) false ++
        ecdsaSign (deviceScalar s.node.secret) (s.reportBody (q.payload.take 48) false)))) ∧
  (∀ f s q, f < 64 → s.headRequest f 0x0802 = some q →
    exec (.trustBrandRecord f) s = .next (settled f (s.popRequest f) q stOk unstamped (fit 336 s.node.brand))) ∧
  (∀ f image s q, f < 64 → s.dmaOk f = true → s.headRequest f 0x0803 = some q → q.field 8 8 % 64 = 0 →
    s.fwOutstanding = false →
    (s.fwStatus (image.take (q.field 4 4)) (bitOf (q.field 1 1) 0) = stOk →
      exec (.trustFwUpdate f image) s = .next ((defer (({ s.popRequest f with node := { s.node with
        update := some (!s.node.copyB, image.take (q.field 4 4)),
        copies := if s.node.copyB then (.erased, s.node.copies.2) else (s.node.copies.1, .erased) } }).bootWrite
        (if s.node.copyB then 0 else 16) (64 + (image.take (q.field 4 4)).length)) .firmwareWritten q unstamped).flush f)) ∧
    (s.fwStatus (image.take (q.field 4 4)) (bitOf (q.field 1 1) 0) ≠ stOk →
      exec (.trustFwUpdate f image) s = .next
        (settled f (s.popRequest f) q (s.fwStatus (image.take (q.field 4 4)) (bitOf (q.field 1 1) 0)) unstamped []))) ∧
  (∀ (s : State) b image, s.node.update = some (b, image) → (s.channel (if b then 16 else 0)).bootBusy = false →
    ∃ c : FwCopy, c = { sequence := s.fwRunning.sequence + 1, length := image.length, digest := sha384 image, image := image } ∧
      s.fwWritten (if b then 16 else 0) = ({ s with node := { s.node with
        update := none, copies := if b then (s.node.copies.1, c) else (c, s.node.copies.2) } }).happened .firmwareWritten stOk
        (some unstamped) (fwDigest image)) ∧
  (∀ f s q, f < 64 → s.headRequest f 0x0901 = some q →
    exec (.healthAgeingReport f) s = .next (settled f (s.popRequest f) q stOk unstamped s.ageingReport)) ∧
  (∀ f s q, f < 64 → s.headRequest f 0x0902 = some q →
    exec (.healthUnits f) s = .next (settled f (s.popRequest f) q stOk unstamped s.unitLists)) ∧
  (∀ f s q, f < 64 → s.headRequest f 0x0804 = some q → byteAt q.payload 0 = 0 →
    ∃ t, exec (.trustDebugChallenge f) s = .next (settled f t q stOk unstamped (s.drawnBytes 48)) ∧
      t.node = { s.node with challenge := some (s.drawnBytes 48) } ∧ t.draws = s.draws + 48) ∧
  (∀ f s q, f < 64 → s.headRequest f 0x0804 = some q → byteAt q.payload 0 = 1 → s.node.stage < 9 →
    exec (.trustDebugUnlock f) s = .next
      (if s.tokenOk q.payload = true then
        settled f { s.popRequest f with node := { s.node with
          challenge := none, unlocked := true, unlocks := s.node.unlocks + 1,
          scope := Nat.lor s.node.scope (bitsOf (le q.payload 8 8) 0 2) } } q stOk unstamped []
      else settled f { s.popRequest f with node := { s.node with challenge := none } } q stAuthFailed unstamped [])) ∧
  (∀ f s q, f < 64 → s.headRequest f 0x0804 = some q → byteAt q.payload 0 = 1 → s.tokenOk q.payload = false →
    exec (.trustDebugUnlock f) s = .next (settled f { s.popRequest f with node := { s.node with challenge := none } }
      q stAuthFailed unstamped [])) ∧
  (∀ f s q, f < 64 → s.headRequest f 0x0805 = some q → s.hasLink (byteAt q.payload 0) = true → byteAt q.payload 1 ≤ 8 →
    byteAt q.payload 2 ≤ 1 → byteAt q.payload 3 ≤ 1 → byteAt q.payload 4 ≤ 2 →
    (∀ k, s.ideKey ((q.payload.drop 8).take 96) ((q.payload.drop 104).take 40) = some k →
      exec (.trustIdeKey f) s = .next (settled f ((s.popRequest f).modLink (byteAt q.payload 0) fun l => l.install
        { stream := byteAt q.payload 1, direction := byteAt q.payload 2, set := byteAt q.payload 3, sub := byteAt q.payload 4,
          key := k }) q stOk unstamped [])) ∧
    (s.ideKey ((q.payload.drop 8).take 96) ((q.payload.drop 104).take 40) = none →
      exec (.trustIdeKey f) s = .next (settled f (s.popRequest f) q stBadCheck unstamped [])))

/-! ## Storage -/

/-- R277, R280, R274, R282, R283, R390: a storage class takes the one queue's head that fits: the queue's count of
admitted entries rises and the command is held under the next number; a READ's units are read in S+1 and delivered,
with its completion, in S+2, but while a lock or a burst holds their place in HBM (R180); a unit that stayed
uncorrectable is delivered as the partner answers it, with DETOUR; a partner's mirrored write that can be staged is
held and acked, and one for a paddock that is gone is discarded and counted; a mirrored paddock's units are served to
the partner, on an admission of the detour class. It also rests on the readings that the model chose in log entries
10, 35, 65 and 89. -/
def Obligations.StorageCommandsCarriedOut : Prop :=
  (∀ k h s r, k < 16384 → s.working = true → SMap.find? s.queues h.queue = some r → r.cls = k → s.mayAdmit r = true →
    r.priority ≤ 3 → (∀ w ∈ SMap.getD s.gaits.weights k [1, 1, 1], 0 < w) → (SMap.getD s.gaits.weights k [1, 1, 1]).length = 3 →
    s.storageFits k (parseCommand h.queue r.admitted s.stride 3 false (fit 64 h.entry)) = true → byteAt h.entry 4 = 1 →
    ∃ t c, exec (.storageAdmission k [h]) s = .next t ∧
      SMap.find? t.queues h.queue =
        some { r with admitted := r.admitted + 1, stepped := r.stepped + 1, reserved := r.reserved + 1 } ∧
      SMap.find? t.flash.commands s.flash.nextCommand = some c ∧ c.queue = h.queue ∧ c.admitAt = s.stride ∧
      c.cmdId = le (fit 64 h.entry) 0 4 ∧ t.flash.nextCommand = s.flash.nextCommand + 1) ∧
  (∀ n reads ans s c, SMap.find? s.flash.commands n = some c → s.working = true → c.op = 1 → c.status = stOk →
    c.read = false → s.stride = c.admitAt + 1 → 3 ≤ c.len → exec (.storageRead n reads ans) s = .next
      (((List.range c.count).foldl (fun s i => s.readUnit n c reads (c.start + i)) s).modStorage n fun c =>
        { c with read := true })) ∧
  (∀ n reads ans s c t d, SMap.find? s.flash.commands n = some c → s.working = true → c.op = 1 → c.status = stOk →
    c.read = true → s.stride = c.admitAt + 2 → 3 ≤ c.len →
    (c.inHbm = true → s.dieWaits c.address (4096 * c.count) = false) → t = c.asked.foldl (State.takeDetour n c ans) s →
    d = (SMap.find? t.flash.commands n).getD c →
    exec (.storageRead n reads ans) s = .next (((t.endDieWait c.address (4096 * c.count)).deliver d).finishCommand n d.marked)) ∧
  (∀ n reads ans s c, SMap.find? s.flash.commands n = some c → s.working = true → c.op = 1 → c.status = stOk →
    c.read = true → s.stride = c.admitAt + 2 → 3 ≤ c.len → c.inHbm = true → s.dieWaits c.address (4096 * c.count) = true →
    exec (.storageRead n reads ans) s = .next (s.countDieWait c.address (4096 * c.count))) ∧
  (∀ n ans (s : State) c u d, SMap.find? s.flash.commands n = some c → answerOf ans u = some d → u - c.start < c.data.length →
    ∃ e, SMap.find? (State.takeDetour n c ans s u).flash.commands n = some e ∧ e.data = c.data.set (u - c.start) d ∧
      bitOf e.flags 1 = true) ∧
  (∀ m s u p, s.arrival 6 s.partner m = (true, u) → SMap.find? u.flash.paddocks (le m 4 2) = some p → u.running = true →
    p.mirrored = true → p.st = 1 → u.refusesWrites = false → u.isFenced u.partner = false →
    le m 8 8 + le m 6 2 ≤ p.capacity → 0 < le m 6 2 →
    le m 6 2 ≤ 64 → u.stride ≤ le m 16 8 → u.bufferRoom (le m 4 2) (le m 8 8) (le m 6 2) = true →
    ∃ w, exec (.mirroredWriteReceive m) s = .next (({ u with flash :=
        { u.flash with mirrored := u.flash.mirrored ++ [w] } }).send 6 u.partner (toLe 4 (le m 0 4))) ∧
      w.paddock = le m 4 2 ∧ w.start = le m 8 8 ∧ w.data.length = le m 6 2 ∧ w.commit = le m 16 8 ∧ w.held = false) ∧
  (∀ m s u, s.arrival 6 s.partner m = (true, u) → SMap.find? u.flash.paddocks (le m 4 2) = none →
    exec (.mirroredWriteReceive m) s = .next u.scheduledDrop) ∧
  (∀ pad a n reads s p d, pad < 4096 → n ≤ 64 → SMap.find? s.flash.paddocks pad = some p → s.working = true →
    p.mirrored = true → s.gaitNow.1.freeClassOf p.context 7 = some d → s.classRoom d = true → (∀ r ∈ reads, r.lost = false) →
    ∃ t, exec (.storageDetourRead pad a n reads) s = .next t ∧ t.gaits = (s.admitTo d).gaits ∧
      t.out.sent = (s.send 6 s.partner (toLe 2 pad ++ toLe 8 a ++ toLe 4 n ++
        (List.range n).flatMap fun i => (p.view (a + i)).getD [])).out.sent)

/-- R258, R264, R265, R266, R267, R282: the first waiting operation that may be issued, its charges meeting its cost, is
issued, an erase to its block's target; a page whose data must be read moves as it is read; a page of which buffered
data is lost asks the span partner for it on class 6, and with no live partner to ask is given up and its units are
marked; a program whose array time ends waits for its status, and a good erase frees its block with its count raised;
a good program status takes its units out of the buffer, and a failed one counts, retires the block and programs the
page again; units that waited 16 strides go in a padded page. R269, R264, R418, R433, R270: in the commit window of
every 64th stride a channel that levels nothing and whose spread passes the limit takes its source; every 4,096
strides a checkpoint keeps both maps, records the stride and the hours and waits to program a page of the journal and
one of the boot area on each channel (log entry 88); every 4,096 strides a temperature sample is each channel's
present reading and the node's hottest. It also rests on the readings that the model chose in log entries 10, 66 and
88. -/
def Obligations.FlashWorkRun : Prop :=
  (∀ ch lost reads ans s o, ch < 32 → s.working = true → s.unitUp 0x0E ch = true →
    (s.channel ch).waiting.find? (s.issuable ch ans) = some o → o.kind = 2 → o.move = false → o.cls ≠ journalShare →
    exec (.arrayOperationIssue ch lost reads ans) s = .next (s.modChannel ch fun c =>
      { c with
        waiting := c.waiting.erase o,
        queues := SMap.alter c.queues (o.block / 2 ^ 16) [] fun q => q ++ [{ o with issued := s.stride }] })) ∧
  (∀ ch lost reads ans s o, ch < 32 → s.working = true → s.unitUp 0x0E ch = true →
    (s.channel ch).waiting.find? (s.issuable ch ans) = some o → o.move = true → o.asked = [] → o.units ≠ [] →
    (readOf reads ((o.units.headD (0, 0)).1)).lost = false →
    exec (.arrayOperationIssue ch lost reads ans) s = .next
      ((((s.readMoved ch o (readOf reads ((o.units.headD (0, 0)).1))).modChannel ch fun c =>
        { c with waiting := c.waiting.erase o }).issue ch o).levelStep ch)) ∧
  (∀ ch lost reads ans s o, ch < 32 → s.working = true → s.unitUp 0x0E ch = true →
    (s.channel ch).waiting.find? (s.issuable ch ans) = some o → o.kind = 1 → o.move = false → o.asked = [] →
    (∀ u ∈ o.units, u.1 ∉ lost) → exec (.arrayOperationIssue ch lost reads ans) s = .next
      (((s.modChannel ch fun c => { c with waiting := c.waiting.erase o }).collect ch o.paddock o.cls).issue ch o)) ∧
  (∀ ch lost reads ans s o, ch < 32 → s.working = true → s.unitUp 0x0E ch = true →
    (s.channel ch).waiting.find? (s.issuable ch ans) = some o → o.kind = 1 → o.move = false → o.asked = [] →
    (∃ u ∈ o.units, u.1 ∈ lost) → s.askable o.paddock = true →
    exec (.arrayOperationIssue ch lost reads ans) s = .next
      ((s.modChannel ch fun c => { c with waiting := c.waiting.map fun x =>
          if x = o then { o with asked := (o.units.filter fun u => lost.contains u.1).map (·.1) } else x }).send 6 s.partner
        (toLe 2 o.paddock ++ (o.units.filter fun u => lost.contains u.1).flatMap fun u => toLe 8 u.1))) ∧
  (∀ ch lost reads ans s o, ch < 32 → s.working = true → s.unitUp 0x0E ch = true →
    (s.channel ch).waiting.find? (s.issuable ch ans) = some o → o.kind = 1 → o.move = false → o.asked = [] →
    o.units ≠ [] → (∀ u ∈ o.units, u.1 ∈ lost) → s.askable o.paddock = false →
    exec (.arrayOperationIssue ch lost reads ans) s = .next
      ((s.modChannel ch fun c => { c with waiting := c.waiting.erase o }).deferFail ch o.paddock o.units)) ∧
  (∀ ch t good s o rest, ch < 32 → t < 8 → SMap.getD (s.channel ch).queues t [] = o :: rest → o.kind ≠ 2 →
    ∃ u, exec (.arrayOperationComplete ch t good) s = .next u ∧
      SMap.getD (u.channel ch).done t [] = SMap.getD (s.channel ch).done t [] ++ [{ o with failed := some (!good), ended := s.stride }] ∧
      u.mem = s.mem ∧ u.flash.paddocks = s.flash.paddocks) ∧
  (∀ ch t s o rest, ch < 32 → t < 8 → SMap.getD (s.channel ch).queues t [] = o :: rest → o.kind = 2 →
    (s.channel ch).levelling ≠ some o.block → ∃ u, exec (.arrayOperationComplete ch t true) s = .next u ∧
      (u.channel ch).block o.block =
        { count := ((s.channel ch).block o.block).count + 1, st := 0, pages := 0,
          paddock := if o.paddock = 0 || SMap.has s.flash.paddocks o.paddock then o.paddock else noPool } ∧
      u.mem = s.mem ∧ u.flash.paddocks = s.flash.paddocks) ∧
  (∀ ch t s o, ch < 32 → t < 8 → s.toRead ch t = some o →
    o.failed = some false → exec (.programStatusRead ch t) s = .next
      (((s.modChannel ch fun c => { c with done := SMap.update c.done t fun d => d.erase o }).pageGood ch o).fwWritten ch)) ∧
  (∀ ch t s o, ch < 32 → t < 8 → s.toRead ch t = some o →
    o.failed = some true → o.tries < 2 → ∃ u, exec (.programStatusRead ch t) s = .next u ∧
      (u.channel ch).progFails = (s.channel ch).progFails + 1 ∧ ((u.channel ch).block o.block).st = 3 ∧
      (u.channel ch).waiting.head? =
        some { o with block := 0, page := 0, charged := 0, failed := none, tries := o.tries + 1, asked := [] }) ∧
  (∀ pad ch s, pad < 4096 → ch < 32 → (∃ u ∈ s.unpaged pad ch, u.2.since + 16 ≤ s.stride) →
    exec (.pagePaddingTimeout pad ch) s = .next (s.modChannel ch fun c => { c with waiting := c.waiting ++
      [pageOp pad (((SMap.find? s.flash.paddocks pad).map (·.cls)).getD 0)
        (((s.unpaged pad ch).take 4).map fun u => (u.1, u.2.sequence)) false (s.pageNeedOf pad)] })) ∧
  (∀ s, s.running = true → s.clk.window = 0 → s.stride % 64 = 0 → ∃ t, exec .wearLevelCheck s = .next t ∧
    ∀ ch key n, ch < 32 → (s.channel ch).levelling = none → (s.channel ch).spread (s.targetList ch) = some (key, n) → s.wearLimit < n →
      (t.channel ch).levelling = some key) ∧
  (∀ s, s.running = true → s.stride % 4096 = 0 → (∀ m, s.flash.map = some m → m.stride ≠ s.stride) →
    ∃ t m, exec .mapCheckpoint s = .next t ∧ t.flash.map = some m ∧ m.stride = s.stride ∧
    m.user = SMap.mapVals s.flash.paddocks (fun _ p => p.units.map fun u => (u.1, u.2.entry)) ∧
    (∀ ch < 32, SMap.find? m.own ch = some (s.channel ch).own) ∧ t.flash.checkpoints = s.flash.checkpoints + 1 ∧
    t.flash.lastStride = s.stride ∧ t.node = { s.node with record := { s.node.record with
      hours := s.node.record.hours + 4096 * strideCycles s.clk.code } } ∧
    (∀ ch < 32, (t.channel ch).waiting = (s.channel ch).waiting ++ [slcOp journalShare, slcOp bootShare] ∧
      (t.channel ch).journal = []) ∧
    t.flash.paddocks = s.flash.paddocks ∧ t.mem = s.mem ∧ t.clk = s.clk) ∧
  (∀ celsius s, celsius ≠ [] → s.node.railsOn = true → s.stride % 4096 = 0 → s.flash.sampled ≠ some s.stride → ∃ t, exec (.flashTemperatureSample celsius) s = .next t ∧
    (∀ ch < min 32 celsius.length, (t.channel ch).now = celsius.getD ch 0) ∧
    t.tel.node.temps = s.tel.node.temps.set 3 (8 * hottest (celsius.take 32)) ∧ t.mem = s.mem)

/-! ## Fabric and membership -/

/-- R288, R289, R292, R293, R301, R315, R286, R328: on a port in service, a good frame joins the halves of its header
record and its flits go to the messages of their classes, and a bad one marks the messages of its flits, and each such
message is discarded and counted when its last flit has come; a flit of classes 3 and 4 is a record; a credit message
adds to the credits, at most the peer's 4,096 flits, and one of a fenced peer is discarded and counted; credits freed
are returned in one message and start at zero again; ten groups leave as one frame; a held message is sent again
unchanged, under a header record of its own; a port that goes down, alone or with its laser module, stays out of
service. R290 to R293, R300, R301, R313, R328: the header record that has come first, if one was joined, else the one
given, opens its message in the port's ingress buffer; a class that its port polices is policed, and what the port
does not take, of a fenced node or of a class that it never takes, is discarded and counted; a message for another
node leaves by its route's port with one hop more, and is discarded after three hops; a record of classes 3 and 4 is
routed by its own fields. It also rests on the readings that the model chose in log entries 29, 57, 67 and 107. -/
def Obligations.PortsAndMessages : Prop :=
  (∀ p cws cor s, p < 9 → (s.port p).st = 2 → p < s.fab.ports.length → frameOk cws cor 0 = true →
    frameIndexes (cws.map (·.control)) = [0, 1, 2, 3] → (∀ t ∈ frameTags (cws.map (·.control)), t ≤ 8) →
    (s.port p).badNow ≤ 16 → exec (.frameReceive p cws cor 0) s = .next ((frameFlits cws).foldl (State.flit p false)
      (s.modPort p fun x => { x with
        corrected := x.corrected + cor, records := x.records ++ x.joins (frameHalf (cws.map (·.control))),
        headerLow := x.halfTaken (frameHalf (cws.map (·.control))) }))) ∧
  (∀ p cws cor bad s, p < 9 → (s.port p).st = 2 → p < s.fab.ports.length → frameOk cws cor bad = true →
    ((∃ t ∈ frameTags (cws.map (·.control)), 8 < t) ∨ frameIndexes (cws.map (·.control)) ≠ [0, 1, 2, 3] ∨ 0 < bad) →
    (s.port p).badNow + bad ≤ 16 → exec (.frameReceive p cws cor bad) s = .next ((frameFlits cws).foldl (State.flit p true)
      (s.modPort p fun x => { x with
        corrected := x.corrected + cor, uncorrectable := x.uncorrectable + bad, badNow := x.badNow + bad,
        headerLow := none }))) ∧
  (∀ p cls fl bad (s : State) x, p < s.fab.ports.length → announced cls = true → 1 < x.left →
    ((s.port p).ingress.find? fun x => x.cls = cls && x.left ≠ 0) = some x →
    State.flit p bad s (cls, fl) = s.modPort p fun z => { z with
      ingress := z.ingress.map fun e => if e = x then x.take bad fl else e }) ∧
  (∀ p cls fl (s : State) x, p < s.fab.ports.length → announced cls = true → x.left = 1 → x.refused = false →
    ((s.port p).ingress.find? fun x => x.cls = cls && x.left ≠ 0) = some x → ∃ t, t = State.flit p true s (cls, fl) ∧
    (t.port p).discarded = (s.port p).discarded + 1 ∧ (t.port p).ingress = (s.port p).ingress.erase x ∧
    t.fab.lost = s.fab.lost ++ [(cls, s.stride, (x.take true fl).body)] ∧
    (0 < cls → cls < (s.port p).freed.length →
      (t.port p).freed.getD cls 0 = (s.port p).freed.getD cls 0 + (x.take true fl).body.length / 64)) ∧
  (∀ p cls fl (s : State), announced cls = false → (∃ b ∈ fl, b ≠ 0) → State.flit p false s (cls, fl) =
    s.modPort p fun x => { x with ingress := x.ingress ++
      [{ cls := cls, body := fl, left := 0, stride := s.stride, broken := false, refused := false }] }) ∧
  (∀ p cr s u, p < 9 → s.arrival 0 s.me (creditMessage cr) = (true, u) → (u.port p).st = 2 → p < u.fab.ports.length →
    u.isFenced (u.port p).peer = false → ∃ t, exec (.creditMessageReceive p cr) s = .next t ∧
    (∀ c, 0 < c → c < 8 → (t.port p).credits.getD c 0 = min 4096 ((u.port p).credits.getD c 0 + cr.getD c 0)) ∧
    ∀ i, i ≠ p → t.port i = u.port i) ∧
  (∀ p cr s u, p < 9 → s.arrival 0 s.me (creditMessage cr) = (true, u) → (u.port p).st = 2 →
    u.isFenced (u.port p).peer = true → exec (.creditMessageReceive p cr) s = .next (u.discard p 1)) ∧
  (∀ p s, p < 9 → (s.port p).st = 2 → s.node.st ≠ 2 → p < s.fab.ports.length → ∃ t, exec (.creditReturn p) s = .next t ∧
    (t.port p).freed = [0, 0, 0, 0, 0, 0, 0, 0] ∧
    t.out.sent = s.out.sent ++ [{ cls := 0, dest := 2 ^ 15 + p,
                                  body := fit 64 ((List.range 8).flatMap fun c => toLe 4 ((s.port p).freed.getD c 0)), aside := [] }]) ∧
  (∀ (s : State) p, p < s.fab.ports.length → 10 ≤ (s.port p).groups.length →
    (s.closeFrame p).out.frames = s.out.frames ++ [(s.port p).frame p] ∧ ((s.closeFrame p).port p).groups = []) ∧
  (∀ h s x, (s.fab.transports.find? fun t => t.handle = h) = some x → s.running = true → s.portOpen (s.routeOf x.dest) = true →
    ∃ t, exec (.transportResend h) s = .next t ∧
      t.out.sent = s.out.sent ++ [{ cls := x.cls, dest := x.dest, body := x.body, aside := [] }] ∧
      (s.routeOf x.dest < s.fab.ports.length → (t.port (s.routeOf x.dest)).leaving = (s.port (s.routeOf x.dest)).leaving ++
        [{ cls := x.cls, flits := flitsOf x.body, since := if announced x.cls then none else some 0,
           header := if announced x.cls then some (headerRecord (ceilDiv x.body.length 64) x.dest x.cls s.me) else none }]) ∧
      t.fab.transports = s.fab.transports) ∧
  (∀ p s, p < 9 → (s.port p).st = 2 → p < s.fab.ports.length → ∃ t, exec (.portDown p) s = .next t ∧
    (t.port p).st = 3 ∧ (t.port p).reason = 9 ∧ ∀ i, i ≠ p → t.port i = s.port i) ∧
  (∀ second s, s.fab.ports.length = 9 → ∃ t, exec (.laserModuleDark second) s = .next t ∧
    (∀ p ∈ (if second then [4, 5, 6, 7] else [0, 1, 2, 3]), (t.port p).st ≠ 2) ∧ t.port 8 = s.port 8) ∧
  (∀ p h0 h b s, p < 9 → (s.port p).st = 2 → s.node.stopped = false → h = (s.port p).records.headD h0 → hdrLength h ≠ 0 →
    announced (hdrClass h) = true → s.takes p (hdrClass h) (hdrSource h) = true →
    polices (s.port p).role (hdrClass h) = false → exec (.headerRecordReceive p h0 b) s = .next
      ((s.modPort p fun x => { x with records := x.records.tail }).acceptMessage p (arriving h b s.stride false))) ∧
  (∀ p h0 h b s z, p < 9 → (s.port p).st = 2 → p < s.fab.ports.length → s.node.stopped = false →
    h = (s.port p).records.headD h0 → hdrLength h ≠ 0 → announced (hdrClass h) = true →
    s.takes p (hdrClass h) (hdrSource h) = true →
    polices (s.port p).role (hdrClass h) = true → SMap.find? (s.port p).policers (hdrClass h) = some z → z.mode ≠ 0 →
    64 * hdrLength h ≤ z.tp → 64 * hdrLength h ≤ z.tc → (z.mode = 2 → hdrYellow h = false) →
    ∃ t, exec (.headerRecordReceive p h0 b) s = .next t ∧ SMap.find? (t.port p).policers (hdrClass h) =
        some { z with tp := z.tp - 64 * hdrLength h, tc := z.tc - 64 * hdrLength h, green := z.green + 1 } ∧
      (t.port p).ingress = (s.port p).ingress ++ [arriving h b s.stride false] ∧
      (t.port p).discarded = (s.port p).discarded) ∧
  (∀ p h0 h b s z, p < 9 → (s.port p).st = 2 → p < s.fab.ports.length → s.node.stopped = false →
    h = (s.port p).records.headD h0 → hdrLength h ≠ 0 → announced (hdrClass h) = true →
    s.takes p (hdrClass h) (hdrSource h) = true →
    polices (s.port p).role (hdrClass h) = true → SMap.find? (s.port p).policers (hdrClass h) = some z → z.mode ≠ 0 →
    z.tp < 64 * hdrLength h → ∃ t, exec (.headerRecordReceive p h0 b) s = .next t ∧
      SMap.find? (t.port p).policers (hdrClass h) = some { z with red := z.red + 1 } ∧
      (t.port p).ingress = (s.port p).ingress ++ [arriving h b s.stride true] ∧
      t.fab.lost = s.fab.lost ++ [(hdrClass h, s.stride, fit (64 * hdrLength h) b)] ∧
      (t.port p).discarded = (s.port p).discarded + 1) ∧
  (∀ p h0 h b s, p < 9 → (s.port p).st = 2 → p < s.fab.ports.length → s.node.stopped = false →
    h = (s.port p).records.headD h0 → hdrLength h ≠ 0 →
    announced (hdrClass h) = true → s.takes p (hdrClass h) (hdrSource h) = false →
    ∃ t, exec (.headerRecordReceive p h0 b) s = .next t ∧ (t.port p).discarded = (s.port p).discarded + 1 ∧
      t.fab.lost = s.fab.lost ++ [(hdrClass h, s.stride, fit (64 * hdrLength h) b)]) ∧
  (∀ p h b s u, p < 9 → s.arrival (hdrClass h) s.me b = (true, u) → u.running = true → (u.port p).st = 2 →
    hdrDest h ≠ u.me → announced (hdrClass h) = true → u.takes p (hdrClass h) (hdrSource h) = true →
    hdrHops h < 3 → u.routeOf (hdrDest h) < 9 → u.portOpen (u.routeOf (hdrDest h)) = true →
    u.isFenced (hdrDest h) = false → u.isFenced (hdrSource h) = false →
    exec (.routerForward p h b) s = .next ((u.modPort (u.routeOf (hdrDest h)) fun x =>
      x.sends (hdrClass h) (h.toNat + 2 ^ 50) b).emit (hdrClass h) (2 ^ 15 + u.routeOf (hdrDest h)) b [])) ∧
  (∀ p h b s u, p < 9 → s.arrival (hdrClass h) s.me b = (true, u) → u.running = true → (u.port p).st = 2 →
    hdrDest h ≠ u.me → announced (hdrClass h) = true → u.takes p (hdrClass h) (hdrSource h) = true →
    3 ≤ hdrHops h → exec (.routerForward p h b) s = .next ((u.discard p 1).scheduledLost)) ∧
  (∀ p h b s u v, p < 9 → s.arrival (hdrClass h) s.me b = (true, u) → u.running = true → (u.port p).st = 2 →
    announced (hdrClass h) = false → recordDest b ≠ u.me → u.recordIn p (hdrClass h) (recordSource b) = (true, v) →
    bitsOf (byteAt b 14) 1 2 < 3 → u.routeOf (recordDest b) < 9 → u.portOpen (u.routeOf (recordDest b)) = true →
    u.isFenced (recordDest b) = false → u.isFenced (recordSource b) = false →
    exec (.routerForward p h b) s = .next ((v.modPort (u.routeOf (recordDest b)) fun x =>
      x.sends (hdrClass h) (h.toNat + 2 ^ 50) (recordHop b)).emit (hdrClass h) (2 ^ 15 + u.routeOf (recordDest b))
      (recordHop b) []))

/-- R303 to R306, R309: an operation of the node on an open window of its context, in bounds, aligned, from the region's
owner, on a block that reads clean and is neither locked nor under a burst, stores its new value at the location,
leaves every other byte of HBM, and answers with ST_OK and the old value; one that comes behind a waiting one of its
issuer, context and window waits behind it. It also rests on the readings that the model chose in log entries 67 and
68. -/
def Obligations.MemoryOperationPerformed : Prop :=
  (∀ old a b, opValue 2 4 old a b = a % 2 ^ 32 ∧ opValue 3 4 old a b = (old + a) % 2 ^ 32 ∧
    opValue 5 4 old a b = if old = a % 2 ^ 32 then b % 2 ^ 32 else old) ∧
  (∀ p cls r s u x, p < 9 → cls = 3 ∨ cls = 4 → s.arrival cls s.me r = (true, u) → u.running = true → (u.port p).st = 2 →
    le r 0 8 % 2 ^ 15 = u.me → bitOf (byteAt r 14) 0 = false → (le r 10 2 % 2 ^ 15 = u.me ∨
      (u.takes p cls (le r 10 2 % 2 ^ 15) = true ∧ polices (u.port p).role cls = false)) →
    (u.nmu.lockWaiters.any fun w => sameStream (waiterClass w) cls w.2 r) = false →
    SMap.find? u.fab.windows (le r 0 8 / 2 ^ 15 % 2 ^ 9) = some x → x.context = le r 12 2 % 2 ^ 12 →
    byteAt r 9 ≤ 3 → le r 0 8 / 2 ^ 24 + 2 ^ byteAt r 9 ≤ x.size → le r 0 8 / 2 ^ 24 % 2 ^ byteAt r 9 = 0 →
    2 ≤ byteAt r 8 → byteAt r 8 ≤ 9 →
    u.ownsRegion (le r 10 2 % 2 ^ 15) (le r 0 8 / 2 ^ 15 % 2 ^ 9) (le r 0 8 / 2 ^ 24) = true → x.base % 2048 = 0 →
    u.tagOk x.context (x.base + le r 0 8 / 2 ^ 24) = true →
    u.lockedBlock ((x.base + le r 0 8 / 2 ^ 24) / 64) = false → u.burstOver ((x.base + le r 0 8 / 2 ^ 24) / 64) = false →
    SMap.find? u.mem.checks ((x.base + le r 0 8 / 2 ^ 24) / 64) = none → cellsWf u.mem.bytes = true →
    ∃ t, exec (.memoryOperation p cls r) s = .next t ∧
      (∀ c, c < x.base + le r 0 8 / 2 ^ 24 ∨ x.base + le r 0 8 / 2 ^ 24 + 2 ^ byteAt r 9 ≤ c →
        readByte t.mem.bytes c = readByte s.mem.bytes c) ∧
      t.hbmRead (x.base + le r 0 8 / 2 ^ 24) (2 ^ byteAt r 9) = toLe (2 ^ byteAt r 9)
        (opValue (byteAt r 8) (2 ^ byteAt r 9) (le (s.hbmRead (x.base + le r 0 8 / 2 ^ 24) (2 ^ byteAt r 9)) 0 (2 ^ byteAt r 9))
          (le r 24 8) (le r 32 8))) ∧
  (∀ p cls r s u, p < 9 → cls = 3 ∨ cls = 4 → s.arrival cls s.me r = (true, u) → u.running = true →
    le r 0 8 % 2 ^ 15 = u.me → le r 10 2 % 2 ^ 15 = u.me → bitOf (byteAt r 14) 0 = false →
    (∀ b, u.opBlock r = some b → u.unitHolds b = false) →
    (u.nmu.lockWaiters.any fun w => sameStream (waiterClass w) cls w.2 r) = true →
    exec (.memoryOperation p cls r) s = .next (u.holdOp p cls r false))

/-- R296 to R298, R328, R447: a mark on a port in service is kept as its phase; on the parent port of a node other than
the root it sets the correction of its stride, or of the next where it comes before its stride begins, clamped to 16
cycles, and counts wide errors of strides in a row; a mark of a fenced peer is discarded and counted; two strides
without a mark on the primary parent port turn a node to its backup port from the next boundary; two wide errors or
four strides without marks put it out of step; the root follows STRIDE_IN edges where the tack image enables it, and
drops the correction after two strides without one. It also rests on the readings that the model chose in log entries
31, 32 and 107. -/
def Obligations.StrideMarksFollowed : Prop :=
  (∀ p n o (a : Int) s u, p < 9 → s.arrival 0 s.me (strideMark n o) = (true, u) → (u.port p).st = 2 →
    p < u.fab.ports.length → u.isFenced (u.port p).peer = false → u.isRoot = false →
    p = u.parentPort → ∃ t, exec (.strideMarkReceive p n o a) s = .next t ∧
      (if u.stride < n then t.fab.correction else t.fab.longer) = max (-256) (min 256 (a - (u.port p).delay - o)) ∧
      (if u.stride < n then t.fab.longer = u.fab.longer else t.fab.correction = u.fab.correction) ∧
      t.fab.wideErrors = (if (a - (u.port p).delay - o).natAbs ≤ 4000 then 0
        else if (u.port p).marks + 1 = n then u.fab.wideErrors + 1 else 1) ∧
      (t.port p).phase = a - (u.port p).delay - o ∧ t.clk = s.clk) ∧
  (∀ p n o (a : Int) s u, p < 9 → s.arrival 0 s.me (strideMark n o) = (true, u) → (u.port p).st = 2 →
    p < u.fab.ports.length → u.isFenced (u.port p).peer = false →
    p ≠ u.parentPort → ∃ t, exec (.strideMarkReceive p n o a) s = .next t ∧ t.fab.correction = s.fab.correction ∧
      t.fab.longer = s.fab.longer ∧ (t.port p).phase = a - (u.port p).delay - o ∧
      (t.port p).marks = max (u.port p).marks n ∧ t.clk = s.clk) ∧
  (∀ p n o (a : Int) s u, p < 9 → s.arrival 0 s.me (strideMark n o) = (true, u) → (u.port p).st = 2 →
    u.isFenced (u.port p).peer = true → exec (.strideMarkReceive p n o a) s = .next (u.discard p 1)) ∧
  (∀ s, s.running = true → s.isRoot = false → s.fab.onBackup = false → s.fab.backup < 9 →
    (s.port s.primaryPort).marks + 2 ≤ s.stride →
    exec .parentMarkLoss s = .next { s with fab := { s.fab with toBackup := true } }) ∧
  (∀ s, s.running = true → s.isRoot = false → (2 ≤ s.fab.wideErrors ∨ 4 ≤ s.fab.noMark) →
    exec .outOfStep s = .next { s with fab := { s.fab with outStep := true } }) ∧
  (∀ (a : Int) s, s.isRoot = true → s.fab.strideIn = true → s.clk.code ≠ 0 → a < 0 → exec (.strideInEdge a) s = .next
    { s with fab := { s.fab with correction := max (-256) (min 256 a), noEdge := 0 } }) ∧
  (∀ (a : Int) s, s.isRoot = true → s.fab.strideIn = true → s.clk.code ≠ 0 → 0 ≤ a → exec (.strideInEdge a) s = .next
    { s with fab := { s.fab with longer := max (-256) (min 256 a), noEdge := 0 } }) ∧
  (∀ s, s.isRoot = true → s.fab.strideIn = true → 2 ≤ s.fab.noEdge →
    exec .strideInLoss s = .next { s with fab := { s.fab with correction := 0 } })

/-- R322, R324, R325: in the work window a node sends its heartbeat on every port in service, and a fenced one nothing
else; a live peer's heartbeat is kept with its stride and flags, and a fenced one's is discarded and counted, as are
its accusations and vouches; an accusation and a partner's vouch for its subject are held for the decision; at the end
of a stride a watched peer that did not beat misses it, and a second miss in turn suspects it where others are still
heard. R26, R323 to R327: the first cycle of the drain guard takes the decisions; each fence decided is held for
adoption, and a node cut off from its herd decides against itself; a fence record not seen before is held and
forwarded, and one already seen changes nothing; a node that learns of its own fence stops at once. No decision and no
record adopts a fence before the next boundary. It also rests on the readings that the model chose in log entries 36,
37, 38, 57 and 108. -/
def Obligations.MembershipKept : Prop :=
  (∀ s, s.beats = true → s.clk.window = 1 → s.selfFenced = true →
    exec .heartbeatSend s = .next (s.flood none s.heartbeat)) ∧
  (∀ s, s.beats = true → s.clk.window = 1 → s.selfFenced = false → s.memb.repeats = [] →
    (∀ n ∈ s.watched, (s.peer n).suspected = false) → exec .heartbeatSend s = .next (s.flood none s.heartbeat)) ∧
  (∀ p r s u, p < 9 → s.arrival 0 s.me r = (true, u) → u.listens = true → (u.port p).st = 2 → byteAt r 0 = 1 →
    u.isFenced (membSender r) = false → ∃ t, exec (.heartbeatReceive p r) s = .next t ∧
      t.memb.heardAny = u.stride ∧ (t.peer (membSender r)).lastHeard = u.stride ∧
      (t.peer (membSender r)).outStep = bitOf (le r 6 2) 0 ∧
      (t.peer (membSender r)).behind = (if u.memb.epoch < le r 16 8 then
        (if (u.peer (membSender r)).beat = le r 8 8 then max 1 (u.peer (membSender r)).behind
         else (u.peer (membSender r)).behind + 1) else 0) ∧
      (∀ n, n ≠ membSender r → t.peer n = u.peer n) ∧ t.memb.epoch = s.memb.epoch ∧ t.memb.fenced = s.memb.fenced) ∧
  (∀ p r s u, p < 9 → s.arrival 0 s.me r = (true, u) → u.listens = true → (u.port p).st = 2 → byteAt r 0 = 1 →
    u.isFenced (membSender r) = true → exec (.heartbeatReceive p r) s = .next (u.discard p 1)) ∧
  (∀ r s u, s.arrival 0 s.me r = (true, u) → u.listens = true → u.isFenced (membSender r) = false → byteAt r 0 = 2 →
    membSubject r ≠ u.partner → exec (.accusationReceive r) s = .next { u with memb :=
      { u.memb with accusations := u.memb.accusations ++ [(membSubject r, membSender r, u.stride)] } }) ∧
  (∀ r s u, s.arrival 0 s.me r = (true, u) → u.listens = true → u.isFenced (membSender r) = false → byteAt r 0 = 3 →
    membSender r = partnerOf (membSubject r) → exec (.vouchReceive r) s = .next { u with memb :=
      { u.memb with vouches := u.memb.vouches ++ [(membSubject r, u.stride)] } }) ∧
  (∀ r s u, s.arrival 0 s.me r = (true, u) → u.listens = true → u.isFenced (membSender r) = true →
    (byteAt r 0 = 2 → exec (.accusationReceive r) s = .next u.scheduledLost) ∧
    (byteAt r 0 = 3 → exec (.vouchReceive r) s = .next u.scheduledLost)) ∧
  (∀ s, s.beats = true → s.clk.window = 2 → s.selfFenced = false → ∃ t, exec .heartbeatMiss s = .next t ∧
    (∀ n ∈ s.watched, s.missed n = true → (s.peer n).counted s.stride = false →
      (t.peer n).misses = (s.peer n).misses + 1) ∧
    (∀ n ∈ s.watched, s.missed n = false → (s.peer n).counted s.stride = false →
      (t.peer n).misses = 0 ∧ (t.peer n).suspected = false) ∧
    (∀ n, n ∉ s.watched → t.peer n = s.peer n) ∧ t.memb.fenced = s.memb.fenced) ∧
  (∀ s, s.clk.window = 1 → s.memb.beating = true → s.selfFenced = false → ∃ t, exec .fenceDecision s = .next t ∧
    t.clk.window = 2 ∧ t.memb.fenced = s.memb.fenced ∧ t.memb.epoch = s.memb.epoch ∧
    t.memb.held.map (fun x => (x.subject, x.reason)) =
      s.memb.held.map (fun x => (x.subject, x.reason)) ++ { s with clk := { s.clk with window := 2 } }.fences) ∧
  (∀ s : State, s.isolated = true → s.fences = [(s.me, 5)]) ∧
  (∀ s, s.clk.window = 1 → s.memb.beating = false →
    exec .fenceDecision s = .next { s with clk := { s.clk with window := 2 } }) ∧
  (∀ (s : State) l, (∃ d ∈ l, d.1 = s.me) → (s.decideFences l).node.st = 2) ∧
  (∀ p r s u, p < 9 → s.arrival 0 s.me r = (true, u) → u.memb.beating = true → u.selfFenced = false → (u.port p).st = 2 →
    byteAt r 0 = 4 → u.isFenced (membSender r) = false → (membSubject r, membSender r, le r 24 8) ∉ u.memb.seen →
    u.isFenced (membSubject r) = false → ∃ t x, exec (.fenceRecordReceive p r) s = .next t ∧
      x = ({ subject := membSubject r, reason := byteAt r 1, decider := membSender r, stride := le r 24 8, own := false } : Fence) ∧
      t.memb.held = u.memb.held ++ [x] ∧
      t.memb.fenced = s.memb.fenced ∧ t.memb.epoch = s.memb.epoch ∧
      (membSubject r ≠ u.me → t.node = u.node) ∧
      (membSubject r = u.me → (standing t.memb.held).contains x = true → t.node.st = 2)) ∧
  (∀ p r s u, p < 9 → s.arrival 0 s.me r = (true, u) → u.memb.beating = true → u.selfFenced = false → (u.port p).st = 2 →
    byteAt r 0 = 4 → u.isFenced (membSender r) = false → (membSubject r, membSender r, le r 24 8) ∈ u.memb.seen →
    exec (.fenceRecordReceive p r) s = .next u)

/-! ## Health, management and arbitration -/

/-- R403, R428, R412: while the management core serves, each MCTP command answers once, and nothing else changes; while it
restarts or is not yet up, none answers. R429, R431, R428: a sweep outside a remount, of a mounted domain whose
cadence has passed, measures and reports only: the domain's latest record takes its worst unit and the life last
projected, a unit newly below its floor raises a PLDM event, and the plan, the retired units and every other domain's
record stay. The worst unit has the least margin. It also rests on the readings that the model chose in log entries 5,
12, 42 and 114. -/
def Obligations.ManagementAndSweeps : Prop :=
  (∀ p s, s.ctl.mgmtDown = false → s.node.served = true →
    exec (.mctpAttestation p) s = .next { s with out := { s.out with mctp := s.out.mctp ++ [s.attestation (p.take 48) true] } } ∧
    exec .mctpBrandRecord s = .next { s with out := { s.out with mctp := s.out.mctp ++ [fit 336 s.node.brand] } } ∧
    exec .mctpFirmwareVersion s = .next { s with out := { s.out with
      mctp := s.out.mctp ++ [toLe 4 s.node.version ++ fit 48 s.node.digest] } } ∧
    exec .mctpAgeingReport s = .next { s with out := { s.out with mctp := s.out.mctp ++ [s.ageingReport] } } ∧
    exec .mctpUnitLists s = .next { s with out := { s.out with mctp := s.out.mctp ++ [s.unitLists] } }) ∧
  (∀ o n s, s.ctl.mgmtDown = false → s.node.served = true → n % 8 = 0 → n ≤ 1024 → o + n ≤ 2 ^ 18 →
    exec (.mctpMirrorRead o n) s = .next { s with out := { s.out with
      mctp := s.out.mctp ++ [toLe 8 (if s.shown.live then s.shown.first else 0) ++ s.shown.read s.flash.fresh o n] } }) ∧
  (∀ p s, (s.ctl.mgmtDown = true ∨ s.node.served = false) → exec (.mctpAttestation p) s = .next s ∧
    exec .mctpBrandRecord s = .next s ∧ exec .mctpFirmwareVersion s = .next s ∧ exec .mctpAgeingReport s = .next s ∧
    exec .mctpUnitLists s = .next s) ∧
  (∀ r s, domainCodes.contains r.domain = true → s.running = true → s.mountedSet.hasDomain r.domain = true →
    s.sweepDue r.domain = true → (r.domain = 0x30 → s.farrierSpent = false) → ∃ t, exec (.farrierSweep r) s = .next t ∧
    (recordOf t.node.sweep r.domain).worst = (worstUnit r).num ∧
    (recordOf t.node.sweep r.domain).timing = (if timed r.domain then (worstUnit r).timing else 0) ∧
    (recordOf t.node.sweep r.domain).voltage = (worstUnit r).voltage ∧
    (recordOf t.node.sweep r.domain).stride = s.stride ∧
    (recordOf t.node.sweep r.domain).life = (recordOf s.node.record.plan r.domain).life ∧
    (∀ d, d ≠ r.domain → recordOf t.node.sweep d = recordOf s.node.sweep d) ∧ t.node.record = s.node.record ∧
    (unitsBelow r 0 = [] → t.out.pldm = s.out.pldm ∧ t.ctl = s.ctl) ∧
    (unitsBelow r 0 ≠ [] → (recordOf s.node.sweep r.domain).flags = 0 → s.ctl.mgmtDown = false →
      t.out.pldm = s.out.pldm ++ [(pldmFloor, r.domain, s.stride)])) ∧
  (∀ r s, domainCodes.contains r.domain = true → s.sweepDue r.domain = false → exec (.farrierSweep r) s = .next s) ∧
  (∀ r, unitsOf r ≠ [] → worstUnit r ∈ unitsOf r ∧
    ∀ u ∈ unitsOf r, if timed r.domain then (worstUnit r).timing ≤ u.timing else (worstUnit r).voltage ≤ u.voltage)

/-- R190 to R192, R288, R291, R292: a decision changes its arbiter alone, but that of a fabric port in service also sends
a group, of the granted class where a class may be served, within the peer's credits, and an idle group otherwise; it
grants a present slot that asks wherever one asks and none holds; with no wait limit reached the grant goes to the
highest priority. It also rests on the readings that the model chose in log entry 20. -/
def Obligations.ArbiterGrants : Prop :=
  (∀ n rq bl te w k s, n < 567 → n < 556 ∨ 565 ≤ n → exec (.arbiterDecision n rq bl te w k) s =
    .next (s.modArbiter n (Arbiter.decide n rq bl te w))) ∧
  (∀ p rq bl te w k s, p < 9 → p < s.fab.ports.length → (s.port p).st = 2 → (s.port p).groups.length < 9 →
    ∃ t, exec (.arbiterDecision (556 + p) rq bl te w k) s = .next t ∧
    t.arbiter (556 + p) = Arbiter.decide (556 + p) (rq &&& (s.port p).requests k) bl te w (s.arbiter (556 + p)) ∧
    t.port p = (if rq &&& (s.port p).requests k = 0 then ((s.port p).stall k).sendIdle
      else ((s.port p).stall k).granted k (t.arbiter (556 + p)).lastGrant) ∧
    (∀ i, i ≠ p → t.port i = s.port i) ∧ t.mem = s.mem ∧ t.out = s.out) ∧
  (∀ (p : Port) cls, (p.sendGroup cls).groups.length = p.groups.length + 1 ∧
    (cls ≠ 0 → cls < p.credits.length → (p.sendGroup cls).credits.getD cls 0 + min (min 4 (p.ready cls)) (p.credits.getD cls 0) =
      p.credits.getD cls 0) ∧ (∀ c, c ≠ cls → (p.sendGroup cls).credits.getD c 0 = p.credits.getD c 0)) ∧
  (∀ n rq bl te w a, n < 567 → a.holder = none → (∃ i < arbiterSlots n, bitOf rq.toNat i = true) →
    ∃ g, (Arbiter.decide n rq bl te w a).holder = some g ∧ g < arbiterSlots n ∧ bitOf rq.toNat g = true ∧
      (Arbiter.decide n rq bl te w a).lastGrant = g ∧ (Arbiter.decide n rq bl te w a).decisions = a.decisions + 1 ∧
      (Arbiter.decide n rq bl te w a).waits.getD g 0 = 0) ∧
  (∀ n rq te w a g, n < 567 → arbiterKind n ≠ 3 → arbiterKind n ≠ 0 → a.holder = none →
    (∀ i, a.waitLim.getD i 0 = 0 ∨ a.waits.getD i 0 < a.waitLim.getD i 0) →
    (Arbiter.decide n rq 0 te w a).holder = some g →
    ∀ i < arbiterSlots n, bitOf rq.toNat i = true → a.prioOf i ≤ a.prioOf g)

/-! ## Power and start-up -/

/-- R24, R402, R436, R443, R444: 52 V in range with RESET_N high starts stage 1 and counts the start; losing 52 V, by
removal or by undervoltage, leaves what flash, the boot area and paddock 0 hold and nothing that 52 V alone keeps;
RESET_N low abandons the node's work, or waits where a flush runs; its release starts stage 1 again; PWRFAIL_N of a
node that has run stops admission and commits and starts the flush, and the flush's end records the last stride. R436,
R437: a junction sample replaces the readings and keeps the stride's highest; a sensor that crosses 105 °C upward
raises its event, and two samples in turn at 115 °C stop the node with its alert, its record and, where it has run, a
flush; a flush that runs already goes on. It also rests on the readings that the model chose in log entries 45 and 46. -/
def Obligations.PowerAndProtection : Prop :=
  (∀ s, s.node.supply = false → s.node.resetLow = false → exec .powerArrival s = .next { s with node :=
    { s.node with supply := true, st := 0, stage := 1, failure := 0, starts := s.node.starts + 1 } }) ∧
  (∀ s, ∃ t, exec .powerRemoval s = .next t ∧ t.node.supply = false ∧ t.node.st = 0 ∧ t.node.stage = 0 ∧
    t.node.starts = 0 ∧ t.node.unlocked = false ∧ t.mem = State.reset.mem ∧ t.mbx = [] ∧ t.rings = [] ∧ t.funcs = [] ∧
    t.clk = State.reset.clk ∧ t.gaits = State.reset.gaits ∧ t.work = State.reset.work ∧ t.nmu = State.reset.nmu ∧
    t.fab = State.reset.fab ∧ t.memb = State.reset.memb ∧
    t.node.brand = s.node.brand ∧ t.node.copies = s.node.copies ∧ t.node.serial = s.node.serial ∧
    t.node.record = s.node.record ∧ t.flash.lastStride = s.flash.lastStride ∧ t.pending = s.pending ∧ t.out = s.out) ∧
  (∀ s, s.node.supply = true → ∃ t, exec .powerRemoval s = .next t ∧ exec .undervoltage s = .next t) ∧
  (∀ s, s.node.supply = false → exec .undervoltage s = .next s) ∧
  (∀ s, s.node.flushing = false → ∃ t, exec .resetNAssert s = .next t ∧ t.node.resetLow = true ∧
    t.node.supply = s.node.supply ∧ t.node.starts = s.node.starts ∧ t.node.unlocked = s.node.unlocked ∧
    t.node.st = 0 ∧ t.node.stage = 0 ∧ t.mem = State.reset.mem ∧ t.mbx = [] ∧ t.rings = [] ∧ t.funcs = [] ∧
    t.work = State.reset.work ∧ t.node.brand = s.node.brand ∧ t.node.copies = s.node.copies ∧
    t.flash.lastStride = s.flash.lastStride ∧ t.pending = s.pending ∧ t.out = s.out) ∧
  (∀ s, s.node.flushing = true → exec .resetNAssert s = .next { s with node :=
    { s.node with resetLow := true, resetHeld := true } }) ∧
  (∀ s, s.node.resetLow = true → s.node.resetHeld = false → s.node.supply = true →
    exec .resetNRelease s = .next { s with node :=
      { s.node with resetLow := false, st := 0, stage := 1, failure := 0, starts := s.node.starts + 1 } }) ∧
  (∀ s, s.node.supply = true → s.node.resetLow = false → s.node.flushing = false → s.node.stopped = false →
    (s.node.st = 1 ∨ s.node.st = 2 ∨ s.node.st = 4) → ∃ t, exec .pwrfailNAssert s = .next t ∧
    t.node.st = 5 ∧ t.node.stopped = true ∧ t.node.flushing = true ∧ t.memb.beating = false ∧
    t.flash.paddocks = s.flash.paddocks ∧ t.mem = s.mem ∧ t.clk = s.clk ∧ t.rings = s.rings ∧ t.mbx = s.mbx) ∧
  (∀ s, s.node.supply = true → s.node.resetLow = false → s.node.flushing = false → s.node.stopped = false →
    (s.node.st = 0 ∨ s.node.st = 3) → exec .pwrfailNAssert s = .next { s with
      node := { s.node with st := 5, stopped := true }, memb := { s.memb with beating := false } }) ∧
  (∀ s, s.node.flushing = true → s.node.resetHeld = false → exec .powerFailFlushEnd s = .next { s with
    node := { s.node with flushing := false }
    flash := { s.flash with flushed := true, lastStride := s.stride } }) ∧
  (∀ now s, now.length = 10 → s.node.railsOn = true →
    (∀ i, i < 10 → now.getD i 0 < 920 ∨ s.node.samples.getD i 0 < 920) →
    (∀ i, i < 10 → now.getD i 0 ≤ 840 ∨ 840 < s.node.samples.getD i 0) →
    exec (.junctionSample now) s = .next { s with
      node := { s.node with samples := now }
      tel := { s.tel with node := { s.tel.node with temps := mergeTemps s.tel.node.temps now } } }) ∧
  (∀ now s i, now.length = 10 → s.node.railsOn = true → i < 10 → 920 ≤ now.getD i 0 → 920 ≤ s.node.samples.getD i 0 →
    s.node.alert = false → s.node.flushing = false → ∃ t, exec (.junctionSample now) s = .next t ∧
    t.node.st = 5 ∧ t.node.stopped = true ∧ t.node.alert = true ∧ t.node.record.trip = some (1, s.stride) ∧
    t.node.samples = now ∧ t.memb.beating = false ∧ (s.hasRun = true → t.node.flushing = true) ∧
    t.mem = s.mem ∧ t.clk = s.clk ∧ t.flash.paddocks = s.flash.paddocks) ∧
  (∀ now s, now.length = 10 → s.node.railsOn = false → exec (.junctionSample now) s = .next s) ∧
  (∀ now s i, now.length = 10 → s.node.railsOn = true → i < 10 → 920 ≤ now.getD i 0 → 920 ≤ s.node.samples.getD i 0 →
    s.node.alert = false → s.node.flushing = true → ∃ t, exec (.junctionSample now) s = .next t ∧
    t.node.st = 5 ∧ t.node.stopped = s.node.stopped ∧ t.node.alert = true ∧ t.node.record.trip = some (1, s.stride) ∧
    t.node.samples = now ∧ t.node.flushing = true ∧ t.memb = s.memb ∧ t.mem = s.mem ∧ t.clk = s.clk ∧ t.flash = s.flash)

/-- R394 to R397, R400, R409, R410, R412, R413: in stage 1 the rails in regulation lead to stage 2; there the ROM derives
the device key and compares it with the brand record's, verifies the record, uses the copy of the higher sequence
number that verifies, else the other, and measures itself and the copy's stages before the tack image is asked for; an
image it accepts gives the node its id, its stride code and its routes. A failure, and a stage that exceeds its bound,
stops the node with its code and ALERT_N. R267, R294, R410, R414 to R418, R432: a stage of unit tests retires the
units that failed, leaves no unit of its kinds on the test list, and re-plans; lanes that fail or stay below floor
leave their ports; stage 4 leads to the flash scan, which sets the population it found and leads to the ports; a port
in use trains, where its peer's herd, stride code, routes and node id agree and its delay is steady, or is out of
service with its reason; with a Coffle port and the needed span port in service stage 6 leads to the join. It also
rests on the readings that the model chose in log entries 8, 44, 107, 113 and 114. -/
def Obligations.StagesRun : Prop :=
  (∀ s, s.inStage 1 = true → exec (.railsInRegulation 0) s =
    .next { s with node := { s.node with railsOn := true, stage := 2 } }) ∧
  (∀ s c, s.inStage 1 = true → c = 0x0101 ∨ c = 0x0102 → exec (.railsInRegulation c) s = .next (s.fail c)) ∧
  (∀ s n, 1 ≤ n → n ≤ 9 → s.inStage n = true → exec .stageTimeout s = .next (s.fail (256 * n + 0xFF))) ∧
  (∀ (s : State) c, (s.fail c).node.st = 6 ∧ (s.fail c).node.failure = c ∧ (s.fail c).node.alert = true ∧
    (s.fail c).node.stopped = true ∧ (s.fail c).memb.beating = false ∧ (s.fail c).mem = s.mem ∧
    (s.fail c).flash = s.flash ∧ (s.fail c).clk = s.clk) ∧
  (∀ s secret, s.inStage 2 = true → exec (.firmwareMeasuredStart secret) s = .next
    (if s.keyAgrees secret = false then s.fail 0x0202
     else if s.brandVerifies = false then s.fail 0x0203
     else match s.chosenCopy with
      | none => s.fail 0x0201
      | some b => (({ s with node := { s.node with
          secret := secret, copyB := b,
          measures := (List.range 48).map Config.romMeasureByte ::
            fwStages (if b then s.node.copies.2 else s.node.copies.1).image,
          version := le (if b then s.node.copies.2 else s.node.copies.1).image 8 4,
          digest := fwDigest (if b then s.node.copies.2 else s.node.copies.1).image, served := true, challenge := none,
          remountStart := s.node.record.remount.isSome } } : State).enter 3).pldm pldmTack 0 0)) ∧
  (∀ s : State, s.chosenCopy = match s.node.copies.1.verifies, s.node.copies.2.verifies with
    | true, true => some (decide (s.node.copies.1.sequence < s.node.copies.2.sequence))
    | true, false => some false
    | false, true => some true
    | false, false => none) ∧
  (∀ c : FwCopy, c.verifies = true ↔ c.digest = sha384 c.image ∧ c.length = c.image.length ∧ fwSigned c.image = true ∧
    fwWellMade c.image = true) ∧
  (∀ s, s.inStage 3 = true → exec (.tackImageReceive []) s = .next (s.fail 0x0301)) ∧
  (∀ s b, s.inStage 3 = true → b ≠ [] → s.node.record.remount = none →
    ∃ t, exec (.tackImageReceive b) s = .next t ∧ ∀ k, parseTack b = some k → t.node.stage = 4 ∧ t.node.tack = some k ∧ t.node.id = k.node ∧
      t.clk.code = k.code ∧ t.fab.strideIn = k.strideIn ∧ t.fab.root = le k.route 6 2 ∧
      t.fab.parent = byteAt k.route 17 ∧ t.fab.backup = byteAt k.route 18 ∧
      t.node.measures = s.node.measures.take 5 ++ [sha384 b, sha384 ((b.drop 32).take 96)]) ∧
  (∀ s b r c m, s.inStage 3 = true → b ≠ [] → s.node.record.remount = some (r, c, m) →
    ∃ t, exec (.tackImageReceive b) s = .next t ∧ ∀ k, parseTack b = some k → t.node.stage = 4 ∧ t.node.id = k.node ∧ t.clk.code = c ∧
      t.fab.image = m) ∧
  (∀ s b, s.inStage 3 = true → b ≠ [] → parseTack b = none → exec (.tackImageReceive b) s = .next (s.fail 0x0302)) ∧
  (∀ s r, s.inStage 4 = true → r.stackFailed = false → r.module ∈ [64, 96, 128, 192, 256] →
    (∀ d ∈ r.domains, ∀ u ∈ planBelow d, u.1 ≠ 0) →
    ∃ t, exec (.unitTraining 4 r) s = .next t ∧ t.node.stage = 5 ∧ t.mem.ddrModule = r.module * 2 ^ 30 ∧
      t.mem.bytes = s.mem.bytes ∧ t.flash = s.flash ∧ t.fab = s.fab ∧ t.clk = s.clk ∧
      (∀ u ∈ r.failed, u.1 ≠ 0x10 → u ∈ t.node.record.retired) ∧
      t.node.record.testList = s.node.record.testList.filter (fun u => stageOfKind u.1 ≠ 4) ∧
      t.gaits.admitted.tiles = BitVec.ofNat 96 (t.inService 0x01 96) ∧
      t.gaits.admitted.nmus = BitVec.ofNat 512 (t.inService 0x02 512) ∧ t.gaits.admitted.hbmStacks = 0xFF) ∧
  (∀ s r, s.inStage 4 = true → r.stackFailed = true → exec (.unitTraining 4 r) s = .next (s.fail 0x0401)) ∧
  (∀ s r, s.inStage 4 = true → (∃ d ∈ r.domains, ∃ u ∈ planBelow d, u.1 = 0) →
    exec (.unitTraining 4 r) s = .next (s.fail 0x0401)) ∧
  (∀ s r, s.inStage 4 = true → r.stackFailed = false → (∀ d ∈ r.domains, ∀ u ∈ planBelow d, u.1 ≠ 0) → r.module ∉ [64, 96, 128, 192, 256] →
    exec (.unitTraining 4 r) s = .next (s.fail 0x0402)) ∧
  (∀ s r, s.inStage 5 = true → exec (.unitTraining 5 r) s = .next (r.domains.foldl State.replan (s.settleUnits 5 r.failed))) ∧
  (∀ (s : State) lost p l, p < s.fab.ports.length → l < 4 → bitOf ((s.dropLanes lost).port p).lanes.toNat l =
    (bitOf (s.port p).lanes.toNat l && !lost.contains (0x10, 4 * p + l))) ∧
  (∀ s r d p, s.inStage 6 = true → d = s.dropLanes (r.failed ++ r.domains.flatMap planBelow) → p < 9 →
    (d.port p).st = 2 → (d.port p).role = 1 → (s.isNear = true ∨ (d.port 8).st = 2) →
    ∃ t, exec (.unitTraining 6 r) s = .next t ∧ t.node.stage = 7 ∧
      t.node.joins = [(s.me, s.flash.lastStride, s.node.serial)] ∧ t.node.record.remount = none ∧
      t.gaits.admitted.lanes = d.portLanes ∧ t.mem = s.mem ∧ t.flash = s.flash ∧ t.clk = s.clk) ∧
  (∀ s r, s.inStage 5 = true → 1 ≤ r.targets → r.targets ≤ 8 → (r.dieBlocks = 8192 ∨ r.dieBlocks = 16384) →
    10000 ≤ r.endurance → r.mapsLost = false → ∃ t, exec (.flashScan r) s = .next t ∧ t.node.stage = 6 ∧
      t.flash.targets = r.targets ∧ t.flash.dieBlocks = r.dieBlocks ∧ t.flash.endurance = r.endurance ∧
      t.flash.flushed = false ∧ t.mem = s.mem ∧ t.clk = s.clk ∧
      (∀ n ∈ r.lostPaddocks, ∀ p, SMap.find? t.flash.paddocks n = some p → p.st = 2)) ∧
  (∀ s r, s.inStage 5 = true → (r.targets = 0 ∨ 8 < r.targets ∨ r.endurance < 10000) →
    exec (.flashScan r) s = .next (s.fail 0x0501)) ∧
  (∀ s r p, s.inStage 6 = true → p < 9 → p < s.fab.ports.length → (s.port p).role ≠ 0 → r.peer < 2 ^ 15 →
    ∃ t, exec (.portTraining p r) s = .next t ∧ t.port p = (if s.trainingReason p r = 0 then { s.port p with
        st := 2, reason := 0, lanes := r.adapted, delay := measuredDelay r, peer := r.peer }
      else { s.port p with st := 3, reason := s.trainingReason p r, lanes := 0, delay := 0, peer := 0 }) ∧
      (∀ q, q ≠ p → t.port q = s.port q) ∧ p ∈ t.node.trained ∧ t.mem = s.mem ∧ t.flash = s.flash) ∧
  (∀ (s : State) r p, s.trainingReason p r = 0 ↔ (p < 8 → r.light = true) ∧ r.adapted ≠ 0 ∧ r.locked = true ∧
    r.herd = (s.node.tack.map (·.herd)).getD 0 ∧ r.code = s.clk.code ∧ r.peer ≠ s.me ∧ (p = 8 → r.peer = s.partner) ∧
    Config.routesAgree ((s.fab.image.drop 32).take 16) r.route = true ∧ delaySpreads r = false)

/-- R418 to R421: a join record of the herd not yet held is held and goes on to the parents; the root closes the join once
it holds a record of every node, or when no new record has come for long enough, and its off node where the root is
silent: S0 stands 65,536 above the highest last stride and the counter 64 strides before it; the close sets every
counter so; eight phase errors in a row within 16 cycles lock the node; a node that is late waits. R52, R334, R336,
R407, R420, R422, R423: at S0 a locked node whose admitted units carry the service gait adopts it, fences the nodes
absent from the join and begins to beat; the restore takes the partner's checkpoint where this member was fenced, or
is the off node and their digests differ, else the node's own, the survivor supplies its partner, and it makes the
node ready, or stops it where none can be read; a version restored is filled, and its notification is posted. It also
rests on the readings that the model chose in log entries 47, 48, 97, 110 and 116. -/
def Obligations.JoinAndRestore : Prop :=
  (∀ s b u, s.arrival 0 s.me b = (true, u) → u.inStage 7 = true → u.node.joinClosed = false → byteAt b 0 = 5 →
    le b 8 8 = (u.node.tack.map (·.herd)).getD 0 → (le b 2 2 % 2 ^ 15 = u.me → u.node.serial ≤ le b 24 8) →
    (le b 2 2 % 2 ^ 15, le b 16 8, le b 24 8) ∉ u.node.joins → exec (.joinRecordReceive b) s = .next
      (({ u with node := { u.node with
          joins := u.node.joins ++ [(le b 2 2 % 2 ^ 15, le b 16 8, le b 24 8)] } } : State).toParents b)) ∧
  (∀ s b u, s.arrival 0 s.me b = (true, u) → u.inStage 7 = true → u.node.joinClosed = false → byteAt b 0 = 5 →
    le b 8 8 = (u.node.tack.map (·.herd)).getD 0 → le b 2 2 % 2 ^ 15 = u.me → le b 24 8 < u.node.serial →
    exec (.joinRecordReceive b) s = .next (u.fail 0x0702)) ∧
  (∀ s, s.inStage 7 = true → s.node.joinClosed = false → s.me = s.fab.root →
    (∀ n ∈ s.fab.routes.map (·.1), ∃ j ∈ s.node.joins, j.1 = n) → exec .joinClose s = .next s.closeJoin) ∧
  (∀ s, s.inStage 7 = true → s.node.joinClosed = false → s.me = s.fab.root →
    exec .joinCloseTimeout s = .next s.closeJoin) ∧
  (∀ s, s.inStage 7 = true → s.node.joinClosed = false → s.me = partnerOf s.fab.root →
    exec .rootSilentTimeout s = .next s.closeJoin) ∧
  (∀ s : State, (∀ j ∈ s.node.joins, j.2.1 + 65536 ≤ s.closeJoin.node.s0) ∧
    (s.node.joins ≠ [] → ∃ j ∈ s.node.joins, s.closeJoin.node.s0 = j.2.1 + 65536) ∧
    s.closeJoin.clk.stride = s.closeJoin.node.s0 - 64 ∧ s.closeJoin.clk.window = 0 ∧
    s.closeJoin.node.joinClosed = true ∧ s.closeJoin.node.locked = true ∧ s.closeJoin.mem = s.mem ∧
    s.closeJoin.flash = s.flash) ∧
  (∀ s k, s.inStage 7 = true → s.node.joinClosed = false → 64 ≤ k → k < 2 ^ 64 →
    ∃ t, exec (.joinCloseReceive k) s = .next t ∧ t.clk.stride = k - 64 ∧ t.clk.window = 0 ∧ t.node.s0 = k ∧
      t.node.joinClosed = true ∧ t.node.locked = s.node.locked ∧ t.mem = s.mem ∧ t.flash = s.flash) ∧
  (∀ s a b l, s.inStage 7 = true → s.node.joinClosed = true → s.node.locked = false → b.length = 8 →
    (∀ e ∈ b, e.natAbs ≤ 256) → exec (.strideLock (a ++ b ++ l)) s =
      .next { s with node := { s.node with locked := true } }) ∧
  (∀ s l, s.inStage 7 = true → s.node.joinClosed = true → s.node.locked = false → eightWithin 0 l = false →
    s.node.s0 ≤ s.stride + 1 → exec (.strideLock l) s = .next (s.fail 0x0701)) ∧
  (∀ s, s.inStage 7 = true → s.node.joinClosed = false →
    exec .lateJoinWait s = .next { s with node := { s.node with st := 3 } }) ∧
  (∀ absent s, (∀ n ∈ absent, n < 20480) → s.inStage 7 = true → s.node.joinClosed = true → s.node.locked = true →
    s.stride = s.node.s0 → (s.enter 8).zeroCounters.serviceFits = true → ∃ t,
      exec (.serviceGaitAdoption absent) s = .next t ∧ t.node.stage = 9 ∧ t.node.joined = true ∧
      t.gaits.service = true ∧ t.memb.beating = true ∧ t.memb.heardAny = s.stride ∧
      t.node.record.plan = s.node.draft.foldl putRecord s.node.record.plan ∧ t.node.record.planStride = s.node.s0 ∧
      (∀ n ∈ s.absentNodes absent, n ∈ t.memb.fenced) ∧ (∀ n ∈ s.memb.fenced, n ∈ t.memb.fenced) ∧
      (∀ n ∈ t.memb.fenced, n ∈ s.memb.fenced ∨ n ∈ s.absentNodes absent) ∧ t.mem = s.mem ∧ t.clk = s.clk) ∧
  (∀ absent s, (∀ n ∈ absent, n < 20480) → s.inStage 7 = true → s.node.joinClosed = true → s.node.locked = true →
    s.stride = s.node.s0 → (s.enter 8).zeroCounters.serviceFits = false →
    ∃ t, exec (.serviceGaitAdoption absent) s = .next t ∧ t.node.st = 6 ∧ t.node.failure = 0x0801) ∧
  (∀ s : State, ∀ c ∈ s.finishCloses.contexts, c ∈ s.contexts ∧ c.2.st ≠ 2) ∧
  (∀ s r v u, s.inStage 9 = true → s.node.unlocked = false → s.finishCloses.unwrapKeys.restored r = some v →
    u = ((if s.suppliesState r then v.supplyPartner else v).restoreSteps r.steps).grantAll → u.granted = true →
    exec (.stateRestore r) s = .next { u.clearSingle with node := { u.node with st := 1 } }) ∧
  (∀ s r v u, s.inStage 9 = true → s.node.unlocked = false → s.finishCloses.unwrapKeys.restored r = some v →
    u = ((if s.suppliesState r then v.supplyPartner else v).restoreSteps r.steps).grantAll → u.granted = false →
    exec (.stateRestore r) s = .next (s.fail 0x0902)) ∧
  (∀ (s : State) r c, r.partner = some c → s.takesState r = true →
    s.restored r = some ((s.restoreFrom c).takeUnits r.units)) ∧
  (∀ (s : State) r, r.own = true → s.takesState r = false → s.restored r = some (match s.flash.checkpoint with
    | some c => s.restoreFrom c
    | none => s)) ∧
  (∀ (s : State) r, r.partner = none → r.own = false → s.restored r = none) ∧
  (∀ (s : State) r, (r.fenced = true → s.takesState r = true ∧ (r.partnerFenced = false → s.suppliesState r = false)) ∧
    (r.fenced = false → r.partnerFenced = true → s.takesState r = false ∧ s.suppliesState r = true) ∧
    (r.fenced = false → r.partnerFenced = false → s.takesState r = (!s.isNear && s.digestsDiffer r) ∧
      s.suppliesState r = (s.isNear && s.digestsDiffer r))) ∧
  (∀ s r, s.inStage 9 = true → s.node.unlocked = false → r.partner = none → r.own = false →
    exec (.stateRestore r) s = .next (s.fail 0x0901)) ∧
  (∀ s r, s.inStage 9 = true → s.node.unlocked = true →
    exec (.stateRestore r) s = .next { s.finishCloses.grantOwn with node := { s.node with st := 1 } }) ∧
  (∀ id n reads s x v, id < 2 ^ 32 → s.ready = true → s.node.stopped = false → SMap.find? s.indexes id = some x →
    SMap.find? s.tables id = none → v ∈ x.versions → v.num = n → v.st ≠ 1 → v.filled = false → s.fillsNext id n = true → ∃ t, exec (.versionFill id n reads) s = .next t ∧
      (∃ y, SMap.find? t.indexes id = some y ∧ y.versions.length = x.versions.length ∧
        (∀ w ∈ y.versions, w.num = n → w.filled = true) ∧
        (∀ w, w ∈ y.versions → w.num ≠ n → w ∈ x.versions)) ∧ t.tables = s.tables ∧ t.mem = s.mem) ∧
  (∀ id n reads s x v, id < 2 ^ 32 → s.ready = true → s.node.stopped = false → SMap.find? s.indexes id = none →
    SMap.find? s.tables id = some x → v ∈ x.versions → v.num = n → v.st ≠ 1 → v.filled = false → s.fillsNext id n = true →
    ∃ t, exec (.versionFill id n reads) s = .next t ∧
      (∃ y, SMap.find? t.tables id = some y ∧ y.versions.length = x.versions.length ∧
        (∀ w ∈ y.versions, w.num = n → w.filled = true)) ∧ t.indexes = s.indexes ∧ t.mem = s.mem)

/-! ## The stride boundary and versions -/

/-- R25, R27, R31, R131: a boundary advances the stride by one and opens the commit window; a running node there adopts
every change due and leaves none behind, and an index whose agreed switch is due has the version of that switch
current; a fenced node counts on and commits nothing; the bank that is not shown takes the snapshot stamped with the
stride that ended. It also rests on the readings that the model chose in log entries 10, 30, 32, 41 and 89. -/
def Obligations.BoundaryAdopts : Prop :=
  (∀ w s, s.clk.code ≠ 0 → s.node.joinClosed = true → s.node.stopped = false → s.node.st < 5 → ∃ t,
    exec (.strideBoundary w) s = .next t ∧ t.clk.stride = s.clk.stride + 1 ∧ t.clk.window = 0 ∧ t.clk.code = s.clk.code) ∧
  (∀ w s, s.clk.code ≠ 0 → s.node.joinClosed = true → s.running = true → s.node.joined = true → s.memb.held = [] → ∃ t,
    exec (.strideBoundary w) s = .next t ∧ t.changes = s.changes.filter fun c => s.clk.stride + 1 < c.due) ∧
  (∀ w s id x v k, s.clk.code ≠ 0 → s.node.joinClosed = true → s.running = true → s.node.joined = true → s.memb.held = [] →
    s.changes = [] → SMap.find? s.indexes id = some x → x.switch = some k → k.go = true → k.stride = s.clk.stride + 1 →
    k.settled = false → v ∈ x.versions → v.num = k.version → ∃ t y, exec (.strideBoundary w) s = .next t ∧
      SMap.find? t.indexes id = some y ∧ y.currentNum = k.version ∧ y.switch = some { k with settled := true } ∧
      y.pairDue = true) ∧
  (∀ w s, s.clk.code ≠ 0 → s.node.joinClosed = true → s.node.stopped = false → s.node.st = 2 →
    s.memb.held = [] → ∃ t, exec (.strideBoundary w) s = .next t ∧
    t.clk.stride = s.clk.stride + 1 ∧ t.clk.window = 0 ∧ t.changes = s.changes ∧ t.contexts = s.contexts ∧
    t.indexes = s.indexes ∧ t.tables = s.tables ∧ t.flash = s.flash ∧ t.mem = s.mem) ∧
  (∀ w s, s.clk.code ≠ 0 → s.node.joinClosed = true → s.running = true → s.node.joined = true → s.memb.held = [] →
    (s.work.overdue = [] ∧ w = []) → (∀ u ∈ s.nmu.units, u.2.commands = []) → s.tables = [] → s.work.queries = [] →
    s.work.lookups = [] → s.work.updates = [] → s.work.steps = [] → s.flash.commands = [] → ∃ t b,
    exec (.strideBoundary w) s = .next t ∧ b.first = s.stride ∧ b.last = s.stride ∧ b.node.overruns = s.tel.node.overruns ∧
    t.tel.bankA = (if s.tel.publishedB then b else s.tel.bankA) ∧
    t.tel.bankB = (if s.tel.publishedB then s.tel.bankB else b))

/-- R21, R19, R26: in the commit window of a joined node the bank just written is published, its stamp is shown, the work
window begins, and the bank of the snapshot before is unchanged. It also rests on the readings that the model chose in
log entries 10 and 42. -/
def Obligations.MirrorPublished : Prop :=
  ∀ s, s.clk.window = 0 → s.clk.code ≠ 0 → s.node.joined = true → s.node.stopped = false →
    ∃ t, exec .mirrorPublication s = .next t ∧ t.clk = { s.clk with window := 1 } ∧
      t.tel.publishedB = (!s.tel.publishedB) ∧ t.tel.bankA = s.tel.bankA ∧ t.tel.bankB = s.tel.bankB ∧
      t.tel.stamp = (if s.tel.publishedB then s.tel.bankA.first else s.tel.bankB.first)

/-- R126 to R129, R252, R253: while it has room a build's class admits an accepted build, whose cut is the present stride;
an admitted build that succeeded leaves its version built and filled with its digest, and one that failed leaves no
version. It also rests on the readings that the model chose in log entries 22, 54, 55, 82, 93 and 103. -/
def Obligations.BuildsRun : Prop :=
  (∀ id bad reads s x b, id < 2 ^ 32 → SMap.find? s.indexes id = some x → x.build = some b → b.cut = none → s.working = true →
    s.buildClassOk x.context b.cls = true → s.admittedNow b.cls < s.admitLimit b.cls → ∃ t y d,
      exec (.buildAdmission id bad reads) s = .next t ∧ SMap.find? t.indexes id = some y ∧ y.build = some d ∧
      d.cut = some s.stride ∧ d.version = b.version ∧ d.kind = b.kind ∧ t.admittedNow b.cls = s.admittedNow b.cls + 1 ∧
      t.tables = s.tables ∧ t.mem = s.mem ∧ (b.kind = 0 ∨ t.flash = s.flash) ∧ (∀ j, j ≠ id → SMap.find? t.indexes j = SMap.find? s.indexes j)) ∧
  (∀ id bad reads s x b, id < 2 ^ 32 → SMap.find? s.indexes id = none → SMap.find? s.tables id = some x → x.build = some b →
    b.cut = none → s.working = true → (b.kind = 1 → s.appliedNow x = false) → s.buildClassOk x.context b.cls = true → s.admittedNow b.cls < s.admitLimit b.cls →
    ∃ t y d, exec (.buildAdmission id bad reads) s = .next t ∧ SMap.find? t.tables id = some y ∧ y.build = some d ∧
      d.cut = some s.stride ∧ d.version = b.version ∧ d.kind = b.kind ∧ t.admittedNow b.cls = s.admittedNow b.cls + 1 ∧
      t.indexes = s.indexes ∧ t.mem = s.mem ∧ (b.kind = 0 ∨ t.flash = s.flash)) ∧
  (∀ id s x b c v, id < 2 ^ 32 → SMap.find? s.indexes id = some x → x.build = some b → b.cut = some c →
    b.status = stOk → s.running = true → s.persisting id = false → x.version? b.version = some v → ∃ t y, exec (.versionBuilt id) s = .next t ∧
      SMap.find? t.indexes id = some y ∧ y.build = none ∧
      (∀ o ∈ y.versions, o.num = b.version → o = { v with st := 2, digest := v.digestOf, filled := true }) ∧
      (∀ o, o.num ≠ b.version → (o ∈ y.versions ↔ o ∈ x.versions)) ∧ t.tables = s.tables ∧ t.mem = s.mem) ∧
  (∀ id s x b c v, id < 2 ^ 32 → SMap.find? s.indexes id = some x → x.build = some b → b.cut = some c →
    b.status ≠ stOk → s.running = true → s.persisting id = false → x.version? b.version = some v → ∃ t y, exec (.versionBuilt id) s = .next t ∧
      SMap.find? t.indexes id = some y ∧ y.build = none ∧
      y.versions = x.versions.filter (fun o => o.num ≠ b.version) ∧ t.tables = s.tables ∧ t.mem = s.mem) ∧
  (∀ id s x b c v, id < 2 ^ 32 → SMap.find? s.indexes id = none → SMap.find? s.tables id = some x → x.build = some b →
    b.cut = some c → b.status = stOk → s.running = true → s.persisting id = false → x.version? b.version = some v → ∃ t y,
      exec (.versionBuilt id) s = .next t ∧ SMap.find? t.tables id = some y ∧ y.build = none ∧
      (∀ o ∈ y.versions, o.num = b.version → o.st = 2 ∧ o.filled = true ∧ o.rows = v.rows ∧ o.cut = v.cut) ∧
      (b.kind = 0 → y.committed = 0) ∧ t.indexes = s.indexes ∧ t.mem = s.mem)

/-- R130, R254: the partner's tuple is kept; the near node decides on each object whose E is the next stride: on the
matching tuple, held by cycle 0 of this stride, it goes and sends the go record, else the switch will not happen; the
off node keeps the go record of its own switch; the members compare the versions in force in the work window of E, and
a difference or an absent pair is a divergence. It also rests on the readings that the model chose in log entries 71,
76 and 103. -/
def Obligations.SwitchesAgreed : Prop :=
  (∀ id v e d s x, id < 2 ^ 32 → s.running = true → SMap.find? s.indexes id = some x → SMap.find? s.tables id = none →
    exec (.switchTupleReceive id v e d) s = .next { s with
      indexes := SMap.set s.indexes id { x with tuple := some (v, e, d), tupleAt := s.stride } }) ∧
  (∀ id v e d s w, id < 2 ^ 32 → s.running = true → s.isNear = false → s.switchOf id = some w → w.version = v →
    w.stride = e → w.digest = d → s.stride < e → ∃ t, exec (.goRecordReceive id v e d) s = .next t ∧
      t.switchOf id = some { w with go := true } ∧ (∀ j, j ≠ id → t.switchOf j = s.switchOf j) ∧ t.mem = s.mem ∧
      t.clk = s.clk ∧ t.memb = s.memb) ∧
  (∀ s, s.running = true → s.isNear = true → s.isFenced s.partner = false → ∃ t, exec .goRecordDeadline s = .next t ∧
    (∀ id ∈ s.objects, ∀ w, s.switchOf id = some w → w.stride = s.stride + 1 → w.go = false → w.settled = false →
      t.switchOf id = (if s.tupleOf id = some (w.version, w.stride, w.digest) ∧ s.tupleStride id < s.stride then
        some { w with go := true } else some { w with settled := true })) ∧
    (∀ id ∈ s.objects, ∀ w, s.switchOf id = some w → w.stride ≠ s.stride + 1 → t.switchOf id = some w) ∧
    t.mem = s.mem ∧ t.clk = s.clk ∧ t.memb = s.memb) ∧
  (∀ id s x, id < 2 ^ 32 → s.running = true → s.clk.window ≠ 0 → SMap.find? s.indexes id = some x →
    SMap.find? s.tables id = none → x.pairDue = true → x.pair = none → exec (.versionPairReceive id x.currentNum) s =
      .next { s with indexes := SMap.set s.indexes id { x with pair := some x.currentNum } }) ∧
  (∀ id v s x, id < 2 ^ 32 → s.running = true → s.clk.window ≠ 0 → SMap.find? s.indexes id = some x →
    SMap.find? s.tables id = none → x.pairDue = true → x.pair = none → v ≠ x.currentNum →
    exec (.versionPairReceive id v) s = .next { s with
      indexes := SMap.set s.indexes id { x with pair := some v }, memb := { s.memb with divergence := true } }) ∧
  (∀ s id, s.running = true → s.clk.window = 2 → s.partnerExcused = false → id ∈ s.objects → s.pairAwaited id = true →
    exec .versionPairDeadline s = .next { s with memb := { s.memb with divergence := true } })

/-- R133, R256, R388, R389: a closed index or table leaves once nothing admitted uses it, and its close is answered; a
closed context is swept once its work has drained: its keys are gone, and its objects and programs with it; a stride's
scrub writes zeros over what is left of a granule and frees it, and writes to no granule that does not wait for its
scrub. It also rests on the readings that the model chose in log entries 19, 33, 78 and 111. -/
def Obligations.ClosesDrained : Prop :=
  (∀ id s x b, id < 2 ^ 32 → SMap.find? s.indexes id = some x → x.closing = some b → b ≤ s.stride → s.objectUsed id = false →
    exec (.indexCloseDrained id) s = .next
      (({ s with indexes := SMap.erase s.indexes id, tables := SMap.erase s.tables id } : State).happened
        (.objectClosed id) stOk none)) ∧
  (∀ id s x b, id < 2 ^ 32 → SMap.find? s.tables id = some x → x.closing = some b → b ≤ s.stride → s.objectUsed id = false →
    exec (.indexCloseDrained id) s = .next
      (({ s with indexes := SMap.erase s.indexes id, tables := SMap.erase s.tables id } : State).happened
        (.objectClosed id) stOk none)) ∧
  (∀ c s x, c < 4096 → SMap.find? s.contexts c = some x → x.st = 2 → x.swept = false → x.closedAt ≤ s.stride →
    s.contextUsed c = false → ∃ t y, exec (.contextCloseDrained c) s = .next t ∧ SMap.find? t.contexts c = some y ∧
      y.swept = true ∧ y.wrapped = none ∧ y.flashKey = none ∧ y.ddrKey = none ∧ y.st = 2 ∧ (∀ p ∈ t.programs, p.2.context ≠ c) ∧
      (SMap.wf s.indexes = true → ∀ p ∈ t.indexes, p.2.context ≠ c) ∧
      (SMap.wf s.tables = true → ∀ p ∈ t.tables, p.2.context ≠ c) ∧ t.mem.bytes = s.mem.bytes) ∧
  (∀ s g r, s.running = true → s.clk.window ≠ 0 → s.mem.scrubQueue = [g] → g < 8 * stackGranules →
    SMap.find? s.mem.hbmTags g = some r → r.scrubbed ≤ granuleBlocks →
    s.dieWaits (g * granuleSize + 64 * r.scrubbed) (64 * (granuleBlocks - r.scrubbed)) = false → ∃ t, exec .granuleScrub s = .next t ∧
      t.mem.hbmTags = SMap.erase s.mem.hbmTags g ∧ t.mem.scrubQueue = [] ∧
      (∀ a, g * granuleSize + 64 * r.scrubbed ≤ a → a < (g + 1) * granuleSize → readByte t.mem.bytes a = 0)) ∧
  (∀ s, s.running = true → s.clk.window ≠ 0 → ∃ t, exec .granuleScrub s = .next t ∧
    (∀ a, (∀ g ∈ s.mem.scrubQueue, a < g * granuleSize ∨ (g + 1) * granuleSize ≤ a) →
      readByte t.mem.bytes a = readByte s.mem.bytes a) ∧
    t.mem.ddrTags = s.mem.ddrTags ∧ t.flash = s.flash ∧ t.indexes = s.indexes ∧ t.clk = s.clk)

/-! ## The data path -/

/-- R168 to R174, R178: a QLOAD that the unit does not refuse waits with its load bursts at the gate, and one for a whole
stack in every unit of it that runs, with one set of bursts; at the end of its last load burst the query is in the
slot of its mask. A SCAN of rows and slots of its context waits with its read bursts; at the end of the last one it
answers with its scores, and no byte of HBM has changed. A command with a field out of range is refused and counted.
It also rests on the readings that the model chose in log entries 10, 25 and 106. -/
def Obligations.QueriesLoadedAndScanned : Prop :=
  (∀ b p s, s.working = true → cmdOp b = 1 → cmdWhole b = false → s.unitRuns (cmdUnit b) = true →
    s.refuses (cmdUnit b) b = false → 0 < cmdLength b → (s.unit (cmdUnit b)).commands = [] → StackQuiet s (cmdUnit b / 64) →
    ∃ t, exec (.qload b p) s = .next t ∧ LoadsBegun s t (cmdUnit b) b p) ∧
  (∀ b p s, s.working = true → cmdOp b = 1 → cmdWhole b = true → s.namedUnits b ≠ [] → cmdFieldsOk 1 b = true →
    0 < cmdLength b → (∀ v ∈ s.namedUnits b, (s.unit v).commands = []) → StackQuiet s (cmdUnit b / 64) →
    ∃ t u, exec (.qload b p) s = .next t ∧ u ∈ s.namedUnits b ∧ t.mem = s.mem ∧
      SMap.getD t.nmu.waiting (cmdUnit b / 64) [] =
        SMap.getD s.nmu.waiting (cmdUnit b / 64) [] ++ loadBursts u (cmdLength b) true ∧
      ∀ v ∈ s.namedUnits b, (t.unit v).commands =
        [{ newCommand b p with number := s.nmu.received, phase := 1, left := ceilDiv (cmdLength b) 2048 }]) ∧
  (∀ u s x c n, u < 512 → LastBurst s u x c 1 → x.kind = 2 → cmdOp c.bytes = 1 → s.holders c = [u] →
    (bitList 8 (cmdMask c.bytes)).head? = some n → ∃ t, exec (.burstEnd u) s = .next t ∧ (t.unit u).commands = [] ∧
      SMap.find? (t.unit u).slots n =
        some { context := cmdContext c.bytes, image := cmdData c.bytes, poisoned := c.poisoned } ∧ t.mem = s.mem) ∧
  (∀ b s, s.working = true → cmdOp b = 2 → s.unitRuns (cmdUnit b) = true → s.refuses (cmdUnit b) b = false →
    (s.unit (cmdUnit b)).commands = [] → StackQuiet s (cmdUnit b / 64) → ∃ t, exec (.scan b) s = .next t ∧
      (t.unit (cmdUnit b)).commands = [{ newCommand b false with
        number := s.nmu.received, phase := 2, left := (readBursts (cmdUnit b) (cmdRefs b)).length }] ∧
      SMap.getD t.nmu.waiting (cmdUnit b / 64) [] =
        SMap.getD s.nmu.waiting (cmdUnit b / 64) [] ++ readBursts (cmdUnit b) (cmdRefs b) ∧ t.mem = s.mem) ∧
  (∀ u s x c, u < 512 → LastBurst s u x c 2 → x.kind = 0 → cmdOp c.bytes = 2 → ∃ t, exec (.burstEnd u) s = .next t ∧
    t.nmu.answers = s.nmu.answers ++ [(cmdTag c.bytes, s.scanRecords u (cmdContext c.bytes) (cmdMask c.bytes)
      (cmdRefs c.bytes) ((s.unit u).rowBuffer ++ x.blocks.map fun k => (s.unitRead (cmdContext c.bytes) k).held))] ∧
    (t.unit u).commands = [] ∧ (t.unit u).rowBuffer = [] ∧ (t.unit u).slots = (s.unit u).slots ∧ t.mem = s.mem) ∧
  (∀ b s, s.working = true → cmdOp b = 2 → s.unitRuns (cmdUnit b) = true → cmdFieldsOk 2 b = false →
    (s.unit (cmdUnit b)).commands = [] → StackQuiet s (cmdUnit b / 64) → ∃ t, exec (.scan b) s = .next t ∧
    (SMap.getD t.nmu.counters (cmdUnit b / 64) StackCounters.zero).refused =
      (SMap.getD s.nmu.counters (cmdUnit b / 64) StackCounters.zero).refused + 1 ∧
    t.nmu.answers = s.nmu.answers ∧ (t.unit (cmdUnit b)).commands = [] ∧ t.mem = s.mem)

/-- R176 to R179, R182, R185, R186: an UPDATE or ROWWRITE that the unit does not refuse waits with its load bursts. Once Δ
is loaded the row is read; from a sound row the write bursts of the updated row are requested, and a row that stays
unchanged is answered with what is stored. A ROWWRITE whose sum holds requests those of its image, and one whose sum
does not hold ends with ST_BAD_CHECK and writes nothing. At the end of the last write burst its blocks hold the image,
every other byte of HBM is as before, the lock is free and the completion is returned. R167, R169, R179, R180: a burst
that may start is granted while slots of the stride are left and fewer than 44 pseudo-channels of the stack are in a
burst: its unit bursts, a write burst locks its row, and the stack counts it; at its end the unit is free, in every
unit where it is a load of a whole stack, and the last write burst of a row frees its lock. It also rests on the
readings that the model chose in log entries 10, 25, 35 and 106. -/
def Obligations.RowsWrittenInBursts : Prop :=
  (∀ b p s, s.working = true → cmdOp b = 3 → s.unitRuns (cmdUnit b) = true → s.refuses (cmdUnit b) b = false →
    0 < cmdLength b → (s.unit (cmdUnit b)).commands = [] → StackQuiet s (cmdUnit b / 64) →
    ∃ t, exec (.update b p) s = .next t ∧ LoadsBegun s t (cmdUnit b) b p) ∧
  (∀ b p s, s.working = true → cmdOp b = 4 → s.unitRuns (cmdUnit b) = true → s.refuses (cmdUnit b) b = false →
    0 < cmdLength b → (s.unit (cmdUnit b)).commands = [] → StackQuiet s (cmdUnit b / 64) →
    ∃ t, exec (.rowwrite b p) s = .next t ∧ LoadsBegun s t (cmdUnit b) b p) ∧
  (∀ u s x c, u < 512 → LastBurst s u x c 1 → x.kind = 2 → cmdOp c.bytes = 3 → ∃ t, exec (.burstEnd u) s = .next t ∧
    (t.unit u).commands = [{ c with phase := 2, left := (readBursts u (cmdRefs c.bytes)).length }] ∧
    SMap.getD t.nmu.waiting (u / 64) [] = SMap.getD s.nmu.waiting (u / 64) [] ++ readBursts u (cmdRefs c.bytes) ∧
    t.mem = s.mem) ∧
  (∀ u s x c read new n, u < 512 → LastBurst s u x c 2 → x.kind = 0 → cmdOp c.bytes = 3 → c.poisoned = false →
    read = (s.unit u).rowBuffer ++ x.blocks.map (fun k => (s.unitRead (cmdContext c.bytes) k).held) →
    updateEnd c.bytes false read = .done stOk n (some (some new)) → ∃ t, exec (.burstEnd u) s = .next t ∧
      (t.unit u).commands = [{ c with
        completion := rowCompletion stOk n (some new), clipped := n, phase := 3,
        left := (writeBursts u (cmdRow c.bytes 0) (some new)).length }] ∧
      SMap.getD t.nmu.waiting (u / 64) [] =
        SMap.getD s.nmu.waiting (u / 64) [] ++ writeBursts u (cmdRow c.bytes 0) (some new) ∧ t.mem = s.mem) ∧
  (∀ u s x c read st row, u < 512 → LastBurst s u x c 2 → x.kind = 0 → cmdOp c.bytes = 3 → c.poisoned = false →
    read = (s.unit u).rowBuffer ++ x.blocks.map (fun k => (s.unitRead (cmdContext c.bytes) k).held) →
    updateEnd c.bytes false read = .kept st row → c.own = false → ∃ t, exec (.burstEnd u) s = .next t ∧
      (t.unit u).commands = [] ∧ t.mem = s.mem ∧ t.nmu.answers = s.nmu.answers ++ [(cmdTag c.bytes,
        toLe 2 st ++ zeros 2 ++ zeros 4 ++ (row.drop 24).take 2 ++ (row.drop 26).take 2 ++ zeros 4)]) ∧
  (∀ u s x c image, u < 512 → LastBurst s u x c 1 → x.kind = 2 → cmdOp c.bytes = 4 → c.poisoned = false →
    image = fit (64 * (cmdRow c.bytes 0).2) (cmdData c.bytes) → ∃ t, exec (.burstEnd u) s = .next t ∧ t.mem = s.mem ∧
      (sumInt (rowCodes image) = rowSum image → SMap.getD t.nmu.waiting (u / 64) [] =
        SMap.getD s.nmu.waiting (u / 64) [] ++ writeBursts u (cmdRow c.bytes 0) (some image)) ∧
      (sumInt (rowCodes image) ≠ rowSum image → c.own = false → (t.unit u).commands = [] ∧
        t.nmu.answers = s.nmu.answers ++ [(cmdTag c.bytes, rowCompletion stBadCheck 0 none)])) ∧
  (∀ u s x c image first, u < 512 → LastBurst s u x c 3 → x.kind = 1 → x.last = true → c.own = false → x.image = some image →
    x.blocks.head? = some first → (∀ k ∈ x.blocks, s.tagOk (cmdContext c.bytes) (64 * k) = true) →
    cellsWf s.mem.bytes = true → ∃ t, exec (.burstEnd u) s = .next t ∧ t.hbmRead (64 * first) image.length = image ∧
      (∀ a, a < 64 * first ∨ 64 * first + image.length ≤ a → readByte t.mem.bytes a = readByte s.mem.bytes a) ∧
      (t.unit u).commands = [] ∧ (t.unit u).lock = none ∧
      t.nmu.answers = s.nmu.answers ++ [(cmdTag c.bytes, c.completion)]) ∧
  (∀ k s x, k < 8 → s.working = true → SMap.getD s.nmu.waiting k [] = [x] → x.whole = false →
    (x.booked = true → x.slot ≤ SMap.getD s.nmu.slots k 0) → SMap.getD s.nmu.slots k 0 < workCycles s.clk.code / 25 →
    s.inBurst k < 44 → (s.unit x.unit).burst = none → (x.booked = true ∨ x.kind = 2 ∨ s.awaited x = false) →
    ∃ t, exec (.burstGrant k) s = .next t ∧ (t.unit x.unit).burst = some x ∧
      (t.unit x.unit).lock = (if x.kind = 1 then some (x.row, x.rowBlocks) else (s.unit x.unit).lock) ∧
      SMap.getD t.nmu.granted k 0 = SMap.getD s.nmu.granted k 0 + 1 ∧
      SMap.getD t.nmu.bursts x.unit 0 = SMap.getD s.nmu.bursts x.unit 0 + 1 ∧ SMap.getD t.nmu.waiting k [] = [] ∧
      SMap.getD t.nmu.slots k 0 = SMap.getD s.nmu.slots k 0 + 1 ∧
      (∀ v, v ≠ x.unit → t.unit v = s.unit v) ∧ t.mem = s.mem) ∧
  (∀ k s, k < 8 → s.working = true → 44 ≤ s.inBurst k → SMap.getD s.nmu.slots k 0 < workCycles s.clk.code / 25 →
    ∃ t, exec (.burstGrant k) s = .next t ∧ t.nmu.units = s.nmu.units ∧ t.nmu.granted = s.nmu.granted ∧ t.mem = s.mem) ∧
  (∀ u s x, u < 512 → (s.unit u).burst = some x → x.unit = u → ∃ t, exec (.burstEnd u) s = .next t ∧
    (t.unit u).burst = none ∧
    (t.unit u).lock = (if x.kind = 1 ∧ x.last = true then none else (s.unit u).lock) ∧
    (x.whole = true → ∀ p ∈ s.nmu.units, p.2.burst = some x → (t.unit p.1).burst = none))

/-- R76, R81 to R90, R150: an entry of a query ring that may admit takes one unit of its class and a completion slot; one
that passes its checks, its record built on a tile without an uncorrectable error, becomes a query under a free
request tag, its shards awaited; one that does not completes at once with its status. R91 to R97: a sub-request that
the node may serve, in the stride after its admission, begins a shard-search with the descent on a sort unit; one it
may not is discarded and counted; each round of the plan runs once a stride, and the frozen list of the shard goes to
the coordinating node. It also rests on the readings that the model chose in log entries 10, 56, 60, 69, 76 and 85. -/
def Obligations.QueriesSearched : Prop :=
  (∀ ring b (tile : TileUse) s g r k x e, ring < 16384 → tile.tile < 96 → tile.lost = false → s.unitUp 0x01 tile.tile = true → s.freeTag = some g →
    s.ring? ring = some r → r.kind = 1 → s.mayAdmit r = true → s.ringClass ring r = some k → e = fit r.slotSize b →
    SMap.find? s.indexes (le e 4 4) = some x → s.queryStatus ring r e = stOk → ∃ t q,
      exec (.queryAdmission ring b tile) s = .next t ∧
      SMap.find? t.work.queries g = some q ∧ t.work.tags = g :: s.work.tags ∧
      t.ring? ring = some { r with admitted := r.admitted + 1, stepped := r.stepped + 1, reserved := r.reserved + 1 } ∧
      t.admittedNow k = s.admittedNow k + 1 ∧ q.ring = ring ∧ q.order = r.admitted ∧ q.qid = le e 0 4 ∧ q.index = le e 4 4 ∧
      q.context = r.context ∧ x.snapshotVersion (le e 8 8) = some q.version ∧ q.k = le e 16 2 ∧ q.width = byteAt e 19 ∧
      q.depth = le e 20 2 ∧ q.m = le e 22 2 ∧ q.program = le e 24 2 ∧ q.admitAt = s.stride ∧ q.phase = 0 ∧ q.cls = k ∧
      q.waiting = List.range x.shards ∧ q.replies = [] ∧ q.flags = 0 ∧ t.mem = s.mem ∧ t.indexes = s.indexes) ∧
  (∀ ring b (tile : TileUse) s g r k e st n, ring < 16384 → tile.tile < 96 → s.unitUp 0x01 tile.tile = true → s.freeTag = some g →
    s.ring? ring = some r → r.kind = 1 → s.mayAdmit r = true → s.ringClass ring r = some k → e = fit r.slotSize b →
    st = (if s.queryStatus ring r e = stOk ∧ tile.lost = true then stPoisoned else s.queryStatus ring r e) → st ≠ stOk →
    n = (if 1 ≤ le e 16 2 ∧ le e 16 2 ≤ r.maxK then le e 16 2 else 0) → ∃ t, exec (.queryAdmission ring b tile) s = .next t ∧
      t.ring? ring = some { r with
        admitted := r.admitted + 1, stepped := r.stepped + 1
        written := r.written ++
          [(s.stride, s.stride, r.admitted, queryCompletion (le e 0 4) s.stride n 0 st 0 0 0 [])] } ∧
      t.work = s.work ∧ t.admittedNow k = s.admittedNow k + 1 ∧ t.mem = s.mem ∧ t.indexes = s.indexes) ∧
  (∀ ring b (tile : TileUse) s r, ring < 16384 → tile.tile < 96 → s.ring? ring = some r →
    (r.kind ≠ 1 ∨ s.mayAdmit r = false ∨ s.unitUp 0x01 tile.tile = false) → exec (.queryAdmission ring b tile) s = .next s) ∧
  (∀ m rows lists (sorter : SortUse) s u k len q v w, sorter.unit < 16 → s.arrival 2 (le m 0 2 % 2 ^ 15) m = (true, u) →
    u.searching sorter = true → u.serveClass (le m 28 2) 1
      (decide (chosenMember (le m 0 2 % 2 ^ 15) (le m 2 2) (u.me / 2) ≠ u.me) && u.isFenced u.partner) = some (k, len) →
    q = searchOf m k ((u.gaitNow.1.cls? k).any (·.elastic)) len →
    u.searchView q = some v → u.maySearch q = true → u.classRoom k = true → u.stride = le m 8 8 + 1 →
    w = Walk.start (({ q with roundAt := u.stride } : Search).walk (u.sortUnit sorter.unit)) v none rows lists sorter.parity
      q.descent 0 → ∃ t, exec (.shardSubRequestReceive m rows lists sorter) s = .next t ∧
      SMap.find? t.work.searches q.key = some w.search ∧ SMap.find? t.sorts sorter.unit = some w.unit ∧
      t.admittedNow k = u.admittedNow k + 1 ∧ t.mem = u.mem ∧ t.flash = u.flash) ∧
  (∀ m rows lists (sorter : SortUse) s u k len q v, sorter.unit < 16 → s.arrival 2 (le m 0 2 % 2 ^ 15) m = (true, u) →
    u.searching sorter = true → u.serveClass (le m 28 2) 1
      (decide (chosenMember (le m 0 2 % 2 ^ 15) (le m 2 2) (u.me / 2) ≠ u.me) && u.isFenced u.partner) = some (k, len) →
    q = searchOf m k ((u.gaitNow.1.cls? k).any (·.elastic)) len → u.searchView q = some v →
    (u.stride ≠ le m 8 8 + 1 ∨ u.classRoom k = false ∨ u.maySearch q = false) →
    exec (.shardSubRequestReceive m rows lists sorter) s = .next u.scheduledDrop) ∧
  (∀ key rows lists (sorter : SortUse) (tile : TileUse) s q v w, sorter.unit < 16 → tile.tile < 96 →
    SMap.find? s.work.searches key = some q → s.searching sorter = true →
    s.unitUp 0x01 tile.tile = true → q.phase = 0 → q.roundAt < s.stride → s.stride + 4 ≤ q.admitAt + q.len → s.searchView q = some v →
    w = (q.walk (s.sortUnit sorter.unit)).round v none rows lists sorter.parity 0 (decide (s.stride + 4 = q.admitAt + q.len)) →
    ∃ t, exec (.layer0Round key rows lists sorter tile) s = .next t ∧
      SMap.find? t.work.searches key = some { w.search with roundAt := s.stride } ∧
      SMap.find? t.sorts sorter.unit = some w.unit ∧
      (∀ j, j ≠ key → SMap.find? t.work.searches j = SMap.find? s.work.searches j) ∧
      t.mem = s.mem ∧ t.flash = s.flash) ∧
  (∀ key s q, SMap.find? s.work.searches key = some q → s.working = true → q.phase = 0 → s.stride + 3 = q.admitAt + q.len →
    exec (.shardReplySend key) s = .next ((s.searchReply q (shareFlags q.poisoned false) q.result []).modSearch key
      fun q => { q with phase := 1, done := true }))

/-- R97, R98, R105, R142: in its stride the reply of a shard awaited joins its query, and any other is counted late; the
passes of the merge that no parity error meets select over the replies and, where the query re-ranks, keep the capped
set and await its shards; a selection whose passes have not ended waits in the query; a reply absent at the end of its
stride is a stopped share, which is counted, and marks the query late. R82, R83, R102, R103, R151: the final merge of
a query without a program orders its candidates, writes the completion into the slot reserved for it, and releases the
query's handle; its program's output is what the candidates are ordered by where it has one; the queries of a stride
on a tile make one batch, and a program that takes more of its tile than the plan gives overruns. It also rests on the
readings that the model chose in log entries 24, 30, 60, 81, 100 and 115. -/
def Obligations.QueriesCompleted : Prop :=
  (∀ m a s w q, s.arrival 2 (le a 6 2 % 2 ^ 15) m = (true, w) → SMap.find? w.work.queries (asideHandle a) = some q →
    q.phase = 0 → q.chain = none → w.stride + 5 = q.admitAt + q.len → asideShard a ∈ q.waiting →
    exec (.shardReplyReceive m a) s = .next ({ w with work := { w.work with
        queries := SMap.set w.work.queries (asideHandle a) { q with
          replies := SMap.set q.replies (asideShard a) (replyEntries m a)
          waiting := q.waiting.filter (· ≠ asideShard a)
          flags := q.flags ||| replyFlags m } } } |>.takeShare q.admitAt q.cls 1 1)) ∧
  (∀ m a s w, s.arrival 2 (le a 6 2 % 2 ^ 15) m = (true, w) → SMap.find? w.work.queries (asideHandle a) = none →
    exec (.shardReplyReceive m a) s = .next w.lateReply) ∧
  (∀ h (sorter : SortUse) s q c set, h < 262144 → sorter.unit < 16 → sorter.parity = [] →
    SMap.find? s.work.queries h = some q → s.working = true → s.unitUp 0x03 sorter.unit = true → q.phase = 0 → q.chain = none →
    s.stride + 4 = q.admitAt + q.len → c = select true (max q.k q.m) (q.replies.flatMap (·.2)) →
    set = (if q.m = 0 then c.out else rerankSet q.m q.shardCap q.channelCap c.out) → ∃ t u,
      exec (.queryMerge h (max q.k q.m / 64 + 1) sorter) s = .next t ∧ SMap.find? t.work.queries h = some u ∧ u.phase = 1 ∧
      u.merged = set ∧ u.dups = c.dups ∧ u.waiting = (if q.m = 0 then [] else dedupNat (set.map (·.shard))) ∧
      u.flags = q.flags ||| flagIf (!q.waiting.isEmpty) hdrLate ∧ u.replies = q.replies ∧ t.rings = s.rings ∧ t.mem = s.mem ∧
      (∀ j, j ≠ h → SMap.find? t.work.queries j = SMap.find? s.work.queries j)) ∧
  (∀ h passes (sorter : SortUse) s q begun p, h < 262144 → sorter.unit < 16 → SMap.find? s.work.queries h = some q →
    s.working = true → s.unitUp 0x03 sorter.unit = true → q.phase = 0 → q.merges s.stride = true → begun = q.chain.getD (Selection.start (max q.k q.m)) →
    p = Selection.passes true (sorter.parity.map (· + begun.steps)) (numbered (q.replies.flatMap (·.2))) passes
      (begun, s.sortUnit sorter.unit) → p.1.ended = false → ∃ t, exec (.queryMerge h passes sorter) s = .next t ∧
      SMap.find? t.work.queries h = some { q with
        chain := some p.1, waiting := []
        flags := q.flags ||| flagIf (!q.waiting.isEmpty) hdrLate ||| flagIf p.1.poisoned hdrPoisoned } ∧
      SMap.find? t.sorts sorter.unit = some p.2 ∧ t.rings = s.rings ∧ t.mem = s.mem) ∧
  (∀ h s q, h < 262144 → SMap.find? s.work.queries h = some q → s.clk.window = 2 → q.elastic = false → q.phase = 0 →
    s.stride + 5 = q.admitAt + q.len → q.waiting ≠ [] → ∃ t, exec (.replyDeadline h) s = .next t ∧
      t.work = { s.work with queries := SMap.set s.work.queries h { q with flags := q.flags ||| hdrLate, waiting := [] } } ∧
      t.tel.node.overruns = s.tel.node.overruns + q.waiting.length ∧ t.tel.overrun = true) ∧
  (∀ h s l, h < 262144 → SMap.find? s.work.queries h = none → SMap.find? s.work.lookups h = some l → s.clk.window = 2 →
    s.stride = l.admitAt + 1 → l.awaiting ≠ [] → exec (.replyDeadline h) s = .next { s with work := { s.work with
      lookups := SMap.set s.work.lookups h { l with late := true } } }) ∧
  (∀ h w (sorter : SortUse) (tile : TileUse) s q, h < 262144 → sorter.unit < 16 → tile.tile < 96 →
    SMap.find? s.work.queries h = some q → s.working = true → s.unitUp 0x03 sorter.unit = true →
    s.unitUp 0x01 tile.tile = true → q.phase = 1 → s.stride + 1 = q.admitAt + q.len →
    q.program = 0xFFFF → q.m = 0 → q.late = false → q.waiting = [] → (∀ e ∈ q.merged, hasFlag e.flags flLate = false) →
    exec (.finalMerge h w sorter tile) s = .next (s.finishQuery h q
      (resultFlags q.flags false false q.tie q.merged) stOk q.merged)) ∧
  (∀ h w (sorter : SortUse) (tile : TileUse) s q c, h < 262144 → sorter.unit < 16 → tile.tile < 96 → sorter.parity = [] →
    SMap.find? s.work.queries h = some q → s.working = true → s.unitUp 0x03 sorter.unit = true →
    s.unitUp 0x01 tile.tile = true → q.phase = 1 → s.stride + 1 = q.admitAt + q.len →
    q.program = 0xFFFF → 0 < q.m → c = select true q.k (q.merged.map q.finalItem) → ∃ flags u,
      exec (.finalMerge h w sorter tile) s = .next
        (((s.countStops q.waiting.length).putSort sorter.unit u).finishQuery h q flags stOk c.out) ∧
      hasFlag flags hdrExact = true) ∧
  (∀ h w (sorter : SortUse) (tile : TileUse) s q p c, h < 262144 → sorter.unit < 16 → tile.tile < 96 → sorter.parity = [] →
    SMap.find? s.work.queries h = some q → s.working = true → s.unitUp 0x03 sorter.unit = true →
    s.unitUp 0x01 tile.tile = true → q.phase = 1 → s.stride + 1 = q.admitAt + q.len →
    s.queryProgram q = some p → q.featAwait = [] →
    s.lacks q.admitAt q.cls (q.admitAt + q.len - 1) tile.tile
      (p.span ((s.tile tile.tile).batchWith s.stride (programKey q.context q.program) q.finalSet.length) +
        (s.tile tile.tile).zeroing q.context) = false →
    c = select true q.k (q.applyProgram p (w || tile.lost) q.finalSet) → ∃ flags, ∃ t : State,
      exec (.finalMerge h w sorter tile) s = .next (t.finishQuery h q flags stOk c.out) ∧ t.work = s.work ∧
      t.rings = s.rings ∧ hasFlag flags hdrProgram = true) ∧
  (∀ h w (sorter : SortUse) (tile : TileUse) s q p cost key batch due, h < 262144 → sorter.unit < 16 → tile.tile < 96 →
    SMap.find? s.work.queries h = some q → s.working = true → s.unitUp 0x03 sorter.unit = true →
    s.unitUp 0x01 tile.tile = true → q.phase = 1 → s.stride + 1 = q.admitAt + q.len →
    s.queryProgram q = some p → q.featAwait = [] →
    key = programKey q.context q.program → batch = (s.tile tile.tile).batchWith s.stride key q.finalSet.length →
    due = q.admitAt + q.len - 1 → cost = p.span batch + (s.tile tile.tile).zeroing q.context →
    s.lacks q.admitAt q.cls due tile.tile cost = true → exec (.finalMerge h w sorter tile) s = .next
      (((s.useTile tile q.context).placeBatch tile.tile key batch).needs (8 * h) q.admitAt q.cls due tile.tile cost)) ∧
  (∀ (s : State) (q : Query) h flags st l r, s.ring? q.ring = some r → r.lost = false →
    (s.finishQuery h q flags st l).ring? q.ring = some { r with
      reserved := r.reserved - 1
      written := r.written ++ [(s.stride, q.admitAt, q.order, queryCompletion q.qid s.stride q.k flags.toNat st
        (if st = stOk then q.dups else 0) q.version q.admitAt l)] } ∧
    (s.finishQuery h q flags st l).work.queries = SMap.erase s.work.queries h ∧
    (s.finishQuery h q flags st l).work.tags = s.work.tags.filter (· ≠ h) ∧
    (s.finishQuery h q flags st l).mem = s.mem ∧ (s.finishQuery h q flags st l).indexes = s.indexes)

/-- R99 to R101, R105, R106: the serving member holds the items it is asked for, and the partner of a fenced member takes
them up within its detour reserve; what is read gives the exact entries, and what failed stays; the exact entries go
to the coordinating node, and what failed to the partner, or is given up where none can be asked (log entry 87); a
detour is answered from the partner's own flash; an exact reply of a shard awaited joins its query. It also rests on
the readings that the model chose in log entries 24, 56, 60 and 87. -/
def Obligations.CandidatesReranked : Prop :=
  (∀ m s u key q, key = searchKey (le m 0 2 % 2 ^ 15) (le m 4 4 % 2 ^ 18) (le m 2 2) →
    s.arrival 2 (le m 0 2 % 2 ^ 15) m = (true, u) → u.working = true →
    SMap.find? u.work.searches key = some q → q.phase = 1 → u.stride + 2 = q.admitAt + q.len → u.maySearch q = true →
    exec (.rerankRequestReceive m) s = .next
      ((u.modSearch key fun q => { q with items := itemsFrom m 32 }).takeShare (q.admitAt + 1) q.cls 0 1)) ∧
  (∀ m s u key d len q, key = searchKey (le m 0 2 % 2 ^ 15) (le m 4 4 % 2 ^ 18) (le m 2 2) →
    s.arrival 2 (le m 0 2 % 2 ^ 15) m = (true, u) → u.working = true →
    SMap.find? u.work.searches key = none → u.serveClass (le m 28 2) 1 true = some (d, len) → q = searchOf m d false len →
    u.maySearch q = true → u.classRoom d = true → u.stride + 2 = q.admitAt + q.len → ∃ t,
      exec (.rerankRequestReceive m) s = .next t ∧ t.admittedNow d = u.admittedNow d + 1 ∧ t.mem = u.mem ∧
      SMap.find? t.work.searches key = some { q with
        detour := true, phase := 1, done := true, items := itemsFrom m (64 + le m 36 2 + le m 40 4) }) ∧
  (∀ key reads poison (tile : TileUse) s q v bad items, tile.tile < 96 → SMap.find? s.work.searches key = some q →
    s.working = true → s.unitUp 0x01 tile.tile = true → q.phase = 1 → q.items ≠ [] → s.stride + 1 = q.admitAt + q.len → s.searchView q = some v →
    bad = (lostReads reads).filter v.onFlash → items = q.items.filter (fun i => v.onFlash i.1 || !poison.contains i.1) →
    ∃ t, exec (.rerankRead key reads poison tile) s = .next t ∧
      SMap.find? t.work.searches key = some { q with
        exact := rankedEntries (items.filterMap (v.exactEntry q bad))
        items := items.filter (fun i => (v.exactEntry q bad i).isNone)
        phase := 2
        poisoned := q.poisoned || q.items.any fun i => !v.onFlash i.1 && poison.contains i.1 } ∧
      (∀ j, j ≠ key → SMap.find? t.work.searches j = SMap.find? s.work.searches j) ∧ t.mem = s.mem ∧ t.indexes = s.indexes) ∧
  (∀ key s q, SMap.find? s.work.searches key = some q → s.working = true → q.phase = 2 → s.stride = q.admitAt + q.len →
    ∃ t, exec (.rerankReplySend key) s = .next t ∧ SMap.find? t.work.searches key = some { q with phase := 3 } ∧
      (q.items = [] → t = (s.searchReply q (shareFlags q.poisoned q.detour) q.exact []).modSearch key
        fun q => { q with phase := 3 }) ∧
      (q.items ≠ [] → q.detour = false → s.isFenced s.partner = false → t = ((s.send 2 s.partner
        (q.request ++ itemBytes q.items)).searchReply q (shareFlags true true) q.exact []).modSearch key
        fun q => { q with phase := 3 }) ∧
      (q.items ≠ [] → (q.detour = true ∨ s.isFenced s.partner = true) →
        t = (s.searchReply q (shareFlags true true) q.exact q.items).modSearch key fun q => { q with phase := 3 })) ∧
  (∀ m reads (tile : TileUse) s u d len q v items deltas bad w, tile.tile < 96 → s.arrival 2 s.partner m = (true, u) →
    u.working = true → u.unitUp 0x01 tile.tile = true → u.serveClass (le m 28 2) 1 true = some (d, len) →
    q = { searchOf m d false len with detour := true } → u.searchView q = some v → u.maySearch q = true →
    u.classRoom d = true → u.stride = q.admitAt + q.len → items = itemsFrom m (64 + le m 36 2 + le m 40 4) →
    deltas = (items.filter fun i => !v.onFlash i.1).map (·.1) →
    bad = (lostReads reads).filter v.onFlash ++ (if tile.lost then deltas else []) →
    w = (u.readRecords v q ((items.map (·.1)).filter v.onFlash) reads).admitTo d →
    (deltas = [] ∨ u.lacks u.stride d u.stride tile.tile (laneCycles v.ix.dim deltas.length + (u.tile tile.tile).zeroing q.context)
      = false) → exec (.detourRequest m reads tile) s = .next
      ((if deltas.isEmpty then w else w.useTile tile q.context).searchReply q (shareFlags true true)
        (rankedEntries (items.filterMap (v.exactEntry q bad))) (items.filter fun i => (v.exactEntry q bad i).isNone))) ∧
  (∀ m a s w q, s.arrival 2 (le a 6 2 % 2 ^ 15) m = (true, w) → SMap.find? w.work.queries (asideHandle a) = some q →
    q.phase = 1 → w.stride + 2 = q.admitAt + q.len → asideShard a ∈ q.waiting →
    exec (.rerankReplyReceive m a) s = .next ((w.modQuery (asideHandle a) fun q =>
      q.takeExact (asideShard a) (replyEntries m a) (replyFailed m a) (replyFlags m)).takeShare q.admitAt q.cls 1 1))

/-- R214 to R218: an entry of an update ring that may admit is forwarded to the serving member under a free request tag,
to commit at the end of its plan, or completes at once with its status; the serving member takes a forward in the
stride after its admission and starts an insert's linking, of which one round runs a stride; one that comes late is
discarded and counted. It also rests on the readings that the model chose in log entries 50, 51, 69 and 102. -/
def Obligations.UpdatesAdmitted : Prop :=
  (∀ ring b (tile : TileUse) s g r k x e, ring < 16384 → tile.tile < 96 → tile.lost = false →
    s.unitUp 0x01 tile.tile = true → s.freeTag = some g → s.ring? ring = some r → r.kind = 2 → s.mayAdmit r = true →
    s.ringClass ring r = some k → e = fit r.slotSize b → SMap.find? s.indexes (le e 4 4) = some x →
    s.updateStatus r e = stOk → ∃ t u, exec (.updateAdmission ring b tile) s = .next t ∧
      SMap.find? t.work.updates g = some u ∧ t.work.tags = g :: s.work.tags ∧ u.ring = ring ∧ u.order = r.admitted ∧
      u.updateId = le e 0 4 ∧ u.admitAt = s.stride ∧ u.commit = s.stride + ((s.gaitNow.1.cls? k).map (·.len)).getD 1 - 1 ∧
      u.serving = s.updateMember (spanAt x.map (shardOf x.seed x.shards (le e 12 6))) ∧
      t.ring? ring = some { r with admitted := r.admitted + 1, stepped := r.stepped + 1, reserved := r.reserved + 1 } ∧
      t.admittedNow k = s.admittedNow k + 1 ∧ t.indexes = s.indexes ∧ t.mem = s.mem) ∧
  (∀ ring b (tile : TileUse) s g r k e st, ring < 16384 → tile.tile < 96 → s.unitUp 0x01 tile.tile = true →
    s.freeTag = some g → s.ring? ring = some r → r.kind = 2 → s.mayAdmit r = true →
    s.ringClass ring r = some k → e = fit r.slotSize b →
    st = (if s.updateStatus r e = stOk ∧ tile.lost = true then stPoisoned else s.updateStatus r e) → st ≠ stOk → ∃ t,
      exec (.updateAdmission ring b tile) s = .next t ∧ t.work = s.work ∧ t.indexes = s.indexes ∧ t.mem = s.mem ∧
      t.ring? ring = some { r with
        admitted := r.admitted + 1, stepped := r.stepped + 1
        written := r.written ++ [(s.stride, s.stride, r.admitted, updateCompletion (le e 0 4) st 0 s.stride 0 0)] }) ∧
  (∀ m rows lists (sorter : SortUse) s p k len u x z, sorter.unit < 16 → s.arrival 2 (le m 0 2 % 2 ^ 15) m = (true, p) →
    p.searching sorter = true → p.serveClass (le m 28 2) 2 (!p.isNear && p.isFenced p.partner) = some (k, len) →
    u = parseForward m len p.stride →
    SMap.find? p.indexes u.index = some x → x.context = u.context → p.holds x.map u.shard = true → p.stride = u.admitAt + 1 →
    p.classRoom k = true → (∃ v, x.current = some v ∧ v.filled = true) →
    z = (if u.op = 1 then x.startLink u k rows lists sorter (p.sortUnit sorter.unit) else none) → ∃ t,
      exec (.updateForwardReceive m rows lists sorter) s = .next t ∧
      SMap.find? t.work.served (updateKey u.entryNode u.handle) = some (match z with
        | none => u
        | some (_, w) => { u with search := some w.search, links := p.linksOf u }) ∧
      t.admittedNow k = p.admittedNow k + 1 ∧ t.mem = p.mem ∧ t.flash = p.flash) ∧
  (∀ m rows lists (sorter : SortUse) s p k len x, sorter.unit < 16 → s.arrival 2 (le m 0 2 % 2 ^ 15) m = (true, p) →
    p.searching sorter = true → p.serveClass (le m 28 2) 2 (!p.isNear && p.isFenced p.partner) = some (k, len) →
    SMap.find? p.indexes (le m 24 4) = some x → p.stride ≠ le m 8 8 + 1 →
    exec (.updateForwardReceive m rows lists sorter) s = .next p.scheduledDrop) ∧
  (∀ key rows lists (sorter : SortUse) (tile : TileUse) s u q v w, sorter.unit < 16 → tile.tile < 96 →
    SMap.find? s.work.served key = some u → u.search = some q → s.searching sorter = true →
    s.unitUp 0x01 tile.tile = true → u.links ≠ 0 → u.rounds < s.stride →
    s.stride + 2 ≤ u.admitAt + u.len → s.searchView q = some v →
    w = (q.walk (s.sortUnit sorter.unit)).round v none rows lists sorter.parity 0
      (decide (u.links = 1 ∨ s.stride + 2 = u.admitAt + u.len)) → ∃ t,
      exec (.linkingRound key rows lists sorter tile) s = .next t ∧
      SMap.find? t.work.served key = some { u with
        search := some w.search, rounds := s.stride, links := u.links - 1 } ∧ SMap.find? t.sorts sorter.unit = some w.unit ∧
      t.mem = s.mem ∧ t.flash = s.flash)

/-- R217 to R219, R221, R274: in the last stride before K the served updates due are staged in record order, each as a
pending record of K, mirrored to a partner that is not fenced; the partner stages the record and acknowledges it; the
serving member holds the acknowledgement and confirms it, and the partner holds the confirm. R214, R220, R222 to R225,
R327: the members compare the digests of a stride's commit, and one that is absent at its end is a divergence unless
the partner is suspected or fenced; the entry node writes an update's completion on the serving member's
acknowledgement in K, or with ST_TARGET_LOST and UNKNOWN where none came, and releases its handle. It also rests on
the readings that the model chose in log entries 28, 50, 51, 52 and 102. -/
def Obligations.UpdatesCommitted : Prop :=
  (∀ tiles s, (∀ d ∈ tiles, TileUse.tile d < 96) → (∀ u ∈ s.work.served, s.stride + 1 ≠ u.2.admitAt + u.2.len) →
    exec (.updateStaging tiles) s = .next s) ∧
  (∀ tiles s u x, (∀ d ∈ tiles, TileUse.tile d < 96 ∧ s.unitUp 0x01 d.tile = true) → s.working = true →
    s.work.served = [(updateKey u.entryNode u.handle, u)] → s.stride + 1 = u.admitAt + u.len →
    SMap.find? s.indexes u.index = some x → u.op ≠ 1 → ∃ t y, exec (.updateStaging tiles) s = .next t ∧ t.work.served = [] ∧
      SMap.find? t.indexes u.index = some y ∧ y.pending = x.pending ++ [u.toPending (s.stride + 1)] ∧
      y.reserved = x.reserved ∧ t.mem = s.mem) ∧
  (∀ tiles s u x w n, (∀ d ∈ tiles, TileUse.tile d < 96 ∧ s.unitUp 0x01 d.tile = true) → s.working = true →
    s.work.served = [(updateKey u.entryNode u.handle, u)] → s.stride + 1 = u.admitAt + u.len →
    SMap.find? s.indexes u.index = some x → u.op = 1 → x.freeSlot u.shard = some n → x.deltaUse u.shard < x.deltaCap →
    w = s.useTile (tileFor tiles 0) u.context → (tileFor tiles 0).lost = false →
    ({ w with work := { w.work with served := [] },
              indexes := SMap.set s.indexes u.index (x.stage u (s.stride + 1)).1 } : State).holdsUse u.context = true →
    ∃ t y p, exec (.updateStaging tiles) s = .next t ∧ t.work.served = [] ∧ SMap.find? t.indexes u.index = some y ∧
      y.pending = x.pending ++ [p] ∧ y.reserved = insertNat (slotKey u.shard n) x.reserved ∧ p.slot = n ∧
      p.gen = x.genFor u.shard n ∧ p.op = 1 ∧ p.key = u.key ∧ p.commit = s.stride + 1 ∧ p.serving = true ∧ p.held = false ∧
      p.final = none ∧ p.row = x.servedRow u n (x.genFor u.shard n) ∧ t.mem = s.mem) ∧
  (∀ tiles s u x w st, (∀ d ∈ tiles, TileUse.tile d < 96 ∧ s.unitUp 0x01 d.tile = true) → s.working = true →
    s.work.served = [(updateKey u.entryNode u.handle, u)] → s.stride + 1 = u.admitAt + u.len →
    SMap.find? s.indexes u.index = some x → u.op = 1 → w = s.useTile (tileFor tiles 0) u.context →
    st = (if x.freeSlot u.shard = none ∨ x.deltaCap ≤ x.deltaUse u.shard ∨
      ({ w with work := { w.work with served := [] },
                indexes := SMap.set s.indexes u.index (x.stage u (s.stride + 1)).1 } : State).holdsUse u.context = false
      then stNoResource else if (tileFor tiles 0).lost = true then stPoisoned else stOk) → st ≠ stOk → ∃ t y,
      exec (.updateStaging tiles) s = .next t ∧ SMap.find? t.indexes u.index = some y ∧
      y.pending = x.pending ++ [{ u.toPending (s.stride + 1) with final := some st }] ∧ t.mem = s.mem) ∧
  (∀ m s p x, s.arrival 1 s.partner m = (true, p) → p.working = true → SMap.find? p.indexes (le m 24 4) = some x →
    p.mirrorOk x m = true → ∃ t y,
    exec (.mirrorRecordReceive m) s = .next t ∧ SMap.find? t.indexes (le m 24 4) = some y ∧
    y.pending = x.pending ++ [x.parseMirror m (p.stride + 1)] ∧ y.versions = x.versions ∧ y.delta = x.delta ∧ t.mem = p.mem) ∧
  (∀ m s p x, s.arrival 1 s.partner m = (true, p) → p.working = true → SMap.find? p.indexes (le m 24 4) = some x →
    p.mirrorOk x m = false → exec (.mirrorRecordReceive m) s = .next p.scheduledDrop) ∧
  (∀ h n s, h < 2 ^ 18 → n < 32768 → s.working = true → s.hasPending true h n = true → exec (.mirrorAckReceive h n) s =
    .next ((s.holdPending true h n).send 1 s.partner (updateMark markUpdateConfirm h n))) ∧
  (∀ h n s, h < 2 ^ 18 → n < 32768 → s.working = true →
    exec (.mirrorConfirmReceive h n) s = .next (s.holdPending false h n)) ∧
  (∀ (s : State) side h n i x, SMap.find? s.indexes i = some x → ∃ y, SMap.find? (s.holdPending side h n).indexes i = some y ∧
    y.pending = x.pending.map (fun p => if p.named side h n s.stride then { p with held := true } else p) ∧
    y.delta = x.delta ∧ y.tombs = x.tombs) ∧
  (∀ k d s, s.clk.window ≠ 0 → k = s.stride → SMap.getD s.work.digests k (commitDigest k []) = d →
    exec (.commitDigestReceive k d) s = .next { s with work := { s.work with
      peerDigests := SMap.set s.work.peerDigests k d } }) ∧
  (∀ k d s, s.clk.window ≠ 0 → k = s.stride → SMap.getD s.work.digests k (commitDigest k []) ≠ d →
    exec (.commitDigestReceive k d) s = .next { s with
      work := { s.work with peerDigests := SMap.set s.work.peerDigests k d }
      memb := { s.memb with divergence := true } }) ∧
  (∀ s d, s.clk.window = 2 → SMap.find? s.work.digests s.stride = some d → SMap.find? s.work.peerDigests s.stride = none →
    s.partnerExcused = false → exec .commitDigestDeadline s = .next { s with memb := { s.memb with divergence := true } }) ∧
  (∀ s, s.partnerExcused = true → exec .commitDigestDeadline s = .next s) ∧
  (∀ m s p h u, s.arrival 2 s.me m = (true, p) → h = le m 0 4 % 2 ^ 18 → SMap.find? p.work.updates h = some u →
    u.commit = p.stride → p.clk.window ≠ 0 →
    exec (.updateAckReceive m) s = .next (p.finishUpdate h u (le m 4 2) (le m 6 2 % 2) (le m 16 6))) ∧
  (∀ m s p, s.arrival 2 s.me m = (true, p) → SMap.find? p.work.updates (le m 0 4 % 2 ^ 18) = none →
    exec (.updateAckReceive m) s = .next p.lateReply) ∧
  (∀ h s u, h < 262144 → SMap.find? s.work.updates h = some u → u.commit = s.stride → s.clk.window = 2 →
    exec (.updateReplyDeadline h) s = .next (s.finishUpdate h u stTargetLost 2 0)) ∧
  (∀ (s : State) (u : EntryUpdate) h st flags loc r, s.ring? u.ring = some r → r.lost = false →
    (s.finishUpdate h u st flags loc).ring? u.ring = some { r with
      reserved := r.reserved - 1
      written := r.written ++
        [(s.stride, u.admitAt, u.order, updateCompletion u.updateId st flags u.admitAt u.commit loc)] } ∧
    (s.finishUpdate h u st flags loc).work.updates = SMap.erase s.work.updates h ∧
    (s.finishUpdate h u st flags loc).work.tags = s.work.tags.filter (· ≠ h) ∧
    (s.finishUpdate h u st flags loc).mem = s.mem ∧ (s.finishUpdate h u st flags loc).indexes = s.indexes) ∧
  (∀ (x : Index) (k : Nat) (p : Pending) r, x.liveRow p.shard p.key = none → p.row = some r → p.items = [] →
    (x.resolveInsert k p).2 = stOk ∧ (x.resolveInsert k p).1.delta = x.delta ++ [{ r with commit := k }] ∧
    SMap.find? (x.resolveInsert k p).1.lastGen (slotKey p.shard p.slot) = some p.gen) ∧
  (∀ (x : Index) (k : Nat) (p : Pending) r, x.liveRow p.shard p.key = some r →
    x.resolveInsert k p = (x.unreserve p, stKeyExists) ∧ (x.resolveDelete k p).2 = stOk ∧
    { shard := p.shard, slot := r.slot, gen := r.gen, commit := k } ∈ (x.resolveDelete k p).1.tombs) ∧
  (∀ (x : Index) (k : Nat) (p : Pending), x.liveRow p.shard p.key = none → x.resolveDelete k p = (x, stNoKey))

/-- R235 to R239: an entry of a lookup ring that may admit asks the shards of its rows under a free request tag, or
completes at once with its status; a serving member answers a sub-request in the stride after its admission with its
rows, once the table's apply barrier is down and no unit holds a copy it reads, and discards any other; a reply of a
shard awaited joins its lookup; the pooled vectors are written to HBM of the context at the end of the plan, and the
completion releases the tag. It also rests on the readings that the model chose in log entries 24, 62, 69 and 90. -/
def Obligations.LookupsServed : Prop :=
  (∀ ring b s g r k x e, ring < 16384 → s.freeTag = some g → s.ring? ring = some r → r.kind = 3 → s.mayAdmit r = true →
    s.ringClass ring r = some k → e = fit r.slotSize b → SMap.find? s.tables (le e 4 4) = some x →
    s.lookupStatus r e = stOk → ∃ t l, exec (.lookupAdmission ring b) s = .next t ∧
      SMap.find? t.work.lookups g = some l ∧ t.work.tags = g :: s.work.tags ∧ l.ring = ring ∧ l.order = r.admitted ∧
      l.lookupId = le e 0 4 ∧ l.table = le e 4 4 ∧ x.viewVersion (le e 8 8) = some l.version ∧ l.admitAt = s.stride ∧
      l.rows = lookupRows e ∧ l.bags = bagSizes e ∧ l.pooling = byteAt e 18 ∧ l.format = byteAt e 19 ∧
      l.address = le e 24 8 ∧ l.got = [] ∧ l.awaiting = (List.range x.shards).filter (fun j =>
        (lookupRows e).any fun i => shardOf x.seed x.shards i = j) ∧
      t.ring? ring = some { r with admitted := r.admitted + 1, stepped := r.stepped + 1, reserved := r.reserved + 1 } ∧
      t.admittedNow k = s.admittedNow k + 1 ∧ t.tables = s.tables ∧ t.mem = s.mem) ∧
  (∀ ring b s g r k e st, ring < 16384 → s.freeTag = some g → s.ring? ring = some r → r.kind = 3 → s.mayAdmit r = true →
    s.ringClass ring r = some k → e = fit r.slotSize b → s.lookupStatus r e = st → st ≠ stOk → ∃ t,
      exec (.lookupAdmission ring b) s = .next t ∧ t.work = s.work ∧ t.tables = s.tables ∧ t.mem = s.mem ∧
      t.ring? ring = some { r with
        admitted := r.admitted + 1, stepped := r.stepped + 1
        written := r.written ++ [(s.stride, s.stride, r.admitted, lookupCompletion (le e 0 4) st 0 s.stride 0 0)] }) ∧
  (∀ m bad s u x k len lost, s.arrival 2 (le m 0 2 % 2 ^ 15) m = (true, u) → u.working = true →
    SMap.find? u.tables (le m 16 4) = some x → u.serveClass (le m 20 2 % 4096) 3
      (decide (chosenMember (le m 0 2 % 2 ^ 15) (le m 2 2) (u.me / 2) ≠ u.me) && u.isFenced u.partner) = some (k, len) →
    x.context = le m 20 2 % 4096 → u.holds x.map (le m 2 2) = true → x.readable (le m 24 8) = true →
    u.classRoom k = true → u.stride = le m 8 8 + 1 → u.barred x = false → u.copiesHeld x m = [] →
    lost = ((x.copyReads (le m 24 8) (subRows m)).filter fun c =>
      (rangeBlocks c.2 x.rowSize).any fun b => (u.blockRead b).lost).map (·.1) → ∃ t,
      exec (.lookupSubRequestReceive m bad) s = .next t ∧
      t.out.sent = (u.sendWith 2 (le m 0 2 % 2 ^ 15)
        ((subRows m).flatMap fun id => replyRow x.dim (x.readRow (le m 24 8) (bad ++ lost) id).2)
        (replyAside (le m 4 4 % 2 ^ 18) (le m 2 2) u.me ++
          (subRows m).flatMap fun id => rowAside id (x.readRow (le m 24 8) (bad ++ lost) id).1)).out.sent ∧
      t.admittedNow k = u.admittedNow k + 1 ∧ t.mem = u.mem) ∧
  (∀ m bad s u x k len, s.arrival 2 (le m 0 2 % 2 ^ 15) m = (true, u) → u.working = true →
    SMap.find? u.tables (le m 16 4) = some x → u.serveClass (le m 20 2 % 4096) 3
      (decide (chosenMember (le m 0 2 % 2 ^ 15) (le m 2 2) (u.me / 2) ≠ u.me) && u.isFenced u.partner) = some (k, len) →
    x.context = le m 20 2 % 4096 → u.holds x.map (le m 2 2) = true → x.readable (le m 24 8) = true →
    u.classRoom k = true → u.stride = le m 8 8 + 1 → (u.barred x = true ∨ u.copiesHeld x m ≠ []) → ∃ t y,
      exec (.lookupSubRequestReceive m bad) s = .next t ∧ SMap.find? t.tables (le m 16 4) = some y ∧
      y.barrier = x.barrier ++ [(m, bad)] ∧ t.admittedNow k = u.admittedNow k + 1 ∧ t.out = u.out ∧ t.mem = u.mem) ∧
  (∀ m bad s u x k len, s.arrival 2 (le m 0 2 % 2 ^ 15) m = (true, u) → u.working = true →
    SMap.find? u.tables (le m 16 4) = some x → u.serveClass (le m 20 2 % 4096) 3
      (decide (chosenMember (le m 0 2 % 2 ^ 15) (le m 2 2) (u.me / 2) ≠ u.me) && u.isFenced u.partner) = some (k, len) →
    u.stride ≠ le m 8 8 + 1 → exec (.lookupSubRequestReceive m bad) s = .next u.scheduledDrop) ∧
  (∀ m a s w h l x, s.arrival 2 (le a 6 2 % 2 ^ 15) m = (true, w) → h = le a 0 4 % 2 ^ 18 →
    SMap.find? w.work.lookups h = some l → SMap.find? w.tables l.table = some x →
    w.stride = l.admitAt + 1 → le a 4 2 ∈ l.awaiting → exec (.lookupReplyReceive m a) s = .next { w with work := { w.work with
      lookups := SMap.set w.work.lookups h (l.take (le a 4 2) (parseReplyRows x.dim m a)) } }) ∧
  (∀ m a s w h l x, s.arrival 2 (le a 6 2 % 2 ^ 15) m = (true, w) → h = le a 0 4 % 2 ^ 18 →
    SMap.find? w.work.lookups h = some l → SMap.find? w.tables l.table = some x →
    w.stride ≠ l.admitAt + 1 → exec (.lookupReplyReceive m a) s = .next w.lateReply) ∧
  (∀ m a s w h q p x, s.arrival 2 (le a 6 2 % 2 ^ 15) m = (true, w) → h = le a 0 4 % 2 ^ 18 →
    SMap.find? w.work.lookups h = none → SMap.find? w.work.queries h = some q →
    SMap.find? w.programs (q.context * 2 ^ 16 + q.program) = some p → SMap.find? w.tables p.featTable = some x →
    w.stride + 2 ≤ q.admitAt + q.len → le a 4 2 ∈ q.featAwait → ∃ t u, exec (.lookupReplyReceive m a) s = .next t ∧
      SMap.find? t.work.queries h = some u ∧ u.featAwait = q.featAwait.filter (· ≠ le a 4 2) ∧
      u.features = q.features ++ ((parseReplyRows x.dim m a).filter fun r => r.2.1 = 0).map (fun r => (r.1, r.2.2)) ∧
      t.work.lookups = w.work.lookups ∧ t.mem = w.mem) ∧
  (∀ h s l x out, h < 262144 → SMap.find? s.work.lookups h = some l → s.working = true → s.stride + 1 = l.admitAt + l.len →
    SMap.find? s.tables l.table = some x → out = l.result x.dim →
    s.dieWaits l.address out.length = false → s.ownsHbm x.context l.address out.length = true → ∃ t,
      exec (.lookupPooling h) s = .next t ∧ t = (((s.countStops l.awaiting.length).endDieWait l.address
        out.length).hbmWrite l.address out).finishLookup h l stOk ∧
      (∀ a, a < l.address ∨ l.address + out.length ≤ a → readByte t.mem.bytes a = readByte s.mem.bytes a) ∧
      t.work.lookups = SMap.erase s.work.lookups h ∧ t.work.tags = s.work.tags.filter (· ≠ h)) ∧
  (∀ h s l x, h < 262144 → SMap.find? s.work.lookups h = some l → s.working = true → s.stride + 1 = l.admitAt + l.len →
    SMap.find? s.tables l.table = some x → s.dieWaits l.address (l.result x.dim).length = false →
    s.ownsHbm x.context l.address (l.result x.dim).length = false → ∃ t,
      exec (.lookupPooling h) s = .next t ∧ t.mem.bytes = s.mem.bytes ∧ t.work.lookups = SMap.erase s.work.lookups h)

/-- R240 to R244: an entry of a step ring that may admit is held until its notices come, counts the table's steps and
sends each owner its segment, a refused one where its checks fail; an owner takes each participant's first segment of
a step in T and T+1; in T+1 it merges the contributions, or voids the step, a step of which no segment came among
them. R245 to R249: in T+2 the owner mirrors the step and runs its optimiser, and the partner stages what it receives;
the owner holds the acknowledgement and the partner the confirm; in T+3 a step held by both, or of a member alone, is
applied to the rows, and one that neither holds is void; a void step changes no row. It also rests on the readings
that the model chose in log entries 26, 62, 63, 90 and 102. -/
def Obligations.StepsApplied : Prop :=
  (∀ ring b (tile : TileUse) s r k e st l, ring < 16384 → tile.tile < 96 → s.unitUp 0x01 tile.tile = true → s.ring? ring = some r → r.kind = 4 → s.mayAdmit r = true → s.ringClass ring r = some k →
    e = fit r.slotSize b → s.stepWaits r.context e = false → r.eligible ≠ 0 →
    s.stepStatus r.context tile e = (st, l) → ∃ t y n, exec (.stepAdmission ring b tile) s = .next t ∧
      t.work.steps = s.work.steps ++ [y] ∧ y.ring = ring ∧ y.order = r.admitted ∧ y.stepId = le e 0 4 ∧
      y.admitAt = s.stride ∧ y.status = st ∧ y.notices = [] ∧ y.num = n ∧
      (∀ x, SMap.find? s.tables (le e 4 4) = some x → x.context = r.context →
        y.table = le e 4 4 ∧ n = x.started + 1 ∧ y.owners = s.ownersOf x ∧
        ∃ z, SMap.find? t.tables (le e 4 4) = some z ∧ z.started = x.started + 1 ∧ z.dirty = x.dirty ∧ z.committed = x.committed) ∧
      t.ring? ring = some { r with admitted := r.admitted + 1, stepped := r.stepped + 1, reserved := r.reserved + 1 } ∧
      t.admittedNow k = s.admittedNow k + 1 ∧ t.mem = s.mem) ∧
  (∀ m s w x y g, s.arrival 2 (le m 12 2 % 2 ^ 15) m = (true, w) → w.running = true → SMap.find? w.tables (le m 0 4) = some x →
    w.owns x = true → g = parseSegment x.dim m →
    x.step? g.step = some y → y.stage = 0 → w.stride ≤ y.admitAt + 1 → ∃ t z, exec (.stepSegmentReceive m) s = .next t ∧
      SMap.find? t.tables (le m 0 4) = some z ∧ z.steps = x.steps.map (fun u => if u.num = g.step then
        (if u.segments.any fun v => v.source = g.source then u else { u with segments := u.segments ++ [g] }) else u) ∧
      z.dirty = x.dirty ∧ t.mem = w.mem ∧ t.work = w.work) ∧
  (∀ m s w x g k len, s.arrival 2 (le m 12 2 % 2 ^ 15) m = (true, w) → w.running = true →
    SMap.find? w.tables (le m 0 4) = some x → w.owns x = true → g = parseSegment x.dim m →
    x.step? g.step = none → w.serveClass x.context 4 (!w.isNear && w.isFenced w.partner) = some (k, len) →
    w.classRoom k = true → ∃ t z u,
      exec (.stepSegmentReceive m) s = .next t ∧ SMap.find? t.tables (le m 0 4) = some z ∧ z.steps = x.steps ++ [u] ∧
      u.num = g.step ∧ u.segments = [g] ∧ u.stage = 0 ∧ u.owner = true ∧ u.admitAt = w.stride ∧
      t.admittedNow k = w.admittedNow k + 1 ∧ t.mem = w.mem) ∧
  (∀ m s w x, s.arrival 2 (le m 12 2 % 2 ^ 15) m = (true, w) → w.running = true → SMap.find? w.tables (le m 0 4) = some x →
    w.owns x = false → exec (.stepSegmentReceive m) s = .next w.scheduledDrop) ∧
  (∀ id (tile : TileUse) s x y, id < 2 ^ 32 → tile.tile < 96 → SMap.find? s.tables id = some x → s.working = true →
    s.unitUp 0x01 tile.tile = true → tile.lost = false → x.stepAt (some true) 0 1 s.stride = some y →
    x.committed < y.num → y.void = none → x.voids y s.stride = none → ∃ t z,
      exec (.stepMerge id tile) s = .next t ∧ SMap.find? t.tables id = some z ∧
      z.steps = x.steps.map (fun u => if u.num = y.num then { u with
        void := none, merged := (x.merge y).1, dropped := (x.merge y).2
        lr := ((u.segments.head?).map (·.lr)).getD 0, stage := 1 } else u) ∧ z.dirty = x.dirty ∧ t.mem = s.mem) ∧
  (∀ id (tile : TileUse) s x y v, id < 2 ^ 32 → tile.tile < 96 → SMap.find? s.tables id = some x → s.working = true →
    s.unitUp 0x01 tile.tile = true → x.stepAt (some true) 0 1 s.stride = some y → x.committed < y.num →
    y.void = none → (x.voids y s.stride = some v ∨ (x.voids y s.stride = none ∧ tile.lost = true ∧ v = stPoisoned)) → ∃ t z,
      exec (.stepMerge id tile) s = .next t ∧ SMap.find? t.tables id = some z ∧
      z.steps = x.steps.map (fun u => if u.num = y.num then { u with
        void := some v, merged := [], dropped := 0
        lr := ((u.segments.head?).map (·.lr)).getD 0, stage := 1 } else u)) ∧
  (∀ id (tile : TileUse) s x u, id < 2 ^ 32 → tile.tile < 96 → SMap.find? s.tables id = some x → s.working = true →
    s.unitUp 0x01 tile.tile = true → x.stepAt (some true) 0 1 s.stride = none →
    s.absentStep id x = some u → exec (.stepMerge id tile) s = .next (s.modTable id fun x =>
      { x with steps := x.steps ++ [{ u with void := some stOk, stage := 1 }] })) ∧
  (∀ id (tile : TileUse) s x y, id < 2 ^ 32 → tile.tile < 96 → SMap.find? s.tables id = some x → s.working = true →
    s.unitUp 0x01 tile.tile = true → x.stepAt (some true) 1 2 s.stride = some y → ∃ t z,
      exec (.stepMirror id tile) s = .next t ∧ SMap.find? t.tables id = some z ∧
      z.steps = x.steps.map (fun u => if u.num = y.num then
        { u with merged := x.optimiseAll u, stage := 2, spoiled := tile.lost } else u) ∧
      (s.isFenced s.partner = false → t.fab = (s.send 1 s.partner (stepMirrorBytes id y)).fab) ∧ t.mem = s.mem) ∧
  (∀ m (tile : TileUse) s p x, tile.tile < 96 → s.arrival 1 s.partner m = (true, p) → p.running = true →
    p.isFenced p.partner = false → p.unitUp 0x01 tile.tile = true → le m 0 4 = markStep →
    SMap.find? p.tables (le m 4 4) = some x → x.step? (le m 8 8) = none → ∃ t z u,
      exec (.stepMirrorReceive m tile) s = .next t ∧ SMap.find? t.tables (le m 4 4) = some z ∧
      z.steps = x.steps ++ [u] ∧ u = x.optimised (parseMirror x (le m 8 8) (p.stride - 2) m) tile ∧
      u.num = le m 8 8 ∧ u.owner = false ∧ u.stage = 2 ∧ u.admitAt = p.stride - 2 ∧
      u.held = false ∧ z.dirty = x.dirty ∧
      t.out = (p.send 1 p.partner (stepHead markStepAck (le m 4 4) (le m 8 8))).out ∧ t.mem = p.mem) ∧
  (∀ m (tile : TileUse) s p x y, tile.tile < 96 → s.arrival 1 s.partner m = (true, p) → p.running = true →
    p.isFenced p.partner = false → le m 0 4 = markStepAck → SMap.find? p.tables (le m 4 4) = some x →
    x.step? (le m 8 8) = some y → y.owner = true → y.stage = 2 → y.admitAt + 2 = p.stride →
    exec (.stepMirrorReceive m tile) s =
      .next ((p.modStep (le m 4 4) (le m 8 8) fun u => { u with held := true }).send 1 p.partner
        (stepHead markStepConfirm (le m 4 4) (le m 8 8)))) ∧
  (∀ m (tile : TileUse) s p x y, tile.tile < 96 → s.arrival 1 s.partner m = (true, p) → p.running = true →
    p.isFenced p.partner = false → le m 0 4 = markStepConfirm → SMap.find? p.tables (le m 4 4) = some x →
    x.step? (le m 8 8) = some y → y.owner = false → y.stage = 2 → y.admitAt + 2 = p.stride →
    exec (.stepMirrorReceive m tile) s = .next (p.modStep (le m 4 4) (le m 8 8) fun u => { u with held := true })) ∧
  (∀ m (tile : TileUse) s p, tile.tile < 96 → s.arrival 1 s.partner m = (true, p) → SMap.find? p.tables (le m 4 4) = none →
    exec (.stepMirrorReceive m tile) s = .next p.scheduledDrop) ∧
  (∀ id bad s x y p, id < 2 ^ 32 → SMap.find? s.tables id = some x → s.working = true → x.stepAt none 2 3 s.stride = some y →
    y.void = none → x.folding = false → (y.held = true ∨ s.isFenced s.partner = true) →
    p = y.merged.foldl (applyRow y.num s.stride (if y.spoiled then y.merged.map (·.row) else bad)) (x, { y with void := none, held := true, stage := 3, applied := true }) →
    ∃ t z, exec (.stepApply id bad) s = .next t ∧ SMap.find? t.tables id = some z ∧ z.dirty = p.1.dirty ∧
      (∀ u ∈ z.steps, u.num = y.num → u.applied = true ∧ u.stage = 3 ∧ u.updated = p.2.updated ∧ u.poisoned = p.2.poisoned)) ∧
  (∀ id bad s x y, id < 2 ^ 32 → SMap.find? s.tables id = some x → s.working = true → x.stepAt none 2 3 s.stride = some y →
    (y.void ≠ none ∨ x.folding = true ∨ (y.held = false ∧ s.isFenced s.partner = false)) → y.applied = false →
    ∃ t z, exec (.stepApply id bad) s = .next t ∧ SMap.find? t.tables id = some z ∧ z.dirty = x.dirty ∧
      (∀ u ∈ z.steps, u.num = y.num → u.applied = false ∧ u.stage = 3 ∧ u.void ≠ none))

/-- R220, R248, R249: the members compare their digests over the rows neither has poisoned, and a difference, or a digest
absent at the end of T+3, is a divergence; the owners' notices complete a participant's entry, or its deadline does
with ST_TARGET_LOST; in T+4 a row poisoned on one member only takes the other's image, which the other sends on an
admission of its detour class. It also rests on the readings that the model chose in log entries 26, 27 and 90. -/
def Obligations.StepsClosed : Prop :=
  (∀ id n d l s x y, id < 2 ^ 32 → SMap.find? s.tables id = some x → x.step? n = some y → s.running = true → y.stage = 3 →
    y.exchanged = false → s.stride = y.admitAt + 3 → (∀ r ∈ y.poisoned, r ∈ l) →
    ∃ t z, exec (.stepDigestReceive id n d l) s = .next t ∧ SMap.find? t.tables id = some z ∧
      (∀ u ∈ z.steps, u.num = n → u.exchanged = true) ∧ z.dirty = x.dirty ∧
      t.memb.divergence = (s.memb.divergence || decide (x.stepDigest y (dedupNat (y.poisoned ++ l)) ≠ d)) ∧ t.mem = s.mem) ∧
  (∀ id s x y, id < 2 ^ 32 → SMap.find? s.tables id = some x → s.running = true → s.clk.window = 2 →
    x.steps.find? (fun u => u.stage = 3 && !u.exchanged && u.admitAt + 3 = s.stride) = some y →
    ∃ t z, exec (.stepDigestDeadline id) s = .next t ∧ t.memb.divergence = (s.memb.divergence || !s.partnerExcused) ∧ SMap.find? t.tables id = some z ∧
      (∀ u ∈ z.steps, u.num = y.num → u.exchanged = true) ∧ t.mem = s.mem) ∧
  (∀ m s w y o, s.arrival 2 (le m 28 2 % 2 ^ 15) m = (true, w) → w.running = true → o = le m 28 2 →
    w.work.steps.find? (fun u => u.table = le m 0 4 && u.num = le m 4 8 && u.admitAt + 3 = w.stride) = some y →
    y.owners = [o] → y.notices = [] → exec (.stepNoticeReceive m) s = .next (w.finishStep { y with
      notices := [(o, le m 14 2 + 2 ^ 16 * le m 12 2, le m 16 4, le m 20 4, le m 24 4)] } false)) ∧
  (∀ m s w y o p, s.arrival 2 (le m 28 2 % 2 ^ 15) m = (true, w) → w.running = true → o = le m 28 2 →
    w.work.steps.find? (fun u => u.table = le m 0 4 && u.num = le m 4 8 && u.admitAt + 3 = w.stride) = some y →
    o ∈ y.owners → p ∈ y.owners → p ≠ o → (∀ n ∈ y.notices, n.1 ≠ o ∧ n.1 ≠ p) → ∃ t, exec (.stepNoticeReceive m) s = .next t ∧
      t.work.steps = w.work.steps.map (fun u => if u.ring = y.ring ∧ u.order = y.order then { y with notices := y.notices ++
        [(o, le m 14 2 + 2 ^ 16 * le m 12 2, le m 16 4, le m 20 4, le m 24 4)] } else u) ∧
      t.rings = w.rings ∧ t.tables = w.tables ∧ t.mem = w.mem) ∧
  (∀ m s w, s.arrival 2 (le m 28 2 % 2 ^ 15) m = (true, w) →
    w.work.steps.find? (fun u => u.table = le m 0 4 && u.num = le m 4 8 && u.admitAt + 3 = w.stride) = none →
    exec (.stepNoticeReceive m) s = .next w.lateReply) ∧
  (∀ id s y, id < 2 ^ 32 → s.running = true → s.clk.window = 2 →
    s.work.steps.filter (fun u => u.table = id && u.admitAt + 3 = s.stride) = [y] →
    exec (.stepNoticeDeadline id) s = .next (s.finishStep y true)) ∧
  (∀ (s : State) (y : StepEntry) missing r, s.ring? y.ring = some r → r.lost = false → ∃ status flags,
    (s.finishStep y missing).ring? y.ring = some { r with
      reserved := r.reserved - 1
      written := r.written ++ [(s.stride, y.admitAt, y.order, stepCompletion y status flags)] } ∧
    (y.status ≠ stOk → status = y.status ∧ bitOf flags 0 = true) ∧
    (y.status = stOk → missing = true → status = stTargetLost ∧ bitOf flags 2 = true) ∧
    (s.finishStep y missing).work.steps = s.work.steps.filter fun u => !(u.ring = y.ring && u.order = y.order)) ∧
  (∀ id row a b s x y, id < 2 ^ 32 → SMap.find? s.tables id = some x → s.working = true →
    x.steps.find? (fun u => u.admitAt + 4 = s.stride && (u.poisoned.contains row != u.peerPoisoned.contains row)) = some y →
    row ∈ y.poisoned → (exec (.stepPoisonRepair id row a b) s = .next (s.repairRow id row y.num a b) ∧
    ∃ z, SMap.find? (s.repairRow id row y.num a b).tables id = some z ∧
      z.dirty = x.dirty.map (fun d => if d.id = row then { d with
        row := fit d.row.length a, state := fit d.state.length b, poisoned := false } else d) ∧
      ∀ u ∈ z.steps, u.num = y.num → row ∉ u.poisoned)) ∧
  (∀ id row a b s x y r d, id < 2 ^ 32 → SMap.find? s.tables id = some x → s.working = true →
    x.steps.find? (fun u => u.admitAt + 4 = s.stride && (u.poisoned.contains row != u.peerPoisoned.contains row)) = some y →
    row ∉ y.poisoned → x.liveRow row = some r → s.gaitNow.1.freeClassOf x.context 7 = some d → s.classRoom d = true →
    exec (.stepPoisonRepair id row a b) s = .next ((s.admitTo d).send 1 s.partner (stepHead markRepair id y.num ++ toLe 8 row ++ r.row ++ r.state)))
end

