-- ==== Sys2Proof/Laws/Map.lean ====
section
/-! SUPPORT. Laws of the sorted maps and of HBM bytes: a read after a write to the same key gives what was written, a write
leaves every other key alone, and every operation keeps the canonical form. -/

namespace Sys2Proof.Machine

/-! ## Folds -/

/-- What every turn of a fold keeps, the fold keeps. -/
theorem foldl_keeps {σ β γ : Type} (view : σ → γ) {f : σ → β → σ} (h : ∀ s a, view (f s a) = view s) (l : List β) (s : σ) :
    view (l.foldl f s) = view s :=
  List.foldlRecOn (motive := fun t => view t = view s) l f rfl fun t ht a _ => (h t a).trans ht

/-- What holds before a fold and after each turn holds after it. -/
theorem foldl_holds {σ β : Type} {P : σ → Prop} {f : σ → β → σ} (h : ∀ s a, P s → P (f s a)) (l : List β) {s : σ} (hs : P s) :
    P (l.foldl f s) := List.foldlRecOn (motive := P) l f hs fun t ht a _ => h t a ht

/-! ## Maps -/

/-- What a set map lists under any key. -/
theorem SMap.find?_set {α : Type} (m : SMap α) (k : Nat) (v : α) (j : Nat) :
    SMap.find? (SMap.set m k v) j = if j = k then some v else SMap.find? m j := by
  fun_induction SMap.set m k v <;> grind [SMap.find?]

@[simp] theorem SMap.find?_set_self {α : Type} (m : SMap α) (k : Nat) (v : α) : SMap.find? (SMap.set m k v) k = some v := by
  simp [SMap.find?_set]

theorem SMap.find?_set_ne {α : Type} (m : SMap α) {k j : Nat} (v : α) (h : j ≠ k) :
    SMap.find? (SMap.set m k v) j = SMap.find? m j := by simp [SMap.find?_set, h]

theorem SMap.find?_erase_ne {α : Type} (m : SMap α) {k j : Nat} (h : j ≠ k) :
    SMap.find? (SMap.erase m k) j = SMap.find? m j := by
  fun_induction SMap.erase m k <;> grind [SMap.find?]

/-- A lower bound may be lowered. -/
theorem SMap.risesFrom_mono {α : Type} {m : SMap α} {b c : Nat} (hb : c ≤ b) (h : SMap.risesFrom b m = true) :
    SMap.risesFrom c m = true := by
  cases m <;> grind [SMap.risesFrom]

theorem SMap.risesFrom_tail {α : Type} {m : SMap α} {b i : Nat} (hb : b ≤ i) (h : SMap.risesFrom (i + 1) m = true) :
    SMap.risesFrom b m = true := SMap.risesFrom_mono (Nat.le_succ_of_le hb) h

/-- Below the bound nothing is listed. -/
theorem SMap.find?_below {α : Type} {m : SMap α} {b k : Nat} (h : SMap.risesFrom b m = true) (hk : k < b) :
    SMap.find? m k = none := by
  fun_induction SMap.find? m k generalizing b <;> grind [SMap.risesFrom]

theorem SMap.risesFrom_set {α : Type} {m : SMap α} {b k : Nat} (v : α) (h : SMap.risesFrom b m = true) (hk : b ≤ k) :
    SMap.risesFrom b (SMap.set m k v) = true := by
  fun_induction SMap.set m k v generalizing b <;> grind [SMap.risesFrom]

/-- Setting a key keeps the canonical form. -/
theorem SMap.wf_set {α : Type} {m : SMap α} (k : Nat) (v : α) (h : SMap.wf m = true) : SMap.wf (SMap.set m k v) = true :=
  SMap.risesFrom_set v h k.zero_le

theorem SMap.risesFrom_erase {α : Type} {m : SMap α} {b : Nat} (k : Nat) (h : SMap.risesFrom b m = true) :
    SMap.risesFrom b (SMap.erase m k) = true := by
  fun_induction SMap.erase m k generalizing b <;> grind [SMap.risesFrom, SMap.risesFrom_tail]

/-- Erasing a key keeps the canonical form. -/
theorem SMap.wf_erase {α : Type} {m : SMap α} (k : Nat) (h : SMap.wf m = true) : SMap.wf (SMap.erase m k) = true :=
  SMap.risesFrom_erase k h

theorem SMap.find?_erase_of {α : Type} {m : SMap α} {b : Nat} (k : Nat) (h : SMap.risesFrom b m = true) :
    SMap.find? (SMap.erase m k) k = none := by
  fun_induction SMap.erase m k generalizing b <;> grind [SMap.risesFrom, SMap.find?, SMap.find?_below]

/-- An erased key of a canonical map is not listed. -/
theorem SMap.find?_erase_self {α : Type} {m : SMap α} (k : Nat) (h : SMap.wf m = true) :
    SMap.find? (SMap.erase m k) k = none := SMap.find?_erase_of k h

theorem SMap.risesFrom_filter {α : Type} {m : SMap α} {b : Nat} (g : Nat × α → Bool) (h : SMap.risesFrom b m = true) :
    SMap.risesFrom b (m.filter g) = true := by
  fun_induction SMap.risesFrom b m <;> grind [SMap.risesFrom, SMap.risesFrom_tail]

/-- Leaving keys out keeps the canonical form. -/
theorem SMap.wf_filter {α : Type} {m : SMap α} (g : Nat × α → Bool) (h : SMap.wf m = true) :
    SMap.wf (m.filter g) = true := SMap.risesFrom_filter g h

theorem SMap.find?_update_self {α : Type} (m : SMap α) (k : Nat) (g : α → α) :
    SMap.find? (SMap.update m k g) k = (SMap.find? m k).map g := by
  grind [SMap.update, SMap.find?_set]

theorem SMap.find?_update_ne {α : Type} (m : SMap α) {k j : Nat} (g : α → α) (h : j ≠ k) :
    SMap.find? (SMap.update m k g) j = SMap.find? m j := by
  grind [SMap.update, SMap.find?_set]

@[simp] theorem SMap.getD_set_self {α : Type} (m : SMap α) (k : Nat) (v d : α) : SMap.getD (SMap.set m k v) k d = v := by
  simp [SMap.getD]

theorem SMap.getD_set_ne {α : Type} (m : SMap α) {k j : Nat} (v d : α) (h : j ≠ k) :
    SMap.getD (SMap.set m k v) j d = SMap.getD m j d := by
  simp [SMap.getD, SMap.find?_set_ne m v h]

@[simp] theorem SMap.getD_alter_self {α : Type} (m : SMap α) (k : Nat) (d : α) (g : α → α) :
    SMap.getD (SMap.alter m k d g) k d = g (SMap.getD m k d) := by
  simp [SMap.alter]

theorem SMap.getD_alter_ne {α : Type} (m : SMap α) {k j : Nat} (d : α) (g : α → α) (h : j ≠ k) :
    SMap.getD (SMap.alter m k d g) j d = SMap.getD m j d := by
  simp [SMap.alter, SMap.getD_set_ne m _ d h]

/-! ## Bytes of HBM -/

/-- An entry of a set map is the new one or was there. -/
theorem SMap.mem_set {α : Type} {m : SMap α} {k : Nat} {v : α} {e : Nat × α} (h : e ∈ SMap.set m k v) :
    e = (k, v) ∨ e ∈ m := by
  fun_induction SMap.set m k v <;> grind

/-- An entry left after an erasure was there. -/
theorem SMap.mem_erase {α : Type} {m : SMap α} {k : Nat} {e : Nat × α} (h : e ∈ SMap.erase m k) : e ∈ m := by
  fun_induction SMap.erase m k <;> grind

/-- Writing a byte keeps the canonical form. -/
theorem writeByte_wf {m : List Host.Cell} (h : cellsWf m = true) (a : Nat) (v : Byte) : cellsWf (writeByte m a v) = true := by
  simp only [cellsWf, Bool.and_eq_true, List.all_eq_true] at h ⊢
  by_cases hv : v = memDefault
  · rw [writeByte, if_pos hv]
    exact ⟨SMap.wf_erase a h.1, fun e he => h.2 e (SMap.mem_erase he)⟩
  · rw [writeByte, if_neg hv]
    refine ⟨SMap.wf_set a v h.1, fun e he => ?_⟩
    obtain rfl | he := SMap.mem_set he
    · simpa using hv
    · exact h.2 e he

/-- Writing bytes keeps the canonical form. -/
theorem writeBytes_wf {m : List Host.Cell} (h : cellsWf m = true) (a : Nat) (b : Bytes) : cellsWf (writeBytes m a b) = true := by
  fun_induction writeBytes m a b <;> grind [writeByte_wf]

/-- Leaving bytes out keeps the canonical form. -/
theorem cellsWf_filter {m : List Host.Cell} (h : cellsWf m = true) (g : Host.Cell → Bool) : cellsWf (m.filter g) = true := by
  simp only [cellsWf, Bool.and_eq_true, List.all_eq_true] at h ⊢
  exact ⟨SMap.wf_filter g h.1, fun e he => h.2 e (List.mem_filter.1 he).1⟩

/-- A byte just written reads back. -/
theorem readByte_writeByte_self {m : List Host.Cell} (h : cellsWf m = true) (a : Nat) (v : Byte) :
    readByte (writeByte m a v) a = v := by
  simp only [cellsWf, Bool.and_eq_true] at h
  grind [writeByte, readByte, SMap.getD, SMap.find?_erase_self, SMap.find?_set]

/-- A written byte leaves every other alone. -/
theorem readByte_writeByte_ne (m : List Host.Cell) {a c : Nat} (v : Byte) (h : c ≠ a) :
    readByte (writeByte m a v) c = readByte m c := by
  grind [writeByte, readByte, SMap.getD, SMap.find?_erase_ne, SMap.find?_set]

/-- Written bytes leave every byte outside them alone. -/
theorem readByte_writeBytes_outside (m : List Host.Cell) (a : Nat) (b : Bytes) {c : Nat} (h : c < a ∨ a + b.length ≤ c) :
    readByte (writeBytes m a b) c = readByte m c := by
  fun_induction writeBytes m a b <;> grind [readByte_writeByte_ne]

/-- Written bytes read back. -/
theorem readByte_writeBytes_inside {m : List Host.Cell} (hm : cellsWf m = true) (a : Nat) (b : Bytes) {i : Nat}
    (h : i < b.length) : readByte (writeBytes m a b) (a + i) = b.getD i 0 := by
  fun_induction writeBytes m a b generalizing i with
  | case1 => simp at h
  | case2 m a v b ih =>
    rcases i with _ | i
    · simp [readByte_writeBytes_outside, readByte_writeByte_self hm]
    · have := ih (writeByte_wf hm a v) (i := i) (by simpa using h)
      rwa [show a + 1 + i = a + (i + 1) by omega] at this

end Sys2Proof.Machine
end

