-- ==== Sys2Proof/Laws/Memory.lean ====
section
/-! SUPPORT. HBM: what each operation over the state does to the bytes of HBM. Most leave them alone (`…_bytes`); the ones
that write keep the canonical form (`…_wf`). -/

set_option maxRecDepth 4000
set_option linter.unusedSimpArgs false

namespace Sys2Proof.Machine

/-! ## Ops -/

@[simp] theorem ite_bytes {c : Prop} [Decidable c] (s t : State) :
    (if c then s else t).mem.bytes = if c then s.mem.bytes else t.mem.bytes := by split <;> rfl

@[simp] theorem foldl_bytes {α : Type} {f : State → α → State} (h : ∀ s a, (f s a).mem.bytes = s.mem.bytes)
    (l : List α) (s : State) : (l.foldl f s).mem.bytes = s.mem.bytes :=
  foldl_keeps (fun s : State => s.mem.bytes) h l s

theorem foldl_wf {α : Type} {f : State → α → State}
    (h : ∀ s a, cellsWf s.mem.bytes = true → cellsWf (f s a).mem.bytes = true) (l : List α) (s : State)
    (hs : cellsWf s.mem.bytes = true) : cellsWf (l.foldl f s).mem.bytes = true :=
  foldl_holds (P := fun s : State => cellsWf s.mem.bytes = true) h l hs

theorem foldl_fst_bytes {α β : Type} {g : State × β → α → State × β} (h : ∀ x p, (g x p).1.mem.bytes = x.1.mem.bytes)
    (l : List α) (x : State × β) : (l.foldl g x).1.mem.bytes = x.1.mem.bytes :=
  foldl_keeps (fun x : State × β => x.1.mem.bytes) h l x

theorem foldl_snd_bytes {α β : Type} {g : β × State → α → β × State} (h : ∀ x p, (g x p).2.mem.bytes = x.2.mem.bytes)
    (l : List α) (x : β × State) : (l.foldl g x).2.mem.bytes = x.2.mem.bytes :=
  foldl_keeps (fun x : β × State => x.2.mem.bytes) h l x

@[simp] theorem State.modFunc_bytes (s : State) (f : Nat) (g : FuncRegs → FuncRegs) :
    (State.modFunc s f g).mem.bytes = s.mem.bytes := by rfl

@[simp] theorem State.modMailbox_bytes (s : State) (f : Nat) (g : Mailbox → Mailbox) :
    (State.modMailbox s f g).mem.bytes = s.mem.bytes := by rfl

@[simp] theorem State.modLink_bytes (s : State) (l : Nat) (g : Link → Link) :
    (State.modLink s l g).mem.bytes = s.mem.bytes := by rfl

@[simp] theorem State.modPort_bytes (s : State) (p : Nat) (g : Port → Port) :
    (State.modPort s p g).mem.bytes = s.mem.bytes := by rfl

@[simp] theorem State.emit_bytes (s : State) (cls : Nat) (dest : Nat) (body : Bytes) (aside : Bytes) :
    (State.emit s cls dest body aside).mem.bytes = s.mem.bytes := by rfl

@[simp] theorem State.sendWith_bytes (s : State) (cls : Nat) (dest : Nat) (body : Bytes) (aside : Bytes) :
    (State.sendWith s cls dest body aside).mem.bytes = s.mem.bytes := by
  simp [State.sendWith]

@[simp] theorem State.send_bytes (s : State) (cls dest : Nat) (body : Bytes) :
    (State.send s cls dest body).mem.bytes = s.mem.bytes := by
  simp [State.send]

@[simp] theorem State.sendPort_bytes (s : State) (cls port : Nat) (body : Bytes) :
    (State.sendPort s cls port body).mem.bytes = s.mem.bytes := by rfl

@[simp] theorem State.discard_bytes (s : State) (p n : Nat) :
    (State.discard s p n).mem.bytes = s.mem.bytes := by rfl

@[simp] theorem State.scheduledLost_bytes (s : State) :
    (State.scheduledLost s).mem.bytes = s.mem.bytes := by rfl

@[simp] theorem State.lose_bytes (s : State) (cls : Nat) (body : Bytes) :
    (State.lose s cls body).mem.bytes = s.mem.bytes := by rfl

@[simp] theorem State.arrival_bytes (s : State) (cls source : Nat) (message : Bytes) :
    (s.arrival cls source message).2.mem.bytes = s.mem.bytes := by
  unfold State.arrival; simp only []
  (repeat' split) <;> simp

@[simp] theorem State.arrives_bytes {s : State} {cls source : Nat} {message : Bytes} {take : State → State}
    (h : ∀ t, (take t).mem.bytes = t.mem.bytes) : (s.arrives cls source message take).mem.bytes = s.mem.bytes := by
  unfold State.arrives; simp only []
  split <;> simp [h]

@[simp] theorem State.dma_bytes (s : State) (f address : Nat) (body : Bytes) :
    (State.dma s f address body).mem.bytes = s.mem.bytes := by
  simp [State.dma]

@[simp] theorem State.vector_bytes (s : State) (f v : Nat) :
    (State.vector s f v).mem.bytes = s.mem.bytes := by
  simp [State.vector]

@[simp] theorem State.pldm_bytes (s : State) (kind subject stride : Nat) :
    (State.pldm s kind subject stride).mem.bytes = s.mem.bytes := by
  simp [State.pldm]

@[simp] theorem State.mctpReply_bytes (s : State) (body : Bytes) :
    (State.mctpReply s body).mem.bytes = s.mem.bytes := by
  simp [State.mctpReply]

@[simp] theorem State.pcie_bytes (s : State) (f status : Nat) (data : Bytes) :
    (State.pcie s f status data).mem.bytes = s.mem.bytes := by rfl

@[simp] theorem State.cause_bytes (s : State) (f bit : Nat) :
    (State.cause s f bit).mem.bytes = s.mem.bytes := by
  simp [State.cause]

@[simp] theorem State.pfCause_bytes (s : State) (bit : Nat) :
    (State.pfCause s bit).mem.bytes = s.mem.bytes := by
  simp [State.pfCause]

@[simp] theorem State.schedule_bytes (s : State) (c : Change) :
    (State.schedule s c).mem.bytes = s.mem.bytes := by rfl

@[simp] theorem State.reply_bytes (s : State) (q : Request) (status stamp : Nat) (payload : Bytes) :
    (State.reply s q status stamp payload).mem.bytes = s.mem.bytes := by
  simp [State.reply]

@[simp] theorem State.note_bytes (s : State) (f opcode context tag status stamp : Nat) (payload : Bytes) :
    (State.note s f opcode context tag status stamp payload).mem.bytes = s.mem.bytes := by
  simp [State.note]

@[simp] theorem State.noteNode_bytes (s : State) (opcode status stamp : Nat) (payload : Bytes) :
    (State.noteNode s opcode status stamp payload).mem.bytes = s.mem.bytes := by
  simp [State.noteNode]

@[simp] theorem State.noteFailed_bytes (s : State) (q : Request) (status stamp : Nat) :
    (State.noteFailed s q status stamp).mem.bytes = s.mem.bytes := by
  simp [State.noteFailed]

theorem State.hbmWrite_bytes (s : State) (a : Nat) (b : Bytes) :
    (s.hbmWrite a b).mem.bytes = writeBytes s.mem.bytes a b := rfl

theorem State.hbmWrite_wf {s : State} (h : cellsWf s.mem.bytes = true) (a : Nat) (b : Bytes) :
    cellsWf (s.hbmWrite a b).mem.bytes = true := writeBytes_wf h a b

@[simp] theorem State.draw_bytes (s : State) :
    (State.draw s).mem.bytes = s.mem.bytes := by rfl

@[simp] theorem State.drawN_bytes (s : State) (n : Nat) :
    (State.drawN s n).mem.bytes = s.mem.bytes := by rfl

@[simp] theorem State.count_bytes (s : State) (g : NodeCounters → NodeCounters) :
    (State.count s g).mem.bytes = s.mem.bytes := by rfl

@[simp] theorem State.countStops_bytes (s : State) (n : Nat) :
    (State.countStops s n).mem.bytes = s.mem.bytes := by
  simp [State.countStops]

@[simp] theorem State.ctxCount_bytes (s : State) (context : Nat) (g : ContextCounters → ContextCounters) :
    (State.ctxCount s context g).mem.bytes = s.mem.bytes := by rfl

@[simp] theorem State.scheduledDrop_bytes (s : State) :
    (State.scheduledDrop s).mem.bytes = s.mem.bytes := by rfl

@[simp] theorem State.tagFault_bytes (s : State) (context : Nat) :
    (State.tagFault s context).mem.bytes = s.mem.bytes := by rfl

@[simp] theorem State.takeTag_bytes (s : State) (t : Nat) :
    (State.takeTag s t).mem.bytes = s.mem.bytes := by rfl

@[simp] theorem State.dropTag_bytes (s : State) (t : Nat) :
    (State.dropTag s t).mem.bytes = s.mem.bytes := by rfl

/-! ## Arbiter -/

@[simp] theorem State.modArbiter_bytes (s : State) (n : Nat) (g : Arbiter → Arbiter) :
    (State.modArbiter s n g).mem.bytes = s.mem.bytes := by rfl

@[simp] theorem State.closeFrame_bytes (s : State) (port : Nat) :
    (State.closeFrame s port).mem.bytes = s.mem.bytes := by
  simp [State.closeFrame]

@[simp] theorem State.egress_bytes (s : State) (port : Nat) (requests : BitVec 8) (blocked : BitVec 8) (tenure : Nat) (waited : List Nat) (cycle : Nat) :
    (State.egress s port requests blocked tenure waited cycle).mem.bytes = s.mem.bytes := by
  simp [State.egress]

@[simp] theorem arbiterDecisionEff_bytes (n : Nat) (requests : BitVec 8) (blocked : BitVec 8) (tenure : Nat) (waited : List Nat) (cycle : Nat) (s : State) :
    (arbiterDecisionEff n requests blocked tenure waited cycle s).mem.bytes = s.mem.bytes := by
  simp [arbiterDecisionEff]

/-! ## Operands -/

@[simp] theorem State.flush_bytes (s : State) (f : Nat) :
    (State.flush s f).mem.bytes = s.mem.bytes := by rfl

@[simp] theorem State.popRequest_bytes (s : State) (f : Nat) :
    (State.popRequest s f).mem.bytes = s.mem.bytes := by rfl

@[simp] theorem State.turnAway_bytes (s : State) (f : Nat) (opcode : Nat) :
    (State.turnAway s f opcode).mem.bytes = s.mem.bytes := by
  unfold State.turnAway; (repeat' split) <;> simp

theorem State.serve_bytes {s : State} {f op : Nat} {act : State → Request → State × Option (Nat × Nat × Bytes)}
    (h : ∀ t q, (act t q).1.mem.bytes = t.mem.bytes) : (s.serve f op act).mem.bytes = s.mem.bytes := by
  unfold State.serve
  split
  · exact State.turnAway_bytes ..
  · simp only []
    split <;> simp [h]

@[simp] theorem refuse_bytes (s : State) (status : Nat) (payload : optParam Bytes []) :
    (refuse s status payload).1.mem.bytes = s.mem.bytes := by rfl

@[simp] theorem accept_bytes (s : State) (c : Change) (payload : optParam Bytes []) :
    (accept s c payload).1.mem.bytes = s.mem.bytes := by rfl

@[simp] theorem report_bytes (s : State) (payload : Bytes) :
    (report s payload).1.mem.bytes = s.mem.bytes := by rfl

@[simp] theorem defer_bytes (s : State) (e : Event) (q : Request) (adopted : Nat) :
    (defer s e q adopted).mem.bytes = s.mem.bytes := by rfl

@[simp] theorem State.happened_bytes (s : State) (e : Event) (status : Nat) (stamp : Option Nat) (p : Bytes) :
    (State.happened s e status stamp p).mem.bytes = s.mem.bytes := by
  simp [State.happened]

/-! ## Mailbox -/

@[simp] theorem mbSubmitEff_bytes (f : Nat) (s : State) :
    (mbSubmitEff f s).mem.bytes = s.mem.bytes := by
  simp [mbSubmitEff]

@[simp] theorem requestTakeEff_bytes (f : Nat) (fetched : Bytes) (s : State) :
    (requestTakeEff f fetched s).mem.bytes = s.mem.bytes := by
  simp [requestTakeEff]

@[simp] theorem mbReplyAckEff_bytes (f : Nat) (s : State) :
    (mbReplyAckEff f s).mem.bytes = s.mem.bytes := by
  simp [mbReplyAckEff]

@[simp] theorem replyPostEff_bytes (f : Nat) (s : State) :
    (replyPostEff f s).mem.bytes = s.mem.bytes := by
  unfold replyPostEff; simp only []; (repeat' split) <;> simp

@[simp] theorem noteHeadWriteEff_bytes (f : Nat) (value : Word32) (s : State) :
    (noteHeadWriteEff f value s).mem.bytes = s.mem.bytes := by
  simp [noteHeadWriteEff]

@[simp] theorem notificationPostEff_bytes (f : Nat) (s : State) :
    (notificationPostEff f s).mem.bytes = s.mem.bytes := by
  unfold notificationPostEff; simp only []; (repeat' split) <;> simp

/-! ## Registers -/

@[simp] theorem intCauseClearEff_bytes (f : Nat) (value reassert : Word32) (s : State) :
    (intCauseClearEff f value reassert s).mem.bytes = s.mem.bytes := by
  simp [intCauseClearEff]

@[simp] theorem intMaskWriteEff_bytes (f : Nat) (value : Word32) (s : State) :
    (intMaskWriteEff f value s).mem.bytes = s.mem.bytes := by
  simp [intMaskWriteEff]

@[simp] theorem dbFaultClearEff_bytes (f : Nat) (value : Word32) (reassert : Word32) (s : State) :
    (dbFaultClearEff f value reassert s).mem.bytes = s.mem.bytes := by
  simp [dbFaultClearEff]

@[simp] theorem bar2ErrClearEff_bytes (f : Nat) (value : Word32) (reassert : Word32) (s : State) :
    (bar2ErrClearEff f value reassert s).mem.bytes = s.mem.bytes := by
  simp [bar2ErrClearEff]

@[simp] theorem arbFlagsClearEff_bytes (f : Nat) (n : Nat) (value : Word32) (reassert : Word32) (s : State) :
    (arbFlagsClearEff f n value reassert s).mem.bytes = s.mem.bytes := by
  simp [arbFlagsClearEff]

@[simp] theorem strideLoReadEff_bytes (f : Nat) (s : State) :
    (strideLoReadEff f s).mem.bytes = s.mem.bytes := by
  simp [strideLoReadEff]

@[simp] theorem State.modBell_bytes (s : State) (b : Doorbell) (g : Ring → Ring) :
    (State.modBell s b g).mem.bytes = s.mem.bytes := by
  unfold State.modBell; split <;> simp

@[simp] theorem State.doorbellFault_bytes (s : State) (f : Nat) (b : Doorbell) (reason : Nat) :
    (State.doorbellFault s f b reason).mem.bytes = s.mem.bytes := by
  simp [State.doorbellFault]

@[simp] theorem State.doorbell_bytes (s : State) (f : Nat) (b : Doorbell) (fault : Ring → Nat) (g : Ring → Ring) :
    (State.doorbell s f b fault g).mem.bytes = s.mem.bytes := by
  unfold State.doorbell; (repeat' split) <;> simp

@[simp] theorem subTailWriteEff_bytes (f : Nat) (b : Doorbell) (value : Word32) (s : State) :
    (subTailWriteEff f b value s).mem.bytes = s.mem.bytes := by
  simp [subTailWriteEff]

@[simp] theorem cplHeadWriteEff_bytes (f : Nat) (b : Doorbell) (value : Word32) (s : State) :
    (cplHeadWriteEff f b value s).mem.bytes = s.mem.bytes := by
  simp [cplHeadWriteEff]

@[simp] theorem msixVectorUnmaskEff_bytes (f v : Nat) (s : State) :
    (msixVectorUnmaskEff f v s).mem.bytes = s.mem.bytes := by
  simp [msixVectorUnmaskEff]

@[simp] theorem msixVectorMask_bytes (f : Nat) (v : Nat) (s : State) :
    (msixVectorMask f v s).mem.bytes = s.mem.bytes := by rfl

/-! ## Gait -/

@[simp] theorem State.needs_bytes (s : State) (word : Nat) (a : Nat) (k : Nat) (due : Nat) (t : Nat) (cost : Nat) :
    (State.needs s word a k due t cost).mem.bytes = s.mem.bytes := by
  simp [State.needs]

@[simp] theorem State.takeShare_bytes (s : State) (a : Nat) (k : Nat) (handles : Nat) (need : Nat) :
    (State.takeShare s a k handles need).mem.bytes = s.mem.bytes := by rfl

@[simp] theorem State.admitTo_bytes (s : State) (k : Nat) :
    (State.admitTo s k).mem.bytes = s.mem.bytes := by rfl

/-! ## Bar2 -/

@[simp] theorem State.issueOp_bytes (s : State) (cls context : Nat) (func : Option Nat) (address op size a b : Nat) :
    (s.issueOp cls context func address op size a b).1.mem.bytes = s.mem.bytes := by
  unfold State.issueOp
  simp only []
  repeat' split
  all_goals simp

@[simp] theorem State.bar2Latch_bytes (s : State) (f : Nat) (status : Nat) (aperture : Nat) (write : Bool) (address : Nat) :
    (State.bar2Latch s f status aperture write address).mem.bytes = s.mem.bytes := by
  simp [State.bar2Latch]

@[simp] theorem State.bar2Fail_bytes (s : State) (f status aperture : Nat) (write : Bool) (address : Nat) :
    (State.bar2Fail s f status aperture write address).mem.bytes = s.mem.bytes := by
  simp [State.bar2Fail]

@[simp] theorem State.bar2Complete_bytes (s : State) (q : Bar2Request) :
    (State.bar2Complete s q).mem.bytes = s.mem.bytes := by
  unfold State.bar2Complete; (repeat' split) <;> simp

@[simp] theorem State.bar2Start_bytes (s : State) (f kind address : Nat) (ap : Aperture) (pieces : List (Nat × Nat))
    (op : Nat → Nat → Nat ⊕ (Nat × Nat × Nat)) : (s.bar2Start f kind address ap pieces op).mem.bytes = s.mem.bytes := by
  unfold State.bar2Start
  simp only []
  have key : ∀ (r : State × Bar2Request), r.1.mem.bytes = s.mem.bytes →
      (if r.2.finished = true then r.1.bar2Complete r.2
        else { r.1 with fab := { r.1.fab with requests := r.1.fab.requests ++ [r.2] } }).mem.bytes = s.mem.bytes := by
    intro r hr
    split <;> simp [hr]
  refine key _ ?_
  rw [foldl_fst_bytes]
  intro x p
  split
  · simp
  · split
    · next heq2 =>
      have := congrArg (fun x : State × (Nat ⊕ Nat) => x.1.mem.bytes) heq2
      simpa using this.symm
    · next heq2 =>
      have := congrArg (fun x : State × (Nat ⊕ Nat) => x.1.mem.bytes) heq2
      simpa using this.symm

@[simp] theorem State.bar2Invalid_bytes (s : State) (f kind address : Nat) :
    (State.bar2Invalid s f kind address).mem.bytes = s.mem.bytes := by
  simp [State.bar2Invalid]

@[simp] theorem State.bar2DoRead_bytes (s : State) (f address length : Nat) :
    (State.bar2DoRead s f address length).mem.bytes = s.mem.bytes := by
  simp [State.bar2DoRead]

@[simp] theorem State.bar2DoWrite_bytes (s : State) (f address : Nat) (data : Bytes) :
    (State.bar2DoWrite s f address data).mem.bytes = s.mem.bytes := by
  simp [State.bar2DoWrite]

@[simp] theorem State.bar2DoAtomic_bytes (s : State) (f address op size : Nat) (a b : Word64) :
    (State.bar2DoAtomic s f address op size a b).mem.bytes = s.mem.bytes := by
  simp [State.bar2DoAtomic]

@[simp] theorem State.bar2DoFence_bytes (s : State) (f : Nat) :
    (State.bar2DoFence s f).mem.bytes = s.mem.bytes := by rfl

@[simp] theorem State.bar2Run_bytes (s : State) (i : Instr) : (s.bar2Run i).mem.bytes = s.mem.bytes := by
  unfold State.bar2Run
  split <;> simp [State.bar2DoRead, State.bar2DoWrite, State.bar2DoAtomic]

@[simp] theorem State.bar2Release_bytes (f n : Nat) (s : State) :
    (State.bar2Release f n s).mem.bytes = s.mem.bytes := by
  induction n generalizing s with
  | zero => rfl
  | succ n ih =>
    unfold State.bar2Release
    split
    · simp [ih]
    · rfl

@[simp] theorem State.bar2Take_bytes (s : State) (f : Nat) (i : Instr) :
    (State.bar2Take s f i).mem.bytes = s.mem.bytes := by
  simp [State.bar2Take]

@[simp] theorem bar2Eff_bytes (f : Nat) (i : Instr) (completes : Bool) (s : State) :
    (bar2Eff f i completes s).mem.bytes = s.mem.bytes := by
  simp [bar2Eff]

@[simp] theorem bar2AtomicEff_bytes (f : Nat) (address : Nat) (op : Nat) (size : Nat) (a : Word64) (b : Word64) (s : State) :
    (bar2AtomicEff f address op size a b s).mem.bytes = s.mem.bytes := by
  simp [bar2AtomicEff]

@[simp] theorem State.bar2Result_bytes (s : State) (f tag status result : Nat) :
    (State.bar2Result s f tag status result).mem.bytes = s.mem.bytes := by
  unfold State.bar2Result; split <;> simp

@[simp] theorem State.completeOp_bytes (s : State) (o : OutOp) (status result : Nat) :
    (State.completeOp s o status result).mem.bytes = s.mem.bytes := by
  unfold State.completeOp; split <;> simp

@[simp] theorem operationTimeoutEff_bytes (s : State) :
    (operationTimeoutEff s).mem.bytes = s.mem.bytes := by
  simp [operationTimeoutEff]

@[simp] theorem scheduledOperationIssueEff_bytes (cls : Nat) (record : Bytes) (isFence : Bool) (s : State) :
    (scheduledOperationIssueEff cls record isFence s).mem.bytes = s.mem.bytes := by
  unfold scheduledOperationIssueEff; split <;> simp

/-! ## Link -/

@[simp] theorem State.detach_bytes (s : State) (f : Nat) :
    (State.detach s f).mem.bytes = s.mem.bytes := by rfl

@[simp] theorem State.attach_bytes (s : State) (f : Nat) :
    (State.attach s f).mem.bytes = s.mem.bytes := by
  simp [State.attach]

@[simp] theorem State.detachAll_bytes (s : State) (fs : List Nat) :
    (State.detachAll s fs).mem.bytes = s.mem.bytes := by
  simp [State.detachAll]

@[simp] theorem State.peerLink_bytes (s : State) (link : Nat) :
    (State.peerLink s link).mem.bytes = s.mem.bytes := by
  simp [State.peerLink]

@[simp] theorem linkUpEff_bytes (link : Nat) (rates : BitVec 6) (s : State) :
    (linkUpEff link rates s).mem.bytes = s.mem.bytes := by
  simp [linkUpEff]

@[simp] theorem linkDownEff_bytes (link : Nat) (s : State) :
    (linkDownEff link s).mem.bytes = s.mem.bytes := by
  simp [linkDownEff]

@[simp] theorem functionLevelResetEff_bytes (f : Nat) (s : State) :
    (functionLevelResetEff f s).mem.bytes = s.mem.bytes := by
  simp [functionLevelResetEff]

@[simp] theorem vfRemovalEff_bytes (link n : Nat) (s : State) :
    (vfRemovalEff link n s).mem.bytes = s.mem.bytes := by
  simp [vfRemovalEff]

@[simp] theorem busMasterEnableWriteEff_bytes (f : Nat) (enable : Bool) (s : State) :
    (busMasterEnableWriteEff f enable s).mem.bytes = s.mem.bytes := by
  simp [busMasterEnableWriteEff]

/-! ## Rings -/

@[simp] theorem State.modRing_bytes (s : State) (id : Nat) (g : Ring → Ring) :
    (State.modRing s id g).mem.bytes = s.mem.bytes := by rfl

@[simp] theorem State.modQueue_bytes (s : State) (id : Nat) (g : Ring → Ring) :
    (State.modQueue s id g).mem.bytes = s.mem.bytes := by rfl

theorem State.admitRing_bytes {s : State} {id kind : Nat} {entry : Bytes} {act : State → Admission → State}
    (h : ∀ t a, (act t a).mem.bytes = t.mem.bytes) : (s.admitRing id kind entry act).mem.bytes = s.mem.bytes := by
  unfold State.admitRing
  repeat' split
  all_goals simp [h]

@[simp] theorem State.dropCompletions_bytes (s : State) (n : Nat) :
    (State.dropCompletions s n).mem.bytes = s.mem.bytes := by rfl

@[simp] theorem State.complete_bytes (s : State) (id admitAt order : Nat) (entry : Bytes) :
    (State.complete s id admitAt order entry).mem.bytes = s.mem.bytes := by rfl

@[simp] theorem State.completeQueue_bytes (s : State) (id admitAt order : Nat) (entry : Bytes) :
    (State.completeQueue s id admitAt order entry).mem.bytes = s.mem.bytes := by rfl

@[simp] theorem State.putCompletions_bytes (s : State) (r : Ring) (i : Nat) (l : List (Nat × Nat × Nat × Bytes)) :
    (s.putCompletions r i l).mem.bytes = s.mem.bytes := by
  induction l generalizing s i with
  | nil => rfl
  | cons x l ih => obtain ⟨_, _, _, e⟩ := x; simp [State.putCompletions, ih]

theorem State.place_bytes {s : State} {n : Nat} {r : Ring} {store : State → (Ring → Ring) → State}
    (h : ∀ t g, (store t g).mem.bytes = t.mem.bytes) : (s.place n r store).mem.bytes = s.mem.bytes := by
  unfold State.place; simp only []
  split
  · rfl
  · rw [h]; simp

@[simp] theorem State.placeAll_bytes (s : State) (n : Nat) : (s.placeAll n).mem.bytes = s.mem.bytes := by
  unfold State.placeAll; simp only []
  rw [foldl_bytes fun t a => State.place_bytes (by simp), foldl_bytes fun t a => State.place_bytes (by simp)]

theorem State.publish_bytes {s : State} {r : Ring} {store : State → (Ring → Ring) → State}
    (h : ∀ t g, (store t g).mem.bytes = t.mem.bytes) : (s.publish r store).mem.bytes = s.mem.bytes := by
  unfold State.publish; simp only []
  split
  · rfl
  · simp [h]

@[simp] theorem State.ringDrained_bytes (s : State) (id : Nat) :
    (State.ringDrained s id).mem.bytes = s.mem.bytes := by
  unfold State.ringDrained; split <;> simp

@[simp] theorem State.sendVectors_bytes (s : State) (l : List (Nat × Nat)) :
    (State.sendVectors s l).mem.bytes = s.mem.bytes := by
  simp [State.sendVectors]

@[simp] theorem State.publishAll_bytes (s : State) : s.publishAll.mem.bytes = s.mem.bytes := by
  unfold State.publishAll; simp only []
  rw [foldl_bytes (State.ringDrained_bytes ·)]
  simp only [State.sendVectors_bytes]
  rw [foldl_bytes fun t a => State.publish_bytes (by simp), foldl_bytes fun t a => State.publish_bytes (by simp)]
  simp

@[simp] theorem State.modIndex_bytes (s : State) (id : Nat) (g : Index → Index) :
    (State.modIndex s id g).mem.bytes = s.mem.bytes := by rfl

@[simp] theorem State.modTable_bytes (s : State) (id : Nat) (g : Table → Table) :
    (State.modTable s id g).mem.bytes = s.mem.bytes := by rfl

@[simp] theorem State.modResidency_bytes (s : State) (id : Nat) (g : Residency → Residency) :
    (State.modResidency s id g).mem.bytes = s.mem.bytes := by
  simp [State.modResidency]

/-! ## Context -/

@[simp] theorem State.shrinkHbm_bytes (s : State) (context keep : Nat) :
    (State.shrinkHbm s context keep).mem.bytes = s.mem.bytes := by rfl

@[simp] theorem State.shrinkDdr_bytes (s : State) (context keep : Nat) :
    (State.shrinkDdr s context keep).mem.bytes = s.mem.bytes := by rfl

@[simp] theorem State.grantOwn_bytes (s : State) :
    (State.grantOwn s).mem.bytes = s.mem.bytes := by rfl

@[simp] theorem State.adoptReservation_bytes (s : State) (context : Nat) (r : Reservation) :
    (State.adoptReservation s context r).mem.bytes = s.mem.bytes := by
  simp [State.adoptReservation]

@[simp] theorem contextCreateEff_bytes (f : Nat) (s : State) :
    (contextCreateEff f s).mem.bytes = s.mem.bytes := by
  unfold contextCreateEff; apply State.serve_bytes; intro t q; simp only [refuse, accept, report]; (repeat' split) <;> simp

@[simp] theorem contextCloseEff_bytes (f : Nat) (s : State) :
    (contextCloseEff f s).mem.bytes = s.mem.bytes := by
  unfold contextCloseEff; apply State.serve_bytes; intro t q; simp only [refuse, accept, report]; (repeat' split) <;> simp

@[simp] theorem contextReserveEff_bytes (f : Nat) (s : State) :
    (contextReserveEff f s).mem.bytes = s.mem.bytes := by
  unfold contextReserveEff; apply State.serve_bytes; intro t q; simp only [refuse, accept, report]; (repeat' split) <;> simp

@[simp] theorem contextStatusEff_bytes (f : Nat) (s : State) :
    (contextStatusEff f s).mem.bytes = s.mem.bytes := by
  unfold contextStatusEff; apply State.serve_bytes; intro t q; simp only [refuse, accept, report]; (repeat' split) <;> simp

@[simp] theorem ringOpenEff_bytes (f : Nat) (s : State) :
    (ringOpenEff f s).mem.bytes = s.mem.bytes := by
  unfold ringOpenEff; apply State.serve_bytes; intro t q; simp only [refuse, accept, report]; (repeat' split) <;> simp

@[simp] theorem ringCloseEff_bytes (f : Nat) (s : State) :
    (ringCloseEff f s).mem.bytes = s.mem.bytes := by
  unfold ringCloseEff; apply State.serve_bytes; intro t q; simp only [refuse, accept, report]; (repeat' split) <;> simp

@[simp] theorem residencySetEff_bytes (f : Nat) (s : State) :
    (residencySetEff f s).mem.bytes = s.mem.bytes := by
  unfold residencySetEff; apply State.serve_bytes; intro t q; simp only [refuse, accept, report]; (repeat' split) <;> simp

@[simp] theorem residencyPinEff_bytes (f : Nat) (s : State) :
    (residencyPinEff f s).mem.bytes = s.mem.bytes := by
  unfold residencyPinEff; apply State.serve_bytes; intro t q; simp only [refuse, accept, report]; (repeat' split) <;> simp

@[simp] theorem residencyReplicateEff_bytes (f : Nat) (s : State) :
    (residencyReplicateEff f s).mem.bytes = s.mem.bytes := by
  unfold residencyReplicateEff; apply State.serve_bytes; intro t q; simp only [refuse, accept, report]; (repeat' split) <;> simp

/-! ## IndexMsg -/

@[simp] theorem indexCreateEff_bytes (f : Nat) (s : State) :
    (indexCreateEff f s).mem.bytes = s.mem.bytes := by
  unfold indexCreateEff; apply State.serve_bytes; intro t q; simp only [refuse, accept, report]; (repeat' split) <;> simp

@[simp] theorem indexCloseEff_bytes (f : Nat) (s : State) :
    (indexCloseEff f s).mem.bytes = s.mem.bytes := by
  unfold indexCloseEff; apply State.serve_bytes; intro t q; simp only [refuse, accept, report]; (repeat' split) <;> simp

@[simp] theorem indexBuildEff_bytes (f : Nat) (s : State) :
    (indexBuildEff f s).mem.bytes = s.mem.bytes := by
  unfold indexBuildEff; apply State.serve_bytes; intro t q; simp only [refuse, accept, report]; (repeat' split) <;> simp

@[simp] theorem indexCompactEff_bytes (f : Nat) (s : State) :
    (indexCompactEff f s).mem.bytes = s.mem.bytes := by
  unfold indexCompactEff; apply State.serve_bytes; intro t q; simp only [refuse, accept, report]; (repeat' split) <;> simp

@[simp] theorem indexSwitchEff_bytes (f : Nat) (s : State) :
    (indexSwitchEff f s).mem.bytes = s.mem.bytes := by
  unfold indexSwitchEff; apply State.serve_bytes; intro t q; simp only [refuse, accept, report]; (repeat' split) <;> simp

@[simp] theorem indexReleaseEff_bytes (f : Nat) (s : State) :
    (indexReleaseEff f s).mem.bytes = s.mem.bytes := by
  unfold indexReleaseEff; apply State.serve_bytes; intro t q; simp only [refuse, accept, report]; (repeat' split) <;> simp

@[simp] theorem indexStatusEff_bytes (f : Nat) (s : State) :
    (indexStatusEff f s).mem.bytes = s.mem.bytes := by
  unfold indexStatusEff; apply State.serve_bytes; intro t q; simp only [refuse, accept, report]; (repeat' split) <;> simp

@[simp] theorem tableCreateEff_bytes (f : Nat) (s : State) :
    (tableCreateEff f s).mem.bytes = s.mem.bytes := by
  unfold tableCreateEff; apply State.serve_bytes; intro t q; simp only [refuse, accept, report]; (repeat' split) <;> simp

@[simp] theorem tableCloseEff_bytes (f : Nat) (s : State) :
    (tableCloseEff f s).mem.bytes = s.mem.bytes := by
  unfold tableCloseEff; apply State.serve_bytes; intro t q; simp only [refuse, accept, report]; (repeat' split) <;> simp

@[simp] theorem tableBuildEff_bytes (f : Nat) (s : State) :
    (tableBuildEff f s).mem.bytes = s.mem.bytes := by
  unfold tableBuildEff; apply State.serve_bytes; intro t q; simp only [refuse, accept, report]; (repeat' split) <;> simp

@[simp] theorem tableFoldEff_bytes (f : Nat) (s : State) :
    (tableFoldEff f s).mem.bytes = s.mem.bytes := by
  unfold tableFoldEff; apply State.serve_bytes; intro t q; simp only [refuse, accept, report]; (repeat' split) <;> simp

@[simp] theorem tableSwitchEff_bytes (f : Nat) (s : State) :
    (tableSwitchEff f s).mem.bytes = s.mem.bytes := by
  unfold tableSwitchEff; apply State.serve_bytes; intro t q; simp only [refuse, accept, report]; (repeat' split) <;> simp

@[simp] theorem tableReleaseEff_bytes (f : Nat) (s : State) :
    (tableReleaseEff f s).mem.bytes = s.mem.bytes := by
  unfold tableReleaseEff; apply State.serve_bytes; intro t q; simp only [refuse, accept, report]; (repeat' split) <;> simp

@[simp] theorem tableStatusEff_bytes (f : Nat) (s : State) :
    (tableStatusEff f s).mem.bytes = s.mem.bytes := by
  unfold tableStatusEff; apply State.serve_bytes; intro t q; simp only [refuse, accept, report]; (repeat' split) <;> simp

@[simp] theorem tableRowWriteEff_bytes (f : Nat) (s : State) :
    (tableRowWriteEff f s).mem.bytes = s.mem.bytes := by
  unfold tableRowWriteEff; apply State.serve_bytes; intro t q; simp only [refuse, accept, report]; (repeat' split) <;> simp

/-! ## Flash -/

@[simp] theorem State.modChannel_bytes (s : State) (c : Nat) (g : FlashChannel → FlashChannel) :
    (State.modChannel s c g).mem.bytes = s.mem.bytes := by rfl

@[simp] theorem State.modPaddock_bytes (s : State) (p : Nat) (g : Paddock → Paddock) :
    (State.modPaddock s p g).mem.bytes = s.mem.bytes := by rfl

@[simp] theorem State.wait_bytes (s : State) (c : Nat) (o : ArrayOp) :
    (State.wait s c o).mem.bytes = s.mem.bytes := by rfl

@[simp] theorem State.chargeFlash_bytes (s : State) :
    (State.chargeFlash s).mem.bytes = s.mem.bytes := by rfl

@[simp] theorem State.issue_bytes (s : State) (ch : Nat) (o : ArrayOp) :
    (State.issue s ch o).mem.bytes = s.mem.bytes := by
  unfold State.issue; simp only []; (repeat' split) <;> simp

@[simp] theorem State.moveOut_bytes (s : State) (ch key n : Nat) (cls : Nat) (paid : Bool) :
    (State.moveOut s ch key n cls paid).mem.bytes = s.mem.bytes := by
  simp [State.moveOut]

@[simp] theorem State.collect_bytes (s : State) (ch : Nat) (pad : Nat) (cls : Nat) :
    (State.collect s ch pad cls).mem.bytes = s.mem.bytes := by
  unfold State.collect; simp only []; (repeat' split) <;> simp_all

@[simp] theorem State.writeOwn_bytes (s : State) (cls : Nat) (pages : Nat → List Nat) :
    (State.writeOwn s cls pages).mem.bytes = s.mem.bytes := by
  simp [State.writeOwn]

@[simp] theorem State.readOwn_bytes (s : State) (object : Nat) (version : Nat) (reads : List FlashRead) :
    (State.readOwn s object version reads).mem.bytes = s.mem.bytes := by rfl

@[simp] theorem State.trimOwn_bytes (s : State) :
    (State.trimOwn s).mem.bytes = s.mem.bytes := by rfl

@[simp] theorem State.bootWrite_bytes (s : State) (ch : Nat) (bytes : Nat) :
    (State.bootWrite s ch bytes).mem.bytes = s.mem.bytes := by rfl

@[simp] theorem State.enterReadOnly_bytes (s : State) (ch : Nat) :
    (State.enterReadOnly s ch).mem.bytes = s.mem.bytes := by
  simp [State.enterReadOnly]

@[simp] theorem State.retireBlock_bytes (s : State) (ch key : Nat) :
    (State.retireBlock s ch key).mem.bytes = s.mem.bytes := by
  simp [State.retireBlock]

@[simp] theorem State.readRecord_bytes (s : State) (index : Nat) (dim : Nat) (shard : Nat) (slot : Nat) (record : Bytes) (r : FlashRead) :
    (State.readRecord s index dim shard slot record r).mem.bytes = s.mem.bytes := by
  unfold State.readRecord; simp only []; (repeat' split) <;> simp_all

@[simp] theorem State.journalled_bytes (s : State) (ch : Nat) (pad : Nat) (unit : Nat) (count : Nat) :
    (State.journalled s ch pad unit count).mem.bytes = s.mem.bytes := by rfl

@[simp] theorem State.deferFail_bytes (s : State) (ch : Nat) (pad : Nat) (units : List (Nat × Nat)) :
    (State.deferFail s ch pad units).mem.bytes = s.mem.bytes := by rfl

@[simp] theorem State.takeAnswers_bytes (s : State) (pad : Nat) (units : List (Nat × Nat)) (answers : List PartnerUnit) :
    (State.takeAnswers s pad units answers).mem.bytes = s.mem.bytes := by rfl

@[simp] theorem State.recover_bytes {s : State} {ch : Nat} {o : ArrayOp} {bad : List (Nat × Nat)} {answers : List PartnerUnit}
    {go : State → ArrayOp → State} (h : ∀ t o, (go t o).mem.bytes = t.mem.bytes) :
    (s.recover ch o bad answers go).mem.bytes = s.mem.bytes := by
  unfold State.recover; simp only []
  split
  · simp
  · split
    · split <;> simp
    · rw [h]; split <;> simp

@[simp] theorem State.readMoved_bytes (s : State) (ch : Nat) (o : ArrayOp) (r : FlashRead) :
    (State.readMoved s ch o r).mem.bytes = s.mem.bytes := by
  unfold State.readMoved; (repeat' split) <;> simp

@[simp] theorem State.levelStep_bytes (s : State) (ch : Nat) :
    (State.levelStep s ch).mem.bytes = s.mem.bytes := by
  unfold State.levelStep; split <;> simp

@[simp] theorem arrayOperationIssueEff_bytes (ch : Nat) (lost : List Nat) (reads : List FlashRead) (answers : List PartnerUnit) (s : State) :
    (arrayOperationIssueEff ch lost reads answers s).mem.bytes = s.mem.bytes := by
  unfold arrayOperationIssueEff; (repeat' split) <;> simp

@[simp] theorem State.levelFrom_bytes (s : State) (ch above : Nat) :
    (State.levelFrom s ch above).mem.bytes = s.mem.bytes := by
  unfold State.levelFrom; split <;> simp

@[simp] theorem arrayOperationCompleteEff_bytes (ch t : Nat) (good : Bool) (s : State) :
    (arrayOperationCompleteEff ch t good s).mem.bytes = s.mem.bytes := by
  unfold arrayOperationCompleteEff; split <;> simp

@[simp] theorem State.pageGood_bytes (s : State) (ch : Nat) (o : ArrayOp) :
    (State.pageGood s ch o).mem.bytes = s.mem.bytes := by
  simp [State.pageGood]

@[simp] theorem State.fwWritten_bytes (s : State) (ch : Nat) : (s.fwWritten ch).mem.bytes = s.mem.bytes := by
  unfold State.fwWritten; simp only []
  split
  · rfl
  · (repeat' split) <;> first | rfl | exact State.happened_bytes ..

@[simp] theorem programStatusReadEff_bytes (ch : Nat) (t : Nat) (s : State) :
    (programStatusReadEff ch t s).mem.bytes = s.mem.bytes := by
  unfold programStatusReadEff; (repeat' split) <;> simp

@[simp] theorem State.switchMoves_bytes (s : State) (ch : Nat) :
    (State.switchMoves s ch).mem.bytes = s.mem.bytes := by
  simp [State.switchMoves]

@[simp] theorem State.formPages_bytes (pad ch n : Nat) (s : State) :
    (State.formPages pad ch n s).mem.bytes = s.mem.bytes := by
  induction n generalizing s with
  | zero => rfl
  | succ n ih =>
    unfold State.formPages
    simp only []
    split <;> simp [ih]

@[simp] theorem pagePaddingTimeoutEff_bytes (pad ch : Nat) (s : State) :
    (pagePaddingTimeoutEff pad ch s).mem.bytes = s.mem.bytes := by
  simp [pagePaddingTimeoutEff]

@[simp] theorem wearLevelCheckEff_bytes (s : State) :
    (wearLevelCheckEff s).mem.bytes = s.mem.bytes := by
  simp [wearLevelCheckEff]

@[simp] theorem State.writeJournal_bytes (s : State) :
    (State.writeJournal s).mem.bytes = s.mem.bytes := by rfl

@[simp] theorem mapCheckpointEff_bytes (s : State) :
    (mapCheckpointEff s).mem.bytes = s.mem.bytes := by
  simp [mapCheckpointEff]

@[simp] theorem flashTemperatureSampleEff_bytes (celsius : List Int) (s : State) :
    (flashTemperatureSampleEff celsius s).mem.bytes = s.mem.bytes := by
  simp [flashTemperatureSampleEff]

@[simp] theorem flashHealthLogEff_bytes (f : Nat) (s : State) :
    (flashHealthLogEff f s).mem.bytes = s.mem.bytes := by
  unfold flashHealthLogEff; apply State.serve_bytes; intro t q; simp only [refuse, accept, report]; (repeat' split) <;> simp

/-! ## Rs -/

theorem State.poisonBlocks_wf {s : State} (h : cellsWf s.mem.bytes = true) (b n : Nat) :
    cellsWf (s.poisonBlocks b n).mem.bytes = true := by
  unfold State.poisonBlocks
  generalize zeros 64 = z
  refine foldl_wf ?_ _ _ h
  intro t i ht
  exact State.hbmWrite_wf ht (64 * (b + i)) z

@[simp] theorem State.modStack_bytes (s : State) (stack : Nat) (g : StackCounters → StackCounters) :
    (State.modStack s stack g).mem.bytes = s.mem.bytes := by rfl

@[simp] theorem State.countRead_bytes (s : State) (address : Nat) (r : BlockRead) :
    (State.countRead s address r).mem.bytes = s.mem.bytes := by rfl

@[simp] theorem State.countWait_bytes (s : State) (block : Nat) :
    (State.countWait s block).mem.bytes = s.mem.bytes := by rfl

@[simp] theorem State.countDieWait_bytes (s : State) (address : Nat) (n : Nat) :
    (State.countDieWait s address n).mem.bytes = s.mem.bytes := by
  simp [State.countDieWait]

@[simp] theorem State.longerDelay_bytes (s : State) (stack : Nat) :
    (State.longerDelay s stack).mem.bytes = s.mem.bytes := by rfl

@[simp] theorem State.endDieWait_bytes (s : State) (address : Nat) (n : Nat) :
    (State.endDieWait s address n).mem.bytes = s.mem.bytes := by
  unfold State.endDieWait; (repeat' split) <;> simp

@[simp] theorem State.countRange_bytes (s : State) (address : Nat) (n : Nat) :
    (State.countRange s address n).mem.bytes = s.mem.bytes := by
  simp [State.countRange]

/-! ## Storage -/

@[simp] theorem paddockCreateEff_bytes (f : Nat) (s : State) :
    (paddockCreateEff f s).mem.bytes = s.mem.bytes := by
  unfold paddockCreateEff; apply State.serve_bytes; intro t q; simp only [refuse, accept, report]; (repeat' split) <;> simp

@[simp] theorem paddockDeleteEff_bytes (f : Nat) (s : State) :
    (paddockDeleteEff f s).mem.bytes = s.mem.bytes := by
  unfold paddockDeleteEff; apply State.serve_bytes; intro t q; simp only [refuse, accept, report]; (repeat' split) <;> simp

@[simp] theorem paddockStatusEff_bytes (f : Nat) (s : State) :
    (paddockStatusEff f s).mem.bytes = s.mem.bytes := by
  unfold paddockStatusEff; apply State.serve_bytes; intro t q; simp only [refuse, accept, report]; (repeat' split) <;> simp

@[simp] theorem storageQueueCreateEff_bytes (f : Nat) (s : State) :
    (storageQueueCreateEff f s).mem.bytes = s.mem.bytes := by
  unfold storageQueueCreateEff; apply State.serve_bytes; intro t q; simp only [refuse, accept, report]; (repeat' split) <;> simp

@[simp] theorem storageQueueDeleteEff_bytes (f : Nat) (s : State) :
    (storageQueueDeleteEff f s).mem.bytes = s.mem.bytes := by
  unfold storageQueueDeleteEff; apply State.serve_bytes; intro t q; simp only [refuse, accept, report]; (repeat' split) <;> simp

@[simp] theorem storageWeightsSetEff_bytes (f : Nat) (s : State) :
    (storageWeightsSetEff f s).mem.bytes = s.mem.bytes := by
  unfold storageWeightsSetEff; apply State.serve_bytes; intro t q; simp only [refuse, accept, report]; (repeat' split) <;> simp

@[simp] theorem State.queueDrained_bytes (s : State) (id : Nat) :
    (State.queueDrained s id).mem.bytes = s.mem.bytes := by
  unfold State.queueDrained; split <;> simp

@[simp] theorem State.paddockDrained_bytes (s : State) (n : Nat) :
    (State.paddockDrained s n).mem.bytes = s.mem.bytes := by
  unfold State.paddockDrained; split <;> simp

@[simp] theorem State.finishCommand_bytes (s : State) (n : Nat) (c : StorageCommand) :
    (State.finishCommand s n c).mem.bytes = s.mem.bytes := by
  simp [State.finishCommand]

@[simp] theorem State.admitCommand_bytes (s : State) (cls : Nat) (r : Ring) (h : QueueHead) :
    (State.admitCommand s cls r h).mem.bytes = s.mem.bytes := by
  simp [State.admitCommand]

theorem State.nextStorage_bytes {s : State} {cls : Nat} {ready : List (Nat × Nat)} {q : Nat} {t : State}
    (h : s.nextStorage cls ready = some (q, t)) : t.mem.bytes = s.mem.bytes := by
  unfold State.nextStorage at h
  simp only [] at h
  repeat' split at h
  all_goals simp only [Option.some.injEq, Prod.mk.injEq, reduceCtorEq, Option.map_eq_some_iff] at h
  all_goals first
    | (obtain ⟨-, rfl⟩ := h; rfl)
    | (obtain ⟨_, _, -, rfl⟩ := h; rfl)

@[simp] theorem State.admitStorage_bytes (cls n : Nat) (heads : List QueueHead) (s : State) :
    (State.admitStorage cls n heads s).mem.bytes = s.mem.bytes := by
  induction n generalizing heads s with
  | zero => rfl
  | succ n ih =>
    unfold State.admitStorage
    simp only []
    split
    · rfl
    · next heq =>
      have := State.nextStorage_bytes heq
      repeat' split
      all_goals simp [ih, this]

@[simp] theorem storageAdmissionEff_bytes (cls : Nat) (heads : List QueueHead) (s : State) :
    (storageAdmissionEff cls heads s).mem.bytes = s.mem.bytes := by
  simp [storageAdmissionEff]

@[simp] theorem State.modStorage_bytes (s : State) (n : Nat) (g : StorageCommand → StorageCommand) :
    (State.modStorage s n g).mem.bytes = s.mem.bytes := by rfl

@[simp] theorem State.mediaError_bytes (s : State) (n : Nat) (c : StorageCommand) (u : Nat) (phys : Nat) :
    (State.mediaError s n c u phys).mem.bytes = s.mem.bytes := by rfl

@[simp] theorem State.readFails_bytes (s : State) (n : Nat) (c : StorageCommand) (p : Paddock) (u phys : Nat) :
    (State.readFails s n c p u phys).mem.bytes = s.mem.bytes := by
  unfold State.readFails; (repeat' split) <;> simp

@[simp] theorem State.readUnit_bytes (s : State) (n : Nat) (c : StorageCommand) (reads : List FlashRead) (u : Nat) :
    (State.readUnit s n c reads u).mem.bytes = s.mem.bytes := by
  unfold State.readUnit; simp only []; (repeat' split) <;> simp

theorem State.deliver_wf {s : State} (h : cellsWf s.mem.bytes = true) (c : StorageCommand) :
    cellsWf (s.deliver c).mem.bytes = true := by
  unfold State.deliver
  refine foldl_wf (fun t i ht => ?_) _ _ h
  simp only []
  split
  · exact ht
  · split
    · split
      · exact State.hbmWrite_wf ht _ _
      · simpa using ht
    · simpa using ht

@[simp] theorem State.commitUnits_bytes (s : State) (pad start : Nat) (data : List Bytes) (single host : Bool) :
    (s.commitUnits pad start data single host).mem.bytes = s.mem.bytes := by
  unfold State.commitUnits
  simp only []
  rw [foldl_bytes (fun t a => by split <;> simp)]
  simp

@[simp] theorem State.dropUnits_bytes (s : State) (pad : Nat) (start : Nat) (count : Nat) :
    (State.dropUnits s pad start count).mem.bytes = s.mem.bytes := by rfl

@[simp] theorem State.writeBack_bytes (s : State) (pad : Nat) (u : Nat) (phys : Nat) (d : Bytes) :
    (State.writeBack s pad u phys d).mem.bytes = s.mem.bytes := by
  simp [State.writeBack]

@[simp] theorem State.takeDetour_bytes (n : Nat) (c : StorageCommand) (answers : List PartnerUnit) (s : State) (u : Nat) :
    (State.takeDetour n c answers s u).mem.bytes = s.mem.bytes := by
  unfold State.takeDetour; (repeat' split) <;> simp

theorem storageReadEff_wf {s : State} (h : cellsWf s.mem.bytes = true) (n : Nat) (reads : List FlashRead) (answers : List PartnerUnit) :
    cellsWf (storageReadEff n reads answers s).mem.bytes = true := by
  unfold storageReadEff; split
  · exact h
  · split
    · exact h
    · split
      · split
        · exact h
        · simpa using h
      · split
        · exact h
        · split
          · simpa using h
          · simp only [State.finishCommand_bytes]
            exact State.deliver_wf (by simpa using h) _

@[simp] theorem State.stopRead_bytes (s : State) (n : Nat) (c : StorageCommand) :
    (State.stopRead s n c).mem.bytes = s.mem.bytes := by
  simp [State.stopRead]

@[simp] theorem mirroredWriteReceiveEff_bytes (m : Bytes) (s : State) :
    (mirroredWriteReceiveEff m s).mem.bytes = s.mem.bytes := by
  unfold mirroredWriteReceiveEff; simp only []; (repeat' split) <;> simp

@[simp] theorem storageDetourReadEff_bytes (pad : Nat) (start : Nat) (count : Nat) (reads : List FlashRead) (s : State) :
    (storageDetourReadEff pad start count reads s).mem.bytes = s.mem.bytes := by
  unfold storageDetourReadEff; simp only []
  (repeat' split) <;> (try rfl)
  rw [State.send_bytes, foldl_bytes, State.admitTo_bytes]
  intro t a; (repeat' split) <;> simp

@[simp] theorem State.commitCommand_bytes (s : State) (n : Nat) (c : StorageCommand) :
    (State.commitCommand s n c).mem.bytes = s.mem.bytes := by
  simp [State.commitCommand]

@[simp] theorem State.commitMirrored_bytes (s : State) (w : MirroredWrite) :
    (State.commitMirrored s w).mem.bytes = s.mem.bytes := by
  simp [State.commitMirrored]

@[simp] theorem State.commitStorage_bytes (s : State) :
    (State.commitStorage s).mem.bytes = s.mem.bytes := by
  simp [State.commitStorage]

@[simp] theorem State.storageAck_bytes (s : State) (number : Nat) :
    (State.storageAck s number).mem.bytes = s.mem.bytes := by
  unfold State.storageAck; split <;> simp

@[simp] theorem State.storageConfirm_bytes (s : State) (number : Nat) :
    (State.storageConfirm s number).mem.bytes = s.mem.bytes := by rfl

/-! ## Fabric -/

@[simp] theorem State.adoptRoute_bytes (s : State) (b : Bytes) :
    (State.adoptRoute s b).mem.bytes = s.mem.bytes := by rfl

@[simp] theorem fabricRouteSetEff_bytes (f : Nat) (image : Bytes) (s : State) :
    (fabricRouteSetEff f image s).mem.bytes = s.mem.bytes := by
  unfold fabricRouteSetEff; split; · rfl
  apply State.serve_bytes; intro t q; simp only [refuse, accept, report]; (repeat' split) <;> simp

@[simp] theorem fabricWindowSetEff_bytes (f : Nat) (s : State) :
    (fabricWindowSetEff f s).mem.bytes = s.mem.bytes := by
  unfold fabricWindowSetEff; apply State.serve_bytes; intro t q; simp only [refuse, accept, report]; (repeat' split) <;> simp

@[simp] theorem fabricRegionSetEff_bytes (f : Nat) (s : State) :
    (fabricRegionSetEff f s).mem.bytes = s.mem.bytes := by
  unfold fabricRegionSetEff; apply State.serve_bytes; intro t q; simp only [refuse, accept, report]; (repeat' split) <;> simp

@[simp] theorem fabricGateStageEff_bytes (f : Nat) (s : State) :
    (fabricGateStageEff f s).mem.bytes = s.mem.bytes := by
  unfold fabricGateStageEff; apply State.serve_bytes; intro t q; simp only [refuse, accept, report]; (repeat' split) <;> simp

@[simp] theorem fabricGateCancelEff_bytes (f : Nat) (s : State) :
    (fabricGateCancelEff f s).mem.bytes = s.mem.bytes := by
  unfold fabricGateCancelEff; apply State.serve_bytes; intro t q; simp only [refuse, accept, report]; (repeat' split) <;> simp

@[simp] theorem fabricPolicerSetEff_bytes (f : Nat) (s : State) :
    (fabricPolicerSetEff f s).mem.bytes = s.mem.bytes := by
  unfold fabricPolicerSetEff; apply State.serve_bytes; intro t q; simp only [refuse, accept, report]; (repeat' split) <;> simp

@[simp] theorem fabricLinkStatusEff_bytes (f : Nat) (s : State) :
    (fabricLinkStatusEff f s).mem.bytes = s.mem.bytes := by
  unfold fabricLinkStatusEff; apply State.serve_bytes; intro t q; rfl

@[simp] theorem State.herdEvent_bytes (s : State) (event reason subject decider port stride epoch : Nat) :
    (State.herdEvent s event reason subject decider port stride epoch).mem.bytes = s.mem.bytes := by
  simp [State.herdEvent]

@[simp] theorem State.portDown_bytes (s : State) (p : Nat) :
    (State.portDown s p).mem.bytes = s.mem.bytes := by
  simp [State.portDown]

@[simp] theorem State.recordFlit_bytes (s : State) (p : Nat) (bad : Bool) (cls : Nat) (flit : Bytes) :
    (State.recordFlit s p bad cls flit).mem.bytes = s.mem.bytes := by
  simp [State.recordFlit]

@[simp] theorem State.messageFlit_bytes (s : State) (p : Nat) (bad : Bool) (cls : Nat) (flit : Bytes) :
    (State.messageFlit s p bad cls flit).mem.bytes = s.mem.bytes := by
  unfold State.messageFlit; (repeat' split) <;> simp

@[simp] theorem State.flit_bytes (p : Nat) (bad : Bool) (s : State) (f : Nat × Bytes) :
    (State.flit p bad s f).mem.bytes = s.mem.bytes := by
  simp [State.flit]

@[simp] theorem frameReceiveEff_bytes (p : Nat) (codewords : List Codeword) (corrected : Nat) (uncorrectable : Nat) (s : State) :
    (frameReceiveEff p codewords corrected uncorrectable s).mem.bytes = s.mem.bytes := by
  simp [frameReceiveEff]

@[simp] theorem creditReturnEff_bytes (p : Nat) (s : State) :
    (creditReturnEff p s).mem.bytes = s.mem.bytes := by
  simp [creditReturnEff]

@[simp] theorem creditMessageReceiveEff_bytes (p : Nat) (credits : List Nat) (s : State) :
    (creditMessageReceiveEff p credits s).mem.bytes = s.mem.bytes := by
  simp [creditMessageReceiveEff]

@[simp] theorem transportResendEff_bytes (h : Nat) (s : State) :
    (transportResendEff h s).mem.bytes = s.mem.bytes := by
  unfold transportResendEff; (repeat' split) <;> simp

@[simp] theorem State.police_bytes (s : State) (p cls bytes : Nat) (yellow : Bool) :
    (s.police p cls bytes yellow).2.mem.bytes = s.mem.bytes := by
  unfold State.police
  simp only []
  repeat' split
  all_goals simp

@[simp] theorem State.refuseMessage_bytes (s : State) (p : Nat) (x : Arriving) :
    (State.refuseMessage s p x).mem.bytes = s.mem.bytes := by rfl

@[simp] theorem State.acceptMessage_bytes (s : State) (p : Nat) (x : Arriving) :
    (State.acceptMessage s p x).mem.bytes = s.mem.bytes := by rfl

@[simp] theorem headerRecordReceiveEff_bytes (p : Nat) (w : Word64) (b : Bytes) (s : State) :
    (headerRecordReceiveEff p w b s).mem.bytes = s.mem.bytes := by
  unfold headerRecordReceiveEff
  simp only []
  repeat' split
  all_goals simp

@[simp] theorem State.recordIn_bytes (s : State) (p cls source : Nat) :
    (s.recordIn p cls source).2.mem.bytes = s.mem.bytes := by
  unfold State.recordIn; (repeat' split) <;> simp

@[simp] theorem State.messageIn_bytes (s : State) (p : Nat) (cls : Nat) (source : Nat) :
    (State.messageIn s p cls source).2.mem.bytes = s.mem.bytes := by
  unfold State.messageIn; (repeat' split) <;> simp

@[simp] theorem routerForwardEff_bytes (p : Nat) (h : Word64) (body : Bytes) (s : State) :
    (routerForwardEff p h body s).mem.bytes = s.mem.bytes := by
  unfold routerForwardEff; simp only []; (repeat' split) <;> simp

theorem State.performOp_wf {s : State} (h : cellsWf s.mem.bytes = true) (requester context address op size a b : Nat) :
    cellsWf (s.performOp requester context address op size a b).1.mem.bytes = true := by
  unfold State.performOp
  simp only []
  repeat' split
  all_goals first
    | exact h
    | (simp; exact h)
    | (refine State.hbmWrite_wf ?_ _ _; simpa using h)

theorem State.answerOp_wf {s : State} (h : cellsWf s.mem.bytes = true) (cls : Nat) (record : Bytes) :
    cellsWf (s.answerOp cls record).mem.bytes = true := by
  unfold State.answerOp
  simp only []
  simpa using State.performOp_wf h _ _ _ _ _ _ _

@[simp] theorem State.holdOp_bytes (s : State) (p : Nat) (cls : Nat) (record : Bytes) (locked : Bool) :
    (State.holdOp s p cls record locked).mem.bytes = s.mem.bytes := by rfl

theorem memoryOperationEff_wf {s : State} (h : cellsWf s.mem.bytes = true) (p cls : Nat) (record : Bytes) :
    cellsWf (memoryOperationEff p cls record s).mem.bytes = true := by
  unfold memoryOperationEff
  simp only []
  have hp := State.recordIn_bytes s p cls (le record 10 2 % 2 ^ 15)
  repeat' split
  all_goals first
    | exact h
    | (simp; exact h)
    | (simp [hp]; exact h)
    | (refine State.answerOp_wf ?_ _ _; simp [hp]; exact h)

@[simp] theorem operationResponseReceiveEff_bytes (p cls : Nat) (record : Bytes) (s : State) :
    (operationResponseReceiveEff p cls record s).mem.bytes = s.mem.bytes := by
  unfold operationResponseReceiveEff; simp only []; (repeat' split) <;> simp

theorem State.releaseLocked_wf {s : State} (h : cellsWf s.mem.bytes = true) :
    cellsWf s.releaseLocked.mem.bytes = true := by
  unfold State.releaseLocked
  simp only []
  rw [foldl_bytes fun t w => State.longerDelay_bytes t _]
  exact foldl_wf (fun t w ht => State.answerOp_wf ht _ _) _ _ h

@[simp] theorem State.correct_bytes (s : State) (early : Bool) (e : Int) :
    (State.correct s early e).mem.bytes = s.mem.bytes := by
  simp [State.correct]

@[simp] theorem strideMarkReceiveEff_bytes (p stride sendOffset arrival : Nat) (s : State) :
    (strideMarkReceiveEff p stride sendOffset arrival s).mem.bytes = s.mem.bytes := by
  simp [strideMarkReceiveEff]

@[simp] theorem parentMarkLossEff_bytes (s : State) :
    (parentMarkLossEff s).mem.bytes = s.mem.bytes := by
  simp [parentMarkLossEff]

@[simp] theorem outOfStepEff_bytes (s : State) :
    (outOfStepEff s).mem.bytes = s.mem.bytes := by
  simp [outOfStepEff]

@[simp] theorem strideInEdgeEff_bytes (arrival : Int) (s : State) :
    (strideInEdgeEff arrival s).mem.bytes = s.mem.bytes := by
  simp [strideInEdgeEff]

@[simp] theorem strideInLossEff_bytes (s : State) :
    (strideInLossEff s).mem.bytes = s.mem.bytes := by
  simp [strideInLossEff]

/-! ## Health -/

@[simp] theorem State.replan_bytes (s : State) (r : DomainReport) :
    (State.replan s r).mem.bytes = s.mem.bytes := by rfl

@[simp] theorem State.adoptPlan_bytes (s : State) :
    (State.adoptPlan s).mem.bytes = s.mem.bytes := by rfl

@[simp] theorem State.farrierReads_bytes (s : State) :
    (State.farrierReads s).mem.bytes = s.mem.bytes := by
  simp [State.farrierReads]

@[simp] theorem farrierSweepEff_bytes (r : DomainReport) (s : State) :
    (farrierSweepEff r s).mem.bytes = s.mem.bytes := by
  simp [farrierSweepEff]

@[simp] theorem healthAgeingReportEff_bytes (f : Nat) (s : State) :
    (healthAgeingReportEff f s).mem.bytes = s.mem.bytes := by
  unfold healthAgeingReportEff; apply State.serve_bytes; intro t q; rfl

@[simp] theorem healthUnitsEff_bytes (f : Nat) (s : State) :
    (healthUnitsEff f s).mem.bytes = s.mem.bytes := by
  unfold healthUnitsEff; apply State.serve_bytes; intro t q; rfl

/-! ## Nmu -/

@[simp] theorem State.modUnit_bytes (s : State) (u : Nat) (g : NmuUnit → NmuUnit) :
    (State.modUnit s u g).mem.bytes = s.mem.bytes := by rfl

@[simp] theorem State.answer_bytes (s : State) (tag : Nat) (b : Bytes) :
    (State.answer s tag b).mem.bytes = s.mem.bytes := by rfl

@[simp] theorem State.refusedCommand_bytes (s : State) (u : Nat) :
    (State.refusedCommand s u).mem.bytes = s.mem.bytes := by rfl

@[simp] theorem State.requestBursts_bytes (s : State) (stack : Nat) (l : List Burst) :
    (State.requestBursts s stack l).mem.bytes = s.mem.bytes := by rfl

@[simp] theorem State.countBlocks_bytes (s : State) (ctx : Nat) (blocks : List Nat) :
    (State.countBlocks s ctx blocks).mem.bytes = s.mem.bytes := by
  simp [State.countBlocks]

theorem State.unitWrite_wf {s : State} (h : cellsWf s.mem.bytes = true) (ctx : Nat) (blocks : List Nat) (image : Option Bytes) :
    cellsWf (State.unitWrite s ctx blocks image).mem.bytes = true := by
  unfold State.unitWrite; simp only []; repeat' split
  · simpa using h
  · exact State.hbmWrite_wf h _ _
  · simpa using State.poisonBlocks_wf h _ _

@[simp] theorem State.modCommand_bytes (s : State) (u : Nat) (g : UnitCommand → UnitCommand) :
    (State.modCommand s u g).mem.bytes = s.mem.bytes := by rfl

@[simp] theorem State.dropCommand_bytes (s : State) (u : Nat) :
    (State.dropCommand s u).mem.bytes = s.mem.bytes := by rfl

@[simp] theorem State.voidMove_bytes (s : State) (m : Nat × Nat) :
    (State.voidMove s m).mem.bytes = s.mem.bytes := by
  simp [State.voidMove]

@[simp] theorem State.endCommand_bytes (s : State) (u : Nat) (c : UnitCommand) (completion : Bytes) :
    (State.endCommand s u c completion).mem.bytes = s.mem.bytes := by
  unfold State.endCommand; (repeat' split) <;> simp

@[simp] theorem State.enterPhase_bytes (s : State) (u : Nat) (phase : Nat) (l : List Burst) :
    (State.enterPhase s u phase l).mem.bytes = s.mem.bytes := by rfl

@[simp] theorem State.writePhase_bytes (s : State) (u : Nat) (c : UnitCommand) (x3 : RowEnd) :
    (State.writePhase s u c x3).mem.bytes = s.mem.bytes := by
  unfold State.writePhase; (repeat' split) <;> simp

@[simp] theorem State.endLoad_bytes (s : State) (c : UnitCommand) :
    (State.endLoad s c).mem.bytes = s.mem.bytes := by
  simp [State.endLoad]

@[simp] theorem State.nextPhase_bytes (s : State) (u : Nat) (c : UnitCommand) :
    (State.nextPhase s u c).mem.bytes = s.mem.bytes := by
  simp [State.nextPhase]

@[simp] theorem State.beginCommand_bytes (s : State) (u : Nat) (c : UnitCommand) :
    (State.beginCommand s u c).mem.bytes = s.mem.bytes := by
  simp [State.beginCommand]

@[simp] theorem State.beginHeads_bytes (s : State) (stack : Nat) :
    (State.beginHeads s stack).mem.bytes = s.mem.bytes := by
  unfold State.beginHeads; exact foldl_bytes (fun t a => by (repeat' split) <;> simp) _ _

@[simp] theorem State.runStack_bytes (s : State) (stack : Nat) :
    (State.runStack s stack).mem.bytes = s.mem.bytes := by
  simp [State.runStack]

@[simp] theorem State.countReceived_bytes (s : State) :
    (State.countReceived s).mem.bytes = s.mem.bytes := by rfl

@[simp] theorem State.receive_bytes (s : State) (units : List Nat) (c : UnitCommand) :
    (State.receive s units c).mem.bytes = s.mem.bytes := by
  simp [State.receive]

@[simp] theorem unitCommandEff_bytes (op : Nat) (b : Bytes) (poisoned : Bool) (s : State) :
    (unitCommandEff op b poisoned s).mem.bytes = s.mem.bytes := by
  simp [unitCommandEff]

@[simp] theorem State.startBurst_bytes (s : State) (stack : Nat) (x : Burst) :
    (State.startBurst s stack x).mem.bytes = s.mem.bytes := by
  simp [State.startBurst]

@[simp] theorem State.grantFrom_bytes (s : State) (stack : Nat) (slot : Nat) (slots : Nat) (x4 : Nat) (x5 : Nat) (x6 : List Burst) (x7 : List Burst) :
    (State.grantFrom s stack slot slots x4 x5 x6 x7).1.mem.bytes = s.mem.bytes := by
  fun_induction State.grantFrom <;> simp_all

@[simp] theorem burstGrantEff_bytes (stack : Nat) (s : State) :
    (burstGrantEff stack s).mem.bytes = s.mem.bytes := by
  simp [burstGrantEff]

theorem State.burstMoved_wf {s : State} (h : cellsWf s.mem.bytes = true) (u : Nat) (ctx : Nat) (x : Burst) :
    cellsWf (State.burstMoved s u ctx x).mem.bytes = true := by
  unfold State.burstMoved; split
  · simpa using h
  · split
    · simpa using State.unitWrite_wf h _ _ _
    · simpa using h

@[simp] theorem State.burstDone_bytes (s : State) (u : Nat) :
    (State.burstDone s u).mem.bytes = s.mem.bytes := by
  unfold State.burstDone; (repeat' split) <;> simp

/-! ## Engine -/

@[simp] theorem State.issueRow_bytes (s : State) (op : Nat) (ctx : Nat) (address : Nat) (blocks : Nat) (data : Bytes) (poisoned : Bool) (move : Option (Nat × Nat)) (twin : Option Nat) :
    (State.issueRow s op ctx address blocks data poisoned move twin).mem.bytes = s.mem.bytes := by
  simp [State.issueRow]

@[simp] theorem State.issueRowwrite_bytes (s : State) (ctx : Nat) (address : Nat) (image : Bytes) (poisoned : Bool) (move : Option (Nat × Nat)) :
    (State.issueRowwrite s ctx address image poisoned move).mem.bytes = s.mem.bytes := by
  simp [State.issueRowwrite]

@[simp] theorem State.issueUpdate_bytes (s : State) (ctx : Nat) (address : Nat) (blocks : Nat) (delta : List Word32) (move : Option (Nat × Nat)) (twin : Option Nat) :
    (State.issueUpdate s ctx address blocks delta move twin).mem.bytes = s.mem.bytes := by
  simp [State.issueUpdate]

@[simp] theorem State.placeDirty_bytes (s : State) (id : Nat) (row : Nat) (bytes : Bytes) :
    (State.placeDirty s id row bytes).mem.bytes = s.mem.bytes := by
  unfold State.placeDirty; (repeat' split) <;> simp

@[simp] theorem State.issueDual_bytes (s : State) (id : Nat) (row : Nat) (delta : List Word32) (status : Nat) :
    (State.issueDual s id row delta status).mem.bytes = s.mem.bytes := by
  unfold State.issueDual; (repeat' split) <;> simp

@[simp] theorem State.issueStepUpdate_bytes (s : State) (id : Nat) (row : Nat) (delta : List Word32) :
    (State.issueStepUpdate s id row delta).mem.bytes = s.mem.bytes := by
  unfold State.issueStepUpdate; (repeat' split) <;> simp

/-! ## Lookup -/

@[simp] theorem State.touchRows_bytes (s : State) (object : Nat) (rows : List Nat) :
    (State.touchRows s object rows).mem.bytes = s.mem.bytes := by
  unfold State.touchRows; simp only []; (repeat' split) <;> (try simp) <;> (apply foldl_bytes; intro s a; (repeat' split) <;> simp)

@[simp] theorem State.putTile_bytes (s : State) (n : Nat) (t : Tile) :
    (State.putTile s n t).mem.bytes = s.mem.bytes := by rfl

@[simp] theorem State.useTile_bytes (s : State) (u : TileUse) (ctx : Nat) :
    (State.useTile s u ctx).mem.bytes = s.mem.bytes := by
  simp [State.useTile]

@[simp] theorem State.sendLookups_bytes (s : State) (x : Table) (table handle admitAt version : Nat) (rows : List Nat) :
    (s.sendLookups x table handle admitAt version rows).1.mem.bytes = s.mem.bytes := by
  unfold State.sendLookups
  simp

@[simp] theorem State.admitLookup_bytes (s : State) (tag : Nat) (a : Admission) :
    (State.admitLookup s tag a).mem.bytes = s.mem.bytes := by
  unfold State.admitLookup; simp only []; (repeat' split) <;> simp

@[simp] theorem lookupAdmissionEff_bytes (ring : Nat) (entry : Bytes) (s : State) :
    (lookupAdmissionEff ring entry s).mem.bytes = s.mem.bytes := by
  unfold lookupAdmissionEff; (repeat' split) <;> (try rfl) <;> (apply State.admitRing_bytes; intro t a; simp)

@[simp] theorem State.lateReply_bytes (s : State) :
    (State.lateReply s).mem.bytes = s.mem.bytes := by rfl

@[simp] theorem State.serveLookup_bytes (s : State) (x : Table) (m : Bytes) (poisoned : List Nat) :
    (State.serveLookup s x m poisoned).mem.bytes = s.mem.bytes := by
  simp [State.serveLookup]

@[simp] theorem State.serveOrHold_bytes (id : Nat) (s : State) (w : Bytes × List Nat) :
    (State.serveOrHold id s w).mem.bytes = s.mem.bytes := by
  unfold State.serveOrHold; (repeat' split) <;> simp

@[simp] theorem State.passBarrier_bytes (s : State) (id : Nat) :
    (State.passBarrier s id).mem.bytes = s.mem.bytes := by
  unfold State.passBarrier; (repeat' split) <;> simp

@[simp] theorem State.passHeld_bytes (s : State) :
    (State.passHeld s).mem.bytes = s.mem.bytes := by
  simp [State.passHeld]

@[simp] theorem lookupSubRequestReceiveEff_bytes (m : Bytes) (poisoned : List Nat) (s : State) :
    (lookupSubRequestReceiveEff m poisoned s).mem.bytes = s.mem.bytes := by
  unfold lookupSubRequestReceiveEff; simp only []; (repeat' split) <;> simp

@[simp] theorem lookupReplyReceiveEff_bytes (m : Bytes) (aside : Bytes) (s : State) :
    (lookupReplyReceiveEff m aside s).mem.bytes = s.mem.bytes := by
  unfold lookupReplyReceiveEff; simp only []; (repeat' split) <;> simp_all

@[simp] theorem State.finishLookup_bytes (s : State) (h : Nat) (l : Lookup) (status : Nat) :
    (State.finishLookup s h l status).mem.bytes = s.mem.bytes := by rfl

theorem lookupPoolingEff_wf {s : State} (h : cellsWf s.mem.bytes = true) (n : Nat) :
    cellsWf (lookupPoolingEff n s).mem.bytes = true := by
  unfold lookupPoolingEff; simp only []; repeat' split
  all_goals first
    | exact h
    | (simp; exact h)
    | (simp only [State.finishLookup_bytes]; split <;> first | exact State.hbmWrite_wf (by simpa using h) _ _ | simpa using h)
    | simpa using State.hbmWrite_wf (by simpa using h) _ _

theorem burstEndEff_wf {s : State} (h : cellsWf s.mem.bytes = true) (u : Nat) :
    cellsWf (burstEndEff u s).mem.bytes = true := by
  unfold burstEndEff; split
  · exact h
  · rw [State.passHeld_bytes]
    refine State.releaseLocked_wf ?_
    rw [State.runStack_bytes, State.burstDone_bytes]
    split
    · refine State.burstMoved_wf ?_ _ _ _
      rw [foldl_bytes fun t v => by simp]
      exact h
    · exact State.burstMoved_wf h _ _ _

/-! ## Migration -/

@[simp] theorem migrationSelectionEff_bytes (id : Nat) (s : State) :
    (migrationSelectionEff id s).mem.bytes = s.mem.bytes := by
  unfold migrationSelectionEff; split <;> simp

@[simp] theorem State.moveRead_bytes (s : State) (id row : Nat) : (s.moveRead id row).2.mem.bytes = s.mem.bytes := by
  unfold State.moveRead
  (repeat' split) <;> simp

@[simp] theorem migrationCopyEff_bytes (id : Nat) (row : Nat) (stopped : Bool) (s : State) :
    (migrationCopyEff id row stopped s).mem.bytes = s.mem.bytes := by
  unfold migrationCopyEff
  split
  · rfl
  · have h := s.moveRead_bytes id row
    generalize s.moveRead id row = m at h
    obtain ⟨b, t⟩ := m
    simp only [] at h
    cases b
    · exact h
    · simp only []
      (repeat' split) <;> simp [h]

@[simp] theorem State.dropStaleCopies_bytes (s : State) (id : Nat) :
    (State.dropStaleCopies s id).mem.bytes = s.mem.bytes := by rfl

@[simp] theorem State.dropTableCopies_bytes (s : State) (id : Nat) :
    (State.dropTableCopies s id).mem.bytes = s.mem.bytes := by rfl

@[simp] theorem State.switchResidency_bytes (s : State) :
    (State.switchResidency s).mem.bytes = s.mem.bytes := by rfl

/-! ## GaitMsg -/

@[simp] theorem State.setSlot_bytes (s : State) (n : Nat) (x : GaitSlot) :
    (State.setSlot s n x).mem.bytes = s.mem.bytes := by rfl

@[simp] theorem gaitImageEff_bytes (load : Bool) (opcode f : Nat) (image : Bytes) (s : State) :
    (gaitImageEff load opcode f image s).mem.bytes = s.mem.bytes := by
  unfold gaitImageEff; split; · rfl
  apply State.serve_bytes; intro t q; simp only [refuse, accept, report]; (repeat' split) <;> simp

@[simp] theorem gaitStageEff_bytes (f : Nat) (s : State) :
    (gaitStageEff f s).mem.bytes = s.mem.bytes := by
  unfold gaitStageEff; apply State.serve_bytes; intro t q; simp only [refuse, accept, report]; (repeat' split) <;> simp

@[simp] theorem State.unstageFrom_bytes (s : State) (e : Nat) :
    (State.unstageFrom s e).mem.bytes = s.mem.bytes := by rfl

@[simp] theorem gaitCancelEff_bytes (f : Nat) (s : State) :
    (gaitCancelEff f s).mem.bytes = s.mem.bytes := by
  unfold gaitCancelEff; apply State.serve_bytes; intro t q; simp only [refuse, accept, report]; (repeat' split) <;> simp

@[simp] theorem gaitStatusEff_bytes (f : Nat) (s : State) :
    (gaitStatusEff f s).mem.bytes = s.mem.bytes := by
  unfold gaitStatusEff; apply State.serve_bytes; intro t q; rfl

@[simp] theorem programLoadEff_bytes (f : Nat) (image : Bytes) (s : State) :
    (programLoadEff f image s).mem.bytes = s.mem.bytes := by
  unfold programLoadEff; split; · rfl
  apply State.serve_bytes; intro t q; simp only [refuse, accept, report]; (repeat' split) <;> simp

@[simp] theorem programUnloadEff_bytes (f : Nat) (s : State) :
    (programUnloadEff f s).mem.bytes = s.mem.bytes := by
  unfold programUnloadEff; apply State.serve_bytes; intro t q; simp only [refuse, accept, report]; (repeat' split) <;> simp

@[simp] theorem programStatusEff_bytes (f : Nat) (s : State) :
    (programStatusEff f s).mem.bytes = s.mem.bytes := by
  unfold programStatusEff; apply State.serve_bytes; intro t q; simp only [refuse, accept, report]; (repeat' split) <;> simp

/-! ## Query -/

@[simp] theorem State.modQuery_bytes (s : State) (h : Nat) (g : Query → Query) :
    (State.modQuery s h g).mem.bytes = s.mem.bytes := by rfl

@[simp] theorem State.modSearch_bytes (s : State) (key : Nat) (g : Search → Search) :
    (State.modSearch s key g).mem.bytes = s.mem.bytes := by rfl

@[simp] theorem State.addStale_bytes (s : State) (index n : Nat) :
    (State.addStale s index n).mem.bytes = s.mem.bytes := by rfl

@[simp] theorem State.putSort_bytes (s : State) (n : Nat) (u : SortUnit) :
    (State.putSort s n u).mem.bytes = s.mem.bytes := by rfl

@[simp] theorem State.admitQuery_bytes (s : State) (tag : Nat) (tile : TileUse) (zeroing : Nat) (a : Admission) (x : Index) :
    (State.admitQuery s tag tile zeroing a x).mem.bytes = s.mem.bytes := by
  simp [State.admitQuery]

@[simp] theorem State.takeQuery_bytes (s0 : State) (tag : Nat) (tile : TileUse) (a : Admission) :
    (State.takeQuery s0 tag tile a).mem.bytes = s0.mem.bytes := by
  unfold State.takeQuery; simp only []; (repeat' split) <;> simp_all

@[simp] theorem queryAdmissionEff_bytes (ring : Nat) (entry : Bytes) (tile : TileUse) (s : State) :
    (queryAdmissionEff ring entry tile s).mem.bytes = s.mem.bytes := by
  unfold queryAdmissionEff; (repeat' split) <;> (try rfl) <;> (apply State.admitRing_bytes; intro t a; simp)

@[simp] theorem shardSubRequestReceiveEff_bytes (m : Bytes) (poisonRows : List Nat) (poisonLists : List Nat) (sorter : SortUse) (s : State) :
    (shardSubRequestReceiveEff m poisonRows poisonLists sorter s).mem.bytes = s.mem.bytes := by
  unfold shardSubRequestReceiveEff; simp only []; (repeat' split) <;> simp_all

@[simp] theorem layer0RoundEff_bytes (key : Nat) (poisonRows : List Nat) (poisonLists : List Nat) (sorter : SortUse) (tile : TileUse) (s : State) :
    (layer0RoundEff key poisonRows poisonLists sorter tile s).mem.bytes = s.mem.bytes := by
  unfold layer0RoundEff; (repeat' split) <;> simp

@[simp] theorem State.searchReply_bytes (s : State) (q : Search) (flags : BitVec 16) (l : List Entry) (failed : List (Nat × Nat)) :
    (State.searchReply s q flags l failed).mem.bytes = s.mem.bytes := by
  simp [State.searchReply]

@[simp] theorem shardReplySendEff_bytes (key : Nat) (s : State) :
    (shardReplySendEff key s).mem.bytes = s.mem.bytes := by
  unfold shardReplySendEff; split <;> simp

@[simp] theorem shardReplyReceiveEff_bytes (m : Bytes) (aside : Bytes) (s : State) :
    (shardReplyReceiveEff m aside s).mem.bytes = s.mem.bytes := by
  unfold shardReplyReceiveEff; simp only []; (repeat' split) <;> simp_all

@[simp] theorem State.sendReranks_bytes (s : State) (h : Nat) (q : Query) (set : List Entry) :
    (State.sendReranks s h q set).mem.bytes = s.mem.bytes := by
  simp [State.sendReranks]

@[simp] theorem State.sendFeatures_bytes (s : State) (h : Nat) (q : Query) :
    (State.sendFeatures s h q).mem.bytes = s.mem.bytes := by
  unfold State.sendFeatures; simp only []; (repeat' split) <;> simp

@[simp] theorem State.mergeEnds_bytes (s : State) (h : Nat) (q : Query) (sel : Selection) :
    (State.mergeEnds s h q sel).mem.bytes = s.mem.bytes := by
  simp [State.mergeEnds]

@[simp] theorem queryMergeEff_bytes (h : Nat) (passes : Nat) (sorter : SortUse) (s : State) :
    (queryMergeEff h passes sorter s).mem.bytes = s.mem.bytes := by
  unfold queryMergeEff; (repeat' split) <;> simp

@[simp] theorem rerankRequestReceiveEff_bytes (m : Bytes) (s : State) :
    (rerankRequestReceiveEff m s).mem.bytes = s.mem.bytes := by
  unfold rerankRequestReceiveEff; simp only []; (repeat' split) <;> simp

@[simp] theorem State.readRecords_bytes (s : State) (v : View) (q : Search) (slots : List Nat) (reads : List FlashRead) :
    (State.readRecords s v q slots reads).mem.bytes = s.mem.bytes := by
  simp [State.readRecords]

@[simp] theorem rerankReadEff_bytes (key : Nat) (reads : List FlashRead) (poisonRows : List Nat) (tile : TileUse) (s : State) :
    (rerankReadEff key reads poisonRows tile s).mem.bytes = s.mem.bytes := by
  unfold rerankReadEff; (repeat' split) <;> simp

@[simp] theorem rerankReplySendEff_bytes (key : Nat) (s : State) :
    (rerankReplySendEff key s).mem.bytes = s.mem.bytes := by
  unfold rerankReplySendEff; (repeat' split) <;> simp

@[simp] theorem detourRequestEff_bytes (m : Bytes) (reads : List FlashRead) (tile : TileUse) (s : State) :
    (detourRequestEff m reads tile s).mem.bytes = s.mem.bytes := by
  unfold detourRequestEff; simp only []; (repeat' split) <;> simp_all

@[simp] theorem rerankReplyReceiveEff_bytes (m : Bytes) (aside : Bytes) (s : State) :
    (rerankReplyReceiveEff m aside s).mem.bytes = s.mem.bytes := by
  unfold rerankReplyReceiveEff; simp only []; (repeat' split) <;> simp_all

@[simp] theorem replyDeadlineEff_bytes (h : Nat) (s : State) :
    (replyDeadlineEff h s).mem.bytes = s.mem.bytes := by
  unfold replyDeadlineEff; (repeat' split) <;> simp

@[simp] theorem State.finishQuery_bytes (s : State) (h : Nat) (q : Query) (flags : BitVec 16) (status : Nat) (l : List Entry) :
    (State.finishQuery s h q flags status l).mem.bytes = s.mem.bytes := by rfl

@[simp] theorem State.ranProgram_bytes (s : State) (key : Nat) (p : Program) (tile : TileUse) (tokens : List (List Word32)) :
    (State.ranProgram s key p tile tokens).mem.bytes = s.mem.bytes := by rfl

@[simp] theorem State.completeQuery_bytes (s : State) (h : Nat) (q : Query) (weightsPoisoned : Bool) (sorter : SortUse) :
    (State.completeQuery s h q weightsPoisoned sorter).mem.bytes = s.mem.bytes := by
  simp [State.completeQuery]

@[simp] theorem State.placeBatch_bytes (s : State) (tile : Nat) (key : Nat) (batch : List Nat) :
    (State.placeBatch s tile key batch).mem.bytes = s.mem.bytes := by rfl

@[simp] theorem finalMergeEff_bytes (h : Nat) (weightsPoisoned : Bool) (sorter : SortUse) (tile : TileUse) (s : State) :
    (finalMergeEff h weightsPoisoned sorter tile s).mem.bytes = s.mem.bytes := by
  unfold finalMergeEff; (repeat' split) <;> simp

@[simp] theorem State.stopQuery_bytes (s : State) (h : Nat) (q : Query) :
    (State.stopQuery s h q).mem.bytes = s.mem.bytes := by rfl

/-! ## Train -/

@[simp] theorem State.modStep_bytes (s : State) (table num : Nat) (g : Step → Step) :
    (State.modStep s table num g).mem.bytes = s.mem.bytes := by rfl

@[simp] theorem State.takeSegment_bytes (s : State) (table : Nat) (g : Segment) :
    (State.takeSegment s table g).mem.bytes = s.mem.bytes := by
  unfold State.takeSegment; (repeat' split) <;> simp

@[simp] theorem State.sendSegments_bytes (s : State) (table : Nat) (num : Nat) (x : Table) (refused : Bool) (lr : Word32) (l : List Contribution) :
    (State.sendSegments s table num x refused lr l).mem.bytes = s.mem.bytes := by
  simp [State.sendSegments]

@[simp] theorem State.admitStep_bytes (before : State) (tile : TileUse) (a : Admission) :
    (State.admitStep before tile a).mem.bytes = before.mem.bytes := by
  unfold State.admitStep; simp only []; (repeat' split) <;> simp_all

@[simp] theorem State.missStep_bytes (s : State) (r : Ring) (cls : Nat) :
    (State.missStep s r cls).mem.bytes = s.mem.bytes := by
  unfold State.missStep; split <;> simp

@[simp] theorem stepAdmissionEff_bytes (ring : Nat) (entry : Bytes) (tile : TileUse) (s : State) :
    (stepAdmissionEff ring entry tile s).mem.bytes = s.mem.bytes := by
  unfold stepAdmissionEff
  repeat' split
  all_goals first
    | rfl
    | (simp; done)
    | (apply State.admitRing_bytes; intro t a; simp)

@[simp] theorem stepSegmentReceiveEff_bytes (m : Bytes) (s : State) :
    (stepSegmentReceiveEff m s).mem.bytes = s.mem.bytes := by
  unfold stepSegmentReceiveEff; (repeat' split) <;> simp

@[simp] theorem stepMergeEff_bytes (table : Nat) (tile : TileUse) (s : State) :
    (stepMergeEff table tile s).mem.bytes = s.mem.bytes := by
  unfold stepMergeEff; (repeat' split) <;> simp

@[simp] theorem stepMirrorEff_bytes (table : Nat) (tile : TileUse) (s : State) :
    (stepMirrorEff table tile s).mem.bytes = s.mem.bytes := by
  unfold stepMirrorEff; (repeat' split) <;> simp

@[simp] theorem stepMirrorReceiveEff_bytes (m : Bytes) (tile : TileUse) (s : State) :
    (stepMirrorReceiveEff m tile s).mem.bytes = s.mem.bytes := by
  unfold stepMirrorReceiveEff; simp only []; (repeat' split) <;> simp_all

@[simp] theorem State.applyInHbm_bytes (s : State) (id : Nat) (before : Table) (uncorrectable : List Nat) (m : Merged) :
    (State.applyInHbm s id before uncorrectable m).mem.bytes = s.mem.bytes := by
  unfold State.applyInHbm; simp only []; (repeat' split) <;> simp_all

@[simp] theorem State.sendNotices_bytes (s : State) (table num : Nat) (single : Bool) :
    (State.sendNotices s table num single).mem.bytes = s.mem.bytes := by
  unfold State.sendNotices; (repeat' split) <;> simp

@[simp] theorem stepApplyEff_bytes (table : Nat) (uncorrectable : List Nat) (s : State) :
    (stepApplyEff table uncorrectable s).mem.bytes = s.mem.bytes := by
  unfold stepApplyEff; simp only []; (repeat' split) <;> (try rfl) <;> simp

@[simp] theorem State.diverges_bytes (s : State) :
    (State.diverges s).mem.bytes = s.mem.bytes := by rfl

@[simp] theorem stepDigestReceiveEff_bytes (table num digest : Nat) (poisoned : List Nat) (s : State) :
    (stepDigestReceiveEff table num digest poisoned s).mem.bytes = s.mem.bytes := by
  unfold stepDigestReceiveEff; (repeat' split) <;> simp

@[simp] theorem stepDigestDeadlineEff_bytes (table : Nat) (s : State) :
    (stepDigestDeadlineEff table s).mem.bytes = s.mem.bytes := by
  unfold stepDigestDeadlineEff; (repeat' split) <;> simp

@[simp] theorem State.finishStep_bytes (s : State) (t : StepEntry) (missing : Bool) :
    (State.finishStep s t missing).mem.bytes = s.mem.bytes := by rfl

@[simp] theorem stepNoticeReceiveEff_bytes (m : Bytes) (s : State) :
    (stepNoticeReceiveEff m s).mem.bytes = s.mem.bytes := by
  unfold stepNoticeReceiveEff; split <;> simp

@[simp] theorem stepNoticeDeadlineEff_bytes (table : Nat) (s : State) :
    (stepNoticeDeadlineEff table s).mem.bytes = s.mem.bytes := by
  simp [stepNoticeDeadlineEff]

@[simp] theorem State.repairRow_bytes (s : State) (table : Nat) (row : Nat) (num : Nat) (image : Bytes) (state : Bytes) :
    (State.repairRow s table row num image state).mem.bytes = s.mem.bytes := by
  unfold State.repairRow; simp only []; (repeat' split) <;> simp_all

@[simp] theorem stepPoisonRepairEff_bytes (table row : Nat) (image state : Bytes) (s : State) :
    (stepPoisonRepairEff table row image state s).mem.bytes = s.mem.bytes := by
  unfold stepPoisonRepairEff; (repeat' split) <;> simp

/-! ## Update -/

@[simp] theorem State.admitUpdate_bytes (s : State) (tag : Nat) (a : Admission) (x : Index) :
    (State.admitUpdate s tag a x).mem.bytes = s.mem.bytes := by
  simp [State.admitUpdate]

@[simp] theorem State.takeUpdate_bytes (s0 : State) (tag : Nat) (tile : TileUse) (a : Admission) :
    (State.takeUpdate s0 tag tile a).mem.bytes = s0.mem.bytes := by
  unfold State.takeUpdate; simp only []; (repeat' split) <;> simp_all

@[simp] theorem updateAdmissionEff_bytes (ring : Nat) (entry : Bytes) (tile : TileUse) (s : State) :
    (updateAdmissionEff ring entry tile s).mem.bytes = s.mem.bytes := by
  unfold updateAdmissionEff; (repeat' split) <;> (try rfl) <;> (apply State.admitRing_bytes; intro t a; simp)

@[simp] theorem State.linked_bytes (s : State) (v : View) (bad : List Nat) (before : Search) (w : Walk) (a : Nat) (sorter : SortUse) :
    (State.linked s v bad before w a sorter).mem.bytes = s.mem.bytes := by
  simp [State.linked]

@[simp] theorem updateForwardReceiveEff_bytes (m : Bytes) (poisonRows : List Nat) (poisonLists : List Nat) (sorter : SortUse) (s : State) :
    (updateForwardReceiveEff m poisonRows poisonLists sorter s).mem.bytes = s.mem.bytes := by
  unfold updateForwardReceiveEff; simp only []; (repeat' split) <;> (try rfl) <;> simp [-ite_bytes]

@[simp] theorem linkingRoundEff_bytes (key : Nat) (poisonRows : List Nat) (poisonLists : List Nat) (sorter : SortUse) (tile : TileUse) (s : State) :
    (linkingRoundEff key poisonRows poisonLists sorter tile s).mem.bytes = s.mem.bytes := by
  unfold linkingRoundEff; (repeat' split) <;> simp

@[simp] theorem State.stageOne_bytes (s : State) (w : ServedUpdate × TileUse) :
    (State.stageOne s w).mem.bytes = s.mem.bytes := by
  unfold State.stageOne; simp only []; (repeat' split) <;> simp_all

@[simp] theorem updateStagingEff_bytes (tiles : List TileUse) (s : State) :
    (updateStagingEff tiles s).mem.bytes = s.mem.bytes := by
  simp [updateStagingEff]

@[simp] theorem mirrorRecordReceiveEff_bytes (m : Bytes) (s : State) :
    (mirrorRecordReceiveEff m s).mem.bytes = s.mem.bytes := by
  unfold mirrorRecordReceiveEff; (repeat' split) <;> simp

@[simp] theorem State.holdPending_bytes (s : State) (serving : Bool) (handle entryNode : Nat) :
    (State.holdPending s serving handle entryNode).mem.bytes = s.mem.bytes := by rfl

@[simp] theorem mirrorAckReceiveEff_bytes (handle entryNode : Nat) (s : State) :
    (mirrorAckReceiveEff handle entryNode s).mem.bytes = s.mem.bytes := by
  simp [mirrorAckReceiveEff]

@[simp] theorem mirrorConfirmReceiveEff_bytes (handle entryNode : Nat) (s : State) :
    (mirrorConfirmReceiveEff handle entryNode s).mem.bytes = s.mem.bytes := by
  simp [mirrorConfirmReceiveEff]

@[simp] theorem State.commitUpdates_bytes (s : State) :
    (State.commitUpdates s).mem.bytes = s.mem.bytes := by
  simp [State.commitUpdates]

@[simp] theorem commitDigestReceiveEff_bytes (stride digest : Nat) (s : State) :
    (commitDigestReceiveEff stride digest s).mem.bytes = s.mem.bytes := by
  simp [commitDigestReceiveEff]

@[simp] theorem commitDigestDeadlineEff_bytes (s : State) :
    (commitDigestDeadlineEff s).mem.bytes = s.mem.bytes := by
  simp [commitDigestDeadlineEff]

@[simp] theorem State.finishUpdate_bytes (s : State) (h : Nat) (u : EntryUpdate) (status flags loc : Nat) :
    (State.finishUpdate s h u status flags loc).mem.bytes = s.mem.bytes := by rfl

@[simp] theorem updateAckReceiveEff_bytes (m : Bytes) (s : State) :
    (updateAckReceiveEff m s).mem.bytes = s.mem.bytes := by
  unfold updateAckReceiveEff; simp only []; (repeat' split) <;> simp

@[simp] theorem State.loseUpdate_bytes (s : State) (h : Nat) (u : EntryUpdate) :
    (State.loseUpdate s h u).mem.bytes = s.mem.bytes := by rfl

@[simp] theorem updateReplyDeadlineEff_bytes (h : Nat) (s : State) :
    (updateReplyDeadlineEff h s).mem.bytes = s.mem.bytes := by
  unfold updateReplyDeadlineEff; split <;> simp

/-! ## Version -/

@[simp] theorem State.admitIndexBuild_bytes (s : State) (id : Nat) (x : Index) (b : Build) (poison : List Nat) :
    (State.admitIndexBuild s id x b poison).mem.bytes = s.mem.bytes := by
  simp [State.admitIndexBuild]

@[simp] theorem State.admitTableBuild_bytes (s : State) (id : Nat) (x : Table) (b : Build) :
    (State.admitTableBuild s id x b).mem.bytes = s.mem.bytes := by
  simp [State.admitTableBuild]

@[simp] theorem State.readSource_bytes (s : State) (b : Build) (size : Nat) (reads : List FlashRead) :
    (State.readSource s b size reads).mem.bytes = s.mem.bytes := by
  unfold State.readSource
  split
  · rfl
  · refine foldl_bytes (fun t u => ?_) _ _
    split
    · simp only []; (repeat' split) <;> simp
    · rfl

@[simp] theorem buildAdmissionEff_bytes (id : Nat) (poisonRows : List Nat) (reads : List FlashRead) (s : State) :
    (buildAdmissionEff id poisonRows reads s).mem.bytes = s.mem.bytes := by
  unfold buildAdmissionEff; (repeat' split) <;> simp

@[simp] theorem State.versionReady_bytes (s : State) (opcode id : Nat) (b : Build) (status digest step : Nat) :
    (State.versionReady s opcode id b status digest step).mem.bytes = s.mem.bytes := by
  simp [State.versionReady]

@[simp] theorem State.endIndexBuild_bytes (s : State) (id : Nat) (x : Index) (b : Build) (status : Nat) :
    (State.endIndexBuild s id x b status).mem.bytes = s.mem.bytes := by
  unfold State.endIndexBuild; split <;> simp

@[simp] theorem State.endTableBuild_bytes (s : State) (id : Nat) (x : Table) (b : Build) (status : Nat) :
    (State.endTableBuild s id x b status).mem.bytes = s.mem.bytes := by
  unfold State.endTableBuild; split <;> simp

@[simp] theorem versionBuiltEff_bytes (id : Nat) (s : State) :
    (versionBuiltEff id s).mem.bytes = s.mem.bytes := by
  unfold versionBuiltEff; (repeat' split) <;> simp

@[simp] theorem State.voidBuilds_bytes (s : State) : s.voidBuilds.mem.bytes = s.mem.bytes := by
  unfold State.voidBuilds
  simp only []
  rw [foldl_bytes, foldl_bytes]
  all_goals
    intro t a
    repeat' split
    all_goals simp

@[simp] theorem State.setSwitch_bytes (s : State) (id : Nat) (w : Option Switch) :
    (State.setSwitch s id w).mem.bytes = s.mem.bytes := by rfl

@[simp] theorem switchTupleReceiveEff_bytes (id version stride digest : Nat) (s : State) :
    (switchTupleReceiveEff id version stride digest s).mem.bytes = s.mem.bytes := by
  simp [switchTupleReceiveEff]

@[simp] theorem State.dropSwitch_bytes (s : State) (id : Nat) (w : Switch) :
    (State.dropSwitch s id w).mem.bytes = s.mem.bytes := by
  simp [State.dropSwitch]

@[simp] theorem State.decideSwitch_bytes (s : State) (id : Nat) :
    (State.decideSwitch s id).mem.bytes = s.mem.bytes := by
  unfold State.decideSwitch; split <;> simp

@[simp] theorem goRecordDeadlineEff_bytes (s : State) :
    (goRecordDeadlineEff s).mem.bytes = s.mem.bytes := by
  simp [goRecordDeadlineEff]

@[simp] theorem goRecordReceiveEff_bytes (id version stride digest : Nat) (s : State) :
    (goRecordReceiveEff id version stride digest s).mem.bytes = s.mem.bytes := by
  unfold goRecordReceiveEff; split <;> simp

@[simp] theorem versionPairReceiveEff_bytes (id version : Nat) (s : State) :
    (versionPairReceiveEff id version s).mem.bytes = s.mem.bytes := by
  simp [versionPairReceiveEff]

@[simp] theorem versionPairDeadlineEff_bytes (s : State) :
    (versionPairDeadlineEff s).mem.bytes = s.mem.bytes := by
  simp [versionPairDeadlineEff]

@[simp] theorem State.applySwitch_bytes (s : State) (id : Nat) :
    (State.applySwitch s id).mem.bytes = s.mem.bytes := by
  unfold State.applySwitch; split <;> simp

@[simp] theorem State.applySwitches_bytes (s : State) :
    (State.applySwitches s).mem.bytes = s.mem.bytes := by
  simp [State.applySwitches]

@[simp] theorem State.freeVersions_bytes (s : State) :
    (State.freeVersions s).mem.bytes = s.mem.bytes := by rfl

@[simp] theorem State.freeObject_bytes (s : State) (id : Nat) :
    (State.freeObject s id).mem.bytes = s.mem.bytes := by
  simp [State.freeObject]

@[simp] theorem indexCloseDrainedEff_bytes (id : Nat) (s : State) :
    (indexCloseDrainedEff id s).mem.bytes = s.mem.bytes := by
  simp [indexCloseDrainedEff]

@[simp] theorem State.closeScrubbed_bytes (s : State) (c : Nat) :
    (State.closeScrubbed s c).mem.bytes = s.mem.bytes := by
  simp [State.closeScrubbed]

@[simp] theorem contextCloseDrainedEff_bytes (c : Nat) (s : State) :
    (contextCloseDrainedEff c s).mem.bytes = s.mem.bytes := by
  unfold contextCloseDrainedEff; split <;> simp

theorem State.hbmZero_wf {s : State} (h : cellsWf s.mem.bytes = true) (a n : Nat) :
    cellsWf (s.hbmZero a n).mem.bytes = true := cellsWf_filter h _

theorem State.scrubStack_wf {s : State} (h : cellsWf s.mem.bytes = true) (l : List Nat) (n : Nat) :
    cellsWf (State.scrubStack l n s).mem.bytes = true := by
  induction l generalizing s n with
  | nil => exact h
  | cons g l ih =>
    unfold State.scrubStack
    split
    · exact ih h _
    · simp only []
      split
      · exact ih h _
      · split
        · refine ih ?_ _
          rw [State.closeScrubbed_bytes]
          exact State.hbmZero_wf h _ _
        · exact State.hbmZero_wf h _ _

theorem granuleScrubEff_wf {s : State} (h : cellsWf s.mem.bytes = true) :
    cellsWf (granuleScrubEff s).mem.bytes = true := by
  unfold granuleScrubEff
  split
  · exact h
  · exact foldl_wf (fun t k ht => State.scrubStack_wf ht _ _) _ _ h

@[simp] theorem versionFillEff_bytes (id version : Nat) (s : State) :
    (versionFillEff id version s).mem.bytes = s.mem.bytes := by rfl

/-! ## Mirror -/

@[simp] theorem State.groupFigures_bytes (s : State) :
    (State.groupFigures s).2.mem.bytes = s.mem.bytes := by
  unfold State.groupFigures
  rw [foldl_snd_bytes]
  intro x p
  (repeat' split) <;> simp

@[simp] theorem State.writeMirror_bytes (s : State) (n : Nat) : (s.writeMirror n).mem.bytes = s.mem.bytes := by
  unfold State.writeMirror
  simp

@[simp] theorem mirrorPublicationEff_bytes (s : State) : (mirrorPublicationEff s).mem.bytes = s.mem.bytes := by
  unfold mirrorPublicationEff
  simp only []
  split
  · rfl
  · repeat' split
    all_goals simp

@[simp] theorem mctpMirrorReadEff_bytes (o n : Nat) (s : State) :
    (mctpMirrorReadEff o n s).mem.bytes = s.mem.bytes := by
  simp [mctpMirrorReadEff]

/-! ## Bar0 -/

@[simp] theorem mailboxWrite_bytes (f o : Nat) (value : Word32) (s : State) :
    (mailboxWrite f o value s).mem.bytes = s.mem.bytes := by
  simp [mailboxWrite]

@[simp] theorem bar0Write_bytes (f : Nat) (offset : Nat) (value : Word32) (reassert : Word32) (s : State) :
    (bar0Write f offset value reassert s).mem.bytes = s.mem.bytes := by
  simp [bar0Write]

@[simp] theorem bar4Write_bytes (f : Nat) (offset : Nat) (value : Word32) (s : State) :
    (bar4Write f offset value s).mem.bytes = s.mem.bytes := by
  simp [bar4Write]

@[simp] theorem wordWrite_bytes (f : Nat) (bar : Nat) (offset : Nat) (value : Word32) (reassert : Word32) (s : State) :
    (wordWrite f bar offset value reassert s).mem.bytes = s.mem.bytes := by
  simp [wordWrite]

@[simp] theorem registerWriteEff_bytes (f : Nat) (bar : Nat) (offset : Nat) (size : Nat) (value : Word64) (reassert : Word64) (s : State) :
    (registerWriteEff f bar offset size value reassert s).mem.bytes = s.mem.bytes := by
  simp [registerWriteEff]

/-! ## Membership -/

@[simp] theorem State.flood_bytes (s : State) (except : Option Nat) (body : Bytes) :
    (State.flood s except body).mem.bytes = s.mem.bytes := by
  simp [State.flood]

@[simp] theorem State.modMemb_bytes (s : State) (g : Membership → Membership) :
    (State.modMemb s g).mem.bytes = s.mem.bytes := by rfl

@[simp] theorem State.accuse_bytes (s : State) (subject : Nat) (dst : Nat) :
    (State.accuse s subject dst).mem.bytes = s.mem.bytes := by
  simp [State.accuse]

@[simp] theorem State.accuseBoth_bytes (s : State) (subject : Nat) :
    (State.accuseBoth s subject).mem.bytes = s.mem.bytes := by
  simp [State.accuseBoth]

@[simp] theorem heartbeatSendEff_bytes (s : State) :
    (heartbeatSendEff s).mem.bytes = s.mem.bytes := by
  simp [heartbeatSendEff]

@[simp] theorem State.takesFrom_bytes {s : State} {sender : Nat} {take : State → State}
    (h : ∀ t, (take t).mem.bytes = t.mem.bytes) : (s.takesFrom sender take).mem.bytes = s.mem.bytes := by
  unfold State.takesFrom
  (repeat' split) <;> simp [h]

@[simp] theorem heartbeatReceiveEff_bytes (p : Nat) (r : Bytes) (s : State) :
    (heartbeatReceiveEff p r s).mem.bytes = s.mem.bytes := by
  simp [heartbeatReceiveEff]

@[simp] theorem State.vouchTo_bytes (s : State) (subject : Nat) (dst : Nat) :
    (State.vouchTo s subject dst).mem.bytes = s.mem.bytes := by
  simp [State.vouchTo]

@[simp] theorem State.vouch_bytes (s : State) (subject : Nat) :
    (State.vouch s subject).mem.bytes = s.mem.bytes := by
  simp [State.vouch]

@[simp] theorem accusationReceiveEff_bytes (r : Bytes) (s : State) :
    (accusationReceiveEff r s).mem.bytes = s.mem.bytes := by
  simp [accusationReceiveEff]

@[simp] theorem vouchReceiveEff_bytes (r : Bytes) (s : State) :
    (vouchReceiveEff r s).mem.bytes = s.mem.bytes := by
  simp [vouchReceiveEff]

@[simp] theorem State.countMiss_bytes (s : State) (n : Nat) :
    (State.countMiss s n).mem.bytes = s.mem.bytes := by
  simp [State.countMiss]

@[simp] theorem heartbeatMissEff_bytes (s : State) :
    (heartbeatMissEff s).mem.bytes = s.mem.bytes := by
  simp [heartbeatMissEff]

@[simp] theorem State.fenceEvent_bytes (s : State) (x : Fence) (epoch : Nat) :
    (State.fenceEvent s x epoch).mem.bytes = s.mem.bytes := by
  simp [State.fenceEvent]

@[simp] theorem State.decideFence_bytes (s : State) (d : Nat × Nat) :
    (State.decideFence s d).mem.bytes = s.mem.bytes := by
  simp [State.decideFence]

@[simp] theorem State.stopFenced_bytes (s : State) :
    (State.stopFenced s).mem.bytes = s.mem.bytes := by rfl

@[simp] theorem State.decideFences_bytes (s : State) (l : List (Nat × Nat)) :
    (State.decideFences s l).mem.bytes = s.mem.bytes := by
  simp [State.decideFences]

@[simp] theorem fenceDecisionEff_bytes (s : State) :
    (fenceDecisionEff s).mem.bytes = s.mem.bytes := by
  simp [fenceDecisionEff]

@[simp] theorem fenceRecordReceiveEff_bytes (p : Nat) (r : Bytes) (s : State) :
    (fenceRecordReceiveEff p r s).mem.bytes = s.mem.bytes := by
  simp [fenceRecordReceiveEff]

@[simp] theorem State.adoptFence_bytes (s : State) (x : Fence) :
    (State.adoptFence s x).mem.bytes = s.mem.bytes := by
  simp [State.adoptFence]

@[simp] theorem State.adoptFences_bytes (s : State) :
    (State.adoptFences s).mem.bytes = s.mem.bytes := by
  simp [State.adoptFences]

@[simp] theorem herdStatusEff_bytes (f : Nat) (s : State) :
    (herdStatusEff f s).mem.bytes = s.mem.bytes := by
  unfold herdStatusEff; apply State.serve_bytes; intro t q; rfl

@[simp] theorem herdTeardownEff_bytes (f : Nat) (s : State) :
    (herdTeardownEff f s).mem.bytes = s.mem.bytes := by
  unfold herdTeardownEff; apply State.serve_bytes; intro t q; simp only [refuse, accept, report]; (repeat' split) <;> simp

@[simp] theorem herdRemountEff_bytes (f : Nat) (s : State) :
    (herdRemountEff f s).mem.bytes = s.mem.bytes := by
  unfold herdRemountEff; split; · rfl
  apply State.serve_bytes; intro t q; simp only [refuse, accept, report]; (repeat' split) <;> simp

@[simp] theorem herdRemountCancelEff_bytes (f : Nat) (s : State) :
    (herdRemountCancelEff f s).mem.bytes = s.mem.bytes := by
  unfold herdRemountCancelEff; split; · rfl
  apply State.serve_bytes; intro t q; simp only [refuse, accept, report]; (repeat' split) <;> simp

@[simp] theorem herdUnitReturnEff_bytes (f : Nat) (s : State) :
    (herdUnitReturnEff f s).mem.bytes = s.mem.bytes := by
  unfold herdUnitReturnEff; apply State.serve_bytes; intro t q; simp only [refuse, accept, report]; (repeat' split) <;> simp

@[simp] theorem State.stopJob_bytes (s : State) (c : Nat) :
    (State.stopJob s c).mem.bytes = s.mem.bytes := by
  simp [State.stopJob]

@[simp] theorem State.dropServed_bytes (s : State) (c : Nat) :
    (State.dropServed s c).mem.bytes = s.mem.bytes := by rfl

@[simp] theorem State.closeWindows_bytes (s : State) (c : Nat) :
    (State.closeWindows s c).mem.bytes = s.mem.bytes := by rfl

@[simp] theorem State.tearDown_bytes (s : State) (c : Nat) :
    (State.tearDown s c).mem.bytes = s.mem.bytes := by
  simp [State.tearDown]

/-! ## Power -/

@[simp] theorem State.wiped_bytes (s : State) (r : Bool) : (s.wiped r).mem.bytes = [] := rfl

@[simp] theorem State.begin_bytes (s : State) :
    (State.begin s).mem.bytes = s.mem.bytes := by
  simp [State.begin]

@[simp] theorem powerArrivalEff_bytes (s : State) :
    (powerArrivalEff s).mem.bytes = s.mem.bytes := by
  simp [powerArrivalEff]

theorem powerRemovalEff_wf {s : State} (h : cellsWf s.mem.bytes = true) :
    cellsWf (powerRemovalEff s).mem.bytes = true := by
  unfold powerRemovalEff
  simp only []
  repeat' split
  all_goals first
    | exact h
    | rfl
    | (simp; done)
    | (simp; exact h)
    | (simp; rfl)

theorem resetNAssertEff_wf {s : State} (h : cellsWf s.mem.bytes = true) :
    cellsWf (resetNAssertEff s).mem.bytes = true := by
  unfold resetNAssertEff
  simp only []
  repeat' split
  all_goals first
    | exact h
    | rfl
    | (simp; done)
    | (simp; exact h)
    | (simp; rfl)

@[simp] theorem resetNReleaseEff_bytes (s : State) :
    (resetNReleaseEff s).mem.bytes = s.mem.bytes := by
  simp [resetNReleaseEff]

@[simp] theorem State.halt_bytes (s : State) (st : Nat) :
    (State.halt s st).mem.bytes = s.mem.bytes := by rfl

@[simp] theorem State.startFlush_bytes (s : State) (st : Nat) :
    (State.startFlush s st).mem.bytes = s.mem.bytes := by rfl

@[simp] theorem pwrfailNAssertEff_bytes (s : State) :
    (pwrfailNAssertEff s).mem.bytes = s.mem.bytes := by
  simp [pwrfailNAssertEff]

theorem powerFailFlushEndEff_wf {s : State} (h : cellsWf s.mem.bytes = true) :
    cellsWf (powerFailFlushEndEff s).mem.bytes = true := by
  unfold powerFailFlushEndEff
  simp only []
  repeat' split
  all_goals first
    | exact h
    | rfl
    | (simp; done)
    | (simp; exact h)
    | (simp; rfl)

@[simp] theorem State.crossings_bytes (s : State) (now : List Int) :
    (State.crossings s now).mem.bytes = s.mem.bytes := by
  simp [State.crossings]

@[simp] theorem State.trip_bytes (s : State) :
    (State.trip s).mem.bytes = s.mem.bytes := by
  simp [State.trip]

@[simp] theorem junctionSampleEff_bytes (now : List Int) (s : State) :
    (junctionSampleEff now s).mem.bytes = s.mem.bytes := by
  simp [junctionSampleEff]

@[simp] theorem remountCheckpointEff_bytes (s : State) :
    (remountCheckpointEff s).mem.bytes = s.mem.bytes := by
  unfold remountCheckpointEff; split <;> simp

theorem remountRestartEff_wf {s : State} (h : cellsWf s.mem.bytes = true) :
    cellsWf (remountRestartEff s).mem.bytes = true := by
  unfold remountRestartEff
  simp only []
  repeat' split
  all_goals first
    | exact h
    | rfl
    | (simp; done)
    | (simp; exact h)
    | (simp; rfl)

/-! ## Trust -/

@[simp] theorem trustAttestEff_bytes (f : Nat) (s : State) :
    (trustAttestEff f s).mem.bytes = s.mem.bytes := by
  unfold trustAttestEff; apply State.serve_bytes; intro t q; rfl

@[simp] theorem trustBrandRecordEff_bytes (f : Nat) (s : State) :
    (trustBrandRecordEff f s).mem.bytes = s.mem.bytes := by
  unfold trustBrandRecordEff; apply State.serve_bytes; intro t q; rfl

@[simp] theorem trustFwUpdateEff_bytes (f : Nat) (image : Bytes) (s : State) :
    (trustFwUpdateEff f image s).mem.bytes = s.mem.bytes := by
  unfold trustFwUpdateEff; split; · rfl
  apply State.serve_bytes; intro t q; simp only [refuse, accept, report]; (repeat' split) <;> simp

@[simp] theorem trustDebugChallengeEff_bytes (f : Nat) (s : State) :
    (trustDebugChallengeEff f s).mem.bytes = s.mem.bytes := by
  unfold trustDebugChallengeEff; split; · rfl
  apply State.serve_bytes; intro t q; simp only [refuse, accept, report]; (repeat' split) <;> simp

@[simp] theorem trustDebugUnlockEff_bytes (f : Nat) (s : State) :
    (trustDebugUnlockEff f s).mem.bytes = s.mem.bytes := by
  unfold trustDebugUnlockEff; split; · rfl
  apply State.serve_bytes; intro t q; simp only [refuse, accept, report]; (repeat' split) <;> simp

@[simp] theorem trustIdeKeyEff_bytes (f : Nat) (s : State) :
    (trustIdeKeyEff f s).mem.bytes = s.mem.bytes := by
  unfold trustIdeKeyEff; apply State.serve_bytes; intro t q; simp only [refuse, accept, report]; (repeat' split) <;> simp

/-! ## Startup -/

@[simp] theorem State.enter_bytes (s : State) (n : Nat) :
    (State.enter s n).mem.bytes = s.mem.bytes := by rfl

@[simp] theorem State.fail_bytes (s : State) (code : Nat) :
    (State.fail s code).mem.bytes = s.mem.bytes := by
  simp [State.fail]

@[simp] theorem stageTimeoutEff_bytes (s : State) :
    (stageTimeoutEff s).mem.bytes = s.mem.bytes := by
  simp [stageTimeoutEff]

@[simp] theorem railsInRegulationEff_bytes (failure : Nat) (s : State) :
    (railsInRegulationEff failure s).mem.bytes = s.mem.bytes := by
  simp [railsInRegulationEff]

@[simp] theorem firmwareMeasuredStartEff_bytes (secret : Bytes) (s : State) :
    (firmwareMeasuredStartEff secret s).mem.bytes = s.mem.bytes := by
  unfold firmwareMeasuredStartEff; (repeat' split) <;> simp

@[simp] theorem tackImageReceiveEff_bytes (b : Bytes) (s : State) :
    (tackImageReceiveEff b s).mem.bytes = s.mem.bytes := by
  unfold tackImageReceiveEff; (repeat' split) <;> simp

@[simp] theorem State.settleUnits_bytes (s : State) (stage : Nat) (failed : List (Nat × Nat)) :
    (State.settleUnits s stage failed).mem.bytes = s.mem.bytes := by rfl

@[simp] theorem State.dropLanes_bytes (s : State) (lost : List (Nat × Nat)) :
    (State.dropLanes s lost).mem.bytes = s.mem.bytes := by rfl

@[simp] theorem State.admitUnits_bytes (s : State) (lanes : BitVec 36) :
    (State.admitUnits s lanes).mem.bytes = s.mem.bytes := by rfl

@[simp] theorem State.toParents_bytes (s : State) (b : Bytes) :
    (State.toParents s b).mem.bytes = s.mem.bytes := by
  simp [State.toParents]

@[simp] theorem State.enterJoin_bytes (s : State) :
    (State.enterJoin s).mem.bytes = s.mem.bytes := by
  simp [State.enterJoin]

@[simp] theorem unitTrainingEff_bytes (stage : Nat) (r : UnitReport) (s : State) :
    (unitTrainingEff stage r s).mem.bytes = s.mem.bytes := by
  simp [unitTrainingEff]

@[simp] theorem State.programNow_bytes (ch : Nat) (s : State) (o : ArrayOp) :
    (State.programNow ch s o).mem.bytes = s.mem.bytes := by
  unfold State.programNow; (repeat' split) <;> simp

@[simp] theorem State.programPage_bytes (ch : Nat) (pad : Nat) (s : State) (units : List (Nat × PastWrite)) :
    (State.programPage ch pad s units).mem.bytes = s.mem.bytes := by
  simp [State.programPage]

@[simp] theorem State.programUnits_bytes (pad : Nat) (s : State) (ch : Nat) :
    (State.programUnits pad s ch).mem.bytes = s.mem.bytes := by
  simp [State.programUnits]

@[simp] theorem State.programBack_bytes (s : State) :
    (State.programBack s).mem.bytes = s.mem.bytes := by
  simp [State.programBack]

@[simp] theorem State.movesNow_bytes (s : State) (ch : Nat) :
    (State.movesNow s ch).mem.bytes = s.mem.bytes := by
  simp [State.movesNow]

@[simp] theorem State.retireDie_bytes (s : State) (u : Nat × Nat) :
    (State.retireDie s u).mem.bytes = s.mem.bytes := by
  simp [State.retireDie]

@[simp] theorem State.enterTraining_bytes (s : State) :
    (State.enterTraining s).mem.bytes = s.mem.bytes := by rfl

@[simp] theorem flashScanEff_bytes (r : ScanReport) (s : State) :
    (flashScanEff r s).mem.bytes = s.mem.bytes := by
  simp [flashScanEff]

@[simp] theorem portTrainingEff_bytes (p : Nat) (r : PortReport) (s : State) :
    (portTrainingEff p r s).mem.bytes = s.mem.bytes := by
  simp [portTrainingEff]

@[simp] theorem joinRecordReceiveEff_bytes (b : Bytes) (s : State) :
    (joinRecordReceiveEff b s).mem.bytes = s.mem.bytes := by
  simp [joinRecordReceiveEff]

@[simp] theorem State.closeJoin_bytes (s : State) :
    (State.closeJoin s).mem.bytes = s.mem.bytes := by
  simp [State.closeJoin]

@[simp] theorem joinCloseEff_bytes (s : State) :
    (joinCloseEff s).mem.bytes = s.mem.bytes := by
  simp [joinCloseEff]

@[simp] theorem joinCloseReceiveEff_bytes (s0 : Nat) (s : State) :
    (joinCloseReceiveEff s0 s).mem.bytes = s.mem.bytes := by
  simp [joinCloseReceiveEff]

@[simp] theorem strideLockEff_bytes (errors : List Int) (s : State) :
    (strideLockEff errors s).mem.bytes = s.mem.bytes := by
  simp [strideLockEff]

@[simp] theorem lateJoinWaitEff_bytes (s : State) :
    (lateJoinWaitEff s).mem.bytes = s.mem.bytes := by
  simp [lateJoinWaitEff]

@[simp] theorem State.zeroCounters_bytes (s : State) :
    (State.zeroCounters s).mem.bytes = s.mem.bytes := by rfl

@[simp] theorem serviceGaitAdoptionEff_bytes (absent : List Nat) (s : State) :
    (serviceGaitAdoptionEff absent s).mem.bytes = s.mem.bytes := by
  unfold serviceGaitAdoptionEff
  simp only []
  split
  · rfl
  · split
    · simp
    · simp only [State.enter_bytes]
      rw [foldl_bytes (fun t a => State.adoptFence_bytes t a)]
      simp

@[simp] theorem State.finishCloses_bytes (s : State) :
    (State.finishCloses s).mem.bytes = s.mem.bytes := by rfl

@[simp] theorem State.unwrapKeys_bytes (s : State) :
    (State.unwrapKeys s).mem.bytes = s.mem.bytes := by
  simp [State.unwrapKeys]

@[simp] theorem State.restoreFrom_bytes (s : State) (c : Checkpoint) :
    (State.restoreFrom s c).mem.bytes = s.mem.bytes := by rfl

@[simp] theorem State.restoreOwn_bytes (s : State) :
    (State.restoreOwn s).mem.bytes = s.mem.bytes := by
  unfold State.restoreOwn; (repeat' split) <;> simp

@[simp] theorem State.restoreSteps_bytes (s : State) (steps : List (Nat × Nat)) :
    (State.restoreSteps s steps).mem.bytes = s.mem.bytes := by rfl

@[simp] theorem State.takeUnits_bytes (s : State) (u : List (Nat × Nat × Bytes)) :
    (s.takeUnits u).mem.bytes = s.mem.bytes := by
  unfold State.takeUnits
  rw [foldl_bytes]
  simp

@[simp] theorem State.grantAll_bytes (s : State) :
    (State.grantAll s).mem.bytes = s.mem.bytes := by
  simp [State.grantAll]

@[simp] theorem State.clearSingle_bytes (s : State) :
    (State.clearSingle s).mem.bytes = s.mem.bytes := by rfl

@[simp] theorem State.supplyPartner_bytes (s : State) :
    (State.supplyPartner s).mem.bytes = s.mem.bytes := by
  unfold State.supplyPartner; (repeat' split) <;> simp

theorem State.restored_bytes {s t : State} {r : RestoreReport} (h : s.restored r = some t) : t.mem.bytes = s.mem.bytes := by
  unfold State.restored at h
  (repeat' split at h) <;> first | (cases h; simp; done) | cases h

@[simp] theorem stateRestoreEff_bytes (r : RestoreReport) (s : State) : (stateRestoreEff r s).mem.bytes = s.mem.bytes := by
  unfold stateRestoreEff; simp only []
  split
  · rfl
  · split
    · simp
    · split
      · simp
      · rename_i h
        have h := State.restored_bytes h
        simp only [State.unwrapKeys_bytes, State.finishCloses_bytes] at h
        (repeat' split) <;> simp [h]

@[simp] theorem versionFilledEff_bytes (id : Nat) (version : Nat) (reads : List FlashRead) (s : State) :
    (versionFilledEff id version reads s).mem.bytes = s.mem.bytes := by
  unfold versionFilledEff; (repeat' split) <;> simp

/-! ## Device -/

@[simp] theorem deviceFormatEff_bytes (f : Nat) (s : State) :
    (deviceFormatEff f s).mem.bytes = s.mem.bytes := by
  unfold deviceFormatEff; apply State.serve_bytes; intro t q; simp only [refuse, accept, report]; (repeat' split) <;> simp

@[simp] theorem controlCoreFaultEff_bytes (s : State) :
    (controlCoreFaultEff s).mem.bytes = s.mem.bytes := by rfl

@[simp] theorem controlCoreRestartedEff_bytes (s : State) :
    (controlCoreRestartedEff s).mem.bytes = s.mem.bytes := by
  simp [controlCoreRestartedEff]

@[simp] theorem managementCoreCrashEff_bytes (s : State) :
    (managementCoreCrashEff s).mem.bytes = s.mem.bytes := by rfl

@[simp] theorem State.managementRestart_bytes (s : State) :
    (State.managementRestart s).mem.bytes = s.mem.bytes := by rfl

/-! ## Boundary -/

@[simp] theorem State.stopSteps_bytes (s : State) (table : Nat) (which : Step → Bool) :
    (State.stopSteps s table which).mem.bytes = s.mem.bytes := by rfl

@[simp] theorem State.stopWork_bytes (s : State) (w : Nat) :
    (State.stopWork s w).mem.bytes = s.mem.bytes := by
  unfold State.stopWork; simp only []; (repeat' split) <;> simp_all

@[simp] theorem State.overran_bytes (s : State) (w : Nat) :
    (State.overran s w).mem.bytes = s.mem.bytes := by
  simp [State.overran]

@[simp] theorem State.stopOverdue_bytes (s : State) :
    (State.stopOverdue s).mem.bytes = s.mem.bytes := by
  simp [State.stopOverdue]

@[simp] theorem State.stopUnits_bytes (s : State) :
    (State.stopUnits s).mem.bytes = s.mem.bytes := by
  simp [State.stopUnits]

@[simp] theorem State.endReplies_bytes (s : State) :
    (State.endReplies s).mem.bytes = s.mem.bytes := by
  simp [State.endReplies]

@[simp] theorem State.dropStale_bytes (s : State) :
    (State.dropStale s).mem.bytes = s.mem.bytes := by rfl

@[simp] theorem State.endStride_bytes (s : State) (overrun : List Nat) :
    (State.endStride s overrun).mem.bytes = s.mem.bytes := by
  simp [State.endStride]

@[simp] theorem State.sendMarks_bytes (s : State) :
    (State.sendMarks s).mem.bytes = s.mem.bytes := by
  simp [State.sendMarks]

@[simp] theorem State.advance_bytes (s : State) :
    (State.advance s).mem.bytes = s.mem.bytes := by rfl

@[simp] theorem State.writeRow_bytes (s : State) (id : Nat) (r : TableRow) :
    (State.writeRow s id r).mem.bytes = s.mem.bytes := by
  unfold State.writeRow; simp only []; (repeat' split) <;> simp_all

@[simp] theorem State.applyWrites_bytes (s : State) (id : Nat) :
    (State.applyWrites s id).mem.bytes = s.mem.bytes := by
  unfold State.applyWrites; (repeat' split) <;> simp

@[simp] theorem State.fixLookups_bytes (s : State) :
    (State.fixLookups s).mem.bytes = s.mem.bytes := by rfl

@[simp] theorem State.visibility_bytes (s : State) :
    (State.visibility s).mem.bytes = s.mem.bytes := by
  simp [State.visibility]

@[simp] theorem State.adoptAperture_bytes (s : State) (f a : Nat) :
    (State.adoptAperture s f a).mem.bytes = s.mem.bytes := by
  simp [State.adoptAperture]

@[simp] theorem State.adoptShadows_bytes (s : State) :
    (State.adoptShadows s).mem.bytes = s.mem.bytes := by
  simp [State.adoptShadows]

@[simp] theorem State.mount_bytes (s : State) (u : UnitSet) :
    (State.mount s u).mem.bytes = s.mem.bytes := by rfl

@[simp] theorem State.adoptGait_bytes (s : State) :
    (State.adoptGait s).mem.bytes = s.mem.bytes := by
  unfold State.adoptGait; (repeat' split) <;> simp

@[simp] theorem State.createContext_bytes (s : State) (c f : Nat) :
    (State.createContext s c f).mem.bytes = s.mem.bytes := by rfl

@[simp] theorem State.closeObject_bytes (s : State) (id : Nat) :
    (State.closeObject s id).mem.bytes = s.mem.bytes := by rfl

@[simp] theorem State.closeContext_bytes (s : State) (c : Nat) :
    (State.closeContext s c).mem.bytes = s.mem.bytes := by
  unfold State.closeContext; split <;> simp

@[simp] theorem State.applyChange_bytes (s : State) (x1 : Change) :
    (State.applyChange s x1).mem.bytes = s.mem.bytes := by
  unfold State.applyChange; (repeat' split) <;> simp

@[simp] theorem State.adoptChanges_bytes (s : State) :
    (State.adoptChanges s).mem.bytes = s.mem.bytes := by
  simp [State.adoptChanges]

@[simp] theorem State.closeDetached_bytes (s : State) :
    (State.closeDetached s).mem.bytes = s.mem.bytes := by
  simp [State.closeDetached]

@[simp] theorem State.release_bytes (s : State) :
    (State.release s).mem.bytes = s.mem.bytes := by rfl

@[simp] theorem State.remountAt_bytes (s : State) :
    (State.remountAt s).mem.bytes = s.mem.bytes := by
  unfold State.remountAt; split <;> simp

@[simp] theorem State.adoption_bytes (s : State) :
    (State.adoption s).mem.bytes = s.mem.bytes := by
  simp [State.adoption]

@[simp] theorem State.commitFlags_bytes (s : State) :
    (State.commitFlags s).mem.bytes = s.mem.bytes := by rfl

theorem strideBoundaryEff_wf {s : State} (h : cellsWf s.mem.bytes = true) (overrun : List Nat) :
    cellsWf (strideBoundaryEff overrun s).mem.bytes = true := by
  unfold strideBoundaryEff; split
  · exact h
  · extract_lets s1 s2 s3 s4 s5 s6
    have h1 : cellsWf s1.mem.bytes = true := by dsimp only [s1]; split <;> simpa using h
    have h2 : cellsWf s2.mem.bytes = true := by dsimp only [s2]; split <;> simpa using h1
    have h3 : cellsWf s3.mem.bytes = true := by
      dsimp only [s3]; rw [State.sendMarks_bytes]; split
      · exact State.releaseLocked_wf (by simpa using h2)
      · simpa using h2
    have h4 : cellsWf s4.mem.bytes = true := by dsimp only [s4]; split <;> simpa using h3
    have h5 : cellsWf s5.mem.bytes = true := by dsimp only [s5]; split <;> simpa using h4
    have h6 : cellsWf s6.mem.bytes = true := by dsimp only [s6]; split <;> simpa using h5
    split
    · simpa using h6
    · exact h6

end Sys2Proof.Machine
end

