-- ==== Sys2Proof/Laws/Queue.lean ====
section
/-! SUPPORT. The queue: no operation over the state touches the commands that wait (`…_pending`). -/

set_option maxRecDepth 4000
set_option linter.unusedSimpArgs false

namespace Sys2Proof.Machine

/-! ## Ops -/

@[simp] theorem ite_pending {c : Prop} [Decidable c] (s t : State) :
    (if c then s else t).pending = if c then s.pending else t.pending := by split <;> rfl

@[simp] theorem foldl_pending {α : Type} {f : State → α → State} (h : ∀ s a, (f s a).pending = s.pending)
    (l : List α) (s : State) : (l.foldl f s).pending = s.pending :=
  foldl_keeps (fun s : State => s.pending) h l s

theorem foldl_fst_pending {α β : Type} {g : State × β → α → State × β} (h : ∀ x p, (g x p).1.pending = x.1.pending)
    (l : List α) (x : State × β) : (l.foldl g x).1.pending = x.1.pending :=
  foldl_keeps (fun x : State × β => x.1.pending) h l x

theorem foldl_snd_pending {α β : Type} {g : β × State → α → β × State} (h : ∀ x p, (g x p).2.pending = x.2.pending)
    (l : List α) (x : β × State) : (l.foldl g x).2.pending = x.2.pending :=
  foldl_keeps (fun x : β × State => x.2.pending) h l x

@[simp] theorem State.modFunc_pending (s : State) (f : Nat) (g : FuncRegs → FuncRegs) :
    (State.modFunc s f g).pending = s.pending := by rfl

@[simp] theorem State.modMailbox_pending (s : State) (f : Nat) (g : Mailbox → Mailbox) :
    (State.modMailbox s f g).pending = s.pending := by rfl

@[simp] theorem State.modLink_pending (s : State) (l : Nat) (g : Link → Link) :
    (State.modLink s l g).pending = s.pending := by rfl

@[simp] theorem State.modPort_pending (s : State) (p : Nat) (g : Port → Port) :
    (State.modPort s p g).pending = s.pending := by rfl

@[simp] theorem State.emit_pending (s : State) (cls : Nat) (dest : Nat) (body : Bytes) (aside : Bytes) :
    (State.emit s cls dest body aside).pending = s.pending := by rfl

@[simp] theorem State.sendWith_pending (s : State) (cls : Nat) (dest : Nat) (body : Bytes) (aside : Bytes) :
    (State.sendWith s cls dest body aside).pending = s.pending := by
  simp [State.sendWith]

@[simp] theorem State.send_pending (s : State) (cls dest : Nat) (body : Bytes) :
    (State.send s cls dest body).pending = s.pending := by
  simp [State.send]

@[simp] theorem State.sendPort_pending (s : State) (cls port : Nat) (body : Bytes) :
    (State.sendPort s cls port body).pending = s.pending := by rfl

@[simp] theorem State.discard_pending (s : State) (p n : Nat) :
    (State.discard s p n).pending = s.pending := by rfl

@[simp] theorem State.scheduledLost_pending (s : State) :
    (State.scheduledLost s).pending = s.pending := by rfl

@[simp] theorem State.lose_pending (s : State) (cls : Nat) (body : Bytes) :
    (State.lose s cls body).pending = s.pending := by rfl

@[simp] theorem State.arrival_pending (s : State) (cls source : Nat) (message : Bytes) :
    (s.arrival cls source message).2.pending = s.pending := by
  unfold State.arrival; simp only []
  (repeat' split) <;> simp

@[simp] theorem State.arrives_pending {s : State} {cls source : Nat} {message : Bytes} {take : State → State}
    (h : ∀ t, (take t).pending = t.pending) : (s.arrives cls source message take).pending = s.pending := by
  unfold State.arrives; simp only []
  split <;> simp [h]

@[simp] theorem State.dma_pending (s : State) (f address : Nat) (body : Bytes) :
    (State.dma s f address body).pending = s.pending := by
  simp [State.dma]

@[simp] theorem State.vector_pending (s : State) (f v : Nat) :
    (State.vector s f v).pending = s.pending := by
  simp [State.vector]

@[simp] theorem State.pldm_pending (s : State) (kind subject stride : Nat) :
    (State.pldm s kind subject stride).pending = s.pending := by
  simp [State.pldm]

@[simp] theorem State.mctpReply_pending (s : State) (body : Bytes) :
    (State.mctpReply s body).pending = s.pending := by
  simp [State.mctpReply]

@[simp] theorem State.pcie_pending (s : State) (f status : Nat) (data : Bytes) :
    (State.pcie s f status data).pending = s.pending := by rfl

@[simp] theorem State.cause_pending (s : State) (f bit : Nat) :
    (State.cause s f bit).pending = s.pending := by
  simp [State.cause]

@[simp] theorem State.pfCause_pending (s : State) (bit : Nat) :
    (State.pfCause s bit).pending = s.pending := by
  simp [State.pfCause]

@[simp] theorem State.schedule_pending (s : State) (c : Change) :
    (State.schedule s c).pending = s.pending := by rfl

@[simp] theorem State.reply_pending (s : State) (q : Request) (status stamp : Nat) (payload : Bytes) :
    (State.reply s q status stamp payload).pending = s.pending := by
  simp [State.reply]

@[simp] theorem State.note_pending (s : State) (f opcode context tag status stamp : Nat) (payload : Bytes) :
    (State.note s f opcode context tag status stamp payload).pending = s.pending := by
  simp [State.note]

@[simp] theorem State.noteNode_pending (s : State) (opcode status stamp : Nat) (payload : Bytes) :
    (State.noteNode s opcode status stamp payload).pending = s.pending := by
  simp [State.noteNode]

@[simp] theorem State.noteFailed_pending (s : State) (q : Request) (status stamp : Nat) :
    (State.noteFailed s q status stamp).pending = s.pending := by
  simp [State.noteFailed]

@[simp] theorem State.hbmWrite_pending (s : State) (a : Nat) (b : Bytes) :
    (State.hbmWrite s a b).pending = s.pending := by rfl

@[simp] theorem State.draw_pending (s : State) :
    (State.draw s).pending = s.pending := by rfl

@[simp] theorem State.drawN_pending (s : State) (n : Nat) :
    (State.drawN s n).pending = s.pending := by rfl

@[simp] theorem State.count_pending (s : State) (g : NodeCounters → NodeCounters) :
    (State.count s g).pending = s.pending := by rfl

@[simp] theorem State.countStops_pending (s : State) (n : Nat) :
    (State.countStops s n).pending = s.pending := by
  simp [State.countStops]

@[simp] theorem State.ctxCount_pending (s : State) (context : Nat) (g : ContextCounters → ContextCounters) :
    (State.ctxCount s context g).pending = s.pending := by rfl

@[simp] theorem State.scheduledDrop_pending (s : State) :
    (State.scheduledDrop s).pending = s.pending := by rfl

@[simp] theorem State.tagFault_pending (s : State) (context : Nat) :
    (State.tagFault s context).pending = s.pending := by rfl

@[simp] theorem State.takeTag_pending (s : State) (t : Nat) :
    (State.takeTag s t).pending = s.pending := by rfl

@[simp] theorem State.dropTag_pending (s : State) (t : Nat) :
    (State.dropTag s t).pending = s.pending := by rfl

/-! ## Arbiter -/

@[simp] theorem State.modArbiter_pending (s : State) (n : Nat) (g : Arbiter → Arbiter) :
    (State.modArbiter s n g).pending = s.pending := by rfl

@[simp] theorem State.closeFrame_pending (s : State) (port : Nat) :
    (State.closeFrame s port).pending = s.pending := by
  simp [State.closeFrame]

@[simp] theorem State.egress_pending (s : State) (port : Nat) (requests : BitVec 8) (blocked : BitVec 8) (tenure : Nat) (waited : List Nat) (cycle : Nat) :
    (State.egress s port requests blocked tenure waited cycle).pending = s.pending := by
  simp [State.egress]

@[simp] theorem arbiterDecisionEff_pending (n : Nat) (requests : BitVec 8) (blocked : BitVec 8) (tenure : Nat) (waited : List Nat) (cycle : Nat) (s : State) :
    (arbiterDecisionEff n requests blocked tenure waited cycle s).pending = s.pending := by
  simp [arbiterDecisionEff]

/-! ## Operands -/

@[simp] theorem State.flush_pending (s : State) (f : Nat) :
    (State.flush s f).pending = s.pending := by rfl

@[simp] theorem State.popRequest_pending (s : State) (f : Nat) :
    (State.popRequest s f).pending = s.pending := by rfl

@[simp] theorem State.turnAway_pending (s : State) (f : Nat) (opcode : Nat) :
    (State.turnAway s f opcode).pending = s.pending := by
  unfold State.turnAway; (repeat' split) <;> simp

theorem State.serve_pending {s : State} {f op : Nat} {act : State → Request → State × Option (Nat × Nat × Bytes)}
    (h : ∀ t q, (act t q).1.pending = t.pending) : (s.serve f op act).pending = s.pending := by
  unfold State.serve
  split
  · exact State.turnAway_pending ..
  · simp only []
    split <;> simp [h]

@[simp] theorem refuse_pending (s : State) (status : Nat) (payload : optParam Bytes []) :
    (refuse s status payload).1.pending = s.pending := by rfl

@[simp] theorem accept_pending (s : State) (c : Change) (payload : optParam Bytes []) :
    (accept s c payload).1.pending = s.pending := by rfl

@[simp] theorem report_pending (s : State) (payload : Bytes) :
    (report s payload).1.pending = s.pending := by rfl

@[simp] theorem defer_pending (s : State) (e : Event) (q : Request) (adopted : Nat) :
    (defer s e q adopted).pending = s.pending := by rfl

@[simp] theorem State.happened_pending (s : State) (e : Event) (status : Nat) (stamp : Option Nat) (p : Bytes) :
    (State.happened s e status stamp p).pending = s.pending := by
  simp [State.happened]

/-! ## Mailbox -/

@[simp] theorem mbSubmitEff_pending (f : Nat) (s : State) :
    (mbSubmitEff f s).pending = s.pending := by
  simp [mbSubmitEff]

@[simp] theorem requestTakeEff_pending (f : Nat) (fetched : Bytes) (s : State) :
    (requestTakeEff f fetched s).pending = s.pending := by
  simp [requestTakeEff]

@[simp] theorem mbReplyAckEff_pending (f : Nat) (s : State) :
    (mbReplyAckEff f s).pending = s.pending := by
  simp [mbReplyAckEff]

@[simp] theorem replyPostEff_pending (f : Nat) (s : State) :
    (replyPostEff f s).pending = s.pending := by
  unfold replyPostEff; simp only []; (repeat' split) <;> simp

@[simp] theorem noteHeadWriteEff_pending (f : Nat) (value : Word32) (s : State) :
    (noteHeadWriteEff f value s).pending = s.pending := by
  simp [noteHeadWriteEff]

@[simp] theorem notificationPostEff_pending (f : Nat) (s : State) :
    (notificationPostEff f s).pending = s.pending := by
  unfold notificationPostEff; simp only []; (repeat' split) <;> simp

/-! ## Registers -/

@[simp] theorem intCauseClearEff_pending (f : Nat) (value reassert : Word32) (s : State) :
    (intCauseClearEff f value reassert s).pending = s.pending := by
  simp [intCauseClearEff]

@[simp] theorem intMaskWriteEff_pending (f : Nat) (value : Word32) (s : State) :
    (intMaskWriteEff f value s).pending = s.pending := by
  simp [intMaskWriteEff]

@[simp] theorem dbFaultClearEff_pending (f : Nat) (value : Word32) (reassert : Word32) (s : State) :
    (dbFaultClearEff f value reassert s).pending = s.pending := by
  simp [dbFaultClearEff]

@[simp] theorem bar2ErrClearEff_pending (f : Nat) (value : Word32) (reassert : Word32) (s : State) :
    (bar2ErrClearEff f value reassert s).pending = s.pending := by
  simp [bar2ErrClearEff]

@[simp] theorem arbFlagsClearEff_pending (f : Nat) (n : Nat) (value : Word32) (reassert : Word32) (s : State) :
    (arbFlagsClearEff f n value reassert s).pending = s.pending := by
  simp [arbFlagsClearEff]

@[simp] theorem strideLoReadEff_pending (f : Nat) (s : State) :
    (strideLoReadEff f s).pending = s.pending := by
  simp [strideLoReadEff]

@[simp] theorem State.modBell_pending (s : State) (b : Doorbell) (g : Ring → Ring) :
    (State.modBell s b g).pending = s.pending := by
  unfold State.modBell; split <;> simp

@[simp] theorem State.doorbellFault_pending (s : State) (f : Nat) (b : Doorbell) (reason : Nat) :
    (State.doorbellFault s f b reason).pending = s.pending := by
  simp [State.doorbellFault]

@[simp] theorem State.doorbell_pending (s : State) (f : Nat) (b : Doorbell) (fault : Ring → Nat) (g : Ring → Ring) :
    (State.doorbell s f b fault g).pending = s.pending := by
  unfold State.doorbell; (repeat' split) <;> simp

@[simp] theorem subTailWriteEff_pending (f : Nat) (b : Doorbell) (value : Word32) (s : State) :
    (subTailWriteEff f b value s).pending = s.pending := by
  simp [subTailWriteEff]

@[simp] theorem cplHeadWriteEff_pending (f : Nat) (b : Doorbell) (value : Word32) (s : State) :
    (cplHeadWriteEff f b value s).pending = s.pending := by
  simp [cplHeadWriteEff]

@[simp] theorem msixVectorUnmaskEff_pending (f v : Nat) (s : State) :
    (msixVectorUnmaskEff f v s).pending = s.pending := by
  simp [msixVectorUnmaskEff]

@[simp] theorem msixVectorMask_pending (f : Nat) (v : Nat) (s : State) :
    (msixVectorMask f v s).pending = s.pending := by rfl

/-! ## Gait -/

@[simp] theorem State.needs_pending (s : State) (word : Nat) (a : Nat) (k : Nat) (due : Nat) (t : Nat) (cost : Nat) :
    (State.needs s word a k due t cost).pending = s.pending := by
  simp [State.needs]

@[simp] theorem State.takeShare_pending (s : State) (a : Nat) (k : Nat) (handles : Nat) (need : Nat) :
    (State.takeShare s a k handles need).pending = s.pending := by rfl

@[simp] theorem State.admitTo_pending (s : State) (k : Nat) :
    (State.admitTo s k).pending = s.pending := by rfl

/-! ## Bar2 -/

@[simp] theorem State.issueOp_pending (s : State) (cls context : Nat) (func : Option Nat) (address op size a b : Nat) :
    (s.issueOp cls context func address op size a b).1.pending = s.pending := by
  unfold State.issueOp
  simp only []
  repeat' split
  all_goals simp

@[simp] theorem State.bar2Latch_pending (s : State) (f : Nat) (status : Nat) (aperture : Nat) (write : Bool) (address : Nat) :
    (State.bar2Latch s f status aperture write address).pending = s.pending := by
  simp [State.bar2Latch]

@[simp] theorem State.bar2Fail_pending (s : State) (f status aperture : Nat) (write : Bool) (address : Nat) :
    (State.bar2Fail s f status aperture write address).pending = s.pending := by
  simp [State.bar2Fail]

@[simp] theorem State.bar2Complete_pending (s : State) (q : Bar2Request) :
    (State.bar2Complete s q).pending = s.pending := by
  unfold State.bar2Complete; (repeat' split) <;> simp

@[simp] theorem State.bar2Start_pending (s : State) (f kind address : Nat) (ap : Aperture) (pieces : List (Nat × Nat))
    (op : Nat → Nat → Nat ⊕ (Nat × Nat × Nat)) : (s.bar2Start f kind address ap pieces op).pending = s.pending := by
  unfold State.bar2Start
  simp only []
  have key : ∀ (r : State × Bar2Request), r.1.pending = s.pending →
      (if r.2.finished = true then r.1.bar2Complete r.2
        else { r.1 with fab := { r.1.fab with requests := r.1.fab.requests ++ [r.2] } }).pending = s.pending := by
    intro r hr
    split <;> simp [hr]
  refine key _ ?_
  rw [foldl_fst_pending]
  intro x p
  split
  · simp
  · split
    · next heq2 =>
      have := congrArg (fun x : State × (Nat ⊕ Nat) => x.1.pending) heq2
      simpa using this.symm
    · next heq2 =>
      have := congrArg (fun x : State × (Nat ⊕ Nat) => x.1.pending) heq2
      simpa using this.symm

@[simp] theorem State.bar2Invalid_pending (s : State) (f kind address : Nat) :
    (State.bar2Invalid s f kind address).pending = s.pending := by
  simp [State.bar2Invalid]

@[simp] theorem State.bar2DoRead_pending (s : State) (f address length : Nat) :
    (State.bar2DoRead s f address length).pending = s.pending := by
  simp [State.bar2DoRead]

@[simp] theorem State.bar2DoWrite_pending (s : State) (f address : Nat) (data : Bytes) :
    (State.bar2DoWrite s f address data).pending = s.pending := by
  simp [State.bar2DoWrite]

@[simp] theorem State.bar2DoAtomic_pending (s : State) (f address op size : Nat) (a b : Word64) :
    (State.bar2DoAtomic s f address op size a b).pending = s.pending := by
  simp [State.bar2DoAtomic]

@[simp] theorem State.bar2DoFence_pending (s : State) (f : Nat) :
    (State.bar2DoFence s f).pending = s.pending := by rfl

@[simp] theorem State.bar2Run_pending (s : State) (i : Instr) : (s.bar2Run i).pending = s.pending := by
  unfold State.bar2Run
  split <;> simp [State.bar2DoRead, State.bar2DoWrite, State.bar2DoAtomic]

@[simp] theorem State.bar2Release_pending (f n : Nat) (s : State) :
    (State.bar2Release f n s).pending = s.pending := by
  induction n generalizing s with
  | zero => rfl
  | succ n ih =>
    unfold State.bar2Release
    split
    · simp [ih]
    · rfl

@[simp] theorem State.bar2Take_pending (s : State) (f : Nat) (i : Instr) :
    (State.bar2Take s f i).pending = s.pending := by
  simp [State.bar2Take]

@[simp] theorem bar2Eff_pending (f : Nat) (i : Instr) (completes : Bool) (s : State) :
    (bar2Eff f i completes s).pending = s.pending := by
  simp [bar2Eff]

@[simp] theorem bar2AtomicEff_pending (f : Nat) (address : Nat) (op : Nat) (size : Nat) (a : Word64) (b : Word64) (s : State) :
    (bar2AtomicEff f address op size a b s).pending = s.pending := by
  simp [bar2AtomicEff]

@[simp] theorem State.bar2Result_pending (s : State) (f tag status result : Nat) :
    (State.bar2Result s f tag status result).pending = s.pending := by
  unfold State.bar2Result; split <;> simp

@[simp] theorem State.completeOp_pending (s : State) (o : OutOp) (status result : Nat) :
    (State.completeOp s o status result).pending = s.pending := by
  unfold State.completeOp; split <;> simp

@[simp] theorem operationTimeoutEff_pending (s : State) :
    (operationTimeoutEff s).pending = s.pending := by
  simp [operationTimeoutEff]

@[simp] theorem scheduledOperationIssueEff_pending (cls : Nat) (record : Bytes) (isFence : Bool) (s : State) :
    (scheduledOperationIssueEff cls record isFence s).pending = s.pending := by
  unfold scheduledOperationIssueEff; split <;> simp

/-! ## Link -/

@[simp] theorem State.detach_pending (s : State) (f : Nat) :
    (State.detach s f).pending = s.pending := by rfl

@[simp] theorem State.attach_pending (s : State) (f : Nat) :
    (State.attach s f).pending = s.pending := by
  simp [State.attach]

@[simp] theorem State.detachAll_pending (s : State) (fs : List Nat) :
    (State.detachAll s fs).pending = s.pending := by
  simp [State.detachAll]

@[simp] theorem State.peerLink_pending (s : State) (link : Nat) :
    (State.peerLink s link).pending = s.pending := by
  simp [State.peerLink]

@[simp] theorem linkUpEff_pending (link : Nat) (rates : BitVec 6) (s : State) :
    (linkUpEff link rates s).pending = s.pending := by
  simp [linkUpEff]

@[simp] theorem linkDownEff_pending (link : Nat) (s : State) :
    (linkDownEff link s).pending = s.pending := by
  simp [linkDownEff]

@[simp] theorem functionLevelResetEff_pending (f : Nat) (s : State) :
    (functionLevelResetEff f s).pending = s.pending := by
  simp [functionLevelResetEff]

@[simp] theorem vfRemovalEff_pending (link n : Nat) (s : State) :
    (vfRemovalEff link n s).pending = s.pending := by
  simp [vfRemovalEff]

@[simp] theorem busMasterEnableWriteEff_pending (f : Nat) (enable : Bool) (s : State) :
    (busMasterEnableWriteEff f enable s).pending = s.pending := by
  simp [busMasterEnableWriteEff]

/-! ## Rings -/

@[simp] theorem State.modRing_pending (s : State) (id : Nat) (g : Ring → Ring) :
    (State.modRing s id g).pending = s.pending := by rfl

@[simp] theorem State.modQueue_pending (s : State) (id : Nat) (g : Ring → Ring) :
    (State.modQueue s id g).pending = s.pending := by rfl

theorem State.admitRing_pending {s : State} {id kind : Nat} {entry : Bytes} {act : State → Admission → State}
    (h : ∀ t a, (act t a).pending = t.pending) : (s.admitRing id kind entry act).pending = s.pending := by
  unfold State.admitRing
  repeat' split
  all_goals simp [h]

@[simp] theorem State.dropCompletions_pending (s : State) (n : Nat) :
    (State.dropCompletions s n).pending = s.pending := by rfl

@[simp] theorem State.complete_pending (s : State) (id admitAt order : Nat) (entry : Bytes) :
    (State.complete s id admitAt order entry).pending = s.pending := by rfl

@[simp] theorem State.completeQueue_pending (s : State) (id admitAt order : Nat) (entry : Bytes) :
    (State.completeQueue s id admitAt order entry).pending = s.pending := by rfl

@[simp] theorem State.putCompletions_pending (s : State) (r : Ring) (i : Nat) (l : List (Nat × Nat × Nat × Bytes)) :
    (s.putCompletions r i l).pending = s.pending := by
  induction l generalizing s i with
  | nil => rfl
  | cons x l ih => obtain ⟨_, _, _, e⟩ := x; simp [State.putCompletions, ih]

theorem State.place_pending {s : State} {n : Nat} {r : Ring} {store : State → (Ring → Ring) → State}
    (h : ∀ t g, (store t g).pending = t.pending) : (s.place n r store).pending = s.pending := by
  unfold State.place; simp only []
  split
  · rfl
  · rw [h]; simp

@[simp] theorem State.placeAll_pending (s : State) (n : Nat) : (s.placeAll n).pending = s.pending := by
  unfold State.placeAll; simp only []
  rw [foldl_pending fun t a => State.place_pending (by simp), foldl_pending fun t a => State.place_pending (by simp)]

theorem State.publish_pending {s : State} {r : Ring} {store : State → (Ring → Ring) → State}
    (h : ∀ t g, (store t g).pending = t.pending) : (s.publish r store).pending = s.pending := by
  unfold State.publish; simp only []
  split
  · rfl
  · simp [h]

@[simp] theorem State.ringDrained_pending (s : State) (id : Nat) :
    (State.ringDrained s id).pending = s.pending := by
  unfold State.ringDrained; split <;> simp

@[simp] theorem State.sendVectors_pending (s : State) (l : List (Nat × Nat)) :
    (State.sendVectors s l).pending = s.pending := by
  simp [State.sendVectors]

@[simp] theorem State.publishAll_pending (s : State) : s.publishAll.pending = s.pending := by
  unfold State.publishAll; simp only []
  rw [foldl_pending (State.ringDrained_pending ·)]
  simp only [State.sendVectors_pending]
  rw [foldl_pending fun t a => State.publish_pending (by simp), foldl_pending fun t a => State.publish_pending (by simp)]
  simp

@[simp] theorem State.modIndex_pending (s : State) (id : Nat) (g : Index → Index) :
    (State.modIndex s id g).pending = s.pending := by rfl

@[simp] theorem State.modTable_pending (s : State) (id : Nat) (g : Table → Table) :
    (State.modTable s id g).pending = s.pending := by rfl

@[simp] theorem State.modResidency_pending (s : State) (id : Nat) (g : Residency → Residency) :
    (State.modResidency s id g).pending = s.pending := by
  simp [State.modResidency]

/-! ## Context -/

@[simp] theorem State.shrinkHbm_pending (s : State) (context keep : Nat) :
    (State.shrinkHbm s context keep).pending = s.pending := by rfl

@[simp] theorem State.shrinkDdr_pending (s : State) (context keep : Nat) :
    (State.shrinkDdr s context keep).pending = s.pending := by rfl

@[simp] theorem State.grantOwn_pending (s : State) :
    (State.grantOwn s).pending = s.pending := by rfl

@[simp] theorem State.adoptReservation_pending (s : State) (context : Nat) (r : Reservation) :
    (State.adoptReservation s context r).pending = s.pending := by
  simp [State.adoptReservation]

@[simp] theorem contextCreateEff_pending (f : Nat) (s : State) :
    (contextCreateEff f s).pending = s.pending := by
  unfold contextCreateEff; apply State.serve_pending; intro t q; simp only [refuse, accept, report]; (repeat' split) <;> simp

@[simp] theorem contextCloseEff_pending (f : Nat) (s : State) :
    (contextCloseEff f s).pending = s.pending := by
  unfold contextCloseEff; apply State.serve_pending; intro t q; simp only [refuse, accept, report]; (repeat' split) <;> simp

@[simp] theorem contextReserveEff_pending (f : Nat) (s : State) :
    (contextReserveEff f s).pending = s.pending := by
  unfold contextReserveEff; apply State.serve_pending; intro t q; simp only [refuse, accept, report]; (repeat' split) <;> simp

@[simp] theorem contextStatusEff_pending (f : Nat) (s : State) :
    (contextStatusEff f s).pending = s.pending := by
  unfold contextStatusEff; apply State.serve_pending; intro t q; simp only [refuse, accept, report]; (repeat' split) <;> simp

@[simp] theorem ringOpenEff_pending (f : Nat) (s : State) :
    (ringOpenEff f s).pending = s.pending := by
  unfold ringOpenEff; apply State.serve_pending; intro t q; simp only [refuse, accept, report]; (repeat' split) <;> simp

@[simp] theorem ringCloseEff_pending (f : Nat) (s : State) :
    (ringCloseEff f s).pending = s.pending := by
  unfold ringCloseEff; apply State.serve_pending; intro t q; simp only [refuse, accept, report]; (repeat' split) <;> simp

@[simp] theorem residencySetEff_pending (f : Nat) (s : State) :
    (residencySetEff f s).pending = s.pending := by
  unfold residencySetEff; apply State.serve_pending; intro t q; simp only [refuse, accept, report]; (repeat' split) <;> simp

@[simp] theorem residencyPinEff_pending (f : Nat) (s : State) :
    (residencyPinEff f s).pending = s.pending := by
  unfold residencyPinEff; apply State.serve_pending; intro t q; simp only [refuse, accept, report]; (repeat' split) <;> simp

@[simp] theorem residencyReplicateEff_pending (f : Nat) (s : State) :
    (residencyReplicateEff f s).pending = s.pending := by
  unfold residencyReplicateEff; apply State.serve_pending; intro t q; simp only [refuse, accept, report]; (repeat' split) <;> simp

/-! ## IndexMsg -/

@[simp] theorem indexCreateEff_pending (f : Nat) (s : State) :
    (indexCreateEff f s).pending = s.pending := by
  unfold indexCreateEff; apply State.serve_pending; intro t q; simp only [refuse, accept, report]; (repeat' split) <;> simp

@[simp] theorem indexCloseEff_pending (f : Nat) (s : State) :
    (indexCloseEff f s).pending = s.pending := by
  unfold indexCloseEff; apply State.serve_pending; intro t q; simp only [refuse, accept, report]; (repeat' split) <;> simp

@[simp] theorem indexBuildEff_pending (f : Nat) (s : State) :
    (indexBuildEff f s).pending = s.pending := by
  unfold indexBuildEff; apply State.serve_pending; intro t q; simp only [refuse, accept, report]; (repeat' split) <;> simp

@[simp] theorem indexCompactEff_pending (f : Nat) (s : State) :
    (indexCompactEff f s).pending = s.pending := by
  unfold indexCompactEff; apply State.serve_pending; intro t q; simp only [refuse, accept, report]; (repeat' split) <;> simp

@[simp] theorem indexSwitchEff_pending (f : Nat) (s : State) :
    (indexSwitchEff f s).pending = s.pending := by
  unfold indexSwitchEff; apply State.serve_pending; intro t q; simp only [refuse, accept, report]; (repeat' split) <;> simp

@[simp] theorem indexReleaseEff_pending (f : Nat) (s : State) :
    (indexReleaseEff f s).pending = s.pending := by
  unfold indexReleaseEff; apply State.serve_pending; intro t q; simp only [refuse, accept, report]; (repeat' split) <;> simp

@[simp] theorem indexStatusEff_pending (f : Nat) (s : State) :
    (indexStatusEff f s).pending = s.pending := by
  unfold indexStatusEff; apply State.serve_pending; intro t q; simp only [refuse, accept, report]; (repeat' split) <;> simp

@[simp] theorem tableCreateEff_pending (f : Nat) (s : State) :
    (tableCreateEff f s).pending = s.pending := by
  unfold tableCreateEff; apply State.serve_pending; intro t q; simp only [refuse, accept, report]; (repeat' split) <;> simp

@[simp] theorem tableCloseEff_pending (f : Nat) (s : State) :
    (tableCloseEff f s).pending = s.pending := by
  unfold tableCloseEff; apply State.serve_pending; intro t q; simp only [refuse, accept, report]; (repeat' split) <;> simp

@[simp] theorem tableBuildEff_pending (f : Nat) (s : State) :
    (tableBuildEff f s).pending = s.pending := by
  unfold tableBuildEff; apply State.serve_pending; intro t q; simp only [refuse, accept, report]; (repeat' split) <;> simp

@[simp] theorem tableFoldEff_pending (f : Nat) (s : State) :
    (tableFoldEff f s).pending = s.pending := by
  unfold tableFoldEff; apply State.serve_pending; intro t q; simp only [refuse, accept, report]; (repeat' split) <;> simp

@[simp] theorem tableSwitchEff_pending (f : Nat) (s : State) :
    (tableSwitchEff f s).pending = s.pending := by
  unfold tableSwitchEff; apply State.serve_pending; intro t q; simp only [refuse, accept, report]; (repeat' split) <;> simp

@[simp] theorem tableReleaseEff_pending (f : Nat) (s : State) :
    (tableReleaseEff f s).pending = s.pending := by
  unfold tableReleaseEff; apply State.serve_pending; intro t q; simp only [refuse, accept, report]; (repeat' split) <;> simp

@[simp] theorem tableStatusEff_pending (f : Nat) (s : State) :
    (tableStatusEff f s).pending = s.pending := by
  unfold tableStatusEff; apply State.serve_pending; intro t q; simp only [refuse, accept, report]; (repeat' split) <;> simp

@[simp] theorem tableRowWriteEff_pending (f : Nat) (s : State) :
    (tableRowWriteEff f s).pending = s.pending := by
  unfold tableRowWriteEff; apply State.serve_pending; intro t q; simp only [refuse, accept, report]; (repeat' split) <;> simp

/-! ## Flash -/

@[simp] theorem State.modChannel_pending (s : State) (c : Nat) (g : FlashChannel → FlashChannel) :
    (State.modChannel s c g).pending = s.pending := by rfl

@[simp] theorem State.modPaddock_pending (s : State) (p : Nat) (g : Paddock → Paddock) :
    (State.modPaddock s p g).pending = s.pending := by rfl

@[simp] theorem State.wait_pending (s : State) (c : Nat) (o : ArrayOp) :
    (State.wait s c o).pending = s.pending := by rfl

@[simp] theorem State.chargeFlash_pending (s : State) :
    (State.chargeFlash s).pending = s.pending := by rfl

@[simp] theorem State.issue_pending (s : State) (ch : Nat) (o : ArrayOp) :
    (State.issue s ch o).pending = s.pending := by
  unfold State.issue; simp only []; (repeat' split) <;> simp

@[simp] theorem State.moveOut_pending (s : State) (ch key n : Nat) (cls : Nat) (paid : Bool) :
    (State.moveOut s ch key n cls paid).pending = s.pending := by
  simp [State.moveOut]

@[simp] theorem State.collect_pending (s : State) (ch : Nat) (pad : Nat) (cls : Nat) :
    (State.collect s ch pad cls).pending = s.pending := by
  unfold State.collect; simp only []; (repeat' split) <;> simp_all

@[simp] theorem State.writeOwn_pending (s : State) (cls : Nat) (pages : Nat → List Nat) :
    (State.writeOwn s cls pages).pending = s.pending := by
  simp [State.writeOwn]

@[simp] theorem State.readOwn_pending (s : State) (object : Nat) (version : Nat) (reads : List FlashRead) :
    (State.readOwn s object version reads).pending = s.pending := by rfl

@[simp] theorem State.trimOwn_pending (s : State) :
    (State.trimOwn s).pending = s.pending := by rfl

@[simp] theorem State.bootWrite_pending (s : State) (ch : Nat) (bytes : Nat) :
    (State.bootWrite s ch bytes).pending = s.pending := by rfl

@[simp] theorem State.enterReadOnly_pending (s : State) (ch : Nat) :
    (State.enterReadOnly s ch).pending = s.pending := by
  simp [State.enterReadOnly]

@[simp] theorem State.retireBlock_pending (s : State) (ch key : Nat) :
    (State.retireBlock s ch key).pending = s.pending := by
  simp [State.retireBlock]

@[simp] theorem State.readRecord_pending (s : State) (index : Nat) (dim : Nat) (shard : Nat) (slot : Nat) (record : Bytes) (r : FlashRead) :
    (State.readRecord s index dim shard slot record r).pending = s.pending := by
  unfold State.readRecord; simp only []; (repeat' split) <;> simp_all

@[simp] theorem State.journalled_pending (s : State) (ch : Nat) (pad : Nat) (unit : Nat) (count : Nat) :
    (State.journalled s ch pad unit count).pending = s.pending := by rfl

@[simp] theorem State.deferFail_pending (s : State) (ch : Nat) (pad : Nat) (units : List (Nat × Nat)) :
    (State.deferFail s ch pad units).pending = s.pending := by rfl

@[simp] theorem State.takeAnswers_pending (s : State) (pad : Nat) (units : List (Nat × Nat)) (answers : List PartnerUnit) :
    (State.takeAnswers s pad units answers).pending = s.pending := by rfl

@[simp] theorem State.recover_pending {s : State} {ch : Nat} {o : ArrayOp} {bad : List (Nat × Nat)} {answers : List PartnerUnit}
    {go : State → ArrayOp → State} (h : ∀ t o, (go t o).pending = t.pending) :
    (s.recover ch o bad answers go).pending = s.pending := by
  unfold State.recover; simp only []
  split
  · simp
  · split
    · split <;> simp
    · rw [h]; split <;> simp

@[simp] theorem State.readMoved_pending (s : State) (ch : Nat) (o : ArrayOp) (r : FlashRead) :
    (State.readMoved s ch o r).pending = s.pending := by
  unfold State.readMoved; (repeat' split) <;> simp

@[simp] theorem State.levelStep_pending (s : State) (ch : Nat) :
    (State.levelStep s ch).pending = s.pending := by
  unfold State.levelStep; split <;> simp

@[simp] theorem arrayOperationIssueEff_pending (ch : Nat) (lost : List Nat) (reads : List FlashRead) (answers : List PartnerUnit) (s : State) :
    (arrayOperationIssueEff ch lost reads answers s).pending = s.pending := by
  unfold arrayOperationIssueEff; (repeat' split) <;> simp

@[simp] theorem State.levelFrom_pending (s : State) (ch above : Nat) :
    (State.levelFrom s ch above).pending = s.pending := by
  unfold State.levelFrom; split <;> simp

@[simp] theorem arrayOperationCompleteEff_pending (ch t : Nat) (good : Bool) (s : State) :
    (arrayOperationCompleteEff ch t good s).pending = s.pending := by
  unfold arrayOperationCompleteEff; split <;> simp

@[simp] theorem State.pageGood_pending (s : State) (ch : Nat) (o : ArrayOp) :
    (State.pageGood s ch o).pending = s.pending := by
  simp [State.pageGood]

@[simp] theorem State.fwWritten_pending (s : State) (ch : Nat) : (s.fwWritten ch).pending = s.pending := by
  unfold State.fwWritten; simp only []
  split
  · rfl
  · (repeat' split) <;> first | rfl | exact State.happened_pending ..

@[simp] theorem programStatusReadEff_pending (ch : Nat) (t : Nat) (s : State) :
    (programStatusReadEff ch t s).pending = s.pending := by
  unfold programStatusReadEff; (repeat' split) <;> simp

@[simp] theorem State.switchMoves_pending (s : State) (ch : Nat) :
    (State.switchMoves s ch).pending = s.pending := by
  simp [State.switchMoves]

@[simp] theorem State.formPages_pending (pad ch n : Nat) (s : State) :
    (State.formPages pad ch n s).pending = s.pending := by
  induction n generalizing s with
  | zero => rfl
  | succ n ih =>
    unfold State.formPages
    simp only []
    split <;> simp [ih]

@[simp] theorem pagePaddingTimeoutEff_pending (pad ch : Nat) (s : State) :
    (pagePaddingTimeoutEff pad ch s).pending = s.pending := by
  simp [pagePaddingTimeoutEff]

@[simp] theorem wearLevelCheckEff_pending (s : State) :
    (wearLevelCheckEff s).pending = s.pending := by
  simp [wearLevelCheckEff]

@[simp] theorem State.writeJournal_pending (s : State) :
    (State.writeJournal s).pending = s.pending := by rfl

@[simp] theorem mapCheckpointEff_pending (s : State) :
    (mapCheckpointEff s).pending = s.pending := by
  simp [mapCheckpointEff]

@[simp] theorem flashTemperatureSampleEff_pending (celsius : List Int) (s : State) :
    (flashTemperatureSampleEff celsius s).pending = s.pending := by
  simp [flashTemperatureSampleEff]

@[simp] theorem flashHealthLogEff_pending (f : Nat) (s : State) :
    (flashHealthLogEff f s).pending = s.pending := by
  unfold flashHealthLogEff; apply State.serve_pending; intro t q; simp only [refuse, accept, report]; (repeat' split) <;> simp

/-! ## Rs -/

@[simp] theorem State.poisonBlocks_pending (s : State) (b n : Nat) :
    (State.poisonBlocks s b n).pending = s.pending := by
  simp [State.poisonBlocks]

@[simp] theorem State.modStack_pending (s : State) (stack : Nat) (g : StackCounters → StackCounters) :
    (State.modStack s stack g).pending = s.pending := by rfl

@[simp] theorem State.countRead_pending (s : State) (address : Nat) (r : BlockRead) :
    (State.countRead s address r).pending = s.pending := by rfl

@[simp] theorem State.countWait_pending (s : State) (block : Nat) :
    (State.countWait s block).pending = s.pending := by rfl

@[simp] theorem State.countDieWait_pending (s : State) (address : Nat) (n : Nat) :
    (State.countDieWait s address n).pending = s.pending := by
  simp [State.countDieWait]

@[simp] theorem State.longerDelay_pending (s : State) (stack : Nat) :
    (State.longerDelay s stack).pending = s.pending := by rfl

@[simp] theorem State.endDieWait_pending (s : State) (address : Nat) (n : Nat) :
    (State.endDieWait s address n).pending = s.pending := by
  unfold State.endDieWait; (repeat' split) <;> simp

@[simp] theorem State.countRange_pending (s : State) (address : Nat) (n : Nat) :
    (State.countRange s address n).pending = s.pending := by
  simp [State.countRange]

/-! ## Storage -/

@[simp] theorem paddockCreateEff_pending (f : Nat) (s : State) :
    (paddockCreateEff f s).pending = s.pending := by
  unfold paddockCreateEff; apply State.serve_pending; intro t q; simp only [refuse, accept, report]; (repeat' split) <;> simp

@[simp] theorem paddockDeleteEff_pending (f : Nat) (s : State) :
    (paddockDeleteEff f s).pending = s.pending := by
  unfold paddockDeleteEff; apply State.serve_pending; intro t q; simp only [refuse, accept, report]; (repeat' split) <;> simp

@[simp] theorem paddockStatusEff_pending (f : Nat) (s : State) :
    (paddockStatusEff f s).pending = s.pending := by
  unfold paddockStatusEff; apply State.serve_pending; intro t q; simp only [refuse, accept, report]; (repeat' split) <;> simp

@[simp] theorem storageQueueCreateEff_pending (f : Nat) (s : State) :
    (storageQueueCreateEff f s).pending = s.pending := by
  unfold storageQueueCreateEff; apply State.serve_pending; intro t q; simp only [refuse, accept, report]; (repeat' split) <;> simp

@[simp] theorem storageQueueDeleteEff_pending (f : Nat) (s : State) :
    (storageQueueDeleteEff f s).pending = s.pending := by
  unfold storageQueueDeleteEff; apply State.serve_pending; intro t q; simp only [refuse, accept, report]; (repeat' split) <;> simp

@[simp] theorem storageWeightsSetEff_pending (f : Nat) (s : State) :
    (storageWeightsSetEff f s).pending = s.pending := by
  unfold storageWeightsSetEff; apply State.serve_pending; intro t q; simp only [refuse, accept, report]; (repeat' split) <;> simp

@[simp] theorem State.queueDrained_pending (s : State) (id : Nat) :
    (State.queueDrained s id).pending = s.pending := by
  unfold State.queueDrained; split <;> simp

@[simp] theorem State.paddockDrained_pending (s : State) (n : Nat) :
    (State.paddockDrained s n).pending = s.pending := by
  unfold State.paddockDrained; split <;> simp

@[simp] theorem State.finishCommand_pending (s : State) (n : Nat) (c : StorageCommand) :
    (State.finishCommand s n c).pending = s.pending := by
  simp [State.finishCommand]

@[simp] theorem State.admitCommand_pending (s : State) (cls : Nat) (r : Ring) (h : QueueHead) :
    (State.admitCommand s cls r h).pending = s.pending := by
  simp [State.admitCommand]

theorem State.nextStorage_pending {s : State} {cls : Nat} {ready : List (Nat × Nat)} {q : Nat} {t : State}
    (h : s.nextStorage cls ready = some (q, t)) : t.pending = s.pending := by
  unfold State.nextStorage at h
  simp only [] at h
  repeat' split at h
  all_goals simp only [Option.some.injEq, Prod.mk.injEq, reduceCtorEq, Option.map_eq_some_iff] at h
  all_goals first
    | (obtain ⟨-, rfl⟩ := h; rfl)
    | (obtain ⟨_, _, -, rfl⟩ := h; rfl)

@[simp] theorem State.admitStorage_pending (cls n : Nat) (heads : List QueueHead) (s : State) :
    (State.admitStorage cls n heads s).pending = s.pending := by
  induction n generalizing heads s with
  | zero => rfl
  | succ n ih =>
    unfold State.admitStorage
    simp only []
    split
    · rfl
    · next heq =>
      have := State.nextStorage_pending heq
      repeat' split
      all_goals simp [ih, this]

@[simp] theorem storageAdmissionEff_pending (cls : Nat) (heads : List QueueHead) (s : State) :
    (storageAdmissionEff cls heads s).pending = s.pending := by
  simp [storageAdmissionEff]

@[simp] theorem State.modStorage_pending (s : State) (n : Nat) (g : StorageCommand → StorageCommand) :
    (State.modStorage s n g).pending = s.pending := by rfl

@[simp] theorem State.mediaError_pending (s : State) (n : Nat) (c : StorageCommand) (u : Nat) (phys : Nat) :
    (State.mediaError s n c u phys).pending = s.pending := by rfl

@[simp] theorem State.readFails_pending (s : State) (n : Nat) (c : StorageCommand) (p : Paddock) (u phys : Nat) :
    (State.readFails s n c p u phys).pending = s.pending := by
  unfold State.readFails; (repeat' split) <;> simp

@[simp] theorem State.readUnit_pending (s : State) (n : Nat) (c : StorageCommand) (reads : List FlashRead) (u : Nat) :
    (State.readUnit s n c reads u).pending = s.pending := by
  unfold State.readUnit; simp only []; (repeat' split) <;> simp

@[simp] theorem State.deliver_pending (s : State) (c : StorageCommand) :
    (State.deliver s c).pending = s.pending := by
  simp [State.deliver]

@[simp] theorem State.commitUnits_pending (s : State) (pad start : Nat) (data : List Bytes) (single host : Bool) :
    (s.commitUnits pad start data single host).pending = s.pending := by
  unfold State.commitUnits
  simp only []
  rw [foldl_pending (fun t a => by split <;> simp)]
  simp

@[simp] theorem State.dropUnits_pending (s : State) (pad : Nat) (start : Nat) (count : Nat) :
    (State.dropUnits s pad start count).pending = s.pending := by rfl

@[simp] theorem State.writeBack_pending (s : State) (pad : Nat) (u : Nat) (phys : Nat) (d : Bytes) :
    (State.writeBack s pad u phys d).pending = s.pending := by
  simp [State.writeBack]

@[simp] theorem State.takeDetour_pending (n : Nat) (c : StorageCommand) (answers : List PartnerUnit) (s : State) (u : Nat) :
    (State.takeDetour n c answers s u).pending = s.pending := by
  unfold State.takeDetour; (repeat' split) <;> simp

@[simp] theorem storageReadEff_pending (n : Nat) (reads : List FlashRead) (answers : List PartnerUnit) (s : State) :
    (storageReadEff n reads answers s).pending = s.pending := by
  unfold storageReadEff; (repeat' split) <;> simp

@[simp] theorem State.stopRead_pending (s : State) (n : Nat) (c : StorageCommand) :
    (State.stopRead s n c).pending = s.pending := by
  simp [State.stopRead]

@[simp] theorem mirroredWriteReceiveEff_pending (m : Bytes) (s : State) :
    (mirroredWriteReceiveEff m s).pending = s.pending := by
  unfold mirroredWriteReceiveEff; simp only []; (repeat' split) <;> simp

@[simp] theorem storageDetourReadEff_pending (pad : Nat) (start : Nat) (count : Nat) (reads : List FlashRead) (s : State) :
    (storageDetourReadEff pad start count reads s).pending = s.pending := by
  unfold storageDetourReadEff; simp only []
  (repeat' split) <;> (try rfl)
  rw [State.send_pending, foldl_pending, State.admitTo_pending]
  intro t a; (repeat' split) <;> simp

@[simp] theorem State.commitCommand_pending (s : State) (n : Nat) (c : StorageCommand) :
    (State.commitCommand s n c).pending = s.pending := by
  simp [State.commitCommand]

@[simp] theorem State.commitMirrored_pending (s : State) (w : MirroredWrite) :
    (State.commitMirrored s w).pending = s.pending := by
  simp [State.commitMirrored]

@[simp] theorem State.commitStorage_pending (s : State) :
    (State.commitStorage s).pending = s.pending := by
  simp [State.commitStorage]

@[simp] theorem State.storageAck_pending (s : State) (number : Nat) :
    (State.storageAck s number).pending = s.pending := by
  unfold State.storageAck; split <;> simp

@[simp] theorem State.storageConfirm_pending (s : State) (number : Nat) :
    (State.storageConfirm s number).pending = s.pending := by rfl

/-! ## Fabric -/

@[simp] theorem State.adoptRoute_pending (s : State) (b : Bytes) :
    (State.adoptRoute s b).pending = s.pending := by rfl

@[simp] theorem fabricRouteSetEff_pending (f : Nat) (image : Bytes) (s : State) :
    (fabricRouteSetEff f image s).pending = s.pending := by
  unfold fabricRouteSetEff; split; · rfl
  apply State.serve_pending; intro t q; simp only [refuse, accept, report]; (repeat' split) <;> simp

@[simp] theorem fabricWindowSetEff_pending (f : Nat) (s : State) :
    (fabricWindowSetEff f s).pending = s.pending := by
  unfold fabricWindowSetEff; apply State.serve_pending; intro t q; simp only [refuse, accept, report]; (repeat' split) <;> simp

@[simp] theorem fabricRegionSetEff_pending (f : Nat) (s : State) :
    (fabricRegionSetEff f s).pending = s.pending := by
  unfold fabricRegionSetEff; apply State.serve_pending; intro t q; simp only [refuse, accept, report]; (repeat' split) <;> simp

@[simp] theorem fabricGateStageEff_pending (f : Nat) (s : State) :
    (fabricGateStageEff f s).pending = s.pending := by
  unfold fabricGateStageEff; apply State.serve_pending; intro t q; simp only [refuse, accept, report]; (repeat' split) <;> simp

@[simp] theorem fabricGateCancelEff_pending (f : Nat) (s : State) :
    (fabricGateCancelEff f s).pending = s.pending := by
  unfold fabricGateCancelEff; apply State.serve_pending; intro t q; simp only [refuse, accept, report]; (repeat' split) <;> simp

@[simp] theorem fabricPolicerSetEff_pending (f : Nat) (s : State) :
    (fabricPolicerSetEff f s).pending = s.pending := by
  unfold fabricPolicerSetEff; apply State.serve_pending; intro t q; simp only [refuse, accept, report]; (repeat' split) <;> simp

@[simp] theorem fabricLinkStatusEff_pending (f : Nat) (s : State) :
    (fabricLinkStatusEff f s).pending = s.pending := by
  unfold fabricLinkStatusEff; apply State.serve_pending; intro t q; rfl

@[simp] theorem State.herdEvent_pending (s : State) (event reason subject decider port stride epoch : Nat) :
    (State.herdEvent s event reason subject decider port stride epoch).pending = s.pending := by
  simp [State.herdEvent]

@[simp] theorem State.portDown_pending (s : State) (p : Nat) :
    (State.portDown s p).pending = s.pending := by
  simp [State.portDown]

@[simp] theorem State.recordFlit_pending (s : State) (p : Nat) (bad : Bool) (cls : Nat) (flit : Bytes) :
    (State.recordFlit s p bad cls flit).pending = s.pending := by
  simp [State.recordFlit]

@[simp] theorem State.messageFlit_pending (s : State) (p : Nat) (bad : Bool) (cls : Nat) (flit : Bytes) :
    (State.messageFlit s p bad cls flit).pending = s.pending := by
  unfold State.messageFlit; (repeat' split) <;> simp

@[simp] theorem State.flit_pending (p : Nat) (bad : Bool) (s : State) (f : Nat × Bytes) :
    (State.flit p bad s f).pending = s.pending := by
  simp [State.flit]

@[simp] theorem frameReceiveEff_pending (p : Nat) (codewords : List Codeword) (corrected : Nat) (uncorrectable : Nat) (s : State) :
    (frameReceiveEff p codewords corrected uncorrectable s).pending = s.pending := by
  simp [frameReceiveEff]

@[simp] theorem creditReturnEff_pending (p : Nat) (s : State) :
    (creditReturnEff p s).pending = s.pending := by
  simp [creditReturnEff]

@[simp] theorem creditMessageReceiveEff_pending (p : Nat) (credits : List Nat) (s : State) :
    (creditMessageReceiveEff p credits s).pending = s.pending := by
  simp [creditMessageReceiveEff]

@[simp] theorem transportResendEff_pending (h : Nat) (s : State) :
    (transportResendEff h s).pending = s.pending := by
  unfold transportResendEff; (repeat' split) <;> simp

@[simp] theorem State.police_pending (s : State) (p cls bytes : Nat) (yellow : Bool) :
    (s.police p cls bytes yellow).2.pending = s.pending := by
  unfold State.police
  simp only []
  repeat' split
  all_goals simp

@[simp] theorem State.refuseMessage_pending (s : State) (p : Nat) (x : Arriving) :
    (State.refuseMessage s p x).pending = s.pending := by rfl

@[simp] theorem State.acceptMessage_pending (s : State) (p : Nat) (x : Arriving) :
    (State.acceptMessage s p x).pending = s.pending := by rfl

@[simp] theorem headerRecordReceiveEff_pending (p : Nat) (w : Word64) (b : Bytes) (s : State) :
    (headerRecordReceiveEff p w b s).pending = s.pending := by
  unfold headerRecordReceiveEff
  simp only []
  repeat' split
  all_goals simp

@[simp] theorem State.recordIn_pending (s : State) (p cls source : Nat) :
    (s.recordIn p cls source).2.pending = s.pending := by
  unfold State.recordIn; (repeat' split) <;> simp

@[simp] theorem State.messageIn_pending (s : State) (p : Nat) (cls : Nat) (source : Nat) :
    (State.messageIn s p cls source).2.pending = s.pending := by
  unfold State.messageIn; (repeat' split) <;> simp

@[simp] theorem routerForwardEff_pending (p : Nat) (h : Word64) (body : Bytes) (s : State) :
    (routerForwardEff p h body s).pending = s.pending := by
  unfold routerForwardEff; simp only []; (repeat' split) <;> simp

@[simp] theorem State.performOp_pending (s : State) (requester context address op size a b : Nat) :
    (s.performOp requester context address op size a b).1.pending = s.pending := by
  unfold State.performOp
  simp only []
  repeat' split
  all_goals simp

@[simp] theorem State.answerOp_pending (s : State) (cls : Nat) (record : Bytes) :
    (State.answerOp s cls record).pending = s.pending := by
  simp [State.answerOp]

@[simp] theorem State.holdOp_pending (s : State) (p : Nat) (cls : Nat) (record : Bytes) (locked : Bool) :
    (State.holdOp s p cls record locked).pending = s.pending := by rfl

@[simp] theorem memoryOperationEff_pending (p cls : Nat) (record : Bytes) (s : State) :
    (memoryOperationEff p cls record s).pending = s.pending := by
  unfold memoryOperationEff; simp only []; (repeat' split) <;> simp

@[simp] theorem operationResponseReceiveEff_pending (p cls : Nat) (record : Bytes) (s : State) :
    (operationResponseReceiveEff p cls record s).pending = s.pending := by
  unfold operationResponseReceiveEff; simp only []; (repeat' split) <;> simp

@[simp] theorem State.releaseLocked_pending (s : State) :
    (State.releaseLocked s).pending = s.pending := by
  unfold State.releaseLocked; simp only []; (repeat' split) <;> simp

@[simp] theorem State.correct_pending (s : State) (early : Bool) (e : Int) :
    (State.correct s early e).pending = s.pending := by
  simp [State.correct]

@[simp] theorem strideMarkReceiveEff_pending (p stride sendOffset arrival : Nat) (s : State) :
    (strideMarkReceiveEff p stride sendOffset arrival s).pending = s.pending := by
  simp [strideMarkReceiveEff]

@[simp] theorem parentMarkLossEff_pending (s : State) :
    (parentMarkLossEff s).pending = s.pending := by
  simp [parentMarkLossEff]

@[simp] theorem outOfStepEff_pending (s : State) :
    (outOfStepEff s).pending = s.pending := by
  simp [outOfStepEff]

@[simp] theorem strideInEdgeEff_pending (arrival : Int) (s : State) :
    (strideInEdgeEff arrival s).pending = s.pending := by
  simp [strideInEdgeEff]

@[simp] theorem strideInLossEff_pending (s : State) :
    (strideInLossEff s).pending = s.pending := by
  simp [strideInLossEff]

/-! ## Health -/

@[simp] theorem State.replan_pending (s : State) (r : DomainReport) :
    (State.replan s r).pending = s.pending := by rfl

@[simp] theorem State.adoptPlan_pending (s : State) :
    (State.adoptPlan s).pending = s.pending := by rfl

@[simp] theorem State.farrierReads_pending (s : State) :
    (State.farrierReads s).pending = s.pending := by
  simp [State.farrierReads]

@[simp] theorem farrierSweepEff_pending (r : DomainReport) (s : State) :
    (farrierSweepEff r s).pending = s.pending := by
  simp [farrierSweepEff]

@[simp] theorem healthAgeingReportEff_pending (f : Nat) (s : State) :
    (healthAgeingReportEff f s).pending = s.pending := by
  unfold healthAgeingReportEff; apply State.serve_pending; intro t q; rfl

@[simp] theorem healthUnitsEff_pending (f : Nat) (s : State) :
    (healthUnitsEff f s).pending = s.pending := by
  unfold healthUnitsEff; apply State.serve_pending; intro t q; rfl

/-! ## Nmu -/

@[simp] theorem State.modUnit_pending (s : State) (u : Nat) (g : NmuUnit → NmuUnit) :
    (State.modUnit s u g).pending = s.pending := by rfl

@[simp] theorem State.answer_pending (s : State) (tag : Nat) (b : Bytes) :
    (State.answer s tag b).pending = s.pending := by rfl

@[simp] theorem State.refusedCommand_pending (s : State) (u : Nat) :
    (State.refusedCommand s u).pending = s.pending := by rfl

@[simp] theorem State.requestBursts_pending (s : State) (stack : Nat) (l : List Burst) :
    (State.requestBursts s stack l).pending = s.pending := by rfl

@[simp] theorem State.countBlocks_pending (s : State) (ctx : Nat) (blocks : List Nat) :
    (State.countBlocks s ctx blocks).pending = s.pending := by
  simp [State.countBlocks]

@[simp] theorem State.unitWrite_pending (s : State) (ctx : Nat) (blocks : List Nat) (image : Option Bytes) :
    (State.unitWrite s ctx blocks image).pending = s.pending := by
  unfold State.unitWrite; (repeat' split) <;> simp

@[simp] theorem State.modCommand_pending (s : State) (u : Nat) (g : UnitCommand → UnitCommand) :
    (State.modCommand s u g).pending = s.pending := by rfl

@[simp] theorem State.dropCommand_pending (s : State) (u : Nat) :
    (State.dropCommand s u).pending = s.pending := by rfl

@[simp] theorem State.voidMove_pending (s : State) (m : Nat × Nat) :
    (State.voidMove s m).pending = s.pending := by
  simp [State.voidMove]

@[simp] theorem State.endCommand_pending (s : State) (u : Nat) (c : UnitCommand) (completion : Bytes) :
    (State.endCommand s u c completion).pending = s.pending := by
  unfold State.endCommand; (repeat' split) <;> simp

@[simp] theorem State.enterPhase_pending (s : State) (u : Nat) (phase : Nat) (l : List Burst) :
    (State.enterPhase s u phase l).pending = s.pending := by rfl

@[simp] theorem State.writePhase_pending (s : State) (u : Nat) (c : UnitCommand) (x3 : RowEnd) :
    (State.writePhase s u c x3).pending = s.pending := by
  unfold State.writePhase; (repeat' split) <;> simp

@[simp] theorem State.endLoad_pending (s : State) (c : UnitCommand) :
    (State.endLoad s c).pending = s.pending := by
  simp [State.endLoad]

@[simp] theorem State.nextPhase_pending (s : State) (u : Nat) (c : UnitCommand) :
    (State.nextPhase s u c).pending = s.pending := by
  simp [State.nextPhase]

@[simp] theorem State.beginCommand_pending (s : State) (u : Nat) (c : UnitCommand) :
    (State.beginCommand s u c).pending = s.pending := by
  simp [State.beginCommand]

@[simp] theorem State.beginHeads_pending (s : State) (stack : Nat) :
    (State.beginHeads s stack).pending = s.pending := by
  unfold State.beginHeads; exact foldl_pending (fun t a => by (repeat' split) <;> simp) _ _

@[simp] theorem State.runStack_pending (s : State) (stack : Nat) :
    (State.runStack s stack).pending = s.pending := by
  simp [State.runStack]

@[simp] theorem State.countReceived_pending (s : State) :
    (State.countReceived s).pending = s.pending := by rfl

@[simp] theorem State.receive_pending (s : State) (units : List Nat) (c : UnitCommand) :
    (State.receive s units c).pending = s.pending := by
  simp [State.receive]

@[simp] theorem unitCommandEff_pending (op : Nat) (b : Bytes) (poisoned : Bool) (s : State) :
    (unitCommandEff op b poisoned s).pending = s.pending := by
  simp [unitCommandEff]

@[simp] theorem State.startBurst_pending (s : State) (stack : Nat) (x : Burst) :
    (State.startBurst s stack x).pending = s.pending := by
  simp [State.startBurst]

@[simp] theorem State.grantFrom_pending (s : State) (stack : Nat) (slot : Nat) (slots : Nat) (x4 : Nat) (x5 : Nat) (x6 : List Burst) (x7 : List Burst) :
    (State.grantFrom s stack slot slots x4 x5 x6 x7).1.pending = s.pending := by
  fun_induction State.grantFrom <;> simp_all

@[simp] theorem burstGrantEff_pending (stack : Nat) (s : State) :
    (burstGrantEff stack s).pending = s.pending := by
  simp [burstGrantEff]

@[simp] theorem State.burstMoved_pending (s : State) (u : Nat) (ctx : Nat) (x : Burst) :
    (State.burstMoved s u ctx x).pending = s.pending := by
  simp [State.burstMoved]

@[simp] theorem State.burstDone_pending (s : State) (u : Nat) :
    (State.burstDone s u).pending = s.pending := by
  unfold State.burstDone; (repeat' split) <;> simp

/-! ## Engine -/

@[simp] theorem State.issueRow_pending (s : State) (op : Nat) (ctx : Nat) (address : Nat) (blocks : Nat) (data : Bytes) (poisoned : Bool) (move : Option (Nat × Nat)) (twin : Option Nat) :
    (State.issueRow s op ctx address blocks data poisoned move twin).pending = s.pending := by
  simp [State.issueRow]

@[simp] theorem State.issueRowwrite_pending (s : State) (ctx : Nat) (address : Nat) (image : Bytes) (poisoned : Bool) (move : Option (Nat × Nat)) :
    (State.issueRowwrite s ctx address image poisoned move).pending = s.pending := by
  simp [State.issueRowwrite]

@[simp] theorem State.issueUpdate_pending (s : State) (ctx : Nat) (address : Nat) (blocks : Nat) (delta : List Word32) (move : Option (Nat × Nat)) (twin : Option Nat) :
    (State.issueUpdate s ctx address blocks delta move twin).pending = s.pending := by
  simp [State.issueUpdate]

@[simp] theorem State.placeDirty_pending (s : State) (id : Nat) (row : Nat) (bytes : Bytes) :
    (State.placeDirty s id row bytes).pending = s.pending := by
  unfold State.placeDirty; (repeat' split) <;> simp

@[simp] theorem State.issueDual_pending (s : State) (id : Nat) (row : Nat) (delta : List Word32) (status : Nat) :
    (State.issueDual s id row delta status).pending = s.pending := by
  unfold State.issueDual; (repeat' split) <;> simp

@[simp] theorem State.issueStepUpdate_pending (s : State) (id : Nat) (row : Nat) (delta : List Word32) :
    (State.issueStepUpdate s id row delta).pending = s.pending := by
  unfold State.issueStepUpdate; (repeat' split) <;> simp

/-! ## Lookup -/

@[simp] theorem State.touchRows_pending (s : State) (object : Nat) (rows : List Nat) :
    (State.touchRows s object rows).pending = s.pending := by
  unfold State.touchRows; simp only []; (repeat' split) <;> (try simp) <;> (apply foldl_pending; intro s a; (repeat' split) <;> simp)

@[simp] theorem State.putTile_pending (s : State) (n : Nat) (t : Tile) :
    (State.putTile s n t).pending = s.pending := by rfl

@[simp] theorem State.useTile_pending (s : State) (u : TileUse) (ctx : Nat) :
    (State.useTile s u ctx).pending = s.pending := by
  simp [State.useTile]

@[simp] theorem State.sendLookups_pending (s : State) (x : Table) (table handle admitAt version : Nat) (rows : List Nat) :
    (s.sendLookups x table handle admitAt version rows).1.pending = s.pending := by
  unfold State.sendLookups
  simp

@[simp] theorem State.admitLookup_pending (s : State) (tag : Nat) (a : Admission) :
    (State.admitLookup s tag a).pending = s.pending := by
  unfold State.admitLookup; simp only []; (repeat' split) <;> simp

@[simp] theorem lookupAdmissionEff_pending (ring : Nat) (entry : Bytes) (s : State) :
    (lookupAdmissionEff ring entry s).pending = s.pending := by
  unfold lookupAdmissionEff; (repeat' split) <;> (try rfl) <;> (apply State.admitRing_pending; intro t a; simp)

@[simp] theorem State.lateReply_pending (s : State) :
    (State.lateReply s).pending = s.pending := by rfl

@[simp] theorem State.serveLookup_pending (s : State) (x : Table) (m : Bytes) (poisoned : List Nat) :
    (State.serveLookup s x m poisoned).pending = s.pending := by
  simp [State.serveLookup]

@[simp] theorem State.serveOrHold_pending (id : Nat) (s : State) (w : Bytes × List Nat) :
    (State.serveOrHold id s w).pending = s.pending := by
  unfold State.serveOrHold; (repeat' split) <;> simp

@[simp] theorem State.passBarrier_pending (s : State) (id : Nat) :
    (State.passBarrier s id).pending = s.pending := by
  unfold State.passBarrier; (repeat' split) <;> simp

@[simp] theorem State.passHeld_pending (s : State) :
    (State.passHeld s).pending = s.pending := by
  simp [State.passHeld]

@[simp] theorem lookupSubRequestReceiveEff_pending (m : Bytes) (poisoned : List Nat) (s : State) :
    (lookupSubRequestReceiveEff m poisoned s).pending = s.pending := by
  unfold lookupSubRequestReceiveEff; simp only []; (repeat' split) <;> simp

@[simp] theorem lookupReplyReceiveEff_pending (m : Bytes) (aside : Bytes) (s : State) :
    (lookupReplyReceiveEff m aside s).pending = s.pending := by
  unfold lookupReplyReceiveEff; simp only []; (repeat' split) <;> simp_all

@[simp] theorem State.finishLookup_pending (s : State) (h : Nat) (l : Lookup) (status : Nat) :
    (State.finishLookup s h l status).pending = s.pending := by rfl

@[simp] theorem lookupPoolingEff_pending (h : Nat) (s : State) :
    (lookupPoolingEff h s).pending = s.pending := by
  unfold lookupPoolingEff; (repeat' split) <;> simp

@[simp] theorem burstEndEff_pending (u : Nat) (s : State) :
    (burstEndEff u s).pending = s.pending := by
  unfold burstEndEff; split <;> simp

/-! ## Migration -/

@[simp] theorem migrationSelectionEff_pending (id : Nat) (s : State) :
    (migrationSelectionEff id s).pending = s.pending := by
  unfold migrationSelectionEff; split <;> simp

@[simp] theorem State.moveRead_pending (s : State) (id row : Nat) : (s.moveRead id row).2.pending = s.pending := by
  unfold State.moveRead
  (repeat' split) <;> simp

@[simp] theorem migrationCopyEff_pending (id : Nat) (row : Nat) (stopped : Bool) (s : State) :
    (migrationCopyEff id row stopped s).pending = s.pending := by
  unfold migrationCopyEff
  split
  · rfl
  · have h := s.moveRead_pending id row
    generalize s.moveRead id row = m at h
    obtain ⟨b, t⟩ := m
    simp only [] at h
    cases b
    · exact h
    · simp only []
      (repeat' split) <;> simp [h]

@[simp] theorem State.dropStaleCopies_pending (s : State) (id : Nat) :
    (State.dropStaleCopies s id).pending = s.pending := by rfl

@[simp] theorem State.dropTableCopies_pending (s : State) (id : Nat) :
    (State.dropTableCopies s id).pending = s.pending := by rfl

@[simp] theorem State.switchResidency_pending (s : State) :
    (State.switchResidency s).pending = s.pending := by rfl

/-! ## GaitMsg -/

@[simp] theorem State.setSlot_pending (s : State) (n : Nat) (x : GaitSlot) :
    (State.setSlot s n x).pending = s.pending := by rfl

@[simp] theorem gaitImageEff_pending (load : Bool) (opcode f : Nat) (image : Bytes) (s : State) :
    (gaitImageEff load opcode f image s).pending = s.pending := by
  unfold gaitImageEff; split; · rfl
  apply State.serve_pending; intro t q; simp only [refuse, accept, report]; (repeat' split) <;> simp

@[simp] theorem gaitStageEff_pending (f : Nat) (s : State) :
    (gaitStageEff f s).pending = s.pending := by
  unfold gaitStageEff; apply State.serve_pending; intro t q; simp only [refuse, accept, report]; (repeat' split) <;> simp

@[simp] theorem State.unstageFrom_pending (s : State) (e : Nat) :
    (State.unstageFrom s e).pending = s.pending := by rfl

@[simp] theorem gaitCancelEff_pending (f : Nat) (s : State) :
    (gaitCancelEff f s).pending = s.pending := by
  unfold gaitCancelEff; apply State.serve_pending; intro t q; simp only [refuse, accept, report]; (repeat' split) <;> simp

@[simp] theorem gaitStatusEff_pending (f : Nat) (s : State) :
    (gaitStatusEff f s).pending = s.pending := by
  unfold gaitStatusEff; apply State.serve_pending; intro t q; rfl

@[simp] theorem programLoadEff_pending (f : Nat) (image : Bytes) (s : State) :
    (programLoadEff f image s).pending = s.pending := by
  unfold programLoadEff; split; · rfl
  apply State.serve_pending; intro t q; simp only [refuse, accept, report]; (repeat' split) <;> simp

@[simp] theorem programUnloadEff_pending (f : Nat) (s : State) :
    (programUnloadEff f s).pending = s.pending := by
  unfold programUnloadEff; apply State.serve_pending; intro t q; simp only [refuse, accept, report]; (repeat' split) <;> simp

@[simp] theorem programStatusEff_pending (f : Nat) (s : State) :
    (programStatusEff f s).pending = s.pending := by
  unfold programStatusEff; apply State.serve_pending; intro t q; simp only [refuse, accept, report]; (repeat' split) <;> simp

/-! ## Query -/

@[simp] theorem State.modQuery_pending (s : State) (h : Nat) (g : Query → Query) :
    (State.modQuery s h g).pending = s.pending := by rfl

@[simp] theorem State.modSearch_pending (s : State) (key : Nat) (g : Search → Search) :
    (State.modSearch s key g).pending = s.pending := by rfl

@[simp] theorem State.addStale_pending (s : State) (index n : Nat) :
    (State.addStale s index n).pending = s.pending := by rfl

@[simp] theorem State.putSort_pending (s : State) (n : Nat) (u : SortUnit) :
    (State.putSort s n u).pending = s.pending := by rfl

@[simp] theorem State.admitQuery_pending (s : State) (tag : Nat) (tile : TileUse) (zeroing : Nat) (a : Admission) (x : Index) :
    (State.admitQuery s tag tile zeroing a x).pending = s.pending := by
  simp [State.admitQuery]

@[simp] theorem State.takeQuery_pending (s0 : State) (tag : Nat) (tile : TileUse) (a : Admission) :
    (State.takeQuery s0 tag tile a).pending = s0.pending := by
  unfold State.takeQuery; simp only []; (repeat' split) <;> simp_all

@[simp] theorem queryAdmissionEff_pending (ring : Nat) (entry : Bytes) (tile : TileUse) (s : State) :
    (queryAdmissionEff ring entry tile s).pending = s.pending := by
  unfold queryAdmissionEff; (repeat' split) <;> (try rfl) <;> (apply State.admitRing_pending; intro t a; simp)

@[simp] theorem shardSubRequestReceiveEff_pending (m : Bytes) (poisonRows : List Nat) (poisonLists : List Nat) (sorter : SortUse) (s : State) :
    (shardSubRequestReceiveEff m poisonRows poisonLists sorter s).pending = s.pending := by
  unfold shardSubRequestReceiveEff; simp only []; (repeat' split) <;> simp_all

@[simp] theorem layer0RoundEff_pending (key : Nat) (poisonRows : List Nat) (poisonLists : List Nat) (sorter : SortUse) (tile : TileUse) (s : State) :
    (layer0RoundEff key poisonRows poisonLists sorter tile s).pending = s.pending := by
  unfold layer0RoundEff; (repeat' split) <;> simp

@[simp] theorem State.searchReply_pending (s : State) (q : Search) (flags : BitVec 16) (l : List Entry) (failed : List (Nat × Nat)) :
    (State.searchReply s q flags l failed).pending = s.pending := by
  simp [State.searchReply]

@[simp] theorem shardReplySendEff_pending (key : Nat) (s : State) :
    (shardReplySendEff key s).pending = s.pending := by
  unfold shardReplySendEff; split <;> simp

@[simp] theorem shardReplyReceiveEff_pending (m : Bytes) (aside : Bytes) (s : State) :
    (shardReplyReceiveEff m aside s).pending = s.pending := by
  unfold shardReplyReceiveEff; simp only []; (repeat' split) <;> simp_all

@[simp] theorem State.sendReranks_pending (s : State) (h : Nat) (q : Query) (set : List Entry) :
    (State.sendReranks s h q set).pending = s.pending := by
  simp [State.sendReranks]

@[simp] theorem State.sendFeatures_pending (s : State) (h : Nat) (q : Query) :
    (State.sendFeatures s h q).pending = s.pending := by
  unfold State.sendFeatures; simp only []; (repeat' split) <;> simp

@[simp] theorem State.mergeEnds_pending (s : State) (h : Nat) (q : Query) (sel : Selection) :
    (State.mergeEnds s h q sel).pending = s.pending := by
  simp [State.mergeEnds]

@[simp] theorem queryMergeEff_pending (h : Nat) (passes : Nat) (sorter : SortUse) (s : State) :
    (queryMergeEff h passes sorter s).pending = s.pending := by
  unfold queryMergeEff; (repeat' split) <;> simp

@[simp] theorem rerankRequestReceiveEff_pending (m : Bytes) (s : State) :
    (rerankRequestReceiveEff m s).pending = s.pending := by
  unfold rerankRequestReceiveEff; simp only []; (repeat' split) <;> simp

@[simp] theorem State.readRecords_pending (s : State) (v : View) (q : Search) (slots : List Nat) (reads : List FlashRead) :
    (State.readRecords s v q slots reads).pending = s.pending := by
  simp [State.readRecords]

@[simp] theorem rerankReadEff_pending (key : Nat) (reads : List FlashRead) (poisonRows : List Nat) (tile : TileUse) (s : State) :
    (rerankReadEff key reads poisonRows tile s).pending = s.pending := by
  unfold rerankReadEff; (repeat' split) <;> simp

@[simp] theorem rerankReplySendEff_pending (key : Nat) (s : State) :
    (rerankReplySendEff key s).pending = s.pending := by
  unfold rerankReplySendEff; (repeat' split) <;> simp

@[simp] theorem detourRequestEff_pending (m : Bytes) (reads : List FlashRead) (tile : TileUse) (s : State) :
    (detourRequestEff m reads tile s).pending = s.pending := by
  unfold detourRequestEff; simp only []; (repeat' split) <;> simp_all

@[simp] theorem rerankReplyReceiveEff_pending (m : Bytes) (aside : Bytes) (s : State) :
    (rerankReplyReceiveEff m aside s).pending = s.pending := by
  unfold rerankReplyReceiveEff; simp only []; (repeat' split) <;> simp_all

@[simp] theorem replyDeadlineEff_pending (h : Nat) (s : State) :
    (replyDeadlineEff h s).pending = s.pending := by
  unfold replyDeadlineEff; (repeat' split) <;> simp

@[simp] theorem State.finishQuery_pending (s : State) (h : Nat) (q : Query) (flags : BitVec 16) (status : Nat) (l : List Entry) :
    (State.finishQuery s h q flags status l).pending = s.pending := by rfl

@[simp] theorem State.ranProgram_pending (s : State) (key : Nat) (p : Program) (tile : TileUse) (tokens : List (List Word32)) :
    (State.ranProgram s key p tile tokens).pending = s.pending := by rfl

@[simp] theorem State.completeQuery_pending (s : State) (h : Nat) (q : Query) (weightsPoisoned : Bool) (sorter : SortUse) :
    (State.completeQuery s h q weightsPoisoned sorter).pending = s.pending := by
  simp [State.completeQuery]

@[simp] theorem State.placeBatch_pending (s : State) (tile : Nat) (key : Nat) (batch : List Nat) :
    (State.placeBatch s tile key batch).pending = s.pending := by rfl

@[simp] theorem finalMergeEff_pending (h : Nat) (weightsPoisoned : Bool) (sorter : SortUse) (tile : TileUse) (s : State) :
    (finalMergeEff h weightsPoisoned sorter tile s).pending = s.pending := by
  unfold finalMergeEff; (repeat' split) <;> simp

@[simp] theorem State.stopQuery_pending (s : State) (h : Nat) (q : Query) :
    (State.stopQuery s h q).pending = s.pending := by rfl

/-! ## Train -/

@[simp] theorem State.modStep_pending (s : State) (table num : Nat) (g : Step → Step) :
    (State.modStep s table num g).pending = s.pending := by rfl

@[simp] theorem State.takeSegment_pending (s : State) (table : Nat) (g : Segment) :
    (State.takeSegment s table g).pending = s.pending := by
  unfold State.takeSegment; (repeat' split) <;> simp

@[simp] theorem State.sendSegments_pending (s : State) (table : Nat) (num : Nat) (x : Table) (refused : Bool) (lr : Word32) (l : List Contribution) :
    (State.sendSegments s table num x refused lr l).pending = s.pending := by
  simp [State.sendSegments]

@[simp] theorem State.admitStep_pending (before : State) (tile : TileUse) (a : Admission) :
    (State.admitStep before tile a).pending = before.pending := by
  unfold State.admitStep; simp only []; (repeat' split) <;> simp_all

@[simp] theorem State.missStep_pending (s : State) (r : Ring) (cls : Nat) :
    (State.missStep s r cls).pending = s.pending := by
  unfold State.missStep; split <;> simp

@[simp] theorem stepAdmissionEff_pending (ring : Nat) (entry : Bytes) (tile : TileUse) (s : State) :
    (stepAdmissionEff ring entry tile s).pending = s.pending := by
  unfold stepAdmissionEff
  repeat' split
  all_goals first
    | rfl
    | (simp; done)
    | (apply State.admitRing_pending; intro t a; simp)

@[simp] theorem stepSegmentReceiveEff_pending (m : Bytes) (s : State) :
    (stepSegmentReceiveEff m s).pending = s.pending := by
  unfold stepSegmentReceiveEff; (repeat' split) <;> simp

@[simp] theorem stepMergeEff_pending (table : Nat) (tile : TileUse) (s : State) :
    (stepMergeEff table tile s).pending = s.pending := by
  unfold stepMergeEff; (repeat' split) <;> simp

@[simp] theorem stepMirrorEff_pending (table : Nat) (tile : TileUse) (s : State) :
    (stepMirrorEff table tile s).pending = s.pending := by
  unfold stepMirrorEff; (repeat' split) <;> simp

@[simp] theorem stepMirrorReceiveEff_pending (m : Bytes) (tile : TileUse) (s : State) :
    (stepMirrorReceiveEff m tile s).pending = s.pending := by
  unfold stepMirrorReceiveEff; simp only []; (repeat' split) <;> simp_all

@[simp] theorem State.applyInHbm_pending (s : State) (id : Nat) (before : Table) (uncorrectable : List Nat) (m : Merged) :
    (State.applyInHbm s id before uncorrectable m).pending = s.pending := by
  unfold State.applyInHbm; simp only []; (repeat' split) <;> simp_all

@[simp] theorem State.sendNotices_pending (s : State) (table num : Nat) (single : Bool) :
    (State.sendNotices s table num single).pending = s.pending := by
  unfold State.sendNotices; (repeat' split) <;> simp

@[simp] theorem stepApplyEff_pending (table : Nat) (u : List Nat) (s : State) :
    (stepApplyEff table u s).pending = s.pending := by
  unfold stepApplyEff
  split
  · rfl
  · split
    · rfl
    · split
      · rfl
      · simp only []
        split <;> simp

@[simp] theorem State.diverges_pending (s : State) :
    (State.diverges s).pending = s.pending := by rfl

@[simp] theorem stepDigestReceiveEff_pending (table num digest : Nat) (poisoned : List Nat) (s : State) :
    (stepDigestReceiveEff table num digest poisoned s).pending = s.pending := by
  unfold stepDigestReceiveEff; (repeat' split) <;> simp

@[simp] theorem stepDigestDeadlineEff_pending (table : Nat) (s : State) :
    (stepDigestDeadlineEff table s).pending = s.pending := by
  unfold stepDigestDeadlineEff; (repeat' split) <;> simp

@[simp] theorem State.finishStep_pending (s : State) (t : StepEntry) (missing : Bool) :
    (State.finishStep s t missing).pending = s.pending := by rfl

@[simp] theorem stepNoticeReceiveEff_pending (m : Bytes) (s : State) :
    (stepNoticeReceiveEff m s).pending = s.pending := by
  unfold stepNoticeReceiveEff; split <;> simp

@[simp] theorem stepNoticeDeadlineEff_pending (table : Nat) (s : State) :
    (stepNoticeDeadlineEff table s).pending = s.pending := by
  simp [stepNoticeDeadlineEff]

@[simp] theorem State.repairRow_pending (s : State) (table : Nat) (row : Nat) (num : Nat) (image : Bytes) (state : Bytes) :
    (State.repairRow s table row num image state).pending = s.pending := by
  unfold State.repairRow; simp only []; (repeat' split) <;> simp_all

@[simp] theorem stepPoisonRepairEff_pending (table row : Nat) (image state : Bytes) (s : State) :
    (stepPoisonRepairEff table row image state s).pending = s.pending := by
  unfold stepPoisonRepairEff; (repeat' split) <;> simp

/-! ## Update -/

@[simp] theorem State.admitUpdate_pending (s : State) (tag : Nat) (a : Admission) (x : Index) :
    (State.admitUpdate s tag a x).pending = s.pending := by
  simp [State.admitUpdate]

@[simp] theorem State.takeUpdate_pending (s0 : State) (tag : Nat) (tile : TileUse) (a : Admission) :
    (State.takeUpdate s0 tag tile a).pending = s0.pending := by
  unfold State.takeUpdate; simp only []; (repeat' split) <;> simp_all

@[simp] theorem updateAdmissionEff_pending (ring : Nat) (entry : Bytes) (tile : TileUse) (s : State) :
    (updateAdmissionEff ring entry tile s).pending = s.pending := by
  unfold updateAdmissionEff; (repeat' split) <;> (try rfl) <;> (apply State.admitRing_pending; intro t a; simp)

@[simp] theorem State.linked_pending (s : State) (v : View) (bad : List Nat) (before : Search) (w : Walk) (a : Nat) (sorter : SortUse) :
    (State.linked s v bad before w a sorter).pending = s.pending := by
  simp [State.linked]

@[simp] theorem updateForwardReceiveEff_pending (m : Bytes) (poisonRows : List Nat) (poisonLists : List Nat) (sorter : SortUse) (s : State) :
    (updateForwardReceiveEff m poisonRows poisonLists sorter s).pending = s.pending := by
  unfold updateForwardReceiveEff; simp only []; (repeat' split) <;> (try rfl) <;> simp [-ite_pending]

@[simp] theorem linkingRoundEff_pending (key : Nat) (poisonRows : List Nat) (poisonLists : List Nat) (sorter : SortUse) (tile : TileUse) (s : State) :
    (linkingRoundEff key poisonRows poisonLists sorter tile s).pending = s.pending := by
  unfold linkingRoundEff; (repeat' split) <;> simp

@[simp] theorem State.stageOne_pending (s : State) (w : ServedUpdate × TileUse) :
    (State.stageOne s w).pending = s.pending := by
  unfold State.stageOne; simp only []; (repeat' split) <;> simp_all

@[simp] theorem updateStagingEff_pending (tiles : List TileUse) (s : State) :
    (updateStagingEff tiles s).pending = s.pending := by
  simp [updateStagingEff]

@[simp] theorem mirrorRecordReceiveEff_pending (m : Bytes) (s : State) :
    (mirrorRecordReceiveEff m s).pending = s.pending := by
  unfold mirrorRecordReceiveEff; (repeat' split) <;> simp

@[simp] theorem State.holdPending_pending (s : State) (serving : Bool) (handle entryNode : Nat) :
    (State.holdPending s serving handle entryNode).pending = s.pending := by rfl

@[simp] theorem mirrorAckReceiveEff_pending (handle entryNode : Nat) (s : State) :
    (mirrorAckReceiveEff handle entryNode s).pending = s.pending := by
  simp [mirrorAckReceiveEff]

@[simp] theorem mirrorConfirmReceiveEff_pending (handle entryNode : Nat) (s : State) :
    (mirrorConfirmReceiveEff handle entryNode s).pending = s.pending := by
  simp [mirrorConfirmReceiveEff]

@[simp] theorem State.commitUpdates_pending (s : State) :
    (State.commitUpdates s).pending = s.pending := by
  simp [State.commitUpdates]

@[simp] theorem commitDigestReceiveEff_pending (stride digest : Nat) (s : State) :
    (commitDigestReceiveEff stride digest s).pending = s.pending := by
  simp [commitDigestReceiveEff]

@[simp] theorem commitDigestDeadlineEff_pending (s : State) :
    (commitDigestDeadlineEff s).pending = s.pending := by
  simp [commitDigestDeadlineEff]

@[simp] theorem State.finishUpdate_pending (s : State) (h : Nat) (u : EntryUpdate) (status flags loc : Nat) :
    (State.finishUpdate s h u status flags loc).pending = s.pending := by rfl

@[simp] theorem updateAckReceiveEff_pending (m : Bytes) (s : State) :
    (updateAckReceiveEff m s).pending = s.pending := by
  unfold updateAckReceiveEff; simp only []; (repeat' split) <;> simp

@[simp] theorem State.loseUpdate_pending (s : State) (h : Nat) (u : EntryUpdate) :
    (State.loseUpdate s h u).pending = s.pending := by rfl

@[simp] theorem updateReplyDeadlineEff_pending (h : Nat) (s : State) :
    (updateReplyDeadlineEff h s).pending = s.pending := by
  unfold updateReplyDeadlineEff; split <;> simp

/-! ## Version -/

@[simp] theorem State.admitIndexBuild_pending (s : State) (id : Nat) (x : Index) (b : Build) (poison : List Nat) :
    (State.admitIndexBuild s id x b poison).pending = s.pending := by
  simp [State.admitIndexBuild]

@[simp] theorem State.admitTableBuild_pending (s : State) (id : Nat) (x : Table) (b : Build) :
    (State.admitTableBuild s id x b).pending = s.pending := by
  simp [State.admitTableBuild]

@[simp] theorem State.readSource_pending (s : State) (b : Build) (size : Nat) (reads : List FlashRead) :
    (State.readSource s b size reads).pending = s.pending := by
  unfold State.readSource
  split
  · rfl
  · refine foldl_pending (fun t u => ?_) _ _
    split
    · simp only []; (repeat' split) <;> simp
    · rfl

@[simp] theorem buildAdmissionEff_pending (id : Nat) (poisonRows : List Nat) (reads : List FlashRead) (s : State) :
    (buildAdmissionEff id poisonRows reads s).pending = s.pending := by
  unfold buildAdmissionEff; (repeat' split) <;> simp

@[simp] theorem State.versionReady_pending (s : State) (opcode id : Nat) (b : Build) (status digest step : Nat) :
    (State.versionReady s opcode id b status digest step).pending = s.pending := by
  simp [State.versionReady]

@[simp] theorem State.endIndexBuild_pending (s : State) (id : Nat) (x : Index) (b : Build) (status : Nat) :
    (State.endIndexBuild s id x b status).pending = s.pending := by
  unfold State.endIndexBuild; split <;> simp

@[simp] theorem State.endTableBuild_pending (s : State) (id : Nat) (x : Table) (b : Build) (status : Nat) :
    (State.endTableBuild s id x b status).pending = s.pending := by
  unfold State.endTableBuild; split <;> simp

@[simp] theorem versionBuiltEff_pending (id : Nat) (s : State) :
    (versionBuiltEff id s).pending = s.pending := by
  unfold versionBuiltEff; (repeat' split) <;> simp

@[simp] theorem State.voidBuilds_pending (s : State) : s.voidBuilds.pending = s.pending := by
  unfold State.voidBuilds
  simp only []
  rw [foldl_pending, foldl_pending]
  all_goals
    intro t a
    repeat' split
    all_goals simp

@[simp] theorem State.setSwitch_pending (s : State) (id : Nat) (w : Option Switch) :
    (State.setSwitch s id w).pending = s.pending := by rfl

@[simp] theorem switchTupleReceiveEff_pending (id version stride digest : Nat) (s : State) :
    (switchTupleReceiveEff id version stride digest s).pending = s.pending := by
  simp [switchTupleReceiveEff]

@[simp] theorem State.dropSwitch_pending (s : State) (id : Nat) (w : Switch) :
    (State.dropSwitch s id w).pending = s.pending := by
  simp [State.dropSwitch]

@[simp] theorem State.decideSwitch_pending (s : State) (id : Nat) :
    (State.decideSwitch s id).pending = s.pending := by
  unfold State.decideSwitch; split <;> simp

@[simp] theorem goRecordDeadlineEff_pending (s : State) :
    (goRecordDeadlineEff s).pending = s.pending := by
  simp [goRecordDeadlineEff]

@[simp] theorem goRecordReceiveEff_pending (id version stride digest : Nat) (s : State) :
    (goRecordReceiveEff id version stride digest s).pending = s.pending := by
  unfold goRecordReceiveEff; split <;> simp

@[simp] theorem versionPairReceiveEff_pending (id version : Nat) (s : State) :
    (versionPairReceiveEff id version s).pending = s.pending := by
  simp [versionPairReceiveEff]

@[simp] theorem versionPairDeadlineEff_pending (s : State) :
    (versionPairDeadlineEff s).pending = s.pending := by
  simp [versionPairDeadlineEff]

@[simp] theorem State.applySwitch_pending (s : State) (id : Nat) :
    (State.applySwitch s id).pending = s.pending := by
  unfold State.applySwitch; split <;> simp

@[simp] theorem State.applySwitches_pending (s : State) :
    (State.applySwitches s).pending = s.pending := by
  simp [State.applySwitches]

@[simp] theorem State.freeVersions_pending (s : State) :
    (State.freeVersions s).pending = s.pending := by rfl

@[simp] theorem State.freeObject_pending (s : State) (id : Nat) :
    (State.freeObject s id).pending = s.pending := by
  simp [State.freeObject]

@[simp] theorem indexCloseDrainedEff_pending (id : Nat) (s : State) :
    (indexCloseDrainedEff id s).pending = s.pending := by
  simp [indexCloseDrainedEff]

@[simp] theorem State.closeScrubbed_pending (s : State) (c : Nat) :
    (State.closeScrubbed s c).pending = s.pending := by
  simp [State.closeScrubbed]

@[simp] theorem contextCloseDrainedEff_pending (c : Nat) (s : State) :
    (contextCloseDrainedEff c s).pending = s.pending := by
  unfold contextCloseDrainedEff; split <;> simp

@[simp] theorem State.hbmZero_pending (s : State) (a n : Nat) :
    (State.hbmZero s a n).pending = s.pending := by rfl

@[simp] theorem State.scrubStack_pending (l : List Nat) (n : Nat) (s : State) : (State.scrubStack l n s).pending = s.pending := by
  induction l generalizing n s with
  | nil => rfl
  | cons g l ih => unfold State.scrubStack; simp only []; (repeat' split) <;> simp [ih]

@[simp] theorem granuleScrubEff_pending (s : State) :
    (granuleScrubEff s).pending = s.pending := by
  simp [granuleScrubEff]

@[simp] theorem versionFillEff_pending (id version : Nat) (s : State) :
    (versionFillEff id version s).pending = s.pending := by rfl

/-! ## Mirror -/

@[simp] theorem State.groupFigures_pending (s : State) :
    (State.groupFigures s).2.pending = s.pending := by
  unfold State.groupFigures
  rw [foldl_snd_pending]
  intro x p
  (repeat' split) <;> simp

@[simp] theorem State.writeMirror_pending (s : State) (n : Nat) : (s.writeMirror n).pending = s.pending := by
  unfold State.writeMirror
  simp

@[simp] theorem mirrorPublicationEff_pending (s : State) : (mirrorPublicationEff s).pending = s.pending := by
  unfold mirrorPublicationEff
  simp only []
  split
  · rfl
  · repeat' split
    all_goals simp

@[simp] theorem mctpMirrorReadEff_pending (o n : Nat) (s : State) :
    (mctpMirrorReadEff o n s).pending = s.pending := by
  simp [mctpMirrorReadEff]

/-! ## Bar0 -/

@[simp] theorem mailboxWrite_pending (f o : Nat) (value : Word32) (s : State) :
    (mailboxWrite f o value s).pending = s.pending := by
  simp [mailboxWrite]

@[simp] theorem bar0Write_pending (f : Nat) (offset : Nat) (value : Word32) (reassert : Word32) (s : State) :
    (bar0Write f offset value reassert s).pending = s.pending := by
  simp [bar0Write]

@[simp] theorem bar4Write_pending (f : Nat) (offset : Nat) (value : Word32) (s : State) :
    (bar4Write f offset value s).pending = s.pending := by
  simp [bar4Write]

@[simp] theorem wordWrite_pending (f : Nat) (bar : Nat) (offset : Nat) (value : Word32) (reassert : Word32) (s : State) :
    (wordWrite f bar offset value reassert s).pending = s.pending := by
  simp [wordWrite]

@[simp] theorem registerWriteEff_pending (f : Nat) (bar : Nat) (offset : Nat) (size : Nat) (value : Word64) (reassert : Word64) (s : State) :
    (registerWriteEff f bar offset size value reassert s).pending = s.pending := by
  simp [registerWriteEff]

/-! ## Membership -/

@[simp] theorem State.flood_pending (s : State) (except : Option Nat) (body : Bytes) :
    (State.flood s except body).pending = s.pending := by
  simp [State.flood]

@[simp] theorem State.modMemb_pending (s : State) (g : Membership → Membership) :
    (State.modMemb s g).pending = s.pending := by rfl

@[simp] theorem State.accuse_pending (s : State) (subject : Nat) (dst : Nat) :
    (State.accuse s subject dst).pending = s.pending := by
  simp [State.accuse]

@[simp] theorem State.accuseBoth_pending (s : State) (subject : Nat) :
    (State.accuseBoth s subject).pending = s.pending := by
  simp [State.accuseBoth]

@[simp] theorem heartbeatSendEff_pending (s : State) :
    (heartbeatSendEff s).pending = s.pending := by
  simp [heartbeatSendEff]

@[simp] theorem State.takesFrom_pending {s : State} {sender : Nat} {take : State → State}
    (h : ∀ t, (take t).pending = t.pending) : (s.takesFrom sender take).pending = s.pending := by
  unfold State.takesFrom
  (repeat' split) <;> simp [h]

@[simp] theorem heartbeatReceiveEff_pending (p : Nat) (r : Bytes) (s : State) :
    (heartbeatReceiveEff p r s).pending = s.pending := by
  simp [heartbeatReceiveEff]

@[simp] theorem State.vouchTo_pending (s : State) (subject : Nat) (dst : Nat) :
    (State.vouchTo s subject dst).pending = s.pending := by
  simp [State.vouchTo]

@[simp] theorem State.vouch_pending (s : State) (subject : Nat) :
    (State.vouch s subject).pending = s.pending := by
  simp [State.vouch]

@[simp] theorem accusationReceiveEff_pending (r : Bytes) (s : State) :
    (accusationReceiveEff r s).pending = s.pending := by
  simp [accusationReceiveEff]

@[simp] theorem vouchReceiveEff_pending (r : Bytes) (s : State) :
    (vouchReceiveEff r s).pending = s.pending := by
  simp [vouchReceiveEff]

@[simp] theorem State.countMiss_pending (s : State) (n : Nat) :
    (State.countMiss s n).pending = s.pending := by
  simp [State.countMiss]

@[simp] theorem heartbeatMissEff_pending (s : State) :
    (heartbeatMissEff s).pending = s.pending := by
  simp [heartbeatMissEff]

@[simp] theorem State.fenceEvent_pending (s : State) (x : Fence) (epoch : Nat) :
    (State.fenceEvent s x epoch).pending = s.pending := by
  simp [State.fenceEvent]

@[simp] theorem State.decideFence_pending (s : State) (d : Nat × Nat) :
    (State.decideFence s d).pending = s.pending := by
  simp [State.decideFence]

@[simp] theorem State.stopFenced_pending (s : State) :
    (State.stopFenced s).pending = s.pending := by rfl

@[simp] theorem State.decideFences_pending (s : State) (l : List (Nat × Nat)) :
    (State.decideFences s l).pending = s.pending := by
  simp [State.decideFences]

@[simp] theorem fenceDecisionEff_pending (s : State) :
    (fenceDecisionEff s).pending = s.pending := by
  simp [fenceDecisionEff]

@[simp] theorem fenceRecordReceiveEff_pending (p : Nat) (r : Bytes) (s : State) :
    (fenceRecordReceiveEff p r s).pending = s.pending := by
  simp [fenceRecordReceiveEff]

@[simp] theorem State.adoptFence_pending (s : State) (x : Fence) :
    (State.adoptFence s x).pending = s.pending := by
  simp [State.adoptFence]

@[simp] theorem State.adoptFences_pending (s : State) :
    (State.adoptFences s).pending = s.pending := by
  simp [State.adoptFences]

@[simp] theorem herdStatusEff_pending (f : Nat) (s : State) :
    (herdStatusEff f s).pending = s.pending := by
  unfold herdStatusEff; apply State.serve_pending; intro t q; rfl

@[simp] theorem herdTeardownEff_pending (f : Nat) (s : State) :
    (herdTeardownEff f s).pending = s.pending := by
  unfold herdTeardownEff; apply State.serve_pending; intro t q; simp only [refuse, accept, report]; (repeat' split) <;> simp

@[simp] theorem herdRemountEff_pending (f : Nat) (s : State) :
    (herdRemountEff f s).pending = s.pending := by
  unfold herdRemountEff; split; · rfl
  apply State.serve_pending; intro t q; simp only [refuse, accept, report]; (repeat' split) <;> simp

@[simp] theorem herdRemountCancelEff_pending (f : Nat) (s : State) :
    (herdRemountCancelEff f s).pending = s.pending := by
  unfold herdRemountCancelEff; split; · rfl
  apply State.serve_pending; intro t q; simp only [refuse, accept, report]; (repeat' split) <;> simp

@[simp] theorem herdUnitReturnEff_pending (f : Nat) (s : State) :
    (herdUnitReturnEff f s).pending = s.pending := by
  unfold herdUnitReturnEff; apply State.serve_pending; intro t q; simp only [refuse, accept, report]; (repeat' split) <;> simp

@[simp] theorem State.stopJob_pending (s : State) (c : Nat) :
    (State.stopJob s c).pending = s.pending := by
  simp [State.stopJob]

@[simp] theorem State.dropServed_pending (s : State) (c : Nat) :
    (State.dropServed s c).pending = s.pending := by rfl

@[simp] theorem State.closeWindows_pending (s : State) (c : Nat) :
    (State.closeWindows s c).pending = s.pending := by rfl

@[simp] theorem State.tearDown_pending (s : State) (c : Nat) :
    (State.tearDown s c).pending = s.pending := by
  simp [State.tearDown]

/-! ## Power -/

@[simp] theorem State.wiped_pending (s : State) (retained : Bool) :
    (State.wiped s retained).pending = s.pending := by rfl

@[simp] theorem State.begin_pending (s : State) :
    (State.begin s).pending = s.pending := by
  simp [State.begin]

@[simp] theorem powerArrivalEff_pending (s : State) :
    (powerArrivalEff s).pending = s.pending := by
  simp [powerArrivalEff]

@[simp] theorem powerRemovalEff_pending (s : State) :
    (powerRemovalEff s).pending = s.pending := by rfl

@[simp] theorem resetNAssertEff_pending (s : State) :
    (resetNAssertEff s).pending = s.pending := by
  simp [resetNAssertEff]

@[simp] theorem resetNReleaseEff_pending (s : State) :
    (resetNReleaseEff s).pending = s.pending := by
  simp [resetNReleaseEff]

@[simp] theorem State.halt_pending (s : State) (st : Nat) :
    (State.halt s st).pending = s.pending := by rfl

@[simp] theorem State.startFlush_pending (s : State) (st : Nat) :
    (State.startFlush s st).pending = s.pending := by rfl

@[simp] theorem pwrfailNAssertEff_pending (s : State) :
    (pwrfailNAssertEff s).pending = s.pending := by
  simp [pwrfailNAssertEff]

@[simp] theorem powerFailFlushEndEff_pending (s : State) :
    (powerFailFlushEndEff s).pending = s.pending := by
  simp [powerFailFlushEndEff]

@[simp] theorem State.crossings_pending (s : State) (now : List Int) :
    (State.crossings s now).pending = s.pending := by
  simp [State.crossings]

@[simp] theorem State.trip_pending (s : State) :
    (State.trip s).pending = s.pending := by
  simp [State.trip]

@[simp] theorem junctionSampleEff_pending (now : List Int) (s : State) :
    (junctionSampleEff now s).pending = s.pending := by
  simp [junctionSampleEff]

@[simp] theorem remountCheckpointEff_pending (s : State) :
    (remountCheckpointEff s).pending = s.pending := by
  unfold remountCheckpointEff; split <;> simp

@[simp] theorem remountRestartEff_pending (s : State) :
    (remountRestartEff s).pending = s.pending := by
  simp [remountRestartEff]

/-! ## Trust -/

@[simp] theorem trustAttestEff_pending (f : Nat) (s : State) :
    (trustAttestEff f s).pending = s.pending := by
  unfold trustAttestEff; apply State.serve_pending; intro t q; rfl

@[simp] theorem trustBrandRecordEff_pending (f : Nat) (s : State) :
    (trustBrandRecordEff f s).pending = s.pending := by
  unfold trustBrandRecordEff; apply State.serve_pending; intro t q; rfl

@[simp] theorem trustFwUpdateEff_pending (f : Nat) (image : Bytes) (s : State) :
    (trustFwUpdateEff f image s).pending = s.pending := by
  unfold trustFwUpdateEff; split; · rfl
  apply State.serve_pending; intro t q; simp only [refuse, accept, report]; (repeat' split) <;> simp

@[simp] theorem trustDebugChallengeEff_pending (f : Nat) (s : State) :
    (trustDebugChallengeEff f s).pending = s.pending := by
  unfold trustDebugChallengeEff; split; · rfl
  apply State.serve_pending; intro t q; simp only [refuse, accept, report]; (repeat' split) <;> simp

@[simp] theorem trustDebugUnlockEff_pending (f : Nat) (s : State) :
    (trustDebugUnlockEff f s).pending = s.pending := by
  unfold trustDebugUnlockEff; split; · rfl
  apply State.serve_pending; intro t q; simp only [refuse, accept, report]; (repeat' split) <;> simp

@[simp] theorem trustIdeKeyEff_pending (f : Nat) (s : State) :
    (trustIdeKeyEff f s).pending = s.pending := by
  unfold trustIdeKeyEff; apply State.serve_pending; intro t q; simp only [refuse, accept, report]; (repeat' split) <;> simp

/-! ## Startup -/

@[simp] theorem State.enter_pending (s : State) (n : Nat) :
    (State.enter s n).pending = s.pending := by rfl

@[simp] theorem State.fail_pending (s : State) (code : Nat) :
    (State.fail s code).pending = s.pending := by
  simp [State.fail]

@[simp] theorem stageTimeoutEff_pending (s : State) :
    (stageTimeoutEff s).pending = s.pending := by
  simp [stageTimeoutEff]

@[simp] theorem railsInRegulationEff_pending (failure : Nat) (s : State) :
    (railsInRegulationEff failure s).pending = s.pending := by
  simp [railsInRegulationEff]

@[simp] theorem firmwareMeasuredStartEff_pending (secret : Bytes) (s : State) :
    (firmwareMeasuredStartEff secret s).pending = s.pending := by
  unfold firmwareMeasuredStartEff; (repeat' split) <;> simp

@[simp] theorem tackImageReceiveEff_pending (b : Bytes) (s : State) :
    (tackImageReceiveEff b s).pending = s.pending := by
  unfold tackImageReceiveEff; (repeat' split) <;> simp

@[simp] theorem State.settleUnits_pending (s : State) (stage : Nat) (failed : List (Nat × Nat)) :
    (State.settleUnits s stage failed).pending = s.pending := by rfl

@[simp] theorem State.dropLanes_pending (s : State) (lost : List (Nat × Nat)) :
    (State.dropLanes s lost).pending = s.pending := by rfl

@[simp] theorem State.admitUnits_pending (s : State) (lanes : BitVec 36) :
    (State.admitUnits s lanes).pending = s.pending := by rfl

@[simp] theorem State.toParents_pending (s : State) (b : Bytes) :
    (State.toParents s b).pending = s.pending := by
  simp [State.toParents]

@[simp] theorem State.enterJoin_pending (s : State) :
    (State.enterJoin s).pending = s.pending := by
  simp [State.enterJoin]

@[simp] theorem unitTrainingEff_pending (stage : Nat) (r : UnitReport) (s : State) :
    (unitTrainingEff stage r s).pending = s.pending := by
  simp [unitTrainingEff]

@[simp] theorem State.programNow_pending (ch : Nat) (s : State) (o : ArrayOp) :
    (State.programNow ch s o).pending = s.pending := by
  unfold State.programNow; (repeat' split) <;> simp

@[simp] theorem State.programPage_pending (ch : Nat) (pad : Nat) (s : State) (units : List (Nat × PastWrite)) :
    (State.programPage ch pad s units).pending = s.pending := by
  simp [State.programPage]

@[simp] theorem State.programUnits_pending (pad : Nat) (s : State) (ch : Nat) :
    (State.programUnits pad s ch).pending = s.pending := by
  simp [State.programUnits]

@[simp] theorem State.programBack_pending (s : State) :
    (State.programBack s).pending = s.pending := by
  simp [State.programBack]

@[simp] theorem State.movesNow_pending (s : State) (ch : Nat) :
    (State.movesNow s ch).pending = s.pending := by
  simp [State.movesNow]

@[simp] theorem State.retireDie_pending (s : State) (u : Nat × Nat) :
    (State.retireDie s u).pending = s.pending := by
  simp [State.retireDie]

@[simp] theorem State.enterTraining_pending (s : State) :
    (State.enterTraining s).pending = s.pending := by rfl

@[simp] theorem flashScanEff_pending (r : ScanReport) (s : State) :
    (flashScanEff r s).pending = s.pending := by
  simp [flashScanEff]

@[simp] theorem portTrainingEff_pending (p : Nat) (r : PortReport) (s : State) :
    (portTrainingEff p r s).pending = s.pending := by
  simp [portTrainingEff]

@[simp] theorem joinRecordReceiveEff_pending (b : Bytes) (s : State) :
    (joinRecordReceiveEff b s).pending = s.pending := by
  simp [joinRecordReceiveEff]

@[simp] theorem State.closeJoin_pending (s : State) :
    (State.closeJoin s).pending = s.pending := by
  simp [State.closeJoin]

@[simp] theorem joinCloseEff_pending (s : State) :
    (joinCloseEff s).pending = s.pending := by
  simp [joinCloseEff]

@[simp] theorem joinCloseReceiveEff_pending (s0 : Nat) (s : State) :
    (joinCloseReceiveEff s0 s).pending = s.pending := by
  simp [joinCloseReceiveEff]

@[simp] theorem strideLockEff_pending (errors : List Int) (s : State) :
    (strideLockEff errors s).pending = s.pending := by
  simp [strideLockEff]

@[simp] theorem lateJoinWaitEff_pending (s : State) :
    (lateJoinWaitEff s).pending = s.pending := by
  simp [lateJoinWaitEff]

@[simp] theorem State.zeroCounters_pending (s : State) :
    (State.zeroCounters s).pending = s.pending := by rfl

@[simp] theorem serviceGaitAdoptionEff_pending (absent : List Nat) (s : State) :
    (serviceGaitAdoptionEff absent s).pending = s.pending := by
  unfold serviceGaitAdoptionEff
  simp only []
  split
  · rfl
  · split
    · simp
    · simp only [State.enter_pending]
      rw [foldl_pending (fun t a => State.adoptFence_pending t a)]
      simp

@[simp] theorem State.finishCloses_pending (s : State) :
    (State.finishCloses s).pending = s.pending := by rfl

@[simp] theorem State.unwrapKeys_pending (s : State) :
    (State.unwrapKeys s).pending = s.pending := by
  simp [State.unwrapKeys]

@[simp] theorem State.restoreFrom_pending (s : State) (c : Checkpoint) :
    (State.restoreFrom s c).pending = s.pending := by rfl

@[simp] theorem State.restoreOwn_pending (s : State) :
    (State.restoreOwn s).pending = s.pending := by
  unfold State.restoreOwn; (repeat' split) <;> simp

@[simp] theorem State.restoreSteps_pending (s : State) (steps : List (Nat × Nat)) :
    (State.restoreSteps s steps).pending = s.pending := by rfl

@[simp] theorem State.takeUnits_pending (s : State) (u : List (Nat × Nat × Bytes)) :
    (s.takeUnits u).pending = s.pending := by
  unfold State.takeUnits
  rw [foldl_pending]
  simp

@[simp] theorem State.grantAll_pending (s : State) :
    (State.grantAll s).pending = s.pending := by
  simp [State.grantAll]

@[simp] theorem State.clearSingle_pending (s : State) :
    (State.clearSingle s).pending = s.pending := by rfl

@[simp] theorem State.supplyPartner_pending (s : State) :
    (State.supplyPartner s).pending = s.pending := by
  unfold State.supplyPartner; (repeat' split) <;> simp

theorem State.restored_pending {s t : State} {r : RestoreReport} (h : s.restored r = some t) : t.pending = s.pending := by
  unfold State.restored at h
  (repeat' split at h) <;> first | (cases h; simp; done) | cases h

@[simp] theorem stateRestoreEff_pending (r : RestoreReport) (s : State) : (stateRestoreEff r s).pending = s.pending := by
  unfold stateRestoreEff; simp only []
  split
  · rfl
  · split
    · simp
    · split
      · simp
      · rename_i h
        have h := State.restored_pending h
        simp only [State.unwrapKeys_pending, State.finishCloses_pending] at h
        (repeat' split) <;> simp [h]

@[simp] theorem versionFilledEff_pending (id : Nat) (version : Nat) (reads : List FlashRead) (s : State) :
    (versionFilledEff id version reads s).pending = s.pending := by
  unfold versionFilledEff; (repeat' split) <;> simp

/-! ## Device -/

@[simp] theorem deviceFormatEff_pending (f : Nat) (s : State) :
    (deviceFormatEff f s).pending = s.pending := by
  unfold deviceFormatEff; apply State.serve_pending; intro t q; simp only [refuse, accept, report]; (repeat' split) <;> simp

@[simp] theorem controlCoreFaultEff_pending (s : State) :
    (controlCoreFaultEff s).pending = s.pending := by rfl

@[simp] theorem controlCoreRestartedEff_pending (s : State) :
    (controlCoreRestartedEff s).pending = s.pending := by
  simp [controlCoreRestartedEff]

@[simp] theorem managementCoreCrashEff_pending (s : State) :
    (managementCoreCrashEff s).pending = s.pending := by rfl

@[simp] theorem State.managementRestart_pending (s : State) :
    (State.managementRestart s).pending = s.pending := by rfl

/-! ## Boundary -/

@[simp] theorem State.stopSteps_pending (s : State) (table : Nat) (which : Step → Bool) :
    (State.stopSteps s table which).pending = s.pending := by rfl

@[simp] theorem State.stopWork_pending (s : State) (w : Nat) :
    (State.stopWork s w).pending = s.pending := by
  unfold State.stopWork; simp only []; (repeat' split) <;> simp_all

@[simp] theorem State.overran_pending (s : State) (w : Nat) :
    (State.overran s w).pending = s.pending := by
  simp [State.overran]

@[simp] theorem State.stopOverdue_pending (s : State) :
    (State.stopOverdue s).pending = s.pending := by
  simp [State.stopOverdue]

@[simp] theorem State.stopUnits_pending (s : State) :
    (State.stopUnits s).pending = s.pending := by
  simp [State.stopUnits]

@[simp] theorem State.endReplies_pending (s : State) :
    (State.endReplies s).pending = s.pending := by
  simp [State.endReplies]

@[simp] theorem State.dropStale_pending (s : State) :
    (State.dropStale s).pending = s.pending := by rfl

@[simp] theorem State.endStride_pending (s : State) (overrun : List Nat) :
    (State.endStride s overrun).pending = s.pending := by
  simp [State.endStride]

@[simp] theorem State.sendMarks_pending (s : State) :
    (State.sendMarks s).pending = s.pending := by
  simp [State.sendMarks]

@[simp] theorem State.advance_pending (s : State) :
    (State.advance s).pending = s.pending := by rfl

@[simp] theorem State.writeRow_pending (s : State) (id : Nat) (r : TableRow) :
    (State.writeRow s id r).pending = s.pending := by
  unfold State.writeRow; simp only []; (repeat' split) <;> simp_all

@[simp] theorem State.applyWrites_pending (s : State) (id : Nat) :
    (State.applyWrites s id).pending = s.pending := by
  unfold State.applyWrites; (repeat' split) <;> simp

@[simp] theorem State.fixLookups_pending (s : State) :
    (State.fixLookups s).pending = s.pending := by rfl

@[simp] theorem State.visibility_pending (s : State) :
    (State.visibility s).pending = s.pending := by
  simp [State.visibility]

@[simp] theorem State.adoptAperture_pending (s : State) (f a : Nat) :
    (State.adoptAperture s f a).pending = s.pending := by
  simp [State.adoptAperture]

@[simp] theorem State.adoptShadows_pending (s : State) :
    (State.adoptShadows s).pending = s.pending := by
  simp [State.adoptShadows]

@[simp] theorem State.mount_pending (s : State) (u : UnitSet) :
    (State.mount s u).pending = s.pending := by rfl

@[simp] theorem State.adoptGait_pending (s : State) :
    (State.adoptGait s).pending = s.pending := by
  unfold State.adoptGait; (repeat' split) <;> simp

@[simp] theorem State.createContext_pending (s : State) (c f : Nat) :
    (State.createContext s c f).pending = s.pending := by rfl

@[simp] theorem State.closeObject_pending (s : State) (id : Nat) :
    (State.closeObject s id).pending = s.pending := by rfl

@[simp] theorem State.closeContext_pending (s : State) (c : Nat) :
    (State.closeContext s c).pending = s.pending := by
  unfold State.closeContext; split <;> simp

@[simp] theorem State.applyChange_pending (s : State) (x1 : Change) :
    (State.applyChange s x1).pending = s.pending := by
  unfold State.applyChange; (repeat' split) <;> simp

@[simp] theorem State.adoptChanges_pending (s : State) :
    (State.adoptChanges s).pending = s.pending := by
  simp [State.adoptChanges]

@[simp] theorem State.closeDetached_pending (s : State) :
    (State.closeDetached s).pending = s.pending := by
  simp [State.closeDetached]

@[simp] theorem State.release_pending (s : State) :
    (State.release s).pending = s.pending := by rfl

@[simp] theorem State.remountAt_pending (s : State) :
    (State.remountAt s).pending = s.pending := by
  unfold State.remountAt; split <;> simp

@[simp] theorem State.adoption_pending (s : State) :
    (State.adoption s).pending = s.pending := by
  simp [State.adoption]

@[simp] theorem State.commitFlags_pending (s : State) :
    (State.commitFlags s).pending = s.pending := by rfl

@[simp] theorem strideBoundaryEff_pending (overrun : List Nat) (s : State) :
    (strideBoundaryEff overrun s).pending = s.pending := by
  simp [strideBoundaryEff]

end Sys2Proof.Machine
end

