-- ==== Sys2Proof/Laws/State.lean ====
section
/-! SUPPORT. What the shared operations on State leave and what they write: one lemma for each field and operation, so that
no proof unfolds a record update. The lemmas of the field `pending` stand in Laws/Queue.lean. -/

namespace Sys2Proof.Machine

/-! ## Fields that an operation leaves -/

@[simp] theorem State.modFunc_clk (s : State) (f : Nat) (g : FuncRegs → FuncRegs) : (State.modFunc s f g).clk = s.clk := by rfl
@[simp] theorem State.modFunc_node (s : State) (f : Nat) (g : FuncRegs → FuncRegs) : (State.modFunc s f g).node = s.node := by rfl
@[simp] theorem State.modFunc_links (s : State) (f : Nat) (g : FuncRegs → FuncRegs) : (State.modFunc s f g).links = s.links := by rfl
@[simp] theorem State.modFunc_mbx (s : State) (f : Nat) (g : FuncRegs → FuncRegs) : (State.modFunc s f g).mbx = s.mbx := by rfl
@[simp] theorem State.modFunc_ctl (s : State) (f : Nat) (g : FuncRegs → FuncRegs) : (State.modFunc s f g).ctl = s.ctl := by rfl
@[simp] theorem State.modFunc_changes (s : State) (f : Nat) (g : FuncRegs → FuncRegs) : (State.modFunc s f g).changes = s.changes := by rfl
@[simp] theorem State.modFunc_gaits (s : State) (f : Nat) (g : FuncRegs → FuncRegs) : (State.modFunc s f g).gaits = s.gaits := by rfl
@[simp] theorem State.modFunc_contexts (s : State) (f : Nat) (g : FuncRegs → FuncRegs) : (State.modFunc s f g).contexts = s.contexts := by rfl
@[simp] theorem State.modFunc_mem (s : State) (f : Nat) (g : FuncRegs → FuncRegs) : (State.modFunc s f g).mem = s.mem := by rfl
@[simp] theorem State.modFunc_rings (s : State) (f : Nat) (g : FuncRegs → FuncRegs) : (State.modFunc s f g).rings = s.rings := by rfl
@[simp] theorem State.modFunc_queues (s : State) (f : Nat) (g : FuncRegs → FuncRegs) : (State.modFunc s f g).queues = s.queues := by rfl
@[simp] theorem State.modFunc_indexes (s : State) (f : Nat) (g : FuncRegs → FuncRegs) : (State.modFunc s f g).indexes = s.indexes := by rfl
@[simp] theorem State.modFunc_tables (s : State) (f : Nat) (g : FuncRegs → FuncRegs) : (State.modFunc s f g).tables = s.tables := by rfl
@[simp] theorem State.modFunc_programs (s : State) (f : Nat) (g : FuncRegs → FuncRegs) : (State.modFunc s f g).programs = s.programs := by rfl
@[simp] theorem State.modFunc_work (s : State) (f : Nat) (g : FuncRegs → FuncRegs) : (State.modFunc s f g).work = s.work := by rfl
@[simp] theorem State.modFunc_flash (s : State) (f : Nat) (g : FuncRegs → FuncRegs) : (State.modFunc s f g).flash = s.flash := by rfl
@[simp] theorem State.modFunc_nmu (s : State) (f : Nat) (g : FuncRegs → FuncRegs) : (State.modFunc s f g).nmu = s.nmu := by rfl
@[simp] theorem State.modFunc_arb (s : State) (f : Nat) (g : FuncRegs → FuncRegs) : (State.modFunc s f g).arb = s.arb := by rfl
@[simp] theorem State.modFunc_fab (s : State) (f : Nat) (g : FuncRegs → FuncRegs) : (State.modFunc s f g).fab = s.fab := by rfl
@[simp] theorem State.modFunc_memb (s : State) (f : Nat) (g : FuncRegs → FuncRegs) : (State.modFunc s f g).memb = s.memb := by rfl
@[simp] theorem State.modFunc_tel (s : State) (f : Nat) (g : FuncRegs → FuncRegs) : (State.modFunc s f g).tel = s.tel := by rfl
@[simp] theorem State.modFunc_out (s : State) (f : Nat) (g : FuncRegs → FuncRegs) : (State.modFunc s f g).out = s.out := by rfl
@[simp] theorem State.modFunc_draws (s : State) (f : Nat) (g : FuncRegs → FuncRegs) : (State.modFunc s f g).draws = s.draws := by rfl
@[simp] theorem State.modFunc_sorts (s : State) (f : Nat) (g : FuncRegs → FuncRegs) : (State.modFunc s f g).sorts = s.sorts := by rfl
@[simp] theorem State.modFunc_tiles (s : State) (f : Nat) (g : FuncRegs → FuncRegs) : (State.modFunc s f g).tiles = s.tiles := by rfl
@[simp] theorem State.modMailbox_clk (s : State) (f : Nat) (g : Mailbox → Mailbox) : (State.modMailbox s f g).clk = s.clk := by rfl
@[simp] theorem State.modMailbox_node (s : State) (f : Nat) (g : Mailbox → Mailbox) : (State.modMailbox s f g).node = s.node := by rfl
@[simp] theorem State.modMailbox_funcs (s : State) (f : Nat) (g : Mailbox → Mailbox) : (State.modMailbox s f g).funcs = s.funcs := by rfl
@[simp] theorem State.modMailbox_links (s : State) (f : Nat) (g : Mailbox → Mailbox) : (State.modMailbox s f g).links = s.links := by rfl
@[simp] theorem State.modMailbox_ctl (s : State) (f : Nat) (g : Mailbox → Mailbox) : (State.modMailbox s f g).ctl = s.ctl := by rfl
@[simp] theorem State.modMailbox_changes (s : State) (f : Nat) (g : Mailbox → Mailbox) : (State.modMailbox s f g).changes = s.changes := by rfl
@[simp] theorem State.modMailbox_gaits (s : State) (f : Nat) (g : Mailbox → Mailbox) : (State.modMailbox s f g).gaits = s.gaits := by rfl
@[simp] theorem State.modMailbox_contexts (s : State) (f : Nat) (g : Mailbox → Mailbox) : (State.modMailbox s f g).contexts = s.contexts := by rfl
@[simp] theorem State.modMailbox_mem (s : State) (f : Nat) (g : Mailbox → Mailbox) : (State.modMailbox s f g).mem = s.mem := by rfl
@[simp] theorem State.modMailbox_rings (s : State) (f : Nat) (g : Mailbox → Mailbox) : (State.modMailbox s f g).rings = s.rings := by rfl
@[simp] theorem State.modMailbox_queues (s : State) (f : Nat) (g : Mailbox → Mailbox) : (State.modMailbox s f g).queues = s.queues := by rfl
@[simp] theorem State.modMailbox_indexes (s : State) (f : Nat) (g : Mailbox → Mailbox) : (State.modMailbox s f g).indexes = s.indexes := by rfl
@[simp] theorem State.modMailbox_tables (s : State) (f : Nat) (g : Mailbox → Mailbox) : (State.modMailbox s f g).tables = s.tables := by rfl
@[simp] theorem State.modMailbox_programs (s : State) (f : Nat) (g : Mailbox → Mailbox) : (State.modMailbox s f g).programs = s.programs := by rfl
@[simp] theorem State.modMailbox_work (s : State) (f : Nat) (g : Mailbox → Mailbox) : (State.modMailbox s f g).work = s.work := by rfl
@[simp] theorem State.modMailbox_flash (s : State) (f : Nat) (g : Mailbox → Mailbox) : (State.modMailbox s f g).flash = s.flash := by rfl
@[simp] theorem State.modMailbox_nmu (s : State) (f : Nat) (g : Mailbox → Mailbox) : (State.modMailbox s f g).nmu = s.nmu := by rfl
@[simp] theorem State.modMailbox_arb (s : State) (f : Nat) (g : Mailbox → Mailbox) : (State.modMailbox s f g).arb = s.arb := by rfl
@[simp] theorem State.modMailbox_fab (s : State) (f : Nat) (g : Mailbox → Mailbox) : (State.modMailbox s f g).fab = s.fab := by rfl
@[simp] theorem State.modMailbox_memb (s : State) (f : Nat) (g : Mailbox → Mailbox) : (State.modMailbox s f g).memb = s.memb := by rfl
@[simp] theorem State.modMailbox_tel (s : State) (f : Nat) (g : Mailbox → Mailbox) : (State.modMailbox s f g).tel = s.tel := by rfl
@[simp] theorem State.modMailbox_out (s : State) (f : Nat) (g : Mailbox → Mailbox) : (State.modMailbox s f g).out = s.out := by rfl
@[simp] theorem State.modMailbox_draws (s : State) (f : Nat) (g : Mailbox → Mailbox) : (State.modMailbox s f g).draws = s.draws := by rfl
@[simp] theorem State.modMailbox_sorts (s : State) (f : Nat) (g : Mailbox → Mailbox) : (State.modMailbox s f g).sorts = s.sorts := by rfl
@[simp] theorem State.modMailbox_tiles (s : State) (f : Nat) (g : Mailbox → Mailbox) : (State.modMailbox s f g).tiles = s.tiles := by rfl
@[simp] theorem State.modLink_clk (s : State) (l : Nat) (g : Link → Link) : (State.modLink s l g).clk = s.clk := by rfl
@[simp] theorem State.modLink_node (s : State) (l : Nat) (g : Link → Link) : (State.modLink s l g).node = s.node := by rfl
@[simp] theorem State.modLink_funcs (s : State) (l : Nat) (g : Link → Link) : (State.modLink s l g).funcs = s.funcs := by rfl
@[simp] theorem State.modLink_mbx (s : State) (l : Nat) (g : Link → Link) : (State.modLink s l g).mbx = s.mbx := by rfl
@[simp] theorem State.modLink_ctl (s : State) (l : Nat) (g : Link → Link) : (State.modLink s l g).ctl = s.ctl := by rfl
@[simp] theorem State.modLink_changes (s : State) (l : Nat) (g : Link → Link) : (State.modLink s l g).changes = s.changes := by rfl
@[simp] theorem State.modLink_gaits (s : State) (l : Nat) (g : Link → Link) : (State.modLink s l g).gaits = s.gaits := by rfl
@[simp] theorem State.modLink_contexts (s : State) (l : Nat) (g : Link → Link) : (State.modLink s l g).contexts = s.contexts := by rfl
@[simp] theorem State.modLink_mem (s : State) (l : Nat) (g : Link → Link) : (State.modLink s l g).mem = s.mem := by rfl
@[simp] theorem State.modLink_rings (s : State) (l : Nat) (g : Link → Link) : (State.modLink s l g).rings = s.rings := by rfl
@[simp] theorem State.modLink_queues (s : State) (l : Nat) (g : Link → Link) : (State.modLink s l g).queues = s.queues := by rfl
@[simp] theorem State.modLink_indexes (s : State) (l : Nat) (g : Link → Link) : (State.modLink s l g).indexes = s.indexes := by rfl
@[simp] theorem State.modLink_tables (s : State) (l : Nat) (g : Link → Link) : (State.modLink s l g).tables = s.tables := by rfl
@[simp] theorem State.modLink_programs (s : State) (l : Nat) (g : Link → Link) : (State.modLink s l g).programs = s.programs := by rfl
@[simp] theorem State.modLink_work (s : State) (l : Nat) (g : Link → Link) : (State.modLink s l g).work = s.work := by rfl
@[simp] theorem State.modLink_flash (s : State) (l : Nat) (g : Link → Link) : (State.modLink s l g).flash = s.flash := by rfl
@[simp] theorem State.modLink_nmu (s : State) (l : Nat) (g : Link → Link) : (State.modLink s l g).nmu = s.nmu := by rfl
@[simp] theorem State.modLink_arb (s : State) (l : Nat) (g : Link → Link) : (State.modLink s l g).arb = s.arb := by rfl
@[simp] theorem State.modLink_fab (s : State) (l : Nat) (g : Link → Link) : (State.modLink s l g).fab = s.fab := by rfl
@[simp] theorem State.modLink_memb (s : State) (l : Nat) (g : Link → Link) : (State.modLink s l g).memb = s.memb := by rfl
@[simp] theorem State.modLink_tel (s : State) (l : Nat) (g : Link → Link) : (State.modLink s l g).tel = s.tel := by rfl
@[simp] theorem State.modLink_out (s : State) (l : Nat) (g : Link → Link) : (State.modLink s l g).out = s.out := by rfl
@[simp] theorem State.modLink_draws (s : State) (l : Nat) (g : Link → Link) : (State.modLink s l g).draws = s.draws := by rfl
@[simp] theorem State.modLink_sorts (s : State) (l : Nat) (g : Link → Link) : (State.modLink s l g).sorts = s.sorts := by rfl
@[simp] theorem State.modLink_tiles (s : State) (l : Nat) (g : Link → Link) : (State.modLink s l g).tiles = s.tiles := by rfl
@[simp] theorem State.modPort_clk (s : State) (p : Nat) (g : Port → Port) : (State.modPort s p g).clk = s.clk := by rfl
@[simp] theorem State.modPort_node (s : State) (p : Nat) (g : Port → Port) : (State.modPort s p g).node = s.node := by rfl
@[simp] theorem State.modPort_funcs (s : State) (p : Nat) (g : Port → Port) : (State.modPort s p g).funcs = s.funcs := by rfl
@[simp] theorem State.modPort_links (s : State) (p : Nat) (g : Port → Port) : (State.modPort s p g).links = s.links := by rfl
@[simp] theorem State.modPort_mbx (s : State) (p : Nat) (g : Port → Port) : (State.modPort s p g).mbx = s.mbx := by rfl
@[simp] theorem State.modPort_ctl (s : State) (p : Nat) (g : Port → Port) : (State.modPort s p g).ctl = s.ctl := by rfl
@[simp] theorem State.modPort_changes (s : State) (p : Nat) (g : Port → Port) : (State.modPort s p g).changes = s.changes := by rfl
@[simp] theorem State.modPort_gaits (s : State) (p : Nat) (g : Port → Port) : (State.modPort s p g).gaits = s.gaits := by rfl
@[simp] theorem State.modPort_contexts (s : State) (p : Nat) (g : Port → Port) : (State.modPort s p g).contexts = s.contexts := by rfl
@[simp] theorem State.modPort_mem (s : State) (p : Nat) (g : Port → Port) : (State.modPort s p g).mem = s.mem := by rfl
@[simp] theorem State.modPort_rings (s : State) (p : Nat) (g : Port → Port) : (State.modPort s p g).rings = s.rings := by rfl
@[simp] theorem State.modPort_queues (s : State) (p : Nat) (g : Port → Port) : (State.modPort s p g).queues = s.queues := by rfl
@[simp] theorem State.modPort_indexes (s : State) (p : Nat) (g : Port → Port) : (State.modPort s p g).indexes = s.indexes := by rfl
@[simp] theorem State.modPort_tables (s : State) (p : Nat) (g : Port → Port) : (State.modPort s p g).tables = s.tables := by rfl
@[simp] theorem State.modPort_programs (s : State) (p : Nat) (g : Port → Port) : (State.modPort s p g).programs = s.programs := by rfl
@[simp] theorem State.modPort_work (s : State) (p : Nat) (g : Port → Port) : (State.modPort s p g).work = s.work := by rfl
@[simp] theorem State.modPort_flash (s : State) (p : Nat) (g : Port → Port) : (State.modPort s p g).flash = s.flash := by rfl
@[simp] theorem State.modPort_nmu (s : State) (p : Nat) (g : Port → Port) : (State.modPort s p g).nmu = s.nmu := by rfl
@[simp] theorem State.modPort_arb (s : State) (p : Nat) (g : Port → Port) : (State.modPort s p g).arb = s.arb := by rfl
@[simp] theorem State.modPort_memb (s : State) (p : Nat) (g : Port → Port) : (State.modPort s p g).memb = s.memb := by rfl
@[simp] theorem State.modPort_tel (s : State) (p : Nat) (g : Port → Port) : (State.modPort s p g).tel = s.tel := by rfl
@[simp] theorem State.modPort_out (s : State) (p : Nat) (g : Port → Port) : (State.modPort s p g).out = s.out := by rfl
@[simp] theorem State.modPort_draws (s : State) (p : Nat) (g : Port → Port) : (State.modPort s p g).draws = s.draws := by rfl
@[simp] theorem State.modPort_sorts (s : State) (p : Nat) (g : Port → Port) : (State.modPort s p g).sorts = s.sorts := by rfl
@[simp] theorem State.modPort_tiles (s : State) (p : Nat) (g : Port → Port) : (State.modPort s p g).tiles = s.tiles := by rfl
@[simp] theorem State.emit_clk (s : State) (cls dest : Nat) (body aside : Bytes) : (State.emit s cls dest body aside).clk = s.clk := by rfl
@[simp] theorem State.emit_node (s : State) (cls dest : Nat) (body aside : Bytes) : (State.emit s cls dest body aside).node = s.node := by rfl
@[simp] theorem State.emit_funcs (s : State) (cls dest : Nat) (body aside : Bytes) : (State.emit s cls dest body aside).funcs = s.funcs := by rfl
@[simp] theorem State.emit_links (s : State) (cls dest : Nat) (body aside : Bytes) : (State.emit s cls dest body aside).links = s.links := by rfl
@[simp] theorem State.emit_mbx (s : State) (cls dest : Nat) (body aside : Bytes) : (State.emit s cls dest body aside).mbx = s.mbx := by rfl
@[simp] theorem State.emit_ctl (s : State) (cls dest : Nat) (body aside : Bytes) : (State.emit s cls dest body aside).ctl = s.ctl := by rfl
@[simp] theorem State.emit_changes (s : State) (cls dest : Nat) (body aside : Bytes) : (State.emit s cls dest body aside).changes = s.changes := by rfl
@[simp] theorem State.emit_gaits (s : State) (cls dest : Nat) (body aside : Bytes) : (State.emit s cls dest body aside).gaits = s.gaits := by rfl
@[simp] theorem State.emit_contexts (s : State) (cls dest : Nat) (body aside : Bytes) : (State.emit s cls dest body aside).contexts = s.contexts := by rfl
@[simp] theorem State.emit_mem (s : State) (cls dest : Nat) (body aside : Bytes) : (State.emit s cls dest body aside).mem = s.mem := by rfl
@[simp] theorem State.emit_rings (s : State) (cls dest : Nat) (body aside : Bytes) : (State.emit s cls dest body aside).rings = s.rings := by rfl
@[simp] theorem State.emit_queues (s : State) (cls dest : Nat) (body aside : Bytes) : (State.emit s cls dest body aside).queues = s.queues := by rfl
@[simp] theorem State.emit_indexes (s : State) (cls dest : Nat) (body aside : Bytes) : (State.emit s cls dest body aside).indexes = s.indexes := by rfl
@[simp] theorem State.emit_tables (s : State) (cls dest : Nat) (body aside : Bytes) : (State.emit s cls dest body aside).tables = s.tables := by rfl
@[simp] theorem State.emit_programs (s : State) (cls dest : Nat) (body aside : Bytes) : (State.emit s cls dest body aside).programs = s.programs := by rfl
@[simp] theorem State.emit_work (s : State) (cls dest : Nat) (body aside : Bytes) : (State.emit s cls dest body aside).work = s.work := by rfl
@[simp] theorem State.emit_flash (s : State) (cls dest : Nat) (body aside : Bytes) : (State.emit s cls dest body aside).flash = s.flash := by rfl
@[simp] theorem State.emit_nmu (s : State) (cls dest : Nat) (body aside : Bytes) : (State.emit s cls dest body aside).nmu = s.nmu := by rfl
@[simp] theorem State.emit_arb (s : State) (cls dest : Nat) (body aside : Bytes) : (State.emit s cls dest body aside).arb = s.arb := by rfl
@[simp] theorem State.emit_fab (s : State) (cls dest : Nat) (body aside : Bytes) : (State.emit s cls dest body aside).fab = s.fab := by rfl
@[simp] theorem State.emit_memb (s : State) (cls dest : Nat) (body aside : Bytes) : (State.emit s cls dest body aside).memb = s.memb := by rfl
@[simp] theorem State.emit_tel (s : State) (cls dest : Nat) (body aside : Bytes) : (State.emit s cls dest body aside).tel = s.tel := by rfl
@[simp] theorem State.emit_draws (s : State) (cls dest : Nat) (body aside : Bytes) : (State.emit s cls dest body aside).draws = s.draws := by rfl
@[simp] theorem State.emit_sorts (s : State) (cls dest : Nat) (body aside : Bytes) : (State.emit s cls dest body aside).sorts = s.sorts := by rfl
@[simp] theorem State.emit_tiles (s : State) (cls dest : Nat) (body aside : Bytes) : (State.emit s cls dest body aside).tiles = s.tiles := by rfl
@[simp] theorem State.sendPort_clk (s : State) (cls port : Nat) (body : Bytes) : (State.sendPort s cls port body).clk = s.clk := by rfl
@[simp] theorem State.sendPort_node (s : State) (cls port : Nat) (body : Bytes) : (State.sendPort s cls port body).node = s.node := by rfl
@[simp] theorem State.sendPort_funcs (s : State) (cls port : Nat) (body : Bytes) : (State.sendPort s cls port body).funcs = s.funcs := by rfl
@[simp] theorem State.sendPort_links (s : State) (cls port : Nat) (body : Bytes) : (State.sendPort s cls port body).links = s.links := by rfl
@[simp] theorem State.sendPort_mbx (s : State) (cls port : Nat) (body : Bytes) : (State.sendPort s cls port body).mbx = s.mbx := by rfl
@[simp] theorem State.sendPort_ctl (s : State) (cls port : Nat) (body : Bytes) : (State.sendPort s cls port body).ctl = s.ctl := by rfl
@[simp] theorem State.sendPort_changes (s : State) (cls port : Nat) (body : Bytes) : (State.sendPort s cls port body).changes = s.changes := by rfl
@[simp] theorem State.sendPort_gaits (s : State) (cls port : Nat) (body : Bytes) : (State.sendPort s cls port body).gaits = s.gaits := by rfl
@[simp] theorem State.sendPort_contexts (s : State) (cls port : Nat) (body : Bytes) : (State.sendPort s cls port body).contexts = s.contexts := by rfl
@[simp] theorem State.sendPort_mem (s : State) (cls port : Nat) (body : Bytes) : (State.sendPort s cls port body).mem = s.mem := by rfl
@[simp] theorem State.sendPort_rings (s : State) (cls port : Nat) (body : Bytes) : (State.sendPort s cls port body).rings = s.rings := by rfl
@[simp] theorem State.sendPort_queues (s : State) (cls port : Nat) (body : Bytes) : (State.sendPort s cls port body).queues = s.queues := by rfl
@[simp] theorem State.sendPort_indexes (s : State) (cls port : Nat) (body : Bytes) : (State.sendPort s cls port body).indexes = s.indexes := by rfl
@[simp] theorem State.sendPort_tables (s : State) (cls port : Nat) (body : Bytes) : (State.sendPort s cls port body).tables = s.tables := by rfl
@[simp] theorem State.sendPort_programs (s : State) (cls port : Nat) (body : Bytes) : (State.sendPort s cls port body).programs = s.programs := by rfl
@[simp] theorem State.sendPort_work (s : State) (cls port : Nat) (body : Bytes) : (State.sendPort s cls port body).work = s.work := by rfl
@[simp] theorem State.sendPort_flash (s : State) (cls port : Nat) (body : Bytes) : (State.sendPort s cls port body).flash = s.flash := by rfl
@[simp] theorem State.sendPort_nmu (s : State) (cls port : Nat) (body : Bytes) : (State.sendPort s cls port body).nmu = s.nmu := by rfl
@[simp] theorem State.sendPort_arb (s : State) (cls port : Nat) (body : Bytes) : (State.sendPort s cls port body).arb = s.arb := by rfl
@[simp] theorem State.sendPort_memb (s : State) (cls port : Nat) (body : Bytes) : (State.sendPort s cls port body).memb = s.memb := by rfl
@[simp] theorem State.sendPort_tel (s : State) (cls port : Nat) (body : Bytes) : (State.sendPort s cls port body).tel = s.tel := by rfl
@[simp] theorem State.sendPort_draws (s : State) (cls port : Nat) (body : Bytes) : (State.sendPort s cls port body).draws = s.draws := by rfl
@[simp] theorem State.sendPort_sorts (s : State) (cls port : Nat) (body : Bytes) : (State.sendPort s cls port body).sorts = s.sorts := by rfl
@[simp] theorem State.sendPort_tiles (s : State) (cls port : Nat) (body : Bytes) : (State.sendPort s cls port body).tiles = s.tiles := by rfl
@[simp] theorem State.dma_clk (s : State) (f address : Nat) (body : Bytes) : (State.dma s f address body).clk = s.clk := by unfold State.dma; (repeat' split) <;> rfl
@[simp] theorem State.dma_node (s : State) (f address : Nat) (body : Bytes) : (State.dma s f address body).node = s.node := by unfold State.dma; (repeat' split) <;> rfl
@[simp] theorem State.dma_funcs (s : State) (f address : Nat) (body : Bytes) : (State.dma s f address body).funcs = s.funcs := by unfold State.dma; (repeat' split) <;> rfl
@[simp] theorem State.dma_links (s : State) (f address : Nat) (body : Bytes) : (State.dma s f address body).links = s.links := by unfold State.dma; (repeat' split) <;> rfl
@[simp] theorem State.dma_mbx (s : State) (f address : Nat) (body : Bytes) : (State.dma s f address body).mbx = s.mbx := by unfold State.dma; (repeat' split) <;> rfl
@[simp] theorem State.dma_ctl (s : State) (f address : Nat) (body : Bytes) : (State.dma s f address body).ctl = s.ctl := by unfold State.dma; (repeat' split) <;> rfl
@[simp] theorem State.dma_changes (s : State) (f address : Nat) (body : Bytes) : (State.dma s f address body).changes = s.changes := by unfold State.dma; (repeat' split) <;> rfl
@[simp] theorem State.dma_gaits (s : State) (f address : Nat) (body : Bytes) : (State.dma s f address body).gaits = s.gaits := by unfold State.dma; (repeat' split) <;> rfl
@[simp] theorem State.dma_contexts (s : State) (f address : Nat) (body : Bytes) : (State.dma s f address body).contexts = s.contexts := by unfold State.dma; (repeat' split) <;> rfl
@[simp] theorem State.dma_mem (s : State) (f address : Nat) (body : Bytes) : (State.dma s f address body).mem = s.mem := by unfold State.dma; (repeat' split) <;> rfl
@[simp] theorem State.dma_rings (s : State) (f address : Nat) (body : Bytes) : (State.dma s f address body).rings = s.rings := by unfold State.dma; (repeat' split) <;> rfl
@[simp] theorem State.dma_queues (s : State) (f address : Nat) (body : Bytes) : (State.dma s f address body).queues = s.queues := by unfold State.dma; (repeat' split) <;> rfl
@[simp] theorem State.dma_indexes (s : State) (f address : Nat) (body : Bytes) : (State.dma s f address body).indexes = s.indexes := by unfold State.dma; (repeat' split) <;> rfl
@[simp] theorem State.dma_tables (s : State) (f address : Nat) (body : Bytes) : (State.dma s f address body).tables = s.tables := by unfold State.dma; (repeat' split) <;> rfl
@[simp] theorem State.dma_programs (s : State) (f address : Nat) (body : Bytes) : (State.dma s f address body).programs = s.programs := by unfold State.dma; (repeat' split) <;> rfl
@[simp] theorem State.dma_work (s : State) (f address : Nat) (body : Bytes) : (State.dma s f address body).work = s.work := by unfold State.dma; (repeat' split) <;> rfl
@[simp] theorem State.dma_flash (s : State) (f address : Nat) (body : Bytes) : (State.dma s f address body).flash = s.flash := by unfold State.dma; (repeat' split) <;> rfl
@[simp] theorem State.dma_nmu (s : State) (f address : Nat) (body : Bytes) : (State.dma s f address body).nmu = s.nmu := by unfold State.dma; (repeat' split) <;> rfl
@[simp] theorem State.dma_arb (s : State) (f address : Nat) (body : Bytes) : (State.dma s f address body).arb = s.arb := by unfold State.dma; (repeat' split) <;> rfl
@[simp] theorem State.dma_fab (s : State) (f address : Nat) (body : Bytes) : (State.dma s f address body).fab = s.fab := by unfold State.dma; (repeat' split) <;> rfl
@[simp] theorem State.dma_memb (s : State) (f address : Nat) (body : Bytes) : (State.dma s f address body).memb = s.memb := by unfold State.dma; (repeat' split) <;> rfl
@[simp] theorem State.dma_tel (s : State) (f address : Nat) (body : Bytes) : (State.dma s f address body).tel = s.tel := by unfold State.dma; (repeat' split) <;> rfl
@[simp] theorem State.dma_draws (s : State) (f address : Nat) (body : Bytes) : (State.dma s f address body).draws = s.draws := by unfold State.dma; (repeat' split) <;> rfl
@[simp] theorem State.dma_sorts (s : State) (f address : Nat) (body : Bytes) : (State.dma s f address body).sorts = s.sorts := by unfold State.dma; (repeat' split) <;> rfl
@[simp] theorem State.dma_tiles (s : State) (f address : Nat) (body : Bytes) : (State.dma s f address body).tiles = s.tiles := by unfold State.dma; (repeat' split) <;> rfl
@[simp] theorem State.vector_clk (s : State) (f v : Nat) : (State.vector s f v).clk = s.clk := by unfold State.vector; (repeat' split) <;> rfl
@[simp] theorem State.vector_node (s : State) (f v : Nat) : (State.vector s f v).node = s.node := by unfold State.vector; (repeat' split) <;> rfl
@[simp] theorem State.vector_links (s : State) (f v : Nat) : (State.vector s f v).links = s.links := by unfold State.vector; (repeat' split) <;> rfl
@[simp] theorem State.vector_mbx (s : State) (f v : Nat) : (State.vector s f v).mbx = s.mbx := by unfold State.vector; (repeat' split) <;> rfl
@[simp] theorem State.vector_ctl (s : State) (f v : Nat) : (State.vector s f v).ctl = s.ctl := by unfold State.vector; (repeat' split) <;> rfl
@[simp] theorem State.vector_changes (s : State) (f v : Nat) : (State.vector s f v).changes = s.changes := by unfold State.vector; (repeat' split) <;> rfl
@[simp] theorem State.vector_gaits (s : State) (f v : Nat) : (State.vector s f v).gaits = s.gaits := by unfold State.vector; (repeat' split) <;> rfl
@[simp] theorem State.vector_contexts (s : State) (f v : Nat) : (State.vector s f v).contexts = s.contexts := by unfold State.vector; (repeat' split) <;> rfl
@[simp] theorem State.vector_mem (s : State) (f v : Nat) : (State.vector s f v).mem = s.mem := by unfold State.vector; (repeat' split) <;> rfl
@[simp] theorem State.vector_rings (s : State) (f v : Nat) : (State.vector s f v).rings = s.rings := by unfold State.vector; (repeat' split) <;> rfl
@[simp] theorem State.vector_queues (s : State) (f v : Nat) : (State.vector s f v).queues = s.queues := by unfold State.vector; (repeat' split) <;> rfl
@[simp] theorem State.vector_indexes (s : State) (f v : Nat) : (State.vector s f v).indexes = s.indexes := by unfold State.vector; (repeat' split) <;> rfl
@[simp] theorem State.vector_tables (s : State) (f v : Nat) : (State.vector s f v).tables = s.tables := by unfold State.vector; (repeat' split) <;> rfl
@[simp] theorem State.vector_programs (s : State) (f v : Nat) : (State.vector s f v).programs = s.programs := by unfold State.vector; (repeat' split) <;> rfl
@[simp] theorem State.vector_work (s : State) (f v : Nat) : (State.vector s f v).work = s.work := by unfold State.vector; (repeat' split) <;> rfl
@[simp] theorem State.vector_flash (s : State) (f v : Nat) : (State.vector s f v).flash = s.flash := by unfold State.vector; (repeat' split) <;> rfl
@[simp] theorem State.vector_nmu (s : State) (f v : Nat) : (State.vector s f v).nmu = s.nmu := by unfold State.vector; (repeat' split) <;> rfl
@[simp] theorem State.vector_arb (s : State) (f v : Nat) : (State.vector s f v).arb = s.arb := by unfold State.vector; (repeat' split) <;> rfl
@[simp] theorem State.vector_fab (s : State) (f v : Nat) : (State.vector s f v).fab = s.fab := by unfold State.vector; (repeat' split) <;> rfl
@[simp] theorem State.vector_memb (s : State) (f v : Nat) : (State.vector s f v).memb = s.memb := by unfold State.vector; (repeat' split) <;> rfl
@[simp] theorem State.vector_tel (s : State) (f v : Nat) : (State.vector s f v).tel = s.tel := by unfold State.vector; (repeat' split) <;> rfl
@[simp] theorem State.vector_draws (s : State) (f v : Nat) : (State.vector s f v).draws = s.draws := by unfold State.vector; (repeat' split) <;> rfl
@[simp] theorem State.vector_sorts (s : State) (f v : Nat) : (State.vector s f v).sorts = s.sorts := by unfold State.vector; (repeat' split) <;> rfl
@[simp] theorem State.vector_tiles (s : State) (f v : Nat) : (State.vector s f v).tiles = s.tiles := by unfold State.vector; (repeat' split) <;> rfl
@[simp] theorem State.pldm_clk (s : State) (kind subject stride : Nat) : (State.pldm s kind subject stride).clk = s.clk := by unfold State.pldm; (repeat' split) <;> rfl
@[simp] theorem State.pldm_node (s : State) (kind subject stride : Nat) : (State.pldm s kind subject stride).node = s.node := by unfold State.pldm; (repeat' split) <;> rfl
@[simp] theorem State.pldm_funcs (s : State) (kind subject stride : Nat) : (State.pldm s kind subject stride).funcs = s.funcs := by unfold State.pldm; (repeat' split) <;> rfl
@[simp] theorem State.pldm_links (s : State) (kind subject stride : Nat) : (State.pldm s kind subject stride).links = s.links := by unfold State.pldm; (repeat' split) <;> rfl
@[simp] theorem State.pldm_mbx (s : State) (kind subject stride : Nat) : (State.pldm s kind subject stride).mbx = s.mbx := by unfold State.pldm; (repeat' split) <;> rfl
@[simp] theorem State.pldm_changes (s : State) (kind subject stride : Nat) : (State.pldm s kind subject stride).changes = s.changes := by unfold State.pldm; (repeat' split) <;> rfl
@[simp] theorem State.pldm_gaits (s : State) (kind subject stride : Nat) : (State.pldm s kind subject stride).gaits = s.gaits := by unfold State.pldm; (repeat' split) <;> rfl
@[simp] theorem State.pldm_contexts (s : State) (kind subject stride : Nat) : (State.pldm s kind subject stride).contexts = s.contexts := by unfold State.pldm; (repeat' split) <;> rfl
@[simp] theorem State.pldm_mem (s : State) (kind subject stride : Nat) : (State.pldm s kind subject stride).mem = s.mem := by unfold State.pldm; (repeat' split) <;> rfl
@[simp] theorem State.pldm_rings (s : State) (kind subject stride : Nat) : (State.pldm s kind subject stride).rings = s.rings := by unfold State.pldm; (repeat' split) <;> rfl
@[simp] theorem State.pldm_queues (s : State) (kind subject stride : Nat) : (State.pldm s kind subject stride).queues = s.queues := by unfold State.pldm; (repeat' split) <;> rfl
@[simp] theorem State.pldm_indexes (s : State) (kind subject stride : Nat) : (State.pldm s kind subject stride).indexes = s.indexes := by unfold State.pldm; (repeat' split) <;> rfl
@[simp] theorem State.pldm_tables (s : State) (kind subject stride : Nat) : (State.pldm s kind subject stride).tables = s.tables := by unfold State.pldm; (repeat' split) <;> rfl
@[simp] theorem State.pldm_programs (s : State) (kind subject stride : Nat) : (State.pldm s kind subject stride).programs = s.programs := by unfold State.pldm; (repeat' split) <;> rfl
@[simp] theorem State.pldm_work (s : State) (kind subject stride : Nat) : (State.pldm s kind subject stride).work = s.work := by unfold State.pldm; (repeat' split) <;> rfl
@[simp] theorem State.pldm_flash (s : State) (kind subject stride : Nat) : (State.pldm s kind subject stride).flash = s.flash := by unfold State.pldm; (repeat' split) <;> rfl
@[simp] theorem State.pldm_nmu (s : State) (kind subject stride : Nat) : (State.pldm s kind subject stride).nmu = s.nmu := by unfold State.pldm; (repeat' split) <;> rfl
@[simp] theorem State.pldm_arb (s : State) (kind subject stride : Nat) : (State.pldm s kind subject stride).arb = s.arb := by unfold State.pldm; (repeat' split) <;> rfl
@[simp] theorem State.pldm_fab (s : State) (kind subject stride : Nat) : (State.pldm s kind subject stride).fab = s.fab := by unfold State.pldm; (repeat' split) <;> rfl
@[simp] theorem State.pldm_memb (s : State) (kind subject stride : Nat) : (State.pldm s kind subject stride).memb = s.memb := by unfold State.pldm; (repeat' split) <;> rfl
@[simp] theorem State.pldm_tel (s : State) (kind subject stride : Nat) : (State.pldm s kind subject stride).tel = s.tel := by unfold State.pldm; (repeat' split) <;> rfl
@[simp] theorem State.pldm_draws (s : State) (kind subject stride : Nat) : (State.pldm s kind subject stride).draws = s.draws := by unfold State.pldm; (repeat' split) <;> rfl
@[simp] theorem State.pldm_sorts (s : State) (kind subject stride : Nat) : (State.pldm s kind subject stride).sorts = s.sorts := by unfold State.pldm; (repeat' split) <;> rfl
@[simp] theorem State.pldm_tiles (s : State) (kind subject stride : Nat) : (State.pldm s kind subject stride).tiles = s.tiles := by unfold State.pldm; (repeat' split) <;> rfl
@[simp] theorem State.mctpReply_clk (s : State) (body : Bytes) : (State.mctpReply s body).clk = s.clk := by unfold State.mctpReply; (repeat' split) <;> rfl
@[simp] theorem State.mctpReply_node (s : State) (body : Bytes) : (State.mctpReply s body).node = s.node := by unfold State.mctpReply; (repeat' split) <;> rfl
@[simp] theorem State.mctpReply_funcs (s : State) (body : Bytes) : (State.mctpReply s body).funcs = s.funcs := by unfold State.mctpReply; (repeat' split) <;> rfl
@[simp] theorem State.mctpReply_links (s : State) (body : Bytes) : (State.mctpReply s body).links = s.links := by unfold State.mctpReply; (repeat' split) <;> rfl
@[simp] theorem State.mctpReply_mbx (s : State) (body : Bytes) : (State.mctpReply s body).mbx = s.mbx := by unfold State.mctpReply; (repeat' split) <;> rfl
@[simp] theorem State.mctpReply_ctl (s : State) (body : Bytes) : (State.mctpReply s body).ctl = s.ctl := by unfold State.mctpReply; (repeat' split) <;> rfl
@[simp] theorem State.mctpReply_changes (s : State) (body : Bytes) : (State.mctpReply s body).changes = s.changes := by unfold State.mctpReply; (repeat' split) <;> rfl
@[simp] theorem State.mctpReply_gaits (s : State) (body : Bytes) : (State.mctpReply s body).gaits = s.gaits := by unfold State.mctpReply; (repeat' split) <;> rfl
@[simp] theorem State.mctpReply_contexts (s : State) (body : Bytes) : (State.mctpReply s body).contexts = s.contexts := by unfold State.mctpReply; (repeat' split) <;> rfl
@[simp] theorem State.mctpReply_mem (s : State) (body : Bytes) : (State.mctpReply s body).mem = s.mem := by unfold State.mctpReply; (repeat' split) <;> rfl
@[simp] theorem State.mctpReply_rings (s : State) (body : Bytes) : (State.mctpReply s body).rings = s.rings := by unfold State.mctpReply; (repeat' split) <;> rfl
@[simp] theorem State.mctpReply_queues (s : State) (body : Bytes) : (State.mctpReply s body).queues = s.queues := by unfold State.mctpReply; (repeat' split) <;> rfl
@[simp] theorem State.mctpReply_indexes (s : State) (body : Bytes) : (State.mctpReply s body).indexes = s.indexes := by unfold State.mctpReply; (repeat' split) <;> rfl
@[simp] theorem State.mctpReply_tables (s : State) (body : Bytes) : (State.mctpReply s body).tables = s.tables := by unfold State.mctpReply; (repeat' split) <;> rfl
@[simp] theorem State.mctpReply_programs (s : State) (body : Bytes) : (State.mctpReply s body).programs = s.programs := by unfold State.mctpReply; (repeat' split) <;> rfl
@[simp] theorem State.mctpReply_work (s : State) (body : Bytes) : (State.mctpReply s body).work = s.work := by unfold State.mctpReply; (repeat' split) <;> rfl
@[simp] theorem State.mctpReply_flash (s : State) (body : Bytes) : (State.mctpReply s body).flash = s.flash := by unfold State.mctpReply; (repeat' split) <;> rfl
@[simp] theorem State.mctpReply_nmu (s : State) (body : Bytes) : (State.mctpReply s body).nmu = s.nmu := by unfold State.mctpReply; (repeat' split) <;> rfl
@[simp] theorem State.mctpReply_arb (s : State) (body : Bytes) : (State.mctpReply s body).arb = s.arb := by unfold State.mctpReply; (repeat' split) <;> rfl
@[simp] theorem State.mctpReply_fab (s : State) (body : Bytes) : (State.mctpReply s body).fab = s.fab := by unfold State.mctpReply; (repeat' split) <;> rfl
@[simp] theorem State.mctpReply_memb (s : State) (body : Bytes) : (State.mctpReply s body).memb = s.memb := by unfold State.mctpReply; (repeat' split) <;> rfl
@[simp] theorem State.mctpReply_tel (s : State) (body : Bytes) : (State.mctpReply s body).tel = s.tel := by unfold State.mctpReply; (repeat' split) <;> rfl
@[simp] theorem State.mctpReply_draws (s : State) (body : Bytes) : (State.mctpReply s body).draws = s.draws := by unfold State.mctpReply; (repeat' split) <;> rfl
@[simp] theorem State.mctpReply_sorts (s : State) (body : Bytes) : (State.mctpReply s body).sorts = s.sorts := by unfold State.mctpReply; (repeat' split) <;> rfl
@[simp] theorem State.mctpReply_tiles (s : State) (body : Bytes) : (State.mctpReply s body).tiles = s.tiles := by unfold State.mctpReply; (repeat' split) <;> rfl
@[simp] theorem State.pcie_clk (s : State) (f status : Nat) (data : Bytes) : (State.pcie s f status data).clk = s.clk := by rfl
@[simp] theorem State.pcie_node (s : State) (f status : Nat) (data : Bytes) : (State.pcie s f status data).node = s.node := by rfl
@[simp] theorem State.pcie_funcs (s : State) (f status : Nat) (data : Bytes) : (State.pcie s f status data).funcs = s.funcs := by rfl
@[simp] theorem State.pcie_links (s : State) (f status : Nat) (data : Bytes) : (State.pcie s f status data).links = s.links := by rfl
@[simp] theorem State.pcie_mbx (s : State) (f status : Nat) (data : Bytes) : (State.pcie s f status data).mbx = s.mbx := by rfl
@[simp] theorem State.pcie_ctl (s : State) (f status : Nat) (data : Bytes) : (State.pcie s f status data).ctl = s.ctl := by rfl
@[simp] theorem State.pcie_changes (s : State) (f status : Nat) (data : Bytes) : (State.pcie s f status data).changes = s.changes := by rfl
@[simp] theorem State.pcie_gaits (s : State) (f status : Nat) (data : Bytes) : (State.pcie s f status data).gaits = s.gaits := by rfl
@[simp] theorem State.pcie_contexts (s : State) (f status : Nat) (data : Bytes) : (State.pcie s f status data).contexts = s.contexts := by rfl
@[simp] theorem State.pcie_mem (s : State) (f status : Nat) (data : Bytes) : (State.pcie s f status data).mem = s.mem := by rfl
@[simp] theorem State.pcie_rings (s : State) (f status : Nat) (data : Bytes) : (State.pcie s f status data).rings = s.rings := by rfl
@[simp] theorem State.pcie_queues (s : State) (f status : Nat) (data : Bytes) : (State.pcie s f status data).queues = s.queues := by rfl
@[simp] theorem State.pcie_indexes (s : State) (f status : Nat) (data : Bytes) : (State.pcie s f status data).indexes = s.indexes := by rfl
@[simp] theorem State.pcie_tables (s : State) (f status : Nat) (data : Bytes) : (State.pcie s f status data).tables = s.tables := by rfl
@[simp] theorem State.pcie_programs (s : State) (f status : Nat) (data : Bytes) : (State.pcie s f status data).programs = s.programs := by rfl
@[simp] theorem State.pcie_work (s : State) (f status : Nat) (data : Bytes) : (State.pcie s f status data).work = s.work := by rfl
@[simp] theorem State.pcie_flash (s : State) (f status : Nat) (data : Bytes) : (State.pcie s f status data).flash = s.flash := by rfl
@[simp] theorem State.pcie_nmu (s : State) (f status : Nat) (data : Bytes) : (State.pcie s f status data).nmu = s.nmu := by rfl
@[simp] theorem State.pcie_arb (s : State) (f status : Nat) (data : Bytes) : (State.pcie s f status data).arb = s.arb := by rfl
@[simp] theorem State.pcie_fab (s : State) (f status : Nat) (data : Bytes) : (State.pcie s f status data).fab = s.fab := by rfl
@[simp] theorem State.pcie_memb (s : State) (f status : Nat) (data : Bytes) : (State.pcie s f status data).memb = s.memb := by rfl
@[simp] theorem State.pcie_tel (s : State) (f status : Nat) (data : Bytes) : (State.pcie s f status data).tel = s.tel := by rfl
@[simp] theorem State.pcie_draws (s : State) (f status : Nat) (data : Bytes) : (State.pcie s f status data).draws = s.draws := by rfl
@[simp] theorem State.pcie_sorts (s : State) (f status : Nat) (data : Bytes) : (State.pcie s f status data).sorts = s.sorts := by rfl
@[simp] theorem State.pcie_tiles (s : State) (f status : Nat) (data : Bytes) : (State.pcie s f status data).tiles = s.tiles := by rfl
@[simp] theorem State.cause_clk (s : State) (f bit : Nat) : (State.cause s f bit).clk = s.clk := by unfold State.cause; simp only []; (repeat' split) <;> simp
@[simp] theorem State.cause_node (s : State) (f bit : Nat) : (State.cause s f bit).node = s.node := by unfold State.cause; simp only []; (repeat' split) <;> simp
@[simp] theorem State.cause_links (s : State) (f bit : Nat) : (State.cause s f bit).links = s.links := by unfold State.cause; simp only []; (repeat' split) <;> simp
@[simp] theorem State.cause_mbx (s : State) (f bit : Nat) : (State.cause s f bit).mbx = s.mbx := by unfold State.cause; simp only []; (repeat' split) <;> simp
@[simp] theorem State.cause_ctl (s : State) (f bit : Nat) : (State.cause s f bit).ctl = s.ctl := by unfold State.cause; simp only []; (repeat' split) <;> simp
@[simp] theorem State.cause_changes (s : State) (f bit : Nat) : (State.cause s f bit).changes = s.changes := by unfold State.cause; simp only []; (repeat' split) <;> simp
@[simp] theorem State.cause_gaits (s : State) (f bit : Nat) : (State.cause s f bit).gaits = s.gaits := by unfold State.cause; simp only []; (repeat' split) <;> simp
@[simp] theorem State.cause_contexts (s : State) (f bit : Nat) : (State.cause s f bit).contexts = s.contexts := by unfold State.cause; simp only []; (repeat' split) <;> simp
@[simp] theorem State.cause_mem (s : State) (f bit : Nat) : (State.cause s f bit).mem = s.mem := by unfold State.cause; simp only []; (repeat' split) <;> simp
@[simp] theorem State.cause_rings (s : State) (f bit : Nat) : (State.cause s f bit).rings = s.rings := by unfold State.cause; simp only []; (repeat' split) <;> simp
@[simp] theorem State.cause_queues (s : State) (f bit : Nat) : (State.cause s f bit).queues = s.queues := by unfold State.cause; simp only []; (repeat' split) <;> simp
@[simp] theorem State.cause_indexes (s : State) (f bit : Nat) : (State.cause s f bit).indexes = s.indexes := by unfold State.cause; simp only []; (repeat' split) <;> simp
@[simp] theorem State.cause_tables (s : State) (f bit : Nat) : (State.cause s f bit).tables = s.tables := by unfold State.cause; simp only []; (repeat' split) <;> simp
@[simp] theorem State.cause_programs (s : State) (f bit : Nat) : (State.cause s f bit).programs = s.programs := by unfold State.cause; simp only []; (repeat' split) <;> simp
@[simp] theorem State.cause_work (s : State) (f bit : Nat) : (State.cause s f bit).work = s.work := by unfold State.cause; simp only []; (repeat' split) <;> simp
@[simp] theorem State.cause_flash (s : State) (f bit : Nat) : (State.cause s f bit).flash = s.flash := by unfold State.cause; simp only []; (repeat' split) <;> simp
@[simp] theorem State.cause_nmu (s : State) (f bit : Nat) : (State.cause s f bit).nmu = s.nmu := by unfold State.cause; simp only []; (repeat' split) <;> simp
@[simp] theorem State.cause_arb (s : State) (f bit : Nat) : (State.cause s f bit).arb = s.arb := by unfold State.cause; simp only []; (repeat' split) <;> simp
@[simp] theorem State.cause_fab (s : State) (f bit : Nat) : (State.cause s f bit).fab = s.fab := by unfold State.cause; simp only []; (repeat' split) <;> simp
@[simp] theorem State.cause_memb (s : State) (f bit : Nat) : (State.cause s f bit).memb = s.memb := by unfold State.cause; simp only []; (repeat' split) <;> simp
@[simp] theorem State.cause_tel (s : State) (f bit : Nat) : (State.cause s f bit).tel = s.tel := by unfold State.cause; simp only []; (repeat' split) <;> simp
@[simp] theorem State.cause_draws (s : State) (f bit : Nat) : (State.cause s f bit).draws = s.draws := by unfold State.cause; simp only []; (repeat' split) <;> simp
@[simp] theorem State.cause_sorts (s : State) (f bit : Nat) : (State.cause s f bit).sorts = s.sorts := by unfold State.cause; simp only []; (repeat' split) <;> simp
@[simp] theorem State.cause_tiles (s : State) (f bit : Nat) : (State.cause s f bit).tiles = s.tiles := by unfold State.cause; simp only []; (repeat' split) <;> simp
@[simp] theorem State.schedule_clk (s : State) (c : Change) : (State.schedule s c).clk = s.clk := by rfl
@[simp] theorem State.schedule_node (s : State) (c : Change) : (State.schedule s c).node = s.node := by rfl
@[simp] theorem State.schedule_funcs (s : State) (c : Change) : (State.schedule s c).funcs = s.funcs := by rfl
@[simp] theorem State.schedule_links (s : State) (c : Change) : (State.schedule s c).links = s.links := by rfl
@[simp] theorem State.schedule_mbx (s : State) (c : Change) : (State.schedule s c).mbx = s.mbx := by rfl
@[simp] theorem State.schedule_ctl (s : State) (c : Change) : (State.schedule s c).ctl = s.ctl := by rfl
@[simp] theorem State.schedule_gaits (s : State) (c : Change) : (State.schedule s c).gaits = s.gaits := by rfl
@[simp] theorem State.schedule_contexts (s : State) (c : Change) : (State.schedule s c).contexts = s.contexts := by rfl
@[simp] theorem State.schedule_mem (s : State) (c : Change) : (State.schedule s c).mem = s.mem := by rfl
@[simp] theorem State.schedule_rings (s : State) (c : Change) : (State.schedule s c).rings = s.rings := by rfl
@[simp] theorem State.schedule_queues (s : State) (c : Change) : (State.schedule s c).queues = s.queues := by rfl
@[simp] theorem State.schedule_indexes (s : State) (c : Change) : (State.schedule s c).indexes = s.indexes := by rfl
@[simp] theorem State.schedule_tables (s : State) (c : Change) : (State.schedule s c).tables = s.tables := by rfl
@[simp] theorem State.schedule_programs (s : State) (c : Change) : (State.schedule s c).programs = s.programs := by rfl
@[simp] theorem State.schedule_work (s : State) (c : Change) : (State.schedule s c).work = s.work := by rfl
@[simp] theorem State.schedule_flash (s : State) (c : Change) : (State.schedule s c).flash = s.flash := by rfl
@[simp] theorem State.schedule_nmu (s : State) (c : Change) : (State.schedule s c).nmu = s.nmu := by rfl
@[simp] theorem State.schedule_arb (s : State) (c : Change) : (State.schedule s c).arb = s.arb := by rfl
@[simp] theorem State.schedule_fab (s : State) (c : Change) : (State.schedule s c).fab = s.fab := by rfl
@[simp] theorem State.schedule_memb (s : State) (c : Change) : (State.schedule s c).memb = s.memb := by rfl
@[simp] theorem State.schedule_tel (s : State) (c : Change) : (State.schedule s c).tel = s.tel := by rfl
@[simp] theorem State.schedule_out (s : State) (c : Change) : (State.schedule s c).out = s.out := by rfl
@[simp] theorem State.schedule_draws (s : State) (c : Change) : (State.schedule s c).draws = s.draws := by rfl
@[simp] theorem State.schedule_sorts (s : State) (c : Change) : (State.schedule s c).sorts = s.sorts := by rfl
@[simp] theorem State.schedule_tiles (s : State) (c : Change) : (State.schedule s c).tiles = s.tiles := by rfl
@[simp] theorem State.reply_clk (s : State) (q : Request) (status stamp : Nat) (payload : Bytes) : (State.reply s q status stamp payload).clk = s.clk := by unfold State.reply; (repeat' split) <;> rfl
@[simp] theorem State.reply_node (s : State) (q : Request) (status stamp : Nat) (payload : Bytes) : (State.reply s q status stamp payload).node = s.node := by unfold State.reply; (repeat' split) <;> rfl
@[simp] theorem State.reply_funcs (s : State) (q : Request) (status stamp : Nat) (payload : Bytes) : (State.reply s q status stamp payload).funcs = s.funcs := by unfold State.reply; (repeat' split) <;> rfl
@[simp] theorem State.reply_links (s : State) (q : Request) (status stamp : Nat) (payload : Bytes) : (State.reply s q status stamp payload).links = s.links := by unfold State.reply; (repeat' split) <;> rfl
@[simp] theorem State.reply_ctl (s : State) (q : Request) (status stamp : Nat) (payload : Bytes) : (State.reply s q status stamp payload).ctl = s.ctl := by unfold State.reply; (repeat' split) <;> rfl
@[simp] theorem State.reply_changes (s : State) (q : Request) (status stamp : Nat) (payload : Bytes) : (State.reply s q status stamp payload).changes = s.changes := by unfold State.reply; (repeat' split) <;> rfl
@[simp] theorem State.reply_gaits (s : State) (q : Request) (status stamp : Nat) (payload : Bytes) : (State.reply s q status stamp payload).gaits = s.gaits := by unfold State.reply; (repeat' split) <;> rfl
@[simp] theorem State.reply_contexts (s : State) (q : Request) (status stamp : Nat) (payload : Bytes) : (State.reply s q status stamp payload).contexts = s.contexts := by unfold State.reply; (repeat' split) <;> rfl
@[simp] theorem State.reply_mem (s : State) (q : Request) (status stamp : Nat) (payload : Bytes) : (State.reply s q status stamp payload).mem = s.mem := by unfold State.reply; (repeat' split) <;> rfl
@[simp] theorem State.reply_rings (s : State) (q : Request) (status stamp : Nat) (payload : Bytes) : (State.reply s q status stamp payload).rings = s.rings := by unfold State.reply; (repeat' split) <;> rfl
@[simp] theorem State.reply_queues (s : State) (q : Request) (status stamp : Nat) (payload : Bytes) : (State.reply s q status stamp payload).queues = s.queues := by unfold State.reply; (repeat' split) <;> rfl
@[simp] theorem State.reply_indexes (s : State) (q : Request) (status stamp : Nat) (payload : Bytes) : (State.reply s q status stamp payload).indexes = s.indexes := by unfold State.reply; (repeat' split) <;> rfl
@[simp] theorem State.reply_tables (s : State) (q : Request) (status stamp : Nat) (payload : Bytes) : (State.reply s q status stamp payload).tables = s.tables := by unfold State.reply; (repeat' split) <;> rfl
@[simp] theorem State.reply_programs (s : State) (q : Request) (status stamp : Nat) (payload : Bytes) : (State.reply s q status stamp payload).programs = s.programs := by unfold State.reply; (repeat' split) <;> rfl
@[simp] theorem State.reply_work (s : State) (q : Request) (status stamp : Nat) (payload : Bytes) : (State.reply s q status stamp payload).work = s.work := by unfold State.reply; (repeat' split) <;> rfl
@[simp] theorem State.reply_flash (s : State) (q : Request) (status stamp : Nat) (payload : Bytes) : (State.reply s q status stamp payload).flash = s.flash := by unfold State.reply; (repeat' split) <;> rfl
@[simp] theorem State.reply_nmu (s : State) (q : Request) (status stamp : Nat) (payload : Bytes) : (State.reply s q status stamp payload).nmu = s.nmu := by unfold State.reply; (repeat' split) <;> rfl
@[simp] theorem State.reply_arb (s : State) (q : Request) (status stamp : Nat) (payload : Bytes) : (State.reply s q status stamp payload).arb = s.arb := by unfold State.reply; (repeat' split) <;> rfl
@[simp] theorem State.reply_fab (s : State) (q : Request) (status stamp : Nat) (payload : Bytes) : (State.reply s q status stamp payload).fab = s.fab := by unfold State.reply; (repeat' split) <;> rfl
@[simp] theorem State.reply_memb (s : State) (q : Request) (status stamp : Nat) (payload : Bytes) : (State.reply s q status stamp payload).memb = s.memb := by unfold State.reply; (repeat' split) <;> rfl
@[simp] theorem State.reply_tel (s : State) (q : Request) (status stamp : Nat) (payload : Bytes) : (State.reply s q status stamp payload).tel = s.tel := by unfold State.reply; (repeat' split) <;> rfl
@[simp] theorem State.reply_out (s : State) (q : Request) (status stamp : Nat) (payload : Bytes) : (State.reply s q status stamp payload).out = s.out := by unfold State.reply; (repeat' split) <;> rfl
@[simp] theorem State.reply_draws (s : State) (q : Request) (status stamp : Nat) (payload : Bytes) : (State.reply s q status stamp payload).draws = s.draws := by unfold State.reply; (repeat' split) <;> rfl
@[simp] theorem State.reply_sorts (s : State) (q : Request) (status stamp : Nat) (payload : Bytes) : (State.reply s q status stamp payload).sorts = s.sorts := by unfold State.reply; (repeat' split) <;> rfl
@[simp] theorem State.reply_tiles (s : State) (q : Request) (status stamp : Nat) (payload : Bytes) : (State.reply s q status stamp payload).tiles = s.tiles := by unfold State.reply; (repeat' split) <;> rfl
@[simp] theorem State.note_clk (s : State) (f opcode context tag status stamp : Nat) (payload : Bytes) : (State.note s f opcode context tag status stamp payload).clk = s.clk := by unfold State.note; (repeat' split) <;> rfl
@[simp] theorem State.note_node (s : State) (f opcode context tag status stamp : Nat) (payload : Bytes) : (State.note s f opcode context tag status stamp payload).node = s.node := by unfold State.note; (repeat' split) <;> rfl
@[simp] theorem State.note_funcs (s : State) (f opcode context tag status stamp : Nat) (payload : Bytes) : (State.note s f opcode context tag status stamp payload).funcs = s.funcs := by unfold State.note; (repeat' split) <;> rfl
@[simp] theorem State.note_links (s : State) (f opcode context tag status stamp : Nat) (payload : Bytes) : (State.note s f opcode context tag status stamp payload).links = s.links := by unfold State.note; (repeat' split) <;> rfl
@[simp] theorem State.note_changes (s : State) (f opcode context tag status stamp : Nat) (payload : Bytes) : (State.note s f opcode context tag status stamp payload).changes = s.changes := by unfold State.note; (repeat' split) <;> rfl
@[simp] theorem State.note_gaits (s : State) (f opcode context tag status stamp : Nat) (payload : Bytes) : (State.note s f opcode context tag status stamp payload).gaits = s.gaits := by unfold State.note; (repeat' split) <;> rfl
@[simp] theorem State.note_contexts (s : State) (f opcode context tag status stamp : Nat) (payload : Bytes) : (State.note s f opcode context tag status stamp payload).contexts = s.contexts := by unfold State.note; (repeat' split) <;> rfl
@[simp] theorem State.note_mem (s : State) (f opcode context tag status stamp : Nat) (payload : Bytes) : (State.note s f opcode context tag status stamp payload).mem = s.mem := by unfold State.note; (repeat' split) <;> rfl
@[simp] theorem State.note_rings (s : State) (f opcode context tag status stamp : Nat) (payload : Bytes) : (State.note s f opcode context tag status stamp payload).rings = s.rings := by unfold State.note; (repeat' split) <;> rfl
@[simp] theorem State.note_queues (s : State) (f opcode context tag status stamp : Nat) (payload : Bytes) : (State.note s f opcode context tag status stamp payload).queues = s.queues := by unfold State.note; (repeat' split) <;> rfl
@[simp] theorem State.note_indexes (s : State) (f opcode context tag status stamp : Nat) (payload : Bytes) : (State.note s f opcode context tag status stamp payload).indexes = s.indexes := by unfold State.note; (repeat' split) <;> rfl
@[simp] theorem State.note_tables (s : State) (f opcode context tag status stamp : Nat) (payload : Bytes) : (State.note s f opcode context tag status stamp payload).tables = s.tables := by unfold State.note; (repeat' split) <;> rfl
@[simp] theorem State.note_programs (s : State) (f opcode context tag status stamp : Nat) (payload : Bytes) : (State.note s f opcode context tag status stamp payload).programs = s.programs := by unfold State.note; (repeat' split) <;> rfl
@[simp] theorem State.note_work (s : State) (f opcode context tag status stamp : Nat) (payload : Bytes) : (State.note s f opcode context tag status stamp payload).work = s.work := by unfold State.note; (repeat' split) <;> rfl
@[simp] theorem State.note_flash (s : State) (f opcode context tag status stamp : Nat) (payload : Bytes) : (State.note s f opcode context tag status stamp payload).flash = s.flash := by unfold State.note; (repeat' split) <;> rfl
@[simp] theorem State.note_nmu (s : State) (f opcode context tag status stamp : Nat) (payload : Bytes) : (State.note s f opcode context tag status stamp payload).nmu = s.nmu := by unfold State.note; (repeat' split) <;> rfl
@[simp] theorem State.note_arb (s : State) (f opcode context tag status stamp : Nat) (payload : Bytes) : (State.note s f opcode context tag status stamp payload).arb = s.arb := by unfold State.note; (repeat' split) <;> rfl
@[simp] theorem State.note_fab (s : State) (f opcode context tag status stamp : Nat) (payload : Bytes) : (State.note s f opcode context tag status stamp payload).fab = s.fab := by unfold State.note; (repeat' split) <;> rfl
@[simp] theorem State.note_memb (s : State) (f opcode context tag status stamp : Nat) (payload : Bytes) : (State.note s f opcode context tag status stamp payload).memb = s.memb := by unfold State.note; (repeat' split) <;> rfl
@[simp] theorem State.note_tel (s : State) (f opcode context tag status stamp : Nat) (payload : Bytes) : (State.note s f opcode context tag status stamp payload).tel = s.tel := by unfold State.note; (repeat' split) <;> rfl
@[simp] theorem State.note_out (s : State) (f opcode context tag status stamp : Nat) (payload : Bytes) : (State.note s f opcode context tag status stamp payload).out = s.out := by unfold State.note; (repeat' split) <;> rfl
@[simp] theorem State.note_draws (s : State) (f opcode context tag status stamp : Nat) (payload : Bytes) : (State.note s f opcode context tag status stamp payload).draws = s.draws := by unfold State.note; (repeat' split) <;> rfl
@[simp] theorem State.note_sorts (s : State) (f opcode context tag status stamp : Nat) (payload : Bytes) : (State.note s f opcode context tag status stamp payload).sorts = s.sorts := by unfold State.note; (repeat' split) <;> rfl
@[simp] theorem State.note_tiles (s : State) (f opcode context tag status stamp : Nat) (payload : Bytes) : (State.note s f opcode context tag status stamp payload).tiles = s.tiles := by unfold State.note; (repeat' split) <;> rfl
@[simp] theorem State.draw_clk (s : State) : (State.draw s).clk = s.clk := by rfl
@[simp] theorem State.draw_node (s : State) : (State.draw s).node = s.node := by rfl
@[simp] theorem State.draw_funcs (s : State) : (State.draw s).funcs = s.funcs := by rfl
@[simp] theorem State.draw_links (s : State) : (State.draw s).links = s.links := by rfl
@[simp] theorem State.draw_mbx (s : State) : (State.draw s).mbx = s.mbx := by rfl
@[simp] theorem State.draw_ctl (s : State) : (State.draw s).ctl = s.ctl := by rfl
@[simp] theorem State.draw_changes (s : State) : (State.draw s).changes = s.changes := by rfl
@[simp] theorem State.draw_gaits (s : State) : (State.draw s).gaits = s.gaits := by rfl
@[simp] theorem State.draw_contexts (s : State) : (State.draw s).contexts = s.contexts := by rfl
@[simp] theorem State.draw_mem (s : State) : (State.draw s).mem = s.mem := by rfl
@[simp] theorem State.draw_rings (s : State) : (State.draw s).rings = s.rings := by rfl
@[simp] theorem State.draw_queues (s : State) : (State.draw s).queues = s.queues := by rfl
@[simp] theorem State.draw_indexes (s : State) : (State.draw s).indexes = s.indexes := by rfl
@[simp] theorem State.draw_tables (s : State) : (State.draw s).tables = s.tables := by rfl
@[simp] theorem State.draw_programs (s : State) : (State.draw s).programs = s.programs := by rfl
@[simp] theorem State.draw_work (s : State) : (State.draw s).work = s.work := by rfl
@[simp] theorem State.draw_flash (s : State) : (State.draw s).flash = s.flash := by rfl
@[simp] theorem State.draw_nmu (s : State) : (State.draw s).nmu = s.nmu := by rfl
@[simp] theorem State.draw_arb (s : State) : (State.draw s).arb = s.arb := by rfl
@[simp] theorem State.draw_fab (s : State) : (State.draw s).fab = s.fab := by rfl
@[simp] theorem State.draw_memb (s : State) : (State.draw s).memb = s.memb := by rfl
@[simp] theorem State.draw_tel (s : State) : (State.draw s).tel = s.tel := by rfl
@[simp] theorem State.draw_out (s : State) : (State.draw s).out = s.out := by rfl
@[simp] theorem State.draw_sorts (s : State) : (State.draw s).sorts = s.sorts := by rfl
@[simp] theorem State.draw_tiles (s : State) : (State.draw s).tiles = s.tiles := by rfl
@[simp] theorem State.drawN_clk (s : State) (n : Nat) : (State.drawN s n).clk = s.clk := by rfl
@[simp] theorem State.drawN_node (s : State) (n : Nat) : (State.drawN s n).node = s.node := by rfl
@[simp] theorem State.drawN_funcs (s : State) (n : Nat) : (State.drawN s n).funcs = s.funcs := by rfl
@[simp] theorem State.drawN_links (s : State) (n : Nat) : (State.drawN s n).links = s.links := by rfl
@[simp] theorem State.drawN_mbx (s : State) (n : Nat) : (State.drawN s n).mbx = s.mbx := by rfl
@[simp] theorem State.drawN_ctl (s : State) (n : Nat) : (State.drawN s n).ctl = s.ctl := by rfl
@[simp] theorem State.drawN_changes (s : State) (n : Nat) : (State.drawN s n).changes = s.changes := by rfl
@[simp] theorem State.drawN_gaits (s : State) (n : Nat) : (State.drawN s n).gaits = s.gaits := by rfl
@[simp] theorem State.drawN_contexts (s : State) (n : Nat) : (State.drawN s n).contexts = s.contexts := by rfl
@[simp] theorem State.drawN_mem (s : State) (n : Nat) : (State.drawN s n).mem = s.mem := by rfl
@[simp] theorem State.drawN_rings (s : State) (n : Nat) : (State.drawN s n).rings = s.rings := by rfl
@[simp] theorem State.drawN_queues (s : State) (n : Nat) : (State.drawN s n).queues = s.queues := by rfl
@[simp] theorem State.drawN_indexes (s : State) (n : Nat) : (State.drawN s n).indexes = s.indexes := by rfl
@[simp] theorem State.drawN_tables (s : State) (n : Nat) : (State.drawN s n).tables = s.tables := by rfl
@[simp] theorem State.drawN_programs (s : State) (n : Nat) : (State.drawN s n).programs = s.programs := by rfl
@[simp] theorem State.drawN_work (s : State) (n : Nat) : (State.drawN s n).work = s.work := by rfl
@[simp] theorem State.drawN_flash (s : State) (n : Nat) : (State.drawN s n).flash = s.flash := by rfl
@[simp] theorem State.drawN_nmu (s : State) (n : Nat) : (State.drawN s n).nmu = s.nmu := by rfl
@[simp] theorem State.drawN_arb (s : State) (n : Nat) : (State.drawN s n).arb = s.arb := by rfl
@[simp] theorem State.drawN_fab (s : State) (n : Nat) : (State.drawN s n).fab = s.fab := by rfl
@[simp] theorem State.drawN_memb (s : State) (n : Nat) : (State.drawN s n).memb = s.memb := by rfl
@[simp] theorem State.drawN_tel (s : State) (n : Nat) : (State.drawN s n).tel = s.tel := by rfl
@[simp] theorem State.drawN_out (s : State) (n : Nat) : (State.drawN s n).out = s.out := by rfl
@[simp] theorem State.drawN_sorts (s : State) (n : Nat) : (State.drawN s n).sorts = s.sorts := by rfl
@[simp] theorem State.drawN_tiles (s : State) (n : Nat) : (State.drawN s n).tiles = s.tiles := by rfl
@[simp] theorem State.count_clk (s : State) (g : NodeCounters → NodeCounters) : (State.count s g).clk = s.clk := by rfl
@[simp] theorem State.count_node (s : State) (g : NodeCounters → NodeCounters) : (State.count s g).node = s.node := by rfl
@[simp] theorem State.count_funcs (s : State) (g : NodeCounters → NodeCounters) : (State.count s g).funcs = s.funcs := by rfl
@[simp] theorem State.count_links (s : State) (g : NodeCounters → NodeCounters) : (State.count s g).links = s.links := by rfl
@[simp] theorem State.count_mbx (s : State) (g : NodeCounters → NodeCounters) : (State.count s g).mbx = s.mbx := by rfl
@[simp] theorem State.count_ctl (s : State) (g : NodeCounters → NodeCounters) : (State.count s g).ctl = s.ctl := by rfl
@[simp] theorem State.count_changes (s : State) (g : NodeCounters → NodeCounters) : (State.count s g).changes = s.changes := by rfl
@[simp] theorem State.count_gaits (s : State) (g : NodeCounters → NodeCounters) : (State.count s g).gaits = s.gaits := by rfl
@[simp] theorem State.count_contexts (s : State) (g : NodeCounters → NodeCounters) : (State.count s g).contexts = s.contexts := by rfl
@[simp] theorem State.count_mem (s : State) (g : NodeCounters → NodeCounters) : (State.count s g).mem = s.mem := by rfl
@[simp] theorem State.count_rings (s : State) (g : NodeCounters → NodeCounters) : (State.count s g).rings = s.rings := by rfl
@[simp] theorem State.count_queues (s : State) (g : NodeCounters → NodeCounters) : (State.count s g).queues = s.queues := by rfl
@[simp] theorem State.count_indexes (s : State) (g : NodeCounters → NodeCounters) : (State.count s g).indexes = s.indexes := by rfl
@[simp] theorem State.count_tables (s : State) (g : NodeCounters → NodeCounters) : (State.count s g).tables = s.tables := by rfl
@[simp] theorem State.count_programs (s : State) (g : NodeCounters → NodeCounters) : (State.count s g).programs = s.programs := by rfl
@[simp] theorem State.count_work (s : State) (g : NodeCounters → NodeCounters) : (State.count s g).work = s.work := by rfl
@[simp] theorem State.count_flash (s : State) (g : NodeCounters → NodeCounters) : (State.count s g).flash = s.flash := by rfl
@[simp] theorem State.count_nmu (s : State) (g : NodeCounters → NodeCounters) : (State.count s g).nmu = s.nmu := by rfl
@[simp] theorem State.count_arb (s : State) (g : NodeCounters → NodeCounters) : (State.count s g).arb = s.arb := by rfl
@[simp] theorem State.count_fab (s : State) (g : NodeCounters → NodeCounters) : (State.count s g).fab = s.fab := by rfl
@[simp] theorem State.count_memb (s : State) (g : NodeCounters → NodeCounters) : (State.count s g).memb = s.memb := by rfl
@[simp] theorem State.count_out (s : State) (g : NodeCounters → NodeCounters) : (State.count s g).out = s.out := by rfl
@[simp] theorem State.count_draws (s : State) (g : NodeCounters → NodeCounters) : (State.count s g).draws = s.draws := by rfl
@[simp] theorem State.count_sorts (s : State) (g : NodeCounters → NodeCounters) : (State.count s g).sorts = s.sorts := by rfl
@[simp] theorem State.count_tiles (s : State) (g : NodeCounters → NodeCounters) : (State.count s g).tiles = s.tiles := by rfl
@[simp] theorem State.ctxCount_clk (s : State) (context : Nat) (g : ContextCounters → ContextCounters) : (State.ctxCount s context g).clk = s.clk := by rfl
@[simp] theorem State.ctxCount_node (s : State) (context : Nat) (g : ContextCounters → ContextCounters) : (State.ctxCount s context g).node = s.node := by rfl
@[simp] theorem State.ctxCount_funcs (s : State) (context : Nat) (g : ContextCounters → ContextCounters) : (State.ctxCount s context g).funcs = s.funcs := by rfl
@[simp] theorem State.ctxCount_links (s : State) (context : Nat) (g : ContextCounters → ContextCounters) : (State.ctxCount s context g).links = s.links := by rfl
@[simp] theorem State.ctxCount_mbx (s : State) (context : Nat) (g : ContextCounters → ContextCounters) : (State.ctxCount s context g).mbx = s.mbx := by rfl
@[simp] theorem State.ctxCount_ctl (s : State) (context : Nat) (g : ContextCounters → ContextCounters) : (State.ctxCount s context g).ctl = s.ctl := by rfl
@[simp] theorem State.ctxCount_changes (s : State) (context : Nat) (g : ContextCounters → ContextCounters) : (State.ctxCount s context g).changes = s.changes := by rfl
@[simp] theorem State.ctxCount_gaits (s : State) (context : Nat) (g : ContextCounters → ContextCounters) : (State.ctxCount s context g).gaits = s.gaits := by rfl
@[simp] theorem State.ctxCount_contexts (s : State) (context : Nat) (g : ContextCounters → ContextCounters) : (State.ctxCount s context g).contexts = s.contexts := by rfl
@[simp] theorem State.ctxCount_mem (s : State) (context : Nat) (g : ContextCounters → ContextCounters) : (State.ctxCount s context g).mem = s.mem := by rfl
@[simp] theorem State.ctxCount_rings (s : State) (context : Nat) (g : ContextCounters → ContextCounters) : (State.ctxCount s context g).rings = s.rings := by rfl
@[simp] theorem State.ctxCount_queues (s : State) (context : Nat) (g : ContextCounters → ContextCounters) : (State.ctxCount s context g).queues = s.queues := by rfl
@[simp] theorem State.ctxCount_indexes (s : State) (context : Nat) (g : ContextCounters → ContextCounters) : (State.ctxCount s context g).indexes = s.indexes := by rfl
@[simp] theorem State.ctxCount_tables (s : State) (context : Nat) (g : ContextCounters → ContextCounters) : (State.ctxCount s context g).tables = s.tables := by rfl
@[simp] theorem State.ctxCount_programs (s : State) (context : Nat) (g : ContextCounters → ContextCounters) : (State.ctxCount s context g).programs = s.programs := by rfl
@[simp] theorem State.ctxCount_work (s : State) (context : Nat) (g : ContextCounters → ContextCounters) : (State.ctxCount s context g).work = s.work := by rfl
@[simp] theorem State.ctxCount_flash (s : State) (context : Nat) (g : ContextCounters → ContextCounters) : (State.ctxCount s context g).flash = s.flash := by rfl
@[simp] theorem State.ctxCount_nmu (s : State) (context : Nat) (g : ContextCounters → ContextCounters) : (State.ctxCount s context g).nmu = s.nmu := by rfl
@[simp] theorem State.ctxCount_arb (s : State) (context : Nat) (g : ContextCounters → ContextCounters) : (State.ctxCount s context g).arb = s.arb := by rfl
@[simp] theorem State.ctxCount_fab (s : State) (context : Nat) (g : ContextCounters → ContextCounters) : (State.ctxCount s context g).fab = s.fab := by rfl
@[simp] theorem State.ctxCount_memb (s : State) (context : Nat) (g : ContextCounters → ContextCounters) : (State.ctxCount s context g).memb = s.memb := by rfl
@[simp] theorem State.ctxCount_out (s : State) (context : Nat) (g : ContextCounters → ContextCounters) : (State.ctxCount s context g).out = s.out := by rfl
@[simp] theorem State.ctxCount_draws (s : State) (context : Nat) (g : ContextCounters → ContextCounters) : (State.ctxCount s context g).draws = s.draws := by rfl
@[simp] theorem State.ctxCount_sorts (s : State) (context : Nat) (g : ContextCounters → ContextCounters) : (State.ctxCount s context g).sorts = s.sorts := by rfl
@[simp] theorem State.ctxCount_tiles (s : State) (context : Nat) (g : ContextCounters → ContextCounters) : (State.ctxCount s context g).tiles = s.tiles := by rfl
@[simp] theorem State.tagFault_clk (s : State) (context : Nat) : (State.tagFault s context).clk = s.clk := by rfl
@[simp] theorem State.tagFault_node (s : State) (context : Nat) : (State.tagFault s context).node = s.node := by rfl
@[simp] theorem State.tagFault_funcs (s : State) (context : Nat) : (State.tagFault s context).funcs = s.funcs := by rfl
@[simp] theorem State.tagFault_links (s : State) (context : Nat) : (State.tagFault s context).links = s.links := by rfl
@[simp] theorem State.tagFault_mbx (s : State) (context : Nat) : (State.tagFault s context).mbx = s.mbx := by rfl
@[simp] theorem State.tagFault_ctl (s : State) (context : Nat) : (State.tagFault s context).ctl = s.ctl := by rfl
@[simp] theorem State.tagFault_changes (s : State) (context : Nat) : (State.tagFault s context).changes = s.changes := by rfl
@[simp] theorem State.tagFault_gaits (s : State) (context : Nat) : (State.tagFault s context).gaits = s.gaits := by rfl
@[simp] theorem State.tagFault_mem (s : State) (context : Nat) : (State.tagFault s context).mem = s.mem := by rfl
@[simp] theorem State.tagFault_rings (s : State) (context : Nat) : (State.tagFault s context).rings = s.rings := by rfl
@[simp] theorem State.tagFault_queues (s : State) (context : Nat) : (State.tagFault s context).queues = s.queues := by rfl
@[simp] theorem State.tagFault_indexes (s : State) (context : Nat) : (State.tagFault s context).indexes = s.indexes := by rfl
@[simp] theorem State.tagFault_tables (s : State) (context : Nat) : (State.tagFault s context).tables = s.tables := by rfl
@[simp] theorem State.tagFault_programs (s : State) (context : Nat) : (State.tagFault s context).programs = s.programs := by rfl
@[simp] theorem State.tagFault_work (s : State) (context : Nat) : (State.tagFault s context).work = s.work := by rfl
@[simp] theorem State.tagFault_flash (s : State) (context : Nat) : (State.tagFault s context).flash = s.flash := by rfl
@[simp] theorem State.tagFault_nmu (s : State) (context : Nat) : (State.tagFault s context).nmu = s.nmu := by rfl
@[simp] theorem State.tagFault_arb (s : State) (context : Nat) : (State.tagFault s context).arb = s.arb := by rfl
@[simp] theorem State.tagFault_fab (s : State) (context : Nat) : (State.tagFault s context).fab = s.fab := by rfl
@[simp] theorem State.tagFault_memb (s : State) (context : Nat) : (State.tagFault s context).memb = s.memb := by rfl
@[simp] theorem State.tagFault_out (s : State) (context : Nat) : (State.tagFault s context).out = s.out := by rfl
@[simp] theorem State.tagFault_draws (s : State) (context : Nat) : (State.tagFault s context).draws = s.draws := by rfl
@[simp] theorem State.tagFault_sorts (s : State) (context : Nat) : (State.tagFault s context).sorts = s.sorts := by rfl
@[simp] theorem State.tagFault_tiles (s : State) (context : Nat) : (State.tagFault s context).tiles = s.tiles := by rfl
@[simp] theorem State.takeTag_clk (s : State) (t : Nat) : (State.takeTag s t).clk = s.clk := by rfl
@[simp] theorem State.takeTag_node (s : State) (t : Nat) : (State.takeTag s t).node = s.node := by rfl
@[simp] theorem State.takeTag_funcs (s : State) (t : Nat) : (State.takeTag s t).funcs = s.funcs := by rfl
@[simp] theorem State.takeTag_links (s : State) (t : Nat) : (State.takeTag s t).links = s.links := by rfl
@[simp] theorem State.takeTag_mbx (s : State) (t : Nat) : (State.takeTag s t).mbx = s.mbx := by rfl
@[simp] theorem State.takeTag_ctl (s : State) (t : Nat) : (State.takeTag s t).ctl = s.ctl := by rfl
@[simp] theorem State.takeTag_changes (s : State) (t : Nat) : (State.takeTag s t).changes = s.changes := by rfl
@[simp] theorem State.takeTag_gaits (s : State) (t : Nat) : (State.takeTag s t).gaits = s.gaits := by rfl
@[simp] theorem State.takeTag_contexts (s : State) (t : Nat) : (State.takeTag s t).contexts = s.contexts := by rfl
@[simp] theorem State.takeTag_mem (s : State) (t : Nat) : (State.takeTag s t).mem = s.mem := by rfl
@[simp] theorem State.takeTag_rings (s : State) (t : Nat) : (State.takeTag s t).rings = s.rings := by rfl
@[simp] theorem State.takeTag_queues (s : State) (t : Nat) : (State.takeTag s t).queues = s.queues := by rfl
@[simp] theorem State.takeTag_indexes (s : State) (t : Nat) : (State.takeTag s t).indexes = s.indexes := by rfl
@[simp] theorem State.takeTag_tables (s : State) (t : Nat) : (State.takeTag s t).tables = s.tables := by rfl
@[simp] theorem State.takeTag_programs (s : State) (t : Nat) : (State.takeTag s t).programs = s.programs := by rfl
@[simp] theorem State.takeTag_flash (s : State) (t : Nat) : (State.takeTag s t).flash = s.flash := by rfl
@[simp] theorem State.takeTag_nmu (s : State) (t : Nat) : (State.takeTag s t).nmu = s.nmu := by rfl
@[simp] theorem State.takeTag_arb (s : State) (t : Nat) : (State.takeTag s t).arb = s.arb := by rfl
@[simp] theorem State.takeTag_fab (s : State) (t : Nat) : (State.takeTag s t).fab = s.fab := by rfl
@[simp] theorem State.takeTag_memb (s : State) (t : Nat) : (State.takeTag s t).memb = s.memb := by rfl
@[simp] theorem State.takeTag_tel (s : State) (t : Nat) : (State.takeTag s t).tel = s.tel := by rfl
@[simp] theorem State.takeTag_out (s : State) (t : Nat) : (State.takeTag s t).out = s.out := by rfl
@[simp] theorem State.takeTag_sorts (s : State) (t : Nat) : (State.takeTag s t).sorts = s.sorts := by rfl
@[simp] theorem State.takeTag_tiles (s : State) (t : Nat) : (State.takeTag s t).tiles = s.tiles := by rfl
@[simp] theorem State.dropTag_clk (s : State) (t : Nat) : (State.dropTag s t).clk = s.clk := by rfl
@[simp] theorem State.dropTag_node (s : State) (t : Nat) : (State.dropTag s t).node = s.node := by rfl
@[simp] theorem State.dropTag_funcs (s : State) (t : Nat) : (State.dropTag s t).funcs = s.funcs := by rfl
@[simp] theorem State.dropTag_links (s : State) (t : Nat) : (State.dropTag s t).links = s.links := by rfl
@[simp] theorem State.dropTag_mbx (s : State) (t : Nat) : (State.dropTag s t).mbx = s.mbx := by rfl
@[simp] theorem State.dropTag_ctl (s : State) (t : Nat) : (State.dropTag s t).ctl = s.ctl := by rfl
@[simp] theorem State.dropTag_changes (s : State) (t : Nat) : (State.dropTag s t).changes = s.changes := by rfl
@[simp] theorem State.dropTag_gaits (s : State) (t : Nat) : (State.dropTag s t).gaits = s.gaits := by rfl
@[simp] theorem State.dropTag_contexts (s : State) (t : Nat) : (State.dropTag s t).contexts = s.contexts := by rfl
@[simp] theorem State.dropTag_mem (s : State) (t : Nat) : (State.dropTag s t).mem = s.mem := by rfl
@[simp] theorem State.dropTag_rings (s : State) (t : Nat) : (State.dropTag s t).rings = s.rings := by rfl
@[simp] theorem State.dropTag_queues (s : State) (t : Nat) : (State.dropTag s t).queues = s.queues := by rfl
@[simp] theorem State.dropTag_indexes (s : State) (t : Nat) : (State.dropTag s t).indexes = s.indexes := by rfl
@[simp] theorem State.dropTag_tables (s : State) (t : Nat) : (State.dropTag s t).tables = s.tables := by rfl
@[simp] theorem State.dropTag_programs (s : State) (t : Nat) : (State.dropTag s t).programs = s.programs := by rfl
@[simp] theorem State.dropTag_flash (s : State) (t : Nat) : (State.dropTag s t).flash = s.flash := by rfl
@[simp] theorem State.dropTag_nmu (s : State) (t : Nat) : (State.dropTag s t).nmu = s.nmu := by rfl
@[simp] theorem State.dropTag_arb (s : State) (t : Nat) : (State.dropTag s t).arb = s.arb := by rfl
@[simp] theorem State.dropTag_fab (s : State) (t : Nat) : (State.dropTag s t).fab = s.fab := by rfl
@[simp] theorem State.dropTag_memb (s : State) (t : Nat) : (State.dropTag s t).memb = s.memb := by rfl
@[simp] theorem State.dropTag_tel (s : State) (t : Nat) : (State.dropTag s t).tel = s.tel := by rfl
@[simp] theorem State.dropTag_out (s : State) (t : Nat) : (State.dropTag s t).out = s.out := by rfl
@[simp] theorem State.dropTag_draws (s : State) (t : Nat) : (State.dropTag s t).draws = s.draws := by rfl
@[simp] theorem State.dropTag_sorts (s : State) (t : Nat) : (State.dropTag s t).sorts = s.sorts := by rfl
@[simp] theorem State.dropTag_tiles (s : State) (t : Nat) : (State.dropTag s t).tiles = s.tiles := by rfl
@[simp] theorem State.modArbiter_clk (s : State) (n : Nat) (g : Arbiter → Arbiter) : (State.modArbiter s n g).clk = s.clk := by rfl
@[simp] theorem State.modArbiter_node (s : State) (n : Nat) (g : Arbiter → Arbiter) : (State.modArbiter s n g).node = s.node := by rfl
@[simp] theorem State.modArbiter_funcs (s : State) (n : Nat) (g : Arbiter → Arbiter) : (State.modArbiter s n g).funcs = s.funcs := by rfl
@[simp] theorem State.modArbiter_links (s : State) (n : Nat) (g : Arbiter → Arbiter) : (State.modArbiter s n g).links = s.links := by rfl
@[simp] theorem State.modArbiter_mbx (s : State) (n : Nat) (g : Arbiter → Arbiter) : (State.modArbiter s n g).mbx = s.mbx := by rfl
@[simp] theorem State.modArbiter_ctl (s : State) (n : Nat) (g : Arbiter → Arbiter) : (State.modArbiter s n g).ctl = s.ctl := by rfl
@[simp] theorem State.modArbiter_changes (s : State) (n : Nat) (g : Arbiter → Arbiter) : (State.modArbiter s n g).changes = s.changes := by rfl
@[simp] theorem State.modArbiter_gaits (s : State) (n : Nat) (g : Arbiter → Arbiter) : (State.modArbiter s n g).gaits = s.gaits := by rfl
@[simp] theorem State.modArbiter_contexts (s : State) (n : Nat) (g : Arbiter → Arbiter) : (State.modArbiter s n g).contexts = s.contexts := by rfl
@[simp] theorem State.modArbiter_mem (s : State) (n : Nat) (g : Arbiter → Arbiter) : (State.modArbiter s n g).mem = s.mem := by rfl
@[simp] theorem State.modArbiter_rings (s : State) (n : Nat) (g : Arbiter → Arbiter) : (State.modArbiter s n g).rings = s.rings := by rfl
@[simp] theorem State.modArbiter_queues (s : State) (n : Nat) (g : Arbiter → Arbiter) : (State.modArbiter s n g).queues = s.queues := by rfl
@[simp] theorem State.modArbiter_indexes (s : State) (n : Nat) (g : Arbiter → Arbiter) : (State.modArbiter s n g).indexes = s.indexes := by rfl
@[simp] theorem State.modArbiter_tables (s : State) (n : Nat) (g : Arbiter → Arbiter) : (State.modArbiter s n g).tables = s.tables := by rfl
@[simp] theorem State.modArbiter_programs (s : State) (n : Nat) (g : Arbiter → Arbiter) : (State.modArbiter s n g).programs = s.programs := by rfl
@[simp] theorem State.modArbiter_work (s : State) (n : Nat) (g : Arbiter → Arbiter) : (State.modArbiter s n g).work = s.work := by rfl
@[simp] theorem State.modArbiter_flash (s : State) (n : Nat) (g : Arbiter → Arbiter) : (State.modArbiter s n g).flash = s.flash := by rfl
@[simp] theorem State.modArbiter_nmu (s : State) (n : Nat) (g : Arbiter → Arbiter) : (State.modArbiter s n g).nmu = s.nmu := by rfl
@[simp] theorem State.modArbiter_fab (s : State) (n : Nat) (g : Arbiter → Arbiter) : (State.modArbiter s n g).fab = s.fab := by rfl
@[simp] theorem State.modArbiter_memb (s : State) (n : Nat) (g : Arbiter → Arbiter) : (State.modArbiter s n g).memb = s.memb := by rfl
@[simp] theorem State.modArbiter_tel (s : State) (n : Nat) (g : Arbiter → Arbiter) : (State.modArbiter s n g).tel = s.tel := by rfl
@[simp] theorem State.modArbiter_out (s : State) (n : Nat) (g : Arbiter → Arbiter) : (State.modArbiter s n g).out = s.out := by rfl
@[simp] theorem State.modArbiter_draws (s : State) (n : Nat) (g : Arbiter → Arbiter) : (State.modArbiter s n g).draws = s.draws := by rfl
@[simp] theorem State.modArbiter_sorts (s : State) (n : Nat) (g : Arbiter → Arbiter) : (State.modArbiter s n g).sorts = s.sorts := by rfl
@[simp] theorem State.modArbiter_tiles (s : State) (n : Nat) (g : Arbiter → Arbiter) : (State.modArbiter s n g).tiles = s.tiles := by rfl
@[simp] theorem State.flush_clk (s : State) (f : Nat) : (State.flush s f).clk = s.clk := by rfl
@[simp] theorem State.flush_node (s : State) (f : Nat) : (State.flush s f).node = s.node := by rfl
@[simp] theorem State.flush_funcs (s : State) (f : Nat) : (State.flush s f).funcs = s.funcs := by rfl
@[simp] theorem State.flush_links (s : State) (f : Nat) : (State.flush s f).links = s.links := by rfl
@[simp] theorem State.flush_ctl (s : State) (f : Nat) : (State.flush s f).ctl = s.ctl := by rfl
@[simp] theorem State.flush_changes (s : State) (f : Nat) : (State.flush s f).changes = s.changes := by rfl
@[simp] theorem State.flush_gaits (s : State) (f : Nat) : (State.flush s f).gaits = s.gaits := by rfl
@[simp] theorem State.flush_contexts (s : State) (f : Nat) : (State.flush s f).contexts = s.contexts := by rfl
@[simp] theorem State.flush_mem (s : State) (f : Nat) : (State.flush s f).mem = s.mem := by rfl
@[simp] theorem State.flush_rings (s : State) (f : Nat) : (State.flush s f).rings = s.rings := by rfl
@[simp] theorem State.flush_queues (s : State) (f : Nat) : (State.flush s f).queues = s.queues := by rfl
@[simp] theorem State.flush_indexes (s : State) (f : Nat) : (State.flush s f).indexes = s.indexes := by rfl
@[simp] theorem State.flush_tables (s : State) (f : Nat) : (State.flush s f).tables = s.tables := by rfl
@[simp] theorem State.flush_programs (s : State) (f : Nat) : (State.flush s f).programs = s.programs := by rfl
@[simp] theorem State.flush_work (s : State) (f : Nat) : (State.flush s f).work = s.work := by rfl
@[simp] theorem State.flush_flash (s : State) (f : Nat) : (State.flush s f).flash = s.flash := by rfl
@[simp] theorem State.flush_nmu (s : State) (f : Nat) : (State.flush s f).nmu = s.nmu := by rfl
@[simp] theorem State.flush_arb (s : State) (f : Nat) : (State.flush s f).arb = s.arb := by rfl
@[simp] theorem State.flush_fab (s : State) (f : Nat) : (State.flush s f).fab = s.fab := by rfl
@[simp] theorem State.flush_memb (s : State) (f : Nat) : (State.flush s f).memb = s.memb := by rfl
@[simp] theorem State.flush_tel (s : State) (f : Nat) : (State.flush s f).tel = s.tel := by rfl
@[simp] theorem State.flush_out (s : State) (f : Nat) : (State.flush s f).out = s.out := by rfl
@[simp] theorem State.flush_draws (s : State) (f : Nat) : (State.flush s f).draws = s.draws := by rfl
@[simp] theorem State.flush_sorts (s : State) (f : Nat) : (State.flush s f).sorts = s.sorts := by rfl
@[simp] theorem State.flush_tiles (s : State) (f : Nat) : (State.flush s f).tiles = s.tiles := by rfl
@[simp] theorem State.popRequest_clk (s : State) (f : Nat) : (State.popRequest s f).clk = s.clk := by rfl
@[simp] theorem State.popRequest_node (s : State) (f : Nat) : (State.popRequest s f).node = s.node := by rfl
@[simp] theorem State.popRequest_funcs (s : State) (f : Nat) : (State.popRequest s f).funcs = s.funcs := by rfl
@[simp] theorem State.popRequest_links (s : State) (f : Nat) : (State.popRequest s f).links = s.links := by rfl
@[simp] theorem State.popRequest_ctl (s : State) (f : Nat) : (State.popRequest s f).ctl =
    { s.ctl with serving := (((s.mailbox f).taken.head?).map Request.order).getD s.ctl.serving } := by rfl
@[simp] theorem State.popRequest_changes (s : State) (f : Nat) : (State.popRequest s f).changes = s.changes := by rfl
@[simp] theorem State.popRequest_gaits (s : State) (f : Nat) : (State.popRequest s f).gaits = s.gaits := by rfl
@[simp] theorem State.popRequest_contexts (s : State) (f : Nat) : (State.popRequest s f).contexts = s.contexts := by rfl
@[simp] theorem State.popRequest_mem (s : State) (f : Nat) : (State.popRequest s f).mem = s.mem := by rfl
@[simp] theorem State.popRequest_rings (s : State) (f : Nat) : (State.popRequest s f).rings = s.rings := by rfl
@[simp] theorem State.popRequest_queues (s : State) (f : Nat) : (State.popRequest s f).queues = s.queues := by rfl
@[simp] theorem State.popRequest_indexes (s : State) (f : Nat) : (State.popRequest s f).indexes = s.indexes := by rfl
@[simp] theorem State.popRequest_tables (s : State) (f : Nat) : (State.popRequest s f).tables = s.tables := by rfl
@[simp] theorem State.popRequest_programs (s : State) (f : Nat) : (State.popRequest s f).programs = s.programs := by rfl
@[simp] theorem State.popRequest_work (s : State) (f : Nat) : (State.popRequest s f).work = s.work := by rfl
@[simp] theorem State.popRequest_flash (s : State) (f : Nat) : (State.popRequest s f).flash = s.flash := by rfl
@[simp] theorem State.popRequest_nmu (s : State) (f : Nat) : (State.popRequest s f).nmu = s.nmu := by rfl
@[simp] theorem State.popRequest_arb (s : State) (f : Nat) : (State.popRequest s f).arb = s.arb := by rfl
@[simp] theorem State.popRequest_fab (s : State) (f : Nat) : (State.popRequest s f).fab = s.fab := by rfl
@[simp] theorem State.popRequest_memb (s : State) (f : Nat) : (State.popRequest s f).memb = s.memb := by rfl
@[simp] theorem State.popRequest_tel (s : State) (f : Nat) : (State.popRequest s f).tel = s.tel := by rfl
@[simp] theorem State.popRequest_out (s : State) (f : Nat) : (State.popRequest s f).out = s.out := by rfl
@[simp] theorem State.popRequest_draws (s : State) (f : Nat) : (State.popRequest s f).draws = s.draws := by rfl
@[simp] theorem State.popRequest_sorts (s : State) (f : Nat) : (State.popRequest s f).sorts = s.sorts := by rfl
@[simp] theorem State.popRequest_tiles (s : State) (f : Nat) : (State.popRequest s f).tiles = s.tiles := by rfl
@[simp] theorem State.modBell_clk (s : State) (b : Doorbell) (g : Ring → Ring) : (State.modBell s b g).clk = s.clk := by unfold State.modBell; (repeat' split) <;> rfl
@[simp] theorem State.modBell_node (s : State) (b : Doorbell) (g : Ring → Ring) : (State.modBell s b g).node = s.node := by unfold State.modBell; (repeat' split) <;> rfl
@[simp] theorem State.modBell_funcs (s : State) (b : Doorbell) (g : Ring → Ring) : (State.modBell s b g).funcs = s.funcs := by unfold State.modBell; (repeat' split) <;> rfl
@[simp] theorem State.modBell_links (s : State) (b : Doorbell) (g : Ring → Ring) : (State.modBell s b g).links = s.links := by unfold State.modBell; (repeat' split) <;> rfl
@[simp] theorem State.modBell_mbx (s : State) (b : Doorbell) (g : Ring → Ring) : (State.modBell s b g).mbx = s.mbx := by unfold State.modBell; (repeat' split) <;> rfl
@[simp] theorem State.modBell_ctl (s : State) (b : Doorbell) (g : Ring → Ring) : (State.modBell s b g).ctl = s.ctl := by unfold State.modBell; (repeat' split) <;> rfl
@[simp] theorem State.modBell_changes (s : State) (b : Doorbell) (g : Ring → Ring) : (State.modBell s b g).changes = s.changes := by unfold State.modBell; (repeat' split) <;> rfl
@[simp] theorem State.modBell_gaits (s : State) (b : Doorbell) (g : Ring → Ring) : (State.modBell s b g).gaits = s.gaits := by unfold State.modBell; (repeat' split) <;> rfl
@[simp] theorem State.modBell_contexts (s : State) (b : Doorbell) (g : Ring → Ring) : (State.modBell s b g).contexts = s.contexts := by unfold State.modBell; (repeat' split) <;> rfl
@[simp] theorem State.modBell_mem (s : State) (b : Doorbell) (g : Ring → Ring) : (State.modBell s b g).mem = s.mem := by unfold State.modBell; (repeat' split) <;> rfl
@[simp] theorem State.modBell_indexes (s : State) (b : Doorbell) (g : Ring → Ring) : (State.modBell s b g).indexes = s.indexes := by unfold State.modBell; (repeat' split) <;> rfl
@[simp] theorem State.modBell_tables (s : State) (b : Doorbell) (g : Ring → Ring) : (State.modBell s b g).tables = s.tables := by unfold State.modBell; (repeat' split) <;> rfl
@[simp] theorem State.modBell_programs (s : State) (b : Doorbell) (g : Ring → Ring) : (State.modBell s b g).programs = s.programs := by unfold State.modBell; (repeat' split) <;> rfl
@[simp] theorem State.modBell_work (s : State) (b : Doorbell) (g : Ring → Ring) : (State.modBell s b g).work = s.work := by unfold State.modBell; (repeat' split) <;> rfl
@[simp] theorem State.modBell_flash (s : State) (b : Doorbell) (g : Ring → Ring) : (State.modBell s b g).flash = s.flash := by unfold State.modBell; (repeat' split) <;> rfl
@[simp] theorem State.modBell_nmu (s : State) (b : Doorbell) (g : Ring → Ring) : (State.modBell s b g).nmu = s.nmu := by unfold State.modBell; (repeat' split) <;> rfl
@[simp] theorem State.modBell_arb (s : State) (b : Doorbell) (g : Ring → Ring) : (State.modBell s b g).arb = s.arb := by unfold State.modBell; (repeat' split) <;> rfl
@[simp] theorem State.modBell_fab (s : State) (b : Doorbell) (g : Ring → Ring) : (State.modBell s b g).fab = s.fab := by unfold State.modBell; (repeat' split) <;> rfl
@[simp] theorem State.modBell_memb (s : State) (b : Doorbell) (g : Ring → Ring) : (State.modBell s b g).memb = s.memb := by unfold State.modBell; (repeat' split) <;> rfl
@[simp] theorem State.modBell_tel (s : State) (b : Doorbell) (g : Ring → Ring) : (State.modBell s b g).tel = s.tel := by unfold State.modBell; (repeat' split) <;> rfl
@[simp] theorem State.modBell_out (s : State) (b : Doorbell) (g : Ring → Ring) : (State.modBell s b g).out = s.out := by unfold State.modBell; (repeat' split) <;> rfl
@[simp] theorem State.modBell_draws (s : State) (b : Doorbell) (g : Ring → Ring) : (State.modBell s b g).draws = s.draws := by unfold State.modBell; (repeat' split) <;> rfl
@[simp] theorem State.modBell_sorts (s : State) (b : Doorbell) (g : Ring → Ring) : (State.modBell s b g).sorts = s.sorts := by unfold State.modBell; (repeat' split) <;> rfl
@[simp] theorem State.modBell_tiles (s : State) (b : Doorbell) (g : Ring → Ring) : (State.modBell s b g).tiles = s.tiles := by unfold State.modBell; (repeat' split) <;> rfl
@[simp] theorem State.modRing_clk (s : State) (id : Nat) (g : Ring → Ring) : (State.modRing s id g).clk = s.clk := by rfl
@[simp] theorem State.modRing_node (s : State) (id : Nat) (g : Ring → Ring) : (State.modRing s id g).node = s.node := by rfl
@[simp] theorem State.modRing_funcs (s : State) (id : Nat) (g : Ring → Ring) : (State.modRing s id g).funcs = s.funcs := by rfl
@[simp] theorem State.modRing_links (s : State) (id : Nat) (g : Ring → Ring) : (State.modRing s id g).links = s.links := by rfl
@[simp] theorem State.modRing_mbx (s : State) (id : Nat) (g : Ring → Ring) : (State.modRing s id g).mbx = s.mbx := by rfl
@[simp] theorem State.modRing_ctl (s : State) (id : Nat) (g : Ring → Ring) : (State.modRing s id g).ctl = s.ctl := by rfl
@[simp] theorem State.modRing_changes (s : State) (id : Nat) (g : Ring → Ring) : (State.modRing s id g).changes = s.changes := by rfl
@[simp] theorem State.modRing_gaits (s : State) (id : Nat) (g : Ring → Ring) : (State.modRing s id g).gaits = s.gaits := by rfl
@[simp] theorem State.modRing_contexts (s : State) (id : Nat) (g : Ring → Ring) : (State.modRing s id g).contexts = s.contexts := by rfl
@[simp] theorem State.modRing_mem (s : State) (id : Nat) (g : Ring → Ring) : (State.modRing s id g).mem = s.mem := by rfl
@[simp] theorem State.modRing_queues (s : State) (id : Nat) (g : Ring → Ring) : (State.modRing s id g).queues = s.queues := by rfl
@[simp] theorem State.modRing_indexes (s : State) (id : Nat) (g : Ring → Ring) : (State.modRing s id g).indexes = s.indexes := by rfl
@[simp] theorem State.modRing_tables (s : State) (id : Nat) (g : Ring → Ring) : (State.modRing s id g).tables = s.tables := by rfl
@[simp] theorem State.modRing_programs (s : State) (id : Nat) (g : Ring → Ring) : (State.modRing s id g).programs = s.programs := by rfl
@[simp] theorem State.modRing_work (s : State) (id : Nat) (g : Ring → Ring) : (State.modRing s id g).work = s.work := by rfl
@[simp] theorem State.modRing_flash (s : State) (id : Nat) (g : Ring → Ring) : (State.modRing s id g).flash = s.flash := by rfl
@[simp] theorem State.modRing_nmu (s : State) (id : Nat) (g : Ring → Ring) : (State.modRing s id g).nmu = s.nmu := by rfl
@[simp] theorem State.modRing_arb (s : State) (id : Nat) (g : Ring → Ring) : (State.modRing s id g).arb = s.arb := by rfl
@[simp] theorem State.modRing_fab (s : State) (id : Nat) (g : Ring → Ring) : (State.modRing s id g).fab = s.fab := by rfl
@[simp] theorem State.modRing_memb (s : State) (id : Nat) (g : Ring → Ring) : (State.modRing s id g).memb = s.memb := by rfl
@[simp] theorem State.modRing_tel (s : State) (id : Nat) (g : Ring → Ring) : (State.modRing s id g).tel = s.tel := by rfl
@[simp] theorem State.modRing_out (s : State) (id : Nat) (g : Ring → Ring) : (State.modRing s id g).out = s.out := by rfl
@[simp] theorem State.modRing_draws (s : State) (id : Nat) (g : Ring → Ring) : (State.modRing s id g).draws = s.draws := by rfl
@[simp] theorem State.modRing_sorts (s : State) (id : Nat) (g : Ring → Ring) : (State.modRing s id g).sorts = s.sorts := by rfl
@[simp] theorem State.modRing_tiles (s : State) (id : Nat) (g : Ring → Ring) : (State.modRing s id g).tiles = s.tiles := by rfl
@[simp] theorem State.modQueue_clk (s : State) (id : Nat) (g : Ring → Ring) : (State.modQueue s id g).clk = s.clk := by rfl
@[simp] theorem State.modQueue_node (s : State) (id : Nat) (g : Ring → Ring) : (State.modQueue s id g).node = s.node := by rfl
@[simp] theorem State.modQueue_funcs (s : State) (id : Nat) (g : Ring → Ring) : (State.modQueue s id g).funcs = s.funcs := by rfl
@[simp] theorem State.modQueue_links (s : State) (id : Nat) (g : Ring → Ring) : (State.modQueue s id g).links = s.links := by rfl
@[simp] theorem State.modQueue_mbx (s : State) (id : Nat) (g : Ring → Ring) : (State.modQueue s id g).mbx = s.mbx := by rfl
@[simp] theorem State.modQueue_ctl (s : State) (id : Nat) (g : Ring → Ring) : (State.modQueue s id g).ctl = s.ctl := by rfl
@[simp] theorem State.modQueue_changes (s : State) (id : Nat) (g : Ring → Ring) : (State.modQueue s id g).changes = s.changes := by rfl
@[simp] theorem State.modQueue_gaits (s : State) (id : Nat) (g : Ring → Ring) : (State.modQueue s id g).gaits = s.gaits := by rfl
@[simp] theorem State.modQueue_contexts (s : State) (id : Nat) (g : Ring → Ring) : (State.modQueue s id g).contexts = s.contexts := by rfl
@[simp] theorem State.modQueue_mem (s : State) (id : Nat) (g : Ring → Ring) : (State.modQueue s id g).mem = s.mem := by rfl
@[simp] theorem State.modQueue_rings (s : State) (id : Nat) (g : Ring → Ring) : (State.modQueue s id g).rings = s.rings := by rfl
@[simp] theorem State.modQueue_indexes (s : State) (id : Nat) (g : Ring → Ring) : (State.modQueue s id g).indexes = s.indexes := by rfl
@[simp] theorem State.modQueue_tables (s : State) (id : Nat) (g : Ring → Ring) : (State.modQueue s id g).tables = s.tables := by rfl
@[simp] theorem State.modQueue_programs (s : State) (id : Nat) (g : Ring → Ring) : (State.modQueue s id g).programs = s.programs := by rfl
@[simp] theorem State.modQueue_work (s : State) (id : Nat) (g : Ring → Ring) : (State.modQueue s id g).work = s.work := by rfl
@[simp] theorem State.modQueue_flash (s : State) (id : Nat) (g : Ring → Ring) : (State.modQueue s id g).flash = s.flash := by rfl
@[simp] theorem State.modQueue_nmu (s : State) (id : Nat) (g : Ring → Ring) : (State.modQueue s id g).nmu = s.nmu := by rfl
@[simp] theorem State.modQueue_arb (s : State) (id : Nat) (g : Ring → Ring) : (State.modQueue s id g).arb = s.arb := by rfl
@[simp] theorem State.modQueue_fab (s : State) (id : Nat) (g : Ring → Ring) : (State.modQueue s id g).fab = s.fab := by rfl
@[simp] theorem State.modQueue_memb (s : State) (id : Nat) (g : Ring → Ring) : (State.modQueue s id g).memb = s.memb := by rfl
@[simp] theorem State.modQueue_tel (s : State) (id : Nat) (g : Ring → Ring) : (State.modQueue s id g).tel = s.tel := by rfl
@[simp] theorem State.modQueue_out (s : State) (id : Nat) (g : Ring → Ring) : (State.modQueue s id g).out = s.out := by rfl
@[simp] theorem State.modQueue_draws (s : State) (id : Nat) (g : Ring → Ring) : (State.modQueue s id g).draws = s.draws := by rfl
@[simp] theorem State.modQueue_sorts (s : State) (id : Nat) (g : Ring → Ring) : (State.modQueue s id g).sorts = s.sorts := by rfl
@[simp] theorem State.modQueue_tiles (s : State) (id : Nat) (g : Ring → Ring) : (State.modQueue s id g).tiles = s.tiles := by rfl
@[simp] theorem State.modIndex_clk (s : State) (id : Nat) (g : Index → Index) : (State.modIndex s id g).clk = s.clk := by rfl
@[simp] theorem State.modIndex_node (s : State) (id : Nat) (g : Index → Index) : (State.modIndex s id g).node = s.node := by rfl
@[simp] theorem State.modIndex_funcs (s : State) (id : Nat) (g : Index → Index) : (State.modIndex s id g).funcs = s.funcs := by rfl
@[simp] theorem State.modIndex_links (s : State) (id : Nat) (g : Index → Index) : (State.modIndex s id g).links = s.links := by rfl
@[simp] theorem State.modIndex_mbx (s : State) (id : Nat) (g : Index → Index) : (State.modIndex s id g).mbx = s.mbx := by rfl
@[simp] theorem State.modIndex_ctl (s : State) (id : Nat) (g : Index → Index) : (State.modIndex s id g).ctl = s.ctl := by rfl
@[simp] theorem State.modIndex_changes (s : State) (id : Nat) (g : Index → Index) : (State.modIndex s id g).changes = s.changes := by rfl
@[simp] theorem State.modIndex_gaits (s : State) (id : Nat) (g : Index → Index) : (State.modIndex s id g).gaits = s.gaits := by rfl
@[simp] theorem State.modIndex_contexts (s : State) (id : Nat) (g : Index → Index) : (State.modIndex s id g).contexts = s.contexts := by rfl
@[simp] theorem State.modIndex_mem (s : State) (id : Nat) (g : Index → Index) : (State.modIndex s id g).mem = s.mem := by rfl
@[simp] theorem State.modIndex_rings (s : State) (id : Nat) (g : Index → Index) : (State.modIndex s id g).rings = s.rings := by rfl
@[simp] theorem State.modIndex_queues (s : State) (id : Nat) (g : Index → Index) : (State.modIndex s id g).queues = s.queues := by rfl
@[simp] theorem State.modIndex_tables (s : State) (id : Nat) (g : Index → Index) : (State.modIndex s id g).tables = s.tables := by rfl
@[simp] theorem State.modIndex_programs (s : State) (id : Nat) (g : Index → Index) : (State.modIndex s id g).programs = s.programs := by rfl
@[simp] theorem State.modIndex_work (s : State) (id : Nat) (g : Index → Index) : (State.modIndex s id g).work = s.work := by rfl
@[simp] theorem State.modIndex_flash (s : State) (id : Nat) (g : Index → Index) : (State.modIndex s id g).flash = s.flash := by rfl
@[simp] theorem State.modIndex_nmu (s : State) (id : Nat) (g : Index → Index) : (State.modIndex s id g).nmu = s.nmu := by rfl
@[simp] theorem State.modIndex_arb (s : State) (id : Nat) (g : Index → Index) : (State.modIndex s id g).arb = s.arb := by rfl
@[simp] theorem State.modIndex_fab (s : State) (id : Nat) (g : Index → Index) : (State.modIndex s id g).fab = s.fab := by rfl
@[simp] theorem State.modIndex_memb (s : State) (id : Nat) (g : Index → Index) : (State.modIndex s id g).memb = s.memb := by rfl
@[simp] theorem State.modIndex_tel (s : State) (id : Nat) (g : Index → Index) : (State.modIndex s id g).tel = s.tel := by rfl
@[simp] theorem State.modIndex_out (s : State) (id : Nat) (g : Index → Index) : (State.modIndex s id g).out = s.out := by rfl
@[simp] theorem State.modIndex_draws (s : State) (id : Nat) (g : Index → Index) : (State.modIndex s id g).draws = s.draws := by rfl
@[simp] theorem State.modIndex_sorts (s : State) (id : Nat) (g : Index → Index) : (State.modIndex s id g).sorts = s.sorts := by rfl
@[simp] theorem State.modIndex_tiles (s : State) (id : Nat) (g : Index → Index) : (State.modIndex s id g).tiles = s.tiles := by rfl
@[simp] theorem State.modTable_clk (s : State) (id : Nat) (g : Table → Table) : (State.modTable s id g).clk = s.clk := by rfl
@[simp] theorem State.modTable_node (s : State) (id : Nat) (g : Table → Table) : (State.modTable s id g).node = s.node := by rfl
@[simp] theorem State.modTable_funcs (s : State) (id : Nat) (g : Table → Table) : (State.modTable s id g).funcs = s.funcs := by rfl
@[simp] theorem State.modTable_links (s : State) (id : Nat) (g : Table → Table) : (State.modTable s id g).links = s.links := by rfl
@[simp] theorem State.modTable_mbx (s : State) (id : Nat) (g : Table → Table) : (State.modTable s id g).mbx = s.mbx := by rfl
@[simp] theorem State.modTable_ctl (s : State) (id : Nat) (g : Table → Table) : (State.modTable s id g).ctl = s.ctl := by rfl
@[simp] theorem State.modTable_changes (s : State) (id : Nat) (g : Table → Table) : (State.modTable s id g).changes = s.changes := by rfl
@[simp] theorem State.modTable_gaits (s : State) (id : Nat) (g : Table → Table) : (State.modTable s id g).gaits = s.gaits := by rfl
@[simp] theorem State.modTable_contexts (s : State) (id : Nat) (g : Table → Table) : (State.modTable s id g).contexts = s.contexts := by rfl
@[simp] theorem State.modTable_mem (s : State) (id : Nat) (g : Table → Table) : (State.modTable s id g).mem = s.mem := by rfl
@[simp] theorem State.modTable_rings (s : State) (id : Nat) (g : Table → Table) : (State.modTable s id g).rings = s.rings := by rfl
@[simp] theorem State.modTable_queues (s : State) (id : Nat) (g : Table → Table) : (State.modTable s id g).queues = s.queues := by rfl
@[simp] theorem State.modTable_indexes (s : State) (id : Nat) (g : Table → Table) : (State.modTable s id g).indexes = s.indexes := by rfl
@[simp] theorem State.modTable_programs (s : State) (id : Nat) (g : Table → Table) : (State.modTable s id g).programs = s.programs := by rfl
@[simp] theorem State.modTable_work (s : State) (id : Nat) (g : Table → Table) : (State.modTable s id g).work = s.work := by rfl
@[simp] theorem State.modTable_flash (s : State) (id : Nat) (g : Table → Table) : (State.modTable s id g).flash = s.flash := by rfl
@[simp] theorem State.modTable_nmu (s : State) (id : Nat) (g : Table → Table) : (State.modTable s id g).nmu = s.nmu := by rfl
@[simp] theorem State.modTable_arb (s : State) (id : Nat) (g : Table → Table) : (State.modTable s id g).arb = s.arb := by rfl
@[simp] theorem State.modTable_fab (s : State) (id : Nat) (g : Table → Table) : (State.modTable s id g).fab = s.fab := by rfl
@[simp] theorem State.modTable_memb (s : State) (id : Nat) (g : Table → Table) : (State.modTable s id g).memb = s.memb := by rfl
@[simp] theorem State.modTable_tel (s : State) (id : Nat) (g : Table → Table) : (State.modTable s id g).tel = s.tel := by rfl
@[simp] theorem State.modTable_out (s : State) (id : Nat) (g : Table → Table) : (State.modTable s id g).out = s.out := by rfl
@[simp] theorem State.modTable_draws (s : State) (id : Nat) (g : Table → Table) : (State.modTable s id g).draws = s.draws := by rfl
@[simp] theorem State.modTable_sorts (s : State) (id : Nat) (g : Table → Table) : (State.modTable s id g).sorts = s.sorts := by rfl
@[simp] theorem State.modTable_tiles (s : State) (id : Nat) (g : Table → Table) : (State.modTable s id g).tiles = s.tiles := by rfl
@[simp] theorem State.modChannel_clk (s : State) (c : Nat) (g : FlashChannel → FlashChannel) : (State.modChannel s c g).clk = s.clk := by rfl
@[simp] theorem State.modChannel_node (s : State) (c : Nat) (g : FlashChannel → FlashChannel) : (State.modChannel s c g).node = s.node := by rfl
@[simp] theorem State.modChannel_funcs (s : State) (c : Nat) (g : FlashChannel → FlashChannel) : (State.modChannel s c g).funcs = s.funcs := by rfl
@[simp] theorem State.modChannel_links (s : State) (c : Nat) (g : FlashChannel → FlashChannel) : (State.modChannel s c g).links = s.links := by rfl
@[simp] theorem State.modChannel_mbx (s : State) (c : Nat) (g : FlashChannel → FlashChannel) : (State.modChannel s c g).mbx = s.mbx := by rfl
@[simp] theorem State.modChannel_ctl (s : State) (c : Nat) (g : FlashChannel → FlashChannel) : (State.modChannel s c g).ctl = s.ctl := by rfl
@[simp] theorem State.modChannel_changes (s : State) (c : Nat) (g : FlashChannel → FlashChannel) : (State.modChannel s c g).changes = s.changes := by rfl
@[simp] theorem State.modChannel_gaits (s : State) (c : Nat) (g : FlashChannel → FlashChannel) : (State.modChannel s c g).gaits = s.gaits := by rfl
@[simp] theorem State.modChannel_contexts (s : State) (c : Nat) (g : FlashChannel → FlashChannel) : (State.modChannel s c g).contexts = s.contexts := by rfl
@[simp] theorem State.modChannel_mem (s : State) (c : Nat) (g : FlashChannel → FlashChannel) : (State.modChannel s c g).mem = s.mem := by rfl
@[simp] theorem State.modChannel_rings (s : State) (c : Nat) (g : FlashChannel → FlashChannel) : (State.modChannel s c g).rings = s.rings := by rfl
@[simp] theorem State.modChannel_queues (s : State) (c : Nat) (g : FlashChannel → FlashChannel) : (State.modChannel s c g).queues = s.queues := by rfl
@[simp] theorem State.modChannel_indexes (s : State) (c : Nat) (g : FlashChannel → FlashChannel) : (State.modChannel s c g).indexes = s.indexes := by rfl
@[simp] theorem State.modChannel_tables (s : State) (c : Nat) (g : FlashChannel → FlashChannel) : (State.modChannel s c g).tables = s.tables := by rfl
@[simp] theorem State.modChannel_programs (s : State) (c : Nat) (g : FlashChannel → FlashChannel) : (State.modChannel s c g).programs = s.programs := by rfl
@[simp] theorem State.modChannel_work (s : State) (c : Nat) (g : FlashChannel → FlashChannel) : (State.modChannel s c g).work = s.work := by rfl
@[simp] theorem State.modChannel_nmu (s : State) (c : Nat) (g : FlashChannel → FlashChannel) : (State.modChannel s c g).nmu = s.nmu := by rfl
@[simp] theorem State.modChannel_arb (s : State) (c : Nat) (g : FlashChannel → FlashChannel) : (State.modChannel s c g).arb = s.arb := by rfl
@[simp] theorem State.modChannel_fab (s : State) (c : Nat) (g : FlashChannel → FlashChannel) : (State.modChannel s c g).fab = s.fab := by rfl
@[simp] theorem State.modChannel_memb (s : State) (c : Nat) (g : FlashChannel → FlashChannel) : (State.modChannel s c g).memb = s.memb := by rfl
@[simp] theorem State.modChannel_tel (s : State) (c : Nat) (g : FlashChannel → FlashChannel) : (State.modChannel s c g).tel = s.tel := by rfl
@[simp] theorem State.modChannel_out (s : State) (c : Nat) (g : FlashChannel → FlashChannel) : (State.modChannel s c g).out = s.out := by rfl
@[simp] theorem State.modChannel_draws (s : State) (c : Nat) (g : FlashChannel → FlashChannel) : (State.modChannel s c g).draws = s.draws := by rfl
@[simp] theorem State.modChannel_sorts (s : State) (c : Nat) (g : FlashChannel → FlashChannel) : (State.modChannel s c g).sorts = s.sorts := by rfl
@[simp] theorem State.modChannel_tiles (s : State) (c : Nat) (g : FlashChannel → FlashChannel) : (State.modChannel s c g).tiles = s.tiles := by rfl
@[simp] theorem State.modPaddock_clk (s : State) (p : Nat) (g : Paddock → Paddock) : (State.modPaddock s p g).clk = s.clk := by rfl
@[simp] theorem State.modPaddock_node (s : State) (p : Nat) (g : Paddock → Paddock) : (State.modPaddock s p g).node = s.node := by rfl
@[simp] theorem State.modPaddock_funcs (s : State) (p : Nat) (g : Paddock → Paddock) : (State.modPaddock s p g).funcs = s.funcs := by rfl
@[simp] theorem State.modPaddock_links (s : State) (p : Nat) (g : Paddock → Paddock) : (State.modPaddock s p g).links = s.links := by rfl
@[simp] theorem State.modPaddock_mbx (s : State) (p : Nat) (g : Paddock → Paddock) : (State.modPaddock s p g).mbx = s.mbx := by rfl
@[simp] theorem State.modPaddock_ctl (s : State) (p : Nat) (g : Paddock → Paddock) : (State.modPaddock s p g).ctl = s.ctl := by rfl
@[simp] theorem State.modPaddock_changes (s : State) (p : Nat) (g : Paddock → Paddock) : (State.modPaddock s p g).changes = s.changes := by rfl
@[simp] theorem State.modPaddock_gaits (s : State) (p : Nat) (g : Paddock → Paddock) : (State.modPaddock s p g).gaits = s.gaits := by rfl
@[simp] theorem State.modPaddock_contexts (s : State) (p : Nat) (g : Paddock → Paddock) : (State.modPaddock s p g).contexts = s.contexts := by rfl
@[simp] theorem State.modPaddock_mem (s : State) (p : Nat) (g : Paddock → Paddock) : (State.modPaddock s p g).mem = s.mem := by rfl
@[simp] theorem State.modPaddock_rings (s : State) (p : Nat) (g : Paddock → Paddock) : (State.modPaddock s p g).rings = s.rings := by rfl
@[simp] theorem State.modPaddock_queues (s : State) (p : Nat) (g : Paddock → Paddock) : (State.modPaddock s p g).queues = s.queues := by rfl
@[simp] theorem State.modPaddock_indexes (s : State) (p : Nat) (g : Paddock → Paddock) : (State.modPaddock s p g).indexes = s.indexes := by rfl
@[simp] theorem State.modPaddock_tables (s : State) (p : Nat) (g : Paddock → Paddock) : (State.modPaddock s p g).tables = s.tables := by rfl
@[simp] theorem State.modPaddock_programs (s : State) (p : Nat) (g : Paddock → Paddock) : (State.modPaddock s p g).programs = s.programs := by rfl
@[simp] theorem State.modPaddock_work (s : State) (p : Nat) (g : Paddock → Paddock) : (State.modPaddock s p g).work = s.work := by rfl
@[simp] theorem State.modPaddock_nmu (s : State) (p : Nat) (g : Paddock → Paddock) : (State.modPaddock s p g).nmu = s.nmu := by rfl
@[simp] theorem State.modPaddock_arb (s : State) (p : Nat) (g : Paddock → Paddock) : (State.modPaddock s p g).arb = s.arb := by rfl
@[simp] theorem State.modPaddock_fab (s : State) (p : Nat) (g : Paddock → Paddock) : (State.modPaddock s p g).fab = s.fab := by rfl
@[simp] theorem State.modPaddock_memb (s : State) (p : Nat) (g : Paddock → Paddock) : (State.modPaddock s p g).memb = s.memb := by rfl
@[simp] theorem State.modPaddock_tel (s : State) (p : Nat) (g : Paddock → Paddock) : (State.modPaddock s p g).tel = s.tel := by rfl
@[simp] theorem State.modPaddock_out (s : State) (p : Nat) (g : Paddock → Paddock) : (State.modPaddock s p g).out = s.out := by rfl
@[simp] theorem State.modPaddock_draws (s : State) (p : Nat) (g : Paddock → Paddock) : (State.modPaddock s p g).draws = s.draws := by rfl
@[simp] theorem State.modPaddock_sorts (s : State) (p : Nat) (g : Paddock → Paddock) : (State.modPaddock s p g).sorts = s.sorts := by rfl
@[simp] theorem State.modPaddock_tiles (s : State) (p : Nat) (g : Paddock → Paddock) : (State.modPaddock s p g).tiles = s.tiles := by rfl
@[simp] theorem State.modStack_clk (s : State) (stack : Nat) (g : StackCounters → StackCounters) : (State.modStack s stack g).clk = s.clk := by rfl
@[simp] theorem State.modStack_node (s : State) (stack : Nat) (g : StackCounters → StackCounters) : (State.modStack s stack g).node = s.node := by rfl
@[simp] theorem State.modStack_funcs (s : State) (stack : Nat) (g : StackCounters → StackCounters) : (State.modStack s stack g).funcs = s.funcs := by rfl
@[simp] theorem State.modStack_links (s : State) (stack : Nat) (g : StackCounters → StackCounters) : (State.modStack s stack g).links = s.links := by rfl
@[simp] theorem State.modStack_mbx (s : State) (stack : Nat) (g : StackCounters → StackCounters) : (State.modStack s stack g).mbx = s.mbx := by rfl
@[simp] theorem State.modStack_ctl (s : State) (stack : Nat) (g : StackCounters → StackCounters) : (State.modStack s stack g).ctl = s.ctl := by rfl
@[simp] theorem State.modStack_changes (s : State) (stack : Nat) (g : StackCounters → StackCounters) : (State.modStack s stack g).changes = s.changes := by rfl
@[simp] theorem State.modStack_gaits (s : State) (stack : Nat) (g : StackCounters → StackCounters) : (State.modStack s stack g).gaits = s.gaits := by rfl
@[simp] theorem State.modStack_contexts (s : State) (stack : Nat) (g : StackCounters → StackCounters) : (State.modStack s stack g).contexts = s.contexts := by rfl
@[simp] theorem State.modStack_mem (s : State) (stack : Nat) (g : StackCounters → StackCounters) : (State.modStack s stack g).mem = s.mem := by rfl
@[simp] theorem State.modStack_rings (s : State) (stack : Nat) (g : StackCounters → StackCounters) : (State.modStack s stack g).rings = s.rings := by rfl
@[simp] theorem State.modStack_queues (s : State) (stack : Nat) (g : StackCounters → StackCounters) : (State.modStack s stack g).queues = s.queues := by rfl
@[simp] theorem State.modStack_indexes (s : State) (stack : Nat) (g : StackCounters → StackCounters) : (State.modStack s stack g).indexes = s.indexes := by rfl
@[simp] theorem State.modStack_tables (s : State) (stack : Nat) (g : StackCounters → StackCounters) : (State.modStack s stack g).tables = s.tables := by rfl
@[simp] theorem State.modStack_programs (s : State) (stack : Nat) (g : StackCounters → StackCounters) : (State.modStack s stack g).programs = s.programs := by rfl
@[simp] theorem State.modStack_work (s : State) (stack : Nat) (g : StackCounters → StackCounters) : (State.modStack s stack g).work = s.work := by rfl
@[simp] theorem State.modStack_flash (s : State) (stack : Nat) (g : StackCounters → StackCounters) : (State.modStack s stack g).flash = s.flash := by rfl
@[simp] theorem State.modStack_arb (s : State) (stack : Nat) (g : StackCounters → StackCounters) : (State.modStack s stack g).arb = s.arb := by rfl
@[simp] theorem State.modStack_fab (s : State) (stack : Nat) (g : StackCounters → StackCounters) : (State.modStack s stack g).fab = s.fab := by rfl
@[simp] theorem State.modStack_memb (s : State) (stack : Nat) (g : StackCounters → StackCounters) : (State.modStack s stack g).memb = s.memb := by rfl
@[simp] theorem State.modStack_tel (s : State) (stack : Nat) (g : StackCounters → StackCounters) : (State.modStack s stack g).tel = s.tel := by rfl
@[simp] theorem State.modStack_out (s : State) (stack : Nat) (g : StackCounters → StackCounters) : (State.modStack s stack g).out = s.out := by rfl
@[simp] theorem State.modStack_draws (s : State) (stack : Nat) (g : StackCounters → StackCounters) : (State.modStack s stack g).draws = s.draws := by rfl
@[simp] theorem State.modStack_sorts (s : State) (stack : Nat) (g : StackCounters → StackCounters) : (State.modStack s stack g).sorts = s.sorts := by rfl
@[simp] theorem State.modStack_tiles (s : State) (stack : Nat) (g : StackCounters → StackCounters) : (State.modStack s stack g).tiles = s.tiles := by rfl
@[simp] theorem State.modUnit_clk (s : State) (u : Nat) (g : NmuUnit → NmuUnit) : (State.modUnit s u g).clk = s.clk := by rfl
@[simp] theorem State.modUnit_node (s : State) (u : Nat) (g : NmuUnit → NmuUnit) : (State.modUnit s u g).node = s.node := by rfl
@[simp] theorem State.modUnit_funcs (s : State) (u : Nat) (g : NmuUnit → NmuUnit) : (State.modUnit s u g).funcs = s.funcs := by rfl
@[simp] theorem State.modUnit_links (s : State) (u : Nat) (g : NmuUnit → NmuUnit) : (State.modUnit s u g).links = s.links := by rfl
@[simp] theorem State.modUnit_mbx (s : State) (u : Nat) (g : NmuUnit → NmuUnit) : (State.modUnit s u g).mbx = s.mbx := by rfl
@[simp] theorem State.modUnit_ctl (s : State) (u : Nat) (g : NmuUnit → NmuUnit) : (State.modUnit s u g).ctl = s.ctl := by rfl
@[simp] theorem State.modUnit_changes (s : State) (u : Nat) (g : NmuUnit → NmuUnit) : (State.modUnit s u g).changes = s.changes := by rfl
@[simp] theorem State.modUnit_gaits (s : State) (u : Nat) (g : NmuUnit → NmuUnit) : (State.modUnit s u g).gaits = s.gaits := by rfl
@[simp] theorem State.modUnit_contexts (s : State) (u : Nat) (g : NmuUnit → NmuUnit) : (State.modUnit s u g).contexts = s.contexts := by rfl
@[simp] theorem State.modUnit_mem (s : State) (u : Nat) (g : NmuUnit → NmuUnit) : (State.modUnit s u g).mem = s.mem := by rfl
@[simp] theorem State.modUnit_rings (s : State) (u : Nat) (g : NmuUnit → NmuUnit) : (State.modUnit s u g).rings = s.rings := by rfl
@[simp] theorem State.modUnit_queues (s : State) (u : Nat) (g : NmuUnit → NmuUnit) : (State.modUnit s u g).queues = s.queues := by rfl
@[simp] theorem State.modUnit_indexes (s : State) (u : Nat) (g : NmuUnit → NmuUnit) : (State.modUnit s u g).indexes = s.indexes := by rfl
@[simp] theorem State.modUnit_tables (s : State) (u : Nat) (g : NmuUnit → NmuUnit) : (State.modUnit s u g).tables = s.tables := by rfl
@[simp] theorem State.modUnit_programs (s : State) (u : Nat) (g : NmuUnit → NmuUnit) : (State.modUnit s u g).programs = s.programs := by rfl
@[simp] theorem State.modUnit_work (s : State) (u : Nat) (g : NmuUnit → NmuUnit) : (State.modUnit s u g).work = s.work := by rfl
@[simp] theorem State.modUnit_flash (s : State) (u : Nat) (g : NmuUnit → NmuUnit) : (State.modUnit s u g).flash = s.flash := by rfl
@[simp] theorem State.modUnit_arb (s : State) (u : Nat) (g : NmuUnit → NmuUnit) : (State.modUnit s u g).arb = s.arb := by rfl
@[simp] theorem State.modUnit_fab (s : State) (u : Nat) (g : NmuUnit → NmuUnit) : (State.modUnit s u g).fab = s.fab := by rfl
@[simp] theorem State.modUnit_memb (s : State) (u : Nat) (g : NmuUnit → NmuUnit) : (State.modUnit s u g).memb = s.memb := by rfl
@[simp] theorem State.modUnit_tel (s : State) (u : Nat) (g : NmuUnit → NmuUnit) : (State.modUnit s u g).tel = s.tel := by rfl
@[simp] theorem State.modUnit_out (s : State) (u : Nat) (g : NmuUnit → NmuUnit) : (State.modUnit s u g).out = s.out := by rfl
@[simp] theorem State.modUnit_draws (s : State) (u : Nat) (g : NmuUnit → NmuUnit) : (State.modUnit s u g).draws = s.draws := by rfl
@[simp] theorem State.modUnit_sorts (s : State) (u : Nat) (g : NmuUnit → NmuUnit) : (State.modUnit s u g).sorts = s.sorts := by rfl
@[simp] theorem State.modUnit_tiles (s : State) (u : Nat) (g : NmuUnit → NmuUnit) : (State.modUnit s u g).tiles = s.tiles := by rfl
@[simp] theorem State.setSlot_clk (s : State) (n : Nat) (x : GaitSlot) : (State.setSlot s n x).clk = s.clk := by rfl
@[simp] theorem State.setSlot_node (s : State) (n : Nat) (x : GaitSlot) : (State.setSlot s n x).node = s.node := by rfl
@[simp] theorem State.setSlot_funcs (s : State) (n : Nat) (x : GaitSlot) : (State.setSlot s n x).funcs = s.funcs := by rfl
@[simp] theorem State.setSlot_links (s : State) (n : Nat) (x : GaitSlot) : (State.setSlot s n x).links = s.links := by rfl
@[simp] theorem State.setSlot_mbx (s : State) (n : Nat) (x : GaitSlot) : (State.setSlot s n x).mbx = s.mbx := by rfl
@[simp] theorem State.setSlot_ctl (s : State) (n : Nat) (x : GaitSlot) : (State.setSlot s n x).ctl = s.ctl := by rfl
@[simp] theorem State.setSlot_changes (s : State) (n : Nat) (x : GaitSlot) : (State.setSlot s n x).changes = s.changes := by rfl
@[simp] theorem State.setSlot_contexts (s : State) (n : Nat) (x : GaitSlot) : (State.setSlot s n x).contexts = s.contexts := by rfl
@[simp] theorem State.setSlot_mem (s : State) (n : Nat) (x : GaitSlot) : (State.setSlot s n x).mem = s.mem := by rfl
@[simp] theorem State.setSlot_rings (s : State) (n : Nat) (x : GaitSlot) : (State.setSlot s n x).rings = s.rings := by rfl
@[simp] theorem State.setSlot_queues (s : State) (n : Nat) (x : GaitSlot) : (State.setSlot s n x).queues = s.queues := by rfl
@[simp] theorem State.setSlot_indexes (s : State) (n : Nat) (x : GaitSlot) : (State.setSlot s n x).indexes = s.indexes := by rfl
@[simp] theorem State.setSlot_tables (s : State) (n : Nat) (x : GaitSlot) : (State.setSlot s n x).tables = s.tables := by rfl
@[simp] theorem State.setSlot_programs (s : State) (n : Nat) (x : GaitSlot) : (State.setSlot s n x).programs = s.programs := by rfl
@[simp] theorem State.setSlot_work (s : State) (n : Nat) (x : GaitSlot) : (State.setSlot s n x).work = s.work := by rfl
@[simp] theorem State.setSlot_flash (s : State) (n : Nat) (x : GaitSlot) : (State.setSlot s n x).flash = s.flash := by rfl
@[simp] theorem State.setSlot_nmu (s : State) (n : Nat) (x : GaitSlot) : (State.setSlot s n x).nmu = s.nmu := by rfl
@[simp] theorem State.setSlot_arb (s : State) (n : Nat) (x : GaitSlot) : (State.setSlot s n x).arb = s.arb := by rfl
@[simp] theorem State.setSlot_fab (s : State) (n : Nat) (x : GaitSlot) : (State.setSlot s n x).fab = s.fab := by rfl
@[simp] theorem State.setSlot_memb (s : State) (n : Nat) (x : GaitSlot) : (State.setSlot s n x).memb = s.memb := by rfl
@[simp] theorem State.setSlot_tel (s : State) (n : Nat) (x : GaitSlot) : (State.setSlot s n x).tel = s.tel := by rfl
@[simp] theorem State.setSlot_out (s : State) (n : Nat) (x : GaitSlot) : (State.setSlot s n x).out = s.out := by rfl
@[simp] theorem State.setSlot_draws (s : State) (n : Nat) (x : GaitSlot) : (State.setSlot s n x).draws = s.draws := by rfl
@[simp] theorem State.setSlot_sorts (s : State) (n : Nat) (x : GaitSlot) : (State.setSlot s n x).sorts = s.sorts := by rfl
@[simp] theorem State.setSlot_tiles (s : State) (n : Nat) (x : GaitSlot) : (State.setSlot s n x).tiles = s.tiles := by rfl
@[simp] theorem State.modQuery_clk (s : State) (h : Nat) (g : Query → Query) : (State.modQuery s h g).clk = s.clk := by rfl
@[simp] theorem State.modQuery_node (s : State) (h : Nat) (g : Query → Query) : (State.modQuery s h g).node = s.node := by rfl
@[simp] theorem State.modQuery_funcs (s : State) (h : Nat) (g : Query → Query) : (State.modQuery s h g).funcs = s.funcs := by rfl
@[simp] theorem State.modQuery_links (s : State) (h : Nat) (g : Query → Query) : (State.modQuery s h g).links = s.links := by rfl
@[simp] theorem State.modQuery_mbx (s : State) (h : Nat) (g : Query → Query) : (State.modQuery s h g).mbx = s.mbx := by rfl
@[simp] theorem State.modQuery_ctl (s : State) (h : Nat) (g : Query → Query) : (State.modQuery s h g).ctl = s.ctl := by rfl
@[simp] theorem State.modQuery_changes (s : State) (h : Nat) (g : Query → Query) : (State.modQuery s h g).changes = s.changes := by rfl
@[simp] theorem State.modQuery_gaits (s : State) (h : Nat) (g : Query → Query) : (State.modQuery s h g).gaits = s.gaits := by rfl
@[simp] theorem State.modQuery_contexts (s : State) (h : Nat) (g : Query → Query) : (State.modQuery s h g).contexts = s.contexts := by rfl
@[simp] theorem State.modQuery_mem (s : State) (h : Nat) (g : Query → Query) : (State.modQuery s h g).mem = s.mem := by rfl
@[simp] theorem State.modQuery_rings (s : State) (h : Nat) (g : Query → Query) : (State.modQuery s h g).rings = s.rings := by rfl
@[simp] theorem State.modQuery_queues (s : State) (h : Nat) (g : Query → Query) : (State.modQuery s h g).queues = s.queues := by rfl
@[simp] theorem State.modQuery_indexes (s : State) (h : Nat) (g : Query → Query) : (State.modQuery s h g).indexes = s.indexes := by rfl
@[simp] theorem State.modQuery_tables (s : State) (h : Nat) (g : Query → Query) : (State.modQuery s h g).tables = s.tables := by rfl
@[simp] theorem State.modQuery_programs (s : State) (h : Nat) (g : Query → Query) : (State.modQuery s h g).programs = s.programs := by rfl
@[simp] theorem State.modQuery_flash (s : State) (h : Nat) (g : Query → Query) : (State.modQuery s h g).flash = s.flash := by rfl
@[simp] theorem State.modQuery_nmu (s : State) (h : Nat) (g : Query → Query) : (State.modQuery s h g).nmu = s.nmu := by rfl
@[simp] theorem State.modQuery_arb (s : State) (h : Nat) (g : Query → Query) : (State.modQuery s h g).arb = s.arb := by rfl
@[simp] theorem State.modQuery_fab (s : State) (h : Nat) (g : Query → Query) : (State.modQuery s h g).fab = s.fab := by rfl
@[simp] theorem State.modQuery_memb (s : State) (h : Nat) (g : Query → Query) : (State.modQuery s h g).memb = s.memb := by rfl
@[simp] theorem State.modQuery_tel (s : State) (h : Nat) (g : Query → Query) : (State.modQuery s h g).tel = s.tel := by rfl
@[simp] theorem State.modQuery_out (s : State) (h : Nat) (g : Query → Query) : (State.modQuery s h g).out = s.out := by rfl
@[simp] theorem State.modQuery_draws (s : State) (h : Nat) (g : Query → Query) : (State.modQuery s h g).draws = s.draws := by rfl
@[simp] theorem State.modQuery_sorts (s : State) (h : Nat) (g : Query → Query) : (State.modQuery s h g).sorts = s.sorts := by rfl
@[simp] theorem State.modQuery_tiles (s : State) (h : Nat) (g : Query → Query) : (State.modQuery s h g).tiles = s.tiles := by rfl
@[simp] theorem State.modSearch_clk (s : State) (key : Nat) (g : Search → Search) : (State.modSearch s key g).clk = s.clk := by rfl
@[simp] theorem State.modSearch_node (s : State) (key : Nat) (g : Search → Search) : (State.modSearch s key g).node = s.node := by rfl
@[simp] theorem State.modSearch_funcs (s : State) (key : Nat) (g : Search → Search) : (State.modSearch s key g).funcs = s.funcs := by rfl
@[simp] theorem State.modSearch_links (s : State) (key : Nat) (g : Search → Search) : (State.modSearch s key g).links = s.links := by rfl
@[simp] theorem State.modSearch_mbx (s : State) (key : Nat) (g : Search → Search) : (State.modSearch s key g).mbx = s.mbx := by rfl
@[simp] theorem State.modSearch_ctl (s : State) (key : Nat) (g : Search → Search) : (State.modSearch s key g).ctl = s.ctl := by rfl
@[simp] theorem State.modSearch_changes (s : State) (key : Nat) (g : Search → Search) : (State.modSearch s key g).changes = s.changes := by rfl
@[simp] theorem State.modSearch_gaits (s : State) (key : Nat) (g : Search → Search) : (State.modSearch s key g).gaits = s.gaits := by rfl
@[simp] theorem State.modSearch_contexts (s : State) (key : Nat) (g : Search → Search) : (State.modSearch s key g).contexts = s.contexts := by rfl
@[simp] theorem State.modSearch_mem (s : State) (key : Nat) (g : Search → Search) : (State.modSearch s key g).mem = s.mem := by rfl
@[simp] theorem State.modSearch_rings (s : State) (key : Nat) (g : Search → Search) : (State.modSearch s key g).rings = s.rings := by rfl
@[simp] theorem State.modSearch_queues (s : State) (key : Nat) (g : Search → Search) : (State.modSearch s key g).queues = s.queues := by rfl
@[simp] theorem State.modSearch_indexes (s : State) (key : Nat) (g : Search → Search) : (State.modSearch s key g).indexes = s.indexes := by rfl
@[simp] theorem State.modSearch_tables (s : State) (key : Nat) (g : Search → Search) : (State.modSearch s key g).tables = s.tables := by rfl
@[simp] theorem State.modSearch_programs (s : State) (key : Nat) (g : Search → Search) : (State.modSearch s key g).programs = s.programs := by rfl
@[simp] theorem State.modSearch_flash (s : State) (key : Nat) (g : Search → Search) : (State.modSearch s key g).flash = s.flash := by rfl
@[simp] theorem State.modSearch_nmu (s : State) (key : Nat) (g : Search → Search) : (State.modSearch s key g).nmu = s.nmu := by rfl
@[simp] theorem State.modSearch_arb (s : State) (key : Nat) (g : Search → Search) : (State.modSearch s key g).arb = s.arb := by rfl
@[simp] theorem State.modSearch_fab (s : State) (key : Nat) (g : Search → Search) : (State.modSearch s key g).fab = s.fab := by rfl
@[simp] theorem State.modSearch_memb (s : State) (key : Nat) (g : Search → Search) : (State.modSearch s key g).memb = s.memb := by rfl
@[simp] theorem State.modSearch_tel (s : State) (key : Nat) (g : Search → Search) : (State.modSearch s key g).tel = s.tel := by rfl
@[simp] theorem State.modSearch_out (s : State) (key : Nat) (g : Search → Search) : (State.modSearch s key g).out = s.out := by rfl
@[simp] theorem State.modSearch_draws (s : State) (key : Nat) (g : Search → Search) : (State.modSearch s key g).draws = s.draws := by rfl
@[simp] theorem State.modSearch_sorts (s : State) (key : Nat) (g : Search → Search) : (State.modSearch s key g).sorts = s.sorts := by rfl
@[simp] theorem State.modSearch_tiles (s : State) (key : Nat) (g : Search → Search) : (State.modSearch s key g).tiles = s.tiles := by rfl
@[simp] theorem State.modMemb_clk (s : State) (g : Membership → Membership) : (State.modMemb s g).clk = s.clk := by rfl
@[simp] theorem State.modMemb_node (s : State) (g : Membership → Membership) : (State.modMemb s g).node = s.node := by rfl
@[simp] theorem State.modMemb_funcs (s : State) (g : Membership → Membership) : (State.modMemb s g).funcs = s.funcs := by rfl
@[simp] theorem State.modMemb_links (s : State) (g : Membership → Membership) : (State.modMemb s g).links = s.links := by rfl
@[simp] theorem State.modMemb_mbx (s : State) (g : Membership → Membership) : (State.modMemb s g).mbx = s.mbx := by rfl
@[simp] theorem State.modMemb_ctl (s : State) (g : Membership → Membership) : (State.modMemb s g).ctl = s.ctl := by rfl
@[simp] theorem State.modMemb_changes (s : State) (g : Membership → Membership) : (State.modMemb s g).changes = s.changes := by rfl
@[simp] theorem State.modMemb_gaits (s : State) (g : Membership → Membership) : (State.modMemb s g).gaits = s.gaits := by rfl
@[simp] theorem State.modMemb_contexts (s : State) (g : Membership → Membership) : (State.modMemb s g).contexts = s.contexts := by rfl
@[simp] theorem State.modMemb_mem (s : State) (g : Membership → Membership) : (State.modMemb s g).mem = s.mem := by rfl
@[simp] theorem State.modMemb_rings (s : State) (g : Membership → Membership) : (State.modMemb s g).rings = s.rings := by rfl
@[simp] theorem State.modMemb_queues (s : State) (g : Membership → Membership) : (State.modMemb s g).queues = s.queues := by rfl
@[simp] theorem State.modMemb_indexes (s : State) (g : Membership → Membership) : (State.modMemb s g).indexes = s.indexes := by rfl
@[simp] theorem State.modMemb_tables (s : State) (g : Membership → Membership) : (State.modMemb s g).tables = s.tables := by rfl
@[simp] theorem State.modMemb_programs (s : State) (g : Membership → Membership) : (State.modMemb s g).programs = s.programs := by rfl
@[simp] theorem State.modMemb_work (s : State) (g : Membership → Membership) : (State.modMemb s g).work = s.work := by rfl
@[simp] theorem State.modMemb_flash (s : State) (g : Membership → Membership) : (State.modMemb s g).flash = s.flash := by rfl
@[simp] theorem State.modMemb_nmu (s : State) (g : Membership → Membership) : (State.modMemb s g).nmu = s.nmu := by rfl
@[simp] theorem State.modMemb_arb (s : State) (g : Membership → Membership) : (State.modMemb s g).arb = s.arb := by rfl
@[simp] theorem State.modMemb_fab (s : State) (g : Membership → Membership) : (State.modMemb s g).fab = s.fab := by rfl
@[simp] theorem State.modMemb_tel (s : State) (g : Membership → Membership) : (State.modMemb s g).tel = s.tel := by rfl
@[simp] theorem State.modMemb_out (s : State) (g : Membership → Membership) : (State.modMemb s g).out = s.out := by rfl
@[simp] theorem State.modMemb_draws (s : State) (g : Membership → Membership) : (State.modMemb s g).draws = s.draws := by rfl
@[simp] theorem State.modMemb_sorts (s : State) (g : Membership → Membership) : (State.modMemb s g).sorts = s.sorts := by rfl
@[simp] theorem State.modMemb_tiles (s : State) (g : Membership → Membership) : (State.modMemb s g).tiles = s.tiles := by rfl
@[simp] theorem State.hbmWrite_clk (s : State) (a : Nat) (b : Bytes) : (State.hbmWrite s a b).clk = s.clk := by rfl
@[simp] theorem State.hbmWrite_node (s : State) (a : Nat) (b : Bytes) : (State.hbmWrite s a b).node = s.node := by rfl
@[simp] theorem State.hbmWrite_funcs (s : State) (a : Nat) (b : Bytes) : (State.hbmWrite s a b).funcs = s.funcs := by rfl
@[simp] theorem State.hbmWrite_links (s : State) (a : Nat) (b : Bytes) : (State.hbmWrite s a b).links = s.links := by rfl
@[simp] theorem State.hbmWrite_mbx (s : State) (a : Nat) (b : Bytes) : (State.hbmWrite s a b).mbx = s.mbx := by rfl
@[simp] theorem State.hbmWrite_ctl (s : State) (a : Nat) (b : Bytes) : (State.hbmWrite s a b).ctl = s.ctl := by rfl
@[simp] theorem State.hbmWrite_changes (s : State) (a : Nat) (b : Bytes) : (State.hbmWrite s a b).changes = s.changes := by rfl
@[simp] theorem State.hbmWrite_gaits (s : State) (a : Nat) (b : Bytes) : (State.hbmWrite s a b).gaits = s.gaits := by rfl
@[simp] theorem State.hbmWrite_contexts (s : State) (a : Nat) (b : Bytes) : (State.hbmWrite s a b).contexts = s.contexts := by rfl
@[simp] theorem State.hbmWrite_rings (s : State) (a : Nat) (b : Bytes) : (State.hbmWrite s a b).rings = s.rings := by rfl
@[simp] theorem State.hbmWrite_queues (s : State) (a : Nat) (b : Bytes) : (State.hbmWrite s a b).queues = s.queues := by rfl
@[simp] theorem State.hbmWrite_indexes (s : State) (a : Nat) (b : Bytes) : (State.hbmWrite s a b).indexes = s.indexes := by rfl
@[simp] theorem State.hbmWrite_tables (s : State) (a : Nat) (b : Bytes) : (State.hbmWrite s a b).tables = s.tables := by rfl
@[simp] theorem State.hbmWrite_programs (s : State) (a : Nat) (b : Bytes) : (State.hbmWrite s a b).programs = s.programs := by rfl
@[simp] theorem State.hbmWrite_work (s : State) (a : Nat) (b : Bytes) : (State.hbmWrite s a b).work = s.work := by rfl
@[simp] theorem State.hbmWrite_flash (s : State) (a : Nat) (b : Bytes) : (State.hbmWrite s a b).flash = s.flash := by rfl
@[simp] theorem State.hbmWrite_nmu (s : State) (a : Nat) (b : Bytes) : (State.hbmWrite s a b).nmu = s.nmu := by rfl
@[simp] theorem State.hbmWrite_arb (s : State) (a : Nat) (b : Bytes) : (State.hbmWrite s a b).arb = s.arb := by rfl
@[simp] theorem State.hbmWrite_fab (s : State) (a : Nat) (b : Bytes) : (State.hbmWrite s a b).fab = s.fab := by rfl
@[simp] theorem State.hbmWrite_memb (s : State) (a : Nat) (b : Bytes) : (State.hbmWrite s a b).memb = s.memb := by rfl
@[simp] theorem State.hbmWrite_tel (s : State) (a : Nat) (b : Bytes) : (State.hbmWrite s a b).tel = s.tel := by rfl
@[simp] theorem State.hbmWrite_out (s : State) (a : Nat) (b : Bytes) : (State.hbmWrite s a b).out = s.out := by rfl
@[simp] theorem State.hbmWrite_draws (s : State) (a : Nat) (b : Bytes) : (State.hbmWrite s a b).draws = s.draws := by rfl
@[simp] theorem State.hbmWrite_sorts (s : State) (a : Nat) (b : Bytes) : (State.hbmWrite s a b).sorts = s.sorts := by rfl
@[simp] theorem State.hbmWrite_tiles (s : State) (a : Nat) (b : Bytes) : (State.hbmWrite s a b).tiles = s.tiles := by rfl
@[simp] theorem State.sendWith_clk (s : State) (cls dest : Nat) (body aside : Bytes) : (State.sendWith s cls dest body aside).clk = s.clk := by unfold State.sendWith; simp only []; (repeat' split) <;> simp
@[simp] theorem State.sendWith_node (s : State) (cls dest : Nat) (body aside : Bytes) : (State.sendWith s cls dest body aside).node = s.node := by unfold State.sendWith; simp only []; (repeat' split) <;> simp
@[simp] theorem State.sendWith_funcs (s : State) (cls dest : Nat) (body aside : Bytes) : (State.sendWith s cls dest body aside).funcs = s.funcs := by unfold State.sendWith; simp only []; (repeat' split) <;> simp
@[simp] theorem State.sendWith_links (s : State) (cls dest : Nat) (body aside : Bytes) : (State.sendWith s cls dest body aside).links = s.links := by unfold State.sendWith; simp only []; (repeat' split) <;> simp
@[simp] theorem State.sendWith_mbx (s : State) (cls dest : Nat) (body aside : Bytes) : (State.sendWith s cls dest body aside).mbx = s.mbx := by unfold State.sendWith; simp only []; (repeat' split) <;> simp
@[simp] theorem State.sendWith_ctl (s : State) (cls dest : Nat) (body aside : Bytes) : (State.sendWith s cls dest body aside).ctl = s.ctl := by unfold State.sendWith; simp only []; (repeat' split) <;> simp
@[simp] theorem State.sendWith_changes (s : State) (cls dest : Nat) (body aside : Bytes) : (State.sendWith s cls dest body aside).changes = s.changes := by unfold State.sendWith; simp only []; (repeat' split) <;> simp
@[simp] theorem State.sendWith_gaits (s : State) (cls dest : Nat) (body aside : Bytes) : (State.sendWith s cls dest body aside).gaits = s.gaits := by unfold State.sendWith; simp only []; (repeat' split) <;> simp
@[simp] theorem State.sendWith_contexts (s : State) (cls dest : Nat) (body aside : Bytes) : (State.sendWith s cls dest body aside).contexts = s.contexts := by unfold State.sendWith; simp only []; (repeat' split) <;> simp
@[simp] theorem State.sendWith_mem (s : State) (cls dest : Nat) (body aside : Bytes) : (State.sendWith s cls dest body aside).mem = s.mem := by unfold State.sendWith; simp only []; (repeat' split) <;> simp
@[simp] theorem State.sendWith_rings (s : State) (cls dest : Nat) (body aside : Bytes) : (State.sendWith s cls dest body aside).rings = s.rings := by unfold State.sendWith; simp only []; (repeat' split) <;> simp
@[simp] theorem State.sendWith_queues (s : State) (cls dest : Nat) (body aside : Bytes) : (State.sendWith s cls dest body aside).queues = s.queues := by unfold State.sendWith; simp only []; (repeat' split) <;> simp
@[simp] theorem State.sendWith_indexes (s : State) (cls dest : Nat) (body aside : Bytes) : (State.sendWith s cls dest body aside).indexes = s.indexes := by unfold State.sendWith; simp only []; (repeat' split) <;> simp
@[simp] theorem State.sendWith_tables (s : State) (cls dest : Nat) (body aside : Bytes) : (State.sendWith s cls dest body aside).tables = s.tables := by unfold State.sendWith; simp only []; (repeat' split) <;> simp
@[simp] theorem State.sendWith_programs (s : State) (cls dest : Nat) (body aside : Bytes) : (State.sendWith s cls dest body aside).programs = s.programs := by unfold State.sendWith; simp only []; (repeat' split) <;> simp
@[simp] theorem State.sendWith_work (s : State) (cls dest : Nat) (body aside : Bytes) : (State.sendWith s cls dest body aside).work = s.work := by unfold State.sendWith; simp only []; (repeat' split) <;> simp
@[simp] theorem State.sendWith_flash (s : State) (cls dest : Nat) (body aside : Bytes) : (State.sendWith s cls dest body aside).flash = s.flash := by unfold State.sendWith; simp only []; (repeat' split) <;> simp
@[simp] theorem State.sendWith_nmu (s : State) (cls dest : Nat) (body aside : Bytes) : (State.sendWith s cls dest body aside).nmu = s.nmu := by unfold State.sendWith; simp only []; (repeat' split) <;> simp
@[simp] theorem State.sendWith_arb (s : State) (cls dest : Nat) (body aside : Bytes) : (State.sendWith s cls dest body aside).arb = s.arb := by unfold State.sendWith; simp only []; (repeat' split) <;> simp
@[simp] theorem State.sendWith_memb (s : State) (cls dest : Nat) (body aside : Bytes) : (State.sendWith s cls dest body aside).memb = s.memb := by unfold State.sendWith; simp only []; (repeat' split) <;> simp
@[simp] theorem State.sendWith_draws (s : State) (cls dest : Nat) (body aside : Bytes) : (State.sendWith s cls dest body aside).draws = s.draws := by unfold State.sendWith; simp only []; (repeat' split) <;> simp
@[simp] theorem State.sendWith_sorts (s : State) (cls dest : Nat) (body aside : Bytes) : (State.sendWith s cls dest body aside).sorts = s.sorts := by unfold State.sendWith; simp only []; (repeat' split) <;> simp
@[simp] theorem State.sendWith_tiles (s : State) (cls dest : Nat) (body aside : Bytes) : (State.sendWith s cls dest body aside).tiles = s.tiles := by unfold State.sendWith; simp only []; (repeat' split) <;> simp
@[simp] theorem State.send_clk (s : State) (cls dest : Nat) (body : Bytes) : (State.send s cls dest body).clk = s.clk := by simp [State.send]
@[simp] theorem State.send_node (s : State) (cls dest : Nat) (body : Bytes) : (State.send s cls dest body).node = s.node := by simp [State.send]
@[simp] theorem State.send_funcs (s : State) (cls dest : Nat) (body : Bytes) : (State.send s cls dest body).funcs = s.funcs := by simp [State.send]
@[simp] theorem State.send_links (s : State) (cls dest : Nat) (body : Bytes) : (State.send s cls dest body).links = s.links := by simp [State.send]
@[simp] theorem State.send_mbx (s : State) (cls dest : Nat) (body : Bytes) : (State.send s cls dest body).mbx = s.mbx := by simp [State.send]
@[simp] theorem State.send_ctl (s : State) (cls dest : Nat) (body : Bytes) : (State.send s cls dest body).ctl = s.ctl := by simp [State.send]
@[simp] theorem State.send_changes (s : State) (cls dest : Nat) (body : Bytes) : (State.send s cls dest body).changes = s.changes := by simp [State.send]
@[simp] theorem State.send_gaits (s : State) (cls dest : Nat) (body : Bytes) : (State.send s cls dest body).gaits = s.gaits := by simp [State.send]
@[simp] theorem State.send_contexts (s : State) (cls dest : Nat) (body : Bytes) : (State.send s cls dest body).contexts = s.contexts := by simp [State.send]
@[simp] theorem State.send_mem (s : State) (cls dest : Nat) (body : Bytes) : (State.send s cls dest body).mem = s.mem := by simp [State.send]
@[simp] theorem State.send_rings (s : State) (cls dest : Nat) (body : Bytes) : (State.send s cls dest body).rings = s.rings := by simp [State.send]
@[simp] theorem State.send_queues (s : State) (cls dest : Nat) (body : Bytes) : (State.send s cls dest body).queues = s.queues := by simp [State.send]
@[simp] theorem State.send_indexes (s : State) (cls dest : Nat) (body : Bytes) : (State.send s cls dest body).indexes = s.indexes := by simp [State.send]
@[simp] theorem State.send_tables (s : State) (cls dest : Nat) (body : Bytes) : (State.send s cls dest body).tables = s.tables := by simp [State.send]
@[simp] theorem State.send_programs (s : State) (cls dest : Nat) (body : Bytes) : (State.send s cls dest body).programs = s.programs := by simp [State.send]
@[simp] theorem State.send_work (s : State) (cls dest : Nat) (body : Bytes) : (State.send s cls dest body).work = s.work := by simp [State.send]
@[simp] theorem State.send_flash (s : State) (cls dest : Nat) (body : Bytes) : (State.send s cls dest body).flash = s.flash := by simp [State.send]
@[simp] theorem State.send_nmu (s : State) (cls dest : Nat) (body : Bytes) : (State.send s cls dest body).nmu = s.nmu := by simp [State.send]
@[simp] theorem State.send_arb (s : State) (cls dest : Nat) (body : Bytes) : (State.send s cls dest body).arb = s.arb := by simp [State.send]
@[simp] theorem State.send_memb (s : State) (cls dest : Nat) (body : Bytes) : (State.send s cls dest body).memb = s.memb := by simp [State.send]
@[simp] theorem State.send_draws (s : State) (cls dest : Nat) (body : Bytes) : (State.send s cls dest body).draws = s.draws := by simp [State.send]
@[simp] theorem State.send_sorts (s : State) (cls dest : Nat) (body : Bytes) : (State.send s cls dest body).sorts = s.sorts := by simp [State.send]
@[simp] theorem State.send_tiles (s : State) (cls dest : Nat) (body : Bytes) : (State.send s cls dest body).tiles = s.tiles := by simp [State.send]
@[simp] theorem defer_clk (s : State) (e : Event) (q : Request) (adopted : Nat) : (defer s e q adopted).clk = s.clk := by rfl
@[simp] theorem defer_node (s : State) (e : Event) (q : Request) (adopted : Nat) : (defer s e q adopted).node = s.node := by rfl
@[simp] theorem defer_funcs (s : State) (e : Event) (q : Request) (adopted : Nat) : (defer s e q adopted).funcs = s.funcs := by rfl
@[simp] theorem defer_links (s : State) (e : Event) (q : Request) (adopted : Nat) : (defer s e q adopted).links = s.links := by rfl
@[simp] theorem defer_mbx (s : State) (e : Event) (q : Request) (adopted : Nat) : (defer s e q adopted).mbx = s.mbx := by rfl
@[simp] theorem defer_changes (s : State) (e : Event) (q : Request) (adopted : Nat) : (defer s e q adopted).changes = s.changes := by rfl
@[simp] theorem defer_gaits (s : State) (e : Event) (q : Request) (adopted : Nat) : (defer s e q adopted).gaits = s.gaits := by rfl
@[simp] theorem defer_contexts (s : State) (e : Event) (q : Request) (adopted : Nat) : (defer s e q adopted).contexts = s.contexts := by rfl
@[simp] theorem defer_mem (s : State) (e : Event) (q : Request) (adopted : Nat) : (defer s e q adopted).mem = s.mem := by rfl
@[simp] theorem defer_rings (s : State) (e : Event) (q : Request) (adopted : Nat) : (defer s e q adopted).rings = s.rings := by rfl
@[simp] theorem defer_queues (s : State) (e : Event) (q : Request) (adopted : Nat) : (defer s e q adopted).queues = s.queues := by rfl
@[simp] theorem defer_indexes (s : State) (e : Event) (q : Request) (adopted : Nat) : (defer s e q adopted).indexes = s.indexes := by rfl
@[simp] theorem defer_tables (s : State) (e : Event) (q : Request) (adopted : Nat) : (defer s e q adopted).tables = s.tables := by rfl
@[simp] theorem defer_programs (s : State) (e : Event) (q : Request) (adopted : Nat) : (defer s e q adopted).programs = s.programs := by rfl
@[simp] theorem defer_work (s : State) (e : Event) (q : Request) (adopted : Nat) : (defer s e q adopted).work = s.work := by rfl
@[simp] theorem defer_flash (s : State) (e : Event) (q : Request) (adopted : Nat) : (defer s e q adopted).flash = s.flash := by rfl
@[simp] theorem defer_nmu (s : State) (e : Event) (q : Request) (adopted : Nat) : (defer s e q adopted).nmu = s.nmu := by rfl
@[simp] theorem defer_arb (s : State) (e : Event) (q : Request) (adopted : Nat) : (defer s e q adopted).arb = s.arb := by rfl
@[simp] theorem defer_fab (s : State) (e : Event) (q : Request) (adopted : Nat) : (defer s e q adopted).fab = s.fab := by rfl
@[simp] theorem defer_memb (s : State) (e : Event) (q : Request) (adopted : Nat) : (defer s e q adopted).memb = s.memb := by rfl
@[simp] theorem defer_tel (s : State) (e : Event) (q : Request) (adopted : Nat) : (defer s e q adopted).tel = s.tel := by rfl
@[simp] theorem defer_out (s : State) (e : Event) (q : Request) (adopted : Nat) : (defer s e q adopted).out = s.out := by rfl
@[simp] theorem defer_draws (s : State) (e : Event) (q : Request) (adopted : Nat) : (defer s e q adopted).draws = s.draws := by rfl
@[simp] theorem defer_sorts (s : State) (e : Event) (q : Request) (adopted : Nat) : (defer s e q adopted).sorts = s.sorts := by rfl
@[simp] theorem defer_tiles (s : State) (e : Event) (q : Request) (adopted : Nat) : (defer s e q adopted).tiles = s.tiles := by rfl

/-! ## Registers and mailboxes that an operation leaves -/

@[simp] theorem State.modFunc_mailbox (s : State) (f : Nat) (g : FuncRegs → FuncRegs) (i' : Nat) : (State.modFunc s f g).mailbox i' = s.mailbox i' := by simp [State.mailbox]
@[simp] theorem State.modMailbox_func (s : State) (f : Nat) (g : Mailbox → Mailbox) (i' : Nat) : (State.modMailbox s f g).func i' = s.func i' := by simp [State.func]
@[simp] theorem State.modLink_func (s : State) (l : Nat) (g : Link → Link) (i' : Nat) : (State.modLink s l g).func i' = s.func i' := by simp [State.func]
@[simp] theorem State.modLink_mailbox (s : State) (l : Nat) (g : Link → Link) (i' : Nat) : (State.modLink s l g).mailbox i' = s.mailbox i' := by simp [State.mailbox]
@[simp] theorem State.modPort_func (s : State) (p : Nat) (g : Port → Port) (i' : Nat) : (State.modPort s p g).func i' = s.func i' := by simp [State.func]
@[simp] theorem State.modPort_mailbox (s : State) (p : Nat) (g : Port → Port) (i' : Nat) : (State.modPort s p g).mailbox i' = s.mailbox i' := by simp [State.mailbox]
@[simp] theorem State.emit_func (s : State) (cls dest : Nat) (body aside : Bytes) (i' : Nat) : (State.emit s cls dest body aside).func i' = s.func i' := by simp [State.func]
@[simp] theorem State.emit_mailbox (s : State) (cls dest : Nat) (body aside : Bytes) (i' : Nat) : (State.emit s cls dest body aside).mailbox i' = s.mailbox i' := by simp [State.mailbox]
@[simp] theorem State.sendPort_func (s : State) (cls port : Nat) (body : Bytes) (i' : Nat) : (State.sendPort s cls port body).func i' = s.func i' := by simp [State.func]
@[simp] theorem State.sendPort_mailbox (s : State) (cls port : Nat) (body : Bytes) (i' : Nat) : (State.sendPort s cls port body).mailbox i' = s.mailbox i' := by simp [State.mailbox]
@[simp] theorem State.dma_func (s : State) (f address : Nat) (body : Bytes) (i' : Nat) : (State.dma s f address body).func i' = s.func i' := by simp [State.func]
@[simp] theorem State.dma_mailbox (s : State) (f address : Nat) (body : Bytes) (i' : Nat) : (State.dma s f address body).mailbox i' = s.mailbox i' := by simp [State.mailbox]
@[simp] theorem State.vector_mailbox (s : State) (f v : Nat) (i' : Nat) : (State.vector s f v).mailbox i' = s.mailbox i' := by simp [State.mailbox]
@[simp] theorem State.pldm_func (s : State) (kind subject stride : Nat) (i' : Nat) : (State.pldm s kind subject stride).func i' = s.func i' := by simp [State.func]
@[simp] theorem State.pldm_mailbox (s : State) (kind subject stride : Nat) (i' : Nat) : (State.pldm s kind subject stride).mailbox i' = s.mailbox i' := by simp [State.mailbox]
@[simp] theorem State.mctpReply_func (s : State) (body : Bytes) (i' : Nat) : (State.mctpReply s body).func i' = s.func i' := by simp [State.func]
@[simp] theorem State.mctpReply_mailbox (s : State) (body : Bytes) (i' : Nat) : (State.mctpReply s body).mailbox i' = s.mailbox i' := by simp [State.mailbox]
@[simp] theorem State.pcie_func (s : State) (f status : Nat) (data : Bytes) (i' : Nat) : (State.pcie s f status data).func i' = s.func i' := by simp [State.func]
@[simp] theorem State.pcie_mailbox (s : State) (f status : Nat) (data : Bytes) (i' : Nat) : (State.pcie s f status data).mailbox i' = s.mailbox i' := by simp [State.mailbox]
@[simp] theorem State.cause_mailbox (s : State) (f bit : Nat) (i' : Nat) : (State.cause s f bit).mailbox i' = s.mailbox i' := by simp [State.mailbox]
@[simp] theorem State.schedule_func (s : State) (c : Change) (i' : Nat) : (State.schedule s c).func i' = s.func i' := by simp [State.func]
@[simp] theorem State.schedule_mailbox (s : State) (c : Change) (i' : Nat) : (State.schedule s c).mailbox i' = s.mailbox i' := by simp [State.mailbox]
@[simp] theorem State.reply_func (s : State) (q : Request) (status stamp : Nat) (payload : Bytes) (i' : Nat) : (State.reply s q status stamp payload).func i' = s.func i' := by simp [State.func]
@[simp] theorem State.note_func (s : State) (f opcode context tag status stamp : Nat) (payload : Bytes) (i' : Nat) : (State.note s f opcode context tag status stamp payload).func i' = s.func i' := by simp [State.func]
@[simp] theorem State.draw_func (s : State) (i' : Nat) : (State.draw s).func i' = s.func i' := by simp [State.func]
@[simp] theorem State.draw_mailbox (s : State) (i' : Nat) : (State.draw s).mailbox i' = s.mailbox i' := by simp [State.mailbox]
@[simp] theorem State.drawN_func (s : State) (n : Nat) (i' : Nat) : (State.drawN s n).func i' = s.func i' := by simp [State.func]
@[simp] theorem State.drawN_mailbox (s : State) (n : Nat) (i' : Nat) : (State.drawN s n).mailbox i' = s.mailbox i' := by simp [State.mailbox]
@[simp] theorem State.count_func (s : State) (g : NodeCounters → NodeCounters) (i' : Nat) : (State.count s g).func i' = s.func i' := by simp [State.func]
@[simp] theorem State.count_mailbox (s : State) (g : NodeCounters → NodeCounters) (i' : Nat) : (State.count s g).mailbox i' = s.mailbox i' := by simp [State.mailbox]
@[simp] theorem State.ctxCount_func (s : State) (context : Nat) (g : ContextCounters → ContextCounters) (i' : Nat) : (State.ctxCount s context g).func i' = s.func i' := by simp [State.func]
@[simp] theorem State.ctxCount_mailbox (s : State) (context : Nat) (g : ContextCounters → ContextCounters) (i' : Nat) : (State.ctxCount s context g).mailbox i' = s.mailbox i' := by simp [State.mailbox]
@[simp] theorem State.tagFault_func (s : State) (context : Nat) (i' : Nat) : (State.tagFault s context).func i' = s.func i' := by simp [State.func]
@[simp] theorem State.tagFault_mailbox (s : State) (context : Nat) (i' : Nat) : (State.tagFault s context).mailbox i' = s.mailbox i' := by simp [State.mailbox]
@[simp] theorem State.takeTag_func (s : State) (t : Nat) (i' : Nat) : (State.takeTag s t).func i' = s.func i' := by simp [State.func]
@[simp] theorem State.takeTag_mailbox (s : State) (t : Nat) (i' : Nat) : (State.takeTag s t).mailbox i' = s.mailbox i' := by simp [State.mailbox]
@[simp] theorem State.dropTag_func (s : State) (t : Nat) (i' : Nat) : (State.dropTag s t).func i' = s.func i' := by simp [State.func]
@[simp] theorem State.dropTag_mailbox (s : State) (t : Nat) (i' : Nat) : (State.dropTag s t).mailbox i' = s.mailbox i' := by simp [State.mailbox]
@[simp] theorem State.modArbiter_func (s : State) (n : Nat) (g : Arbiter → Arbiter) (i' : Nat) : (State.modArbiter s n g).func i' = s.func i' := by simp [State.func]
@[simp] theorem State.modArbiter_mailbox (s : State) (n : Nat) (g : Arbiter → Arbiter) (i' : Nat) : (State.modArbiter s n g).mailbox i' = s.mailbox i' := by simp [State.mailbox]
@[simp] theorem State.flush_func (s : State) (f : Nat) (i' : Nat) : (State.flush s f).func i' = s.func i' := by simp [State.func]
@[simp] theorem State.popRequest_func (s : State) (f : Nat) (i' : Nat) : (State.popRequest s f).func i' = s.func i' := by simp [State.func]
@[simp] theorem State.modBell_func (s : State) (b : Doorbell) (g : Ring → Ring) (i' : Nat) : (State.modBell s b g).func i' = s.func i' := by simp [State.func]
@[simp] theorem State.modBell_mailbox (s : State) (b : Doorbell) (g : Ring → Ring) (i' : Nat) : (State.modBell s b g).mailbox i' = s.mailbox i' := by simp [State.mailbox]
@[simp] theorem State.modRing_func (s : State) (id : Nat) (g : Ring → Ring) (i' : Nat) : (State.modRing s id g).func i' = s.func i' := by simp [State.func]
@[simp] theorem State.modRing_mailbox (s : State) (id : Nat) (g : Ring → Ring) (i' : Nat) : (State.modRing s id g).mailbox i' = s.mailbox i' := by simp [State.mailbox]
@[simp] theorem State.modQueue_func (s : State) (id : Nat) (g : Ring → Ring) (i' : Nat) : (State.modQueue s id g).func i' = s.func i' := by simp [State.func]
@[simp] theorem State.modQueue_mailbox (s : State) (id : Nat) (g : Ring → Ring) (i' : Nat) : (State.modQueue s id g).mailbox i' = s.mailbox i' := by simp [State.mailbox]
@[simp] theorem State.modIndex_func (s : State) (id : Nat) (g : Index → Index) (i' : Nat) : (State.modIndex s id g).func i' = s.func i' := by simp [State.func]
@[simp] theorem State.modIndex_mailbox (s : State) (id : Nat) (g : Index → Index) (i' : Nat) : (State.modIndex s id g).mailbox i' = s.mailbox i' := by simp [State.mailbox]
@[simp] theorem State.modTable_func (s : State) (id : Nat) (g : Table → Table) (i' : Nat) : (State.modTable s id g).func i' = s.func i' := by simp [State.func]
@[simp] theorem State.modTable_mailbox (s : State) (id : Nat) (g : Table → Table) (i' : Nat) : (State.modTable s id g).mailbox i' = s.mailbox i' := by simp [State.mailbox]
@[simp] theorem State.modChannel_func (s : State) (c : Nat) (g : FlashChannel → FlashChannel) (i' : Nat) : (State.modChannel s c g).func i' = s.func i' := by simp [State.func]
@[simp] theorem State.modChannel_mailbox (s : State) (c : Nat) (g : FlashChannel → FlashChannel) (i' : Nat) : (State.modChannel s c g).mailbox i' = s.mailbox i' := by simp [State.mailbox]
@[simp] theorem State.modPaddock_func (s : State) (p : Nat) (g : Paddock → Paddock) (i' : Nat) : (State.modPaddock s p g).func i' = s.func i' := by simp [State.func]
@[simp] theorem State.modPaddock_mailbox (s : State) (p : Nat) (g : Paddock → Paddock) (i' : Nat) : (State.modPaddock s p g).mailbox i' = s.mailbox i' := by simp [State.mailbox]
@[simp] theorem State.modStack_func (s : State) (stack : Nat) (g : StackCounters → StackCounters) (i' : Nat) : (State.modStack s stack g).func i' = s.func i' := by simp [State.func]
@[simp] theorem State.modStack_mailbox (s : State) (stack : Nat) (g : StackCounters → StackCounters) (i' : Nat) : (State.modStack s stack g).mailbox i' = s.mailbox i' := by simp [State.mailbox]
@[simp] theorem State.modUnit_func (s : State) (u : Nat) (g : NmuUnit → NmuUnit) (i' : Nat) : (State.modUnit s u g).func i' = s.func i' := by simp [State.func]
@[simp] theorem State.modUnit_mailbox (s : State) (u : Nat) (g : NmuUnit → NmuUnit) (i' : Nat) : (State.modUnit s u g).mailbox i' = s.mailbox i' := by simp [State.mailbox]
@[simp] theorem State.setSlot_func (s : State) (n : Nat) (x : GaitSlot) (i' : Nat) : (State.setSlot s n x).func i' = s.func i' := by simp [State.func]
@[simp] theorem State.setSlot_mailbox (s : State) (n : Nat) (x : GaitSlot) (i' : Nat) : (State.setSlot s n x).mailbox i' = s.mailbox i' := by simp [State.mailbox]
@[simp] theorem State.modQuery_func (s : State) (h : Nat) (g : Query → Query) (i' : Nat) : (State.modQuery s h g).func i' = s.func i' := by simp [State.func]
@[simp] theorem State.modQuery_mailbox (s : State) (h : Nat) (g : Query → Query) (i' : Nat) : (State.modQuery s h g).mailbox i' = s.mailbox i' := by simp [State.mailbox]
@[simp] theorem State.modSearch_func (s : State) (key : Nat) (g : Search → Search) (i' : Nat) : (State.modSearch s key g).func i' = s.func i' := by simp [State.func]
@[simp] theorem State.modSearch_mailbox (s : State) (key : Nat) (g : Search → Search) (i' : Nat) : (State.modSearch s key g).mailbox i' = s.mailbox i' := by simp [State.mailbox]
@[simp] theorem State.modMemb_func (s : State) (g : Membership → Membership) (i' : Nat) : (State.modMemb s g).func i' = s.func i' := by simp [State.func]
@[simp] theorem State.modMemb_mailbox (s : State) (g : Membership → Membership) (i' : Nat) : (State.modMemb s g).mailbox i' = s.mailbox i' := by simp [State.mailbox]
@[simp] theorem State.hbmWrite_func (s : State) (a : Nat) (b : Bytes) (i' : Nat) : (State.hbmWrite s a b).func i' = s.func i' := by simp [State.func]
@[simp] theorem State.hbmWrite_mailbox (s : State) (a : Nat) (b : Bytes) (i' : Nat) : (State.hbmWrite s a b).mailbox i' = s.mailbox i' := by simp [State.mailbox]
@[simp] theorem State.send_func (s : State) (cls dest : Nat) (body : Bytes) (i' : Nat) : (State.send s cls dest body).func i' = s.func i' := by simp [State.func]
@[simp] theorem State.send_mailbox (s : State) (cls dest : Nat) (body : Bytes) (i' : Nat) : (State.send s cls dest body).mailbox i' = s.mailbox i' := by simp [State.mailbox]
@[simp] theorem defer_func (s : State) (e : Event) (q : Request) (adopted : Nat) (i' : Nat) : (defer s e q adopted).func i' = s.func i' := by simp [State.func]
@[simp] theorem defer_mailbox (s : State) (e : Event) (q : Request) (adopted : Nat) (i' : Nat) : (defer s e q adopted).mailbox i' = s.mailbox i' := by simp [State.mailbox]

/-! ## What an operation writes -/

@[simp] theorem State.modFunc_func_self (s : State) (f : Nat) (g : FuncRegs → FuncRegs) :
    (s.modFunc f g).func f = g (s.func f) := by simp [State.modFunc, State.func]

theorem State.modFunc_func_ne (s : State) {f i : Nat} (g : FuncRegs → FuncRegs) (h : i ≠ f) :
    (s.modFunc f g).func i = s.func i := by simp [State.modFunc, State.func, SMap.getD_set_ne _ _ _ h]

@[simp] theorem State.modMailbox_mailbox_self (s : State) (f : Nat) (g : Mailbox → Mailbox) :
    (s.modMailbox f g).mailbox f = g (s.mailbox f) := by simp [State.modMailbox, State.mailbox]

theorem State.modMailbox_mailbox_ne (s : State) {f i : Nat} (g : Mailbox → Mailbox) (h : i ≠ f) :
    (s.modMailbox f g).mailbox i = s.mailbox i := by simp [State.modMailbox, State.mailbox, SMap.getD_set_ne _ _ _ h]

@[simp] theorem State.modLink_link_self (s : State) (l : Nat) (g : Link → Link) :
    (s.modLink l g).link l = g (s.link l) := by simp [State.modLink, State.link]

theorem State.modLink_link_ne (s : State) {l i : Nat} (g : Link → Link) (h : i ≠ l) :
    (s.modLink l g).link i = s.link i := by simp [State.modLink, State.link, SMap.getD_set_ne _ _ _ h]

@[simp] theorem State.modArbiter_arbiter_self (s : State) (n : Nat) (g : Arbiter → Arbiter) :
    (s.modArbiter n g).arbiter n = g (s.arbiter n) := by simp [State.modArbiter, State.arbiter]

@[simp] theorem State.modChannel_channel_self (s : State) (c : Nat) (g : FlashChannel → FlashChannel) :
    (s.modChannel c g).channel c = g (s.channel c) := by simp [State.modChannel, State.channel]

@[simp] theorem State.modUnit_unit_self (s : State) (u : Nat) (g : NmuUnit → NmuUnit) :
    (s.modUnit u g).unit u = g (s.unit u) := by simp [State.modUnit, State.unit]

theorem State.modIndex_find? (s : State) (id : Nat) (g : Index → Index) :
    SMap.find? (s.modIndex id g).indexes id = (SMap.find? s.indexes id).map g := by
  simp [State.modIndex, SMap.find?_update_self]

theorem State.modTable_find? (s : State) (id : Nat) (g : Table → Table) :
    SMap.find? (s.modTable id g).tables id = (SMap.find? s.tables id).map g := by
  simp [State.modTable, SMap.find?_update_self]

theorem State.modRing_find? (s : State) (id : Nat) (g : Ring → Ring) :
    SMap.find? (s.modRing id g).rings id = (SMap.find? s.rings id).map g := by
  simp [State.modRing, SMap.find?_update_self]

@[simp] theorem State.emit_out (s : State) (cls dest : Nat) (body aside : Bytes) :
    (s.emit cls dest body aside).out =
      { s.out with sent := s.out.sent ++ [{ cls := cls, dest := dest, body := body, aside := aside }] } := rfl

@[simp] theorem State.pcie_out (s : State) (f status : Nat) (data : Bytes) :
    (s.pcie f status data).out = { s.out with pcie := s.out.pcie ++ [{ func := f, status := status, data := data }] } := rfl

@[simp] theorem State.schedule_changes (s : State) (c : Change) :
    (s.schedule c).changes = s.changes ++ [{ due := s.clk.stride + 1, order := s.ctl.serving, change := c }] := rfl

@[simp] theorem defer_ctl (s : State) (e : Event) (q : Request) (adopted : Nat) :
    (defer s e q adopted).ctl =
      { s.ctl with deferred := s.ctl.deferred ++ [{ event := e, request := q, adopted := adopted }] } := rfl

@[simp] theorem State.takeTag_work (s : State) (t : Nat) : (s.takeTag t).work = { s.work with tags := t :: s.work.tags } := rfl

@[simp] theorem State.dropTag_work (s : State) (t : Nat) :
    (s.dropTag t).work = { s.work with tags := s.work.tags.filter (· ≠ t) } := rfl

@[simp] theorem State.setSlot_gaits (s : State) (n : Nat) (x : GaitSlot) :
    (s.setSlot n x).gaits = { s.gaits with slots := s.gaits.slots.set n x } := rfl

/-! ## The ways a command ends -/

/-- A meaning goes on exactly where its operands name units of the node, and then to its effect's state. -/
theorem guarded_next {ok : Bool} {eff : State → State} {s t : State} :
    guarded ok eff s = .next t ↔ ok = true ∧ t = eff s := by
  unfold guarded; cases ok <;> simp [eq_comm]

/-- A meaning stops exactly where its operands name no unit of the node. -/
theorem guarded_fault {ok : Bool} {eff : State → State} {s : State} {e : Fault} :
    guarded ok eff s = .fault e ↔ ok = false ∧ e = .noSuchUnit := by
  unfold guarded; cases ok <;> simp [eq_comm]

/-- No meaning refuses. -/
theorem guarded_refused {ok : Bool} {eff : State → State} {s : State} {e : Refusal} : guarded ok eff s ≠ .refused e := by
  unfold guarded; cases ok <;> simp

/-- An opcode's processing that answers: its request has left, its effect is done, its reply is queued. -/
theorem State.serve_answer {f op : Nat} {act : State → Request → State × Option (Nat × Nat × Bytes)} {s t : State}
    {q : Request} {status stamp : Nat} {payload : Bytes} (hq : s.headRequest f op = some q)
    (ha : act (s.popRequest f) q = (t, some (status, stamp, payload))) :
    s.serve f op act = (t.reply q status stamp payload).flush f := by simp [State.serve, hq, ha]

/-- An opcode's processing that answers later. -/
theorem State.serve_defer {f op : Nat} {act : State → Request → State × Option (Nat × Nat × Bytes)} {s t : State}
    {q : Request} (hq : s.headRequest f op = some q) (ha : act (s.popRequest f) q = (t, none)) :
    s.serve f op act = t.flush f := by simp [State.serve, hq, ha]

/-- Without a request of the opcode that is in time at the head, at most one that is not is turned away. -/
theorem State.serve_none {f op : Nat} {act : State → Request → State × Option (Nat × Nat × Bytes)} {s : State}
    (hq : s.headRequest f op = none) : s.serve f op act = s.turnAway f op := by simp [State.serve, hq]

/-- Without a request of the opcode at the head nothing is turned away. -/
theorem State.turnAway_none {f op : Nat} {s : State} (hq : s.front f op = none) : s.turnAway f op = s := by
  simp [State.turnAway, hq]

/-- A request that is not in time is answered with its status alone. -/
theorem State.turnAway_some {f op st : Nat} {s : State} {q : Request} (hq : s.front f op = some q)
    (h : s.untimely q = some st) : s.turnAway f op = ((s.popRequest f).reply q st unstamped []).flush f := by
  simp [State.turnAway, hq, h]

/-- A request taken up stands at the front and is in time. -/
theorem State.headRequest_eq_some {f op : Nat} {s : State} {q : Request} :
    s.headRequest f op = some q ↔ s.front f op = some q ∧ s.untimely q = none := by
  simp only [State.headRequest, Option.filter_eq_some_iff, Option.isNone_iff_eq_none]

/-- A reply joins the replies ready in its function's mailbox, unless its function was detached meanwhile. -/
theorem State.reply_replies (s : State) (q : Request) (status stamp : Nat) (payload : Bytes) (h : q.mute = false) :
    ((s.reply q status stamp payload).mailbox q.func).replies = (s.mailbox q.func).replies ++
      [{ opcode := q.opcode, context := q.context, tag := q.tag, status := status, stamp := stamp, payload := payload,
         indirect := if bitOf q.flags 3 then some q.replyAddr else none, order := q.order }] := by simp [State.reply, h]

/-- Reset memory lists nothing, so it is in canonical form. -/
theorem State.reset_mem_wf : cellsWf State.reset.mem.bytes = true := rfl

end Sys2Proof.Machine
end

