-- ==== Sys2Proof/Laws/Stride.lean ====
section
/-! SUPPORT. The stride counter (R25): no operation over the state but the boundary, the close of a join and a restart changes it
(`…_stride`). -/

set_option maxRecDepth 4000
set_option linter.unusedSimpArgs false

namespace Sys2Proof.Machine

/-! ## Ops -/

@[simp] theorem ite_stride {c : Prop} [Decidable c] (s t : State) :
    (if c then s else t).clk.stride = if c then s.clk.stride else t.clk.stride := by split <;> rfl

@[simp] theorem foldl_stride {α : Type} {f : State → α → State} (h : ∀ s a, (f s a).clk.stride = s.clk.stride)
    (l : List α) (s : State) : (l.foldl f s).clk.stride = s.clk.stride :=
  foldl_keeps (fun s : State => s.clk.stride) h l s

theorem foldl_fst_stride {α β : Type} {g : State × β → α → State × β} (h : ∀ x p, (g x p).1.clk.stride = x.1.clk.stride)
    (l : List α) (x : State × β) : (l.foldl g x).1.clk.stride = x.1.clk.stride :=
  foldl_keeps (fun x : State × β => x.1.clk.stride) h l x

theorem foldl_snd_stride {α β : Type} {g : β × State → α → β × State} (h : ∀ x p, (g x p).2.clk.stride = x.2.clk.stride)
    (l : List α) (x : β × State) : (l.foldl g x).2.clk.stride = x.2.clk.stride :=
  foldl_keeps (fun x : β × State => x.2.clk.stride) h l x

@[simp] theorem State.modFunc_stride (s : State) (f : Nat) (g : FuncRegs → FuncRegs) :
    (State.modFunc s f g).clk.stride = s.clk.stride := by rfl

@[simp] theorem State.modMailbox_stride (s : State) (f : Nat) (g : Mailbox → Mailbox) :
    (State.modMailbox s f g).clk.stride = s.clk.stride := by rfl

@[simp] theorem State.modLink_stride (s : State) (l : Nat) (g : Link → Link) :
    (State.modLink s l g).clk.stride = s.clk.stride := by rfl

@[simp] theorem State.modPort_stride (s : State) (p : Nat) (g : Port → Port) :
    (State.modPort s p g).clk.stride = s.clk.stride := by rfl

@[simp] theorem State.emit_stride (s : State) (cls : Nat) (dest : Nat) (body : Bytes) (aside : Bytes) :
    (State.emit s cls dest body aside).clk.stride = s.clk.stride := by rfl

@[simp] theorem State.sendWith_stride (s : State) (cls : Nat) (dest : Nat) (body : Bytes) (aside : Bytes) :
    (State.sendWith s cls dest body aside).clk.stride = s.clk.stride := by
  simp [State.sendWith]

@[simp] theorem State.send_stride (s : State) (cls dest : Nat) (body : Bytes) :
    (State.send s cls dest body).clk.stride = s.clk.stride := by
  simp [State.send]

@[simp] theorem State.sendPort_stride (s : State) (cls port : Nat) (body : Bytes) :
    (State.sendPort s cls port body).clk.stride = s.clk.stride := by rfl

@[simp] theorem State.discard_stride (s : State) (p n : Nat) :
    (State.discard s p n).clk.stride = s.clk.stride := by rfl

@[simp] theorem State.scheduledLost_stride (s : State) :
    (State.scheduledLost s).clk.stride = s.clk.stride := by rfl

@[simp] theorem State.lose_stride (s : State) (cls : Nat) (body : Bytes) :
    (State.lose s cls body).clk.stride = s.clk.stride := by rfl

@[simp] theorem State.arrival_stride (s : State) (cls source : Nat) (message : Bytes) :
    (s.arrival cls source message).2.clk.stride = s.clk.stride := by
  unfold State.arrival; simp only []
  (repeat' split) <;> simp

@[simp] theorem State.arrives_stride {s : State} {cls source : Nat} {message : Bytes} {take : State → State}
    (h : ∀ t, (take t).clk.stride = t.clk.stride) : (s.arrives cls source message take).clk.stride = s.clk.stride := by
  unfold State.arrives; simp only []
  split <;> simp [h]

@[simp] theorem State.dma_stride (s : State) (f address : Nat) (body : Bytes) :
    (State.dma s f address body).clk.stride = s.clk.stride := by
  simp [State.dma]

@[simp] theorem State.vector_stride (s : State) (f v : Nat) :
    (State.vector s f v).clk.stride = s.clk.stride := by
  simp [State.vector]

@[simp] theorem State.pldm_stride (s : State) (kind subject stride : Nat) :
    (State.pldm s kind subject stride).clk.stride = s.clk.stride := by
  simp [State.pldm]

@[simp] theorem State.mctpReply_stride (s : State) (body : Bytes) :
    (State.mctpReply s body).clk.stride = s.clk.stride := by
  simp [State.mctpReply]

@[simp] theorem State.pcie_stride (s : State) (f status : Nat) (data : Bytes) :
    (State.pcie s f status data).clk.stride = s.clk.stride := by rfl

@[simp] theorem State.cause_stride (s : State) (f bit : Nat) :
    (State.cause s f bit).clk.stride = s.clk.stride := by
  simp [State.cause]

@[simp] theorem State.pfCause_stride (s : State) (bit : Nat) :
    (State.pfCause s bit).clk.stride = s.clk.stride := by
  simp [State.pfCause]

@[simp] theorem State.schedule_stride (s : State) (c : Change) :
    (State.schedule s c).clk.stride = s.clk.stride := by rfl

@[simp] theorem State.reply_stride (s : State) (q : Request) (status stamp : Nat) (payload : Bytes) :
    (State.reply s q status stamp payload).clk.stride = s.clk.stride := by
  simp [State.reply]

@[simp] theorem State.note_stride (s : State) (f opcode context tag status stamp : Nat) (payload : Bytes) :
    (State.note s f opcode context tag status stamp payload).clk.stride = s.clk.stride := by
  simp [State.note]

@[simp] theorem State.noteNode_stride (s : State) (opcode status stamp : Nat) (payload : Bytes) :
    (State.noteNode s opcode status stamp payload).clk.stride = s.clk.stride := by
  simp [State.noteNode]

@[simp] theorem State.noteFailed_stride (s : State) (q : Request) (status stamp : Nat) :
    (State.noteFailed s q status stamp).clk.stride = s.clk.stride := by
  simp [State.noteFailed]

@[simp] theorem State.hbmWrite_stride (s : State) (a : Nat) (b : Bytes) :
    (State.hbmWrite s a b).clk.stride = s.clk.stride := by rfl

@[simp] theorem State.draw_stride (s : State) :
    (State.draw s).clk.stride = s.clk.stride := by rfl

@[simp] theorem State.drawN_stride (s : State) (n : Nat) :
    (State.drawN s n).clk.stride = s.clk.stride := by rfl

@[simp] theorem State.count_stride (s : State) (g : NodeCounters → NodeCounters) :
    (State.count s g).clk.stride = s.clk.stride := by rfl

@[simp] theorem State.countStops_stride (s : State) (n : Nat) :
    (State.countStops s n).clk.stride = s.clk.stride := by
  simp [State.countStops]

@[simp] theorem State.ctxCount_stride (s : State) (context : Nat) (g : ContextCounters → ContextCounters) :
    (State.ctxCount s context g).clk.stride = s.clk.stride := by rfl

@[simp] theorem State.scheduledDrop_stride (s : State) :
    (State.scheduledDrop s).clk.stride = s.clk.stride := by rfl

@[simp] theorem State.tagFault_stride (s : State) (context : Nat) :
    (State.tagFault s context).clk.stride = s.clk.stride := by rfl

@[simp] theorem State.takeTag_stride (s : State) (t : Nat) :
    (State.takeTag s t).clk.stride = s.clk.stride := by rfl

@[simp] theorem State.dropTag_stride (s : State) (t : Nat) :
    (State.dropTag s t).clk.stride = s.clk.stride := by rfl

/-! ## Arbiter -/

@[simp] theorem State.modArbiter_stride (s : State) (n : Nat) (g : Arbiter → Arbiter) :
    (State.modArbiter s n g).clk.stride = s.clk.stride := by rfl

@[simp] theorem State.closeFrame_stride (s : State) (port : Nat) :
    (State.closeFrame s port).clk.stride = s.clk.stride := by
  simp [State.closeFrame]

@[simp] theorem State.egress_stride (s : State) (port : Nat) (requests : BitVec 8) (blocked : BitVec 8) (tenure : Nat) (waited : List Nat) (cycle : Nat) :
    (State.egress s port requests blocked tenure waited cycle).clk.stride = s.clk.stride := by
  simp [State.egress]

@[simp] theorem arbiterDecisionEff_stride (n : Nat) (requests : BitVec 8) (blocked : BitVec 8) (tenure : Nat) (waited : List Nat) (cycle : Nat) (s : State) :
    (arbiterDecisionEff n requests blocked tenure waited cycle s).clk.stride = s.clk.stride := by
  simp [arbiterDecisionEff]

/-! ## Operands -/

@[simp] theorem State.flush_stride (s : State) (f : Nat) :
    (State.flush s f).clk.stride = s.clk.stride := by rfl

@[simp] theorem State.popRequest_stride (s : State) (f : Nat) :
    (State.popRequest s f).clk.stride = s.clk.stride := by rfl

@[simp] theorem State.turnAway_stride (s : State) (f : Nat) (opcode : Nat) :
    (State.turnAway s f opcode).clk.stride = s.clk.stride := by
  unfold State.turnAway; (repeat' split) <;> simp

theorem State.serve_stride {s : State} {f op : Nat} {act : State → Request → State × Option (Nat × Nat × Bytes)}
    (h : ∀ t q, (act t q).1.clk.stride = t.clk.stride) : (s.serve f op act).clk.stride = s.clk.stride := by
  unfold State.serve
  split
  · exact State.turnAway_stride ..
  · simp only []
    split <;> simp [h]

@[simp] theorem refuse_stride (s : State) (status : Nat) (payload : optParam Bytes []) :
    (refuse s status payload).1.clk.stride = s.clk.stride := by rfl

@[simp] theorem accept_stride (s : State) (c : Change) (payload : optParam Bytes []) :
    (accept s c payload).1.clk.stride = s.clk.stride := by rfl

@[simp] theorem report_stride (s : State) (payload : Bytes) :
    (report s payload).1.clk.stride = s.clk.stride := by rfl

@[simp] theorem defer_stride (s : State) (e : Event) (q : Request) (adopted : Nat) :
    (defer s e q adopted).clk.stride = s.clk.stride := by rfl

@[simp] theorem State.happened_stride (s : State) (e : Event) (status : Nat) (stamp : Option Nat) (p : Bytes) :
    (State.happened s e status stamp p).clk.stride = s.clk.stride := by
  simp [State.happened]

/-! ## Mailbox -/

@[simp] theorem mbSubmitEff_stride (f : Nat) (s : State) :
    (mbSubmitEff f s).clk.stride = s.clk.stride := by
  simp [mbSubmitEff]

@[simp] theorem requestTakeEff_stride (f : Nat) (fetched : Bytes) (s : State) :
    (requestTakeEff f fetched s).clk.stride = s.clk.stride := by
  simp [requestTakeEff]

@[simp] theorem mbReplyAckEff_stride (f : Nat) (s : State) :
    (mbReplyAckEff f s).clk.stride = s.clk.stride := by
  simp [mbReplyAckEff]

@[simp] theorem replyPostEff_stride (f : Nat) (s : State) :
    (replyPostEff f s).clk.stride = s.clk.stride := by
  unfold replyPostEff; simp only []; (repeat' split) <;> simp

@[simp] theorem noteHeadWriteEff_stride (f : Nat) (value : Word32) (s : State) :
    (noteHeadWriteEff f value s).clk.stride = s.clk.stride := by
  simp [noteHeadWriteEff]

@[simp] theorem notificationPostEff_stride (f : Nat) (s : State) :
    (notificationPostEff f s).clk.stride = s.clk.stride := by
  unfold notificationPostEff; simp only []; (repeat' split) <;> simp

/-! ## Registers -/

@[simp] theorem intCauseClearEff_stride (f : Nat) (value reassert : Word32) (s : State) :
    (intCauseClearEff f value reassert s).clk.stride = s.clk.stride := by
  simp [intCauseClearEff]

@[simp] theorem intMaskWriteEff_stride (f : Nat) (value : Word32) (s : State) :
    (intMaskWriteEff f value s).clk.stride = s.clk.stride := by
  simp [intMaskWriteEff]

@[simp] theorem dbFaultClearEff_stride (f : Nat) (value : Word32) (reassert : Word32) (s : State) :
    (dbFaultClearEff f value reassert s).clk.stride = s.clk.stride := by
  simp [dbFaultClearEff]

@[simp] theorem bar2ErrClearEff_stride (f : Nat) (value : Word32) (reassert : Word32) (s : State) :
    (bar2ErrClearEff f value reassert s).clk.stride = s.clk.stride := by
  simp [bar2ErrClearEff]

@[simp] theorem arbFlagsClearEff_stride (f : Nat) (n : Nat) (value : Word32) (reassert : Word32) (s : State) :
    (arbFlagsClearEff f n value reassert s).clk.stride = s.clk.stride := by
  simp [arbFlagsClearEff]

@[simp] theorem strideLoReadEff_stride (f : Nat) (s : State) :
    (strideLoReadEff f s).clk.stride = s.clk.stride := by
  simp [strideLoReadEff]

@[simp] theorem State.modBell_stride (s : State) (b : Doorbell) (g : Ring → Ring) :
    (State.modBell s b g).clk.stride = s.clk.stride := by
  unfold State.modBell; split <;> simp

@[simp] theorem State.doorbellFault_stride (s : State) (f : Nat) (b : Doorbell) (reason : Nat) :
    (State.doorbellFault s f b reason).clk.stride = s.clk.stride := by
  simp [State.doorbellFault]

@[simp] theorem State.doorbell_stride (s : State) (f : Nat) (b : Doorbell) (fault : Ring → Nat) (g : Ring → Ring) :
    (State.doorbell s f b fault g).clk.stride = s.clk.stride := by
  unfold State.doorbell; (repeat' split) <;> simp

@[simp] theorem subTailWriteEff_stride (f : Nat) (b : Doorbell) (value : Word32) (s : State) :
    (subTailWriteEff f b value s).clk.stride = s.clk.stride := by
  simp [subTailWriteEff]

@[simp] theorem cplHeadWriteEff_stride (f : Nat) (b : Doorbell) (value : Word32) (s : State) :
    (cplHeadWriteEff f b value s).clk.stride = s.clk.stride := by
  simp [cplHeadWriteEff]

@[simp] theorem msixVectorUnmaskEff_stride (f v : Nat) (s : State) :
    (msixVectorUnmaskEff f v s).clk.stride = s.clk.stride := by
  simp [msixVectorUnmaskEff]

@[simp] theorem msixVectorMask_stride (f : Nat) (v : Nat) (s : State) :
    (msixVectorMask f v s).clk.stride = s.clk.stride := by rfl

/-! ## Gait -/

@[simp] theorem State.needs_stride (s : State) (word : Nat) (a : Nat) (k : Nat) (due : Nat) (t : Nat) (cost : Nat) :
    (State.needs s word a k due t cost).clk.stride = s.clk.stride := by
  simp [State.needs]

@[simp] theorem State.takeShare_stride (s : State) (a : Nat) (k : Nat) (handles : Nat) (need : Nat) :
    (State.takeShare s a k handles need).clk.stride = s.clk.stride := by rfl

@[simp] theorem State.admitTo_stride (s : State) (k : Nat) :
    (State.admitTo s k).clk.stride = s.clk.stride := by rfl

/-! ## Bar2 -/

@[simp] theorem State.issueOp_stride (s : State) (cls context : Nat) (func : Option Nat) (address op size a b : Nat) :
    (s.issueOp cls context func address op size a b).1.clk.stride = s.clk.stride := by
  unfold State.issueOp
  simp only []
  repeat' split
  all_goals simp

@[simp] theorem State.bar2Latch_stride (s : State) (f : Nat) (status : Nat) (aperture : Nat) (write : Bool) (address : Nat) :
    (State.bar2Latch s f status aperture write address).clk.stride = s.clk.stride := by
  simp [State.bar2Latch]

@[simp] theorem State.bar2Fail_stride (s : State) (f status aperture : Nat) (write : Bool) (address : Nat) :
    (State.bar2Fail s f status aperture write address).clk.stride = s.clk.stride := by
  simp [State.bar2Fail]

@[simp] theorem State.bar2Complete_stride (s : State) (q : Bar2Request) :
    (State.bar2Complete s q).clk.stride = s.clk.stride := by
  unfold State.bar2Complete; (repeat' split) <;> simp

@[simp] theorem State.bar2Start_stride (s : State) (f kind address : Nat) (ap : Aperture) (pieces : List (Nat × Nat))
    (op : Nat → Nat → Nat ⊕ (Nat × Nat × Nat)) : (s.bar2Start f kind address ap pieces op).clk.stride = s.clk.stride := by
  unfold State.bar2Start
  simp only []
  have key : ∀ (r : State × Bar2Request), r.1.clk.stride = s.clk.stride →
      (if r.2.finished = true then r.1.bar2Complete r.2
        else { r.1 with fab := { r.1.fab with requests := r.1.fab.requests ++ [r.2] } }).clk.stride = s.clk.stride := by
    intro r hr
    split <;> simp [hr]
  refine key _ ?_
  rw [foldl_fst_stride]
  intro x p
  split
  · simp
  · split
    · next heq2 =>
      have := congrArg (fun x : State × (Nat ⊕ Nat) => x.1.clk.stride) heq2
      simpa using this.symm
    · next heq2 =>
      have := congrArg (fun x : State × (Nat ⊕ Nat) => x.1.clk.stride) heq2
      simpa using this.symm

@[simp] theorem State.bar2Invalid_stride (s : State) (f kind address : Nat) :
    (State.bar2Invalid s f kind address).clk.stride = s.clk.stride := by
  simp [State.bar2Invalid]

@[simp] theorem State.bar2DoRead_stride (s : State) (f address length : Nat) :
    (State.bar2DoRead s f address length).clk.stride = s.clk.stride := by
  simp [State.bar2DoRead]

@[simp] theorem State.bar2DoWrite_stride (s : State) (f address : Nat) (data : Bytes) :
    (State.bar2DoWrite s f address data).clk.stride = s.clk.stride := by
  simp [State.bar2DoWrite]

@[simp] theorem State.bar2DoAtomic_stride (s : State) (f address op size : Nat) (a b : Word64) :
    (State.bar2DoAtomic s f address op size a b).clk.stride = s.clk.stride := by
  simp [State.bar2DoAtomic]

@[simp] theorem State.bar2DoFence_stride (s : State) (f : Nat) :
    (State.bar2DoFence s f).clk.stride = s.clk.stride := by rfl

@[simp] theorem State.bar2Run_stride (s : State) (i : Instr) : (s.bar2Run i).clk.stride = s.clk.stride := by
  unfold State.bar2Run
  split <;> simp [State.bar2DoRead, State.bar2DoWrite, State.bar2DoAtomic]

@[simp] theorem State.bar2Release_stride (f n : Nat) (s : State) :
    (State.bar2Release f n s).clk.stride = s.clk.stride := by
  induction n generalizing s with
  | zero => rfl
  | succ n ih =>
    unfold State.bar2Release
    split
    · simp [ih]
    · rfl

@[simp] theorem State.bar2Take_stride (s : State) (f : Nat) (i : Instr) :
    (State.bar2Take s f i).clk.stride = s.clk.stride := by
  simp [State.bar2Take]

@[simp] theorem bar2Eff_stride (f : Nat) (i : Instr) (completes : Bool) (s : State) :
    (bar2Eff f i completes s).clk.stride = s.clk.stride := by
  simp [bar2Eff]

@[simp] theorem bar2AtomicEff_stride (f : Nat) (address : Nat) (op : Nat) (size : Nat) (a : Word64) (b : Word64) (s : State) :
    (bar2AtomicEff f address op size a b s).clk.stride = s.clk.stride := by
  simp [bar2AtomicEff]

@[simp] theorem State.bar2Result_stride (s : State) (f tag status result : Nat) :
    (State.bar2Result s f tag status result).clk.stride = s.clk.stride := by
  unfold State.bar2Result; split <;> simp

@[simp] theorem State.completeOp_stride (s : State) (o : OutOp) (status result : Nat) :
    (State.completeOp s o status result).clk.stride = s.clk.stride := by
  unfold State.completeOp; split <;> simp

@[simp] theorem operationTimeoutEff_stride (s : State) :
    (operationTimeoutEff s).clk.stride = s.clk.stride := by
  simp [operationTimeoutEff]

@[simp] theorem scheduledOperationIssueEff_stride (cls : Nat) (record : Bytes) (isFence : Bool) (s : State) :
    (scheduledOperationIssueEff cls record isFence s).clk.stride = s.clk.stride := by
  unfold scheduledOperationIssueEff; split <;> simp

/-! ## Link -/

@[simp] theorem State.detach_stride (s : State) (f : Nat) :
    (State.detach s f).clk.stride = s.clk.stride := by rfl

@[simp] theorem State.attach_stride (s : State) (f : Nat) :
    (State.attach s f).clk.stride = s.clk.stride := by
  simp [State.attach]

@[simp] theorem State.detachAll_stride (s : State) (fs : List Nat) :
    (State.detachAll s fs).clk.stride = s.clk.stride := by
  simp [State.detachAll]

@[simp] theorem State.peerLink_stride (s : State) (link : Nat) :
    (State.peerLink s link).clk.stride = s.clk.stride := by
  simp [State.peerLink]

@[simp] theorem linkUpEff_stride (link : Nat) (rates : BitVec 6) (s : State) :
    (linkUpEff link rates s).clk.stride = s.clk.stride := by
  simp [linkUpEff]

@[simp] theorem linkDownEff_stride (link : Nat) (s : State) :
    (linkDownEff link s).clk.stride = s.clk.stride := by
  simp [linkDownEff]

@[simp] theorem functionLevelResetEff_stride (f : Nat) (s : State) :
    (functionLevelResetEff f s).clk.stride = s.clk.stride := by
  simp [functionLevelResetEff]

@[simp] theorem vfRemovalEff_stride (link n : Nat) (s : State) :
    (vfRemovalEff link n s).clk.stride = s.clk.stride := by
  simp [vfRemovalEff]

@[simp] theorem busMasterEnableWriteEff_stride (f : Nat) (enable : Bool) (s : State) :
    (busMasterEnableWriteEff f enable s).clk.stride = s.clk.stride := by
  simp [busMasterEnableWriteEff]

/-! ## Rings -/

@[simp] theorem State.modRing_stride (s : State) (id : Nat) (g : Ring → Ring) :
    (State.modRing s id g).clk.stride = s.clk.stride := by rfl

@[simp] theorem State.modQueue_stride (s : State) (id : Nat) (g : Ring → Ring) :
    (State.modQueue s id g).clk.stride = s.clk.stride := by rfl

theorem State.admitRing_stride {s : State} {id kind : Nat} {entry : Bytes} {act : State → Admission → State}
    (h : ∀ t a, (act t a).clk.stride = t.clk.stride) : (s.admitRing id kind entry act).clk.stride = s.clk.stride := by
  unfold State.admitRing
  repeat' split
  all_goals simp [h]

@[simp] theorem State.dropCompletions_stride (s : State) (n : Nat) :
    (State.dropCompletions s n).clk.stride = s.clk.stride := by rfl

@[simp] theorem State.complete_stride (s : State) (id admitAt order : Nat) (entry : Bytes) :
    (State.complete s id admitAt order entry).clk.stride = s.clk.stride := by rfl

@[simp] theorem State.completeQueue_stride (s : State) (id admitAt order : Nat) (entry : Bytes) :
    (State.completeQueue s id admitAt order entry).clk.stride = s.clk.stride := by rfl

@[simp] theorem State.putCompletions_stride (s : State) (r : Ring) (i : Nat) (l : List (Nat × Nat × Nat × Bytes)) :
    (s.putCompletions r i l).clk.stride = s.clk.stride := by
  induction l generalizing s i with
  | nil => rfl
  | cons x l ih => obtain ⟨_, _, _, e⟩ := x; simp [State.putCompletions, ih]

theorem State.place_stride {s : State} {n : Nat} {r : Ring} {store : State → (Ring → Ring) → State}
    (h : ∀ t g, (store t g).clk.stride = t.clk.stride) : (s.place n r store).clk.stride = s.clk.stride := by
  unfold State.place; simp only []
  split
  · rfl
  · rw [h]; simp

@[simp] theorem State.placeAll_stride (s : State) (n : Nat) : (s.placeAll n).clk.stride = s.clk.stride := by
  unfold State.placeAll; simp only []
  rw [foldl_stride fun t a => State.place_stride (by simp), foldl_stride fun t a => State.place_stride (by simp)]

theorem State.publish_stride {s : State} {r : Ring} {store : State → (Ring → Ring) → State}
    (h : ∀ t g, (store t g).clk.stride = t.clk.stride) : (s.publish r store).clk.stride = s.clk.stride := by
  unfold State.publish; simp only []
  split
  · rfl
  · simp [h]

@[simp] theorem State.ringDrained_stride (s : State) (id : Nat) :
    (State.ringDrained s id).clk.stride = s.clk.stride := by
  unfold State.ringDrained; split <;> simp

@[simp] theorem State.sendVectors_stride (s : State) (l : List (Nat × Nat)) :
    (State.sendVectors s l).clk.stride = s.clk.stride := by
  simp [State.sendVectors]

@[simp] theorem State.publishAll_stride (s : State) : s.publishAll.clk.stride = s.clk.stride := by
  unfold State.publishAll; simp only []
  rw [foldl_stride (State.ringDrained_stride ·)]
  simp only [State.sendVectors_stride]
  rw [foldl_stride fun t a => State.publish_stride (by simp), foldl_stride fun t a => State.publish_stride (by simp)]
  simp

@[simp] theorem State.modIndex_stride (s : State) (id : Nat) (g : Index → Index) :
    (State.modIndex s id g).clk.stride = s.clk.stride := by rfl

@[simp] theorem State.modTable_stride (s : State) (id : Nat) (g : Table → Table) :
    (State.modTable s id g).clk.stride = s.clk.stride := by rfl

@[simp] theorem State.modResidency_stride (s : State) (id : Nat) (g : Residency → Residency) :
    (State.modResidency s id g).clk.stride = s.clk.stride := by
  simp [State.modResidency]

/-! ## Context -/

@[simp] theorem State.shrinkHbm_stride (s : State) (context keep : Nat) :
    (State.shrinkHbm s context keep).clk.stride = s.clk.stride := by rfl

@[simp] theorem State.shrinkDdr_stride (s : State) (context keep : Nat) :
    (State.shrinkDdr s context keep).clk.stride = s.clk.stride := by rfl

@[simp] theorem State.grantOwn_stride (s : State) :
    (State.grantOwn s).clk.stride = s.clk.stride := by rfl

@[simp] theorem State.adoptReservation_stride (s : State) (context : Nat) (r : Reservation) :
    (State.adoptReservation s context r).clk.stride = s.clk.stride := by
  simp [State.adoptReservation]

@[simp] theorem contextCreateEff_stride (f : Nat) (s : State) :
    (contextCreateEff f s).clk.stride = s.clk.stride := by
  unfold contextCreateEff; apply State.serve_stride; intro t q; simp only [refuse, accept, report]; (repeat' split) <;> simp

@[simp] theorem contextCloseEff_stride (f : Nat) (s : State) :
    (contextCloseEff f s).clk.stride = s.clk.stride := by
  unfold contextCloseEff; apply State.serve_stride; intro t q; simp only [refuse, accept, report]; (repeat' split) <;> simp

@[simp] theorem contextReserveEff_stride (f : Nat) (s : State) :
    (contextReserveEff f s).clk.stride = s.clk.stride := by
  unfold contextReserveEff; apply State.serve_stride; intro t q; simp only [refuse, accept, report]; (repeat' split) <;> simp

@[simp] theorem contextStatusEff_stride (f : Nat) (s : State) :
    (contextStatusEff f s).clk.stride = s.clk.stride := by
  unfold contextStatusEff; apply State.serve_stride; intro t q; simp only [refuse, accept, report]; (repeat' split) <;> simp

@[simp] theorem ringOpenEff_stride (f : Nat) (s : State) :
    (ringOpenEff f s).clk.stride = s.clk.stride := by
  unfold ringOpenEff; apply State.serve_stride; intro t q; simp only [refuse, accept, report]; (repeat' split) <;> simp

@[simp] theorem ringCloseEff_stride (f : Nat) (s : State) :
    (ringCloseEff f s).clk.stride = s.clk.stride := by
  unfold ringCloseEff; apply State.serve_stride; intro t q; simp only [refuse, accept, report]; (repeat' split) <;> simp

@[simp] theorem residencySetEff_stride (f : Nat) (s : State) :
    (residencySetEff f s).clk.stride = s.clk.stride := by
  unfold residencySetEff; apply State.serve_stride; intro t q; simp only [refuse, accept, report]; (repeat' split) <;> simp

@[simp] theorem residencyPinEff_stride (f : Nat) (s : State) :
    (residencyPinEff f s).clk.stride = s.clk.stride := by
  unfold residencyPinEff; apply State.serve_stride; intro t q; simp only [refuse, accept, report]; (repeat' split) <;> simp

@[simp] theorem residencyReplicateEff_stride (f : Nat) (s : State) :
    (residencyReplicateEff f s).clk.stride = s.clk.stride := by
  unfold residencyReplicateEff; apply State.serve_stride; intro t q; simp only [refuse, accept, report]; (repeat' split) <;> simp

/-! ## IndexMsg -/

@[simp] theorem indexCreateEff_stride (f : Nat) (s : State) :
    (indexCreateEff f s).clk.stride = s.clk.stride := by
  unfold indexCreateEff; apply State.serve_stride; intro t q; simp only [refuse, accept, report]; (repeat' split) <;> simp

@[simp] theorem indexCloseEff_stride (f : Nat) (s : State) :
    (indexCloseEff f s).clk.stride = s.clk.stride := by
  unfold indexCloseEff; apply State.serve_stride; intro t q; simp only [refuse, accept, report]; (repeat' split) <;> simp

@[simp] theorem indexBuildEff_stride (f : Nat) (s : State) :
    (indexBuildEff f s).clk.stride = s.clk.stride := by
  unfold indexBuildEff; apply State.serve_stride; intro t q; simp only [refuse, accept, report]; (repeat' split) <;> simp

@[simp] theorem indexCompactEff_stride (f : Nat) (s : State) :
    (indexCompactEff f s).clk.stride = s.clk.stride := by
  unfold indexCompactEff; apply State.serve_stride; intro t q; simp only [refuse, accept, report]; (repeat' split) <;> simp

@[simp] theorem indexSwitchEff_stride (f : Nat) (s : State) :
    (indexSwitchEff f s).clk.stride = s.clk.stride := by
  unfold indexSwitchEff; apply State.serve_stride; intro t q; simp only [refuse, accept, report]; (repeat' split) <;> simp

@[simp] theorem indexReleaseEff_stride (f : Nat) (s : State) :
    (indexReleaseEff f s).clk.stride = s.clk.stride := by
  unfold indexReleaseEff; apply State.serve_stride; intro t q; simp only [refuse, accept, report]; (repeat' split) <;> simp

@[simp] theorem indexStatusEff_stride (f : Nat) (s : State) :
    (indexStatusEff f s).clk.stride = s.clk.stride := by
  unfold indexStatusEff; apply State.serve_stride; intro t q; simp only [refuse, accept, report]; (repeat' split) <;> simp

@[simp] theorem tableCreateEff_stride (f : Nat) (s : State) :
    (tableCreateEff f s).clk.stride = s.clk.stride := by
  unfold tableCreateEff; apply State.serve_stride; intro t q; simp only [refuse, accept, report]; (repeat' split) <;> simp

@[simp] theorem tableCloseEff_stride (f : Nat) (s : State) :
    (tableCloseEff f s).clk.stride = s.clk.stride := by
  unfold tableCloseEff; apply State.serve_stride; intro t q; simp only [refuse, accept, report]; (repeat' split) <;> simp

@[simp] theorem tableBuildEff_stride (f : Nat) (s : State) :
    (tableBuildEff f s).clk.stride = s.clk.stride := by
  unfold tableBuildEff; apply State.serve_stride; intro t q; simp only [refuse, accept, report]; (repeat' split) <;> simp

@[simp] theorem tableFoldEff_stride (f : Nat) (s : State) :
    (tableFoldEff f s).clk.stride = s.clk.stride := by
  unfold tableFoldEff; apply State.serve_stride; intro t q; simp only [refuse, accept, report]; (repeat' split) <;> simp

@[simp] theorem tableSwitchEff_stride (f : Nat) (s : State) :
    (tableSwitchEff f s).clk.stride = s.clk.stride := by
  unfold tableSwitchEff; apply State.serve_stride; intro t q; simp only [refuse, accept, report]; (repeat' split) <;> simp

@[simp] theorem tableReleaseEff_stride (f : Nat) (s : State) :
    (tableReleaseEff f s).clk.stride = s.clk.stride := by
  unfold tableReleaseEff; apply State.serve_stride; intro t q; simp only [refuse, accept, report]; (repeat' split) <;> simp

@[simp] theorem tableStatusEff_stride (f : Nat) (s : State) :
    (tableStatusEff f s).clk.stride = s.clk.stride := by
  unfold tableStatusEff; apply State.serve_stride; intro t q; simp only [refuse, accept, report]; (repeat' split) <;> simp

@[simp] theorem tableRowWriteEff_stride (f : Nat) (s : State) :
    (tableRowWriteEff f s).clk.stride = s.clk.stride := by
  unfold tableRowWriteEff; apply State.serve_stride; intro t q; simp only [refuse, accept, report]; (repeat' split) <;> simp

/-! ## Flash -/

@[simp] theorem State.modChannel_stride (s : State) (c : Nat) (g : FlashChannel → FlashChannel) :
    (State.modChannel s c g).clk.stride = s.clk.stride := by rfl

@[simp] theorem State.modPaddock_stride (s : State) (p : Nat) (g : Paddock → Paddock) :
    (State.modPaddock s p g).clk.stride = s.clk.stride := by rfl

@[simp] theorem State.wait_stride (s : State) (c : Nat) (o : ArrayOp) :
    (State.wait s c o).clk.stride = s.clk.stride := by rfl

@[simp] theorem State.chargeFlash_stride (s : State) :
    (State.chargeFlash s).clk.stride = s.clk.stride := by rfl

@[simp] theorem State.issue_stride (s : State) (ch : Nat) (o : ArrayOp) :
    (State.issue s ch o).clk.stride = s.clk.stride := by
  unfold State.issue; simp only []; (repeat' split) <;> simp

@[simp] theorem State.moveOut_stride (s : State) (ch key n : Nat) (cls : Nat) (paid : Bool) :
    (State.moveOut s ch key n cls paid).clk.stride = s.clk.stride := by
  simp [State.moveOut]

@[simp] theorem State.collect_stride (s : State) (ch : Nat) (pad : Nat) (cls : Nat) :
    (State.collect s ch pad cls).clk.stride = s.clk.stride := by
  unfold State.collect; simp only []; (repeat' split) <;> simp_all

@[simp] theorem State.writeOwn_stride (s : State) (cls : Nat) (pages : Nat → List Nat) :
    (State.writeOwn s cls pages).clk.stride = s.clk.stride := by
  simp [State.writeOwn]

@[simp] theorem State.readOwn_stride (s : State) (object : Nat) (version : Nat) (reads : List FlashRead) :
    (State.readOwn s object version reads).clk.stride = s.clk.stride := by rfl

@[simp] theorem State.trimOwn_stride (s : State) :
    (State.trimOwn s).clk.stride = s.clk.stride := by rfl

@[simp] theorem State.bootWrite_stride (s : State) (ch : Nat) (bytes : Nat) :
    (State.bootWrite s ch bytes).clk.stride = s.clk.stride := by rfl

@[simp] theorem State.enterReadOnly_stride (s : State) (ch : Nat) :
    (State.enterReadOnly s ch).clk.stride = s.clk.stride := by
  simp [State.enterReadOnly]

@[simp] theorem State.retireBlock_stride (s : State) (ch key : Nat) :
    (State.retireBlock s ch key).clk.stride = s.clk.stride := by
  simp [State.retireBlock]

@[simp] theorem State.readRecord_stride (s : State) (index : Nat) (dim : Nat) (shard : Nat) (slot : Nat) (record : Bytes) (r : FlashRead) :
    (State.readRecord s index dim shard slot record r).clk.stride = s.clk.stride := by
  unfold State.readRecord; simp only []; (repeat' split) <;> simp_all

@[simp] theorem State.journalled_stride (s : State) (ch : Nat) (pad : Nat) (unit : Nat) (count : Nat) :
    (State.journalled s ch pad unit count).clk.stride = s.clk.stride := by rfl

@[simp] theorem State.deferFail_stride (s : State) (ch : Nat) (pad : Nat) (units : List (Nat × Nat)) :
    (State.deferFail s ch pad units).clk.stride = s.clk.stride := by rfl

@[simp] theorem State.takeAnswers_stride (s : State) (pad : Nat) (units : List (Nat × Nat)) (answers : List PartnerUnit) :
    (State.takeAnswers s pad units answers).clk.stride = s.clk.stride := by rfl

@[simp] theorem State.recover_stride {s : State} {ch : Nat} {o : ArrayOp} {bad : List (Nat × Nat)} {answers : List PartnerUnit}
    {go : State → ArrayOp → State} (h : ∀ t o, (go t o).clk.stride = t.clk.stride) :
    (s.recover ch o bad answers go).clk.stride = s.clk.stride := by
  unfold State.recover; simp only []
  split
  · simp
  · split
    · split <;> simp
    · rw [h]; split <;> simp

@[simp] theorem State.readMoved_stride (s : State) (ch : Nat) (o : ArrayOp) (r : FlashRead) :
    (State.readMoved s ch o r).clk.stride = s.clk.stride := by
  unfold State.readMoved; (repeat' split) <;> simp

@[simp] theorem State.levelStep_stride (s : State) (ch : Nat) :
    (State.levelStep s ch).clk.stride = s.clk.stride := by
  unfold State.levelStep; split <;> simp

@[simp] theorem arrayOperationIssueEff_stride (ch : Nat) (lost : List Nat) (reads : List FlashRead) (answers : List PartnerUnit) (s : State) :
    (arrayOperationIssueEff ch lost reads answers s).clk.stride = s.clk.stride := by
  unfold arrayOperationIssueEff; (repeat' split) <;> simp

@[simp] theorem State.levelFrom_stride (s : State) (ch above : Nat) :
    (State.levelFrom s ch above).clk.stride = s.clk.stride := by
  unfold State.levelFrom; split <;> simp

@[simp] theorem arrayOperationCompleteEff_stride (ch t : Nat) (good : Bool) (s : State) :
    (arrayOperationCompleteEff ch t good s).clk.stride = s.clk.stride := by
  unfold arrayOperationCompleteEff; split <;> simp

@[simp] theorem State.pageGood_stride (s : State) (ch : Nat) (o : ArrayOp) :
    (State.pageGood s ch o).clk.stride = s.clk.stride := by
  simp [State.pageGood]

@[simp] theorem State.fwWritten_stride (s : State) (ch : Nat) : (s.fwWritten ch).clk.stride = s.clk.stride := by
  unfold State.fwWritten; simp only []
  split
  · rfl
  · (repeat' split) <;> first | rfl | exact State.happened_stride ..

@[simp] theorem programStatusReadEff_stride (ch : Nat) (t : Nat) (s : State) :
    (programStatusReadEff ch t s).clk.stride = s.clk.stride := by
  unfold programStatusReadEff; (repeat' split) <;> simp

@[simp] theorem State.switchMoves_stride (s : State) (ch : Nat) :
    (State.switchMoves s ch).clk.stride = s.clk.stride := by
  simp [State.switchMoves]

@[simp] theorem State.formPages_stride (pad ch n : Nat) (s : State) :
    (State.formPages pad ch n s).clk.stride = s.clk.stride := by
  induction n generalizing s with
  | zero => rfl
  | succ n ih =>
    unfold State.formPages
    simp only []
    split <;> simp [ih]

@[simp] theorem pagePaddingTimeoutEff_stride (pad ch : Nat) (s : State) :
    (pagePaddingTimeoutEff pad ch s).clk.stride = s.clk.stride := by
  simp [pagePaddingTimeoutEff]

@[simp] theorem wearLevelCheckEff_stride (s : State) :
    (wearLevelCheckEff s).clk.stride = s.clk.stride := by
  simp [wearLevelCheckEff]

@[simp] theorem State.writeJournal_stride (s : State) :
    (State.writeJournal s).clk.stride = s.clk.stride := by rfl

@[simp] theorem mapCheckpointEff_stride (s : State) :
    (mapCheckpointEff s).clk.stride = s.clk.stride := by
  simp [mapCheckpointEff]

@[simp] theorem flashTemperatureSampleEff_stride (celsius : List Int) (s : State) :
    (flashTemperatureSampleEff celsius s).clk.stride = s.clk.stride := by
  simp [flashTemperatureSampleEff]

@[simp] theorem flashHealthLogEff_stride (f : Nat) (s : State) :
    (flashHealthLogEff f s).clk.stride = s.clk.stride := by
  unfold flashHealthLogEff; apply State.serve_stride; intro t q; simp only [refuse, accept, report]; (repeat' split) <;> simp

/-! ## Rs -/

@[simp] theorem State.poisonBlocks_stride (s : State) (b n : Nat) :
    (State.poisonBlocks s b n).clk.stride = s.clk.stride := by
  simp [State.poisonBlocks]

@[simp] theorem State.modStack_stride (s : State) (stack : Nat) (g : StackCounters → StackCounters) :
    (State.modStack s stack g).clk.stride = s.clk.stride := by rfl

@[simp] theorem State.countRead_stride (s : State) (address : Nat) (r : BlockRead) :
    (State.countRead s address r).clk.stride = s.clk.stride := by rfl

@[simp] theorem State.countWait_stride (s : State) (block : Nat) :
    (State.countWait s block).clk.stride = s.clk.stride := by rfl

@[simp] theorem State.countDieWait_stride (s : State) (address : Nat) (n : Nat) :
    (State.countDieWait s address n).clk.stride = s.clk.stride := by
  simp [State.countDieWait]

@[simp] theorem State.longerDelay_stride (s : State) (stack : Nat) :
    (State.longerDelay s stack).clk.stride = s.clk.stride := by rfl

@[simp] theorem State.endDieWait_stride (s : State) (address : Nat) (n : Nat) :
    (State.endDieWait s address n).clk.stride = s.clk.stride := by
  unfold State.endDieWait; (repeat' split) <;> simp

@[simp] theorem State.countRange_stride (s : State) (address : Nat) (n : Nat) :
    (State.countRange s address n).clk.stride = s.clk.stride := by
  simp [State.countRange]

/-! ## Storage -/

@[simp] theorem paddockCreateEff_stride (f : Nat) (s : State) :
    (paddockCreateEff f s).clk.stride = s.clk.stride := by
  unfold paddockCreateEff; apply State.serve_stride; intro t q; simp only [refuse, accept, report]; (repeat' split) <;> simp

@[simp] theorem paddockDeleteEff_stride (f : Nat) (s : State) :
    (paddockDeleteEff f s).clk.stride = s.clk.stride := by
  unfold paddockDeleteEff; apply State.serve_stride; intro t q; simp only [refuse, accept, report]; (repeat' split) <;> simp

@[simp] theorem paddockStatusEff_stride (f : Nat) (s : State) :
    (paddockStatusEff f s).clk.stride = s.clk.stride := by
  unfold paddockStatusEff; apply State.serve_stride; intro t q; simp only [refuse, accept, report]; (repeat' split) <;> simp

@[simp] theorem storageQueueCreateEff_stride (f : Nat) (s : State) :
    (storageQueueCreateEff f s).clk.stride = s.clk.stride := by
  unfold storageQueueCreateEff; apply State.serve_stride; intro t q; simp only [refuse, accept, report]; (repeat' split) <;> simp

@[simp] theorem storageQueueDeleteEff_stride (f : Nat) (s : State) :
    (storageQueueDeleteEff f s).clk.stride = s.clk.stride := by
  unfold storageQueueDeleteEff; apply State.serve_stride; intro t q; simp only [refuse, accept, report]; (repeat' split) <;> simp

@[simp] theorem storageWeightsSetEff_stride (f : Nat) (s : State) :
    (storageWeightsSetEff f s).clk.stride = s.clk.stride := by
  unfold storageWeightsSetEff; apply State.serve_stride; intro t q; simp only [refuse, accept, report]; (repeat' split) <;> simp

@[simp] theorem State.queueDrained_stride (s : State) (id : Nat) :
    (State.queueDrained s id).clk.stride = s.clk.stride := by
  unfold State.queueDrained; split <;> simp

@[simp] theorem State.paddockDrained_stride (s : State) (n : Nat) :
    (State.paddockDrained s n).clk.stride = s.clk.stride := by
  unfold State.paddockDrained; split <;> simp

@[simp] theorem State.finishCommand_stride (s : State) (n : Nat) (c : StorageCommand) :
    (State.finishCommand s n c).clk.stride = s.clk.stride := by
  simp [State.finishCommand]

@[simp] theorem State.admitCommand_stride (s : State) (cls : Nat) (r : Ring) (h : QueueHead) :
    (State.admitCommand s cls r h).clk.stride = s.clk.stride := by
  simp [State.admitCommand]

theorem State.nextStorage_stride {s : State} {cls : Nat} {ready : List (Nat × Nat)} {q : Nat} {t : State}
    (h : s.nextStorage cls ready = some (q, t)) : t.clk.stride = s.clk.stride := by
  unfold State.nextStorage at h
  simp only [] at h
  repeat' split at h
  all_goals simp only [Option.some.injEq, Prod.mk.injEq, reduceCtorEq, Option.map_eq_some_iff] at h
  all_goals first
    | (obtain ⟨-, rfl⟩ := h; rfl)
    | (obtain ⟨_, _, -, rfl⟩ := h; rfl)

@[simp] theorem State.admitStorage_stride (cls n : Nat) (heads : List QueueHead) (s : State) :
    (State.admitStorage cls n heads s).clk.stride = s.clk.stride := by
  induction n generalizing heads s with
  | zero => rfl
  | succ n ih =>
    unfold State.admitStorage
    simp only []
    split
    · rfl
    · next heq =>
      have := State.nextStorage_stride heq
      repeat' split
      all_goals simp [ih, this]

@[simp] theorem storageAdmissionEff_stride (cls : Nat) (heads : List QueueHead) (s : State) :
    (storageAdmissionEff cls heads s).clk.stride = s.clk.stride := by
  simp [storageAdmissionEff]

@[simp] theorem State.modStorage_stride (s : State) (n : Nat) (g : StorageCommand → StorageCommand) :
    (State.modStorage s n g).clk.stride = s.clk.stride := by rfl

@[simp] theorem State.mediaError_stride (s : State) (n : Nat) (c : StorageCommand) (u : Nat) (phys : Nat) :
    (State.mediaError s n c u phys).clk.stride = s.clk.stride := by rfl

@[simp] theorem State.readFails_stride (s : State) (n : Nat) (c : StorageCommand) (p : Paddock) (u phys : Nat) :
    (State.readFails s n c p u phys).clk.stride = s.clk.stride := by
  unfold State.readFails; (repeat' split) <;> simp

@[simp] theorem State.readUnit_stride (s : State) (n : Nat) (c : StorageCommand) (reads : List FlashRead) (u : Nat) :
    (State.readUnit s n c reads u).clk.stride = s.clk.stride := by
  unfold State.readUnit; simp only []; (repeat' split) <;> simp

@[simp] theorem State.deliver_stride (s : State) (c : StorageCommand) :
    (State.deliver s c).clk.stride = s.clk.stride := by
  simp [State.deliver]

@[simp] theorem State.commitUnits_stride (s : State) (pad start : Nat) (data : List Bytes) (single host : Bool) :
    (s.commitUnits pad start data single host).clk.stride = s.clk.stride := by
  unfold State.commitUnits
  simp only []
  rw [foldl_stride (fun t a => by split <;> simp)]
  simp

@[simp] theorem State.dropUnits_stride (s : State) (pad : Nat) (start : Nat) (count : Nat) :
    (State.dropUnits s pad start count).clk.stride = s.clk.stride := by rfl

@[simp] theorem State.writeBack_stride (s : State) (pad : Nat) (u : Nat) (phys : Nat) (d : Bytes) :
    (State.writeBack s pad u phys d).clk.stride = s.clk.stride := by
  simp [State.writeBack]

@[simp] theorem State.takeDetour_stride (n : Nat) (c : StorageCommand) (answers : List PartnerUnit) (s : State) (u : Nat) :
    (State.takeDetour n c answers s u).clk.stride = s.clk.stride := by
  unfold State.takeDetour; (repeat' split) <;> simp

@[simp] theorem storageReadEff_stride (n : Nat) (reads : List FlashRead) (answers : List PartnerUnit) (s : State) :
    (storageReadEff n reads answers s).clk.stride = s.clk.stride := by
  unfold storageReadEff; (repeat' split) <;> simp

@[simp] theorem State.stopRead_stride (s : State) (n : Nat) (c : StorageCommand) :
    (State.stopRead s n c).clk.stride = s.clk.stride := by
  simp [State.stopRead]

@[simp] theorem mirroredWriteReceiveEff_stride (m : Bytes) (s : State) :
    (mirroredWriteReceiveEff m s).clk.stride = s.clk.stride := by
  unfold mirroredWriteReceiveEff; simp only []; (repeat' split) <;> simp

@[simp] theorem storageDetourReadEff_stride (pad : Nat) (start : Nat) (count : Nat) (reads : List FlashRead) (s : State) :
    (storageDetourReadEff pad start count reads s).clk.stride = s.clk.stride := by
  unfold storageDetourReadEff; simp only []
  (repeat' split) <;> (try rfl)
  rw [State.send_stride, foldl_stride, State.admitTo_stride]
  intro t a; (repeat' split) <;> simp

@[simp] theorem State.commitCommand_stride (s : State) (n : Nat) (c : StorageCommand) :
    (State.commitCommand s n c).clk.stride = s.clk.stride := by
  simp [State.commitCommand]

@[simp] theorem State.commitMirrored_stride (s : State) (w : MirroredWrite) :
    (State.commitMirrored s w).clk.stride = s.clk.stride := by
  simp [State.commitMirrored]

@[simp] theorem State.commitStorage_stride (s : State) :
    (State.commitStorage s).clk.stride = s.clk.stride := by
  simp [State.commitStorage]

@[simp] theorem State.storageAck_stride (s : State) (number : Nat) :
    (State.storageAck s number).clk.stride = s.clk.stride := by
  unfold State.storageAck; split <;> simp

@[simp] theorem State.storageConfirm_stride (s : State) (number : Nat) :
    (State.storageConfirm s number).clk.stride = s.clk.stride := by rfl

/-! ## Fabric -/

@[simp] theorem State.adoptRoute_stride (s : State) (b : Bytes) :
    (State.adoptRoute s b).clk.stride = s.clk.stride := by rfl

@[simp] theorem fabricRouteSetEff_stride (f : Nat) (image : Bytes) (s : State) :
    (fabricRouteSetEff f image s).clk.stride = s.clk.stride := by
  unfold fabricRouteSetEff; split; · rfl
  apply State.serve_stride; intro t q; simp only [refuse, accept, report]; (repeat' split) <;> simp

@[simp] theorem fabricWindowSetEff_stride (f : Nat) (s : State) :
    (fabricWindowSetEff f s).clk.stride = s.clk.stride := by
  unfold fabricWindowSetEff; apply State.serve_stride; intro t q; simp only [refuse, accept, report]; (repeat' split) <;> simp

@[simp] theorem fabricRegionSetEff_stride (f : Nat) (s : State) :
    (fabricRegionSetEff f s).clk.stride = s.clk.stride := by
  unfold fabricRegionSetEff; apply State.serve_stride; intro t q; simp only [refuse, accept, report]; (repeat' split) <;> simp

@[simp] theorem fabricGateStageEff_stride (f : Nat) (s : State) :
    (fabricGateStageEff f s).clk.stride = s.clk.stride := by
  unfold fabricGateStageEff; apply State.serve_stride; intro t q; simp only [refuse, accept, report]; (repeat' split) <;> simp

@[simp] theorem fabricGateCancelEff_stride (f : Nat) (s : State) :
    (fabricGateCancelEff f s).clk.stride = s.clk.stride := by
  unfold fabricGateCancelEff; apply State.serve_stride; intro t q; simp only [refuse, accept, report]; (repeat' split) <;> simp

@[simp] theorem fabricPolicerSetEff_stride (f : Nat) (s : State) :
    (fabricPolicerSetEff f s).clk.stride = s.clk.stride := by
  unfold fabricPolicerSetEff; apply State.serve_stride; intro t q; simp only [refuse, accept, report]; (repeat' split) <;> simp

@[simp] theorem fabricLinkStatusEff_stride (f : Nat) (s : State) :
    (fabricLinkStatusEff f s).clk.stride = s.clk.stride := by
  unfold fabricLinkStatusEff; apply State.serve_stride; intro t q; rfl

@[simp] theorem State.herdEvent_stride (s : State) (event reason subject decider port stride epoch : Nat) :
    (State.herdEvent s event reason subject decider port stride epoch).clk.stride = s.clk.stride := by
  simp [State.herdEvent]

@[simp] theorem State.portDown_stride (s : State) (p : Nat) :
    (State.portDown s p).clk.stride = s.clk.stride := by
  simp [State.portDown]

@[simp] theorem State.recordFlit_stride (s : State) (p : Nat) (bad : Bool) (cls : Nat) (flit : Bytes) :
    (State.recordFlit s p bad cls flit).clk.stride = s.clk.stride := by
  simp [State.recordFlit]

@[simp] theorem State.messageFlit_stride (s : State) (p : Nat) (bad : Bool) (cls : Nat) (flit : Bytes) :
    (State.messageFlit s p bad cls flit).clk.stride = s.clk.stride := by
  unfold State.messageFlit; (repeat' split) <;> simp

@[simp] theorem State.flit_stride (p : Nat) (bad : Bool) (s : State) (f : Nat × Bytes) :
    (State.flit p bad s f).clk.stride = s.clk.stride := by
  simp [State.flit]

@[simp] theorem frameReceiveEff_stride (p : Nat) (codewords : List Codeword) (corrected : Nat) (uncorrectable : Nat) (s : State) :
    (frameReceiveEff p codewords corrected uncorrectable s).clk.stride = s.clk.stride := by
  simp [frameReceiveEff]

@[simp] theorem creditReturnEff_stride (p : Nat) (s : State) :
    (creditReturnEff p s).clk.stride = s.clk.stride := by
  simp [creditReturnEff]

@[simp] theorem creditMessageReceiveEff_stride (p : Nat) (credits : List Nat) (s : State) :
    (creditMessageReceiveEff p credits s).clk.stride = s.clk.stride := by
  simp [creditMessageReceiveEff]

@[simp] theorem transportResendEff_stride (h : Nat) (s : State) :
    (transportResendEff h s).clk.stride = s.clk.stride := by
  unfold transportResendEff; (repeat' split) <;> simp

@[simp] theorem State.police_stride (s : State) (p cls bytes : Nat) (yellow : Bool) :
    (s.police p cls bytes yellow).2.clk.stride = s.clk.stride := by
  unfold State.police
  simp only []
  repeat' split
  all_goals simp

@[simp] theorem State.refuseMessage_stride (s : State) (p : Nat) (x : Arriving) :
    (State.refuseMessage s p x).clk.stride = s.clk.stride := by rfl

@[simp] theorem State.acceptMessage_stride (s : State) (p : Nat) (x : Arriving) :
    (State.acceptMessage s p x).clk.stride = s.clk.stride := by rfl

@[simp] theorem headerRecordReceiveEff_stride (p : Nat) (w : Word64) (b : Bytes) (s : State) :
    (headerRecordReceiveEff p w b s).clk.stride = s.clk.stride := by
  unfold headerRecordReceiveEff
  simp only []
  repeat' split
  all_goals simp

@[simp] theorem State.recordIn_stride (s : State) (p cls source : Nat) :
    (s.recordIn p cls source).2.clk.stride = s.clk.stride := by
  unfold State.recordIn; (repeat' split) <;> simp

@[simp] theorem State.messageIn_stride (s : State) (p : Nat) (cls : Nat) (source : Nat) :
    (State.messageIn s p cls source).2.clk.stride = s.clk.stride := by
  unfold State.messageIn; (repeat' split) <;> simp

@[simp] theorem routerForwardEff_stride (p : Nat) (h : Word64) (body : Bytes) (s : State) :
    (routerForwardEff p h body s).clk.stride = s.clk.stride := by
  unfold routerForwardEff; simp only []; (repeat' split) <;> simp

@[simp] theorem State.performOp_stride (s : State) (requester context address op size a b : Nat) :
    (s.performOp requester context address op size a b).1.clk.stride = s.clk.stride := by
  unfold State.performOp
  simp only []
  repeat' split
  all_goals simp

@[simp] theorem State.answerOp_stride (s : State) (cls : Nat) (record : Bytes) :
    (State.answerOp s cls record).clk.stride = s.clk.stride := by
  simp [State.answerOp]

@[simp] theorem State.holdOp_stride (s : State) (p : Nat) (cls : Nat) (record : Bytes) (locked : Bool) :
    (State.holdOp s p cls record locked).clk.stride = s.clk.stride := by rfl

@[simp] theorem memoryOperationEff_stride (p cls : Nat) (record : Bytes) (s : State) :
    (memoryOperationEff p cls record s).clk.stride = s.clk.stride := by
  unfold memoryOperationEff; simp only []; (repeat' split) <;> simp

@[simp] theorem operationResponseReceiveEff_stride (p cls : Nat) (record : Bytes) (s : State) :
    (operationResponseReceiveEff p cls record s).clk.stride = s.clk.stride := by
  unfold operationResponseReceiveEff; simp only []; (repeat' split) <;> simp

@[simp] theorem State.releaseLocked_stride (s : State) :
    (State.releaseLocked s).clk.stride = s.clk.stride := by
  unfold State.releaseLocked; simp only []; (repeat' split) <;> simp

@[simp] theorem State.correct_stride (s : State) (early : Bool) (e : Int) :
    (State.correct s early e).clk.stride = s.clk.stride := by
  simp [State.correct]

@[simp] theorem strideMarkReceiveEff_stride (p stride sendOffset arrival : Nat) (s : State) :
    (strideMarkReceiveEff p stride sendOffset arrival s).clk.stride = s.clk.stride := by
  simp [strideMarkReceiveEff]

@[simp] theorem parentMarkLossEff_stride (s : State) :
    (parentMarkLossEff s).clk.stride = s.clk.stride := by
  simp [parentMarkLossEff]

@[simp] theorem outOfStepEff_stride (s : State) :
    (outOfStepEff s).clk.stride = s.clk.stride := by
  simp [outOfStepEff]

@[simp] theorem strideInEdgeEff_stride (arrival : Int) (s : State) :
    (strideInEdgeEff arrival s).clk.stride = s.clk.stride := by
  simp [strideInEdgeEff]

@[simp] theorem strideInLossEff_stride (s : State) :
    (strideInLossEff s).clk.stride = s.clk.stride := by
  simp [strideInLossEff]

/-! ## Health -/

@[simp] theorem State.replan_stride (s : State) (r : DomainReport) :
    (State.replan s r).clk.stride = s.clk.stride := by rfl

@[simp] theorem State.adoptPlan_stride (s : State) :
    (State.adoptPlan s).clk.stride = s.clk.stride := by rfl

@[simp] theorem State.farrierReads_stride (s : State) :
    (State.farrierReads s).clk.stride = s.clk.stride := by
  simp [State.farrierReads]

@[simp] theorem farrierSweepEff_stride (r : DomainReport) (s : State) :
    (farrierSweepEff r s).clk.stride = s.clk.stride := by
  simp [farrierSweepEff]

@[simp] theorem healthAgeingReportEff_stride (f : Nat) (s : State) :
    (healthAgeingReportEff f s).clk.stride = s.clk.stride := by
  unfold healthAgeingReportEff; apply State.serve_stride; intro t q; rfl

@[simp] theorem healthUnitsEff_stride (f : Nat) (s : State) :
    (healthUnitsEff f s).clk.stride = s.clk.stride := by
  unfold healthUnitsEff; apply State.serve_stride; intro t q; rfl

/-! ## Nmu -/

@[simp] theorem State.modUnit_stride (s : State) (u : Nat) (g : NmuUnit → NmuUnit) :
    (State.modUnit s u g).clk.stride = s.clk.stride := by rfl

@[simp] theorem State.answer_stride (s : State) (tag : Nat) (b : Bytes) :
    (State.answer s tag b).clk.stride = s.clk.stride := by rfl

@[simp] theorem State.refusedCommand_stride (s : State) (u : Nat) :
    (State.refusedCommand s u).clk.stride = s.clk.stride := by rfl

@[simp] theorem State.requestBursts_stride (s : State) (stack : Nat) (l : List Burst) :
    (State.requestBursts s stack l).clk.stride = s.clk.stride := by rfl

@[simp] theorem State.countBlocks_stride (s : State) (ctx : Nat) (blocks : List Nat) :
    (State.countBlocks s ctx blocks).clk.stride = s.clk.stride := by
  simp [State.countBlocks]

@[simp] theorem State.unitWrite_stride (s : State) (ctx : Nat) (blocks : List Nat) (image : Option Bytes) :
    (State.unitWrite s ctx blocks image).clk.stride = s.clk.stride := by
  unfold State.unitWrite; (repeat' split) <;> simp

@[simp] theorem State.modCommand_stride (s : State) (u : Nat) (g : UnitCommand → UnitCommand) :
    (State.modCommand s u g).clk.stride = s.clk.stride := by rfl

@[simp] theorem State.dropCommand_stride (s : State) (u : Nat) :
    (State.dropCommand s u).clk.stride = s.clk.stride := by rfl

@[simp] theorem State.voidMove_stride (s : State) (m : Nat × Nat) :
    (State.voidMove s m).clk.stride = s.clk.stride := by
  simp [State.voidMove]

@[simp] theorem State.endCommand_stride (s : State) (u : Nat) (c : UnitCommand) (completion : Bytes) :
    (State.endCommand s u c completion).clk.stride = s.clk.stride := by
  unfold State.endCommand; (repeat' split) <;> simp

@[simp] theorem State.enterPhase_stride (s : State) (u : Nat) (phase : Nat) (l : List Burst) :
    (State.enterPhase s u phase l).clk.stride = s.clk.stride := by rfl

@[simp] theorem State.writePhase_stride (s : State) (u : Nat) (c : UnitCommand) (x3 : RowEnd) :
    (State.writePhase s u c x3).clk.stride = s.clk.stride := by
  unfold State.writePhase; (repeat' split) <;> simp

@[simp] theorem State.endLoad_stride (s : State) (c : UnitCommand) :
    (State.endLoad s c).clk.stride = s.clk.stride := by
  simp [State.endLoad]

@[simp] theorem State.nextPhase_stride (s : State) (u : Nat) (c : UnitCommand) :
    (State.nextPhase s u c).clk.stride = s.clk.stride := by
  simp [State.nextPhase]

@[simp] theorem State.beginCommand_stride (s : State) (u : Nat) (c : UnitCommand) :
    (State.beginCommand s u c).clk.stride = s.clk.stride := by
  simp [State.beginCommand]

@[simp] theorem State.beginHeads_stride (s : State) (stack : Nat) :
    (State.beginHeads s stack).clk.stride = s.clk.stride := by
  unfold State.beginHeads; exact foldl_stride (fun t a => by (repeat' split) <;> simp) _ _

@[simp] theorem State.runStack_stride (s : State) (stack : Nat) :
    (State.runStack s stack).clk.stride = s.clk.stride := by
  simp [State.runStack]

@[simp] theorem State.countReceived_stride (s : State) :
    (State.countReceived s).clk.stride = s.clk.stride := by rfl

@[simp] theorem State.receive_stride (s : State) (units : List Nat) (c : UnitCommand) :
    (State.receive s units c).clk.stride = s.clk.stride := by
  simp [State.receive]

@[simp] theorem unitCommandEff_stride (op : Nat) (b : Bytes) (poisoned : Bool) (s : State) :
    (unitCommandEff op b poisoned s).clk.stride = s.clk.stride := by
  simp [unitCommandEff]

@[simp] theorem State.startBurst_stride (s : State) (stack : Nat) (x : Burst) :
    (State.startBurst s stack x).clk.stride = s.clk.stride := by
  simp [State.startBurst]

@[simp] theorem State.grantFrom_stride (s : State) (stack : Nat) (slot : Nat) (slots : Nat) (x4 : Nat) (x5 : Nat) (x6 : List Burst) (x7 : List Burst) :
    (State.grantFrom s stack slot slots x4 x5 x6 x7).1.clk.stride = s.clk.stride := by
  fun_induction State.grantFrom <;> simp_all

@[simp] theorem burstGrantEff_stride (stack : Nat) (s : State) :
    (burstGrantEff stack s).clk.stride = s.clk.stride := by
  simp [burstGrantEff]

@[simp] theorem State.burstMoved_stride (s : State) (u : Nat) (ctx : Nat) (x : Burst) :
    (State.burstMoved s u ctx x).clk.stride = s.clk.stride := by
  simp [State.burstMoved]

@[simp] theorem State.burstDone_stride (s : State) (u : Nat) :
    (State.burstDone s u).clk.stride = s.clk.stride := by
  unfold State.burstDone; (repeat' split) <;> simp

/-! ## Engine -/

@[simp] theorem State.issueRow_stride (s : State) (op : Nat) (ctx : Nat) (address : Nat) (blocks : Nat) (data : Bytes) (poisoned : Bool) (move : Option (Nat × Nat)) (twin : Option Nat) :
    (State.issueRow s op ctx address blocks data poisoned move twin).clk.stride = s.clk.stride := by
  simp [State.issueRow]

@[simp] theorem State.issueRowwrite_stride (s : State) (ctx : Nat) (address : Nat) (image : Bytes) (poisoned : Bool) (move : Option (Nat × Nat)) :
    (State.issueRowwrite s ctx address image poisoned move).clk.stride = s.clk.stride := by
  simp [State.issueRowwrite]

@[simp] theorem State.issueUpdate_stride (s : State) (ctx : Nat) (address : Nat) (blocks : Nat) (delta : List Word32) (move : Option (Nat × Nat)) (twin : Option Nat) :
    (State.issueUpdate s ctx address blocks delta move twin).clk.stride = s.clk.stride := by
  simp [State.issueUpdate]

@[simp] theorem State.placeDirty_stride (s : State) (id : Nat) (row : Nat) (bytes : Bytes) :
    (State.placeDirty s id row bytes).clk.stride = s.clk.stride := by
  unfold State.placeDirty; (repeat' split) <;> simp

@[simp] theorem State.issueDual_stride (s : State) (id : Nat) (row : Nat) (delta : List Word32) (status : Nat) :
    (State.issueDual s id row delta status).clk.stride = s.clk.stride := by
  unfold State.issueDual; (repeat' split) <;> simp

@[simp] theorem State.issueStepUpdate_stride (s : State) (id : Nat) (row : Nat) (delta : List Word32) :
    (State.issueStepUpdate s id row delta).clk.stride = s.clk.stride := by
  unfold State.issueStepUpdate; (repeat' split) <;> simp

/-! ## Lookup -/

@[simp] theorem State.touchRows_stride (s : State) (object : Nat) (rows : List Nat) :
    (State.touchRows s object rows).clk.stride = s.clk.stride := by
  unfold State.touchRows; simp only []; (repeat' split) <;> (try simp) <;> (apply foldl_stride; intro s a; (repeat' split) <;> simp)

@[simp] theorem State.putTile_stride (s : State) (n : Nat) (t : Tile) :
    (State.putTile s n t).clk.stride = s.clk.stride := by rfl

@[simp] theorem State.useTile_stride (s : State) (u : TileUse) (ctx : Nat) :
    (State.useTile s u ctx).clk.stride = s.clk.stride := by
  simp [State.useTile]

@[simp] theorem State.sendLookups_stride (s : State) (x : Table) (table handle admitAt version : Nat) (rows : List Nat) :
    (s.sendLookups x table handle admitAt version rows).1.clk.stride = s.clk.stride := by
  unfold State.sendLookups
  simp

@[simp] theorem State.admitLookup_stride (s : State) (tag : Nat) (a : Admission) :
    (State.admitLookup s tag a).clk.stride = s.clk.stride := by
  unfold State.admitLookup; simp only []; (repeat' split) <;> simp

@[simp] theorem lookupAdmissionEff_stride (ring : Nat) (entry : Bytes) (s : State) :
    (lookupAdmissionEff ring entry s).clk.stride = s.clk.stride := by
  unfold lookupAdmissionEff; (repeat' split) <;> (try rfl) <;> (apply State.admitRing_stride; intro t a; simp)

@[simp] theorem State.lateReply_stride (s : State) :
    (State.lateReply s).clk.stride = s.clk.stride := by rfl

@[simp] theorem State.serveLookup_stride (s : State) (x : Table) (m : Bytes) (poisoned : List Nat) :
    (State.serveLookup s x m poisoned).clk.stride = s.clk.stride := by
  simp [State.serveLookup]

@[simp] theorem State.serveOrHold_stride (id : Nat) (s : State) (w : Bytes × List Nat) :
    (State.serveOrHold id s w).clk.stride = s.clk.stride := by
  unfold State.serveOrHold; (repeat' split) <;> simp

@[simp] theorem State.passBarrier_stride (s : State) (id : Nat) :
    (State.passBarrier s id).clk.stride = s.clk.stride := by
  unfold State.passBarrier; (repeat' split) <;> simp

@[simp] theorem State.passHeld_stride (s : State) :
    (State.passHeld s).clk.stride = s.clk.stride := by
  simp [State.passHeld]

@[simp] theorem lookupSubRequestReceiveEff_stride (m : Bytes) (poisoned : List Nat) (s : State) :
    (lookupSubRequestReceiveEff m poisoned s).clk.stride = s.clk.stride := by
  unfold lookupSubRequestReceiveEff; simp only []; (repeat' split) <;> simp

@[simp] theorem lookupReplyReceiveEff_stride (m : Bytes) (aside : Bytes) (s : State) :
    (lookupReplyReceiveEff m aside s).clk.stride = s.clk.stride := by
  unfold lookupReplyReceiveEff; simp only []; (repeat' split) <;> simp_all

@[simp] theorem State.finishLookup_stride (s : State) (h : Nat) (l : Lookup) (status : Nat) :
    (State.finishLookup s h l status).clk.stride = s.clk.stride := by rfl

@[simp] theorem lookupPoolingEff_stride (h : Nat) (s : State) :
    (lookupPoolingEff h s).clk.stride = s.clk.stride := by
  unfold lookupPoolingEff; (repeat' split) <;> simp

@[simp] theorem burstEndEff_stride (u : Nat) (s : State) :
    (burstEndEff u s).clk.stride = s.clk.stride := by
  unfold burstEndEff; split <;> simp

/-! ## Migration -/

@[simp] theorem migrationSelectionEff_stride (id : Nat) (s : State) :
    (migrationSelectionEff id s).clk.stride = s.clk.stride := by
  unfold migrationSelectionEff; split <;> simp

@[simp] theorem State.moveRead_stride (s : State) (id row : Nat) : (s.moveRead id row).2.clk.stride = s.clk.stride := by
  unfold State.moveRead
  (repeat' split) <;> simp

@[simp] theorem migrationCopyEff_stride (id : Nat) (row : Nat) (stopped : Bool) (s : State) :
    (migrationCopyEff id row stopped s).clk.stride = s.clk.stride := by
  unfold migrationCopyEff
  split
  · rfl
  · have h := s.moveRead_stride id row
    generalize s.moveRead id row = m at h
    obtain ⟨b, t⟩ := m
    simp only [] at h
    cases b
    · exact h
    · simp only []
      (repeat' split) <;> simp [h]

@[simp] theorem State.dropStaleCopies_stride (s : State) (id : Nat) :
    (State.dropStaleCopies s id).clk.stride = s.clk.stride := by rfl

@[simp] theorem State.dropTableCopies_stride (s : State) (id : Nat) :
    (State.dropTableCopies s id).clk.stride = s.clk.stride := by rfl

@[simp] theorem State.switchResidency_stride (s : State) :
    (State.switchResidency s).clk.stride = s.clk.stride := by rfl

/-! ## GaitMsg -/

@[simp] theorem State.setSlot_stride (s : State) (n : Nat) (x : GaitSlot) :
    (State.setSlot s n x).clk.stride = s.clk.stride := by rfl

@[simp] theorem gaitImageEff_stride (load : Bool) (opcode f : Nat) (image : Bytes) (s : State) :
    (gaitImageEff load opcode f image s).clk.stride = s.clk.stride := by
  unfold gaitImageEff; split; · rfl
  apply State.serve_stride; intro t q; simp only [refuse, accept, report]; (repeat' split) <;> simp

@[simp] theorem gaitStageEff_stride (f : Nat) (s : State) :
    (gaitStageEff f s).clk.stride = s.clk.stride := by
  unfold gaitStageEff; apply State.serve_stride; intro t q; simp only [refuse, accept, report]; (repeat' split) <;> simp

@[simp] theorem State.unstageFrom_stride (s : State) (e : Nat) :
    (State.unstageFrom s e).clk.stride = s.clk.stride := by rfl

@[simp] theorem gaitCancelEff_stride (f : Nat) (s : State) :
    (gaitCancelEff f s).clk.stride = s.clk.stride := by
  unfold gaitCancelEff; apply State.serve_stride; intro t q; simp only [refuse, accept, report]; (repeat' split) <;> simp

@[simp] theorem gaitStatusEff_stride (f : Nat) (s : State) :
    (gaitStatusEff f s).clk.stride = s.clk.stride := by
  unfold gaitStatusEff; apply State.serve_stride; intro t q; rfl

@[simp] theorem programLoadEff_stride (f : Nat) (image : Bytes) (s : State) :
    (programLoadEff f image s).clk.stride = s.clk.stride := by
  unfold programLoadEff; split; · rfl
  apply State.serve_stride; intro t q; simp only [refuse, accept, report]; (repeat' split) <;> simp

@[simp] theorem programUnloadEff_stride (f : Nat) (s : State) :
    (programUnloadEff f s).clk.stride = s.clk.stride := by
  unfold programUnloadEff; apply State.serve_stride; intro t q; simp only [refuse, accept, report]; (repeat' split) <;> simp

@[simp] theorem programStatusEff_stride (f : Nat) (s : State) :
    (programStatusEff f s).clk.stride = s.clk.stride := by
  unfold programStatusEff; apply State.serve_stride; intro t q; simp only [refuse, accept, report]; (repeat' split) <;> simp

/-! ## Query -/

@[simp] theorem State.modQuery_stride (s : State) (h : Nat) (g : Query → Query) :
    (State.modQuery s h g).clk.stride = s.clk.stride := by rfl

@[simp] theorem State.modSearch_stride (s : State) (key : Nat) (g : Search → Search) :
    (State.modSearch s key g).clk.stride = s.clk.stride := by rfl

@[simp] theorem State.addStale_stride (s : State) (index n : Nat) :
    (State.addStale s index n).clk.stride = s.clk.stride := by rfl

@[simp] theorem State.putSort_stride (s : State) (n : Nat) (u : SortUnit) :
    (State.putSort s n u).clk.stride = s.clk.stride := by rfl

@[simp] theorem State.admitQuery_stride (s : State) (tag : Nat) (tile : TileUse) (zeroing : Nat) (a : Admission) (x : Index) :
    (State.admitQuery s tag tile zeroing a x).clk.stride = s.clk.stride := by
  simp [State.admitQuery]

@[simp] theorem State.takeQuery_stride (s0 : State) (tag : Nat) (tile : TileUse) (a : Admission) :
    (State.takeQuery s0 tag tile a).clk.stride = s0.clk.stride := by
  unfold State.takeQuery; simp only []; (repeat' split) <;> simp_all

@[simp] theorem queryAdmissionEff_stride (ring : Nat) (entry : Bytes) (tile : TileUse) (s : State) :
    (queryAdmissionEff ring entry tile s).clk.stride = s.clk.stride := by
  unfold queryAdmissionEff; (repeat' split) <;> (try rfl) <;> (apply State.admitRing_stride; intro t a; simp)

@[simp] theorem shardSubRequestReceiveEff_stride (m : Bytes) (poisonRows : List Nat) (poisonLists : List Nat) (sorter : SortUse) (s : State) :
    (shardSubRequestReceiveEff m poisonRows poisonLists sorter s).clk.stride = s.clk.stride := by
  unfold shardSubRequestReceiveEff; simp only []; (repeat' split) <;> simp_all

@[simp] theorem layer0RoundEff_stride (key : Nat) (poisonRows : List Nat) (poisonLists : List Nat) (sorter : SortUse) (tile : TileUse) (s : State) :
    (layer0RoundEff key poisonRows poisonLists sorter tile s).clk.stride = s.clk.stride := by
  unfold layer0RoundEff; (repeat' split) <;> simp

@[simp] theorem State.searchReply_stride (s : State) (q : Search) (flags : BitVec 16) (l : List Entry) (failed : List (Nat × Nat)) :
    (State.searchReply s q flags l failed).clk.stride = s.clk.stride := by
  simp [State.searchReply]

@[simp] theorem shardReplySendEff_stride (key : Nat) (s : State) :
    (shardReplySendEff key s).clk.stride = s.clk.stride := by
  unfold shardReplySendEff; split <;> simp

@[simp] theorem shardReplyReceiveEff_stride (m : Bytes) (aside : Bytes) (s : State) :
    (shardReplyReceiveEff m aside s).clk.stride = s.clk.stride := by
  unfold shardReplyReceiveEff; simp only []; (repeat' split) <;> simp_all

@[simp] theorem State.sendReranks_stride (s : State) (h : Nat) (q : Query) (set : List Entry) :
    (State.sendReranks s h q set).clk.stride = s.clk.stride := by
  simp [State.sendReranks]

@[simp] theorem State.sendFeatures_stride (s : State) (h : Nat) (q : Query) :
    (State.sendFeatures s h q).clk.stride = s.clk.stride := by
  unfold State.sendFeatures; simp only []; (repeat' split) <;> simp

@[simp] theorem State.mergeEnds_stride (s : State) (h : Nat) (q : Query) (sel : Selection) :
    (State.mergeEnds s h q sel).clk.stride = s.clk.stride := by
  simp [State.mergeEnds]

@[simp] theorem queryMergeEff_stride (h : Nat) (passes : Nat) (sorter : SortUse) (s : State) :
    (queryMergeEff h passes sorter s).clk.stride = s.clk.stride := by
  unfold queryMergeEff; (repeat' split) <;> simp

@[simp] theorem rerankRequestReceiveEff_stride (m : Bytes) (s : State) :
    (rerankRequestReceiveEff m s).clk.stride = s.clk.stride := by
  unfold rerankRequestReceiveEff; simp only []; (repeat' split) <;> simp

@[simp] theorem State.readRecords_stride (s : State) (v : View) (q : Search) (slots : List Nat) (reads : List FlashRead) :
    (State.readRecords s v q slots reads).clk.stride = s.clk.stride := by
  simp [State.readRecords]

@[simp] theorem rerankReadEff_stride (key : Nat) (reads : List FlashRead) (poisonRows : List Nat) (tile : TileUse) (s : State) :
    (rerankReadEff key reads poisonRows tile s).clk.stride = s.clk.stride := by
  unfold rerankReadEff; (repeat' split) <;> simp

@[simp] theorem rerankReplySendEff_stride (key : Nat) (s : State) :
    (rerankReplySendEff key s).clk.stride = s.clk.stride := by
  unfold rerankReplySendEff; (repeat' split) <;> simp

@[simp] theorem detourRequestEff_stride (m : Bytes) (reads : List FlashRead) (tile : TileUse) (s : State) :
    (detourRequestEff m reads tile s).clk.stride = s.clk.stride := by
  unfold detourRequestEff; simp only []; (repeat' split) <;> simp_all

@[simp] theorem rerankReplyReceiveEff_stride (m : Bytes) (aside : Bytes) (s : State) :
    (rerankReplyReceiveEff m aside s).clk.stride = s.clk.stride := by
  unfold rerankReplyReceiveEff; simp only []; (repeat' split) <;> simp_all

@[simp] theorem replyDeadlineEff_stride (h : Nat) (s : State) :
    (replyDeadlineEff h s).clk.stride = s.clk.stride := by
  unfold replyDeadlineEff; (repeat' split) <;> simp

@[simp] theorem State.finishQuery_stride (s : State) (h : Nat) (q : Query) (flags : BitVec 16) (status : Nat) (l : List Entry) :
    (State.finishQuery s h q flags status l).clk.stride = s.clk.stride := by rfl

@[simp] theorem State.ranProgram_stride (s : State) (key : Nat) (p : Program) (tile : TileUse) (tokens : List (List Word32)) :
    (State.ranProgram s key p tile tokens).clk.stride = s.clk.stride := by rfl

@[simp] theorem State.completeQuery_stride (s : State) (h : Nat) (q : Query) (weightsPoisoned : Bool) (sorter : SortUse) :
    (State.completeQuery s h q weightsPoisoned sorter).clk.stride = s.clk.stride := by
  simp [State.completeQuery]

@[simp] theorem State.placeBatch_stride (s : State) (tile : Nat) (key : Nat) (batch : List Nat) :
    (State.placeBatch s tile key batch).clk.stride = s.clk.stride := by rfl

@[simp] theorem finalMergeEff_stride (h : Nat) (weightsPoisoned : Bool) (sorter : SortUse) (tile : TileUse) (s : State) :
    (finalMergeEff h weightsPoisoned sorter tile s).clk.stride = s.clk.stride := by
  unfold finalMergeEff; (repeat' split) <;> simp

@[simp] theorem State.stopQuery_stride (s : State) (h : Nat) (q : Query) :
    (State.stopQuery s h q).clk.stride = s.clk.stride := by rfl

/-! ## Train -/

@[simp] theorem State.modStep_stride (s : State) (table num : Nat) (g : Step → Step) :
    (State.modStep s table num g).clk.stride = s.clk.stride := by rfl

@[simp] theorem State.takeSegment_stride (s : State) (table : Nat) (g : Segment) :
    (State.takeSegment s table g).clk.stride = s.clk.stride := by
  unfold State.takeSegment; (repeat' split) <;> simp

@[simp] theorem State.sendSegments_stride (s : State) (table : Nat) (num : Nat) (x : Table) (refused : Bool) (lr : Word32) (l : List Contribution) :
    (State.sendSegments s table num x refused lr l).clk.stride = s.clk.stride := by
  simp [State.sendSegments]

@[simp] theorem State.admitStep_stride (before : State) (tile : TileUse) (a : Admission) :
    (State.admitStep before tile a).clk.stride = before.clk.stride := by
  unfold State.admitStep; simp only []; (repeat' split) <;> simp_all

@[simp] theorem State.missStep_stride (s : State) (r : Ring) (cls : Nat) :
    (State.missStep s r cls).clk.stride = s.clk.stride := by
  unfold State.missStep; split <;> simp

@[simp] theorem stepAdmissionEff_stride (ring : Nat) (entry : Bytes) (tile : TileUse) (s : State) :
    (stepAdmissionEff ring entry tile s).clk.stride = s.clk.stride := by
  unfold stepAdmissionEff
  repeat' split
  all_goals first
    | rfl
    | (simp; done)
    | (apply State.admitRing_stride; intro t a; simp)

@[simp] theorem stepSegmentReceiveEff_stride (m : Bytes) (s : State) :
    (stepSegmentReceiveEff m s).clk.stride = s.clk.stride := by
  unfold stepSegmentReceiveEff; (repeat' split) <;> simp

@[simp] theorem stepMergeEff_stride (table : Nat) (tile : TileUse) (s : State) :
    (stepMergeEff table tile s).clk.stride = s.clk.stride := by
  unfold stepMergeEff; (repeat' split) <;> simp

@[simp] theorem stepMirrorEff_stride (table : Nat) (tile : TileUse) (s : State) :
    (stepMirrorEff table tile s).clk.stride = s.clk.stride := by
  unfold stepMirrorEff; (repeat' split) <;> simp

@[simp] theorem stepMirrorReceiveEff_stride (m : Bytes) (tile : TileUse) (s : State) :
    (stepMirrorReceiveEff m tile s).clk.stride = s.clk.stride := by
  unfold stepMirrorReceiveEff; simp only []; (repeat' split) <;> simp_all

@[simp] theorem State.applyInHbm_stride (s : State) (id : Nat) (before : Table) (uncorrectable : List Nat) (m : Merged) :
    (State.applyInHbm s id before uncorrectable m).clk.stride = s.clk.stride := by
  unfold State.applyInHbm; simp only []; (repeat' split) <;> simp_all

@[simp] theorem State.sendNotices_stride (s : State) (table num : Nat) (single : Bool) :
    (State.sendNotices s table num single).clk.stride = s.clk.stride := by
  unfold State.sendNotices; (repeat' split) <;> simp

@[simp] theorem stepApplyEff_stride (table : Nat) (u : List Nat) (s : State) :
    (stepApplyEff table u s).clk.stride = s.clk.stride := by
  unfold stepApplyEff
  split
  · rfl
  · split
    · rfl
    · split
      · rfl
      · simp only []
        split <;> simp

@[simp] theorem State.diverges_stride (s : State) :
    (State.diverges s).clk.stride = s.clk.stride := by rfl

@[simp] theorem stepDigestReceiveEff_stride (table num digest : Nat) (poisoned : List Nat) (s : State) :
    (stepDigestReceiveEff table num digest poisoned s).clk.stride = s.clk.stride := by
  unfold stepDigestReceiveEff; (repeat' split) <;> simp

@[simp] theorem stepDigestDeadlineEff_stride (table : Nat) (s : State) :
    (stepDigestDeadlineEff table s).clk.stride = s.clk.stride := by
  unfold stepDigestDeadlineEff; (repeat' split) <;> simp

@[simp] theorem State.finishStep_stride (s : State) (t : StepEntry) (missing : Bool) :
    (State.finishStep s t missing).clk.stride = s.clk.stride := by rfl

@[simp] theorem stepNoticeReceiveEff_stride (m : Bytes) (s : State) :
    (stepNoticeReceiveEff m s).clk.stride = s.clk.stride := by
  unfold stepNoticeReceiveEff; split <;> simp

@[simp] theorem stepNoticeDeadlineEff_stride (table : Nat) (s : State) :
    (stepNoticeDeadlineEff table s).clk.stride = s.clk.stride := by
  simp [stepNoticeDeadlineEff]

@[simp] theorem State.repairRow_stride (s : State) (table : Nat) (row : Nat) (num : Nat) (image : Bytes) (state : Bytes) :
    (State.repairRow s table row num image state).clk.stride = s.clk.stride := by
  unfold State.repairRow; simp only []; (repeat' split) <;> simp_all

@[simp] theorem stepPoisonRepairEff_stride (table row : Nat) (image state : Bytes) (s : State) :
    (stepPoisonRepairEff table row image state s).clk.stride = s.clk.stride := by
  unfold stepPoisonRepairEff; (repeat' split) <;> simp

/-! ## Update -/

@[simp] theorem State.admitUpdate_stride (s : State) (tag : Nat) (a : Admission) (x : Index) :
    (State.admitUpdate s tag a x).clk.stride = s.clk.stride := by
  simp [State.admitUpdate]

@[simp] theorem State.takeUpdate_stride (s0 : State) (tag : Nat) (tile : TileUse) (a : Admission) :
    (State.takeUpdate s0 tag tile a).clk.stride = s0.clk.stride := by
  unfold State.takeUpdate; simp only []; (repeat' split) <;> simp_all

@[simp] theorem updateAdmissionEff_stride (ring : Nat) (entry : Bytes) (tile : TileUse) (s : State) :
    (updateAdmissionEff ring entry tile s).clk.stride = s.clk.stride := by
  unfold updateAdmissionEff; (repeat' split) <;> (try rfl) <;> (apply State.admitRing_stride; intro t a; simp)

@[simp] theorem State.linked_stride (s : State) (v : View) (bad : List Nat) (before : Search) (w : Walk) (a : Nat) (sorter : SortUse) :
    (State.linked s v bad before w a sorter).clk.stride = s.clk.stride := by
  simp [State.linked]

@[simp] theorem updateForwardReceiveEff_stride (m : Bytes) (poisonRows : List Nat) (poisonLists : List Nat) (sorter : SortUse) (s : State) :
    (updateForwardReceiveEff m poisonRows poisonLists sorter s).clk.stride = s.clk.stride := by
  unfold updateForwardReceiveEff; simp only []; (repeat' split) <;> (try rfl) <;> simp [-ite_stride]

@[simp] theorem linkingRoundEff_stride (key : Nat) (poisonRows : List Nat) (poisonLists : List Nat) (sorter : SortUse) (tile : TileUse) (s : State) :
    (linkingRoundEff key poisonRows poisonLists sorter tile s).clk.stride = s.clk.stride := by
  unfold linkingRoundEff; (repeat' split) <;> simp

@[simp] theorem State.stageOne_stride (s : State) (w : ServedUpdate × TileUse) :
    (State.stageOne s w).clk.stride = s.clk.stride := by
  unfold State.stageOne; simp only []; (repeat' split) <;> simp_all

@[simp] theorem updateStagingEff_stride (tiles : List TileUse) (s : State) :
    (updateStagingEff tiles s).clk.stride = s.clk.stride := by
  simp [updateStagingEff]

@[simp] theorem mirrorRecordReceiveEff_stride (m : Bytes) (s : State) :
    (mirrorRecordReceiveEff m s).clk.stride = s.clk.stride := by
  unfold mirrorRecordReceiveEff; (repeat' split) <;> simp

@[simp] theorem State.holdPending_stride (s : State) (serving : Bool) (handle entryNode : Nat) :
    (State.holdPending s serving handle entryNode).clk.stride = s.clk.stride := by rfl

@[simp] theorem mirrorAckReceiveEff_stride (handle entryNode : Nat) (s : State) :
    (mirrorAckReceiveEff handle entryNode s).clk.stride = s.clk.stride := by
  simp [mirrorAckReceiveEff]

@[simp] theorem mirrorConfirmReceiveEff_stride (handle entryNode : Nat) (s : State) :
    (mirrorConfirmReceiveEff handle entryNode s).clk.stride = s.clk.stride := by
  simp [mirrorConfirmReceiveEff]

@[simp] theorem State.commitUpdates_stride (s : State) :
    (State.commitUpdates s).clk.stride = s.clk.stride := by
  simp [State.commitUpdates]

@[simp] theorem commitDigestReceiveEff_stride (stride digest : Nat) (s : State) :
    (commitDigestReceiveEff stride digest s).clk.stride = s.clk.stride := by
  simp [commitDigestReceiveEff]

@[simp] theorem commitDigestDeadlineEff_stride (s : State) :
    (commitDigestDeadlineEff s).clk.stride = s.clk.stride := by
  simp [commitDigestDeadlineEff]

@[simp] theorem State.finishUpdate_stride (s : State) (h : Nat) (u : EntryUpdate) (status flags loc : Nat) :
    (State.finishUpdate s h u status flags loc).clk.stride = s.clk.stride := by rfl

@[simp] theorem updateAckReceiveEff_stride (m : Bytes) (s : State) :
    (updateAckReceiveEff m s).clk.stride = s.clk.stride := by
  unfold updateAckReceiveEff; simp only []; (repeat' split) <;> simp

@[simp] theorem State.loseUpdate_stride (s : State) (h : Nat) (u : EntryUpdate) :
    (State.loseUpdate s h u).clk.stride = s.clk.stride := by rfl

@[simp] theorem updateReplyDeadlineEff_stride (h : Nat) (s : State) :
    (updateReplyDeadlineEff h s).clk.stride = s.clk.stride := by
  unfold updateReplyDeadlineEff; split <;> simp

/-! ## Version -/

@[simp] theorem State.admitIndexBuild_stride (s : State) (id : Nat) (x : Index) (b : Build) (poison : List Nat) :
    (State.admitIndexBuild s id x b poison).clk.stride = s.clk.stride := by
  simp [State.admitIndexBuild]

@[simp] theorem State.admitTableBuild_stride (s : State) (id : Nat) (x : Table) (b : Build) :
    (State.admitTableBuild s id x b).clk.stride = s.clk.stride := by
  simp [State.admitTableBuild]

@[simp] theorem State.readSource_stride (s : State) (b : Build) (size : Nat) (reads : List FlashRead) :
    (State.readSource s b size reads).clk.stride = s.clk.stride := by
  unfold State.readSource
  split
  · rfl
  · refine foldl_stride (fun t u => ?_) _ _
    split
    · simp only []; (repeat' split) <;> simp
    · rfl

@[simp] theorem buildAdmissionEff_stride (id : Nat) (poisonRows : List Nat) (reads : List FlashRead) (s : State) :
    (buildAdmissionEff id poisonRows reads s).clk.stride = s.clk.stride := by
  unfold buildAdmissionEff; (repeat' split) <;> simp

@[simp] theorem State.versionReady_stride (s : State) (opcode id : Nat) (b : Build) (status digest step : Nat) :
    (State.versionReady s opcode id b status digest step).clk.stride = s.clk.stride := by
  simp [State.versionReady]

@[simp] theorem State.endIndexBuild_stride (s : State) (id : Nat) (x : Index) (b : Build) (status : Nat) :
    (State.endIndexBuild s id x b status).clk.stride = s.clk.stride := by
  unfold State.endIndexBuild; split <;> simp

@[simp] theorem State.endTableBuild_stride (s : State) (id : Nat) (x : Table) (b : Build) (status : Nat) :
    (State.endTableBuild s id x b status).clk.stride = s.clk.stride := by
  unfold State.endTableBuild; split <;> simp

@[simp] theorem versionBuiltEff_stride (id : Nat) (s : State) :
    (versionBuiltEff id s).clk.stride = s.clk.stride := by
  unfold versionBuiltEff; (repeat' split) <;> simp

@[simp] theorem State.voidBuilds_stride (s : State) : s.voidBuilds.clk.stride = s.clk.stride := by
  unfold State.voidBuilds
  simp only []
  rw [foldl_stride, foldl_stride]
  all_goals
    intro t a
    repeat' split
    all_goals simp

@[simp] theorem State.setSwitch_stride (s : State) (id : Nat) (w : Option Switch) :
    (State.setSwitch s id w).clk.stride = s.clk.stride := by rfl

@[simp] theorem switchTupleReceiveEff_stride (id version stride digest : Nat) (s : State) :
    (switchTupleReceiveEff id version stride digest s).clk.stride = s.clk.stride := by
  simp [switchTupleReceiveEff]

@[simp] theorem State.dropSwitch_stride (s : State) (id : Nat) (w : Switch) :
    (State.dropSwitch s id w).clk.stride = s.clk.stride := by
  simp [State.dropSwitch]

@[simp] theorem State.decideSwitch_stride (s : State) (id : Nat) :
    (State.decideSwitch s id).clk.stride = s.clk.stride := by
  unfold State.decideSwitch; split <;> simp

@[simp] theorem goRecordDeadlineEff_stride (s : State) :
    (goRecordDeadlineEff s).clk.stride = s.clk.stride := by
  simp [goRecordDeadlineEff]

@[simp] theorem goRecordReceiveEff_stride (id version stride digest : Nat) (s : State) :
    (goRecordReceiveEff id version stride digest s).clk.stride = s.clk.stride := by
  unfold goRecordReceiveEff; split <;> simp

@[simp] theorem versionPairReceiveEff_stride (id version : Nat) (s : State) :
    (versionPairReceiveEff id version s).clk.stride = s.clk.stride := by
  simp [versionPairReceiveEff]

@[simp] theorem versionPairDeadlineEff_stride (s : State) :
    (versionPairDeadlineEff s).clk.stride = s.clk.stride := by
  simp [versionPairDeadlineEff]

@[simp] theorem State.applySwitch_stride (s : State) (id : Nat) :
    (State.applySwitch s id).clk.stride = s.clk.stride := by
  unfold State.applySwitch; split <;> simp

@[simp] theorem State.applySwitches_stride (s : State) :
    (State.applySwitches s).clk.stride = s.clk.stride := by
  simp [State.applySwitches]

@[simp] theorem State.freeVersions_stride (s : State) :
    (State.freeVersions s).clk.stride = s.clk.stride := by rfl

@[simp] theorem State.freeObject_stride (s : State) (id : Nat) :
    (State.freeObject s id).clk.stride = s.clk.stride := by
  simp [State.freeObject]

@[simp] theorem indexCloseDrainedEff_stride (id : Nat) (s : State) :
    (indexCloseDrainedEff id s).clk.stride = s.clk.stride := by
  simp [indexCloseDrainedEff]

@[simp] theorem State.closeScrubbed_stride (s : State) (c : Nat) :
    (State.closeScrubbed s c).clk.stride = s.clk.stride := by
  simp [State.closeScrubbed]

@[simp] theorem contextCloseDrainedEff_stride (c : Nat) (s : State) :
    (contextCloseDrainedEff c s).clk.stride = s.clk.stride := by
  unfold contextCloseDrainedEff; split <;> simp

@[simp] theorem State.hbmZero_stride (s : State) (a n : Nat) :
    (State.hbmZero s a n).clk.stride = s.clk.stride := by rfl

@[simp] theorem State.scrubStack_stride (l : List Nat) (n : Nat) (s : State) : (State.scrubStack l n s).clk.stride = s.clk.stride := by
  induction l generalizing n s with
  | nil => rfl
  | cons g l ih => unfold State.scrubStack; simp only []; (repeat' split) <;> simp [ih]

@[simp] theorem granuleScrubEff_stride (s : State) :
    (granuleScrubEff s).clk.stride = s.clk.stride := by
  simp [granuleScrubEff]

@[simp] theorem versionFillEff_stride (id version : Nat) (s : State) :
    (versionFillEff id version s).clk.stride = s.clk.stride := by rfl

/-! ## Mirror -/

@[simp] theorem State.groupFigures_stride (s : State) :
    (State.groupFigures s).2.clk.stride = s.clk.stride := by
  unfold State.groupFigures
  rw [foldl_snd_stride]
  intro x p
  (repeat' split) <;> simp

@[simp] theorem State.writeMirror_stride (s : State) (n : Nat) : (s.writeMirror n).clk.stride = s.clk.stride := by
  unfold State.writeMirror
  simp

@[simp] theorem mirrorPublicationEff_stride (s : State) : (mirrorPublicationEff s).clk.stride = s.clk.stride := by
  unfold mirrorPublicationEff
  simp only []
  split
  · rfl
  · repeat' split
    all_goals simp

@[simp] theorem mctpMirrorReadEff_stride (o n : Nat) (s : State) :
    (mctpMirrorReadEff o n s).clk.stride = s.clk.stride := by
  simp [mctpMirrorReadEff]

/-! ## Bar0 -/

@[simp] theorem mailboxWrite_stride (f o : Nat) (value : Word32) (s : State) :
    (mailboxWrite f o value s).clk.stride = s.clk.stride := by
  simp [mailboxWrite]

@[simp] theorem bar0Write_stride (f : Nat) (offset : Nat) (value : Word32) (reassert : Word32) (s : State) :
    (bar0Write f offset value reassert s).clk.stride = s.clk.stride := by
  simp [bar0Write]

@[simp] theorem bar4Write_stride (f : Nat) (offset : Nat) (value : Word32) (s : State) :
    (bar4Write f offset value s).clk.stride = s.clk.stride := by
  simp [bar4Write]

@[simp] theorem wordWrite_stride (f : Nat) (bar : Nat) (offset : Nat) (value : Word32) (reassert : Word32) (s : State) :
    (wordWrite f bar offset value reassert s).clk.stride = s.clk.stride := by
  simp [wordWrite]

@[simp] theorem registerWriteEff_stride (f : Nat) (bar : Nat) (offset : Nat) (size : Nat) (value : Word64) (reassert : Word64) (s : State) :
    (registerWriteEff f bar offset size value reassert s).clk.stride = s.clk.stride := by
  simp [registerWriteEff]

/-! ## Membership -/

@[simp] theorem State.flood_stride (s : State) (except : Option Nat) (body : Bytes) :
    (State.flood s except body).clk.stride = s.clk.stride := by
  simp [State.flood]

@[simp] theorem State.modMemb_stride (s : State) (g : Membership → Membership) :
    (State.modMemb s g).clk.stride = s.clk.stride := by rfl

@[simp] theorem State.accuse_stride (s : State) (subject : Nat) (dst : Nat) :
    (State.accuse s subject dst).clk.stride = s.clk.stride := by
  simp [State.accuse]

@[simp] theorem State.accuseBoth_stride (s : State) (subject : Nat) :
    (State.accuseBoth s subject).clk.stride = s.clk.stride := by
  simp [State.accuseBoth]

@[simp] theorem heartbeatSendEff_stride (s : State) :
    (heartbeatSendEff s).clk.stride = s.clk.stride := by
  simp [heartbeatSendEff]

@[simp] theorem State.takesFrom_stride {s : State} {sender : Nat} {take : State → State}
    (h : ∀ t, (take t).clk.stride = t.clk.stride) : (s.takesFrom sender take).clk.stride = s.clk.stride := by
  unfold State.takesFrom
  (repeat' split) <;> simp [h]

@[simp] theorem heartbeatReceiveEff_stride (p : Nat) (r : Bytes) (s : State) :
    (heartbeatReceiveEff p r s).clk.stride = s.clk.stride := by
  simp [heartbeatReceiveEff]

@[simp] theorem State.vouchTo_stride (s : State) (subject : Nat) (dst : Nat) :
    (State.vouchTo s subject dst).clk.stride = s.clk.stride := by
  simp [State.vouchTo]

@[simp] theorem State.vouch_stride (s : State) (subject : Nat) :
    (State.vouch s subject).clk.stride = s.clk.stride := by
  simp [State.vouch]

@[simp] theorem accusationReceiveEff_stride (r : Bytes) (s : State) :
    (accusationReceiveEff r s).clk.stride = s.clk.stride := by
  simp [accusationReceiveEff]

@[simp] theorem vouchReceiveEff_stride (r : Bytes) (s : State) :
    (vouchReceiveEff r s).clk.stride = s.clk.stride := by
  simp [vouchReceiveEff]

@[simp] theorem State.countMiss_stride (s : State) (n : Nat) :
    (State.countMiss s n).clk.stride = s.clk.stride := by
  simp [State.countMiss]

@[simp] theorem heartbeatMissEff_stride (s : State) :
    (heartbeatMissEff s).clk.stride = s.clk.stride := by
  simp [heartbeatMissEff]

@[simp] theorem State.fenceEvent_stride (s : State) (x : Fence) (epoch : Nat) :
    (State.fenceEvent s x epoch).clk.stride = s.clk.stride := by
  simp [State.fenceEvent]

@[simp] theorem State.decideFence_stride (s : State) (d : Nat × Nat) :
    (State.decideFence s d).clk.stride = s.clk.stride := by
  simp [State.decideFence]

@[simp] theorem State.stopFenced_stride (s : State) :
    (State.stopFenced s).clk.stride = s.clk.stride := by rfl

@[simp] theorem State.decideFences_stride (s : State) (l : List (Nat × Nat)) :
    (State.decideFences s l).clk.stride = s.clk.stride := by
  simp [State.decideFences]

@[simp] theorem fenceDecisionEff_stride (s : State) :
    (fenceDecisionEff s).clk.stride = s.clk.stride := by
  simp [fenceDecisionEff]

@[simp] theorem fenceRecordReceiveEff_stride (p : Nat) (r : Bytes) (s : State) :
    (fenceRecordReceiveEff p r s).clk.stride = s.clk.stride := by
  simp [fenceRecordReceiveEff]

@[simp] theorem State.adoptFence_stride (s : State) (x : Fence) :
    (State.adoptFence s x).clk.stride = s.clk.stride := by
  simp [State.adoptFence]

@[simp] theorem State.adoptFences_stride (s : State) :
    (State.adoptFences s).clk.stride = s.clk.stride := by
  simp [State.adoptFences]

@[simp] theorem herdStatusEff_stride (f : Nat) (s : State) :
    (herdStatusEff f s).clk.stride = s.clk.stride := by
  unfold herdStatusEff; apply State.serve_stride; intro t q; rfl

@[simp] theorem herdTeardownEff_stride (f : Nat) (s : State) :
    (herdTeardownEff f s).clk.stride = s.clk.stride := by
  unfold herdTeardownEff; apply State.serve_stride; intro t q; simp only [refuse, accept, report]; (repeat' split) <;> simp

@[simp] theorem herdRemountEff_stride (f : Nat) (s : State) :
    (herdRemountEff f s).clk.stride = s.clk.stride := by
  unfold herdRemountEff; split; · rfl
  apply State.serve_stride; intro t q; simp only [refuse, accept, report]; (repeat' split) <;> simp

@[simp] theorem herdRemountCancelEff_stride (f : Nat) (s : State) :
    (herdRemountCancelEff f s).clk.stride = s.clk.stride := by
  unfold herdRemountCancelEff; split; · rfl
  apply State.serve_stride; intro t q; simp only [refuse, accept, report]; (repeat' split) <;> simp

@[simp] theorem herdUnitReturnEff_stride (f : Nat) (s : State) :
    (herdUnitReturnEff f s).clk.stride = s.clk.stride := by
  unfold herdUnitReturnEff; apply State.serve_stride; intro t q; simp only [refuse, accept, report]; (repeat' split) <;> simp

@[simp] theorem State.stopJob_stride (s : State) (c : Nat) :
    (State.stopJob s c).clk.stride = s.clk.stride := by
  simp [State.stopJob]

@[simp] theorem State.dropServed_stride (s : State) (c : Nat) :
    (State.dropServed s c).clk.stride = s.clk.stride := by rfl

@[simp] theorem State.closeWindows_stride (s : State) (c : Nat) :
    (State.closeWindows s c).clk.stride = s.clk.stride := by rfl

@[simp] theorem State.tearDown_stride (s : State) (c : Nat) :
    (State.tearDown s c).clk.stride = s.clk.stride := by
  simp [State.tearDown]

/-! ## Power -/

@[simp] theorem State.begin_stride (s : State) :
    (State.begin s).clk.stride = s.clk.stride := by
  simp [State.begin]

@[simp] theorem powerArrivalEff_stride (s : State) :
    (powerArrivalEff s).clk.stride = s.clk.stride := by
  simp [powerArrivalEff]





@[simp] theorem resetNReleaseEff_stride (s : State) :
    (resetNReleaseEff s).clk.stride = s.clk.stride := by
  simp [resetNReleaseEff]

@[simp] theorem State.halt_stride (s : State) (st : Nat) :
    (State.halt s st).clk.stride = s.clk.stride := by rfl

@[simp] theorem State.startFlush_stride (s : State) (st : Nat) :
    (State.startFlush s st).clk.stride = s.clk.stride := by rfl

@[simp] theorem pwrfailNAssertEff_stride (s : State) :
    (pwrfailNAssertEff s).clk.stride = s.clk.stride := by
  simp [pwrfailNAssertEff]



@[simp] theorem State.crossings_stride (s : State) (now : List Int) :
    (State.crossings s now).clk.stride = s.clk.stride := by
  simp [State.crossings]

@[simp] theorem State.trip_stride (s : State) :
    (State.trip s).clk.stride = s.clk.stride := by
  simp [State.trip]

@[simp] theorem junctionSampleEff_stride (now : List Int) (s : State) :
    (junctionSampleEff now s).clk.stride = s.clk.stride := by
  simp [junctionSampleEff]

@[simp] theorem remountCheckpointEff_stride (s : State) :
    (remountCheckpointEff s).clk.stride = s.clk.stride := by
  unfold remountCheckpointEff; split <;> simp



/-! ## Trust -/

@[simp] theorem trustAttestEff_stride (f : Nat) (s : State) :
    (trustAttestEff f s).clk.stride = s.clk.stride := by
  unfold trustAttestEff; apply State.serve_stride; intro t q; rfl

@[simp] theorem trustBrandRecordEff_stride (f : Nat) (s : State) :
    (trustBrandRecordEff f s).clk.stride = s.clk.stride := by
  unfold trustBrandRecordEff; apply State.serve_stride; intro t q; rfl

@[simp] theorem trustFwUpdateEff_stride (f : Nat) (image : Bytes) (s : State) :
    (trustFwUpdateEff f image s).clk.stride = s.clk.stride := by
  unfold trustFwUpdateEff; split; · rfl
  apply State.serve_stride; intro t q; simp only [refuse, accept, report]; (repeat' split) <;> simp

@[simp] theorem trustDebugChallengeEff_stride (f : Nat) (s : State) :
    (trustDebugChallengeEff f s).clk.stride = s.clk.stride := by
  unfold trustDebugChallengeEff; split; · rfl
  apply State.serve_stride; intro t q; simp only [refuse, accept, report]; (repeat' split) <;> simp

@[simp] theorem trustDebugUnlockEff_stride (f : Nat) (s : State) :
    (trustDebugUnlockEff f s).clk.stride = s.clk.stride := by
  unfold trustDebugUnlockEff; split; · rfl
  apply State.serve_stride; intro t q; simp only [refuse, accept, report]; (repeat' split) <;> simp

@[simp] theorem trustIdeKeyEff_stride (f : Nat) (s : State) :
    (trustIdeKeyEff f s).clk.stride = s.clk.stride := by
  unfold trustIdeKeyEff; apply State.serve_stride; intro t q; simp only [refuse, accept, report]; (repeat' split) <;> simp

/-! ## Startup -/

@[simp] theorem State.enter_stride (s : State) (n : Nat) :
    (State.enter s n).clk.stride = s.clk.stride := by rfl

@[simp] theorem State.fail_stride (s : State) (code : Nat) :
    (State.fail s code).clk.stride = s.clk.stride := by
  simp [State.fail]

@[simp] theorem stageTimeoutEff_stride (s : State) :
    (stageTimeoutEff s).clk.stride = s.clk.stride := by
  simp [stageTimeoutEff]

@[simp] theorem railsInRegulationEff_stride (failure : Nat) (s : State) :
    (railsInRegulationEff failure s).clk.stride = s.clk.stride := by
  simp [railsInRegulationEff]

@[simp] theorem firmwareMeasuredStartEff_stride (secret : Bytes) (s : State) :
    (firmwareMeasuredStartEff secret s).clk.stride = s.clk.stride := by
  unfold firmwareMeasuredStartEff; (repeat' split) <;> simp

@[simp] theorem tackImageReceiveEff_stride (b : Bytes) (s : State) :
    (tackImageReceiveEff b s).clk.stride = s.clk.stride := by
  unfold tackImageReceiveEff; (repeat' split) <;> simp

@[simp] theorem State.settleUnits_stride (s : State) (stage : Nat) (failed : List (Nat × Nat)) :
    (State.settleUnits s stage failed).clk.stride = s.clk.stride := by rfl

@[simp] theorem State.dropLanes_stride (s : State) (lost : List (Nat × Nat)) :
    (State.dropLanes s lost).clk.stride = s.clk.stride := by rfl

@[simp] theorem State.admitUnits_stride (s : State) (lanes : BitVec 36) :
    (State.admitUnits s lanes).clk.stride = s.clk.stride := by rfl

@[simp] theorem State.toParents_stride (s : State) (b : Bytes) :
    (State.toParents s b).clk.stride = s.clk.stride := by
  simp [State.toParents]

@[simp] theorem State.enterJoin_stride (s : State) :
    (State.enterJoin s).clk.stride = s.clk.stride := by
  simp [State.enterJoin]

@[simp] theorem unitTrainingEff_stride (stage : Nat) (r : UnitReport) (s : State) :
    (unitTrainingEff stage r s).clk.stride = s.clk.stride := by
  simp [unitTrainingEff]

@[simp] theorem State.programNow_stride (ch : Nat) (s : State) (o : ArrayOp) :
    (State.programNow ch s o).clk.stride = s.clk.stride := by
  unfold State.programNow; (repeat' split) <;> simp

@[simp] theorem State.programPage_stride (ch : Nat) (pad : Nat) (s : State) (units : List (Nat × PastWrite)) :
    (State.programPage ch pad s units).clk.stride = s.clk.stride := by
  simp [State.programPage]

@[simp] theorem State.programUnits_stride (pad : Nat) (s : State) (ch : Nat) :
    (State.programUnits pad s ch).clk.stride = s.clk.stride := by
  simp [State.programUnits]

@[simp] theorem State.programBack_stride (s : State) :
    (State.programBack s).clk.stride = s.clk.stride := by
  simp [State.programBack]

@[simp] theorem State.movesNow_stride (s : State) (ch : Nat) :
    (State.movesNow s ch).clk.stride = s.clk.stride := by
  simp [State.movesNow]

@[simp] theorem State.retireDie_stride (s : State) (u : Nat × Nat) :
    (State.retireDie s u).clk.stride = s.clk.stride := by
  simp [State.retireDie]

@[simp] theorem State.enterTraining_stride (s : State) :
    (State.enterTraining s).clk.stride = s.clk.stride := by rfl

@[simp] theorem flashScanEff_stride (r : ScanReport) (s : State) :
    (flashScanEff r s).clk.stride = s.clk.stride := by
  simp [flashScanEff]

@[simp] theorem portTrainingEff_stride (p : Nat) (r : PortReport) (s : State) :
    (portTrainingEff p r s).clk.stride = s.clk.stride := by
  simp [portTrainingEff]

@[simp] theorem joinRecordReceiveEff_stride (b : Bytes) (s : State) :
    (joinRecordReceiveEff b s).clk.stride = s.clk.stride := by
  simp [joinRecordReceiveEff]



@[simp] theorem strideLockEff_stride (errors : List Int) (s : State) :
    (strideLockEff errors s).clk.stride = s.clk.stride := by
  simp [strideLockEff]

@[simp] theorem lateJoinWaitEff_stride (s : State) :
    (lateJoinWaitEff s).clk.stride = s.clk.stride := by
  simp [lateJoinWaitEff]

@[simp] theorem State.zeroCounters_stride (s : State) :
    (State.zeroCounters s).clk.stride = s.clk.stride := by rfl

@[simp] theorem serviceGaitAdoptionEff_stride (absent : List Nat) (s : State) :
    (serviceGaitAdoptionEff absent s).clk.stride = s.clk.stride := by
  unfold serviceGaitAdoptionEff
  simp only []
  split
  · rfl
  · split
    · simp
    · simp only [State.enter_stride]
      rw [foldl_stride (fun t a => State.adoptFence_stride t a)]
      simp

@[simp] theorem State.finishCloses_stride (s : State) :
    (State.finishCloses s).clk.stride = s.clk.stride := by rfl

@[simp] theorem State.unwrapKeys_stride (s : State) :
    (State.unwrapKeys s).clk.stride = s.clk.stride := by
  simp [State.unwrapKeys]

@[simp] theorem State.restoreFrom_stride (s : State) (c : Checkpoint) :
    (State.restoreFrom s c).clk.stride = s.clk.stride := by rfl

@[simp] theorem State.restoreOwn_stride (s : State) :
    (State.restoreOwn s).clk.stride = s.clk.stride := by
  unfold State.restoreOwn; (repeat' split) <;> simp

@[simp] theorem State.restoreSteps_stride (s : State) (steps : List (Nat × Nat)) :
    (State.restoreSteps s steps).clk.stride = s.clk.stride := by rfl

@[simp] theorem State.takeUnits_stride (s : State) (u : List (Nat × Nat × Bytes)) :
    (s.takeUnits u).clk.stride = s.clk.stride := by
  unfold State.takeUnits
  rw [foldl_stride]
  simp

@[simp] theorem State.grantAll_stride (s : State) :
    (State.grantAll s).clk.stride = s.clk.stride := by
  simp [State.grantAll]

@[simp] theorem State.clearSingle_stride (s : State) :
    (State.clearSingle s).clk.stride = s.clk.stride := by rfl

@[simp] theorem State.supplyPartner_stride (s : State) :
    (State.supplyPartner s).clk.stride = s.clk.stride := by
  unfold State.supplyPartner; (repeat' split) <;> simp

theorem State.restored_stride {s t : State} {r : RestoreReport} (h : s.restored r = some t) : t.clk.stride = s.clk.stride := by
  unfold State.restored at h
  (repeat' split at h) <;> first | (cases h; simp; done) | cases h

@[simp] theorem stateRestoreEff_stride (r : RestoreReport) (s : State) : (stateRestoreEff r s).clk.stride = s.clk.stride := by
  unfold stateRestoreEff; simp only []
  split
  · rfl
  · split
    · simp
    · split
      · simp
      · rename_i h
        have h := State.restored_stride h
        simp only [State.unwrapKeys_stride, State.finishCloses_stride] at h
        (repeat' split) <;> simp [h]

@[simp] theorem versionFilledEff_stride (id : Nat) (version : Nat) (reads : List FlashRead) (s : State) :
    (versionFilledEff id version reads s).clk.stride = s.clk.stride := by
  unfold versionFilledEff; (repeat' split) <;> simp

/-! ## Device -/

@[simp] theorem deviceFormatEff_stride (f : Nat) (s : State) :
    (deviceFormatEff f s).clk.stride = s.clk.stride := by
  unfold deviceFormatEff; apply State.serve_stride; intro t q; simp only [refuse, accept, report]; (repeat' split) <;> simp

@[simp] theorem controlCoreFaultEff_stride (s : State) :
    (controlCoreFaultEff s).clk.stride = s.clk.stride := by rfl

@[simp] theorem controlCoreRestartedEff_stride (s : State) :
    (controlCoreRestartedEff s).clk.stride = s.clk.stride := by
  simp [controlCoreRestartedEff]

@[simp] theorem managementCoreCrashEff_stride (s : State) :
    (managementCoreCrashEff s).clk.stride = s.clk.stride := by rfl

@[simp] theorem State.managementRestart_stride (s : State) :
    (State.managementRestart s).clk.stride = s.clk.stride := by rfl

/-! ## Boundary -/

@[simp] theorem State.stopSteps_stride (s : State) (table : Nat) (which : Step → Bool) :
    (State.stopSteps s table which).clk.stride = s.clk.stride := by rfl

@[simp] theorem State.stopWork_stride (s : State) (w : Nat) :
    (State.stopWork s w).clk.stride = s.clk.stride := by
  unfold State.stopWork; simp only []; (repeat' split) <;> simp_all

@[simp] theorem State.overran_stride (s : State) (w : Nat) :
    (State.overran s w).clk.stride = s.clk.stride := by
  simp [State.overran]

@[simp] theorem State.stopOverdue_stride (s : State) :
    (State.stopOverdue s).clk.stride = s.clk.stride := by
  simp [State.stopOverdue]

@[simp] theorem State.stopUnits_stride (s : State) :
    (State.stopUnits s).clk.stride = s.clk.stride := by
  simp [State.stopUnits]

@[simp] theorem State.endReplies_stride (s : State) :
    (State.endReplies s).clk.stride = s.clk.stride := by
  simp [State.endReplies]

@[simp] theorem State.dropStale_stride (s : State) :
    (State.dropStale s).clk.stride = s.clk.stride := by rfl

@[simp] theorem State.endStride_stride (s : State) (overrun : List Nat) :
    (State.endStride s overrun).clk.stride = s.clk.stride := by
  simp [State.endStride]

@[simp] theorem State.sendMarks_stride (s : State) :
    (State.sendMarks s).clk.stride = s.clk.stride := by
  simp [State.sendMarks]

@[simp] theorem State.writeRow_stride (s : State) (id : Nat) (r : TableRow) :
    (State.writeRow s id r).clk.stride = s.clk.stride := by
  unfold State.writeRow; simp only []; (repeat' split) <;> simp_all

@[simp] theorem State.applyWrites_stride (s : State) (id : Nat) :
    (State.applyWrites s id).clk.stride = s.clk.stride := by
  unfold State.applyWrites; (repeat' split) <;> simp

@[simp] theorem State.fixLookups_stride (s : State) :
    (State.fixLookups s).clk.stride = s.clk.stride := by rfl

@[simp] theorem State.visibility_stride (s : State) :
    (State.visibility s).clk.stride = s.clk.stride := by
  simp [State.visibility]

@[simp] theorem State.adoptAperture_stride (s : State) (f a : Nat) :
    (State.adoptAperture s f a).clk.stride = s.clk.stride := by
  simp [State.adoptAperture]

@[simp] theorem State.adoptShadows_stride (s : State) :
    (State.adoptShadows s).clk.stride = s.clk.stride := by
  simp [State.adoptShadows]

@[simp] theorem State.mount_stride (s : State) (u : UnitSet) :
    (State.mount s u).clk.stride = s.clk.stride := by rfl

@[simp] theorem State.adoptGait_stride (s : State) :
    (State.adoptGait s).clk.stride = s.clk.stride := by
  unfold State.adoptGait; (repeat' split) <;> simp

@[simp] theorem State.createContext_stride (s : State) (c f : Nat) :
    (State.createContext s c f).clk.stride = s.clk.stride := by rfl

@[simp] theorem State.closeObject_stride (s : State) (id : Nat) :
    (State.closeObject s id).clk.stride = s.clk.stride := by rfl

@[simp] theorem State.closeContext_stride (s : State) (c : Nat) :
    (State.closeContext s c).clk.stride = s.clk.stride := by
  unfold State.closeContext; split <;> simp

@[simp] theorem State.applyChange_stride (s : State) (x1 : Change) :
    (State.applyChange s x1).clk.stride = s.clk.stride := by
  unfold State.applyChange; (repeat' split) <;> simp

@[simp] theorem State.adoptChanges_stride (s : State) :
    (State.adoptChanges s).clk.stride = s.clk.stride := by
  simp [State.adoptChanges]

@[simp] theorem State.closeDetached_stride (s : State) :
    (State.closeDetached s).clk.stride = s.clk.stride := by
  simp [State.closeDetached]

@[simp] theorem State.release_stride (s : State) :
    (State.release s).clk.stride = s.clk.stride := by rfl

@[simp] theorem State.remountAt_stride (s : State) :
    (State.remountAt s).clk.stride = s.clk.stride := by
  unfold State.remountAt; split <;> simp

@[simp] theorem State.adoption_stride (s : State) :
    (State.adoption s).clk.stride = s.clk.stride := by
  simp [State.adoption]

@[simp] theorem State.commitFlags_stride (s : State) :
    (State.commitFlags s).clk.stride = s.clk.stride := by rfl



end Sys2Proof.Machine
end

