-- ==== Sys2Proof/Machine/AtRest.lean ====
section
/-! DEFINITION. How what the node holds stands in its DRAM and NAND: the ciphers of DDR and flash, the flash codewords and
pages, and where records and spread structures lie (R200, R201, R203, R259, R260). State holds the plain data; these
functions say what bytes stand in the parts. The LDPC code is named by the manual and not printed, so its parity is a constant with
no body (log entry 8). -/

namespace Sys2Proof.Machine

/-- The key under which DDR blocks of a context stand: none where the context's keys are not in the key store (R200). -/
def State.ddrKeyOf (s : State) (context : Nat) : Option Bytes :=
  if context = 0 then some ownKey
  else (SMap.find? s.contexts context).bind fun c => c.ddrKey

/-- The key under which flash data of a context stands (R260). -/
def State.flashKeyOf (s : State) (context : Nat) : Option Bytes :=
  if context = 0 then some ownKey
  else (SMap.find? s.contexts context).bind fun c => c.flashKey

/-- AES-256-XTS of data whose first data unit of `size` bytes has the tweak `first`; each next unit has the next tweak. -/
def encipher (key : Bytes) (size first : Nat) (data : Bytes) : Bytes :=
  (chunks size ((data.length + size - 1) / size) data).zipIdx.flatMap fun u => xtsEncrypt key (first + u.2) u.1

/-- The DDR data unit: one 64-byte block, its tweak the block's DDR address in 64-byte units (R200). -/
def State.ddrImage (s : State) (context address : Nat) (data : Bytes) : Option Bytes :=
  (s.ddrKeyOf context).map fun k => encipher k 64 (address / 64) data

/-- The flash data unit: 4 KiB in user paddocks and 64 bytes in paddock 0 (R260). -/
def flashUnit (paddock : Nat) : Nat := if paddock = 0 then 64 else 4096

/-- The flash tweak of the data unit at a logical byte offset of a paddock (R260). -/
def flashTweak (paddock offset : Nat) : Nat := paddock * 2 ^ 48 + offset / flashUnit paddock

/-- May a codeword hold `d` data bytes (R259)? -/
def codewordOk (d : Nat) : Bool := decide (d % 64 = 0 ∧ 64 ≤ d ∧ d ≤ 8256)

/-- A codeword: its data part, then its LDPC parity (R259). -/
def ldpcWord (data : Bytes) : Bytes := data ++ (List.range (parityBytes data.length)).map (Config.ldpcByte data)

/-- The codeword in which a paddock's data stands, at a logical byte offset: enciphered, then encoded (R260). -/
def State.flashWord (s : State) (context paddock offset : Nat) (data : Bytes) : Option Bytes :=
  (s.flashKeyOf context).map fun k => ldpcWord (encipher k (flashUnit paddock) (flashTweak paddock offset) data)

/-- The codeword of a unit of a user paddock: 4,096 + 256 bytes (R259). -/
def State.unitWord (s : State) (paddock unit : Nat) : Option Bytes :=
  (SMap.find? s.flash.paddocks paddock).bind fun p =>
    s.flashWord p.context paddock (4096 * unit) (((SMap.find? p.units unit).map (·.data)).getD (zeros 4096))

/-- A page: codewords end to end, none crossing it, the rest of their room and the metadata after them (R259). -/
def pageImage (words : List Bytes) (metadata : Bytes) : Bytes := fit pageWords words.flatten ++ fit 1024 metadata

/-- Do codewords fit a page? -/
def pageFits (words : List Bytes) : Bool := decide (words.flatten.length ≤ pageWords)

/-- A user paddock's map entry for a unit (R264): 5 bytes with the physical unit, mapped and deferred-error bits. -/
def mapEntry (x : Option StoredUnit) : Bytes :=
  match x with
  | some x => toLe 5 x.entry
  | none => zeros 5

/-- The map of a user paddock as it stands in HBM (R264). -/
def Paddock.mapBytes (p : Paddock) : Bytes := (List.range p.capacity).flatMap fun u => mapEntry (SMap.find? p.units u)

/-- What a unit's spare bytes carry: paddock, logical unit, write sequence and write unit count (R264). -/
def unitMeta (paddock unit : Nat) (x : StoredUnit) : Nat × Nat × Nat × Nat := (paddock, unit, x.sequence, x.group)

/-- The scan's test of a write by the spare bytes of the units found: all of its units are there (R264, R281). -/
def writeFound (found : List (Nat × Nat × Nat × Nat)) (paddock sequence : Nat) : Bool :=
  let mine := found.filter fun m => m.1 = paddock && m.2.2.1 = sequence
  mine.any fun m => m.2.2.2 = mine.length

/-- Where a 2 KiB unit of a structure spread over HBM lies: stack and pseudo-channel (R201). -/
def spreadPlace (u : Nat) : Nat × Nat := (u % 8, u / 8 % 64)

/-- The structures that the node spreads over HBM (R110, R201). -/
inductive Spread where
  | directory
  | generations
  | bitmap
  | upperTable
  | upperLists
  | hitCounters
  deriving DecidableEq, Repr

/-- A byte of a structure of a shard, by its offset: directory entries of 8 bytes, generations and hit counters of 1 byte and
tombstones of 1 bit by slot, upper-table entries of 16 bytes by upper id, and upper lists in units of 448 bytes (R110, R115). -/
def Index.spreadByte (x : Index) (v : Version) (shard : Nat) (k : Spread) (o : Nat) : Byte :=
  let at' (b : Bytes) (i : Nat) : Byte := b.getD i 0
  let dead (slot : Nat) : Bool :=
    x.tombs.any fun t => t.shard = shard && t.slot = slot && (v.rowAt shard slot).any fun r => r.gen = t.gen
  match k with
  | .directory => at' (toLe 8 (SMap.getD v.dir (slotKey shard (o / 8)) 0)) (o % 8)
  | .generations => BitVec.ofNat 8 (((v.rowAt shard o).map (·.gen)).getD 0)
  | .bitmap => BitVec.ofNat 8 (sumNat ((List.range 8).map fun i => 2 ^ i * bit01 (dead (8 * o + i))))
  | .upperTable => at' (v.upperEntry shard (o / 16)) (o % 16)
  | .hitCounters => BitVec.ofNat 8 (SMap.getD x.resid.hits (slotKey shard o) 0)
  | .upperLists =>
    let n := o / 448
    let here (r : Row × Nat) : Bool := decide (v.firstUnit shard r.2 ≤ n ∧ n < v.firstUnit shard r.2 + r.1.level)
    match (v.uppers shard).zipIdx.find? here with
    | some (r, u) =>
      let layer := n - v.firstUnit shard u + 1
      at' (v.listRecord { shard := shard, layer := layer, slot := r.slot, targets := v.listAt shard layer r.slot }) (o % 448)
    | none => 0

/-- Unit `u` of a spread structure: where it lies (R201), and its 2 KiB. -/
def Index.spreadUnit (x : Index) (v : Version) (shard : Nat) (k : Spread) (u : Nat) : (Nat × Nat) × Bytes :=
  (spreadPlace u, (List.range 2048).map fun i => x.spreadByte v shard k (2048 * u + i))

end Sys2Proof.Machine
end

