-- ==== Sys2Proof/Tests/Slice0.lean ====
section
/-! SUPPORT. Tests of the model: published values of the algorithms the manual names, the well-formedness checks, a few
single commands, and for every obligation that has hypotheses a concrete state and operands that meet them, each clause at
a boundary value where it has a range. -/

namespace Sys2Proof.Tests

set_option Elab.async false

open Sys2Proof.Machine

/-! ## Helper states -/

/-- A node that is ready, in the middle window of stride 100, at stride length code 1. -/
def sReady : State :=
  let s := State.reset
  { s with
    clk := { s.clk with stride := 100, code := 1, window := 1 }
    node := { s.node with
              st := 1, stage := 9, id := 2, joined := true, joinClosed := true, supply := true, railsOn := true,
              served := true, locked := true } }

/-- One function attached, its bus mastering on. -/
def attachAt (f : Nat) (s : State) : State :=
  { s with funcs := SMap.set s.funcs f { FuncRegs.reset with attached := true, busMaster := true } }

/-- A request with the given payload. -/
def req (f opcode context : Nat) (payload : Bytes) : Request :=
  { func := f, opcode := opcode, context := context, flags := 0, tag := 7, stamp := 0, payload := payload, replyAddr := 0, refusal := none, order := 0,
    others := 0, mute := false }

/-- The same node with one taken request at the head of function f's mailbox. -/
def taken (f : Nat) (q : Request) (s : State) : State :=
  let s := attachAt f s
  { s with mbx := SMap.set s.mbx f { Mailbox.reset with ready := true, negotiated := true, taken := [q] } }

/-- Little-endian fields, each a value and its width in bytes. -/
def fields : List (Nat × Nat) → Bytes
  | [] => []
  | (v, n) :: rest => toLe n v ++ fields rest

/-- The same node with mailbox f as given. -/
def mbxAt (f : Nat) (m : Mailbox) (s : State) : State := { attachAt f s with mbx := SMap.set s.mbx f m }

def note0 : Note := { opcode := 1, context := 0, tag := 0, status := 0, stamp := 0, payload := [] }

def reply0 : Reply := { opcode := 1, context := 0, tag := 0, status := 0, stamp := 0, payload := [], indirect := none, order := 0 }

/-- A context of function 0. -/
def context0 : Context :=
  { func := 0, st := 1, hbm := 2 ^ 30, ddr := 2 ^ 30, kinds := [], wrapped := none, flashKey := some (zeros 64),
    ddrKey := some (zeros 64), closedAt := 0, swept := false, tornAt := none, tagFaults := 0 }

/-- An open ring of context 5 with one entry that may be admitted. -/
def ring0 (kind slot : Nat) : Ring :=
  { context := 5, func := 0, kind := kind, depth := 16, slotSize := slot, subAddr := 0x10000, cplAddr := 0x20000, cplSlot := 64,
    vector := 1, maxK := 10, maxWidth := 4, descent := 1, maxDepth := 16, maxM := 0, shardCap := 1, channelCap := 1,
    linkRounds := 1, maxShards := 1, priority := 3, cls := 0, isOpen := true, closing := false, stopped := false,
    lost := false, subTail := 1, cplHead := 0, cplTail := 0, seenTail := 1, seenHead := 0, admitted := 0, stepped := 0,
    reserved := 0, written := [], placed := 0 }

def units0 : UnitSet :=
  { tiles := BitVec.allOnes 96, nmus := BitVec.allOnes 512, sorts := 0xFFFF, travs := 0xFFFF, flash := 0xFFFF_FFFF, lanes := BitVec.allOnes 36,
    ddr := 0xFFF, hbmStacks := 0xFF }

def cls0 (kind ring : Nat) : GaitClass :=
  { context := 5, kind := kind, elastic := false, len := 8, ring := ring, first := 0, count := 0 }

/-- A gait with every class that the tests need: a ring class and a free class of each kind, all of context 5. -/
def gait0 : Gait :=
  { id := 1, period := 1, code := 1, units := units0, contexts := [{ id := 5, isolate := false, first := 0, count := 12 }],
    classes := [cls0 1 20, cls0 1 0xFFFF, cls0 2 21, cls0 2 0xFFFF, cls0 3 22, cls0 3 0xFFFF, cls0 4 23, cls0 4 0xFFFF,
                cls0 5 0xFFFF, cls0 6 0xFFFF, cls0 7 0xFFFF, cls0 1 24],
    plans := [], adm := [[4], [4], [4], [4], [4], [4], [4], [4], [64], [4], [4], [4]] }

/-- The node ready, context 5 open and in service under `gait0`, with one ring of each kind. -/
def sNode : State :=
  let s := attachAt 0 sReady
  { s with
    contexts := [(5, context0)]
    rings := [(20, ring0 1 512), (21, ring0 2 512), (22, ring0 3 512), (23, ring0 4 64)]
    gaits := { s.gaits with
               slots := [{ GaitSlot.empty with st := 3, gait := some gait0, stride := 50 }, GaitSlot.empty, GaitSlot.empty,
                         GaitSlot.empty]
               mounted := some units0, admitted := units0 } }

/-- An index row with an 8-dimensional int8 vector of zeros. -/
def row0 (slot key : Nat) : Row :=
  { shard := 0, slot := slot, gen := 0, key := key, level := 0, head := zeros 64, codes := zeros 64, record := zeros 32, commit := 0 }

def version0 : Version :=
  { num := 1, st := 3, cut := 10, digest := 77, cutStep := 0, filled := true, since := 20, keepTo := 0, rows := [row0 0 1],
    dir := [(0, 2 ^ 34)], lists := [{ shard := 0, layer := 0, slot := 0, targets := [] }], replicas := [] }

/-- An index of one shard, held by this node and its partner, with current version 1. -/
def index0 : Index :=
  { context := 5, dim := 8, width := 0, fp := 1, dists := 7, buildDist := 0, typeA := 0, typeB := 0, m0 := 4, mu := 2, shift := 4,
    wb := 4, db := 4, back := 2, shards := 1, seed := 3, slotCap := 4, deltaCap := 2, overlayCap := 4, map := [1],
    versions := [version0], lastNum := 1, delta := [], deltaLists := [], overlays := [], tombs := [], recent := [],
    lastGen := [], reserved := [], pending := [], epoch := 0, switch := none, tuple := none, tupleAt := 0, pair := none, pairDue := false,
    build := none, closing := none, resid := Residency.reset, replicaList := [], stale := 0, backDropped := 0 }

def trow0 (id : Nat) : TableRow := { id := id, row := zeros 128, state := zeros 32, applied := 0, step := 0, poisoned := false }

def tversion0 : TableVersion :=
  { num := 1, st := 3, cut := 10, digest := 77, cutStep := 0, filled := true, keepTo := 0, rows := [trow0 1] }

/-- A table of one shard, held by this node and its partner, with current version 1. -/
def table0 : Table :=
  { context := 5, dim := 8, width := 0, opt := 0, shards := 1, seed := 3, rowCap := 4, areaCap := 4, eps := 0, b1 := 0, b2 := 0,
    c1 := 0, c2 := 0, map := [1], participants := [2], versions := [tversion0], lastNum := 1, base := 1, dirty := [], places := [], barrier := [],
    committed := 0, started := 0, steps := [], switch := none, tuple := none, tupleAt := 0, pair := none, pairDue := false, build := none,
    closing := none, writes := [], resid := Residency.reset, dropped := 0, clippedAll := 0, updatedAll := 0, lastClipped := 0,
    lastUpdated := 0 }

/-- The same node with index 7 and table 9. -/
def sObjects : State := { sNode with indexes := [(7, index0)], tables := [(9, table0)] }

/-- An image: its header, the digest of its body, and its body. -/
def imageOf (head : Bytes) (digest : Nat) (body : Bytes) : Bytes := head ++ toLe 16 digest ++ body

/-- The smallest gait image: no units, one management class with its one required plan. -/
def gaitImage : Bytes :=
  imageOf
    (fields [(0x54494147, 4), (1, 2), (1, 1), (1, 1), (9, 8), (212, 4), (1, 2), (1, 2), (64, 4), (160, 4), (176, 4),
             (192, 4), (1, 4), (208, 4)])
    253124892023887744801852736747723159459
    (zeros 96 ++ fields [(0, 2), (0, 2), (0, 2), (1, 2), (0, 8)] ++
      fields [(0, 2), (8, 1), (0, 1), (1, 1), (0, 1), (0xFFFF, 2), (0, 4), (1, 4)] ++
      fields [(0, 2), (0, 1), (0, 1), (resOf 0x0B 0, 2), (0, 2), (4096, 8)] ++ fields [(1, 4)])

/-- The smallest program image: ACTIVATE and END, with one norm layer. -/
def programImage : Bytes :=
  imageOf
    (fields [(0x474F5250, 4), (1, 2), (3, 2), (25, 2), (1, 1), (2, 1), (2, 1), (4, 1), (16, 2), (0, 4), (0, 2), (0, 2), (320, 4),
             (64, 4), (128, 4), (0, 12)])
    122318094969916326892548900411306015573
    (fields [(0x02, 1), (0, 4), (1, 1), (0, 10)] ++ fields [(0x07, 1), (0, 1), (1, 1), (0, 13)] ++ zeros 32 ++
      fields [(192, 4), (128, 4), (1, 2), (1, 2), (0xFF, 1), (1, 1), (0, 2)] ++ zeros 48 ++ zeros 128)

/-- The gait with a class for ring 25, whose plan covers the program. -/
def gaitProgram : Gait :=
  { gait0 with
    classes := gait0.classes.set 11 (cls0 1 25)
    plans := [0x01, 0x05, 0x07, 0x0F].map fun k => { cls := 11, off := 7, res := resOf k 0, amount := 4096 } }

def sProgram : State :=
  { sNode with
    rings := [(25, ring0 1 512)]
    gaits := { sNode.gaits with slots := sNode.gaits.slots.set 0 { GaitSlot.empty with st := 3, gait := some gaitProgram, stride := 50 } } }

/-- The node with slot 1 of its gaits as given. -/
def slot1 (x : GaitSlot) : State :=
  { sNode with gaits := { sNode.gaits with slots := sNode.gaits.slots.set 1 x } }

def program0 : Program := { parseProgram 5 programImage with bound := true }

/-- The first object's build classes need a source paddock. -/
def paddock0 : Paddock :=
  { context := 5, mirrored := true, op := 7, share := 16, cls := 8, capacity := 2048, st := 1, units := [], ranges := [] }

def sPaddock : State := { sObjects with flash := { sObjects.flash with paddocks := [(2, paddock0)] } }

/-- Index 7 with one change. -/
def withIndex (x : Index) : State := { sPaddock with indexes := [(7, x)] }

/-- Table 9 with one change. -/
def withTable (x : Table) : State := { sPaddock with tables := [(9, x)] }

/-- Function f's registers as given. -/
def funcAt (f : Nat) (x : FuncRegs) (s : State) : State := { s with funcs := SMap.set s.funcs f x }

def live : FuncRegs := { FuncRegs.reset with attached := true, busMaster := true }

/-- Aperture 1 of an attached function: valid, of the given mode, on window 3 of node 4. -/
def apertured (mode : Word32) : FuncRegs :=
  { live with apLive := [(1, { ctl := 1 ||| (mode <<< 1), target := 0x30004, base := 0 })] }

/-- The operation that function 0 has outstanding, and the request it belongs to. -/
def outOp (func : Option Nat) : OutOp :=
  { tag := 6, node := 4, window := 3, context := 0, cls := 3, issued := 98, func := func }

def request0 : Bar2Request :=
  { func := 0, kind := 0, address := 0x4000_0000, aperture := 1, pieces := [(6, 0x4000_0000, 8)], done := [], failed := none }

def sOps (func : Option Nat) (requests : List Bar2Request) : State :=
  { sNode with fab := { sNode.fab with ops := [outOp func], requests := requests } }

/-- An operation's response record for tag 6. -/
def response (status : Nat) : Bytes := fields [(0, 14), (1, 2), (6, 4), (status, 2), (0, 42)]

def linkAt (l : Nat) (x : Link) (s : State) : State := { s with links := SMap.set s.links l x }

def tack0 : Tack :=
  { herd := 11, node := 2, code := 1, linkMode := 1, strideIn := false, route := [], wearLimit := 0, thresholds := [], limits := [] }

/-- Storage queue 3 of context 5, with one command waiting. -/
def queue0 : Ring := { ring0 5 64 with cplSlot := 32, cls := 8 }

def sQueue : State := { sPaddock with queues := [(3, queue0)] }

/-- A READ of paddock 2 in flight. -/
def command0 : StorageCommand :=
  { queue := 3, order := 0, cmdId := 1, op := 1, inHbm := false, paddock := 2, start := 0, count := 1, address := 0x1000,
    data := [], admitAt := 98, len := 8, elastic := false, status := 0, errStart := 0, errCount := 0, flags := 0, held := true, read := false,
    pages := [], cached := [], asked := [] }

def commandAt (c : StorageCommand) : State := { sQueue with flash := { sQueue.flash with commands := [(0, c)] } }

def arrayOp0 (kind : Nat) : ArrayOp :=
  { kind := kind, paddock := 2, block := 0, page := 0, units := [], move := false, cost := 1, need := 1, cls := 8, charged := 1, issued := 0,
    failed := none, tries := 1, ended := 0, asked := [] }

/-- Channel 31 as given. -/
def channelAt (x : FlashChannel) : State := { sPaddock with flash := { sPaddock.flash with channels := [(31, x)] } }

def fresh : FlashChannel := Flash.reset.fresh

/-- A unit of paddock 2 that waits in the write buffer, on channel 31. -/
def buffered0 : State :=
  { sPaddock with flash := { sPaddock.flash with
      paddocks := [(2, { paddock0 with units :=
        [(29, { data := [], mapped := false, deferredBit := false, phys := 0, buffered := true, sequence := 1, since := 84,
                under := [], group := 1, single := false })] })] } }

/-- The node with port 8 as given. -/
def portAt (x : Port) (s : State) : State := { s with fab := { s.fab with ports := s.fab.ports.set 8 x } }

/-- Port 8 in service, a herd port that polices class 5. -/
def port0 : Port := { Port.reset with st := 2, role := 1, peer := 3 }

def sPort : State := portAt port0 sNode

/-- The codewords of a frame whose groups have the given tags. -/
def frame0 (tags : List Nat) : List Codeword :=
  (({ port0 with groups := tags.map fun g => (g, List.replicate 4 (zeros 64)) } : Port).frame 8).codewords

/-- A message in the ingress buffer that waits for the given number of flits. -/
def message0 (cls left : Nat) : Arriving :=
  { cls := cls, body := zeros 64, left := left, stride := 100, broken := false, refused := false }

/-- A message header: length in blocks, destination, class, source and hops. -/
def hdr (len dest cls source hops : Nat) : Word64 :=
  BitVec.ofNat 64 (len + dest * 2 ^ 16 + cls * 2 ^ 31 + source * 2 ^ 34 + hops * 2 ^ 50)

/-- Granule 0 of HBM, held by context 5. -/
def granule0 : Granule := { owner := 5, st := 1, scrubbed := 0 }

def sHbm : State := { sObjects with mem := { sObjects.mem with hbmTags := [(0, granule0)] } }

/-- A membership record: kind, sender, subject and two stride numbers. -/
def record (kind sender subject stride : Nat) : Bytes :=
  fields [(kind, 1), (0, 1), (sender, 2), (subject, 2), (0, 2), (0, 8), (stride, 8), (stride, 8), (0, 32)]

/-- The node while its membership beats. -/
def sBeat : State := { sPort with memb := { sPort.memb with beating := true, heardAny := 100 } }

/-- The same in the last window of the stride. -/
def late (s : State) : State := { s with clk := { s.clk with window := 2 } }

def fenced (n : Nat) (s : State) : State := { s with memb := { s.memb with fenced := [n] } }

/-- A window of context 5 on the first 2 KiB of HBM. -/
def window0 : Window := { context := 5, base := 0, size := 2048 }

/-- The HBM block that a row of 8 zero codes starts with: dimension count 8 at byte 36. -/
def sRow : State := { sHbm with mem := { sHbm.mem with bytes := [(36, 8)] } }

/-- A near-memory command on unit 0 of context 5 with its rows and data. -/
def cmd (op mask length : Nat) (rows : List Nat) (data : Bytes) : Bytes :=
  fields [(op, 1), (mask, 1), (5, 2), (0, 4), (0, 2), (rows.length, 1), (0, 1), (length, 4)] ++ rows.flatMap (toLe 4) ++ data

def burst0 : Burst :=
  { unit := 511, kind := 0, bank := 0, bytes := 64, row := 0, rowBlocks := 2, last := true, booked := false, slot := 0, blocks := [],
    image := none, whole := false }

/-- A command that a unit runs, in the given phase, one burst from its end. -/
def command1 (phase : Nat) (bytes : Bytes) : UnitCommand :=
  { number := 0, bytes := bytes, poisoned := false, phase := phase, left := 1, completion := zeros 16, clipped := 0, own := false,
    move := none, twin := none }

/-- Unit 511 in a burst of its one command. -/
def bursting (x : Burst) (c : UnitCommand) : State :=
  { sRow with nmu := { sRow.nmu with units := [(511, { NmuUnit.fresh with burst := some x, commands := [c] })], received := 1 } }

/-- The node in start-up stage n. -/
def inStage (n : Nat) : State :=
  { sNode with node := { sNode.node with st := 0, stage := n, joined := false, joinClosed := false, locked := false, served := true, serial := 2, tack := some tack0 } }

/-- Stage 7 with the join closed. -/
def joinDone (locked : Bool) : State :=
  { inStage 7 with node := { (inStage 7).node with joinClosed := true, locked := locked, s0 := 100 } }

/-- A join record of a node's serial number. -/
def joinRecord (node serial : Nat) : Bytes := fields [(5, 1), (0, 1), (node, 2), (0, 4), (11, 8), (7, 8), (serial, 8), (0, 32)]

/-- Stage 9 with one context of one granule. -/
def restoring (c : Option Checkpoint) : State :=
  { inStage 9 with
    contexts := [(5, { context0 with hbm := 2 ^ 20, ddr := 0 })]
    flash := { sNode.flash with checkpoint := c } }

def scan0 : ScanReport := { targets := 8, dieBlocks := 16384, endurance := 10000, mapsLost := false, lostPaddocks := [] }

def restore0 : RestoreReport :=
  { own := true, fenced := false, partnerFenced := false, digest := none, versions := [], partner := none, units := [], steps := [] }

/-- A training of port 8 that agrees in everything, its round trips alike. -/
def report0 : PortReport :=
  { light := true, adapted := 0xF, locked := true, peer := 3, herd := 11, code := 1, route := [],
    trips := List.replicate 1024 (0, 100, 150, 260) }

def boundary0 : State := { sObjects with clk := { sObjects.clk with window := 2 } }

/-! ## The data path -/

/-- A query entry on index 7 for 10 rows, its vector 8 zeros. -/
def queryEntry : Bytes :=
  fields [(0, 4), (7, 4), (0, 8), (10, 2), (0, 1), (4, 1), (16, 2), (0, 2), (0xFFFF, 2), (0, 6), (112, 4), (0, 28), (0, 8), (8, 2),
          (0, 6), (0, 32)]

/-- A query of index 7 admitted at the given stride, in its first phase. -/
def query0 (admitAt : Nat) : Query :=
  { ring := 20, order := 0, cls := 0, elastic := false, qid := 1, index := 7, context := 5, version := 1, named := false, k := 10, width := 4, depth := 16, m := 0,
    program := 0xFFFF, filter := zeros 8, record := zeros 64, admitAt := admitAt, len := 12, descent := 1, shardCap := 1,
    channelCap := 1, serving := [(0, 2)], replies := [], chain := none, merged := [], exact := [], failed := [], waiting := [0], phase := 0,
    flags := 0, dups := 0,
    tie := false, features := [], featAwait := [], featPoisoned := [], late := false }

def withQuery (q : Query) (s : State) : State := { s with work := { s.work with queries := [(262143, q)] } }

/-- The node with its ring of a kind numbered 16,383, the last of all. -/
def sLastRing (kind : Nat) : State :=
  { sObjects with
    rings := [(16383, ring0 kind 512)]
    gaits := { sObjects.gaits with slots := sObjects.gaits.slots.set 0 { GaitSlot.empty with
      st := 3, stride := 50, gait := some { gait0 with classes := gait0.classes.set 0 (cls0 kind 16383) } } } }

/-- A gait that gives class 0 time of its tile in the last stride of a query, and a program. -/
def sTimed : State :=
  { sObjects with
    programs := [(programKey 5 3, program0)]
    gaits := { sObjects.gaits with slots := sObjects.gaits.slots.set 0 { GaitSlot.empty with
      st := 3, stride := 50, gait := some { gait0 with plans := [{ cls := 0, off := 11, res := resOf 0x01 95, amount := 4096 }] } } } }

/-- A shard-search of query 262143 of node 4 on shard 0, that the sub-request below starts. -/
def search0 (admitAt : Nat) : Search :=
  { cls := 1, elastic := false, coord := 4, handle := 262143, shard := 0, admitAt := admitAt, index := 7, context := 5, version := 1, named := false, width := 4,
    depth := 16, descent := 1, filter := zeros 8, record := zeros 64, cand := [], candSlot := none, result := [], resultSlot := none, visited := [], fetched := [],
    poisoned := false, done := false, items := [], exact := [], detour := false, len := 10, roundAt := 99, phase := 0 }

def withSearch (q : Search) : State :=
  { sObjects with work := { sObjects.work with searches := [(searchKey 4 262143 0, q)] } }

/-- A sub-request of node 4 for shard 0 of index 7, with one item. -/
def subRequest0 (admitAt : Nat) : Bytes :=
  fields [(4, 2), (0, 2), (262143, 4), (admitAt, 8), (1, 8), (7, 4), (5, 2), (4, 1), (0, 1), (16, 2), (1, 2), (8, 2), (0, 2), (64, 4),
          (0, 20), (0, 8), (0, 64), (0, 8)]

/-- A message that names entry 262143 and shard 0. -/
def answer : Bytes := fields [(262143, 4), (0, 2), (0, 58)]

/-- One selection entry of shard 0. -/
def entry0 : Entry := { key := 1, flags := 0, rank := 0, score := 0, slot := 0, gen := 0, shard := 0, pos := 0, dups := 1 }

/-- A delete of user key 1 in index 7. -/
def updateEntry : Bytes := fields [(0, 4), (7, 4), (2, 1), (0, 3), (1, 6), (0, 2), (64, 4), (0, 40)]

/-- The same as node 4 forwards it. -/
def forward (admitAt : Nat) : Bytes :=
  fields [(4, 2), (21, 2), (262143, 4), (admitAt, 8), (1, 8), (7, 4), (5, 2), (2, 1), (0, 1), (1, 6), (0, 2), (1, 4), (0, 4), (0, 16)]

/-- An update that this node serves for node 4. -/
def served0 (op : Nat) : ServedUpdate :=
  { entryNode := 4, ring := 21, handle := 262143, admitAt := 93, sequence := 1, index := 7, context := 5, op := op, key := 1, shard := 0,
    updateId := 1, record := [], search := none, rounds := 99, links := 1, len := 8 }

def withServed (u : ServedUpdate) (x : Index) : State :=
  { withIndex x with work := { sObjects.work with served := [(updateKey 4 262143, u)] } }

def pending0 : Pending :=
  { entryNode := 32767, ring := 21, handle := 262143, admitAt := 93, sequence := 1, context := 5, op := 2, key := 1, shard := 0,
    updateId := 1, slot := 0, gen := 0, row := none, targets := [], items := [], commit := 101, serving := true, held := false,
    final := none }

def entryUpdate0 : EntryUpdate :=
  { ring := 21, order := 0, updateId := 1, admitAt := 92, commit := 100, serving := 2, index := 7 }

def withUpdate (s : State) : State := { s with work := { s.work with updates := [(262143, entryUpdate0)] } }

/-- A lookup of row 1 of table 9 into the first block of HBM. -/
def lookupEntry : Bytes :=
  fields [(0, 4), (9, 4), (0, 8), (1, 2), (0, 1), (0, 1), (80, 4), (0, 8), (64, 4), (0, 28), (1, 2), (0, 6), (1, 8)]

def lookupMessage (admitAt : Nat) : Bytes :=
  fields [(4, 2), (0, 2), (262143, 4), (admitAt, 8), (9, 4), (5, 2), (0, 2), (0, 8), (0, 32)]

def lookup0 (admitAt : Nat) : Lookup :=
  { ring := 22, order := 0, cls := 4, elastic := false, lookupId := 1, table := 9, view := 1, version := 1, admitAt := admitAt, len := 8, bags := [1], pooling := 0, format := 0,
    address := 0, rows := [1], got := [], awaiting := [0], flags := 0, absent := 0, late := false }

def withLookup (l : Lookup) (s : State) : State := { s with work := { s.work with lookups := [(262143, l)] } }

/-- A training step of table 9 in the given stage. -/
def step0 (stage admitAt : Nat) (owner : Bool) : Machine.Step :=
  { num := 1, admitAt := admitAt, owner := owner, segments := [], merged := [], lr := 0, dropped := 0, void := none, held := false,
    applied := false, updated := 0, clipped := 0, poisoned := [], digest := 5, stage := stage, exchanged := false, spoiled := false,
    peerPoisoned := [] }

def stepping (x : Table) (t : Machine.Step) : Table := { x with participants := [], steps := [t] }

def stepEntry0 (owners : List Nat) : StepEntry :=
  { table := 9, ring := 23, order := 0, stepId := 1, num := 1, admitAt := 97, status := 0, owners := owners, notices := [] }

def withStep (owners : List Nat) (s : State) : State := { s with work := { s.work with steps := [stepEntry0 owners] } }

/-- DEVICE_FORMAT's header, with its check. -/
def formatHeader : Bytes :=
  let h := fields [(2, 1), (1, 1), (0x0101, 2), (0, 2), (0, 2), (0, 4), (8, 4), (0, 8), (0, 4)]
  h ++ toLe 4 (crc32c (h ++ zeros 8))

/-- Tile 95 and sort unit 15, without an error. -/
def tile0 : TileUse := { tile := 95, fixed := 0, lost := false }

def sort0 : SortUse := { unit := 15, parity := [] }

/-! ## A route image: too long to evaluate, so its check is shown by hand -/

/-- The bytes of a route image up to its digest: port 8 in the herd and the parent, its other ports absent,
no backup port. -/
def routeHead : Bytes :=
  fields [(0x45545552, 4), (1, 2), (0, 2), (0, 8), (1, 1), (8, 1), (0xFF, 1), (0, 13)]

/-- The tables: node 2 is this node, node 3 is reached by port 8, no other node is reached. -/
def routeTable : Bytes := [0xFF, 0x8E] ++ List.replicate 10238 0xFF

/-- A whole route image with digest d. -/
def routeImage (d : Bytes) : Bytes := routeHead ++ (d ++ (zeros 16 ++ routeTable))

theorem routeHead_length : routeHead.length = 32 := by decide

theorem getD_append_left {l m : Bytes} {i : Nat} (h : i < l.length) : (l ++ m).getD i 0 = l.getD i 0 := by
  simp [List.getD_eq_getElem?_getD, List.getElem?_append_left h]

theorem getD_append_right {l m : Bytes} {i : Nat} : (l ++ m).getD (l.length + i) 0 = m.getD i 0 := by
  simp [List.getD_eq_getElem?_getD, List.getElem?_append_right]

theorem routeImage_head (d : Bytes) (i : Nat) (h : i < 32) : byteAt (routeImage d) i = byteAt routeHead i := by
  simp only [byteAt, routeImage]
  rw [getD_append_left (by rw [routeHead_length]; exact h)]

theorem routeImage_drop (d : Bytes) (hd : d.length = 16) : (routeImage d).drop 64 = routeTable := by
  rw [routeImage, ← List.append_assoc, ← List.append_assoc, List.drop_left' (by simp [hd, zeros, routeHead_length])]

theorem routeImage_table (d : Bytes) (hd : d.length = 16) (i : Nat) : byteAt (routeImage d) (64 + i) = byteAt routeTable i := by
  rw [← routeImage_drop d hd]
  simp [byteAt, List.getD_eq_getElem?_getD]

theorem routeTable_bytes (i : Nat) (h : 2 ≤ i) (h' : i < 10240) : byteAt routeTable i = 0xFF := by
  obtain ⟨j, rfl⟩ := Nat.exists_eq_add_of_le h
  simp only [byteAt, routeTable]
  rw [show 2 + j = ([0xFF, 0x8E] : Bytes).length + j from rfl, getD_append_right]
  rw [List.getD_eq_getElem?_getD, List.getElem?_replicate, if_pos (by omega)]
  decide

theorem routeImage_entry (d : Bytes) (hd : d.length = 16) (n : Nat) (h : n < 20480) :
    routeEntry (routeImage d) n = if n = 2 then 0xE else if n = 3 then 8 else 0xF := by
  simp only [routeEntry, routeImage_table d hd]
  by_cases h4 : n < 4
  · clear h
    revert n
    decide
  · rw [routeTable_bytes _ (by omega) (by omega), if_neg (c := n = 2) (by omega), if_neg (c := n = 3) (by omega)]
    split <;> rfl

theorem shaRound_length (v : List Nat) (k : Nat × Nat) : (shaRound v k).length = v.length := by
  unfold shaRound; split <;> simp

theorem shaBlock_length (h : List Nat) (b : Bytes) : (shaBlock h b).length = h.length := by
  simp [shaBlock, foldl_keeps List.length shaRound_length]

theorem flatMap_toBe_length (l : List Nat) : (l.flatMap (toBe 8)).length = 8 * l.length := by
  simp [List.length_flatMap, toBe, toLe, List.map_const', Nat.mul_comm]

theorem sha384_length (b : Bytes) : (sha384 b).length = 48 := by
  simp only [sha384, flatMap_toBe_length, List.length_take, foldl_keeps List.length shaBlock_length]
  decide

/-- The image whose digest is right is good for node 2. -/
theorem routeImage_ok : routeStatus (routeImage ((sha384 routeTable).take 16)) 10304 2 = stOk := by
  have hs : ((sha384 routeTable).take 16).length = 16 := by simp [sha384_length]
  generalize hd : (sha384 routeTable).take 16 = d at hs
  have he := routeImage_entry d hs
  have hb := routeImage_head d
  have h0 : le (routeImage d) 0 4 = 0x45545552 ∧ le (routeImage d) 4 2 = 1 ∧ le (routeImage d) 6 2 = 0 := by
    refine ⟨?_, ?_, ?_⟩ <;> rfl
  have hl : (routeImage d).length = 10304 := by
    rw [routeImage, List.length_append, List.length_append, List.length_append, routeHead_length, hs, routeTable,
      List.length_append, List.length_replicate]
    rfl
  have hc : ((routeImage d).drop 32).take 16 = (sha384 ((routeImage d).drop 64)).take 16 := by
    rw [routeImage_drop d hs, hd, routeImage, List.drop_left' routeHead_length, List.take_left' hs]
  have hm : ∀ n < routeNodes, routeEntry (routeImage d) n = 0xE ∨ routeEntry (routeImage d) n = 8 ∨
      routeEntry (routeImage d) n = 0xF := fun n hn => by
    rw [he n hn]
    repeat' split
    all_goals simp
  have hr8 : byteAt (routeImage d) (8 + 8) = 1 := by rw [hb _ (by omega)]; decide
  have h17 : byteAt (routeImage d) 17 = 8 := by rw [hb _ (by omega)]; decide
  have h18 : byteAt (routeImage d) 18 = 0xFF := by rw [hb _ (by omega)]; decide
  have h19 : byteAt (routeImage d) 19 = 0 := by rw [hb _ (by omega)]; decide
  -- the one port that the image names, port 8, has a role
  have hn : ∀ n < routeNodes, routeEntry (routeImage d) n < 9 → byteAt (routeImage d) (8 + routeEntry (routeImage d) n) ≠ 0 :=
    fun n hn h => by
      rw [show routeEntry (routeImage d) n = 8 by have := hm n hn; omega, hr8]
      decide
  have hl9 : ∀ p ∈ List.range 9, byteAt (routeImage d) (8 + p) ≤ 2 := fun p hp => by
    rw [hb _ (by have := List.mem_range.1 hp; omega)]
    revert p
    decide
  have hw : ∀ n ∈ List.range routeNodes, n ≠ 2 → routeEntry (routeImage d) n ≠ 0xE := fun n hp h2 => by
    rw [he n (List.mem_range.1 hp), if_neg h2]
    split <;> decide
  have hz1 : zeroAt (routeImage d) 20 12 = true := by
    rw [zeroAt, routeImage, List.drop_append_of_le_length (by rw [routeHead_length]; omega),
      List.take_append_of_le_length (by have := routeHead_length; rw [List.length_drop]; omega)]
    decide
  have hz2 : zeroAt (routeImage d) 48 16 = true := by
    have : (routeImage d).drop 48 = zeros 16 ++ routeTable := by
      rw [routeImage, ← List.append_assoc, List.drop_left' (by simp [hs, routeHead_length])]
    rw [zeroAt, this, List.take_append_of_le_length (by decide)]
    decide
  have hm8 : ∀ n < routeNodes, ¬ (8 < routeEntry (routeImage d) n ∧ routeEntry (routeImage d) n ≠ 0xE ∧
      routeEntry (routeImage d) n ≠ 0xF) := fun n hn => by have := hm n hn; omega
  simp only [routeStatus, h0, hl, hc, hr8, h17, h18, h19, hz1, hz2, he 2 (by omega), show partnerOf 2 = 3 from by decide,
    he 3 (by omega), ne_eq, not_true_eq_false, or_self, if_false, false_or]
  rw [if_neg, if_neg]
  · rintro (h | h | h | h | h)
    · simp at h
    · obtain ⟨n, hn', h⟩ := List.any_eq_true.1 h
      simp only [Bool.and_eq_true, bne_iff_ne, beq_iff_eq] at h
      exact hw n hn' h.1 h.2
    · simp at h
    · obtain ⟨p, hp, h⟩ := List.any_eq_true.1 h
      rcases List.mem_append.1 hp with hp | hp
      · obtain ⟨hp, h9⟩ := List.mem_filter.1 hp
        obtain ⟨n, hn', rfl⟩ := List.mem_map.1 hp
        exact hn n (List.mem_range.1 hn') (of_decide_eq_true h9) (of_decide_eq_true h)
      · have h8 : p = 8 := by simpa using hp
        have h := of_decide_eq_true h
        rw [h8, hr8] at h
        omega
    · omega
  · rintro (h | h | h | h | h | h | h)
    · obtain ⟨p, hp, h⟩ := List.any_eq_true.1 h
      have := hl9 p hp
      have := of_decide_eq_true h
      omega
    · cases h
    · cases h
    · cases h
    · cases h
    · revert h
      decide
    · obtain ⟨e, he', h⟩ := List.any_eq_true.1 h
      obtain ⟨n, hn', rfl⟩ := List.mem_map.1 he'
      simp only [Bool.and_eq_true, decide_eq_true_eq] at h
      exact hm8 n (List.mem_range.1 hn') ⟨h.1.1, h.1.2, h.2⟩

/-- A route image with its right digest. -/
def routeImage0 : Bytes := routeImage ((sha384 routeTable).take 16)

theorem routeImage0_ok : routeStatus (routeImage0.take 10304) 10304 2 = stOk := by
  rw [List.take_of_length_le]
  · exact routeImage_ok
  · rw [routeImage0, routeImage, List.length_append, List.length_append, List.length_append, routeHead_length, routeTable,
      List.length_append, List.length_replicate, List.length_take, sha384_length]
    decide

/-! ## Published values -/

/-- The check value of CRC-32C on the digits 1 to 9. -/
theorem test_crc32c : crc32c ((List.range 9).map fun i => BitVec.ofNat 8 (0x31 + i)) = 0xE3069283 := by decide +kernel

/-- SHA-384 of "abc" (FIPS 180-4), its first 8 bytes. -/
theorem test_sha384_abc : (sha384 [0x61, 0x62, 0x63]).take 8 = [0xCB, 0x00, 0x75, 0x3F, 0x45, 0xA3, 0x5E, 0x8B] := by
  decide +kernel

/-- The first output of SplitMix64 from seed 0 mixes the golden increment. -/
theorem test_mix : mix 0x9E3779B97F4A7C15 = 0xE220A8397B1DCDAF := by decide +kernel

/-- 1 as float32, bfloat16 and the FP16 that packs it. -/
theorem test_bf16_of_one : toBf16 0x3F80_0000 = 0x3F80 ∧ ofBf16 0x3F80 = 0x3F80_0000 := by decide +kernel

/-- 1 + 2 = 3, 3 × 2 = 6, 6 / 3 = 2 and the square root of 4 in float32. -/
theorem test_float32 :
    fadd 0x3F80_0000 0x4000_0000 = 0x4040_0000 ∧ fmul 0x4040_0000 0x4000_0000 = 0x40C0_0000 ∧
      fdiv 0x40C0_0000 0x4040_0000 = 0x4000_0000 ∧ fsqrt 0x4080_0000 = 0x4000_0000 := by decide +kernel

/-! ## Well-formedness -/

/-- One ill-formed term for each check. -/
def illFormed : List Instr :=
  [.mbSubmit 64, .registerWrite 0 0 0x20_0000 4 0 0, .registerWrite 64 0 0 4 0 0,
   .registerWrite 0 2 0 4 0 0, .registerWrite 0 4 8192 4 0 0, .registerWrite 0 0 0 3 0 0, .arbFlagsClear 0 567 0 0, .subTailWrite 0 (.ring 4096 0) 0,
   .subTailWrite 0 (.ring 0 4) 0, .cplHeadWrite 0 (.queue 1024) 0, .mctpMirrorRead (2 ^ 32) 8, .mctpMirrorRead 0 (2 ^ 16),
   .bar2Read 0 (2 ^ 36) 8, .bar2Read 0 0 0, .bar2Read 0 0 4097, .bar2Write 0 0 [], .bar2Write 0 0 (zeros 513), .bar2Atomic 0 0 3 8 0 0,
   .bar2Atomic 0 0 0 2 0 0, .bar2Atomic 0 0 1 16 0 0, .msixVectorUnmask 0 32, .linkUp 2 0, .vfRemoval 0 64, .ideIntegrityFailure 0 9] ++
  [.queryAdmission 16384 [] tile0, .queryAdmission 0 [] (.mk 96 0 false), .queryMerge 262144 1 sort0,
   .queryMerge 0 1 (.mk 16 []), .shardSubRequestReceive [] [] [] (.mk 16 []), .layer0Round 0 [] [] sort0 (.mk 96 0 false), .mirrorAckReceive 0 32768, .stepMerge (2 ^ 32) tile0,
   .stepMirror 0 (.mk 96 0 false), .stepMirrorReceive [] (.mk 96 0 false), .updateStaging [.mk 96 0 false],
   .updateForwardReceive [] [] [] (.mk 16 []), .storageAdmission 16384 [],
   .storageDetourRead 4096 0 0 [], .storageDetourRead 0 0 65 [], .arrayOperationIssue 32 [] [] [], .arrayOperationComplete 0 8 true,
   .pagePaddingTimeout 4096 0, .burstGrant 8, .burstEnd 512, .arbiterDecision 567 0 0 0 [] 0, .migrationSelection (2 ^ 32),
   .contextCloseDrained 4096] ++
  [.frameReceive 9 (frame0 []) 0 0, .frameReceive 0 [] 0 0, .frameReceive 0 ((frame0 []).take 3) 0 0, .frameReceive 0 (frame0 []) 2 3,
   .frameReceive 0 (List.replicate 4 { control := 2 ^ 20, slots := List.replicate 10 (zeros 64) }) 0 0,
   .frameReceive 0 (List.replicate 4 { control := 0, slots := List.replicate 9 (zeros 64) }) 0 0,
   .frameReceive 0 (List.replicate 4 { control := 0, slots := List.replicate 10 (zeros 63) }) 0 0, .creditReturn 9,
   .memoryOperation 0 2 [], .operationResponseReceive 9 3 [], .operationResponseReceive 0 5 [],
   .portTraining 0 { light := true, adapted := 15, locked := true, peer := 2 ^ 15, herd := 0, code := 0, route := [], trips := [] }, .junctionSample [], .railsInRegulation 1,
   .unitTraining 3 { stackFailed := false, module := 64, failed := [], domains := [] }, .joinCloseReceive (2 ^ 64),
   .serviceGaitAdoption [20480],
   .farrierSweep { domain := 2, units := [], perStep := 0 }]

theorem test_ill_formed_refused : (illFormed.all fun c => !WellFormed c) = true := by decide +kernel

/-- An ill-formed command faults in the machine. -/
theorem test_ill_formed_faults :
    (illFormed.all fun c => match exec c sReady with | .fault .noSuchUnit => true | _ => false) = true := by decide +kernel

/-- The last unit of each kind is named well. -/
theorem test_well_formed_boundaries :
    ([.mbSubmit 63, .registerWrite 63 0 0x1F_FFFF 1 0 0, .registerWrite 63 4 8191 8 0 0, .arbFlagsClear 63 566 0 0, .subTailWrite 63
        (.ring 4095 3) 0, .cplHeadWrite 63 (.queue 1023) 0, .bar2Read 63 (2 ^ 36 - 1) 4096, .msixVectorUnmask 63 31, .linkUp 1 63, .vfRemoval 1 63,
      .ideIntegrityFailure 1 8, .queryAdmission 16383 [] tile0, .queryMerge 262143 1 sort0, .storageDetourRead 4095 0 64 [],
      .arrayOperationIssue 31 [] [] [], .burstGrant 7, .burstEnd 511, .arbiterDecision 566 0 0 0 [] 0, .creditReturn 8,
      .memoryOperation 8 4 [], .joinCloseReceive (2 ^ 64 - 1), .serviceGaitAdoption [20479]] : List Instr).all WellFormed = true := by
  decide +kernel

/-- The table gives no row an encoding, so no word spells a command. -/
theorem test_no_word_decodes : decodeTableWord 32 0 = none := by decide

/-- The substitution of 0x53 and the product 0x57 · 0x83 (FIPS 197, 4.2 and 5.1.1), and the first derived word of the key
schedule of its example A.3. -/
theorem test_aes_parts :
    subByte 0x53 = 0xED ∧ unsubByte 0xED = 0x53 ∧ gmul 0x57 0x83 = 0xC1 ∧
      (aesWords 1 (chunks 4 8 [0x60, 0x3D, 0xEB, 0x10, 0x15, 0xCA, 0x71, 0xBE, 0x2B, 0x73, 0xAE, 0xF0, 0x85, 0x7D, 0x77, 0x81,
        0x1F, 0x35, 0x2C, 0x07, 0x3B, 0x61, 0x08, 0xD7, 0x2D, 0x98, 0x10, 0xA3, 0x09, 0x14, 0xDF, 0xF4]).reverse).head? =
        some [0x9B, 0xA3, 0x54, 0x11] := by decide +kernel

/-- The base point of brainpoolP384r1 lies on the curve (RFC 5639, 3.6). -/
theorem test_base_point : onCurve curveG.1 curveG.2 = true := by decide +kernel

/-! ## Witnesses of the obligations' hypotheses -/

/-- The hypotheses of `Obligations.StepRunsFrontCommand`, clause by clause. -/
theorem witness_step_runs_front_command :
    (∃ (c : Instr) (rest : List Instr) (s : State), s.pending = c :: rest) ∧
    (∃ (s : State), s.pending = []) :=
  ⟨⟨.heartbeatSend, [], { sBeat with pending := [.heartbeatSend] }, by decide +kernel⟩,
    ⟨sBeat, by decide +kernel⟩⟩

/-- The hypotheses of `Obligations.EveryCommandCompletes`, clause by clause. -/
theorem witness_every_command_completes :
    (∃ (c : Instr), WellFormed c = true) ∧
    (∃ (c : Instr), WellFormed c = false) :=
  ⟨⟨.stepDigestReceive (2 ^ 32 - 1) 0 0 [], by decide +kernel⟩,
    ⟨.stepDigestReceive (2 ^ 32) 0 0 [], by decide +kernel⟩⟩

/-- The hypotheses of `Obligations.StepConsumesOneCommand`, clause by clause. -/
theorem witness_step_consumes_one_command :
    (∃ (c : Instr) (rest : List Instr) (s : State) (t : State), s.pending = c :: rest ∧ step s = .next t) :=
  ⟨.heartbeatSend, [], { sBeat with pending := [.heartbeatSend] }, _, by decide +kernel, rfl⟩

/-- The hypotheses of `Obligations.MemoryCanonicalKept`, clause by clause. -/
theorem witness_memory_canonical_kept :
    (∃ (s : State) (t : State), MemInv s ∧ step s = .next t) :=
  ⟨{ sRow with pending := [.heartbeatSend] }, _, (by decide +kernel : cellsWf _ = true), rfl⟩

/-- The hypotheses of `Obligations.StrideCounterForward`, clause by clause. -/
theorem witness_stride_counter_forward :
    (∃ (w : _) (s : State) (t : State), exec (.strideBoundary w) s = .next t) ∧
    (∃ (c : Instr) (s : State) (t : State), exec c s = .next t ∧
      c ∉ [.joinClose, .joinCloseTimeout, .rootSilentTimeout, .powerRemoval, .undervoltage, .resetNAssert, .powerFailFlushEnd, .remountRestart] ∧
      (∀ w, c ≠ .strideBoundary w) ∧ (∀ k, c ≠ .joinCloseReceive k)) ∧
    (∃ (c : Instr) (s : State) (t : State), exec c s = .next t ∧
      c ∈ [.powerRemoval, .undervoltage, .resetNAssert, .powerFailFlushEnd, .remountRestart]) :=
  ⟨⟨[], boundary0, _, rfl⟩,
    ⟨.heartbeatSend, sBeat, _, rfl, by decide +kernel, nofun, nofun⟩,
    ⟨.resetNAssert, sBeat, _, rfl, by decide +kernel⟩⟩

/-- The hypotheses of `Obligations.HbmWritersNamed`, clause by clause. -/
theorem witness_hbm_writers_named :
    (∃ (c : Instr) (s : State) (t : State), exec c s = .next t ∧ (∀ w, c ≠ .strideBoundary w) ∧
      (∀ h, c ≠ .lookupPooling h) ∧ (∀ b l a, c ≠ .storageRead b l a) ∧ (∀ u, c ≠ .burstEnd u) ∧
      (∀ p k r, c ≠ .memoryOperation p k r) ∧
      c ∉ [.granuleScrub, .powerRemoval, .undervoltage, .resetNAssert, .powerFailFlushEnd, .remountRestart]) :=
  ⟨.heartbeatSend, sRow, _, rfl, nofun, nofun, nofun, nofun, nofun, nofun⟩

/-- The hypotheses of `Obligations.FencesHold`, clause by clause. -/
theorem witness_fences_hold :
    (∃ (c : Instr) (s : State) (t : State), exec c s = .next t ∧
      c ∉ [.powerRemoval, .undervoltage, .resetNAssert, .powerFailFlushEnd, .remountRestart]) ∧
    (∃ (c : Instr) (s : State) (t : State), exec c s = .next t ∧
      c ∉ [.powerRemoval, .undervoltage, .resetNAssert, .powerFailFlushEnd, .remountRestart] ∧
      (∀ w, c ≠ .strideBoundary w) ∧ (∀ l, c ≠ .serviceGaitAdoption l)) :=
  ⟨⟨.heartbeatSend, fenced 3 sBeat, _, rfl, by decide +kernel⟩,
    ⟨.fenceDecision, sBeat, _, rfl, by decide +kernel, nofun, nofun⟩⟩

/-- The hypotheses of `Obligations.SendersChecked`, clause by clause. -/
theorem witness_senders_checked :
    (∃ (s : State) (f : Nat) (h : Bytes) (d : Bytes) (p : Bytes) (i : OpInfo), s.requestCheck f h d p = none ∧
      opInfo (le h 2 2) = some i) ∧
    (∃ (s : State) (f : Nat) (h : Bytes) (d : Bytes) (p : Bytes), s.requestCheck f h d p = none) ∧
    (∃ (o : Nat) (i : OpInfo), opInfo o = some i) :=
  ⟨⟨sNode, 63, formatHeader, zeros 32, zeros 8, ⟨2, 0, some 8, 8⟩, by decide +kernel⟩,
    ⟨sNode, 63, formatHeader, zeros 32, zeros 8, by decide +kernel⟩,
    ⟨0x0101, ⟨2, 0, some 8, 8⟩, by decide +kernel⟩⟩

/-- The hypotheses of `Obligations.CodesPacked`, clause by clause. -/
theorem witness_codes_packed :
    (∃ (c : List Int), (∀ v ∈ c, -128 ≤ v ∧ v ≤ 127) ∧ 0 < c.length) ∧
    (∃ (c : List Int), (∀ v ∈ c, -8 ≤ v ∧ v ≤ 7) ∧ 0 < (c.length + 1) / 2) ∧
    (∃ (w : Nat) (c : List Int) (i : Nat), w < 2 ∧ (if w = 0 then c.length else (c.length + 1) / 2) ≤ i) ∧
    (∃ (w : Nat) (d : Nat) (b : Bytes) (x : Bytes), w < 2 ∧
      (∀ i, i < (if w = 0 then d else (d + 1) / 2) → byteAt b i = byteAt x i)) ∧
    (∃ (d : Nat), d ≤ 4096) :=
  ⟨⟨[-128, 127, 0], by decide +kernel⟩,
    ⟨[-8, 7, 0], by decide +kernel⟩,
    ⟨1, [-8, 7, 0], 2, by decide +kernel⟩,
    ⟨1, 3, [1, 2], [1, 2, 9], by decide +kernel⟩,
    ⟨4096, by decide +kernel⟩⟩

/-- The hypotheses of `Obligations.SelectionOrdered`, clause by clause. -/
theorem witness_selection_ordered :
    (∃ (l : List Entry) (i : Nat) (e : Entry), l[i]? = some e) ∧
    (∃ (a : Entry) (b : Entry), (a.rank ≠ b.rank ∨ a.key ≠ b.key)) :=
  ⟨⟨[entry0], 0, entry0, by decide +kernel⟩,
    ⟨entry0, { entry0 with key := 2 }, by decide +kernel⟩⟩

/-- The hypotheses of `Obligations.ShortSelections`, clause by clause. -/
theorem witness_short_selections :
    (∃ (d : Bool) (k : Nat) (l : List Entry), (select d k l).out.length < k) ∧
    (∃ (k : Nat) (l : List Entry), l.length < k) :=
  ⟨⟨true, 2, [entry0], by decide +kernel⟩,
    ⟨1, [], by decide +kernel⟩⟩

/-- The hypotheses of `Obligations.MessagesReadBack`, clause by clause. -/
theorem witness_messages_read_back :
    (∃ (node : Nat) (ring : Nat) (handle : Nat) (a : Nat) (n : Nat) (index : Nat) (ctx : Nat) (op : Nat) (key : Nat) (shard : Nat) (id : Nat) (body : Bytes), node < 2 ^ 15 ∧
      ring < 2 ^ 16 ∧ handle < 2 ^ 18 ∧ a < 2 ^ 64 ∧ n < 2 ^ 64 ∧ index < 2 ^ 32 ∧ ctx < 2 ^ 16 ∧ op < 2 ^ 8 ∧
      key < 2 ^ 48 ∧ shard < 2 ^ 16 ∧ id < 2 ^ 32 ∧ body.length < 2 ^ 32) ∧
    (∃ (q : Query) (node : Nat) (shard : Nat) (handle : Nat), node < 2 ^ 15 ∧ shard < 2 ^ 16 ∧ handle < 2 ^ 18 ∧
      q.admitAt < 2 ^ 64 ∧ q.version < 2 ^ 64 ∧ q.index < 2 ^ 32 ∧ q.context < 2 ^ 16 ∧ q.width < 2 ^ 8 ∧
      q.depth < 2 ^ 16 ∧ q.filter.length < 2 ^ 16 ∧ q.record.length < 2 ^ 32) ∧
    (∃ (tags : List Nat) (half : Nat) (fields : List Nat), tags.length = 10 ∧ (∀ t ∈ tags, t ≤ 8) ∧ half < 2 ^ 32 ∧
      fields = (List.range 4).map (controlField tags half)) :=
  ⟨⟨2 ^ 15 - 1, 2 ^ 16 - 1, 2 ^ 18 - 1, 2 ^ 64 - 1, 2 ^ 64 - 1, 2 ^ 32 - 1, 2 ^ 16 - 1, 2 ^ 8 - 1, 2 ^ 48 - 1,
     2 ^ 16 - 1, 2 ^ 32 - 1, [0], by decide +kernel⟩,
    ⟨query0 (2 ^ 64 - 1), 2 ^ 15 - 1, 2 ^ 16 - 1, 2 ^ 18 - 1, by decide +kernel⟩,
    ⟨[8, 0, 1, 2, 3, 4, 5, 6, 7, 8], 2 ^ 32 - 1, _, by refine ⟨?_, ?_, ?_, rfl⟩ <;> decide +kernel⟩⟩

/-- The hypotheses of `Obligations.KeysPlaced`, clause by clause. -/
theorem witness_keys_placed :
    (∃ (n : Nat) (key : Nat), key < 2 ^ 48 ∧ 1 ≤ n) ∧
    (∃ (seed : Nat) (shift : Nat) (key : Nat) (h : Nat), key < 2 ^ 48 ∧ 1 ≤ shift ∧
      h = (mix (BitVec.ofNat 64 key ^^^ BitVec.ofNat 64 seed ^^^ 0x5A5A5A5A5A5A5A5A#64)).toNat) :=
  ⟨⟨1, 2 ^ 48 - 1, by decide +kernel⟩,
    ⟨3, 1, 2 ^ 48 - 1, _, by decide +kernel, by decide +kernel, rfl⟩⟩

/-- The hypotheses of `Obligations.MailboxServed`, clause by clause. -/
theorem witness_mailbox_served :
    (∃ (f : Nat) (s : State), f < 64 ∧ s.reach f = true ∧ (s.mailbox f).reqFree = true) ∧
    (∃ (f : Nat) (s : State), f < 64 ∧ (s.mailbox f).reqFree = false) ∧
    (∃ (f : Nat) (s : State), f < 64 ∧ s.reach f = true ∧ (s.mailbox f).replyValid = true) ∧
    (∃ (f : Nat) (s : State), f < 64 ∧ (s.mailbox f).replyValid = false) ∧
    (∃ (f : Nat) (v : Word32) (s : State), f < 64 ∧ s.reach f = true ∧ 0 ≤ (v - (s.mailbox f).noteHead).toInt ∧
      0 ≤ ((s.mailbox f).noteTail - v).toInt) ∧
    (∃ (f : Nat) (v : Word32) (s : State), f < 64 ∧
      ((v - (s.mailbox f).noteHead).toInt < 0 ∨ ((s.mailbox f).noteTail - v).toInt < 0)) ∧
    (∃ (f : Nat) (s : State), f < 64 ∧ s.nextTaken = some f) ∧
    (∃ (f : Nat) (s : State), f < 64 ∧ s.nextTaken ≠ some f) ∧
    (∃ (s : State) (f : Nat) (g : Nat), s.nextTaken = some f ∧ g < 64 ∧ s.takeable g = true) ∧
    (∃ (f : Nat) (r : Reply) (s : State), f < 64 ∧ (s.mailbox f).replies.find? (s.postable f) = some r ∧
      (s.mailbox f).replyValid = false ∧ (s.mailbox f).ready = true ∧ s.ctl.coreDown = false ∧ r.indirect = none) ∧
    (∃ (f : Nat) (n : Note) (rest : List Note) (s : State), f < 64 ∧ (s.mailbox f).noteQueue = n :: rest ∧
      (s.mailbox f).ready = true ∧ s.ctl.coreDown = false ∧
      ((s.mailbox f).noteTail - (s.mailbox f).noteHead).toNat < 8) ∧
    (∃ (s : State) (f : Nat), s.ctl.coreDown = false ∧ (s.mailbox f).ready = true) :=
  ⟨⟨63, mbxAt 63 { Mailbox.reset with reqFree := true } sReady, by decide +kernel⟩,
    ⟨63, State.reset, by decide +kernel⟩,
    ⟨63, mbxAt 63 { Mailbox.reset with replyValid := true } sReady, by decide +kernel⟩,
    ⟨63, State.reset, by decide +kernel⟩,
    ⟨63, 3, mbxAt 63 { Mailbox.reset with noteHead := 1, noteTail := 3 } sReady, by decide +kernel⟩,
    ⟨63, 4, mbxAt 63 { Mailbox.reset with noteHead := 1, noteTail := 3 } sReady, by decide +kernel⟩,
    ⟨63, mbxAt 63 { Mailbox.reset with ready := true, submitted := true } sReady, by decide +kernel⟩,
    ⟨63, sReady, by decide +kernel⟩,
    ⟨mbxAt 63 { Mailbox.reset with ready := true, submitted := true } sReady, 63, 63, by decide +kernel⟩,
    ⟨63, reply0, mbxAt 63 { Mailbox.reset with ready := true, replies := [reply0] } sReady, by decide +kernel⟩,
    ⟨63, note0, [], mbxAt 63 { Mailbox.reset with ready := true, noteTail := 7, noteQueue := [note0] } sReady,
     by decide +kernel⟩,
    ⟨mbxAt 63 { Mailbox.reset with ready := true, noteTail := 8, noteQueue := List.replicate 1024 note0 } sReady, 63,
     by decide +kernel⟩⟩

/-- The hypotheses of `Obligations.DevicePlanes`, clause by clause. -/
theorem witness_device_planes :
    (∃ (f : Nat) (s : State) (q : Request), f < 64 ∧ s.headRequest f 0x0101 = some q ∧ q.mute = false ∧
      q.others = 0 ∧ q.field 2 2 ≤ 0x0201 ∧ 0x0201 ≤ q.field 0 2) ∧
    (∃ (f : Nat) (s : State) (q : Request), f < 64 ∧ s.headRequest f 0x0102 = some q) ∧
    (∃ (s : State), s.ctl.coreDown = true) :=
  ⟨⟨63, taken 63 (req 63 0x0101 0 (fields [(0x0201, 2), (0x0201, 2)])) (sNode),
     req 63 0x0101 0 (fields [(0x0201, 2), (0x0201, 2)]), by decide +kernel⟩,
    ⟨63, taken 63 (req 63 0x0102 0 ([])) (sNode), req 63 0x0102 0 ([]), by decide +kernel⟩,
    ⟨{ State.reset with ctl := { State.reset.ctl with coreDown := true } }, by decide +kernel⟩⟩

/-- The hypotheses of `Obligations.RegisterAccesses`, clause by clause. -/
theorem witness_register_accesses :
    (∃ (f : Nat) (s : State), f < 64 ∧ s.reach f = true) ∧
    (∃ (f : Nat) (v : Word32) (s : State), f < 64 ∧ s.reach f = true ∧
      (s.func f).intCause &&& (s.func f).intMask &&& ~~~v = 0) ∧
    (∃ (f : Nat) (v : Word32) (s : State), f < 64 ∧ s.reach f = true ∧
      (s.func f).intCause &&& (s.func f).intMask &&& ~~~v ≠ 0) ∧
    (∃ (f : Nat) (s : State), f < 64 ∧ s.reach f = true) ∧
    (∃ (f : Nat) (s : State), f < 64 ∧ s.reach f = true) ∧
    (∃ (n : Nat) (s : State), n < 567 ∧ s.reach 0 = true) ∧
    (∃ (f : Nat) (n : Nat), f < 64 ∧ n < 567 ∧ f ≠ 0) ∧
    (∃ (f : Nat) (s : State), f < 64 ∧ s.reach f = false) ∧
    (∃ (f : Nat) (s : State), f < 64 ∧ s.reach f = true ∧ s.node.joined = true) ∧
    (∃ (f : Nat) (s : State), f < 64 ∧ s.reach f = true ∧ s.node.joined = false) ∧
    (∃ (f : Nat) (v : Nat) (s : State), f < 64 ∧ v < 32 ∧ s.reach f = true ∧
      (bitOf (s.func f).msixPending.toNat v = false ∨ (v ≠ 0 ∧ s.clk.window = 0))) ∧
    (∃ (f : Nat) (v : Nat) (s : State), f < 64 ∧ v < 32 ∧ s.reach f = true ∧
      bitOf (s.func f).msixPending.toNat v = true ∧ (v = 0 ∨ s.clk.window ≠ 0)) ∧
    (∃ (f : Nat) (v : Nat) (x : Word64) (s : State), f < 64 ∧ v < 32 ∧ s.reach f = true ∧ x.getLsbD 0 = true) ∧
    (∃ (f : Nat) (v : Nat) (x : Word64) (s : State), f < 64 ∧ v < 32 ∧ s.reach f = true ∧ x.getLsbD 0 = false) ∧
    (∃ (f : Nat) (v : Nat) (i : Nat) (s : State), f < 64 ∧ v < 32 ∧ s.reach f = true ∧ i < 3) :=
  ⟨⟨63, funcAt 63 { live with intCause := 3, intMask := 3 } sReady, by decide +kernel⟩,
    ⟨63, 3, funcAt 63 { live with intCause := 3, intMask := 3 } sReady, by decide +kernel⟩,
    ⟨63, 1, funcAt 63 { live with intCause := 3, intMask := 3 } sReady, by decide +kernel⟩,
    ⟨63, funcAt 63 { live with intCause := 3, intMask := 3 } sReady, by decide +kernel⟩,
    ⟨63, funcAt 63 { live with intCause := 3, intMask := 3 } sReady, by decide +kernel⟩,
    ⟨566, sNode, by decide +kernel⟩,
    ⟨63, 566, by decide +kernel⟩,
    ⟨63, State.reset, by decide +kernel⟩,
    ⟨63, funcAt 63 { live with intCause := 3, intMask := 3 } sReady, by decide +kernel⟩,
    ⟨63, attachAt 63 State.reset, by decide +kernel⟩,
    ⟨63, 31, funcAt 63 { live with intCause := 3, intMask := 3 } sReady, by decide +kernel⟩,
    ⟨63, 31, funcAt 63 { live with msixPending := 0x8000_0000 } sReady, by decide +kernel⟩,
    ⟨63, 31, 1, funcAt 63 { live with intCause := 3, intMask := 3 } sReady, by decide +kernel⟩,
    ⟨63, 31, 0, funcAt 63 { live with msixMask := 0x8000_0000 } sReady, by decide +kernel⟩,
    ⟨63, 31, 2, funcAt 63 { live with intCause := 3, intMask := 3 } sReady, by decide +kernel⟩⟩

/-- The hypotheses of `Obligations.Bar0Read`, clause by clause. -/
theorem witness_bar0_read :
    (∃ (s : State) (f : Nat) (g : Nat) (o : Nat), o < 0x1000 ∧ o % 4 = 0 ∧ s.reach f = true ∧ s.reach g = true) ∧
    (∃ (s : State) (n : Nat), n < 567 ∧ s.reach 0 = true) ∧
    (∃ (s : State) (f : Nat) (n : Nat) (o : Nat), f < 64 ∧ f ≠ 0 ∧ n < 567 ∧ o < 64 ∧ o % 4 = 0 ∧ s.reach f = true) ∧
    (∃ (s : State) (f : Nat) (o : Nat), 0x3000 ≤ o ∧ o < 0x4000 ∧ o % 4 = 0 ∧ s.reach f = true ∧
      s.node.joined = false) ∧
    (∃ (s : State) (o : Nat), o + 4 ≤ 0x4_0000 ∧ o % 4 = 0 ∧ s.reach 0 = true) ∧
    (∃ (s : State) (f : Nat) (o : Nat), f ≠ 0 ∧ o % 4 = 0 ∧ 8 ≤ o ∧ o + 4 ≤ 0x3_FFF8 ∧ s.reach f = true ∧
      (o < 0x1_0000 ∨ 0x3_0000 ≤ o ∨ ∀ x ∈ s.contexts, x.1 = (o - 0x1_0000) / 32 → x.2.func ≠ f)) ∧
    (∃ (s : State) (f : Nat) (o : Nat), o % 4 = 0 ∧ o + 4 ≤ 0x4_0000 ∧ s.reach f = true ∧
      (o < 8 ∨ 0x3_FFF8 ≤ o ∨ (0x1_0000 ≤ o ∧ o < 0x3_0000 ∧ ∃ x ∈ s.contexts, x.1 = (o - 0x1_0000) / 32 ∧ x.2.func = f))) ∧
    (∃ (s : State) (f : Nat), s.reach f = true) :=
  ⟨⟨attachAt 62 (attachAt 63 sReady), 63, 62, 0xFFC, by decide +kernel⟩,
    ⟨sNode, 566, by decide +kernel⟩,
    ⟨attachAt 63 sNode, 63, 566, 60, by decide +kernel⟩,
    ⟨attachAt 63 State.reset, 63, 0x3FFC, by decide +kernel⟩,
    ⟨sNode, 0x3_FFFC, by decide +kernel⟩,
    ⟨attachAt 63 sNode, 63, 0x3_FFF4, by decide +kernel⟩,
    ⟨{ attachAt 63 sNode with contexts := [(4095, { context0 with func := 63 })] }, 63, 0x2_FFFC,
     by refine ⟨?_, ?_, ?_, .inr (.inr ⟨by decide +kernel, by decide +kernel, (4095, { context0 with func := 63 }), by decide +kernel⟩)⟩ <;> decide +kernel⟩,
    ⟨attachAt 63 sNode, 63, by decide +kernel⟩⟩

/-- The hypotheses of `Obligations.DoorbellsAndRegisterWrites`, clause by clause. -/
theorem witness_doorbells_and_register_writes :
    (∃ (f : Nat) (b : Doorbell) (v : Word32) (s : State) (r : Ring), f < 64 ∧ isBell b = true ∧
      s.bellLive f b = true ∧ s.bell b = some r ∧ r.isOpen = true ∧ r.lost = false ∧ 0 ≤ (v - r.subTail).toInt ∧
      (v - BitVec.ofNat 32 (r.admitted + r.depth)).toInt ≤ 0) ∧
    (∃ (f : Nat) (b : Doorbell) (v : Word32) (s : State) (r : Ring), f < 64 ∧ isBell b = true ∧
      s.bellLive f b = true ∧ s.bell b = some r ∧ r.isOpen = true ∧ r.lost = false ∧ 0 ≤ (v - r.cplHead).toInt ∧
      (v - r.cplTail).toInt ≤ 0) ∧
    (∃ (f : Nat) (b : Doorbell) (v : Word32) (s : State) (r : Ring), f < 64 ∧ isBell b = true ∧
      s.bellLive f b = true ∧ s.bell b = some r ∧ r.tailFault v ≠ 0) ∧
    (∃ (f : Nat) (b : Doorbell) (v : Word32) (s : State) (r : Ring), f < 64 ∧ isBell b = true ∧
      s.bellLive f b = true ∧ s.bell b = some r ∧ r.headFault v ≠ 0) ∧
    (∃ (f : Nat) (b : Doorbell) (s : State), f < 64 ∧ isBell b = true ∧ s.bellLive f b = false) ∧
    (∃ (f : Nat) (s : State), f < 64 ∧ s.reach f = true) ∧
    (∃ (s : State), s.reach 0 = true) ∧
    (∃ (f : Nat) (o : Nat) (s : State), f < 64 ∧ s.reach f = true ∧ o % 4 = 0 ∧ o < 0x800) ∧
    (∃ (f : Nat) (a : Nat) (o : Nat) (s : State), f < 64 ∧ s.reach f = true ∧ a < 64 ∧ (o = 0 ∨ o = 4 ∨ o = 8)) ∧
    (∃ (n : Nat) (s : State), n < 567 ∧ s.reach 0 = true) ∧
    (∃ (f : Nat) (c : Nat) (i : Nat) (s : State), f < 64 ∧ s.reach f = true ∧ c < 4096 ∧ i < 4) ∧
    (∃ (f : Nat) (b : Nat) (o : Nat) (s : State), f < 64 ∧ s.reach f = true ∧ (b = 0 ∨ b = 4) ∧ o < barSize b ∧
      o % 8 = 0) ∧
    (∃ (f : Nat) (b : Nat) (o : Nat) (n : Nat) (s : State), f < 64 ∧ s.reach f = true ∧ (b = 0 ∨ b = 4) ∧
      o < barSize b ∧ (n = 1 ∨ n = 2 ∨ n = 4 ∨ n = 8) ∧ (n < 4 ∨ o % n ≠ 0)) ∧
    (∃ (f : Nat) (g : Nat) (o : Nat) (s : State), f < 64 ∧ g < 64 ∧ g ≠ f ∧ o < 4096 ∧ o % 4 = 0 ∧ s.reach f = true) :=
  ⟨⟨0, .ring 5 0, 16, sNode, ring0 1 512, by decide +kernel⟩,
    ⟨0, .ring 5 0, 3, { sNode with rings := [(20, { ring0 1 512 with cplHead := 1, cplTail := 3 })] },
     { ring0 1 512 with cplHead := 1, cplTail := 3 }, by decide +kernel⟩,
    ⟨0, .ring 5 0, 17, sNode, ring0 1 512, by decide +kernel⟩,
    ⟨0, .ring 5 0, 4, { sNode with rings := [(20, { ring0 1 512 with cplHead := 1, cplTail := 3 })] },
     { ring0 1 512 with cplHead := 1, cplTail := 3 }, by decide +kernel⟩,
    ⟨63, .queue 1023, sNode, by decide +kernel⟩,
    ⟨63, funcAt 63 { live with intCause := 3, intMask := 3 } sReady, by decide +kernel⟩,
    ⟨sNode, by decide +kernel⟩,
    ⟨63, 0x7FC, funcAt 63 { live with intCause := 3, intMask := 3 } sReady, by decide +kernel⟩,
    ⟨63, 63, 8, funcAt 63 { live with intCause := 3, intMask := 3 } sReady, by decide +kernel⟩,
    ⟨566, sNode, by decide +kernel⟩,
    ⟨63, 4095, 3, funcAt 63 { live with intCause := 3, intMask := 3 } sReady, by decide +kernel⟩,
    ⟨63, 0, 0x1F_FFF8, funcAt 63 { live with intCause := 3, intMask := 3 } sReady, by decide +kernel⟩,
    ⟨63, 4, 1, 2, funcAt 63 { live with intCause := 3, intMask := 3 } sReady, by decide +kernel⟩,
    ⟨63, 62, 4092, funcAt 63 { live with intCause := 3, intMask := 3 } sReady, by decide +kernel⟩⟩

/-- The hypotheses of `Obligations.Bar2AndOperations`, clause by clause. -/
theorem witness_bar2_and_operations :
    (∃ (f : Nat) (a : Nat) (s : State) (tag : Nat), f < 64 ∧ a < 2 ^ 36 ∧ a % 8 = 0 ∧ s.reach f = true ∧
      (s.func f).fenceTags = [] ∧ (s.func f).held = [] ∧ (s.aperture f a).valid = true ∧
      s.isFenced ((s.aperture f a).address a % 2 ^ 15) = false ∧ s.freeTag = some tag) ∧
    (∃ (f : Nat) (a : Nat) (s : State) (tag : Nat) (data : Bytes), f < 64 ∧ a < 2 ^ 36 ∧ a % 8 = 0 ∧
      data.length = 8 ∧ s.reach f = true ∧ (s.func f).fenceTags = [] ∧ (s.func f).held = [] ∧
      (s.aperture f a).valid = true ∧ (s.aperture f a).mode = 0 ∧
      s.isFenced ((s.aperture f a).address a % 2 ^ 15) = false ∧ s.freeTag = some tag) ∧
    (∃ (f : Nat) (a : Nat) (op : Nat) (n : Nat) (s : State) (tag : Nat), f < 64 ∧ a < 2 ^ 36 ∧ op < 3 ∧
      (n = 4 ∨ n = 8) ∧ s.reach f = true ∧ (s.func f).fenceTags = [] ∧ (s.func f).held = [] ∧
      (s.aperture f a).valid = true ∧ (s.aperture f a).mode = 0 ∧
      s.isFenced ((s.aperture f a).address a % 2 ^ 15) = false ∧ s.freeTag = some tag) ∧
    (∃ (f : Nat) (a : Nat), f < 64 ∧ a < 2 ^ 36) ∧
    (∃ (f : Nat) (s : State), f < 64 ∧ s.reach f = true ∧ (s.func f).fenceTags = [] ∧ (s.func f).held = []) ∧
    (∃ (f : Nat) (a : Nat) (n : Nat) (s : State), f < 64 ∧ a < 2 ^ 36 ∧ 0 < n ∧ n ≤ 4096 ∧ s.reach f = true ∧
      (s.func f).fenceTags ≠ []) ∧
    (∃ (f : Nat) (a : Nat) (n : Nat) (s : State), f < 64 ∧ a < 2 ^ 36 ∧ 0 < n ∧ n ≤ 4096 ∧ s.reach f = true ∧
      (s.func f).fenceTags = [] ∧ (s.func f).held = [] ∧ (s.aperture f a).valid = false) ∧
    (∃ (p : Nat) (cls : Nat) (rec : Bytes) (s : State) (u : State) (o : OutOp), p < 9 ∧ (cls = 3 ∨ cls = 4) ∧
      s.arrival cls s.me rec = (true, u) ∧ (u.port p).st = 2 ∧ u.takes p cls (le rec 0 8 % 2 ^ 15) = true ∧
      polices (u.port p).role cls = false ∧ bitOf (byteAt rec 14) 0 = true ∧
      (u.fab.ops.find? fun o => o.tag = le rec 16 4 % 2 ^ 18 && decide (u.stride ≤ o.issued + 2)) = some o ∧
      o.func = none) ∧
    (∃ (p : Nat) (cls : Nat) (rec : Bytes) (s : State) (u : State) (o : OutOp) (q : _) (a : Nat) (n : Nat) (f : Nat), p < 9 ∧
      (cls = 3 ∨ cls = 4) ∧ s.arrival cls s.me rec = (true, u) ∧ (u.port p).st = 2 ∧
      u.takes p cls (le rec 0 8 % 2 ^ 15) = true ∧ polices (u.port p).role cls = false ∧
      bitOf (byteAt rec 14) 0 = true ∧
      (u.fab.ops.find? fun o => o.tag = le rec 16 4 % 2 ^ 18 && decide (u.stride ≤ o.issued + 2)) = some o ∧
      o.func = some f ∧ le rec 20 2 = stOk ∧ (u.func f).held = [] ∧
      (u.fab.requests.find? fun q => q.func = f && q.pieces.any fun p => p.1 = o.tag) = some q ∧ q.func = f ∧
      q.kind = 0 ∧ q.pieces = [(o.tag, a, n)] ∧ q.done = [] ∧ q.failed = none) ∧
    (∃ (p : Nat) (cls : Nat) (rec : Bytes) (s : State) (u : State), p < 9 ∧ (cls = 3 ∨ cls = 4) ∧
      s.arrival cls s.me rec = (true, u) ∧ (u.port p).st = 2 ∧ u.takes p cls (le rec 0 8 % 2 ^ 15) = true ∧
      polices (u.port p).role cls = false ∧ bitOf (byteAt rec 14) 0 = true ∧
      (∀ o ∈ u.fab.ops, o.tag = le rec 16 4 % 2 ^ 18 → o.issued + 2 < u.stride)) ∧
    (∃ (k : Nat) (rec : Bytes) (s : State) (c : GaitClass) (tag : Nat), k < 16384 ∧ s.gaitNow.1.cls? k = some c ∧
      c.kind = 6 ∧ s.working = true ∧ s.classRoom k = true ∧ SMap.has s.fab.classFences c.context = false ∧
      s.isFenced (le rec 0 8 % 2 ^ 15) = false ∧ s.freeTag = some tag) ∧
    (∃ (k : Nat) (s : State) (c : GaitClass), k < 16384 ∧ s.gaitNow.1.cls? k = some c ∧ c.kind = 6 ∧
      s.working = true ∧ (∃ o ∈ s.fab.ops, o.cls = 3 ∧ o.context = c.context)) :=
  ⟨⟨63, 0x7FFF_FFF8, funcAt 63 (apertured 0) sNode, (State.drawn (funcAt 63 (apertured 0) sNode)).toNat % 262144,
     by refine ⟨?_, ?_, ?_, ?_, ?_, ⟨?_, ?_, ?_, rfl⟩⟩ <;> decide +kernel⟩,
    ⟨63, 0x7FFF_FFF8, funcAt 63 (apertured 0) sNode, (State.drawn (funcAt 63 (apertured 0) sNode)).toNat % 262144,
     zeros 8, by refine ⟨?_, ?_, ?_, ?_, ?_, ⟨?_, ?_, ?_, ?_, ?_, rfl⟩⟩ <;> decide +kernel⟩,
    ⟨63, 0x7FFF_FFF8, 2, 8, funcAt 63 (apertured 0) sNode,
     (State.drawn (funcAt 63 (apertured 0) sNode)).toNat % 262144,
     by refine ⟨?_, ?_, ?_, ?_, ?_, ⟨?_, ?_, ?_, ?_, ?_, rfl⟩⟩ <;> decide +kernel⟩,
    ⟨63, 0xF_FFFF_FFFF, by decide +kernel⟩,
    ⟨63, funcAt 63 (apertured 0) sNode, by decide +kernel⟩,
    ⟨63, 0xF_FFFF_FFFF, 4096, funcAt 63 { live with fenceTags := [6] } sNode, by decide +kernel⟩,
    ⟨63, 0xF_FFFF_FFFF, 4096, funcAt 63 live sNode, by decide +kernel⟩,
    ⟨8, 3, response 0, portAt port0 (sOps none []), portAt port0 (sOps none []), outOp none, by decide +kernel,
     by decide +kernel, rfl, by decide +kernel⟩,
    ⟨8, 3, response 0, portAt port0 (sOps (some 0) [request0]), portAt port0 (sOps (some 0) [request0]),
     outOp (some 0), request0, 0x4000_0000, 8, 0, by decide +kernel, by decide +kernel, rfl, by decide +kernel⟩,
    ⟨8, 4, response 0, sPort, sPort, by decide +kernel, by decide +kernel, rfl, by decide +kernel⟩,
    ⟨9, zeros 64, sNode, cls0 6 0xFFFF, (State.drawn sNode).toNat % 262144,
     by refine ⟨?_, ?_, ?_, ?_, ?_, ⟨?_, ?_, rfl⟩⟩ <;> decide +kernel⟩,
    ⟨9, { sNode with fab := { sNode.fab with ops := [{ outOp none with context := 5 }] } }, cls0 6 0xFFFF,
     by decide +kernel⟩⟩

/-- The hypotheses of `Obligations.LinksAndFunctions`, clause by clause. -/
theorem witness_links_and_functions :
    (∃ (l : Nat) (r : BitVec 6) (s : State), l < 2 ∧ (s.link l).up = false ∧ s.hasLink l = true ∧
      s.node.railsOn = true ∧ s.node.tack ≠ none ∧ r ≠ 0) ∧
    (∃ (l : Nat) (s : State), l < 2 ∧ (s.link l).up = true) ∧
    (∃ (f : Nat) (s : State), f < 64 ∧ (s.func f).attached = true) ∧
    (∃ (l : Nat) (n : Nat) (s : State), l < 2 ∧ n < 64 ∧ (s.link l).up = true ∧ n < (s.linkFuncs l).length) ∧
    (∃ (l : Nat) (k : Nat) (s : State), l < 2 ∧ k < 9 ∧ (s.link l).up = true) ∧
    (∃ (f : Nat) (s : State), f < 64 ∧ (s.func f).attached = true) :=
  ⟨⟨1, 33, { sReady with node := { sReady.node with tack := some tack0 } }, by decide +kernel⟩,
    ⟨1, linkAt 1 { Link.reset with up := true } sReady, by decide +kernel⟩,
    ⟨63, funcAt 63 { live with intCause := 3, intMask := 3 } sReady, by decide +kernel⟩,
    ⟨0, 63, linkAt 0 { Link.reset with up := true } sReady, by decide +kernel⟩,
    ⟨1, 8, linkAt 1 { Link.reset with up := true } sReady, by decide +kernel⟩,
    ⟨63, funcAt 63 { live with intCause := 3, intMask := 3 } sReady, by decide +kernel⟩⟩

/-- The hypotheses of `Obligations.ContextAndRingRequests`, clause by clause. -/
theorem witness_context_and_ring_requests :
    (∃ (f : Nat) (s : State) (q : Request), f < 64 ∧ s.headRequest f 0x0201 = some q ∧ s.node.unlocked = false ∧
      0 < q.field 0 2 ∧ q.field 0 2 < 4096 ∧ q.field 2 1 < 64 ∧ s.contextTaken (q.field 0 2) = false ∧
      s.gaitNames (q.field 0 2) = false) ∧
    (∃ (f : Nat) (s : State) (q : Request) (x : _), f < 64 ∧ s.headRequest f 0x0202 = some q ∧ 0 < q.field 0 2 ∧
      q.field 0 2 < 4096 ∧ SMap.find? s.contexts (q.field 0 2) = some x ∧ x.st = 1 ∧
      Change.closeContext (q.field 0 2) ∉ s.waiting) ∧
    (∃ (f : Nat) (s : State) (q : Request) (x : _), f < 64 ∧ s.headRequest f 0x0203 = some q ∧ 0 < q.field 0 2 ∧
      q.field 0 2 < 4096 ∧ (parseReservation q.payload).hbm % granuleSize = 0 ∧
      (parseReservation q.payload).ddr % granuleSize = 0 ∧ SMap.find? s.contexts (q.field 0 2) = some x ∧ x.st = 1 ∧
      s.kindsFit (q.field 0 2) (parseReservation q.payload) = true ∧
      s.bytesFit (q.field 0 2) (parseReservation q.payload) = true ∧
      s.gaitsBreak (q.field 0 2) (parseReservation q.payload) = none) ∧
    (∃ (f : Nat) (s : State) (q : Request) (x : _), f < 64 ∧ s.headRequest f 0x0204 = some q ∧
      SMap.find? s.contexts q.context = some x) ∧
    (∃ (f : Nat) (s : State) (q : Request) (c : _), f < 64 ∧ s.headRequest f 0x0210 = some q ∧
      ringValueBad q.payload = false ∧ le q.payload 4 4 % 64 = 0 ∧
      (slotRange (byteAt q.payload 1)).1 ≤ le q.payload 4 4 ∧ le q.payload 4 4 ≤ (slotRange (byteAt q.payload 1)).2 ∧
      s.ringTaken (4 * q.context + byteAt q.payload 0) = false ∧
      (s.gaitAt s.nextBoundary).classOf q.context (byteAt q.payload 1) (4 * q.context + byteAt q.payload 0) = some c ∧
      (byteAt q.payload 1 = 1 → le q.payload 38 2 * le q.payload 30 2 ≤ 1048576)) ∧
    (∃ (f : Nat) (s : State) (q : Request) (r : _), f < 64 ∧ s.headRequest f 0x0211 = some q ∧ q.field 0 1 < 4 ∧
      s.ring? (4 * q.context + q.field 0 1) = some r ∧ r.isOpen = true ∧ r.closing = false ∧
      s.closingRing (4 * q.context + q.field 0 1) = false) :=
  ⟨⟨0, taken 0 (req 0 0x0201 0 (fields [(4095, 2), (63, 1)])) (sNode), req 0 0x0201 0 (fields [(4095, 2), (63, 1)]),
     by decide +kernel⟩,
    ⟨0, taken 0 (req 0 0x0202 0 (fields [(5, 2)])) (sNode), req 0 0x0202 0 (fields [(5, 2)]), context0,
     by decide +kernel⟩,
    ⟨0, taken 0 (req 0 0x0203 0 (fields [(5, 2), (0, 6), (2 ^ 20, 8), (0, 8)] ++ zeros 120)) (sNode),
     req 0 0x0203 0 (fields [(5, 2), (0, 6), (2 ^ 20, 8), (0, 8)] ++ zeros 120), context0, by decide +kernel⟩,
    ⟨0, taken 0 (req 0 0x0204 5 ([])) (sNode), req 0 0x0204 5 ([]), context0, by decide +kernel⟩,
    ⟨0,
     taken 0 (req 0 0x0210 5 (fields [(1, 1), (2, 1), (2, 2), (16448, 4), (0x10000, 8), (0x20000, 8), (31, 1), (0, 11), (1, 1), (0, 27)])) ({ sNode with rings := [] }),
     req 0 0x0210 5 (fields [(1, 1), (2, 1), (2, 2), (16448, 4), (0x10000, 8), (0x20000, 8), (31, 1), (0, 11), (1, 1), (0, 27)]),
     2, by decide +kernel⟩,
    ⟨0, taken 0 (req 0 0x0211 5 ([0])) (sNode), req 0 0x0211 5 ([0]), ring0 1 512, by decide +kernel⟩⟩

/-- The hypotheses of `Obligations.ResidencyServed`, clause by clause. -/
theorem witness_residency_served :
    (∃ (f : Nat) (s : State) (q : Request) (r0 : _), f < 64 ∧ s.headRequest f 0x0220 = some q ∧
      s.object? (q.field 0 4) = some (q.context, r0) ∧ byteAt q.payload 4 = bit01 (SMap.has s.tables (q.field 0 4)) ∧
      byteAt q.payload 5 ≠ 0 ∧ le q.payload 8 8 % 2048 = 0 ∧ 16 ≤ le q.payload 16 2 ∧ le q.payload 16 2 ≤ 4096 ∧
      (le q.payload 6 2 ≠ 0xFFFF → s.ownClass q.context (le q.payload 6 2) = true) ∧
      s.quotas q.context (q.field 0 4) (le q.payload 8 8) ≤ (s.acceptedReservation q.context).hbm ∧
      (s.pinnedRows (q.field 0 4) (s.acceptedResidency (q.field 0 4) r0)).length * s.objectCopy (q.field 0 4) ≤ le q.payload 8 8) ∧
    (∃ (f : Nat) (s : State) (q : Request) (r0 : _), f < 64 ∧ s.headRequest f 0x0221 = some q ∧
      s.object? (q.field 0 4) = some (q.context, r0) ∧ byteAt q.payload 4 = 0 ∧ 0 < le q.payload 8 4 ∧
      le q.payload 8 4 ≤ 4096 ∧ q.payload.length = 16 + 8 * le q.payload 8 4 ∧
      (∀ k ∈ keysAt q.payload 16 (le q.payload 8 4), (s.pinOf (q.field 0 4) k).isSome = true) ∧
      (s.pinnedRows (q.field 0 4) { s.acceptedResidency (q.field 0 4) r0 with pins := ((s.acceptedResidency (q.field 0 4) r0).pins ++ (keysAt q.payload 16 (le q.payload 8 4)).filterMap (s.pinOf (q.field 0 4))).eraseDups }).length * s.objectCopy (q.field 0 4) ≤ (s.acceptedResidency (q.field 0 4) r0).quota) ∧
    (∃ (f : Nat) (s : State) (q : Request) (r0 : _), f < 64 ∧ s.headRequest f 0x0221 = some q ∧
      s.object? (q.field 0 4) = some (q.context, r0) ∧ byteAt q.payload 4 = 1 ∧ 0 < le q.payload 8 4 ∧
      le q.payload 8 4 ≤ 4096 ∧ q.payload.length = 16 + 8 * le q.payload 8 4) ∧
    (∃ (f : Nat) (s : State) (q : Request) (x : _), f < 64 ∧ s.headRequest f 0x0222 = some q ∧
      SMap.find? s.indexes (q.field 0 4) = some x ∧ x.context = q.context ∧ q.field 4 4 ≤ 65536 ∧
      q.payload.length = 8 + 8 * q.field 4 4) ∧
    (∃ (id : Nat) (s : State) (c : Nat) (r : Residency), id < 2 ^ 32 ∧ s.object? id = some (c, r) ∧
      s.running = true ∧ s.clk.window = 0 ∧ r.cls ≠ 0xFFFF ∧ 0 < r.period ∧ s.stride % r.period = 0) ∧
    (∃ (r : Residency) (pinned : List Nat) (dead : List Nat) (row : Nat), row ∈ r.hot.map (·.row) ∧ row ∈ dead ∧
      row ∉ pinned) ∧
    (∃ (id : Nat) (row : Nat) (s0 : State) (s : State) (c : Nat) (r : Residency) (b : Bytes) (poisoned : Bool) (a : Nat) (k : Nat), id < 2 ^ 32 ∧
      s0.object? id = some (c, r) ∧ s0.moveRead id row = (true, s) ∧ s.working = true ∧ s.mayMove id row r = true ∧
      s.contextLive c = true ∧ s.classRoom r.cls = true ∧ (s.gaitNow.1.cls? r.cls).isSome = true ∧
      s.moveSource id row = some (b, poisoned) ∧
      nextStack r.mask.toNat s.mountedSet.hbmStacks.toNat r.turn (s.otherStacks id row r) = some k ∧
      s.placeOn c b.length k = some a) ∧
    (∃ (id : Nat) (row : Nat) (s0 : State) (s : State) (c : Nat) (r : Residency), id < 2 ^ 32 ∧
      s0.object? id = some (c, r) ∧ s0.moveRead id row = (true, s) ∧ s.working = true ∧ s.mayMove id row r = true ∧
      s.contextLive c = true ∧ s.classRoom r.cls = true ∧ (s.gaitNow.1.cls? r.cls).isSome = true ∧
      s.moveSource id row = none) ∧
    (∃ (id : Nat) (row : Nat) (s : State) (s' : State) (c : Nat) (r : Residency), id < 2 ^ 32 ∧
      s.object? id = some (c, r) ∧ s.moveRead id row = (false, s')) :=
  ⟨⟨0,
     taken 0 (req 0 0x0220 5 (fields [(7, 4), (0, 1), (1, 1), (0xFFFF, 2), (2048, 8), (16, 2), (0, 6)])) (sObjects),
     req 0 0x0220 5 (fields [(7, 4), (0, 1), (1, 1), (0xFFFF, 2), (2048, 8), (16, 2), (0, 6)]), Residency.reset,
     by decide +kernel⟩,
    ⟨0,
     taken 0 (req 0 0x0221 5 (fields [(7, 4), (0, 4), (1, 4), (0, 4), (1, 8)])) ({ sObjects with indexes := [(7, { index0 with resid := { Residency.reset with quota := 2 ^ 20 } })] }),
     req 0 0x0221 5 (fields [(7, 4), (0, 4), (1, 4), (0, 4), (1, 8)]), { Residency.reset with quota := 2 ^ 20 },
     by decide +kernel⟩,
    ⟨0,
     taken 0 (req 0 0x0221 5 (fields [(7, 4), (1, 4), (1, 4), (0, 4), (1, 8)])) ({ sObjects with indexes := [(7, { index0 with resid := { Residency.reset with quota := 2 ^ 20 } })] }),
     req 0 0x0221 5 (fields [(7, 4), (1, 4), (1, 4), (0, 4), (1, 8)]), { Residency.reset with quota := 2 ^ 20 },
     by decide +kernel⟩,
    ⟨0, taken 0 (req 0 0x0222 5 (fields [(7, 4), (1, 4), (1, 8)])) (sObjects),
     req 0 0x0222 5 (fields [(7, 4), (1, 4), (1, 8)]), index0, by decide +kernel⟩,
    ⟨7,
     { ({ sHbm with indexes := [(7, { index0 with resid := { Residency.reset with cls := 1, chosen := [0], period := 100 } })] } : State) with clk := { sHbm.clk with window := 0 } },
     5, { Residency.reset with cls := 1, chosen := [0], period := 100 }, by decide +kernel⟩,
    ⟨{ Residency.reset with hot := [{ row := 3, stack := 0, address := 0 }] }, [], [3], 3, by decide +kernel⟩,
    ⟨7, 0,
     { sHbm with indexes := [(7, { index0 with resid := { Residency.reset with cls := 1, chosen := [0], period := 100 } })] },
     { sHbm with indexes := [(7, { index0 with resid := { Residency.reset with cls := 1, chosen := [0], period := 100 } })] },
     5, { Residency.reset with cls := 1, chosen := [0], period := 100 }, zeros 128, false, 0, 0, by decide +kernel,
     by decide +kernel, rfl, by decide +kernel⟩,
    ⟨7, 3,
     { sHbm with indexes := [(7, { index0 with resid := { Residency.reset with cls := 1, chosen := [3], period := 100 } })] },
     { sHbm with indexes := [(7, { index0 with resid := { Residency.reset with cls := 1, chosen := [3], period := 100 } })] },
     5, { Residency.reset with cls := 1, chosen := [3], period := 100 }, by decide +kernel, by decide +kernel, rfl,
     by decide +kernel⟩,
    ⟨9, 1,
     { sHbm with tables := [(9, { table0 with resid := { Residency.reset with cls := 1 }, places := [(1, 0)] })], nmu := { sHbm.nmu with units := [(0, { NmuUnit.fresh with lock := some (0, 2) })] } },
     (State.moveRead ({ sHbm with tables := [(9, { table0 with resid := { Residency.reset with cls := 1 }, places := [(1, 0)] })], nmu := { sHbm.nmu with units := [(0, { NmuUnit.fresh with lock := some (0, 2) })] } }) 9 1).2,
     5, { Residency.reset with cls := 1 }, by decide +kernel, by decide +kernel, Prod.ext (by decide +kernel) rfl⟩⟩

/-- The hypotheses of `Obligations.GaitsServed`, clause by clause. -/
theorem witness_gaits_served :
    (∃ (f : Nat) (image : Bytes) (s : State) (q : Request), f < 64 ∧ s.dmaOk f = true ∧
      s.headRequest f 0x0301 = some q ∧ q.field 0 1 = 0 ∧ q.field 8 8 % 64 = 0 ∧
      (s.girthCheck (image.take (q.field 4 4)) (q.field 4 4) (some (q.field 16 8))).1 = stOk) ∧
    (∃ (f : Nat) (image : Bytes) (s : State) (q : Request), f < 64 ∧ s.dmaOk f = true ∧
      s.headRequest f 0x0302 = some q ∧ 1 ≤ q.field 0 1 ∧ q.field 0 1 ≤ 3 ∧ (s.slot (q.field 0 1)).st ≠ 2 ∧
      q.field 8 8 % 64 = 0 ∧ (s.girthCheck (image.take (q.field 4 4)) (q.field 4 4) (some (q.field 16 8))).1 = stOk) ∧
    (∃ (f : Nat) (s : State) (q : Request) (g : _), f < 64 ∧ s.headRequest f 0x0303 = some q ∧ 1 ≤ q.field 0 1 ∧
      q.field 0 1 ≤ 3 ∧ (s.slot (q.field 0 1)).st = 1 ∧ (s.slot (q.field 0 1)).gait = some g ∧
      s.stride + 4 ≤ q.field 8 8 ∧ (∀ p ∈ s.stagedSlots, p.2.stride < q.field 8 8) ∧ (s.girthSteps g).1 = stOk ∧
      (s.transitionCheck s.gaitBefore.1 s.gaitBefore.2 g (q.field 8 8)).1 = stOk ∧ s.uncovers g = false) ∧
    (∃ (f : Nat) (s : State) (q : Request), f < 64 ∧ s.headRequest f 0x0304 = some q ∧ 1 ≤ q.field 0 1 ∧
      q.field 0 1 ≤ 3 ∧ (s.slot (q.field 0 1)).st = 1) ∧
    (∃ (f : Nat) (s : State) (q : Request), f < 64 ∧ s.headRequest f 0x0304 = some q ∧ 1 ≤ q.field 0 1 ∧
      q.field 0 1 ≤ 3 ∧ (s.slot (q.field 0 1)).st = 2 ∧ s.stride + 3 ≤ (s.slot (q.field 0 1)).stride) ∧
    (∃ (f : Nat) (s : State) (q : Request), f < 64 ∧ s.headRequest f 0x0304 = some q ∧ 1 ≤ q.field 0 1 ∧
      q.field 0 1 ≤ 3 ∧ (s.slot (q.field 0 1)).st = 2 ∧ (s.slot (q.field 0 1)).stride < s.stride + 3) ∧
    (∃ (f : Nat) (s : State) (q : Request), f < 64 ∧ s.headRequest f 0x0305 = some q) :=
  ⟨⟨0, gaitImage, taken 0 (req 0 0x0301 0 (fields [(0, 4), (212, 4), (0x40, 8), (9, 8)])) (sNode),
     req 0 0x0301 0 (fields [(0, 4), (212, 4), (0x40, 8), (9, 8)]), by decide +kernel⟩,
    ⟨0, gaitImage, taken 0 (req 0 0x0302 0 (fields [(3, 4), (212, 4), (0x40, 8), (9, 8)])) (sNode),
     req 0 0x0302 0 (fields [(3, 4), (212, 4), (0x40, 8), (9, 8)]), by decide +kernel⟩,
    ⟨0,
     taken 0 (req 0 0x0303 0 (fields [(1, 8), (104, 8)])) (slot1 { GaitSlot.empty with st := 1, gait := some (parseGait gaitImage) }),
     req 0 0x0303 0 (fields [(1, 8), (104, 8)]), parseGait gaitImage, by decide +kernel⟩,
    ⟨0, taken 0 (req 0 0x0304 0 (fields [(1, 8)])) (slot1 { GaitSlot.empty with st := 1 }),
     req 0 0x0304 0 (fields [(1, 8)]), by decide +kernel⟩,
    ⟨0, taken 0 (req 0 0x0304 0 (fields [(1, 8)])) (slot1 { GaitSlot.empty with st := 2, stride := 103 }),
     req 0 0x0304 0 (fields [(1, 8)]), by decide +kernel⟩,
    ⟨0, taken 0 (req 0 0x0304 0 (fields [(1, 8)])) (slot1 { GaitSlot.empty with st := 2, stride := 102 }),
     req 0 0x0304 0 (fields [(1, 8)]), by decide +kernel⟩,
    ⟨63, taken 63 (req 63 0x0305 0 ([])) (sNode), req 63 0x0305 0 ([]), by decide +kernel⟩⟩

/-- The hypotheses of `Obligations.ProgramRequestsServed`, clause by clause. -/
theorem witness_program_requests_served :
    (∃ (f : Nat) (image : Bytes) (s : State) (q : Request), f < 64 ∧ s.dmaOk f = true ∧
      s.headRequest f 0x0409 = some q ∧ q.field 8 8 % 64 = 0 ∧
      programStructure (image.take (q.field 0 4)) (q.field 0 4) (parseProgram q.context (image.take (q.field 0 4))) = stOk ∧
      (s.programCheck (parseProgram q.context (image.take (q.field 0 4)))).1 = stOk) ∧
    (∃ (f : Nat) (s : State) (q : Request) (p : _), f < 64 ∧ s.headRequest f 0x040A = some q ∧
      s.boundProgram (programKey q.context (q.field 0 2)) = some p) ∧
    (∃ (f : Nat) (s : State) (q : Request) (p : _), f < 64 ∧ s.headRequest f 0x040B = some q ∧
      SMap.find? s.programs (programKey q.context (q.field 0 2)) = some p) :=
  ⟨⟨0, programImage, taken 0 (req 0 0x0409 5 (fields [(320, 4), (0, 4), (0x40, 8)])) (sProgram),
     req 0 0x0409 5 (fields [(320, 4), (0, 4), (0x40, 8)]), by decide +kernel⟩,
    ⟨0, taken 0 (req 0 0x040A 5 (fields [(3, 2)])) ({ sProgram with programs := [(programKey 5 3, program0)] }),
     req 0 0x040A 5 (fields [(3, 2)]), program0, by decide +kernel⟩,
    ⟨0, taken 0 (req 0 0x040B 5 (fields [(3, 2)])) ({ sProgram with programs := [(programKey 5 3, program0)] }),
     req 0 0x040B 5 (fields [(3, 2)]), program0, by decide +kernel⟩⟩

/-- The hypotheses of `Obligations.ObjectsCreatedAndClosed`, clause by clause. -/
theorem witness_objects_created_and_closed :
    (∃ (f : Nat) (s : State) (q : Request), f < 64 ∧ s.headRequest f 0x0401 = some q ∧
      q.payload.length = 64 + 2 * q.field 20 2 ∧ q.field 0 4 ≠ 0 ∧ s.objectTaken (q.field 0 4) = false ∧
      (parseIndex q.context q.payload).inRange = true ∧
      s.hbmInUse q.context + (s.held (parseIndex q.context q.payload).map).length * (parseIndex q.context q.payload).fixedBytes ≤ (s.acceptedReservation q.context).hbm) ∧
    (∃ (f : Nat) (s : State) (q : Request), f < 64 ∧ s.headRequest f 0x0402 = some q ∧
      s.objectStatus (q.field 0 4) q.context (s.indexOwner (q.field 0 4)) = stOk) ∧
    (∃ (f : Nat) (s : State) (q : Request), f < 64 ∧ s.headRequest f 0x0501 = some q ∧
      q.payload.length = 64 + 2 * q.field 8 2 + 2 * q.field 10 2 ∧ q.field 0 4 ≠ 0 ∧
      s.objectTaken (q.field 0 4) = false ∧ (parseTable q.context q.payload).inRange = true ∧
      s.hbmInUse q.context + (s.held (parseTable q.context q.payload).map).length * (parseTable q.context q.payload).fixedBytes ≤ (s.acceptedReservation q.context).hbm) ∧
    (∃ (f : Nat) (s : State) (q : Request), f < 64 ∧ s.headRequest f 0x0502 = some q ∧
      s.objectStatus (q.field 0 4) q.context (s.tableOwner (q.field 0 4)) = stOk) :=
  ⟨⟨0,
     taken 0 (req 0 0x0401 5 (fields [(1, 4), (8, 2), (0, 1), (1, 1), (7, 1), (0, 1), (0, 1), (0, 1), (4, 1), (4, 1), (1, 1), (1, 1), (4, 2), (0, 1), (0, 1), (1, 2), (0, 2), (3, 8), (4, 8), (4, 4), (4, 4), (0, 16), (1, 2)])) (sNode),
     req 0 0x0401 5 (fields [(1, 4), (8, 2), (0, 1), (1, 1), (7, 1), (0, 1), (0, 1), (0, 1), (4, 1), (4, 1), (1, 1), (1, 1), (4, 2), (0, 1), (0, 1), (1, 2), (0, 2), (3, 8), (4, 8), (4, 4), (4, 4), (0, 16), (1, 2)]),
     by decide +kernel⟩,
    ⟨0, taken 0 (req 0 0x0402 5 (fields [(7, 4)])) (sObjects), req 0 0x0402 5 (fields [(7, 4)]), by decide +kernel⟩,
    ⟨0,
     taken 0 (req 0 0x0501 5 (fields [(1, 4), (8, 2), (0, 1), (0, 1), (1, 2), (0, 6), (3, 8), (4, 8), (4, 4), (0, 28), (1, 2)])) (sNode),
     req 0 0x0501 5 (fields [(1, 4), (8, 2), (0, 1), (0, 1), (1, 2), (0, 6), (3, 8), (4, 8), (4, 4), (0, 28), (1, 2)]),
     by decide +kernel⟩,
    ⟨0, taken 0 (req 0 0x0502 5 (fields [(9, 4)])) (sObjects), req 0 0x0502 5 (fields [(9, 4)]), by decide +kernel⟩⟩

/-- The hypotheses of `Obligations.VersionRequestsServed`, clause by clause. -/
theorem witness_version_requests_served :
    (∃ (f : Nat) (s : State) (q : Request) (x : _), f < 64 ∧ s.headRequest f 0x0403 = some q ∧
      SMap.find? s.indexes (q.field 0 4) = some x ∧
      s.objectStatus (q.field 0 4) q.context (s.indexOwner (q.field 0 4)) = stOk ∧
      s.sourceStatus q.context (q.field 24 2) (q.field 28 4) (recordBytes x.dim) = stOk ∧
      s.buildStatus q.context (q.field 6 2) (s.held x.map).length x.versionCount x.build.isSome = stOk) ∧
    (∃ (f : Nat) (s : State) (q : Request) (x : _) (v : _), f < 64 ∧ s.headRequest f 0x0404 = some q ∧
      SMap.find? s.indexes (q.field 0 4) = some x ∧
      s.objectStatus (q.field 0 4) q.context (s.indexOwner (q.field 0 4)) = stOk ∧ x.current = some v ∧
      s.buildStatus q.context (q.field 6 2) (s.held x.map).length x.versionCount x.build.isSome = stOk) ∧
    (∃ (f : Nat) (s : State) (q : Request) (x : _), f < 64 ∧ s.headRequest f 0x0405 = some q ∧
      SMap.find? s.indexes (q.field 0 4) = some x ∧
      s.objectStatus (q.field 0 4) q.context (s.indexOwner (q.field 0 4)) = stOk ∧ 0 < q.field 8 8 ∧
      (s.held x.map ≠ [] → (x.version? (q.field 8 8)).map (·.st) = some 2) ∧
      (s.held x.map = [] → (x.version? (q.field 8 8)).map (·.st) = some 2 ∨ (x.version? (q.field 8 8) = none ∧ x.versions.length < 4)) ∧
      s.stride + 4 ≤ q.field 16 8 ∧ x.switch = none) ∧
    (∃ (f : Nat) (s : State) (q : Request) (x : _) (v : _), f < 64 ∧ s.headRequest f 0x0406 = some q ∧
      SMap.find? s.indexes (q.field 0 4) = some x ∧
      s.objectStatus (q.field 0 4) q.context (s.indexOwner (q.field 0 4)) = stOk ∧
      x.version? (q.field 8 8) = some v ∧ v.st = 4) ∧
    (∃ (f : Nat) (s : State) (q : Request) (x : _) (figs : _), f < 64 ∧ s.headRequest f 0x0407 = some q ∧
      SMap.find? s.indexes (q.field 0 4) = some x ∧ x.context = q.context ∧
      figs = SMap.getD s.shown.indexes (q.field 0 4) []) ∧
    (∃ (f : Nat) (s : State) (q : Request) (x : _), f < 64 ∧ s.headRequest f 0x0503 = some q ∧
      SMap.find? s.tables (q.field 0 4) = some x ∧
      s.objectStatus (q.field 0 4) q.context (s.tableOwner (q.field 0 4)) = stOk ∧
      s.sourceStatus q.context (q.field 24 2) (q.field 28 4) x.sourceBytes = stOk ∧
      s.buildStatus q.context (q.field 6 2) (s.held x.map).length x.versionCount x.build.isSome = stOk) ∧
    (∃ (f : Nat) (s : State) (q : Request) (x : _), f < 64 ∧ s.headRequest f 0x0504 = some q ∧
      SMap.find? s.tables (q.field 0 4) = some x ∧
      s.objectStatus (q.field 0 4) q.context (s.tableOwner (q.field 0 4)) = stOk ∧ 0 < x.base ∧
      s.buildStatus q.context (q.field 6 2) (s.held x.map).length x.versionCount x.build.isSome = stOk) ∧
    (∃ (f : Nat) (s : State) (q : Request) (x : _), f < 64 ∧ s.headRequest f 0x0505 = some q ∧
      SMap.find? s.tables (q.field 0 4) = some x ∧
      s.objectStatus (q.field 0 4) q.context (s.tableOwner (q.field 0 4)) = stOk ∧ 0 < q.field 8 8 ∧
      (s.held x.map ≠ [] → (x.version? (q.field 8 8)).map (·.st) = some 2) ∧
      (s.held x.map = [] → (x.version? (q.field 8 8)).map (·.st) = some 2 ∨ (x.version? (q.field 8 8) = none ∧ x.versions.length < 4)) ∧
      s.stride + 4 ≤ q.field 16 8 ∧ x.switch = none) ∧
    (∃ (f : Nat) (s : State) (q : Request) (x : _) (v : _), f < 64 ∧ s.headRequest f 0x0506 = some q ∧
      SMap.find? s.tables (q.field 0 4) = some x ∧
      s.objectStatus (q.field 0 4) q.context (s.tableOwner (q.field 0 4)) = stOk ∧
      x.version? (q.field 8 8) = some v ∧ v.st = 4 ∧ x.base ≠ q.field 8 8) ∧
    (∃ (f : Nat) (s : State) (q : Request) (x : _) (figs : _), f < 64 ∧ s.headRequest f 0x0507 = some q ∧
      SMap.find? s.tables (q.field 0 4) = some x ∧ x.context = q.context ∧
      figs = SMap.getD s.shown.tables (q.field 0 4) []) ∧
    (∃ (f : Nat) (s : State) (q : Request) (x : _) (rows : List TableRow), f < 64 ∧ s.headRequest f 0x0508 = some q ∧
      SMap.find? s.tables (q.field 0 4) = some x ∧
      s.objectStatus (q.field 0 4) q.context (s.tableOwner (q.field 0 4)) = stOk ∧ 0 < q.field 4 4 ∧
      q.field 4 4 ≤ 256 ∧ q.payload.length = 8 + q.field 4 4 * x.sourceBytes ∧
      (∀ i < q.field 4 4, x.liveRow (x.sourceRecord (q.payload.drop (8 + i * x.sourceBytes))).1 ≠ none) ∧
      (List.range (q.field 4 4)).map (fun i => x.makeRow (x.sourceRecord (q.payload.drop (8 + i * x.sourceBytes))).1 (x.sourceRecord (q.payload.drop (8 + i * x.sourceBytes))).2) = rows.map some ∧
      s.applies (q.field 0 4) x (s.stride + 1) = false) :=
  ⟨⟨0, taken 0 (req 0 0x0403 5 (fields [(7, 4), (0, 2), (3, 2), (0, 16), (2, 2), (0, 2), (4, 4)])) (sPaddock),
     req 0 0x0403 5 (fields [(7, 4), (0, 2), (3, 2), (0, 16), (2, 2), (0, 2), (4, 4)]), index0, by decide +kernel⟩,
    ⟨0, taken 0 (req 0 0x0404 5 (fields [(7, 4), (0, 2), (3, 2)])) (sPaddock),
     req 0 0x0404 5 (fields [(7, 4), (0, 2), (3, 2)]), index0, version0, by decide +kernel⟩,
    ⟨0,
     taken 0 (req 0 0x0405 5 (fields [(7, 4), (0, 4), (2, 8), (104, 8)])) (withIndex { index0 with versions := [version0, { version0 with num := 2, st := 2 }] }),
     req 0 0x0405 5 (fields [(7, 4), (0, 4), (2, 8), (104, 8)]),
     { index0 with versions := [version0, { version0 with num := 2, st := 2 }] }, by decide +kernel⟩,
    ⟨0,
     taken 0 (req 0 0x0406 5 (fields [(7, 4), (0, 4), (2, 8)])) (withIndex { index0 with versions := [version0, { version0 with num := 2, st := 4 }] }),
     req 0 0x0406 5 (fields [(7, 4), (0, 4), (2, 8)]),
     { index0 with versions := [version0, { version0 with num := 2, st := 4 }] },
     { version0 with num := 2, st := 4 }, by decide +kernel⟩,
    ⟨0, taken 0 (req 0 0x0407 5 (fields [(7, 4)])) (sObjects), req 0 0x0407 5 (fields [(7, 4)]), index0, [],
     by decide +kernel⟩,
    ⟨0, taken 0 (req 0 0x0503 5 (fields [(9, 4), (0, 2), (3, 2), (0, 16), (2, 2), (0, 2), (4, 4)])) (sPaddock),
     req 0 0x0503 5 (fields [(9, 4), (0, 2), (3, 2), (0, 16), (2, 2), (0, 2), (4, 4)]), table0, by decide +kernel⟩,
    ⟨0, taken 0 (req 0 0x0504 5 (fields [(9, 4), (0, 2), (3, 2)])) (sPaddock),
     req 0 0x0504 5 (fields [(9, 4), (0, 2), (3, 2)]), table0, by decide +kernel⟩,
    ⟨0,
     taken 0 (req 0 0x0505 5 (fields [(9, 4), (0, 4), (2, 8), (104, 8)])) (withTable { table0 with versions := [tversion0, { tversion0 with num := 2, st := 2 }] }),
     req 0 0x0505 5 (fields [(9, 4), (0, 4), (2, 8), (104, 8)]),
     { table0 with versions := [tversion0, { tversion0 with num := 2, st := 2 }] }, by decide +kernel⟩,
    ⟨0,
     taken 0 (req 0 0x0506 5 (fields [(9, 4), (0, 4), (2, 8)])) (withTable { table0 with versions := [tversion0, { tversion0 with num := 2, st := 4 }] }),
     req 0 0x0506 5 (fields [(9, 4), (0, 4), (2, 8)]),
     { table0 with versions := [tversion0, { tversion0 with num := 2, st := 4 }] },
     { tversion0 with num := 2, st := 4 }, by decide +kernel⟩,
    ⟨0, taken 0 (req 0 0x0507 5 (fields [(9, 4)])) (sObjects), req 0 0x0507 5 (fields [(9, 4)]), table0, [],
     by decide +kernel⟩,
    ⟨0, taken 0 (req 0 0x0508 5 (fields [(9, 4), (1, 4), (1, 8), (0, 56)])) (sObjects),
     req 0 0x0508 5 (fields [(9, 4), (1, 4), (1, 8), (0, 56)]), table0,
     [((table0.makeRow 1 (List.replicate 8 0)).get (by decide +kernel))], by decide +kernel⟩⟩

/-- The hypotheses of `Obligations.StorageRequestsServed`, clause by clause. -/
theorem witness_storage_requests_served :
    (∃ (f : Nat) (s : State) (q : Request) (p : Paddock), f < 64 ∧ s.headRequest f 0x0601 = some q ∧
      p = parsePaddock q.context q.payload ∧ 0 < q.field 0 2 ∧ q.field 0 2 < 4096 ∧
      (∀ x ∈ s.allPaddocks, x.1 ≠ q.field 0 2) ∧ 7 ≤ p.op ∧ p.op ≤ 50 ∧ 0 < p.share ∧ p.share ≤ 480 ∧
      0 < p.capacity ∧ p.capacity % 2048 = 0 ∧ s.programClassOk q.context p.cls = true ∧
      (∀ ch < 32, p.poolBlocks s.flash.targets ≤ s.freeBlocksOn ch) ∧
      s.hbmInUse q.context + 5 * p.capacity ≤ (s.acceptedReservation q.context).hbm ∧
      p.share + sumNat (s.allPaddocks.map fun x => x.2.share) ≤ 60 * s.flash.targets ∧ s.refusesWrites = false) ∧
    (∃ (f : Nat) (s : State) (q : Request) (p : _), f < 64 ∧ s.headRequest f 0x0602 = some q ∧
      SMap.find? s.flash.paddocks (q.field 0 2) = some p ∧ p.st ≠ 3 ∧ s.deletingPaddock (q.field 0 2) = false ∧
      p.context = q.context) ∧
    (∃ (f : Nat) (s : State) (q : Request) (p : _) (figs : _), f < 64 ∧ s.headRequest f 0x0603 = some q ∧
      SMap.find? s.flash.paddocks (q.field 0 2) = some p ∧ p.context = q.context ∧
      figs = SMap.getD s.shown.paddocks (q.field 0 2) []) ∧
    (∃ (f : Nat) (s : State) (q : Request) (r : Ring), f < 64 ∧ s.headRequest f 0x0604 = some q ∧
      r = parseQueue q.context f q.payload ∧ q.field 0 2 < 1024 ∧ SMap.has s.queues (q.field 0 2) = false ∧
      q.field 0 2 ∉ s.openingQueues ∧ 2 ≤ r.depth ∧ r.depth ≤ 4096 ∧ r.priority ≤ 3 ∧ r.subAddr % 4096 = 0 ∧
      r.cplAddr % 4096 = 0 ∧ 1 ≤ r.vector ∧ r.vector ≤ 31 ∧ s.storageClassOk q.context r.cls = true ∧
      64 ≤ s.gaitNow.1.largest r.cls ∧ s.queues.length + s.openingQueues.length < 1024) ∧
    (∃ (f : Nat) (s : State) (q : Request) (r : _), f < 64 ∧ s.headRequest f 0x0605 = some q ∧
      SMap.find? s.queues (q.field 0 2) = some r ∧ r.isOpen = true ∧ r.closing = false ∧
      Change.closeQueue (q.field 0 2) ∉ s.waiting ∧ r.context = q.context) ∧
    (∃ (f : Nat) (s : State) (q : Request), f < 64 ∧ s.headRequest f 0x0606 = some q ∧
      s.storageClassOk q.context (q.field 0 2) = true ∧ 0 < q.field 2 1 ∧ 0 < q.field 3 1 ∧ 0 < q.field 4 1) ∧
    (∃ (f : Nat) (s : State) (q : Request), f < 64 ∧ s.headRequest f 0x0607 = some q ∧ q.field 0 1 = 0xFF) ∧
    (∃ (f : Nat) (s : State) (q : Request), f < 64 ∧ s.headRequest f 0x0607 = some q ∧ q.field 0 1 < 32) ∧
    (∃ (f : Nat) (s : State) (q : Request), f < 64 ∧ s.headRequest f 0x0607 = some q ∧ 32 ≤ q.field 0 1 ∧
      q.field 0 1 < 0xFF) :=
  ⟨⟨0, taken 0 (req 0 0x0601 5 (fields [(4095, 2), (1, 1), (50, 1), (480, 2), (8, 2), (2048, 8)])) (sNode),
     req 0 0x0601 5 (fields [(4095, 2), (1, 1), (50, 1), (480, 2), (8, 2), (2048, 8)]),
     parsePaddock 5 (fields [(4095, 2), (1, 1), (50, 1), (480, 2), (8, 2), (2048, 8)]), by decide +kernel⟩,
    ⟨0, taken 0 (req 0 0x0602 5 (fields [(2, 2)])) (sPaddock), req 0 0x0602 5 (fields [(2, 2)]), paddock0,
     by decide +kernel⟩,
    ⟨0, taken 0 (req 0 0x0603 5 (fields [(2, 2)])) (sPaddock), req 0 0x0603 5 (fields [(2, 2)]), paddock0, [],
     by decide +kernel⟩,
    ⟨63,
     taken 63 (req 63 0x0604 5 (fields [(1023, 2), (4096, 2), (3, 1), (0, 1), (8, 2), (0x10000, 8), (0x20000, 8), (31, 2)])) (sPaddock),
     req 63 0x0604 5 (fields [(1023, 2), (4096, 2), (3, 1), (0, 1), (8, 2), (0x10000, 8), (0x20000, 8), (31, 2)]),
     parseQueue 5 63 (fields [(1023, 2), (4096, 2), (3, 1), (0, 1), (8, 2), (0x10000, 8), (0x20000, 8), (31, 2)]),
     by decide +kernel⟩,
    ⟨0, taken 0 (req 0 0x0605 5 (fields [(3, 2)])) (sQueue), req 0 0x0605 5 (fields [(3, 2)]), queue0,
     by decide +kernel⟩,
    ⟨0, taken 0 (req 0 0x0606 5 (fields [(8, 2), (1, 1), (1, 1), (1, 1)])) (sPaddock),
     req 0 0x0606 5 (fields [(8, 2), (1, 1), (1, 1), (1, 1)]), by decide +kernel⟩,
    ⟨0, taken 0 (req 0 0x0607 0 ([0xFF])) (sNode), req 0 0x0607 0 ([0xFF]), by decide +kernel⟩,
    ⟨0, taken 0 (req 0 0x0607 0 ([31])) (sNode), req 0 0x0607 0 ([31]), by decide +kernel⟩,
    ⟨0, taken 0 (req 0 0x0607 0 ([0xFE])) (sNode), req 0 0x0607 0 ([0xFE]), by decide +kernel⟩⟩

/-- The hypotheses of `Obligations.FabricRequestsServed`, clause by clause. -/
theorem witness_fabric_requests_served :
    (∃ (f : Nat) (image : Bytes) (s : State) (q : Request), f < 64 ∧ s.dmaOk f = true ∧
      s.headRequest f 0x0701 = some q ∧ q.field 8 8 % 64 = 0 ∧
      routeStatus (image.take (q.field 0 4)) (q.field 0 4) s.me = stOk) ∧
    (∃ (f : Nat) (s : State) (q : Request), f < 64 ∧ s.headRequest f 0x0702 = some q ∧ 0 < q.field 0 2 ∧
      q.field 0 2 ≤ 511 ∧ (∀ x, s.acceptedWindow (q.field 0 2) = some x → x.context = q.context) ∧
      bitOf (q.field 2 1) 0 = true ∧ q.field 8 8 % 2048 = 0 ∧ 0 < q.field 16 8 ∧ q.field 16 8 % 2048 = 0 ∧
      s.ownsHbm q.context (q.field 8 8) (q.field 16 8) = true) ∧
    (∃ (f : Nat) (s : State) (q : Request) (x : Window), f < 64 ∧ s.headRequest f 0x0702 = some q ∧ 0 < q.field 0 2 ∧
      q.field 0 2 ≤ 511 ∧ s.acceptedWindow (q.field 0 2) = some x ∧ x.context = q.context ∧
      bitOf (q.field 2 1) 0 = false) ∧
    (∃ (f : Nat) (s : State) (q : Request) (x : Window), f < 64 ∧ s.headRequest f 0x0703 = some q ∧
      s.acceptedWindow (q.field 2 2) = some x ∧ x.context = q.context ∧ q.field 0 2 < 4096 ∧
      (∀ e y, SMap.find? s.acceptedRegions (q.field 0 2) = some e → s.acceptedWindow e.window = some y → y.context = q.context) ∧
      bitOf (q.field 6 1) 0 = true ∧ q.field 8 8 % 64 = 0 ∧ 0 < q.field 16 8 ∧ q.field 16 8 % 64 = 0 ∧
      q.field 8 8 + q.field 16 8 ≤ x.size ∧
      (∀ p ∈ s.acceptedRegions, p.1 ≠ q.field 0 2 → p.2.window = q.field 2 2 → q.field 8 8 + q.field 16 8 ≤ p.2.base ∨ p.2.base + p.2.length ≤ q.field 8 8)) ∧
    (∃ (f : Nat) (s : State) (q : Request) (x : Window), f < 64 ∧ s.headRequest f 0x0703 = some q ∧
      s.acceptedWindow (q.field 2 2) = some x ∧ x.context = q.context ∧ q.field 0 2 < 4096 ∧
      (∀ e y, SMap.find? s.acceptedRegions (q.field 0 2) = some e → s.acceptedWindow e.window = some y → y.context = q.context) ∧
      bitOf (q.field 6 1) 0 = false) ∧
    (∃ (f : Nat) (s : State) (q : Request), f < 64 ∧ s.headRequest f 0x0704 = some q ∧
      q.payload.length = 16 + 8 * byteAt q.payload 1 ∧ byteAt q.payload 0 ≤ 8 ∧ 1 ≤ byteAt q.payload 1 ∧
      byteAt q.payload 1 ≤ 16 ∧ (parseGates q.payload).bad (strideCycles s.clk.code) = false ∧
      (s.port (byteAt q.payload 0)).role ≠ 0 ∧ s.stride + 4 ≤ q.field 8 8 ∧
      (∀ x ∈ (s.port (byteAt q.payload 0)).staged, x.1 < q.field 8 8)) ∧
    (∃ (f : Nat) (s : State) (q : Request), f < 64 ∧ s.headRequest f 0x0705 = some q ∧ q.field 0 1 ≤ 8 ∧
      (∃ x ∈ (s.port (q.field 0 1)).staged, x.1 = q.field 8 8) ∧ s.stride + 3 ≤ q.field 8 8) ∧
    (∃ (f : Nat) (s : State) (q : Request), f < 64 ∧ s.headRequest f 0x0705 = some q ∧ q.field 0 1 ≤ 8 ∧
      q.field 8 8 < s.stride + 3) ∧
    (∃ (f : Nat) (s : State) (q : Request), f < 64 ∧ s.headRequest f 0x0706 = some q ∧ q.field 0 1 ≤ 8 ∧
      polices (s.port (q.field 0 1)).role (q.field 1 1) = true ∧ q.field 2 1 ≤ 2 ∧ 1 ≤ q.field 4 4 ∧
      q.field 4 4 ≤ 200000 ∧ q.field 4 4 ≤ q.field 8 4 ∧ q.field 8 4 ≤ 200000 ∧ 64 ≤ q.field 12 4 ∧
      q.field 12 4 ≤ 2 ^ 31 ∧ 64 ≤ q.field 16 4 ∧ q.field 16 4 ≤ 2 ^ 31) ∧
    (∃ (f : Nat) (s : State) (q : Request), f < 64 ∧ s.headRequest f 0x0707 = some q ∧ s.shown.ports.length = 9) :=
  ⟨⟨0, routeImage0, taken 0 (req 0 0x0701 0 (fields [(10304, 4), (0, 4), (0x40, 8)])) (sNode),
     req 0 0x0701 0 (fields [(10304, 4), (0, 4), (0x40, 8)]),
     by refine ⟨?_, ?_, ?_, ?_, by
      rw [show Request.field (req 0 0x0701 0 (fields [(10304, 4), (0, 4), (0x40, 8)])) 0 4 = 10304 from by decide +kernel]; exact routeImage0_ok⟩ <;> decide +kernel⟩,
    ⟨0, taken 0 (req 0 0x0702 5 (fields [(511, 2), (1, 1), (0, 5), (2048, 8), (2048, 8)])) (sHbm),
     req 0 0x0702 5 (fields [(511, 2), (1, 1), (0, 5), (2048, 8), (2048, 8)]),
     by refine ⟨?_, ?_, ?_, ?_, by rintro _ ⟨⟩, ?_⟩ <;> decide +kernel⟩,
    ⟨0,
     taken 0 (req 0 0x0702 5 (fields [(3, 2), (0, 1)])) ({ sHbm with fab := { sHbm.fab with windows := [(3, { context := 5, base := 0, size := 2048 })] } }),
     req 0 0x0702 5 (fields [(3, 2), (0, 1)]), { context := 5, base := 0, size := 2048 }, by decide +kernel⟩,
    ⟨0,
     taken 0 (req 0 0x0703 5 (fields [(4095, 2), (3, 2), (4, 2), (1, 2), (1984, 8), (64, 8)])) ({ sHbm with fab := { sHbm.fab with windows := [(3, { context := 5, base := 0, size := 2048 })] } }),
     req 0 0x0703 5 (fields [(4095, 2), (3, 2), (4, 2), (1, 2), (1984, 8), (64, 8)]),
     { context := 5, base := 0, size := 2048 },
     by refine ⟨?_, ?_, ?_, ?_, ?_, by rintro _ _ ⟨⟩, ?_⟩ <;> decide +kernel⟩,
    ⟨0,
     taken 0 (req 0 0x0703 5 (fields [(4095, 2), (3, 2), (4, 2), (0, 2)])) ({ sHbm with fab := { sHbm.fab with windows := [(3, { context := 5, base := 0, size := 2048 })] } }),
     req 0 0x0703 5 (fields [(4095, 2), (3, 2), (4, 2), (0, 2)]), { context := 5, base := 0, size := 2048 },
     by refine ⟨?_, ?_, ?_, ?_, ?_, by rintro _ _ ⟨⟩, ?_⟩ <;> decide +kernel⟩,
    ⟨0,
     taken 0 (req 0 0x0704 0 (fields [(8, 1), (1, 1), (1, 1), (1, 1), (1, 1), (1, 1), (0, 2), (104, 8), (312500, 4), (3, 4)])) (sPort),
     req 0 0x0704 0 (fields [(8, 1), (1, 1), (1, 1), (1, 1), (1, 1), (1, 1), (0, 2), (104, 8), (312500, 4), (3, 4)]),
     by decide +kernel⟩,
    ⟨0,
     taken 0 (req 0 0x0705 0 (fields [(8, 1), (0, 7), (103, 8)])) (portAt { port0 with staged := [(103, GateList.reset)] } sNode),
     req 0 0x0705 0 (fields [(8, 1), (0, 7), (103, 8)]),
     by refine ⟨?_, ?_, ?_, ⟨(103, GateList.reset), by decide +kernel⟩, ?_⟩ <;> decide +kernel⟩,
    ⟨0, taken 0 (req 0 0x0705 0 (fields [(8, 1), (0, 7), (102, 8)])) (sPort),
     req 0 0x0705 0 (fields [(8, 1), (0, 7), (102, 8)]), by decide +kernel⟩,
    ⟨0,
     taken 0 (req 0 0x0706 0 (fields [(8, 1), (5, 1), (2, 1), (0, 1), (1, 4), (200000, 4), (64, 4), (2 ^ 31, 4)])) (sPort),
     req 0 0x0706 0 (fields [(8, 1), (5, 1), (2, 1), (0, 1), (1, 4), (200000, 4), (64, 4), (2 ^ 31, 4)]),
     by decide +kernel⟩,
    ⟨0,
     taken 0 (req 0 0x0707 0 ([])) ({ sPort with tel := { sPort.tel with bankA := { Snapshot.zero with ports := List.replicate 9 port0 } } }),
     req 0 0x0707 0 ([]), by decide +kernel⟩⟩

/-- The hypotheses of `Obligations.HerdRequestsAndRemount`, clause by clause. -/
theorem witness_herd_requests_and_remount :
    (∃ (f : Nat) (s : State) (q : Request), f < 64 ∧ s.headRequest f 0x0708 = some q) ∧
    (∃ (f : Nat) (s : State) (q : Request) (x : _), f < 64 ∧ s.headRequest f 0x0709 = some q ∧ 0 < q.field 0 2 ∧
      q.field 0 2 < 4096 ∧ SMap.find? s.contexts (q.field 0 2) = some x ∧ x.st = 1) ∧
    (∃ (f : Nat) (s : State) (q : Request), f < 64 ∧ s.headRequest f 0x070A = some q ∧
      bitOf (q.field 9 1) 0 = false ∧ 1 ≤ q.field 8 1 ∧ q.field 8 1 ≤ 3 ∧ s.stride + 4 ≤ q.field 0 8) ∧
    (∃ (f : Nat) (s : State) (q : Request) (r : _) (c : _) (i : _), f < 64 ∧ s.headRequest f 0x070A = some q ∧
      bitOf (q.field 9 1) 0 = true ∧ s.clk.armed = some (r, c, i) ∧ s.stride + 3 ≤ r) ∧
    (∃ (f : Nat) (s : State) (q : Request) (r : _) (c : _) (i : _), f < 64 ∧ s.headRequest f 0x070A = some q ∧
      bitOf (q.field 9 1) 0 = true ∧ s.clk.armed = some (r, c, i) ∧ r < s.stride + 3) ∧
    (∃ (f : Nat) (s : State) (q : Request), f < 64 ∧ s.headRequest f 0x070B = some q ∧
      q.field 2 2 < returnableUnits (q.field 0 1) ∧ s.gaits.mounted = none) ∧
    (∃ (s : State) (r : Nat) (lmax : Nat), s.clk.remounting = some (r, lmax) ∧ s.running = true ∧
      s.clk.checkpointed = false ∧ r + lmax ≤ s.stride) ∧
    (∃ (s : State) (r : Nat) (c : Nat) (i : Nat), s.clk.checkpointed = true ∧ s.running = true ∧
      s.clk.armed = some (r, c, i) ∧ s.node.supply = true ∧ s.node.resetLow = false) :=
  ⟨⟨0, taken 0 (req 0 0x0708 0 ([])) (sNode), req 0 0x0708 0 ([]), by decide +kernel⟩,
    ⟨0, taken 0 (req 0 0x0709 0 (fields [(5, 2)])) (sNode), req 0 0x0709 0 (fields [(5, 2)]), context0,
     by decide +kernel⟩,
    ⟨0, taken 0 (req 0 0x070A 0 (fields [(104, 8), (3, 1), (0, 1)])) (sNode),
     req 0 0x070A 0 (fields [(104, 8), (3, 1), (0, 1)]), by decide +kernel⟩,
    ⟨0,
     taken 0 (req 0 0x070A 0 (fields [(0, 8), (0, 1), (1, 1)])) ({ sNode with clk := { sNode.clk with armed := some (103, 2, 1) } }),
     req 0 0x070A 0 (fields [(0, 8), (0, 1), (1, 1)]), 103, 2, 1, by decide +kernel⟩,
    ⟨0,
     taken 0 (req 0 0x070A 0 (fields [(0, 8), (0, 1), (1, 1)])) ({ sNode with clk := { sNode.clk with armed := some (102, 2, 1) } }),
     req 0 0x070A 0 (fields [(0, 8), (0, 1), (1, 1)]), 102, 2, 1, by decide +kernel⟩,
    ⟨0,
     taken 0 (req 0 0x070B 0 (fields [(1, 1), (0, 1), (95, 2)])) ({ sNode with gaits := { sNode.gaits with mounted := none } }),
     req 0 0x070B 0 (fields [(1, 1), (0, 1), (95, 2)]), by decide +kernel⟩,
    ⟨{ sNode with clk := { sNode.clk with remounting := some (98, 2) } }, 98, 2, by decide +kernel⟩,
    ⟨{ sNode with clk := { sNode.clk with checkpointed := true, armed := some (100, 2, 1) } }, 100, 2, 1,
     by decide +kernel⟩⟩

/-- The hypotheses of `Obligations.TrustRequestsServed`, clause by clause. -/
theorem witness_trust_requests_served :
    (∃ (f : Nat) (s : State) (q : Request), f < 64 ∧ s.headRequest f 0x0801 = some q) ∧
    (∃ (f : Nat) (s : State) (q : Request), f < 64 ∧ s.headRequest f 0x0802 = some q) ∧
    (∃ (f : Nat) (s : State) (q : Request), f < 64 ∧ s.dmaOk f = true ∧ s.headRequest f 0x0803 = some q ∧
      q.field 8 8 % 64 = 0 ∧ s.fwOutstanding = false) ∧
    (∃ (s : State) (b : Bool) (image : Bytes), s.node.update = some (b, image) ∧
      (s.channel (if b then 16 else 0)).bootBusy = false) ∧
    (∃ (f : Nat) (s : State) (q : Request), f < 64 ∧ s.headRequest f 0x0901 = some q) ∧
    (∃ (f : Nat) (s : State) (q : Request), f < 64 ∧ s.headRequest f 0x0902 = some q) ∧
    (∃ (f : Nat) (s : State) (q : Request), f < 64 ∧ s.headRequest f 0x0804 = some q ∧ byteAt q.payload 0 = 0) ∧
    (∃ (f : Nat) (s : State) (q : Request), f < 64 ∧ s.headRequest f 0x0804 = some q ∧ byteAt q.payload 0 = 1 ∧
      s.node.stage < 9) ∧
    (∃ (f : Nat) (s : State) (q : Request), f < 64 ∧ s.headRequest f 0x0804 = some q ∧ byteAt q.payload 0 = 1 ∧
      s.tokenOk q.payload = false) ∧
    (∃ (f : Nat) (s : State) (q : Request), f < 64 ∧ s.headRequest f 0x0805 = some q ∧
      s.hasLink (byteAt q.payload 0) = true ∧ byteAt q.payload 1 ≤ 8 ∧ byteAt q.payload 2 ≤ 1 ∧
      byteAt q.payload 3 ≤ 1 ∧ byteAt q.payload 4 ≤ 2) :=
  ⟨⟨0, taken 0 (req 0 0x0801 0 (zeros 48)) (sNode), req 0 0x0801 0 (zeros 48), by decide +kernel⟩,
    ⟨0, taken 0 (req 0 0x0802 0 ([])) (sNode), req 0 0x0802 0 ([]), by decide +kernel⟩,
    ⟨0, taken 0 (req 0 0x0803 0 (fields [(0, 4), (96, 4), (0x40, 8)])) (sNode),
     req 0 0x0803 0 (fields [(0, 4), (96, 4), (0x40, 8)]), by decide +kernel⟩,
    ⟨{ sNode with node := { sNode.node with update := some (true, zeros 64) } }, true, zeros 64, by decide +kernel⟩,
    ⟨0, taken 0 (req 0 0x0901 0 ([])) (sNode), req 0 0x0901 0 ([]), by decide +kernel⟩,
    ⟨0, taken 0 (req 0 0x0902 0 ([])) (sNode), req 0 0x0902 0 ([]), by decide +kernel⟩,
    ⟨0, taken 0 (req 0 0x0804 0 ([0])) (sNode), req 0 0x0804 0 ([0]), by decide +kernel⟩,
    ⟨0, taken 0 (req 0 0x0804 0 ([1])) ({ sNode with node := { sNode.node with stage := 8 } }), req 0 0x0804 0 ([1]),
     by decide +kernel⟩,
    ⟨0, taken 0 (req 0 0x0804 0 ([1])) (sNode), req 0 0x0804 0 ([1]), by decide +kernel⟩,
    ⟨0,
     taken 0 (req 0 0x0805 0 (fields [(1, 1), (8, 1), (1, 1), (1, 1), (2, 1)])) ({ sNode with node := { sNode.node with tack := some tack0 } }),
     req 0 0x0805 0 (fields [(1, 1), (8, 1), (1, 1), (1, 1), (2, 1)]), by decide +kernel⟩⟩

set_option maxRecDepth 20000 in
/-- The hypotheses of `Obligations.StorageCommandsCarriedOut`, clause by clause. -/
theorem witness_storage_commands_carried_out :
    (∃ (k : Nat) (h : QueueHead) (s : State) (r : Ring), k < 16384 ∧ s.working = true ∧
      SMap.find? s.queues h.queue = some r ∧ r.cls = k ∧ s.mayAdmit r = true ∧ r.priority ≤ 3 ∧
      (∀ w ∈ SMap.getD s.gaits.weights k [1, 1, 1], 0 < w) ∧ (SMap.getD s.gaits.weights k [1, 1, 1]).length = 3 ∧
      s.storageFits k (parseCommand h.queue r.admitted s.stride 3 false (fit 64 h.entry)) = true ∧
      byteAt h.entry 4 = 1) ∧
    (∃ (n : Nat) (s : State) (c : StorageCommand), SMap.find? s.flash.commands n = some c ∧ s.working = true ∧
      c.op = 1 ∧ c.status = stOk ∧ c.read = false ∧ s.stride = c.admitAt + 1 ∧ 3 ≤ c.len) ∧
    (∃ (n : Nat) (ans : List PartnerUnit) (s : State) (c : StorageCommand) (t : State) (d : StorageCommand), SMap.find? s.flash.commands n = some c ∧
      s.working = true ∧ c.op = 1 ∧ c.status = stOk ∧ c.read = true ∧ s.stride = c.admitAt + 2 ∧ 3 ≤ c.len ∧
      (c.inHbm = true → s.dieWaits c.address (4096 * c.count) = false) ∧
      t = c.asked.foldl (State.takeDetour n c ans) s ∧ d = (SMap.find? t.flash.commands n).getD c) ∧
    (∃ (n : Nat) (s : State) (c : StorageCommand), SMap.find? s.flash.commands n = some c ∧ s.working = true ∧
      c.op = 1 ∧ c.status = stOk ∧ c.read = true ∧ s.stride = c.admitAt + 2 ∧ 3 ≤ c.len ∧ c.inHbm = true ∧
      s.dieWaits c.address (4096 * c.count) = true) ∧
    (∃ (n : Nat) (ans : List PartnerUnit) (s : State) (c : StorageCommand) (u : Nat) (d : Bytes), SMap.find? s.flash.commands n = some c ∧
      answerOf ans u = some d ∧ u - c.start < c.data.length) ∧
    (∃ (m : Bytes) (s : State) (u : State) (p : Paddock), s.arrival 6 s.partner m = (true, u) ∧
      SMap.find? u.flash.paddocks (le m 4 2) = some p ∧ u.running = true ∧ p.mirrored = true ∧ p.st = 1 ∧
      u.refusesWrites = false ∧ u.isFenced u.partner = false ∧ le m 8 8 + le m 6 2 ≤ p.capacity ∧ 0 < le m 6 2 ∧
      le m 6 2 ≤ 64 ∧ u.stride ≤ le m 16 8 ∧ u.bufferRoom (le m 4 2) (le m 8 8) (le m 6 2) = true) ∧
    (∃ (m : Bytes) (s : State) (u : State), s.arrival 6 s.partner m = (true, u) ∧
      SMap.find? u.flash.paddocks (le m 4 2) = none) ∧
    (∃ (pad : Nat) (n : Nat) (reads : List FlashRead) (s : State) (p : Paddock) (d : Nat), pad < 4096 ∧ n ≤ 64 ∧
      SMap.find? s.flash.paddocks pad = some p ∧ s.working = true ∧ p.mirrored = true ∧
      s.gaitNow.1.freeClassOf p.context 7 = some d ∧ s.classRoom d = true ∧ (∀ r ∈ reads, r.lost = false)) :=
  ⟨⟨8,
     { queue := 3, entry := fields [(1, 4), (1, 1), (0, 1), (2, 2), (0, 8), (1, 4), (0, 4), (0x1000, 8), (0, 32)], data := [] },
     sQueue, queue0, by decide +kernel⟩,
    ⟨0, commandAt { command0 with admitAt := 99 }, { command0 with admitAt := 99 }, by decide +kernel⟩,
    ⟨0, [], commandAt { command0 with read := true, data := [zeros 4096] },
     { command0 with read := true, data := [zeros 4096] }, _, _,
     by refine ⟨?_, ?_, ?_, ?_, ?_, ⟨?_, ?_, ?_, rfl, rfl⟩⟩ <;> decide +kernel⟩,
    ⟨0,
     { commandAt { command0 with read := true, inHbm := true } with nmu := { sQueue.nmu with units := [(0, { NmuUnit.fresh with lock := some (127, 1) })] } },
     { command0 with read := true, inHbm := true }, by decide +kernel⟩,
    ⟨0, [{ unit := 2047, data := [1] }], commandAt { command0 with start := 2047, read := true, data := [[]] },
     { command0 with start := 2047, read := true, data := [[]] }, 2047, fit 4096 [1], by decide +kernel⟩,
    ⟨fields [(0, 4), (2, 2), (64, 2), (1984, 8), (100, 8)], sPaddock, sPaddock, paddock0, rfl, by decide +kernel⟩,
    ⟨fields [(0, 4), (2, 2), (64, 2), (1984, 8), (100, 8)], sObjects, sObjects, rfl, by decide +kernel⟩,
    ⟨2, 64, [], sPaddock, paddock0, 10, by decide +kernel⟩⟩

/-- The hypotheses of `Obligations.FlashWorkRun`, clause by clause. -/
theorem witness_flash_work_run :
    (∃ (ch : Nat) (ans : List PartnerUnit) (s : State) (o : ArrayOp), ch < 32 ∧ s.working = true ∧
      s.unitUp 0x0E ch = true ∧ (s.channel ch).waiting.find? (s.issuable ch ans) = some o ∧ o.kind = 2 ∧
      o.move = false ∧ o.cls ≠ journalShare) ∧
    (∃ (ch : Nat) (reads : List FlashRead) (ans : List PartnerUnit) (s : State) (o : ArrayOp), ch < 32 ∧
      s.working = true ∧ s.unitUp 0x0E ch = true ∧ (s.channel ch).waiting.find? (s.issuable ch ans) = some o ∧
      o.move = true ∧ o.asked = [] ∧ o.units ≠ [] ∧ (readOf reads ((o.units.headD (0, 0)).1)).lost = false) ∧
    (∃ (ch : Nat) (lost : List Nat) (ans : List PartnerUnit) (s : State) (o : ArrayOp), ch < 32 ∧ s.working = true ∧
      s.unitUp 0x0E ch = true ∧ (s.channel ch).waiting.find? (s.issuable ch ans) = some o ∧ o.kind = 1 ∧
      o.move = false ∧ o.asked = [] ∧ (∀ u ∈ o.units, u.1 ∉ lost)) ∧
    (∃ (ch : Nat) (lost : List Nat) (ans : List PartnerUnit) (s : State) (o : ArrayOp), ch < 32 ∧ s.working = true ∧
      s.unitUp 0x0E ch = true ∧ (s.channel ch).waiting.find? (s.issuable ch ans) = some o ∧ o.kind = 1 ∧
      o.move = false ∧ o.asked = [] ∧ (∃ u ∈ o.units, u.1 ∈ lost) ∧ s.askable o.paddock = true) ∧
    (∃ (ch : Nat) (lost : List Nat) (ans : List PartnerUnit) (s : State) (o : ArrayOp), ch < 32 ∧ s.working = true ∧
      s.unitUp 0x0E ch = true ∧ (s.channel ch).waiting.find? (s.issuable ch ans) = some o ∧ o.kind = 1 ∧
      o.move = false ∧ o.asked = [] ∧ o.units ≠ [] ∧ (∀ u ∈ o.units, u.1 ∈ lost) ∧ s.askable o.paddock = false) ∧
    (∃ (ch : Nat) (t : Nat) (s : State) (o : ArrayOp) (rest : List ArrayOp), ch < 32 ∧ t < 8 ∧
      SMap.getD (s.channel ch).queues t [] = o :: rest ∧ o.kind ≠ 2) ∧
    (∃ (ch : Nat) (t : Nat) (s : State) (o : ArrayOp) (rest : List ArrayOp), ch < 32 ∧ t < 8 ∧
      SMap.getD (s.channel ch).queues t [] = o :: rest ∧ o.kind = 2 ∧ (s.channel ch).levelling ≠ some o.block) ∧
    (∃ (ch : Nat) (t : Nat) (s : State) (o : ArrayOp), ch < 32 ∧ t < 8 ∧ s.toRead ch t = some o ∧
      o.failed = some false) ∧
    (∃ (ch : Nat) (t : Nat) (s : State) (o : ArrayOp), ch < 32 ∧ t < 8 ∧ s.toRead ch t = some o ∧
      o.failed = some true ∧ o.tries < 2) ∧
    (∃ (pad : Nat) (ch : Nat) (s : State), pad < 4096 ∧ ch < 32 ∧ (∃ u ∈ s.unpaged pad ch, u.2.since + 16 ≤ s.stride)) ∧
    (∃ (s : State), s.running = true ∧ s.clk.window = 0 ∧ s.stride % 64 = 0) ∧
    (∃ (s : State), s.running = true ∧ s.stride % 4096 = 0 ∧ (∀ m, s.flash.map = some m → m.stride ≠ s.stride)) ∧
    (∃ (celsius : List Int) (s : State), celsius ≠ [] ∧ s.node.railsOn = true ∧ s.stride % 4096 = 0 ∧
      s.flash.sampled ≠ some s.stride) :=
  ⟨⟨31, [], channelAt { fresh with waiting := [arrayOp0 2] }, arrayOp0 2, by decide +kernel⟩,
    ⟨31, [], [], channelAt { fresh with waiting := [{ arrayOp0 1 with move := true, units := [(29, 1)] }] },
     { arrayOp0 1 with move := true, units := [(29, 1)] }, by decide +kernel⟩,
    ⟨31, [29], [], channelAt { fresh with waiting := [{ arrayOp0 1 with units := [(61, 1)] }] },
     { arrayOp0 1 with units := [(61, 1)] }, by decide +kernel⟩,
    ⟨31, [29], [], channelAt { fresh with waiting := [{ arrayOp0 1 with units := [(29, 1)] }] },
     { arrayOp0 1 with units := [(29, 1)] },
     by refine ⟨?_, ?_, ?_, ?_, ?_, ⟨?_, ?_, ⟨(29, 1), by decide +kernel⟩, ?_⟩⟩ <;> decide +kernel⟩,
    ⟨31, [29], [], fenced 3 (channelAt { fresh with waiting := [{ arrayOp0 1 with units := [(29, 1)] }] }),
     { arrayOp0 1 with units := [(29, 1)] }, by decide +kernel⟩,
    ⟨31, 7, channelAt { fresh with queues := [(7, [arrayOp0 1])] }, arrayOp0 1, [], by decide +kernel⟩,
    ⟨31, 7, channelAt { fresh with queues := [(7, [arrayOp0 2])] }, arrayOp0 2, [], by decide +kernel⟩,
    ⟨31, 7, channelAt { fresh with done := [(7, [{ arrayOp0 1 with failed := some false }])] },
     { arrayOp0 1 with failed := some false }, by decide +kernel⟩,
    ⟨31, 7, channelAt { fresh with done := [(7, [{ arrayOp0 1 with failed := some true }])] },
     { arrayOp0 1 with failed := some true }, by decide +kernel⟩,
    ⟨2, 31, buffered0, by decide +kernel, by decide +kernel,
     ⟨(29, { data := [], mapped := false, phys := 0, buffered := true, sequence := 1, since := 84, group := 1 }), by decide +kernel⟩⟩,
    ⟨{ sPaddock with clk := { sPaddock.clk with stride := 128, window := 0 } }, by decide +kernel⟩,
    ⟨{ sPaddock with clk := { sPaddock.clk with stride := 8192 } }, by decide +kernel⟩,
    ⟨[41], { sPaddock with clk := { sPaddock.clk with stride := 8192 } }, by decide +kernel⟩⟩

/-- The hypotheses of `Obligations.PortsAndMessages`, clause by clause. -/
theorem witness_ports_and_messages :
    (∃ (p : Nat) (cws : List Codeword) (cor : Nat) (s : State), p < 9 ∧ (s.port p).st = 2 ∧ p < s.fab.ports.length ∧
      frameOk cws cor 0 = true ∧ frameIndexes (cws.map (·.control)) = [0, 1, 2, 3] ∧
      (∀ t ∈ frameTags (cws.map (·.control)), t ≤ 8) ∧ (s.port p).badNow ≤ 16) ∧
    (∃ (p : Nat) (cws : List Codeword) (cor : Nat) (bad : Nat) (s : State), p < 9 ∧ (s.port p).st = 2 ∧
      p < s.fab.ports.length ∧ frameOk cws cor bad = true ∧
      ((∃ t ∈ frameTags (cws.map (·.control)), 8 < t) ∨ frameIndexes (cws.map (·.control)) ≠ [0, 1, 2, 3] ∨ 0 < bad) ∧
      (s.port p).badNow + bad ≤ 16) ∧
    (∃ (p : Nat) (cls : Nat) (s : State) (x : Arriving), p < s.fab.ports.length ∧ announced cls = true ∧ 1 < x.left ∧
      ((s.port p).ingress.find? fun x => x.cls = cls && x.left ≠ 0) = some x) ∧
    (∃ (p : Nat) (cls : Nat) (s : State) (x : Arriving), p < s.fab.ports.length ∧ announced cls = true ∧ x.left = 1 ∧
      x.refused = false ∧ ((s.port p).ingress.find? fun x => x.cls = cls && x.left ≠ 0) = some x) ∧
    (∃ (cls : Nat) (fl : Bytes), announced cls = false ∧ (∃ b ∈ fl, b ≠ 0)) ∧
    (∃ (p : Nat) (cr : List Nat) (s : State) (u : State), p < 9 ∧ s.arrival 0 s.me (creditMessage cr) = (true, u) ∧
      (u.port p).st = 2 ∧ p < u.fab.ports.length ∧ u.isFenced (u.port p).peer = false) ∧
    (∃ (p : Nat) (cr : List Nat) (s : State) (u : State), p < 9 ∧ s.arrival 0 s.me (creditMessage cr) = (true, u) ∧
      (u.port p).st = 2 ∧ u.isFenced (u.port p).peer = true) ∧
    (∃ (p : Nat) (s : State), p < 9 ∧ (s.port p).st = 2 ∧ s.node.st ≠ 2 ∧ p < s.fab.ports.length) ∧
    (∃ (s : State) (p : Nat), p < s.fab.ports.length ∧ 10 ≤ (s.port p).groups.length) ∧
    (∃ (h : Nat) (s : State) (x : Transport), (s.fab.transports.find? fun t => t.handle = h) = some x ∧
      s.running = true ∧ s.portOpen (s.routeOf x.dest) = true) ∧
    (∃ (p : Nat) (s : State), p < 9 ∧ (s.port p).st = 2 ∧ p < s.fab.ports.length) ∧
    (∃ (s : State), s.fab.ports.length = 9) ∧
    (∃ (p : Nat) (h0 : Word64) (h : Word64) (s : State), p < 9 ∧ (s.port p).st = 2 ∧ s.node.stopped = false ∧
      h = (s.port p).records.headD h0 ∧ hdrLength h ≠ 0 ∧ announced (hdrClass h) = true ∧
      s.takes p (hdrClass h) (hdrSource h) = true ∧ polices (s.port p).role (hdrClass h) = false) ∧
    (∃ (p : Nat) (h0 : Word64) (h : Word64) (s : State) (z : Policer), p < 9 ∧ (s.port p).st = 2 ∧
      p < s.fab.ports.length ∧ s.node.stopped = false ∧ h = (s.port p).records.headD h0 ∧ hdrLength h ≠ 0 ∧
      announced (hdrClass h) = true ∧ s.takes p (hdrClass h) (hdrSource h) = true ∧
      polices (s.port p).role (hdrClass h) = true ∧ SMap.find? (s.port p).policers (hdrClass h) = some z ∧
      z.mode ≠ 0 ∧ 64 * hdrLength h ≤ z.tp ∧ 64 * hdrLength h ≤ z.tc ∧ (z.mode = 2 → hdrYellow h = false)) ∧
    (∃ (p : Nat) (h0 : Word64) (h : Word64) (s : State) (z : Policer), p < 9 ∧ (s.port p).st = 2 ∧
      p < s.fab.ports.length ∧ s.node.stopped = false ∧ h = (s.port p).records.headD h0 ∧ hdrLength h ≠ 0 ∧
      announced (hdrClass h) = true ∧ s.takes p (hdrClass h) (hdrSource h) = true ∧
      polices (s.port p).role (hdrClass h) = true ∧ SMap.find? (s.port p).policers (hdrClass h) = some z ∧
      z.mode ≠ 0 ∧ z.tp < 64 * hdrLength h) ∧
    (∃ (p : Nat) (h0 : Word64) (h : Word64) (s : State), p < 9 ∧ (s.port p).st = 2 ∧ p < s.fab.ports.length ∧
      s.node.stopped = false ∧ h = (s.port p).records.headD h0 ∧ hdrLength h ≠ 0 ∧ announced (hdrClass h) = true ∧
      s.takes p (hdrClass h) (hdrSource h) = false) ∧
    (∃ (p : Nat) (h : Word64) (b : Bytes) (s : State) (u : State), p < 9 ∧
      s.arrival (hdrClass h) s.me b = (true, u) ∧ u.running = true ∧ (u.port p).st = 2 ∧ hdrDest h ≠ u.me ∧
      announced (hdrClass h) = true ∧ u.takes p (hdrClass h) (hdrSource h) = true ∧ hdrHops h < 3 ∧
      u.routeOf (hdrDest h) < 9 ∧ u.portOpen (u.routeOf (hdrDest h)) = true ∧ u.isFenced (hdrDest h) = false ∧
      u.isFenced (hdrSource h) = false) ∧
    (∃ (p : Nat) (h : Word64) (b : Bytes) (s : State) (u : State), p < 9 ∧
      s.arrival (hdrClass h) s.me b = (true, u) ∧ u.running = true ∧ (u.port p).st = 2 ∧ hdrDest h ≠ u.me ∧
      announced (hdrClass h) = true ∧ u.takes p (hdrClass h) (hdrSource h) = true ∧ 3 ≤ hdrHops h) ∧
    (∃ (p : Nat) (h : Word64) (b : Bytes) (s : State) (u : State) (v : State), p < 9 ∧
      s.arrival (hdrClass h) s.me b = (true, u) ∧ u.running = true ∧ (u.port p).st = 2 ∧
      announced (hdrClass h) = false ∧ recordDest b ≠ u.me ∧ u.recordIn p (hdrClass h) (recordSource b) = (true, v) ∧
      bitsOf (byteAt b 14) 1 2 < 3 ∧ u.routeOf (recordDest b) < 9 ∧ u.portOpen (u.routeOf (recordDest b)) = true ∧
      u.isFenced (recordDest b) = false ∧ u.isFenced (recordSource b) = false) :=
  ⟨⟨8, frame0 [0, 1, 2, 3, 4, 5, 6, 7, 8, 8], 4, portAt { port0 with badNow := 16 } sNode, by decide +kernel⟩,
    ⟨8, frame0 [0, 1, 2, 3, 4, 5, 6, 7, 8, 8], 0, 4, portAt { port0 with badNow := 12 } sNode, by decide +kernel⟩,
    ⟨8, 5, portAt { port0 with ingress := [message0 5 2] } sNode, message0 5 2, by decide +kernel⟩,
    ⟨8, 7, portAt { port0 with ingress := [message0 7 1] } sNode, message0 7 1, by decide +kernel⟩,
    ⟨4, [1], by decide +kernel⟩,
    ⟨8, [0, 4096], sPort, sPort, by decide +kernel, rfl, by decide +kernel⟩,
    ⟨8, [0, 4096], fenced 3 sPort, fenced 3 sPort, by decide +kernel, rfl, by decide +kernel⟩,
    ⟨8, sPort, by decide +kernel⟩,
    ⟨portAt { port0 with groups := List.replicate 10 (8, List.replicate 4 (zeros 64)) } sNode, 8, by decide +kernel⟩,
    ⟨262143,
     { sPort with fab := { sPort.fab with transports := [{ handle := 262143, dest := 3, cls := 0, body := [] }], routes := [(3, 8)] } },
     { handle := 262143, dest := 3, cls := 0, body := [] }, by decide +kernel⟩,
    ⟨8, sPort, by decide +kernel⟩,
    ⟨sPort, by decide +kernel⟩,
    ⟨8, hdr 1 2 0 3 3, hdr 1 2 0 3 3, sPort, by decide +kernel⟩,
    ⟨8, hdr 1 2 5 3 0, hdr 1 2 5 3 0,
     portAt { port0 with policers := [(5, { mode := 1, cir := 1, pir := 1, cbs := 64, pbs := 64, tc := 64, tp := 64, green := 0, yellow := 0, red := 0 })] } sNode,
     { mode := 1, cir := 1, pir := 1, cbs := 64, pbs := 64, tc := 64, tp := 64, green := 0, yellow := 0, red := 0 },
     by decide +kernel⟩,
    ⟨8, hdr 1 2 5 3 0, hdr 1 2 5 3 0,
     portAt { port0 with policers := [(5, { mode := 1, cir := 1, pir := 1, cbs := 64, pbs := 64, tc := 64, tp := 63, green := 0, yellow := 0, red := 0 })] } sNode,
     { mode := 1, cir := 1, pir := 1, cbs := 64, pbs := 64, tc := 64, tp := 63, green := 0, yellow := 0, red := 0 },
     by decide +kernel⟩,
    ⟨8, hdr 1 2 5 3 0, hdr 1 2 5 3 0, fenced 3 sPort, by decide +kernel⟩,
    ⟨8, hdr 1 7 0 3 2, zeros 64, { sPort with fab := { sPort.fab with routes := [(7, 8)] } },
     { sPort with fab := { sPort.fab with routes := [(7, 8)] } }, by decide +kernel, rfl, by decide +kernel⟩,
    ⟨8, hdr 1 7 0 3 3, zeros 64, { sPort with fab := { sPort.fab with routes := [(7, 8)] } },
     { sPort with fab := { sPort.fab with routes := [(7, 8)] } }, by decide +kernel, rfl, by decide +kernel⟩,
    ⟨8, hdr 0 7 4 3 2, fields [(7, 8), (0, 2), (3, 2), (0, 2), (4, 1), (0, 49)],
     { sPort with fab := { sPort.fab with routes := [(7, 8)] } },
     { sPort with fab := { sPort.fab with routes := [(7, 8)] } },
     { sPort with fab := { sPort.fab with routes := [(7, 8)] } }, by decide +kernel, rfl,
     by refine ⟨?_, ?_, ?_, ?_, rfl, ?_⟩ <;> decide +kernel⟩⟩

/-- The hypotheses of `Obligations.MemoryOperationPerformed`, clause by clause. -/
theorem witness_memory_operation_performed :
    (∃ (p : Nat) (cls : Nat) (r : Bytes) (s : State) (u : State) (x : Window), p < 9 ∧ (cls = 3 ∨ cls = 4) ∧
      s.arrival cls s.me r = (true, u) ∧ u.running = true ∧ (u.port p).st = 2 ∧ le r 0 8 % 2 ^ 15 = u.me ∧
      bitOf (byteAt r 14) 0 = false ∧
      (le r 10 2 % 2 ^ 15 = u.me ∨ (u.takes p cls (le r 10 2 % 2 ^ 15) = true ∧ polices (u.port p).role cls = false)) ∧
      (u.nmu.lockWaiters.any fun w => sameStream (waiterClass w) cls w.2 r) = false ∧
      SMap.find? u.fab.windows (le r 0 8 / 2 ^ 15 % 2 ^ 9) = some x ∧ x.context = le r 12 2 % 2 ^ 12 ∧
      byteAt r 9 ≤ 3 ∧ le r 0 8 / 2 ^ 24 + 2 ^ byteAt r 9 ≤ x.size ∧ le r 0 8 / 2 ^ 24 % 2 ^ byteAt r 9 = 0 ∧
      2 ≤ byteAt r 8 ∧ byteAt r 8 ≤ 9 ∧
      u.ownsRegion (le r 10 2 % 2 ^ 15) (le r 0 8 / 2 ^ 15 % 2 ^ 9) (le r 0 8 / 2 ^ 24) = true ∧ x.base % 2048 = 0 ∧
      u.tagOk x.context (x.base + le r 0 8 / 2 ^ 24) = true ∧
      u.lockedBlock ((x.base + le r 0 8 / 2 ^ 24) / 64) = false ∧
      u.burstOver ((x.base + le r 0 8 / 2 ^ 24) / 64) = false ∧
      SMap.find? u.mem.checks ((x.base + le r 0 8 / 2 ^ 24) / 64) = none ∧ cellsWf u.mem.bytes = true) ∧
    (∃ (p : Nat) (cls : Nat) (r : Bytes) (s : State) (u : State), p < 9 ∧ (cls = 3 ∨ cls = 4) ∧
      s.arrival cls s.me r = (true, u) ∧ u.running = true ∧ le r 0 8 % 2 ^ 15 = u.me ∧ le r 10 2 % 2 ^ 15 = u.me ∧
      bitOf (byteAt r 14) 0 = false ∧ (∀ b, u.opBlock r = some b → u.unitHolds b = false) ∧
      (u.nmu.lockWaiters.any fun w => sameStream (waiterClass w) cls w.2 r) = true) :=
  ⟨⟨8, 4, fields [(2 + 3 * 2 ^ 15 + 2040 * 2 ^ 24, 8), (9, 1), (3, 1), (2, 2), (5, 2), (0, 50)],
     portAt port0 { sRow with fab := { sRow.fab with windows := [(3, window0)] } },
     portAt port0 { sRow with fab := { sRow.fab with windows := [(3, window0)] } }, window0, by decide +kernel,
     by decide +kernel, rfl, by decide +kernel⟩,
    ⟨8, 4, fields [(2 + 3 * 2 ^ 15 + 2040 * 2 ^ 24, 8), (9, 1), (3, 1), (2, 2), (5, 2), (0, 50)],
     portAt port0 { sRow with fab := { sRow.fab with windows := [(3, window0)] }, nmu := { sRow.nmu with lockWaiters := [(1032, fields [(2 + 3 * 2 ^ 15 + 2040 * 2 ^ 24, 8), (9, 1), (3, 1), (2, 2), (5, 2), (0, 50)])] } },
     portAt port0 { sRow with fab := { sRow.fab with windows := [(3, window0)] }, nmu := { sRow.nmu with lockWaiters := [(1032, fields [(2 + 3 * 2 ^ 15 + 2040 * 2 ^ 24, 8), (9, 1), (3, 1), (2, 2), (5, 2), (0, 50)])] } },
     by decide +kernel, by decide +kernel, rfl, by decide +kernel⟩⟩

/-- The hypotheses of `Obligations.StrideMarksFollowed`, clause by clause. -/
theorem witness_stride_marks_followed :
    (∃ (p : Nat) (n : Nat) (o : Nat) (s : State) (u : State), p < 9 ∧ s.arrival 0 s.me (strideMark n o) = (true, u) ∧
      (u.port p).st = 2 ∧ p < u.fab.ports.length ∧ u.isFenced (u.port p).peer = false ∧ u.isRoot = false ∧
      p = u.parentPort) ∧
    (∃ (p : Nat) (n : Nat) (o : Nat) (s : State) (u : State), p < 9 ∧ s.arrival 0 s.me (strideMark n o) = (true, u) ∧
      (u.port p).st = 2 ∧ p < u.fab.ports.length ∧ u.isFenced (u.port p).peer = false ∧ p ≠ u.parentPort) ∧
    (∃ (p : Nat) (n : Nat) (o : Nat) (s : State) (u : State), p < 9 ∧ s.arrival 0 s.me (strideMark n o) = (true, u) ∧
      (u.port p).st = 2 ∧ u.isFenced (u.port p).peer = true) ∧
    (∃ (s : State), s.running = true ∧ s.isRoot = false ∧ s.fab.onBackup = false ∧ s.fab.backup < 9 ∧
      (s.port s.primaryPort).marks + 2 ≤ s.stride) ∧
    (∃ (s : State), s.running = true ∧ s.isRoot = false ∧ (2 ≤ s.fab.wideErrors ∨ 4 ≤ s.fab.noMark)) ∧
    (∃ (a : Int) (s : State), s.isRoot = true ∧ s.fab.strideIn = true ∧ s.clk.code ≠ 0 ∧ a < 0) ∧
    (∃ (a : Int) (s : State), s.isRoot = true ∧ s.fab.strideIn = true ∧ s.clk.code ≠ 0 ∧ 0 ≤ a) ∧
    (∃ (s : State), s.isRoot = true ∧ s.fab.strideIn = true ∧ 2 ≤ s.fab.noEdge) :=
  ⟨⟨8, 101, 1, { sPort with fab := { sPort.fab with parent := 8 } },
     { sPort with fab := { sPort.fab with parent := 8 } }, by decide +kernel, rfl, by decide +kernel⟩,
    ⟨8, 100, 1, sPort, sPort, by decide +kernel, rfl, by decide +kernel⟩,
    ⟨8, 100, 1, fenced 3 sPort, fenced 3 sPort, by decide +kernel, rfl, by decide +kernel⟩,
    ⟨{ sPort with fab := { sPort.fab with parent := 8, backup := 8 } }, by decide +kernel⟩,
    ⟨{ sPort with fab := { sPort.fab with wideErrors := 2 } }, by decide +kernel⟩,
    ⟨-1, { sPort with fab := { sPort.fab with root := 2, strideIn := true, noEdge := 2 } }, by decide +kernel⟩,
    ⟨0, { sPort with fab := { sPort.fab with root := 2, strideIn := true, noEdge := 2 } }, by decide +kernel⟩,
    ⟨{ sPort with fab := { sPort.fab with root := 2, strideIn := true, noEdge := 2 } }, by decide +kernel⟩⟩

/-- The hypotheses of `Obligations.MembershipKept`, clause by clause. -/
theorem witness_membership_kept :
    (∃ (s : State), s.beats = true ∧ s.clk.window = 1 ∧ s.selfFenced = true) ∧
    (∃ (s : State), s.beats = true ∧ s.clk.window = 1 ∧ s.selfFenced = false ∧ s.memb.repeats = [] ∧
      (∀ n ∈ s.watched, (s.peer n).suspected = false)) ∧
    (∃ (p : Nat) (r : Bytes) (s : State) (u : State), p < 9 ∧ s.arrival 0 s.me r = (true, u) ∧ u.listens = true ∧
      (u.port p).st = 2 ∧ byteAt r 0 = 1 ∧ u.isFenced (membSender r) = false) ∧
    (∃ (p : Nat) (r : Bytes) (s : State) (u : State), p < 9 ∧ s.arrival 0 s.me r = (true, u) ∧ u.listens = true ∧
      (u.port p).st = 2 ∧ byteAt r 0 = 1 ∧ u.isFenced (membSender r) = true) ∧
    (∃ (r : Bytes) (s : State) (u : State), s.arrival 0 s.me r = (true, u) ∧ u.listens = true ∧
      u.isFenced (membSender r) = false ∧ byteAt r 0 = 2 ∧ membSubject r ≠ u.partner) ∧
    (∃ (r : Bytes) (s : State) (u : State), s.arrival 0 s.me r = (true, u) ∧ u.listens = true ∧
      u.isFenced (membSender r) = false ∧ byteAt r 0 = 3 ∧ membSender r = partnerOf (membSubject r)) ∧
    (∃ (r : Bytes) (s : State) (u : State), s.arrival 0 s.me r = (true, u) ∧ u.listens = true ∧
      u.isFenced (membSender r) = true) ∧
    (∃ (s : State), s.beats = true ∧ s.clk.window = 2 ∧ s.selfFenced = false) ∧
    (∃ (s : State), s.clk.window = 1 ∧ s.memb.beating = true ∧ s.selfFenced = false) ∧
    (∃ (s : State), s.isolated = true) ∧
    (∃ (s : State), s.clk.window = 1 ∧ s.memb.beating = false) ∧
    (∃ (s : State) (l : List (Nat × Nat)), (∃ d ∈ l, d.1 = s.me)) ∧
    (∃ (p : Nat) (r : Bytes) (s : State) (u : State), p < 9 ∧ s.arrival 0 s.me r = (true, u) ∧
      u.memb.beating = true ∧ u.selfFenced = false ∧ (u.port p).st = 2 ∧ byteAt r 0 = 4 ∧
      u.isFenced (membSender r) = false ∧ (membSubject r, membSender r, le r 24 8) ∉ u.memb.seen ∧
      u.isFenced (membSubject r) = false) ∧
    (∃ (p : Nat) (r : Bytes) (s : State) (u : State), p < 9 ∧ s.arrival 0 s.me r = (true, u) ∧
      u.memb.beating = true ∧ u.selfFenced = false ∧ (u.port p).st = 2 ∧ byteAt r 0 = 4 ∧
      u.isFenced (membSender r) = false ∧ (membSubject r, membSender r, le r 24 8) ∈ u.memb.seen) :=
  ⟨⟨{ sBeat with node := { sBeat.node with st := 2 } }, by decide +kernel⟩,
    ⟨sBeat, by decide +kernel⟩,
    ⟨8, record 1 3 3 99, sBeat, sBeat, by decide +kernel, rfl, by decide +kernel⟩,
    ⟨8, record 1 3 3 99, fenced 3 sBeat, fenced 3 sBeat, by decide +kernel, rfl, by decide +kernel⟩,
    ⟨record 2 3 4 99, sBeat, sBeat, rfl, by decide +kernel⟩,
    ⟨record 3 5 4 99, sBeat, sBeat, rfl, by decide +kernel⟩,
    ⟨record 2 3 4 99, fenced 3 sBeat, fenced 3 sBeat, rfl, by decide +kernel⟩,
    ⟨late sBeat, by decide +kernel⟩,
    ⟨sBeat, by decide +kernel⟩,
    ⟨sNode, by decide +kernel⟩,
    ⟨sNode, by decide +kernel⟩,
    ⟨sBeat, [(2, 6)], by decide +kernel⟩,
    ⟨8, record 4 3 5 100, sBeat, sBeat, by decide +kernel, rfl, by decide +kernel⟩,
    ⟨8, record 4 3 5 100, { sBeat with memb := { sBeat.memb with seen := [(5, 3, 100)] } },
     { sBeat with memb := { sBeat.memb with seen := [(5, 3, 100)] } }, by decide +kernel, rfl, by decide +kernel⟩⟩

/-- The hypotheses of `Obligations.ManagementAndSweeps`, clause by clause. -/
theorem witness_management_and_sweeps :
    (∃ (s : State), s.ctl.mgmtDown = false ∧ s.node.served = true) ∧
    (∃ (o : Nat) (n : Nat) (s : State), s.ctl.mgmtDown = false ∧ s.node.served = true ∧ n % 8 = 0 ∧ n ≤ 1024 ∧
      o + n ≤ 2 ^ 18) ∧
    (∃ (s : State), (s.ctl.mgmtDown = true ∨ s.node.served = false)) ∧
    (∃ (r : DomainReport) (s : State), domainCodes.contains r.domain = true ∧ s.running = true ∧
      s.mountedSet.hasDomain r.domain = true ∧ s.sweepDue r.domain = true ∧
      (r.domain = 0x30 → s.farrierSpent = false)) ∧
    (∃ (r : DomainReport) (s : State), domainCodes.contains r.domain = true ∧ s.sweepDue r.domain = false) ∧
    (∃ (r : DomainReport), unitsOf r ≠ []) :=
  ⟨⟨sNode, by decide +kernel⟩,
    ⟨2 ^ 18 - 1024, 1024, sNode, by decide +kernel⟩,
    ⟨State.reset, by decide +kernel⟩,
    ⟨{ domain := 0x41, units := [{ kind := 0x0B, num := 1, timing := 5, voltage := 9 }], perStep := 1 }, sNode,
     by decide +kernel⟩,
    ⟨{ domain := 0x41, units := [{ kind := 0x0B, num := 1, timing := 5, voltage := 9 }], perStep := 1 },
     { sNode with node := { sNode.node with sweep := [{ (recordOf sNode.node.sweep 0x41) with domain := 0x41, stride := 100 }] } },
     by decide +kernel⟩,
    ⟨{ domain := 0, units := [{ kind := 1, num := 0, timing := 5, voltage := 9 }, { kind := 1, num := 1, timing := 3, voltage := 10 }], perStep := 1 },
     by decide +kernel⟩⟩

/-- The hypotheses of `Obligations.ArbiterGrants`, clause by clause. -/
theorem witness_arbiter_grants :
    (∃ (n : Nat), n < 567 ∧ (n < 556 ∨ 565 ≤ n)) ∧
    (∃ (p : Nat) (s : State), p < 9 ∧ p < s.fab.ports.length ∧ (s.port p).st = 2 ∧ (s.port p).groups.length < 9) ∧
    (∃ (n : Nat) (rq : BitVec 8) (a : Arbiter), n < 567 ∧ a.holder = none ∧
      (∃ i < arbiterSlots n, bitOf rq.toNat i = true)) ∧
    (∃ (n : Nat) (rq : BitVec 8) (te : Nat) (w : List Nat) (a : Arbiter) (g : Nat), n < 567 ∧ arbiterKind n ≠ 3 ∧
      arbiterKind n ≠ 0 ∧ a.holder = none ∧ (∀ i, a.waitLim.getD i 0 = 0 ∨ a.waits.getD i 0 < a.waitLim.getD i 0) ∧
      (Arbiter.decide n rq 0 te w a).holder = some g) :=
  ⟨⟨566, by decide +kernel⟩,
    ⟨8,
     portAt { port0 with leaving := [{ cls := 5, header := none, flits := List.replicate 5 (zeros 64), since := some 0 }], credits := List.replicate 8 8 } sNode,
     by decide +kernel⟩,
    ⟨566, 0x10, Arbiter.reset 566, by decide +kernel, by decide +kernel, ⟨4, by decide +kernel⟩⟩,
    ⟨566, 0x10, 0, [], { Arbiter.reset 566 with waitLim := [] }, 4,
     by refine ⟨?_, ?_, ?_, ?_, fun _ => .inl rfl, ?_⟩ <;> decide +kernel⟩⟩

/-- The hypotheses of `Obligations.PowerAndProtection`, clause by clause. -/
theorem witness_power_and_protection :
    (∃ (s : State), s.node.supply = false ∧ s.node.resetLow = false) ∧
    (∃ (s : State), s.node.supply = true) ∧
    (∃ (s : State), s.node.supply = false) ∧
    (∃ (s : State), s.node.flushing = false) ∧
    (∃ (s : State), s.node.flushing = true) ∧
    (∃ (s : State), s.node.resetLow = true ∧ s.node.resetHeld = false ∧ s.node.supply = true) ∧
    (∃ (s : State), s.node.supply = true ∧ s.node.resetLow = false ∧ s.node.flushing = false ∧
      s.node.stopped = false ∧ (s.node.st = 1 ∨ s.node.st = 2 ∨ s.node.st = 4)) ∧
    (∃ (s : State), s.node.supply = true ∧ s.node.resetLow = false ∧ s.node.flushing = false ∧
      s.node.stopped = false ∧ (s.node.st = 0 ∨ s.node.st = 3)) ∧
    (∃ (s : State), s.node.flushing = true ∧ s.node.resetHeld = false) ∧
    (∃ (now : List Int) (s : State), now.length = 10 ∧ s.node.railsOn = true ∧
      (∀ i, i < 10 → now.getD i 0 < 920 ∨ s.node.samples.getD i 0 < 920) ∧
      (∀ i, i < 10 → now.getD i 0 ≤ 840 ∨ 840 < s.node.samples.getD i 0)) ∧
    (∃ (now : List Int) (s : State) (i : Nat), now.length = 10 ∧ s.node.railsOn = true ∧ i < 10 ∧
      920 ≤ now.getD i 0 ∧ 920 ≤ s.node.samples.getD i 0 ∧ s.node.alert = false ∧ s.node.flushing = false) ∧
    (∃ (now : List Int) (s : State), now.length = 10 ∧ s.node.railsOn = false) ∧
    (∃ (now : List Int) (s : State) (i : Nat), now.length = 10 ∧ s.node.railsOn = true ∧ i < 10 ∧
      920 ≤ now.getD i 0 ∧ 920 ≤ s.node.samples.getD i 0 ∧ s.node.alert = false ∧ s.node.flushing = true) :=
  ⟨⟨State.reset, by decide +kernel⟩,
    ⟨sNode, by decide +kernel⟩,
    ⟨State.reset, by decide +kernel⟩,
    ⟨sNode, by decide +kernel⟩,
    ⟨{ sNode with node := { (sNode).node with flushing := true } }, by decide +kernel⟩,
    ⟨{ sNode with node := { (sNode).node with resetLow := true } }, by decide +kernel⟩,
    ⟨sNode, by decide +kernel⟩,
    ⟨{ sNode with node := { (sNode).node with st := 3 } }, by decide +kernel⟩,
    ⟨{ sNode with node := { (sNode).node with flushing := true } }, by decide +kernel⟩,
    ⟨List.replicate 10 840, { sNode with node := { (sNode).node with samples := List.replicate 10 920 } },
     by decide +kernel⟩,
    ⟨List.replicate 10 920, { sNode with node := { (sNode).node with samples := List.replicate 10 920 } }, 9,
     by decide +kernel⟩,
    ⟨List.replicate 10 0, State.reset, by decide +kernel⟩,
    ⟨List.replicate 10 920,
     { sNode with node := { (sNode).node with samples := List.replicate 10 920, flushing := true } }, 9,
     by decide +kernel⟩⟩

/-- The hypotheses of `Obligations.StagesRun`, clause by clause. -/
theorem witness_stages_run :
    (∃ (s : State), s.inStage 1 = true) ∧
    (∃ (s : State) (c : Nat), s.inStage 1 = true ∧ (c = 0x0101 ∨ c = 0x0102)) ∧
    (∃ (s : State) (n : Nat), 1 ≤ n ∧ n ≤ 9 ∧ s.inStage n = true) ∧
    (∃ (s : State), s.inStage 2 = true) ∧
    (∃ (s : State), s.inStage 3 = true) ∧
    (∃ (s : State) (b : Bytes), s.inStage 3 = true ∧ b ≠ [] ∧ s.node.record.remount = none) ∧
    (∃ (s : State) (b : Bytes) (r : Nat) (c : Nat) (m : Bytes), s.inStage 3 = true ∧ b ≠ [] ∧
      s.node.record.remount = some (r, c, m)) ∧
    (∃ (s : State) (b : Bytes), s.inStage 3 = true ∧ b ≠ [] ∧ parseTack b = none) ∧
    (∃ (s : State) (r : UnitReport), s.inStage 4 = true ∧ r.stackFailed = false ∧
      r.module ∈ [64, 96, 128, 192, 256] ∧ (∀ d ∈ r.domains, ∀ u ∈ planBelow d, u.1 ≠ 0)) ∧
    (∃ (s : State) (r : UnitReport), s.inStage 4 = true ∧ r.stackFailed = true) ∧
    (∃ (s : State) (r : UnitReport), s.inStage 4 = true ∧ (∃ d ∈ r.domains, ∃ u ∈ planBelow d, u.1 = 0)) ∧
    (∃ (s : State) (r : UnitReport), s.inStage 4 = true ∧ r.stackFailed = false ∧
      (∀ d ∈ r.domains, ∀ u ∈ planBelow d, u.1 ≠ 0) ∧ r.module ∉ [64, 96, 128, 192, 256]) ∧
    (∃ (s : State), s.inStage 5 = true) ∧
    (∃ (s : State) (p : Nat) (l : Nat), p < s.fab.ports.length ∧ l < 4) ∧
    (∃ (s : State) (r : UnitReport) (d : State) (p : Nat), s.inStage 6 = true ∧
      d = s.dropLanes (r.failed ++ r.domains.flatMap planBelow) ∧ p < 9 ∧ (d.port p).st = 2 ∧ (d.port p).role = 1 ∧
      (s.isNear = true ∨ (d.port 8).st = 2)) ∧
    (∃ (s : State) (r : ScanReport), s.inStage 5 = true ∧ 1 ≤ r.targets ∧ r.targets ≤ 8 ∧
      (r.dieBlocks = 8192 ∨ r.dieBlocks = 16384) ∧ 10000 ≤ r.endurance ∧ r.mapsLost = false) ∧
    (∃ (s : State) (r : ScanReport), s.inStage 5 = true ∧ (r.targets = 0 ∨ 8 < r.targets ∨ r.endurance < 10000)) ∧
    (∃ (s : State) (r : PortReport) (p : Nat), s.inStage 6 = true ∧ p < 9 ∧ p < s.fab.ports.length ∧
      (s.port p).role ≠ 0 ∧ r.peer < 2 ^ 15) :=
  ⟨⟨inStage 1, by decide +kernel⟩,
    ⟨inStage 1, 0x0102, by decide +kernel⟩,
    ⟨inStage 9, 9, by decide +kernel⟩,
    ⟨inStage 2, by decide +kernel⟩,
    ⟨inStage 3, by decide +kernel⟩,
    ⟨inStage 3, [1], by decide +kernel⟩,
    ⟨{ inStage 3 with node := { (inStage 3).node with record := { UnitRecord.reset with remount := some (7, 2, []) } } },
     [1], 7, 2, [], by decide +kernel⟩,
    ⟨inStage 3, [1], by decide +kernel⟩,
    ⟨inStage 4, { stackFailed := false, module := 256, failed := [(1, 95)], domains := [] }, by decide +kernel⟩,
    ⟨inStage 4, { stackFailed := true, module := 256, failed := [(1, 95)], domains := [] }, by decide +kernel⟩,
    ⟨inStage 4,
     { stackFailed := false, module := 256, failed := [(1, 95)], domains := [{ domain := 0x10, units := [{ kind := 0, num := 0, timing := -300, voltage := 0 }], perStep := 0 }] },
     by decide +kernel, ⟨_, List.mem_cons_self .., (0, 0), by decide +kernel⟩⟩,
    ⟨inStage 4, { stackFailed := false, module := 0, failed := [(1, 95)], domains := [] }, by decide +kernel⟩,
    ⟨inStage 5, by decide +kernel⟩,
    ⟨sPort, 8, 3, by decide +kernel⟩,
    ⟨(portAt { port0 with lanes := 0xF } (inStage 6)),
     { stackFailed := false, module := 256, failed := [(0x10, 35)], domains := [] },
     (portAt { port0 with lanes := 0xF } (inStage 6)).dropLanes [(0x10, 35)], 8, by decide +kernel, rfl,
     by decide +kernel⟩,
    ⟨inStage 5, scan0, by decide +kernel⟩,
    ⟨inStage 5, { scan0 with targets := 9 }, by decide +kernel⟩,
    ⟨portAt { port0 with st := 1 } (inStage 6), report0, 8, by decide +kernel⟩⟩

/-- The hypotheses of `Obligations.JoinAndRestore`, clause by clause. -/
theorem witness_join_and_restore :
    (∃ (s : State) (b : Bytes) (u : State), s.arrival 0 s.me b = (true, u) ∧ u.inStage 7 = true ∧
      u.node.joinClosed = false ∧ byteAt b 0 = 5 ∧ le b 8 8 = (u.node.tack.map (·.herd)).getD 0 ∧
      (le b 2 2 % 2 ^ 15 = u.me → u.node.serial ≤ le b 24 8) ∧
      (le b 2 2 % 2 ^ 15, le b 16 8, le b 24 8) ∉ u.node.joins) ∧
    (∃ (s : State) (b : Bytes) (u : State), s.arrival 0 s.me b = (true, u) ∧ u.inStage 7 = true ∧
      u.node.joinClosed = false ∧ byteAt b 0 = 5 ∧ le b 8 8 = (u.node.tack.map (·.herd)).getD 0 ∧
      le b 2 2 % 2 ^ 15 = u.me ∧ le b 24 8 < u.node.serial) ∧
    (∃ (s : State), s.inStage 7 = true ∧ s.node.joinClosed = false ∧ s.me = s.fab.root ∧
      (∀ n ∈ s.fab.routes.map (·.1), ∃ j ∈ s.node.joins, j.1 = n)) ∧
    (∃ (s : State), s.inStage 7 = true ∧ s.node.joinClosed = false ∧ s.me = s.fab.root) ∧
    (∃ (s : State), s.inStage 7 = true ∧ s.node.joinClosed = false ∧ s.me = partnerOf s.fab.root) ∧
    (∃ (s : State) (k : Nat), s.inStage 7 = true ∧ s.node.joinClosed = false ∧ 64 ≤ k ∧ k < 2 ^ 64) ∧
    (∃ (s : State) (b : List Int), s.inStage 7 = true ∧ s.node.joinClosed = true ∧ s.node.locked = false ∧
      b.length = 8 ∧ (∀ e ∈ b, e.natAbs ≤ 256)) ∧
    (∃ (s : State) (l : List Int), s.inStage 7 = true ∧ s.node.joinClosed = true ∧ s.node.locked = false ∧
      eightWithin 0 l = false ∧ s.node.s0 ≤ s.stride + 1) ∧
    (∃ (s : State), s.inStage 7 = true ∧ s.node.joinClosed = false) ∧
    (∃ (absent : List Nat) (s : State), (∀ n ∈ absent, n < 20480) ∧ s.inStage 7 = true ∧ s.node.joinClosed = true ∧
      s.node.locked = true ∧ s.stride = s.node.s0 ∧ (s.enter 8).zeroCounters.serviceFits = true) ∧
    (∃ (absent : List Nat) (s : State), (∀ n ∈ absent, n < 20480) ∧ s.inStage 7 = true ∧ s.node.joinClosed = true ∧
      s.node.locked = true ∧ s.stride = s.node.s0 ∧ (s.enter 8).zeroCounters.serviceFits = false) ∧
    (∃ (s : State) (r : RestoreReport) (v : State) (u : State), s.inStage 9 = true ∧ s.node.unlocked = false ∧
      s.finishCloses.unwrapKeys.restored r = some v ∧
      u = ((if s.suppliesState r then v.supplyPartner else v).restoreSteps r.steps).grantAll ∧ u.granted = true) ∧
    (∃ (s : State) (r : RestoreReport) (v : State) (u : State), s.inStage 9 = true ∧ s.node.unlocked = false ∧
      s.finishCloses.unwrapKeys.restored r = some v ∧
      u = ((if s.suppliesState r then v.supplyPartner else v).restoreSteps r.steps).grantAll ∧ u.granted = false) ∧
    (∃ (s : State) (r : RestoreReport) (c : Checkpoint), r.partner = some c ∧ s.takesState r = true) ∧
    (∃ (s : State) (r : RestoreReport), r.own = true ∧ s.takesState r = false) ∧
    (∃ (r : RestoreReport), r.partner = none ∧ r.own = false) ∧
    (∃ (s : State) (r : RestoreReport), s.inStage 9 = true ∧ s.node.unlocked = false ∧ r.partner = none ∧
      r.own = false) ∧
    (∃ (s : State), s.inStage 9 = true ∧ s.node.unlocked = true) ∧
    (∃ (id : Nat) (n : Nat) (s : State) (x : Index) (v : Version), id < 2 ^ 32 ∧ s.ready = true ∧
      s.node.stopped = false ∧ SMap.find? s.indexes id = some x ∧ SMap.find? s.tables id = none ∧ v ∈ x.versions ∧
      v.num = n ∧ v.st ≠ 1 ∧ v.filled = false ∧ s.fillsNext id n = true) ∧
    (∃ (id : Nat) (n : Nat) (s : State) (x : Table) (v : TableVersion), id < 2 ^ 32 ∧ s.ready = true ∧
      s.node.stopped = false ∧ SMap.find? s.indexes id = none ∧ SMap.find? s.tables id = some x ∧ v ∈ x.versions ∧
      v.num = n ∧ v.st ≠ 1 ∧ v.filled = false ∧ s.fillsNext id n = true) :=
  ⟨⟨inStage 7, joinRecord 3 1, inStage 7, rfl, by decide +kernel⟩,
    ⟨inStage 7, joinRecord 2 1, inStage 7, rfl, by decide +kernel⟩,
    ⟨{ inStage 7 with fab := { sNode.fab with root := 2, routes := [(3, 8)] }, node := { (inStage 7).node with joins := [(3, 7, 1)] } },
     by refine ⟨?_, ?_, ?_, by
      intro n hn
      obtain rfl : n = 3 := by simpa using hn
      exact ⟨(3, 7, 1), by decide +kernel⟩⟩ <;> decide +kernel⟩,
    ⟨{ inStage 7 with fab := { sNode.fab with root := 2 } }, by decide +kernel⟩,
    ⟨{ inStage 7 with fab := { sNode.fab with root := 3 } }, by decide +kernel⟩,
    ⟨inStage 7, 64, by decide +kernel⟩,
    ⟨joinDone false, List.replicate 8 (-256), by decide +kernel⟩,
    ⟨joinDone false, List.replicate 7 0 ++ [257], by decide +kernel⟩,
    ⟨inStage 7, by decide +kernel⟩,
    ⟨[20479], joinDone true, by decide +kernel⟩,
    ⟨[20479], { joinDone true with flash := { sNode.flash with targets := 0 } }, by decide +kernel⟩,
    ⟨restoring none, { restore0 with fenced := true, partner := some { indexes := [], tables := [] } },
     (((restoring none).finishCloses.unwrapKeys.restored { restore0 with fenced := true, partner := some { indexes := [], tables := [] } }).get (by decide +kernel)),
     _, by decide +kernel, by decide +kernel, (Option.some_get _).symm, rfl, by decide +kernel⟩,
    ⟨{ (restoring (some { indexes := [], tables := [] })) with gaits := { sNode.gaits with mounted := some { sNode.gaits.admitted with hbmStacks := 0 } } },
     restore0,
     ((({ (restoring (some { indexes := [], tables := [] })) with gaits := { sNode.gaits with mounted := some { sNode.gaits.admitted with hbmStacks := 0 } } } : State).finishCloses.unwrapKeys.restored restore0).get (by decide +kernel)),
     _, by decide +kernel, by decide +kernel, (Option.some_get _).symm, rfl, by decide +kernel⟩,
    ⟨restoring none, { restore0 with fenced := true, partner := some { indexes := [], tables := [] } },
     { indexes := [], tables := [] }, by decide +kernel⟩,
    ⟨restoring none, restore0, by decide +kernel⟩,
    ⟨{ restore0 with own := false }, by decide +kernel⟩,
    ⟨restoring none, { restore0 with own := false }, by decide +kernel⟩,
    ⟨{ restoring none with node := { (restoring none).node with unlocked := true } }, by decide +kernel⟩,
    ⟨7, 1, withIndex { index0 with versions := [{ version0 with filled := false }] },
     { index0 with versions := [{ version0 with filled := false }] }, { version0 with filled := false },
     by decide +kernel⟩,
    ⟨9, 1, withTable { table0 with versions := [{ tversion0 with filled := false }] },
     { table0 with versions := [{ tversion0 with filled := false }] }, { tversion0 with filled := false },
     by decide +kernel⟩⟩

/-- The hypotheses of `Obligations.BoundaryAdopts`, clause by clause. -/
theorem witness_boundary_adopts :
    (∃ (s : State), s.clk.code ≠ 0 ∧ s.node.joinClosed = true ∧ s.node.stopped = false ∧ s.node.st < 5) ∧
    (∃ (s : State), s.clk.code ≠ 0 ∧ s.node.joinClosed = true ∧ s.running = true ∧ s.node.joined = true ∧
      s.memb.held = []) ∧
    (∃ (s : State) (id : Nat) (x : Index) (v : Version) (k : Switch), s.clk.code ≠ 0 ∧ s.node.joinClosed = true ∧
      s.running = true ∧ s.node.joined = true ∧ s.memb.held = [] ∧ s.changes = [] ∧
      SMap.find? s.indexes id = some x ∧ x.switch = some k ∧ k.go = true ∧ k.stride = s.clk.stride + 1 ∧
      k.settled = false ∧ v ∈ x.versions ∧ v.num = k.version) ∧
    (∃ (s : State), s.clk.code ≠ 0 ∧ s.node.joinClosed = true ∧ s.node.stopped = false ∧ s.node.st = 2 ∧
      s.memb.held = []) ∧
    (∃ (w : List Nat) (s : State), s.clk.code ≠ 0 ∧ s.node.joinClosed = true ∧ s.running = true ∧
      s.node.joined = true ∧ s.memb.held = [] ∧ s.work.overdue = [] ∧ w = [] ∧
      (∀ u ∈ s.nmu.units, u.2.commands = []) ∧ s.tables = [] ∧ s.work.queries = [] ∧ s.work.lookups = [] ∧
      s.work.updates = [] ∧ s.work.steps = [] ∧ s.flash.commands = []) :=
  ⟨⟨boundary0, by decide +kernel⟩,
    ⟨boundary0, by decide +kernel⟩,
    ⟨{ boundary0 with indexes := [(7, { index0 with versions := [version0, { version0 with num := 2, st := 2 }], switch := some { version := 2, stride := 101, digest := 77, retain := false, rebase := false, go := true, settled := false, request := req 0 0x0405 5 [] } })] },
     7,
     { index0 with versions := [version0, { version0 with num := 2, st := 2 }], switch := some { version := 2, stride := 101, digest := 77, retain := false, rebase := false, go := true, settled := false, request := req 0 0x0405 5 [] } },
     { version0 with num := 2, st := 2 },
     { version := 2, stride := 101, digest := 77, retain := false, rebase := false, go := true, settled := false, request := req 0 0x0405 5 [] },
     by decide +kernel⟩,
    ⟨{ boundary0 with node := { boundary0.node with st := 2 } }, by decide +kernel⟩,
    ⟨[], { boundary0 with tables := [] }, by decide +kernel⟩⟩

/-- The hypotheses of `Obligations.MirrorPublished`, clause by clause. -/
theorem witness_mirror_published :
    (∃ (s : State), s.clk.window = 0 ∧ s.clk.code ≠ 0 ∧ s.node.joined = true ∧ s.node.stopped = false) :=
  ⟨{ sNode with clk := { sNode.clk with window := 0 } }, by decide +kernel⟩

/-- The hypotheses of `Obligations.BuildsRun`, clause by clause. -/
theorem witness_builds_run :
    (∃ (id : Nat) (s : State) (x : Index) (b : Build), id < 2 ^ 32 ∧ SMap.find? s.indexes id = some x ∧
      x.build = some b ∧ b.cut = none ∧ s.working = true ∧ s.buildClassOk x.context b.cls = true ∧
      s.admittedNow b.cls < s.admitLimit b.cls) ∧
    (∃ (id : Nat) (s : State) (x : Table) (b : Build), id < 2 ^ 32 ∧ SMap.find? s.indexes id = none ∧
      SMap.find? s.tables id = some x ∧ x.build = some b ∧ b.cut = none ∧ s.working = true ∧
      (b.kind = 1 → s.appliedNow x = false) ∧ s.buildClassOk x.context b.cls = true ∧
      s.admittedNow b.cls < s.admitLimit b.cls) ∧
    (∃ (id : Nat) (s : State) (x : Index) (b : Build) (c : Nat) (v : Version), id < 2 ^ 32 ∧
      SMap.find? s.indexes id = some x ∧ x.build = some b ∧ b.cut = some c ∧ b.status = stOk ∧ s.running = true ∧
      s.persisting id = false ∧ x.version? b.version = some v) ∧
    (∃ (id : Nat) (s : State) (x : Index) (b : Build) (c : Nat) (v : Version), id < 2 ^ 32 ∧
      SMap.find? s.indexes id = some x ∧ x.build = some b ∧ b.cut = some c ∧ b.status ≠ stOk ∧ s.running = true ∧
      s.persisting id = false ∧ x.version? b.version = some v) ∧
    (∃ (id : Nat) (s : State) (x : Table) (b : Build) (c : Nat) (v : TableVersion), id < 2 ^ 32 ∧
      SMap.find? s.indexes id = none ∧ SMap.find? s.tables id = some x ∧ x.build = some b ∧ b.cut = some c ∧
      b.status = stOk ∧ s.running = true ∧ s.persisting id = false ∧ x.version? b.version = some v) :=
  ⟨⟨7,
     withIndex { index0 with versions := [version0, { version0 with num := 2, st := 1 }], build := some { kind := 0, version := 2, cls := 3, source := 2, count := 1, cut := none, status := 0, bad := 0, request := req 0 0x0403 5 [] } },
     { index0 with versions := [version0, { version0 with num := 2, st := 1 }], build := some { kind := 0, version := 2, cls := 3, source := 2, count := 1, cut := none, status := 0, bad := 0, request := req 0 0x0403 5 [] } },
     { kind := 0, version := 2, cls := 3, source := 2, count := 1, cut := none, status := 0, bad := 0, request := req 0 0x0403 5 [] },
     by decide +kernel⟩,
    ⟨9,
     withTable { table0 with versions := [tversion0, { tversion0 with num := 2, st := 1 }], build := some { kind := 0, version := 2, cls := 3, source := 2, count := 1, cut := none, status := 0, bad := 0, request := req 0 0x0403 5 [] } },
     { table0 with versions := [tversion0, { tversion0 with num := 2, st := 1 }], build := some { kind := 0, version := 2, cls := 3, source := 2, count := 1, cut := none, status := 0, bad := 0, request := req 0 0x0403 5 [] } },
     { kind := 0, version := 2, cls := 3, source := 2, count := 1, cut := none, status := 0, bad := 0, request := req 0 0x0403 5 [] },
     by decide +kernel⟩,
    ⟨7,
     withIndex { index0 with versions := [version0, { version0 with num := 2, st := 1 }], build := some { kind := 0, version := 2, cls := 3, source := 2, count := 1, cut := some 101, status := 0, bad := 0, request := req 0 0x0403 5 [] } },
     { index0 with versions := [version0, { version0 with num := 2, st := 1 }], build := some { kind := 0, version := 2, cls := 3, source := 2, count := 1, cut := some 101, status := 0, bad := 0, request := req 0 0x0403 5 [] } },
     { kind := 0, version := 2, cls := 3, source := 2, count := 1, cut := some 101, status := 0, bad := 0, request := req 0 0x0403 5 [] },
     101, { version0 with num := 2, st := 1 }, by decide +kernel⟩,
    ⟨7,
     withIndex { index0 with versions := [version0, { version0 with num := 2, st := 1 }], build := some { kind := 0, version := 2, cls := 3, source := 2, count := 1, cut := some 101, status := stBadValue, bad := 0, request := req 0 0x0403 5 [] } },
     { index0 with versions := [version0, { version0 with num := 2, st := 1 }], build := some { kind := 0, version := 2, cls := 3, source := 2, count := 1, cut := some 101, status := stBadValue, bad := 0, request := req 0 0x0403 5 [] } },
     { kind := 0, version := 2, cls := 3, source := 2, count := 1, cut := some 101, status := stBadValue, bad := 0, request := req 0 0x0403 5 [] },
     101, { version0 with num := 2, st := 1 }, by decide +kernel⟩,
    ⟨9,
     withTable { table0 with versions := [tversion0, { tversion0 with num := 2, st := 1 }], build := some { kind := 0, version := 2, cls := 3, source := 2, count := 1, cut := some 101, status := 0, bad := 0, request := req 0 0x0403 5 [] } },
     { table0 with versions := [tversion0, { tversion0 with num := 2, st := 1 }], build := some { kind := 0, version := 2, cls := 3, source := 2, count := 1, cut := some 101, status := 0, bad := 0, request := req 0 0x0403 5 [] } },
     { kind := 0, version := 2, cls := 3, source := 2, count := 1, cut := some 101, status := 0, bad := 0, request := req 0 0x0403 5 [] },
     101, { tversion0 with num := 2, st := 1 }, by decide +kernel⟩⟩

/-- The hypotheses of `Obligations.SwitchesAgreed`, clause by clause. -/
theorem witness_switches_agreed :
    (∃ (id : Nat) (s : State) (x : Index), id < 2 ^ 32 ∧ s.running = true ∧ SMap.find? s.indexes id = some x ∧
      SMap.find? s.tables id = none) ∧
    (∃ (id : Nat) (v : Nat) (e : Nat) (d : Nat) (s : State) (w : Switch), id < 2 ^ 32 ∧ s.running = true ∧
      s.isNear = false ∧ s.switchOf id = some w ∧ w.version = v ∧ w.stride = e ∧ w.digest = d ∧ s.stride < e) ∧
    (∃ (s : State), s.running = true ∧ s.isNear = true ∧ s.isFenced s.partner = false) ∧
    (∃ (id : Nat) (s : State) (x : Index), id < 2 ^ 32 ∧ s.running = true ∧ s.clk.window ≠ 0 ∧
      SMap.find? s.indexes id = some x ∧ SMap.find? s.tables id = none ∧ x.pairDue = true ∧ x.pair = none) ∧
    (∃ (id : Nat) (v : Nat) (s : State) (x : Index), id < 2 ^ 32 ∧ s.running = true ∧ s.clk.window ≠ 0 ∧
      SMap.find? s.indexes id = some x ∧ SMap.find? s.tables id = none ∧ x.pairDue = true ∧ x.pair = none ∧
      v ≠ x.currentNum) ∧
    (∃ (s : State) (id : Nat), s.running = true ∧ s.clk.window = 2 ∧ s.partnerExcused = false ∧ id ∈ s.objects ∧
      s.pairAwaited id = true) :=
  ⟨⟨7, sObjects, index0, by decide +kernel⟩,
    ⟨7, 2, 101, 77,
     { withIndex { index0 with switch := some { version := 2, stride := 101, digest := 77, retain := false, rebase := false, go := true, settled := false, request := req 0 0x0405 5 [] } } with node := { sNode.node with id := 3 } },
     { version := 2, stride := 101, digest := 77, retain := false, rebase := false, go := true, settled := false, request := req 0 0x0405 5 [] },
     by decide +kernel⟩,
    ⟨sNode, by decide +kernel⟩,
    ⟨7, withIndex { index0 with pairDue := true }, { index0 with pairDue := true }, by decide +kernel⟩,
    ⟨7, 2, withIndex { index0 with pairDue := true }, { index0 with pairDue := true }, by decide +kernel⟩,
    ⟨late (withIndex { index0 with pairDue := true }), 7, by decide +kernel⟩⟩

/-- The hypotheses of `Obligations.ClosesDrained`, clause by clause. -/
theorem witness_closes_drained :
    (∃ (id : Nat) (s : State) (x : Index) (b : Nat), id < 2 ^ 32 ∧ SMap.find? s.indexes id = some x ∧
      x.closing = some b ∧ b ≤ s.stride ∧ s.objectUsed id = false) ∧
    (∃ (id : Nat) (s : State) (x : Table) (b : Nat), id < 2 ^ 32 ∧ SMap.find? s.tables id = some x ∧
      x.closing = some b ∧ b ≤ s.stride ∧ s.objectUsed id = false) ∧
    (∃ (c : Nat) (s : State) (x : Context), c < 4096 ∧ SMap.find? s.contexts c = some x ∧ x.st = 2 ∧
      x.swept = false ∧ x.closedAt ≤ s.stride ∧ s.contextUsed c = false) ∧
    (∃ (s : State) (g : Nat) (r : Granule), s.running = true ∧ s.clk.window ≠ 0 ∧ s.mem.scrubQueue = [g] ∧
      g < 8 * stackGranules ∧ SMap.find? s.mem.hbmTags g = some r ∧ r.scrubbed ≤ granuleBlocks ∧
      s.dieWaits (g * granuleSize + 64 * r.scrubbed) (64 * (granuleBlocks - r.scrubbed)) = false) ∧
    (∃ (s : State), s.running = true ∧ s.clk.window ≠ 0) :=
  ⟨⟨7, withIndex { index0 with closing := some 100 }, { index0 with closing := some 100 }, 100, by decide +kernel⟩,
    ⟨9, withTable { table0 with closing := some 100 }, { table0 with closing := some 100 }, 100, by decide +kernel⟩,
    ⟨5, { sObjects with contexts := [(5, { context0 with st := 2, closedAt := 100 })] },
     { context0 with st := 2, closedAt := 100 }, by decide +kernel⟩,
    ⟨{ sHbm with mem := { sHbm.mem with hbmTags := [(8 * stackGranules - 1, { granule0 with st := 2, scrubbed := granuleBlocks })], scrubQueue := [8 * stackGranules - 1] } },
     8 * stackGranules - 1, { granule0 with st := 2, scrubbed := granuleBlocks }, by decide +kernel⟩,
    ⟨sNode, by decide +kernel⟩⟩

/-- The hypotheses of `Obligations.QueriesLoadedAndScanned`, clause by clause. -/
theorem witness_queries_loaded_and_scanned :
    (∃ (b : Bytes) (s : State), s.working = true ∧ cmdOp b = 1 ∧ cmdWhole b = false ∧ s.unitRuns (cmdUnit b) = true ∧
      s.refuses (cmdUnit b) b = false ∧ 0 < cmdLength b ∧ (s.unit (cmdUnit b)).commands = [] ∧
      StackQuiet s (cmdUnit b / 64)) ∧
    (∃ (b : Bytes) (s : State), s.working = true ∧ cmdOp b = 1 ∧ cmdWhole b = true ∧ s.namedUnits b ≠ [] ∧
      cmdFieldsOk 1 b = true ∧ 0 < cmdLength b ∧ (∀ v ∈ s.namedUnits b, (s.unit v).commands = []) ∧
      StackQuiet s (cmdUnit b / 64)) ∧
    (∃ (u : Nat) (s : State) (x : Burst) (c : UnitCommand) (n : Nat), u < 512 ∧ LastBurst s u x c 1 ∧ x.kind = 2 ∧
      cmdOp c.bytes = 1 ∧ s.holders c = [u] ∧ (bitList 8 (cmdMask c.bytes)).head? = some n) ∧
    (∃ (b : Bytes) (s : State), s.working = true ∧ cmdOp b = 2 ∧ s.unitRuns (cmdUnit b) = true ∧
      s.refuses (cmdUnit b) b = false ∧ (s.unit (cmdUnit b)).commands = [] ∧ StackQuiet s (cmdUnit b / 64)) ∧
    (∃ (u : Nat) (s : State) (x : Burst) (c : UnitCommand), u < 512 ∧ LastBurst s u x c 2 ∧ x.kind = 0 ∧
      cmdOp c.bytes = 2) ∧
    (∃ (b : Bytes) (s : State), s.working = true ∧ cmdOp b = 2 ∧ s.unitRuns (cmdUnit b) = true ∧
      cmdFieldsOk 2 b = false ∧ (s.unit (cmdUnit b)).commands = [] ∧ StackQuiet s (cmdUnit b / 64)) :=
  ⟨⟨cmd 1 0x80 64 [] (zeros 64), sRow, by decide +kernel⟩,
    ⟨fields [(1, 1), (0x80, 1), (5, 2), (0, 4), (2 ^ 15, 2), (0, 2), (64, 4)] ++ zeros 64, sRow, by decide +kernel⟩,
    ⟨511, bursting { burst0 with kind := 2 } (command1 1 (cmd 1 0x80 64 [] (zeros 64))), { burst0 with kind := 2 },
     command1 1 (cmd 1 0x80 64 [] (zeros 64)), 7, by decide +kernel⟩,
    ⟨cmd 2 0x80 0 [2 * 2 ^ 24] [],
     { sRow with nmu := { sRow.nmu with units := [(0, { NmuUnit.fresh with slots := [(7, { context := 5, image := [], poisoned := false })] })] } },
     by decide +kernel⟩,
    ⟨511, bursting { burst0 with blocks := [0, 1] } (command1 2 (cmd 2 0x80 0 [2 * 2 ^ 24] [])),
     { burst0 with blocks := [0, 1] }, command1 2 (cmd 2 0x80 0 [2 * 2 ^ 24] []), by decide +kernel⟩,
    ⟨cmd 2 0x80 0 [] [], sRow, by decide +kernel⟩⟩

/-- The hypotheses of `Obligations.RowsWrittenInBursts`, clause by clause. -/
theorem witness_rows_written_in_bursts :
    (∃ (b : Bytes) (s : State), s.working = true ∧ cmdOp b = 3 ∧ s.unitRuns (cmdUnit b) = true ∧
      s.refuses (cmdUnit b) b = false ∧ 0 < cmdLength b ∧ (s.unit (cmdUnit b)).commands = [] ∧
      StackQuiet s (cmdUnit b / 64)) ∧
    (∃ (b : Bytes) (s : State), s.working = true ∧ cmdOp b = 4 ∧ s.unitRuns (cmdUnit b) = true ∧
      s.refuses (cmdUnit b) b = false ∧ 0 < cmdLength b ∧ (s.unit (cmdUnit b)).commands = [] ∧
      StackQuiet s (cmdUnit b / 64)) ∧
    (∃ (u : Nat) (s : State) (x : Burst) (c : UnitCommand), u < 512 ∧ LastBurst s u x c 1 ∧ x.kind = 2 ∧
      cmdOp c.bytes = 3) ∧
    (∃ (u : Nat) (s : State) (x : Burst) (c : UnitCommand) (read : List (Option Bytes)) (new : Bytes) (n : Nat), u < 512 ∧
      LastBurst s u x c 2 ∧ x.kind = 0 ∧ cmdOp c.bytes = 3 ∧ c.poisoned = false ∧
      read = (s.unit u).rowBuffer ++ x.blocks.map (fun k => (s.unitRead (cmdContext c.bytes) k).held) ∧
      updateEnd c.bytes false read = .done stOk n (some (some new))) ∧
    (∃ (u : Nat) (s : State) (x : Burst) (c : UnitCommand) (read : List (Option Bytes)) (st : Nat) (row : Bytes), u < 512 ∧
      LastBurst s u x c 2 ∧ x.kind = 0 ∧ cmdOp c.bytes = 3 ∧ c.poisoned = false ∧
      read = (s.unit u).rowBuffer ++ x.blocks.map (fun k => (s.unitRead (cmdContext c.bytes) k).held) ∧
      updateEnd c.bytes false read = .kept st row ∧ c.own = false) ∧
    (∃ (u : Nat) (s : State) (x : Burst) (c : UnitCommand) (image : Bytes), u < 512 ∧ LastBurst s u x c 1 ∧
      x.kind = 2 ∧ cmdOp c.bytes = 4 ∧ c.poisoned = false ∧ image = fit (64 * (cmdRow c.bytes 0).2) (cmdData c.bytes)) ∧
    (∃ (u : Nat) (s : State) (x : Burst) (c : UnitCommand) (image : Bytes) (first : Nat), u < 512 ∧
      LastBurst s u x c 3 ∧ x.kind = 1 ∧ x.last = true ∧ c.own = false ∧ x.image = some image ∧
      x.blocks.head? = some first ∧ (∀ k ∈ x.blocks, s.tagOk (cmdContext c.bytes) (64 * k) = true) ∧
      cellsWf s.mem.bytes = true) ∧
    (∃ (k : Nat) (s : State) (x : Burst), k < 8 ∧ s.working = true ∧ SMap.getD s.nmu.waiting k [] = [x] ∧
      x.whole = false ∧ (x.booked = true → x.slot ≤ SMap.getD s.nmu.slots k 0) ∧
      SMap.getD s.nmu.slots k 0 < workCycles s.clk.code / 25 ∧ s.inBurst k < 44 ∧ (s.unit x.unit).burst = none ∧
      (x.booked = true ∨ x.kind = 2 ∨ s.awaited x = false)) ∧
    (∃ (k : Nat) (s : State), k < 8 ∧ s.working = true ∧ 44 ≤ s.inBurst k ∧
      SMap.getD s.nmu.slots k 0 < workCycles s.clk.code / 25) ∧
    (∃ (u : Nat) (s : State) (x : Burst), u < 512 ∧ (s.unit u).burst = some x ∧ x.unit = u) :=
  ⟨⟨cmd 3 0 64 [2 * 2 ^ 24] (zeros 64), sRow, by decide +kernel⟩,
    ⟨cmd 4 0 128 [2 * 2 ^ 24] (zeros 128), sRow, by decide +kernel⟩,
    ⟨511, bursting { burst0 with kind := 2 } (command1 1 (cmd 3 0 64 [2 * 2 ^ 24] (zeros 64))),
     { burst0 with kind := 2 }, command1 1 (cmd 3 0 64 [2 * 2 ^ 24] (zeros 64)), by decide +kernel⟩,
    ⟨511, bursting { burst0 with blocks := [0, 1] } (command1 2 (cmd 3 0 64 [2 * 2 ^ 24] (zeros 64))),
     { burst0 with blocks := [0, 1] }, command1 2 (cmd 3 0 64 [2 * 2 ^ 24] (zeros 64)), _,
     zeros 36 ++ [8] ++ zeros 91, 0, by refine ⟨?_, ?_, ?_, ?_, ?_, rfl, ?_⟩ <;> decide +kernel⟩,
    ⟨511,
     bursting { burst0 with blocks := [0, 1] } (command1 2 (cmd 3 0 64 [2 * 2 ^ 24] ([0, 0, 0x80, 0x7F] ++ zeros 60))),
     { burst0 with blocks := [0, 1] }, command1 2 (cmd 3 0 64 [2 * 2 ^ 24] ([0, 0, 0x80, 0x7F] ++ zeros 60)), _,
     stBadValue, zeros 36 ++ [8] ++ zeros 91, by refine ⟨?_, ?_, ?_, ?_, ?_, rfl, ?_⟩ <;> decide +kernel⟩,
    ⟨511, bursting { burst0 with kind := 2 } (command1 1 (cmd 4 0 128 [2 * 2 ^ 24] (zeros 128))),
     { burst0 with kind := 2 }, command1 1 (cmd 4 0 128 [2 * 2 ^ 24] (zeros 128)), zeros 128, by decide +kernel⟩,
    ⟨511,
     bursting { burst0 with kind := 1, blocks := [0, 1], image := some (zeros 128) } (command1 3 (cmd 4 0 128 [2 * 2 ^ 24] (zeros 128))),
     { burst0 with kind := 1, blocks := [0, 1], image := some (zeros 128) },
     command1 3 (cmd 4 0 128 [2 * 2 ^ 24] (zeros 128)), zeros 128, 0, by decide +kernel⟩,
    ⟨7, { sRow with nmu := { sRow.nmu with waiting := [(7, [burst0])] } }, burst0, by decide +kernel⟩,
    ⟨7,
     { sRow with nmu := { sRow.nmu with units := (List.range 44).map fun n => (448 + n, { NmuUnit.fresh with burst := some { burst0 with unit := 448 + n } }) } },
     by decide +kernel⟩,
    ⟨511, { sRow with nmu := { sRow.nmu with units := [(511, { NmuUnit.fresh with burst := some burst0 })] } },
     burst0, by decide +kernel⟩⟩

/-- The hypotheses of `Obligations.QueriesSearched`, clause by clause. -/
theorem witness_queries_searched :
    (∃ (ring : Nat) (b : Bytes) (tile : TileUse) (s : State) (g : Nat) (r : Ring) (k : Nat) (x : Index) (e : Bytes), ring < 16384 ∧
      tile.tile < 96 ∧ tile.lost = false ∧ s.unitUp 0x01 tile.tile = true ∧ s.freeTag = some g ∧
      s.ring? ring = some r ∧ r.kind = 1 ∧ s.mayAdmit r = true ∧ s.ringClass ring r = some k ∧ e = fit r.slotSize b ∧
      SMap.find? s.indexes (le e 4 4) = some x ∧ s.queryStatus ring r e = stOk) ∧
    (∃ (ring : Nat) (b : Bytes) (tile : TileUse) (s : State) (g : Nat) (r : Ring) (k : Nat) (e : Bytes) (st : Nat) (n : Nat), ring < 16384 ∧
      tile.tile < 96 ∧ s.unitUp 0x01 tile.tile = true ∧ s.freeTag = some g ∧ s.ring? ring = some r ∧ r.kind = 1 ∧
      s.mayAdmit r = true ∧ s.ringClass ring r = some k ∧ e = fit r.slotSize b ∧
      st = (if s.queryStatus ring r e = stOk ∧ tile.lost = true then stPoisoned else s.queryStatus ring r e) ∧
      st ≠ stOk ∧ n = (if 1 ≤ le e 16 2 ∧ le e 16 2 ≤ r.maxK then le e 16 2 else 0)) ∧
    (∃ (ring : Nat) (tile : TileUse) (s : State) (r : Ring), ring < 16384 ∧ tile.tile < 96 ∧ s.ring? ring = some r ∧
      (r.kind ≠ 1 ∨ s.mayAdmit r = false ∨ s.unitUp 0x01 tile.tile = false)) ∧
    (∃ (m : Bytes) (rows : List Nat) (lists : List Nat) (sorter : SortUse) (s : State) (u : State) (k : Nat) (len : Nat) (q : Search) (v : View) (w : Walk), sorter.unit < 16 ∧
      s.arrival 2 (le m 0 2 % 2 ^ 15) m = (true, u) ∧ u.searching sorter = true ∧
      u.serveClass (le m 28 2) 1 (decide (chosenMember (le m 0 2 % 2 ^ 15) (le m 2 2) (u.me / 2) ≠ u.me) && u.isFenced u.partner) = some (k, len) ∧
      q = searchOf m k ((u.gaitNow.1.cls? k).any (·.elastic)) len ∧ u.searchView q = some v ∧ u.maySearch q = true ∧
      u.classRoom k = true ∧ u.stride = le m 8 8 + 1 ∧
      w = Walk.start (({ q with roundAt := u.stride } : Search).walk (u.sortUnit sorter.unit)) v none rows lists sorter.parity q.descent 0) ∧
    (∃ (m : Bytes) (sorter : SortUse) (s : State) (u : State) (k : Nat) (len : Nat) (q : Search) (v : View), sorter.unit < 16 ∧
      s.arrival 2 (le m 0 2 % 2 ^ 15) m = (true, u) ∧ u.searching sorter = true ∧
      u.serveClass (le m 28 2) 1 (decide (chosenMember (le m 0 2 % 2 ^ 15) (le m 2 2) (u.me / 2) ≠ u.me) && u.isFenced u.partner) = some (k, len) ∧
      q = searchOf m k ((u.gaitNow.1.cls? k).any (·.elastic)) len ∧ u.searchView q = some v ∧
      (u.stride ≠ le m 8 8 + 1 ∨ u.classRoom k = false ∨ u.maySearch q = false)) ∧
    (∃ (key : Nat) (rows : List Nat) (lists : List Nat) (sorter : SortUse) (tile : TileUse) (s : State) (q : Search) (v : View) (w : Walk), sorter.unit < 16 ∧
      tile.tile < 96 ∧ SMap.find? s.work.searches key = some q ∧ s.searching sorter = true ∧
      s.unitUp 0x01 tile.tile = true ∧ q.phase = 0 ∧ q.roundAt < s.stride ∧ s.stride + 4 ≤ q.admitAt + q.len ∧
      s.searchView q = some v ∧
      w = (q.walk (s.sortUnit sorter.unit)).round v none rows lists sorter.parity 0 (decide (s.stride + 4 = q.admitAt + q.len))) ∧
    (∃ (key : Nat) (s : State) (q : Search), SMap.find? s.work.searches key = some q ∧ s.working = true ∧
      q.phase = 0 ∧ s.stride + 3 = q.admitAt + q.len) :=
  ⟨⟨16383, queryEntry, tile0, sLastRing 1, (State.drawn (sLastRing 1)).toNat % 262144, ring0 1 512, 0, index0,
     fit 512 queryEntry, by refine ⟨?_, ?_, ?_, ?_, rfl, ?_⟩ <;> decide +kernel⟩,
    ⟨20, [], tile0, sObjects, (State.drawn (sObjects)).toNat % 262144, ring0 1 512, 0, fit 512 [], stBadLength, 0,
     by refine ⟨?_, ?_, ?_, rfl, ?_⟩ <;> decide +kernel⟩,
    ⟨21, tile0, sObjects, ring0 2 512, by decide +kernel⟩,
    ⟨subRequest0 99, [], [], sort0, sObjects, sObjects, 1, 8, searchOf (subRequest0 99) 1 false 8,
     index0.viewOf version0 (searchOf (subRequest0 99) 1 false 8), _, by decide +kernel, rfl,
     by refine ⟨?_, ?_, ?_, ?_, ?_, ⟨?_, ?_, rfl⟩⟩ <;> decide +kernel⟩,
    ⟨subRequest0 98, sort0, sObjects, sObjects, 1, 8, searchOf (subRequest0 98) 1 false 8,
     index0.viewOf version0 (searchOf (subRequest0 98) 1 false 8), by decide +kernel, rfl, by decide +kernel⟩,
    ⟨searchKey 4 262143 0, [], [], sort0, tile0, withSearch (search0 94), search0 94,
     index0.viewOf version0 (search0 94), _,
     by refine ⟨?_, ?_, ?_, ?_, ?_, ⟨?_, ?_, ?_, ?_, rfl⟩⟩ <;> decide +kernel⟩,
    ⟨searchKey 4 262143 0, withSearch (search0 93), search0 93, by decide +kernel⟩⟩

/-- The hypotheses of `Obligations.QueriesCompleted`, clause by clause. -/
theorem witness_queries_completed :
    (∃ (m : Bytes) (a : Bytes) (s : State) (w : State) (q : Query), s.arrival 2 (le a 6 2 % 2 ^ 15) m = (true, w) ∧
      SMap.find? w.work.queries (asideHandle a) = some q ∧ q.phase = 0 ∧ q.chain = none ∧
      w.stride + 5 = q.admitAt + q.len ∧ asideShard a ∈ q.waiting) ∧
    (∃ (m : Bytes) (a : Bytes) (s : State) (w : State), s.arrival 2 (le a 6 2 % 2 ^ 15) m = (true, w) ∧
      SMap.find? w.work.queries (asideHandle a) = none) ∧
    (∃ (h : Nat) (sorter : SortUse) (s : State) (q : Query) (c : Selection) (set : List Entry), h < 262144 ∧
      sorter.unit < 16 ∧ sorter.parity = [] ∧ SMap.find? s.work.queries h = some q ∧ s.working = true ∧
      s.unitUp 0x03 sorter.unit = true ∧ q.phase = 0 ∧ q.chain = none ∧ s.stride + 4 = q.admitAt + q.len ∧
      c = select true (max q.k q.m) (q.replies.flatMap (·.2)) ∧
      set = (if q.m = 0 then c.out else rerankSet q.m q.shardCap q.channelCap c.out)) ∧
    (∃ (h : Nat) (passes : Nat) (sorter : SortUse) (s : State) (q : Query) (begun : Selection) (p : Selection × SortUnit), h < 262144 ∧
      sorter.unit < 16 ∧ SMap.find? s.work.queries h = some q ∧ s.working = true ∧ s.unitUp 0x03 sorter.unit = true ∧
      q.phase = 0 ∧ q.merges s.stride = true ∧ begun = q.chain.getD (Selection.start (max q.k q.m)) ∧
      p = Selection.passes true (sorter.parity.map (· + begun.steps)) (numbered (q.replies.flatMap (·.2))) passes (begun, s.sortUnit sorter.unit) ∧
      p.1.ended = false) ∧
    (∃ (h : Nat) (s : State) (q : Query), h < 262144 ∧ SMap.find? s.work.queries h = some q ∧ s.clk.window = 2 ∧
      q.elastic = false ∧ q.phase = 0 ∧ s.stride + 5 = q.admitAt + q.len ∧ q.waiting ≠ []) ∧
    (∃ (h : Nat) (s : State) (l : Lookup), h < 262144 ∧ SMap.find? s.work.queries h = none ∧
      SMap.find? s.work.lookups h = some l ∧ s.clk.window = 2 ∧ s.stride = l.admitAt + 1 ∧ l.awaiting ≠ []) ∧
    (∃ (h : Nat) (sorter : SortUse) (tile : TileUse) (s : State) (q : Query), h < 262144 ∧ sorter.unit < 16 ∧
      tile.tile < 96 ∧ SMap.find? s.work.queries h = some q ∧ s.working = true ∧ s.unitUp 0x03 sorter.unit = true ∧
      s.unitUp 0x01 tile.tile = true ∧ q.phase = 1 ∧ s.stride + 1 = q.admitAt + q.len ∧ q.program = 0xFFFF ∧
      q.m = 0 ∧ q.late = false ∧ q.waiting = [] ∧ (∀ e ∈ q.merged, hasFlag e.flags flLate = false)) ∧
    (∃ (h : Nat) (sorter : SortUse) (tile : TileUse) (s : State) (q : Query) (c : Selection), h < 262144 ∧
      sorter.unit < 16 ∧ tile.tile < 96 ∧ sorter.parity = [] ∧ SMap.find? s.work.queries h = some q ∧
      s.working = true ∧ s.unitUp 0x03 sorter.unit = true ∧ s.unitUp 0x01 tile.tile = true ∧ q.phase = 1 ∧
      s.stride + 1 = q.admitAt + q.len ∧ q.program = 0xFFFF ∧ 0 < q.m ∧
      c = select true q.k (q.merged.map q.finalItem)) ∧
    (∃ (h : Nat) (w : Bool) (sorter : SortUse) (tile : TileUse) (s : State) (q : Query) (p : Program) (c : Selection), h < 262144 ∧
      sorter.unit < 16 ∧ tile.tile < 96 ∧ sorter.parity = [] ∧ SMap.find? s.work.queries h = some q ∧
      s.working = true ∧ s.unitUp 0x03 sorter.unit = true ∧ s.unitUp 0x01 tile.tile = true ∧ q.phase = 1 ∧
      s.stride + 1 = q.admitAt + q.len ∧ s.queryProgram q = some p ∧ q.featAwait = [] ∧
      s.lacks q.admitAt q.cls (q.admitAt + q.len - 1) tile.tile (p.span ((s.tile tile.tile).batchWith s.stride (programKey q.context q.program) q.finalSet.length) + (s.tile tile.tile).zeroing q.context) = false ∧
      c = select true q.k (q.applyProgram p (w || tile.lost) q.finalSet)) ∧
    (∃ (h : Nat) (sorter : SortUse) (tile : TileUse) (s : State) (q : Query) (p : Program) (cost : Nat) (key : Nat) (batch : List Nat) (due : Nat), h < 262144 ∧
      sorter.unit < 16 ∧ tile.tile < 96 ∧ SMap.find? s.work.queries h = some q ∧ s.working = true ∧
      s.unitUp 0x03 sorter.unit = true ∧ s.unitUp 0x01 tile.tile = true ∧ q.phase = 1 ∧
      s.stride + 1 = q.admitAt + q.len ∧ s.queryProgram q = some p ∧ q.featAwait = [] ∧
      key = programKey q.context q.program ∧ batch = (s.tile tile.tile).batchWith s.stride key q.finalSet.length ∧
      due = q.admitAt + q.len - 1 ∧ cost = p.span batch + (s.tile tile.tile).zeroing q.context ∧
      s.lacks q.admitAt q.cls due tile.tile cost = true) ∧
    (∃ (s : State) (q : Query) (r : Ring), s.ring? q.ring = some r ∧ r.lost = false) :=
  ⟨⟨[], answer, withQuery (query0 93) sObjects, withQuery (query0 93) sObjects, query0 93, rfl, by decide +kernel⟩,
    ⟨[], answer, sObjects, sObjects, rfl, by decide +kernel⟩,
    ⟨262143, sort0, withQuery (query0 92) sObjects, query0 92, _, _,
     by refine ⟨?_, ?_, ?_, ?_, ?_, ⟨?_, ?_, ?_, ?_, rfl, rfl⟩⟩ <;> decide +kernel⟩,
    ⟨262143, 1, sort0,
     withQuery { query0 90 with k := 65, replies := [(0, (List.range 66).map fun n => { entry0 with key := n })] } sObjects,
     { query0 90 with k := 65, replies := [(0, (List.range 66).map fun n => { entry0 with key := n })] }, _, _,
     by refine ⟨?_, ?_, ?_, ?_, ?_, ⟨?_, ?_, rfl, rfl, ?_⟩⟩ <;> decide +kernel⟩,
    ⟨262143, late (withQuery (query0 93) sObjects), query0 93, by decide +kernel⟩,
    ⟨262143, late (withLookup (lookup0 99) sObjects), lookup0 99, by decide +kernel⟩,
    ⟨262143, sort0, tile0, withQuery { query0 89 with phase := 1, merged := [entry0], waiting := [] } sObjects,
     { query0 89 with phase := 1, merged := [entry0], waiting := [] }, by decide +kernel⟩,
    ⟨262143, sort0, tile0, withQuery { query0 89 with phase := 1, merged := [entry0], m := 10 } sObjects,
     { query0 89 with phase := 1, merged := [entry0], m := 10 }, _,
     by refine ⟨?_, ?_, ?_, ?_, ?_, ⟨?_, ?_, ?_, ?_, ?_, ⟨?_, ?_, rfl⟩⟩⟩ <;> decide +kernel⟩,
    ⟨262143, true, sort0, tile0, withQuery { query0 89 with phase := 1, merged := [entry0], program := 3 } sTimed,
     { query0 89 with phase := 1, merged := [entry0], program := 3 }, program0, _,
     by refine ⟨?_, ?_, ?_, ?_, ?_, ⟨?_, ?_, ?_, ?_, ?_, ⟨?_, ?_, ?_, rfl⟩⟩⟩ <;> decide +kernel⟩,
    ⟨262143, sort0, tile0,
     withQuery { query0 89 with phase := 1, merged := [entry0], program := 3 } { sObjects with programs := [(programKey 5 3, program0)] },
     { query0 89 with phase := 1, merged := [entry0], program := 3 }, program0, _, _, _, _,
     by refine ⟨?_, ?_, ?_, ?_, ?_, ⟨?_, ?_, ?_, ?_, ?_, ⟨?_, rfl, rfl, rfl, rfl, ?_⟩⟩⟩ <;> decide +kernel⟩,
    ⟨sObjects, query0 89, ring0 1 512, by decide +kernel⟩⟩

/-- The hypotheses of `Obligations.CandidatesReranked`, clause by clause. -/
theorem witness_candidates_reranked :
    (∃ (m : Bytes) (s : State) (u : State) (key : Nat) (q : Search), key = searchKey (le m 0 2 % 2 ^ 15) (le m 4 4 % 2 ^ 18) (le m 2 2) ∧
      s.arrival 2 (le m 0 2 % 2 ^ 15) m = (true, u) ∧ u.working = true ∧ SMap.find? u.work.searches key = some q ∧
      q.phase = 1 ∧ u.stride + 2 = q.admitAt + q.len ∧ u.maySearch q = true) ∧
    (∃ (m : Bytes) (s : State) (u : State) (key : Nat) (d : Nat) (len : Nat) (q : Search), key = searchKey (le m 0 2 % 2 ^ 15) (le m 4 4 % 2 ^ 18) (le m 2 2) ∧
      s.arrival 2 (le m 0 2 % 2 ^ 15) m = (true, u) ∧ u.working = true ∧ SMap.find? u.work.searches key = none ∧
      u.serveClass (le m 28 2) 1 true = some (d, len) ∧ q = searchOf m d false len ∧ u.maySearch q = true ∧
      u.classRoom d = true ∧ u.stride + 2 = q.admitAt + q.len) ∧
    (∃ (key : Nat) (reads : List FlashRead) (poison : List Nat) (tile : TileUse) (s : State) (q : Search) (v : View) (bad : List Nat) (items : List (Nat × Nat)), tile.tile < 96 ∧
      SMap.find? s.work.searches key = some q ∧ s.working = true ∧ s.unitUp 0x01 tile.tile = true ∧ q.phase = 1 ∧
      q.items ≠ [] ∧ s.stride + 1 = q.admitAt + q.len ∧ s.searchView q = some v ∧
      bad = (lostReads reads).filter v.onFlash ∧
      items = q.items.filter (fun i => v.onFlash i.1 || !poison.contains i.1)) ∧
    (∃ (key : Nat) (s : State) (q : Search), SMap.find? s.work.searches key = some q ∧ s.working = true ∧
      q.phase = 2 ∧ s.stride = q.admitAt + q.len) ∧
    (∃ (m : Bytes) (reads : List FlashRead) (tile : TileUse) (s : State) (u : State) (d : Nat) (len : Nat) (q : Search) (v : View) (items : List (Nat × Nat)) (deltas : List Nat) (bad : List Nat) (w : State), tile.tile < 96 ∧
      s.arrival 2 s.partner m = (true, u) ∧ u.working = true ∧ u.unitUp 0x01 tile.tile = true ∧
      u.serveClass (le m 28 2) 1 true = some (d, len) ∧ q = { searchOf m d false len with detour := true } ∧
      u.searchView q = some v ∧ u.maySearch q = true ∧ u.classRoom d = true ∧ u.stride = q.admitAt + q.len ∧
      items = itemsFrom m (64 + le m 36 2 + le m 40 4) ∧ deltas = (items.filter fun i => !v.onFlash i.1).map (·.1) ∧
      bad = (lostReads reads).filter v.onFlash ++ (if tile.lost then deltas else []) ∧
      w = (u.readRecords v q ((items.map (·.1)).filter v.onFlash) reads).admitTo d ∧
      (deltas = [] ∨ u.lacks u.stride d u.stride tile.tile (laneCycles v.ix.dim deltas.length + (u.tile tile.tile).zeroing q.context) = false)) ∧
    (∃ (m : Bytes) (a : Bytes) (s : State) (w : State) (q : Query), s.arrival 2 (le a 6 2 % 2 ^ 15) m = (true, w) ∧
      SMap.find? w.work.queries (asideHandle a) = some q ∧ q.phase = 1 ∧ w.stride + 2 = q.admitAt + q.len ∧
      asideShard a ∈ q.waiting) :=
  ⟨⟨fields [(4, 2), (0, 2), (262143, 4), (0, 56)], withSearch { search0 92 with phase := 1 },
     withSearch { search0 92 with phase := 1 }, searchKey 4 262143 0, { search0 92 with phase := 1 },
     by decide +kernel, rfl, by decide +kernel⟩,
    ⟨subRequest0 94, sObjects, sObjects, searchKey 4 262143 0, 10, 8, searchOf (subRequest0 94) 10 false 8,
     by decide +kernel, rfl, by decide +kernel⟩,
    ⟨searchKey 4 262143 0, [], [], tile0, withSearch { search0 91 with phase := 1, items := [(0, 0)] },
     { search0 91 with phase := 1, items := [(0, 0)] },
     index0.viewOf version0 { search0 91 with phase := 1, items := [(0, 0)] }, [], [(0, 0)], by decide +kernel⟩,
    ⟨searchKey 4 262143 0, withSearch { search0 90 with phase := 2 }, { search0 90 with phase := 2 },
     by decide +kernel⟩,
    ⟨subRequest0 92, [], tile0, sObjects, sObjects, 10, 8,
     { searchOf (subRequest0 92) 10 false 8 with detour := true },
     index0.viewOf version0 { searchOf (subRequest0 92) 10 false 8 with detour := true }, [(0, 0)], [], [], _,
     by decide +kernel, rfl,
     by refine ⟨?_, ?_, ?_, ?_, ?_, ⟨?_, ?_, ?_, ?_, ?_, ⟨?_, rfl, .inl rfl⟩⟩⟩ <;> decide +kernel⟩,
    ⟨[], answer, withQuery { query0 90 with phase := 1, merged := [entry0] } sObjects,
     withQuery { query0 90 with phase := 1, merged := [entry0] } sObjects,
     { query0 90 with phase := 1, merged := [entry0] }, rfl, by decide +kernel⟩⟩

/-- The hypotheses of `Obligations.UpdatesAdmitted`, clause by clause. -/
theorem witness_updates_admitted :
    (∃ (ring : Nat) (b : Bytes) (tile : TileUse) (s : State) (g : Nat) (r : Ring) (k : Nat) (x : Index) (e : Bytes), ring < 16384 ∧
      tile.tile < 96 ∧ tile.lost = false ∧ s.unitUp 0x01 tile.tile = true ∧ s.freeTag = some g ∧
      s.ring? ring = some r ∧ r.kind = 2 ∧ s.mayAdmit r = true ∧ s.ringClass ring r = some k ∧ e = fit r.slotSize b ∧
      SMap.find? s.indexes (le e 4 4) = some x ∧ s.updateStatus r e = stOk) ∧
    (∃ (ring : Nat) (b : Bytes) (tile : TileUse) (s : State) (g : Nat) (r : Ring) (k : Nat) (e : Bytes) (st : Nat), ring < 16384 ∧
      tile.tile < 96 ∧ s.unitUp 0x01 tile.tile = true ∧ s.freeTag = some g ∧ s.ring? ring = some r ∧ r.kind = 2 ∧
      s.mayAdmit r = true ∧ s.ringClass ring r = some k ∧ e = fit r.slotSize b ∧
      st = (if s.updateStatus r e = stOk ∧ tile.lost = true then stPoisoned else s.updateStatus r e) ∧ st ≠ stOk) ∧
    (∃ (m : Bytes) (rows : List Nat) (lists : List Nat) (sorter : SortUse) (s : State) (p : State) (k : Nat) (len : Nat) (u : ServedUpdate) (x : Index) (z : _), sorter.unit < 16 ∧
      s.arrival 2 (le m 0 2 % 2 ^ 15) m = (true, p) ∧ p.searching sorter = true ∧
      p.serveClass (le m 28 2) 2 (!p.isNear && p.isFenced p.partner) = some (k, len) ∧
      u = parseForward m len p.stride ∧ SMap.find? p.indexes u.index = some x ∧ x.context = u.context ∧
      p.holds x.map u.shard = true ∧ p.stride = u.admitAt + 1 ∧ p.classRoom k = true ∧
      (∃ v, x.current = some v ∧ v.filled = true) ∧
      z = (if u.op = 1 then x.startLink u k rows lists sorter (p.sortUnit sorter.unit) else none)) ∧
    (∃ (m : Bytes) (sorter : SortUse) (s : State) (p : State) (k : Nat) (len : Nat) (x : Index), sorter.unit < 16 ∧
      s.arrival 2 (le m 0 2 % 2 ^ 15) m = (true, p) ∧ p.searching sorter = true ∧
      p.serveClass (le m 28 2) 2 (!p.isNear && p.isFenced p.partner) = some (k, len) ∧
      SMap.find? p.indexes (le m 24 4) = some x ∧ p.stride ≠ le m 8 8 + 1) ∧
    (∃ (key : Nat) (rows : List Nat) (lists : List Nat) (sorter : SortUse) (tile : TileUse) (s : State) (u : ServedUpdate) (q : Search) (v : View) (w : _), sorter.unit < 16 ∧
      tile.tile < 96 ∧ SMap.find? s.work.served key = some u ∧ u.search = some q ∧ s.searching sorter = true ∧
      s.unitUp 0x01 tile.tile = true ∧ u.links ≠ 0 ∧ u.rounds < s.stride ∧ s.stride + 2 ≤ u.admitAt + u.len ∧
      s.searchView q = some v ∧
      w = (q.walk (s.sortUnit sorter.unit)).round v none rows lists sorter.parity 0 (decide (u.links = 1 ∨ s.stride + 2 = u.admitAt + u.len))) :=
  ⟨⟨21, updateEntry, tile0, sObjects, (State.drawn (sObjects)).toNat % 262144, ring0 2 512, 2, index0,
     fit 512 updateEntry, by refine ⟨?_, ?_, ?_, ?_, rfl, ?_⟩ <;> decide +kernel⟩,
    ⟨21, [], tile0, sObjects, (State.drawn (sObjects)).toNat % 262144, ring0 2 512, 2, fit 512 [], stBadLength,
     by refine ⟨?_, ?_, ?_, rfl, ?_⟩ <;> decide +kernel⟩,
    ⟨forward 99, [], [], sort0, sObjects, sObjects, 3, 8, parseForward (forward 99) 8 100, index0, _,
     by decide +kernel, rfl,
     by refine ⟨?_, ?_, ?_, ?_, ?_, ⟨?_, ?_, ?_, ⟨version0, by decide +kernel⟩, rfl⟩⟩ <;> decide +kernel⟩,
    ⟨forward 98, sort0, sObjects, sObjects, 3, 8, index0, by decide +kernel, rfl, by decide +kernel⟩,
    ⟨updateKey 4 262143, [], [], sort0, tile0,
     withServed { served0 1 with admitAt := 94, search := some (search0 94) } index0,
     { served0 1 with admitAt := 94, search := some (search0 94) }, search0 94, index0.viewOf version0 (search0 94),
     _, by refine ⟨?_, ?_, ?_, ?_, ?_, ⟨?_, ?_, ?_, ?_, ?_, rfl⟩⟩ <;> decide +kernel⟩⟩

/-- The hypotheses of `Obligations.UpdatesCommitted`, clause by clause. -/
theorem witness_updates_committed :
    (∃ (tiles : List TileUse) (s : State), (∀ d ∈ tiles, TileUse.tile d < 96) ∧
      (∀ u ∈ s.work.served, s.stride + 1 ≠ u.2.admitAt + u.2.len)) ∧
    (∃ (tiles : List TileUse) (s : State) (u : ServedUpdate) (x : Index), (∀ d ∈ tiles, TileUse.tile d < 96 ∧ s.unitUp 0x01 d.tile = true) ∧
      s.working = true ∧ s.work.served = [(updateKey u.entryNode u.handle, u)] ∧ s.stride + 1 = u.admitAt + u.len ∧
      SMap.find? s.indexes u.index = some x ∧ u.op ≠ 1) ∧
    (∃ (tiles : List TileUse) (s : State) (u : ServedUpdate) (x : Index) (w : State) (n : Nat), (∀ d ∈ tiles, TileUse.tile d < 96 ∧ s.unitUp 0x01 d.tile = true) ∧
      s.working = true ∧ s.work.served = [(updateKey u.entryNode u.handle, u)] ∧ s.stride + 1 = u.admitAt + u.len ∧
      SMap.find? s.indexes u.index = some x ∧ u.op = 1 ∧ x.freeSlot u.shard = some n ∧
      x.deltaUse u.shard < x.deltaCap ∧ w = s.useTile (tileFor tiles 0) u.context ∧ (tileFor tiles 0).lost = false ∧
      ({ w with work := { w.work with served := [] }, indexes := SMap.set s.indexes u.index (x.stage u (s.stride + 1)).1 } : State).holdsUse u.context = true) ∧
    (∃ (tiles : List TileUse) (s : State) (u : ServedUpdate) (x : Index) (w : State) (st : Nat), (∀ d ∈ tiles, TileUse.tile d < 96 ∧ s.unitUp 0x01 d.tile = true) ∧
      s.working = true ∧ s.work.served = [(updateKey u.entryNode u.handle, u)] ∧ s.stride + 1 = u.admitAt + u.len ∧
      SMap.find? s.indexes u.index = some x ∧ u.op = 1 ∧ w = s.useTile (tileFor tiles 0) u.context ∧
      st = (if x.freeSlot u.shard = none ∨ x.deltaCap ≤ x.deltaUse u.shard ∨ ({ w with work := { w.work with served := [] }, indexes := SMap.set s.indexes u.index (x.stage u (s.stride + 1)).1 } : State).holdsUse u.context = false then stNoResource else if (tileFor tiles 0).lost = true then stPoisoned else stOk) ∧
      st ≠ stOk) ∧
    (∃ (m : Bytes) (s : State) (p : State) (x : Index), s.arrival 1 s.partner m = (true, p) ∧ p.working = true ∧
      SMap.find? p.indexes (le m 24 4) = some x ∧ p.mirrorOk x m = true) ∧
    (∃ (m : Bytes) (s : State) (p : State) (x : Index), s.arrival 1 s.partner m = (true, p) ∧ p.working = true ∧
      SMap.find? p.indexes (le m 24 4) = some x ∧ p.mirrorOk x m = false) ∧
    (∃ (h : Nat) (n : Nat) (s : State), h < 2 ^ 18 ∧ n < 32768 ∧ s.working = true ∧ s.hasPending true h n = true) ∧
    (∃ (h : Nat) (n : Nat) (s : State), h < 2 ^ 18 ∧ n < 32768 ∧ s.working = true) ∧
    (∃ (s : State) (i : Nat) (x : Index), SMap.find? s.indexes i = some x) ∧
    (∃ (k : Nat) (d : Nat) (s : State), s.clk.window ≠ 0 ∧ k = s.stride ∧
      SMap.getD s.work.digests k (commitDigest k []) = d) ∧
    (∃ (k : Nat) (d : Nat) (s : State), s.clk.window ≠ 0 ∧ k = s.stride ∧
      SMap.getD s.work.digests k (commitDigest k []) ≠ d) ∧
    (∃ (s : State) (d : Nat), s.clk.window = 2 ∧ SMap.find? s.work.digests s.stride = some d ∧
      SMap.find? s.work.peerDigests s.stride = none ∧ s.partnerExcused = false) ∧
    (∃ (s : State), s.partnerExcused = true) ∧
    (∃ (m : Bytes) (s : State) (p : State) (h : Nat) (u : EntryUpdate), s.arrival 2 s.me m = (true, p) ∧
      h = le m 0 4 % 2 ^ 18 ∧ SMap.find? p.work.updates h = some u ∧ u.commit = p.stride ∧ p.clk.window ≠ 0) ∧
    (∃ (m : Bytes) (s : State) (p : State), s.arrival 2 s.me m = (true, p) ∧
      SMap.find? p.work.updates (le m 0 4 % 2 ^ 18) = none) ∧
    (∃ (h : Nat) (s : State) (u : EntryUpdate), h < 262144 ∧ SMap.find? s.work.updates h = some u ∧
      u.commit = s.stride ∧ s.clk.window = 2) ∧
    (∃ (s : State) (u : EntryUpdate) (r : Ring), s.ring? u.ring = some r ∧ r.lost = false) ∧
    (∃ (x : Index) (p : Pending) (r : Row), x.liveRow p.shard p.key = none ∧ p.row = some r ∧ p.items = []) ∧
    (∃ (x : Index) (p : Pending) (r : Row), x.liveRow p.shard p.key = some r) ∧
    (∃ (x : Index) (p : Pending), x.liveRow p.shard p.key = none) :=
  ⟨⟨[tile0], sObjects, by decide +kernel⟩,
    ⟨[tile0], withServed (served0 2) index0, served0 2, index0, by decide +kernel⟩,
    ⟨[tile0], withServed (served0 1) index0, served0 1, index0, _, 1,
     by refine ⟨?_, ?_, ?_, ?_, ?_, ⟨?_, ?_, ?_, rfl, ?_⟩⟩ <;> decide +kernel⟩,
    ⟨[{ tile0 with lost := true }], withServed (served0 1) index0, served0 1, index0, _, stPoisoned,
     by refine ⟨?_, ?_, ?_, ?_, ?_, ⟨?_, rfl, ?_⟩⟩ <;> decide +kernel⟩,
    ⟨forward 92, sObjects, sObjects, index0, rfl, by decide +kernel⟩,
    ⟨forward 92, withIndex { index0 with map := [2] }, withIndex { index0 with map := [2] },
     { index0 with map := [2] }, rfl, by decide +kernel⟩,
    ⟨2 ^ 18 - 1, 32767, withIndex { index0 with pending := [pending0] }, by decide +kernel⟩,
    ⟨2 ^ 18 - 1, 32767, sObjects, by decide +kernel⟩,
    ⟨sObjects, 7, index0, by decide +kernel⟩,
    ⟨100, 2, { sObjects with work := { sObjects.work with digests := [(100, 2)] } }, by decide +kernel⟩,
    ⟨100, 1, { sObjects with work := { sObjects.work with digests := [(100, 2)] } }, by decide +kernel⟩,
    ⟨late { sObjects with work := { sObjects.work with digests := [(100, 2)] } }, 2, by decide +kernel⟩,
    ⟨fenced 3 sObjects, by decide +kernel⟩,
    ⟨answer, withUpdate sObjects, withUpdate sObjects, 262143, entryUpdate0, rfl, by decide +kernel⟩,
    ⟨answer, sObjects, sObjects, rfl, by decide +kernel⟩,
    ⟨262143, late (withUpdate sObjects), entryUpdate0, by decide +kernel⟩,
    ⟨sObjects, entryUpdate0, ring0 2 512, by decide +kernel⟩,
    ⟨index0, { pending0 with key := 2, row := some (row0 1 2) }, row0 1 2, by decide +kernel⟩,
    ⟨index0, pending0, row0 0 1, by decide +kernel⟩,
    ⟨index0, { pending0 with key := 2 }, by decide +kernel⟩⟩

/-- The hypotheses of `Obligations.LookupsServed`, clause by clause. -/
theorem witness_lookups_served :
    (∃ (ring : Nat) (b : Bytes) (s : State) (g : Nat) (r : Ring) (k : Nat) (x : Table) (e : Bytes), ring < 16384 ∧
      s.freeTag = some g ∧ s.ring? ring = some r ∧ r.kind = 3 ∧ s.mayAdmit r = true ∧ s.ringClass ring r = some k ∧
      e = fit r.slotSize b ∧ SMap.find? s.tables (le e 4 4) = some x ∧ s.lookupStatus r e = stOk) ∧
    (∃ (ring : Nat) (b : Bytes) (s : State) (g : Nat) (r : Ring) (k : Nat) (e : Bytes) (st : Nat), ring < 16384 ∧
      s.freeTag = some g ∧ s.ring? ring = some r ∧ r.kind = 3 ∧ s.mayAdmit r = true ∧ s.ringClass ring r = some k ∧
      e = fit r.slotSize b ∧ s.lookupStatus r e = st ∧ st ≠ stOk) ∧
    (∃ (m : Bytes) (s : State) (u : State) (x : Table) (k : Nat) (len : Nat) (lost : _), s.arrival 2 (le m 0 2 % 2 ^ 15) m = (true, u) ∧
      u.working = true ∧ SMap.find? u.tables (le m 16 4) = some x ∧
      u.serveClass (le m 20 2 % 4096) 3 (decide (chosenMember (le m 0 2 % 2 ^ 15) (le m 2 2) (u.me / 2) ≠ u.me) && u.isFenced u.partner) = some (k, len) ∧
      x.context = le m 20 2 % 4096 ∧ u.holds x.map (le m 2 2) = true ∧ x.readable (le m 24 8) = true ∧
      u.classRoom k = true ∧ u.stride = le m 8 8 + 1 ∧ u.barred x = false ∧ u.copiesHeld x m = [] ∧
      lost = ((x.copyReads (le m 24 8) (subRows m)).filter fun c => (rangeBlocks c.2 x.rowSize).any fun b => (u.blockRead b).lost).map (·.1)) ∧
    (∃ (m : Bytes) (s : State) (u : State) (x : Table) (k : Nat) (len : Nat), s.arrival 2 (le m 0 2 % 2 ^ 15) m = (true, u) ∧
      u.working = true ∧ SMap.find? u.tables (le m 16 4) = some x ∧
      u.serveClass (le m 20 2 % 4096) 3 (decide (chosenMember (le m 0 2 % 2 ^ 15) (le m 2 2) (u.me / 2) ≠ u.me) && u.isFenced u.partner) = some (k, len) ∧
      x.context = le m 20 2 % 4096 ∧ u.holds x.map (le m 2 2) = true ∧ x.readable (le m 24 8) = true ∧
      u.classRoom k = true ∧ u.stride = le m 8 8 + 1 ∧ (u.barred x = true ∨ u.copiesHeld x m ≠ [])) ∧
    (∃ (m : Bytes) (s : State) (u : State) (x : Table) (k : Nat) (len : Nat), s.arrival 2 (le m 0 2 % 2 ^ 15) m = (true, u) ∧
      u.working = true ∧ SMap.find? u.tables (le m 16 4) = some x ∧
      u.serveClass (le m 20 2 % 4096) 3 (decide (chosenMember (le m 0 2 % 2 ^ 15) (le m 2 2) (u.me / 2) ≠ u.me) && u.isFenced u.partner) = some (k, len) ∧
      u.stride ≠ le m 8 8 + 1) ∧
    (∃ (m : Bytes) (a : Bytes) (s : State) (w : State) (h : Nat) (l : Lookup) (x : Table), s.arrival 2 (le a 6 2 % 2 ^ 15) m = (true, w) ∧
      h = le a 0 4 % 2 ^ 18 ∧ SMap.find? w.work.lookups h = some l ∧ SMap.find? w.tables l.table = some x ∧
      w.stride = l.admitAt + 1 ∧ le a 4 2 ∈ l.awaiting) ∧
    (∃ (m : Bytes) (a : Bytes) (s : State) (w : State) (h : Nat) (l : Lookup) (x : Table), s.arrival 2 (le a 6 2 % 2 ^ 15) m = (true, w) ∧
      h = le a 0 4 % 2 ^ 18 ∧ SMap.find? w.work.lookups h = some l ∧ SMap.find? w.tables l.table = some x ∧
      w.stride ≠ l.admitAt + 1) ∧
    (∃ (m : Bytes) (a : Bytes) (s : State) (w : State) (h : Nat) (q : Query) (p : Program) (x : Table), s.arrival 2 (le a 6 2 % 2 ^ 15) m = (true, w) ∧
      h = le a 0 4 % 2 ^ 18 ∧ SMap.find? w.work.lookups h = none ∧ SMap.find? w.work.queries h = some q ∧
      SMap.find? w.programs (q.context * 2 ^ 16 + q.program) = some p ∧ SMap.find? w.tables p.featTable = some x ∧
      w.stride + 2 ≤ q.admitAt + q.len ∧ le a 4 2 ∈ q.featAwait) ∧
    (∃ (h : Nat) (s : State) (l : Lookup) (x : Table) (out : Bytes), h < 262144 ∧
      SMap.find? s.work.lookups h = some l ∧ s.working = true ∧ s.stride + 1 = l.admitAt + l.len ∧
      SMap.find? s.tables l.table = some x ∧ out = l.result x.dim ∧ s.dieWaits l.address out.length = false ∧
      s.ownsHbm x.context l.address out.length = true) ∧
    (∃ (h : Nat) (s : State) (l : Lookup) (x : Table), h < 262144 ∧ SMap.find? s.work.lookups h = some l ∧
      s.working = true ∧ s.stride + 1 = l.admitAt + l.len ∧ SMap.find? s.tables l.table = some x ∧
      s.dieWaits l.address (l.result x.dim).length = false ∧
      s.ownsHbm x.context l.address (l.result x.dim).length = false) :=
  ⟨⟨22, lookupEntry, sHbm, (State.drawn (sHbm)).toNat % 262144, ring0 3 512, 4, table0, fit 512 lookupEntry,
     by decide +kernel, rfl, by decide +kernel⟩,
    ⟨22, [], sHbm, (State.drawn (sHbm)).toNat % 262144, ring0 3 512, 4, fit 512 [], stBadLength, by decide +kernel,
     rfl, by decide +kernel⟩,
    ⟨lookupMessage 99, sObjects, sObjects, table0, 5, 8, _, rfl,
     by refine ⟨?_, ?_, ?_, ?_, ?_, ⟨?_, ?_, ?_, ?_, ?_, rfl⟩⟩ <;> decide +kernel⟩,
    ⟨lookupMessage 99, withTable (stepping table0 (step0 2 97 true)), withTable (stepping table0 (step0 2 97 true)),
     stepping table0 (step0 2 97 true), 5, 8, rfl, by decide +kernel⟩,
    ⟨lookupMessage 98, sObjects, sObjects, table0, 5, 8, rfl, by decide +kernel⟩,
    ⟨[], answer, withLookup (lookup0 99) sObjects, withLookup (lookup0 99) sObjects, 262143, lookup0 99, table0, rfl,
     by decide +kernel⟩,
    ⟨[], answer, withLookup (lookup0 98) sObjects, withLookup (lookup0 98) sObjects, 262143, lookup0 98, table0, rfl,
     by decide +kernel⟩,
    ⟨[], answer,
     withQuery { query0 90 with program := 3, featAwait := [0] } { sObjects with programs := [(programKey 5 3, { program0 with featTable := 9 })] },
     withQuery { query0 90 with program := 3, featAwait := [0] } { sObjects with programs := [(programKey 5 3, { program0 with featTable := 9 })] },
     262143, { query0 90 with program := 3, featAwait := [0] }, { program0 with featTable := 9 }, table0, rfl,
     by decide +kernel⟩,
    ⟨262143, withLookup (lookup0 93) sHbm, lookup0 93, table0, (lookup0 93).result 8, by decide +kernel⟩,
    ⟨262143, withLookup (lookup0 93) sObjects, lookup0 93, table0, by decide +kernel⟩⟩

/-- The hypotheses of `Obligations.StepsApplied`, clause by clause. -/
theorem witness_steps_applied :
    (∃ (ring : Nat) (b : Bytes) (tile : TileUse) (s : State) (r : Ring) (k : Nat) (e : Bytes) (st : Nat) (l : List Contribution), ring < 16384 ∧
      tile.tile < 96 ∧ s.unitUp 0x01 tile.tile = true ∧ s.ring? ring = some r ∧ r.kind = 4 ∧ s.mayAdmit r = true ∧
      s.ringClass ring r = some k ∧ e = fit r.slotSize b ∧ s.stepWaits r.context e = false ∧ r.eligible ≠ 0 ∧
      s.stepStatus r.context tile e = (st, l)) ∧
    (∃ (m : Bytes) (s : State) (w : State) (x : Table) (y : Machine.Step) (g : Segment), s.arrival 2 (le m 12 2 % 2 ^ 15) m = (true, w) ∧
      w.running = true ∧ SMap.find? w.tables (le m 0 4) = some x ∧ w.owns x = true ∧ g = parseSegment x.dim m ∧
      x.step? g.step = some y ∧ y.stage = 0 ∧ w.stride ≤ y.admitAt + 1) ∧
    (∃ (m : Bytes) (s : State) (w : State) (x : Table) (g : Segment) (k : Nat) (len : Nat), s.arrival 2 (le m 12 2 % 2 ^ 15) m = (true, w) ∧
      w.running = true ∧ SMap.find? w.tables (le m 0 4) = some x ∧ w.owns x = true ∧ g = parseSegment x.dim m ∧
      x.step? g.step = none ∧ w.serveClass x.context 4 (!w.isNear && w.isFenced w.partner) = some (k, len) ∧
      w.classRoom k = true) ∧
    (∃ (m : Bytes) (s : State) (w : State) (x : Table), s.arrival 2 (le m 12 2 % 2 ^ 15) m = (true, w) ∧
      w.running = true ∧ SMap.find? w.tables (le m 0 4) = some x ∧ w.owns x = false) ∧
    (∃ (id : Nat) (tile : TileUse) (s : State) (x : Table) (y : Machine.Step), id < 2 ^ 32 ∧ tile.tile < 96 ∧
      SMap.find? s.tables id = some x ∧ s.working = true ∧ s.unitUp 0x01 tile.tile = true ∧ tile.lost = false ∧
      x.stepAt (some true) 0 1 s.stride = some y ∧ x.committed < y.num ∧ y.void = none ∧ x.voids y s.stride = none) ∧
    (∃ (id : Nat) (tile : TileUse) (s : State) (x : Table) (y : Machine.Step) (v : Nat), id < 2 ^ 32 ∧
      tile.tile < 96 ∧ SMap.find? s.tables id = some x ∧ s.working = true ∧ s.unitUp 0x01 tile.tile = true ∧
      x.stepAt (some true) 0 1 s.stride = some y ∧ x.committed < y.num ∧ y.void = none ∧
      (x.voids y s.stride = some v ∨ (x.voids y s.stride = none ∧ tile.lost = true ∧ v = stPoisoned))) ∧
    (∃ (id : Nat) (tile : TileUse) (s : State) (x : Table) (u : Machine.Step), id < 2 ^ 32 ∧ tile.tile < 96 ∧
      SMap.find? s.tables id = some x ∧ s.working = true ∧ s.unitUp 0x01 tile.tile = true ∧
      x.stepAt (some true) 0 1 s.stride = none ∧ s.absentStep id x = some u) ∧
    (∃ (id : Nat) (tile : TileUse) (s : State) (x : Table) (y : Machine.Step), id < 2 ^ 32 ∧ tile.tile < 96 ∧
      SMap.find? s.tables id = some x ∧ s.working = true ∧ s.unitUp 0x01 tile.tile = true ∧
      x.stepAt (some true) 1 2 s.stride = some y) ∧
    (∃ (m : Bytes) (tile : TileUse) (s : State) (p : State) (x : Table), tile.tile < 96 ∧
      s.arrival 1 s.partner m = (true, p) ∧ p.running = true ∧ p.isFenced p.partner = false ∧
      p.unitUp 0x01 tile.tile = true ∧ le m 0 4 = markStep ∧ SMap.find? p.tables (le m 4 4) = some x ∧
      x.step? (le m 8 8) = none) ∧
    (∃ (m : Bytes) (tile : TileUse) (s : State) (p : State) (x : Table) (y : Machine.Step), tile.tile < 96 ∧
      s.arrival 1 s.partner m = (true, p) ∧ p.running = true ∧ p.isFenced p.partner = false ∧
      le m 0 4 = markStepAck ∧ SMap.find? p.tables (le m 4 4) = some x ∧ x.step? (le m 8 8) = some y ∧
      y.owner = true ∧ y.stage = 2 ∧ y.admitAt + 2 = p.stride) ∧
    (∃ (m : Bytes) (tile : TileUse) (s : State) (p : State) (x : Table) (y : Machine.Step), tile.tile < 96 ∧
      s.arrival 1 s.partner m = (true, p) ∧ p.running = true ∧ p.isFenced p.partner = false ∧
      le m 0 4 = markStepConfirm ∧ SMap.find? p.tables (le m 4 4) = some x ∧ x.step? (le m 8 8) = some y ∧
      y.owner = false ∧ y.stage = 2 ∧ y.admitAt + 2 = p.stride) ∧
    (∃ (m : Bytes) (tile : TileUse) (s : State) (p : State), tile.tile < 96 ∧ s.arrival 1 s.partner m = (true, p) ∧
      SMap.find? p.tables (le m 4 4) = none) ∧
    (∃ (id : Nat) (bad : List Nat) (s : State) (x : Table) (y : Machine.Step) (p : Table × Machine.Step), id < 2 ^ 32 ∧
      SMap.find? s.tables id = some x ∧ s.working = true ∧ x.stepAt none 2 3 s.stride = some y ∧ y.void = none ∧
      x.folding = false ∧ (y.held = true ∨ s.isFenced s.partner = true) ∧
      p = y.merged.foldl (applyRow y.num s.stride (if y.spoiled then y.merged.map (·.row) else bad)) (x, { y with void := none, held := true, stage := 3, applied := true })) ∧
    (∃ (id : Nat) (s : State) (x : Table) (y : Machine.Step), id < 2 ^ 32 ∧ SMap.find? s.tables id = some x ∧
      s.working = true ∧ x.stepAt none 2 3 s.stride = some y ∧
      (y.void ≠ none ∨ x.folding = true ∨ (y.held = false ∧ s.isFenced s.partner = false)) ∧ y.applied = false) :=
  ⟨⟨23, fields [(0, 4), (9, 4), (1, 8), (0, 48)], tile0, sObjects, ring0 4 64, 6,
     fit 64 (fields [(0, 4), (9, 4), (1, 8), (0, 48)]), stOk, [], by decide +kernel⟩,
    ⟨fields [(9, 4), (1, 8), (2, 2), (0, 50)], withTable (stepping table0 (step0 0 99 true)),
     withTable (stepping table0 (step0 0 99 true)), stepping table0 (step0 0 99 true), step0 0 99 true,
     parseSegment 8 (fields [(9, 4), (1, 8), (2, 2), (0, 50)]), rfl, by decide +kernel⟩,
    ⟨fields [(9, 4), (1, 8), (2, 2), (0, 50)], sObjects, sObjects, table0,
     parseSegment 8 (fields [(9, 4), (1, 8), (2, 2), (0, 50)]), 7, 8, rfl, by decide +kernel⟩,
    ⟨fields [(9, 4), (1, 8), (2, 2), (0, 50)], withTable { table0 with map := [2] },
     withTable { table0 with map := [2] }, { table0 with map := [2] }, rfl, by decide +kernel⟩,
    ⟨9, tile0, withTable (stepping table0 (step0 0 99 true)), stepping table0 (step0 0 99 true), step0 0 99 true,
     by decide +kernel⟩,
    ⟨9, tile0, withTable { table0 with steps := [step0 0 99 true] }, { table0 with steps := [step0 0 99 true] },
     step0 0 99 true, stOk, by decide +kernel⟩,
    ⟨9, tile0, sObjects, table0, newStep 1 99 true, by decide +kernel⟩,
    ⟨9, tile0, withTable (stepping table0 (step0 1 98 true)), stepping table0 (step0 1 98 true), step0 1 98 true,
     by decide +kernel⟩,
    ⟨fields [(4, 4), (9, 4), (1, 8), (0, 48)], tile0, sObjects, sObjects, table0, by decide +kernel, rfl,
     by decide +kernel⟩,
    ⟨fields [(5, 4), (9, 4), (1, 8), (0, 48)], tile0, withTable (stepping table0 (step0 2 98 true)),
     withTable (stepping table0 (step0 2 98 true)), stepping table0 (step0 2 98 true), step0 2 98 true,
     by decide +kernel, rfl, by decide +kernel⟩,
    ⟨fields [(6, 4), (9, 4), (1, 8), (0, 48)], tile0, withTable (stepping table0 (step0 2 98 false)),
     withTable (stepping table0 (step0 2 98 false)), stepping table0 (step0 2 98 false), step0 2 98 false,
     by decide +kernel, rfl, by decide +kernel⟩,
    ⟨fields [(4, 4), (9, 4), (1, 8), (0, 48)], tile0, sNode, sNode, by decide +kernel, rfl, by decide +kernel⟩,
    ⟨9, [], withTable (stepping table0 { step0 2 97 true with held := true }),
     stepping table0 { step0 2 97 true with held := true }, { step0 2 97 true with held := true }, _,
     by refine ⟨?_, ?_, ?_, ?_, ?_, ⟨?_, ?_, rfl⟩⟩ <;> decide +kernel⟩,
    ⟨9, withTable (stepping table0 { step0 2 97 true with void := some 0 }),
     stepping table0 { step0 2 97 true with void := some 0 }, { step0 2 97 true with void := some 0 },
     by decide +kernel⟩⟩

/-- The hypotheses of `Obligations.StepsClosed`, clause by clause. -/
theorem witness_steps_closed :
    (∃ (id : Nat) (n : Nat) (l : List Nat) (s : State) (x : Table) (y : Machine.Step), id < 2 ^ 32 ∧
      SMap.find? s.tables id = some x ∧ x.step? n = some y ∧ s.running = true ∧ y.stage = 3 ∧ y.exchanged = false ∧
      s.stride = y.admitAt + 3 ∧ (∀ r ∈ y.poisoned, r ∈ l)) ∧
    (∃ (id : Nat) (s : State) (x : Table) (y : Machine.Step), id < 2 ^ 32 ∧ SMap.find? s.tables id = some x ∧
      s.running = true ∧ s.clk.window = 2 ∧
      x.steps.find? (fun u => u.stage = 3 && !u.exchanged && u.admitAt + 3 = s.stride) = some y) ∧
    (∃ (m : Bytes) (s : State) (w : State) (y : StepEntry) (o : Nat), s.arrival 2 (le m 28 2 % 2 ^ 15) m = (true, w) ∧
      w.running = true ∧ o = le m 28 2 ∧
      w.work.steps.find? (fun u => u.table = le m 0 4 && u.num = le m 4 8 && u.admitAt + 3 = w.stride) = some y ∧
      y.owners = [o] ∧ y.notices = []) ∧
    (∃ (m : Bytes) (s : State) (w : State) (y : StepEntry) (o : Nat) (p : Nat), s.arrival 2 (le m 28 2 % 2 ^ 15) m = (true, w) ∧
      w.running = true ∧ o = le m 28 2 ∧
      w.work.steps.find? (fun u => u.table = le m 0 4 && u.num = le m 4 8 && u.admitAt + 3 = w.stride) = some y ∧
      o ∈ y.owners ∧ p ∈ y.owners ∧ p ≠ o ∧ (∀ n ∈ y.notices, n.1 ≠ o ∧ n.1 ≠ p)) ∧
    (∃ (m : Bytes) (s : State) (w : State), s.arrival 2 (le m 28 2 % 2 ^ 15) m = (true, w) ∧
      w.work.steps.find? (fun u => u.table = le m 0 4 && u.num = le m 4 8 && u.admitAt + 3 = w.stride) = none) ∧
    (∃ (id : Nat) (s : State) (y : StepEntry), id < 2 ^ 32 ∧ s.running = true ∧ s.clk.window = 2 ∧
      s.work.steps.filter (fun u => u.table = id && u.admitAt + 3 = s.stride) = [y]) ∧
    (∃ (s : State) (y : StepEntry) (r : Ring), s.ring? y.ring = some r ∧ r.lost = false) ∧
    (∃ (id : Nat) (row : Nat) (s : State) (x : Table) (y : Machine.Step), id < 2 ^ 32 ∧
      SMap.find? s.tables id = some x ∧ s.working = true ∧
      x.steps.find? (fun u => u.admitAt + 4 = s.stride && (u.poisoned.contains row != u.peerPoisoned.contains row)) = some y ∧
      row ∈ y.poisoned) ∧
    (∃ (id : Nat) (row : Nat) (s : State) (x : Table) (y : Machine.Step) (r : TableRow) (d : Nat), id < 2 ^ 32 ∧
      SMap.find? s.tables id = some x ∧ s.working = true ∧
      x.steps.find? (fun u => u.admitAt + 4 = s.stride && (u.poisoned.contains row != u.peerPoisoned.contains row)) = some y ∧
      row ∉ y.poisoned ∧ x.liveRow row = some r ∧ s.gaitNow.1.freeClassOf x.context 7 = some d ∧ s.classRoom d = true) :=
  ⟨⟨9, 1, [1], withTable (stepping table0 { step0 3 97 true with poisoned := [1] }),
     stepping table0 { step0 3 97 true with poisoned := [1] }, { step0 3 97 true with poisoned := [1] },
     by decide +kernel⟩,
    ⟨9, late (withTable (stepping table0 (step0 3 97 true))), stepping table0 (step0 3 97 true), step0 3 97 true,
     by decide +kernel⟩,
    ⟨fields [(9, 4), (1, 8), (0, 16), (2, 2), (0, 34)], withStep [2] sObjects, withStep [2] sObjects, stepEntry0 [2],
     2, rfl, by decide +kernel⟩,
    ⟨fields [(9, 4), (1, 8), (0, 16), (2, 2), (0, 34)], withStep [2, 4] sObjects, withStep [2, 4] sObjects,
     stepEntry0 [2, 4], 2, 4, rfl, by decide +kernel⟩,
    ⟨fields [(9, 4), (1, 8), (0, 16), (2, 2), (0, 34)], sObjects, sObjects, rfl, by decide +kernel⟩,
    ⟨9, late (withStep [2] sObjects), stepEntry0 [2], by decide +kernel⟩,
    ⟨sObjects, stepEntry0 [2], ring0 4 64, by decide +kernel⟩,
    ⟨9, 1, withTable (stepping table0 { step0 4 96 true with poisoned := [1] }),
     stepping table0 { step0 4 96 true with poisoned := [1] }, { step0 4 96 true with poisoned := [1] },
     by decide +kernel⟩,
    ⟨9, 1, withTable (stepping table0 { step0 4 96 true with peerPoisoned := [1] }),
     stepping table0 { step0 4 96 true with peerPoisoned := [1] }, { step0 4 96 true with peerPoisoned := [1] },
     trow0 1, 10, by decide +kernel⟩⟩

end Sys2Proof.Tests
end

section
/-! SUPPORT. The statements of the node overview: every command's guard, the commands that write HBM, the publication of the
telemetry mirror, and what reset leaves. -/

namespace Sys2Proof.Machine

/-! ## A command is its guarded effect (R10, R339, R341) -/

/-- A guarded effect whose guard holds runs. -/
theorem guarded_true (eff : State → State) (s : State) : guarded true eff s = .next (eff s) := rfl

/-- A guarded effect whose guard does not hold stops. -/
theorem guarded_false (eff : State → State) (s : State) : guarded false eff s = .fault .noSuchUnit := rfl

/-- The bytes of BAR0 and BAR4, the two that register writes reach. -/
theorem barSize_of_register {bar : Nat} (h : bar = 0 ∨ bar = 4) : barSize bar = if bar = 0 then 2 ^ 21 else 8192 := by
  rcases h with rfl | rfl <;> rfl

/-- The codes of R434 listed, and the same codes by range. -/
theorem domainCodes_contains (d : Nat) : domainCodes.contains d = isDomain d := by
  rw [Bool.eq_iff_iff]
  simp only [domainCodes, List.contains_eq_mem, List.mem_cons, List.not_mem_nil, or_false, isDomain, Bool.or_eq_true,
    Bool.and_eq_true, decide_eq_true_eq, beq_iff_eq]
  omega

/-- A command runs one effect, whatever the state, behind the guard that its operands name units of the node. -/
theorem exec_eq_guarded (c : Instr) : ∃ eff : State → State, ∀ s, exec c s = guarded (WellFormed c) eff s := by
  cases c
  case registerWrite f bar offset size value reassert =>
    refine ⟨registerWriteEff f bar offset size value reassert, fun s => congrArg (guarded · _ s) ?_⟩
    have hlen : ∀ p : Prop, ((bar = 0 ∨ bar = 4) ∧ offset < barSize bar ∧ p) ↔
        ((bar = 0 ∨ bar = 4) ∧ offset < (if bar = 0 then 2 ^ 21 else 8192) ∧ p) :=
      fun p => and_congr_right fun hbar => by rw [barSize_of_register hbar]
    exact congrArg (isFunc f && ·) (decide_eq_decide.2 (hlen _))
  case farrierSweep report =>
    exact ⟨farrierSweepEff report, fun s => congrArg (guarded · _ s) (domainCodes_contains report.domain)⟩
  all_goals exact ⟨_, fun _ => rfl⟩

/-- Settles O2: the guard decides alone. -/
theorem everyCommandCompletes : Obligations.EveryCommandCompletes := by
  refine ⟨fun c s hc => ?_, fun c s hc => ?_⟩ <;> obtain ⟨eff, heff⟩ := exec_eq_guarded c
  · exact ⟨eff s, by rw [heff, hc, guarded_true]⟩
  · rw [heff, hc, guarded_false]

/-! ## The commands that write HBM -/

/-- A command whose effect leaves the bytes of HBM leaves them where it runs. -/
theorem guarded_bytes {ok : Bool} {eff : State → State} {s t : State} (h : guarded ok eff s = .next t)
    (heff : (eff s).mem.bytes = s.mem.bytes) : t.mem.bytes = s.mem.bytes := by
  rw [(guarded_next.1 h).2, heff]

/-- DEVICE_CAPABILITIES reports and writes no HBM. -/
@[simp] theorem serveCapabilities_bytes (f : Nat) (s : State) :
    (s.serve f 0x0102 fun s _ => report s capabilities).mem.bytes = s.mem.bytes :=
  State.serve_bytes fun t _ => by simp

/-- A stride mark leaves HBM also where it arrives ahead of cycle 0 of its stride. -/
@[simp] theorem strideMarkReceiveEff_bytes_int (p stride sendOffset : Nat) (arrival : Int) (s : State) :
    (strideMarkReceiveEff p stride sendOffset arrival s).mem.bytes = s.mem.bytes := by
  unfold strideMarkReceiveEff
  simp

/-- Settles O7: of every command but those named, the effect leaves the bytes of HBM, by its own lemma in Laws/Memory. -/
theorem hbmWritersNamed : Obligations.HbmWritersNamed := by
  intro c s t h hboundary hpooling hstorage hburst hfabric hrest
  cases c
  case strideBoundary w => exact absurd rfl (hboundary w)
  case lookupPooling handle => exact absurd rfl (hpooling handle)
  case storageRead b l a => exact absurd rfl (hstorage b l a)
  case burstEnd u => exact absurd rfl (hburst u)
  case memoryOperation p k r => exact absurd rfl (hfabric p k r)
  case granuleScrub | powerRemoval | undervoltage | resetNAssert | powerFailFlushEnd | remountRestart => simp at hrest
  all_goals
    simp only [exec] at h
    exact guarded_bytes h (by simp)

/-! ## The telemetry mirror (R19, R21, R26) -/

/-- The clock, which bank is published, its stamp, and banks A and B. -/
def State.mirrorView (s : State) : Clock × Bool × Nat × Snapshot × Snapshot :=
  (s.clk, s.tel.publishedB, s.tel.stamp, s.tel.bankA, s.tel.bankB)

/-- What touches neither the clock nor the telemetry leaves the mirror. -/
theorem mirrorView_of_eq {s t : State} (hclk : t.clk = s.clk) (htel : t.tel = s.tel) : t.mirrorView = s.mirrorView := by
  simp only [State.mirrorView, hclk, htel]

@[simp] theorem ite_mirrorView {c : Prop} [Decidable c] (s t : State) :
    (if c then s else t).mirrorView = if c then s.mirrorView else t.mirrorView := apply_ite State.mirrorView c s t

theorem foldl_mirrorView {α : Type} {f : State → α → State} (h : ∀ s a, (f s a).mirrorView = s.mirrorView) (l : List α)
    (s : State) : (l.foldl f s).mirrorView = s.mirrorView := foldl_keeps State.mirrorView h l s

@[simp] theorem State.modFunc_mirrorView (s : State) (f : Nat) (g : FuncRegs → FuncRegs) :
    (s.modFunc f g).mirrorView = s.mirrorView := mirrorView_of_eq (by simp) (by simp)

@[simp] theorem State.vector_mirrorView (s : State) (f v : Nat) : (s.vector f v).mirrorView = s.mirrorView :=
  mirrorView_of_eq (by simp) (by simp)

@[simp] theorem State.cause_mirrorView (s : State) (f bit : Nat) : (s.cause f bit).mirrorView = s.mirrorView :=
  mirrorView_of_eq (by simp) (by simp)

@[simp] theorem State.pfCause_mirrorView (s : State) (bit : Nat) : (s.pfCause bit).mirrorView = s.mirrorView :=
  foldl_mirrorView (fun t f => t.cause_mirrorView f bit) _ s

@[simp] theorem State.noteNode_mirrorView (s : State) (opcode status stamp : Nat) (payload : Bytes) :
    (s.noteNode opcode status stamp payload).mirrorView = s.mirrorView :=
  foldl_mirrorView (fun _ _ => mirrorView_of_eq (by simp) (by simp)) _ s

@[simp] theorem State.pldm_mirrorView (s : State) (kind subject stride : Nat) :
    (s.pldm kind subject stride).mirrorView = s.mirrorView := mirrorView_of_eq (by simp) (by simp)

@[simp] theorem State.modRing_mirrorView (s : State) (id : Nat) (g : Ring → Ring) :
    (s.modRing id g).mirrorView = s.mirrorView := mirrorView_of_eq (by simp) (by simp)

@[simp] theorem State.modQueue_mirrorView (s : State) (id : Nat) (g : Ring → Ring) :
    (s.modQueue id g).mirrorView = s.mirrorView := mirrorView_of_eq (by simp) (by simp)

/-- Counting for a context changes no bank. -/
@[simp] theorem State.ctxCount_mirrorView (s : State) (context : Nat) (g : ContextCounters → ContextCounters) :
    (s.ctxCount context g).mirrorView = s.mirrorView := rfl

@[simp] theorem State.happened_mirrorView (s : State) (e : Event) (status : Nat) (stamp : Option Nat) (payload : Bytes) :
    (s.happened e status stamp payload).mirrorView = s.mirrorView :=
  foldl_mirrorView (fun _ _ => mirrorView_of_eq (by simp) (by simp)) _ _

@[simp] theorem State.putCompletions_mirrorView (s : State) (r : Ring) (i : Nat) (l : List (Nat × Nat × Nat × Bytes)) :
    (s.putCompletions r i l).mirrorView = s.mirrorView := by
  induction l generalizing s i with
  | nil => rfl
  | cons x l ih => exact (ih ..).trans (mirrorView_of_eq (by simp) (by simp))

theorem State.place_mirrorView {store : State → (Ring → Ring) → State} (h : ∀ t g, (store t g).mirrorView = t.mirrorView)
    (s : State) (n : Nat) (r : Ring) : (s.place n r store).mirrorView = s.mirrorView := by
  unfold State.place
  simp only []
  split
  · rfl
  · rw [h, State.putCompletions_mirrorView]

@[simp] theorem State.placeAll_mirrorView (s : State) (n : Nat) : (s.placeAll n).mirrorView = s.mirrorView := by
  unfold State.placeAll
  simp only []
  rw [foldl_mirrorView fun t _ => State.place_mirrorView (by simp) t ..,
    foldl_mirrorView fun t _ => State.place_mirrorView (by simp) t ..]

theorem State.publish_mirrorView {store : State → (Ring → Ring) → State} (h : ∀ t g, (store t g).mirrorView = t.mirrorView)
    (s : State) (r : Ring) : (s.publish r store).mirrorView = s.mirrorView := by
  unfold State.publish
  simp only []
  split
  · rfl
  · rw [State.ctxCount_mirrorView, h]

@[simp] theorem State.ringDrained_mirrorView (s : State) (id : Nat) : (s.ringDrained id).mirrorView = s.mirrorView := by
  unfold State.ringDrained
  (repeat' split) <;> simp

@[simp] theorem State.sendVectors_mirrorView (s : State) (l : List (Nat × Nat)) :
    (s.sendVectors l).mirrorView = s.mirrorView := foldl_mirrorView (fun _ _ => by simp) l s

/-- The completions that are published with the mirror leave it. -/
@[simp] theorem State.publishAll_mirrorView (s : State) : s.publishAll.mirrorView = s.mirrorView := by
  unfold State.publishAll
  simp only []
  rw [foldl_mirrorView State.ringDrained_mirrorView, State.sendVectors_mirrorView,
    foldl_mirrorView fun t _ => State.publish_mirrorView (by simp) t _,
    foldl_mirrorView fun t _ => State.publish_mirrorView (by simp) t _, State.placeAll_mirrorView]

/-- In the commit window of a joined node that runs, the bank just written is published and the work window begins. -/
theorem mirrorPublicationEff_mirrorView {s : State} (hwindow : s.clk.window = 0) (hcode : s.clk.code ≠ 0)
    (hjoined : s.node.joined = true) (hstopped : s.node.stopped = false) :
    (mirrorPublicationEff s).mirrorView = ({ s.clk with window := 1 }, !s.tel.publishedB,
      if s.tel.publishedB then s.tel.bankA.first else s.tel.bankB.first, s.tel.bankA, s.tel.bankB) := by
  unfold mirrorPublicationEff
  rw [if_neg (by simp [hwindow, hcode, hjoined, hstopped])]
  extract_lets x clk tel s1 s2 s3 s4 s5
  have hshown : s1.mirrorView = ({ s.clk with window := 1 }, !s.tel.publishedB,
      if s.tel.publishedB then s.tel.bankA.first else s.tel.bankB.first, s.tel.bankA, s.tel.bankB) := by
    simp only [State.mirrorView, s1, clk, tel, x, apply_ite Snapshot.first]
  have hmirror : s2.mirrorView = s1.mirrorView := foldl_mirrorView (fun t f => t.cause_mirrorView f _) _ s1
  have hcauses : s4.mirrorView = s2.mirrorView := by simp [s4, s3]
  have hreadOnly : s5.mirrorView = s4.mirrorView := by
    dsimp only [s5]
    split <;> simp
  rw [← hshown, ← hmirror, ← hcauses, ← hreadOnly]
  simp

/-- Settles O47: causes, notices and completions leave what the publication has shown. -/
theorem mirrorPublished : Obligations.MirrorPublished := by
  intro s hwindow hcode hjoined hstopped
  have h := mirrorPublicationEff_mirrorView hwindow hcode hjoined hstopped
  simp only [State.mirrorView, Prod.mk.injEq] at h
  obtain ⟨hclk, hpublished, hstamp, hA, hB⟩ := h
  exact ⟨_, rfl, hclk, hpublished, hA, hB, hstamp⟩

/-! ## Reset (R24, R183, R345, R346, R363) -/

/-- Settles O4: reset lists no byte. -/
theorem memoryCanonicalAtReset : Obligations.MemoryCanonicalAtReset := ⟨rfl, fun _ => rfl⟩

/-- At reset every function's registers are those of a function at reset. -/
theorem reset_func (f : Nat) : State.reset.func f = FuncRegs.reset := rfl

/-- At reset every mailbox is one at reset. -/
theorem reset_mailbox (f : Nat) : State.reset.mailbox f = Mailbox.reset := rfl

/-- Settles O9, field by field. -/
theorem resetState : Obligations.ResetState := by
  refine ⟨rfl, rfl, rfl, rfl, rfl, rfl, rfl, rfl, rfl, fun f => ?_, fun f => ?_, rfl, rfl, rfl, rfl, rfl, rfl, rfl, rfl, rfl⟩
  · rw [reset_func]
    exact ⟨rfl, rfl, rfl, rfl⟩
  · rw [reset_mailbox]
    exact ⟨rfl, rfl, rfl, rfl⟩

end Sys2Proof.Machine
end

section
/-! SUPPORT. The statements of the stride and the gait: what moves the stride counter, and what the gait requests do on their
accepted paths. -/

namespace Sys2Proof.Machine

/-! ## The stride counter (R25, R418, R420) -/

/-- A command whose effect leaves the stride counter leaves it where it runs. -/
theorem guarded_stride {ok : Bool} {eff : State → State} {s t : State} (h : guarded ok eff s = .next t)
    (heff : (eff s).clk.stride = s.clk.stride) : t.clk.stride = s.clk.stride := by
  rw [(guarded_next.1 h).2, heff]

/-- A command whose effect leaves the stride counter or clears it does so where it runs. -/
theorem guarded_stride_cleared {ok : Bool} {eff : State → State} {s t : State} (h : guarded ok eff s = .next t)
    (heff : (eff s).clk.stride = s.clk.stride ∨ (eff s).clk.stride = 0) :
    t.clk.stride = s.clk.stride ∨ t.clk.stride = 0 := by
  rw [(guarded_next.1 h).2]
  exact heff

/-- DEVICE_CAPABILITIES reports and leaves the stride counter. -/
@[simp] theorem serveCapabilities_stride (f : Nat) (s : State) :
    (s.serve f 0x0102 fun s _ => report s capabilities).clk.stride = s.clk.stride :=
  State.serve_stride fun t _ => by simp

/-- A stride mark leaves the stride counter also where it arrives ahead of cycle 0 of its stride. -/
@[simp] theorem strideMarkReceiveEff_stride_int (p stride sendOffset : Nat) (arrival : Int) (s : State) :
    (strideMarkReceiveEff p stride sendOffset arrival s).clk.stride = s.clk.stride := by
  unfold strideMarkReceiveEff
  simp

/-- Cycle 0 counts one stride. -/
@[simp] theorem State.advance_stride (s : State) : s.advance.clk.stride = s.clk.stride + 1 := rfl

/-- The loss of the rails clears the stride counter. -/
@[simp] theorem State.wiped_stride (s : State) (retained : Bool) : (s.wiped retained).clk.stride = 0 := rfl

/-- A boundary of a node that has a stride clock counts one stride. -/
theorem strideBoundaryEff_stride {s : State} (overrun : List Nat)
    (hclock : ¬(s.clk.code = 0 ∨ !s.node.joinClosed ∨ s.node.stopped ∨ 5 ≤ s.node.st)) :
    (strideBoundaryEff overrun s).clk.stride = s.clk.stride + 1 := by
  unfold strideBoundaryEff
  rw [if_neg hclock]
  extract_lets s1 s2 s3 s4 s5 s6
  have h1 : s1.clk.stride = s.clk.stride := by simp [s1]
  have h2 : s2.clk.stride = s1.clk.stride := by simp [s2]
  have h3 : s3.clk.stride = s2.clk.stride + 1 := by simp [s3]
  have h4 : s4.clk.stride = s3.clk.stride := by simp [s4]
  have h5 : s5.clk.stride = s4.clk.stride := by simp [s5]
  have h6 : s6.clk.stride = s5.clk.stride := by simp [s6]
  simp [h6, h5, h4, h3, h2, h1]

/-- A boundary of a node without a stride clock does nothing. -/
theorem strideBoundaryEff_unclocked {s : State} (overrun : List Nat)
    (h : s.clk.code = 0 ∨ !s.node.joinClosed ∨ s.node.stopped ∨ 5 ≤ s.node.st) : strideBoundaryEff overrun s = s :=
  if_pos h

/-- RESET_N clears the stride counter, unless a flush holds it off. -/
theorem resetNAssertEff_stride (s : State) :
    (resetNAssertEff s).clk.stride = s.clk.stride ∨ (resetNAssertEff s).clk.stride = 0 := by
  unfold resetNAssertEff
  cases s.node.flushing
  case false => exact .inr rfl
  case true => exact .inl rfl

/-- The end of a flush clears the stride counter where a reset waited for it. -/
theorem powerFailFlushEndEff_stride (s : State) :
    (powerFailFlushEndEff s).clk.stride = s.clk.stride ∨ (powerFailFlushEndEff s).clk.stride = 0 := by
  unfold powerFailFlushEndEff
  cases s.node.flushing
  case false => exact .inl rfl
  case true =>
    cases s.node.resetHeld
    case false => exact .inl rfl
    case true => exact .inr (by simp)

/-- A remount's restart clears the stride counter, once the checkpoint stands. -/
theorem remountRestartEff_stride (s : State) :
    (remountRestartEff s).clk.stride = s.clk.stride ∨ (remountRestartEff s).clk.stride = 0 := by
  unfold remountRestartEff
  split
  · exact .inl rfl
  · exact .inr (by simp)

/-- Settles O6: the boundary counts where the node has a stride clock; of every command but those named, the effect leaves
the counter, by its own lemma in Laws/Stride. -/
theorem strideCounterForward : Obligations.StrideCounterForward := by
  refine ⟨fun w s t h => ?_, fun c s t h hrest hboundary hclose => ?_, fun c s t h hc => ?_⟩
  · simp only [exec] at h
    obtain ⟨-, rfl⟩ := guarded_next.1 h
    by_cases hclock : s.clk.code = 0 ∨ !s.node.joinClosed ∨ s.node.stopped ∨ 5 ≤ s.node.st
    · exact .inl (by rw [strideBoundaryEff_unclocked w hclock])
    · exact .inr (strideBoundaryEff_stride w hclock)
  · cases c
    case strideBoundary w => exact absurd rfl (hboundary w)
    case joinCloseReceive k => exact absurd rfl (hclose k)
    case joinClose | joinCloseTimeout | rootSilentTimeout | powerRemoval | undervoltage | resetNAssert | powerFailFlushEnd |
      remountRestart => simp at hrest
    all_goals
      simp only [exec] at h
      exact guarded_stride h (by simp)
  · simp only [List.mem_cons, List.not_mem_nil, or_false] at hc
    rcases hc with rfl | rfl | rfl | rfl | rfl <;> simp only [exec] at h
    · exact guarded_stride_cleared h (.inr rfl)
    · refine guarded_stride_cleared h ?_
      split
      · exact .inr rfl
      · exact .inl rfl
    · exact guarded_stride_cleared h (resetNAssertEff_stride s)
    · exact guarded_stride_cleared h (powerFailFlushEndEff_stride s)
    · exact guarded_stride_cleared h (remountRestartEff_stride s)

/-! ## Gait requests (R50, R51, R53) -/

/-- A command whose function the node has ends in its effect's state. -/
theorem guarded_funcOk {f : Nat} {eff : State → State} {s t : State} (hf : f < 64) (heff : eff s = t) :
    guarded (funcOk f) eff s = .next t := by
  rw [show funcOk f = true from decide_eq_true hf, guarded_true, heff]

/-- An opcode's processing that answers leaves its request settled. -/
theorem State.serve_settled {f op : Nat} {act : State → Request → State × Option (Nat × Nat × Bytes)} {s t : State}
    {q : Request} {status stamp : Nat} {payload : Bytes} (hq : s.headRequest f op = some q)
    (ha : act (s.popRequest f) q = (t, some (status, stamp, payload))) :
    s.serve f op act = settled f t q status stamp payload := State.serve_answer hq ha

/-! The request's leaving its mailbox touches nothing that the gait checks read. -/

@[simp] theorem State.popRequest_slot (s : State) (f n : Nat) : (s.popRequest f).slot n = s.slot n := rfl

@[simp] theorem State.popRequest_strideNow (s : State) (f : Nat) : (s.popRequest f).stride = s.stride := rfl

@[simp] theorem State.popRequest_gaitSlotCheck (s : State) (f : Nat) (load : Bool) (slot address : Nat) :
    (s.popRequest f).gaitSlotCheck load slot address = s.gaitSlotCheck load slot address := rfl

@[simp] theorem State.popRequest_girthSteps (s : State) (f : Nat) (g : Gait) :
    (s.popRequest f).girthSteps g = s.girthSteps g := rfl

@[simp] theorem State.popRequest_girthCheck (s : State) (f : Nat) (b : Bytes) (length : Nat) (id? : Option Nat) :
    (s.popRequest f).girthCheck b length id? = s.girthCheck b length id? := rfl

@[simp] theorem State.popRequest_transitionCheck (s : State) (f : Nat) (a : Gait) (origin : Nat) (b : Gait) (e : Nat) :
    (s.popRequest f).transitionCheck a origin b e = s.transitionCheck a origin b e := rfl

@[simp] theorem State.popRequest_stagedSlots (s : State) (f : Nat) : (s.popRequest f).stagedSlots = s.stagedSlots := rfl

@[simp] theorem State.popRequest_gaitBefore (s : State) (f : Nat) : (s.popRequest f).gaitBefore = s.gaitBefore := rfl

@[simp] theorem State.popRequest_uncovers (s : State) (f : Nat) (g : Gait) : (s.popRequest f).uncovers g =
    s.uncovers g := rfl

/-! ### GAIT_CHECK and GAIT_LOAD -/

/-- GAIT_CHECK takes slot 0 and an aligned address, whatever the slots hold. -/
theorem State.gaitSlotCheck_check (s : State) {slot address : Nat} (hslot : slot = 0) (haddress : address % 64 = 0) :
    s.gaitSlotCheck false slot address = stOk := by
  simp [State.gaitSlotCheck, hslot, haddress]

/-- GAIT_LOAD takes an upper slot that holds no staged gait, and an aligned address. -/
theorem State.gaitSlotCheck_load {s : State} {slot address : Nat} (h1 : 1 ≤ slot) (h3 : slot ≤ 3)
    (hunstaged : (s.slot slot).st ≠ 2) (haddress : address % 64 = 0) : s.gaitSlotCheck true slot address = stOk := by
  simp [State.gaitSlotCheck, Nat.one_le_iff_ne_zero.1 h1, Nat.not_lt.2 h3, hunstaged, haddress]

/-- An image that passes the checks is reported, and put into its slot by GAIT_LOAD alone. -/
theorem gaitImageEff_fits {load : Bool} {opcode f : Nat} {image : Bytes} {s : State} {q : Request}
    (hdma : s.dmaOk f = true) (hq : s.headRequest f opcode = some q)
    (hslot : s.gaitSlotCheck load (q.field 0 1) (q.field 8 8) = stOk)
    (hgirth : (s.girthCheck (image.take (q.field 4 4)) (q.field 4 4) (some (q.field 16 8))).1 = stOk) :
    gaitImageEff load opcode f image s = settled f
      (if load then
        (s.popRequest f).setSlot (q.field 0 1)
          { st := 1, gait := some (parseGait (image.take (q.field 4 4))), stride := 0,
            isolated := (parseGait (image.take (q.field 4 4))).isolatedContexts }
      else s.popRequest f)
      q stOk unstamped (gaitReply (some (parseGait (image.take (q.field 4 4)))) (zeros 32)) := by
  unfold gaitImageEff
  rw [if_neg (by simp [hdma])]
  exact State.serve_settled hq (by simp [hslot, hgirth, report])

/-! ### GAIT_STAGE -/

/-- A loaded gait that passes every check is staged for its stride. -/
theorem gaitStageEff_stages {f : Nat} {s : State} {q : Request} {g : Gait} (hq : s.headRequest f 0x0303 = some q)
    (h1 : 1 ≤ q.field 0 1) (h3 : q.field 0 1 ≤ 3) (hloaded : (s.slot (q.field 0 1)).st = 1)
    (hg : (s.slot (q.field 0 1)).gait = some g) (hahead : s.stride + 4 ≤ q.field 8 8)
    (hafter : ∀ p ∈ s.stagedSlots, p.2.stride < q.field 8 8) (hgirth : (s.girthSteps g).1 = stOk)
    (htransition : (s.transitionCheck s.gaitBefore.1 s.gaitBefore.2 g (q.field 8 8)).1 = stOk)
    (hcovers : s.uncovers g = false) :
    gaitStageEff f s = settled f
      ((s.popRequest f).setSlot (q.field 0 1) { s.slot (q.field 0 1) with st := 2, stride := q.field 8 8 })
      q stOk (q.field 8 8) (zeros 32) := by
  have hlast : (s.stagedSlots.any fun p => q.field 8 8 ≤ p.2.stride) = false := by
    simpa [List.any_eq_false] using hafter
  exact State.serve_settled hq (by
    simp [hg, Nat.one_le_iff_ne_zero.1 h1, Nat.not_lt.2 h3, hloaded, Nat.not_lt.2 hahead, hlast,
      hgirth, htransition, hcovers])

/-! ### GAIT_CANCEL -/

/-- The cancel of a loaded gait empties its slot. -/
theorem gaitCancelEff_loaded {f : Nat} {s : State} {q : Request} (hq : s.headRequest f 0x0304 = some q)
    (h1 : 1 ≤ q.field 0 1) (h3 : q.field 0 1 ≤ 3) (hloaded : (s.slot (q.field 0 1)).st = 1) :
    gaitCancelEff f s = settled f ((s.popRequest f).setSlot (q.field 0 1) GaitSlot.empty) q stOk unstamped [] :=
  State.serve_settled hq (by simp [Nat.one_le_iff_ne_zero.1 h1, Nat.not_lt.2 h3, hloaded, report])

/-- The cancel of a gait staged at least 3 strides ahead returns it, and those staged after it, to loaded. -/
theorem gaitCancelEff_staged {f : Nat} {s : State} {q : Request} (hq : s.headRequest f 0x0304 = some q)
    (h1 : 1 ≤ q.field 0 1) (h3 : q.field 0 1 ≤ 3) (hstaged : (s.slot (q.field 0 1)).st = 2)
    (hahead : s.stride + 3 ≤ (s.slot (q.field 0 1)).stride) :
    gaitCancelEff f s =
      settled f ((s.popRequest f).unstageFrom (s.slot (q.field 0 1)).stride) q stOk unstamped [] :=
  State.serve_settled hq (by
    simp [Nat.one_le_iff_ne_zero.1 h1, Nat.not_lt.2 h3, hstaged, Nat.not_lt.2 hahead, report])

/-- The cancel of a gait staged less than 3 strides ahead comes too late. -/
theorem gaitCancelEff_late {f : Nat} {s : State} {q : Request} (hq : s.headRequest f 0x0304 = some q)
    (h1 : 1 ≤ q.field 0 1) (h3 : q.field 0 1 ≤ 3) (hstaged : (s.slot (q.field 0 1)).st = 2)
    (hnear : (s.slot (q.field 0 1)).stride < s.stride + 3) :
    gaitCancelEff f s = settled f (s.popRequest f) q stTooLate unstamped [] :=
  State.serve_settled hq (by simp [Nat.one_le_iff_ne_zero.1 h1, Nat.not_lt.2 h3, hstaged, hnear, refuse])

/-! ### GAIT_STATUS -/

/-- GAIT_STATUS reports the four slots and the running gait's isolated contexts. -/
theorem gaitStatusEff_reports {f : Nat} {s : State} {q : Request} (hq : s.headRequest f 0x0305 = some q) :
    gaitStatusEff f s = settled f (s.popRequest f) q stOk unstamped
      ((s.slot 0).status ++ (s.slot 1).status ++ (s.slot 2).status ++ (s.slot 3).status ++
        bitmap 512 (s.slot 0).isolated) :=
  State.serve_settled hq (by simp [report, List.range_succ])

/-- Settles O27, request by request: each command is its effect, and the effect's equation on that path. -/
theorem gaitsServed : Obligations.GaitsServed := by
  refine ⟨?check, ?load, ?stage, ?cancelLoaded, ?cancelStaged, ?cancelLate, ?status⟩
  case check =>
    intro f image s q hf hdma hq hslot haddress hgirth
    exact guarded_funcOk hf (gaitImageEff_fits hdma hq (s.gaitSlotCheck_check hslot haddress) hgirth)
  case load =>
    intro f image s q hf hdma hq h1 h3 hunstaged haddress hgirth
    exact guarded_funcOk hf (gaitImageEff_fits hdma hq (State.gaitSlotCheck_load h1 h3 hunstaged haddress) hgirth)
  case stage =>
    intro f s q g hf hq h1 h3 hloaded hg hahead hafter hgirth htransition hcovers
    exact guarded_funcOk hf (gaitStageEff_stages hq h1 h3 hloaded hg hahead hafter hgirth htransition hcovers)
  case cancelLoaded =>
    intro f s q hf hq h1 h3 hloaded
    exact guarded_funcOk hf (gaitCancelEff_loaded hq h1 h3 hloaded)
  case cancelStaged =>
    intro f s q hf hq h1 h3 hstaged hahead
    exact guarded_funcOk hf (gaitCancelEff_staged hq h1 h3 hstaged hahead)
  case cancelLate =>
    intro f s q hf hq h1 h3 hstaged hnear
    exact guarded_funcOk hf (gaitCancelEff_late hq h1 h3 hstaged hnear)
  case status =>
    intro f s q hf hq
    exact guarded_funcOk hf (gaitStatusEff_reports hq)

end Sys2Proof.Machine
end

section
/-! SUPPORT. The statement of the row format: how the codes of a row are packed, padded and read back. -/

namespace Sys2Proof.Machine

/-! ## Bytes that are filled with zeros (R6) -/

/-- Within a list `getD` is the entry. -/
theorem getD_of_lt {α : Type} {l : List α} {i : Nat} (d : α) (h : i < l.length) : l.getD i d = l[i] := by
  rw [List.getD_eq_getElem?_getD, List.getElem?_eq_getElem h, Option.getD_some]

/-- Beyond a list `getD` is the default. -/
theorem getD_of_length_le {α : Type} {l : List α} {i : Nat} (d : α) (h : l.length ≤ i) : l.getD i d = d := by
  rw [List.getD_eq_getElem?_getD, List.getElem?_eq_none h, Option.getD_none]

/-- Bytes beyond a structure read as zero. -/
theorem byteAt_of_length_le {b : Bytes} {i : Nat} (h : b.length ≤ i) : byteAt b i = 0 := by
  rw [byteAt, getD_of_length_le 0 h]
  rfl

/-- Padding changes no byte: within it as beyond it a byte reads as zero. -/
theorem byteAt_padTo (m : Nat) (b : Bytes) (i : Nat) : byteAt (padTo m b) i = byteAt b i := by
  rcases Nat.lt_or_ge i b.length with hi | hi
  · rw [byteAt, padTo, List.getD_eq_getElem?_getD, List.getElem?_append_left hi, ← List.getD_eq_getElem?_getD, byteAt]
  · rw [byteAt_of_length_le hi, byteAt, padTo, List.getD_eq_getElem?_getD, List.getElem?_append_right hi, zeros,
      List.getElem?_replicate]
    split <;> rfl

/-- Padding fills up to a multiple of 64 bytes. -/
theorem length_padTo_64 (b : Bytes) : (padTo 64 b).length = 64 * ((b.length + 63) / 64) := by
  rw [padTo, List.length_append, zeros, List.length_replicate, roundUp]
  omega

/-! ## Codes (R62) -/

/-- The low `n` bits of a number in the range of `n` bits, read as two's complement, are that number. -/
theorem signedOf_toNat_emod {n : Nat} {v : Int} (hn : 0 < n) (hlo : -2 ^ (n - 1) ≤ v) (hhi : v < 2 ^ (n - 1)) :
    signedOf n (v % 2 ^ n).toNat = v := by
  obtain ⟨m, rfl⟩ : ∃ m, n = m + 1 := ⟨n - 1, by omega⟩
  rw [Nat.add_sub_cancel] at hlo hhi
  have hpow : (2 : Int) ^ (m + 1) = 2 * 2 ^ m := by rw [Int.pow_succ, Int.mul_comm]
  have hcast : ((2 ^ m : Nat) : Int) = 2 ^ m := Int.natCast_pow 2 m
  have hmod : v % 2 ^ (m + 1) = if 0 ≤ v then v else v + 2 ^ (m + 1) := by
    split
    · exact Int.emod_eq_of_lt (by omega) (by omega)
    · rw [← Int.add_emod_right]
      exact Int.emod_eq_of_lt (by omega) (by omega)
  have hnonneg : 0 ≤ v % 2 ^ (m + 1) := by
    rw [hmod]
    split <;> omega
  have hlow : (v % 2 ^ (m + 1)).toNat % 2 ^ (m + 1) = (v % 2 ^ (m + 1)).toNat := by
    refine Nat.mod_eq_of_lt ?_
    rw [Nat.pow_succ, hmod]
    split <;> omega
  rw [signedOf, hlow, Nat.add_sub_cancel, Int.toNat_of_nonneg hnonneg, Int.emod_emod_of_dvd _ (Int.dvd_refl _), hmod]
  split <;> split <;> omega

theorem packCodes_int8 (c : List Int) : packCodes 0 c = padTo 64 (c.map fun v => BitVec.ofInt 8 v) := rfl

theorem packCodes_int4 (c : List Int) : packCodes 1 c =
    padTo 64 ((List.range ((c.length + 1) / 2)).map fun j =>
      BitVec.ofNat 8 ((c.getD (2 * j) 0 % 16).toNat + 16 * (c.getD (2 * j + 1) 0 % 16).toNat)) := rfl

/-- INT8: byte `i` is code `i`; where there is none it is zero. -/
theorem byteAt_packCodes_int8 (c : List Int) (i : Nat) : byteAt (packCodes 0 c) i = (c.getD i 0 % 256).toNat := by
  rw [packCodes_int8, byteAt_padTo]
  rcases Nat.lt_or_ge i c.length with hi | hi
  · rw [byteAt, getD_of_lt 0 (by rwa [List.length_map]), List.getElem_map, BitVec.toNat_ofInt, getD_of_lt 0 hi]
    rfl
  · rw [byteAt_of_length_le (by rwa [List.length_map]), getD_of_length_le 0 hi]
    rfl

/-- INT4: byte `j` is code 2j and, above it, code 2j + 1; where there is none it is zero. -/
theorem byteAt_packCodes_int4 (c : List Int) (j : Nat) :
    byteAt (packCodes 1 c) j = (c.getD (2 * j) 0 % 16).toNat + 16 * (c.getD (2 * j + 1) 0 % 16).toNat := by
  rw [packCodes_int4, byteAt_padTo]
  rcases Nat.lt_or_ge j ((c.length + 1) / 2) with hj | hj
  · rw [byteAt, getD_of_lt 0 (by rwa [List.length_map, List.length_range]), List.getElem_map, List.getElem_range, BitVec.toNat_ofNat]
    omega
  · rw [byteAt_of_length_le (by rwa [List.length_map, List.length_range]), getD_of_length_le 0 (by omega),
      getD_of_length_le 0 (by omega)]
    rfl

/-- Packed codes are as long as a row's area for them. -/
theorem length_packCodes {w : Nat} (c : List Int) (hw : w < 2) :
    (packCodes w c).length = 64 * ((codeBytes w c.length + 63) / 64) := by
  obtain rfl | rfl : w = 0 ∨ w = 1 := by omega
  · rw [packCodes_int8, length_padTo_64, List.length_map, codeBytes, if_pos rfl]
  · rw [packCodes_int4, length_padTo_64, List.length_map, List.length_range, codeBytes, if_neg Nat.one_ne_zero]

/-- What follows the last code's byte is padding, of zero bytes. -/
theorem byteAt_packCodes_padding {w i : Nat} (c : List Int) (hw : w < 2) (hi : codeBytes w c.length ≤ i) :
    byteAt (packCodes w c) i = 0 := by
  obtain rfl | rfl : w = 0 ∨ w = 1 := by omega
  · rw [byteAt_packCodes_int8, getD_of_length_le 0 hi]
    rfl
  · rw [codeBytes, if_neg Nat.one_ne_zero] at hi
    rw [byteAt_packCodes_int4, getD_of_length_le 0 (by omega), getD_of_length_le 0 (by omega)]
    rfl

/-- An INT8 code reads back. -/
theorem codeAt_packCodes_int8 {c : List Int} {i : Nat} (hlo : -128 ≤ c.getD i 0) (hhi : c.getD i 0 ≤ 127) :
    codeAt 0 (packCodes 0 c) i = c.getD i 0 := by
  rw [codeAt, if_pos rfl, byteAt_packCodes_int8]
  exact signedOf_toNat_emod (n := 8) (by omega) hlo (Int.lt_add_one_iff.2 hhi)

/-- An INT4 code reads back from its half of its byte. -/
theorem codeAt_packCodes_int4 {c : List Int} {i : Nat} (hlo : -8 ≤ c.getD i 0) (hhi : c.getD i 0 ≤ 7) :
    codeAt 1 (packCodes 1 c) i = c.getD i 0 := by
  have hhalf : byteAt (packCodes 1 c) (i / 2) / (if i % 2 = 0 then 1 else 16) % 16 = (c.getD i 0 % 16).toNat := by
    rw [byteAt_packCodes_int4]
    rcases Nat.mod_two_eq_zero_or_one i with heven | hodd
    · rw [if_pos heven, show 2 * (i / 2) = i by omega]
      omega
    · rw [if_neg (by omega), show 2 * (i / 2) + 1 = i by omega]
      omega
  rw [codeAt, if_neg Nat.one_ne_zero, hhalf]
  exact signedOf_toNat_emod (n := 4) (by omega) hlo (Int.lt_add_one_iff.2 hhi)

/-- A code of a list that is as long is in the list. -/
theorem getD_mem {c : List Int} {i : Nat} (hi : i < c.length) : c.getD i 0 ∈ c := by
  rw [getD_of_lt 0 hi]
  exact List.getElem_mem hi

/-- Codes that read back one by one read back as a list. -/
theorem codesOf_eq_self {w : Nat} {b : Bytes} {c : List Int} (h : ∀ i < c.length, codeAt w b i = c.getD i 0) :
    codesOf w c.length b = c := by
  refine List.ext_getElem (by simp [codesOf]) fun i _ hi => ?_
  simp only [codesOf, List.getElem_map, List.getElem_range, h i hi, getD_of_lt 0 hi]

/-- Code `i` is read from its own byte alone. -/
theorem codeAt_congr {w i : Nat} {b x : Bytes}
    (h : byteAt b (if w = 0 then i else i / 2) = byteAt x (if w = 0 then i else i / 2)) : codeAt w b i = codeAt w x i := by
  by_cases hw : w = 0
  · simp only [codeAt, if_pos hw] at h ⊢
    rw [h]
  · simp only [codeAt, if_neg hw] at h ⊢
    rw [h]

/-- Codes are read from the bytes that hold them, whatever follows. -/
theorem codesOf_congr {w d : Nat} {b x : Bytes} (h : ∀ i < codeBytes w d, byteAt b i = byteAt x i) :
    codesOf w d b = codesOf w d x := by
  refine List.map_congr_left fun i hi => codeAt_congr (h _ ?_)
  have hi : i < d := List.mem_range.1 hi
  unfold codeBytes
  split <;> omega

/-- Settles O11: each code reads back from its own bits, and no code is read from the padding. -/
theorem codesPacked : Obligations.CodesPacked := by
  refine ⟨?int8, ?int4, ?area, ?padding, fun _ _ => rfl, fun _ => rfl, rfl, ?longest⟩
  case int8 =>
    intro c hc
    refine ⟨codesOf_eq_self fun i hi => ?_, fun i _ => byteAt_packCodes_int8 c i⟩
    obtain ⟨hlo, hhi⟩ := hc _ (getD_mem hi)
    exact codeAt_packCodes_int8 hlo hhi
  case int4 =>
    intro c hc
    refine ⟨codesOf_eq_self fun i hi => ?_, fun j _ => ?_⟩
    · obtain ⟨hlo, hhi⟩ := hc _ (getD_mem hi)
      exact codeAt_packCodes_int4 hlo hhi
    · rw [byteAt_packCodes_int4]
      omega
  case area =>
    exact fun w c hw => ⟨by rw [length_packCodes c hw]; rfl, fun i hi => byteAt_packCodes_padding c hw hi⟩
  case padding =>
    exact fun w d b x _ h => congrArg sumInt (codesOf_congr h)
  case longest =>
    intro w d hd
    unfold rowBytes ceilDiv codeBytes
    split <;> omega

end Sys2Proof.Machine
end

section
/-! SUPPORT. The statement of the query's first strides: how an entry of a query ring is admitted, and how a shard is
searched. -/

namespace Sys2Proof.Machine

/-! ## What shared operations change: one equation for each -/

/-- A command whose operands name units of the node ends in its effect's state. -/
theorem guarded_decide {p : Prop} [Decidable p] {eff : State → State} {s t : State} (hp : p) (heff : eff s = t) :
    guarded (decide p) eff s = .next t := by
  rw [decide_eq_true hp, guarded_true, heff]

/-- A message that is taken does what its receiver makes of it. -/
theorem State.arrives_of_taken {s u : State} {cls source : Nat} {m : Bytes} (h : s.arrival cls source m = (true, u))
    (take : State → State) : s.arrives cls source m take = take u := by
  rw [State.arrives, h]
  rfl

/-- A tile that takes up a share changes among the tiles, and is counted. -/
theorem State.useTile_eq (s : State) (u : TileUse) (ctx : Nat) :
    ∃ tiles tel, s.useTile u ctx = { s with tiles := tiles, tel := tel } := by
  unfold State.useTile
  split
  · exact ⟨_, _, rfl⟩
  · exact ⟨_, _, rfl⟩

@[simp] theorem State.useTile_gaits (s : State) (u : TileUse) (ctx : Nat) : (s.useTile u ctx).gaits = s.gaits := by
  obtain ⟨tiles, tel, h⟩ := s.useTile_eq u ctx
  rw [h]

@[simp] theorem State.useTile_mem (s : State) (u : TileUse) (ctx : Nat) : (s.useTile u ctx).mem = s.mem := by
  obtain ⟨tiles, tel, h⟩ := s.useTile_eq u ctx
  rw [h]

@[simp] theorem State.useTile_rings (s : State) (u : TileUse) (ctx : Nat) : (s.useTile u ctx).rings = s.rings := by
  obtain ⟨tiles, tel, h⟩ := s.useTile_eq u ctx
  rw [h]

@[simp] theorem State.useTile_indexes (s : State) (u : TileUse) (ctx : Nat) : (s.useTile u ctx).indexes = s.indexes := by
  obtain ⟨tiles, tel, h⟩ := s.useTile_eq u ctx
  rw [h]

@[simp] theorem State.useTile_programs (s : State) (u : TileUse) (ctx : Nat) : (s.useTile u ctx).programs = s.programs := by
  obtain ⟨tiles, tel, h⟩ := s.useTile_eq u ctx
  rw [h]

@[simp] theorem State.useTile_work (s : State) (u : TileUse) (ctx : Nat) : (s.useTile u ctx).work = s.work := by
  obtain ⟨tiles, tel, h⟩ := s.useTile_eq u ctx
  rw [h]

theorem State.useTile_admittedNow (s : State) (u : TileUse) (ctx k : Nat) :
    (s.useTile u ctx).admittedNow k = s.admittedNow k := by
  rw [State.admittedNow, State.useTile_gaits, State.admittedNow]

/-- A share that needs more of its tile than the plan gives is at most listed as overdue. -/
theorem State.needs_eq (s : State) (word a k due t cost : Nat) :
    ∃ overdue, s.needs word a k due t cost = { s with work := { s.work with overdue := overdue } } := by
  unfold State.needs
  split
  · exact ⟨_, rfl⟩
  · exact ⟨_, rfl⟩

/-- A share that takes up a tile, where it does, changes among the tiles, the telemetry and the works listed as overdue. -/
theorem State.tileShare_eq (s : State) (idle : Bool) (u : TileUse) (ctx word a k due cost : Nat) :
    ∃ tiles tel overdue, (if idle = true then s else (s.useTile u ctx).needs word a k due u.tile cost) =
      { s with tiles := tiles, tel := tel, work := { s.work with overdue := overdue } } := by
  split
  · exact ⟨_, _, _, rfl⟩
  · obtain ⟨tiles, tel, htile⟩ := s.useTile_eq u ctx
    obtain ⟨overdue, hneeds⟩ := (s.useTile u ctx).needs_eq word a k due u.tile cost
    rw [hneeds, htile]
    exact ⟨_, _, _, rfl⟩

/-- A residency is kept in its index or table. -/
theorem State.modResidency_eq (s : State) (id : Nat) (g : Residency → Residency) :
    ∃ indexes tables, s.modResidency id g = { s with indexes := indexes, tables := tables } := by
  unfold State.modResidency
  split
  · exact ⟨_, _, rfl⟩
  · exact ⟨_, _, rfl⟩

/-- Reads of rows are counted in their object's residency, and in the telemetry where its candidate table is full. -/
theorem State.touchRows_eq (s : State) (object : Nat) (rows : List Nat) :
    ∃ indexes tables tel, s.touchRows object rows = { s with indexes := indexes, tables := tables, tel := tel } := by
  refine foldl_holds (P := fun t => ∃ indexes tables tel, t = { s with indexes := indexes, tables := tables, tel := tel })
    ?_ rows ⟨s.indexes, s.tables, s.tel, rfl⟩
  rintro _ row ⟨indexes, tables, tel, rfl⟩
  split
  · exact ⟨_, _, _, rfl⟩
  · obtain ⟨i, b, hres⟩ := State.modResidency_eq { s with indexes := indexes, tables := tables, tel := tel } object
      fun r => (r.touch row).1
    simp only [hres]
    split
    · exact ⟨_, _, _, rfl⟩
    · exact ⟨_, _, _, rfl⟩

/-- A walk's stale edges and reads from DDR are counted in its index and in the telemetry. -/
theorem State.addStale_touchRows_eq (s : State) (index n : Nat) (rows : List Nat) :
    ∃ indexes tables tel, (s.addStale index n).touchRows index rows =
      { s with indexes := indexes, tables := tables, tel := tel } := by
  obtain ⟨i, b, tel, h⟩ := (s.addStale index n).touchRows_eq index rows
  exact ⟨i, b, tel, h⟩

/-! A completion touches its ring and the telemetry. -/

@[simp] theorem State.complete_work (s : State) (id admitAt order : Nat) (entry : Bytes) :
    (s.complete id admitAt order entry).work = s.work := rfl

@[simp] theorem State.complete_mem (s : State) (id admitAt order : Nat) (entry : Bytes) :
    (s.complete id admitAt order entry).mem = s.mem := rfl

@[simp] theorem State.complete_indexes (s : State) (id admitAt order : Nat) (entry : Bytes) :
    (s.complete id admitAt order entry).indexes = s.indexes := rfl

@[simp] theorem State.complete_admittedNow (s : State) (id admitAt order : Nat) (entry : Bytes) (k : Nat) :
    (s.complete id admitAt order entry).admittedNow k = s.admittedNow k := rfl

/-- The completion of a refused entry stands in its ring, whose slot is no longer reserved. -/
theorem State.complete_ring {s : State} {id : Nat} {r : Ring} (hr : s.ring? id = some r) (admitAt order : Nat)
    (entry : Bytes) : (s.complete id admitAt order entry).ring? id = some (r.completed s.clk.stride admitAt order entry) :=
  (s.modRing_find? id _).trans (congrArg _ hr)

/-! ## Admission from a ring (R29, R83) -/

/-- The state in which an entry of ring `id` is taken in: one unit of its class, one completion slot. -/
def State.admittedFrom (s : State) (id : Nat) (r : Ring) (k : Nat) : State :=
  ((s.modRing id fun r => { r with admitted := r.admitted + 1, stepped := r.stepped + 1, reserved := r.reserved + 1 }).admitTo
    k).ctxCount r.context fun c => { c with admitted := c.admitted + 1 }

/-- The entry that ring `id` gives class `k`. -/
def State.admissionOf (s : State) (id : Nat) (r : Ring) (k : Nat) (entry : Bytes) : Admission :=
  { id := id, ring := r, cls := k, len := ((s.gaitNow.1.cls? k).map (·.len)).getD 1,
    elastic := (s.gaitNow.1.cls? k).any (·.elastic), order := r.admitted, entry := fit r.slotSize entry }

/-- A ring that takes entries now gives its next one to its class. -/
theorem State.admitRing_admits {s : State} {id kind : Nat} {r : Ring} {k : Nat} (hr : s.ring? id = some r)
    (hkind : r.kind = kind) (hmay : s.mayAdmit r = true) (hk : s.ringClass id r = some k) (entry : Bytes)
    (act : State → Admission → State) :
    s.admitRing id kind entry act = act (s.admittedFrom id r k) (s.admissionOf id r k entry) := by
  simp [State.admitRing, hr, hkind, hmay, hk, State.admittedFrom, State.admissionOf]

/-- A ring of another kind, or one that takes no entries now, gives none. -/
theorem State.admitRing_waits {s : State} {id kind : Nat} {r : Ring} (hr : s.ring? id = some r)
    (h : r.kind ≠ kind ∨ s.mayAdmit r = false) (entry : Bytes) (act : State → Admission → State) :
    s.admitRing id kind entry act = s := by
  have h' : r.kind ≠ kind ∨ (!s.mayAdmit r) = true := h.imp_right fun hmay => by rw [hmay]; rfl
  simp only [State.admitRing, hr, if_pos h']

/-- The ring has admitted one entry more, and has a completion slot more reserved. -/
theorem State.admittedFrom_ring {s : State} {id : Nat} {r : Ring} (hr : s.ring? id = some r) (k : Nat) :
    (s.admittedFrom id r k).ring? id =
      some { r with admitted := r.admitted + 1, stepped := r.stepped + 1, reserved := r.reserved + 1 } :=
  (s.modRing_find? id _).trans (congrArg _ hr)

/-- A class has admitted one unit more. -/
theorem State.admitTo_admittedNow (s : State) (k : Nat) : (s.admitTo k).admittedNow k = s.admittedNow k + 1 :=
  SMap.getD_set_self _ k _ 0

theorem State.admittedFrom_admittedNow (s : State) (id : Nat) (r : Ring) (k : Nat) :
    (s.admittedFrom id r k).admittedNow k = s.admittedNow k + 1 := SMap.getD_set_self _ k _ 0

/-- A ring that takes entries now is not torn down. -/
theorem State.mayAdmit_lost {s : State} {r : Ring} (h : s.mayAdmit r = true) : r.lost = false := by
  simp only [State.mayAdmit, Bool.and_eq_true, Bool.not_eq_true'] at h
  obtain ⟨⟨⟨⟨⟨-, hlost⟩, -⟩, -⟩, -⟩, -⟩ := h
  exact hlost

/-! ## QUERY_ADMISSION (R76, R81 to R90, R150) -/

/-- A query's status turns on the objects and the programs alone. -/
theorem State.queryStatus_congr {s t : State} (hindexes : t.indexes = s.indexes) (hprograms : t.programs = s.programs)
    (id : Nat) (r : Ring) (e : Bytes) : t.queryStatus id r e = s.queryStatus id r e := by
  simp only [State.queryStatus, State.programOk, hindexes, hprograms]

/-- Taking up a tile leaves an entry's status. -/
@[simp] theorem State.useTile_queryStatus (s : State) (u : TileUse) (ctx id : Nat) (r : Ring) (e : Bytes) :
    (s.useTile u ctx).queryStatus id r e = s.queryStatus id r e :=
  State.queryStatus_congr (s.useTile_indexes u ctx) (s.useTile_programs u ctx) id r e

/-- Taking an entry in leaves its status. -/
@[simp] theorem State.admittedFrom_queryStatus (s : State) (ring : Nat) (r : Ring) (k id : Nat) (r' : Ring) (e : Bytes) :
    (s.admittedFrom ring r k).queryStatus id r' e = s.queryStatus id r' e := State.queryStatus_congr rfl rfl id r' e

/-- Only an entry with a version to read passes. -/
theorem State.snapshotVersion_of_queryStatus {s : State} {id : Nat} {r : Ring} {e : Bytes} {x : Index}
    (hx : SMap.find? s.indexes (le e 4 4) = some x) (hst : s.queryStatus id r e = stOk) :
    ∃ v, x.snapshotVersion (le e 8 8) = some v := by
  cases hv : x.snapshotVersion (le e 8 8) with
  | some v => exact ⟨v, rfl⟩
  | none =>
    simp only [State.queryStatus, hx, hv, Option.isNone_none, if_true] at hst
    repeat' split at hst
    all_goals contradiction

/-- A query is the one that an entry taken in describes, on index `x` and admitted in stride `n` (R81, R86, R90). -/
structure Query.Describes (q : Query) (a : Admission) (x : Index) (n : Nat) : Prop where
  ring : q.ring = a.id
  order : q.order = a.order
  cls : q.cls = a.cls
  context : q.context = a.ring.context
  qid : q.qid = le a.entry 0 4
  index : q.index = le a.entry 4 4
  version : q.version = (x.snapshotVersion (le a.entry 8 8)).getD 0
  k : q.k = le a.entry 16 2
  width : q.width = byteAt a.entry 19
  depth : q.depth = le a.entry 20 2
  m : q.m = le a.entry 22 2
  program : q.program = le a.entry 24 2
  admitAt : q.admitAt = n
  phase : q.phase = 0
  waiting : q.waiting = List.range x.shards
  replies : q.replies = []
  flags : q.flags = 0

/-- Messages sent one after another leave the works, the rings, the gaits, HBM and the indexes. -/
theorem foldl_send_frame {α : Type} (l : List α) (cls : Nat) (dest : α → Nat) (body : State → α → Bytes) (s : State) :
    let t := l.foldl (fun s p => s.send cls (dest p) (body s p)) s
    t.work = s.work ∧ t.rings = s.rings ∧ t.gaits = s.gaits ∧ t.mem = s.mem ∧ t.indexes = s.indexes := by
  refine ⟨?_, ?_, ?_, ?_, ?_⟩
  · exact foldl_keeps State.work (by simp) l s
  · exact foldl_keeps State.rings (by simp) l s
  · exact foldl_keeps State.gaits (by simp) l s
  · exact foldl_keeps State.mem (by simp) l s
  · exact foldl_keeps State.indexes (by simp) l s

/-- A query that passed its checks stands under its tag, its shards awaited; rings, gaits, HBM and indexes stay. -/
theorem State.admitQuery_effect (s : State) (tag : Nat) (tile : TileUse) (zeroing : Nat) (a : Admission) (x : Index) :
    ∃ q : Query, q.Describes a x s.clk.stride ∧
      (s.admitQuery tag tile zeroing a x).work.queries = SMap.set s.work.queries tag q ∧
      (s.admitQuery tag tile zeroing a x).work.tags = tag :: s.work.tags ∧
      (s.admitQuery tag tile zeroing a x).rings = s.rings ∧ (s.admitQuery tag tile zeroing a x).gaits = s.gaits ∧
      (s.admitQuery tag tile zeroing a x).mem = s.mem ∧ (s.admitQuery tag tile zeroing a x).indexes = s.indexes := by
  unfold State.admitQuery
  extract_lets e q t0 w t1 t2
  obtain ⟨overdue, hneeds⟩ := t1.needs_eq (8 * tag) s.stride a.cls s.stride tile.tile (buildCycles x.dim + zeroing)
  obtain ⟨hwork, hrings, hgaits, hmem, hindexes⟩ :=
    foldl_send_frame q.serving 2 (fun p => p.2) (fun s p => subRequest s.me p.1 tag q q.descent) t2
  rw [hwork, hrings, hgaits, hmem, hindexes]
  simp only [t2, hneeds]
  exact ⟨q, by constructor <;> rfl, rfl, rfl, rfl, rfl, rfl, rfl⟩

/-- An entry that fails a check, or whose record its tile spoils, completes with its status. -/
theorem State.takeQuery_refused {s : State} {tag : Nat} {tile : TileUse} {a : Admission} {st : Nat}
    (hst : st = if s.queryStatus a.id a.ring a.entry = stOk ∧ tile.lost = true then stPoisoned
      else s.queryStatus a.id a.ring a.entry) (hne : st ≠ stOk) :
    s.takeQuery tag tile a = (s.useTile tile a.ring.context).complete a.id s.stride a.order
      (queryCompletion (le a.entry 0 4) s.stride
        (if 1 ≤ le a.entry 16 2 ∧ le a.entry 16 2 ≤ a.ring.maxK then le a.entry 16 2 else 0) 0 st 0 0 0 []) := by
  simp only [State.takeQuery, State.useTile_queryStatus, ← hst, if_neg hne, State.stride, State.useTile_stride]
  split <;> rfl

/-- An entry that passes its checks on a sound tile becomes a query. -/
theorem State.takeQuery_admits {s : State} {tag : Nat} {tile : TileUse} {a : Admission} {x : Index}
    (hx : SMap.find? s.indexes (le a.entry 4 4) = some x) (hst : s.queryStatus a.id a.ring a.entry = stOk)
    (hlost : tile.lost = false) :
    s.takeQuery tag tile a =
      (s.useTile tile a.ring.context).admitQuery tag tile ((s.tile tile.tile).zeroing a.ring.context) a x := by
  simp [State.takeQuery, hst, hlost, hx]

/-- QUERY_ADMISSION on a tile in service takes an entry in under a free tag. -/
theorem queryAdmissionEff_admits {ring : Nat} {b : Bytes} {tile : TileUse} {s : State} {g : Nat} {r : Ring} {k : Nat}
    (hup : s.unitUp 0x01 tile.tile = true) (hg : s.freeTag = some g) (hr : s.ring? ring = some r) (hkind : r.kind = 1)
    (hmay : s.mayAdmit r = true) (hk : s.ringClass ring r = some k) :
    queryAdmissionEff ring b tile s = (s.admittedFrom ring r k).takeQuery g tile (s.admissionOf ring r k b) := by
  simp only [queryAdmissionEff, hg, hup, if_true]
  exact State.admitRing_admits hr hkind hmay hk b _

/-- QUERY_ADMISSION leaves an entry in its ring where the ring takes none now or the tile is not in service. -/
theorem queryAdmissionEff_waits {ring : Nat} {b : Bytes} {tile : TileUse} {s : State} {r : Ring} (hr : s.ring? ring = some r)
    (h : r.kind ≠ 1 ∨ s.mayAdmit r = false ∨ s.unitUp 0x01 tile.tile = false) : queryAdmissionEff ring b tile s = s := by
  unfold queryAdmissionEff
  cases s.freeTag with
  | none => rfl
  | some g =>
    cases hup : s.unitUp 0x01 tile.tile with
    | false => rfl
    | true =>
      simp only [if_true]
      exact State.admitRing_waits hr (h.imp_right fun h => h.resolve_right (by simp [hup])) b _

/-- An entry that passes its checks becomes a query under the free tag, and its ring and class have admitted one more. -/
theorem queryAdmissionEff_effect {ring : Nat} {b : Bytes} {tile : TileUse} {s : State} {g : Nat} {r : Ring} {k : Nat}
    {x : Index} (hup : s.unitUp 0x01 tile.tile = true) (hg : s.freeTag = some g) (hr : s.ring? ring = some r)
    (hkind : r.kind = 1) (hmay : s.mayAdmit r = true) (hk : s.ringClass ring r = some k)
    (hx : SMap.find? s.indexes (le (fit r.slotSize b) 4 4) = some x)
    (hst : s.queryStatus ring r (fit r.slotSize b) = stOk) (hsound : tile.lost = false) :
    ∃ q : Query, q.Describes (s.admissionOf ring r k b) x s.stride ∧
      (queryAdmissionEff ring b tile s).work.queries = SMap.set s.work.queries g q ∧
      (queryAdmissionEff ring b tile s).work.tags = g :: s.work.tags ∧
      (queryAdmissionEff ring b tile s).rings = (s.admittedFrom ring r k).rings ∧
      (queryAdmissionEff ring b tile s).gaits = (s.admittedFrom ring r k).gaits ∧
      (queryAdmissionEff ring b tile s).mem = s.mem ∧ (queryAdmissionEff ring b tile s).indexes = s.indexes := by
  have hst' : (s.admittedFrom ring r k).queryStatus ring r (fit r.slotSize b) = stOk :=
    (s.admittedFrom_queryStatus ring r k ring r _).trans hst
  rw [queryAdmissionEff_admits hup hg hr hkind hmay hk,
    State.takeQuery_admits (s := s.admittedFrom ring r k) (a := s.admissionOf ring r k b) hx hst' hsound]
  have heffect := ((s.admittedFrom ring r k).useTile tile r.context).admitQuery_effect g tile
    (((s.admittedFrom ring r k).tile tile.tile).zeroing r.context) (s.admissionOf ring r k b) x
  simp only [State.useTile_work, State.useTile_rings, State.useTile_gaits, State.useTile_mem, State.useTile_indexes,
    State.useTile_stride] at heffect
  exact heffect

/-- An entry that does not pass completes at once with its status, and starts no work. -/
theorem queryAdmissionEff_completes {ring : Nat} {b : Bytes} {tile : TileUse} {s : State} {g : Nat} {r : Ring} {k st : Nat}
    (hup : s.unitUp 0x01 tile.tile = true) (hg : s.freeTag = some g) (hr : s.ring? ring = some r)
    (hkind : r.kind = 1) (hmay : s.mayAdmit r = true) (hk : s.ringClass ring r = some k)
    (hst : st = if s.queryStatus ring r (fit r.slotSize b) = stOk ∧ tile.lost = true then stPoisoned
      else s.queryStatus ring r (fit r.slotSize b)) (hne : st ≠ stOk) :
    queryAdmissionEff ring b tile s =
      ((s.admittedFrom ring r k).useTile tile r.context).complete ring s.stride r.admitted
        (queryCompletion (le (fit r.slotSize b) 0 4) s.stride
          (if 1 ≤ le (fit r.slotSize b) 16 2 ∧ le (fit r.slotSize b) 16 2 ≤ r.maxK then le (fit r.slotSize b) 16 2 else 0)
          0 st 0 0 0 []) := by
  rw [← s.admittedFrom_queryStatus ring r k] at hst
  exact (queryAdmissionEff_admits hup hg hr hkind hmay hk).trans
    (State.takeQuery_refused (a := s.admissionOf ring r k b) hst hne)

/-! ## The shard-search (R91 to R97) -/

/-- SHARD_SUB_REQUEST_RECEIVE: a search that the node may serve begins with the descent on its sort unit. -/
theorem shardSubRequestReceiveEff_begins {m : Bytes} {rows lists : List Nat} {sorter : SortUse} {u : State} {k len : Nat}
    {q : Search} {v : View} {w : Walk} (hsorter : u.searching sorter = true)
    (hclass : u.serveClass (le m 28 2) 1 (decide (chosenMember (le m 0 2 % 2 ^ 15) (le m 2 2) (u.me / 2) ≠ u.me) &&
      u.isFenced u.partner) = some (k, len))
    (hq : q = searchOf m k ((u.gaitNow.1.cls? k).any (·.elastic)) len) (hv : u.searchView q = some v)
    (hmay : u.maySearch q = true) (hroom : u.classRoom k = true) (hstride : u.stride = le m 8 8 + 1)
    (hw : w = Walk.start (({ q with roundAt := u.stride } : Search).walk (u.sortUnit sorter.unit)) v none rows lists
      sorter.parity q.descent 0) :
    ∃ indexes tables tel, ∃ work : Work, shardSubRequestReceiveEff m rows lists sorter u =
      { u.admitTo k with
        indexes := indexes, tables := tables, tel := tel, sorts := SMap.set u.sorts sorter.unit w.unit,
        work := { work with searches := SMap.set work.searches q.key w.search } } := by
  have hdue : q.admitAt = le m 8 8 := by rw [hq]; rfl
  have hserves : ¬((!u.maySearch q || !u.classRoom k || decide (u.stride ≠ q.admitAt + 1)) = true) := by
    simp [hmay, hroom, hdue, hstride]
  unfold shardSubRequestReceiveEff
  simp only [hsorter, hclass, ← hq, hv, if_neg hserves, ← hw, Bool.not_true, Bool.false_eq_true, if_false]
  obtain ⟨indexes, tables, tel, h⟩ := (u.admitTo k).addStale_touchRows_eq q.index w.stale
    (v.ddrScored u (u.nmuRoom u.stride k (rowBytes v.ix.width v.ix.dim)) rows (q.newRows w.search))
  rw [h]
  exact ⟨_, _, _, _, rfl⟩

/-- SHARD_SUB_REQUEST_RECEIVE: a search out of its stride, beyond its class's room, or one that the node may not serve is
discarded and counted. -/
theorem shardSubRequestReceiveEff_drops {m : Bytes} {rows lists : List Nat} {sorter : SortUse} {u : State} {k len : Nat}
    {q : Search} {v : View} (hsorter : u.searching sorter = true)
    (hclass : u.serveClass (le m 28 2) 1 (decide (chosenMember (le m 0 2 % 2 ^ 15) (le m 2 2) (u.me / 2) ≠ u.me) &&
      u.isFenced u.partner) = some (k, len))
    (hq : q = searchOf m k ((u.gaitNow.1.cls? k).any (·.elastic)) len) (hv : u.searchView q = some v)
    (hno : u.stride ≠ le m 8 8 + 1 ∨ u.classRoom k = false ∨ u.maySearch q = false) :
    shardSubRequestReceiveEff m rows lists sorter u = u.scheduledDrop := by
  have hdue : q.admitAt = le m 8 8 := by rw [hq]; rfl
  unfold shardSubRequestReceiveEff
  simp only [hsorter, hclass, ← hq, hv, hdue, Bool.not_true, Bool.false_eq_true, if_false]
  rw [if_pos]
  rcases hno with h | h | h <;> simp [h]

/-- LAYER0_ROUND: a search's round puts what it leaves on the sort unit and in the search. -/
theorem layer0RoundEff_rounds {key : Nat} {rows lists : List Nat} {sorter : SortUse} {tile : TileUse} {s : State} {q : Search}
    {v : View} {w : Walk} (hq : SMap.find? s.work.searches key = some q) (hsorter : s.searching sorter = true)
    (hup : s.unitUp 0x01 tile.tile = true) (hphase : q.phase = 0) (hround : q.roundAt < s.stride)
    (hplan : s.stride + 4 ≤ q.admitAt + q.len) (hv : s.searchView q = some v)
    (hw : w = (q.walk (s.sortUnit sorter.unit)).round v none rows lists sorter.parity 0
      (decide (s.stride + 4 = q.admitAt + q.len))) :
    ∃ indexes tables tel tiles, ∃ work : Work, layer0RoundEff key rows lists sorter tile s =
      { s with
        indexes := indexes, tables := tables, tel := tel, tiles := tiles, sorts := SMap.set s.sorts sorter.unit w.unit,
        work := work } ∧
      work.searches = SMap.update s.work.searches key fun _ => { w.search with roundAt := s.stride } := by
  unfold layer0RoundEff
  have hruns : ¬((!s.searching sorter) = true ∨ (!s.unitUp 0x01 tile.tile) = true ∨ q.phase ≠ 0 ∨
      s.stride ≤ q.roundAt ∨ q.admitAt + q.len < s.stride + 4) := by
    simp [hsorter, hup, hphase, hround, hplan]
  simp only [hq, if_neg hruns, hv, ← hw]
  obtain ⟨indexes, tables, tel, h⟩ := s.addStale_touchRows_eq q.index w.stale
    (v.ddrScored s (s.nmuRoom (q.admitAt + 1) q.cls (rowBytes v.ix.width v.ix.dim)) rows (q.newRows w.search))
  rw [h]
  obtain ⟨tiles, tel', overdue, hshare⟩ := State.tileShare_eq { s with indexes := indexes, tables := tables, tel := tel } _
    tile q.context (8 * key + 1) (q.admitAt + 1) q.cls s.stride _
  rw [hshare]
  exact ⟨_, _, _, _, _, rfl, rfl⟩

/-- SHARD_REPLY_SEND: in its stride a search's frozen list goes to the coordinating node. -/
theorem shardReplySendEff_sends {key : Nat} {s : State} {q : Search} (hq : SMap.find? s.work.searches key = some q)
    (hworking : s.working = true) (hphase : q.phase = 0) (hstride : s.stride + 3 = q.admitAt + q.len) :
    shardReplySendEff key s = (s.searchReply q (shareFlags q.poisoned false) q.result []).modSearch key
      fun q => { q with phase := 1, done := true } := by
  simp [shardReplySendEff, hq, hworking, hphase, dueAt, hstride]

/-! ## The commands: each ends in its effect's state where its operands name units of the node (R10, R375) -/

theorem exec_queryAdmission {ring : Nat} {b : Bytes} {tile : TileUse} {s t : State} (hring : ring < 16384)
    (htile : tile.tile < 96) (heff : queryAdmissionEff ring b tile s = t) : exec (.queryAdmission ring b tile) s = .next t :=
  guarded_decide ⟨hring, htile⟩ heff

theorem exec_shardSubRequestReceive {m : Bytes} {rows lists : List Nat} {sorter : SortUse} {s u t : State}
    (hunit : sorter.unit < 16) (harrival : s.arrival 2 (le m 0 2 % 2 ^ 15) m = (true, u))
    (heff : shardSubRequestReceiveEff m rows lists sorter u = t) :
    exec (.shardSubRequestReceive m rows lists sorter) s = .next t :=
  guarded_decide (eff := fun s => s.arrives 2 (le m 0 2 % 2 ^ 15) m (shardSubRequestReceiveEff m rows lists sorter)) hunit
    ((State.arrives_of_taken harrival _).trans heff)

theorem exec_layer0Round {key : Nat} {rows lists : List Nat} {sorter : SortUse} {tile : TileUse} {s t : State}
    (hunit : sorter.unit < 16) (htile : tile.tile < 96) (heff : layer0RoundEff key rows lists sorter tile s = t) :
    exec (.layer0Round key rows lists sorter tile) s = .next t := guarded_decide ⟨hunit, htile⟩ heff

/-- Settles O53, command by command: QUERY_ADMISSION on an entry that passes, that fails and that waits;
SHARD_SUB_REQUEST_RECEIVE on a search that begins and one that is dropped; LAYER0_ROUND; SHARD_REPLY_SEND. -/
theorem queriesSearched : Obligations.QueriesSearched := by
  refine ⟨?admits, ?refuses, ?waits, ?begins, ?drops, ?rounds, ?replies⟩
  case admits =>
    rintro ring b tile s g r k x _ hring htile hsound hup hg hr hkind hmay hk rfl hx hst
    obtain ⟨v, hv⟩ := State.snapshotVersion_of_queryStatus hx hst
    obtain ⟨q, hq, hqueries, htags, hrings, hgaits, hmem, hindexes⟩ :=
      queryAdmissionEff_effect (b := b) hup hg hr hkind hmay hk hx hst hsound
    refine ⟨_, q, exec_queryAdmission hring htile rfl, ?_, htags, ?_, ?_, hq.ring, hq.order, hq.qid, hq.index, hq.context, ?_,
      hq.k, hq.width, hq.depth, hq.m, hq.program, hq.admitAt, hq.phase, hq.cls, hq.waiting, hq.replies, hq.flags, hmem,
      hindexes⟩
    · rw [hqueries, SMap.find?_set_self]
    · rw [State.ring?, hrings]
      exact State.admittedFrom_ring hr k
    · rw [State.admittedNow, hgaits]
      exact s.admittedFrom_admittedNow ring r k
    · have hversion : q.version = v := hq.version.trans (congrArg (Option.getD · 0) hv)
      rw [hversion, hv]
  case refuses =>
    rintro ring b tile s g r k _ st _ hring htile hup hg hr hkind hmay hk rfl hst hne rfl
    have hring' : ((s.admittedFrom ring r k).useTile tile r.context).ring? ring =
        some { r with admitted := r.admitted + 1, stepped := r.stepped + 1, reserved := r.reserved + 1 } := by
      rw [State.ring?, State.useTile_rings]
      exact State.admittedFrom_ring hr k
    refine ⟨_, exec_queryAdmission hring htile (queryAdmissionEff_completes hup hg hr hkind hmay hk hst hne),
      ?_, ?_, ?_, ?_, ?_⟩
    · rw [State.complete_ring hring', State.useTile_stride, Ring.completed, State.mayAdmit_lost hmay]
      rfl
    · rw [State.complete_work, State.useTile_work]
      rfl
    · rw [State.complete_admittedNow, State.useTile_admittedNow, State.admittedFrom_admittedNow]
    · rw [State.complete_mem, State.useTile_mem]
      rfl
    · rw [State.complete_indexes, State.useTile_indexes]
      rfl
  case waits =>
    intro ring b tile s r hring htile hr h
    exact exec_queryAdmission hring htile (queryAdmissionEff_waits hr h)
  case begins =>
    intro m rows lists sorter s u k len q v w hunit harrival hsorter hclass hq hv hmay hroom hstride hw
    obtain ⟨indexes, tables, tel, work, heff⟩ :=
      shardSubRequestReceiveEff_begins hsorter hclass hq hv hmay hroom hstride hw
    exact ⟨_, exec_shardSubRequestReceive hunit harrival heff, SMap.find?_set_self _ _ _, SMap.find?_set_self _ _ _,
      u.admitTo_admittedNow k, rfl, rfl⟩
  case drops =>
    intro m rows lists sorter s u k len q v hunit harrival hsorter hclass hq hv hno
    exact exec_shardSubRequestReceive hunit harrival (shardSubRequestReceiveEff_drops hsorter hclass hq hv hno)
  case rounds =>
    intro key rows lists sorter tile s q v w hunit htile hq hsorter hup hphase hround hplan hv hw
    obtain ⟨indexes, tables, tel, tiles, work, heff, hwork⟩ :=
      layer0RoundEff_rounds hq hsorter hup hphase hround hplan hv hw
    refine ⟨_, exec_layer0Round hunit htile heff, ?_, SMap.find?_set_self _ _ _, fun j hj => ?_, rfl, rfl⟩
    · simp only [hwork, SMap.find?_update_self, hq, Option.map_some]
    · simp only [hwork, SMap.find?_update_ne _ _ hj]
  case replies =>
    intro key s q hq hworking hphase hstride
    exact congrArg Host.Outcome.next (shardReplySendEff_sends hq hworking hphase hstride)

end Sys2Proof.Machine
end

section
/-! SUPPORT. The statement of the messages between nodes: what is read back of a shard sub-request, of an update record and of a
frame's control fields. -/

namespace Sys2Proof.Machine

/-! ## Little-endian fields read back (R4) -/

@[simp] theorem length_toLe (n v : Nat) : (toLe n v).length = n := by rw [toLe, List.length_map, List.length_range]

@[simp] theorem length_zeros (n : Nat) : (zeros n).length = n := List.length_replicate

/-- The lowest byte comes first. -/
theorem toLe_succ (n v : Nat) : toLe (n + 1) v = BitVec.ofNat 8 v :: toLe n (v / 256) := by
  simp only [toLe, List.range_succ_eq_map, List.map_cons, List.map_map, Nat.pow_zero, Nat.div_one, List.cons.injEq, true_and]
  refine List.map_congr_left fun i _ => ?_
  rw [Function.comp_apply, Nat.pow_succ', Nat.div_div_eq_div_mul]

/-- A number written in `n` bytes reads back as far as they hold it. -/
theorem leNat_toLe (n v : Nat) : leNat (toLe n v) = v % 256 ^ n := by
  induction n generalizing v with
  | zero => rw [Nat.pow_zero, Nat.mod_one]; rfl
  | succ n ih =>
    calc leNat (toLe (n + 1) v) = v % 256 + 256 * leNat (toLe n (v / 256)) := by rw [toLe_succ]; rfl
      _ = v % 256 ^ (n + 1) := by rw [ih, Nat.pow_succ', Nat.mod_mul]

/-- A field that stands first. -/
theorem le_toLe_append (n v : Nat) (b : Bytes) : le (toLe n v ++ b) 0 n = v % 256 ^ n := by
  rw [le, List.drop_zero, List.take_left' (length_toLe n v), leNat_toLe]

/-- A field that stands behind others. -/
theorem le_append_of_length_le {a : Bytes} {off : Nat} (h : a.length ≤ off) (b : Bytes) (n : Nat) :
    le (a ++ b) off n = le b (off - a.length) n := by
  rw [le, List.drop_append, List.drop_eq_nil_of_le h, List.nil_append, le]

/-- A byte is a field of one byte. -/
theorem byteAt_eq_le (b : Bytes) (i : Nat) : byteAt b i = le b i 1 := by
  rw [byteAt, le, List.getD_eq_getElem?_getD, List.take_one, List.head?_drop]
  cases b[i]? <;> rfl

/-- Bit 0 of a flag's byte is the flag. -/
theorem bitOf_bit01 (b : Bool) : bitOf (bit01 b) 0 = b := by cases b <;> rfl

theorem bit01_lt (b : Bool) : bit01 b < 256 := by cases b <;> decide

/-! ## Update records (R217) -/

theorem length_recordHeader (node ring handle a n index ctx op key shard id length : Nat) :
    (recordHeader node ring handle a n index ctx op key shard id length).length = 64 := by
  simp only [recordHeader, List.length_append, length_toLe, length_zeros]

/-- The serving member reads a forwarded record as the entry node wrote it. -/
theorem parseForward_recordHeader {node ring handle a n index ctx op key shard id : Nat} {body : Bytes}
    (hnode : node < 2 ^ 15) (hring : ring < 2 ^ 16) (hhandle : handle < 2 ^ 18) (ha : a < 2 ^ 64) (hn : n < 2 ^ 64)
    (hindex : index < 2 ^ 32) (hctx : ctx < 2 ^ 16) (hop : op < 2 ^ 8) (hkey : key < 2 ^ 48) (hshard : shard < 2 ^ 16)
    (hid : id < 2 ^ 32) (hbody : body.length < 2 ^ 32) (len stride : Nat) :
    parseForward (recordHeader node ring handle a n index ctx op key shard id body.length ++ body) len stride =
      { entryNode := node, ring := ring, handle := handle, admitAt := a, sequence := n, index := index, context := ctx,
        op := op, key := key, shard := shard, updateId := id, record := body, search := none, rounds := stride, links := 0,
        len := len } := by
  have hdrop : (recordHeader node ring handle a n index ctx op key shard id body.length ++ body).drop 64 = body :=
    List.drop_left' (length_recordHeader ..)
  have htake : body.take (body.length % 256 ^ 4) = body := by
    rw [Nat.mod_eq_of_lt (by omega), List.take_length]
  simp only [parseForward, hdrop, ServedUpdate.mk.injEq]
  simp only [recordHeader, List.append_assoc, byteAt_eq_le, le_toLe_append, le_append_of_length_le, length_toLe, length_zeros,
    Nat.le_refl, Nat.sub_self, Nat.reduceLeDiff, Nat.reduceSub, htake, and_true]
  omega

/-! ## Shard sub-requests (R90) -/

/-- A sub-request is a header of 64 bytes, the filter block and the query record. -/
theorem subRequest_eq (node shard handle : Nat) (q : Query) (descent : Nat) :
    ∃ head : Bytes, head.length = 64 ∧ subRequest node shard handle q descent = head ++ q.filter ++ q.record :=
  ⟨_, by simp only [List.length_append, length_toLe, length_zeros], rfl⟩

/-- The serving member reads a sub-request as the coordinating node wrote it. -/
theorem searchOf_subRequest {q : Query} {node shard handle : Nat} (hnode : node < 2 ^ 15) (hshard : shard < 2 ^ 16)
    (hhandle : handle < 2 ^ 18) (hadmit : q.admitAt < 2 ^ 64) (hversion : q.version < 2 ^ 64) (hindex : q.index < 2 ^ 32)
    (hctx : q.context < 2 ^ 16) (hwidth : q.width < 2 ^ 8) (hdepth : q.depth < 2 ^ 16) (hfilter : q.filter.length < 2 ^ 16)
    (hrecord : q.record.length < 2 ^ 32) (descent : Nat) (rest : Bytes) (cls : Nat) (elastic : Bool) (len : Nat) :
    let x := searchOf (subRequest node shard handle q descent ++ rest) cls elastic len
    x.coord = node ∧ x.shard = shard ∧ x.handle = handle ∧ x.admitAt = q.admitAt ∧ x.version = q.version ∧
      x.index = q.index ∧ x.context = q.context ∧ x.width = q.width ∧ x.named = q.named ∧ x.depth = q.depth ∧
      x.filter = q.filter ∧ x.record = q.record ∧ x.descent = descent % 2 ^ 16 := by
  have hfilterAt : le (subRequest node shard handle q descent ++ rest) 36 2 = q.filter.length := by
    simp only [subRequest, List.append_assoc, le_toLe_append, le_append_of_length_le, length_toLe, Nat.le_refl,
      Nat.sub_self, Nat.reduceLeDiff, Nat.reduceSub]
    omega
  have hrecordAt : le (subRequest node shard handle q descent ++ rest) 40 4 = q.record.length := by
    simp only [subRequest, List.append_assoc, le_toLe_append, le_append_of_length_le, length_toLe, length_zeros, Nat.le_refl,
      Nat.sub_self, Nat.reduceLeDiff, Nat.reduceSub]
    omega
  have hnamed : bit01 q.named % 256 ^ 1 = bit01 q.named := Nat.mod_eq_of_lt (bit01_lt q.named)
  obtain ⟨head, hhead, heq⟩ := subRequest_eq node shard handle q descent
  have hsubFilter : subFilter (subRequest node shard handle q descent ++ rest) = q.filter := by
    rw [subFilter, hfilterAt, heq, List.append_assoc, List.append_assoc, List.drop_left' hhead, List.take_left' rfl]
  have hsubRecord : subRecord (subRequest node shard handle q descent ++ rest) = q.record := by
    rw [subRecord, hfilterAt, hrecordAt, heq, List.append_assoc, List.drop_left' (by rw [List.length_append, hhead]),
      List.take_left' rfl]
  simp only [searchOf, hsubFilter, hsubRecord, true_and]
  simp only [subRequest, List.append_assoc, byteAt_eq_le, le_toLe_append, le_append_of_length_le, length_toLe, Nat.le_refl,
    Nat.sub_self, Nat.reduceLeDiff, Nat.reduceSub, hnamed, bitOf_bit01, true_and, and_true]
  omega

/-! ## Frame control fields (R289) -/

/-- The number that digits spell, the lowest first. -/
def ofDigits (base : Nat) : List Nat → Nat
  | [] => 0
  | t :: l => t + base * ofDigits base l

theorem sumNat_cons (t : Nat) (l : List Nat) : sumNat (t :: l) = t + sumNat l := by
  simp only [sumNat, ← List.sum_eq_foldl, List.sum_cons]

/-- Digits times the powers of their base, from a power on, sum to a multiple of the digits' number. -/
theorem sumNat_mapIdx_mul_pow_add (base k : Nat) (l : List Nat) :
    sumNat (l.mapIdx fun i t => t * base ^ (i + k)) = base ^ k * ofDigits base l := by
  induction l generalizing k with
  | nil => rfl
  | cons t l ih =>
    have hshift : (l.mapIdx fun i t => t * base ^ (i + 1 + k)) = l.mapIdx fun i t => t * base ^ (i + (k + 1)) := by
      simp only [Nat.add_right_comm _ 1 k, Nat.add_assoc]
    rw [List.mapIdx_cons, sumNat_cons, hshift, ih, ofDigits, Nat.zero_add, Nat.mul_add, Nat.pow_succ, Nat.mul_assoc,
      Nat.mul_comm t]

/-- Digits times the powers of their base sum to the digits' number. -/
theorem sumNat_mapIdx_mul_pow (base : Nat) (l : List Nat) : sumNat (l.mapIdx fun i t => t * base ^ i) = ofDigits base l := by
  have h := sumNat_mapIdx_mul_pow_add base 0 l
  rwa [Nat.pow_zero, Nat.one_mul] at h

/-- Digits below their base spell a number below its power. -/
theorem ofDigits_lt {base : Nat} {l : List Nat} (hl : ∀ t ∈ l, t < base) : ofDigits base l < base ^ l.length := by
  induction l with
  | nil => exact Nat.one_pos
  | cons t l ih =>
    obtain ⟨ht, hl⟩ := List.forall_mem_cons.1 hl
    calc ofDigits base (t :: l) < base * (ofDigits base l + 1) := by rw [ofDigits, Nat.mul_add_one, Nat.add_comm]; omega
      _ ≤ base * base ^ l.length := Nat.mul_le_mul_left base (ih hl)
      _ = base ^ (t :: l).length := by rw [List.length_cons, Nat.pow_succ']

/-- The lowest `n` digits of a number spell its remainder. -/
theorem ofDigits_range (base n w : Nat) :
    ofDigits base ((List.range n).map fun i => w / base ^ i % base) = w % base ^ n := by
  induction n generalizing w with
  | zero => rw [Nat.pow_zero, Nat.mod_one]; rfl
  | succ n ih =>
    have hrest : ((List.range n).map fun i => w / base ^ (i + 1) % base) =
        (List.range n).map fun i => w / base / base ^ i % base :=
      List.map_congr_left fun i _ => by rw [Nat.pow_succ', Nat.div_div_eq_div_mul]
    simp only [List.range_succ_eq_map, List.map_cons, List.map_map, Function.comp_def, Nat.succ_eq_add_one]
    rw [ofDigits, hrest, ih, Nat.pow_zero, Nat.div_one, Nat.pow_succ', Nat.mod_mul]

/-- Digit `i` of a number whose low digits are known, whatever stands above them. -/
theorem ofDigits_add_div_mod {base i : Nat} {l : List Nat} (hl : ∀ t ∈ l, t < base) (hi : i < l.length) (high : Nat) :
    (ofDigits base l + high * base ^ l.length) / base ^ i % base = l[i] := by
  induction l generalizing i with
  | nil => exact absurd hi (Nat.not_lt_zero i)
  | cons t l ih =>
    obtain ⟨ht, hl⟩ := List.forall_mem_cons.1 hl
    have hsplit : ofDigits base (t :: l) + high * base ^ (t :: l).length =
        t + base * (ofDigits base l + high * base ^ l.length) := by
      rw [ofDigits, List.length_cons, Nat.pow_succ', Nat.mul_add, Nat.mul_left_comm, Nat.add_assoc]
    rw [hsplit]
    cases i with
    | zero => rw [Nat.pow_zero, Nat.div_one, Nat.add_mul_mod_self_left, Nat.mod_eq_of_lt ht, List.getElem_cons_zero]
    | succ i =>
      rw [Nat.pow_succ', ← Nat.div_div_eq_div_mul, Nat.add_mul_div_left _ _ (Nat.zero_lt_of_lt ht), Nat.div_eq_of_lt ht,
        Nat.zero_add, ih hl (Nat.lt_of_succ_lt_succ hi), List.getElem_cons_succ]

/-- What stands above the low digits of a number. -/
theorem ofDigits_add_div {base : Nat} {l : List Nat} (hl : ∀ t ∈ l, t < base) (hbase : 0 < base) (high : Nat) :
    (ofDigits base l + high * base ^ l.length) / base ^ l.length = high := by
  rw [Nat.add_mul_div_right _ _ (Nat.pow_pos hbase),
    Nat.div_eq_of_lt (ofDigits_lt hl), Nat.zero_add]

/-- The digits of a frame's control word are the 18 bits that each field carries. -/
theorem frameWord_eq (fields : List Nat) : frameWord fields = ofDigits (2 ^ 18) (fields.map (bitsOf · 2 18)) := by
  rw [← sumNat_mapIdx_mul_pow, frameWord]
  refine congrArg sumNat (List.ext_getElem (by simp only [List.length_mapIdx, List.length_map]) fun i _ _ => ?_)
  simp only [List.getElem_mapIdx, List.getElem_map, Nat.pow_mul]

/-- The frame control word of ten group tags and a half of a header record (R289). -/
def controlWord (tags : List Nat) (half : Nat) : Nat := ofDigits 16 tags + half * 2 ^ 40

/-- A control field is its codeword's index and 18 bits of the control word. -/
theorem controlField_eq (tags : List Nat) (half i : Nat) :
    controlField tags half i = i + 4 * bitsOf (controlWord tags half) (18 * i) 18 := by
  rw [controlField, sumNat_mapIdx_mul_pow, controlWord]

theorem bitsOf_lt (v lo n : Nat) : bitsOf v lo n < 2 ^ n := Nat.mod_lt _ (Nat.two_pow_pos n)

/-- The 18 bits that a control field carries. -/
theorem bitsOf_controlField (tags : List Nat) (half : Nat) {i : Nat} (hi : i < 4) :
    bitsOf (controlField tags half i) 2 18 = bitsOf (controlWord tags half) (18 * i) 18 := by
  have hlt := bitsOf_lt (controlWord tags half) (18 * i) 18
  rw [controlField_eq, bitsOf]
  omega

/-- A control word is a number whose low digits are the tags. -/
theorem controlWord_eq {tags : List Nat} (hlength : tags.length = 10) (half : Nat) :
    controlWord tags half = ofDigits 16 tags + half * 16 ^ tags.length := by
  have hpow : 2 ^ 40 = 16 ^ 10 := by decide
  rw [hlength, controlWord, hpow]

section
variable {tags : List Nat} {half : Nat} (hlength : tags.length = 10) (htags : ∀ t ∈ tags, t < 16) (hhalf : half < 2 ^ 32)
include hlength htags hhalf

theorem controlWord_lt : controlWord tags half < 2 ^ 72 := by
  have := ofDigits_lt htags
  rw [hlength] at this
  rw [controlWord]
  omega

/-- The four control fields of a frame give back its control word. -/
theorem frameWord_controlFields : frameWord ((List.range 4).map (controlField tags half)) = controlWord tags half := by
  have hbits : ((List.range 4).map (controlField tags half)).map (bitsOf · 2 18) =
      (List.range 4).map fun i => controlWord tags half / (2 ^ 18) ^ i % 2 ^ 18 := by
    rw [List.map_map]
    refine List.map_congr_left fun i hi => ?_
    rw [Function.comp_apply, bitsOf_controlField tags half (List.mem_range.1 hi), bitsOf, Nat.pow_mul]
  have hpow : (2 ^ 18) ^ 4 = 2 ^ 72 := by decide
  rw [frameWord_eq, hbits, ofDigits_range, hpow, Nat.mod_eq_of_lt (controlWord_lt hlength htags hhalf)]

/-- The ten group tags read back. -/
theorem frameTags_controlFields : frameTags ((List.range 4).map (controlField tags half)) = tags := by
  refine List.ext_getElem (by rw [frameTags, List.length_map, List.length_range, hlength]) fun g _ hg => ?_
  simp only [frameTags, List.getElem_map, List.getElem_range, frameWord_controlFields hlength htags hhalf, bitsOf]
  rw [controlWord_eq hlength, Nat.pow_mul]
  exact ofDigits_add_div_mod htags hg half

/-- The half of a header record reads back. -/
theorem frameHalf_controlFields : frameHalf ((List.range 4).map (controlField tags half)) = half := by
  have hpow : 2 ^ 40 = 16 ^ 10 := by decide
  rw [frameHalf, frameWord_controlFields hlength htags hhalf, bitsOf, hpow, ← hlength, controlWord_eq hlength,
    ofDigits_add_div htags (by decide) half, Nat.mod_eq_of_lt hhalf]

end

/-- The codewords of a frame come in the order of their indexes. -/
theorem frameIndexes_controlFields (tags : List Nat) (half : Nat) :
    frameIndexes ((List.range 4).map (controlField tags half)) = [0, 1, 2, 3] := by
  have hindex : ∀ i ∈ List.range 4, (controlField tags half i) % 4 = id i := fun i hi => by
    rw [controlField_eq, Nat.add_mul_mod_self_left, Nat.mod_eq_of_lt (List.mem_range.1 hi), id]
  have hmap : ((List.range 4).map (controlField tags half)).map (· % 4) = List.range 4 := by
    rw [List.map_map]
    exact (List.map_congr_left hindex).trans (List.map_id _)
  rw [frameIndexes, hmap]
  rfl

/-- A control field has 20 bits. -/
theorem controlField_lt (tags : List Nat) (half : Nat) {i : Nat} (hi : i < 4) : controlField tags half i < 2 ^ 20 := by
  have := bitsOf_lt (controlWord tags half) (18 * i) 18
  rw [controlField_eq]
  omega

/-- Settles O15, message by message: update records, shard sub-requests, frame control fields. -/
theorem messagesReadBack : Obligations.MessagesReadBack := by
  refine ⟨?record, ?request, ?control⟩
  case record =>
    intro node ring handle a n index ctx op key shard id body len stride hnode hring hhandle ha hn hindex hctx hop hkey
      hshard hid hbody
    exact ⟨parseForward_recordHeader hnode hring hhandle ha hn hindex hctx hop hkey hshard hid hbody len stride,
      length_recordHeader ..⟩
  case request =>
    intro q node shard handle descent rest cls elastic len hnode hshard hhandle hadmit hversion hindex hctx hwidth hdepth
      hfilter hrecord
    exact searchOf_subRequest hnode hshard hhandle hadmit hversion hindex hctx hwidth hdepth hfilter hrecord descent rest cls
      elastic len
  case control =>
    rintro tags half _ hlength htag hhalf rfl
    have htags : ∀ t ∈ tags, t < 16 := fun t ht => Nat.lt_of_le_of_lt (htag t ht) (by decide)
    refine ⟨frameTags_controlFields hlength htags hhalf, frameHalf_controlFields hlength htags hhalf,
      frameIndexes_controlFields tags half, fun f hf => ?_⟩
    obtain ⟨i, hi, rfl⟩ := List.mem_map.1 hf
    exact controlField_lt tags half (List.mem_range.1 hi)

end Sys2Proof.Machine
end

section
/-! SUPPORT. The statement of a query's completion: the replies of its shards, their merge, the deadline of absent replies and
the final merge. -/

namespace Sys2Proof.Machine

/-! ## Selections that no parity error meets (R134, R137 to R141) -/

/-- The block steps read the register that serves and the parity mark alone of what a unit held before. -/
theorem SortUnit.blocks_congr (dedup : Bool) (kp : Nat) (use : Entry → Bool) (parity : List Nat) (fuel step : Nat)
    (input : List Entry) {u v : SortUnit} (hserving : u.serving = v.serving) (hparity : u.parity = v.parity) :
    (SortUnit.blocks dedup kp use parity fuel step u input).serving =
      (SortUnit.blocks dedup kp use parity fuel step v input).serving ∧
    (SortUnit.blocks dedup kp use parity fuel step u input).parity =
      (SortUnit.blocks dedup kp use parity fuel step v input).parity := by
  induction fuel generalizing step u v input with
  | zero => exact ⟨hserving, hparity⟩
  | succ fuel ih =>
    unfold SortUnit.blocks
    split
    · exact ⟨hserving, hparity⟩
    · refine ih _ _ ?_ ?_ <;> simp only [SortUnit.blockStep, hserving, hparity]

/-- Without a parity error the block steps leave no parity mark. -/
theorem SortUnit.blocks_parity (dedup : Bool) (kp : Nat) (use : Entry → Bool) (fuel step : Nat) (u : SortUnit)
    (input : List Entry) : (SortUnit.blocks dedup kp use [] fuel step u input).parity = u.parity := by
  induction fuel generalizing step u input with
  | zero => rfl
  | succ fuel ih =>
    unfold SortUnit.blocks
    split
    · rfl
    · rw [ih]
      simp [SortUnit.blockStep]

/-- What a pass selects is the same on every unit. -/
theorem Selection.pass_fst_congr (dedup : Bool) (parity : List Nat) (input : List Entry) (c : Selection) (u v : SortUnit) :
    (Selection.pass dedup parity input (c, u)).1 = (Selection.pass dedup parity input (c, v)).1 := by
  obtain ⟨hserving, hmark⟩ := SortUnit.blocks_congr dedup (min 64 c.want) (c.uses dedup) parity (blockSteps input) c.steps
    input (u := { u with parity := false }.load [] none c.excl) (v := { v with parity := false }.load [] none c.excl) rfl rfl
  unfold Selection.pass
  simp only
  split
  · rfl
  · simp only [hserving, hmark]

/-- What passes select is the same on every unit. -/
theorem Selection.passes_fst_congr (dedup : Bool) (parity : List Nat) (input : List Entry) (n : Nat) (c : Selection)
    (u v : SortUnit) :
    (Selection.passes dedup parity input n (c, u)).1 = (Selection.passes dedup parity input n (c, v)).1 := by
  induction n generalizing c u v with
  | zero => rfl
  | succ n ih =>
    have hpass := Selection.pass_fst_congr dedup parity input c u v
    rw [Selection.passes, Selection.passes, ← Prod.eta (Selection.pass dedup parity input (c, u)), hpass]
    exact ih ..

/-- Without a parity error a selection stays as sound as it was. -/
theorem Selection.passes_poisoned (dedup : Bool) (input : List Entry) (n : Nat) (p : Selection × SortUnit) :
    (Selection.passes dedup [] input n p).1.poisoned = p.1.poisoned := by
  induction n generalizing p with
  | zero => rfl
  | succ n ih =>
    rw [Selection.passes, ih, Selection.pass]
    split
    · rfl
    · simp only [SortUnit.blocks_parity, SortUnit.load, Bool.or_false]

/-- A selection that has ended stays as it is. -/
theorem Selection.passes_of_ended (dedup : Bool) (parity : List Nat) (input : List Entry) (n : Nat) {p : Selection × SortUnit}
    (h : p.1.ended = true) : Selection.passes dedup parity input n p = p := by
  induction n with
  | zero => rfl
  | succ n ih => rw [Selection.passes, Selection.pass, if_pos h, ih]

/-- A selection that wants no more than its passes can give has ended after them. -/
theorem Selection.passes_ended (dedup : Bool) (parity : List Nat) (input : List Entry) (n : Nat) (p : Selection × SortUnit)
    (hwant : p.1.want ≤ 64 * (n + 1)) : (Selection.passes dedup parity input (n + 1) p).1.ended = true := by
  induction n generalizing p with
  | zero =>
    rw [Selection.passes, Selection.passes, Selection.pass]
    split
    · assumption
    · simp only [Bool.or_eq_true, decide_eq_true_eq]
      exact .inr (by omega)
  | succ n ih =>
    by_cases h : p.1.ended = true
    · rw [Selection.passes_of_ended _ _ _ _ h]
      exact h
    · rw [Selection.passes]
      refine ih _ ?_
      rw [Selection.pass, if_neg h]
      simp only
      omega

/-- Without a parity error a unit selects as `select` says. -/
theorem select_of_sortUnit (u : SortUnit) (dedup : Bool) (k : Nat) (input : List Entry) :
    (u.select dedup k [] input).1 = select dedup k input := Selection.passes_fst_congr ..

/-- A selection of the best `k` ends sound, in `k / 64 + 1` passes. -/
theorem select_ended (dedup : Bool) (k : Nat) (input : List Entry) : (select dedup k input).ended = true :=
  Selection.passes_ended dedup [] _ _ _ (by
    show k ≤ 64 * (k / 64 + 1)
    omega)

theorem select_poisoned (dedup : Bool) (k : Nat) (input : List Entry) : (select dedup k input).poisoned = false :=
  Selection.passes_poisoned dedup _ _ _

/-! ## Flags (R75, R103) -/

theorem hasFlag_or (a b f : BitVec 16) : hasFlag (a ||| b) f = (hasFlag a f || hasFlag b f) := by
  rw [Bool.eq_iff_iff]
  simp only [hasFlag, BitVec.and_comm _ f, BitVec.and_or_distrib_left, decide_eq_true_eq, Bool.or_eq_true, ne_eq,
    BitVec.ofNat_eq_ofNat, BitVec.or_eq_zero_iff, Decidable.not_and_iff_or_not]

/-- A flag whose condition fails adds nothing. -/
@[simp] theorem or_flagIf_false (flags f : BitVec 16) : flags ||| flagIf false f = flags := BitVec.or_zero

/-- A query that re-ranked is marked EXACT. -/
theorem hasFlag_resultFlags_exact (gathered : BitVec 16) (program tie : Bool) (l : List Entry) :
    hasFlag (resultFlags gathered true program tie l) hdrExact = true := by
  have hexact : hasFlag (flagIf true hdrExact) hdrExact = true := by decide
  simp only [resultFlags, hasFlag_or, hexact, Bool.or_true, Bool.true_or]

/-- A query whose program ran is marked PROGRAM. -/
theorem hasFlag_resultFlags_program (gathered : BitVec 16) (reranked tie : Bool) (l : List Entry) :
    hasFlag (resultFlags gathered reranked true tie l) hdrProgram = true := by
  have hprogram : hasFlag (flagIf true hdrProgram) hdrProgram = true := by decide
  simp only [resultFlags, hasFlag_or, hprogram, Bool.or_true, Bool.true_or]

/-! ## What shared operations change -/

/-- Stopped shares are counted in the telemetry. -/
theorem State.countStops_eq (s : State) (n : Nat) : ∃ tel, s.countStops n = { s with tel := tel } := by
  unfold State.countStops
  split
  · exact ⟨_, rfl⟩
  · exact ⟨_, rfl⟩

@[simp] theorem State.countStops_zero (s : State) : s.countStops 0 = s := rfl

@[simp] theorem State.countStops_work (s : State) (n : Nat) : (s.countStops n).work = s.work := by
  obtain ⟨tel, h⟩ := s.countStops_eq n
  rw [h]

@[simp] theorem State.countStops_rings (s : State) (n : Nat) : (s.countStops n).rings = s.rings := by
  obtain ⟨tel, h⟩ := s.countStops_eq n
  rw [h]

@[simp] theorem State.countStops_mem (s : State) (n : Nat) : (s.countStops n).mem = s.mem := by
  obtain ⟨tel, h⟩ := s.countStops_eq n
  rw [h]

/-! What a selection leaves in its sort unit, and a share in its tile, touches nothing else. -/

@[simp] theorem State.putSort_work (s : State) (n : Nat) (u : SortUnit) : (s.putSort n u).work = s.work := rfl

@[simp] theorem State.putSort_rings (s : State) (n : Nat) (u : SortUnit) : (s.putSort n u).rings = s.rings := rfl

@[simp] theorem State.putSort_mem (s : State) (n : Nat) (u : SortUnit) : (s.putSort n u).mem = s.mem := rfl

@[simp] theorem State.placeBatch_work (s : State) (tile key : Nat) (batch : List Nat) :
    (s.placeBatch tile key batch).work = s.work := rfl

@[simp] theorem State.placeBatch_rings (s : State) (tile key : Nat) (batch : List Nat) :
    (s.placeBatch tile key batch).rings = s.rings := rfl

@[simp] theorem State.placeBatch_programs (s : State) (tile key : Nat) (batch : List Nat) :
    (s.placeBatch tile key batch).programs = s.programs := rfl

@[simp] theorem State.ranProgram_work (s : State) (key : Nat) (p : Program) (tile : TileUse) (tokens : List (List Word32)) :
    (s.ranProgram key p tile tokens).work = s.work := rfl

@[simp] theorem State.ranProgram_rings (s : State) (key : Nat) (p : Program) (tile : TileUse) (tokens : List (List Word32)) :
    (s.ranProgram key p tile tokens).rings = s.rings := rfl

/-- A stride's own share is due. -/
@[simp] theorem dueAt_self (elastic : Bool) (n : Nat) : dueAt elastic n n = true := by simp [dueAt]

/-- A listed value is changed in its place. -/
theorem SMap.update_of_find? {α : Type} {m : SMap α} {k : Nat} {v : α} (h : SMap.find? m k = some v) (g : α → α) :
    SMap.update m k g = SMap.set m k (g v) := by
  rw [SMap.update, h]

/-- A listed query is changed in its place. -/
theorem State.modQuery_of_find? {s : State} {h : Nat} {q : Query} (hq : SMap.find? s.work.queries h = some q)
    (g : Query → Query) :
    s.modQuery h g = { s with work := { s.work with queries := SMap.set s.work.queries h (g q) } } := by
  rw [State.modQuery, SMap.update_of_find? hq]

/-- A changed query under its handle. -/
theorem State.modQuery_find?_self (s : State) (h : Nat) (g : Query → Query) :
    SMap.find? (s.modQuery h g).work.queries h = (SMap.find? s.work.queries h).map g := SMap.find?_update_self ..

/-- The other queries stay. -/
theorem State.modQuery_find?_ne (s : State) {h j : Nat} (g : Query → Query) (hj : j ≠ h) :
    SMap.find? (s.modQuery h g).work.queries j = SMap.find? s.work.queries j := SMap.find?_update_ne _ _ hj

/-! ## Replies of shards (R97, R105) -/

/-- SHARD_REPLY_RECEIVE: the reply of a shard awaited joins its query. -/
theorem shardReplyReceiveEff_joins {m a : Bytes} {s : State} {q : Query}
    (hq : SMap.find? s.work.queries (asideHandle a) = some q) (hphase : q.phase = 0) (hchain : q.chain = none)
    (hstride : s.stride + 5 = q.admitAt + q.len) (hawaited : asideShard a ∈ q.waiting) :
    shardReplyReceiveEff m a s = (s.modQuery (asideHandle a) fun q =>
      { q with replies := SMap.set q.replies (asideShard a) (replyEntries m a), waiting := q.waiting.filter (· ≠ asideShard a),
               flags := q.flags ||| replyFlags m }).takeShare q.admitAt q.cls 1 1 := by
  have hjoins : ¬(q.phase ≠ 0 ∨ q.chain.isSome = true ∨ (!dueAt q.elastic (s.stride + 5) (q.admitAt + q.len)) = true ∨
      (!q.waiting.contains (asideShard a)) = true) := by
    simp [hphase, hchain, hstride, hawaited]
  simp only [shardReplyReceiveEff, hq, if_neg hjoins]

/-- SHARD_REPLY_RECEIVE: a reply to no query is late. -/
theorem shardReplyReceiveEff_late {m a : Bytes} {s : State} (hq : SMap.find? s.work.queries (asideHandle a) = none) :
    shardReplyReceiveEff m a s = s.lateReply := by
  simp only [shardReplyReceiveEff, hq]

/-! ## QUERY_MERGE (R98, R99, R142) -/

/-- QUERY_MERGE: the passes run on the sort unit, and the merge ends with its selection. -/
theorem queryMergeEff_runs {h passes : Nat} {sorter : SortUse} {s : State} {q : Query} {begun : Selection}
    {p : Selection × SortUnit} (hq : SMap.find? s.work.queries h = some q) (hworking : s.working = true)
    (hup : s.unitUp 0x03 sorter.unit = true) (hphase : q.phase = 0) (hmerges : q.merges s.stride = true)
    (hbegun : begun = q.chain.getD (Selection.start (max q.k q.m)))
    (hp : p = Selection.passes true (sorter.parity.map (· + begun.steps)) (numbered (q.replies.flatMap (·.2))) passes
      (begun, s.sortUnit sorter.unit)) :
    queryMergeEff h passes sorter s =
      let q1 : Query := { q with
        chain := some p.1, waiting := []
        flags := q.flags ||| flagIf (!q.waiting.isEmpty) hdrLate ||| flagIf p.1.poisoned hdrPoisoned }
      let s1 := (s.countStops q.waiting.length).putSort sorter.unit p.2
      if p.1.ended = true then s1.mergeEnds h q1 p.1 else s1.modQuery h fun _ => q1 := by
  have hruns : ¬((!s.working) = true ∨ (!s.unitUp 0x03 sorter.unit) = true ∨ q.phase ≠ 0 ∨
      (!q.merges s.stride) = true) := by
    simp [hworking, hup, hphase, hmerges]
  simp only [queryMergeEff, hq, if_neg hruns, ← hbegun, ← hp]

/-- QUERY_MERGE: without a parity error the passes that the selection takes end the merge with it. -/
theorem queryMergeEff_ends {h : Nat} {sorter : SortUse} {s : State} {q : Query} (hparity : sorter.parity = [])
    (hq : SMap.find? s.work.queries h = some q) (hworking : s.working = true) (hup : s.unitUp 0x03 sorter.unit = true)
    (hphase : q.phase = 0) (hchain : q.chain = none) (hstride : s.stride + 4 = q.admitAt + q.len) :
    ∃ unit,
      let c := select true (max q.k q.m) (q.replies.flatMap (·.2))
      queryMergeEff h (max q.k q.m / 64 + 1) sorter s =
        ((s.countStops q.waiting.length).putSort sorter.unit unit).mergeEnds h { q with
          chain := some c, waiting := [], flags := q.flags ||| flagIf (!q.waiting.isEmpty) hdrLate } c := by
  have hmerges : q.merges s.stride = true := by
    simp only [Query.merges, Bool.and_eq_true, Bool.or_eq_true, decide_eq_true_eq]
    exact ⟨by omega, .inr (by omega)⟩
  have hruns := queryMergeEff_runs (passes := max q.k q.m / 64 + 1) hq hworking hup hphase hmerges rfl rfl
  have hsel := select_of_sortUnit (s.sortUnit sorter.unit) true (max q.k q.m) (q.replies.flatMap (·.2))
  rw [SortUnit.select] at hsel
  simp only [hchain, hparity, List.map_nil, Option.getD_none, hsel, select_ended, select_poisoned, or_flagIf_false,
    if_true] at hruns
  exact ⟨_, hruns⟩

/-- Re-rank requests leave the works, the rings and HBM. -/
theorem State.sendReranks_frame (s : State) (h : Nat) (q : Query) (set : List Entry) :
    (s.sendReranks h q set).work = s.work ∧ (s.sendReranks h q set).rings = s.rings ∧
      (s.sendReranks h q set).mem = s.mem := by
  refine foldl_holds (P := fun t : State => t.work = s.work ∧ t.rings = s.rings ∧ t.mem = s.mem)
    (fun t p ht => ?_) q.serving ⟨rfl, rfl, rfl⟩
  simp only
  split
  · exact ht
  · split <;> simpa using ht

/-- Row requests leave the works, the rings and HBM. -/
theorem State.sendLookups_frame (s : State) (x : Table) (table handle admitAt version : Nat) (rows : List Nat) :
    (s.sendLookups x table handle admitAt version rows).1.work = s.work ∧
    (s.sendLookups x table handle admitAt version rows).1.rings = s.rings ∧
    (s.sendLookups x table handle admitAt version rows).1.mem = s.mem :=
  ⟨foldl_keeps State.work (fun _ _ => State.send_work ..) _ s, foldl_keeps State.rings (fun _ _ => State.send_rings ..) _ s,
    foldl_keeps State.mem (fun _ _ => State.send_mem ..) _ s⟩

/-- Features are asked for where the program has any; the query then awaits them, and works, rings and HBM stay. -/
theorem State.sendFeatures_cases (s : State) (h : Nat) (q : Query) :
    s.sendFeatures h q = s ∨ ∃ t : State, ∃ asked,
      s.sendFeatures h q = t.modQuery h (fun q => { q with featAwait := asked }) ∧
      t.work = s.work ∧ t.rings = s.rings ∧ t.mem = s.mem := by
  unfold State.sendFeatures
  split
  · exact .inl rfl
  · split
    · exact .inl rfl
    · split
      · exact .inr ⟨s, _, rfl, rfl, rfl, rfl⟩
      · exact .inr ⟨_, _, rfl, s.sendLookups_frame ..⟩

/-- The end of a merge: the query keeps what was selected and awaits the shards asked; other queries, the rings and HBM stay. -/
theorem State.mergeEnds_effect {s : State} {h : Nat} {q0 : Query} (hq : SMap.find? s.work.queries h = some q0) (q : Query)
    (sel : Selection) :
    ∃ u, SMap.find? (s.mergeEnds h q sel).work.queries h = some u ∧ u.phase = 1 ∧
      u.merged = (if q.m = 0 then sel.out else rerankSet q.m q.shardCap q.channelCap sel.out) ∧ u.dups = sel.dups ∧
      u.waiting = (if q.m = 0 then [] else dedupNat (u.merged.map (·.shard))) ∧ u.flags = q.flags ∧ u.replies = q.replies ∧
      (s.mergeEnds h q sel).rings = s.rings ∧ (s.mergeEnds h q sel).mem = s.mem ∧
      ∀ j, j ≠ h → SMap.find? (s.mergeEnds h q sel).work.queries j = SMap.find? s.work.queries j := by
  unfold State.mergeEnds
  extract_lets set asked q1 s1 s2
  obtain ⟨hwork, hrings, hmem⟩ : s2.work = s1.work ∧ s2.rings = s1.rings ∧ s2.mem = s1.mem := by
    unfold s2
    split
    · exact ⟨rfl, rfl, rfl⟩
    · exact s1.sendReranks_frame h q1 set
  have hself : SMap.find? s2.work.queries h = some q1 := by
    rw [hwork, State.modQuery_find?_self, hq, Option.map_some]
  have hother : ∀ j, j ≠ h → SMap.find? s2.work.queries j = SMap.find? s.work.queries j := fun j hj => by
    rw [hwork, State.modQuery_find?_ne _ _ hj]
  have hend : (if q.program = 0xFFFF then s2 else s2.sendFeatures h q1) = s2 ∨ ∃ t : State, ∃ features,
      (if q.program = 0xFFFF then s2 else s2.sendFeatures h q1) = t.modQuery h (fun q => { q with featAwait := features }) ∧
      t.work = s2.work ∧ t.rings = s2.rings ∧ t.mem = s2.mem := by
    split
    · exact .inl rfl
    · exact s2.sendFeatures_cases h q1
  obtain hend | ⟨t, features, hend, htwork, htrings, htmem⟩ := hend <;> rw [hend]
  · exact ⟨q1, hself, rfl, rfl, rfl, rfl, rfl, rfl, hrings, hmem, hother⟩
  · refine ⟨{ q1 with featAwait := features }, ?_, rfl, rfl, rfl, rfl, rfl, rfl, htrings.trans hrings, htmem.trans hmem,
      fun j hj => ?_⟩
    · refine (State.modQuery_find?_self ..).trans ?_
      rw [htwork, hself, Option.map_some]
    · refine (State.modQuery_find?_ne _ _ hj).trans ?_
      rw [htwork, hother j hj]

/-! ## REPLY_DEADLINE (R30, R105) -/

/-- REPLY_DEADLINE: the shares absent at the end of their stride are stopped, and the query is late. -/
theorem replyDeadlineEff_stops {h : Nat} {s : State} {q : Query} (hq : SMap.find? s.work.queries h = some q)
    (hwindow : s.clk.window = 2) (helastic : q.elastic = false) (hphase : q.phase = 0)
    (hstride : s.stride + 5 = q.admitAt + q.len) (hwaiting : q.waiting ≠ []) :
    replyDeadlineEff h s = (s.countStops q.waiting.length).modQuery h fun q =>
      { q with flags := q.flags ||| hdrLate, waiting := [] } := by
  simp [replyDeadlineEff, hwindow, hq, helastic, hphase, hstride, hwaiting]

/-- REPLY_DEADLINE: a lookup with a reply absent at the end of its stride is late. -/
theorem replyDeadlineEff_lookup {h : Nat} {s : State} {l : Lookup} (hq : SMap.find? s.work.queries h = none)
    (hl : SMap.find? s.work.lookups h = some l) (hwindow : s.clk.window = 2) (hstride : s.stride = l.admitAt + 1)
    (hawaiting : l.awaiting ≠ []) :
    replyDeadlineEff h s =
      { s with work := { s.work with lookups := SMap.set s.work.lookups h { l with late := true } } } := by
  simp [replyDeadlineEff, hwindow, hq, hl, hstride, hawaiting, SMap.update_of_find? hl]

/-- Shares that are stopped are overruns. -/
theorem State.countStops_overruns (s : State) {n : Nat} (hn : n ≠ 0) :
    (s.countStops n).tel.node.overruns = s.tel.node.overruns + n ∧ (s.countStops n).tel.overrun = true := by
  rw [State.countStops, if_neg hn]
  exact ⟨rfl, rfl⟩

/-! ## FINAL_MERGE (R102, R103, R151, R156) -/

/-- A ring of an attached function takes a completion in the slot reserved for it. -/
theorem Ring.completed_of_attached {r : Ring} (hlost : r.lost = false) (stride admitAt order : Nat) (entry : Bytes) :
    r.completed stride admitAt order entry =
      { r with reserved := r.reserved - 1, written := r.written ++ [(stride, admitAt, order, entry)] } := by
  simp [Ring.completed, hlost]

/-- A query's completion leaves the slot of its ring that was reserved for it written, and its handle free. -/
theorem State.finishQuery_effect (s : State) (q : Query) (h : Nat) (flags : BitVec 16) (st : Nat) (l : List Entry) {r : Ring}
    (hr : s.ring? q.ring = some r) :
    (s.finishQuery h q flags st l).ring? q.ring = some (r.completed s.clk.stride q.admitAt q.order
        (queryCompletion q.qid s.stride q.k flags.toNat st (if st = stOk then q.dups else 0) q.version q.admitAt l)) ∧
    (s.finishQuery h q flags st l).work.queries = SMap.erase s.work.queries h ∧
    (s.finishQuery h q flags st l).work.tags = s.work.tags.filter (· ≠ h) ∧
    (s.finishQuery h q flags st l).mem = s.mem ∧ (s.finishQuery h q flags st l).indexes = s.indexes :=
  ⟨State.complete_ring hr .., rfl, rfl, rfl, rfl⟩

/-- A query without a program and without a re-rank completes with its merged list. -/
theorem State.completeQuery_whole {s : State} {h : Nat} {q : Query} {w : Bool} {sorter : SortUse}
    (hprogram : s.queryProgram q = none) (hm : q.m = 0) (hlate : q.late = false) (hwaiting : q.waiting = [])
    (hentries : ∀ e ∈ q.merged, hasFlag e.flags flLate = false) :
    s.completeQuery h q w sorter = s.finishQuery h q (resultFlags q.flags false false q.tie q.merged) stOk q.merged := by
  have hany : (q.merged.any fun e => hasFlag e.flags flLate) = false := by
    simpa using hentries
  simp only [State.completeQuery, hprogram, hm, hlate, hwaiting, Query.finalSet, if_true, hany, Option.isSome_none,
    Option.isNone_none, decide_true, Bool.and_self, Bool.false_and, List.isEmpty_nil, Bool.not_true, Bool.or_self,
    or_flagIf_false, Nat.lt_irrefl, decide_false, List.length_nil, Bool.false_eq_true, if_false, Nat.add_zero,
    State.countStops_zero]

/-- A query with a re-rank or a program completes with what a selection keeps of its final candidates. -/
theorem State.completeQuery_selects {s : State} {q : Query} {sorter : SortUse} {p? : Option Program}
    (hprogram : s.queryProgram q = p?) (hpartial : (decide (q.m = 0) && p?.isNone) = false) (hparity : sorter.parity = [])
    (h : Nat) (w : Bool) :
    ∃ gathered tie unit,
      let out := (select true q.k (p?.elim q.finalSet fun p => q.applyProgram p w q.finalSet)).out
      s.completeQuery h q w sorter =
        ((s.countStops (q.waiting.length + if p?.isSome = true then q.featAwait.length else 0)).putSort sorter.unit
          unit).finishQuery h q
          (resultFlags gathered (decide (0 < q.m)) (p?.isSome && q.featAwait.isEmpty) tie out) stOk out := by
  simp only [State.completeQuery, hprogram, hpartial, hparity, select_of_sortUnit, Bool.false_eq_true, if_false]
  cases p? with
  | none => exact ⟨_, _, _, rfl⟩
  | some p => exact ⟨_, _, _, rfl⟩

/-- FINAL_MERGE of a query without a program. -/
theorem finalMergeEff_plain {h : Nat} {w : Bool} {sorter : SortUse} {tile : TileUse} {s : State} {q : Query}
    (hq : SMap.find? s.work.queries h = some q) (hworking : s.working = true) (hsort : s.unitUp 0x03 sorter.unit = true)
    (htile : s.unitUp 0x01 tile.tile = true) (hphase : q.phase = 1) (hstride : s.stride + 1 = q.admitAt + q.len)
    (hprogram : s.queryProgram q = none) : finalMergeEff h w sorter tile s = s.completeQuery h q w sorter := by
  simp [finalMergeEff, hq, hworking, hsort, htile, hphase, hstride, hprogram]

/-- FINAL_MERGE of a query whose program has its features: its group joins the tile's batch, and the program runs where the
plan gives the batch its cycles. -/
theorem finalMergeEff_program {h : Nat} {w : Bool} {sorter : SortUse} {tile : TileUse} {s : State} {q : Query} {p : Program}
    {key due cost : Nat} {batch : List Nat}
    (hq : SMap.find? s.work.queries h = some q) (hworking : s.working = true) (hsort : s.unitUp 0x03 sorter.unit = true)
    (htile : s.unitUp 0x01 tile.tile = true) (hphase : q.phase = 1) (hstride : s.stride + 1 = q.admitAt + q.len)
    (hprogram : s.queryProgram q = some p) (hfeatures : q.featAwait = []) (hkey : key = programKey q.context q.program)
    (hbatch : batch = (s.tile tile.tile).batchWith s.stride key q.finalSet.length) (hdue : due = q.admitAt + q.len - 1)
    (hcost : cost = p.span batch + (s.tile tile.tile).zeroing q.context) :
    finalMergeEff h w sorter tile s =
      let s1 := (s.useTile tile q.context).placeBatch tile.tile key batch
      if s.lacks q.admitAt q.cls due tile.tile cost = true then s1.needs (8 * h) q.admitAt q.cls due tile.tile cost
      else (s1.ranProgram key p tile (p.tokens q q.finalSet)).completeQuery h q (w || tile.lost) sorter := by
  subst hkey hbatch hdue hcost
  simp [finalMergeEff, hq, hworking, hsort, htile, hphase, hstride, hprogram, hfeatures]

/-- A program that ran is still the one that its queries name, with another window. -/
theorem State.ranProgram_queryProgram {s : State} {q : Query} {p : Program} (hprogram : s.queryProgram q = some p)
    (tile : TileUse) (tokens : List (List Word32)) :
    (s.ranProgram (programKey q.context q.program) p tile tokens).queryProgram q =
      some { p with window := p.windowAfter p.layers.length } := by
  unfold State.queryProgram at hprogram ⊢
  split at hprogram
  · contradiction
  · rw [if_neg ‹_›, State.ranProgram]
    simp only [SMap.find?_update_self, hprogram, Option.map_some]

/-- What a program makes of the candidates does not turn on its window. -/
theorem Query.applyProgram_window (q : Query) (p : Program) (window : List Nat) (w : Bool) (l : List Entry) :
    q.applyProgram { p with window := window } w l = q.applyProgram p w l := rfl

/-! ## The commands -/

/-- Settles O54, command by command: SHARD_REPLY_RECEIVE on a reply awaited and on one that is not; QUERY_MERGE whose selection
ends and one whose selection waits; REPLY_DEADLINE of a query and of a lookup; FINAL_MERGE of a query as it stands, of one that
re-ranks, of one with a program and of one whose program overruns; what a completion leaves. -/
theorem queriesCompleted : Obligations.QueriesCompleted := by
  refine ⟨?joins, ?late, ?ends, ?waits, ?stops, ?lookup, ?whole, ?reranked, ?program, ?overruns, ?completes⟩
  case joins =>
    intro m a s w q harrival hq hphase hchain hstride hawaited
    refine congrArg Host.Outcome.next ((State.arrives_of_taken harrival _).trans ?_)
    rw [shardReplyReceiveEff_joins hq hphase hchain hstride hawaited, State.modQuery_of_find? hq]
  case late =>
    intro m a s w harrival hq
    exact congrArg Host.Outcome.next ((State.arrives_of_taken harrival _).trans (shardReplyReceiveEff_late hq))
  case ends =>
    rintro h sorter s q _ _ hh hunit hparity hq hworking hup hphase hchain hstride rfl rfl
    obtain ⟨unit, heff⟩ := queryMergeEff_ends hparity hq hworking hup hphase hchain hstride
    obtain ⟨u, hu, huphase, humerged, hudups, huwaiting, huflags, hureplies, hrings, hmem, hother⟩ :=
      State.mergeEnds_effect (s := (s.countStops q.waiting.length).putSort sorter.unit unit) (h := h) (q0 := q)
        (by simpa using hq) _ _
    refine ⟨_, u, guarded_decide ⟨hh, hunit⟩ heff, hu, huphase, humerged, hudups, ?_, ?_, hureplies, ?_, ?_, ?_⟩
    · rw [huwaiting, humerged]
    · exact huflags
    · simpa using hrings
    · simpa using hmem
    · simpa using hother
  case waits =>
    intro h passes sorter s q begun p hh hunit hq hworking hup hphase hmerges hbegun hp hended
    refine ⟨_, guarded_decide ⟨hh, hunit⟩ (queryMergeEff_runs hq hworking hup hphase hmerges hbegun hp), ?_⟩
    simp only [hended, Bool.false_eq_true, if_false]
    refine ⟨?_, ?_, ?_, ?_⟩
    · rw [State.modQuery_find?_self]
      simp [hq]
    · exact SMap.find?_set_self ..
    · simp
    · simp
  case stops =>
    intro h s q hh hq hwindow helastic hphase hstride hwaiting
    have hcounted : SMap.find? (s.countStops q.waiting.length).work.queries h = some q := by rwa [State.countStops_work]
    obtain ⟨hoverruns, hflag⟩ := s.countStops_overruns (n := q.waiting.length) (by simpa using hwaiting)
    refine ⟨_, guarded_decide hh (replyDeadlineEff_stops hq hwindow helastic hphase hstride hwaiting), ?_, hoverruns, hflag⟩
    rw [State.modQuery_of_find? hcounted, State.countStops_work]
  case lookup =>
    intro h s l hh hq hl hwindow hstride hawaiting
    exact guarded_decide hh (replyDeadlineEff_lookup hq hl hwindow hstride hawaiting)
  case whole =>
    intro h w sorter tile s q hh hunit htile hq hworking hsort hup hphase hstride hnone hm hlate hwaiting hentries
    have hprogram : s.queryProgram q = none := if_pos hnone
    exact guarded_decide ⟨hh, hunit, htile⟩ ((finalMergeEff_plain hq hworking hsort hup hphase hstride hprogram).trans
      (State.completeQuery_whole hprogram hm hlate hwaiting hentries))
  case reranked =>
    rintro h w sorter tile s q _ hh hunit htile hparity hq hworking hsort hup hphase hstride hnone hm rfl
    have hprogram : s.queryProgram q = none := if_pos hnone
    obtain ⟨gathered, tie, unit, hcomplete⟩ := State.completeQuery_selects hprogram (by simp; omega) hparity h w
    have hset : q.finalSet = q.merged.map q.finalItem := if_neg (Nat.pos_iff_ne_zero.1 hm)
    simp only [Option.elim, hset, Option.isSome_none, Bool.false_eq_true, if_false, Nat.add_zero, decide_eq_true hm] at hcomplete
    exact ⟨_, unit, guarded_decide ⟨hh, hunit, htile⟩ ((finalMergeEff_plain hq hworking hsort hup hphase hstride
      hprogram).trans hcomplete), hasFlag_resultFlags_exact ..⟩
  case program =>
    rintro h w sorter tile s q p _ hh hunit htile hparity hq hworking hsort hup hphase hstride hprogram hfeatures hlacks rfl
    have hruns := finalMergeEff_program (w := w) hq hworking hsort hup hphase hstride hprogram hfeatures rfl rfl rfl rfl
    have hplaced : ((s.useTile tile q.context).placeBatch tile.tile (programKey q.context q.program)
        ((s.tile tile.tile).batchWith s.stride (programKey q.context q.program) q.finalSet.length)).queryProgram q = some p := by
      simpa [State.queryProgram] using hprogram
    obtain ⟨gathered, tie, unit, hcomplete⟩ := State.completeQuery_selects
      (State.ranProgram_queryProgram hplaced tile (p.tokens q q.finalSet)) (by simp) hparity h (w || tile.lost)
    simp only [Option.elim, Query.applyProgram_window, hfeatures, List.isEmpty_nil, Option.isSome_some,
      Bool.and_self] at hcomplete
    simp only [hlacks, Bool.false_eq_true, if_false, hcomplete] at hruns
    refine ⟨_, _, guarded_decide ⟨hh, hunit, htile⟩ hruns, ?_, ?_, hasFlag_resultFlags_program ..⟩
    · simp
    · simp
  case overruns =>
    intro h w sorter tile s q p cost key batch due hh hunit htile hq hworking hsort hup hphase hstride hprogram hfeatures hkey
      hbatch hdue hcost hlacks
    refine guarded_decide ⟨hh, hunit, htile⟩ ((finalMergeEff_program hq hworking hsort hup hphase hstride hprogram hfeatures
      hkey hbatch hdue hcost).trans ?_)
    simp only [hlacks, if_true]
  case completes =>
    intro s q h flags st l r hr hlost
    have hcompletes := s.finishQuery_effect q h flags st l hr
    rwa [Ring.completed_of_attached hlost] at hcompletes

end Sys2Proof.Machine
end

section
/-! SUPPORT. The statement of the re-rank: the items that a serving member is asked for, their reads, the replies and the
detours. -/

namespace Sys2Proof.Machine

/-! ## What shared operations change -/

/-- Moving a block's pages out queues operations in the flash channels. -/
theorem State.moveOut_eq (s : State) (ch key n cls : Nat) (paid : Bool) :
    ∃ flash, s.moveOut ch key n cls paid = { s with flash := flash } := by
  refine foldl_holds (P := fun t => ∃ flash, t = { s with flash := flash }) ?_ _ ⟨s.flash, rfl⟩
  rintro _ page ⟨flash, rfl⟩
  exact ⟨_, rfl⟩

theorem State.enterReadOnly_eq (s : State) (ch : Nat) : ∃ flash, s.enterReadOnly ch = { s with flash := flash } := by
  unfold State.enterReadOnly
  split
  · exact ⟨_, rfl⟩
  · exact ⟨_, rfl⟩

/-- Retiring a block changes the flash channels. -/
theorem State.retireBlock_eq (s : State) (ch key : Nat) : ∃ flash, s.retireBlock ch key = { s with flash := flash } := by
  unfold State.retireBlock
  extract_lets c cls s1 s2
  split
  · exact ⟨_, rfl⟩
  · obtain ⟨flash, hmove⟩ := s.moveOut_eq ch key 1024 cls true
    split
    · obtain ⟨flash', hreadOnly⟩ := s2.enterReadOnly_eq ch
      rw [hreadOnly]
      simp only [s2, s1, hmove]
      exact ⟨_, rfl⟩
    · simp only [s2, s1, hmove]
      exact ⟨_, rfl⟩

/-- Reading a record changes the flash channels. -/
theorem State.readRecord_eq (s : State) (index dim shard slot : Nat) (record : Bytes) (r : FlashRead) :
    ∃ flash, s.readRecord index dim shard slot record r = { s with flash := flash } := by
  simp only [State.readRecord]
  split
  · split
    · obtain ⟨flash, h⟩ := State.retireBlock_eq (s.modChannel _ _) _ _
      rw [h]
      exact ⟨_, rfl⟩
    · exact ⟨_, rfl⟩
  · exact ⟨_, rfl⟩

/-- Reading records changes the flash channels. -/
theorem State.readRecords_eq (s : State) (v : View) (q : Search) (slots : List Nat) (reads : List FlashRead) :
    ∃ flash, s.readRecords v q slots reads = { s with flash := flash } := by
  refine foldl_holds (P := fun t => ∃ flash, t = { s with flash := flash }) ?_ slots ⟨s.flash, rfl⟩
  rintro _ slot ⟨flash, rfl⟩
  exact State.readRecord_eq ..

/-- A share that takes tags leaves the searches. -/
@[simp] theorem State.takeShare_searches (s : State) (a k handles need : Nat) :
    (s.takeShare a k handles need).work.searches = s.work.searches := rfl

/-- A reply sent leaves the searches. -/
@[simp] theorem State.searchReply_searches (s : State) (q : Search) (flags : BitVec 16) (l : List Entry)
    (failed : List (Nat × Nat)) : (s.searchReply q flags l failed).work.searches = s.work.searches := by
  rw [State.searchReply, State.takeShare_searches, State.sendWith_work]

theorem State.modSearch_find?_self (s : State) (key : Nat) (g : Search → Search) :
    SMap.find? (s.modSearch key g).work.searches key = (SMap.find? s.work.searches key).map g := SMap.find?_update_self ..

/-! ## RERANK_REQUEST_RECEIVE (R99, R105) -/

/-- RERANK_REQUEST_RECEIVE: the serving member holds the items. -/
theorem rerankRequestReceiveEff_holds {m : Bytes} {s : State} {key : Nat} {q : Search}
    (hkey : key = searchKey (le m 0 2 % 2 ^ 15) (le m 4 4 % 2 ^ 18) (le m 2 2)) (hworking : s.working = true)
    (hq : SMap.find? s.work.searches key = some q) (hphase : q.phase = 1) (hstride : s.stride + 2 = q.admitAt + q.len)
    (hmay : s.maySearch q = true) :
    rerankRequestReceiveEff m s =
      (s.modSearch key fun q => { q with items := itemsFrom m 32 }).takeShare (q.admitAt + 1) q.cls 0 1 := by
  simp only [rerankRequestReceiveEff, ← hkey, hworking, hq, hphase, hstride, dueAt_self, hmay, Bool.not_true,
    Bool.false_eq_true, if_false, and_self, if_true]

/-- RERANK_REQUEST_RECEIVE: the partner of a fenced member takes the search up within its detour reserve. -/
theorem rerankRequestReceiveEff_takes {m : Bytes} {s : State} {key d len : Nat} {q : Search}
    (hkey : key = searchKey (le m 0 2 % 2 ^ 15) (le m 4 4 % 2 ^ 18) (le m 2 2)) (hworking : s.working = true)
    (hnone : SMap.find? s.work.searches key = none) (hclass : s.serveClass (le m 28 2) 1 true = some (d, len))
    (hq : q = searchOf m d false len) (hmay : s.maySearch q = true) (hroom : s.classRoom d = true)
    (hstride : s.stride + 2 = q.admitAt + q.len) :
    ∃ indexes, rerankRequestReceiveEff m s =
      { s.admitTo d with
        indexes := indexes
        work := { s.work with searches := SMap.set s.work.searches key { q with
          detour := true, phase := 1, done := true, items := itemsFrom m (64 + le m 36 2 + le m 40 4) } } } := by
  simp only [rerankRequestReceiveEff, ← hkey, hworking, hnone, hclass, ← hq, hmay, hroom, hstride, decide_true, Bool.and_self,
    Bool.not_true, Bool.false_eq_true, if_false, if_true]
  exact ⟨_, rfl⟩

/-! ## RERANK_READ (R100) -/

/-- What is left of a list without the members of a part of it. -/
theorem filter_not_contains_filter {α : Type} [BEq α] [LawfulBEq α] (l : List α) (p : α → Bool) :
    (l.filter fun i => !(l.filter p).contains i) = l.filter fun i => !p i :=
  List.filter_congr fun i hi => congrArg (!·) (by
    rw [Bool.eq_iff_iff, List.contains_iff_mem, List.mem_filter]
    exact and_iff_right hi)

/-- A part of a list is not empty where a member belongs to it. -/
theorem not_isEmpty_filter {α : Type} (l : List α) (p : α → Bool) : (!(l.filter p).isEmpty) = l.any p := by
  rw [Bool.eq_iff_iff]
  simp

/-- RERANK_READ: exact entries of what is read; what fails stays, but for poisoned records of the delta log. -/
theorem rerankReadEff_reads {key : Nat} {reads : List FlashRead} {poison : List Nat} {tile : TileUse} {s : State} {q : Search}
    {v : View} {bad : List Nat} {items : List (Nat × Nat)} (hq : SMap.find? s.work.searches key = some q)
    (hworking : s.working = true) (hup : s.unitUp 0x01 tile.tile = true) (hphase : q.phase = 1) (hitems : q.items ≠ [])
    (hstride : s.stride + 1 = q.admitAt + q.len) (hv : s.searchView q = some v) (hbad : bad = (lostReads reads).filter v.onFlash)
    (hsound : items = q.items.filter fun i => v.onFlash i.1 || !poison.contains i.1) :
    ∃ tiles tel flash, ∃ work : Work, rerankReadEff key reads poison tile s =
      { s with tiles := tiles, tel := tel, flash := flash, work := work } ∧
      work.searches = SMap.set s.work.searches key { q with
        exact := rankedEntries (items.filterMap (v.exactEntry q bad))
        items := items.filter fun i => (v.exactEntry q bad i).isNone
        phase := 2
        poisoned := q.poisoned || q.items.any fun i => !v.onFlash i.1 && poison.contains i.1 } := by
  have hruns : ¬((!s.working) = true ∨ (!s.unitUp 0x01 tile.tile) = true ∨ q.phase ≠ 1 ∨ q.items.isEmpty = true ∨
      (!dueAt q.elastic (s.stride + 1) (q.admitAt + q.len)) = true) := by
    simp [hworking, hup, hphase, hitems, hstride]
  have hsound' : items = q.items.filter fun i => !(!v.onFlash i.1 && poison.contains i.1) := by
    simp only [hsound, Bool.not_and, Bool.not_not]
  unfold rerankReadEff
  simp only [hq, if_neg hruns, hv, List.filter_filter, ← hbad, Bool.and_comm (poison.contains _), filter_not_contains_filter,
    ← hsound', not_isEmpty_filter]
  obtain ⟨tiles, tel, overdue, hshare⟩ := s.tileShare_eq (q.items.filter fun i => !v.onFlash i.1).isEmpty tile q.context
    (8 * key + 1) (q.admitAt + 1) q.cls (q.admitAt + q.len - 1)
    (laneCycles v.ix.dim (q.items.filter fun i => !v.onFlash i.1).length + (s.tile tile.tile).zeroing q.context)
  rw [hshare]
  obtain ⟨flash, hread⟩ := State.readRecords_eq { s with tiles := tiles, tel := tel, work := { s.work with overdue := overdue } }
    v q ((q.items.map (·.1)).filter v.onFlash) reads
  rw [hread]
  exact ⟨_, _, _, _, rfl, SMap.update_of_find? hq _⟩

/-! ## RERANK_REPLY_SEND (R101, R106) -/

/-- RERANK_REPLY_SEND: what failed goes to the partner, or is given up where none can be asked; the exact entries go to the
coordinating node. -/
theorem rerankReplySendEff_sends {key : Nat} {s : State} {q : Search} (hq : SMap.find? s.work.searches key = some q)
    (hworking : s.working = true) (hphase : q.phase = 2) (hstride : s.stride = q.admitAt + q.len) :
    rerankReplySendEff key s =
      let alone := q.detour || s.isFenced s.partner
      let bad := !q.items.isEmpty
      let s1 := if (bad && !alone) = true then s.send 2 s.partner (q.request ++ itemBytes q.items) else s
      (s1.searchReply q (shareFlags (bad || q.poisoned) (bad || q.detour)) q.exact (if alone = true then q.items
        else [])).modSearch key fun q => { q with phase := 3 } := by
  simp [rerankReplySendEff, hq, hworking, hphase, hstride]

/-! ## DETOUR_REQUEST (R106) -/

/-- DETOUR_REQUEST: the partner answers from its own flash, within its detour reserve. -/
theorem detourRequestEff_answers {m : Bytes} {reads : List FlashRead} {tile : TileUse} {s : State} {d len : Nat} {q : Search}
    {v : View} {items : List (Nat × Nat)} {deltas bad : List Nat} {w : State} (hworking : s.working = true)
    (hup : s.unitUp 0x01 tile.tile = true) (hclass : s.serveClass (le m 28 2) 1 true = some (d, len))
    (hq : q = { searchOf m d false len with detour := true }) (hv : s.searchView q = some v) (hmay : s.maySearch q = true)
    (hroom : s.classRoom d = true) (hstride : s.stride = q.admitAt + q.len)
    (hitems : items = itemsFrom m (64 + le m 36 2 + le m 40 4))
    (hdeltas : deltas = (items.filter fun i => !v.onFlash i.1).map (·.1))
    (hbad : bad = (lostReads reads).filter v.onFlash ++ (if tile.lost = true then deltas else []))
    (hw : w = (s.readRecords v q ((items.map (·.1)).filter v.onFlash) reads).admitTo d)
    (hcycles : deltas = [] ∨ s.lacks s.stride d s.stride tile.tile
      (laneCycles v.ix.dim deltas.length + (s.tile tile.tile).zeroing q.context) = false) :
    detourRequestEff m reads tile s = (if deltas.isEmpty = true then w else w.useTile tile q.context).searchReply q
      (shareFlags true true) (rankedEntries (items.filterMap (v.exactEntry q bad)))
      (items.filter fun i => (v.exactEntry q bad i).isNone) := by
  have hadmit : (searchOf m d false len).admitAt = q.admitAt := by rw [hq]
  have hlen : (searchOf m d false len).len = q.len := by rw [hq]
  have hctx : (searchOf m d false len).context = q.context := by rw [hq]
  have hserves : (!s.maySearch q || !s.classRoom d || decide (s.stride ≠ q.admitAt + q.len)) = false := by
    simp [hmay, hroom, hstride]
  have hfits : (!deltas.isEmpty && s.lacks s.stride d s.stride tile.tile
      (laneCycles v.ix.dim deltas.length + (s.tile tile.tile).zeroing q.context)) = false := by
    rcases hcycles with h | h <;> simp [h]
  simp only [detourRequestEff, hworking, hup, hclass, ← hq, hv, ← hitems, ← hdeltas, ← hbad, ← hw]
  simp only [hadmit, hlen, hctx, hserves, hfits, Bool.not_true, Bool.or_self, Bool.false_eq_true, if_false]

/-! ## RERANK_REPLY_RECEIVE (R101, R105) -/

/-- RERANK_REPLY_RECEIVE: an exact reply of a shard awaited joins its query. -/
theorem rerankReplyReceiveEff_joins {m a : Bytes} {s : State} {q : Query}
    (hq : SMap.find? s.work.queries (asideHandle a) = some q) (hphase : q.phase = 1)
    (hstride : s.stride + 2 = q.admitAt + q.len) (hawaited : asideShard a ∈ q.waiting) :
    rerankReplyReceiveEff m a s = (s.modQuery (asideHandle a) fun q =>
      q.takeExact (asideShard a) (replyEntries m a) (replyFailed m a) (replyFlags m)).takeShare q.admitAt q.cls 1 1 := by
  simp [rerankReplyReceiveEff, hq, hphase, hstride, hawaited]

/-- Settles O55, command by command: RERANK_REQUEST_RECEIVE at the serving member and at its partner; RERANK_READ;
RERANK_REPLY_SEND; DETOUR_REQUEST; RERANK_REPLY_RECEIVE. -/
theorem candidatesReranked : Obligations.CandidatesReranked := by
  refine ⟨?holds, ?takes, ?reads, ?sends, ?detours, ?joins⟩
  case holds =>
    intro m s u key q hkey harrival hworking hq hphase hstride hmay
    exact congrArg Host.Outcome.next ((State.arrives_of_taken harrival _).trans
      (rerankRequestReceiveEff_holds hkey hworking hq hphase hstride hmay))
  case takes =>
    intro m s u key d len q hkey harrival hworking hnone hclass hq hmay hroom hstride
    obtain ⟨indexes, heff⟩ := rerankRequestReceiveEff_takes hkey hworking hnone hclass hq hmay hroom hstride
    exact ⟨_, congrArg Host.Outcome.next ((State.arrives_of_taken harrival _).trans heff), u.admitTo_admittedNow d, rfl,
      SMap.find?_set_self ..⟩
  case reads =>
    intro key reads poison tile s q v bad items htile hq hworking hup hphase hitems hstride hv hbad hsound
    obtain ⟨tiles, tel, flash, work, heff, hwork⟩ :=
      rerankReadEff_reads hq hworking hup hphase hitems hstride hv hbad hsound
    refine ⟨_, guarded_decide htile heff, ?_, fun j hj => ?_, rfl, rfl⟩
    · rw [hwork, SMap.find?_set_self]
    · rw [hwork, SMap.find?_set_ne _ _ hj]
  case sends =>
    intro key s q hq hworking hphase hstride
    have heff := rerankReplySendEff_sends hq hworking hphase hstride
    refine ⟨_, congrArg Host.Outcome.next heff, ?_, fun hnone => ?_, fun hitems hdetour hfenced => ?_,
      fun hitems halone => ?_⟩
    · rw [State.modSearch_find?_self, State.searchReply_searches]
      split <;> simp [hq]
    · simp [hnone]
    · have hbad : q.items.isEmpty = false := by simpa using hitems
      simp [hbad, hdetour, hfenced]
    · have hbad : q.items.isEmpty = false := by simpa using hitems
      have halone : (q.detour || s.isFenced s.partner) = true := by simpa using halone
      simp [hbad, halone]
  case detours =>
    intro m reads tile s u d len q v items deltas bad w htile harrival hworking hup hclass hq hv hmay hroom hstride hitems hdeltas
      hbad hw hcycles
    exact guarded_decide (eff := fun s => s.arrives 2 s.partner m (detourRequestEff m reads tile)) htile
      ((State.arrives_of_taken harrival _).trans (detourRequestEff_answers hworking hup hclass hq hv hmay hroom hstride hitems
        hdeltas hbad hw hcycles))
  case joins =>
    intro m a s w q harrival hq hphase hstride hawaited
    exact congrArg Host.Outcome.next ((State.arrives_of_taken harrival _).trans
      (rerankReplyReceiveEff_joins hq hphase hstride hawaited))

end Sys2Proof.Machine
end

section
/-! SUPPORT. The statement of where keys are placed: the layers of a row are the powers of two that divide its mixed key. -/

namespace Sys2Proof.Machine

/-- A count of trailing zeros is at least `k` where 2 to the power of `k` divides the number. -/
theorem le_ctzUpTo_iff (n : Nat) {k : Nat} (v : Nat) : k ≤ ctzUpTo n v ↔ k ≤ n ∧ 2 ^ k ∣ v := by
  induction n generalizing k v with
  | zero =>
    rw [ctzUpTo, Nat.le_zero]
    exact ⟨by rintro rfl; simp, fun h => h.1⟩
  | succ n ih =>
    cases k with
    | zero => simp
    | succ k =>
      rw [ctzUpTo]
      split
      case isTrue hodd =>
        have hnot : ¬2 ^ (k + 1) ∣ v := fun h => by
          have := Nat.dvd_trans ⟨2 ^ k, Nat.pow_succ'⟩ h
          omega
        simp [hnot]
      case isFalse heven =>
        have hhalf : 2 ^ (k + 1) ∣ v ↔ 2 ^ k ∣ v / 2 := by
          rw [Nat.pow_succ', Nat.dvd_div_iff_mul_dvd (by omega)]
        rw [Nat.add_comm 1, Nat.succ_le_succ_iff, ih, hhalf, Nat.succ_le_succ_iff]

/-- The trailing zeros of a word that is not 0 are all counted. -/
theorem le_ctzUpTo_word_iff {h : Nat} (hpos : h ≠ 0) (hword : h < 2 ^ 64) (k : Nat) : k ≤ ctzUpTo 64 h ↔ 2 ^ k ∣ h := by
  rw [le_ctzUpTo_iff]
  refine and_iff_right_of_imp fun hdvd => ?_
  have hle : 2 ^ k ≤ h := Nat.le_of_dvd (Nat.pos_of_ne_zero hpos) hdvd
  exact Nat.le_of_lt ((Nat.pow_lt_pow_iff_right Nat.one_lt_two).1 (Nat.lt_of_le_of_lt hle hword))

/-- The level of a key follows from its mixed key. -/
theorem levelOf_eq {seed shift key h : Nat} (hkey : key < 2 ^ 48) (hshift : 1 ≤ shift)
    (hmix : h = (mix (BitVec.ofNat 64 key ^^^ BitVec.ofNat 64 seed ^^^ 0x5A5A5A5A5A5A5A5A#64)).toNat) :
    levelOf seed shift key = if h = 0 then 15 else min 15 (ctzUpTo 64 h / shift) := by
  simp only [levelOf, Nat.mod_eq_of_lt hkey, ← hmix, Nat.max_eq_left hshift]

/-- Settles O16: the shard is the definition's own; a key reaches layer l where its mixed key has `shift * l` trailing zeros. -/
theorem keysPlaced : Obligations.KeysPlaced := by
  refine ⟨fun seed n key hkey hn => ?shard, fun z => ⟨_, _, rfl, rfl, rfl⟩, fun seed shift key h hkey hshift hmix => ?layers⟩
  case shard => rw [shardOf, Nat.mod_eq_of_lt hkey, Nat.max_eq_left hn]
  case layers =>
    rw [levelOf_eq hkey hshift hmix]
    split
    case isTrue hzero =>
      subst hzero
      simp
    case isFalse hpos =>
      have hword : h < 2 ^ 64 := hmix ▸ BitVec.isLt _
      refine ⟨Nat.min_le_left .., fun l hl => ?_⟩
      rw [Nat.le_min, and_iff_right hl, Nat.le_div_iff_mul_le hshift, Nat.mul_comm l, le_ctzUpTo_word_iff hpos hword]

end Sys2Proof.Machine
end

section
/-! SUPPORT. The statements of the requests on indexes and tables: what creates and closes them, and what their versions are asked
for, each on its accepted path. -/

namespace Sys2Proof.Machine

/-! ## What a request's checks read is as it was before the request left its mailbox -/

@[simp] theorem State.popRequest_nextBoundary (s : State) (f : Nat) : (s.popRequest f).nextBoundary = s.stride + 1 := rfl

@[simp] theorem State.popRequest_objectTaken (s : State) (f id : Nat) : (s.popRequest f).objectTaken id = s.objectTaken id := rfl

@[simp] theorem State.popRequest_held (s : State) (f : Nat) (map : List Nat) : (s.popRequest f).held map = s.held map := rfl

@[simp] theorem State.popRequest_hbmInUse (s : State) (f c : Nat) : (s.popRequest f).hbmInUse c = s.hbmInUse c := rfl

@[simp] theorem State.popRequest_acceptedReservation (s : State) (f c : Nat) :
    (s.popRequest f).acceptedReservation c = s.acceptedReservation c := rfl

@[simp] theorem State.popRequest_objectStatus (s : State) (f id ctx : Nat) (owner : Option (Nat × Option Nat)) :
    (s.popRequest f).objectStatus id ctx owner = s.objectStatus id ctx owner := rfl

@[simp] theorem State.popRequest_indexOwner (s : State) (f id : Nat) : (s.popRequest f).indexOwner id = s.indexOwner id := rfl

@[simp] theorem State.popRequest_tableOwner (s : State) (f id : Nat) : (s.popRequest f).tableOwner id = s.tableOwner id := rfl

@[simp] theorem State.popRequest_sourceStatus (s : State) (f ctx pad count size : Nat) :
    (s.popRequest f).sourceStatus ctx pad count size = s.sourceStatus ctx pad count size := rfl

@[simp] theorem State.popRequest_buildStatus (s : State) (f ctx k held versions : Nat) (building : Bool) :
    (s.popRequest f).buildStatus ctx k held versions building = s.buildStatus ctx k held versions building := rfl

@[simp] theorem State.popRequest_switchStatus (s : State) (f held versions : Nat) (st : Option Nat) (pending : Bool)
    (version e : Nat) :
    (s.popRequest f).switchStatus held versions st pending version e = s.switchStatus held versions st pending version e := rfl

@[simp] theorem State.popRequest_partner (s : State) (f : Nat) : (s.popRequest f).partner = s.partner := rfl

@[simp] theorem State.popRequest_shown (s : State) (f : Nat) : (s.popRequest f).shown = s.shown := rfl

@[simp] theorem State.popRequest_applies (s : State) (f id : Nat) (x : Table) (stride : Nat) :
    (s.popRequest f).applies id x stride = s.applies id x stride := rfl

/-! ## Answers of a request's processing -/

/-- An accepted change is scheduled, and its reply carries the stride that adopts it. -/
theorem State.serve_accepts {f op : Nat} {act : State → Request → State × Option (Nat × Nat × Bytes)} {s : State} {q : Request}
    {c : Change} (hq : s.headRequest f op = some q) (ha : act (s.popRequest f) q = accept (s.popRequest f) c) :
    s.serve f op act = settled f ((s.popRequest f).schedule c) q stOk (s.stride + 1) [] := State.serve_settled hq ha

/-- A report changes nothing but the request's mailbox. -/
theorem State.serve_reports {f op : Nat} {act : State → Request → State × Option (Nat × Nat × Bytes)} {s : State} {q : Request}
    {payload : Bytes} (hq : s.headRequest f op = some q) (ha : act (s.popRequest f) q = report (s.popRequest f) payload) :
    s.serve f op act = settled f (s.popRequest f) q stOk unstamped payload := State.serve_settled hq ha

/-- An opcode's processing that does not answer yet leaves its request without a reply. -/
theorem State.serve_defers {f op : Nat} {act : State → Request → State × Option (Nat × Nat × Bytes)} {s t : State} {q : Request}
    (hq : s.headRequest f op = some q) (ha : act (s.popRequest f) q = (t, none)) : s.serve f op act = t.flush f := by
  simp only [State.serve, hq, ha]

/-! ## Creation and close (R107, R133, R231, R256) -/

/-- An INDEX_CREATE of the right length that is in range and has room is accepted. -/
theorem indexCreateEff_accepts {f : Nat} {s : State} {q : Request} {x : Index} (hq : s.headRequest f 0x0401 = some q)
    (hx : x = parseIndex q.context q.payload) (hlength : q.payload.length = 64 + 2 * q.field 20 2) (hid : q.field 0 4 ≠ 0)
    (hfree : s.objectTaken (q.field 0 4) = false) (hrange : x.inRange = true)
    (hroom : s.hbmInUse q.context + (s.held x.map).length * x.fixedBytes ≤ (s.acceptedReservation q.context).hbm) :
    indexCreateEff f s =
      settled f ((s.popRequest f).schedule (.createIndex (q.field 0 4) x)) q stOk (s.stride + 1) [] := by
  refine State.serve_accepts hq ?_
  simp only [Request.field] at hlength hid hfree ⊢
  simp [hlength, hid, hfree, ← hx, hrange, Nat.not_lt.2 hroom]

/-- A TABLE_CREATE of the right length that is in range and has room is accepted. -/
theorem tableCreateEff_accepts {f : Nat} {s : State} {q : Request} {x : Table} (hq : s.headRequest f 0x0501 = some q)
    (hx : x = parseTable q.context q.payload) (hlength : q.payload.length = 64 + 2 * q.field 8 2 + 2 * q.field 10 2)
    (hid : q.field 0 4 ≠ 0) (hfree : s.objectTaken (q.field 0 4) = false) (hrange : x.inRange = true)
    (hroom : s.hbmInUse q.context + (s.held x.map).length * x.fixedBytes ≤ (s.acceptedReservation q.context).hbm) :
    tableCreateEff f s =
      settled f ((s.popRequest f).schedule (.createTable (q.field 0 4) x)) q stOk (s.stride + 1) [] := by
  refine State.serve_accepts hq ?_
  simp only [Request.field] at hlength hid hfree ⊢
  simp [hlength, hid, hfree, ← hx, hrange, Nat.not_lt.2 hroom]

/-- An INDEX_CLOSE that reaches its index is deferred, and its close scheduled. -/
theorem indexCloseEff_defers {f : Nat} {s : State} {q : Request} (hq : s.headRequest f 0x0402 = some q)
    (hreach : s.objectStatus (q.field 0 4) q.context (s.indexOwner (q.field 0 4)) = stOk) :
    indexCloseEff f s = (((defer (s.popRequest f) (.objectClosed (q.field 0 4)) q (s.stride + 1)).modIndex (q.field 0 4)
      Index.closeAccepted).schedule (.closeObject (q.field 0 4))).flush f :=
  State.serve_defers hq (by simp [hreach])

/-- A TABLE_CLOSE that reaches its table is deferred, and its close scheduled. -/
theorem tableCloseEff_defers {f : Nat} {s : State} {q : Request} (hq : s.headRequest f 0x0502 = some q)
    (hreach : s.objectStatus (q.field 0 4) q.context (s.tableOwner (q.field 0 4)) = stOk) :
    tableCloseEff f s = (((defer (s.popRequest f) (.objectClosed (q.field 0 4)) q (s.stride + 1)).modTable (q.field 0 4)
      Table.closeAccepted).schedule (.closeObject (q.field 0 4))).flush f :=
  State.serve_defers hq (by simp [hreach])

/-- Settles O29, request by request. -/
theorem objectsCreatedAndClosed : Obligations.ObjectsCreatedAndClosed := by
  refine ⟨?indexCreate, ?indexClose, ?tableCreate, ?tableClose⟩
  case indexCreate =>
    intro f s q hf hq hlength hid hfree hrange hroom
    exact guarded_funcOk hf (indexCreateEff_accepts hq rfl hlength hid hfree hrange hroom)
  case indexClose =>
    intro f s q hf hq hreach
    exact guarded_funcOk hf (indexCloseEff_defers hq hreach)
  case tableCreate =>
    intro f s q hf hq hlength hid hfree hrange hroom
    exact guarded_funcOk hf (tableCreateEff_accepts hq rfl hlength hid hfree hrange hroom)
  case tableClose =>
    intro f s q hf hq hreach
    exact guarded_funcOk hf (tableCloseEff_defers hq hreach)

/-! ## Version requests (R126, R127, R130 to R132, R252 to R256) -/

/-- A list of checks that all pass has no failure. -/
theorem firstStatus_of_all {l : List Nat} (h : ∀ st ∈ l, st = stOk) : firstStatus l = stOk := by
  have hnone : (l.find? fun x => x ≠ stOk) = none := List.find?_eq_none.2 fun st hst => by simp [h st hst]
  rw [firstStatus, hnone, Option.getD_none]

/-- A switch to a built version, or, where no shard is held, to one more that the versions have room for, is accepted at least 4
strides ahead and where none is pending. -/
theorem State.switchStatus_accepts {s : State} {held : List Nat} {versions version e : Nat} {st : Option Nat} (hnamed : 0 < version)
    (hbuilt : held ≠ [] → st = some 2) (hunheld : held = [] → st = some 2 ∨ (st = none ∧ versions < 4))
    (hahead : s.stride + 4 ≤ e) : s.switchStatus held.length versions st false version e = stOk := by
  have hcases : st = some 2 ∨ (held = [] ∧ st = none ∧ versions < 4) := by
    by_cases hheld : held = []
    · exact (hunheld hheld).imp_right fun h => ⟨hheld, h⟩
    · exact .inl (hbuilt hheld)
  rcases hcases with rfl | ⟨rfl, rfl, hroom⟩
  · simp [State.switchStatus, Nat.pos_iff_ne_zero.1 hnamed, Nat.not_lt.2 hahead]
  · simp [State.switchStatus, Nat.pos_iff_ne_zero.1 hnamed, Nat.not_lt.2 hahead, Nat.not_le.2 hroom]

/-! ### INDEX_BUILD, INDEX_COMPACT, TABLE_BUILD, TABLE_FOLD -/

/-- An INDEX_BUILD that passes its checks takes up its version, and the end of the build is pending. -/
theorem indexBuildEff_begins {f : Nat} {s : State} {q : Request} {x : Index} (hq : s.headRequest f 0x0403 = some q)
    (hx : SMap.find? s.indexes (q.field 0 4) = some x)
    (hreach : s.objectStatus (q.field 0 4) q.context (s.indexOwner (q.field 0 4)) = stOk)
    (hsource : s.sourceStatus q.context (q.field 24 2) (q.field 28 4) (recordBytes x.dim) = stOk)
    (hbuild : s.buildStatus q.context (q.field 6 2) (s.held x.map).length x.versionCount x.build.isSome = stOk) :
    indexBuildEff f s = settled f ((s.popRequest f).modIndex (q.field 0 4) fun x => x.begin 0 q) q stPending unstamped
      (buildReply q x.nextVersion) := by
  refine State.serve_settled hq ?_
  have hstatus := firstStatus_of_all (l := [_, _, _]) (by simpa using ⟨hreach, hsource, hbuild⟩)
  simp [hx, hstatus]

/-- An INDEX_COMPACT that passes its checks takes up its version. -/
theorem indexCompactEff_begins {f : Nat} {s : State} {q : Request} {x : Index} {v : Version}
    (hq : s.headRequest f 0x0404 = some q) (hx : SMap.find? s.indexes (q.field 0 4) = some x)
    (hreach : s.objectStatus (q.field 0 4) q.context (s.indexOwner (q.field 0 4)) = stOk) (hcurrent : x.current = some v)
    (hbuild : s.buildStatus q.context (q.field 6 2) (s.held x.map).length x.versionCount x.build.isSome = stOk) :
    indexCompactEff f s = settled f ((s.popRequest f).modIndex (q.field 0 4) fun x => x.begin 1 q) q stPending unstamped
      (buildReply q x.nextVersion) := by
  refine State.serve_settled hq ?_
  have hstatus := firstStatus_of_all (l := [_, stOk, _]) (by simpa using ⟨hreach, hbuild⟩)
  simp [hx, hcurrent, hstatus]

/-- A TABLE_BUILD that passes its checks takes up its version. -/
theorem tableBuildEff_begins {f : Nat} {s : State} {q : Request} {x : Table} (hq : s.headRequest f 0x0503 = some q)
    (hx : SMap.find? s.tables (q.field 0 4) = some x)
    (hreach : s.objectStatus (q.field 0 4) q.context (s.tableOwner (q.field 0 4)) = stOk)
    (hsource : s.sourceStatus q.context (q.field 24 2) (q.field 28 4) x.sourceBytes = stOk)
    (hbuild : s.buildStatus q.context (q.field 6 2) (s.held x.map).length x.versionCount x.build.isSome = stOk) :
    tableBuildEff f s = settled f ((s.popRequest f).modTable (q.field 0 4) fun x => x.begin 0 q) q stPending unstamped
      (buildReply q x.nextVersion) := by
  refine State.serve_settled hq ?_
  have hstatus := firstStatus_of_all (l := [_, _, _]) (by simpa using ⟨hreach, hsource, hbuild⟩)
  simp [hx, hstatus]

/-- A TABLE_FOLD of a table with a training base that passes its checks takes up its version. -/
theorem tableFoldEff_begins {f : Nat} {s : State} {q : Request} {x : Table} (hq : s.headRequest f 0x0504 = some q)
    (hx : SMap.find? s.tables (q.field 0 4) = some x)
    (hreach : s.objectStatus (q.field 0 4) q.context (s.tableOwner (q.field 0 4)) = stOk) (hbase : 0 < x.base)
    (hbuild : s.buildStatus q.context (q.field 6 2) (s.held x.map).length x.versionCount x.build.isSome = stOk) :
    tableFoldEff f s = settled f ((s.popRequest f).modTable (q.field 0 4) fun x => x.begin 1 q) q stPending unstamped
      (buildReply q x.nextVersion) := by
  refine State.serve_settled hq ?_
  have hstatus := firstStatus_of_all (l := [_, stOk, _]) (by simpa using ⟨hreach, hbuild⟩)
  simp [hx, Nat.pos_iff_ne_zero.1 hbase, hstatus]

/-! ### INDEX_SWITCH, TABLE_SWITCH -/

/-- An accepted INDEX_SWITCH is pending for its stride, and the partner is sent its tuple. -/
theorem indexSwitchEff_accepts {f : Nat} {s : State} {q : Request} {x : Index} (hq : s.headRequest f 0x0405 = some q)
    (hx : SMap.find? s.indexes (q.field 0 4) = some x)
    (hreach : s.objectStatus (q.field 0 4) q.context (s.indexOwner (q.field 0 4)) = stOk)
    (hswitch : s.switchStatus (s.held x.map).length x.versions.length ((x.version? (q.field 8 8)).map (·.st)) x.switch.isSome
      (q.field 8 8) (q.field 16 8) = stOk) :
    indexSwitchEff f s = settled f
      (((s.popRequest f).modIndex (q.field 0 4) fun y => { y with
        switch := some (pendingSwitch (q.field 8 8) (q.field 16 8) (((x.version? (q.field 8 8)).map (·.digest)).getD 0)
          (q.field 4 1 % 2) q) }).send 1 s.partner (versionMessage markTuple (q.field 0 4) (q.field 8 8) (q.field 16 8)
            (((x.version? (q.field 8 8)).map (·.digest)).getD 0))) q stOk (q.field 16 8) [] := by
  refine State.serve_settled hq ?_
  have hstatus := firstStatus_of_all (l := [_, _]) (by simpa using ⟨hreach, hswitch⟩)
  simp [hx, Request.opVersion, hstatus]

/-- An accepted TABLE_SWITCH is pending for its stride, and the partner is sent its tuple. -/
theorem tableSwitchEff_accepts {f : Nat} {s : State} {q : Request} {x : Table} (hq : s.headRequest f 0x0505 = some q)
    (hx : SMap.find? s.tables (q.field 0 4) = some x)
    (hreach : s.objectStatus (q.field 0 4) q.context (s.tableOwner (q.field 0 4)) = stOk)
    (hswitch : s.switchStatus (s.held x.map).length x.versions.length ((x.version? (q.field 8 8)).map (·.st)) x.switch.isSome
      (q.field 8 8) (q.field 16 8) = stOk) :
    tableSwitchEff f s = settled f
      (((s.popRequest f).modTable (q.field 0 4) fun y => { y with
        switch := some (pendingSwitch (q.field 8 8) (q.field 16 8) (((x.version? (q.field 8 8)).map (·.digest)).getD 0)
          (q.field 4 1) q) }).send 1 s.partner (versionMessage markTuple (q.field 0 4) (q.field 8 8) (q.field 16 8)
            (((x.version? (q.field 8 8)).map (·.digest)).getD 0))) q stOk (q.field 16 8) [] := by
  refine State.serve_settled hq ?_
  have hstatus := firstStatus_of_all (l := [_, _]) (by simpa using ⟨hreach, hswitch⟩)
  simp [hx, Request.opVersion, hstatus]

/-! ### INDEX_RELEASE, TABLE_RELEASE, INDEX_STATUS, TABLE_STATUS -/

/-- The INDEX_RELEASE of a retained version is accepted. -/
theorem indexReleaseEff_accepts {f : Nat} {s : State} {q : Request} {x : Index} {v : Version}
    (hq : s.headRequest f 0x0406 = some q) (hx : SMap.find? s.indexes (q.field 0 4) = some x)
    (hreach : s.objectStatus (q.field 0 4) q.context (s.indexOwner (q.field 0 4)) = stOk)
    (hv : x.version? (q.field 8 8) = some v) (hretained : v.st = 4) :
    indexReleaseEff f s =
      settled f ((s.popRequest f).schedule (.release (q.field 0 4) (q.field 8 8))) q stOk (s.stride + 1) [] :=
  State.serve_accepts hq (by simp [hx, hreach, Request.opVersion, hv, hretained])

/-- The TABLE_RELEASE of a retained version that is not the training base is accepted. -/
theorem tableReleaseEff_accepts {f : Nat} {s : State} {q : Request} {x : Table} {v : TableVersion}
    (hq : s.headRequest f 0x0506 = some q) (hx : SMap.find? s.tables (q.field 0 4) = some x)
    (hreach : s.objectStatus (q.field 0 4) q.context (s.tableOwner (q.field 0 4)) = stOk)
    (hv : x.version? (q.field 8 8) = some v) (hretained : v.st = 4) (hbase : x.base ≠ q.field 8 8) :
    tableReleaseEff f s =
      settled f ((s.popRequest f).schedule (.release (q.field 0 4) (q.field 8 8))) q stOk (s.stride + 1) [] :=
  State.serve_accepts hq (by simp [hx, hreach, Request.opVersion, hv, hretained, hbase])

/-- INDEX_STATUS of a context's own index reports its published figures. -/
theorem indexStatusEff_reports {f : Nat} {s : State} {q : Request} {x : Index} {figs : List Nat}
    (hq : s.headRequest f 0x0407 = some q) (hx : SMap.find? s.indexes (q.field 0 4) = some x) (howner : x.context = q.context)
    (hfigs : figs = SMap.getD s.shown.indexes (q.field 0 4) []) :
    indexStatusEff f s = settled f (s.popRequest f) q stOk unstamped
      (toLe 4 (q.field 0 4) ++ toLe 2 (s.held x.map).length ++ zeros 2 ++ toLe 8 (figs.getD 1 0) ++
        toLe 8 (figs.getD 2 0) ++ toLe 8 (figs.getD 3 0) ++ toLe 8 (figs.getD 4 0) ++ toLe 4 (figs.getD 5 0) ++ zeros 4 ++
        toLe 8 (figs.getD 6 0) ++ toLe 8 (figs.getD 7 0) ++ toLe 8 s.shown.first ++ versionEntries (figs.drop 8)) :=
  State.serve_reports hq (by simp only [State.popRequest_indexes, hx, howner, hfigs, ne_eq, not_true_eq_false, if_false,
    State.popRequest_shown, State.popRequest_held])

/-- TABLE_STATUS of a context's own table reports its published figures. -/
theorem tableStatusEff_reports {f : Nat} {s : State} {q : Request} {x : Table} {figs : List Nat}
    (hq : s.headRequest f 0x0507 = some q) (hx : SMap.find? s.tables (q.field 0 4) = some x) (howner : x.context = q.context)
    (hfigs : figs = SMap.getD s.shown.tables (q.field 0 4) []) :
    tableStatusEff f s = settled f (s.popRequest f) q stOk unstamped
      (toLe 4 (q.field 0 4) ++ toLe 2 (s.held x.map).length ++ zeros 2 ++ toLe 8 (figs.getD 1 0) ++
        toLe 8 (figs.getD 2 0) ++ toLe 8 (figs.getD 3 0) ++ toLe 8 (figs.getD 4 0) ++ toLe 8 (figs.getD 5 0) ++
        toLe 8 (figs.getD 6 0) ++ toLe 8 (figs.getD 7 0) ++ toLe 8 s.shown.first ++ versionEntries (figs.drop 11)) :=
  State.serve_reports hq (by simp only [State.popRequest_tables, hx, howner, hfigs, ne_eq, not_true_eq_false, if_false,
    State.popRequest_shown, State.popRequest_held])

/-! ### TABLE_ROW_WRITE -/

/-- A TABLE_ROW_WRITE of live rows that can be made, in a stride in which no step applies, holds them for the next boundary. -/
theorem tableRowWriteEff_holds {f : Nat} {s : State} {q : Request} {x : Table} {rows : List TableRow}
    {recs : List (Nat × List Word32)} (hq : s.headRequest f 0x0508 = some q) (hx : SMap.find? s.tables (q.field 0 4) = some x)
    (hreach : s.objectStatus (q.field 0 4) q.context (s.tableOwner (q.field 0 4)) = stOk) (hsome : 0 < q.field 4 4)
    (hfew : q.field 4 4 ≤ 256) (hlength : q.payload.length = 8 + q.field 4 4 * x.sourceBytes)
    (hrecs : recs = (List.range (q.field 4 4)).map fun i => x.sourceRecord (q.payload.drop (8 + i * x.sourceBytes)))
    (hlive : ∀ r ∈ recs, x.liveRow r.1 ≠ none) (hrows : (recs.map fun r => x.makeRow r.1 r.2) = rows.map some)
    (hidle : s.applies (q.field 0 4) x (s.stride + 1) = false) :
    tableRowWriteEff f s = settled f ((s.popRequest f).modTable (q.field 0 4) fun x =>
      { x with writes := x.writes ++ rows.map fun r => (s.stride + 1, r) }) q stOk (s.stride + 1) [] := by
  refine State.serve_settled hq ?_
  have hkeys : (recs.any fun r => (x.liveRow r.1).isNone) = false := by simpa [List.any_eq_false] using hlive
  have hmade : ((rows.map some).any fun r => r.isNone) = false := by simp
  have hkept : ((rows.map some).filterMap fun r => r) = rows := List.filterMap_map.trans List.filterMap_some
  simp only [Request.field] at hx hreach hsome hfew hlength hrecs hidle ⊢
  simp only [State.popRequest_tables, hx, ← hrecs, hrows, State.popRequest_objectStatus, State.popRequest_tableOwner, hreach,
    hkeys, hmade, hkept]
  simp [Nat.pos_iff_ne_zero.1 hsome, Nat.not_lt.2 hfew, hlength, hidle]

/-- Settles O30, request by request. -/
theorem versionRequestsServed : Obligations.VersionRequestsServed := by
  refine ⟨?indexBuild, ?indexCompact, ?indexSwitch, ?indexRelease, ?indexStatus, ?tableBuild, ?tableFold, ?tableSwitch,
    ?tableRelease, ?tableStatus, ?rowWrite⟩
  case indexBuild =>
    intro f s q x hf hq hx hreach hsource hbuild
    exact guarded_funcOk hf (indexBuildEff_begins hq hx hreach hsource hbuild)
  case indexCompact =>
    intro f s q x v hf hq hx hreach hcurrent hbuild
    exact guarded_funcOk hf (indexCompactEff_begins hq hx hreach hcurrent hbuild)
  case indexSwitch =>
    intro f s q x hf hq hx hreach hnamed hbuilt hunheld hahead hnone
    refine guarded_funcOk hf (indexSwitchEff_accepts hq hx hreach ?_)
    rw [hnone]
    exact State.switchStatus_accepts hnamed hbuilt (by simpa using hunheld) hahead
  case indexRelease =>
    intro f s q x v hf hq hx hreach hv hretained
    exact guarded_funcOk hf (indexReleaseEff_accepts hq hx hreach hv hretained)
  case indexStatus =>
    intro f s q x figs hf hq hx howner hfigs
    exact guarded_funcOk hf (indexStatusEff_reports hq hx howner hfigs)
  case tableBuild =>
    intro f s q x hf hq hx hreach hsource hbuild
    exact guarded_funcOk hf (tableBuildEff_begins hq hx hreach hsource hbuild)
  case tableFold =>
    intro f s q x hf hq hx hreach hbase hbuild
    exact guarded_funcOk hf (tableFoldEff_begins hq hx hreach hbase hbuild)
  case tableSwitch =>
    intro f s q x hf hq hx hreach hnamed hbuilt hunheld hahead hnone
    refine guarded_funcOk hf (tableSwitchEff_accepts hq hx hreach ?_)
    rw [hnone]
    exact State.switchStatus_accepts hnamed hbuilt (by simpa using hunheld) hahead
  case tableRelease =>
    intro f s q x v hf hq hx hreach hv hretained hbase
    exact guarded_funcOk hf (tableReleaseEff_accepts hq hx hreach hv hretained hbase)
  case tableStatus =>
    intro f s q x figs hf hq hx howner hfigs
    exact guarded_funcOk hf (tableStatusEff_reports hq hx howner hfigs)
  case rowWrite =>
    intro f s q x rows hf hq hx hreach hsome hfew hlength hlive hrows hidle
    exact guarded_funcOk hf (tableRowWriteEff_holds hq hx hreach hsome hfew hlength rfl (by simpa using hlive)
      (by rw [List.map_map]; exact hrows) hidle)

end Sys2Proof.Machine
end

section
/-! SUPPORT. The statement of builds: what an admitted fold does to flash refutes it. -/

namespace Sys2Proof.Machine

/-! ## The pages of a version are writes of flash (R128, R266) -/

/-- An operation that waits for its share of a channel takes no sequence number. -/
theorem State.wait_sequence (s : State) (c : Nat) (o : ArrayOp) : (s.wait c o).flash.sequence = s.flash.sequence := rfl

/-- What a build class programs into paddock 0 takes the next sequence number of flash. -/
theorem State.writeOwn_sequence (s : State) (cls : Nat) (pages : Nat → List Nat) :
    (s.writeOwn cls pages).flash.sequence = s.flash.sequence + 1 := by
  refine (foldl_keeps (fun t : State => t.flash.sequence) (fun t ch => ?_) _ _).trans rfl
  exact foldl_keeps (fun u : State => u.flash.sequence) (fun u p => u.wait_sequence ..) _ t

/-- A table with a build that `b` becomes at its admission in stride `c`, sound so far, whose version is `v`. -/
def Table.admitted (x : Table) (b : Build) (c : Nat) (v : TableVersion) : Table :=
  { x.setVersion v with build := some { b with cut := some c, status := stOk, bad := 0xFFFF_FFFF } }

/-- A fold that its context's reservation holds is persisted as it is admitted. -/
theorem State.admitTableBuild_fold {s t : State} {id : Nat} {x : Table} {b : Build} (hfold : b.kind = 1)
    (ht : t = { s with tables := SMap.set s.tables id (x.admitted b s.stride (x.runFold b s.stride).1) })
    (hroom : t.holdsUse x.context = true) :
    s.admitTableBuild id x b = t.writeOwn b.cls ((x.runFold b s.stride).1.pagesOf id) := by
  have hnotBuild : ¬b.kind = 0 := by omega
  have hholds : ¬(stOk = stOk ∧ (!t.holdsUse x.context) = true) := by simp [hroom]
  subst ht
  unfold State.admitTableBuild
  extract_lets c
  rw [if_neg hnotBuild]
  exact (if_neg hholds).trans (if_pos rfl)

/-- BUILD_ADMISSION of a fold: it takes a unit of its class, and no source is read. -/
theorem buildAdmissionEff_fold {id : Nat} {bad : List Nat} {reads : List FlashRead} {s : State} {x : Table} {b : Build}
    (hindex : SMap.find? s.indexes id = none) (hx : SMap.find? s.tables id = some x) (hb : x.build = some b)
    (hfold : b.kind = 1) (hcut : b.cut = none) (hworking : s.working = true) (happlied : s.appliedNow x = false)
    (hclass : s.buildClassOk x.context b.cls = true) (hroom : s.admittedNow b.cls < s.admitLimit b.cls) :
    buildAdmissionEff id bad reads s = (s.admitTo b.cls).admitTableBuild id x b := by
  simp [buildAdmissionEff, hindex, hx, hb, hfold, hcut, hworking, happlied, hclass, State.classRoom, hroom]

/-! ## A node whose fold is admitted -/

/-- The fold of version 1 of a table into version 2, accepted and not yet admitted. -/
def acceptedFold : Build :=
  { kind := 1, version := 2, cls := 0, source := 0, count := 0, cut := none, status := stOk, bad := 0xFFFF_FFFF
    request := { func := 0, opcode := 0x0504, context := 5, flags := 0, tag := 7, stamp := 0, payload := [], replyAddr := 0
                 refusal := none, order := 0, others := 0, mute := false } }

/-- A table of one shard in span 1 whose training base, version 1, holds one row. -/
def foldingTable : Table :=
  { parseTable 5 [] with
    dim := 8, shards := 1, rowCap := 4, areaCap := 4, map := [1], base := 1, lastNum := 2, build := some acceptedFold
    versions :=
      [{ num := 1, st := 3, cut := 10, digest := 0, cutStep := 0, filled := true, keepTo := 0
         rows := [{ id := 1, row := zeros 128, state := [], applied := 0, step := 0, poisoned := false }] },
       { num := 2, st := 1, cut := 0, digest := 0, cutStep := 0, filled := false, keepTo := 0, rows := [] }] }

/-- A gait whose one class, an update class of context 5 that no ring feeds, admits a unit in each stride. -/
def buildGait : Gait :=
  { id := 1, period := 1, code := 1, units := UnitSet.none, contexts := [], plans := [], adm := [[1]]
    classes := [{ context := 5, kind := 2, elastic := false, len := 1, ring := 0xFFFF, first := 0, count := 0 }] }

/-- The near node of span 1, ready in the work window of stride 100, with the table under id 9 in context 5. -/
def foldingNode : State :=
  { State.reset with
    clk := { State.reset.clk with stride := 100, code := 1, window := 1 }
    node := { Node.reset with st := 1, stage := 9, id := 2, joined := true, joinClosed := true, supply := true, railsOn := true }
    gaits := { State.reset.gaits with
      slots := [{ st := 3, gait := some buildGait, stride := 50, isolated := [] }, GaitSlot.empty, GaitSlot.empty, GaitSlot.empty] }
    contexts := [(5, { func := 0, st := 1, hbm := 2 ^ 30, ddr := 2 ^ 30, kinds := [], wrapped := none, flashKey := none
                       ddrKey := none, closedAt := 0, swept := false, tornAt := none, tagFaults := 0 })]
    tables := [(9, foldingTable)] }

/-- The context's reservation holds the folded version. -/
theorem foldingNode_holdsUse :
    State.holdsUse { foldingNode.admitTo 0 with
      tables := SMap.set foldingNode.tables 9 (foldingTable.admitted acceptedFold 100 (foldingTable.runFold acceptedFold 100).1) }
      5 = true := by decide

/-- Refutes O48: its clause on tables says that a fold's admission leaves flash as it is, but a fold that its context has room for is
persisted in paddock 0 from its admission on (R128), so that the flash of `foldingNode` counts a write. -/
theorem not_buildsRun : ¬ Obligations.BuildsRun := by
  rintro ⟨-, htable, -⟩
  obtain ⟨t, y, d, hexec, -, -, -, -, -, -, -, -, hflash⟩ := htable 9 [] [] foldingNode foldingTable acceptedFold (by decide)
    rfl rfl rfl rfl rfl (fun _ => rfl) rfl (by decide)
  simp only [exec] at hexec
  have ht : t = (foldingNode.admitTo 0).admitTableBuild 9 foldingTable acceptedFold :=
    (guarded_next.1 hexec).2.trans (buildAdmissionEff_fold (b := acceptedFold) rfl rfl rfl rfl rfl rfl rfl rfl (by decide))
  have hcounts : t.flash.sequence = foldingNode.flash.sequence + 1 := by
    rw [ht, State.admitTableBuild_fold rfl rfl foldingNode_holdsUse, State.writeOwn_sequence]
    rfl
  have hkept : t.flash = foldingNode.flash := hflash.resolve_left (by decide)
  rw [hkept] at hcounts
  omega

end Sys2Proof.Machine
end

section
/-! SUPPORT. The statement of the closes: what frees an index or table, what sweeps a closed context, and what the scrub writes. -/

namespace Sys2Proof.Machine

/-! ## Maps: entries left after erasures, keys left out -/

/-- An entry lies at or above the bound of its map. -/
theorem SMap.le_of_mem {α : Type} {m : SMap α} {b : Nat} {e : Nat × α} (h : SMap.risesFrom b m = true) (he : e ∈ m) :
    b ≤ e.1 := by
  fun_induction SMap.risesFrom b m <;> grind

theorem SMap.ne_of_mem_erase_of {α : Type} {m : SMap α} {b k : Nat} {e : Nat × α} (h : SMap.risesFrom b m = true)
    (he : e ∈ SMap.erase m k) : e.1 ≠ k := by
  induction m generalizing b with
  | nil => exact absurd he List.not_mem_nil
  | cons d m ih =>
    simp only [SMap.risesFrom, Bool.and_eq_true] at h
    rw [SMap.erase] at he
    split at he
    case isTrue hd =>
      have := SMap.le_of_mem h.2 he
      omega
    case isFalse hd =>
      obtain rfl | he := List.mem_cons.1 he
      · exact hd
      · exact ih h.2 he

/-- An entry left after erasures was there, and in a canonical map its key is none of those erased. -/
theorem SMap.mem_foldl_erase {α : Type} (ids : List Nat) {m : SMap α} {e : Nat × α} (he : e ∈ ids.foldl SMap.erase m) :
    e ∈ m ∧ (SMap.wf m = true → e.1 ∉ ids) := by
  induction ids generalizing m with
  | nil => exact ⟨he, fun _ => List.not_mem_nil⟩
  | cons id ids ih =>
    obtain ⟨hmem, hout⟩ := ih he
    refine ⟨SMap.mem_erase hmem, fun h => ?_⟩
    rw [List.mem_cons, not_or]
    exact ⟨SMap.ne_of_mem_erase_of h hmem, hout (SMap.wf_erase id h)⟩

/-- Where the keys for which `p` fails are left out, the others read as before. -/
theorem SMap.find?_filter_key {α : Type} (m : SMap α) (p : Nat → Bool) (k : Nat) :
    SMap.find? (m.filter fun e => p e.1) k = if p k = true then SMap.find? m k else none := by
  induction m with
  | nil => simp [SMap.find?]
  | cons e m ih => grind [SMap.find?]

/-! ## What shared operations change: one equation for each -/

/-- An event answers requests: it changes the mailboxes and the requests that wait. -/
theorem State.happened_eq (s : State) (e : Event) (status : Nat) (stamp : Option Nat) (payload : Bytes) :
    ∃ mbx ctl, s.happened e status stamp payload = { s with mbx := mbx, ctl := ctl } := by
  refine foldl_holds (P := fun t : State => ∃ mbx ctl, t = { s with mbx := mbx, ctl := ctl }) ?_ _ ⟨_, _, rfl⟩
  rintro _ d ⟨mbx, ctl, rfl⟩
  unfold State.reply
  split
  · exact ⟨_, _, rfl⟩
  · exact ⟨_, _, rfl⟩

/-- Freed objects leave the indexes and the tables, and their closes are answered. -/
theorem State.foldl_freeObject_eq (ids : List Nat) (s : State) :
    ∃ mbx ctl, ids.foldl State.freeObject s =
      { s with indexes := ids.foldl SMap.erase s.indexes, tables := ids.foldl SMap.erase s.tables, mbx := mbx, ctl := ctl } := by
  induction ids generalizing s with
  | nil => exact ⟨_, _, rfl⟩
  | cons id ids ih =>
    obtain ⟨mbx, ctl, hfree⟩ := State.happened_eq
      { s with indexes := SMap.erase s.indexes id, tables := SMap.erase s.tables id } (.objectClosed id) stOk none []
    obtain ⟨mbx', ctl', hrest⟩ := ih (s.freeObject id)
    rw [List.foldl_cons, hrest, State.freeObject, hfree]
    exact ⟨_, _, rfl⟩

/-- A deleting paddock that has drained leaves flash, and its deletion is answered. -/
theorem State.paddockDrained_eq (s : State) (n : Nat) :
    ∃ flash mbx ctl, s.paddockDrained n = { s with flash := flash, mbx := mbx, ctl := ctl } := by
  unfold State.paddockDrained
  split
  case h_1 =>
    split
    · obtain ⟨mbx, ctl, h⟩ := State.happened_eq _ (.paddockDeleted n) stOk none []
      exact ⟨_, _, _, h⟩
    · exact ⟨_, _, _, rfl⟩
  case h_2 => exact ⟨_, _, _, rfl⟩

/-- The end of a context's scrub is at most answered. -/
theorem State.closeScrubbed_eq (s : State) (c : Nat) : ∃ mbx ctl, s.closeScrubbed c = { s with mbx := mbx, ctl := ctl } := by
  unfold State.closeScrubbed
  split
  · exact State.happened_eq ..
  · exact ⟨_, _, rfl⟩

/-! ## INDEX_CLOSE_DRAINED (R133, R256) -/

/-- INDEX_CLOSE_DRAINED: an index or table whose close is adopted is freed once nothing uses it. -/
theorem indexCloseDrainedEff_frees {id : Nat} {s : State}
    (hclosing : (∃ x b, SMap.find? s.indexes id = some x ∧ x.closing = some b ∧ b ≤ s.stride) ∨
      ∃ x b, SMap.find? s.tables id = some x ∧ x.closing = some b ∧ b ≤ s.stride)
    (hunused : s.objectUsed id = false) : indexCloseDrainedEff id s = s.freeObject id := by
  unfold indexCloseDrainedEff
  rcases hclosing with ⟨x, b, hx, hb, hadopted⟩ | ⟨x, b, hx, hb, hadopted⟩ <;> simp [hx, hb, hadopted, hunused]

/-! ## CONTEXT_CLOSE_DRAINED (R388) -/

/-- The ids of a context's indexes and tables. -/
def State.objectsOf (s : State) (c : Nat) : List Nat :=
  (s.indexes.filter fun p => p.2.context = c).map (·.1) ++ (s.tables.filter fun p => p.2.context = c).map (·.1)

/-- A swept context: its keys are erased. -/
def Context.sweep (x : Context) : Context := { x with swept := true, wrapped := none, flashKey := none, ddrKey := none }

/-- CONTEXT_CLOSE_DRAINED of a drained context: its objects, its programs and its keys go, and its granules, its paddocks and its
close's reply with them. -/
theorem contextCloseDrainedEff_sweeps {c : Nat} {s : State} {x : Context} (hx : SMap.find? s.contexts c = some x)
    (hclosing : x.st = 2) (hunswept : x.swept = false) (hclosed : x.closedAt ≤ s.stride) (hdrained : s.contextUsed c = false) :
    ∃ mem flash mbx ctl, contextCloseDrainedEff c s =
      { s with
        indexes := (s.objectsOf c).foldl SMap.erase s.indexes, tables := (s.objectsOf c).foldl SMap.erase s.tables
        programs := s.programs.filter fun p => p.2.context ≠ c
        contexts := SMap.update s.contexts c Context.sweep
        mem := mem, flash := flash, mbx := mbx, ctl := ctl } := by
  have hsweeps : ¬(x.st ≠ 2 ∨ x.swept = true ∨ s.stride < x.closedAt ∨ s.contextUsed c = true) := by
    simp [hclosing, hunswept, hclosed, hdrained]
  simp only [contextCloseDrainedEff, hx, if_neg hsweeps, ← State.objectsOf.eq_1]
  obtain ⟨mbx, ctl, hobjects⟩ := State.foldl_freeObject_eq (s.objectsOf c) s
  rw [hobjects]
  generalize hs1 : ({ s with
    indexes := (s.objectsOf c).foldl SMap.erase s.indexes, tables := (s.objectsOf c).foldl SMap.erase s.tables
    mbx := mbx, ctl := ctl } : State) = s1
  obtain ⟨flash, mbx2, ctl2, hpaddocks⟩ : ∃ flash mbx ctl,
      ((s.flash.paddocks.filter fun p => p.2.context = c).map (·.1)).foldl
        (fun s n => (s.modPaddock n fun p => { p with st := 3 }).paddockDrained n) s1 =
      { s1 with flash := flash, mbx := mbx, ctl := ctl } := by
    refine foldl_holds (P := fun t : State => ∃ flash mbx ctl, t = { s1 with flash := flash, mbx := mbx, ctl := ctl })
      ?_ _ ⟨_, _, _, rfl⟩
    rintro _ n ⟨flash, mbx, ctl, rfl⟩
    obtain ⟨flash', mbx', ctl', h⟩ := State.paddockDrained_eq _ n
    exact ⟨_, _, _, h⟩
  rw [hpaddocks]
  obtain ⟨mbx3, ctl3, hanswer⟩ := State.closeScrubbed_eq _ c
  rw [hanswer]
  subst hs1
  exact ⟨_, _, _, _, rfl⟩

/-- Nothing of a context is left of a canonical map once the keys of what it owns there are erased. -/
theorem SMap.context_ne_of_mem_foldl_erase {α : Type} {m : SMap α} {ids : List Nat} {context : α → Nat} {c : Nat}
    (hids : ∀ p ∈ m, context p.2 = c → p.1 ∈ ids) (hwf : SMap.wf m = true) {p : Nat × α} (hp : p ∈ ids.foldl SMap.erase m) :
    context p.2 ≠ c := fun h =>
  have ⟨hmem, hout⟩ := SMap.mem_foldl_erase ids hp
  hout hwf (hids p hmem h)

/-! ## GRANULE_SCRUB (R389) -/

/-- A scrubbed range of HBM reads zero, and every other byte as before. -/
theorem State.hbmZero_readByte (s : State) (a n c : Nat) :
    readByte (s.hbmZero a n).mem.bytes c = if a ≤ c ∧ c < a + n then 0 else readByte s.mem.bytes c := by
  have h := SMap.find?_filter_key s.mem.bytes (fun k => !decide (a ≤ k ∧ k < a + n)) c
  simp only [readByte, SMap.getD, State.hbmZero, h]
  by_cases hin : a ≤ c ∧ c < a + n
  · simp [hin, memDefault]
  · simp [hin]

/-- What a scrub keeps of `s`: it queues no granule, writes to none that was not queued, and leaves DDR's tags, flash, the indexes
and the clock. -/
structure ScrubKeeps (s t : State) : Prop where
  queue : ∀ g ∈ t.mem.scrubQueue, g ∈ s.mem.scrubQueue
  bytes : ∀ a, (∀ g ∈ s.mem.scrubQueue, a < g * granuleSize ∨ (g + 1) * granuleSize ≤ a) →
    readByte t.mem.bytes a = readByte s.mem.bytes a
  ddrTags : t.mem.ddrTags = s.mem.ddrTags
  flash : t.flash = s.flash
  indexes : t.indexes = s.indexes
  clk : t.clk = s.clk

theorem ScrubKeeps.refl (s : State) : ScrubKeeps s s := ⟨fun _ h => h, fun _ _ => rfl, rfl, rfl, rfl, rfl⟩

/-- Zeros over what is left of a queued granule keep every byte outside it. -/
theorem ScrubKeeps.zero {s t : State} {g scrubbed n : Nat} (h : ScrubKeeps s t) (hg : g ∈ s.mem.scrubQueue)
    (hn : n ≤ granuleBlocks - scrubbed) : ScrubKeeps s (t.hbmZero (g * granuleSize + 64 * scrubbed) (64 * n)) where
  queue := h.queue
  bytes a ha := by
    have hout := ha g hg
    simp only [granuleSize, granuleBlocks] at hout hn ⊢
    rw [State.hbmZero_readByte, if_neg (by omega), h.bytes a ha]
  ddrTags := h.ddrTags
  flash := h.flash
  indexes := h.indexes
  clk := h.clk

/-- A granule's tag, its leaving the queue, and the answer of its context's close keep the rest. -/
theorem ScrubKeeps.tag {s t : State} (h : ScrubKeeps s t) (tags : SMap Granule) {queue : List Nat}
    (hqueue : ∀ g ∈ queue, g ∈ t.mem.scrubQueue) :
    ScrubKeeps s { t with mem := { t.mem with hbmTags := tags, scrubQueue := queue } } :=
  ⟨fun g hg => h.queue g (hqueue g hg), h.bytes, h.ddrTags, h.flash, h.indexes, h.clk⟩

theorem ScrubKeeps.closeScrubbed {s t : State} (h : ScrubKeeps s t) (c : Nat) : ScrubKeeps s (t.closeScrubbed c) := by
  obtain ⟨mbx, ctl, heq⟩ := t.closeScrubbed_eq c
  rw [heq]
  exact ⟨h.queue, h.bytes, h.ddrTags, h.flash, h.indexes, h.clk⟩

/-- The scrub of queued granules of a stack keeps what a scrub keeps. -/
theorem ScrubKeeps.scrubStack {s t : State} {l : List Nat} (h : ScrubKeeps s t) (hl : ∀ g ∈ l, g ∈ s.mem.scrubQueue)
    (budget : Nat) : ScrubKeeps s (State.scrubStack l budget t) := by
  induction l generalizing t budget with
  | nil => exact h
  | cons g l ih =>
    obtain ⟨hg, hrest⟩ := List.forall_mem_cons.1 hl
    unfold State.scrubStack
    split
    case h_1 => exact ih h hrest _
    case h_2 r _ =>
      have hz := h.zero hg (scrubbed := r.scrubbed) (Nat.min_le_right budget _)
      simp only
      split
      case isTrue => exact ih h hrest _
      case isFalse =>
        split
        · exact ih ((hz.tag _ fun g hg => (List.mem_filter.1 hg).1).closeScrubbed _) hrest _
        · exact hz.tag _ fun g hg => hg

/-- One stack's part of a stride's scrub. -/
def State.scrubPart (s : State) (k : Nat) : State :=
  State.scrubStack (s.mem.scrubQueue.filter fun g => g / stackGranules = k) 49152 s

/-- GRANULE_SCRUB: a node that runs scrubs its eight stacks, outside the commit window. -/
theorem granuleScrubEff_runs {s : State} (hrunning : s.running = true) (hwindow : s.clk.window ≠ 0) :
    granuleScrubEff s = (List.range 8).foldl State.scrubPart s := by
  have hruns : ¬((!s.running) = true ∨ s.clk.window = 0) := by simp [hrunning, hwindow]
  rw [granuleScrubEff, if_neg hruns]
  rfl

/-- A stride's scrub keeps what a scrub keeps. -/
theorem ScrubKeeps.scrubParts (s : State) (l : List Nat) : ScrubKeeps s (l.foldl State.scrubPart s) :=
  foldl_holds (P := ScrubKeeps s)
    (fun _ _ h => h.scrubStack (fun g hg => h.queue g (List.mem_filter.1 hg).1) _) l (ScrubKeeps.refl s)

/-- A stack of which no granule waits is not scrubbed. -/
theorem State.scrubPart_idle {s : State} {k : Nat} (h : ∀ g ∈ s.mem.scrubQueue, g / stackGranules ≠ k) : s.scrubPart k = s := by
  have hnone : (s.mem.scrubQueue.filter fun g => g / stackGranules = k) = [] := by simpa [List.filter_eq_nil_iff] using h
  rw [State.scrubPart, hnone, State.scrubStack]

/-- Where the one granule that waits leaves the queue with its stack's part, a stride's scrub is that part. -/
theorem State.foldl_scrubPart_single {s : State} {g : Nat} (hqueue : s.mem.scrubQueue = [g])
    (hdone : (s.scrubPart (g / stackGranules)).mem.scrubQueue = []) {l : List Nat} (hl : g / stackGranules ∈ l) :
    l.foldl State.scrubPart s = s.scrubPart (g / stackGranules) := by
  induction l with
  | nil => exact absurd hl List.not_mem_nil
  | cons k l ih =>
    rw [List.foldl_cons]
    by_cases hk : g / stackGranules = k
    · subst hk
      exact foldl_holds (P := fun t => t = s.scrubPart (g / stackGranules))
        (fun _ _ ht => by rw [ht, State.scrubPart_idle (by simp [hdone])]) l rfl
    · rw [State.scrubPart_idle (by simpa [hqueue] using hk)]
      exact ih ((List.mem_cons.1 hl).resolve_left hk)

/-- A stack whose one waiting granule no die holds back is scrubbed to its end: the rest of the granule is zeroed, and it is
untagged and leaves the queue. -/
theorem State.scrubPart_ends {s : State} {g : Nat} {r : Granule} (hqueue : s.mem.scrubQueue = [g])
    (htag : SMap.find? s.mem.hbmTags g = some r) (hleft : r.scrubbed ≤ granuleBlocks)
    (hfree : s.dieWaits (g * granuleSize + 64 * r.scrubbed) (64 * (granuleBlocks - r.scrubbed)) = false) :
    ∃ mbx ctl, s.scrubPart (g / stackGranules) =
      let z := s.hbmZero (g * granuleSize + 64 * r.scrubbed) (64 * (granuleBlocks - r.scrubbed))
      { z with mem := { z.mem with hbmTags := SMap.erase s.mem.hbmTags g, scrubQueue := [] }, mbx := mbx, ctl := ctl } := by
  have hbudget : min 49152 (granuleBlocks - r.scrubbed) = granuleBlocks - r.scrubbed :=
    Nat.min_eq_right (Nat.le_trans (Nat.sub_le ..) (by decide))
  have hwhole : r.scrubbed + (granuleBlocks - r.scrubbed) = granuleBlocks := by omega
  have hmine : (s.mem.scrubQueue.filter fun k => k / stackGranules = g / stackGranules) = [g] := by simp [hqueue]
  rw [State.scrubPart, hmine]
  simp only [State.scrubStack, htag, hbudget, hfree, Bool.false_eq_true, if_false, hwhole, if_true]
  obtain ⟨mbx, ctl, hanswer⟩ := State.closeScrubbed_eq _ r.owner
  rw [hanswer]
  refine ⟨mbx, ctl, ?_⟩
  simp [State.hbmZero, hqueue]

/-- Settles O50, clause by clause: an index's close and a table's; the sweep of a context; the scrub of the one granule that waits;
what every scrub keeps. -/
theorem closesDrained : Obligations.ClosesDrained := by
  refine ⟨?index, ?table, ?context, ?scrubbed, ?kept⟩
  case index =>
    intro id s x b hid hx hb hadopted hunused
    exact guarded_decide hid (indexCloseDrainedEff_frees (.inl ⟨x, b, hx, hb, hadopted⟩) hunused)
  case table =>
    intro id s x b hid hx hb hadopted hunused
    exact guarded_decide hid (indexCloseDrainedEff_frees (.inr ⟨x, b, hx, hb, hadopted⟩) hunused)
  case context =>
    intro c s x hc hx hclosing hunswept hclosed hdrained
    obtain ⟨mem, flash, mbx, ctl, heff⟩ := contextCloseDrainedEff_sweeps hx hclosing hunswept hclosed hdrained
    have hbytes := contextCloseDrainedEff_bytes c s
    rw [heff] at hbytes
    refine ⟨_, x.sweep, guarded_decide hc heff, ?_, rfl, rfl, rfl, rfl, hclosing, ?_, ?_, ?_, hbytes⟩
    · rw [SMap.find?_update_self, hx, Option.map_some]
    · intro p hp
      simpa using (List.mem_filter.1 hp).2
    · intro hwf p hp
      refine SMap.context_ne_of_mem_foldl_erase (context := Index.context) (fun p hp hcontext => ?_) hwf hp
      exact List.mem_append_left _ (List.mem_map_of_mem (List.mem_filter.2 ⟨hp, decide_eq_true hcontext⟩))
    · intro hwf p hp
      refine SMap.context_ne_of_mem_foldl_erase (context := Table.context) (fun p hp hcontext => ?_) hwf hp
      exact List.mem_append_right _ (List.mem_map_of_mem (List.mem_filter.2 ⟨hp, decide_eq_true hcontext⟩))
  case scrubbed =>
    intro s g r hrunning hwindow hqueue hg htag hleft hfree
    obtain ⟨mbx, ctl, hpart⟩ := State.scrubPart_ends hqueue htag hleft hfree
    have hstack : g / stackGranules ∈ List.range 8 := List.mem_range.2 (Nat.div_lt_of_lt_mul (by rwa [Nat.mul_comm]))
    refine ⟨_, congrArg Host.Outcome.next ((granuleScrubEff_runs hrunning hwindow).trans
      ((State.foldl_scrubPart_single hqueue (by rw [hpart]) hstack).trans hpart)), rfl, rfl, fun a hfrom hto => ?_⟩
    refine (State.hbmZero_readByte ..).trans (if_pos ⟨hfrom, ?_⟩)
    simp only [granuleSize, granuleBlocks] at hleft hto ⊢
    omega
  case kept =>
    intro s hrunning hwindow
    have hkeeps := ScrubKeeps.scrubParts s (List.range 8)
    exact ⟨_, congrArg Host.Outcome.next (granuleScrubEff_runs hrunning hwindow), hkeeps.bytes, hkeeps.ddrTags, hkeeps.flash,
      hkeeps.indexes, hkeeps.clk⟩

end Sys2Proof.Machine
end

section
/-! SUPPORT. The statements of selections: the order of entries, what the block steps of a pass hold, what chained passes give,
and short selections (06_selection.md). -/

namespace Sys2Proof.Machine

/-! ## The order of entries (R136) -/

theorem Entry.before_iff (a b : Entry) : a.before b = true ↔
    a.rank < b.rank ∨ (a.rank = b.rank ∧ (a.key < b.key ∨ (a.key = b.key ∧ a.pos < b.pos))) := by
  simp only [Entry.before, Bool.or_eq_true, Bool.and_eq_true, decide_eq_true_eq]

theorem Entry.before_asymm {a b : Entry} (h : a.before b = true) : b.before a = false := by
  rw [Entry.before_iff] at h
  rw [← Bool.not_eq_true, Entry.before_iff]
  omega

/-- "Not before" is transitive, so that an ordered list may be read pair by pair. -/
theorem Entry.not_before_trans {a b c : Entry} (hab : b.before a = false) (hbc : c.before b = false) :
    c.before a = false := by
  rw [← Bool.not_eq_true, Entry.before_iff] at *
  omega

/-- Of two entries with different positions one is before the other. -/
theorem Entry.before_of_not_before {a b : Entry} (h : b.before a = false) (hpos : a.pos ≠ b.pos) : a.before b = true := by
  rw [← Bool.not_eq_true, Entry.before_iff] at h
  rw [Entry.before_iff]
  omega

theorem insertEntry_perm (e : Entry) (l : List Entry) : (insertEntry e l).Perm (e :: l) := by
  induction l with
  | nil => exact .refl _
  | cons x l ih =>
    rw [insertEntry]
    split
    · exact .refl _
    · exact (ih.cons x).trans (.swap e x l)

theorem insertEntry_pairwise (e : Entry) {l : List Entry} (h : l.Pairwise fun a b => b.before a = false) :
    (insertEntry e l).Pairwise fun a b => b.before a = false := by
  induction l with
  | nil => exact List.pairwise_singleton _ _
  | cons x l ih =>
    obtain ⟨hx, hl⟩ := List.pairwise_cons.1 h
    rw [insertEntry]
    split
    case isTrue hbefore =>
      have hex := Entry.before_asymm hbefore
      refine .cons (fun y hy => ?_) h
      rcases List.mem_cons.1 hy with rfl | hy
      · exact hex
      · exact Entry.not_before_trans hex (hx y hy)
    case isFalse hbefore =>
      refine .cons (fun y hy => ?_) (ih hl)
      rcases List.mem_cons.1 ((insertEntry_perm e l).mem_iff.1 hy) with rfl | hy
      · exact Bool.not_eq_true _ ▸ hbefore
      · exact hx y hy

theorem sortEntries_perm (l : List Entry) : (sortEntries l).Perm l := by
  induction l with
  | nil => exact .refl _
  | cons e l ih => exact (insertEntry_perm e _).trans (ih.cons e)

theorem sortEntries_pairwise (l : List Entry) : (sortEntries l).Pairwise fun a b => b.before a = false := by
  induction l with
  | nil => exact .nil
  | cons e l ih => exact insertEntry_pairwise e ih

/-- Ordering two lists together inserts the entries of the one into the other, ordered. -/
theorem sortEntries_append (l m : List Entry) : sortEntries (l ++ m) = l.foldr insertEntry (sortEntries m) :=
  List.foldr_append

/-! ## Entries numbered apart: their order has no ties -/

/-- No two entries of a list have the same position. -/
def DistinctPositions (l : List Entry) : Prop := l.Pairwise fun a b => a.pos ≠ b.pos

theorem DistinctPositions.perm {l m : List Entry} (h : DistinctPositions l) (hp : l.Perm m) : DistinctPositions m :=
  List.Pairwise.perm h hp Ne.symm

theorem DistinctPositions.sublist {l m : List Entry} (h : DistinctPositions l) (hs : m.Sublist l) : DistinctPositions m :=
  List.Pairwise.sublist hs h

theorem sortEntries_pairwise_before {l : List Entry} (h : DistinctPositions l) :
    (sortEntries l).Pairwise fun a b => a.before b = true :=
  (sortEntries_pairwise l).imp₂ (fun _ _ => Entry.before_of_not_before) (h.perm (sortEntries_perm l).symm)

/-- Entries numbered apart have one ordering alone. -/
theorem sortEntries_eq_of_perm {l m : List Entry} (h : DistinctPositions l) (hp : m.Perm l)
    (hm : m.Pairwise fun a b => a.before b = true) : sortEntries l = m :=
  ((sortEntries_perm l).trans hp.symm).eq_of_pairwise
    (fun _ _ _ _ hab hba => absurd hba (Bool.not_eq_true _ ▸ Entry.before_asymm hab)) (sortEntries_pairwise_before h) hm

theorem sortEntries_congr {l m : List Entry} (h : DistinctPositions l) (hp : l.Perm m) : sortEntries l = sortEntries m :=
  sortEntries_eq_of_perm h ((sortEntries_perm m).trans hp.symm) (sortEntries_pairwise_before (h.perm hp))

theorem length_numbered (l : List Entry) : (numbered l).length = l.length := by
  simp only [numbered, List.length_map, List.length_zip, List.length_range, Nat.min_self]

theorem getElem?_numbered {l : List Entry} {i : Nat} {e : Entry} (h : l[i]? = some e) :
    (numbered l)[i]? = some { e with pos := i, dups := 0 } := by
  obtain ⟨hi, rfl⟩ := List.getElem?_eq_some_iff.1 h
  simp [numbered, hi]

theorem map_pos_numbered (l : List Entry) : (numbered l).map (·.pos) = List.range l.length := by
  rw [numbered, List.map_map]
  exact List.map_snd_zip (Nat.le_of_eq List.length_range)

theorem distinctPositions_numbered (l : List Entry) : DistinctPositions (numbered l) :=
  List.pairwise_map.1 (map_pos_numbered l ▸ List.nodup_range)

/-! ## The block steps of a pass without deduplication (R139) -/

/-- What an insertion leaves at the head of an ordered list depends on that head alone. -/
theorem take_insertEntry (e : Entry) (l : List Entry) (n : Nat) :
    (insertEntry e (l.take n)).take n = (insertEntry e l).take n := by
  induction l generalizing n with
  | nil => rw [List.take_nil]
  | cons x l ih =>
    cases n with
    | zero => rfl
    | succ n =>
      rw [List.take_succ_cons, insertEntry, insertEntry]
      split
      · rw [List.take_succ_cons, List.take_succ_cons, ← List.take_succ_cons (as := l), List.take_take,
          Nat.min_eq_left (Nat.le_succ n)]
      · rw [List.take_succ_cons, List.take_succ_cons, ih]

theorem take_foldr_insertEntry (l m : List Entry) (n : Nat) :
    (l.foldr insertEntry (m.take n)).take n = (l.foldr insertEntry m).take n := by
  induction l with
  | nil => rw [List.foldr_nil, List.foldr_nil, List.take_take, Nat.min_self]
  | cons e l ih => rw [List.foldr_cons, List.foldr_cons, ← take_insertEntry, ih, take_insertEntry]

/-- The best `n` of what two lists hold are the best `n` of the best `n` of the first and the second. -/
theorem take_sortEntries_append {l m : List Entry} (h : DistinctPositions (l ++ m)) (n : Nat) :
    (sortEntries ((sortEntries l).take n ++ sortEntries m)).take n = (sortEntries (l ++ m)).take n := by
  have hsub : ((sortEntries l).take n ++ sortEntries m).Sublist (sortEntries l ++ sortEntries m) :=
    (List.take_sublist n _).append_right _
  have hbest := (h.perm ((sortEntries_perm l).append (sortEntries_perm m)).symm).sublist hsub
  have hl : DistinctPositions l := h.sublist (List.sublist_append_left l m)
  have htake : sortEntries ((sortEntries l).take n) = (sortEntries l).take n :=
    sortEntries_eq_of_perm ((hl.perm (sortEntries_perm l).symm).sublist (List.take_sublist n _)) (.refl _)
      ((sortEntries_pairwise_before hl).sublist (List.take_sublist n _))
  calc (sortEntries ((sortEntries l).take n ++ sortEntries m)).take n
      = (sortEntries (sortEntries m ++ (sortEntries l).take n)).take n := by
        rw [sortEntries_congr hbest List.perm_append_comm]
    _ = ((sortEntries m).foldr insertEntry (sortEntries l)).take n := by
        rw [sortEntries_append, htake, take_foldr_insertEntry]
    _ = (sortEntries (l ++ m)).take n := by
        rw [← sortEntries_append, sortEntries_congr h
          (List.perm_append_comm.trans ((sortEntries_perm m).symm.append_right l))]

/-- The held register with the best `kp` of a list, and the next one in its boundary slot. -/
def SortRegister.best (kp : Nat) (l : List Entry) : SortRegister :=
  { held := (sortEntries l).take kp, slot := (sortEntries l)[kp]? }

theorem SortRegister.best_entries (kp : Nat) (l : List Entry) :
    (best kp l).held ++ (best kp l).slot.toList = (sortEntries l).take (kp + 1) := List.take_add_one.symm

/-- The register shows the best `kp + 1` entries of a list alone. -/
theorem SortRegister.best_congr {kp : Nat} {l m : List Entry}
    (h : (sortEntries l).take (kp + 1) = (sortEntries m).take (kp + 1)) : best kp l = best kp m := by
  have hheld := congrArg (List.take kp) h
  have hslot := congrArg (·[kp]?) h
  simp only [List.take_take, Nat.min_eq_left (Nat.le_succ kp), List.getElem?_take_of_lt (Nat.lt_succ_self kp)] at hheld hslot
  simp only [best, hheld, hslot]

/-- A block step keeps the best of what the register was the best of, and of the block. -/
theorem SortUnit.blockStep_serving_best {u : SortUnit} {kp : Nat} {l : List Entry} (hu : u.serving = .best kp l)
    (entries : List Entry) (h : DistinctPositions (l ++ entries)) :
    (u.blockStep false kp false entries).serving = .best kp (l ++ entries) := by
  rw [← SortRegister.best_congr (take_sortEntries_append h (kp + 1)), ← SortRegister.best_entries, ← hu]
  rfl

/-- The block steps of an input keep the best of what the register was the best of, and of the entries that count. -/
theorem SortUnit.blocks_serving_best {kp : Nat} {use : Entry → Bool} {fuel : Nat} (step : Nat) {u : SortUnit}
    {l input : List Entry} (hfuel : input.length ≤ 64 * fuel) (hu : u.serving = .best kp l)
    (h : DistinctPositions (l ++ input.filter use)) :
    (SortUnit.blocks false kp use [] fuel step u input).serving = .best kp (l ++ input.filter use) := by
  induction fuel generalizing step u l input with
  | zero =>
    obtain rfl : input = [] := List.eq_nil_of_length_eq_zero (by omega)
    rw [List.filter_nil, List.append_nil]
    exact hu
  | succ fuel ih =>
    rw [SortUnit.blocks]
    split
    case isTrue hempty =>
      rw [List.isEmpty_iff.1 hempty, List.filter_nil, List.append_nil]
      exact hu
    case isFalse =>
      have hcut : l ++ input.filter use = (l ++ (input.take 64).filter use) ++ (input.drop 64).filter use := by
        rw [List.append_assoc, ← List.filter_append, List.take_append_drop]
      rw [hcut] at h ⊢
      have hblock := h.sublist (List.sublist_append_left _ _)
      exact ih _ (by rw [List.length_drop]; omega) (SortUnit.blockStep_serving_best hu _ hblock) h

/-! ## A pass (R139, R141) -/

/-- The register that serves at the end of a pass. -/
def Selection.passRegister (dedup : Bool) (parity : List Nat) (input : List Entry) (p : Selection × SortUnit) : SortRegister :=
  (SortUnit.blocks dedup (min 64 p.1.want) (p.1.uses dedup) parity (blockSteps input) p.1.steps
    ({ p.2 with parity := false }.load [] none p.1.excl) input).serving

/-- The floor that an entry output last sets. -/
def Entry.floor (e : Entry) : Floor := { rank := e.rank, key := e.key, pos := e.pos }

section
variable (dedup : Bool) (parity : List Nat) (input : List Entry) {p : Selection × SortUnit}

theorem Selection.pass_out (h : p.1.ended = false) : (Selection.pass dedup parity input p).1.out =
    p.1.out ++ (Selection.passRegister dedup parity input p).held := by
  rw [Selection.pass, if_neg (Bool.not_eq_true _ ▸ h)]
  rfl

theorem Selection.pass_boundary (h : p.1.ended = false) : (Selection.pass dedup parity input p).1.boundary =
    (Selection.passRegister dedup parity input p).slot := by
  rw [Selection.pass, if_neg (Bool.not_eq_true _ ▸ h)]
  rfl

theorem Selection.pass_want (h : p.1.ended = false) : (Selection.pass dedup parity input p).1.want =
    p.1.want - min 64 p.1.want := by
  rw [Selection.pass, if_neg (Bool.not_eq_true _ ▸ h)]

theorem Selection.pass_floor (h : p.1.ended = false) : (Selection.pass dedup parity input p).1.floor =
    (Selection.passRegister dedup parity input p).held.getLast?.map Entry.floor := by
  rw [Selection.pass, if_neg (Bool.not_eq_true _ ▸ h)]
  rfl

theorem Selection.pass_excl (h : p.1.ended = false) : (Selection.pass false parity input p).1.excl = [] := by
  rw [Selection.pass, if_neg (Bool.not_eq_true _ ▸ h)]
  rfl

theorem Selection.pass_ended (h : p.1.ended = false) : (Selection.pass dedup parity input p).1.ended = true ↔
    (Selection.passRegister dedup parity input p).held.length < min 64 p.1.want ∨ p.1.want ≤ 64 := by
  rw [Selection.pass, if_neg (Bool.not_eq_true _ ▸ h)]
  simp only [Bool.or_eq_true, decide_eq_true_eq]
  rfl

/-- What holds of a selection at its start and is kept by every pass that runs holds at its end. -/
theorem Selection.passes_induct {P : Selection → Prop}
    (hpass : ∀ p : Selection × SortUnit, p.1.ended = false → P p.1 → P (Selection.pass dedup parity input p).1)
    (n : Nat) (p : Selection × SortUnit) (hp : P p.1) : P (Selection.passes dedup parity input n p).1 := by
  induction n generalizing p with
  | zero => exact hp
  | succ n ih =>
    rw [Selection.passes]
    refine ih _ ?_
    cases hended : p.1.ended with
    | true => rwa [Selection.pass, if_pos hended]
    | false => exact hpass p hended hp

end

/-- A pass without deduplication holds the best of the entries that count in it. -/
theorem Selection.passRegister_eq_best {input : List Entry} (h : DistinctPositions input) (p : Selection × SortUnit) :
    Selection.passRegister false [] input p = .best (min 64 p.1.want) (input.filter (p.1.uses false)) := by
  refine SortUnit.blocks_serving_best (l := []) _ ?_ ?_ (h.sublist List.filter_sublist)
  · rw [blockSteps, ceilDiv]
    omega
  · simp only [SortUnit.load, SortRegister.best, sortEntries, List.foldr_nil, List.take_nil, List.getElem?_nil]

/-! ## Chained passes without deduplication (R141) -/

theorem Floor.covers_iff (f : Floor) (x : Entry) : f.covers false x = true ↔
    x.rank < f.rank ∨ (x.rank = f.rank ∧ (x.key < f.key ∨ (x.key = f.key ∧ x.pos ≤ f.pos))) := by
  simp only [Floor.covers, Bool.or_eq_true, Bool.and_eq_true, decide_eq_true_eq, Bool.false_or]

/-- The floor that an entry sets covers what the entry is not before. -/
theorem Entry.floor_covers (e x : Entry) : e.floor.covers false x = !e.before x := by
  rw [Bool.eq_iff_iff, Bool.not_eq_true', ← Bool.not_eq_true, Entry.before_iff, Floor.covers_iff]
  simp only [Entry.floor]
  omega

/-- Of an ordered list, the entries after the last of a first part are the rest. -/
theorem filter_before_getLast? {out rest : List Entry} (h : (out ++ rest).Pairwise fun a b => a.before b = true) :
    ((out ++ rest).filter fun x => out.getLast?.all fun e => e.before x) = rest := by
  obtain ⟨hout, -, hrest⟩ := List.pairwise_append.1 h
  rcases out.eq_nil_or_concat with rfl | ⟨init, e, rfl⟩
  · exact List.filter_eq_self.2 fun _ _ => rfl
  · simp only [List.concat_eq_append, List.getLast?_concat, Option.all_some, List.filter_append (init ++ [e])]
    rw [List.filter_eq_nil_iff.2, List.filter_eq_self.2, List.nil_append]
    · exact fun x hx => hrest e (by simp) x hx
    · obtain ⟨-, -, hinit⟩ := List.pairwise_append.1 (List.concat_eq_append ▸ hout)
      intro x hx
      rw [Bool.not_eq_true]
      rcases List.mem_append.1 hx with hx | hx
      · exact Entry.before_asymm (hinit x hx e (List.mem_singleton_self e))
      · rw [List.mem_singleton.1 hx, ← Bool.not_eq_true, Entry.before_iff]
        omega

/-- A selection of `k` entries without deduplication, between its passes: what is output begins the order of all entries, and
the floor stands at the last entry output. -/
structure Selection.OnCourse (sorted : List Entry) (k : Nat) (c : Selection) : Prop where
  excl : c.excl = []
  floor : c.floor = c.out.getLast?.map Entry.floor
  out : c.out <+: sorted
  count : c.out.length + c.want = k

/-- A selection that goes on is on course, and one that has ended gave the first `k` entries. -/
structure Selection.Chained (sorted : List Entry) (k : Nat) (c : Selection) : Prop where
  goes : c.ended = false → c.OnCourse sorted k
  ends : c.ended = true → c.out = sorted.take k

/-- On course, the entries that count in a pass are those after the last one output. -/
theorem Selection.OnCourse.uses {sorted : List Entry} {k : Nat} {c : Selection} (h : c.OnCourse sorted k) (x : Entry) :
    c.uses false x = (!hasFlag x.flags flPad && c.out.getLast?.all fun e => e.before x) := by
  simp only [Selection.uses, h.excl, h.floor, List.contains_nil, Bool.not_false, Bool.and_true]
  cases c.out.getLast? with
  | none => rfl
  | some e => simp only [Option.map_some, Option.all_some, Entry.floor_covers, Bool.not_not]

/-- On course, a pass runs over what is still to be output. -/
theorem Selection.OnCourse.sortEntries_uses {input rest : List Entry} {k : Nat} {c : Selection}
    (hinput : DistinctPositions input)
    (hrest : c.out ++ rest = sortEntries (input.filter fun e => !hasFlag e.flags flPad))
    (h : c.OnCourse (sortEntries (input.filter fun e => !hasFlag e.flags flPad)) k) :
    sortEntries (input.filter (c.uses false)) = rest := by
  have hsorted := sortEntries_pairwise_before (hinput.sublist List.filter_sublist :
    DistinctPositions (input.filter fun e => !hasFlag e.flags flPad))
  rw [← hrest] at hsorted
  refine sortEntries_eq_of_perm (hinput.sublist List.filter_sublist) ?_ (List.pairwise_append.1 hsorted).2.1
  have hcut : input.filter (c.uses false) = (input.filter fun e => !hasFlag e.flags flPad).filter fun x =>
      c.out.getLast?.all fun e => e.before x := by
    rw [List.filter_filter]
    exact List.filter_congr fun x _ => (h.uses x).trans (Bool.and_comm ..)
  rw [hcut, ← filter_before_getLast? hsorted, hrest]
  exact (sortEntries_perm _).filter _

theorem Selection.Chained.pass {input : List Entry} {k : Nat} (hinput : DistinctPositions input) (p : Selection × SortUnit)
    (hgoes : p.1.ended = false)
    (h : p.1.Chained (sortEntries (input.filter fun e => !hasFlag e.flags flPad)) k) :
    (Selection.pass false [] input p).1.Chained (sortEntries (input.filter fun e => !hasFlag e.flags flPad)) k := by
  have hcourse := h.goes hgoes
  obtain ⟨rest, hrest⟩ := hcourse.out
  have hheld : (Selection.passRegister false [] input p).held = rest.take (min 64 p.1.want) := by
    rw [Selection.passRegister_eq_best hinput, SortRegister.best, hcourse.sortEntries_uses hinput hrest]
  have hout := hheld ▸ Selection.pass_out false [] input hgoes
  have hended := hheld ▸ Selection.pass_ended false [] input hgoes
  have hcount := hcourse.count
  rw [List.length_take] at hended
  constructor
  case goes =>
    intro hgoesOn
    rw [← Bool.not_eq_true, hended, not_or, Nat.not_lt, Nat.not_le] at hgoesOn
    obtain ⟨hfull, hwant⟩ := hgoesOn
    have hlen : (rest.take (min 64 p.1.want)).length = 64 := by
      rw [List.length_take]
      omega
    refine ⟨Selection.pass_excl [] input hgoes, ?_, ?_, ?_⟩
    · have hlast := List.getLast?_eq_some_getLast (List.ne_nil_of_length_eq_add_one hlen)
      rw [Selection.pass_floor false [] input hgoes, hheld, hout, List.getLast?_append, hlast, Option.some_or]
    · rw [hout, ← hrest]
      exact List.prefix_append_right_inj _ |>.2 (List.take_prefix _ _)
    · rw [hout, Selection.pass_want false [] input hgoes, List.length_append, hlen]
      omega
  case ends =>
    intro hstops
    rw [hended] at hstops
    rw [hout, ← hrest, ← hcount, List.take_length_add_append]
    congr 1
    rcases hstops with hshort | hlast
    · rw [List.take_of_length_le (by omega), List.take_of_length_le (by omega)]
    · rw [Nat.min_eq_right hlast]

theorem Selection.chained_start (sorted : List Entry) (k : Nat) : (Selection.start k).Chained sorted k where
  goes _ := ⟨rfl, rfl, List.nil_prefix, Nat.zero_add k⟩
  ends h := by
    obtain rfl : k = 0 := of_decide_eq_true h
    rfl

/-- Settles O14: every pass keeps `Selection.Chained`, and a selection ends. -/
theorem selectionKeepsBest : Obligations.SelectionKeepsBest := fun k l =>
  (Selection.passes_induct false [] (numbered l) (Selection.Chained.pass (distinctPositions_numbered l)) _ _
    (Selection.chained_start _ k)).ends (select_ended false k l)

/-- Settles O12, by the order's own lemmas; the bytes of an entry do not read its position. -/
theorem selectionOrdered : Obligations.SelectionOrdered := by
  refine ⟨fun _ _ _ => getElem?_numbered, length_numbered, Entry.before_iff,
    fun l => ⟨sortEntries_perm l, sortEntries_pairwise l⟩, fun a b p r hne => ?_, fun _ _ => rfl⟩
  rw [Bool.eq_iff_iff, Entry.before_iff, Entry.before_iff]
  simp only
  omega

/-! ## Short selections (R145) -/

/-- A register holds at most `kp` entries, and one that holds fewer has no boundary entry. -/
structure SortRegister.Filled (kp : Nat) (r : SortRegister) : Prop where
  atMost : r.held.length ≤ kp
  short : r.held.length < kp → r.slot = none

theorem SortUnit.blockStep_filled (u : SortUnit) (dedup : Bool) (kp : Nat) (fails : Bool) (entries : List Entry) :
    (u.blockStep dedup kp fails entries).serving.Filled kp := by
  constructor <;> simp only [SortUnit.blockStep, apply_ite List.length, List.length_map, ite_self, List.length_take]
  · exact Nat.min_le_left ..
  · intro hshort
    exact List.getElem?_eq_none (by omega)

theorem SortUnit.blocks_filled (dedup : Bool) (kp : Nat) (use : Entry → Bool) (parity : List Nat) (fuel step : Nat)
    {u : SortUnit} (input : List Entry) (hu : u.serving.Filled kp) :
    (SortUnit.blocks dedup kp use parity fuel step u input).serving.Filled kp := by
  induction fuel generalizing step u input with
  | zero => exact hu
  | succ fuel ih =>
    rw [SortUnit.blocks]
    split
    · exact hu
    · exact ih _ _ (SortUnit.blockStep_filled ..)

theorem Selection.passRegister_filled (dedup : Bool) (parity : List Nat) (input : List Entry) (p : Selection × SortUnit) :
    (Selection.passRegister dedup parity input p).Filled (min 64 p.1.want) :=
  SortUnit.blocks_filled _ _ _ _ _ _ _ ⟨Nat.zero_le _, fun _ => rfl⟩

/-- A selection that goes on counts down what it still wants, and one that has ended short has no boundary entry. -/
structure Selection.Counted (k : Nat) (c : Selection) : Prop where
  goes : c.ended = false → c.out.length + c.want = k
  short : c.ended = true → c.out.length < k → c.boundary = none

theorem Selection.Counted.pass {dedup : Bool} {input : List Entry} {k : Nat} (p : Selection × SortUnit)
    (hgoes : p.1.ended = false) (h : p.1.Counted k) : (Selection.pass dedup [] input p).1.Counted k := by
  have hcount := h.goes hgoes
  have hended := Selection.pass_ended dedup [] input hgoes
  obtain ⟨hmost, hshort⟩ := Selection.passRegister_filled dedup [] input p
  constructor
  case goes =>
    intro hgoesOn
    rw [← Bool.not_eq_true, hended] at hgoesOn
    rw [Selection.pass_out _ _ _ hgoes, Selection.pass_want _ _ _ hgoes, List.length_append]
    omega
  case short =>
    intro hstops hless
    rw [hended] at hstops
    rw [Selection.pass_out _ _ _ hgoes, List.length_append] at hless
    rw [Selection.pass_boundary _ _ _ hgoes]
    exact hshort (by omega)

theorem Selection.counted_start (k : Nat) : (Selection.start k).Counted k :=
  ⟨fun _ => Nat.zero_add k, fun _ _ => rfl⟩

theorem select_counted (dedup : Bool) (k : Nat) (l : List Entry) : (select dedup k l).Counted k :=
  Selection.passes_induct dedup [] (numbered l) Selection.Counted.pass _ _ (Selection.counted_start k)

theorem Selection.tie_of_short {c : Selection} {k : Nat} (h : c.out.length < k) : c.tie k = false := by
  rw [Selection.tie, decide_eq_false (Nat.ne_of_lt h), Bool.false_and]

theorem length_resultHeader (n k flags status dups version admitAt : Nat) :
    (resultHeader n k flags status dups version admitAt).length = 32 := by
  simp only [resultHeader, List.length_append, length_toLe, length_zeros]

/-- Settles O13: every pass keeps `Selection.Counted`; the head of the completion is its header. -/
theorem shortSelections : Obligations.ShortSelections :=
  ⟨fun d k l hshort => ⟨(select_counted d k l).short (select_ended d k l) hshort, Selection.tie_of_short hshort⟩,
    fun _ _ _ _ _ _ _ _ => ⟨_, length_resultHeader .., rfl⟩⟩

end Sys2Proof.Machine
end

section
/-! SUPPORT. The statement of the requests on scoring programs: what loads and unloads a program, and what reports it. -/

namespace Sys2Proof.Machine

/-! ## What a program request's checks read is as it was before the request left its mailbox -/

@[simp] theorem State.popRequest_gaitNow (s : State) (f : Nat) : (s.popRequest f).gaitNow = s.gaitNow := rfl

@[simp] theorem State.popRequest_reportedCost (s : State) (f : Nat) (p : Program) :
    (s.popRequest f).reportedCost p = s.reportedCost p := rfl

@[simp] theorem State.popRequest_programCheck (s : State) (f : Nat) (p : Program) :
    (s.popRequest f).programCheck p = s.programCheck p := rfl

@[simp] theorem State.popRequest_boundProgram (s : State) (f key : Nat) :
    (s.popRequest f).boundProgram key = s.boundProgram key := rfl

/-! ## Program requests (R158, R164, R165) -/

/-- PROGRAM_LOAD of an image that passes every check binds its program, with the cost and the channel of the running gait, and
reports the cost. -/
theorem programLoadEff_binds {f : Nat} {image : Bytes} {s : State} {q : Request} {p : Program} (hdma : s.dmaOk f = true)
    (hq : s.headRequest f 0x0409 = some q) (hp : p = parseProgram q.context (image.take (q.field 0 4)))
    (haddress : q.field 8 8 % 64 = 0) (hstructure : programStructure (image.take (q.field 0 4)) (q.field 0 4) p = stOk)
    (hcheck : (s.programCheck p).1 = stOk) :
    programLoadEff f image s = settled f
      ((s.popRequest f).schedule (.bindProgram (programKey p.context p.id)
        { p with cost := s.reportedCost p, channel := s.gaitNow.1.programChannel p }))
      q stOk (s.stride + 1) (programReply p none (s.reportedCost p)) := by
  unfold programLoadEff
  rw [if_neg (by simp [hdma])]
  exact State.serve_settled hq (by simp [← hp, haddress, hstructure, hcheck, accept])

/-- PROGRAM_UNLOAD of a bound program is accepted. -/
theorem programUnloadEff_unbinds {f : Nat} {s : State} {q : Request} {p : Program} (hq : s.headRequest f 0x040A = some q)
    (hbound : s.boundProgram (programKey q.context (q.field 0 2)) = some p) :
    programUnloadEff f s = settled f ((s.popRequest f).schedule (.unbindProgram (programKey q.context (q.field 0 2))))
      q stOk (s.stride + 1) [] :=
  State.serve_accepts hq (by simp [hbound])

/-- PROGRAM_STATUS of a program that is there reports it. -/
theorem programStatusEff_reports {f : Nat} {s : State} {q : Request} {p : Program} (hq : s.headRequest f 0x040B = some q)
    (hp : SMap.find? s.programs (programKey q.context (q.field 0 2)) = some p) :
    programStatusEff f s = settled f (s.popRequest f) q stOk unstamped (programReply p none (s.reportedCost p)) :=
  State.serve_reports hq (by simp [hp])

/-- Settles O28, request by request. -/
theorem programRequestsServed : Obligations.ProgramRequestsServed := by
  refine ⟨?load, ?unload, ?status⟩
  case load =>
    intro f image s q hf hdma hq haddress hstructure hcheck
    exact guarded_funcOk hf (programLoadEff_binds hdma hq rfl haddress hstructure hcheck)
  case unload =>
    intro f s q p hf hq hbound
    exact guarded_funcOk hf (programUnloadEff_unbinds hq hbound)
  case status =>
    intro f s q p hf hq hp
    exact guarded_funcOk hf (programStatusEff_reports hq hp)

end Sys2Proof.Machine
end

section
/-! SUPPORT. The statements of near memory: every command keeps HBM canonical. -/

namespace Sys2Proof.Machine

/-! ## HBM in its canonical form (R183, R389) -/

/-- A command whose effect keeps HBM canonical keeps it where it runs. -/
theorem guarded_wf {ok : Bool} {eff : State → State} {s t : State} (h : guarded ok eff s = .next t)
    (heff : cellsWf (eff s).mem.bytes = true) : MemInv t := by
  rw [(guarded_next.1 h).2]
  exact heff

/-- A message taken or lost keeps HBM canonical where its receiver's effect does. -/
theorem State.arrives_wf {s : State} {cls source : Nat} {message : Bytes} {take : State → State}
    (hs : cellsWf s.mem.bytes = true) (h : ∀ {t : State}, cellsWf t.mem.bytes = true → cellsWf (take t).mem.bytes = true) :
    cellsWf (s.arrives cls source message take).mem.bytes = true := by
  have harrival : cellsWf (s.arrival cls source message).2.mem.bytes = true := by
    rw [State.arrival_bytes]
    exact hs
  unfold State.arrives
  simp only []
  split
  · exact h harrival
  · exact harrival

/-- Every command keeps HBM canonical: those that write it by their own lemmas in Laws/Memory, the others since they leave
its bytes. -/
theorem exec_keeps_memInv {c : Instr} {s t : State} (hs : MemInv s) (h : exec c s = .next t) : MemInv t := by
  cases c
  case memoryOperation port cls record =>
    simp only [exec] at h
    exact guarded_wf h (State.arrives_wf hs fun ht => memoryOperationEff_wf ht port cls record)
  case undervoltage =>
    simp only [exec] at h
    refine guarded_wf h ?_
    split
    · exact powerRemovalEff_wf hs
    · exact hs
  case strideBoundary | lookupPooling | storageRead | burstEnd | granuleScrub | powerRemoval | resetNAssert |
      powerFailFlushEnd | remountRestart =>
    simp only [exec] at h
    exact guarded_wf h (by simp only [strideBoundaryEff_wf hs, lookupPoolingEff_wf hs, storageReadEff_wf hs,
      burstEndEff_wf hs, granuleScrubEff_wf hs, powerRemovalEff_wf hs, resetNAssertEff_wf hs,
      powerFailFlushEndEff_wf hs, remountRestartEff_wf hs])
  all_goals
    unfold MemInv
    rw [hbmWritersNamed _ s t h nofun nofun nofun nofun nofun (by simp)]
    exact hs

/-- Settles O5: an idle step changes nothing, and the front command keeps HBM canonical on the queue's rest. -/
theorem memoryCanonicalKept : Obligations.MemoryCanonicalKept := by
  intro s t hs h
  unfold step at h
  split at h
  next hempty =>
    cases h
    exact hs
  next c rest hfront => exact exec_keeps_memInv (s := { s with pending := rest }) hs h

end Sys2Proof.Machine
end

section
/-! SUPPORT. Near memory (08_near_memory.md): the units of a state and their changes, what counters, served lookups and released
operations leave of them, and a command received, begun and ended on a stack on which none else waits. -/

namespace Sys2Proof.Machine

/-! ## What a unit's commands do not touch (R171, R180) -/

/-- HBM, the units, the gates, the answers, and the operations that wait for a unit. -/
def State.nearMemory (s : State) : Memory × SMap NmuUnit × SMap (List Burst) × List (Nat × Bytes) × List (Nat × Bytes) :=
  (s.mem, s.nmu.units, s.nmu.waiting, s.nmu.answers, s.nmu.lockWaiters)

theorem nearMemory_eq_iff {s t : State} : t.nearMemory = s.nearMemory ↔ t.mem = s.mem ∧ t.nmu.units = s.nmu.units ∧
    t.nmu.waiting = s.nmu.waiting ∧ t.nmu.answers = s.nmu.answers ∧ t.nmu.lockWaiters = s.nmu.lockWaiters := by
  simp only [State.nearMemory, Prod.mk.injEq]

section NearMemory

variable {s t : State} (h : t.nearMemory = s.nearMemory)

include h

theorem mem_of_nearMemory : t.mem = s.mem := by
  obtain ⟨hmem, -⟩ := nearMemory_eq_iff.1 h
  exact hmem

theorem units_of_nearMemory : t.nmu.units = s.nmu.units := by
  obtain ⟨-, hunits, -⟩ := nearMemory_eq_iff.1 h
  exact hunits

theorem unit_of_nearMemory (u : Nat) : t.unit u = s.unit u :=
  congrArg (SMap.getD · u NmuUnit.fresh) (units_of_nearMemory h)

theorem waiting_of_nearMemory : t.nmu.waiting = s.nmu.waiting := by
  obtain ⟨-, -, hwaiting, -⟩ := nearMemory_eq_iff.1 h
  exact hwaiting

theorem answers_of_nearMemory : t.nmu.answers = s.nmu.answers := by
  obtain ⟨-, -, -, hanswers, -⟩ := nearMemory_eq_iff.1 h
  exact hanswers

theorem lockWaiters_of_nearMemory : t.nmu.lockWaiters = s.nmu.lockWaiters := by
  obtain ⟨-, -, -, -, hwaiters⟩ := nearMemory_eq_iff.1 h
  exact hwaiters

end NearMemory

/-- What touches neither HBM nor the near-memory units leaves near memory. -/
theorem nearMemory_of_eq {s t : State} (hmem : t.mem = s.mem) (hnmu : t.nmu = s.nmu) : t.nearMemory = s.nearMemory := by
  simp only [State.nearMemory, hmem, hnmu]

@[simp] theorem ite_nearMemory {c : Prop} [Decidable c] (s t : State) :
    (if c then s else t).nearMemory = if c then s.nearMemory else t.nearMemory := apply_ite State.nearMemory c s t

theorem foldl_nearMemory {α : Type} {f : State → α → State} (h : ∀ s a, (f s a).nearMemory = s.nearMemory) (l : List α)
    (s : State) : (l.foldl f s).nearMemory = s.nearMemory := foldl_keeps State.nearMemory h l s

@[simp] theorem State.modStack_nearMemory (s : State) (stack : Nat) (g : StackCounters → StackCounters) :
    (s.modStack stack g).nearMemory = s.nearMemory := rfl

@[simp] theorem State.countRead_nearMemory (s : State) (address : Nat) (r : BlockRead) :
    (s.countRead address r).nearMemory = s.nearMemory := rfl

@[simp] theorem State.countRange_nearMemory (s : State) (address n : Nat) :
    (s.countRange address n).nearMemory = s.nearMemory := foldl_nearMemory (fun t _ => t.countRead_nearMemory ..) _ s

@[simp] theorem State.countBlocks_nearMemory (s : State) (ctx : Nat) (blocks : List Nat) :
    (s.countBlocks ctx blocks).nearMemory = s.nearMemory := by
  unfold State.countBlocks
  split
  · exact foldl_nearMemory (fun t _ => t.countRead_nearMemory ..) blocks s
  · rfl

/-- Counting what blocks hold leaves the indexes. -/
theorem State.countBlocks_indexes (s : State) (ctx : Nat) (blocks : List Nat) : (s.countBlocks ctx blocks).indexes = s.indexes := by
  unfold State.countBlocks
  split
  · exact foldl_keeps State.indexes (fun t b => by rfl) blocks s
  · rfl

@[simp] theorem State.longerDelay_nearMemory (s : State) (stack : Nat) : (s.longerDelay stack).nearMemory = s.nearMemory := rfl

@[simp] theorem State.countDieWait_nearMemory (s : State) (address n : Nat) :
    (s.countDieWait address n).nearMemory = s.nearMemory := by
  unfold State.countDieWait
  split <;> rfl

@[simp] theorem State.endDieWait_nearMemory (s : State) (address n : Nat) :
    (s.endDieWait address n).nearMemory = s.nearMemory := by
  unfold State.endDieWait
  split
  · rfl
  · simp only []
    split
    · exact State.longerDelay_nearMemory ..
    · rfl

@[simp] theorem State.modResidency_nearMemory (s : State) (id : Nat) (g : Residency → Residency) :
    (s.modResidency id g).nearMemory = s.nearMemory := by
  unfold State.modResidency
  split <;> rfl

@[simp] theorem State.touchRows_nearMemory (s : State) (object : Nat) (rows : List Nat) :
    (s.touchRows object rows).nearMemory = s.nearMemory := by
  refine foldl_nearMemory (fun t row => ?_) rows s
  simp only []
  split
  · rfl
  · split
    · exact (nearMemory_of_eq rfl rfl).trans (t.modResidency_nearMemory ..)
    · exact t.modResidency_nearMemory ..

@[simp] theorem State.serveLookup_nearMemory (s : State) (x : Table) (m : Bytes) (poisoned : List Nat) :
    (s.serveLookup x m poisoned).nearMemory = s.nearMemory := by
  unfold State.serveLookup
  refine (nearMemory_of_eq (State.sendWith_mem ..) (State.sendWith_nmu ..)).trans ?_
  rw [State.touchRows_nearMemory]
  exact foldl_nearMemory (fun t c => by simp) _ s

@[simp] theorem State.serveOrHold_nearMemory (id : Nat) (s : State) (w : Bytes × List Nat) :
    (s.serveOrHold id w).nearMemory = s.nearMemory := by
  unfold State.serveOrHold
  split
  · rfl
  · simp only []
    split
    · exact s.serveLookup_nearMemory ..
    · exact foldl_nearMemory (fun t a => t.countDieWait_nearMemory a _) _ s

@[simp] theorem State.passBarrier_nearMemory (s : State) (id : Nat) : (s.passBarrier id).nearMemory = s.nearMemory := by
  unfold State.passBarrier
  split
  · rfl
  · split
    · rfl
    · exact foldl_nearMemory (State.serveOrHold_nearMemory id) _ _

/-- The lookups that a burst held are served without touching near memory. -/
@[simp] theorem State.passHeld_nearMemory (s : State) : s.passHeld.nearMemory = s.nearMemory :=
  foldl_nearMemory State.passBarrier_nearMemory _ s

/-! ## Operations that waited (R180) -/

theorem State.performOp_units (s : State) (requester context address op size a b : Nat) :
    (s.performOp requester context address op size a b).1.nmu.units = s.nmu.units := by
  unfold State.performOp
  simp only []
  (repeat' split) <;> rfl

theorem State.answerOp_units (s : State) (cls : Nat) (record : Bytes) : (s.answerOp cls record).nmu.units = s.nmu.units := by
  unfold State.answerOp
  simp only []
  rw [State.send_nmu, State.performOp_units]

theorem foldl_units {α : Type} {f : State → α → State} (h : ∀ s a, (f s a).nmu.units = s.nmu.units) (l : List α)
    (s : State) : (l.foldl f s).nmu.units = s.nmu.units := foldl_keeps (fun s : State => s.nmu.units) h l s

theorem State.longerDelay_units (s : State) (stack : Nat) : (s.longerDelay stack).nmu.units = s.nmu.units := rfl

/-- Operations that are performed leave the units. -/
theorem State.releaseLocked_units (s : State) : s.releaseLocked.nmu.units = s.nmu.units := by
  unfold State.releaseLocked
  simp only []
  rw [foldl_units fun t w => t.longerDelay_units _, foldl_units fun t w => t.answerOp_units _ _]

/-- Where no operation waits none is performed. -/
theorem State.releaseLocked_of_nil {s : State} (h : s.nmu.lockWaiters = []) : s.releaseLocked = s := by
  have hstay : s.stillLocked = s.nmu.lockWaiters := by simp [State.stillLocked, h]
  simp only [State.releaseLocked, hstay, h, List.filter_nil, List.foldl_nil]
  rw [← h]

/-! ## Units changed (R166, R178) -/

theorem SMap.set_set {α : Type} (m : SMap α) (k : Nat) (v w : α) : SMap.set (SMap.set m k v) k w = SMap.set m k w := by
  fun_induction SMap.set m k v <;> grind [SMap.set]

/-- What a map gives for a key is listed. -/
theorem SMap.mem_of_find? {α : Type} {m : SMap α} {k : Nat} {v : α} (h : SMap.find? m k = some v) : (k, v) ∈ m := by
  fun_induction SMap.find? m k <;> grind

theorem unit_of_units {s t : State} (h : t.nmu.units = s.nmu.units) (v : Nat) : t.unit v = s.unit v :=
  congrArg (SMap.getD · v NmuUnit.fresh) h

/-- A unit that is not fresh is listed. -/
theorem State.unit_listed {s : State} {u : Nat} (h : s.unit u ≠ NmuUnit.fresh) : (u, s.unit u) ∈ s.nmu.units := by
  unfold State.unit SMap.getD at h ⊢
  cases hfind : SMap.find? s.nmu.units u with
  | none => simp [hfind] at h
  | some n => simpa using SMap.mem_of_find? hfind

/-- A unit with a command is listed. -/
theorem State.unit_listed_of_command {s : State} {u : Nat} {c : UnitCommand} (h : c ∈ (s.unit u).commands) :
    (u, s.unit u) ∈ s.nmu.units :=
  State.unit_listed fun hfresh => by simp [hfresh, NmuUnit.fresh] at h

theorem State.modUnit_unit (s : State) (u : Nat) (g : NmuUnit → NmuUnit) (v : Nat) :
    (s.modUnit u g).unit v = if v = u then g (s.unit u) else s.unit v := by
  by_cases h : v = u
  · subst h
    simp
  · simp [State.modUnit, State.unit, SMap.getD_set_ne _ _ _ h, h]

theorem State.modUnit_unit_ne (s : State) {u v : Nat} (g : NmuUnit → NmuUnit) (h : v ≠ u) : (s.modUnit u g).unit v = s.unit v := by
  simp [State.modUnit_unit, h]

/-- Two changes of a unit are one. -/
theorem State.modUnit_modUnit (s : State) (u : Nat) (g h : NmuUnit → NmuUnit) :
    (s.modUnit u g).modUnit u h = s.modUnit u fun x => h (g x) := by
  have hunit : (s.modUnit u g).unit u = g (s.unit u) := s.modUnit_unit_self u g
  unfold State.modUnit at hunit ⊢
  simp only [hunit, SMap.set_set]

theorem nodup_single (u : Nat) : [u].Nodup := List.nodup_cons.2 ⟨List.not_mem_nil, List.nodup_nil⟩

/-- Change each unit of a list. -/
def State.modUnits (s : State) (l : List Nat) (g : NmuUnit → NmuUnit) : State := l.foldl (fun s u => s.modUnit u g) s

/-- A change of units touches nothing else. -/
theorem State.modUnits_eq (s : State) (l : List Nat) (g : NmuUnit → NmuUnit) :
    s.modUnits l g = { s with nmu := { s.nmu with units := (s.modUnits l g).nmu.units } } := by
  induction l generalizing s with
  | nil => rfl
  | cons u l ih => exact ih (s.modUnit u g)

theorem State.modUnits_unit_of_not_mem (s : State) {l : List Nat} (g : NmuUnit → NmuUnit) {v : Nat} (h : v ∉ l) :
    (s.modUnits l g).unit v = s.unit v := by
  induction l generalizing s with
  | nil => rfl
  | cons u l ih =>
    exact (ih (s.modUnit u g) (List.not_mem_of_not_mem_cons h)).trans (s.modUnit_unit_ne g (List.ne_of_not_mem_cons h))

/-- A unit named once is changed once, and so is one that a second change would leave. -/
theorem State.modUnits_unit_of_mem (s : State) {l : List Nat} {g : NmuUnit → NmuUnit} {v : Nat} (hv : v ∈ l)
    (h : l.Nodup ∨ g (g (s.unit v)) = g (s.unit v)) : (s.modUnits l g).unit v = g (s.unit v) := by
  induction l generalizing s with
  | nil => exact absurd hv List.not_mem_nil
  | cons u l ih =>
    change ((s.modUnit u g).modUnits l g).unit v = g (s.unit v)
    by_cases hu : v = u
    · subst hu
      have hfirst : (s.modUnit v g).unit v = g (s.unit v) := s.modUnit_unit_self v g
      by_cases hl : v ∈ l
      · have hfixed : g (g (s.unit v)) = g (s.unit v) := h.resolve_left fun hnodup => (List.nodup_cons.1 hnodup).1 hl
        rw [ih (s.modUnit v g) hl (.inr (by rw [hfirst, hfixed, hfixed])), hfirst, hfixed]
      · rw [State.modUnits_unit_of_not_mem _ g hl, hfirst]
    · have hother : (s.modUnit u g).unit v = s.unit v := s.modUnit_unit_ne g hu
      rw [ih (s.modUnit u g) ((List.mem_cons.1 hv).resolve_left hu)
        (h.imp (fun hnodup => (List.nodup_cons.1 hnodup).2) fun hfixed => by rw [hother, hfixed]), hother]

/-- What a change brings about holds of every unit that the list names. -/
theorem State.modUnits_unit_holds {P : NmuUnit → Prop} (s : State) {l : List Nat} {g : NmuUnit → NmuUnit} {v : Nat} (hv : v ∈ l)
    (h : ∀ n, P (g n)) : P ((s.modUnits l g).unit v) := by
  induction l generalizing s with
  | nil => exact absurd hv List.not_mem_nil
  | cons u l ih =>
    change P (((s.modUnit u g).modUnits l g).unit v)
    by_cases hl : v ∈ l
    · exact ih (s.modUnit u g) hl
    · obtain rfl : v = u := (List.mem_cons.1 hv).resolve_right hl
      rw [State.modUnits_unit_of_not_mem _ g hl, State.modUnit_unit_self]
      exact h _

/-- An entry of the changed units is of a unit that the list names, or was there. -/
theorem State.mem_modUnits {s : State} {l : List Nat} {g : NmuUnit → NmuUnit} {p : Nat × NmuUnit}
    (h : p ∈ (s.modUnits l g).nmu.units) : p.1 ∈ l ∨ p ∈ s.nmu.units := by
  induction l generalizing s with
  | nil => exact .inr h
  | cons u l ih =>
    rcases ih h with hl | hs
    · exact .inl (List.mem_cons_of_mem u hl)
    · rcases SMap.mem_set hs with rfl | hs
      · exact .inl List.mem_cons_self
      · exact .inr hs

/-! ### One unit's command -/

/-- The commands that a unit runs and holds, its head changed. -/
def NmuUnit.modHead (n : NmuUnit) (g : UnitCommand → UnitCommand) : NmuUnit := { n with commands := n.commands.modifyHead g }

theorem State.modCommand_eq (s : State) (u : Nat) (g : UnitCommand → UnitCommand) :
    s.modCommand u g = s.modUnit u fun n => n.modHead g := by
  have h : ∀ n : NmuUnit, n.modHead g = { n with commands := match n.commands with | c :: l => g c :: l | [] => [] } := by
    rintro ⟨_, _, _, _, _ | _⟩ <;> rfl
  simp only [h]
  rfl

/-- A unit's command ended: its row buffer is zeroed. -/
def NmuUnit.dropHead (n : NmuUnit) : NmuUnit := { n with commands := n.commands.drop 1, rowBuffer := [] }

theorem State.dropCommand_eq (s : State) (u : Nat) : s.dropCommand u = s.modUnit u NmuUnit.dropHead := rfl

/-- The units that hold a command are those with an entry that lists its number. -/
theorem State.mem_holders {s : State} {c : UnitCommand} {v : Nat} :
    v ∈ s.holders c ↔ ∃ n, (v, n) ∈ s.nmu.units ∧ ∃ x ∈ n.commands, x.number = c.number := by
  simp [State.holders]

/-- A unit holds its commands. -/
theorem State.mem_holders_of_command {s : State} {c : UnitCommand} {v : Nat} (h : c ∈ (s.unit v).commands) : v ∈ s.holders c :=
  State.mem_holders.2 ⟨_, State.unit_listed_of_command h, c, h, rfl⟩

/-! ## Commands that begin (R178) -/

/-- No command of a stack waits to begin at the head of its unit. -/
def State.Quiet (s : State) (stack : Nat) : Prop := ∀ v, v / 64 = stack → ∀ c ∈ (s.unit v).commands.head?, c.phase ≠ 0

theorem quiet_of_stackQuiet {s : State} {stack : Nat} (h : StackQuiet s stack) : s.Quiet stack := by
  intro v hv c hc
  exact (h.2 _ (State.unit_listed_of_command (List.mem_of_mem_head? hc))).2 hv c hc

/-- A stack stays quiet where the only unit whose commands change has a head that has begun. -/
theorem State.Quiet.of_unit {s t : State} {u stack : Nat} (hs : s.Quiet stack)
    (hu : ∀ c ∈ (t.unit u).commands.head?, c.phase ≠ 0) (hothers : ∀ v, v ≠ u → t.unit v = s.unit v) : t.Quiet stack := by
  intro v hv c hc
  by_cases h : v = u
  · subst h
    exact hu c hc
  · rw [hothers v h] at hc
    exact hs v hv c hc

/-- Begin the head of a listed unit, where it waits. -/
def State.beginHead (s : State) (p : Nat × NmuUnit) : State :=
  match (s.unit p.1).commands with
  | c :: _ => if c.phase = 0 then s.beginCommand p.1 c else s
  | [] => s

theorem State.beginHeads_eq (s : State) (stack : Nat) :
    s.beginHeads stack = (s.nmu.units.filter fun p => p.1 / 64 = stack).foldl State.beginHead s := rfl

theorem State.beginHead_of_begun {s : State} {p : Nat × NmuUnit} (h : ∀ c ∈ (s.unit p.1).commands.head?, c.phase ≠ 0) :
    s.beginHead p = s := by
  unfold State.beginHead
  split
  next c l hcommands => rw [if_neg (h c (by simp [hcommands]))]
  next => rfl

theorem State.beginHead_of_waits {s : State} {p : Nat × NmuUnit} {c : UnitCommand} {l : List UnitCommand}
    (h : (s.unit p.1).commands = c :: l) (hc : c.phase = 0) : s.beginHead p = s.beginCommand p.1 c := by
  simp [State.beginHead, h, hc]

/-- On a quiet stack nothing begins. -/
theorem State.foldl_beginHead_of_quiet {s : State} {stack : Nat} (hs : s.Quiet stack) {l : List (Nat × NmuUnit)}
    (hl : ∀ p ∈ l, p.1 / 64 = stack) : l.foldl State.beginHead s = s := by
  induction l with
  | nil => rfl
  | cons p l ih =>
    obtain ⟨hp, hl⟩ := List.forall_mem_cons.1 hl
    rw [List.foldl_cons, State.beginHead_of_begun (hs p.1 hp), ih hl]

theorem State.beginHeads_of_quiet {s : State} {stack : Nat} (hs : s.Quiet stack) : s.beginHeads stack = s := by
  rw [State.beginHeads_eq]
  exact State.foldl_beginHead_of_quiet hs fun p hp => by simpa using (List.mem_filter.1 hp).2

/-- Passes over a quiet stack do nothing. -/
theorem State.foldl_beginHeads_of_quiet {s : State} {stack : Nat} (hs : s.Quiet stack) (l : List Nat) :
    l.foldl (fun s _ => s.beginHeads stack) s = s :=
  foldl_holds (P := fun t => t = s) (fun _ _ ht => by rw [ht, State.beginHeads_of_quiet hs]) l rfl

theorem State.runStack_of_quiet {s : State} {stack : Nat} (hs : s.Quiet stack) : s.runStack stack = s :=
  State.foldl_beginHeads_of_quiet hs _

/-- The command `c` waits at the head of the units `us` alone, and once one of them has begun it none waits. -/
structure State.OneWaits (s : State) (stack : Nat) (us : List Nat) (c : UnitCommand) : Prop where
  heads : ∀ v ∈ us, (s.unit v).commands = [c]
  waits : c.phase = 0
  others : ∀ v, v / 64 = stack → v ∉ us → ∀ d ∈ (s.unit v).commands.head?, d.phase ≠ 0
  begun : ∀ v ∈ us, (s.beginCommand v c).Quiet stack

/-- The first of the units that a pass comes to begins the command, and nothing else begins. -/
theorem State.OneWaits.foldl_beginHead {s : State} {stack : Nat} {us : List Nat} {c : UnitCommand} (h : s.OneWaits stack us c)
    {l : List (Nat × NmuUnit)} (hl : ∀ p ∈ l, p.1 / 64 = stack) (hus : ∃ p ∈ l, p.1 ∈ us) :
    ∃ v ∈ us, l.foldl State.beginHead s = s.beginCommand v c := by
  induction l with
  | nil => simp at hus
  | cons p l ih =>
    obtain ⟨hp, hl⟩ := List.forall_mem_cons.1 hl
    rw [List.foldl_cons]
    by_cases hmem : p.1 ∈ us
    · rw [State.beginHead_of_waits (h.heads p.1 hmem) h.waits]
      exact ⟨p.1, hmem, State.foldl_beginHead_of_quiet (h.begun p.1 hmem) hl⟩
    · rw [State.beginHead_of_begun (h.others p.1 hp hmem)]
      exact ih hl (by simpa [hmem] using hus)

theorem le_sumNat_of_mem {l : List Nat} {n : Nat} (h : n ∈ l) : n ≤ sumNat l := by
  induction l with
  | nil => simp at h
  | cons a l ih =>
    rw [sumNat_cons]
    rcases List.mem_cons.1 h with rfl | h
    · exact Nat.le_add_right ..
    · exact Nat.le_add_left_of_le (ih h)

/-- Running the stack begins that command, in one of the units. -/
theorem State.OneWaits.runStack {s : State} {stack : Nat} {us : List Nat} {c : UnitCommand} (h : s.OneWaits stack us c)
    (hne : us ≠ []) (hstack : ∀ v ∈ us, v / 64 = stack) : ∃ v ∈ us, s.runStack stack = s.beginCommand v c := by
  obtain ⟨v, hv⟩ := List.exists_mem_of_ne_nil us hne
  have hlisted : (v, s.unit v) ∈ s.nmu.units.filter fun p => p.1 / 64 = stack :=
    List.mem_filter.2 ⟨State.unit_listed_of_command (c := c) (by simp [h.heads v hv]), by simp [hstack v hv]⟩
  obtain ⟨w, hw, hpass⟩ := h.foldl_beginHead (fun p hp => by simpa using (List.mem_filter.1 hp).2) ⟨_, hlisted, hv⟩
  refine ⟨w, hw, ?_⟩
  have hpasses : 0 < sumNat ((s.nmu.units.filter fun p => p.1 / 64 = stack).map fun p => p.2.commands.length) :=
    Nat.lt_of_lt_of_le (by simp [h.heads v hv]) (le_sumNat_of_mem (List.mem_map_of_mem hlisted))
  obtain ⟨n, hn⟩ := Nat.exists_eq_add_one.2 hpasses
  unfold State.runStack
  simp only [hn, List.range_succ_eq_map, List.foldl_cons]
  rw [State.beginHeads_eq, hpass]
  exact State.foldl_beginHeads_of_quiet (h.begun w hw) _

/-! ## Commands received (R171, R178, R187) -/

/-- A unit with one command more. -/
def NmuUnit.join (c : UnitCommand) (n : NmuUnit) : NmuUnit := { n with commands := n.commands ++ [c] }

/-- The state in which units have received a command and none has begun. -/
def State.joined (s : State) (us : List Nat) (c : UnitCommand) : State := (s.modUnits us (NmuUnit.join c)).countReceived

theorem State.receive_eq (s : State) (us : List Nat) (c : UnitCommand) :
    s.receive us c = (s.joined us { c with number := s.nmu.received }).runStack (us.headD 0 / 64) := rfl

section Joined

variable {s : State} {us : List Nat} {c : UnitCommand}

theorem State.joined_mem : (s.joined us c).mem = s.mem := by rw [State.joined, State.modUnits_eq]; rfl

theorem State.joined_waiting : (s.joined us c).nmu.waiting = s.nmu.waiting := by rw [State.joined, State.modUnits_eq]; rfl

theorem State.joined_answers : (s.joined us c).nmu.answers = s.nmu.answers := by rw [State.joined, State.modUnits_eq]; rfl

theorem State.joined_counters : (s.joined us c).nmu.counters = s.nmu.counters := by rw [State.joined, State.modUnits_eq]; rfl

theorem State.joined_unit_of_mem (hnodup : us.Nodup) {v : Nat} (hv : v ∈ us) :
    (s.joined us c).unit v = (s.unit v).join c := State.modUnits_unit_of_mem s hv (.inl hnodup)

theorem State.joined_unit_of_not_mem {v : Nat} (hv : v ∉ us) : (s.joined us c).unit v = s.unit v :=
  State.modUnits_unit_of_not_mem s _ hv

theorem State.joined_commands (hnodup : us.Nodup) {v : Nat} (hv : v ∈ us) (hempty : (s.unit v).commands = []) :
    ((s.joined us c).unit v).commands = [c] := by
  rw [State.joined_unit_of_mem hnodup hv, NmuUnit.join, hempty, List.nil_append]

theorem State.joined_slots (v : Nat) (hnodup : us.Nodup) : ((s.joined us c).unit v).slots = (s.unit v).slots := by
  by_cases hv : v ∈ us
  · rw [State.joined_unit_of_mem hnodup hv, NmuUnit.join]
  · rw [State.joined_unit_of_not_mem hv]

/-- The units that received a command of a number above those held hold it, and no others. -/
theorem State.mem_holders_joined (hnodup : us.Nodup)
    (hnumber : ∀ p ∈ s.nmu.units, ∀ x ∈ p.2.commands, x.number < c.number) {d : UnitCommand} (hd : d.number = c.number) {v : Nat} :
    v ∈ (s.joined us c).holders d ↔ v ∈ us := by
  rw [State.mem_holders, hd]
  constructor
  · rintro ⟨n, hn, x, hx, hxc⟩
    refine (State.mem_modUnits hn).resolve_right fun hold => ?_
    exact absurd hxc (Nat.ne_of_lt (hnumber _ hold x hx))
  · intro hv
    have hc : c ∈ ((s.joined us c).unit v).commands := by
      rw [State.joined_unit_of_mem hnodup hv]
      exact List.mem_append_right _ List.mem_cons_self
    exact ⟨_, State.unit_listed_of_command hc, c, hc, rfl⟩

/-- A command that units without commands receive on a quiet stack begins in one of them. -/
theorem State.receive_begins (hne : us ≠ []) (hnodup : us.Nodup) {stack : Nat} (hstack : ∀ v ∈ us, v / 64 = stack)
    (hempty : ∀ v ∈ us, (s.unit v).commands = []) (hquiet : s.Quiet stack) {d : UnitCommand} (hwaits : c.phase = 0)
    (hd : d = { c with number := s.nmu.received })
    (hbegun : ∀ v ∈ us, ((s.joined us d).beginCommand v d).Quiet stack) :
    ∃ v ∈ us, s.receive us c = (s.joined us d).beginCommand v d := by
  have hone : (s.joined us d).OneWaits stack us d :=
    { heads := fun v hv => State.joined_commands hnodup hv (hempty v hv)
      waits := by rw [hd]; exact hwaits
      others := fun v hv hmem => by
        rw [State.joined_unit_of_not_mem hmem]
        exact hquiet v hv
      begun := hbegun }
  obtain ⟨v, hv, hrun⟩ := hone.runStack hne hstack
  refine ⟨v, hv, ?_⟩
  rw [State.receive_eq, ← hd, ← hrun]
  obtain ⟨u, l, rfl⟩ := List.exists_cons_of_ne_nil hne
  rw [List.headD_cons, hstack u List.mem_cons_self]

/-- A command that one unit without commands receives on a quiet stack begins there. -/
theorem State.receive_single {u : Nat} (hempty : (s.unit u).commands = []) (hquiet : s.Quiet (u / 64)) (hwaits : c.phase = 0)
    {d : UnitCommand} (hd : d = { c with number := s.nmu.received })
    (hhead : ∀ e ∈ (((s.joined [u] d).beginCommand u d).unit u).commands.head?, e.phase ≠ 0)
    (hothers : ∀ v, v ≠ u → ((s.joined [u] d).beginCommand u d).unit v = s.unit v) :
    s.receive [u] c = (s.joined [u] d).beginCommand u d := by
  obtain ⟨v, hv, h⟩ := State.receive_begins (List.cons_ne_nil u []) (nodup_single u) (stack := u / 64) (by simp)
    (by simpa using hempty) hquiet hwaits hd (by simpa using hquiet.of_unit hhead hothers)
  rwa [List.mem_singleton.1 hv] at h

end Joined

/-- A command for one unit that takes commands names it. -/
theorem State.namedUnits_single {s : State} {b : Bytes} (hruns : s.unitRuns (cmdUnit b) = true)
    (hsingle : cmdOp b ≠ 1 ∨ cmdWhole b = false) : s.namedUnits b = [cmdUnit b] := by
  have h : (cmdOp b = 1 && cmdWhole b) = false := by rcases hsingle with h | h <;> simp [h]
  simp [State.namedUnits, h, hruns]

/-- The units named for a whole stack are different units of it. -/
theorem State.namedUnits_whole {s : State} {b : Bytes} (hop : cmdOp b = 1) (hwhole : cmdWhole b = true) :
    (s.namedUnits b).Nodup ∧ ∀ v ∈ s.namedUnits b, v / 64 = cmdUnit b / 64 := by
  have hnamed : s.namedUnits b = ((List.range 64).map (cmdUnit b / 64 * 64 + ·)).filter s.unitRuns := by
    simp [State.namedUnits, hop, hwhole]
  rw [hnamed]
  refine ⟨List.Pairwise.filter _ (List.Pairwise.map _ (fun _ _ hne h => hne (Nat.add_left_cancel h)) List.nodup_range), fun v hv => ?_⟩
  obtain ⟨i, hi, rfl⟩ := List.mem_map.1 (List.mem_filter.1 hv).1
  have := List.mem_range.1 hi
  omega

/-- A command of its opcode goes to the units that it names. -/
theorem unitCommandEff_receives {op : Nat} {b : Bytes} {p : Bool} {s : State} (hworking : s.working = true) (hop : cmdOp b = op)
    (hne : s.namedUnits b ≠ []) : unitCommandEff op b p s = s.receive (s.namedUnits b) (newCommand b p) := by
  simp [unitCommandEff, hworking, hop, hne]

/-! ### Beginning (R169, R173, R174, R176 to R178) -/

/-- Whether a command is refused hangs on its bytes and the unit's slots. -/
theorem State.refuses_congr {s t : State} {u : Nat} (h : (t.unit u).slots = (s.unit u).slots) (b : Bytes) :
    t.refuses u b = s.refuses u b := by
  simp only [State.refuses, h]

theorem loadBursts_length (u n : Nat) (whole : Bool) : (loadBursts u n whole).length = ceilDiv n 2048 := by
  simp [loadBursts]

theorem loadBursts_ne_nil {u n : Nat} (whole : Bool) (h : 0 < n) : loadBursts u n whole ≠ [] := by
  rw [← List.length_pos_iff, loadBursts_length, ceilDiv]
  omega

theorem loadBursts_zero (u : Nat) (whole : Bool) : loadBursts u 0 whole = [] := rfl

/-- The bursts of a phase wait behind those at the gate, and the unit's command is in that phase. -/
theorem State.enterPhase_eq (s : State) (u phase : Nat) (l : List Burst) :
    s.enterPhase u phase l =
      (s.modUnit u fun n => n.modHead fun c => { c with phase := phase, left := l.length }).requestBursts (u / 64) l := by
  rw [State.enterPhase, State.modCommand_eq]

/-- An UPDATE or ROWWRITE with data requests its load bursts. -/
theorem State.beginCommand_loads {s : State} {u : Nat} {c : UnitCommand} (hrefuses : s.refuses u c.bytes = false)
    (hop : cmdOp c.bytes ≠ 1) (hlength : 0 < cmdLength c.bytes) :
    s.beginCommand u c = s.enterPhase u 1 (loadBursts u (cmdLength c.bytes) (cmdWhole c.bytes)) := by
  simp [State.beginCommand, hrefuses, hop, loadBursts_ne_nil _ hlength]

/-- A SCAN, which has no data, requests its read bursts. -/
theorem State.beginCommand_scan {s : State} {u : Nat} {c : UnitCommand} (hrefuses : s.refuses u c.bytes = false)
    (hop : cmdOp c.bytes = 2) (hlength : cmdLength c.bytes = 0) (hphase : c.phase = 0) :
    s.beginCommand u c = s.enterPhase u 2 (readBursts u (cmdRefs c.bytes)) := by
  simp [State.beginCommand, hrefuses, hop, hlength, loadBursts_zero, State.nextPhase, hphase]

/-- A QLOAD that waits, as it is once it loads. -/
def UnitCommand.loads (n : Nat) (c : UnitCommand) : UnitCommand := { c with phase := 1, left := n }

/-- A QLOAD that is the head of every unit that holds it requests its load bursts, for them all. -/
theorem State.beginCommand_qload {s : State} {u : Nat} {c : UnitCommand} (hrefuses : s.refuses u c.bytes = false)
    (hop : cmdOp c.bytes = 1) (hlength : 0 < cmdLength c.bytes) (hheads : ∀ v ∈ s.holders c, (s.unit v).commands.head? = some c) :
    s.beginCommand u c = (s.modUnits (s.holders c) fun n =>
      n.modHead (UnitCommand.loads (ceilDiv (cmdLength c.bytes) 2048))).requestBursts (u / 64)
        (loadBursts u (cmdLength c.bytes) (cmdWhole c.bytes)) := by
  have hall : ((s.holders c).all fun v => ((s.unit v).commands.head?).any fun x => x.number = c.number) = true := by
    simpa [List.all_eq_true] using fun v hv => by simp [hheads v hv]
  simp only [State.beginCommand, hrefuses, hop, hall, State.modUnits, ← State.modCommand_eq, loadBursts_length]
  simp [loadBursts_ne_nil _ hlength]
  rfl

/-- A SCAN that is refused is counted, and its unit drops it. -/
theorem State.beginCommand_refused {s : State} {u : Nat} {c : UnitCommand} (hrefuses : s.refuses u c.bytes = true)
    (hop : cmdOp c.bytes ≤ 2) : s.beginCommand u c = (s.refusedCommand u).modUnit u NmuUnit.dropHead := by
  simp [State.beginCommand, hrefuses, hop, State.dropCommand_eq]

/-! ### What a phase that begins leaves -/

@[simp] theorem State.requestBursts_unit (s : State) (stack : Nat) (l : List Burst) (v : Nat) :
    (s.requestBursts stack l).unit v = s.unit v := rfl

@[simp] theorem State.requestBursts_waiting (s : State) (stack : Nat) (l : List Burst) :
    SMap.getD (s.requestBursts stack l).nmu.waiting stack [] = SMap.getD s.nmu.waiting stack [] ++ l := by
  simp [State.requestBursts]

theorem State.enterPhase_commands {s : State} {u : Nat} {c : UnitCommand} {l : List UnitCommand}
    (h : (s.unit u).commands = c :: l) (phase : Nat) (bursts : List Burst) :
    ((s.enterPhase u phase bursts).unit u).commands = { c with phase := phase, left := bursts.length } :: l := by
  rw [State.enterPhase_eq]
  simp [NmuUnit.modHead, h]

theorem State.enterPhase_unit_ne (s : State) {u v : Nat} (h : v ≠ u) (phase : Nat) (bursts : List Burst) :
    (s.enterPhase u phase bursts).unit v = s.unit v := by
  rw [State.enterPhase_eq, State.requestBursts_unit, State.modUnit_unit_ne _ _ h]

theorem State.enterPhase_waiting (s : State) (u phase : Nat) (bursts : List Burst) :
    SMap.getD (s.enterPhase u phase bursts).nmu.waiting (u / 64) [] = SMap.getD s.nmu.waiting (u / 64) [] ++ bursts := by
  rw [State.enterPhase_eq, State.requestBursts_waiting]
  rfl

theorem State.enterPhase_mem (s : State) (u phase : Nat) (bursts : List Burst) :
    (s.enterPhase u phase bursts).mem = s.mem := rfl

/-- A command that one unit receives, begun in phase `phase` with bursts at the gate. -/
theorem receive_enters {s : State} {u : Nat} {c : UnitCommand} (hempty : (s.unit u).commands = []) (hquiet : StackQuiet s (u / 64))
    (hwaits : c.phase = 0) {phase : Nat} (hphase : phase ≠ 0) {bursts : List Burst} {d : UnitCommand}
    (hd : d = { c with number := s.nmu.received })
    (hbegins : (s.joined [u] d).beginCommand u d = (s.joined [u] d).enterPhase u phase bursts) :
    ((s.receive [u] c).unit u).commands = [{ d with phase := phase, left := bursts.length }] ∧
    SMap.getD (s.receive [u] c).nmu.waiting (u / 64) [] = SMap.getD s.nmu.waiting (u / 64) [] ++ bursts ∧
    (∀ v, v ≠ u → (s.receive [u] c).unit v = s.unit v) ∧ (s.receive [u] c).mem = s.mem := by
  have hnodup : [u].Nodup := nodup_single u
  have hcommands : (((s.joined [u] d).beginCommand u d).unit u).commands = [{ d with phase := phase, left := bursts.length }] := by
    rw [hbegins, State.enterPhase_commands (State.joined_commands hnodup List.mem_cons_self hempty)]
  have hothers : ∀ v, v ≠ u → ((s.joined [u] d).beginCommand u d).unit v = s.unit v := fun v hv => by
    rw [hbegins, State.enterPhase_unit_ne _ hv, State.joined_unit_of_not_mem (by simpa using hv)]
  have hreceive := State.receive_single hempty (quiet_of_stackQuiet hquiet) hwaits hd (by rw [hcommands]; simpa using hphase) hothers
  refine ⟨hreceive ▸ hcommands, ?_, hreceive ▸ hothers, ?_⟩
  · rw [hreceive, hbegins, State.enterPhase_waiting, State.joined_waiting]
  · rw [hreceive, hbegins, State.enterPhase_mem, State.joined_mem]

/-- A command for one unit that the unit does not refuse, with data: its load bursts wait at the gate. -/
theorem unitCommandEff_loads {op : Nat} {b : Bytes} {p : Bool} {s : State} (hworking : s.working = true) (hop : cmdOp b = op)
    (hsingle : op ≠ 1) (hruns : s.unitRuns (cmdUnit b) = true) (hrefuses : s.refuses (cmdUnit b) b = false)
    (hlength : 0 < cmdLength b) (hempty : (s.unit (cmdUnit b)).commands = []) (hquiet : StackQuiet s (cmdUnit b / 64)) :
    LoadsBegun s (unitCommandEff op b p s) (cmdUnit b) b p := by
  have hnamed : s.namedUnits b = [cmdUnit b] := State.namedUnits_single hruns (.inl (hop ▸ hsingle))
  rw [unitCommandEff_receives hworking hop (by simp [hnamed]), hnamed]
  have h := receive_enters (c := newCommand b p) hempty hquiet rfl Nat.one_ne_zero rfl
    (State.beginCommand_loads ((State.refuses_congr (State.joined_slots _ (nodup_single _)) b).trans hrefuses)
      (hop ▸ hsingle) hlength)
  rwa [loadBursts_length] at h

end Sys2Proof.Machine
end

section
/-! SUPPORT. The statements of near memory: QLOAD, SCAN, UPDATE and ROWWRITE from receipt to their end, and bursts as the gate grants
them and as they end. -/

namespace Sys2Proof.Machine

/-- A QLOAD that units of a stack receive loads in them all, with one set of bursts. -/
theorem receive_qload {s : State} {us : List Nat} {c : UnitCommand} {stack : Nat} (hne : us ≠ []) (hnodup : us.Nodup)
    (hstack : ∀ v ∈ us, v / 64 = stack) (hempty : ∀ v ∈ us, (s.unit v).commands = []) (hquiet : StackQuiet s stack)
    (hwaits : c.phase = 0) {d : UnitCommand} (hd : d = { c with number := s.nmu.received }) (hop : cmdOp d.bytes = 1)
    (hlength : 0 < cmdLength d.bytes) (hrefuses : ∀ v, s.refuses v d.bytes = false) :
    ∃ u ∈ us,
      (∀ v ∈ us, ((s.receive us c).unit v).commands = [d.loads (ceilDiv (cmdLength d.bytes) 2048)]) ∧
      SMap.getD (s.receive us c).nmu.waiting stack [] =
        SMap.getD s.nmu.waiting stack [] ++ loadBursts u (cmdLength d.bytes) (cmdWhole d.bytes) ∧
      (∀ v, v ∉ us → (s.receive us c).unit v = s.unit v) ∧ (s.receive us c).mem = s.mem := by
  have hholders : ∀ {v}, v ∈ (s.joined us d).holders d ↔ v ∈ us := fun {v} =>
    State.mem_holders_joined hnodup (fun p hp x hx => by rw [hd]; exact (hquiet.2 p hp).1 x hx) rfl
  have hcommands : ∀ v ∈ us, ((s.joined us d).unit v).commands = [d] := fun v hv =>
    State.joined_commands hnodup hv (hempty v hv)
  have hbegins : ∀ u, (s.joined us d).beginCommand u d =
      ((s.joined us d).modUnits ((s.joined us d).holders d) fun n =>
        n.modHead (UnitCommand.loads (ceilDiv (cmdLength d.bytes) 2048))).requestBursts (u / 64)
          (loadBursts u (cmdLength d.bytes) (cmdWhole d.bytes)) := fun u =>
    State.beginCommand_qload ((State.refuses_congr (State.joined_slots u hnodup) d.bytes).trans (hrefuses u)) hop hlength
      fun v hv => by rw [hcommands v (hholders.1 hv), List.head?_cons]
  have hloads : ∀ u, ∀ v ∈ us,
      (((s.joined us d).beginCommand u d).unit v).commands = [d.loads (ceilDiv (cmdLength d.bytes) 2048)] := fun u v hv => by
    rw [hbegins, State.requestBursts_unit, State.modUnits_unit_of_mem _ (hholders.2 hv)]
    · rw [NmuUnit.modHead, hcommands v hv, List.modifyHead_cons]
    · right
      simp [NmuUnit.modHead, hcommands v hv, UnitCommand.loads]
  have hothers : ∀ u, ∀ v, v ∉ us → ((s.joined us d).beginCommand u d).unit v = s.unit v := fun u v hv => by
    rw [hbegins, State.requestBursts_unit, State.modUnits_unit_of_not_mem _ _ (fun h => hv (hholders.1 h)),
      State.joined_unit_of_not_mem hv]
  obtain ⟨u, hu, hreceive⟩ := State.receive_begins hne hnodup hstack hempty (quiet_of_stackQuiet hquiet) hwaits hd
    fun u hu v hv e he => by
      by_cases hmem : v ∈ us
      · rw [hloads u v hmem] at he
        obtain rfl : d.loads _ = e := by simpa using he
        exact Nat.one_ne_zero
      · rw [hothers u v hmem] at he
        exact quiet_of_stackQuiet hquiet v hv e he
  refine ⟨u, hu, hreceive ▸ hloads u, ?_, hreceive ▸ hothers u, ?_⟩
  · rw [hreceive, hbegins, ← hstack u hu, State.requestBursts_waiting, State.modUnits_eq]
    exact congrArg (SMap.getD · _ _ ++ _) State.joined_waiting
  · rw [hreceive, hbegins, State.modUnits_eq]
    exact State.joined_mem

/-- A QLOAD for one unit that does not refuse it: its load bursts wait at the gate. -/
theorem unitCommandEff_qload {b : Bytes} {p : Bool} {s : State} (hworking : s.working = true) (hop : cmdOp b = 1)
    (hwhole : cmdWhole b = false) (hruns : s.unitRuns (cmdUnit b) = true) (hrefuses : s.refuses (cmdUnit b) b = false)
    (hlength : 0 < cmdLength b) (hempty : (s.unit (cmdUnit b)).commands = []) (hquiet : StackQuiet s (cmdUnit b / 64)) :
    LoadsBegun s (unitCommandEff 1 b p s) (cmdUnit b) b p := by
  have hnamed : s.namedUnits b = [cmdUnit b] := State.namedUnits_single hruns (.inr hwhole)
  rw [unitCommandEff_receives hworking hop (by simp [hnamed]), hnamed]
  obtain ⟨u, hu, hcommands, hwaiting, hothers, hmem⟩ := receive_qload (c := newCommand b p) (us := [cmdUnit b])
    (List.cons_ne_nil _ _) (nodup_single _) (by simp) (by simpa using hempty) hquiet rfl rfl hop hlength
    fun v => by simpa [State.refuses, newCommand, hop] using hrefuses
  obtain rfl := List.mem_singleton.1 hu
  exact ⟨hcommands _ List.mem_cons_self, hwaiting, fun v hv => hothers v (by simpa using hv), hmem⟩

/-- The fields of a QLOAD in range are all that it is refused for. -/
theorem State.refuses_qload {s : State} {b : Bytes} (hop : cmdOp b = 1) (hfields : cmdFieldsOk 1 b = true) (v : Nat) :
    s.refuses v b = false := by
  have hrows : cmdRows b = 0 := by
    simp only [cmdFieldsOk, Bool.and_eq_true, decide_eq_true_eq, if_true] at hfields
    obtain ⟨⟨-, hrows, -⟩, -⟩ := hfields
    exact hrows
  simp [State.refuses, hop, hfields, cmdRefs, hrows]

/-- The fields of a SCAN in range leave it no data. -/
theorem cmdLength_scan {b : Bytes} (hfields : cmdFieldsOk 2 b = true) : cmdLength b = 0 := by
  simp only [cmdFieldsOk, Bool.and_eq_true, decide_eq_true_eq, Nat.reduceEqDiff, if_false, if_true] at hfields
  obtain ⟨⟨-, -, -, hlength⟩, -⟩ := hfields
  exact hlength

/-- A unit that does not refuse a command has its fields in range. -/
theorem State.cmdFieldsOk_of_not_refused {s : State} {u : Nat} {b : Bytes} (h : s.refuses u b = false) :
    cmdFieldsOk (cmdOp b) b = true := by
  simp only [State.refuses, Bool.not_eq_false', Bool.and_eq_true] at h
  obtain ⟨⟨hfields, -⟩, -⟩ := h
  exact hfields

/-- A QLOAD for a whole stack is begun in every unit of it that takes commands, with one set of bursts. -/
theorem unitCommandEff_qload_whole {b : Bytes} {p : Bool} {s : State} (hworking : s.working = true) (hop : cmdOp b = 1)
    (hwhole : cmdWhole b = true) (hne : s.namedUnits b ≠ []) (hfields : cmdFieldsOk 1 b = true) (hlength : 0 < cmdLength b)
    (hempty : ∀ v ∈ s.namedUnits b, (s.unit v).commands = []) (hquiet : StackQuiet s (cmdUnit b / 64)) :
    ∃ u ∈ s.namedUnits b, (unitCommandEff 1 b p s).mem = s.mem ∧
      SMap.getD (unitCommandEff 1 b p s).nmu.waiting (cmdUnit b / 64) [] =
        SMap.getD s.nmu.waiting (cmdUnit b / 64) [] ++ loadBursts u (cmdLength b) true ∧
      ∀ v ∈ s.namedUnits b, ((unitCommandEff 1 b p s).unit v).commands =
        [{ newCommand b p with number := s.nmu.received, phase := 1, left := ceilDiv (cmdLength b) 2048 }] := by
  obtain ⟨hnodup, hstack⟩ := s.namedUnits_whole hop hwhole
  rw [unitCommandEff_receives hworking hop hne]
  obtain ⟨u, hu, hcommands, hwaiting, -, hmem⟩ := receive_qload (c := newCommand b p) hne hnodup hstack hempty hquiet rfl rfl hop
    hlength fun v => State.refuses_qload hop hfields v
  exact ⟨u, hu, hmem, hwhole ▸ hwaiting, hcommands⟩

/-- A SCAN that the unit does not refuse: its read bursts wait at the gate. -/
theorem unitCommandEff_scan {b : Bytes} {s : State} (hworking : s.working = true) (hop : cmdOp b = 2)
    (hruns : s.unitRuns (cmdUnit b) = true) (hrefuses : s.refuses (cmdUnit b) b = false)
    (hempty : (s.unit (cmdUnit b)).commands = []) (hquiet : StackQuiet s (cmdUnit b / 64)) :
    ((unitCommandEff 2 b false s).unit (cmdUnit b)).commands = [{ newCommand b false with
      number := s.nmu.received, phase := 2, left := (readBursts (cmdUnit b) (cmdRefs b)).length }] ∧
    SMap.getD (unitCommandEff 2 b false s).nmu.waiting (cmdUnit b / 64) [] =
      SMap.getD s.nmu.waiting (cmdUnit b / 64) [] ++ readBursts (cmdUnit b) (cmdRefs b) ∧
    (unitCommandEff 2 b false s).mem = s.mem := by
  have hsingle : cmdOp b ≠ 1 := by simp [hop]
  have hnamed : s.namedUnits b = [cmdUnit b] := State.namedUnits_single hruns (.inl hsingle)
  rw [unitCommandEff_receives hworking hop (by simp [hnamed]), hnamed]
  obtain ⟨hcommands, hwaiting, -, hmem⟩ := receive_enters (c := newCommand b false) hempty hquiet rfl (phase := 2) (by decide) rfl
    (State.beginCommand_scan ((State.refuses_congr (State.joined_slots _ (nodup_single _)) b).trans hrefuses) hop
      (cmdLength_scan (hop ▸ State.cmdFieldsOk_of_not_refused hrefuses)) rfl)
  exact ⟨hcommands, hwaiting, hmem⟩

/-- A SCAN with a field out of range is counted as refused, and leaves its unit without a command. -/
theorem unitCommandEff_scan_refused {b : Bytes} {s : State} (hworking : s.working = true) (hop : cmdOp b = 2)
    (hruns : s.unitRuns (cmdUnit b) = true) (hfields : cmdFieldsOk 2 b = false)
    (hempty : (s.unit (cmdUnit b)).commands = []) (hquiet : StackQuiet s (cmdUnit b / 64)) :
    (SMap.getD (unitCommandEff 2 b false s).nmu.counters (cmdUnit b / 64) StackCounters.zero).refused =
      (SMap.getD s.nmu.counters (cmdUnit b / 64) StackCounters.zero).refused + 1 ∧
    (unitCommandEff 2 b false s).nmu.answers = s.nmu.answers ∧ ((unitCommandEff 2 b false s).unit (cmdUnit b)).commands = [] ∧
    (unitCommandEff 2 b false s).mem = s.mem := by
  have hsingle : cmdOp b ≠ 1 := by simp [hop]
  have hnamed : s.namedUnits b = [cmdUnit b] := State.namedUnits_single hruns (.inl hsingle)
  have hnodup : [cmdUnit b].Nodup := nodup_single _
  rw [unitCommandEff_receives hworking hop (by simp [hnamed]), hnamed]
  generalize hu : cmdUnit b = u at *
  generalize hd : { newCommand b false with number := s.nmu.received } = d
  have hbytes : d.bytes = b := by rw [← hd]; rfl
  have hbegins : (s.joined [u] d).beginCommand u d = ((s.joined [u] d).refusedCommand u).modUnit u NmuUnit.dropHead :=
    State.beginCommand_refused (by simp [State.refuses, hbytes, hop, hfields]) (by simp [hbytes, hop])
  have hcommands : (((s.joined [u] d).beginCommand u d).unit u).commands = [] := by
    rw [hbegins, State.modUnit_unit_self, NmuUnit.dropHead]
    exact congrArg (List.drop 1) (State.joined_commands hnodup List.mem_cons_self hempty)
  have hothers : ∀ v, v ≠ u → ((s.joined [u] d).beginCommand u d).unit v = s.unit v := fun v hv => by
    rw [hbegins, State.modUnit_unit_ne _ _ hv]
    exact State.joined_unit_of_not_mem (by simpa using hv)
  rw [State.receive_single hempty (quiet_of_stackQuiet hquiet) (c := newCommand b false) rfl hd.symm (by simp [hcommands]) hothers]
  refine ⟨?_, ?_, hcommands, ?_⟩
  · rw [hbegins]
    simp [State.refusedCommand, State.modStack, State.modUnit, State.joined_counters]
  · rw [hbegins]
    exact State.joined_answers
  · rw [hbegins]
    exact State.joined_mem

/-! ## Bursts that end (R167, R173 to R179, R184) -/

/-! ### The burst's own end -/

/-- A unit whose load burst has ended. -/
def NmuUnit.loaded (n : NmuUnit) : NmuUnit := { n with burst := none }

/-- A unit whose read burst has ended with what it read. -/
def NmuUnit.readInto (read : List (Option Bytes)) (n : NmuUnit) : NmuUnit :=
  { n with burst := none, rowBuffer := n.rowBuffer ++ read }

/-- A unit whose write burst has ended: the last one of its row frees the lock. -/
def NmuUnit.written (last : Bool) (n : NmuUnit) : NmuUnit := { n with burst := none, lock := if last then none else n.lock }

theorem State.burstMoved_load {s : State} {u ctx : Nat} {x : Burst} (h : x.kind = 2) :
    s.burstMoved u ctx x = s.modUnit u NmuUnit.loaded := by
  simp [State.burstMoved, h]
  rfl

theorem State.burstMoved_read {s : State} {u ctx : Nat} {x : Burst} (h : x.kind = 0) :
    s.burstMoved u ctx x =
      (s.countBlocks ctx x.blocks).modUnit u (NmuUnit.readInto (x.blocks.map fun k => (s.unitRead ctx k).held)) := by
  rw [State.burstMoved, if_pos h]
  rfl

theorem State.burstMoved_write {s : State} {u ctx : Nat} {x : Burst} (h : x.kind = 1) :
    s.burstMoved u ctx x = (s.unitWrite ctx x.blocks x.image).modUnit u (NmuUnit.written x.last) := by
  simp [State.burstMoved, h]
  rfl

/-- Blocks whose granules are the context's take the image. -/
theorem State.unitWrite_image {s : State} {ctx first : Nat} {blocks : List Nat} {image : Bytes} (hfirst : blocks.head? = some first)
    (htags : ∀ k ∈ blocks, s.tagOk ctx (64 * k) = true) : s.unitWrite ctx blocks (some image) = s.hbmWrite (64 * first) image := by
  have hall : (blocks.all fun b => s.tagOk ctx (64 * b)) = true := List.all_eq_true.2 htags
  simp [State.unitWrite, hall, List.headD_eq_head?_getD, hfirst]

/-! ### The phase after it -/

section Phases

variable {s : State} {u : Nat} {c : UnitCommand}

theorem State.nextPhase_completes (hphase : c.phase = 3) : s.nextPhase u c = s.endCommand u c c.completion := by
  simp [State.nextPhase, hphase]

theorem State.nextPhase_qload (hphase : c.phase = 1) (hop : cmdOp c.bytes = 1) : s.nextPhase u c = s.endLoad c := by
  simp [State.nextPhase, hphase, hop]

theorem State.nextPhase_rowwrite (hphase : c.phase = 1) (hop : cmdOp c.bytes = 4) :
    s.nextPhase u c = s.writePhase u c (rowwriteEnd c.bytes c.poisoned) := by
  simp [State.nextPhase, hphase, hop]

theorem State.nextPhase_reads (hphase : c.phase = 1) (hop : cmdOp c.bytes = 3) :
    s.nextPhase u c = s.enterPhase u 2 (readBursts u (cmdRefs c.bytes)) := by
  simp [State.nextPhase, hphase, hop]

theorem State.nextPhase_scan (hphase : c.phase = 2) (hop : cmdOp c.bytes = 2) :
    s.nextPhase u c = (s.answer (cmdTag c.bytes) (s.scanRecords u (cmdContext c.bytes) (cmdMask c.bytes) (cmdRefs c.bytes)
      (s.unit u).rowBuffer)).modUnit u NmuUnit.dropHead := by
  simp [State.nextPhase, hphase, hop, State.dropCommand_eq]

theorem State.nextPhase_update (hphase : c.phase = 2) (hop : cmdOp c.bytes = 3) :
    s.nextPhase u c = s.writePhase u c (updateEnd c.bytes c.poisoned (s.unit u).rowBuffer) := by
  simp [State.nextPhase, hphase, hop]

end Phases

/-! ### The end of a phase's last burst -/

/-- `t` is `s` with `c` the only command of unit `u`: other units, the gates, the answers and the operations that wait are as in
`s`. -/
structure State.RunsOn (s t : State) (u : Nat) (c : UnitCommand) : Prop where
  commands : (t.unit u).commands = [c]
  others : ∀ v, v ≠ u → t.unit v = s.unit v
  waiting : t.nmu.waiting = s.nmu.waiting
  answers : t.nmu.answers = s.nmu.answers
  lockWaiters : t.nmu.lockWaiters = s.nmu.lockWaiters

/-- A change of the unit that keeps its commands keeps the command running. -/
theorem State.RunsOn.of_modUnit {s t : State} {u : Nat} {c : UnitCommand} {g : NmuUnit → NmuUnit}
    (hcommands : (g (t.unit u)).commands = [c]) (hothers : ∀ v, t.unit v = s.unit v) (hwaiting : t.nmu.waiting = s.nmu.waiting)
    (hanswers : t.nmu.answers = s.nmu.answers) (hwaiters : t.nmu.lockWaiters = s.nmu.lockWaiters) :
    s.RunsOn (t.modUnit u g) u c where
  commands := by rw [State.modUnit_unit_self, hcommands]
  others v hv := (State.modUnit_unit_ne t g hv).trans (hothers v)
  waiting := hwaiting
  answers := hanswers
  lockWaiters := hwaiters

section Moved

variable {s : State} {u ctx : Nat} {x : Burst} {c : UnitCommand}

theorem State.runsOn_load (hcommands : (s.unit u).commands = [c]) (hkind : x.kind = 2) : s.RunsOn (s.burstMoved u ctx x) u c := by
  rw [State.burstMoved_load hkind]
  exact .of_modUnit hcommands (fun _ => rfl) rfl rfl rfl

theorem State.runsOn_read (hcommands : (s.unit u).commands = [c]) (hkind : x.kind = 0) : s.RunsOn (s.burstMoved u ctx x) u c := by
  have hcount := s.countBlocks_nearMemory ctx x.blocks
  rw [State.burstMoved_read hkind]
  refine .of_modUnit ?_ (unit_of_nearMemory hcount) (waiting_of_nearMemory hcount) (answers_of_nearMemory hcount)
    (lockWaiters_of_nearMemory hcount)
  rw [unit_of_nearMemory hcount]
  exact hcommands

theorem State.runsOn_write {first : Nat} {image : Bytes} (hcommands : (s.unit u).commands = [c]) (hkind : x.kind = 1)
    (himage : x.image = some image) (hfirst : x.blocks.head? = some first)
    (htags : ∀ k ∈ x.blocks, s.tagOk ctx (64 * k) = true) : s.RunsOn (s.burstMoved u ctx x) u c := by
  rw [State.burstMoved_write hkind, himage, State.unitWrite_image hfirst htags]
  exact .of_modUnit hcommands (fun _ => rfl) rfl rfl rfl

end Moved

/-- The command that runs may change. -/
theorem State.RunsOn.modHead {s t : State} {u : Nat} {c : UnitCommand} (h : s.RunsOn t u c) (g : UnitCommand → UnitCommand) :
    s.RunsOn (t.modUnit u fun n => n.modHead g) u (g c) where
  commands := by rw [State.modUnit_unit_self, NmuUnit.modHead, h.commands, List.modifyHead_cons]
  others v hv := (State.modUnit_unit_ne t _ hv).trans (h.others v hv)
  waiting := h.waiting
  answers := h.answers
  lockWaiters := h.lockWaiters

section LastBurst

variable {s m q : State} {u phase : Nat} {x : Burst} {c : UnitCommand}

/-- With the last burst of its phase a unit's only command goes to its next phase, and lookups that the burst held are served. -/
theorem burstEnd_last (hu : u < 512) (h : LastBurst s u x c phase) (hmoved : s.burstMoved u (cmdContext c.bytes) x = m)
    (hcommands : (m.unit u).commands = [c]) (hnext : m.nextPhase u c = q) (hhead : ∀ d ∈ (q.unit u).commands.head?, d.phase ≠ 0)
    (hothers : ∀ v, v ≠ u → q.unit v = s.unit v) (hwaiters : q.nmu.lockWaiters = s.nmu.lockWaiters) :
    exec (.burstEnd u) s = .next q.passHeld := by
  obtain ⟨hburst, hunit, hwhole, hrun, -, hleft, hquiet⟩ := h
  have hdone : m.burstDone u = q := by simp [State.burstDone, hcommands, hleft, hnext]
  have hstack : q.Quiet (u / 64) := (quiet_of_stackQuiet hquiet).of_unit hhead hothers
  refine guarded_decide hu ?_
  simp [burstEndEff, hburst, hunit, hwhole, hrun, hmoved, hdone, State.runStack_of_quiet hstack,
    State.releaseLocked_of_nil (hwaiters.trans hquiet.1)]

/-- A phase that follows requests its bursts. -/
theorem burstEnd_enters {d : UnitCommand} {next : Nat} {bursts : List Burst} (hu : u < 512) (h : LastBurst s u x c phase)
    (hmoved : s.RunsOn (s.burstMoved u (cmdContext c.bytes) x) u c) (hruns : s.RunsOn m u d) (hphase : next ≠ 0)
    (hnext : (s.burstMoved u (cmdContext c.bytes) x).nextPhase u c = m.enterPhase u next bursts) :
    ∃ t, exec (.burstEnd u) s = .next t ∧ (t.unit u).commands = [{ d with phase := next, left := bursts.length }] ∧
      SMap.getD t.nmu.waiting (u / 64) [] = SMap.getD s.nmu.waiting (u / 64) [] ++ bursts ∧ t.mem = m.mem := by
  have hcommands := State.enterPhase_commands hruns.commands next bursts
  have hheld := (m.enterPhase u next bursts).passHeld_nearMemory
  refine ⟨_, burstEnd_last hu h rfl hmoved.commands hnext ?_
    (fun v hv => (m.enterPhase_unit_ne hv next bursts).trans (hruns.others v hv)) hruns.lockWaiters, ?_, ?_, ?_⟩
  · rw [hcommands]
    simpa using hphase
  · rw [unit_of_nearMemory hheld, hcommands]
  · rw [waiting_of_nearMemory hheld, State.enterPhase_waiting, hruns.waiting]
  · rw [mem_of_nearMemory hheld, State.enterPhase_mem]

/-- Unit `u` has ended its command in `t`. -/
structure State.Ends (s t : State) (u : Nat) : Prop where
  unit : t.unit u = (s.unit u).dropHead
  others : ∀ v, v ≠ u → t.unit v = s.unit v
  mem : t.mem = s.mem
  lockWaiters : t.nmu.lockWaiters = s.nmu.lockWaiters

/-- Ending a command leaves near memory but for its unit. -/
theorem State.Ends.of_dropCommand {t : State} (h : t.nearMemory = (s.dropCommand u).nearMemory) : s.Ends t u where
  unit := (unit_of_nearMemory h u).trans (s.modUnit_unit_self u _)
  others v hv := (unit_of_nearMemory h v).trans (s.modUnit_unit_ne _ hv)
  mem := (mem_of_nearMemory h).trans rfl
  lockWaiters := (lockWaiters_of_nearMemory h).trans rfl

/-- A command ends with any completion, whoever issued it. -/
theorem State.endCommand_ends (s : State) (u : Nat) (c : UnitCommand) (completion : Bytes) :
    s.Ends (s.endCommand u c completion) u := by
  unfold State.endCommand
  simp only []
  split
  · exact ⟨s.modUnit_unit_self u NmuUnit.dropHead, fun v hv => s.modUnit_unit_ne NmuUnit.dropHead hv, rfl, rfl⟩
  · refine .of_dropCommand ?_
    split
    · rw [ite_nearMemory, State.voidMove, State.modResidency_nearMemory, ite_self, State.modStack_nearMemory]
    · rfl

/-- A command of a host or a node ends: its completion goes to its tag. -/
theorem State.endCommand_answers (hown : c.own = false) (completion : Bytes) :
    (s.endCommand u c completion).nmu.answers = s.nmu.answers ++ [(cmdTag c.bytes, completion)] := by
  simp only [State.endCommand, hown]
  rfl

/-- A command that ends leaves its unit without one. -/
theorem burstEnd_ends (hu : u < 512) (h : LastBurst s u x c phase) (hmoved : s.burstMoved u (cmdContext c.bytes) x = m)
    (hruns : s.RunsOn m u c) (hends : m.Ends q u) (hnext : m.nextPhase u c = q) :
    ∃ t, exec (.burstEnd u) s = .next t ∧ t.unit u = (m.unit u).dropHead ∧ (t.unit u).commands = [] ∧
      t.nmu.answers = q.nmu.answers ∧ t.mem = m.mem := by
  have hcommands : (q.unit u).commands = [] := by
    rw [hends.unit, NmuUnit.dropHead, hruns.commands, List.drop_one, List.tail_cons]
  have hheld := q.passHeld_nearMemory
  refine ⟨_, burstEnd_last hu h hmoved hruns.commands hnext (by simp [hcommands])
    (fun v hv => (hends.others v hv).trans (hruns.others v hv)) (hends.lockWaiters.trans hruns.lockWaiters), ?_, ?_,
    answers_of_nearMemory hheld, ?_⟩
  · rw [unit_of_nearMemory hheld, hends.unit]
  · rw [unit_of_nearMemory hheld, hcommands]
  · rw [mem_of_nearMemory hheld, hends.mem]

/-- A command that ends with a completion leaves its unit without one; a host's or a node's completion goes to its tag. -/
theorem burstEnd_completes {completion : Bytes} (hu : u < 512) (h : LastBurst s u x c phase)
    (hmoved : s.burstMoved u (cmdContext c.bytes) x = m) (hruns : s.RunsOn m u c)
    (hnext : m.nextPhase u c = m.endCommand u c completion) :
    ∃ t, exec (.burstEnd u) s = .next t ∧ t.unit u = (m.unit u).dropHead ∧ (t.unit u).commands = [] ∧
      (c.own = false → t.nmu.answers = s.nmu.answers ++ [(cmdTag c.bytes, completion)]) ∧ t.mem = m.mem := by
  obtain ⟨t, hexec, hunit, hempty, hanswers, hmem⟩ := burstEnd_ends hu h hmoved hruns (m.endCommand_ends u c completion) hnext
  refine ⟨t, hexec, hunit, hempty, fun hown => ?_, hmem⟩
  rw [hanswers, State.endCommand_answers hown, hruns.answers]

end LastBurst

/-- A write follows: the command keeps its completion, and its write bursts are requested. -/
theorem State.writePhase_image (s : State) (u : Nat) (c : UnitCommand) (st n : Nat) (image : Option Bytes) :
    s.writePhase u c (.done st n (some image)) =
      (s.modUnit u fun k => k.modHead fun c => { c with completion := rowCompletion st n image, clipped := n }).enterPhase u 3
        (writeBursts u (cmdRow c.bytes 0) image) := by
  rw [← State.modCommand_eq]
  rfl

/-! ### QLOAD, SCAN, UPDATE and ROWWRITE -/

/-- A unit with its slot filled and its QLOAD ended. -/
def NmuUnit.fill (slot : Nat) (q : QuerySlot) (n : NmuUnit) : NmuUnit := { n with slots := SMap.set n.slots slot q }.dropHead

theorem State.endLoad_eq (s : State) (c : UnitCommand) :
    s.endLoad c = s.modUnits (s.holders c) (NmuUnit.fill (((bitList 8 (cmdMask c.bytes)).head?).getD 0)
      { context := cmdContext c.bytes, image := cmdData c.bytes, poisoned := c.poisoned }) := by
  simp only [State.endLoad, State.dropCommand_eq, State.modUnit_modUnit]
  rfl

/-- Where one unit alone holds a command it still does once that unit's burst has ended. -/
theorem State.mem_holders_modUnit {s : State} {u v : Nat} {c : UnitCommand} {g : NmuUnit → NmuUnit} (hholders : s.holders c = [u])
    (hcommands : c ∈ (g (s.unit u)).commands) : v ∈ (s.modUnit u g).holders c ↔ v = u := by
  constructor
  · intro hv
    obtain ⟨n, hn, hx⟩ := State.mem_holders.1 hv
    rcases SMap.mem_set hn with heq | hold
    · exact congrArg Prod.fst heq
    · exact List.mem_singleton.1 (hholders ▸ State.mem_holders.2 ⟨n, hold, hx⟩)
  · rintro rfl
    exact State.mem_holders_of_command (by rwa [State.modUnit_unit_self])

/-- R173: at the end of a QLOAD's last load burst its query is in the slot of its mask. -/
theorem burstEnd_qload {s : State} {u n : Nat} {x : Burst} {c : UnitCommand} (hu : u < 512) (h : LastBurst s u x c 1)
    (hkind : x.kind = 2) (hop : cmdOp c.bytes = 1) (hholders : s.holders c = [u])
    (hslot : (bitList 8 (cmdMask c.bytes)).head? = some n) :
    ∃ t, exec (.burstEnd u) s = .next t ∧ (t.unit u).commands = [] ∧ SMap.find? (t.unit u).slots n =
      some { context := cmdContext c.bytes, image := cmdData c.bytes, poisoned := c.poisoned } ∧ t.mem = s.mem := by
  have ⟨_, _, _, hcommands, hphase, _, _⟩ := h
  have hm : ∀ {v}, v ∈ (s.modUnit u NmuUnit.loaded).holders c ↔ v = u :=
    State.mem_holders_modUnit hholders (by simp [NmuUnit.loaded, hcommands])
  have hend := (s.modUnit u NmuUnit.loaded).endLoad_eq c
  rw [hslot, Option.getD_some] at hend
  generalize hfill : ({ context := cmdContext c.bytes, image := cmdData c.bytes, poisoned := c.poisoned } : QuerySlot) = image at *
  have hunit : ((s.modUnit u NmuUnit.loaded).endLoad c).unit u = (NmuUnit.fill n image) (s.unit u).loaded := by
    rw [hend, State.modUnits_unit_of_mem _ (hm.2 rfl), State.modUnit_unit_self]
    right
    simp [NmuUnit.fill, NmuUnit.loaded, NmuUnit.dropHead, hcommands, SMap.set_set]
  have hheld := ((s.modUnit u NmuUnit.loaded).endLoad c).passHeld_nearMemory
  refine ⟨_, burstEnd_last hu h (State.burstMoved_load hkind) ?_ (State.nextPhase_qload hphase hop) ?_ ?_ ?_, ?_, ?_, ?_⟩
  · rw [State.modUnit_unit_self, NmuUnit.loaded, hcommands]
  · simp [hunit, NmuUnit.fill, NmuUnit.loaded, NmuUnit.dropHead, hcommands]
  · intro v hv
    rw [hend, State.modUnits_unit_of_not_mem _ _ (fun hmem => hv (hm.1 hmem)), State.modUnit_unit_ne _ _ hv]
  · rw [hend, State.modUnits_eq]
    rfl
  · rw [unit_of_nearMemory hheld, hunit, NmuUnit.fill, NmuUnit.dropHead, NmuUnit.loaded, hcommands, List.drop_one, List.tail_cons]
  · rw [unit_of_nearMemory hheld, hunit]
    exact SMap.find?_set_self ..
  · rw [mem_of_nearMemory hheld, hend, State.modUnits_eq]
    rfl

/-- Score records hang on the slots and the indexes. -/
theorem State.scanRecords_congr {s t : State} {u : Nat} (hslots : (t.unit u).slots = (s.unit u).slots)
    (hindexes : t.indexes = s.indexes) (ctx mask : Nat) (rows : List (Nat × Nat)) (read : List (Option Bytes)) :
    t.scanRecords u ctx mask rows read = s.scanRecords u ctx mask rows read := by
  simp only [State.scanRecords, State.typesOf, hslots, hindexes]

/-- R174: at the end of a SCAN's last read burst its score records go to its tag, and HBM is as it was. -/
theorem burstEnd_scan {s : State} {u : Nat} {x : Burst} {c : UnitCommand} (hu : u < 512) (h : LastBurst s u x c 2)
    (hkind : x.kind = 0) (hop : cmdOp c.bytes = 2) :
    ∃ t, exec (.burstEnd u) s = .next t ∧
      t.nmu.answers = s.nmu.answers ++ [(cmdTag c.bytes, s.scanRecords u (cmdContext c.bytes) (cmdMask c.bytes)
        (cmdRefs c.bytes) ((s.unit u).rowBuffer ++ x.blocks.map fun k => (s.unitRead (cmdContext c.bytes) k).held))] ∧
      (t.unit u).commands = [] ∧ (t.unit u).rowBuffer = [] ∧ (t.unit u).slots = (s.unit u).slots ∧ t.mem = s.mem := by
  have ⟨_, _, _, hcommands, hphase, _, _⟩ := h
  have hcount := s.countBlocks_nearMemory (cmdContext c.bytes) x.blocks
  generalize hm : s.burstMoved u (cmdContext c.bytes) x = m
  have hruns : s.RunsOn m u c := hm ▸ State.runsOn_read hcommands hkind
  rw [State.burstMoved_read hkind] at hm
  have hunit : m.unit u =
      (s.unit u).readInto (x.blocks.map fun k => (s.unitRead (cmdContext c.bytes) k).held) := by
    rw [← hm, State.modUnit_unit_self, unit_of_nearMemory hcount]
  have hrecords := State.scanRecords_congr (s := s) (t := m) (u := u) (by rw [hunit]; rfl)
    (by rw [← hm]; exact s.countBlocks_indexes ..) (cmdContext c.bytes) (cmdMask c.bytes) (cmdRefs c.bytes) (m.unit u).rowBuffer
  obtain ⟨t, hexec, ht, hempty, hanswers, hmem⟩ := burstEnd_ends hu h ((State.burstMoved_read hkind).trans hm) hruns
    (q := (m.answer (cmdTag c.bytes) _).modUnit u NmuUnit.dropHead)
    ⟨State.modUnit_unit_self .., fun v hv => State.modUnit_unit_ne _ _ hv, rfl, rfl⟩ (State.nextPhase_scan hphase hop)
  refine ⟨t, hexec, ?_, hempty, ?_, ?_, ?_⟩
  · rw [hanswers, hrecords, hunit, ← hruns.answers]
    rfl
  · rw [ht]
    rfl
  · rw [ht, hunit]
    rfl
  · rw [hmem, ← hm, State.modUnit_mem, mem_of_nearMemory hcount]

section RowCommands

variable {s : State} {u : Nat} {x : Burst} {c : UnitCommand}

/-- R176: once Δ is loaded the row's read bursts are requested. -/
theorem burstEnd_update_loaded (hu : u < 512) (h : LastBurst s u x c 1) (hkind : x.kind = 2) (hop : cmdOp c.bytes = 3) :
    ∃ t, exec (.burstEnd u) s = .next t ∧
      (t.unit u).commands = [{ c with phase := 2, left := (readBursts u (cmdRefs c.bytes)).length }] ∧
      SMap.getD t.nmu.waiting (u / 64) [] = SMap.getD s.nmu.waiting (u / 64) [] ++ readBursts u (cmdRefs c.bytes) ∧
      t.mem = s.mem := by
  have ⟨_, _, _, hcommands, hphase, _, _⟩ := h
  have hruns : s.RunsOn (s.burstMoved u (cmdContext c.bytes) x) u c := State.runsOn_load hcommands hkind
  obtain ⟨t, hexec, hrun, hwaiting, hmem⟩ := burstEnd_enters hu h hruns hruns (by decide) (State.nextPhase_reads hphase hop)
  exact ⟨t, hexec, hrun, hwaiting, by rw [hmem, State.burstMoved_load hkind]; rfl⟩

/-- A write that follows the burst: its bursts are requested, and the command keeps its completion. -/
theorem burstEnd_writes {phase st n : Nat} {image : Option Bytes} (hu : u < 512) (h : LastBurst s u x c phase)
    (hruns : s.RunsOn (s.burstMoved u (cmdContext c.bytes) x) u c) (hmem : (s.burstMoved u (cmdContext c.bytes) x).mem = s.mem)
    (hnext : (s.burstMoved u (cmdContext c.bytes) x).nextPhase u c =
      (s.burstMoved u (cmdContext c.bytes) x).writePhase u c (.done st n (some image))) :
    ∃ t, exec (.burstEnd u) s = .next t ∧
      (t.unit u).commands = [{ c with
        completion := rowCompletion st n image, clipped := n, phase := 3,
        left := (writeBursts u (cmdRow c.bytes 0) image).length }] ∧
      SMap.getD t.nmu.waiting (u / 64) [] =
        SMap.getD s.nmu.waiting (u / 64) [] ++ writeBursts u (cmdRow c.bytes 0) image ∧ t.mem = s.mem := by
  obtain ⟨t, hexec, hrun, hwaiting, ht⟩ := burstEnd_enters hu h hruns (hruns.modHead _) (by decide)
    (hnext.trans (State.writePhase_image ..))
  exact ⟨t, hexec, hrun, hwaiting, ht.trans hmem⟩

/-- What an UPDATE's read burst leaves: its row is in the buffer, and HBM is as it was. -/
theorem State.burstMoved_read_unit {ctx : Nat} (hkind : x.kind = 0) :
    ((s.burstMoved u ctx x).unit u).rowBuffer = (s.unit u).rowBuffer ++ x.blocks.map (fun k => (s.unitRead ctx k).held) ∧
      (s.burstMoved u ctx x).mem = s.mem := by
  have hcount := s.countBlocks_nearMemory ctx x.blocks
  rw [State.burstMoved_read hkind, State.modUnit_unit_self, unit_of_nearMemory hcount, State.modUnit_mem, mem_of_nearMemory hcount]
  exact ⟨rfl, rfl⟩

/-- R176, R179: a sound row read, the write bursts of the updated row are requested. -/
theorem burstEnd_update_writes {read : List (Option Bytes)} {new : Bytes} {n : Nat} (hu : u < 512) (h : LastBurst s u x c 2)
    (hkind : x.kind = 0) (hop : cmdOp c.bytes = 3) (hpoisoned : c.poisoned = false)
    (hread : read = (s.unit u).rowBuffer ++ x.blocks.map (fun k => (s.unitRead (cmdContext c.bytes) k).held))
    (hend : updateEnd c.bytes false read = .done stOk n (some (some new))) :
    ∃ t, exec (.burstEnd u) s = .next t ∧
      (t.unit u).commands = [{ c with
        completion := rowCompletion stOk n (some new), clipped := n, phase := 3,
        left := (writeBursts u (cmdRow c.bytes 0) (some new)).length }] ∧
      SMap.getD t.nmu.waiting (u / 64) [] =
        SMap.getD s.nmu.waiting (u / 64) [] ++ writeBursts u (cmdRow c.bytes 0) (some new) ∧ t.mem = s.mem := by
  have ⟨_, _, _, hcommands, hphase, _, _⟩ := h
  obtain ⟨hbuffer, hmem⟩ := State.burstMoved_read_unit (s := s) (u := u) (ctx := cmdContext c.bytes) hkind
  exact burstEnd_writes hu h (State.runsOn_read hcommands hkind) hmem
    (by rw [State.nextPhase_update hphase hop, hpoisoned, hbuffer, ← hread, hend])

/-- R177: a row that stays unchanged is answered with what it stores. -/
theorem burstEnd_update_kept {read : List (Option Bytes)} {st : Nat} {row : Bytes} (hu : u < 512) (h : LastBurst s u x c 2)
    (hkind : x.kind = 0) (hop : cmdOp c.bytes = 3) (hpoisoned : c.poisoned = false)
    (hread : read = (s.unit u).rowBuffer ++ x.blocks.map (fun k => (s.unitRead (cmdContext c.bytes) k).held))
    (hend : updateEnd c.bytes false read = .kept st row) (hown : c.own = false) :
    ∃ t, exec (.burstEnd u) s = .next t ∧ (t.unit u).commands = [] ∧ t.mem = s.mem ∧
      t.nmu.answers = s.nmu.answers ++ [(cmdTag c.bytes, keptCompletion st row)] := by
  have ⟨_, _, _, hcommands, hphase, _, _⟩ := h
  obtain ⟨hbuffer, hmem⟩ := State.burstMoved_read_unit (s := s) (u := u) (ctx := cmdContext c.bytes) hkind
  obtain ⟨t, hexec, -, hempty, hanswers, ht⟩ := burstEnd_completes (completion := keptCompletion st row) hu h rfl
    (State.runsOn_read hcommands hkind) (by rw [State.nextPhase_update hphase hop, hpoisoned, hbuffer, ← hread, hend]; rfl)
  exact ⟨t, hexec, hempty, ht.trans hmem, hanswers hown⟩

/-- R177: a ROWWRITE whose sum holds requests the write bursts of its image. -/
theorem burstEnd_rowwrite_writes (hu : u < 512) (h : LastBurst s u x c 1) (hkind : x.kind = 2) (hop : cmdOp c.bytes = 4)
    {image : Bytes} (hend : rowwriteEnd c.bytes c.poisoned = .done stOk 0 (some (some image))) :
    ∃ t, exec (.burstEnd u) s = .next t ∧ t.mem = s.mem ∧ SMap.getD t.nmu.waiting (u / 64) [] =
        SMap.getD s.nmu.waiting (u / 64) [] ++ writeBursts u (cmdRow c.bytes 0) (some image) := by
  have ⟨_, _, _, hcommands, hphase, _, _⟩ := h
  obtain ⟨t, hexec, -, hwaiting, hmem⟩ := burstEnd_writes hu h (State.runsOn_load hcommands hkind)
    (by rw [State.burstMoved_load hkind]; rfl) (by rw [State.nextPhase_rowwrite hphase hop, hend])
  exact ⟨t, hexec, hmem, hwaiting⟩

/-- R177: a ROWWRITE whose sum does not hold ends with its status, and writes nothing. -/
theorem burstEnd_rowwrite_ends (hu : u < 512) (h : LastBurst s u x c 1) (hkind : x.kind = 2) (hop : cmdOp c.bytes = 4)
    {st : Nat} (hend : rowwriteEnd c.bytes c.poisoned = .done st 0 none) :
    ∃ t, exec (.burstEnd u) s = .next t ∧ t.mem = s.mem ∧ (t.unit u).commands = [] ∧
      (c.own = false → t.nmu.answers = s.nmu.answers ++ [(cmdTag c.bytes, rowCompletion st 0 none)]) := by
  have ⟨_, _, _, hcommands, hphase, _, _⟩ := h
  obtain ⟨t, hexec, -, hempty, hanswers, hmem⟩ := burstEnd_completes (completion := rowCompletion st 0 none) hu h rfl
    (State.runsOn_load hcommands hkind) (by rw [State.nextPhase_rowwrite hphase hop, hend]; rfl)
  exact ⟨t, hexec, by rw [hmem, State.burstMoved_load hkind]; rfl, hempty, hanswers⟩

/-- HBM gives back what has been written. -/
theorem State.hbmRead_hbmWrite (hwf : cellsWf s.mem.bytes = true) (a : Nat) (b : Bytes) :
    (s.hbmWrite a b).hbmRead a b.length = b := by
  refine List.ext_getElem (by simp [State.hbmRead, readBytes]) fun i hi hb => ?_
  simp only [State.hbmRead, readBytes, State.hbmWrite_bytes, List.getElem_map, List.getElem_range]
  rw [readByte_writeBytes_inside hwf a b hb, List.getD_eq_getElem?_getD, List.getElem?_eq_getElem hb,
    Option.getD_some]

/-- R179: at the end of a row's last write burst its blocks hold the image, the lock is free and the completion is returned. -/
theorem burstEnd_written {image : Bytes} {first : Nat} (hu : u < 512) (h : LastBurst s u x c 3) (hkind : x.kind = 1)
    (hlast : x.last = true) (hown : c.own = false) (himage : x.image = some image) (hfirst : x.blocks.head? = some first)
    (htags : ∀ k ∈ x.blocks, s.tagOk (cmdContext c.bytes) (64 * k) = true) (hwf : cellsWf s.mem.bytes = true) :
    ∃ t, exec (.burstEnd u) s = .next t ∧ t.hbmRead (64 * first) image.length = image ∧
      (∀ a, a < 64 * first ∨ 64 * first + image.length ≤ a → readByte t.mem.bytes a = readByte s.mem.bytes a) ∧
      (t.unit u).commands = [] ∧ (t.unit u).lock = none ∧
      t.nmu.answers = s.nmu.answers ++ [(cmdTag c.bytes, c.completion)] := by
  have ⟨_, _, _, hcommands, hphase, _, _⟩ := h
  have hmoved : s.burstMoved u (cmdContext c.bytes) x = (s.hbmWrite (64 * first) image).modUnit u (NmuUnit.written x.last) := by
    rw [State.burstMoved_write hkind, himage, State.unitWrite_image hfirst htags]
  obtain ⟨t, hexec, hunit, hempty, hanswers, hmem⟩ := burstEnd_completes hu h rfl
    (State.runsOn_write hcommands hkind himage hfirst htags) (State.nextPhase_completes hphase)
  rw [hmoved] at hunit hmem
  refine ⟨t, hexec, ?_, fun a ha => ?_, hempty, ?_, hanswers hown⟩
  · rw [State.hbmRead, hmem]
    exact State.hbmRead_hbmWrite hwf _ _
  · rw [hmem]
    exact readByte_writeBytes_outside _ _ _ ha
  · rw [hunit, State.modUnit_unit_self, NmuUnit.dropHead, NmuUnit.written, hlast, if_pos rfl]

end RowCommands

/-! ## The gate (R34, R169, R170, R179, R181) -/

/-- A unit in which a burst starts: a write burst locks its row. -/
def NmuUnit.start (x : Burst) (n : NmuUnit) : NmuUnit :=
  { n with burst := some x, lock := if x.kind = 1 then some (x.row, x.rowBlocks) else n.lock }

section StartBurst

variable {s : State} {stack : Nat} {x : Burst}

/-- A burst for one unit starts in that unit alone. -/
theorem State.startBurst_units (hwhole : x.whole = false) :
    (s.startBurst stack x).nmu.units = (s.modUnit x.unit (NmuUnit.start x)).nmu.units := by
  simp only [State.startBurst, hwhole]
  rfl

theorem State.startBurst_bursts (hwhole : x.whole = false) :
    (s.startBurst stack x).nmu.bursts = SMap.alter s.nmu.bursts x.unit 0 (· + 1) := by
  simp only [State.startBurst, hwhole]
  rfl

theorem State.startBurst_granted (hwhole : x.whole = false) :
    (s.startBurst stack x).nmu.granted = SMap.alter s.nmu.granted stack 0 (· + 1) := by
  simp only [State.startBurst, hwhole]
  rfl

theorem State.startBurst_slots (hwhole : x.whole = false) : (s.startBurst stack x).nmu.slots = s.nmu.slots := by
  simp only [State.startBurst, hwhole]
  rfl

theorem State.startBurst_mem (hwhole : x.whole = false) : (s.startBurst stack x).mem = s.mem := by
  simp only [State.startBurst, hwhole]
  rfl

end StartBurst

/-- No start is booked after a burst that waits alone. -/
theorem bookedFor_nil (slot : Nat) (x : Burst) : bookedFor slot x [] = [] := by
  simp [bookedFor]

/-- The one burst that waits is granted where it may start and the gate lets one more be in a burst. -/
theorem State.grantFrom_single {s : State} {stack slot slots n : Nat} {x : Burst} (hn : 0 < n) (hstart : s.mayStart [] x = true)
    (hslot : x.booked = true → x.slot ≤ slot) : s.grantFrom stack slot slots 1 n [] [x] = (s.startBurst stack x, []) := by
  obtain ⟨n, rfl⟩ := Nat.exists_eq_add_one.2 hn
  have htime : (!x.booked || decide (x.slot ≤ slot)) = true := by
    cases hb : x.booked <;> simp [hb, hslot]
  simp [State.grantFrom, bookedFor_nil, hstart, htime, canBook]

/-- The gate grants none where 44 pseudo-channels of the stack are in a burst. -/
theorem State.grantFrom_none (s : State) (stack slot slots fuel : Nat) (l : List Burst) :
    s.grantFrom stack slot slots fuel 0 [] l = (s, l) := by
  cases fuel <;> simp [State.grantFrom]

/-- The bursts that wait on a stack, in the order of granting: booked starts come first. -/
def State.grantOrder (s : State) (k : Nat) : List Burst :=
  (SMap.getD s.nmu.waiting k []).filter (·.booked) ++ (SMap.getD s.nmu.waiting k []).filter fun x => !x.booked

/-- A slot of a stack's gate in which the bursts that wait are being granted. -/
def State.inSlot (s : State) (k : Nat) : State :=
  { s with nmu := { s.nmu with
      waiting := SMap.set s.nmu.waiting k [], slots := SMap.set s.nmu.slots k (SMap.getD s.nmu.slots k 0 + 1) } }

/-- The bursts that still wait on a stack after a slot. -/
def State.leaveWaiting (s : State) (k : Nat) (l : List Burst) : State :=
  { s with nmu := { s.nmu with waiting := SMap.set s.nmu.waiting k l } }

/-- While slots of the stride are left, one of them passes. -/
theorem burstGrantEff_passes {s : State} {k : Nat} (hworking : s.working = true)
    (hleft : SMap.getD s.nmu.slots k 0 < workCycles s.clk.code / 25) {t : State} {l : List Burst}
    (hgranted : (s.inSlot k).grantFrom k (SMap.getD s.nmu.slots k 0) (workCycles s.clk.code / 25) (s.grantOrder k).length
      (min 4 (burstLimit - s.inBurst k)) [] (s.grantOrder k) = (t, l)) : burstGrantEff k s = t.leaveWaiting k l := by
  have hpasses : ¬((!s.working || decide (workCycles s.clk.code / 25 ≤ SMap.getD s.nmu.slots k 0)) = true) := by
    simp [hworking, hleft]
  refine (if_neg hpasses).trans ?_
  exact congrArg (fun r : State × List Burst => r.1.leaveWaiting k r.2) hgranted

/-- R170, R179, R188: a slot of the gate in which the one burst that waits may start. -/
theorem burstGrant_starts {s : State} {k : Nat} {x : Burst} (hk : k < 8) (hworking : s.working = true)
    (hwaiting : SMap.getD s.nmu.waiting k [] = [x]) (hwhole : x.whole = false)
    (hslot : x.booked = true → x.slot ≤ SMap.getD s.nmu.slots k 0)
    (hleft : SMap.getD s.nmu.slots k 0 < workCycles s.clk.code / 25) (hroom : s.inBurst k < 44)
    (hidle : (s.unit x.unit).burst = none) (hstart : x.booked = true ∨ x.kind = 2 ∨ s.awaited x = false) :
    ∃ t, exec (.burstGrant k) s = .next t ∧ (t.unit x.unit).burst = some x ∧
      (t.unit x.unit).lock = (if x.kind = 1 then some (x.row, x.rowBlocks) else (s.unit x.unit).lock) ∧
      SMap.getD t.nmu.granted k 0 = SMap.getD s.nmu.granted k 0 + 1 ∧
      SMap.getD t.nmu.bursts x.unit 0 = SMap.getD s.nmu.bursts x.unit 0 + 1 ∧ SMap.getD t.nmu.waiting k [] = [] ∧
      SMap.getD t.nmu.slots k 0 = SMap.getD s.nmu.slots k 0 + 1 ∧
      (∀ v, v ≠ x.unit → t.unit v = s.unit v) ∧ t.mem = s.mem := by
  have horder : s.grantOrder k = [x] := by
    rw [State.grantOrder, hwaiting]
    cases hb : x.booked <;> simp [hb]
  have hmay : (s.inSlot k).mayStart [] x = true := by
    have hgranted : (x.booked || decide (x.kind = 2) || !(s.inSlot k).awaited x) = true := by
      rcases hstart with h | h | h
      · simp [h]
      · simp [h]
      · simp [show (s.inSlot k).awaited x = false from h]
    simp [State.mayStart, show (s.inSlot k).unit x.unit = s.unit x.unit from rfl, hidle, hgranted]
  have hn : 0 < min 4 (burstLimit - s.inBurst k) := Nat.lt_min.2 ⟨by decide, Nat.sub_pos_of_lt hroom⟩
  have hgrant : burstGrantEff k s = ((s.inSlot k).startBurst k x).leaveWaiting k [] :=
    burstGrantEff_passes hworking hleft (by rw [horder]; exact State.grantFrom_single hn hmay hslot)
  have hunits : ((s.inSlot k).startBurst k x).nmu.units = ((s.inSlot k).modUnit x.unit (NmuUnit.start x)).nmu.units :=
    State.startBurst_units hwhole
  have hunit : ∀ v, (burstGrantEff k s).unit v = ((s.inSlot k).modUnit x.unit (NmuUnit.start x)).unit v := fun v => by
    rw [hgrant]
    exact unit_of_units hunits v
  refine ⟨burstGrantEff k s, guarded_decide hk rfl, ?_, ?_, ?_, ?_, ?_, ?_, fun v hv => ?_, ?_⟩
  · rw [hunit, State.modUnit_unit_self]
    rfl
  · rw [hunit, State.modUnit_unit_self]
    rfl
  · rw [hgrant]
    exact (congrArg (SMap.getD · k 0) (State.startBurst_granted hwhole)).trans (SMap.getD_alter_self ..)
  · rw [hgrant]
    exact (congrArg (SMap.getD · x.unit 0) (State.startBurst_bursts hwhole)).trans (SMap.getD_alter_self ..)
  · rw [hgrant]
    exact SMap.getD_set_self ..
  · rw [hgrant]
    exact (congrArg (SMap.getD · k 0) (State.startBurst_slots (stack := k) hwhole)).trans (SMap.getD_set_self ..)
  · rw [hunit, State.modUnit_unit_ne _ _ hv]
    rfl
  · rw [hgrant]
    exact State.startBurst_mem (stack := k) hwhole

/-- R169: with 44 pseudo-channels of the stack in a burst a slot passes, and nothing starts. -/
theorem burstGrant_full {s : State} {k : Nat} (hk : k < 8) (hworking : s.working = true) (hfull : 44 ≤ s.inBurst k)
    (hleft : SMap.getD s.nmu.slots k 0 < workCycles s.clk.code / 25) :
    ∃ t, exec (.burstGrant k) s = .next t ∧ t.nmu.units = s.nmu.units ∧ t.nmu.granted = s.nmu.granted ∧ t.mem = s.mem := by
  have hnone : min 4 (burstLimit - s.inBurst k) = 0 := by rw [Nat.sub_eq_zero_of_le hfull, Nat.min_zero]
  have hgrant : burstGrantEff k s = (s.inSlot k).leaveWaiting k (s.grantOrder k) :=
    burstGrantEff_passes hworking hleft (by rw [hnone, State.grantFrom_none])
  exact ⟨_, guarded_decide hk hgrant, rfl, rfl, rfl⟩

/-! ## A burst's unit and its lock are free at its end (R167, R169, R179, R180) -/

/-- The burst and the lock of each unit. -/
def State.burstView (s : State) : Nat → Option Burst × Option (Nat × Nat) := fun v => ((s.unit v).burst, (s.unit v).lock)

theorem burstView_of_units {s t : State} (h : t.nmu.units = s.nmu.units) : t.burstView = s.burstView :=
  funext fun v => by simp only [State.burstView, unit_of_units h]

/-- A change of a unit that leaves its burst and its lock. -/
theorem State.modUnit_burstView (s : State) (u : Nat) {g : NmuUnit → NmuUnit} (hburst : ∀ n, (g n).burst = n.burst)
    (hlock : ∀ n, (g n).lock = n.lock) : (s.modUnit u g).burstView = s.burstView := by
  funext v
  by_cases h : v = u
  · subst h
    simp [State.burstView, hburst, hlock]
  · simp [State.burstView, State.modUnit_unit_ne s g h]

theorem State.modUnits_burstView (s : State) (l : List Nat) {g : NmuUnit → NmuUnit} (hburst : ∀ n, (g n).burst = n.burst)
    (hlock : ∀ n, (g n).lock = n.lock) : (s.modUnits l g).burstView = s.burstView :=
  foldl_keeps State.burstView (fun t u => t.modUnit_burstView u hburst hlock) l s

@[simp] theorem ite_burstView {p : Prop} [Decidable p] (s t : State) :
    (if p then s else t).burstView = if p then s.burstView else t.burstView := apply_ite State.burstView p s t

@[simp] theorem State.modCommand_burstView (s : State) (u : Nat) (g : UnitCommand → UnitCommand) :
    (s.modCommand u g).burstView = s.burstView := s.modUnit_burstView u (fun _ => rfl) fun _ => rfl

@[simp] theorem State.dropCommand_burstView (s : State) (u : Nat) : (s.dropCommand u).burstView = s.burstView :=
  s.modUnit_burstView u (fun _ => rfl) fun _ => rfl

@[simp] theorem State.refusedCommand_burstView (s : State) (u : Nat) : (s.refusedCommand u).burstView = s.burstView := rfl

@[simp] theorem State.requestBursts_burstView (s : State) (stack : Nat) (l : List Burst) :
    (s.requestBursts stack l).burstView = s.burstView := rfl

@[simp] theorem State.answer_burstView (s : State) (tag : Nat) (b : Bytes) : (s.answer tag b).burstView = s.burstView := rfl

@[simp] theorem State.enterPhase_burstView (s : State) (u phase : Nat) (l : List Burst) :
    (s.enterPhase u phase l).burstView = s.burstView := by
  rw [State.enterPhase, State.requestBursts_burstView, State.modCommand_burstView]

@[simp] theorem State.voidMove_burstView (s : State) (m : Nat × Nat) : (s.voidMove m).burstView = s.burstView :=
  burstView_of_units (units_of_nearMemory (s.modResidency_nearMemory ..))

@[simp] theorem State.endCommand_burstView (s : State) (u : Nat) (c : UnitCommand) (completion : Bytes) :
    (s.endCommand u c completion).burstView = s.burstView := by
  have hdropped : ((s.dropCommand u).modStack (u / 64) fun k => { k with clipped := k.clipped + c.clipped }).burstView =
      s.burstView := s.dropCommand_burstView u
  unfold State.endCommand
  simp only []
  split
  · exact hdropped
  · split
    · simp only [ite_burstView, State.voidMove_burstView, hdropped, ite_self]
    · exact hdropped

@[simp] theorem State.writePhase_burstView (s : State) (u : Nat) (c : UnitCommand) (e : RowEnd) :
    (s.writePhase u c e).burstView = s.burstView := by
  unfold State.writePhase
  split <;> simp

@[simp] theorem State.endLoad_burstView (s : State) (c : UnitCommand) : (s.endLoad c).burstView = s.burstView := by
  rw [State.endLoad_eq]
  exact s.modUnits_burstView _ (fun _ => rfl) fun _ => rfl

@[simp] theorem State.nextPhase_burstView (s : State) (u : Nat) (c : UnitCommand) : (s.nextPhase u c).burstView = s.burstView := by
  unfold State.nextPhase
  simp only []
  (repeat' split) <;> simp

@[simp] theorem State.beginCommand_burstView (s : State) (u : Nat) (c : UnitCommand) :
    (s.beginCommand u c).burstView = s.burstView := by
  have hfold : ∀ (l : List Nat) (g : UnitCommand → UnitCommand), (l.foldl (fun s v => s.modCommand v g) s).burstView = s.burstView :=
    fun l g => foldl_keeps State.burstView (fun t v => t.modCommand_burstView v g) l s
  unfold State.beginCommand
  simp only []
  (repeat' split) <;> simp [hfold]

theorem State.beginHeads_burstView (s : State) (stack : Nat) : (s.beginHeads stack).burstView = s.burstView := by
  rw [State.beginHeads_eq]
  refine foldl_keeps State.burstView (fun t p => ?_) _ s
  unfold State.beginHead
  (repeat' split) <;> simp

/-- Commands that begin leave every burst and lock. -/
@[simp] theorem State.runStack_burstView (s : State) (stack : Nat) : (s.runStack stack).burstView = s.burstView :=
  foldl_keeps State.burstView (fun t _ => t.beginHeads_burstView stack) _ s

/-- A phase that ends leaves every burst and lock. -/
@[simp] theorem State.burstDone_burstView (s : State) (u : Nat) : (s.burstDone u).burstView = s.burstView := by
  unfold State.burstDone
  (repeat' split) <;> simp

@[simp] theorem State.releaseLocked_burstView (s : State) : s.releaseLocked.burstView = s.burstView :=
  burstView_of_units s.releaseLocked_units

@[simp] theorem State.passHeld_burstView (s : State) : s.passHeld.burstView = s.burstView :=
  burstView_of_units (units_of_nearMemory s.passHeld_nearMemory)

/-- Where the one change is to unit `u`, whose burst ends. -/
theorem State.modUnit_burstView_freed {s t : State} {u : Nat} {g : NmuUnit → NmuUnit} {lock : Option (Nat × Nat)}
    (hunits : t.nmu.units = s.nmu.units) (hburst : (g (s.unit u)).burst = none) (hlock : (g (s.unit u)).lock = lock) :
    (t.modUnit u g).burstView = fun v => if v = u then (none, lock) else s.burstView v := by
  have hunit : ∀ v, t.unit v = s.unit v := unit_of_units hunits
  funext v
  by_cases h : v = u
  · subst h
    simp [State.burstView, hunit, hburst, hlock]
  · simp [State.burstView, State.modUnit_unit_ne t g h, hunit, h]

theorem State.poisonBlocks_units (s : State) (b n : Nat) : (s.poisonBlocks b n).nmu.units = s.nmu.units :=
  foldl_units (fun _ _ => by rfl) _ s

theorem State.unitWrite_units (s : State) (ctx : Nat) (blocks : List Nat) (image : Option Bytes) :
    (s.unitWrite ctx blocks image).nmu.units = s.nmu.units := by
  unfold State.unitWrite
  simp only []
  split
  · rfl
  · split
    · rfl
    · exact s.poisonBlocks_units ..

/-- A burst that has moved its blocks is over, and the last write burst of a row frees its lock. -/
theorem State.burstMoved_burstView (s : State) (u ctx : Nat) (x : Burst) :
    (s.burstMoved u ctx x).burstView =
      fun v => if v = u then (none, if x.kind = 1 ∧ x.last = true then none else (s.unit u).lock) else s.burstView v := by
  unfold State.burstMoved
  split
  next hread => exact State.modUnit_burstView_freed (units_of_nearMemory (s.countBlocks_nearMemory ..)) rfl (by simp [hread])
  next =>
    split
    next hwrite => exact State.modUnit_burstView_freed (s.unitWrite_units ..) rfl (by simp [hwrite])
    next hload => exact State.modUnit_burstView_freed rfl rfl (by simp [hload])

/-- A unit in which a load burst for a whole stack has ended: its command has one burst less to come. -/
def NmuUnit.loadedWhole (n : NmuUnit) : NmuUnit := n.loaded.modHead fun c => { c with left := c.left - 1 }

/-- The other units in which a burst runs. -/
def State.alsoIn (s : State) (x : Burst) : List Nat := (s.nmu.units.filter fun p => p.2.burst = some x && p.1 ≠ x.unit).map (·.1)

/-- A load burst for a whole stack has ended in the other units that it runs in. -/
def State.othersEnded (s : State) (x : Burst) : State :=
  if x.whole then s.modUnits (s.alsoIn x) NmuUnit.loadedWhole else s

/-- A burst's end, in the other units that it runs in first. -/
theorem burstEndEff_eq {s : State} {u : Nat} {x : Burst} (hburst : (s.unit u).burst = some x) (hunit : x.unit = u) :
    ∃ ctx, burstEndEff u s =
      (((((s.othersEnded x).burstMoved u ctx x).burstDone u).runStack (u / 64)).releaseLocked).passHeld := by
  subst hunit
  have hothers : ∀ l : List Nat, l.foldl (fun s v => (s.modUnit v fun n => { n with burst := none }).modCommand v fun c =>
      { c with left := c.left - 1 }) s = s.modUnits l NmuUnit.loadedWhole := fun l => by
    simp only [State.modCommand_eq, State.modUnit_modUnit]
    rfl
  simp only [burstEndEff, hburst, hothers, State.othersEnded]
  cases x.whole
  · exact ⟨_, rfl⟩
  · exact ⟨_, rfl⟩

/-- R167, R169, R179, R180: a burst's end frees its unit, in every unit that a load of a whole stack runs in, and the last write
burst of a row frees its lock. -/
theorem burstEnd_frees {s : State} {u : Nat} {x : Burst} (hu : u < 512) (hburst : (s.unit u).burst = some x) (hunit : x.unit = u) :
    ∃ t, exec (.burstEnd u) s = .next t ∧ (t.unit u).burst = none ∧
      (t.unit u).lock = (if x.kind = 1 ∧ x.last = true then none else (s.unit u).lock) ∧
      (x.whole = true → ∀ p ∈ s.nmu.units, p.2.burst = some x → (t.unit p.1).burst = none) := by
  obtain ⟨ctx, hend⟩ := burstEndEff_eq hburst hunit
  generalize hm : s.othersEnded x = m at hend
  have hview : (burstEndEff u s).burstView =
      fun v => if v = u then (none, if x.kind = 1 ∧ x.last = true then none else (m.unit u).lock) else m.burstView v := by
    rw [hend, State.passHeld_burstView, State.releaseLocked_burstView, State.runStack_burstView, State.burstDone_burstView,
      State.burstMoved_burstView]
  have hlock : (m.unit u).lock = (s.unit u).lock := by
    rw [← hm, State.othersEnded]
    split
    · rw [State.modUnits_unit_of_not_mem _ _ (by simp [State.alsoIn, hunit])]
    · rfl
  have hat := congrFun hview u
  simp only [if_true, State.burstView, hlock, Prod.mk.injEq] at hat
  obtain ⟨hfree, hunlocked⟩ := hat
  refine ⟨burstEndEff u s, guarded_decide hu rfl, hfree, hunlocked, fun hwhole p hp hx => ?_⟩
  by_cases hpu : p.1 = u
  · rw [hpu, hfree]
  · have hother := congrFun hview p.1
    simp only [if_neg hpu, State.burstView, Prod.mk.injEq] at hother
    obtain ⟨hfreed, -⟩ := hother
    have hmem : p.1 ∈ s.alsoIn x := List.mem_map_of_mem (List.mem_filter.2 ⟨hp, by simp [hx, hunit, hpu]⟩)
    rw [hfreed, ← hm, State.othersEnded, if_pos hwhole]
    exact State.modUnits_unit_holds (P := fun n => n.burst = none) s hmem fun _ => rfl

/-- Settles O51, clause by clause: QLOADs as they are received and as their last load burst ends, then SCANs. -/
theorem queriesLoadedAndScanned : Obligations.QueriesLoadedAndScanned := by
  refine ⟨?qload, ?whole, ?loaded, ?scan, ?scanned, ?refused⟩
  case qload =>
    intro b p s hworking hop hwhole hruns hrefuses hlength hempty hquiet
    exact ⟨_, guarded_true .., unitCommandEff_qload hworking hop hwhole hruns hrefuses hlength hempty hquiet⟩
  case whole =>
    intro b p s hworking hop hwhole hne hfields hlength hempty hquiet
    obtain ⟨u, h⟩ := unitCommandEff_qload_whole hworking hop hwhole hne hfields hlength hempty hquiet
    exact ⟨_, u, guarded_true .., h⟩
  case loaded =>
    intro u s x c n hu hlast hkind hop hholders hslot
    exact burstEnd_qload hu hlast hkind hop hholders hslot
  case scan =>
    intro b s hworking hop hruns hrefuses hempty hquiet
    exact ⟨_, guarded_true .., unitCommandEff_scan hworking hop hruns hrefuses hempty hquiet⟩
  case scanned =>
    intro u s x c hu hlast hkind hop
    exact burstEnd_scan hu hlast hkind hop
  case refused =>
    intro b s hworking hop hruns hfields hempty hquiet
    exact ⟨_, guarded_true .., unitCommandEff_scan_refused hworking hop hruns hfields hempty hquiet⟩

/-- Settles O52, clause by clause: UPDATE and ROWWRITE as they are received, and at the end of each phase's last burst; then
every burst, as it is granted and as it ends. -/
theorem rowsWrittenInBursts : Obligations.RowsWrittenInBursts := by
  refine ⟨?update, ?rowwrite, ?loaded, ?writes, ?kept, ?image, ?written, ?granted, ?full, ?freed⟩
  case update =>
    intro b p s hworking hop hruns hrefuses hlength hempty hquiet
    exact ⟨_, guarded_true .., unitCommandEff_loads hworking hop (by decide) hruns hrefuses hlength hempty hquiet⟩
  case rowwrite =>
    intro b p s hworking hop hruns hrefuses hlength hempty hquiet
    exact ⟨_, guarded_true .., unitCommandEff_loads hworking hop (by decide) hruns hrefuses hlength hempty hquiet⟩
  case loaded =>
    intro u s x c hu hlast hkind hop
    exact burstEnd_update_loaded hu hlast hkind hop
  case writes =>
    intro u s x c read new n hu hlast hkind hop hpoisoned hread hend
    exact burstEnd_update_writes hu hlast hkind hop hpoisoned hread hend
  case kept =>
    intro u s x c read st row hu hlast hkind hop hpoisoned hread hend hown
    obtain ⟨t, hexec, hcommands, hmem, hanswers⟩ := burstEnd_update_kept hu hlast hkind hop hpoisoned hread hend hown
    refine ⟨t, hexec, hcommands, hmem, ?_⟩
    rw [hanswers, keptCompletion, show zeros 6 = zeros 2 ++ zeros 4 from rfl]
    simp only [List.append_assoc]
  case image =>
    intro u s x c image hu hlast hkind hop hpoisoned himage
    by_cases hsum : sumInt (rowCodes image) = rowSum image
    · obtain ⟨t, hexec, hmem, hwaiting⟩ := burstEnd_rowwrite_writes hu hlast hkind hop (image := image)
        (by simp [rowwriteEnd, hpoisoned, ← himage, hsum])
      exact ⟨t, hexec, hmem, fun _ => hwaiting, fun h => absurd hsum h⟩
    · obtain ⟨t, hexec, hmem, hempty, hanswers⟩ := burstEnd_rowwrite_ends hu hlast hkind hop (st := stBadCheck)
        (by simp [rowwriteEnd, hpoisoned, ← himage, hsum])
      exact ⟨t, hexec, hmem, fun h => absurd h hsum, fun _ hown => ⟨hempty, hanswers hown⟩⟩
  case written =>
    intro u s x c image first hu hlast hkind hlastBurst hown himage hfirst htags hwf
    exact burstEnd_written hu hlast hkind hlastBurst hown himage hfirst htags hwf
  case granted =>
    intro k s x hk hworking hwaiting hwhole hslot hleft hroom hidle hstart
    exact burstGrant_starts hk hworking hwaiting hwhole hslot hleft hroom hidle hstart
  case full =>
    intro k s hk hworking hfull hleft
    exact burstGrant_full hk hworking hfull hleft
  case freed =>
    intro u s x hu hburst hunit
    exact burstEnd_frees hu hburst hunit

end Sys2Proof.Machine
end

section
/-! SUPPORT. The statement of the arbiters: what a decision grants, and what a fabric port's decision sends. -/

namespace Sys2Proof.Machine

/-! ## The largest of a list -/

/-- The largest of a list that is not empty, as the library has it. -/
theorem max?_eq_maxNat {l : List Nat} (hl : l ≠ []) : l.max? = some (maxNat l) := by
  cases l with
  | nil => exact absurd rfl hl
  | cons x l =>
    rw [List.max?_cons', maxNat, List.foldl_cons, show Nat.max 0 x = x from Nat.zero_max x]

theorem maxNat_mem {l : List Nat} (hl : l ≠ []) : maxNat l ∈ l := (List.max?_eq_some_iff.1 (max?_eq_maxNat hl)).1

theorem le_maxNat_of_mem {l : List Nat} {v : Nat} (hv : v ∈ l) : v ≤ maxNat l :=
  (List.max?_eq_some_iff.1 (max?_eq_maxNat (List.ne_nil_of_mem hv))).2 v hv

/-! ## Who is granted (R191, R192) -/

/-- The slots of an arbiter with a request waiting. -/
def arbiterAsking (n : Nat) (requests : BitVec 8) : List Nat :=
  (List.range (arbiterSlots n)).filter fun i => bitOf requests.toNat i

theorem mem_arbiterAsking {n i : Nat} {requests : BitVec 8} :
    i ∈ arbiterAsking n requests ↔ i < arbiterSlots n ∧ bitOf requests.toNat i = true := by
  rw [arbiterAsking, List.mem_filter, List.mem_range]

/-- The candidates that a forced win may choose: those at their wait limit, where no protected one is among them. -/
def Arbiter.forcedAmong (n : Nat) (blocked : BitVec 8) (cand : List Nat) (a : Arbiter) : List Nat :=
  if (cand.filter (isProtected n blocked)).isEmpty then
    cand.filter fun i => a.waitLim.getD i 0 ≠ 0 && a.waitLim.getD i 0 ≤ a.waits.getD i 0
  else []

/-- The candidate that a decision grants: a forced one, else by priority, among the protected ones where there are any. -/
def Arbiter.winner (n : Nat) (blocked : BitVec 8) (cand : List Nat) (a : Arbiter) : Option Nat :=
  match a.firstForced (a.forcedAmong n blocked cand) with
  | some i => some i
  | none => a.byPriority (if (cand.filter (isProtected n blocked)).isEmpty then cand else cand.filter (isProtected n blocked))

/-- Choosing by priority chooses a slot of the highest priority. -/
theorem Arbiter.byPriority_spec {a : Arbiter} {cand : List Nat} {g : Nat} (h : a.byPriority cand = some g) :
    g ∈ cand ∧ a.prioOf g = maxNat (cand.map a.prioOf) := by
  have hbest : g ∈ cand.filter fun i => a.prioOf i = maxNat (cand.map a.prioOf) := by
    unfold Arbiter.byPriority at h
    dsimp only at h
    split at h
    case h_1 i later hlater =>
      obtain rfl : i = g := by simpa using h
      exact (List.mem_filter.1 (hlater ▸ List.mem_cons_self)).1
    case h_2 => exact List.mem_of_head? h
  simpa using hbest

/-- No candidate has a higher priority than the one chosen by priority. -/
theorem Arbiter.byPriority_highest {a : Arbiter} {cand : List Nat} {g i : Nat} (h : a.byPriority cand = some g)
    (hi : i ∈ cand) : a.prioOf i ≤ a.prioOf g := by
  rw [(Arbiter.byPriority_spec h).2]
  exact le_maxNat_of_mem (List.mem_map_of_mem hi)

/-- Where there is a candidate, one is chosen. -/
theorem Arbiter.byPriority_isSome (a : Arbiter) {cand : List Nat} (hcand : cand ≠ []) : (a.byPriority cand).isSome := by
  obtain ⟨i, hi, htop⟩ := List.mem_map.1 (maxNat_mem (l := cand.map a.prioOf) (by simpa using hcand))
  have hbest : (cand.filter fun i => a.prioOf i = maxNat (cand.map a.prioOf)) ≠ [] :=
    List.ne_nil_of_mem (List.mem_filter.2 ⟨hi, decide_eq_true htop⟩)
  unfold Arbiter.byPriority
  dsimp only
  split
  case h_1 => rfl
  case h_2 => simpa using hbest

/-- A forced win goes to a slot of the forced set. -/
theorem Arbiter.firstForced_mem {a : Arbiter} {forced : List Nat} {g : Nat} (h : a.firstForced forced = some g) :
    g ∈ forced := by
  refine List.foldlRecOn (motive := fun best : Option Nat => ∀ g, best = some g → g ∈ forced) forced _ (by simp) ?_ g h
  intro best hbest i hi g hg
  split at hg
  case h_1 =>
    obtain rfl : i = g := by simpa using hg
    exact hi
  case h_2 b =>
    split at hg
    · obtain rfl : i = g := by simpa using hg
      exact hi
    · exact hbest g hg

theorem Arbiter.mem_of_mem_forcedAmong {n g : Nat} {blocked : BitVec 8} {cand : List Nat} {a : Arbiter}
    (h : g ∈ a.forcedAmong n blocked cand) : g ∈ cand := by
  unfold Arbiter.forcedAmong at h
  split at h
  · exact (List.mem_filter.1 h).1
  · simp at h

/-- Where there are candidates, one of them wins. -/
theorem Arbiter.winner_mem {n : Nat} {blocked : BitVec 8} {cand : List Nat} {a : Arbiter} (hcand : cand ≠ []) :
    ∃ g ∈ cand, a.winner n blocked cand = some g := by
  unfold Arbiter.winner
  split
  case h_1 g hforced => exact ⟨g, Arbiter.mem_of_mem_forcedAmong (Arbiter.firstForced_mem hforced), rfl⟩
  case h_2 =>
    split
    case isTrue =>
      obtain ⟨g, hg⟩ := Option.isSome_iff_exists.1 (a.byPriority_isSome hcand)
      exact ⟨g, (Arbiter.byPriority_spec hg).1, hg⟩
    case isFalse hsafe =>
      obtain ⟨g, hg⟩ := Option.isSome_iff_exists.1 (a.byPriority_isSome (mt List.isEmpty_iff.2 hsafe))
      exact ⟨g, (List.mem_filter.1 (Arbiter.byPriority_spec hg).1).1, hg⟩

/-- With no protected request and no wait limit reached, priority alone decides. -/
theorem Arbiter.winner_of_unforced {n : Nat} {blocked : BitVec 8} {cand : List Nat} {a : Arbiter}
    (hsafe : ∀ i, isProtected n blocked i = false)
    (hwaits : ∀ i, a.waitLim.getD i 0 = 0 ∨ a.waits.getD i 0 < a.waitLim.getD i 0) :
    a.winner n blocked cand = a.byPriority cand := by
  have hnone : cand.filter (isProtected n blocked) = [] := by simp [List.filter_eq_nil_iff, hsafe]
  have hforced : a.forcedAmong n blocked cand = [] := by
    rw [Arbiter.forcedAmong, hnone, if_pos List.isEmpty_nil, List.filter_eq_nil_iff]
    intro i _
    have := hwaits i
    simp only [Bool.and_eq_true, decide_eq_true_eq]
    omega
  rw [Arbiter.winner, hforced, hnone]
  rfl

/-- Only fabric ports and pseudo-channels have protected requests that no unit blocks. -/
theorem isProtected_of_kind {n : Nat} (h3 : arbiterKind n ≠ 3) (h0 : arbiterKind n ≠ 0) (blocked : BitVec 8) (i : Nat) :
    isProtected n blocked i = false := by simp [isProtected, h3, h0]

/-- A tabulated value of 0 reads as 0, within the table or beyond it. -/
theorem getD_map_range_of_zero {f : Nat → Nat} {i : Nat} (k : Nat) (h : f i = 0) : ((List.range k).map f).getD i 0 = 0 := by
  rw [List.getD_eq_getElem?_getD, List.getElem?_map]
  rcases Nat.lt_or_ge i k with hi | hi
  · rw [List.getElem?_range hi]
    exact h
  · rw [List.getElem?_eq_none (by simpa using hi)]
    rfl

/-! ## The decision of an arbiter that nobody holds -/

section
variable {n : Nat} {requests blocked : BitVec 8} {tenure : Nat} {waited : List Nat} {a : Arbiter}

/-- Nobody is cut off where nobody holds, so every slot that asks is a candidate. -/
theorem filter_arbiterAsking_none :
    (arbiterAsking n requests).filter (fun i => some i ≠ (none : Option Nat)) = arbiterAsking n requests := by simp

/-- Without a winner a decision notes the limits reached, and no more. -/
theorem Arbiter.decide_of_no_winner (hidle : a.holder = none)
    (hwinner : a.mark.winner n blocked (arbiterAsking n requests) = none) :
    Arbiter.decide n requests blocked tenure waited a = a.mark := by
  unfold Arbiter.decide
  rw [hidle]
  dsimp only
  rw [← arbiterAsking, filter_arbiterAsking_none]
  split
  case h_1 => rfl
  case h_2 g hg => exact absurd (hg.symm.trans hwinner) (by simp)

/-- The winner of a decision holds the arbiter and begins to wait anew. -/
theorem Arbiter.decide_of_winner {g : Nat} (hidle : a.holder = none)
    (hwinner : a.mark.winner n blocked (arbiterAsking n requests) = some g) :
    (Arbiter.decide n requests blocked tenure waited a).holder = some g ∧
      (Arbiter.decide n requests blocked tenure waited a).lastGrant = g ∧
      (Arbiter.decide n requests blocked tenure waited a).decisions = a.decisions + 1 ∧
      (Arbiter.decide n requests blocked tenure waited a).waits.getD g 0 = 0 := by
  unfold Arbiter.decide
  rw [hidle]
  dsimp only
  rw [← arbiterAsking, filter_arbiterAsking_none]
  split
  case h_1 hnone => exact absurd (hnone.symm.trans hwinner) (by simp)
  case h_2 g' hg =>
    obtain rfl : g' = g := Option.some.inj (hg.symm.trans hwinner)
    refine ⟨rfl, rfl, rfl, ?_⟩
    dsimp only [Arbiter.mark]
    refine getD_map_range_of_zero 8 ?_
    exact if_pos rfl

end

/-- Where a present slot asks, one that asks is granted. -/
theorem Arbiter.decide_grants {n : Nat} {requests : BitVec 8} (blocked : BitVec 8) (tenure : Nat) (waited : List Nat)
    {a : Arbiter} (hidle : a.holder = none) (hasks : ∃ i < arbiterSlots n, bitOf requests.toNat i = true) :
    ∃ g, (Arbiter.decide n requests blocked tenure waited a).holder = some g ∧ g < arbiterSlots n ∧
      bitOf requests.toNat g = true ∧ (Arbiter.decide n requests blocked tenure waited a).lastGrant = g ∧
      (Arbiter.decide n requests blocked tenure waited a).decisions = a.decisions + 1 ∧
      (Arbiter.decide n requests blocked tenure waited a).waits.getD g 0 = 0 := by
  obtain ⟨i, hi⟩ := hasks
  obtain ⟨g, hg, hwinner⟩ := Arbiter.winner_mem (n := n) (blocked := blocked) (a := a.mark)
    (List.ne_nil_of_mem (mem_arbiterAsking.2 hi))
  obtain ⟨hhere, hasking⟩ := mem_arbiterAsking.1 hg
  obtain ⟨hholder, hlast, hdecisions, hwaits⟩ := Arbiter.decide_of_winner hidle hwinner
  exact ⟨g, hholder, hhere, hasking, hlast, hdecisions, hwaits⟩

/-- With no wait limit reached, no protected request and no holder, none that asks has a higher priority than the new holder. -/
theorem Arbiter.decide_highest {n : Nat} {requests blocked : BitVec 8} {tenure : Nat} {waited : List Nat} {a : Arbiter}
    {g i : Nat} (hsafe : ∀ j, isProtected n blocked j = false) (hidle : a.holder = none)
    (hwaits : ∀ j, a.waitLim.getD j 0 = 0 ∨ a.waits.getD j 0 < a.waitLim.getD j 0)
    (hholder : (Arbiter.decide n requests blocked tenure waited a).holder = some g)
    (hi : i ∈ arbiterAsking n requests) : a.prioOf i ≤ a.prioOf g := by
  cases hwinner : a.mark.winner n blocked (arbiterAsking n requests) with
  | none =>
    rw [Arbiter.decide_of_no_winner hidle hwinner] at hholder
    exact absurd (hidle.symm.trans hholder) (by simp)
  | some w =>
    obtain ⟨hgranted, -⟩ := Arbiter.decide_of_winner hidle hwinner
    obtain rfl : w = g := Option.some.inj (hgranted.symm.trans hholder)
    rw [Arbiter.winner_of_unforced (a := a.mark) hsafe hwaits] at hwinner
    exact Arbiter.byPriority_highest hwinner hi

/-! ## Ports: the rules of reading one after a change -/

/-- Port `p` of a node that has it, after a change of it. -/
theorem State.modPort_port_self (s : State) {p : Nat} (g : Port → Port) (hp : p < s.fab.ports.length) :
    (s.modPort p g).port p = g (s.port p) := by
  simp [State.modPort, State.port, List.getD_eq_getElem?_getD, List.getElem?_eq_getElem hp]

/-- Another port's change leaves port `i`. -/
theorem State.modPort_port_ne (s : State) {p i : Nat} (g : Port → Port) (hi : i ≠ p) : (s.modPort p g).port i = s.port i := by
  simp [State.modPort, State.port, List.getD_eq_getElem?_getD, hi.symm]

/-- Two changes of port `p`, one after the other. -/
theorem State.modPort_modPort (s : State) (p : Nat) (g h : Port → Port) :
    (s.modPort p g).modPort p h = s.modPort p (h ∘ g) := by
  rw [State.modPort, State.modPort, State.modPort, List.modify_modify_eq]

/-- Changes that make the same of port `p` are one. -/
theorem State.modPort_congr {s : State} {p : Nat} {g h : Port → Port} (heq : g (s.port p) = h (s.port p)) :
    s.modPort p g = s.modPort p h := by
  have hports : s.fab.ports.modify p g = s.fab.ports.modify p h := by
    refine List.ext_getElem? fun i => ?_
    rw [List.getElem?_modify, List.getElem?_modify]
    by_cases hi : p = i
    · subst hi
      cases hq : s.fab.ports[p]? with
      | none => rfl
      | some q =>
        have hport : s.port p = q := by rw [State.port, List.getD_eq_getElem?_getD, hq, Option.getD_some]
        simpa [hport] using heq
    · simp [hi]
  rw [State.modPort, State.modPort, hports]

@[simp] theorem State.modPort_ports_length (s : State) (p : Nat) (g : Port → Port) :
    (s.modPort p g).fab.ports.length = s.fab.ports.length := List.length_modify ..

@[simp] theorem State.modPort_arbiter (s : State) (p n : Nat) (g : Port → Port) : (s.modPort p g).arbiter n = s.arbiter n := rfl

@[simp] theorem State.modArbiter_port (s : State) (n p : Nat) (g : Arbiter → Arbiter) : (s.modArbiter n g).port p = s.port p :=
  rfl

/-! ## What a port sends (R288, R291, R292, R310) -/

@[simp] theorem Port.stall_groups (p : Port) (cycle : Nat) : (p.stall cycle).groups = p.groups := rfl

theorem Port.sendIdle_groups_length (p : Port) : p.sendIdle.groups.length = p.groups.length + 1 := List.length_append ..

theorem Port.sendGroup_groups_length (p : Port) (cls : Nat) : (p.sendGroup cls).groups.length = p.groups.length + 1 :=
  List.length_append ..

/-- The class that the weighted round serves next changes whose turn it is, and no group. -/
@[simp] theorem Port.weighted_groups (p : Port) (cycle : Nat) : (p.weighted cycle).2.groups = p.groups := by
  unfold Port.weighted
  (repeat' split) <;> rfl

/-- A grant sends one group. -/
theorem Port.granted_groups_length (p : Port) (cycle slot : Nat) :
    (p.granted cycle slot).groups.length = p.groups.length + 1 := by
  unfold Port.granted
  split
  · exact p.sendGroup_groups_length slot
  · rw [Port.sendGroup_groups_length, Port.weighted_groups]

/-- The peer's credits after a group: class 0 needs none, another class gives one for each of its flits (R292). -/
theorem Port.sendGroup_credits (p : Port) (cls : Nat) : (p.sendGroup cls).credits =
    if cls = 0 then p.credits else p.credits.set cls (p.credits.getD cls 0 - p.groupFlits cls) := rfl

/-- A class but 0 pays one credit for each flit. -/
theorem Port.sendGroup_credits_self {p : Port} {cls : Nat} (h0 : cls ≠ 0) (hcls : cls < p.credits.length) :
    (p.sendGroup cls).credits.getD cls 0 + min (min 4 (p.ready cls)) (p.credits.getD cls 0) = p.credits.getD cls 0 := by
  have hset : (p.sendGroup cls).credits.getD cls 0 = p.credits.getD cls 0 - p.groupFlits cls := by
    rw [Port.sendGroup_credits, if_neg h0, List.getD_eq_getElem?_getD, List.getElem?_set_self hcls]
    rfl
  rw [hset, Port.groupFlits, if_neg h0]
  exact Nat.sub_add_cancel (Nat.min_le_right ..)

/-- A group of one class leaves the credits of every other. -/
theorem Port.sendGroup_credits_ne (p : Port) {cls c : Nat} (hc : c ≠ cls) :
    (p.sendGroup cls).credits.getD c 0 = p.credits.getD c 0 := by
  rw [Port.sendGroup_credits]
  split
  · rfl
  · rw [List.getD_eq_getElem?_getD, List.getElem?_set_ne hc.symm, ← List.getD_eq_getElem?_getD]

/-- A frame stays open until its tenth group. -/
theorem State.closeFrame_of_open {s : State} {p : Nat} (h : (s.port p).groups.length < 10) : s.closeFrame p = s := if_pos h

/-! ## The decision of a fabric port's arbiter -/

/-- What the decision of its arbiter makes of a serving port: the classes without credit have stalled, and a group of the class
granted leaves, or an idle one where none that may be served asks. -/
def Port.afterDecision (p : Port) (requests : BitVec 8) (cycle slot : Nat) : Port :=
  if requests &&& p.requests cycle = 0 then (p.stall cycle).sendIdle else (p.stall cycle).granted cycle slot

/-- A decision sends one group. -/
theorem Port.afterDecision_groups_length (p : Port) (requests : BitVec 8) (cycle slot : Nat) :
    (p.afterDecision requests cycle slot).groups.length = p.groups.length + 1 := by
  unfold Port.afterDecision
  split
  · exact (p.stall cycle).sendIdle_groups_length
  · exact (p.stall cycle).granted_groups_length cycle slot

/-- A serving port of the node whose frame has room for more than the next group: its arbiter decides on the requests that may be
served, and the port sends one group. -/
theorem State.egress_of_open {s : State} {p : Nat} (requests blocked : BitVec 8) (tenure : Nat) (waited : List Nat) (cycle : Nat)
    (hp : p < s.fab.ports.length) (hserves : (s.port p).st = 2) (hopen : (s.port p).groups.length < 9) :
    s.egress p requests blocked tenure waited cycle =
      (s.modArbiter (556 + p)
        (Arbiter.decide (556 + p) (requests &&& (s.port p).requests cycle) blocked tenure waited)).modPort p fun q =>
          q.afterDecision requests cycle (Arbiter.decide (556 + p) (requests &&& (s.port p).requests cycle) blocked tenure waited
            (s.arbiter (556 + p))).lastGrant := by
  unfold State.egress
  dsimp only
  rw [← State.port, if_neg (by simpa using hserves), State.modPort_modPort, State.modPort_arbiter,
    State.modArbiter_arbiter_self, State.modPort_congr (h := fun q => q.afterDecision requests cycle _) rfl]
  refine State.closeFrame_of_open ?_
  rw [State.modPort_port_self (s.modArbiter ..) _ hp, State.modArbiter_port, Port.afterDecision_groups_length]
  exact Nat.succ_lt_succ hopen

/-- A command of an arbiter that the node has ends in its effect's state. -/
theorem exec_arbiterDecision {n : Nat} (requests blocked : BitVec 8) (tenure : Nat) (waited : List Nat) (cycle : Nat) (s : State)
    (hn : n < 567) : exec (.arbiterDecision n requests blocked tenure waited cycle) s =
      .next (arbiterDecisionEff n requests blocked tenure waited cycle s) := if_pos (decide_eq_true hn)

/-- The decision of any arbiter but a fabric port's changes that arbiter alone. -/
theorem arbiterDecisionEff_off_ports {n : Nat} (requests blocked : BitVec 8) (tenure : Nat) (waited : List Nat) (cycle : Nat)
    (s : State) (hn : n < 556 ∨ 565 ≤ n) : arbiterDecisionEff n requests blocked tenure waited cycle s =
      s.modArbiter n (Arbiter.decide n requests blocked tenure waited) := if_neg (by omega)

/-- The decision of a fabric port's arbiter is the port's. -/
theorem arbiterDecisionEff_port {p : Nat} (requests blocked : BitVec 8) (tenure : Nat) (waited : List Nat) (cycle : Nat)
    (s : State) (hp : p < 9) : arbiterDecisionEff (556 + p) requests blocked tenure waited cycle s =
      s.egress p requests blocked tenure waited cycle := by
  rw [arbiterDecisionEff, if_pos (by omega), Nat.add_sub_cancel_left]

/-- Settles O42, clause by clause: decisions off the ports, of a serving port, the group sent, the grant, the priorities. -/
theorem arbiterGrants : Obligations.ArbiterGrants := by
  refine ⟨?alone, ?port, ?group, ?grants, ?highest⟩
  case alone =>
    intro n rq bl te w k s hn hoff
    rw [exec_arbiterDecision _ _ _ _ _ _ hn, arbiterDecisionEff_off_ports _ _ _ _ _ _ hoff]
  case port =>
    intro p rq bl te w k s hp hports hserves hopen
    have heff := (arbiterDecisionEff_port rq bl te w k s hp).trans (State.egress_of_open rq bl te w k hports hserves hopen)
    refine ⟨_, (exec_arbiterDecision rq bl te w k s (by omega)).trans (congrArg _ heff), ?_, ?_, fun i hi => ?_, rfl, rfl⟩
    · rw [State.modPort_arbiter, State.modArbiter_arbiter_self]
    · rw [State.modPort_port_self (s.modArbiter ..) _ hports, State.modPort_arbiter, State.modArbiter_arbiter_self,
        State.modArbiter_port, Port.afterDecision]
    · rw [State.modPort_port_ne _ _ hi, State.modArbiter_port]
  case group =>
    exact fun p cls => ⟨p.sendGroup_groups_length cls, Port.sendGroup_credits_self, fun _ => p.sendGroup_credits_ne⟩
  case grants =>
    intro n rq bl te w a _ hidle hasks
    exact Arbiter.decide_grants bl te w hidle hasks
  case highest =>
    intro n rq te w a g _ h3 h0 hidle hwaits hholder i hi hasks
    exact Arbiter.decide_highest (isProtected_of_kind h3 h0 0) hidle hwaits hholder (mem_arbiterAsking.2 ⟨hi, hasks⟩)

end Sys2Proof.Machine
end

section
/-! SUPPORT. The statement of BAR0's words: how its address map reads, an arbiter's block, and each function's view of a bank of
the telemetry mirror. -/

namespace Sys2Proof.Machine

/-! ## Accesses of one word (R343) -/

/-- An aligned 4-byte read that no fence holds answers with the word. -/
theorem State.bar0Read_word {s : State} {f o : Nat} (cycle : Nat) (hreach : s.reach f = true) (ho : o % 4 = 0)
    (hheld : o ≠ 0x4408) : s.bar0Read f o 4 cycle = .data (s.bar0Word f o cycle) := by
  have hfree : s.readHeld f o = false := by
    rw [State.readHeld, decide_eq_false (by omega), Bool.false_and]
  simp [State.bar0Read, hreach, ho, hfree]

/-- An aligned 4-byte write into BAR0 is the write of its word. -/
theorem exec_registerWrite_bar0 {s : State} {f o : Nat} (value reassert : Word64) (hf : f < 64) (hreach : s.reach f = true)
    (ho : o % 4 = 0) (hsize : o < 2 ^ 21) : exec (.registerWrite f 0 o 4 value reassert) s =
      .next (bar0Write f o (value.setWidth 32) (reassert.setWidth 32) s) := by
  have hok : (funcOk f &&
      decide (((0 : Nat) = 0 ∨ (0 : Nat) = 4) ∧ o < barSize 0 ∧ ((4 : Nat) = 1 ∨ 4 = 2 ∨ 4 = 4 ∨ 4 = 8))) = true := by
    simpa [funcOk, hf, barSize] using hsize
  have heff : registerWriteEff f 0 o 4 value reassert s = bar0Write f o (value.setWidth 32) (reassert.setWidth 32) s := by
    simp [registerWriteEff, wordWrite, hreach, ho]
  exact (if_pos hok).trans (congrArg _ heff)

/-! ## The address map (R343 to R348, R194) -/

theorem State.bar0Word_identity (s : State) (f cycle : Nat) {o : Nat} (ho : o < 0x1000) :
    s.bar0Word f o cycle = s.identityWord o := if_pos ho

theorem State.bar0Word_stride (s : State) (f cycle : Nat) {o : Nat} (hlo : 0x3000 ≤ o) (hhi : o < 0x4000) :
    s.bar0Word f o cycle = s.strideWord f (o - 0x3000) cycle := by
  rw [State.bar0Word, if_neg (by omega), if_neg (by omega), if_neg (by omega), if_pos hhi]

theorem State.bar0Word_arbiter (s : State) (f cycle : Nat) {n o : Nat} (hn : n < 567) (ho : o < 64) :
    s.bar0Word f (0x14_0000 + 64 * n + o) cycle = if s.arbLive f then (s.arbiter n).word n o else 0 := by
  rw [State.bar0Word, if_neg (by omega), if_neg (by omega), if_neg (by omega), if_neg (by omega), if_neg (by omega),
    if_neg (by omega), if_neg (by omega), if_pos (by omega), show (0x14_0000 + 64 * n + o - 0x14_0000) / 64 = n by omega,
    show (0x14_0000 + 64 * n + o) % 64 = o by omega]

/-- Where a bank of the mirror stands in BAR0. -/
theorem State.bar0Word_bank (s : State) (f cycle : Nat) (b : Bool) {o : Nat} (ho : o < 0x4_0000) :
    s.bar0Word f ((if b then 0x1C_0000 else 0x18_0000) + o) cycle = le (s.bankBytes f b o 4) 0 4 := by
  cases b
  case false =>
    rw [if_neg Bool.false_ne_true, State.bar0Word, if_neg (by omega), if_neg (by omega), if_neg (by omega), if_neg (by omega),
      if_neg (by omega), if_neg (by omega), if_neg (by omega), if_neg (by omega), if_neg (by omega), if_pos (by omega),
      Nat.add_sub_cancel_left]
  case true =>
    rw [if_pos rfl, State.bar0Word, if_neg (by omega), if_neg (by omega), if_neg (by omega), if_neg (by omega),
      if_neg (by omega), if_neg (by omega), if_neg (by omega), if_neg (by omega), if_neg (by omega), if_neg (by omega),
      if_pos (by omega), Nat.add_sub_cancel_left]

/-! ## An arbiter's block (R194) -/

/-- A write into an arbiter's block acts on that arbiter, from the PF of link 0 alone. -/
theorem bar0Write_arbiter (s : State) (f : Nat) (value reassert : Word32) {n o : Nat} (hn : n < 567) (ho : o < 64) :
    bar0Write f (0x14_0000 + 64 * n + o) value reassert s =
      if s.arbLive f then s.modArbiter n (Arbiter.write n o value reassert) else s := by
  rw [bar0Write, if_neg (by omega), if_neg (by omega), if_neg (by omega), if_neg (by omega), if_neg (by omega),
    if_neg (by omega), if_neg (by omega), if_neg (by omega), if_neg (by omega), if_pos (by omega),
    show (0x14_0000 + 64 * n + o - 0x14_0000) / 64 = n by omega, show (0x14_0000 + 64 * n + o) % 64 = o by omega]

/-- No function but the PF of link 0 has the arbiters' range. -/
theorem State.arbLive_of_ne_zero (s : State) {f : Nat} (hf : f ≠ 0) : s.arbLive f = false := by simp [State.arbLive, hf]

/-- The PF of link 0 has the arbiters' range where an access reaches it. -/
theorem State.arbLive_zero {s : State} (hreach : s.reach 0 = true) : s.arbLive 0 = true := by simp [State.arbLive, hreach]

/-- A change of an arbiter leaves which functions an access reaches. -/
@[simp] theorem State.modArbiter_reach (s : State) (n f : Nat) (g : Arbiter → Arbiter) : (s.modArbiter n g).reach f = s.reach f :=
  rfl

theorem State.modArbiter_arbiter_ne (s : State) {n k : Nat} (g : Arbiter → Arbiter) (hk : k ≠ n) :
    (s.modArbiter n g).arbiter k = s.arbiter k := SMap.getD_set_ne _ _ _ hk

/-- The priority word of a written arbiter holds the written bits that software can change. -/
theorem Arbiter.word_write_prio (n : Nat) (value reassert : Word32) (a : Arbiter) :
    (Arbiter.write n 4 value reassert a).word n 4 =
      ((a.prio &&& ~~~arbiterPrioMask n) ||| (value &&& arbiterPrioMask n)).toNat := rfl

/-! ## A function's view of a bank (R348) -/

theorem State.mem_boundContexts {s : State} {f c : Nat} :
    c ∈ s.boundContexts f ↔ ∃ x ∈ s.contexts, x.1 = c ∧ x.2.func = f := by
  simp only [State.boundContexts, List.mem_map, List.mem_filter, decide_eq_true_eq, and_assoc, and_comm (a := _ = c)]

/-- What a function sees of a bank at an offset, in words. -/
theorem State.seesByte_iff {s : State} {f o : Nat} : s.seesByte f o = true ↔
    f = 0 ∨ o < 8 ∨ 0x3_FFF8 ≤ o ∨
      (0x1_0000 ≤ o ∧ o < 0x3_0000 ∧ ∃ x ∈ s.contexts, x.1 = (o - 0x1_0000) / 32 ∧ x.2.func = f) := by
  simp only [State.seesByte, Bool.or_eq_true, Bool.and_eq_true, decide_eq_true_eq, List.contains_iff_mem,
    State.mem_boundContexts, or_assoc, and_assoc]

/-- The parts of a bank that are seen or not end at word boundaries: a word is seen whole or not at all. -/
theorem State.seesByte_word (s : State) (f : Nat) {o i : Nat} (ho : o % 4 = 0) (hi : i < 4) :
    s.seesByte f (o + i) = s.seesByte f o := by
  rw [Bool.eq_iff_iff, State.seesByte_iff, State.seesByte_iff]
  have hends : (o + i < 8 ↔ o < 8) ∧ (0x3_FFF8 ≤ o + i ↔ 0x3_FFF8 ≤ o) ∧ (0x1_0000 ≤ o + i ↔ 0x1_0000 ≤ o) ∧
      (o + i < 0x3_0000 ↔ o < 0x3_0000) := by omega
  obtain ⟨hstamp, hlast, hfrom, hto⟩ := hends
  rw [hstamp, hlast, hfrom, hto]
  refine or_congr_right (or_congr_right (or_congr_right (and_congr_right fun hcontexts => ?_)))
  rw [show (o + i - 0x1_0000) / 32 = (o - 0x1_0000) / 32 by omega]

theorem Snapshot.length_read (x : Snapshot) (fresh : FlashChannel) (o n : Nat) : (x.read fresh o n).length = n := by
  rw [Snapshot.read, List.length_map, List.length_range]

/-- A word that a function sees is the bank's own. -/
theorem State.bankBytes_of_seen {s : State} {f o : Nat} (b : Bool) (ho : o % 4 = 0) (hsees : s.seesByte f o = true) :
    s.bankBytes f b o 4 = (s.bank b).read s.flash.fresh o 4 := by
  refine List.ext_getElem (by simp [State.bankBytes]) fun i _ hi => ?_
  rw [Snapshot.length_read] at hi
  simp [State.bankBytes, s.seesByte_word f ho hi, hsees]

/-- A word that a function does not see reads as zeros. -/
theorem State.bankBytes_of_unseen {s : State} {f o : Nat} (b : Bool) (ho : o % 4 = 0) (hsees : s.seesByte f o = false) :
    s.bankBytes f b o 4 = zeros 4 := by
  have hlength : (s.bankBytes f b o 4).length = 4 := by simp [State.bankBytes, Snapshot.length_read]
  refine List.ext_getElem (by rw [hlength]; rfl) fun i hi _ => ?_
  rw [hlength] at hi
  rw [show (zeros 4)[i] = 0 from List.getElem_replicate ..]
  simp [State.bankBytes, s.seesByte_word f ho hi, hsees]

/-- An aligned word of a bank reads as the bank's where the function sees it, else as zero. -/
theorem State.bar0Read_bank {s : State} {f o : Nat} (b : Bool) (cycle : Nat) (hreach : s.reach f = true) (ho : o % 4 = 0)
    (hbank : o < 0x4_0000) : s.bar0Read f ((if b then 0x1C_0000 else 0x18_0000) + o) 4 cycle =
      .data (if s.seesByte f o then le ((s.bank b).read s.flash.fresh o 4) 0 4 else 0) := by
  have hat : ((if b then 0x1C_0000 else 0x18_0000) + o) % 4 = 0 ∧ (if b then 0x1C_0000 else 0x18_0000) + o ≠ 0x4408 := by
    split <;> omega
  rw [State.bar0Read_word cycle hreach hat.1 hat.2, s.bar0Word_bank f cycle b hbank]
  cases hsees : s.seesByte f o
  case false => rw [State.bankBytes_of_unseen b ho hsees]; rfl
  case true => rw [State.bankBytes_of_seen b ho hsees, if_pos rfl]

/-! ## BAR2_ERR (R357, R358) -/

/-- A read of BAR2_ERR waits while a fence of its function does. -/
theorem State.bar0Read_bar2Err {s : State} {f : Nat} (cycle : Nat) (hreach : s.reach f = true) :
    s.bar0Read f 0x4408 4 cycle =
      if (s.func f).fenceTags.isEmpty then .data (s.func f).bar2Err.toNat else .held := by
  have hword : s.bar0Word f 0x4408 cycle = (s.func f).bar2Err.toNat := rfl
  cases hfence : (s.func f).fenceTags.isEmpty <;> simp [State.bar0Read, State.readHeld, hreach, hfence, hword]

/-- Settles O21, clause by clause: the identity page, an arbiter's priorities and its block elsewhere, the stride page, a bank as
link 0's PF and as another function sees it, BAR2_ERR. -/
theorem bar0Read : Obligations.Bar0Read := by
  refine ⟨?identity, ?priorities, ?elsewhere, ?stride, ?whole, ?unseen, ?seen, ?bar2Err⟩
  case identity =>
    intro s f g o c d ho halign hf hg
    rw [State.bar0Read_word c hf halign (by omega), State.bar0Read_word d hg halign (by omega),
      s.bar0Word_identity f c ho, s.bar0Word_identity g d ho, State.bar0Read_word c hf rfl (by omega)]
    exact ⟨rfl, rfl⟩
  case priorities =>
    intro s n v re c hn hreach
    have hwrite := bar0Write_arbiter s 0 (v.setWidth 32) (re.setWidth 32) hn (o := 4) (by omega)
    rw [State.arbLive_zero hreach, if_pos rfl] at hwrite
    refine ⟨_, (exec_registerWrite_bar0 v re (by omega) hreach (by omega) (by omega)).trans (congrArg _ hwrite), ?_,
      fun k hk => s.modArbiter_arbiter_ne _ hk⟩
    rw [State.bar0Read_word c (by rw [State.modArbiter_reach, hreach]) (by omega) (by omega),
      State.bar0Word_arbiter _ 0 c hn (by omega), State.arbLive_zero (by rw [State.modArbiter_reach, hreach]), if_pos rfl,
      State.modArbiter_arbiter_self, Arbiter.word_write_prio]
  case elsewhere =>
    intro s f n o v re c hf h0 hn ho halign hreach
    rw [exec_registerWrite_bar0 v re hf hreach (by omega) (by omega), bar0Write_arbiter s f _ _ hn ho,
      State.bar0Read_word c hreach (by omega) (by omega), s.bar0Word_arbiter f c hn ho, s.arbLive_of_ne_zero h0]
    exact ⟨rfl, rfl⟩
  case stride =>
    intro s f o c hlo hhi halign hreach hjoined
    rw [State.bar0Read_word c hreach halign (by omega), s.bar0Word_stride f c hlo hhi, State.strideWord, hjoined]
    rfl
  case whole =>
    intro s b o c ho halign hreach
    rw [State.bar0Read_bank b c hreach halign (by omega), if_pos (State.seesByte_iff.2 (.inl rfl))]
  case unseen =>
    intro s f b o c h0 halign hlo hhi hreach hforeign
    rw [State.bar0Read_bank b c hreach halign (by omega), if_neg]
    rw [State.seesByte_iff]
    rintro (hf | hstamp | hlast | ⟨hfrom, hto, x, hx, hid, hfunc⟩)
    · exact h0 hf
    · omega
    · omega
    · rcases hforeign with h | h | h
      · omega
      · omega
      · exact h x hx hid hfunc
  case seen =>
    intro s f b o c halign ho hreach hsees
    rw [State.bar0Read_bank b c hreach halign (by omega), if_pos (State.seesByte_iff.2 (.inr hsees))]
  case bar2Err => exact fun s f c hreach => State.bar0Read_bar2Err c hreach

end Sys2Proof.Machine
end

section
/-! SUPPORT. The statement of residency: its requests on their accepted paths, the selection of moves, and a move's copy. -/

namespace Sys2Proof.Machine

/-! ## What a residency request's checks read is as it was before the request left its mailbox -/

@[simp] theorem State.popRequest_object? (s : State) (f id : Nat) : (s.popRequest f).object? id = s.object? id := rfl

@[simp] theorem State.popRequest_acceptedResidency (s : State) (f id : Nat) (r : Residency) :
    (s.popRequest f).acceptedResidency id r = s.acceptedResidency id r := rfl

@[simp] theorem State.popRequest_ownClass (s : State) (f ctx k : Nat) : (s.popRequest f).ownClass ctx k = s.ownClass ctx k := rfl

@[simp] theorem State.popRequest_quotas (s : State) (f ctx id quota : Nat) :
    (s.popRequest f).quotas ctx id quota = s.quotas ctx id quota := rfl

@[simp] theorem State.popRequest_pinnedRows (s : State) (f id : Nat) (r : Residency) :
    (s.popRequest f).pinnedRows id r = s.pinnedRows id r := rfl

@[simp] theorem State.popRequest_objectCopy (s : State) (f id : Nat) : (s.popRequest f).objectCopy id = s.objectCopy id := rfl

@[simp] theorem State.popRequest_pinOf (s : State) (f id : Nat) : (s.popRequest f).pinOf id = s.pinOf id := rfl

/-! ## Residency requests (R208, R210, R211, R212) -/

theorem bit01_le_one (b : Bool) : bit01 b ≤ 1 := by cases b <;> decide

theorem bit01_eq_one_iff (b : Bool) : bit01 b = 1 ↔ b = true := by cases b <;> decide

/-- A RESIDENCY_SET of an object of its context, in range and with room for its quota and its pins, is accepted. -/
theorem residencySetEff_accepts {f : Nat} {s : State} {q : Request} {r0 r : Residency} (hq : s.headRequest f 0x0220 = some q)
    (hobject : s.object? (q.field 0 4) = some (q.context, r0)) (hr : r = s.acceptedResidency (q.field 0 4) r0)
    (hkind : byteAt q.payload 4 = bit01 (SMap.has s.tables (q.field 0 4))) (hmask : byteAt q.payload 5 ≠ 0)
    (hquota : le q.payload 8 8 % 2048 = 0) (hlow : 16 ≤ le q.payload 16 2) (hhigh : le q.payload 16 2 ≤ 4096)
    (hclass : le q.payload 6 2 ≠ 0xFFFF → s.ownClass q.context (le q.payload 6 2) = true)
    (hroom : s.quotas q.context (q.field 0 4) (le q.payload 8 8) ≤ (s.acceptedReservation q.context).hbm)
    (hpins : (s.pinnedRows (q.field 0 4) r).length * s.objectCopy (q.field 0 4) ≤ le q.payload 8 8) :
    residencySetEff f s = settled f
      ((s.popRequest f).schedule (.residency (q.field 0 4)
        { r with
          mask := BitVec.ofNat 8 (byteAt q.payload 5), cls := le q.payload 6 2, quota := le q.payload 8 8,
          period := le q.payload 16 2, moves := le q.payload 18 2 })) q stOk (s.stride + 1) [] := by
  refine State.serve_accepts hq ?_
  simp only [Request.field] at *
  simp +contextual [hobject, ← hr, hkind, Nat.not_lt.2 (bit01_le_one _), bit01_eq_one_iff, hmask, hquota, Nat.not_lt.2 hlow,
    Nat.not_lt.2 hhigh, hclass, Nat.not_lt.2 hroom, Nat.not_lt.2 hpins]

/-- A RESIDENCY_PIN of live keys of an object of its context, whose pins fit in its quota, is accepted. -/
theorem residencyPinEff_pins {f : Nat} {s : State} {q : Request} {r0 r : Residency} {keys : List Nat}
    (hq : s.headRequest f 0x0221 = some q) (hobject : s.object? (q.field 0 4) = some (q.context, r0))
    (hkeys : keys = keysAt q.payload 16 (le q.payload 8 4))
    (hr : r = { s.acceptedResidency (q.field 0 4) r0 with
      pins := ((s.acceptedResidency (q.field 0 4) r0).pins ++ keys.filterMap (s.pinOf (q.field 0 4))).eraseDups })
    (hop : byteAt q.payload 4 = 0) (hsome : 0 < le q.payload 8 4) (hfew : le q.payload 8 4 ≤ 4096)
    (hlength : q.payload.length = 16 + 8 * le q.payload 8 4) (hlive : ∀ k ∈ keys, (s.pinOf (q.field 0 4) k).isSome = true)
    (hroom : (s.pinnedRows (q.field 0 4) r).length * s.objectCopy (q.field 0 4) ≤
      (s.acceptedResidency (q.field 0 4) r0).quota) :
    residencyPinEff f s =
      settled f ((s.popRequest f).schedule (.residency (q.field 0 4) r)) q stOk (s.stride + 1) [] := by
  refine State.serve_accepts hq ?_
  have hmade : ((keys.map (s.pinOf (q.field 0 4))).any fun x => x.isNone) = false := by
    simpa [List.any_eq_false, Option.isSome_iff_ne_none] using hlive
  simp only [Request.field] at *
  simp only [State.popRequest_object?, State.popRequest_acceptedResidency, State.popRequest_pinOf, State.popRequest_pinnedRows,
    State.popRequest_objectCopy, hobject, ← hkeys, ← hr, hmade]
  simp [hop, Nat.pos_iff_ne_zero.1 hsome, Nat.not_lt.2 hfew, hlength, Nat.not_lt.2 hroom]

/-- A RESIDENCY_PIN that takes pins away is accepted. -/
theorem residencyPinEff_unpins {f : Nat} {s : State} {q : Request} {r0 r : Residency} (hq : s.headRequest f 0x0221 = some q)
    (hobject : s.object? (q.field 0 4) = some (q.context, r0)) (hr : r = s.acceptedResidency (q.field 0 4) r0)
    (hop : byteAt q.payload 4 = 1) (hsome : 0 < le q.payload 8 4) (hfew : le q.payload 8 4 ≤ 4096)
    (hlength : q.payload.length = 16 + 8 * le q.payload 8 4) :
    residencyPinEff f s = settled f
      ((s.popRequest f).schedule (.residency (q.field 0 4)
        { r with pins := r.pins.filter fun x => !(keysAt q.payload 16 (le q.payload 8 4)).contains x.key }))
      q stOk (s.stride + 1) [] := by
  refine State.serve_accepts hq ?_
  simp only [Request.field] at *
  simp [hobject, ← hr, hop, Nat.pos_iff_ne_zero.1 hsome, Nat.not_lt.2 hfew, hlength]

/-- A RESIDENCY_REPLICATE of an index of its context replaces the index's list. -/
theorem residencyReplicateEff_replaces {f : Nat} {s : State} {q : Request} {x : Index} (hq : s.headRequest f 0x0222 = some q)
    (hx : SMap.find? s.indexes (q.field 0 4) = some x) (howner : x.context = q.context) (hfew : q.field 4 4 ≤ 65536)
    (hlength : q.payload.length = 8 + 8 * q.field 4 4) :
    residencyReplicateEff f s = settled f
      ((s.popRequest f).modIndex (q.field 0 4) fun x => { x with replicaList := keysAt q.payload 8 (q.field 4 4) })
      q stOk unstamped [] := by
  refine State.serve_settled hq ?_
  simp only [Request.field] at *
  simp [hx, howner, Nat.not_lt.2 hfew, hlength, report]

/-! ## The selection of moves (R208, R209, R211) -/

/-- A selection is made in the commit window of a multiple of the period. -/
theorem migrationSelectionEff_selects {id c : Nat} {s : State} {r : Residency} (hobject : s.object? id = some (c, r))
    (hrunning : s.running = true) (hwindow : s.clk.window = 0) (hperiod : 0 < r.period) (hdue : s.stride % r.period = 0) :
    migrationSelectionEff id s =
      ((s.modResidency id fun r => r.selectMoves (s.objectCopy id) (s.dirtyRows id) (s.pinnedRows id r) (s.deadRows id)).count
        fun c => { c with residency := c.residency + r.chosen.length }) := by
  simp [migrationSelectionEff, hobject, hrunning, hwindow, Nat.max_eq_left (Nat.succ_le_of_lt hperiod), hdue]

/-- What a lower quota asks for adds to the demotions. -/
theorem Residency.demoted_subset_shrink (size n : Nat) (free : Int) (cold : List Nat) (r : Residency) :
    r.demoted ⊆ (Residency.shrink size n free cold r).1.demoted := by
  fun_induction Residency.shrink size n free cold r with
  | case1 => exact List.Subset.refl _
  | case2 => exact List.Subset.refl _
  | case3 n free y cold r hfree ih => exact List.Subset.trans (List.subset_append_left ..) ih
  | case4 => exact List.Subset.refl _

/-- The choice of moves adds to the demotions. -/
theorem Residency.demoted_subset_choose (size : Nat) (pinned : List Nat) (moves : Nat) (free : Int) (cold hot : List Nat)
    (r : Residency) : r.demoted ⊆ (Residency.choose size pinned moves free cold hot r).demoted := by
  fun_induction Residency.choose size pinned moves free cold hot r with
  | case1 => exact List.Subset.refl _
  | case2 => exact List.Subset.refl _
  | case3 free cold r moves x hot hfits ih => exact ih
  | case4 => exact List.Subset.refl _
  | case5 => exact List.Subset.refl _
  | case6 free r moves x hot hfull y cold hhotter ih => exact List.Subset.trans (List.subset_append_left ..) ih

/-- A selection demotes the copies of unpinned tombstoned rows. -/
theorem Residency.mem_demoted_selectMoves {r : Residency} {size row : Nat} {dirty pinned dead : List Nat}
    (hcopy : row ∈ r.hot.map (·.row)) (hdead : row ∈ dead) (hunpinned : row ∉ pinned) :
    row ∈ (r.selectMoves size dirty pinned dead).demoted := by
  refine Residency.demoted_subset_choose _ _ _ _ _ _ _ (Residency.demoted_subset_shrink _ _ _ _ _ ?_)
  refine List.mem_append_right _ ?_
  change row ∈ (List.partition _ _).1
  rw [List.partition_eq_filter_filter]
  exact List.mem_filter.2 ⟨hcopy, by simp [hdead, hunpinned]⟩

/-! ## What a move's read and its admission leave of the objects and of HBM (R180, R188, R227) -/

/-- A residency that is changed is that of the object. -/
theorem State.modResidency_object? {s : State} {id c : Nat} {r : Residency} (hobject : s.object? id = some (c, r))
    (g : Residency → Residency) : (s.modResidency id g).object? id = some (c, g r) := by
  unfold State.object? at hobject
  split at hobject
  case h_1 x hx =>
    obtain ⟨rfl, rfl⟩ : x.context = c ∧ x.resid = r := by simpa using hobject
    simp [State.modResidency, SMap.has, hx, State.object?, State.modIndex, SMap.find?_update_self]
  case h_2 hx =>
    obtain ⟨x, htable, rfl, rfl⟩ : ∃ x, SMap.find? s.tables id = some x ∧ x.context = c ∧ x.resid = r := by
      simpa using hobject
    simp [State.modResidency, SMap.has, hx, State.object?, State.modTable, SMap.find?_update_self, htable]

@[simp] theorem State.admitTo_object? (s : State) (k id : Nat) : (s.admitTo k).object? id = s.object? id := rfl

@[simp] theorem State.countStops_object? (s : State) (n id : Nat) : (s.countStops n).object? id = s.object? id := by
  obtain ⟨tel, h⟩ := s.countStops_eq n
  rw [h]
  rfl

@[simp] theorem State.countRange_object? (s : State) (address n id : Nat) :
    (s.countRange address n).object? id = s.object? id :=
  foldl_keeps (f := fun s b => s.countRead (64 * b) (s.blockRead b)) (State.object? · id) (fun _ _ => rfl) _ s

@[simp] theorem State.endDieWait_object? (s : State) (address n id : Nat) :
    (s.endDieWait address n).object? id = s.object? id := by
  unfold State.endDieWait
  split
  · rfl
  · exact (apply_ite (State.object? · id) ..).trans (ite_self _)

/-- The read of a move's source counts, and leaves the objects and HBM. -/
theorem State.moveRead_leaves {s t : State} {id row : Nat} (h : s.moveRead id row = (true, t)) (i : Nat) :
    t.object? i = s.object? i ∧ t.mem = s.mem := by
  unfold State.moveRead at h
  split at h
  · obtain rfl : s = t := by simpa using h
    exact ⟨rfl, rfl⟩
  · split at h
    · simp at h
    · obtain ⟨-, rfl⟩ := Prod.mk.inj h
      exact ⟨by simp, mem_of_nearMemory (by simp)⟩

/-! ## A move's copy (R30, R209, R227) -/

/-- The state in which a move of a row to address `a` of stack `k` is admitted into class `cls` and runs, or is void. -/
def State.beginMove (s : State) (id row cls k a : Nat) (void : Bool) : State :=
  ((s.modResidency id fun r => { r with chosen := r.chosen.filter (· ≠ row) }).admitTo cls).modResidency id fun r =>
    { r with turn := k,
             running := r.running ++ [{ row := row, address := a, stack := k, stride := s.stride, void := void }] }

theorem State.beginMove_object? {s : State} {id row c k a : Nat} {r : Residency} (hobject : s.object? id = some (c, r))
    (cls : Nat) (void : Bool) :
    (s.beginMove id row cls k a void).object? id = some (c, { r with
      chosen := r.chosen.filter (· ≠ row), turn := k,
      running := r.running ++ [{ row := row, address := a, stack := k, stride := s.stride, void := void }] }) :=
  State.modResidency_object? ((State.admitTo_object? ..).trans (State.modResidency_object? hobject _)) _

theorem State.beginMove_mem (s : State) (id row cls k a : Nat) (void : Bool) :
    (s.beginMove id row cls k a void).mem = s.mem := by
  refine (mem_of_nearMemory (State.modResidency_nearMemory ..)).trans ?_
  exact mem_of_nearMemory (s.modResidency_nearMemory ..)

section Copy

variable {s0 s : State} {id row c : Nat} {r : Residency} (hobject : s0.object? id = some (c, r))

include hobject

/-- A move whose source a lock or a burst holds waits. -/
theorem migrationCopyEff_waits (hread : s0.moveRead id row = (false, s)) (stop : Bool) :
    migrationCopyEff id row stop s0 = s := by
  simp only [migrationCopyEff, hobject, hread]

variable (hread : s0.moveRead id row = (true, s)) (hworking : s.working = true) (hmay : s.mayMove id row r = true)
  (hlive : s.contextLive c = true) (hroom : s.classRoom r.cls = true) (hclass : (s.gaitNow.1.cls? r.cls).isSome = true)

include hread hworking hmay hlive hroom hclass

/-- A move that may be made, with a source and a place, is admitted into the migration class; the engine writes its copy, unless
the end of the stride stops it. -/
theorem migrationCopyEff_admits {b : Bytes} {poisoned : Bool} {a k : Nat} (hsource : s.moveSource id row = some (b, poisoned))
    (hstack : nextStack r.mask.toNat s.mountedSet.hbmStacks.toNat r.turn (s.otherStacks id row r) = some k)
    (hplace : s.placeOn c b.length k = some a) (stop : Bool) :
    migrationCopyEff id row stop s0 =
      if stop then (s.beginMove id row r.cls k a true).countStops 1
      else (s.beginMove id row r.cls k a false).issueRowwrite c a b poisoned (some (id, row)) := by
  cases stop <;>
    simp [migrationCopyEff, hobject, hread, hworking, hmay, hlive, hroom, Option.isNone_eq_false_iff.2 hclass, hsource, hstack,
      hplace, State.beginMove]

/-- A move without a source is dropped and counted. -/
theorem migrationCopyEff_drops (hsource : s.moveSource id row = none) (stop : Bool) :
    migrationCopyEff id row stop s0 = (s.modResidency id fun r => { r with chosen := r.chosen.filter (· ≠ row) }).count
      fun c => { c with residency := c.residency + 1 } := by
  simp [migrationCopyEff, hobject, hread, hworking, hmay, hlive, hroom, Option.isNone_eq_false_iff.2 hclass, hsource]

end Copy

/-- Settles O26: the requests, then the selection of moves, then a move's copy. -/
theorem residencyServed : Obligations.ResidencyServed := by
  refine ⟨?set, ?pin, ?unpin, ?replicate, ?selection, ?tombstoned, ?copy, ?dropped, ?waits⟩
  case set =>
    intro f s q r0 hf hq hobject hkind hmask hquota hlow hhigh hclass hroom hpins
    exact guarded_funcOk hf (residencySetEff_accepts hq hobject rfl hkind hmask hquota hlow hhigh hclass hroom hpins)
  case pin =>
    intro f s q r0 hf hq hobject hop hsome hfew hlength hlive hroom
    exact guarded_funcOk hf (residencyPinEff_pins hq hobject rfl rfl hop hsome hfew hlength hlive hroom)
  case unpin =>
    intro f s q r0 hf hq hobject hop hsome hfew hlength
    exact guarded_funcOk hf (residencyPinEff_unpins hq hobject rfl hop hsome hfew hlength)
  case replicate =>
    intro f s q x hf hq hx howner hfew hlength
    exact guarded_funcOk hf (residencyReplicateEff_replaces hq hx howner hfew hlength)
  case selection =>
    intro id s c r hid hobject hrunning hwindow _ hperiod hdue
    exact guarded_decide hid (migrationSelectionEff_selects hobject hrunning hwindow hperiod hdue)
  case tombstoned =>
    intro r size dirty pinned dead row hcopy hdead hunpinned
    exact Residency.mem_demoted_selectMoves hcopy hdead hunpinned
  case copy =>
    intro id row s0 s c r b poisoned a k hid hobject hread hworking hmay hlive hroom hclass hsource hstack hplace
    have hadmits := migrationCopyEff_admits hobject hread hworking hmay hlive hroom hclass hsource hstack hplace
    have hstops : migrationCopyEff id row true s0 = (s.beginMove id row r.cls k a true).countStops 1 := hadmits true
    obtain ⟨hobjects, hmem⟩ := State.moveRead_leaves hread id
    have hvoid := State.beginMove_object? (row := row) (k := k) (a := a) (hobjects.trans hobject) r.cls true
    refine ⟨guarded_decide hid (hadmits false), _, _, guarded_decide hid hstops,
      (State.countStops_object? ..).trans hvoid, rfl, rfl, rfl, ?_⟩
    calc ((s.beginMove id row r.cls k a true).countStops 1).mem
      _ = (s.beginMove id row r.cls k a true).mem := State.countStops_mem ..
      _ = s.mem := State.beginMove_mem ..
      _ = s0.mem := hmem
  case dropped =>
    intro id row s0 s c r stop hid hobject hread hworking hmay hlive hroom hclass hsource
    exact guarded_decide hid (migrationCopyEff_drops hobject hread hworking hmay hlive hroom hclass hsource stop)
  case waits =>
    intro id row s s' c r stop hid hobject hread
    exact guarded_decide hid (migrationCopyEff_waits hobject hread stop)

end Sys2Proof.Machine
end

section
/-! SUPPORT. The statement of how steps close: the members' digests, the owners' notices, and the repair of a row that one member
poisoned. -/

namespace Sys2Proof.Machine

/-! ## What serving held lookups and issuing unit commands leave of the tables (R171, R235) -/

/-- The steps in flight and the dirty copies of each table. -/
def State.training (s : State) (id : Nat) : Option (List Step × List TableRow) :=
  (SMap.find? s.tables id).map fun x => (x.steps, x.dirty)

theorem State.training_eq_some {s : State} {id : Nat} {l : List Step} {d : List TableRow} (h : s.training id = some (l, d)) :
    ∃ x, SMap.find? s.tables id = some x ∧ x.steps = l ∧ x.dirty = d := by
  simpa only [State.training, Option.map_eq_some_iff, Prod.mk.injEq] using h

theorem training_of_tables {s t : State} (h : t.tables = s.tables) : t.training = s.training := by
  funext id
  rw [State.training, h, State.training]

theorem foldl_training {α : Type} {f : State → α → State} (h : ∀ s a, (f s a).training = s.training) (l : List α)
    (s : State) : (l.foldl f s).training = s.training := foldl_keeps State.training h l s

@[simp] theorem ite_training {c : Prop} [Decidable c] (s t : State) :
    (if c then s else t).training = if c then s.training else t.training := apply_ite State.training c s t

/-- A change of a table that leaves its steps and dirty copies. -/
theorem State.modTable_training (s : State) (id : Nat) {g : Table → Table} (hsteps : ∀ x, (g x).steps = x.steps)
    (hdirty : ∀ x, (g x).dirty = x.dirty) : (s.modTable id g).training = s.training := by
  funext j
  by_cases h : j = id
  · subst h
    simp [State.training, State.modTable_find?, Function.comp_def, hsteps, hdirty]
  · simp only [State.training, State.modTable, SMap.find?_update_ne _ g h]

@[simp] theorem State.modResidency_training (s : State) (id : Nat) (g : Residency → Residency) :
    (s.modResidency id g).training = s.training := by
  unfold State.modResidency
  split
  · rfl
  · exact s.modTable_training id (fun _ => rfl) fun _ => rfl

/-! ### Lookups served (R237, R238) -/

@[simp] theorem State.touchRows_training (s : State) (object : Nat) (rows : List Nat) :
    (s.touchRows object rows).training = s.training := by
  refine foldl_training (fun t row => ?_) rows s
  split
  · rfl
  · simp only []
    split
    · exact (training_of_tables (State.count_tables ..)).trans (t.modResidency_training ..)
    · exact t.modResidency_training ..

theorem State.countRange_training (s : State) (address n : Nat) : (s.countRange address n).training = s.training :=
  foldl_training (f := fun s b => s.countRead (64 * b) (s.blockRead b)) (fun _ _ => rfl) _ s

theorem State.endDieWait_training (s : State) (address n : Nat) : (s.endDieWait address n).training = s.training := by
  unfold State.endDieWait
  split
  · rfl
  · simp only [ite_training]
    split <;> rfl

theorem State.countDieWait_training (s : State) (address n : Nat) : (s.countDieWait address n).training = s.training := by
  unfold State.countDieWait
  split <;> rfl

@[simp] theorem State.serveLookup_training (s : State) (x : Table) (m : Bytes) (poisoned : List Nat) :
    (s.serveLookup x m poisoned).training = s.training := by
  unfold State.serveLookup
  refine (training_of_tables (State.sendWith_tables ..)).trans ((State.touchRows_training ..).trans ?_)
  exact foldl_training (fun t c => (State.endDieWait_training ..).trans (t.countRange_training ..)) _ s

theorem State.serveOrHold_training (id : Nat) (s : State) (w : Bytes × List Nat) :
    (s.serveOrHold id w).training = s.training := by
  unfold State.serveOrHold
  split
  · rfl
  · simp only []
    split
    · exact s.serveLookup_training ..
    · exact (State.modTable_training _ id (by simp) (by simp)).trans
        (foldl_training (fun t a => t.countDieWait_training a _) _ s)

/-- Sub-requests that the apply barrier held are served without touching steps or rows. -/
@[simp] theorem State.passBarrier_training (s : State) (id : Nat) : (s.passBarrier id).training = s.training := by
  unfold State.passBarrier
  split
  · rfl
  · split
    · rfl
    · refine (foldl_training (State.serveOrHold_training id) _ _).trans ?_
      exact s.modTable_training id (fun _ => rfl) fun _ => rfl

/-! ### Unit commands (R178, R230): of a table they change at most the residency, where a move is void -/

@[simp] theorem State.modCommand_training (s : State) (u : Nat) (g : UnitCommand → UnitCommand) :
    (s.modCommand u g).training = s.training := rfl

@[simp] theorem State.dropCommand_training (s : State) (u : Nat) : (s.dropCommand u).training = s.training := rfl

@[simp] theorem State.refusedCommand_training (s : State) (u : Nat) : (s.refusedCommand u).training = s.training := rfl

@[simp] theorem State.requestBursts_training (s : State) (stack : Nat) (l : List Burst) :
    (s.requestBursts stack l).training = s.training := rfl

@[simp] theorem State.answer_training (s : State) (tag : Nat) (b : Bytes) : (s.answer tag b).training = s.training := rfl

@[simp] theorem State.enterPhase_training (s : State) (u phase : Nat) (l : List Burst) :
    (s.enterPhase u phase l).training = s.training := rfl

@[simp] theorem State.endCommand_training (s : State) (u : Nat) (c : UnitCommand) (completion : Bytes) :
    (s.endCommand u c completion).training = s.training := by
  unfold State.endCommand
  simp only []
  split
  · rfl
  · split
    · rw [ite_training, State.voidMove, State.modResidency_training, ite_self]
      rfl
    · rfl

@[simp] theorem State.writePhase_training (s : State) (u : Nat) (c : UnitCommand) (e : RowEnd) :
    (s.writePhase u c e).training = s.training := by
  unfold State.writePhase
  split <;> simp

@[simp] theorem State.endLoad_training (s : State) (c : UnitCommand) : (s.endLoad c).training = s.training := by
  unfold State.endLoad
  exact foldl_training (fun _ _ => by rfl) _ s

@[simp] theorem State.nextPhase_training (s : State) (u : Nat) (c : UnitCommand) :
    (s.nextPhase u c).training = s.training := by
  unfold State.nextPhase
  simp

@[simp] theorem State.beginCommand_training (s : State) (u : Nat) (c : UnitCommand) :
    (s.beginCommand u c).training = s.training := by
  have hloads : ∀ (l : List Nat) (g : UnitCommand → UnitCommand),
      (l.foldl (fun s v => s.modCommand v g) s).training = s.training := fun l g => foldl_training (fun _ _ => by rfl) l s
  unfold State.beginCommand
  simp [hloads]

theorem State.beginHead_training (s : State) (p : Nat × NmuUnit) : (s.beginHead p).training = s.training := by
  unfold State.beginHead
  split
  · rw [ite_training, State.beginCommand_training, ite_self]
  · rfl

theorem State.runStack_training (s : State) (stack : Nat) : (s.runStack stack).training = s.training :=
  foldl_training (fun t _ => foldl_training State.beginHead_training _ t) _ s

/-- A row image that goes to its unit changes neither steps nor dirty copies: those are the caller's to change. -/
@[simp] theorem State.issueRowwrite_training (s : State) (ctx address : Nat) (image : Bytes) (poisoned : Bool)
    (move : Option (Nat × Nat)) : (s.issueRowwrite ctx address image poisoned move).training = s.training := by
  unfold State.issueRowwrite State.issueRow State.receive
  simp only []
  split
  · exact (State.runStack_training ..).trans (foldl_training (f := fun s u => s.modUnit u _) (fun _ _ => rfl) _ s)
  · rfl

/-! ## A step of a table changed -/

theorem State.modStep_find? {s : State} {id : Nat} {x : Table} (hx : SMap.find? s.tables id = some x) (n : Nat)
    (g : Step → Step) : SMap.find? (s.modStep id n g).tables id =
      some { x with steps := x.steps.map fun u => if u.num = n then g u else u } := by
  rw [State.modStep, State.modTable_find?, hx, Option.map_some]

/-- What a change makes of a step holds of the steps with its number. -/
theorem holds_of_mem_modStep {P : Step → Prop} {g : Step → Step} (hg : ∀ u, P (g u))
    {l : List Step} {n : Nat} : ∀ u ∈ l.map (fun u => if u.num = n then g u else u), u.num = n → P u := by
  intro u hu hn
  obtain ⟨v, -, rfl⟩ := List.mem_map.1 hu
  by_cases hv : v.num = n
  · rw [if_pos hv]
    exact hg v
  · rw [if_neg hv] at hn
    exact absurd hn hv

/-! ## Digests (R220, R249) -/

/-- Notices are messages: they leave the tables, the membership and HBM. -/
theorem State.sendNotices_frame (s : State) (table num : Nat) (single : Bool) :
    (s.sendNotices table num single).tables = s.tables ∧ (s.sendNotices table num single).memb = s.memb ∧
      (s.sendNotices table num single).mem = s.mem := by
  unfold State.sendNotices
  split
  · exact ⟨rfl, rfl, rfl⟩
  · split
    · exact ⟨rfl, rfl, rfl⟩
    · split
      · exact ⟨foldl_keeps State.tables (by simp) _ s, foldl_keeps State.memb (by simp) _ s,
          foldl_keeps State.mem (by simp) _ s⟩
      · exact ⟨rfl, rfl, rfl⟩

/-- A step whose digests have been compared: where they differ a divergence is raised, and the notices go out. -/
def State.compared (s : State) (table num : Nat) (agree : Bool) : State :=
  (if agree = true then s else s.diverges).sendNotices table num false

theorem State.compared_tables (s : State) (table num : Nat) (agree : Bool) :
    (s.compared table num agree).tables = s.tables := by
  obtain ⟨htables, -, -⟩ := State.sendNotices_frame (if agree = true then s else s.diverges) table num false
  rw [State.compared, htables]
  cases agree <;> rfl

theorem State.compared_mem (s : State) (table num : Nat) (agree : Bool) : (s.compared table num agree).mem = s.mem := by
  obtain ⟨-, -, hmem⟩ := State.sendNotices_frame (if agree = true then s else s.diverges) table num false
  rw [State.compared, hmem]
  cases agree <;> rfl

theorem State.compared_divergence (s : State) (table num : Nat) (agree : Bool) :
    (s.compared table num agree).memb.divergence = (s.memb.divergence || !agree) := by
  obtain ⟨-, hmemb, -⟩ := State.sendNotices_frame (if agree = true then s else s.diverges) table num false
  rw [State.compared, hmemb]
  cases agree <;> simp [State.diverges]

section Digest

variable {id n d : Nat} {l : List Nat} {s : State} {x : Table} {y : Step}

/-- STEP_DIGEST_RECEIVE of a list that covers the member's own poisoned rows: the step is exchanged, the digest may be sent
again over the union, and the member's own digest over the union is compared with what came. -/
theorem stepDigestReceiveEff_compares (hx : SMap.find? s.tables id = some x) (hy : x.step? n = some y)
    (hrunning : s.running = true) (hstage : y.stage = 3) (hfirst : y.exchanged = false) (hstride : s.stride = y.admitAt + 3)
    (hcover : ∀ r ∈ y.poisoned, r ∈ l) :
    ∃ t : State, t.tables = (s.modStep id n fun u => { u with
        peerPoisoned := if u.peerPoisoned.isEmpty then l else u.peerPoisoned, exchanged := true }).tables ∧
      t.memb = s.memb ∧ t.mem = s.mem ∧
      stepDigestReceiveEff id n d l s = t.compared id n (decide (x.stepDigest y (dedupNat (y.poisoned ++ l)) = d)) := by
  have hknown : (y.poisoned.all l.contains) = true := by simpa using hcover
  have hgo : ¬((!s.running) = true ∨ y.stage ≠ 3 ∨ y.exchanged = true ∨ s.stride ≠ y.admitAt + 3) := by
    simp [hrunning, hstage, hfirst, hstride]
  simp only [stepDigestReceiveEff, hx, hy, if_neg hgo, hknown, Bool.not_true, Bool.false_eq_true, if_false]
  refine ⟨_, ?_, ?_, ?_, by simp only [State.compared, decide_eq_true_eq]; rfl⟩
  · simp only [apply_ite State.tables, State.send_tables, ite_self]
  · simp only [apply_ite State.memb, State.send_memb, ite_self]
    rfl
  · simp only [apply_ite State.mem, State.send_mem, ite_self]
    rfl

/-- STEP_DIGEST_DEADLINE at the end of T+3: an absent digest is an unequal one, unless the partner's silence is excused. -/
theorem stepDigestDeadlineEff_compares (hx : SMap.find? s.tables id = some x) (hrunning : s.running = true)
    (hwindow : s.clk.window = 2)
    (hy : x.steps.find? (fun u => u.stage = 3 && !u.exchanged && u.admitAt + 3 = s.stride) = some y) :
    stepDigestDeadlineEff id s =
      (s.modStep id y.num fun u => { u with exchanged := true }).compared id y.num s.partnerExcused := by
  simp [stepDigestDeadlineEff, hx, hy, hrunning, hwindow, State.compared]

end Digest

/-! ## Notices and completions (R249) -/

/-- A notice as an entry keeps it: the owner, its flags below its status, rows updated, clipped elements, dropped contributions. -/
def noticeOf (m : Bytes) : Nat × Nat × Nat × Nat × Nat :=
  (le m 28 2, le m 14 2 + 2 ^ 16 * le m 12 2, le m 16 4, le m 20 4, le m 24 4)

/-- An entry that has one notice more. -/
def StepEntry.heard (y : StepEntry) (m : Bytes) : StepEntry := { y with notices := y.notices ++ [noticeOf m] }

/-- Has each owner of an entry sent its notice? -/
def StepEntry.allHeard (y : StepEntry) : Bool := y.owners.all fun o => y.notices.any fun n => n.1 = o

section Notice

variable {m : Bytes} {s : State} {y : StepEntry}

/-- STEP_NOTICE_RECEIVE of an owner not heard of yet: with the last notice the entry is complete. -/
theorem stepNoticeReceiveEff_takes (hrunning : s.running = true)
    (hy : s.work.steps.find? (fun u => u.table = le m 0 4 && u.num = le m 4 8 && u.admitAt + 3 = s.stride) = some y)
    (howner : le m 28 2 ∈ y.owners) (hfirst : ∀ n ∈ y.notices, n.1 ≠ le m 28 2) :
    stepNoticeReceiveEff m s =
      if (y.heard m).allHeard = true then s.finishStep (y.heard m) false
      else { s with work := { s.work with
        steps := s.work.steps.map fun u => if u.ring = y.ring ∧ u.order = y.order then y.heard m else u } } := by
  have hgo : ¬((!s.running) = true ∨ (!y.owners.contains (le m 28 2)) = true ∨
      (y.notices.any fun n => n.1 = le m 28 2) = true) := by
    simpa only [hrunning, List.contains_iff_mem.2 howner, Bool.not_true, Bool.false_eq_true, false_or, List.any_eq_true,
      decide_eq_true_eq, not_exists, not_and] using hfirst
  simp only [stepNoticeReceiveEff, hy, if_neg hgo]
  rfl

theorem stepNoticeReceiveEff_late
    (hy : s.work.steps.find? (fun u => u.table = le m 0 4 && u.num = le m 4 8 && u.admitAt + 3 = s.stride) = none) :
    stepNoticeReceiveEff m s = s.lateReply := by
  simp only [stepNoticeReceiveEff, hy]

/-- The one owner's notice is the last. -/
theorem StepEntry.allHeard_of_one (hone : y.owners = [le m 28 2]) : (y.heard m).allHeard = true := by
  simp [StepEntry.allHeard, StepEntry.heard, hone, noticeOf]

/-- Another owner that has sent none is still awaited. -/
theorem StepEntry.not_allHeard_of_silent {p : Nat} (hp : p ∈ y.owners) (hother : p ≠ le m 28 2)
    (hsilent : ∀ n ∈ y.notices, n.1 ≠ p) : ¬(y.heard m).allHeard = true := by
  intro hall
  obtain ⟨n, hn, hnp⟩ := List.any_eq_true.1 (List.all_eq_true.1 hall p hp)
  rw [decide_eq_true_eq] at hnp
  rcases List.mem_append.1 hn with hold | hnew
  · exact hsilent n hold hnp
  · rw [List.mem_singleton.1 hnew] at hnp
    exact hother hnp.symm

end Notice

/-- STEP_NOTICE_DEADLINE at the end of T+3, where one entry of the table is due. -/
theorem stepNoticeDeadlineEff_finishes {id : Nat} {s : State} {y : StepEntry} (hrunning : s.running = true)
    (hwindow : s.clk.window = 2) (hdue : s.work.steps.filter (fun u => u.table = id && u.admitAt + 3 = s.stride) = [y]) :
    stepNoticeDeadlineEff id s = s.finishStep y true := by
  simp [stepNoticeDeadlineEff, hrunning, hwindow, hdue]

theorem bitOf_or (a b i : Nat) : bitOf (a ||| b) i = (bitOf a i || bitOf b i) := by
  have h : ∀ v, bitOf v i = v.testBit i := fun v => (Nat.testBit_eq_decide_div_mod_eq ..).symm
  rw [h, h, h, Nat.testBit_or]

/-- The status of a participant's completion: its own refusal, ST_TARGET_LOST where a notice is missing, or the notices'. -/
def StepEntry.outcome (y : StepEntry) (missing : Bool) : Nat :=
  if y.status ≠ stOk then y.status else if missing then stTargetLost else firstStatus (y.notices.map fun n => n.2.1 / 2 ^ 16)

/-- Its flags: those of the notices, with VOID for a refusal, else UNKNOWN where a notice is missing. -/
def StepEntry.outcomeFlags (y : StepEntry) (missing : Bool) : Nat :=
  let given := y.notices.foldl (fun a n => a ||| n.2.1 % 2 ^ 16) 0
  if y.status ≠ stOk then given ||| 1 else if missing then given ||| 4 else given

/-- The completion stands in the entry's ring. -/
theorem State.finishStep_ring {s : State} {y : StepEntry} {r : Ring} (hr : s.ring? y.ring = some r) (missing : Bool) :
    (s.finishStep y missing).ring? y.ring = some (r.completed s.stride y.admitAt y.order
      (stepCompletion y (y.outcome missing) (y.outcomeFlags missing))) :=
  (State.modRing_find? _ y.ring _).trans (congrArg _ hr)

theorem State.finishStep_steps (s : State) (y : StepEntry) (missing : Bool) :
    (s.finishStep y missing).work.steps = s.work.steps.filter fun u => !(u.ring = y.ring && u.order = y.order) := rfl

/-- A refusal completes with its own status and VOID. -/
theorem StepEntry.outcome_refused {y : StepEntry} (h : y.status ≠ stOk) (missing : Bool) :
    y.outcome missing = y.status ∧ bitOf (y.outcomeFlags missing) 0 = true := by
  simp only [StepEntry.outcome, StepEntry.outcomeFlags, if_pos h, bitOf_or, true_and]
  exact Bool.or_true _

/-- A missing notice completes an accepted entry with ST_TARGET_LOST and UNKNOWN. -/
theorem StepEntry.outcome_missing {y : StepEntry} (h : y.status = stOk) :
    y.outcome true = stTargetLost ∧ bitOf (y.outcomeFlags true) 2 = true := by
  simp only [StepEntry.outcome, StepEntry.outcomeFlags, if_neg (not_not.2 h), if_true, bitOf_or, true_and]
  exact Bool.or_true _

/-! ## Repairs (R248) -/

section Repair

variable {id row : Nat} {a b : Bytes} {s : State} {x : Table} {y : Step}

/-- A dirty copy of the row, rewritten by the partner's image and state record. -/
def TableRow.repaired (c : TableRow) (row : Nat) (a b : Bytes) : TableRow :=
  if c.id = row then { c with row := fit c.row.length a, state := fit c.state.length b, poisoned := false } else c

/-- The repaired row has the image and the state record given, and is no longer poisoned in its step; the ROWWRITE and the
lookups that the barrier held leave that. -/
theorem State.repairRow_training (hx : SMap.find? s.tables id = some x) (num : Nat) :
    (s.repairRow id row num a b).training id = some
      (x.steps.map (fun u => if u.num = num then { u with poisoned := u.poisoned.filter (· ≠ row) } else u),
       x.dirty.map fun c => c.repaired row a b) := by
  have hstep : ((s.modTable id fun x => { x with dirty := x.dirty.map fun c => c.repaired row a b }).modStep id num
      fun u => { u with poisoned := u.poisoned.filter (· ≠ row) }).training id = some
      (x.steps.map (fun u => if u.num = num then { u with poisoned := u.poisoned.filter (· ≠ row) } else u),
       x.dirty.map fun c => c.repaired row a b) := by
    rw [State.training, State.modStep_find? (by rw [State.modTable_find?, hx, Option.map_some])]
    rfl
  unfold State.repairRow
  rw [State.passBarrier_training, ← hstep]
  split
  · split
    · rw [State.issueRowwrite_training]
      rfl
    · rfl
  · rfl

variable (hx : SMap.find? s.tables id = some x) (hworking : s.working = true)
  (hy : x.steps.find? (fun u => u.admitAt + 4 = s.stride && (u.poisoned.contains row != u.peerPoisoned.contains row)) = some y)

include hx hworking hy

/-- STEP_POISON_REPAIR at the member that poisoned the row. -/
theorem stepPoisonRepairEff_repairs (hrow : row ∈ y.poisoned) :
    stepPoisonRepairEff id row a b s = s.repairRow id row y.num a b := by
  simp only [stepPoisonRepairEff, hx, hy, hworking, List.contains_iff_mem.2 hrow, Bool.not_true, Bool.false_eq_true, if_false,
    if_true]

/-- STEP_POISON_REPAIR at the other member: its detour class, where it has room, sends the row. -/
theorem stepPoisonRepairEff_sends {r : TableRow} {d : Nat} (hrow : row ∉ y.poisoned) (hlive : x.liveRow row = some r)
    (hclass : s.gaitNow.1.freeClassOf x.context 7 = some d) (hroom : s.classRoom d = true) :
    stepPoisonRepairEff id row a b s =
      (s.admitTo d).send 1 s.partner (stepHead markRepair id y.num ++ toLe 8 row ++ r.row ++ r.state) := by
  simp only [stepPoisonRepairEff, hx, hy, hworking, List.contains_iff_mem, hrow, hlive, hclass, hroom, Bool.not_true,
    Bool.false_eq_true, if_false, if_true]

end Repair

/-! ## The commands -/

/-- STEP_NOTICE_RECEIVE of a message that is taken. -/
theorem exec_stepNoticeReceive_of_taken {m : Bytes} {s w : State} (h : s.arrival 2 (le m 28 2 % 2 ^ 15) m = (true, w)) :
    exec (.stepNoticeReceive m) s = .next (stepNoticeReceiveEff m w) :=
  congrArg Host.Outcome.next (State.arrives_of_taken h _)

/-- Settles O60, command by command: STEP_DIGEST_RECEIVE and its deadline; STEP_NOTICE_RECEIVE of the last notice, of an
earlier one and of a late one; its deadline, and the completion; STEP_POISON_REPAIR at the poisoned member and at the other. -/
theorem stepsClosed : Obligations.StepsClosed := by
  refine ⟨?digest, ?absent, ?lastNotice, ?notice, ?lateNotice, ?deadline, ?completion, ?repair, ?image⟩
  case digest =>
    intro id n d l s x y hid hx hy hrunning hstage hfirst hstride hcover
    obtain ⟨t, htables, hmemb, hmem, heff⟩ :=
      stepDigestReceiveEff_compares (d := d) hx hy hrunning hstage hfirst hstride hcover
    refine ⟨_, _, guarded_decide hid heff, (congrArg (SMap.find? · id) ((t.compared_tables ..).trans htables)).trans
      (State.modStep_find? hx ..), holds_of_mem_modStep (by simp), rfl, ?_, (t.compared_mem ..).trans hmem⟩
    rw [State.compared_divergence, hmemb, decide_not]
  case absent =>
    intro id s x y hid hx hrunning hwindow hy
    have heff := stepDigestDeadlineEff_compares hx hrunning hwindow hy
    refine ⟨_, _, guarded_decide hid heff, State.compared_divergence .., (congrArg (SMap.find? · id)
      (State.compared_tables ..)).trans (State.modStep_find? hx ..), ?_, State.compared_mem ..⟩
    exact holds_of_mem_modStep (by simp)
  case lastNotice =>
    rintro m s w y _ harrival hrunning rfl hy howners hnone
    rw [exec_stepNoticeReceive_of_taken harrival, stepNoticeReceiveEff_takes hrunning hy (by simp [howners]) (by simp [hnone]),
      if_pos (StepEntry.allHeard_of_one howners), StepEntry.heard, hnone]
    rfl
  case notice =>
    rintro m s w y _ p harrival hrunning rfl hy howner hp hother hsilent
    refine ⟨_, exec_stepNoticeReceive_of_taken harrival, ?_⟩
    rw [stepNoticeReceiveEff_takes hrunning hy howner fun n hn => (hsilent n hn).1,
      if_neg (StepEntry.not_allHeard_of_silent hp hother fun n hn => (hsilent n hn).2)]
    exact ⟨rfl, rfl, rfl, rfl⟩
  case lateNotice =>
    intro m s w harrival hnone
    rw [exec_stepNoticeReceive_of_taken harrival, stepNoticeReceiveEff_late hnone]
  case deadline =>
    intro id s y hid hrunning hwindow hdue
    exact guarded_decide hid (stepNoticeDeadlineEff_finishes hrunning hwindow hdue)
  case completion =>
    intro s y missing r hr hlost
    refine ⟨y.outcome missing, y.outcomeFlags missing, ?_, fun hrefused => y.outcome_refused hrefused missing, ?_,
      s.finishStep_steps y missing⟩
    · rw [State.finishStep_ring hr]
      simp [Ring.completed, hlost]
    · rintro hok rfl
      exact StepEntry.outcome_missing hok
  case repair =>
    intro id row a b s x y hid hx hworking hy hrow
    have hrepaired := State.repairRow_training (row := row) (a := a) (b := b) hx y.num
    obtain ⟨z, hz, hsteps, hdirty⟩ := State.training_eq_some hrepaired
    refine ⟨guarded_decide hid (stepPoisonRepairEff_repairs hx hworking hy hrow), z, hz, hdirty, ?_⟩
    rw [hsteps]
    exact holds_of_mem_modStep (by simp)
  case image =>
    intro id row a b s x y r d hid hx hworking hy hrow hlive hclass hroom
    exact guarded_decide hid (stepPoisonRepairEff_sends hx hworking hy hrow hlive hclass hroom)

end Sys2Proof.Machine
end

section
/-! SUPPORT. A fence holds until the next remount (R325). No operation over the state but those of membership, of a stop and of
a divergence touches what the node knows of its herd (`…_memb`); those keep the fenced set and the epoch (`…_fencing`), but for
the adoption of a fence. -/

namespace Sys2Proof.Machine

/-- The nodes fenced and the epoch. -/
def Membership.fencing (m : Membership) : List Nat × Nat := (m.fenced, m.epoch)

@[simp] theorem ite_fencing {c : Prop} [Decidable c] (a b : Membership) :
    (if c then a else b).fencing = if c then a.fencing else b.fencing := apply_ite ..

theorem foldl_fencing {α : Type} {f : State → α → State} (h : ∀ s a, (f s a).memb.fencing = s.memb.fencing)
    (l : List α) (s : State) : (l.foldl f s).memb.fencing = s.memb.fencing :=
  foldl_keeps (fun s : State => s.memb.fencing) h l s

@[simp] theorem fencing_of_rest (m : Membership) (held : List Fence) (seen : List (Nat × Nat × Nat)) (repeats : List Fence)
    (peers : SMap Peer) (accusations : List (Nat × Nat × Nat)) (vouches : List (Nat × Nat)) (divergence : Bool)
    (heardAny : Nat) (silent beating : Bool) :
    ({ m with held, seen, repeats, peers, accusations, vouches, divergence, heardAny, silent, beating } :
      Membership).fencing = m.fencing := rfl

@[simp] theorem State.modMemb_memb (s : State) (g : Membership → Membership) : (s.modMemb g).memb = g s.memb := rfl

/-! ## What the operations over the state keep -/

/-! ### Ops -/

@[simp] theorem ite_memb {c : Prop} [Decidable c] (s t : State) :
    (if c then s else t).memb = if c then s.memb else t.memb := by split <;> rfl

@[simp] theorem foldl_memb {α : Type} {f : State → α → State} (h : ∀ s a, (f s a).memb = s.memb) (l : List α) (s : State) :
    (l.foldl f s).memb = s.memb := foldl_keeps (fun s : State => s.memb) h l s

theorem foldl_fst_memb {α β : Type} {g : State × β → α → State × β} (h : ∀ x p, (g x p).1.memb = x.1.memb) (l : List α)
    (x : State × β) :
    (l.foldl g x).1.memb = x.1.memb := foldl_keeps (fun x : State × β => x.1.memb) h l x

theorem foldl_snd_memb {α β : Type} {g : β × State → α → β × State} (h : ∀ x p, (g x p).2.memb = x.2.memb) (l : List α)
    (x : β × State) :
    (l.foldl g x).2.memb = x.2.memb := foldl_keeps (fun x : β × State => x.2.memb) h l x

@[simp] theorem State.discard_memb (s : State) (p n : Nat) : (State.discard s p n).memb = s.memb := by rfl
@[simp] theorem State.scheduledLost_memb (s : State) : (State.scheduledLost s).memb = s.memb := by rfl
@[simp] theorem State.lose_memb (s : State) (cls : Nat) (body : Bytes) : (State.lose s cls body).memb = s.memb := by rfl

@[simp] theorem State.arrival_memb (s : State) (cls source : Nat) (message : Bytes) :
    (s.arrival cls source message).2.memb = s.memb := by
  unfold State.arrival; simp only []
  (repeat' split) <;> simp

@[simp] theorem State.arrives_memb {s : State} {cls source : Nat} {message : Bytes} {take : State → State}
    (h : ∀ t, (take t).memb = t.memb) :
    (s.arrives cls source message take).memb = s.memb := by
  unfold State.arrives; simp only []
  split <;> simp [h]

@[simp] theorem State.pfCause_memb (s : State) (bit : Nat) : (State.pfCause s bit).memb = s.memb := by simp [State.pfCause]

@[simp] theorem State.noteNode_memb (s : State) (opcode status stamp : Nat) (payload : Bytes) :
    (State.noteNode s opcode status stamp payload).memb = s.memb := by simp [State.noteNode]

@[simp] theorem State.noteFailed_memb (s : State) (q : Request) (status stamp : Nat) :
    (State.noteFailed s q status stamp).memb = s.memb := by simp [State.noteFailed]

@[simp] theorem State.countStops_memb (s : State) (n : Nat) : (State.countStops s n).memb = s.memb := by
  simp [State.countStops]

@[simp] theorem State.scheduledDrop_memb (s : State) : (State.scheduledDrop s).memb = s.memb := by rfl

/-! ### Arbiter -/

@[simp] theorem State.closeFrame_memb (s : State) (port : Nat) : (State.closeFrame s port).memb = s.memb := by
  simp [State.closeFrame]

@[simp] theorem State.egress_memb (s : State) (port : Nat) (requests blocked : BitVec 8) (tenure : Nat) (waited : List Nat)
    (cycle : Nat) :
    (State.egress s port requests blocked tenure waited cycle).memb = s.memb := by simp [State.egress]

/-! ### Operands -/

@[simp] theorem State.turnAway_memb (s : State) (f opcode : Nat) : (State.turnAway s f opcode).memb = s.memb := by
  unfold State.turnAway; (repeat' split) <;> simp

theorem State.serve_memb {s : State} {f op : Nat} {act : State → Request → State × Option (Nat × Nat × Bytes)}
    (h : ∀ t q, (act t q).1.memb = t.memb) :
    (s.serve f op act).memb = s.memb := by
  unfold State.serve
  split
  · exact State.turnAway_memb ..
  · simp only []
    split <;> simp [h]

@[simp] theorem State.happened_memb (s : State) (e : Event) (status : Nat) (stamp : Option Nat) (p : Bytes) :
    (State.happened s e status stamp p).memb = s.memb := by simp [State.happened]

/-! ### Mailbox -/

@[simp] theorem mbSubmitEff_memb (f : Nat) (s : State) : (mbSubmitEff f s).memb = s.memb := by simp [mbSubmitEff]
@[simp] theorem mbReplyAckEff_memb (f : Nat) (s : State) : (mbReplyAckEff f s).memb = s.memb := by simp [mbReplyAckEff]

@[simp] theorem replyPostEff_memb (f : Nat) (s : State) : (replyPostEff f s).memb = s.memb := by
  unfold replyPostEff; simp only []; (repeat' split) <;> simp

@[simp] theorem noteHeadWriteEff_memb (f : Nat) (value : Word32) (s : State) :
    (noteHeadWriteEff f value s).memb = s.memb := by simp [noteHeadWriteEff]

@[simp] theorem notificationPostEff_memb (f : Nat) (s : State) : (notificationPostEff f s).memb = s.memb := by
  unfold notificationPostEff; simp only []; (repeat' split) <;> simp

/-! ### Registers -/

@[simp] theorem intCauseClearEff_memb (f : Nat) (value reassert : Word32) (s : State) :
    (intCauseClearEff f value reassert s).memb = s.memb := by simp [intCauseClearEff]

@[simp] theorem intMaskWriteEff_memb (f : Nat) (value : Word32) (s : State) : (intMaskWriteEff f value s).memb = s.memb := by
  simp [intMaskWriteEff]

@[simp] theorem dbFaultClearEff_memb (f : Nat) (value reassert : Word32) (s : State) :
    (dbFaultClearEff f value reassert s).memb = s.memb := by simp [dbFaultClearEff]

@[simp] theorem bar2ErrClearEff_memb (f : Nat) (value reassert : Word32) (s : State) :
    (bar2ErrClearEff f value reassert s).memb = s.memb := by simp [bar2ErrClearEff]

@[simp] theorem arbFlagsClearEff_memb (f n : Nat) (value reassert : Word32) (s : State) :
    (arbFlagsClearEff f n value reassert s).memb = s.memb := by simp [arbFlagsClearEff]

@[simp] theorem State.doorbellFault_memb (s : State) (f : Nat) (b : Doorbell) (reason : Nat) :
    (State.doorbellFault s f b reason).memb = s.memb := by simp [State.doorbellFault]

@[simp] theorem State.doorbell_memb (s : State) (f : Nat) (b : Doorbell) (fault : Ring → Nat) (g : Ring → Ring) :
    (State.doorbell s f b fault g).memb = s.memb := by unfold State.doorbell; (repeat' split) <;> simp

@[simp] theorem subTailWriteEff_memb (f : Nat) (b : Doorbell) (value : Word32) (s : State) :
    (subTailWriteEff f b value s).memb = s.memb := by simp [subTailWriteEff]

@[simp] theorem cplHeadWriteEff_memb (f : Nat) (b : Doorbell) (value : Word32) (s : State) :
    (cplHeadWriteEff f b value s).memb = s.memb := by simp [cplHeadWriteEff]

@[simp] theorem msixVectorUnmaskEff_memb (f v : Nat) (s : State) : (msixVectorUnmaskEff f v s).memb = s.memb := by
  simp [msixVectorUnmaskEff]

@[simp] theorem msixVectorMask_memb (f v : Nat) (s : State) : (msixVectorMask f v s).memb = s.memb := by rfl

/-! ### Gait -/

@[simp] theorem State.needs_memb (s : State) (word a k due t cost : Nat) :
    (State.needs s word a k due t cost).memb = s.memb := by simp [State.needs]

@[simp] theorem State.takeShare_memb (s : State) (a k handles need : Nat) :
    (State.takeShare s a k handles need).memb = s.memb := by rfl

@[simp] theorem State.admitTo_memb (s : State) (k : Nat) : (State.admitTo s k).memb = s.memb := by rfl

/-! ### Bar2 -/

@[simp] theorem State.issueOp_memb (s : State) (cls context : Nat) (func : Option Nat) (address op size a b : Nat) :
    (s.issueOp cls context func address op size a b).1.memb = s.memb := by
  unfold State.issueOp
  simp only []
  repeat' split
  all_goals simp

@[simp] theorem State.bar2Latch_memb (s : State) (f status aperture : Nat) (write : Bool) (address : Nat) :
    (State.bar2Latch s f status aperture write address).memb = s.memb := by simp [State.bar2Latch]

@[simp] theorem State.bar2Fail_memb (s : State) (f status aperture : Nat) (write : Bool) (address : Nat) :
    (State.bar2Fail s f status aperture write address).memb = s.memb := by simp [State.bar2Fail]

@[simp] theorem State.bar2Complete_memb (s : State) (q : Bar2Request) : (State.bar2Complete s q).memb = s.memb := by
  unfold State.bar2Complete; (repeat' split) <;> simp

@[simp] theorem State.bar2Start_memb (s : State) (f kind address : Nat) (ap : Aperture) (pieces : List (Nat × Nat))
    (op : Nat → Nat → Nat ⊕ (Nat × Nat × Nat)) :
    (s.bar2Start f kind address ap pieces op).memb = s.memb := by
  unfold State.bar2Start
  simp only []
  have key : ∀ (r : State × Bar2Request), r.1.memb = s.memb →
      (if r.2.finished = true then r.1.bar2Complete r.2
        else { r.1 with fab := { r.1.fab with requests := r.1.fab.requests ++ [r.2] } }).memb = s.memb := by
    intro r hr
    split <;> simp [hr]
  refine key _ ?_
  rw [foldl_fst_memb]
  intro x p
  split
  · simp
  · split
    · next heq2 =>
      have := congrArg (fun x : State × (Nat ⊕ Nat) => x.1.memb) heq2
      simpa using this.symm
    · next heq2 =>
      have := congrArg (fun x : State × (Nat ⊕ Nat) => x.1.memb) heq2
      simpa using this.symm

@[simp] theorem State.bar2Invalid_memb (s : State) (f kind address : Nat) :
    (State.bar2Invalid s f kind address).memb = s.memb := by simp [State.bar2Invalid]

@[simp] theorem State.bar2DoFence_memb (s : State) (f : Nat) : (State.bar2DoFence s f).memb = s.memb := by rfl

@[simp] theorem State.bar2Run_memb (s : State) (i : Instr) : (s.bar2Run i).memb = s.memb := by
  unfold State.bar2Run
  split <;> simp [State.bar2DoRead, State.bar2DoWrite, State.bar2DoAtomic]

@[simp] theorem State.bar2Release_memb (f n : Nat) (s : State) : (State.bar2Release f n s).memb = s.memb := by
  induction n generalizing s with
  | zero => rfl
  | succ n ih =>
    unfold State.bar2Release
    split
    · simp [ih]
    · rfl

@[simp] theorem State.bar2Take_memb (s : State) (f : Nat) (i : Instr) : (State.bar2Take s f i).memb = s.memb := by
  simp [State.bar2Take]

@[simp] theorem bar2Eff_memb (f : Nat) (i : Instr) (completes : Bool) (s : State) :
    (bar2Eff f i completes s).memb = s.memb := by simp [bar2Eff]

@[simp] theorem State.bar2Result_memb (s : State) (f tag status result : Nat) :
    (State.bar2Result s f tag status result).memb = s.memb := by unfold State.bar2Result; split <;> simp

@[simp] theorem State.completeOp_memb (s : State) (o : OutOp) (status result : Nat) :
    (State.completeOp s o status result).memb = s.memb := by unfold State.completeOp; split <;> simp

@[simp] theorem scheduledOperationIssueEff_memb (cls : Nat) (record : Bytes) (isFence : Bool) (s : State) :
    (scheduledOperationIssueEff cls record isFence s).memb = s.memb := by unfold scheduledOperationIssueEff; split <;> simp

/-! ### Link -/

@[simp] theorem State.detach_memb (s : State) (f : Nat) : (State.detach s f).memb = s.memb := by rfl
@[simp] theorem State.attach_memb (s : State) (f : Nat) : (State.attach s f).memb = s.memb := by simp [State.attach]

@[simp] theorem State.detachAll_memb (s : State) (fs : List Nat) : (State.detachAll s fs).memb = s.memb := by
  simp [State.detachAll]

@[simp] theorem State.peerLink_memb (s : State) (link : Nat) : (State.peerLink s link).memb = s.memb := by
  simp [State.peerLink]

/-! ### Rings -/

theorem State.admitRing_memb {s : State} {id kind : Nat} {entry : Bytes} {act : State → Admission → State}
    (h : ∀ t a, (act t a).memb = t.memb) :
    (s.admitRing id kind entry act).memb = s.memb := by
  unfold State.admitRing
  repeat' split
  all_goals simp [h]

@[simp] theorem State.complete_memb (s : State) (id admitAt order : Nat) (entry : Bytes) :
    (State.complete s id admitAt order entry).memb = s.memb := by rfl

@[simp] theorem State.completeQueue_memb (s : State) (id admitAt order : Nat) (entry : Bytes) :
    (State.completeQueue s id admitAt order entry).memb = s.memb := by rfl

@[simp] theorem State.putCompletions_memb (s : State) (r : Ring) (i : Nat) (l : List (Nat × Nat × Nat × Bytes)) :
    (s.putCompletions r i l).memb = s.memb := by
  induction l generalizing s i with
  | nil => rfl
  | cons x l ih => obtain ⟨_, _, _, e⟩ := x; simp [State.putCompletions, ih]

theorem State.place_memb {s : State} {n : Nat} {r : Ring} {store : State → (Ring → Ring) → State}
    (h : ∀ t g, (store t g).memb = t.memb) :
    (s.place n r store).memb = s.memb := by
  unfold State.place; simp only []
  split
  · rfl
  · rw [h]; simp

@[simp] theorem State.placeAll_memb (s : State) (n : Nat) : (s.placeAll n).memb = s.memb := by
  unfold State.placeAll; simp only []
  rw [foldl_memb fun t a => State.place_memb (by simp), foldl_memb fun t a => State.place_memb (by simp)]

theorem State.publish_memb {s : State} {r : Ring} {store : State → (Ring → Ring) → State}
    (h : ∀ t g, (store t g).memb = t.memb) :
    (s.publish r store).memb = s.memb := by
  unfold State.publish; simp only []
  split
  · rfl
  · simp [h]

@[simp] theorem State.ringDrained_memb (s : State) (id : Nat) : (State.ringDrained s id).memb = s.memb := by
  unfold State.ringDrained; split <;> simp

@[simp] theorem State.sendVectors_memb (s : State) (l : List (Nat × Nat)) : (State.sendVectors s l).memb = s.memb := by
  simp [State.sendVectors]

@[simp] theorem State.publishAll_memb (s : State) : s.publishAll.memb = s.memb := by
  unfold State.publishAll; simp only []
  rw [foldl_memb (State.ringDrained_memb ·)]
  simp only [State.sendVectors_memb]
  rw [foldl_memb fun t a => State.publish_memb (by simp), foldl_memb fun t a => State.publish_memb (by simp)]
  simp

@[simp] theorem State.modResidency_memb (s : State) (id : Nat) (g : Residency → Residency) :
    (State.modResidency s id g).memb = s.memb := by simp [State.modResidency]

/-! ### Context -/

@[simp] theorem State.shrinkHbm_memb (s : State) (context keep : Nat) :
    (State.shrinkHbm s context keep).memb = s.memb := by rfl

@[simp] theorem State.shrinkDdr_memb (s : State) (context keep : Nat) :
    (State.shrinkDdr s context keep).memb = s.memb := by rfl

@[simp] theorem State.grantOwn_memb (s : State) : (State.grantOwn s).memb = s.memb := by rfl

@[simp] theorem State.adoptReservation_memb (s : State) (context : Nat) (r : Reservation) :
    (State.adoptReservation s context r).memb = s.memb := by simp [State.adoptReservation]

/-! ### Flash -/

@[simp] theorem State.wait_memb (s : State) (c : Nat) (o : ArrayOp) : (State.wait s c o).memb = s.memb := by rfl
@[simp] theorem State.chargeFlash_memb (s : State) : (State.chargeFlash s).memb = s.memb := by rfl

@[simp] theorem State.issue_memb (s : State) (ch : Nat) (o : ArrayOp) : (State.issue s ch o).memb = s.memb := by
  unfold State.issue; simp only []; (repeat' split) <;> simp

@[simp] theorem State.moveOut_memb (s : State) (ch key n cls : Nat) (paid : Bool) :
    (State.moveOut s ch key n cls paid).memb = s.memb := by simp [State.moveOut]

@[simp] theorem State.collect_memb (s : State) (ch pad cls : Nat) : (State.collect s ch pad cls).memb = s.memb := by
  unfold State.collect; simp only []; (repeat' split) <;> simp_all

@[simp] theorem State.writeOwn_memb (s : State) (cls : Nat) (pages : Nat → List Nat) :
    (State.writeOwn s cls pages).memb = s.memb := by simp [State.writeOwn]

@[simp] theorem State.readOwn_memb (s : State) (object version : Nat) (reads : List FlashRead) :
    (State.readOwn s object version reads).memb = s.memb := by rfl

@[simp] theorem State.trimOwn_memb (s : State) : (State.trimOwn s).memb = s.memb := by rfl
@[simp] theorem State.bootWrite_memb (s : State) (ch bytes : Nat) : (State.bootWrite s ch bytes).memb = s.memb := by rfl

@[simp] theorem State.enterReadOnly_memb (s : State) (ch : Nat) : (State.enterReadOnly s ch).memb = s.memb := by
  simp [State.enterReadOnly]

@[simp] theorem State.retireBlock_memb (s : State) (ch key : Nat) : (State.retireBlock s ch key).memb = s.memb := by
  simp [State.retireBlock]

@[simp] theorem State.readRecord_memb (s : State) (index dim shard slot : Nat) (record : Bytes) (r : FlashRead) :
    (State.readRecord s index dim shard slot record r).memb = s.memb := by
  unfold State.readRecord; simp only []; (repeat' split) <;> simp_all

@[simp] theorem State.journalled_memb (s : State) (ch pad unit count : Nat) :
    (State.journalled s ch pad unit count).memb = s.memb := by rfl

@[simp] theorem State.deferFail_memb (s : State) (ch pad : Nat) (units : List (Nat × Nat)) :
    (State.deferFail s ch pad units).memb = s.memb := by rfl

@[simp] theorem State.takeAnswers_memb (s : State) (pad : Nat) (units : List (Nat × Nat)) (answers : List PartnerUnit) :
    (State.takeAnswers s pad units answers).memb = s.memb := by rfl

@[simp] theorem State.recover_memb {s : State} {ch : Nat} {o : ArrayOp} {bad : List (Nat × Nat)} {answers : List PartnerUnit}
    {go : State → ArrayOp → State} (h : ∀ t o, (go t o).memb = t.memb) :
    (s.recover ch o bad answers go).memb = s.memb := by
  unfold State.recover; simp only []
  split
  · simp
  · split
    · split <;> simp
    · rw [h]; split <;> simp

@[simp] theorem State.readMoved_memb (s : State) (ch : Nat) (o : ArrayOp) (r : FlashRead) :
    (State.readMoved s ch o r).memb = s.memb := by unfold State.readMoved; (repeat' split) <;> simp

@[simp] theorem State.levelStep_memb (s : State) (ch : Nat) : (State.levelStep s ch).memb = s.memb := by
  unfold State.levelStep; split <;> simp

@[simp] theorem arrayOperationIssueEff_memb (ch : Nat) (lost : List Nat) (reads : List FlashRead)
    (answers : List PartnerUnit) (s : State) :
    (arrayOperationIssueEff ch lost reads answers s).memb = s.memb := by
  unfold arrayOperationIssueEff; (repeat' split) <;> simp

@[simp] theorem State.levelFrom_memb (s : State) (ch above : Nat) : (State.levelFrom s ch above).memb = s.memb := by
  unfold State.levelFrom; split <;> simp

@[simp] theorem arrayOperationCompleteEff_memb (ch t : Nat) (good : Bool) (s : State) :
    (arrayOperationCompleteEff ch t good s).memb = s.memb := by unfold arrayOperationCompleteEff; split <;> simp

@[simp] theorem State.pageGood_memb (s : State) (ch : Nat) (o : ArrayOp) : (State.pageGood s ch o).memb = s.memb := by
  simp [State.pageGood]

@[simp] theorem State.fwWritten_memb (s : State) (ch : Nat) : (s.fwWritten ch).memb = s.memb := by
  unfold State.fwWritten; simp only []
  split
  · rfl
  · (repeat' split) <;> simp

@[simp] theorem programStatusReadEff_memb (ch t : Nat) (s : State) : (programStatusReadEff ch t s).memb = s.memb := by
  unfold programStatusReadEff; (repeat' split) <;> simp

@[simp] theorem State.switchMoves_memb (s : State) (ch : Nat) : (State.switchMoves s ch).memb = s.memb := by
  simp [State.switchMoves]

@[simp] theorem State.formPages_memb (pad ch n : Nat) (s : State) : (State.formPages pad ch n s).memb = s.memb := by
  induction n generalizing s with
  | zero => rfl
  | succ n ih =>
    unfold State.formPages
    simp only []
    split <;> simp [ih]

@[simp] theorem State.writeJournal_memb (s : State) : (State.writeJournal s).memb = s.memb := by rfl

/-! ### Rs -/

@[simp] theorem State.poisonBlocks_memb (s : State) (b n : Nat) : (State.poisonBlocks s b n).memb = s.memb := by
  simp [State.poisonBlocks]

@[simp] theorem State.countRead_memb (s : State) (address : Nat) (r : BlockRead) :
    (State.countRead s address r).memb = s.memb := by rfl

@[simp] theorem State.countWait_memb (s : State) (block : Nat) : (State.countWait s block).memb = s.memb := by rfl

@[simp] theorem State.countDieWait_memb (s : State) (address n : Nat) : (State.countDieWait s address n).memb = s.memb := by
  simp [State.countDieWait]

@[simp] theorem State.longerDelay_memb (s : State) (stack : Nat) : (State.longerDelay s stack).memb = s.memb := by rfl

@[simp] theorem State.endDieWait_memb (s : State) (address n : Nat) : (State.endDieWait s address n).memb = s.memb := by
  unfold State.endDieWait; (repeat' split) <;> simp

@[simp] theorem State.countRange_memb (s : State) (address n : Nat) : (State.countRange s address n).memb = s.memb := by
  simp [State.countRange]

/-! ### Storage -/

@[simp] theorem State.queueDrained_memb (s : State) (id : Nat) : (State.queueDrained s id).memb = s.memb := by
  unfold State.queueDrained; split <;> simp

@[simp] theorem State.paddockDrained_memb (s : State) (n : Nat) : (State.paddockDrained s n).memb = s.memb := by
  unfold State.paddockDrained; split <;> simp

@[simp] theorem State.finishCommand_memb (s : State) (n : Nat) (c : StorageCommand) :
    (State.finishCommand s n c).memb = s.memb := by simp [State.finishCommand]

@[simp] theorem State.admitCommand_memb (s : State) (cls : Nat) (r : Ring) (h : QueueHead) :
    (State.admitCommand s cls r h).memb = s.memb := by simp [State.admitCommand]

theorem State.nextStorage_memb {s : State} {cls : Nat} {ready : List (Nat × Nat)} {q : Nat} {t : State}
    (h : s.nextStorage cls ready = some (q, t)) : t.memb = s.memb := by
  unfold State.nextStorage at h
  simp only [] at h
  split at h
  · cases h
    rfl
  · split at h
    · cases h
      rfl
    · split at h
      · cases h
      · obtain ⟨_, -, hq⟩ := Option.map_eq_some_iff.1 h
        cases hq
        rfl

@[simp] theorem State.admitStorage_memb (cls n : Nat) (heads : List QueueHead) (s : State) :
    (State.admitStorage cls n heads s).memb = s.memb := by
  induction n generalizing heads s with
  | zero => rfl
  | succ n ih =>
    unfold State.admitStorage
    simp only []
    split
    · rfl
    · next heq =>
      have := State.nextStorage_memb heq
      repeat' split
      all_goals simp [ih, this]

@[simp] theorem State.modStorage_memb (s : State) (n : Nat) (g : StorageCommand → StorageCommand) :
    (State.modStorage s n g).memb = s.memb := by rfl

@[simp] theorem State.mediaError_memb (s : State) (n : Nat) (c : StorageCommand) (u phys : Nat) :
    (State.mediaError s n c u phys).memb = s.memb := by rfl

@[simp] theorem State.readFails_memb (s : State) (n : Nat) (c : StorageCommand) (p : Paddock) (u phys : Nat) :
    (State.readFails s n c p u phys).memb = s.memb := by unfold State.readFails; (repeat' split) <;> simp

@[simp] theorem State.readUnit_memb (s : State) (n : Nat) (c : StorageCommand) (reads : List FlashRead) (u : Nat) :
    (State.readUnit s n c reads u).memb = s.memb := by unfold State.readUnit; simp only []; (repeat' split) <;> simp

@[simp] theorem State.deliver_memb (s : State) (c : StorageCommand) : (State.deliver s c).memb = s.memb := by
  simp [State.deliver]

@[simp] theorem State.commitUnits_memb (s : State) (pad start : Nat) (data : List Bytes) (single host : Bool) :
    (s.commitUnits pad start data single host).memb = s.memb := by
  unfold State.commitUnits
  simp only []
  rw [foldl_memb (fun t a => by split <;> simp)]
  simp

@[simp] theorem State.dropUnits_memb (s : State) (pad start count : Nat) :
    (State.dropUnits s pad start count).memb = s.memb := by rfl

@[simp] theorem State.writeBack_memb (s : State) (pad u phys : Nat) (d : Bytes) :
    (State.writeBack s pad u phys d).memb = s.memb := by simp [State.writeBack]

@[simp] theorem State.takeDetour_memb (n : Nat) (c : StorageCommand) (answers : List PartnerUnit) (s : State) (u : Nat) :
    (State.takeDetour n c answers s u).memb = s.memb := by unfold State.takeDetour; (repeat' split) <;> simp

@[simp] theorem storageReadEff_memb (n : Nat) (reads : List FlashRead) (answers : List PartnerUnit) (s : State) :
    (storageReadEff n reads answers s).memb = s.memb := by unfold storageReadEff; (repeat' split) <;> simp

@[simp] theorem State.stopRead_memb (s : State) (n : Nat) (c : StorageCommand) : (State.stopRead s n c).memb = s.memb := by
  simp [State.stopRead]

@[simp] theorem mirroredWriteReceiveEff_memb (m : Bytes) (s : State) : (mirroredWriteReceiveEff m s).memb = s.memb := by
  unfold mirroredWriteReceiveEff; simp only []; (repeat' split) <;> simp

@[simp] theorem storageDetourReadEff_memb (pad start count : Nat) (reads : List FlashRead) (s : State) :
    (storageDetourReadEff pad start count reads s).memb = s.memb := by
  unfold storageDetourReadEff; simp only []
  (repeat' split) <;> (try rfl)
  rw [State.send_memb, foldl_memb, State.admitTo_memb]
  intro t a; (repeat' split) <;> simp

@[simp] theorem State.commitCommand_memb (s : State) (n : Nat) (c : StorageCommand) :
    (State.commitCommand s n c).memb = s.memb := by simp [State.commitCommand]

@[simp] theorem State.commitMirrored_memb (s : State) (w : MirroredWrite) : (State.commitMirrored s w).memb = s.memb := by
  simp [State.commitMirrored]

@[simp] theorem State.commitStorage_memb (s : State) : (State.commitStorage s).memb = s.memb := by simp [State.commitStorage]

@[simp] theorem State.storageAck_memb (s : State) (number : Nat) : (State.storageAck s number).memb = s.memb := by
  unfold State.storageAck; split <;> simp

@[simp] theorem State.storageConfirm_memb (s : State) (number : Nat) :
    (State.storageConfirm s number).memb = s.memb := by rfl

/-! ### Fabric -/

@[simp] theorem State.adoptRoute_memb (s : State) (b : Bytes) : (State.adoptRoute s b).memb = s.memb := by rfl

@[simp] theorem State.herdEvent_memb (s : State) (event reason subject decider port stride epoch : Nat) :
    (State.herdEvent s event reason subject decider port stride epoch).memb = s.memb := by simp [State.herdEvent]

@[simp] theorem State.portDown_memb (s : State) (p : Nat) : (State.portDown s p).memb = s.memb := by simp [State.portDown]

@[simp] theorem State.recordFlit_memb (s : State) (p : Nat) (bad : Bool) (cls : Nat) (flit : Bytes) :
    (State.recordFlit s p bad cls flit).memb = s.memb := by simp [State.recordFlit]

@[simp] theorem State.messageFlit_memb (s : State) (p : Nat) (bad : Bool) (cls : Nat) (flit : Bytes) :
    (State.messageFlit s p bad cls flit).memb = s.memb := by unfold State.messageFlit; (repeat' split) <;> simp

@[simp] theorem State.flit_memb (p : Nat) (bad : Bool) (s : State) (f : Nat × Bytes) :
    (State.flit p bad s f).memb = s.memb := by simp [State.flit]

@[simp] theorem transportResendEff_memb (h : Nat) (s : State) : (transportResendEff h s).memb = s.memb := by
  unfold transportResendEff; (repeat' split) <;> simp

@[simp] theorem State.police_memb (s : State) (p cls bytes : Nat) (yellow : Bool) :
    (s.police p cls bytes yellow).2.memb = s.memb := by
  unfold State.police
  simp only []
  repeat' split
  all_goals simp

@[simp] theorem State.refuseMessage_memb (s : State) (p : Nat) (x : Arriving) :
    (State.refuseMessage s p x).memb = s.memb := by rfl

@[simp] theorem State.acceptMessage_memb (s : State) (p : Nat) (x : Arriving) :
    (State.acceptMessage s p x).memb = s.memb := by rfl

@[simp] theorem headerRecordReceiveEff_memb (p : Nat) (w : Word64) (b : Bytes) (s : State) :
    (headerRecordReceiveEff p w b s).memb = s.memb := by
  unfold headerRecordReceiveEff
  simp only []
  repeat' split
  all_goals simp

@[simp] theorem State.recordIn_memb (s : State) (p cls source : Nat) : (s.recordIn p cls source).2.memb = s.memb := by
  unfold State.recordIn; (repeat' split) <;> simp

@[simp] theorem State.messageIn_memb (s : State) (p cls source : Nat) :
    (State.messageIn s p cls source).2.memb = s.memb := by unfold State.messageIn; (repeat' split) <;> simp

@[simp] theorem routerForwardEff_memb (p : Nat) (h : Word64) (body : Bytes) (s : State) :
    (routerForwardEff p h body s).memb = s.memb := by unfold routerForwardEff; simp only []; (repeat' split) <;> simp

@[simp] theorem State.performOp_memb (s : State) (requester context address op size a b : Nat) :
    (s.performOp requester context address op size a b).1.memb = s.memb := by
  unfold State.performOp
  simp only []
  repeat' split
  all_goals simp

@[simp] theorem State.answerOp_memb (s : State) (cls : Nat) (record : Bytes) :
    (State.answerOp s cls record).memb = s.memb := by simp [State.answerOp]

@[simp] theorem State.holdOp_memb (s : State) (p cls : Nat) (record : Bytes) (locked : Bool) :
    (State.holdOp s p cls record locked).memb = s.memb := by rfl

@[simp] theorem memoryOperationEff_memb (p cls : Nat) (record : Bytes) (s : State) :
    (memoryOperationEff p cls record s).memb = s.memb := by unfold memoryOperationEff; simp only []; (repeat' split) <;> simp

@[simp] theorem operationResponseReceiveEff_memb (p cls : Nat) (record : Bytes) (s : State) :
    (operationResponseReceiveEff p cls record s).memb = s.memb := by
  unfold operationResponseReceiveEff; simp only []; (repeat' split) <;> simp

@[simp] theorem State.releaseLocked_memb (s : State) : (State.releaseLocked s).memb = s.memb := by
  simp [State.releaseLocked]

@[simp] theorem State.correct_memb (s : State) (early : Bool) (e : Int) : (State.correct s early e).memb = s.memb := by
  simp [State.correct]

/-! ### Health -/

@[simp] theorem State.replan_memb (s : State) (r : DomainReport) : (State.replan s r).memb = s.memb := by rfl
@[simp] theorem State.adoptPlan_memb (s : State) : (State.adoptPlan s).memb = s.memb := by rfl
@[simp] theorem State.farrierReads_memb (s : State) : (State.farrierReads s).memb = s.memb := by simp [State.farrierReads]

/-! ### Nmu -/

@[simp] theorem State.answer_memb (s : State) (tag : Nat) (b : Bytes) : (State.answer s tag b).memb = s.memb := by rfl
@[simp] theorem State.refusedCommand_memb (s : State) (u : Nat) : (State.refusedCommand s u).memb = s.memb := by rfl

@[simp] theorem State.requestBursts_memb (s : State) (stack : Nat) (l : List Burst) :
    (State.requestBursts s stack l).memb = s.memb := by rfl

@[simp] theorem State.countBlocks_memb (s : State) (ctx : Nat) (blocks : List Nat) :
    (State.countBlocks s ctx blocks).memb = s.memb := by simp [State.countBlocks]

@[simp] theorem State.unitWrite_memb (s : State) (ctx : Nat) (blocks : List Nat) (image : Option Bytes) :
    (State.unitWrite s ctx blocks image).memb = s.memb := by unfold State.unitWrite; (repeat' split) <;> simp

@[simp] theorem State.modCommand_memb (s : State) (u : Nat) (g : UnitCommand → UnitCommand) :
    (State.modCommand s u g).memb = s.memb := by rfl

@[simp] theorem State.dropCommand_memb (s : State) (u : Nat) : (State.dropCommand s u).memb = s.memb := by rfl

@[simp] theorem State.voidMove_memb (s : State) (m : Nat × Nat) : (State.voidMove s m).memb = s.memb := by
  simp [State.voidMove]

@[simp] theorem State.endCommand_memb (s : State) (u : Nat) (c : UnitCommand) (completion : Bytes) :
    (State.endCommand s u c completion).memb = s.memb := by unfold State.endCommand; (repeat' split) <;> simp

@[simp] theorem State.enterPhase_memb (s : State) (u phase : Nat) (l : List Burst) :
    (State.enterPhase s u phase l).memb = s.memb := by rfl

@[simp] theorem State.writePhase_memb (s : State) (u : Nat) (c : UnitCommand) (x3 : RowEnd) :
    (State.writePhase s u c x3).memb = s.memb := by unfold State.writePhase; (repeat' split) <;> simp

@[simp] theorem State.endLoad_memb (s : State) (c : UnitCommand) : (State.endLoad s c).memb = s.memb := by
  simp [State.endLoad]

@[simp] theorem State.nextPhase_memb (s : State) (u : Nat) (c : UnitCommand) : (State.nextPhase s u c).memb = s.memb := by
  simp [State.nextPhase]

@[simp] theorem State.beginCommand_memb (s : State) (u : Nat) (c : UnitCommand) :
    (State.beginCommand s u c).memb = s.memb := by simp [State.beginCommand]

@[simp] theorem State.beginHeads_memb (s : State) (stack : Nat) : (State.beginHeads s stack).memb = s.memb := by
  unfold State.beginHeads; exact foldl_memb (fun t a => by (repeat' split) <;> simp) _ _

@[simp] theorem State.runStack_memb (s : State) (stack : Nat) : (State.runStack s stack).memb = s.memb := by
  simp [State.runStack]

@[simp] theorem State.countReceived_memb (s : State) : (State.countReceived s).memb = s.memb := by rfl

@[simp] theorem State.receive_memb (s : State) (units : List Nat) (c : UnitCommand) :
    (State.receive s units c).memb = s.memb := by simp [State.receive]

@[simp] theorem State.startBurst_memb (s : State) (stack : Nat) (x : Burst) :
    (State.startBurst s stack x).memb = s.memb := by simp [State.startBurst]

@[simp] theorem State.grantFrom_memb (s : State) (stack slot slots x4 x5 : Nat) (x6 x7 : List Burst) :
    (State.grantFrom s stack slot slots x4 x5 x6 x7).1.memb = s.memb := by fun_induction State.grantFrom <;> simp_all

@[simp] theorem State.burstMoved_memb (s : State) (u ctx : Nat) (x : Burst) :
    (State.burstMoved s u ctx x).memb = s.memb := by simp [State.burstMoved]

@[simp] theorem State.burstDone_memb (s : State) (u : Nat) : (State.burstDone s u).memb = s.memb := by
  unfold State.burstDone; (repeat' split) <;> simp

/-! ### Engine -/

@[simp] theorem State.issueRow_memb (s : State) (op ctx address blocks : Nat) (data : Bytes) (poisoned : Bool)
    (move : Option (Nat × Nat)) (twin : Option Nat) :
    (State.issueRow s op ctx address blocks data poisoned move twin).memb = s.memb := by simp [State.issueRow]

@[simp] theorem State.issueRowwrite_memb (s : State) (ctx address : Nat) (image : Bytes) (poisoned : Bool)
    (move : Option (Nat × Nat)) :
    (State.issueRowwrite s ctx address image poisoned move).memb = s.memb := by simp [State.issueRowwrite]

@[simp] theorem State.issueUpdate_memb (s : State) (ctx address blocks : Nat) (delta : List Word32)
    (move : Option (Nat × Nat)) (twin : Option Nat) :
    (State.issueUpdate s ctx address blocks delta move twin).memb = s.memb := by simp [State.issueUpdate]

@[simp] theorem State.placeDirty_memb (s : State) (id row : Nat) (bytes : Bytes) :
    (State.placeDirty s id row bytes).memb = s.memb := by unfold State.placeDirty; (repeat' split) <;> simp

@[simp] theorem State.issueDual_memb (s : State) (id row : Nat) (delta : List Word32) (status : Nat) :
    (State.issueDual s id row delta status).memb = s.memb := by unfold State.issueDual; (repeat' split) <;> simp

@[simp] theorem State.issueStepUpdate_memb (s : State) (id row : Nat) (delta : List Word32) :
    (State.issueStepUpdate s id row delta).memb = s.memb := by unfold State.issueStepUpdate; (repeat' split) <;> simp

/-! ### Lookup -/

@[simp] theorem State.touchRows_memb (s : State) (object : Nat) (rows : List Nat) :
    (State.touchRows s object rows).memb = s.memb := by
  refine foldl_memb (fun s a => ?_) ..
  simp only []
  (repeat' split) <;> simp

@[simp] theorem State.putTile_memb (s : State) (n : Nat) (t : Tile) : (State.putTile s n t).memb = s.memb := by rfl

@[simp] theorem State.useTile_memb (s : State) (u : TileUse) (ctx : Nat) : (State.useTile s u ctx).memb = s.memb := by
  simp [State.useTile]

@[simp] theorem State.sendLookups_memb (s : State) (x : Table) (table handle admitAt version : Nat) (rows : List Nat) :
    (s.sendLookups x table handle admitAt version rows).1.memb = s.memb := by
  unfold State.sendLookups
  simp

@[simp] theorem State.admitLookup_memb (s : State) (tag : Nat) (a : Admission) :
    (State.admitLookup s tag a).memb = s.memb := by unfold State.admitLookup; simp only []; (repeat' split) <;> simp

@[simp] theorem lookupAdmissionEff_memb (ring : Nat) (entry : Bytes) (s : State) :
    (lookupAdmissionEff ring entry s).memb = s.memb := by
  unfold lookupAdmissionEff
  split
  · rfl
  · exact State.admitRing_memb fun t a => by simp

@[simp] theorem State.lateReply_memb (s : State) : (State.lateReply s).memb = s.memb := by rfl

@[simp] theorem State.serveLookup_memb (s : State) (x : Table) (m : Bytes) (poisoned : List Nat) :
    (State.serveLookup s x m poisoned).memb = s.memb := by simp [State.serveLookup]

@[simp] theorem State.serveOrHold_memb (id : Nat) (s : State) (w : Bytes × List Nat) :
    (State.serveOrHold id s w).memb = s.memb := by unfold State.serveOrHold; (repeat' split) <;> simp

@[simp] theorem State.passBarrier_memb (s : State) (id : Nat) : (State.passBarrier s id).memb = s.memb := by
  unfold State.passBarrier; (repeat' split) <;> simp

@[simp] theorem State.passHeld_memb (s : State) : (State.passHeld s).memb = s.memb := by simp [State.passHeld]

@[simp] theorem lookupSubRequestReceiveEff_memb (m : Bytes) (poisoned : List Nat) (s : State) :
    (lookupSubRequestReceiveEff m poisoned s).memb = s.memb := by
  unfold lookupSubRequestReceiveEff; simp only []; (repeat' split) <;> simp

@[simp] theorem lookupReplyReceiveEff_memb (m aside : Bytes) (s : State) :
    (lookupReplyReceiveEff m aside s).memb = s.memb := by
  unfold lookupReplyReceiveEff; simp only []; (repeat' split) <;> simp_all

@[simp] theorem State.finishLookup_memb (s : State) (h : Nat) (l : Lookup) (status : Nat) :
    (State.finishLookup s h l status).memb = s.memb := by rfl

@[simp] theorem lookupPoolingEff_memb (h : Nat) (s : State) : (lookupPoolingEff h s).memb = s.memb := by
  unfold lookupPoolingEff; (repeat' split) <;> simp

@[simp] theorem burstEndEff_memb (u : Nat) (s : State) : (burstEndEff u s).memb = s.memb := by
  unfold burstEndEff; split <;> simp

/-! ### Migration -/

@[simp] theorem migrationSelectionEff_memb (id : Nat) (s : State) : (migrationSelectionEff id s).memb = s.memb := by
  unfold migrationSelectionEff; split <;> simp

@[simp] theorem State.moveRead_memb (s : State) (id row : Nat) : (s.moveRead id row).2.memb = s.memb := by
  unfold State.moveRead
  (repeat' split) <;> simp

@[simp] theorem migrationCopyEff_memb (id row : Nat) (stopped : Bool) (s : State) :
    (migrationCopyEff id row stopped s).memb = s.memb := by
  unfold migrationCopyEff
  split
  · rfl
  · have h := s.moveRead_memb id row
    generalize s.moveRead id row = m at h
    obtain ⟨b, t⟩ := m
    simp only [] at h
    cases b
    · exact h
    · simp only []
      (repeat' split) <;> simp [h]

@[simp] theorem State.dropStaleCopies_memb (s : State) (id : Nat) : (State.dropStaleCopies s id).memb = s.memb := by rfl
@[simp] theorem State.dropTableCopies_memb (s : State) (id : Nat) : (State.dropTableCopies s id).memb = s.memb := by rfl
@[simp] theorem State.switchResidency_memb (s : State) : (State.switchResidency s).memb = s.memb := by rfl

/-! ### GaitMsg -/

@[simp] theorem State.unstageFrom_memb (s : State) (e : Nat) : (State.unstageFrom s e).memb = s.memb := by rfl

/-! ### Query -/

@[simp] theorem State.addStale_memb (s : State) (index n : Nat) : (State.addStale s index n).memb = s.memb := by rfl
@[simp] theorem State.putSort_memb (s : State) (n : Nat) (u : SortUnit) : (State.putSort s n u).memb = s.memb := by rfl

@[simp] theorem State.admitQuery_memb (s : State) (tag : Nat) (tile : TileUse) (zeroing : Nat) (a : Admission) (x : Index) :
    (State.admitQuery s tag tile zeroing a x).memb = s.memb := by simp [State.admitQuery]

@[simp] theorem State.takeQuery_memb (s0 : State) (tag : Nat) (tile : TileUse) (a : Admission) :
    (State.takeQuery s0 tag tile a).memb = s0.memb := by unfold State.takeQuery; simp only []; (repeat' split) <;> simp_all

@[simp] theorem queryAdmissionEff_memb (ring : Nat) (entry : Bytes) (tile : TileUse) (s : State) :
    (queryAdmissionEff ring entry tile s).memb = s.memb := by
  unfold queryAdmissionEff
  split
  · rfl
  · split
    · exact State.admitRing_memb fun t a => by simp
    · rfl

@[simp] theorem shardSubRequestReceiveEff_memb (m : Bytes) (poisonRows poisonLists : List Nat) (sorter : SortUse)
    (s : State) :
    (shardSubRequestReceiveEff m poisonRows poisonLists sorter s).memb = s.memb := by
  unfold shardSubRequestReceiveEff; simp only []; (repeat' split) <;> simp_all

@[simp] theorem layer0RoundEff_memb (key : Nat) (poisonRows poisonLists : List Nat) (sorter : SortUse) (tile : TileUse)
    (s : State) :
    (layer0RoundEff key poisonRows poisonLists sorter tile s).memb = s.memb := by
  unfold layer0RoundEff; (repeat' split) <;> simp

@[simp] theorem State.searchReply_memb (s : State) (q : Search) (flags : BitVec 16) (l : List Entry)
    (failed : List (Nat × Nat)) :
    (State.searchReply s q flags l failed).memb = s.memb := by simp [State.searchReply]

@[simp] theorem shardReplySendEff_memb (key : Nat) (s : State) : (shardReplySendEff key s).memb = s.memb := by
  unfold shardReplySendEff; split <;> simp

@[simp] theorem shardReplyReceiveEff_memb (m aside : Bytes) (s : State) :
    (shardReplyReceiveEff m aside s).memb = s.memb := by
  unfold shardReplyReceiveEff; simp only []; (repeat' split) <;> simp_all

@[simp] theorem State.sendReranks_memb (s : State) (h : Nat) (q : Query) (set : List Entry) :
    (State.sendReranks s h q set).memb = s.memb := by simp [State.sendReranks]

@[simp] theorem State.sendFeatures_memb (s : State) (h : Nat) (q : Query) : (State.sendFeatures s h q).memb = s.memb := by
  unfold State.sendFeatures; simp only []; (repeat' split) <;> simp

@[simp] theorem State.mergeEnds_memb (s : State) (h : Nat) (q : Query) (sel : Selection) :
    (State.mergeEnds s h q sel).memb = s.memb := by simp [State.mergeEnds]

@[simp] theorem queryMergeEff_memb (h passes : Nat) (sorter : SortUse) (s : State) :
    (queryMergeEff h passes sorter s).memb = s.memb := by unfold queryMergeEff; (repeat' split) <;> simp

@[simp] theorem rerankRequestReceiveEff_memb (m : Bytes) (s : State) : (rerankRequestReceiveEff m s).memb = s.memb := by
  unfold rerankRequestReceiveEff; simp only []; (repeat' split) <;> simp

@[simp] theorem State.readRecords_memb (s : State) (v : View) (q : Search) (slots : List Nat) (reads : List FlashRead) :
    (State.readRecords s v q slots reads).memb = s.memb := by simp [State.readRecords]

@[simp] theorem rerankReadEff_memb (key : Nat) (reads : List FlashRead) (poisonRows : List Nat) (tile : TileUse) (s : State) :
    (rerankReadEff key reads poisonRows tile s).memb = s.memb := by unfold rerankReadEff; (repeat' split) <;> simp

@[simp] theorem rerankReplySendEff_memb (key : Nat) (s : State) : (rerankReplySendEff key s).memb = s.memb := by
  unfold rerankReplySendEff; (repeat' split) <;> simp

@[simp] theorem detourRequestEff_memb (m : Bytes) (reads : List FlashRead) (tile : TileUse) (s : State) :
    (detourRequestEff m reads tile s).memb = s.memb := by unfold detourRequestEff; simp only []; (repeat' split) <;> simp_all

@[simp] theorem rerankReplyReceiveEff_memb (m aside : Bytes) (s : State) :
    (rerankReplyReceiveEff m aside s).memb = s.memb := by
  unfold rerankReplyReceiveEff; simp only []; (repeat' split) <;> simp_all

@[simp] theorem replyDeadlineEff_memb (h : Nat) (s : State) : (replyDeadlineEff h s).memb = s.memb := by
  unfold replyDeadlineEff; (repeat' split) <;> simp

@[simp] theorem State.finishQuery_memb (s : State) (h : Nat) (q : Query) (flags : BitVec 16) (status : Nat) (l : List Entry) :
    (State.finishQuery s h q flags status l).memb = s.memb := by rfl

@[simp] theorem State.ranProgram_memb (s : State) (key : Nat) (p : Program) (tile : TileUse) (tokens : List (List Word32)) :
    (State.ranProgram s key p tile tokens).memb = s.memb := by rfl

@[simp] theorem State.completeQuery_memb (s : State) (h : Nat) (q : Query) (weightsPoisoned : Bool) (sorter : SortUse) :
    (State.completeQuery s h q weightsPoisoned sorter).memb = s.memb := by simp [State.completeQuery]

@[simp] theorem State.placeBatch_memb (s : State) (tile key : Nat) (batch : List Nat) :
    (State.placeBatch s tile key batch).memb = s.memb := by rfl

@[simp] theorem finalMergeEff_memb (h : Nat) (weightsPoisoned : Bool) (sorter : SortUse) (tile : TileUse) (s : State) :
    (finalMergeEff h weightsPoisoned sorter tile s).memb = s.memb := by unfold finalMergeEff; (repeat' split) <;> simp

@[simp] theorem State.stopQuery_memb (s : State) (h : Nat) (q : Query) : (State.stopQuery s h q).memb = s.memb := by rfl

/-! ### Train -/

@[simp] theorem State.modStep_memb (s : State) (table num : Nat) (g : Step → Step) :
    (State.modStep s table num g).memb = s.memb := by rfl

@[simp] theorem State.takeSegment_memb (s : State) (table : Nat) (g : Segment) :
    (State.takeSegment s table g).memb = s.memb := by unfold State.takeSegment; (repeat' split) <;> simp

@[simp] theorem State.sendSegments_memb (s : State) (table num : Nat) (x : Table) (refused : Bool) (lr : Word32)
    (l : List Contribution) :
    (State.sendSegments s table num x refused lr l).memb = s.memb := by simp [State.sendSegments]

@[simp] theorem State.admitStep_memb (before : State) (tile : TileUse) (a : Admission) :
    (State.admitStep before tile a).memb = before.memb := by
  unfold State.admitStep; simp only []; (repeat' split) <;> simp_all

@[simp] theorem State.missStep_memb (s : State) (r : Ring) (cls : Nat) : (State.missStep s r cls).memb = s.memb := by
  unfold State.missStep; split <;> simp

@[simp] theorem stepAdmissionEff_memb (ring : Nat) (entry : Bytes) (tile : TileUse) (s : State) :
    (stepAdmissionEff ring entry tile s).memb = s.memb := by
  unfold stepAdmissionEff
  split
  · rfl
  · split
    · rfl
    · split
      · split <;> simp
      · split
        · split <;> simp
        · exact State.admitRing_memb fun t a => by simp

@[simp] theorem stepSegmentReceiveEff_memb (m : Bytes) (s : State) : (stepSegmentReceiveEff m s).memb = s.memb := by
  unfold stepSegmentReceiveEff; (repeat' split) <;> simp

@[simp] theorem stepMergeEff_memb (table : Nat) (tile : TileUse) (s : State) :
    (stepMergeEff table tile s).memb = s.memb := by unfold stepMergeEff; (repeat' split) <;> simp

@[simp] theorem stepMirrorEff_memb (table : Nat) (tile : TileUse) (s : State) :
    (stepMirrorEff table tile s).memb = s.memb := by unfold stepMirrorEff; (repeat' split) <;> simp

@[simp] theorem stepMirrorReceiveEff_memb (m : Bytes) (tile : TileUse) (s : State) :
    (stepMirrorReceiveEff m tile s).memb = s.memb := by
  unfold stepMirrorReceiveEff; simp only []; (repeat' split) <;> simp_all

@[simp] theorem State.applyInHbm_memb (s : State) (id : Nat) (before : Table) (uncorrectable : List Nat) (m : Merged) :
    (State.applyInHbm s id before uncorrectable m).memb = s.memb := by
  unfold State.applyInHbm; simp only []; (repeat' split) <;> simp_all

@[simp] theorem State.sendNotices_memb (s : State) (table num : Nat) (single : Bool) :
    (State.sendNotices s table num single).memb = s.memb := by unfold State.sendNotices; (repeat' split) <;> simp

@[simp] theorem stepApplyEff_memb (table : Nat) (u : List Nat) (s : State) : (stepApplyEff table u s).memb = s.memb := by
  unfold stepApplyEff
  split
  · rfl
  · split
    · rfl
    · split
      · rfl
      · simp only []
        split <;> simp

@[simp] theorem State.diverges_fencing (s : State) : (State.diverges s).memb.fencing = s.memb.fencing := by rfl

@[simp] theorem stepDigestReceiveEff_fencing (table num digest : Nat) (poisoned : List Nat) (s : State) :
    (stepDigestReceiveEff table num digest poisoned s).memb.fencing = s.memb.fencing := by
  unfold stepDigestReceiveEff; (repeat' split) <;> simp

@[simp] theorem stepDigestDeadlineEff_fencing (table : Nat) (s : State) :
    (stepDigestDeadlineEff table s).memb.fencing = s.memb.fencing := by
  unfold stepDigestDeadlineEff; (repeat' split) <;> simp

@[simp] theorem State.finishStep_memb (s : State) (t : StepEntry) (missing : Bool) :
    (State.finishStep s t missing).memb = s.memb := by rfl

@[simp] theorem stepNoticeReceiveEff_memb (m : Bytes) (s : State) : (stepNoticeReceiveEff m s).memb = s.memb := by
  unfold stepNoticeReceiveEff; split <;> simp

@[simp] theorem State.repairRow_memb (s : State) (table row num : Nat) (image state : Bytes) :
    (State.repairRow s table row num image state).memb = s.memb := by
  unfold State.repairRow; simp only []; (repeat' split) <;> simp_all

@[simp] theorem stepPoisonRepairEff_memb (table row : Nat) (image state : Bytes) (s : State) :
    (stepPoisonRepairEff table row image state s).memb = s.memb := by unfold stepPoisonRepairEff; (repeat' split) <;> simp

/-! ### Update -/

@[simp] theorem State.admitUpdate_memb (s : State) (tag : Nat) (a : Admission) (x : Index) :
    (State.admitUpdate s tag a x).memb = s.memb := by simp [State.admitUpdate]

@[simp] theorem State.takeUpdate_memb (s0 : State) (tag : Nat) (tile : TileUse) (a : Admission) :
    (State.takeUpdate s0 tag tile a).memb = s0.memb := by unfold State.takeUpdate; simp only []; (repeat' split) <;> simp_all

@[simp] theorem updateAdmissionEff_memb (ring : Nat) (entry : Bytes) (tile : TileUse) (s : State) :
    (updateAdmissionEff ring entry tile s).memb = s.memb := by
  unfold updateAdmissionEff
  split
  · rfl
  · split
    · exact State.admitRing_memb fun t a => by simp
    · rfl

@[simp] theorem State.linked_memb (s : State) (v : View) (bad : List Nat) (before : Search) (w : Walk) (a : Nat)
    (sorter : SortUse) :
    (State.linked s v bad before w a sorter).memb = s.memb := by simp [State.linked]

@[simp] theorem updateForwardReceiveEff_memb (m : Bytes) (poisonRows poisonLists : List Nat) (sorter : SortUse) (s : State) :
    (updateForwardReceiveEff m poisonRows poisonLists sorter s).memb = s.memb := by
  unfold updateForwardReceiveEff; simp only []; (repeat' split) <;> simp

@[simp] theorem linkingRoundEff_memb (key : Nat) (poisonRows poisonLists : List Nat) (sorter : SortUse) (tile : TileUse)
    (s : State) :
    (linkingRoundEff key poisonRows poisonLists sorter tile s).memb = s.memb := by
  unfold linkingRoundEff; (repeat' split) <;> simp

@[simp] theorem State.stageOne_memb (s : State) (w : ServedUpdate × TileUse) : (State.stageOne s w).memb = s.memb := by
  unfold State.stageOne; simp only []; (repeat' split) <;> simp_all

@[simp] theorem mirrorRecordReceiveEff_memb (m : Bytes) (s : State) : (mirrorRecordReceiveEff m s).memb = s.memb := by
  unfold mirrorRecordReceiveEff; (repeat' split) <;> simp

@[simp] theorem State.holdPending_memb (s : State) (serving : Bool) (handle entryNode : Nat) :
    (State.holdPending s serving handle entryNode).memb = s.memb := by rfl

@[simp] theorem State.commitUpdates_memb (s : State) : (State.commitUpdates s).memb = s.memb := by simp [State.commitUpdates]

@[simp] theorem State.finishUpdate_memb (s : State) (h : Nat) (u : EntryUpdate) (status flags loc : Nat) :
    (State.finishUpdate s h u status flags loc).memb = s.memb := by rfl

@[simp] theorem updateAckReceiveEff_memb (m : Bytes) (s : State) : (updateAckReceiveEff m s).memb = s.memb := by
  unfold updateAckReceiveEff; simp only []; (repeat' split) <;> simp

@[simp] theorem State.loseUpdate_memb (s : State) (h : Nat) (u : EntryUpdate) :
    (State.loseUpdate s h u).memb = s.memb := by rfl

@[simp] theorem updateReplyDeadlineEff_memb (h : Nat) (s : State) : (updateReplyDeadlineEff h s).memb = s.memb := by
  unfold updateReplyDeadlineEff; split <;> simp

/-! ### Version -/

@[simp] theorem State.admitIndexBuild_memb (s : State) (id : Nat) (x : Index) (b : Build) (poison : List Nat) :
    (State.admitIndexBuild s id x b poison).memb = s.memb := by simp [State.admitIndexBuild]

@[simp] theorem State.admitTableBuild_memb (s : State) (id : Nat) (x : Table) (b : Build) :
    (State.admitTableBuild s id x b).memb = s.memb := by simp [State.admitTableBuild]

@[simp] theorem State.readSource_memb (s : State) (b : Build) (size : Nat) (reads : List FlashRead) :
    (State.readSource s b size reads).memb = s.memb := by
  unfold State.readSource
  split
  · rfl
  · refine foldl_memb (fun t u => ?_) _ _
    split
    · simp only []; (repeat' split) <;> simp
    · rfl

@[simp] theorem buildAdmissionEff_memb (id : Nat) (poisonRows : List Nat) (reads : List FlashRead) (s : State) :
    (buildAdmissionEff id poisonRows reads s).memb = s.memb := by unfold buildAdmissionEff; (repeat' split) <;> simp

@[simp] theorem State.versionReady_memb (s : State) (opcode id : Nat) (b : Build) (status digest step : Nat) :
    (State.versionReady s opcode id b status digest step).memb = s.memb := by simp [State.versionReady]

@[simp] theorem State.endIndexBuild_memb (s : State) (id : Nat) (x : Index) (b : Build) (status : Nat) :
    (State.endIndexBuild s id x b status).memb = s.memb := by unfold State.endIndexBuild; split <;> simp

@[simp] theorem State.endTableBuild_memb (s : State) (id : Nat) (x : Table) (b : Build) (status : Nat) :
    (State.endTableBuild s id x b status).memb = s.memb := by unfold State.endTableBuild; split <;> simp

@[simp] theorem versionBuiltEff_memb (id : Nat) (s : State) : (versionBuiltEff id s).memb = s.memb := by
  unfold versionBuiltEff; (repeat' split) <;> simp

@[simp] theorem State.voidBuilds_memb (s : State) : s.voidBuilds.memb = s.memb := by
  unfold State.voidBuilds
  simp only []
  rw [foldl_memb, foldl_memb]
  all_goals
    intro t a
    repeat' split
    all_goals simp

@[simp] theorem State.setSwitch_memb (s : State) (id : Nat) (w : Option Switch) :
    (State.setSwitch s id w).memb = s.memb := by rfl

@[simp] theorem State.dropSwitch_memb (s : State) (id : Nat) (w : Switch) : (State.dropSwitch s id w).memb = s.memb := by
  simp [State.dropSwitch]

@[simp] theorem State.decideSwitch_memb (s : State) (id : Nat) : (State.decideSwitch s id).memb = s.memb := by
  unfold State.decideSwitch; split <;> simp

@[simp] theorem goRecordReceiveEff_memb (id version stride digest : Nat) (s : State) :
    (goRecordReceiveEff id version stride digest s).memb = s.memb := by unfold goRecordReceiveEff; split <;> simp

@[simp] theorem State.applySwitch_memb (s : State) (id : Nat) : (State.applySwitch s id).memb = s.memb := by
  unfold State.applySwitch; split <;> simp

@[simp] theorem State.applySwitches_memb (s : State) : (State.applySwitches s).memb = s.memb := by simp [State.applySwitches]
@[simp] theorem State.freeVersions_memb (s : State) : (State.freeVersions s).memb = s.memb := by rfl

@[simp] theorem State.freeObject_memb (s : State) (id : Nat) : (State.freeObject s id).memb = s.memb := by
  simp [State.freeObject]

@[simp] theorem State.closeScrubbed_memb (s : State) (c : Nat) : (State.closeScrubbed s c).memb = s.memb := by
  simp [State.closeScrubbed]

@[simp] theorem contextCloseDrainedEff_memb (c : Nat) (s : State) : (contextCloseDrainedEff c s).memb = s.memb := by
  unfold contextCloseDrainedEff; split <;> simp

@[simp] theorem State.hbmZero_memb (s : State) (a n : Nat) : (State.hbmZero s a n).memb = s.memb := by rfl

@[simp] theorem State.scrubStack_memb (l : List Nat) (n : Nat) (s : State) : (State.scrubStack l n s).memb = s.memb := by
  induction l generalizing n s with
  | nil => rfl
  | cons g l ih => unfold State.scrubStack; simp only []; (repeat' split) <;> simp [ih]

@[simp] theorem versionFillEff_memb (id version : Nat) (s : State) : (versionFillEff id version s).memb = s.memb := by rfl

/-! ### Mirror -/

@[simp] theorem State.groupFigures_memb (s : State) : (State.groupFigures s).2.memb = s.memb := by
  unfold State.groupFigures
  rw [foldl_snd_memb]
  intro x p
  (repeat' split) <;> simp

@[simp] theorem State.writeMirror_memb (s : State) (n : Nat) : (s.writeMirror n).memb = s.memb := by
  unfold State.writeMirror
  simp

@[simp] theorem mirrorPublicationEff_memb (s : State) : (mirrorPublicationEff s).memb = s.memb := by
  unfold mirrorPublicationEff
  simp only []
  split
  · rfl
  · repeat' split
    all_goals simp

/-! ### Bar0 -/

@[simp] theorem mailboxWrite_memb (f o : Nat) (value : Word32) (s : State) : (mailboxWrite f o value s).memb = s.memb := by
  simp [mailboxWrite]

@[simp] theorem bar0Write_memb (f offset : Nat) (value reassert : Word32) (s : State) :
    (bar0Write f offset value reassert s).memb = s.memb := by simp [bar0Write]

@[simp] theorem bar4Write_memb (f offset : Nat) (value : Word32) (s : State) :
    (bar4Write f offset value s).memb = s.memb := by simp [bar4Write]

@[simp] theorem wordWrite_memb (f bar offset : Nat) (value reassert : Word32) (s : State) :
    (wordWrite f bar offset value reassert s).memb = s.memb := by simp [wordWrite]

@[simp] theorem registerWriteEff_memb (f bar offset size : Nat) (value reassert : Word64) (s : State) :
    (registerWriteEff f bar offset size value reassert s).memb = s.memb := by simp [registerWriteEff]

/-! ### Membership -/

@[simp] theorem State.flood_memb (s : State) (except : Option Nat) (body : Bytes) :
    (State.flood s except body).memb = s.memb := by simp [State.flood]

@[simp] theorem State.accuse_fencing (s : State) (subject dst : Nat) :
    (State.accuse s subject dst).memb.fencing = s.memb.fencing := by
  unfold State.accuse
  split <;> simp

@[simp] theorem State.accuseBoth_fencing (s : State) (subject : Nat) :
    (State.accuseBoth s subject).memb.fencing = s.memb.fencing := by simp [foldl_fencing, State.accuseBoth]

theorem State.takesFrom_fencing {s : State} {sender : Nat} {take : State → State}
    (h : ∀ t, (take t).memb.fencing = t.memb.fencing) : (s.takesFrom sender take).memb.fencing = s.memb.fencing := by
  unfold State.takesFrom
  (repeat' split) <;> simp [h]

@[simp] theorem State.vouchTo_fencing (s : State) (subject dst : Nat) :
    (State.vouchTo s subject dst).memb.fencing = s.memb.fencing := by
  unfold State.vouchTo
  split <;> simp

@[simp] theorem State.vouch_fencing (s : State) (subject : Nat) : (State.vouch s subject).memb.fencing = s.memb.fencing := by
  simp [foldl_fencing, State.vouch]

@[simp] theorem State.countMiss_fencing (s : State) (n : Nat) : (State.countMiss s n).memb.fencing = s.memb.fencing := by
  simp [State.countMiss]

@[simp] theorem State.fenceEvent_memb (s : State) (x : Fence) (epoch : Nat) :
    (State.fenceEvent s x epoch).memb = s.memb := by simp [State.fenceEvent]

@[simp] theorem State.decideFence_fencing (s : State) (d : Nat × Nat) :
    (State.decideFence s d).memb.fencing = s.memb.fencing := by simp [State.decideFence]

@[simp] theorem State.stopFenced_memb (s : State) : (State.stopFenced s).memb = s.memb := by rfl

@[simp] theorem State.decideFences_fencing (s : State) (l : List (Nat × Nat)) :
    (State.decideFences s l).memb.fencing = s.memb.fencing := by simp [foldl_fencing, State.decideFences]

@[simp] theorem State.stopJob_memb (s : State) (c : Nat) : (State.stopJob s c).memb = s.memb := by simp [State.stopJob]
@[simp] theorem State.dropServed_memb (s : State) (c : Nat) : (State.dropServed s c).memb = s.memb := by rfl
@[simp] theorem State.closeWindows_memb (s : State) (c : Nat) : (State.closeWindows s c).memb = s.memb := by rfl
@[simp] theorem State.tearDown_memb (s : State) (c : Nat) : (State.tearDown s c).memb = s.memb := by simp [State.tearDown]

@[simp] theorem heartbeatSendEff_fencing (s : State) : (heartbeatSendEff s).memb.fencing = s.memb.fencing := by
  simp [heartbeatSendEff, foldl_fencing]

@[simp] theorem heartbeatReceiveEff_fencing (p : Nat) (r : Bytes) (s : State) :
    (heartbeatReceiveEff p r s).memb.fencing = s.memb.fencing := by simp [heartbeatReceiveEff]

@[simp] theorem accusationReceiveEff_fencing (r : Bytes) (s : State) :
    (accusationReceiveEff r s).memb.fencing = s.memb.fencing := by
  unfold accusationReceiveEff
  split
  · rfl
  · exact State.takesFrom_fencing fun t => by simp

@[simp] theorem vouchReceiveEff_fencing (r : Bytes) (s : State) : (vouchReceiveEff r s).memb.fencing = s.memb.fencing := by
  unfold vouchReceiveEff
  split
  · rfl
  · exact State.takesFrom_fencing fun t => by simp

@[simp] theorem fenceRecordReceiveEff_fencing (p : Nat) (r : Bytes) (s : State) :
    (fenceRecordReceiveEff p r s).memb.fencing = s.memb.fencing := by simp [fenceRecordReceiveEff]

/-! ### Power -/

@[simp] theorem State.begin_memb (s : State) : (State.begin s).memb = s.memb := by simp [State.begin]
@[simp] theorem State.halt_fencing (s : State) (st : Nat) : (State.halt s st).memb.fencing = s.memb.fencing := by rfl

@[simp] theorem State.startFlush_fencing (s : State) (st : Nat) :
    (State.startFlush s st).memb.fencing = s.memb.fencing := by rfl

@[simp] theorem State.crossings_memb (s : State) (now : List Int) : (State.crossings s now).memb = s.memb := by
  simp [State.crossings]

@[simp] theorem State.trip_fencing (s : State) : (State.trip s).memb.fencing = s.memb.fencing := by simp [State.trip]

@[simp] theorem remountCheckpointEff_memb (s : State) : (remountCheckpointEff s).memb = s.memb := by
  unfold remountCheckpointEff; split <;> simp

/-! ### Startup -/

@[simp] theorem State.enter_memb (s : State) (n : Nat) : (State.enter s n).memb = s.memb := by rfl

@[simp] theorem State.fail_fencing (s : State) (code : Nat) : (State.fail s code).memb.fencing = s.memb.fencing := by
  simp [State.fail]

@[simp] theorem firmwareMeasuredStartEff_fencing (secret : Bytes) (s : State) :
    (firmwareMeasuredStartEff secret s).memb.fencing = s.memb.fencing := by
  unfold firmwareMeasuredStartEff; (repeat' split) <;> simp

@[simp] theorem tackImageReceiveEff_fencing (b : Bytes) (s : State) :
    (tackImageReceiveEff b s).memb.fencing = s.memb.fencing := by unfold tackImageReceiveEff; (repeat' split) <;> simp

@[simp] theorem State.settleUnits_memb (s : State) (stage : Nat) (failed : List (Nat × Nat)) :
    (State.settleUnits s stage failed).memb = s.memb := by rfl

@[simp] theorem State.dropLanes_memb (s : State) (lost : List (Nat × Nat)) : (State.dropLanes s lost).memb = s.memb := by rfl
@[simp] theorem State.admitUnits_memb (s : State) (lanes : BitVec 36) : (State.admitUnits s lanes).memb = s.memb := by rfl

@[simp] theorem State.toParents_memb (s : State) (b : Bytes) : (State.toParents s b).memb = s.memb := by
  simp [State.toParents]

@[simp] theorem State.enterJoin_memb (s : State) : (State.enterJoin s).memb = s.memb := by simp [State.enterJoin]

@[simp] theorem State.programNow_memb (ch : Nat) (s : State) (o : ArrayOp) : (State.programNow ch s o).memb = s.memb := by
  unfold State.programNow; (repeat' split) <;> simp

@[simp] theorem State.programPage_memb (ch pad : Nat) (s : State) (units : List (Nat × PastWrite)) :
    (State.programPage ch pad s units).memb = s.memb := by simp [State.programPage]

@[simp] theorem State.programUnits_memb (pad : Nat) (s : State) (ch : Nat) :
    (State.programUnits pad s ch).memb = s.memb := by simp [State.programUnits]

@[simp] theorem State.programBack_memb (s : State) : (State.programBack s).memb = s.memb := by simp [State.programBack]
@[simp] theorem State.movesNow_memb (s : State) (ch : Nat) : (State.movesNow s ch).memb = s.memb := by simp [State.movesNow]

@[simp] theorem State.retireDie_memb (s : State) (u : Nat × Nat) : (State.retireDie s u).memb = s.memb := by
  simp [State.retireDie]

@[simp] theorem State.enterTraining_memb (s : State) : (State.enterTraining s).memb = s.memb := by rfl
@[simp] theorem State.zeroCounters_memb (s : State) : (State.zeroCounters s).memb = s.memb := by rfl
@[simp] theorem State.finishCloses_memb (s : State) : (State.finishCloses s).memb = s.memb := by rfl
@[simp] theorem State.unwrapKeys_memb (s : State) : (State.unwrapKeys s).memb = s.memb := by simp [State.unwrapKeys]
@[simp] theorem State.restoreFrom_memb (s : State) (c : Checkpoint) : (State.restoreFrom s c).memb = s.memb := by rfl

@[simp] theorem State.restoreOwn_memb (s : State) : (State.restoreOwn s).memb = s.memb := by
  unfold State.restoreOwn; (repeat' split) <;> simp

@[simp] theorem State.restoreSteps_memb (s : State) (steps : List (Nat × Nat)) :
    (State.restoreSteps s steps).memb = s.memb := by rfl

@[simp] theorem State.takeUnits_memb (s : State) (u : List (Nat × Nat × Bytes)) : (s.takeUnits u).memb = s.memb := by
  unfold State.takeUnits
  rw [foldl_memb]
  simp

@[simp] theorem State.grantAll_memb (s : State) : (State.grantAll s).memb = s.memb := by simp [State.grantAll]
@[simp] theorem State.clearSingle_memb (s : State) : (State.clearSingle s).memb = s.memb := by rfl

@[simp] theorem State.supplyPartner_memb (s : State) : (State.supplyPartner s).memb = s.memb := by
  unfold State.supplyPartner; (repeat' split) <;> simp

theorem State.restored_memb {s t : State} {r : RestoreReport} (h : s.restored r = some t) : t.memb = s.memb := by
  unfold State.restored at h
  (repeat' split at h) <;> cases h <;> simp

@[simp] theorem stateRestoreEff_fencing (r : RestoreReport) (s : State) :
    (stateRestoreEff r s).memb.fencing = s.memb.fencing := by
  unfold stateRestoreEff; simp only []
  split
  · rfl
  · split
    · simp
    · split
      · simp
      · rename_i h
        have h := State.restored_memb h
        simp only [State.unwrapKeys_memb, State.finishCloses_memb] at h
        (repeat' split) <;> simp [h]

@[simp] theorem versionFilledEff_memb (id version : Nat) (reads : List FlashRead) (s : State) :
    (versionFilledEff id version reads s).memb = s.memb := by unfold versionFilledEff; (repeat' split) <;> simp

/-! ### Device -/

@[simp] theorem controlCoreRestartedEff_memb (s : State) : (controlCoreRestartedEff s).memb = s.memb := by
  simp [controlCoreRestartedEff]

@[simp] theorem State.managementRestart_memb (s : State) : (State.managementRestart s).memb = s.memb := by rfl

/-! ### Boundary -/

@[simp] theorem State.stopSteps_memb (s : State) (table : Nat) (which : Step → Bool) :
    (State.stopSteps s table which).memb = s.memb := by rfl

@[simp] theorem State.stopWork_memb (s : State) (w : Nat) : (State.stopWork s w).memb = s.memb := by
  unfold State.stopWork; simp only []; (repeat' split) <;> simp_all

@[simp] theorem State.overran_memb (s : State) (w : Nat) : (State.overran s w).memb = s.memb := by simp [State.overran]
@[simp] theorem State.stopOverdue_memb (s : State) : (State.stopOverdue s).memb = s.memb := by simp [State.stopOverdue]
@[simp] theorem State.stopUnits_memb (s : State) : (State.stopUnits s).memb = s.memb := by simp [State.stopUnits]
@[simp] theorem State.endReplies_memb (s : State) : (State.endReplies s).memb = s.memb := by simp [State.endReplies]
@[simp] theorem State.dropStale_fencing (s : State) : (State.dropStale s).memb.fencing = s.memb.fencing := by rfl

@[simp] theorem State.endStride_fencing (s : State) (overrun : List Nat) :
    (State.endStride s overrun).memb.fencing = s.memb.fencing := by simp [State.endStride]

@[simp] theorem State.sendMarks_memb (s : State) : (State.sendMarks s).memb = s.memb := by simp [State.sendMarks]

@[simp] theorem State.writeRow_memb (s : State) (id : Nat) (r : TableRow) : (State.writeRow s id r).memb = s.memb := by
  unfold State.writeRow; simp only []; (repeat' split) <;> simp_all

@[simp] theorem State.applyWrites_memb (s : State) (id : Nat) : (State.applyWrites s id).memb = s.memb := by
  unfold State.applyWrites; (repeat' split) <;> simp

@[simp] theorem State.fixLookups_memb (s : State) : (State.fixLookups s).memb = s.memb := by rfl
@[simp] theorem State.visibility_memb (s : State) : (State.visibility s).memb = s.memb := by simp [State.visibility]

@[simp] theorem State.adoptAperture_memb (s : State) (f a : Nat) : (State.adoptAperture s f a).memb = s.memb := by
  simp [State.adoptAperture]

@[simp] theorem State.adoptShadows_memb (s : State) : (State.adoptShadows s).memb = s.memb := by simp [State.adoptShadows]
@[simp] theorem State.mount_memb (s : State) (u : UnitSet) : (State.mount s u).memb = s.memb := by rfl

@[simp] theorem State.adoptGait_memb (s : State) : (State.adoptGait s).memb = s.memb := by
  unfold State.adoptGait; (repeat' split) <;> simp

@[simp] theorem State.createContext_memb (s : State) (c f : Nat) : (State.createContext s c f).memb = s.memb := by rfl
@[simp] theorem State.closeObject_memb (s : State) (id : Nat) : (State.closeObject s id).memb = s.memb := by rfl

@[simp] theorem State.closeContext_memb (s : State) (c : Nat) : (State.closeContext s c).memb = s.memb := by
  unfold State.closeContext; split <;> simp

@[simp] theorem State.applyChange_memb (s : State) (x1 : Change) : (State.applyChange s x1).memb = s.memb := by
  unfold State.applyChange; (repeat' split) <;> simp

@[simp] theorem State.adoptChanges_memb (s : State) : (State.adoptChanges s).memb = s.memb := by simp [State.adoptChanges]
@[simp] theorem State.closeDetached_memb (s : State) : (State.closeDetached s).memb = s.memb := by simp [State.closeDetached]
@[simp] theorem State.release_memb (s : State) : (State.release s).memb = s.memb := by rfl

@[simp] theorem State.remountAt_memb (s : State) : (State.remountAt s).memb = s.memb := by
  unfold State.remountAt; split <;> simp

@[simp] theorem State.adoption_memb (s : State) : (State.adoption s).memb = s.memb := by simp [State.adoption]
@[simp] theorem State.commitFlags_memb (s : State) : (State.commitFlags s).memb = s.memb := by rfl

/-! ## Commands that adopt no fence -/

/-- A command whose effect leaves the fencing leaves it where it runs. -/
theorem guarded_fencing {ok : Bool} {eff : State → State} {s t : State} (h : guarded ok eff s = .next t)
    (heff : (eff s).memb.fencing = s.memb.fencing) : t.memb.fencing = s.memb.fencing := by
  rw [(guarded_next.1 h).2, heff]

/-- A request whose processing leaves membership leaves the fencing. -/
theorem State.serve_fencing {s : State} {f op : Nat} {act : State → Request → State × Option (Nat × Nat × Bytes)}
    (h : ∀ t q, (act t q).1.memb = t.memb) : (s.serve f op act).memb.fencing = s.memb.fencing :=
  congrArg _ (State.serve_memb h)

/-- What arrives whole keeps what the taking keeps. -/
theorem State.arrives_fencing {s : State} {cls source : Nat} {message : Bytes} {take : State → State}
    (h : ∀ t, (take t).memb.fencing = t.memb.fencing) :
    (s.arrives cls source message take).memb.fencing = s.memb.fencing := by
  unfold State.arrives
  simp only []
  split <;> simp [h]

theorem State.closeJoin_memb (s : State) : s.closeJoin.memb = s.memb := by simp [State.closeJoin]

theorem exec_fencing {c : Instr} {s t : State} (h : exec c s = .next t)
    (hrest : c ∉ [.powerRemoval, .undervoltage, .resetNAssert, .powerFailFlushEnd, .remountRestart])
    (hboundary : ∀ w, c ≠ .strideBoundary w) (hservice : ∀ l, c ≠ .serviceGaitAdoption l) :
    t.memb.fencing = s.memb.fencing := by
  cases c
  case strideBoundary w => exact absurd rfl (hboundary w)
  case serviceGaitAdoption l => exact absurd rfl (hservice l)
  case powerRemoval | undervoltage | resetNAssert | powerFailFlushEnd | remountRestart => simp at hrest
  all_goals simp only [exec] at h; refine guarded_fencing h ?_
  -- requests of the catalogue
  case deviceCapabilities | gaitStatus | fabricLinkStatus | herdStatus | trustAttest | trustBrandRecord | healthAgeingReport |
    healthUnits => exact State.serve_fencing fun t q => rfl
  case deviceFormat | contextCreate | contextClose | contextReserve | contextStatus | ringOpen | ringClose | residencySet |
    residencyPin | residencyReplicate | gaitStage | gaitCancel | indexCreate | indexClose | indexBuild |
    indexCompact | indexSwitch | indexRelease | indexStatus | programUnload | programStatus | tableCreate | tableClose |
    tableBuild | tableFold | tableSwitch | tableRelease | tableStatus | tableRowWrite | paddockCreate | paddockDelete |
    paddockStatus | storageQueueCreate | storageQueueDelete | storageWeightsSet | flashHealthLog | fabricWindowSet |
    fabricRegionSet | fabricGateStage | fabricGateCancel | fabricPolicerSet | herdTeardown |
    herdUnitReturn | trustIdeKey =>
    refine State.serve_fencing fun t q => ?_
    simp only [refuse, accept, report]
    (repeat' split) <;> simp
  case gaitCheck | gaitLoad | programLoad | fabricRouteSet | herdRemount | herdRemountCancel | trustFwUpdate |
    trustDebugChallenge | trustDebugUnlock =>
    simp only [gaitImageEff, programLoadEff, fabricRouteSetEff, herdRemountEff, herdRemountCancelEff, trustFwUpdateEff,
      trustDebugChallengeEff, trustDebugUnlockEff]
    split
    · rfl
    · refine State.serve_fencing fun t q => ?_
      simp only [refuse, accept, report]
      (repeat' split) <;> simp
  -- a choice of changes that leave membership
  case mbSubmit | requestTake | mbReplyAck | noteHeadWrite | registerWrite | strideLoRead | intCauseClear | intMaskWrite |
    dbFaultClear | bar2ErrClear | arbFlagsClear | subTailWrite | cplHeadWrite | bar2Fence | bar2Read | bar2Write |
    bar2Atomic | msixVectorUnmask | linkUp | linkDown | perstNAssert | functionLevelReset | vfRemoval |
    busMasterEnableWrite | ideIntegrityFailure =>
    simp [requestTakeEff, strideLoReadEff, bar2AtomicEff, linkUpEff, linkDownEff, functionLevelResetEff, vfRemovalEff,
      busMasterEnableWriteEff]
  case updateStaging | mirrorAckReceive | mirrorConfirmReceive | storageAdmission | pagePaddingTimeout | wearLevelCheck |
    mapCheckpoint | flashTemperatureSample | qload | scan | update | rowwrite | burstGrant | arbiterDecision |
    switchTupleReceive | goRecordDeadline | indexCloseDrained | granuleScrub | stepNoticeDeadline =>
    simp [updateStagingEff, mirrorAckReceiveEff, mirrorConfirmReceiveEff, storageAdmissionEff, pagePaddingTimeoutEff,
      wearLevelCheckEff, mapCheckpointEff, flashTemperatureSampleEff, unitCommandEff, burstGrantEff, arbiterDecisionEff,
      switchTupleReceiveEff, goRecordDeadlineEff, indexCloseDrainedEff, granuleScrubEff, stepNoticeDeadlineEff]
  case frameReceive | creditReturn | creditMessageReceive | strideMarkReceive | operationTimeout | portDown | laserModuleDark |
    portTraining | parentMarkLoss | outOfStep | strideInEdge | strideInLoss =>
    simp [frameReceiveEff, creditReturnEff, creditMessageReceiveEff, strideMarkReceiveEff, operationTimeoutEff,
      portTrainingEff, parentMarkLossEff, outOfStepEff, strideInEdgeEff, strideInLossEff]
  case powerArrival | resetNRelease | lateJoinWait | farrierSweep | joinClose | joinCloseTimeout | rootSilentTimeout |
    joinCloseReceive | controlCoreFault | controlCoreRestarted | managementCoreCrash | mctpAttestation | mctpBrandRecord |
    mctpFirmwareVersion | mctpAgeingReport | mctpUnitLists | mctpMirrorRead =>
    simp [powerArrivalEff, resetNReleaseEff, lateJoinWaitEff, farrierSweepEff, joinCloseEff, joinCloseReceiveEff,
      controlCoreFaultEff, managementCoreCrashEff, mctpMirrorReadEff, State.closeJoin_memb]
  -- membership, divergence and stops
  case commitDigestReceive | commitDigestDeadline | versionPairReceive | versionPairDeadline | heartbeatSend | heartbeatMiss |
    fenceDecision | pwrfailNAssert | junctionSample | railsInRegulation | unitTraining | flashScan | strideLock |
    stageTimeout =>
    simp [foldl_fencing, commitDigestReceiveEff, commitDigestDeadlineEff, versionPairReceiveEff, versionPairDeadlineEff,
      heartbeatMissEff, fenceDecisionEff, pwrfailNAssertEff, junctionSampleEff, railsInRegulationEff,
      unitTrainingEff, flashScanEff, strideLockEff, stageTimeoutEff]
  case heartbeatReceive | accusationReceive | vouchReceive | fenceRecordReceive | joinRecordReceive =>
    exact State.arrives_fencing fun t => by simp [joinRecordReceiveEff]
  -- effects that have their lemma above
  all_goals simp

/-! ## Adoption (R325) -/

/-- From `s` to `t` no node has left the fenced set, and the epoch has risen by one for each node that joined it. -/
def FencesAdopted (s t : State) : Prop :=
  (∀ n ∈ s.memb.fenced, n ∈ t.memb.fenced) ∧
    t.memb.epoch + s.memb.fenced.length = s.memb.epoch + t.memb.fenced.length

theorem FencesAdopted.trans {s t u : State} (h : FencesAdopted s t) (k : FencesAdopted t u) : FencesAdopted s u := by
  obtain ⟨hin, hepoch⟩ := h
  obtain ⟨kin, kepoch⟩ := k
  exact ⟨fun n hn => kin n (hin n hn), by omega⟩

/-- What keeps the fencing has adopted nothing. -/
theorem FencesAdopted.of_fencing {s t : State} (h : t.memb.fencing = s.memb.fencing) : FencesAdopted s t := by
  obtain ⟨hfenced, hepoch⟩ := Prod.mk.inj h
  exact ⟨fun n hn => hfenced ▸ hn, by rw [hfenced, hepoch]⟩

/-- A number in no list splits it into the smaller and the larger. -/
theorem length_filter_lt_add_gt {x : Nat} {l : List Nat} (h : x ∉ l) :
    (l.filter (· < x)).length + (l.filter (x < ·)).length = l.length := by
  induction l with
  | nil => rfl
  | cons y l ih =>
    obtain ⟨hne, hl⟩ : x ≠ y ∧ x ∉ l := by simpa using h
    have ih := ih hl
    rcases Nat.lt_or_gt_of_ne hne with hlt | hgt
    · simp [hlt, Nat.not_lt.2 hlt.le]
      omega
    · simp [hgt, Nat.not_lt.2 (Nat.le_of_lt hgt)]
      omega

theorem length_insertNat {x : Nat} {l : List Nat} (h : x ∉ l) : (insertNat x l).length = l.length + 1 := by
  have := length_filter_lt_add_gt h
  simp only [insertNat, List.length_append, List.length_cons]
  omega

theorem mem_insertNat_of_mem {x y : Nat} {l : List Nat} (h : y ∈ l) : y ∈ insertNat x l := by
  rcases Nat.lt_trichotomy y x with hlt | rfl | hgt <;> simp [insertNat, *]

/-- A fence adopted is the subject's, if it was not fenced before. -/
theorem State.adoptFence_fencing (s : State) (x : Fence) : (s.adoptFence x).memb.fencing =
    if s.isFenced x.subject then s.memb.fencing else (insertNat x.subject s.memb.fenced, s.memb.epoch + 1) := by
  unfold State.adoptFence
  split
  · rfl
  · simp only []
    (repeat' split) <;> simp [Membership.fencing]

theorem State.adoptFence_adopts (s : State) (x : Fence) : FencesAdopted s (s.adoptFence x) := by
  have h := s.adoptFence_fencing x
  by_cases hx : s.isFenced x.subject
  · exact .of_fencing (by rw [h, if_pos hx])
  · rw [if_neg hx] at h
    obtain ⟨hfenced, hepoch⟩ := Prod.mk.inj h
    have hnew : x.subject ∉ s.memb.fenced := by simpa [State.isFenced] using hx
    refine ⟨fun n hn => hfenced ▸ mem_insertNat_of_mem hn, ?_⟩
    rw [hfenced, hepoch, length_insertNat hnew]
    omega

/-- Fences adopted one after another. -/
theorem foldl_adoptFence_adopts (l : List Fence) (s : State) : FencesAdopted s (l.foldl State.adoptFence s) :=
  foldl_holds (P := FencesAdopted s) (fun t x h => h.trans (t.adoptFence_adopts x)) l (.of_fencing rfl)

theorem State.adoptFences_adopts (s : State) : FencesAdopted s s.adoptFences :=
  (FencesAdopted.of_fencing (by simp)).trans (foldl_adoptFence_adopts ..)

@[simp] theorem State.advance_memb (s : State) : s.advance.memb = s.memb := rfl

theorem strideBoundaryEff_adopts (overrun : List Nat) (s : State) : FencesAdopted s (strideBoundaryEff overrun s) := by
  by_cases hclock : s.clk.code = 0 ∨ !s.node.joinClosed ∨ s.node.stopped ∨ 5 ≤ s.node.st
  · exact .of_fencing (by rw [strideBoundaryEff_unclocked overrun hclock])
  · unfold strideBoundaryEff
    rw [if_neg hclock]
    extract_lets s1 s2 s3 s4 s5 s6
    have h1 : s1.memb.fencing = s.memb.fencing := by simp [s1]
    have h3 : s3.memb.fencing = s1.memb.fencing := by simp [s3, s2]
    have h4 : FencesAdopted s3 s4 := by
      dsimp only [s4]
      split
      · exact s3.adoptFences_adopts
      · exact .of_fencing rfl
    have h5 : s6.memb = s4.memb := by simp [s6, s5]
    exact ((FencesAdopted.of_fencing (h3.trans h1)).trans h4).trans (.of_fencing (by simp [h5]))

theorem serviceGaitAdoptionEff_adopts (absent : List Nat) (s : State) :
    FencesAdopted s (serviceGaitAdoptionEff absent s) := by
  unfold serviceGaitAdoptionEff
  split
  · exact .of_fencing rfl
  · extract_lets s1 s2
    have h1 : s1.memb = s.memb := by simp [s1]
    split
    · exact .of_fencing (by simp [h1])
    · have h2 : FencesAdopted s1 s2 := foldl_adoptFence_adopts ..
      exact ((FencesAdopted.of_fencing (congrArg _ h1)).trans h2).trans (.of_fencing rfl)

/-- Settles O8: the boundary and the service gait's adoption add to the fenced set and the epoch alike; every other command
but a restart keeps both. -/
theorem fencesHold : Obligations.FencesHold := by
  refine ⟨fun c s t h hrest => ?_, fun c s t h hrest hboundary hservice => ?_⟩
  · show FencesAdopted s t
    by_cases hboundary : ∃ w, c = .strideBoundary w
    · obtain ⟨w, rfl⟩ := hboundary
      simp only [exec] at h
      exact (guarded_next.1 h).2 ▸ strideBoundaryEff_adopts w s
    by_cases hservice : ∃ l, c = .serviceGaitAdoption l
    · obtain ⟨l, rfl⟩ := hservice
      simp only [exec] at h
      exact (guarded_next.1 h).2 ▸ serviceGaitAdoptionEff_adopts l s
    exact .of_fencing (exec_fencing h hrest (fun w hw => hboundary ⟨w, hw⟩) fun l hl => hservice ⟨l, hl⟩)
  · exact Prod.mk.inj (exec_fencing h hrest hboundary hservice)

end Sys2Proof.Machine
end

section
/-! SUPPORT. Statements of the machine as a whole and of its data: what a step runs and leaves waiting, who may send a request,
and how a BAR2 request falls into pieces. -/

namespace Sys2Proof.Machine

/-! ## A step (R378) -/

/-- A step on a waiting command is that command's effect on the state with the rest of the queue. -/
theorem step_of_pending {c : Instr} {rest : List Instr} {s : State} (h : s.pending = c :: rest) :
    step s = exec c { s with pending := rest } := by
  unfold step
  split
  · next hnil => simp [h] at hnil
  · next hcons =>
    obtain ⟨rfl, rfl⟩ := List.cons.inj (h.symm.trans hcons)
    rfl

/-- A step on an empty queue idles. -/
theorem step_of_empty {s : State} (h : s.pending = []) : step s = .next s := by
  unfold step
  split
  · rfl
  · next hcons => simp [h] at hcons

/-- Settles O1. -/
theorem stepRunsFrontCommand : Obligations.StepRunsFrontCommand :=
  ⟨fun _ _ => step_of_pending rfl, fun _ _ _ => step_of_pending, fun _ => step_of_empty⟩

/-- A command whose effect leaves the queue leaves it where it runs. -/
theorem guarded_pending {ok : Bool} {eff : State → State} {s t : State} (h : guarded ok eff s = .next t)
    (heff : (eff s).pending = s.pending) : t.pending = s.pending := by
  rw [(guarded_next.1 h).2, heff]

/-- DEVICE_CAPABILITIES reports and leaves the queue. -/
@[simp] theorem serveCapabilities_pending (f : Nat) (s : State) :
    (s.serve f 0x0102 fun s _ => report s capabilities).pending = s.pending := State.serve_pending fun _ _ => rfl

/-- A stride mark leaves the queue also where it arrives ahead of cycle 0 of its stride. -/
@[simp] theorem strideMarkReceiveEff_pending_int (p stride sendOffset : Nat) (arrival : Int) (s : State) :
    (strideMarkReceiveEff p stride sendOffset arrival s).pending = s.pending := by simp [strideMarkReceiveEff]

/-- No command puts another into the queue: of each, the effect leaves the queue, by its own lemma in Laws/Queue. -/
theorem exec_pending {c : Instr} {s t : State} (h : exec c s = .next t) : t.pending = s.pending := by
  cases c <;> simp only [exec] at h <;> exact guarded_pending h (by simp)

/-- Settles O3. -/
theorem stepConsumesOneCommand : Obligations.StepConsumesOneCommand := by
  intro c rest s t hpending hstep
  rw [step_of_pending hpending] at hstep
  exact exec_pending hstep

/-! ## Senders (R374) -/

/-- A chain of checks passes where its first check and the rest pass. -/
theorem checks_pass {c : Prop} [Decidable c] {status : Nat} {rest : Option Nat}
    (h : (if c then some status else rest) = none) : ¬c ∧ rest = none := by
  split at h
  · cases h
  · exact ⟨‹¬c›, h⟩

/-- What the checks of R370 say of the sender of a request that passes them. -/
theorem State.requestCheck_sender {s : State} {f : Nat} {h d p : Bytes} (hc : s.requestCheck f h d p = none) :
    ∃ i, opInfo (le h 2 2) = some i ∧ i.sender ≠ 3 ∧
      ¬((i.sender = 0 ∧ (f ≠ 0 ∨ le h 4 2 ≠ 0)) ∨ (i.sender = 1 ∧ le h 4 2 = 0)) ∧
      ¬(le h 4 2 ≠ 0 ∧ s.funcOf (le h 4 2) ≠ f) := by
  unfold State.requestCheck at hc
  obtain ⟨-, hc⟩ := checks_pass hc
  obtain ⟨-, hc⟩ := checks_pass hc
  obtain ⟨-, hc⟩ := checks_pass hc
  obtain ⟨hclass, hc⟩ := checks_pass hc
  obtain ⟨-, hc⟩ := checks_pass hc
  obtain ⟨hpermitted, hc⟩ := checks_pass hc
  obtain ⟨-, hc⟩ := checks_pass hc
  obtain ⟨howner, -⟩ := checks_pass hc
  cases hi : opInfo (le h 2 2) with
  | none => simp [hi] at hclass
  | some i =>
    simp only [hi] at hclass hpermitted
    exact ⟨i, rfl, hclass, hpermitted, howner⟩

/-- The sender class of each opcode of the catalogue, listed by class (R374). -/
theorem opInfo_sender {o : Nat} {i : OpInfo} (h : opInfo o = some i) : i.sender =
    if o ∈ [0x0201, 0x0202, 0x0203, 0x0301, 0x0302, 0x0303, 0x0304, 0x0305, 0x0701, 0x0704, 0x0705, 0x0706, 0x0709, 0x070A,
      0x070B, 0x0803, 0x0804, 0x0805] then 0
    else if o ∈ [0x0101, 0x0102, 0x0607, 0x0707, 0x0708, 0x0801, 0x0802, 0x0901, 0x0902] then 2
    else if o ∈ [0x0408, 0x0509, 0x0608, 0x070C] then 3 else 1 := by
  unfold opInfo at h
  split at h <;> cases h <;> rfl

/-- Settles O10: the checks that a request passes name its sender. -/
theorem sendersChecked : Obligations.SendersChecked := by
  refine ⟨fun s f h d p i haccepted hi => ?_, fun s f h d p haccepted => ?_, fun o i hi => opInfo_sender hi⟩
  · obtain ⟨_, hi', hclass, hpermitted, howner⟩ := State.requestCheck_sender haccepted
    cases hi.symm.trans hi'
    have hfunc : le h 4 2 ≠ 0 → s.funcOf (le h 4 2) = f := fun hctx => not_not.1 fun hf => howner ⟨hctx, hf⟩
    refine ⟨fun h0 => ?_, fun h1 => ?_, fun _ => ?_, hclass⟩
    · by_contra hsender
      exact hpermitted (.inl ⟨h0, not_and_or.1 hsender⟩)
    · have hctx : le h 4 2 ≠ 0 := fun hctx => hpermitted (.inr ⟨h1, hctx⟩)
      exact ⟨hctx, hfunc hctx⟩
    · exact or_iff_not_imp_left.2 hfunc
  · obtain ⟨i, hi, -⟩ := State.requestCheck_sender haccepted
    rw [hi, Option.isSome_some]

/-! ## The pieces of a request (R356) -/

/-- The first piece at address `a` of `n` bytes. -/
def firstPiece (a n : Nat) : Nat :=
  if a % 8 = 0 ∧ 8 ≤ n then 8 else if a % 4 = 0 ∧ 4 ≤ n then 4 else if a % 2 = 0 ∧ 2 ≤ n then 2 else 1

theorem splitPieces_succ (fuel a n : Nat) : splitPieces (fuel + 1) a n =
    if n = 0 then [] else (a, firstPiece a n) :: splitPieces fuel (a + firstPiece a n) (n - firstPiece a n) := rfl

/-- A piece is 1, 2, 4 or 8 bytes, naturally aligned and within the request. -/
theorem firstPiece_aligned {a n : Nat} (hn : n ≠ 0) :
    (firstPiece a n = 1 ∨ firstPiece a n = 2 ∨ firstPiece a n = 4 ∨ firstPiece a n = 8) ∧ a % firstPiece a n = 0 ∧
      firstPiece a n ≤ n := by
  unfold firstPiece
  split
  · omega
  · split
    · omega
    · split <;> omega

theorem splitPieces_aligned {fuel a n : Nat} : ∀ p ∈ splitPieces fuel a n,
    (p.2 = 1 ∨ p.2 = 2 ∨ p.2 = 4 ∨ p.2 = 8) ∧ p.1 % p.2 = 0 := by
  induction fuel generalizing a n with
  | zero => simp [splitPieces]
  | succ fuel ih =>
    rw [splitPieces_succ]
    split
    · simp
    · next hn =>
      obtain ⟨hsize, haligned, -⟩ := firstPiece_aligned (a := a) hn
      exact List.forall_mem_cons.2 ⟨⟨hsize, haligned⟩, ih⟩

/-- Fuel for as many pieces as there are bytes covers the request. -/
theorem splitPieces_cover {fuel a n : Nat} (h : n ≤ fuel) :
    (splitPieces fuel a n).flatMap (fun p => List.range' p.1 p.2) = List.range' a n := by
  induction fuel generalizing a n with
  | zero => rw [Nat.le_zero.1 h]; rfl
  | succ fuel ih =>
    rw [splitPieces_succ]
    split
    · next hn => rw [hn]; rfl
    · next hn =>
      obtain ⟨hsize, -, hle⟩ := firstPiece_aligned (a := a) hn
      rw [List.flatMap_cons, ih (by omega), List.range'_append_1, Nat.add_sub_cancel' hle]

/-- Settles O17: with fuel for each byte the pieces are aligned and cover the request. -/
theorem requestPiecesCover : Obligations.RequestPiecesCover := by
  intro a n
  simp only [← List.range'_eq_map_range]
  exact ⟨splitPieces_aligned, splitPieces_cover le_rfl⟩

end Sys2Proof.Machine
end

section
/-! SUPPORT. The statements of the requests on paddocks, storage queues, the fabric, the herd, contexts, rings and trust, each on
its accepted path. -/

namespace Sys2Proof.Machine

/-! ## Paddocks and storage queues (R271 to R273, R275, R276, R270) -/

@[simp] theorem State.popRequest_allPaddocks (s : State) (f : Nat) : (s.popRequest f).allPaddocks = s.allPaddocks := rfl
@[simp] theorem State.popRequest_programClassOk (s : State) (f ctx k : Nat) :
    (s.popRequest f).programClassOk ctx k = s.programClassOk ctx k := rfl
@[simp] theorem State.popRequest_freeBlocksOn (s : State) (f ch : Nat) : (s.popRequest f).freeBlocksOn ch = s.freeBlocksOn ch := rfl
@[simp] theorem State.popRequest_refusesWrites (s : State) (f : Nat) : (s.popRequest f).refusesWrites = s.refusesWrites := rfl
@[simp] theorem State.popRequest_deletingPaddock (s : State) (f n : Nat) :
    (s.popRequest f).deletingPaddock n = s.deletingPaddock n := rfl
@[simp] theorem State.popRequest_openingQueues (s : State) (f : Nat) : (s.popRequest f).openingQueues = s.openingQueues := rfl
@[simp] theorem State.popRequest_storageClassOk (s : State) (f ctx k : Nat) :
    (s.popRequest f).storageClassOk ctx k = s.storageClassOk ctx k := rfl
@[simp] theorem State.popRequest_waiting (s : State) (f : Nat) : (s.popRequest f).waiting = s.waiting := rfl
@[simp] theorem State.popRequest_healthLog (s : State) (f : Nat) (c : Option Nat) :
    (s.popRequest f).healthLog c = s.healthLog c := rfl

/-- Settles O31, request by request. -/
theorem storageRequestsServed : Obligations.StorageRequestsServed := by
  refine ⟨?create, ?delete, ?status, ?queueCreate, ?queueDelete, ?weights, ?nodeLog, ?channelLog, ?badLog⟩
  case create =>
    rintro f s q p hf hq rfl hid hids hfree hop hops hshare hshares hcap hcaps hcls hblocks hhbm hroom hwrites
    refine guarded_funcOk hf (State.serve_accepts hq ?_)
    have hnew : (s.allPaddocks.any fun x => x.1 = q.field 0 2) = false := by simpa using hfree
    simp [Nat.pos_iff_ne_zero.1 hid, Nat.not_le.2 hids, hnew, Nat.not_lt.2 hop, Nat.not_lt.2 hops,
      Nat.pos_iff_ne_zero.1 hshare, Nat.not_lt.2 hshares, Nat.pos_iff_ne_zero.1 hcap, hcaps, hcls, Nat.not_lt.2 hhbm,
      Nat.not_lt.2 hroom, hwrites]
    exact fun ch hch hfew => absurd hfew (Nat.not_lt.2 (hblocks ch hch))
  case delete =>
    intro f s q p hf hq hp hst hdel hctx
    refine guarded_funcOk hf (State.serve_defers hq ?_)
    simp [hp, hst, hdel, hctx]
  case status =>
    rintro f s q p figs hf hq hp hctx rfl
    refine guarded_funcOk hf (State.serve_reports hq ?_)
    simp only [State.popRequest_flash, hp]
    rw [if_neg (not_not.2 hctx)]
    rfl
  case queueCreate =>
    intro f s q r hf hq hr hid hfree hopening hdepth hdepths hprio hsub hcpl hvec hvecs hcls hlarge hroom
    refine guarded_funcOk hf (State.serve_accepts hq ?_)
    simp only [Request.field] at hid hfree hopening ⊢
    simp [← hr, Nat.not_le.2 hid, hfree, hopening, Nat.not_lt.2 hdepth, Nat.not_lt.2 hdepths, Nat.not_lt.2 hprio, hsub, hcpl,
      Nat.one_le_iff_ne_zero.1 hvec, Nat.not_lt.2 hvecs, hcls, Nat.not_lt.2 hlarge, Nat.not_le.2 hroom]
  case queueDelete =>
    intro f s q r hf hq hr hopen hclosing hleaving hctx
    refine guarded_funcOk hf (State.serve_defers hq ?_)
    simp [hr, hopen, hclosing, hctx]
    intro c hc hcloses
    split at hcloses
    · exact absurd (of_decide_eq_true hcloses ▸ hc) hleaving
    · cases hcloses
  case weights =>
    intro f s q hf hq hcls h1 h2 h3
    refine guarded_funcOk hf (State.serve_accepts hq ?_)
    simp [hcls, (Nat.pos_iff_ne_zero.1 h1).symm, (Nat.pos_iff_ne_zero.1 h2).symm, (Nat.pos_iff_ne_zero.1 h3).symm]
  case nodeLog =>
    intro f s q hf hq hall
    refine guarded_funcOk hf (State.serve_reports hq ?_)
    simp [hall]
  case channelLog =>
    intro f s q hf hq hch
    refine guarded_funcOk hf (State.serve_reports hq ?_)
    simp [hch]
    omega
  case badLog =>
    intro f s q hf hq hlo hhi
    refine guarded_funcOk hf (State.serve_settled hq ?_)
    simp [refuse, Nat.not_lt.2 hlo, Nat.ne_of_lt hhi]

/-! ## Routes, windows, regions, gates and policers (R299, R302, R308, R311 to R314, R316) -/

@[simp] theorem State.popRequest_me (s : State) (f : Nat) : (s.popRequest f).me = s.me := rfl
@[simp] theorem State.popRequest_acceptedWindow (s : State) (f w : Nat) :
    (s.popRequest f).acceptedWindow w = s.acceptedWindow w := rfl
@[simp] theorem State.popRequest_acceptedRegions (s : State) (f : Nat) :
    (s.popRequest f).acceptedRegions = s.acceptedRegions := rfl
@[simp] theorem State.popRequest_ownsHbm (s : State) (f ctx base size : Nat) :
    (s.popRequest f).ownsHbm ctx base size = s.ownsHbm ctx base size := rfl
@[simp] theorem State.popRequest_port (s : State) (f p : Nat) : (s.popRequest f).port p = s.port p := rfl

/-- A window as accepted that stands for no other context. -/
theorem any_context_ne_false {w : Option Window} {c : Nat} (h : ∀ x, w = some x → x.context = c) :
    (w.any fun x => x.context ≠ c) = false := by
  cases w with
  | none => rfl
  | some x => simp [h x rfl]

/-- The context that an entry of the region table stands for, where its window is open, is the requester's. -/
theorem any_region_context_ne_false {s : State} {n c : Nat} (h : ∀ e y, SMap.find? s.acceptedRegions n = some e →
    s.acceptedWindow e.window = some y → y.context = c) :
    (((SMap.find? s.acceptedRegions n).bind fun x => s.acceptedWindow x.window).any fun y => y.context ≠ c) = false := by
  refine any_context_ne_false fun y hy => ?_
  obtain ⟨e, he, hy⟩ := Option.bind_eq_some_iff.1 hy
  exact h e y he hy

/-- What a function of the places of a list gives in order, where it gives what `g` gives of each entry. -/
theorem flatMap_range_length {α β : Type} {l : List α} {at' : Nat → List β} {g : α → List β}
    (h : ∀ i (hi : i < l.length), at' i = g l[i]) : (List.range l.length).flatMap at' = l.flatMap g := by
  rw [List.flatMap_def, List.flatMap_def]
  congr 1
  exact List.ext_getElem (by simp) fun i _ hi => by simp [h i (by simpa using hi)]

/-- Settles O32, request by request. -/
theorem fabricRequestsServed : Obligations.FabricRequestsServed := by
  refine ⟨?route, ?openWindow, ?closeWindow, ?setRegion, ?clearRegion, ?gateStage, ?gateCancel, ?gateLate, ?policer, ?links⟩
  case route =>
    intro f image s q hf hdma hq haligned hstatus
    refine ⟨_, guarded_funcOk hf ?_, rfl, by simp [settled]⟩
    unfold fabricRouteSetEff
    rw [if_neg (by simp [hdma])]
    exact State.serve_settled hq (by simp [haligned, hstatus, report])
  case openWindow =>
    intro f s q hf hq h0 h511 hown hopen hbase hsize hsizes howns
    refine guarded_funcOk hf (State.serve_accepts hq ?_)
    simp only [State.popRequest_acceptedWindow, any_context_ne_false hown]
    rw [if_neg (by omega), if_neg Bool.false_ne_true, if_neg (by simp [hopen]), if_neg (by omega), if_neg (by simp [howns])]
  case closeWindow =>
    intro f s q x hf hq h0 h511 hx hctx hclosed
    refine guarded_funcOk hf (State.serve_accepts hq ?_)
    simp [Nat.pos_iff_ne_zero.1 h0, Nat.not_lt.2 h511, hx, hctx, hclosed]
  case setRegion =>
    intro f s q x hf hq hx hctx hn hheld hset hbase hlen hlens hroom hapart
    refine guarded_funcOk hf (State.serve_accepts hq ?_)
    have hdisjoint : (s.acceptedRegions.any fun p => p.1 != q.field 0 2 && p.2.window == q.field 2 2 &&
        decide (p.2.base < q.field 8 8 + q.field 16 8 ∧ q.field 8 8 < p.2.base + p.2.length)) = false := by
      simp only [List.any_eq_false, Bool.and_eq_true, bne_iff_ne, beq_iff_eq, decide_eq_true_eq]
      rintro p hp ⟨⟨hne, hw⟩, hover⟩
      have := hapart p hp hne hw
      omega
    simp only [State.popRequest_acceptedWindow, State.popRequest_acceptedRegions, hx, any_region_context_ne_false hheld,
      hdisjoint]
    rw [if_neg (Nat.not_le.2 hn), if_neg (by simp [hctx]), if_neg (by simp [hset])]
    exact if_neg (by simp [hbase, Nat.pos_iff_ne_zero.1 hlen, hlens, Nat.not_lt.2 hroom])
  case clearRegion =>
    intro f s q x hf hq hx hctx hn hheld hclear
    refine guarded_funcOk hf (State.serve_accepts hq ?_)
    simp only [State.popRequest_acceptedWindow, State.popRequest_acceptedRegions, hx, any_region_context_ne_false hheld]
    rw [if_neg (Nat.not_le.2 hn), if_neg (by simp [hctx]), if_pos (by simp [hclear])]
  case gateStage =>
    intro f s q hf hq hlength hport h1 h16 hgood hrole hahead hafter
    refine guarded_funcOk hf (State.serve_settled hq ?_)
    simp only [Request.field] at hahead hafter ⊢
    have hlast : ((s.port (byteAt q.payload 0)).staged.any fun x => decide (le q.payload 8 8 ≤ x.1)) = false := by
      simpa using hafter
    simp only [State.popRequest_port, hlast]
    rw [if_neg (by simp [hlength]), if_neg, if_neg]
    · simp [Nat.not_lt.2 hahead]
    · simp [Nat.not_lt.2 hport, Nat.one_le_iff_ne_zero.1 h1, Nat.not_lt.2 h16, hgood, hrole]
  case gateCancel =>
    intro f s q hf hq hport hstaged hahead
    refine guarded_funcOk hf (State.serve_settled hq ?_)
    have hnamed : ((s.port (q.field 0 1)).staged.any fun x => x.1 == q.field 8 8) = true := by simpa using hstaged
    simp [Nat.not_lt.2 hport, Nat.not_lt.2 hahead, hnamed, report]
  case gateLate =>
    intro f s q hf hq hport hlate
    refine guarded_funcOk hf (State.serve_settled hq ?_)
    simp [Nat.not_lt.2 hport, hlate, refuse]
  case policer =>
    intro f s q hf hq hport hpolices hmode hcir hcirs hpir hpirs hcbs hcbss hpbs hpbss
    refine ⟨⟨q.field 2 1, q.field 4 4, q.field 8 4, q.field 12 4, q.field 16 4, q.field 12 4, q.field 16 4, 0, 0, 0⟩, rfl, rfl, rfl, rfl, rfl, rfl, rfl,
      guarded_funcOk hf (State.serve_accepts hq ?_)⟩
    simp only [Nat.reducePow] at hcbss hpbss
    simp [Nat.not_lt.2 hport, hpolices, Nat.not_lt.2 hmode, hcir, hcirs, hpir, hpirs, hcbs, hcbss, hpbs, hpbss]
  case links =>
    intro f s q hf hq hports
    refine guarded_funcOk hf (State.serve_reports hq ?_)
    rw [State.popRequest_shown, ← hports]
    refine congrArg (fun b => report (s.popRequest f) (toLe 8 s.shown.first ++ b)) (flatMap_range_length fun i hi => ?_)
    simp only [List.getElem?_eq_getElem hi]

/-! ## The herd and the remount (R299, R333, R335, R337, R338) -/

/-- R335: the checkpoint of a remount that is due, on a node that runs. -/
theorem remountCheckpointEff_due {s : State} {r lmax : Nat} (hr : s.clk.remounting = some (r, lmax)) (hrun : s.running = true)
    (hnot : s.clk.checkpointed = false) (hdue : r + lmax ≤ s.stride) : remountCheckpointEff s =
      let t := { s with
        clk := { s.clk with checkpointed := true }
        flash := { s.flash with checkpoint := some s.takeCheckpoint, lastStride := s.stride } }
      if s.isFenced s.partner then t
      else t.send 1 s.partner
        (toLe 4 markCheckpoint ++ zeros 4 ++ toLe 8 s.stride ++ toLe 8 (digest64 s.takeCheckpoint.bytes)) := by
  simp [remountCheckpointEff, hr, hrun, hnot, Nat.not_lt.2 hdue]

/-- A node with its supply and RESET_N high begins a start. -/
theorem State.begin_supplied {s : State} (hsupply : s.node.supply = true) (hreset : s.node.resetLow = false) :
    s.begin = { s with node := { s.node with st := 0, stage := 1, failure := 0, starts := s.node.starts + 1 } } :=
  if_pos ⟨hsupply, by simp [hreset]⟩

/-- What a remount's restart leaves to be wiped: the remount record is written. -/
def State.remountRecorded (s : State) (id code : Nat) : State :=
  { s with
    flash := { s.flash with flushed := true }
    node := { s.node with record := { s.node.record with remount := some (id, code, s.fab.heldImage.getD s.fab.image) } } }

/-- R299, R335: the restart of a remount that was armed. -/
theorem remountRestartEff_armed {s : State} {r c i : Nat} (hdone : s.clk.checkpointed = true) (hrun : s.running = true)
    (harmed : s.clk.armed = some (r, c, i)) : remountRestartEff s = ((s.remountRecorded i c).wiped true).begin := by
  simp [remountRestartEff, State.remountRecorded, hdone, hrun, harmed]

/-- Settles O33, request by request, and then the remount. -/
theorem herdRequestsAndRemount : Obligations.HerdRequestsAndRemount := by
  refine ⟨?status, ?teardown, ?remount, ?cancel, ?late, ?unitReturn, ?checkpoint, ?restart⟩
  case status =>
    intro f s q hf hq
    exact ⟨_, _, rfl, rfl, guarded_funcOk hf (State.serve_reports hq rfl)⟩
  case teardown =>
    intro f s q x hf hq h0 h4096 hx hst
    refine guarded_funcOk hf (State.serve_accepts hq ?_)
    simp [Nat.pos_iff_ne_zero.1 h0, Nat.not_le.2 h4096, hx, hst]
  case remount =>
    intro f s q hf hq harms h1 h3 hahead
    refine guarded_funcOk hf ?_
    unfold herdRemountEff
    rw [if_neg (by simp [hq, harms])]
    exact State.serve_settled hq (by simp [Nat.one_le_iff_ne_zero.1 h1, Nat.not_lt.2 h3, Nat.not_lt.2 hahead])
  case cancel =>
    intro f s q r c i hf hq hcancels harmed hahead
    refine guarded_funcOk hf ?_
    unfold herdRemountCancelEff
    rw [if_neg (by simp [hq, hcancels])]
    exact State.serve_settled hq (by simp [harmed, Nat.not_lt.2 hahead, report])
  case late =>
    intro f s q r c i hf hq hcancels harmed hlate
    refine guarded_funcOk hf ?_
    unfold herdRemountCancelEff
    rw [if_neg (by simp [hq, hcancels])]
    exact State.serve_settled hq (by simp [harmed, hlate, refuse])
  case unitReturn =>
    intro f s q hf hq hunit hmounted
    refine guarded_funcOk hf (State.serve_settled hq ?_)
    simp [Nat.not_le.2 hunit, State.gaitAdopted, hmounted, report]
  case checkpoint =>
    intro s r lmax hr hrun hnot hdue
    refine ⟨remountCheckpointEff s, rfl, ?_⟩
    rw [remountCheckpointEff_due hr hrun hnot hdue]
    simp only []
    split
    case isTrue hfenced => exact ⟨rfl, rfl, rfl, rfl, rfl, rfl, rfl, rfl, by simp [hfenced]⟩
    case isFalse => simp
  case restart =>
    intro s r c i hdone hrun harmed hsupply hreset
    refine ⟨remountRestartEff s, rfl, ?_⟩
    have hbegin := State.begin_supplied (s := (s.remountRecorded i c).wiped true) hsupply hreset
    rw [remountRestartEff_armed hdone hrun harmed, hbegin]
    exact ⟨rfl, rfl, rfl, rfl, rfl, rfl, rfl, rfl⟩

/-! ## Contexts and rings (R375, R376, R382, R386 to R388) -/

@[simp] theorem State.popRequest_contextTaken (s : State) (f c : Nat) : (s.popRequest f).contextTaken c = s.contextTaken c := rfl
@[simp] theorem State.popRequest_gaitNames (s : State) (f c : Nat) : (s.popRequest f).gaitNames c = s.gaitNames c := rfl
@[simp] theorem State.popRequest_kindsFit (s : State) (f c : Nat) (r : Reservation) :
    (s.popRequest f).kindsFit c r = s.kindsFit c r := rfl
@[simp] theorem State.popRequest_bytesFit (s : State) (f c : Nat) (r : Reservation) :
    (s.popRequest f).bytesFit c r = s.bytesFit c r := rfl
@[simp] theorem State.popRequest_gaitsBreak (s : State) (f c : Nat) (r : Reservation) :
    (s.popRequest f).gaitsBreak c r = s.gaitsBreak c r := rfl
@[simp] theorem State.popRequest_contextStatus (s : State) (f c : Nat) (x : Context) :
    (s.popRequest f).contextStatus c x = s.contextStatus c x := rfl
@[simp] theorem State.popRequest_ringTaken (s : State) (f id : Nat) : (s.popRequest f).ringTaken id = s.ringTaken id := rfl
@[simp] theorem State.popRequest_gaitAt (s : State) (f n : Nat) : (s.popRequest f).gaitAt n = s.gaitAt n := rfl
@[simp] theorem State.popRequest_ring? (s : State) (f id : Nat) : (s.popRequest f).ring? id = s.ring? id := rfl
@[simp] theorem State.popRequest_closingRing (s : State) (f id : Nat) : (s.popRequest f).closingRing id = s.closingRing id := rfl

/-- A RING_OPEN with values in range names one of the context's four doorbell indexes. -/
theorem index_lt_of_ringValue {b : Bytes} (h : ringValueBad b = false) : byteAt b 0 < 4 := by
  simp only [ringValueBad, Bool.not_eq_false', Bool.and_eq_true, decide_eq_true_eq] at h
  omega

/-- Settles O25, request by request. -/
theorem contextAndRingRequests : Obligations.ContextAndRingRequests := by
  refine ⟨?create, ?close, ?reserve, ?status, ?ringOpen, ?ringClose⟩
  case create =>
    intro f s q hf hq hlocked h0 h4096 hfn hfree hnamed
    refine guarded_funcOk hf (State.serve_accepts hq ?_)
    simp [hlocked, Nat.pos_iff_ne_zero.1 h0, Nat.not_le.2 h4096, Nat.not_le.2 hfn, hfree, hnamed]
  case close =>
    intro f s q x hf hq h0 h4096 hx hst hclosing
    refine guarded_funcOk hf (State.serve_defers hq ?_)
    simp [Nat.pos_iff_ne_zero.1 h0, Nat.not_le.2 h4096, hx, hst]
    intro c hc hcloses
    split at hcloses
    · exact absurd (of_decide_eq_true hcloses ▸ hc) hclosing
    · cases hcloses
  case reserve =>
    intro f s q x hf hq h0 h4096 hhbm hddr hx hst hkinds hbytes hgaits
    refine guarded_funcOk hf (State.serve_accepts hq ?_)
    simp [Nat.pos_iff_ne_zero.1 h0, Nat.not_le.2 h4096, hhbm, hddr, hx, hst, hkinds, hbytes, hgaits]
  case status =>
    intro f s q x hf hq hx
    exact guarded_funcOk hf (State.serve_reports hq (by simp [hx]))
  case ringOpen =>
    intro f s q c hf hq hvalue haligned hlo hhi hfree hclass hshards
    refine guarded_funcOk hf (State.serve_settled hq ?_)
    have hroom : ((List.range 4).all fun i => s.ringTaken (4 * q.context + i)) = false :=
      List.all_eq_false.2 ⟨byteAt q.payload 0, List.mem_range.2 (index_lt_of_ringValue hvalue), by simp [hfree]⟩
    have hclass : (s.gaitAt (s.stride + 1)).classOf q.context (byteAt q.payload 1) (4 * q.context + byteAt q.payload 0) = some c :=
      hclass
    have hcap : ¬(byteAt q.payload 1 = 1 ∧ 1048576 < le q.payload 38 2 * le q.payload 30 2) :=
      fun ⟨hquery, hmany⟩ => absurd hmany (Nat.not_lt.2 (hshards hquery))
    simp only [State.popRequest_ringTaken, State.popRequest_gaitAt, State.popRequest_nextBoundary, hvalue, haligned, hroom, hfree,
      hclass, if_neg hcap]
    simp [Nat.not_lt.2 hlo, Nat.not_lt.2 hhi, accept]
  case ringClose =>
    intro f s q r hf hq hindex hr hopen hlive hclosing
    refine guarded_funcOk hf (State.serve_defers hq ?_)
    simp [Nat.not_le.2 hindex, hr, hopen, hlive, hclosing]

/-! ## Trust and health (R401, R402, R404, R406 to R408, R434, R435) -/

@[simp] theorem State.popRequest_fwStatus (s : State) (f : Nat) (b : Bytes) (recovery : Bool) :
    (s.popRequest f).fwStatus b recovery = s.fwStatus b recovery := rfl
/-- Taking a request touches no reply. -/
theorem State.popRequest_replies (s : State) (f i : Nat) : ((s.popRequest f).mailbox i).replies = (s.mailbox i).replies := by
  unfold State.popRequest
  by_cases h : i = f
  · subst h
    rw [State.modMailbox_mailbox_self]
    rfl
  · rw [State.modMailbox_mailbox_ne _ _ h]
    rfl
@[simp] theorem State.popRequest_fwOutstanding (s : State) (f : Nat) : (s.popRequest f).fwOutstanding = s.fwOutstanding := by
  simp only [State.fwOutstanding, State.popRequest_replies, State.popRequest_node]
@[simp] theorem State.popRequest_tokenOk (s : State) (f : Nat) (b : Bytes) : (s.popRequest f).tokenOk b = s.tokenOk b := rfl
@[simp] theorem State.popRequest_hasLink (s : State) (f l : Nat) : (s.popRequest f).hasLink l = s.hasLink l := rfl
@[simp] theorem State.popRequest_ideKey (s : State) (f : Nat) (e w : Bytes) : (s.popRequest f).ideKey e w = s.ideKey e w := rfl

/-- A TRUST_FW_UPDATE whose image is at hand and that no other update stands before answers by the image's check: of a good
image the other copy is erased and written, and the answer waits; of any other its status is answered. -/
theorem trustFwUpdateEff_checked {f : Nat} {image : Bytes} {s : State} {q : Request} (hdma : s.dmaOk f = true)
    (hq : s.headRequest f 0x0803 = some q) (haligned : q.field 8 8 % 64 = 0) (hnone : s.fwOutstanding = false) :
    (s.fwStatus (image.take (q.field 4 4)) (bitOf (q.field 1 1) 0) = stOk → trustFwUpdateEff f image s =
      (defer (({ s.popRequest f with node := { s.node with
        update := some (!s.node.copyB, image.take (q.field 4 4)),
        copies := if s.node.copyB then (.erased, s.node.copies.2) else (s.node.copies.1, .erased) } }).bootWrite
        (if s.node.copyB then 0 else 16) (64 + (image.take (q.field 4 4)).length)) .firmwareWritten q unstamped).flush f) ∧
    (s.fwStatus (image.take (q.field 4 4)) (bitOf (q.field 1 1) 0) ≠ stOk → trustFwUpdateEff f image s =
      settled f (s.popRequest f) q (s.fwStatus (image.take (q.field 4 4)) (bitOf (q.field 1 1) 0)) unstamped []) := by
  unfold trustFwUpdateEff
  rw [if_neg (by simp [hdma])]
  refine ⟨fun hgood => State.serve_defers hq ?_, fun hbad => State.serve_settled hq ?_⟩ <;>
    simp only [State.popRequest_fwStatus, State.popRequest_fwOutstanding, State.popRequest_node, haligned, hnone]
  · rw [if_neg (not_not.2 rfl), if_neg Bool.false_ne_true, if_neg (not_not.2 hgood)]
  · rw [if_neg (not_not.2 rfl), if_neg Bool.false_ne_true, if_pos hbad, refuse]

/-- R406: an unlock spends the challenge; before stage 9 a token that verifies unlocks, in its scope. -/
theorem trustDebugUnlockEff_verifies {f : Nat} {s : State} {q : Request} (hq : s.headRequest f 0x0804 = some q)
    (hop : byteAt q.payload 0 = 1) (htoken : s.tokenOk q.payload = true) (hstage : s.node.stage < 9) :
    trustDebugUnlockEff f s = settled f { s.popRequest f with node := { s.node with
      challenge := none, unlocked := true, unlocks := s.node.unlocks + 1,
      scope := Nat.lor s.node.scope (bitsOf (le q.payload 8 8) 0 2) } } q stOk unstamped [] := by
  unfold trustDebugUnlockEff
  rw [if_neg (by simp [hq, hop])]
  refine State.serve_settled hq ?_
  simp only [State.popRequest_tokenOk, State.popRequest_node, hop, htoken]
  rw [if_neg (not_not.2 rfl), if_neg (by simp), if_neg (Nat.not_le.2 hstage), report]

/-- R406: of a token that does not verify, an unlock spends the challenge and unlocks nothing. -/
theorem trustDebugUnlockEff_fails {f : Nat} {s : State} {q : Request} (hq : s.headRequest f 0x0804 = some q)
    (hop : byteAt q.payload 0 = 1) (htoken : s.tokenOk q.payload = false) :
    trustDebugUnlockEff f s =
      settled f { s.popRequest f with node := { s.node with challenge := none } } q stAuthFailed unstamped [] := by
  unfold trustDebugUnlockEff
  rw [if_neg (by simp [hq, hop])]
  refine State.serve_settled hq ?_
  simp only [State.popRequest_tokenOk, State.popRequest_node, hop, htoken]
  rw [if_neg (not_not.2 rfl), if_pos (by simp), refuse]

/-- Settles O34, request by request. -/
theorem trustRequestsServed : Obligations.TrustRequestsServed := by
  refine ⟨?attest, ?brand, ?update, ?written, ?ageing, ?units, ?challenge, ?unlock, ?locked, ?ide⟩
  case attest => exact fun f s q hf hq => guarded_funcOk hf (State.serve_reports hq rfl)
  case brand => exact fun f s q hf hq => guarded_funcOk hf (State.serve_reports hq rfl)
  case ageing => exact fun f s q hf hq => guarded_funcOk hf (State.serve_reports hq rfl)
  case units => exact fun f s q hf hq => guarded_funcOk hf (State.serve_reports hq rfl)
  case update =>
    intro f image s q hf hdma hq haligned hnone
    obtain ⟨hgood, hbad⟩ := trustFwUpdateEff_checked (image := image) hdma hq haligned hnone
    exact ⟨fun h => guarded_funcOk hf (hgood h), fun h => guarded_funcOk hf (hbad h)⟩
  case written =>
    intro s b image hupdate hidle
    refine ⟨_, rfl, ?_⟩
    unfold State.fwWritten
    simp only [hupdate]
    exact if_neg (by simp [hidle])
  case challenge =>
    intro f s q hf hq hop
    refine ⟨{ (s.popRequest f).drawN 48 with node := { s.node with challenge := some (s.drawnBytes 48) } },
      guarded_funcOk hf ?_, rfl, rfl⟩
    unfold trustDebugChallengeEff
    rw [if_neg (by simp [hq, hop])]
    exact State.serve_settled hq rfl
  case unlock =>
    intro f s q hf hq hop hstage
    refine guarded_funcOk hf ?_
    split
    · next htoken => exact trustDebugUnlockEff_verifies hq hop htoken hstage
    · next htoken => exact trustDebugUnlockEff_fails hq hop (by simpa using htoken)
  case locked =>
    intro f s q hf hq hop htoken
    exact guarded_funcOk hf (trustDebugUnlockEff_fails hq hop htoken)
  case ide =>
    intro f s q hf hq hlink hstream hdirection hset hsub
    have hrange : ¬(!s.hasLink (byteAt q.payload 0) ∨ 8 < byteAt q.payload 1 ∨ 1 < byteAt q.payload 2 ∨
        1 < byteAt q.payload 3 ∨ 2 < byteAt q.payload 4) := by
      simp [hlink]
      omega
    refine ⟨fun k hk => guarded_funcOk hf (State.serve_settled hq ?_), fun hk => guarded_funcOk hf (State.serve_settled hq ?_)⟩ <;>
      simp only [State.popRequest_hasLink, State.popRequest_ideKey, if_neg hrange, hk]
    · rfl
    · rfl

end Sys2Proof.Machine
end

section
/-! SUPPORT. Storage commands: their admission, the two strides of a READ, mirrored writes and detour reads (R274, R277, R280,
R282, R283). -/

namespace Sys2Proof.Machine

/-! ## The choice of a queue (R277) -/

theorem mem_sortBy {α : Type} {lt : α → α → Bool} {a : α} (l : List α) : a ∈ sortBy lt l ↔ a ∈ l := by
  induction l with
  | nil => rfl
  | cons x l ih =>
    have hstep : sortBy lt (x :: l) =
        (sortBy lt l).takeWhile (lt · x) ++ x :: (sortBy lt l).dropWhile (lt · x) := rfl
    have hparts : a ∈ sortBy lt l ↔ a ∈ (sortBy lt l).takeWhile (lt · x) ∨ a ∈ (sortBy lt l).dropWhile (lt · x) := by
      rw [← List.mem_append, List.takeWhile_append_dropWhile]
    rw [hstep, List.mem_append, List.mem_cons, List.mem_cons, ← ih, hparts]
    exact or_left_comm

/-- Of candidates that are all one queue, that queue is next. -/
theorem nextQueue_of_all {last : Option Nat} {qs : List Nat} {id : Nat} (hne : qs ≠ []) (hall : ∀ q ∈ qs, q = id) :
    nextQueue last qs = some id := by
  have hsorted : ∀ q ∈ sortBy (fun a b => decide (a < b)) qs, q = id := fun q hq => hall q ((mem_sortBy qs).1 hq)
  obtain ⟨x, hx⟩ := List.exists_mem_of_ne_nil qs hne
  obtain ⟨y, l, hl⟩ := List.exists_cons_of_ne_nil (List.ne_nil_of_mem ((mem_sortBy (lt := fun a b => decide (a < b)) qs).2 hx))
  have hhead : (sortBy (fun a b => decide (a < b)) qs).head? = some id := by
    rw [hl, List.head?_cons, hsorted y (hl ▸ List.mem_cons_self)]
  unfold nextQueue
  cases last with
  | none => exact hhead
  | some l =>
    dsimp only
    split
    · next q hfind => rw [hsorted q (List.mem_of_find?_eq_some hfind)]
    · exact hhead

/-- Where all heads that are ready are one queue's, R277 chooses that queue; only the places and the credits change. -/
theorem State.nextStorage_of_all {s : State} {cls id p : Nat} {ready : List (Nat × Nat)} (hall : ∀ x ∈ ready, x.1 = id)
    (hmem : (id, p) ∈ ready) (hp : p ≤ 3) (hweights : ∀ w ∈ SMap.getD s.gaits.weights cls [1, 1, 1], 0 < w)
    (hthree : (SMap.getD s.gaits.weights cls [1, 1, 1]).length = 3) :
    ∃ gaits, s.nextStorage cls ready = some (id, { s with gaits := gaits }) := by
  have hat : ∀ p q, q ∈ (ready.filter fun x => x.2 = p).map (·.1) → q = id := by
    simp only [List.mem_map, List.mem_filter]
    rintro p q ⟨x, ⟨hx, -⟩, rfl⟩
    exact hall x hx
  have hnonempty : (ready.filter fun x => x.2 = p).map (·.1) ≠ [] :=
    List.ne_nil_of_mem (List.mem_map.2 ⟨(id, p), by simp [hmem], rfl⟩)
  unfold State.nextStorage
  extract_lets at' lastOf g serve cr held live cr1
  cases hheld : held with
  | some q =>
    obtain ⟨w, -, hw⟩ := Option.bind_eq_some_iff.1 hheld
    split at hw
    · next hany =>
      cases hw
      obtain ⟨x, hx, hq⟩ := List.any_eq_true.1 hany
      rw [← of_decide_eq_true hq, hall x hx]
      exact ⟨_, rfl⟩
    · cases hw
  | none =>
    dsimp only
    split
    · next q hzero =>
      have hq : q = id := by
        by_cases hempty : at' 0 = []
        · rw [hempty] at hzero
          unfold nextQueue at hzero
          split at hzero <;> simp [sortBy] at hzero
        · rw [nextQueue_of_all hempty (hat 0)] at hzero
          exact (Option.some.inj hzero).symm
      rw [hq]
      exact ⟨_, rfl⟩
    · next hzero =>
      have hp0 : p ≠ 0 := by
        rintro rfl
        rw [nextQueue_of_all hnonempty (hat 0)] at hzero
        cases hzero
      have hlive : p ∈ live := List.mem_filter.2 ⟨by simp; omega, by simpa [at'] using hnonempty⟩
      have hcredit : ∃ x ∈ live, 0 < cr1.getD (x - 1) 0 := by
        by_cases hany : (live.any fun p => 0 < cr.getD (p - 1) 0) = true
        · obtain ⟨x, hx, hpos⟩ := List.any_eq_true.1 hany
          refine ⟨x, hx, ?_⟩
          simp only [cr1]
          rw [if_pos hany]
          exact of_decide_eq_true hpos
        · refine ⟨p, hlive, ?_⟩
          simp only [cr1, hany, if_false, Bool.false_eq_true]
          have hlt : p - 1 < (SMap.getD s.gaits.weights cls [1, 1, 1]).length := by omega
          rw [List.getD_eq_getElem _ _ hlt]
          exact hweights _ (List.getElem_mem hlt)
      split
      · next hnone =>
        obtain ⟨x, hx, hpos⟩ := hcredit
        exact absurd (decide_eq_true hpos) (by simpa using List.find?_eq_none.1 hnone x hx)
      · next x hfind =>
        have hx : at' x ≠ [] := by
          simpa using (List.mem_filter.1 (List.mem_of_find?_eq_some hfind)).2
        rw [nextQueue_of_all hx (hat x)]
        exact ⟨_, rfl⟩

/-! ## Admission -/

theorem byteAt_fit {n i : Nat} (b : Bytes) (hi : i < n) : byteAt (fit n b) i = byteAt b i := by
  unfold byteAt fit
  congr 1
  by_cases h : i < b.length
  · rw [List.getD_append _ _ _ _ (by rw [List.length_take]; omega)]
    simp [List.getD_eq_getElem?_getD, hi]
  · rw [List.getD_append_right _ _ _ _ (by rw [List.length_take]; omega), List.getD_eq_default _ _ (Nat.not_lt.1 h)]
    simp [zeros, List.getD_eq_getElem?_getD, List.getElem?_replicate]
    split <;> rfl

/-- A READ takes nothing from HBM at its admission. -/
theorem State.takesHbm_of_read {s : State} {ctx : Nat} {c : StorageCommand} (h : c.op = 1) : s.takesHbm ctx c = false := by
  simp [State.takesHbm, h]

/-- The admission of a READ: its queue counts it, and it is held under the next number. -/
theorem State.admitCommand_read {s : State} {cls : Nat} {r r' : Ring} {h : QueueHead}
    (hq : SMap.find? s.queues h.queue = some r) (hop : byteAt (fit 64 h.entry) 4 = 1) :
    ∃ c, SMap.find? (s.admitCommand cls r' h).queues h.queue =
        some { r with admitted := r.admitted + 1, stepped := r.stepped + 1, reserved := r.reserved + 1 } ∧
      SMap.find? (s.admitCommand cls r' h).flash.commands s.flash.nextCommand = some c ∧ c.queue = h.queue ∧
      c.admitAt = s.stride ∧ c.cmdId = le (fit 64 h.entry) 0 4 ∧
      (s.admitCommand cls r' h).flash.nextCommand = s.flash.nextCommand + 1 := by
  unfold State.admitCommand
  extract_lets b k? c s0 s1 g s2 p? mirrored n f
  have hread : c.op = 1 := hop
  rw [if_neg (by rw [hread]; decide)]
  dsimp (zeta := false) only
  extract_lets st c1 s3 s4
  have hs0 : s0 = s := if_neg (by simp [State.takesHbm_of_read hread])
  rw [if_neg (by simp [hread])]
  have hn : n = s.flash.nextCommand := by
    simp only [n, s2, s1, hs0]
    rfl
  have hc1 : c1.queue = h.queue ∧ c1.admitAt = s.stride ∧ c1.cmdId = le (fit 64 h.entry) 0 4 := by
    simp only [c1]
    (repeat' split) <;> exact ⟨rfl, rfl, rfl⟩
  have hs4 : s4.queues = s3.queues ∧ s4.flash.commands = s3.flash.commands ∧ s4.flash.nextCommand = s3.flash.nextCommand := by
    simp only [s4]
    (repeat' split) <;> exact ⟨rfl, rfl, rfl⟩
  obtain ⟨hqueues, hcommands, hnext⟩ := hs4
  refine ⟨c1, ?_, ?_, hc1.1, hc1.2.1, hc1.2.2, hnext.trans (congrArg (· + 1) hn)⟩
  · rw [hqueues]
    exact (SMap.find?_update_self ..).trans (by rw [hs0, hq]; rfl)
  · rw [hcommands, ← hn]
    exact SMap.find?_set_self ..

/-! ## Mirrors and marks -/

theorem State.formPages_commands (pad ch n : Nat) (s : State) :
    (State.formPages pad ch n s).flash.commands = s.flash.commands := by
  induction n generalizing s with
  | zero => rfl
  | succ n ih =>
    unfold State.formPages
    dsimp only
    split
    · rfl
    · exact ih _

/-- A commit leaves the commands in flight. -/
theorem State.commitUnits_commands (s : State) (pad start : Nat) (data : List Bytes) (single host : Bool) :
    (s.commitUnits pad start data single host).flash.commands = s.flash.commands := by
  unfold State.commitUnits
  refine foldl_holds (P := fun t : State => t.flash.commands = s.flash.commands) (fun t ch ht => ?_) _ rfl
  refine (State.formPages_commands ..).trans ?_
  split <;> exact ht

theorem State.writeBack_commands (s : State) (pad u phys : Nat) (d : Bytes) :
    (s.writeBack pad u phys d).flash.commands = s.flash.commands := by
  unfold State.writeBack
  dsimp only
  split
  · exact State.commitUnits_commands ..
  · rfl

theorem State.modStorage_find? {s : State} {n : Nat} {c : StorageCommand} (h : SMap.find? s.flash.commands n = some c)
    (g : StorageCommand → StorageCommand) : SMap.find? (s.modStorage n g).flash.commands n = some (g c) :=
  (SMap.find?_update_self ..).trans (by rw [h]; rfl)

theorem bitOf_add_two {v : Nat} (h : bitOf v 1 = false) : bitOf (v + 2) 1 = true := by
  simp only [bitOf, beq_iff_eq, beq_eq_false_iff_ne, ne_eq, Nat.pow_one] at *
  omega

theorem StorageCommand.due_of_eq {c : StorageCommand} {stride off : Nat} (h : stride = c.admitAt + off) (hlen : 3 ≤ c.len) :
    c.due stride off = true := by
  unfold StorageCommand.due
  simp only [Bool.and_eq_true, Bool.or_eq_true, decide_eq_true_eq]
  omega

/-- A message to another node is sent where its route's port is open. -/
theorem State.send_sent (s : State) (cls dest : Nat) (body : Bytes) :
    (s.send cls dest body).out.sent = s.out.sent ++
      (if dest = s.node.id ∨ s.portOpen (s.routeOf dest) = true then [{ cls := cls, dest := dest, body := body, aside := [] }]
        else []) := by
  unfold State.send State.sendWith
  dsimp only
  by_cases hself : dest = s.node.id
  · rw [if_pos hself, if_pos (show dest = s.node.id ∨ s.portOpen (s.routeOf dest) = true from .inl hself), State.emit_out]
  · rw [if_neg hself]
    by_cases hopen : s.portOpen (s.routeOf dest) = true
    · rw [if_neg (by simp [hopen]),
        if_pos (show dest = s.node.id ∨ s.portOpen (s.routeOf dest) = true from .inr hopen)]
      split
      · exact congrArg Output.sent (State.emit_out ..)
      · exact congrArg Output.sent (State.emit_out ..)
    · rw [if_pos (by simpa using hopen), if_neg (by simp [hself, hopen]), List.append_nil]

/-- STORAGE_DETOUR_READ: its page reads change only the flash; where none is lost it sends the units that the paddock shows. -/
theorem storageDetourReadEff_serves {pad a n d : Nat} {reads : List FlashRead} {s : State} {p : Paddock}
    (hp : SMap.find? s.flash.paddocks pad = some p) (hworking : s.working = true) (hmirrored : p.mirrored = true)
    (hclass : s.gaitNow.1.freeClassOf p.context 7 = some d) (hroom : s.classRoom d = true)
    (hlost : ∀ r ∈ reads, r.lost = false) :
    ∃ flash, storageDetourReadEff pad a n reads s = { s.admitTo d with flash := flash }.send 6 s.partner (toLe 2 pad ++
      toLe 8 a ++ toLe 4 n ++ (List.range n).flatMap fun i => (p.view (a + i)).getD []) := by
  have hsound : ∀ u, (reads.any fun r => r.unit = u && r.lost) = false := by
    intro u
    simp only [List.any_eq_false]
    intro r hr
    simp [hlost r hr]
  unfold storageDetourReadEff
  rw [hp]
  dsimp (zeta := false) only
  rw [hclass]
  dsimp (zeta := false) only
  rw [if_neg (by simp [hworking, hmirrored, hroom])]
  extract_lets one got
  have hgot : got = fun u => (p.view u).getD [] := funext fun u => if_neg (by simp [hsound])
  obtain ⟨flash, hpages⟩ : ∃ flash, (List.range n).foldl (fun s i => one s (a + i)) (s.admitTo d) =
      { s.admitTo d with flash := flash } := by
    refine foldl_holds (P := fun t => ∃ flash, t = { s.admitTo d with flash := flash }) ?_ _ ⟨(s.admitTo d).flash, rfl⟩
    rintro _ i ⟨flash, rfl⟩
    simp only [one]
    split
    · split
      · obtain ⟨flash', hretired⟩ := State.retireBlock_eq (State.modChannel { s.admitTo d with flash := flash } _ _) _ _
        rw [hretired]
        exact ⟨_, rfl⟩
      · exact ⟨_, rfl⟩
    · exact ⟨_, rfl⟩
  rw [hpages, hgot]
  exact ⟨flash, rfl⟩

/-- Settles O35, clause by clause: the loop of an admission runs once on a single head; a READ's two strides, the receipt of a
mirrored write and a detour read are their definitions on the stated branch. -/
theorem storageCommandsCarriedOut : Obligations.StorageCommandsCarriedOut := by
  refine ⟨?admitted, ?reads, ?delivers, ?waits, ?detoured, ?mirrored, ?gone, ?served⟩
  case admitted =>
    intro k h s r hk hworking hr hcls hmay hpriority hweights hthree hfits hop
    have hop' : byteAt (fit 64 h.entry) 4 = 1 := (byteAt_fit _ (by omega)).trans hop
    have hready : (h.queue, r.priority) ∈ (s.queues.filter fun q =>
        q.2.cls = k && s.mayAdmit q.2 && [h].any fun h => h.queue = q.1).map fun q => (q.1, q.2.priority) :=
      List.mem_map.2 ⟨(h.queue, r), List.mem_filter.2 ⟨SMap.mem_of_find? hr, by simp [hcls, hmay]⟩, rfl⟩
    have hall : ∀ x ∈ (s.queues.filter fun q =>
        q.2.cls = k && s.mayAdmit q.2 && [h].any fun h => h.queue = q.1).map fun q => (q.1, q.2.priority), x.1 = h.queue := by
      intro x hx
      obtain ⟨q, hq, rfl⟩ := List.mem_map.1 hx
      have hq := (List.mem_filter.1 hq).2
      simp at hq
      exact hq.2.symm
    obtain ⟨gaits, hnext⟩ := State.nextStorage_of_all (s := s) hall hready hpriority hweights hthree
    obtain ⟨c, hc⟩ := State.admitCommand_read (s := { s with gaits := gaits }) (cls := k) (r' := r) hr hop'
    refine ⟨_, c, guarded_decide hk ?_, hc⟩
    have hread : (parseCommand h.queue r.admitted s.stride 3 false (fit 64 h.entry)).op = 1 := hop'
    unfold storageAdmissionEff
    rw [if_pos hworking, List.length_singleton, State.admitStorage]
    simp only [hnext, List.find?_cons, decide_true, hr]
    rw [if_pos (by simp [hfits, hread, State.takesHbm_of_read hread])]
    rfl
  case reads =>
    intro n reads ans s c hc hworking hop hst hread hstride hlen
    refine (guarded_true _ s).trans (congrArg Host.Outcome.next ?_)
    simp [storageReadEff, hc, hworking, hop, hst, hread, StorageCommand.due_of_eq hstride hlen]
  case delivers =>
    rintro n reads ans s c _ _ hc hworking hop hst hread hstride hlen hfree rfl rfl
    refine (guarded_true _ s).trans (congrArg Host.Outcome.next ?_)
    have hgranted : (c.inHbm && s.dieWaits c.address (4096 * c.count)) = false := by
      cases h : c.inHbm
      · rfl
      · exact hfree h
    simp [storageReadEff, hc, hworking, hop, hst, hread, StorageCommand.due_of_eq hstride hlen, hgranted]
  case waits =>
    intro n reads ans s c hc hworking hop hst hread hstride hlen hin hwaits
    refine (guarded_true _ s).trans (congrArg Host.Outcome.next ?_)
    simp [storageReadEff, hc, hworking, hop, hst, hread, StorageCommand.due_of_eq hstride hlen, hin, hwaits]
  case detoured =>
    intro n ans s c u d hc hanswer _
    refine ⟨{ c with data := c.data.set (u - c.start) d, flags := if bitOf c.flags 1 then c.flags else c.flags + 2 },
      ?_, rfl, ?_⟩
    · unfold State.takeDetour
      simp only [hanswer]
      exact State.modStorage_find? (by rw [State.writeBack_commands, hc]) _
    · dsimp only
      split
      · assumption
      · next h => exact bitOf_add_two (by simpa using h)
  case mirrored =>
    intro m s u p harrival hp hrunning hmirrored hst hwrites hfenced hcapacity hcount hmost hstride hroom
    refine ⟨{ paddock := le m 4 2, start := le m 8 8,
              data := (List.range (le m 6 2)).map fun i => fit 4096 (m.drop (24 + 4096 * i)),
              commit := le m 16 8, held := false, number := le m 0 4, units := 0 },
      congrArg Host.Outcome.next ((State.arrives_of_taken harrival _).trans ?_), rfl, rfl, by simp, rfl, rfl⟩
    unfold mirroredWriteReceiveEff
    simp only [hp]
    rw [if_neg (by simp [hrunning, hmirrored, hst, hfenced]; omega), if_neg (Nat.pos_iff_ne_zero.1 hcount),
      if_neg (by simp [hwrites, hroom]; omega)]
  case gone =>
    intro m s u harrival hnone
    refine congrArg Host.Outcome.next ((State.arrives_of_taken harrival _).trans ?_)
    simp only [mirroredWriteReceiveEff, hnone]
  case served =>
    intro pad a n reads s p d hpad hn hp hworking hmirrored hclass hroom hlost
    obtain ⟨flash, hserves⟩ := storageDetourReadEff_serves (a := a) (n := n) hp hworking hmirrored hclass hroom hlost
    refine ⟨_, guarded_decide ⟨hpad, hn⟩ hserves, State.send_gaits .., ?_⟩
    rw [State.send_sent, State.send_sent]
    rfl

end Sys2Proof.Machine
end

section
/-! SUPPORT. The issue of flash operations (R258, R264). -/

namespace Sys2Proof.Machine

/-- A page program of paddock 3 without units, all of its charges met. -/
def emptyProgram : ArrayOp := pageOp 3 0 [] false 0

/-- A paddock of which nothing is written. -/
def plainPaddock : Paddock :=
  { context := 0, mirrored := false, op := 7, share := 1, cls := 0, capacity := 64, st := 1, units := [], ranges := [] }

/-- A ready node in the work window, on whose channel 0 the program waits. Its map of paddocks is out of the canonical form: 5
stands before 3. -/
def unsortedNode : State :=
  { State.reset with
    clk := { State.reset.clk with window := 1 }
    node := { Node.reset with st := 1 }
    gaits := { State.reset.gaits with admitted := { UnitSet.none with flash := BitVec.allOnes 32 } }
    flash := { Flash.reset with
      channels := [(0, { Flash.reset.fresh with waiting := [emptyProgram] })]
      paddocks := [(5, plainPaddock), (3, plainPaddock)] } }

/-- Refutes O36: its clauses on the issue of a page hold every state's paddocks as they are, but the issue takes in the partner's
answers for the paddock even where none was asked for, which sets the paddock in the map again. That is no change in a map of the
canonical form; in `unsortedNode`'s, the paddock is found behind a higher number and set in front of it, a third entry. -/
theorem not_flashWorkRun : ¬ Obligations.FlashWorkRun := by
  rintro ⟨-, -, hissue, -⟩
  have hexec := hissue 0 [] [] [] unsortedNode emptyProgram (by decide) rfl (by decide) (by decide) rfl rfl rfl (by decide)
  simp only [exec] at hexec
  have hpaddocks := congrArg (fun t : State => t.flash.paddocks.length) (guarded_next.1 hexec).2
  exact absurd hpaddocks (by decide)

end Sys2Proof.Machine
end

section
/-! SUPPORT. The traffic of the ports: frames, flits, credits, policing and routing (R286 to R293, R300, R301, R313, R315). -/

namespace Sys2Proof.Machine

/-- A guarded effect on what an arrival that is taken leaves. -/
theorem guarded_arrives {ok : Bool} {cls : Nat} (source : State → Nat) {m : Bytes} {take : State → State} {s u t : State}
    (hok : ok = true) (harrival : s.arrival cls (source s) m = (true, u)) (heff : take u = t) :
    guarded ok (fun s => s.arrives cls (source s) m take) s = .next t :=
  guarded_next.2 ⟨hok, heff.symm.trans (State.arrives_of_taken harrival take).symm⟩

/-! ## What leaves the ports -/

@[simp] theorem State.noteNode_fab (s : State) (opcode status stamp : Nat) (payload : Bytes) :
    (s.noteNode opcode status stamp payload).fab = s.fab :=
  foldl_keeps (fun t : State => t.fab) (fun t f => by simp) _ s

@[simp] theorem State.pfCause_fab (s : State) (bit : Nat) : (s.pfCause bit).fab = s.fab :=
  foldl_keeps (fun t : State => t.fab) (fun t f => by simp) _ s

@[simp] theorem State.herdEvent_fab (s : State) (event reason subject decider port stride epoch : Nat) :
    (s.herdEvent event reason subject decider port stride epoch).fab = s.fab := by
  simp [State.herdEvent]

/-- A state reads a port from its fabric alone. -/
theorem State.port_congr {s t : State} (h : t.fab.ports = s.fab.ports) (p : Nat) : t.port p = s.port p := by
  rw [State.port, State.port, h]

@[simp] theorem State.lose_port (s : State) (cls : Nat) (body : Bytes) (p : Nat) : (s.lose cls body).port p = s.port p := rfl
@[simp] theorem State.scheduledLost_port (s : State) (p : Nat) : s.scheduledLost.port p = s.port p := rfl
@[simp] theorem State.emit_port (s : State) (cls dest : Nat) (body aside : Bytes) (p : Nat) :
    (s.emit cls dest body aside).port p = s.port p := rfl

/-- A port that is not down by default is one of the node's. -/
theorem State.port_lt {s : State} {p : Nat} (h : (s.port p).st = 2) : p < s.fab.ports.length := by
  by_contra hp
  rw [State.port, List.getD_eq_default _ _ (Nat.not_lt.1 hp)] at h
  cases h

/-! ## Frames (R288, R289, R293) -/

/-- What a change of a port keeps of it is kept of every port. -/
theorem State.modPort_keeps {α : Type} {φ : Port → α} {g : Port → Port} (hg : ∀ x, φ (g x) = φ x) (s : State) (p i : Nat) :
    φ ((s.modPort p g).port i) = φ (s.port i) := by
  by_cases hi : i = p
  · subst hi
    by_cases hp : i < s.fab.ports.length
    · rw [State.modPort_port_self s g hp, hg]
    · rw [State.port, State.port, List.getD_eq_default _ _ (by simpa using hp), List.getD_eq_default _ _ (Nat.not_lt.1 hp)]
  · rw [State.modPort_port_ne s g hi]

theorem State.discard_badNow (s : State) (p n i : Nat) : ((s.discard p n).port i).badNow = (s.port i).badNow :=
  State.modPort_keeps (φ := Port.badNow) (g := fun x => { x with discarded := x.discarded + n }) (fun _ => rfl) s p i

/-- A flit that comes leaves the counts of bad codewords. -/
theorem State.flit_badNow (p : Nat) (bad : Bool) (s : State) (f : Nat × Bytes) (i : Nat) :
    ((State.flit p bad s f).port i).badNow = (s.port i).badNow := by
  unfold State.flit
  split
  · unfold State.messageFlit
    split
    · rfl
    · next x _ =>
      dsimp only
      split
      · exact State.modPort_keeps (φ := Port.badNow) (fun _ => by rfl) s p i
      · have hfreed : ∀ y : Arriving, (((s.modPort p fun z => { z.frees f.1 (y.body.length / 64) with
            ingress := z.ingress.erase x }).port i).badNow) = (s.port i).badNow := fun y =>
          State.modPort_keeps (φ := Port.badNow) (fun z => by
            unfold Port.frees
            split <;> rfl) s p i
        (repeat' split) <;> simp [State.discard_badNow, hfreed]
  · unfold State.recordFlit
    split
    · rfl
    · split
      · exact s.discard_badNow p 1 i
      · exact State.modPort_keeps (φ := Port.badNow) (fun _ => by rfl) s p i

theorem State.flits_badNow (p : Nat) (bad : Bool) (l : List (Nat × Bytes)) (s : State) (i : Nat) :
    ((l.foldl (State.flit p bad) s).port i).badNow = (s.port i).badNow :=
  foldl_keeps (fun t : State => (t.port i).badNow) (fun t f => t.flit_badNow p bad f i) l s

/-! ## Down (R286, R315) -/

/-- A port in service that goes down. -/
theorem State.portDown_self {s : State} {p : Nat} (hst : (s.port p).st = 2) : (s.portDown p).port p = (s.port p).goDown := by
  have hlost : ∀ l : List Arriving, (l.foldl (fun (s : State) x => s.lose x.cls x.body) s).fab.ports = s.fab.ports := fun l =>
    foldl_keeps (fun t : State => t.fab.ports) (fun _ _ => by rfl) l s
  unfold State.portDown
  rw [if_pos hst]
  refine (State.port_congr (congrArg Fabric.ports (State.herdEvent_fab ..)) p).trans ?_
  rw [State.modPort_port_self _ _ (by rw [hlost]; exact State.port_lt hst), State.port_congr (hlost _) p]

/-- A port that goes down leaves the others. -/
theorem State.portDown_ne (s : State) {p i : Nat} (hi : i ≠ p) : (s.portDown p).port i = s.port i := by
  unfold State.portDown
  split
  · refine (State.port_congr (congrArg Fabric.ports (State.herdEvent_fab ..)) i).trans ?_
    rw [State.modPort_port_ne _ _ hi]
    exact State.port_congr (foldl_keeps (fun t : State => t.fab.ports) (fun _ _ => by rfl) _ s) i
  · rfl

/-- After it a port is not in service, and no port enters service. -/
theorem State.portDown_st (s : State) (p i : Nat) : ((s.portDown p).port i).st ≠ 2 ↔ i = p ∨ (s.port i).st ≠ 2 := by
  by_cases hi : i = p
  · subst hi
    by_cases hst : (s.port i).st = 2
    · simp [State.portDown_self hst, Port.goDown]
    · simp [State.portDown, hst]
  · simp [s.portDown_ne hi, hi]

/-- The ports of a list go down, and the others stay. -/
theorem State.portsDown_st (l : List Nat) (s : State) (i : Nat) :
    ((l.foldl State.portDown s).port i).st ≠ 2 ↔ i ∈ l ∨ (s.port i).st ≠ 2 := by
  induction l generalizing s with
  | nil => simp
  | cons p l ih => rw [List.foldl_cons, ih, State.portDown_st, List.mem_cons]; tauto

theorem State.portsDown_ne (l : List Nat) (s : State) {i : Nat} (hi : i ∉ l) : (l.foldl State.portDown s).port i = s.port i := by
  induction l generalizing s with
  | nil => rfl
  | cons p l ih =>
    rw [List.mem_cons, not_or] at hi
    rw [List.foldl_cons, ih _ hi.2, s.portDown_ne hi.1]

/-! ## Policing (R313, R314) -/

theorem Policer.mark_green {z : Policer} {bytes : Nat} {yellow : Bool} (hmode : z.mode ≠ 0) (htp : bytes ≤ z.tp)
    (htc : bytes ≤ z.tc) (hyellow : z.mode = 2 → yellow = false) :
    z.mark bytes yellow = (0, { z with tp := z.tp - bytes, tc := z.tc - bytes, green := z.green + 1 }) := by
  have hgreen : ¬((decide (z.mode = 2) && yellow || decide (z.tc < bytes)) = true) := by
    simp only [Bool.or_eq_true, Bool.and_eq_true, decide_eq_true_eq, not_or, not_and, Nat.not_lt]
    exact ⟨fun h => by simp [hyellow h], htc⟩
  rw [Policer.mark, if_neg hmode, if_neg (Nat.not_lt.2 htp), if_neg hgreen]

theorem Policer.mark_red {z : Policer} {bytes : Nat} {yellow : Bool} (hmode : z.mode ≠ 0) (htp : z.tp < bytes) :
    z.mark bytes yellow = (2, { z with red := z.red + 1 }) := by
  rw [Policer.mark, if_neg hmode, if_pos htp]

theorem State.police_free {s : State} {p cls bytes : Nat} {yellow : Bool} (h : polices (s.port p).role cls = false) :
    s.police p cls bytes yellow = (true, s) := by
  simp [State.police, h]

/-- A policed class whose policer is `z` and marks a colour. -/
theorem State.police_marked {s : State} {p cls bytes c : Nat} {yellow : Bool} {z z' : Policer}
    (hpolices : polices (s.port p).role cls = true) (hz : SMap.find? (s.port p).policers cls = some z)
    (hmark : z.mark bytes yellow = (c, z')) :
    s.police p cls bytes yellow =
      let t := s.modPort p fun x => { x with policers := SMap.set x.policers cls z' }
      if c = 2 then (false, t.discard p 1) else (true, t) := by
  simp [State.police, hpolices, SMap.getD, SMap.has, hz, hmark]

/-! ## Header records (R290, R313) -/

/-- The next header record is taken. -/
def State.recordTaken (s : State) (p : Nat) : State := s.modPort p fun x => { x with records := x.records.tail }

theorem State.recordTaken_port {s : State} {p : Nat} (hp : p < s.fab.ports.length) :
    (s.recordTaken p).port p = { s.port p with records := (s.port p).records.tail } := State.modPort_port_self _ _ hp

/-- A message that its port takes is policed, and opens or is refused as its policer says. -/
theorem headerRecordReceiveEff_takes {p : Nat} {h0 h : Word64} {b : Bytes} {s t : State} {pass : Bool} (hst : (s.port p).st = 2)
    (hstopped : s.node.stopped = false) (hh : h = (s.port p).records.headD h0) (hlength : hdrLength h ≠ 0)
    (hcls : announced (hdrClass h) = true) (htakes : s.takes p (hdrClass h) (hdrSource h) = true)
    (hpolice : (s.recordTaken p).police p (hdrClass h) (64 * hdrLength h) (hdrYellow h) = (pass, t)) :
    headerRecordReceiveEff p h0 b s =
      if pass = true then t.acceptMessage p (arriving h b s.stride false) else t.refuseMessage p (arriving h b s.stride true) := by
  subst hh
  unfold headerRecordReceiveEff
  unfold State.recordTaken at hpolice
  simp only [hst, hlength, hcls, hstopped, htakes, ne_eq, not_true_eq_false, if_false, Bool.not_true, Bool.false_eq_true,
    decide_false, Bool.or_self, hpolice]

/-- A message that its port does not take is discarded and counted. -/
theorem headerRecordReceiveEff_untaken {p : Nat} {h0 h : Word64} {b : Bytes} {s : State} (hst : (s.port p).st = 2)
    (hstopped : s.node.stopped = false) (hh : h = (s.port p).records.headD h0) (hlength : hdrLength h ≠ 0)
    (hcls : announced (hdrClass h) = true) (htakes : s.takes p (hdrClass h) (hdrSource h) = false) :
    headerRecordReceiveEff p h0 b s =
      let t := ((s.recordTaken p).refuseMessage p (arriving h b s.stride true)).discard p 1
      if hdrClass h < 4 then t.scheduledLost else t := by
  subst hh
  unfold headerRecordReceiveEff
  simp only [hst, hlength, hcls, hstopped, htakes, ne_eq, not_true_eq_false, if_false, Bool.not_true, Bool.false_eq_true,
    decide_false, Bool.or_self, Bool.not_false, if_true]
  rfl

/-- A message whose policer marks it green or yellow passes. -/
theorem State.recordTaken_passes {s : State} {p cls bytes c : Nat} {yellow : Bool} {z z' : Policer}
    (hp : p < s.fab.ports.length) (hpolices : polices (s.port p).role cls = true)
    (hz : SMap.find? (s.port p).policers cls = some z) (hmark : z.mark bytes yellow = (c, z')) (hc : c ≠ 2) :
    (s.recordTaken p).police p cls bytes yellow =
      (true, (s.recordTaken p).modPort p fun x => { x with policers := SMap.set x.policers cls z' }) :=
  (State.police_marked (by rwa [State.recordTaken_port hp]) (by rwa [State.recordTaken_port hp]) hmark).trans (if_neg hc)

/-- One that it marks red does not, and is counted. -/
theorem State.recordTaken_stops {s : State} {p cls bytes : Nat} {yellow : Bool} {z z' : Policer}
    (hp : p < s.fab.ports.length) (hpolices : polices (s.port p).role cls = true)
    (hz : SMap.find? (s.port p).policers cls = some z) (hmark : z.mark bytes yellow = (2, z')) :
    (s.recordTaken p).police p cls bytes yellow =
      (false, ((s.recordTaken p).modPort p fun x => { x with policers := SMap.set x.policers cls z' }).discard p 1) :=
  (State.police_marked (by rwa [State.recordTaken_port hp]) (by rwa [State.recordTaken_port hp]) hmark).trans (if_pos rfl)

/-! ## Forwarding (R300, R301) -/

/-- A message of the classes with header records goes to its route's port with a hop more, or is discarded after three hops. -/
theorem routerForwardEff_message {p : Nat} {h : Word64} {b : Bytes} {u : State} (hrunning : u.running = true)
    (hst : (u.port p).st = 2) (hdest : hdrDest h ≠ u.me) (hcls : announced (hdrClass h) = true)
    (htakes : u.takes p (hdrClass h) (hdrSource h) = true) :
    routerForwardEff p h b u =
      if 3 ≤ hdrHops h || 9 ≤ u.routeOf (hdrDest h) || !u.portOpen (u.routeOf (hdrDest h)) || u.isFenced (hdrDest h) ||
          u.isFenced (hdrSource h) then (u.discard p 1).scheduledLost
      else (u.modPort (u.routeOf (hdrDest h)) fun x =>
        x.sends (hdrClass h) (h.toNat + 2 ^ 50) b).emit (hdrClass h) (2 ^ 15 + u.routeOf (hdrDest h)) b [] := by
  simp [routerForwardEff, State.messageIn, hrunning, hst, hdest, hcls, htakes]

/-- A record goes by its own fields. -/
theorem routerForwardEff_record {p : Nat} {h : Word64} {b : Bytes} {u v : State} (hrunning : u.running = true)
    (hst : (u.port p).st = 2) (hdest : recordDest b ≠ u.me) (hcls : announced (hdrClass h) = false)
    (htakes : u.recordIn p (hdrClass h) (recordSource b) = (true, v)) :
    routerForwardEff p h b u =
      if 3 ≤ bitsOf (byteAt b 14) 1 2 || 9 ≤ u.routeOf (recordDest b) || !u.portOpen (u.routeOf (recordDest b)) ||
          u.isFenced (recordDest b) || u.isFenced (recordSource b) then (v.discard p 1).scheduledLost
      else (v.modPort (u.routeOf (recordDest b)) fun x =>
        x.sends (hdrClass h) (h.toNat + 2 ^ 50) (recordHop b)).emit (hdrClass h) (2 ^ 15 + u.routeOf (recordDest b))
          (recordHop b) [] := by
  simp [routerForwardEff, hrunning, hst, hdest, hcls, htakes]

/-- Settles O37, clause by clause. -/
theorem portsAndMessages : Obligations.PortsAndMessages := by
  refine ⟨?good, ?bad, ?more, ?last, ?record, ?credit, ?fenced, ?returns, ?closes, ?resends, ?down, ?dark, ?opens, ?green, ?red,
    ?untaken, ?forwards, ?hops, ?records⟩
  case good =>
    intro p cws cor s hp hst hlen hok hindexes htags hbad
    have hgood : frameBad (cws.map (·.control)) 0 = false := by
      simp only [frameBad, hindexes, Bool.or_eq_false_iff, List.any_eq_false]
      exact ⟨⟨fun t ht => by simpa using htags t ht, by decide⟩, by decide⟩
    refine (guarded_next.2 ⟨by simp [portOk, hp, hok], ?_⟩)
    unfold frameReceiveEff
    simp only [hgood, hst, ne_eq, not_true_eq_false, if_false, State.flits_badNow]
    rw [if_neg]
    · rfl
    · rw [State.modPort_port_self _ _ hlen]
      exact Nat.not_lt.2 hbad
  case bad =>
    intro p cws cor bad s hp hst hlen hok hwrong hbad
    have hframe : frameBad (cws.map (·.control)) bad = true := by
      simp only [frameBad, Bool.or_eq_true, List.any_eq_true, decide_eq_true_eq, or_assoc]
      exact hwrong
    refine (guarded_next.2 ⟨by simp [portOk, hp, hok], ?_⟩)
    unfold frameReceiveEff
    simp only [hframe, hst, ne_eq, not_true_eq_false, if_false, if_true, State.flits_badNow]
    rw [if_neg]
    rw [State.modPort_port_self _ _ hlen]
    exact Nat.not_lt.2 hbad
  case more =>
    intro p cls fl bad s x hlen hcls hleft hx
    unfold State.flit State.messageFlit
    rw [if_pos hcls]
    simp only [hx]
    exact if_pos (.inl (by simp [Arriving.take]; omega))
  case last =>
    intro p cls fl s x hlen hcls hleft hrefused hx
    have hflit : State.flit p true s (cls, fl) = ((s.modPort p fun z =>
        { z.frees cls ((x.take true fl).body.length / 64) with ingress := z.ingress.erase x }).lose cls
          (x.take true fl).body).discard p 1 := by
      unfold State.flit State.messageFlit
      rw [if_pos hcls]
      simp only [hx]
      rw [if_neg (by simp [Arriving.take, hleft])]
      simp [Arriving.take, hrefused]
    refine ⟨_, rfl, ?_⟩
    rw [hflit]
    have hport : ((((s.modPort p fun z => { z.frees cls ((x.take true fl).body.length / 64) with
        ingress := z.ingress.erase x }).lose cls (x.take true fl).body).discard p 1).port p) =
        { (s.port p).frees cls ((x.take true fl).body.length / 64) with
          ingress := (s.port p).ingress.erase x, discarded := (s.port p).discarded + 1 } := by
      rw [State.discard, State.modPort_port_self _ _ (by simpa [State.lose] using hlen), State.lose_port,
        State.modPort_port_self _ _ hlen]
      unfold Port.frees
      split <;> rfl
    rw [hport]
    refine ⟨rfl, rfl, rfl, fun hpos hcls => ?_⟩
    simp [Port.frees, Nat.pos_iff_ne_zero.1 hpos, addAt, List.getD_eq_getElem?_getD, hcls]
  case record =>
    intro p cls fl s hcls hfl
    obtain ⟨b, hb, hne⟩ := hfl
    unfold State.flit State.recordFlit
    rw [if_neg (by simp [hcls]), if_neg (by simp; exact ⟨b, hb, hne⟩)]
    rfl
  case credit =>
    intro p cr s u hp harrival hst hlen hfenced
    refine ⟨creditMessageReceiveEff p cr u, ?_, ?_⟩
    · exact guarded_arrives State.me (decide_eq_true hp) harrival rfl
    unfold creditMessageReceiveEff
    rw [if_neg (by simp [hst]), if_neg (by simp [hfenced])]
    refine ⟨fun c hc hc8 => ?_, fun i hi => State.modPort_port_ne _ _ hi⟩
    rw [State.modPort_port_self _ _ hlen]
    simp [List.getD_eq_getElem?_getD, hc8, Nat.pos_iff_ne_zero.1 hc]
  case fenced =>
    intro p cr s u hp harrival hst hfenced
    refine guarded_arrives State.me (decide_eq_true hp) harrival ?_
    unfold creditMessageReceiveEff
    rw [if_neg (by simp [hst]), if_pos hfenced]
  case returns =>
    intro p s hp hst hnode hlen
    refine ⟨_, guarded_decide hp rfl, ?_⟩
    unfold creditReturnEff
    rw [if_neg (by simp [hst, hnode])]
    refine ⟨?_, rfl⟩
    rw [State.modPort_port_self _ _ (by simpa [State.sendPort] using hlen)]
    rfl
  case closes =>
    intro s p hlen hgroups
    have hcloses : s.closeFrame p =
        ({ s with out := { s.out with frames := s.out.frames ++ [(s.port p).frame p] } }).modPort p Port.nextFrame :=
      if_neg (Nat.not_lt.2 hgroups)
    rw [hcloses]
    refine ⟨rfl, ?_⟩
    exact congrArg Port.groups (State.modPort_port_self _ _ hlen)
  case resends =>
    intro h s x hx hrunning hopen
    refine ⟨_, guarded_true _ s, ?_⟩
    unfold transportResendEff
    simp only [hx, hrunning, hopen, Bool.not_true, Bool.false_eq_true, if_false]
    refine ⟨rfl, fun hlen => ?_, rfl⟩
    rw [State.emit_port, State.modPort_port_self _ _ hlen]
    rfl
  case down =>
    intro p s hp hst hlen
    refine ⟨s.portDown p, guarded_decide hp rfl, ?_, ?_, fun i hi => s.portDown_ne hi⟩
    · rw [State.portDown_self hst]
      rfl
    · rw [State.portDown_self hst]
      rfl
  case dark =>
    intro second s hlen
    refine ⟨_, rfl, fun p hp => (State.portsDown_st _ s p).2 (.inl hp), State.portsDown_ne _ s ?_⟩
    cases second <;> decide
  case opens =>
    rintro p h0 h b s hp hst hstopped hh hlength hcls htakes hpolices
    have hfree : polices ((s.recordTaken p).port p).role (hdrClass h) = false := by
      rwa [State.recordTaken_port (State.port_lt hst)]
    exact guarded_decide hp (headerRecordReceiveEff_takes hst hstopped hh hlength hcls htakes (State.police_free hfree))
  case green =>
    intro p h0 h b s z hp hst hlen hstopped hh hlength hcls htakes hpolices hz hmode htp htc hyellow
    refine ⟨_, guarded_decide hp (headerRecordReceiveEff_takes hst hstopped hh hlength hcls htakes
      (State.recordTaken_passes hlen hpolices hz (Policer.mark_green hmode htp htc hyellow) (by decide))), ?_⟩
    have hport : ∀ x z', ((((s.recordTaken p).modPort p fun x => { x with policers := SMap.set x.policers (hdrClass h) z' }).acceptMessage
        p x).port p) = { s.port p with
          records := (s.port p).records.tail, policers := SMap.set (s.port p).policers (hdrClass h) z'
          ingress := (s.port p).ingress ++ [x] } := by
      intro x z'
      refine (State.modPort_port_self _ _ (by simpa [State.recordTaken] using hlen)).trans ?_
      rw [State.modPort_port_self _ _ (by simpa [State.recordTaken] using hlen), State.recordTaken_port hlen]
    rw [if_pos rfl, hport]
    exact ⟨SMap.find?_set_self .., rfl, rfl⟩
  case red =>
    intro p h0 h b s z hp hst hlen hstopped hh hlength hcls htakes hpolices hz hmode htp
    refine ⟨_, guarded_decide hp (headerRecordReceiveEff_takes hst hstopped hh hlength hcls htakes
      (State.recordTaken_stops hlen hpolices hz (Policer.mark_red hmode htp))), ?_⟩
    have hport : ∀ x z', (((((s.recordTaken p).modPort p fun x =>
        { x with policers := SMap.set x.policers (hdrClass h) z' }).discard p 1).refuseMessage p x).port p) = { s.port p with
          records := (s.port p).records.tail, policers := SMap.set (s.port p).policers (hdrClass h) z'
          discarded := (s.port p).discarded + 1, ingress := (s.port p).ingress ++ [x] } := by
      intro x z'
      rw [State.refuseMessage, State.lose_port,
        State.modPort_port_self _ _ (by simpa [State.recordTaken, State.discard] using hlen), State.discard,
        State.modPort_port_self _ _ (by simpa [State.recordTaken] using hlen),
        State.modPort_port_self _ _ (by simpa [State.recordTaken] using hlen), State.recordTaken_port hlen]
    rw [if_neg Bool.false_ne_true, hport]
    exact ⟨SMap.find?_set_self .., rfl, rfl, rfl⟩
  case untaken =>
    intro p h0 h b s hp hst hlen hstopped hh hlength hcls htakes
    refine ⟨_, guarded_decide hp (headerRecordReceiveEff_untaken hst hstopped hh hlength hcls htakes), ?_⟩
    have hport : ∀ x, ((((s.recordTaken p).refuseMessage p x).discard p 1).port p).discarded = (s.port p).discarded + 1 := by
      intro x
      rw [State.discard, State.modPort_port_self _ _ (by simpa [State.recordTaken, State.refuseMessage, State.lose] using hlen),
        State.refuseMessage, State.lose_port, State.modPort_port_self _ _ (by simpa [State.recordTaken] using hlen),
        State.recordTaken_port hlen]
    dsimp only
    split
    · exact ⟨(congrArg Port.discarded (State.scheduledLost_port ..)).trans (hport _), rfl⟩
    · exact ⟨hport _, rfl⟩
  case forwards =>
    intro p h b s u hp harrival hrunning hst hdest hcls htakes hhops hroute hopen hfenced hsource
    refine guarded_arrives State.me (decide_eq_true hp) harrival
      ((routerForwardEff_message hrunning hst hdest hcls htakes).trans (if_neg ?_))
    simp [hopen, hfenced, hsource, hhops, hroute]
  case hops =>
    intro p h b s u hp harrival hrunning hst hdest hcls htakes hhops
    refine guarded_arrives State.me (decide_eq_true hp) harrival
      ((routerForwardEff_message hrunning hst hdest hcls htakes).trans (if_pos ?_))
    simp [hhops]
  case records =>
    intro p h b s u v hp harrival hrunning hst hcls hdest htakes hhops hroute hopen hfenced hsource
    refine guarded_arrives State.me (decide_eq_true hp) harrival
      ((routerForwardEff_record hrunning hst hdest hcls htakes).trans (if_neg ?_))
    simp [hopen, hfenced, hsource, hhops, hroute]

end Sys2Proof.Machine
end

section
/-! SUPPORT. Stride marks and the follower (R296 to R298, R447). -/

namespace Sys2Proof.Machine

/-- An arrival leaves the clock and what the node follows. -/
theorem State.arrival_follower (s : State) (cls source : Nat) (m : Bytes) :
    (s.arrival cls source m).2.clk = s.clk ∧ (s.arrival cls source m).2.fab.correction = s.fab.correction ∧
      (s.arrival cls source m).2.fab.longer = s.fab.longer := by
  unfold State.arrival
  (repeat' (first | split | dsimp only)) <;> exact ⟨rfl, rfl, rfl⟩

/-- A mark of a peer that is not fenced, on a port in service that the node does not follow, is its phase. -/
theorem strideMarkReceiveEff_kept {p n o : Nat} {a : Int} {u : State} (hst : (u.port p).st = 2)
    (hfenced : u.isFenced (u.port p).peer = false) (hp : p ≠ u.parentPort) :
    strideMarkReceiveEff p n o a u =
      u.modPort p fun x => { x with phase := a - (u.port p).delay - o, marks := max x.marks n } := by
  simp [strideMarkReceiveEff, hst, hfenced, hp]

/-- One on the port that the node follows sets the correction too. -/
theorem strideMarkReceiveEff_followed {p n o : Nat} {a e : Int} {u t : State} (hst : (u.port p).st = 2)
    (hfenced : u.isFenced (u.port p).peer = false) (hroot : u.isRoot = false) (hp : p = u.parentPort)
    (he : e = a - (u.port p).delay - o)
    (ht : t = (u.modPort p fun x => { x with phase := e, marks := max x.marks n }).correct (u.stride < n) e) :
    strideMarkReceiveEff p n o a u = { t with fab := { t.fab with
      wideErrors := if e.natAbs ≤ 4000 then 0 else if (u.port p).marks + 1 = n then u.fab.wideErrors + 1 else 1 } } := by
  subst ht he
  simp [strideMarkReceiveEff, hst, hfenced, hroot, ← hp]

/-- Settles O39, clause by clause. -/
theorem strideMarksFollowed : Obligations.StrideMarksFollowed := by
  refine ⟨?followed, ?kept, ?fenced, ?backup, ?outOfStep, ?early, ?late, ?noEdge⟩
  case followed =>
    intro p n o a s u hp harrival hst hlen hfenced hroot hparent
    obtain ⟨hclk, -, -⟩ := s.arrival_follower 0 s.me (strideMark n o)
    rw [harrival] at hclk
    refine ⟨_, guarded_arrives State.me (decide_eq_true hp) harrival
      (strideMarkReceiveEff_followed hst hfenced hroot hparent rfl rfl), ?_⟩
    have hphase := congrArg Port.phase (u.modPort_port_self
      (fun x => { x with phase := a - (u.port p).delay - o, marks := max x.marks n }) hlen)
    unfold State.correct
    by_cases hearly : u.stride < n
    · simp only [hearly, decide_true, if_true]
      exact ⟨rfl, rfl, trivial, hphase, hclk⟩
    · simp only [hearly, decide_false, Bool.false_eq_true, if_false]
      exact ⟨rfl, rfl, trivial, hphase, hclk⟩
  case kept =>
    intro p n o a s u hp harrival hst hlen hfenced hparent
    obtain ⟨hclk, hcorrection, hlonger⟩ := s.arrival_follower 0 s.me (strideMark n o)
    rw [harrival] at hclk hcorrection hlonger
    refine ⟨_, guarded_arrives State.me (decide_eq_true hp) harrival (strideMarkReceiveEff_kept hst hfenced hparent),
      hcorrection, hlonger, ?_, ?_, hclk⟩
    · rw [State.modPort_port_self _ _ hlen]
    · rw [State.modPort_port_self _ _ hlen]
  case fenced =>
    intro p n o a s u hp harrival hst hfenced
    refine guarded_arrives State.me (decide_eq_true hp) harrival ?_
    simp [strideMarkReceiveEff, hst, hfenced]
  case backup =>
    intro s hrunning hroot honBackup hbackup hmarks
    have hsince : 2 ≤ s.sinceMark s.primaryPort := by
      unfold State.sinceMark
      omega
    exact congrArg Host.Outcome.next (if_pos (by simp [hrunning, hroot, honBackup, hbackup, hsince]))
  case outOfStep =>
    intro s hrunning hroot hwide
    exact congrArg Host.Outcome.next (if_pos (by simp [hrunning, hroot, hwide]))
  case early =>
    intro a s hroot hin hcode ha
    refine congrArg Host.Outcome.next ((if_pos (by simp [hroot, hin, hcode])).trans ?_)
    simp only [State.correct, ha, decide_true, if_true]
    rfl
  case late =>
    intro a s hroot hin hcode ha
    refine congrArg Host.Outcome.next ((if_pos (by simp [hroot, hin, hcode])).trans ?_)
    simp only [State.correct, Int.not_lt.2 ha, decide_false, Bool.false_eq_true, if_false]
    rfl
  case noEdge =>
    intro s hroot hin hno
    exact congrArg Host.Outcome.next (if_pos (by simp [hroot, hin, hno]))

end Sys2Proof.Machine
end

section
/-! SUPPORT. Register accesses: write-one-to-clear bits, the stride counter, the vectors and their table, doorbells (R342, R343,
R346, R347, R349, R350, R354, R355, R357). -/

namespace Sys2Proof.Machine

/-! ## A bit of a word -/

theorem bitOf_toNat {n : Nat} (x : BitVec n) (i : Nat) : bitOf x.toNat i = x.getLsbD i := by
  rw [BitVec.getLsbD, bitOf, Nat.testBit_eq_decide_div_mod_eq]
  rfl

theorem getLsbD_two_pow {v : Nat} (hv : v < 32) (j : Nat) : (BitVec.ofNat 32 (2 ^ v)).getLsbD j = decide (v = j) := by
  rw [BitVec.getLsbD_ofNat, Nat.testBit_two_pow]
  by_cases h : v = j
  · simp [← h, hv]
  · simp [h]

theorem getLsbD_clear {v : Nat} (hv : v < 32) (x : Word32) (j : Nat) :
    (x &&& ~~~BitVec.ofNat 32 (2 ^ v)).getLsbD j = (x.getLsbD j && !decide (v = j)) := by
  rw [BitVec.getLsbD_and, BitVec.getLsbD_not, getLsbD_two_pow hv]
  by_cases hj : j < 32
  · simp [hj]
  · simp [hj, BitVec.getLsbD_of_ge x j (Nat.not_lt.1 hj)]

/-- A bit that is cleared. -/
theorem getLsbD_clear_self {v : Nat} (hv : v < 32) (x : Word32) : (x &&& ~~~BitVec.ofNat 32 (2 ^ v)).getLsbD v = false := by
  rw [getLsbD_clear hv, decide_eq_true rfl, Bool.not_true, Bool.and_false]

/-- The others stay. -/
theorem getLsbD_clear_ne {v j : Nat} (hv : v < 32) (x : Word32) (hj : j ≠ v) :
    (x &&& ~~~BitVec.ofNat 32 (2 ^ v)).getLsbD j = x.getLsbD j := by
  rw [getLsbD_clear hv, decide_eq_false hj.symm, Bool.not_false, Bool.and_true]

/-- The number of two words, the higher first. -/
theorem toNat_append_word (x y : Word32) : (x ++ y).toNat = x.toNat * 2 ^ 32 + y.toNat := by
  rw [BitVec.toNat_append, ← Nat.shiftLeft_add_eq_or_of_lt y.isLt, Nat.shiftLeft_eq]

/-! ## What an access reaches -/

/-- A change of a function's registers that keeps it attached leaves which functions an access reaches. -/
theorem State.modFunc_reach {g : FuncRegs → FuncRegs} (hg : ∀ r, (g r).attached = r.attached) (s : State) (f i : Nat) :
    (s.modFunc f g).reach i = s.reach i := by
  have hattached : ((s.modFunc f g).func i).attached = (s.func i).attached := by
    by_cases h : i = f
    · rw [h, State.modFunc_func_self, hg]
    · rw [State.modFunc_func_ne s g h]
  unfold State.reach
  rw [hattached]
  rfl

theorem State.attached_of_reach {s : State} {f : Nat} (h : s.reach f = true) : (s.func f).attached = true :=
  (Bool.and_eq_true_iff.1 h).1

/-- A vector that is sent or pends leaves the other functions. -/
theorem State.vector_func_ne (s : State) {f i : Nat} (v : Nat) (h : i ≠ f) : (s.vector f v).func i = s.func i := by
  unfold State.vector
  (repeat' split)
  · exact State.modFunc_func_ne s _ h
  · rfl
  · rfl

/-- A vector of an attached function that is not masked is sent. -/
theorem State.vector_sent {s : State} {f v : Nat} (hattached : (s.func f).attached = true)
    (hmask : (s.func f).msixMask.getLsbD v = false) :
    s.vector f v = { s with out := { s.out with msix := s.out.msix ++ [(f, v)] } } := by
  simp [State.vector, hattached, bitOf_toNat, hmask]

/-! ## The table of vectors (R342, R354) -/

/-- A write of a word of BAR4. -/
theorem exec_registerWrite_bar4 {s : State} {f o : Nat} (value reassert : Word64) (hf : f < 64) (hreach : s.reach f = true)
    (ho : o % 4 = 0) (hsize : o < 8192) :
    exec (.registerWrite f 4 o 4 value reassert) s = .next (bar4Write f o (value.setWidth 32) s) := by
  refine guarded_next.2 ⟨by simpa [funcOk, hf, barSize] using hsize, ?_⟩
  simp [registerWriteEff, wordWrite, hreach, ho]

/-- Entry `v` of a function's table. -/
def FuncRegs.entry (r : FuncRegs) (v : Nat) : MsixEntry := SMap.getD r.msixTable v { address := 0, data := 0 }

/-- Word `i` of an entry, of its address and its data. -/
def MsixEntry.word (e : MsixEntry) (i : Nat) : Nat :=
  if i = 0 then e.address.toNat % 2 ^ 32 else if i = 1 then e.address.toNat / 2 ^ 32 else e.data.toNat

/-- An entry with word `i` written. -/
def MsixEntry.put (e : MsixEntry) (i : Nat) (value : Word32) : MsixEntry :=
  if i = 0 then { e with address := (e.address >>> 32).setWidth 32 ++ value }
  else if i = 1 then { e with address := value ++ e.address.setWidth 32 }
  else { e with data := value }

theorem MsixEntry.put_word (e : MsixEntry) {i j : Nat} (hi : i < 3) (hj : j < 3) (value : Word32) :
    (e.put i value).word j = if j = i then value.toNat else e.word j := by
  have hvalue := value.isLt
  have haddress := e.address.isLt
  have hlow : ((e.address >>> 32).setWidth 32 ++ value).toNat = e.address.toNat / 2 ^ 32 * 2 ^ 32 + value.toNat := by
    rw [toNat_append_word, BitVec.toNat_setWidth, BitVec.toNat_ushiftRight, Nat.shiftRight_eq_div_pow]
    omega
  have hhigh : (value ++ e.address.setWidth 32).toNat = value.toNat * 2 ^ 32 + e.address.toNat % 2 ^ 32 := by
    rw [toNat_append_word, BitVec.toNat_setWidth]
  interval_cases i <;> interval_cases j <;> simp only [MsixEntry.put, MsixEntry.word] <;> simp <;> omega

theorem FuncRegs.bar4Word_entry (r : FuncRegs) {v i : Nat} (hv : v < 32) (hi : i < 3) :
    r.bar4Word (16 * v + 4 * i) = (r.entry v).word i := by
  have hdiv : (16 * v + 4 * i) / 16 = v := by omega
  have hmod : (16 * v + 4 * i) % 16 = 4 * i := by omega
  unfold FuncRegs.bar4Word MsixEntry.word
  simp only [hdiv, hmod]
  rw [if_pos (by omega)]
  interval_cases i <;> rfl

/-- Word `i` of entry `v` of a function's table as written. -/
def State.putEntry (s : State) (f v i : Nat) (value : Word32) : State :=
  s.modFunc f fun r => { r with msixTable := SMap.alter r.msixTable v { address := 0, data := 0 } fun e => e.put i value }

theorem State.putEntry_reach (s : State) (f v i : Nat) (value : Word32) : (s.putEntry f v i value).reach f = s.reach f :=
  State.modFunc_reach (fun _ => by rfl) s f f

theorem State.putEntry_entry (s : State) (f v i : Nat) (value : Word32) :
    ((s.putEntry f v i value).func f).entry v = ((s.func f).entry v).put i value := by
  rw [State.putEntry, State.modFunc_func_self]
  simp [FuncRegs.entry]

/-- A write of word `i` of entry `v` puts it into the entry. -/
theorem bar4Write_entry (s : State) (f : Nat) {v i : Nat} (hv : v < 32) (hi : i < 3) (value : Word32) :
    bar4Write f (16 * v + 4 * i) value s = s.putEntry f v i value := by
  have hdiv : (16 * v + 4 * i) / 16 = v := by omega
  have hmod : (16 * v + 4 * i) % 16 = 4 * i := by omega
  unfold bar4Write
  simp only [hdiv, hmod]
  rw [if_neg (by omega)]
  interval_cases i <;> rfl

/-- A write of the control word masks or unmasks the vector. -/
theorem bar4Write_control (s : State) (f : Nat) {v : Nat} (hv : v < 32) (value : Word32) :
    bar4Write f (16 * v + 12) value s = if bitOf value.toNat 0 then msixVectorMask f v s else msixVectorUnmaskEff f v s := by
  have hdiv : (16 * v + 12) / 16 = v := by omega
  have hmod : (16 * v + 12) % 16 = 12 := by omega
  unfold bar4Write
  simp only [hdiv, hmod]
  rw [if_neg (by omega), if_neg (by decide), if_neg (by decide), if_neg (by decide)]

/-- A read of a word of an entry. -/
theorem State.bar4Read_entry {s : State} {f v i : Nat} (hreach : s.reach f = true) (hv : v < 32) (hi : i < 3) :
    s.bar4Read f (16 * v + 4 * i) 4 = .data (((s.func f).entry v).word i) := by
  unfold State.bar4Read
  rw [if_neg (by simp [hreach]), if_pos (by omega), FuncRegs.bar4Word_entry _ hv hi]

/-! ## Unmasking (R354) -/

/-- A vector of which no message may be sent now is unmasked, and nothing else. -/
theorem msixVectorUnmaskEff_quiet {s : State} {f v : Nat} (hreach : s.reach f = true)
    (hquiet : bitOf (s.func f).msixPending.toNat v = false ∨ (v ≠ 0 ∧ s.clk.window = 0)) :
    msixVectorUnmaskEff f v s = s.modFunc f fun r => { r with msixMask := r.msixMask &&& ~~~BitVec.ofNat 32 (2 ^ v) } := by
  have hnot : ¬(bitOf (s.func f).msixPending.toNat v && (decide (v = 0) || decide (s.clk.window ≠ 0))) = true := by
    rcases hquiet with h | ⟨hv, hw⟩
    · simp [h]
    · simp [hv, hw]
  unfold msixVectorUnmaskEff
  rw [if_pos hreach]
  exact if_neg hnot

/-- A pending vector whose message may be sent is sent and pends no more. -/
theorem msixVectorUnmaskEff_sends {s : State} {f v : Nat} (hv : v < 32) (hreach : s.reach f = true)
    (hpending : bitOf (s.func f).msixPending.toNat v = true) (hwindow : v = 0 ∨ s.clk.window ≠ 0) :
    ∃ t : State, msixVectorUnmaskEff f v s = { t with out := { t.out with msix := t.out.msix ++ [(f, v)] } } ∧ t.out = s.out ∧
      t.func f = { s.func f with
        msixMask := (s.func f).msixMask &&& ~~~BitVec.ofNat 32 (2 ^ v)
        msixPending := (s.func f).msixPending &&& ~~~BitVec.ofNat 32 (2 ^ v) } ∧
      ∀ g, g ≠ f → t.func g = s.func g := by
  have hnow : (bitOf (s.func f).msixPending.toNat v && (decide (v = 0) || decide (s.clk.window ≠ 0))) = true := by
    simpa [hpending] using hwindow
  refine ⟨(s.modFunc f fun r => { r with msixMask := r.msixMask &&& ~~~BitVec.ofNat 32 (2 ^ v) }).modFunc f fun r =>
    { r with msixPending := r.msixPending &&& ~~~BitVec.ofNat 32 (2 ^ v) }, ?_, rfl, ?_, ?_⟩
  · unfold msixVectorUnmaskEff
    rw [if_pos hreach]
    refine (if_pos hnow).trans (State.vector_sent ?_ ?_)
    · simpa using State.attached_of_reach hreach
    · rw [State.modFunc_func_self, State.modFunc_func_self]
      exact getLsbD_clear_self hv _
  · simp
  · intro g hg
    rw [State.modFunc_func_ne _ _ hg, State.modFunc_func_ne _ _ hg]

/-- The read of STRIDE_LO latches the upper half and answers with the lower. -/
theorem strideLoReadEff_reached {s : State} {f n : Nat} (hreach : s.reach f = true)
    (hn : (if s.node.joined then s.clk.stride else 0) = n) :
    strideLoReadEff f s =
      (s.modFunc f fun r => { r with strideHi := BitVec.ofNat 32 (n / 2 ^ 32) }).pcie f 0 (toLe 4 n) := by
  subst hn
  exact if_pos hreach

/-- Settles O20, access by access. -/
theorem registerAccesses : Obligations.RegisterAccesses := by
  refine ⟨?cause, ?mask, ?unmasks, ?fault, ?error, ?flags, ?noFlags, ?unreached, ?stride, ?notJoined, ?quiet, ?sends,
    ?controlMasks, ?controlUnmasks, ?entry⟩
  case cause => exact fun f v re s hf hreach => guarded_funcOk hf (if_pos hreach)
  case mask =>
    intro f v s hf hreach hnone
    exact guarded_funcOk hf ((if_pos hreach).trans (if_neg (by simpa using hnone)))
  case unmasks =>
    intro f v s hf hreach hsome
    exact guarded_funcOk hf ((if_pos hreach).trans (if_pos hsome))
  case fault => exact fun f v re s hf hreach => guarded_funcOk hf (if_pos hreach)
  case error => exact fun f v re s hf hreach => guarded_funcOk hf (if_pos hreach)
  case flags =>
    intro n v re s hn hreach
    exact guarded_next.2 ⟨by simpa [funcOk, arbiterOk] using hn, (if_pos (State.arbLive_zero hreach)).symm⟩
  case noFlags =>
    intro f n v re s hf hn hne
    refine guarded_next.2 ⟨by simp [funcOk, arbiterOk, hf, hn], ?_⟩
    simp [arbFlagsClearEff, State.arbLive_of_ne_zero s hne]
  case unreached =>
    intro f v re s hf hreach
    have hnot : ¬s.reach f = true := by simp [hreach]
    exact ⟨guarded_funcOk hf (if_neg hnot), guarded_funcOk hf (if_neg hnot), guarded_funcOk hf (if_neg hnot),
      guarded_funcOk hf (if_neg hnot)⟩
  case stride =>
    intro f s hf hreach hjoined
    refine ⟨_, guarded_funcOk hf (strideLoReadEff_reached hreach (if_pos hjoined)), ?_, rfl, fun g hg => ?_, rfl, rfl, rfl⟩
    · rw [State.pcie_func, State.modFunc_func_self]
    · rw [State.pcie_func, State.modFunc_func_ne s _ hg]
  case notJoined =>
    intro f s hf hreach hjoined
    refine ⟨_, guarded_funcOk hf (strideLoReadEff_reached hreach (if_neg (by simp [hjoined]))), ?_, rfl⟩
    rw [State.pcie_func, State.modFunc_func_self]
    rfl
  case quiet =>
    intro f v s hf hv hreach hquiet
    refine ⟨_, guarded_next.2 ⟨by simp [funcOk, hf, hv], (msixVectorUnmaskEff_quiet hreach hquiet).symm⟩, ?_, rfl, ?_, ?_,
      fun g hg => State.modFunc_func_ne s _ hg⟩
    · rw [State.modFunc_func_self]
      exact getLsbD_clear_self hv _
    · rw [State.modFunc_func_self]
    · intro j hj
      rw [State.modFunc_func_self]
      exact getLsbD_clear_ne hv _ hj
  case sends =>
    intro f v s hf hv hreach hpending hwindow
    obtain ⟨t, heff, hout, hself, hne⟩ := msixVectorUnmaskEff_sends hv hreach hpending hwindow
    refine ⟨_, guarded_next.2 ⟨by simp [funcOk, hf, hv], heff.symm⟩, ?_, ?_, ?_, ?_, hne⟩
    · exact (congrArg (·.msixMask.getLsbD v) hself).trans (getLsbD_clear_self hv _)
    · exact (congrArg (·.msixPending.getLsbD v) hself).trans (getLsbD_clear_self hv _)
    · simp [hout]
    · exact fun j hj => (congrArg (·.msixPending.getLsbD j) hself).trans (getLsbD_clear_ne hv _ hj)
  case controlMasks =>
    intro f v x re s hf hv hreach hbit
    rw [exec_registerWrite_bar4 x re hf hreach (by omega) (by omega), bar4Write_control s f hv,
      if_pos (by rw [bitOf_toNat, BitVec.getLsbD_setWidth, hbit]; rfl)]
    rfl
  case controlUnmasks =>
    intro f v x re s hf hv hreach hbit
    rw [exec_registerWrite_bar4 x re hf hreach (by omega) (by omega), bar4Write_control s f hv,
      if_neg (by rw [bitOf_toNat, BitVec.getLsbD_setWidth, hbit]; simp)]
    exact (guarded_next.2 ⟨by simp [funcOk, hf, hv], rfl⟩).symm
  case entry =>
    intro f v i x re s hf hv hreach hi
    have hentry : ∀ j, j < 3 → (s.putEntry f v i (x.setWidth 32)).bar4Read f (16 * v + 4 * j) 4 =
        .data ((((s.func f).entry v).put i (x.setWidth 32)).word j) := fun j hj => by
      rw [State.bar4Read_entry ((s.putEntry_reach ..).trans hreach) hv hj, State.putEntry_entry]
    refine ⟨_, (exec_registerWrite_bar4 x re hf hreach (by omega) (by omega)).trans
      (congrArg Host.Outcome.next (bar4Write_entry s f hv hi _)), ?_, ?_, ?_, fun g hg => State.modFunc_func_ne s _ hg⟩
    · rw [hentry i hi, MsixEntry.put_word _ hi hi, if_pos rfl, BitVec.toNat_setWidth]
    · intro j hj hne
      rw [hentry j hj, MsixEntry.put_word _ hi hj, if_neg hne, State.bar4Read_entry hreach hv hj]
    · rw [State.putEntry, State.modFunc_func_self]

end Sys2Proof.Machine
end

section
/-! SUPPORT. Doorbells and register writes (R343, R349, R350). -/

namespace Sys2Proof.Machine

/-! ## Doorbells (R349, R350) -/

/-- A value that the doorbell takes is put; any other is a fault of its reason. -/
theorem State.doorbell_taken {s : State} {f : Nat} {b : Doorbell} {r : Ring} {fault : Ring → Nat} (g : Ring → Ring)
    (hlive : s.bellLive f b = true) (hr : s.bell b = some r) (hfault : fault r = 0) : s.doorbell f b fault g = s.modBell b g := by
  simp [State.doorbell, hlive, hr, hfault]

theorem State.doorbell_faulted {s : State} {f : Nat} {b : Doorbell} {r : Ring} {fault : Ring → Nat} (g : Ring → Ring)
    (hlive : s.bellLive f b = true) (hr : s.bell b = some r) (hfault : fault r ≠ 0) :
    s.doorbell f b fault g = s.doorbellFault f b (fault r) := by
  simp [State.doorbell, hlive, hr, hfault]

theorem State.doorbell_dead {s : State} {f : Nat} {b : Doorbell} (fault : Ring → Nat) (g : Ring → Ring)
    (hlive : s.bellLive f b = false) : s.doorbell f b fault g = s := by
  simp [State.doorbell, hlive]

theorem Ring.tailFault_zero {r : Ring} {v : Word32} (hopen : r.isOpen = true) (hlost : r.lost = false)
    (hlow : 0 ≤ (v - r.subTail).toInt) (hhigh : (v - BitVec.ofNat 32 (r.admitted + r.depth)).toInt ≤ 0) : r.tailFault v = 0 := by
  rw [Ring.tailFault, if_neg (by simp [Ring.usable, hopen, hlost]), if_neg (Int.not_lt.2 hlow), if_neg (Int.not_lt.2 hhigh)]

theorem Ring.headFault_zero {r : Ring} {v : Word32} (hopen : r.isOpen = true) (hlost : r.lost = false)
    (hlow : 0 ≤ (v - r.cplHead).toInt) (hhigh : (v - r.cplTail).toInt ≤ 0) : r.headFault v = 0 := by
  rw [Ring.headFault, if_neg (by simp [Ring.usable, hopen, hlost]), if_neg (Int.not_lt.2 hlow), if_neg (Int.not_lt.2 hhigh)]

/-- A vector leaves the function's causes and its latched fault. -/
theorem State.vector_causes (s : State) (f v : Nat) :
    ((s.vector f v).func f).intCause = (s.func f).intCause ∧ ((s.vector f v).func f).dbFault = (s.func f).dbFault := by
  unfold State.vector
  (repeat' split)
  · rw [State.modFunc_func_self]
    exact ⟨rfl, rfl⟩
  · exact ⟨rfl, rfl⟩
  · exact ⟨rfl, rfl⟩

/-- A cause of an attached function is set, and its latched fault stays. -/
theorem State.cause_sets {s : State} {f bit : Nat} (hattached : (s.func f).attached = true) (hbit : bit < 32) :
    ((s.cause f bit).func f).intCause.getLsbD bit = true ∧ ((s.cause f bit).func f).dbFault = (s.func f).dbFault := by
  have hset : ((s.func f).intCause ||| BitVec.ofNat 32 (2 ^ bit)).getLsbD bit = true := by
    rw [BitVec.getLsbD_or, getLsbD_two_pow hbit, decide_eq_true rfl, Bool.or_true]
  unfold State.cause
  simp only [hattached, if_true]
  split
  · rw [State.modFunc_func_self]
    exact ⟨hset, rfl⟩
  · obtain ⟨hcause, hfault⟩ := (s.modFunc f fun r => { r with intCause := r.intCause ||| BitVec.ofNat 32 (2 ^ bit) }).vector_causes f 0
    rw [hcause, hfault, State.modFunc_func_self]
    exact ⟨hset, rfl⟩

/-- A doorbell fault sets its cause and latches where nothing is latched. -/
theorem State.doorbellFault_effect {s : State} {f : Nat} {b : Doorbell} {r : Ring} (hlive : s.bellLive f b = true)
    (hr : s.bell b = some r) (reason : Nat) :
    (s.doorbellFault f b reason).rings = s.rings ∧ (s.doorbellFault f b reason).queues = s.queues ∧
      ((s.doorbellFault f b reason).func f).intCause.getLsbD 6 = true ∧
      ((s.doorbellFault f b reason).func f).dbFault = if bitOf (s.func f).dbFault.toNat 31 then (s.func f).dbFault
        else dbFaultWord r.context b reason := by
  have hattached : (s.func f).attached = true := State.attached_of_reach (Bool.and_eq_true_iff.1 hlive).1
  unfold State.doorbellFault
  simp only [hr, Option.map_some, Option.getD_some]
  obtain ⟨hcause, hfault⟩ := State.cause_sets (s := s.modFunc f fun q =>
    if bitOf q.dbFault.toNat 31 then q else { q with dbFault := dbFaultWord r.context b reason }) (f := f) (bit := causeDoorbell)
    (by
      rw [State.modFunc_func_self]
      split <;> exact hattached) (by decide)
  refine ⟨by simp, by simp, hcause, hfault.trans ?_⟩
  rw [State.modFunc_func_self]
  split <;> rfl

/-! ## The map of BAR0 (R343, R194) -/

theorem bar0Write_mailbox (s : State) (f : Nat) (value reassert : Word32) {g o : Nat} (hg : g < 64) (ho : o < 4096) :
    bar0Write f (0x1_0000 + 4096 * g + o) value reassert s = if g = f then mailboxWrite f o value s else s := by
  rw [bar0Write, if_neg (by omega), if_neg (by omega), if_neg (by omega), if_neg (by omega), if_neg (by omega),
    if_neg (by omega), if_neg (by omega), if_pos (by omega), show (0x1_0000 + 4096 * g + o - 0x1_0000) / 4096 = g by omega,
    show (0x1_0000 + 4096 * g + o - 0x1_0000) % 4096 = o by omega]

theorem bar0Write_aperture (s : State) (f : Nat) (value reassert : Word32) {a o : Nat} (ha : a < 64) (ho : o < 12) :
    bar0Write f (0x4000 + 16 * a + o) value reassert s = s.modFunc f fun r =>
      { r with apShadow := SMap.alter r.apShadow a Aperture.zero (Aperture.write o value), apDirty := insertNat a r.apDirty } := by
  rw [bar0Write, if_neg (by omega), if_neg (by omega), if_neg (by omega), if_neg (by omega), if_pos (by omega),
    if_neg (by omega), show (0x4000 + 16 * a + o - 0x4000) / 16 = a by omega, show (0x4000 + 16 * a + o) % 16 = o by omega]

/-- The doorbell block of ring `i` of context `c`. -/
theorem bar0Write_ring (s : State) (f : Nat) (value reassert : Word32) {c i o : Nat} (hc : c < 4096) (hi : i < 4) (ho : o < 16) :
    bar0Write f (0x10_0000 + 64 * c + 16 * i + o) value reassert s =
      if o = 0 then subTailWriteEff f (.ring c i) value s else if o = 4 then cplHeadWriteEff f (.ring c i) value s else s := by
  rw [bar0Write, if_neg (by omega), if_neg (by omega), if_neg (by omega), if_neg (by omega), if_neg (by omega),
    if_neg (by omega), if_neg (by omega), if_neg (by omega), if_pos (by omega),
    show (0x10_0000 + 64 * c + 16 * i + o - 0x10_0000) / 64 = c by omega,
    show (0x10_0000 + 64 * c + 16 * i + o) % 64 / 16 = i by omega, show (0x10_0000 + 64 * c + 16 * i + o) % 16 = o by omega]

theorem mem_insertNat (x : Nat) (l : List Nat) : x ∈ insertNat x l := by
  simp [insertNat]

/-- The four bytes of a word's lower half. -/
theorem toLe_setWidth (v : Word64) : toLe 4 (v.setWidth 32).toNat = toLe 4 v.toNat := by
  rw [BitVec.toNat_setWidth]
  refine List.map_congr_left fun i hi => BitVec.eq_of_toNat_eq ?_
  rw [BitVec.toNat_ofNat, BitVec.toNat_ofNat]
  have h : i < 4 := List.mem_range.1 hi
  interval_cases i <;> omega

theorem bellOk_of_isBell {b : Doorbell} (h : isBell b = true) : bellOk b = true := by
  cases b <;> exact h

/-- Settles O22, access by access. -/
theorem doorbellsAndRegisterWrites : Obligations.DoorbellsAndRegisterWrites := by
  have hguard : ∀ {f : Nat} {b : Doorbell}, f < 64 → isBell b = true → (funcOk f && bellOk b) = true := fun hf hb => by
    rw [bellOk_of_isBell hb, Bool.and_true]
    exact decide_eq_true hf
  refine ⟨?tail, ?head, ?tailFault, ?headFault, ?dead, ?registers, ?select, ?area, ?aperture, ?arbiter, ?rings, ?wide, ?narrow,
    ?other⟩
  case tail =>
    intro f b v s r hf hb hlive hr hopen hlost hlow hhigh
    exact guarded_next.2 ⟨hguard hf hb, (State.doorbell_taken _ hlive hr (Ring.tailFault_zero hopen hlost hlow hhigh)).symm⟩
  case head =>
    intro f b v s r hf hb hlive hr hopen hlost hlow hhigh
    exact guarded_next.2 ⟨hguard hf hb, (State.doorbell_taken _ hlive hr (Ring.headFault_zero hopen hlost hlow hhigh)).symm⟩
  case tailFault =>
    intro f b v s r hf hb hlive hr hfault
    exact ⟨_, guarded_next.2 ⟨hguard hf hb, (State.doorbell_faulted _ hlive hr hfault).symm⟩, State.doorbellFault_effect hlive hr _⟩
  case headFault =>
    intro f b v s r hf hb hlive hr hfault
    exact ⟨_, guarded_next.2 ⟨hguard hf hb, (State.doorbell_faulted _ hlive hr hfault).symm⟩, State.doorbellFault_effect hlive hr _⟩
  case dead =>
    intro f b v s hf hb hlive
    exact ⟨guarded_next.2 ⟨hguard hf hb, (State.doorbell_dead _ _ hlive).symm⟩,
      guarded_next.2 ⟨hguard hf hb, (State.doorbell_dead _ _ hlive).symm⟩⟩
  case registers =>
    intro f v re s hf hreach
    have hexec : ∀ {ok : Bool} {eff : State → State} {o : Nat}, o % 4 = 0 → o < 2 ^ 21 → ok = true →
        bar0Write f o (v.setWidth 32) (re.setWidth 32) s = eff s →
        exec (.registerWrite f 0 o 4 v re) s = guarded ok eff s := by
      intro ok eff o ho hsize hok heff
      rw [exec_registerWrite_bar0 v re hf hreach ho hsize, heff, hok, guarded_true]
    have hok : funcOk f = true := decide_eq_true hf
    refine ⟨hexec rfl (by decide) hok rfl, hexec rfl (by decide) hok rfl, hexec rfl (by decide) hok rfl,
      hexec rfl (by decide) hok rfl, hexec rfl (by decide) hok rfl⟩
  case select => exact fun v re s hreach => exec_registerWrite_bar0 v re (by decide) hreach rfl (by decide)
  case area =>
    intro f o v re s hf hreach halign ho
    rw [exec_registerWrite_bar0 v re hf hreach (by omega) (by omega), bar0Write_mailbox s f _ _ hf (by omega), if_pos rfl,
      mailboxWrite, if_pos ho, toLe_setWidth]
  case aperture =>
    intro f a o v re s hf hreach ha ho
    refine ⟨_, (exec_registerWrite_bar0 v re hf hreach (by omega) (by omega)).trans
      (congrArg Host.Outcome.next (bar0Write_aperture s f _ _ ha (by omega))), ?_, ?_, ?_,
      fun g hg => State.modFunc_func_ne s _ hg⟩
    · rw [State.modFunc_func_self]
    · rw [State.modFunc_func_self]
      exact SMap.find?_set_self ..
    · rw [State.modFunc_func_self]
      exact mem_insertNat ..
  case arbiter =>
    intro n v re s hn hreach
    rw [exec_registerWrite_bar0 v re (by decide) hreach (by omega) (by omega), bar0Write_arbiter s 0 _ _ hn (by decide),
      if_pos (State.arbLive_zero hreach)]
    rfl
  case rings =>
    intro f c i v re s hf hreach hc hi
    have hb : isBell (.ring c i) = true := by simp [isBell, hc, hi]
    constructor
    · rw [exec_registerWrite_bar0 v re hf hreach (by omega) (by omega)]
      refine (congrArg Host.Outcome.next (bar0Write_ring s f _ _ hc hi (o := 0) (by decide))).trans ?_
      exact (guarded_next.2 ⟨hguard hf hb, rfl⟩).symm
    · rw [exec_registerWrite_bar0 v re hf hreach (by omega) (by omega), bar0Write_ring s f _ _ hc hi (o := 4) (by decide)]
      exact (guarded_next.2 ⟨hguard hf hb, rfl⟩).symm
  case wide =>
    intro f b o v re s hf hreach hb ho halign
    refine guarded_next.2 ⟨by simp [funcOk, hf, hb, ho], ?_⟩
    simp [registerWriteEff, hreach, halign]
  case narrow =>
    intro f b o n v re s hf hreach hb ho hn hnarrow
    refine guarded_next.2 ⟨by simp [funcOk, hf, hb, ho, hn], ?_⟩
    unfold registerWriteEff
    rw [if_neg (by simp [hreach]), if_neg (by rintro ⟨rfl, h⟩; omega), if_neg (by rintro ⟨rfl, h⟩; omega)]
  case other =>
    intro f g o v re s hf hg hne ho halign hreach
    rw [exec_registerWrite_bar0 v re hf hreach (by omega) (by omega), bar0Write_mailbox s f _ _ hg ho, if_neg hne]

end Sys2Proof.Machine
end

section
/-! SUPPORT. Links that come up and go down, and functions that attach, detach and reset (R339, R359 to R361, R408, R449). -/

namespace Sys2Proof.Machine

/-! ## Attached functions -/

/-- Is a function attached? -/
def State.attached (s : State) (f : Nat) : Bool := (s.func f).attached

theorem State.modFunc_attached {g : FuncRegs → FuncRegs} {b : Bool} (hg : ∀ r, (g r).attached = b) (s : State) (f i : Nat) :
    (s.modFunc f g).attached i = if i = f then b else s.attached i := by
  unfold State.attached
  split
  · next h => rw [h, State.modFunc_func_self, hg]
  · next h => rw [State.modFunc_func_ne s g h]

theorem State.attach_attached (s : State) (f i : Nat) : (s.attach f).attached i = if i = f then true else s.attached i := by
  unfold State.attach
  dsimp only
  split
  · exact State.modFunc_attached (fun _ => by rfl) s f i
  · exact State.modFunc_attached (fun _ => by rfl) s f i

theorem State.detach_attached (s : State) (f i : Nat) : (s.detach f).attached i = if i = f then false else s.attached i :=
  State.modFunc_attached (g := fun _ => { FuncRegs.reset with detachPending := true }) (fun _ => by rfl) s f i

/-- The functions of a list attach. -/
theorem State.attachAll_attached (l : List Nat) (s : State) (i : Nat) :
    (l.foldl State.attach s).attached i = true ↔ i ∈ l ∨ s.attached i = true := by
  induction l generalizing s with
  | nil => simp
  | cons f l ih =>
    rw [List.foldl_cons, ih, State.attach_attached, List.mem_cons]
    split <;> simp_all

/-- Those of a list that are not attached do. -/
theorem State.reattachAll_attached (l : List Nat) (s : State) (i : Nat) :
    (l.foldl (fun s f => if (s.func f).attached then s else s.attach f) s).attached i = true ↔ i ∈ l ∨ s.attached i = true := by
  induction l generalizing s with
  | nil => simp
  | cons f l ih =>
    rw [List.foldl_cons, ih, List.mem_cons]
    by_cases hf : (s.func f).attached = true
    · rw [if_pos hf]
      have hf' : s.attached f = true := hf
      by_cases hi : i = f <;> simp_all
    · rw [if_neg hf, State.attach_attached]
      split <;> simp_all

/-- The functions of a list detach. -/
theorem State.detachAll_attached (l : List Nat) (s : State) (i : Nat) :
    (s.detachAll l).attached i = true ↔ i ∉ l ∧ s.attached i = true := by
  unfold State.detachAll
  induction l generalizing s with
  | nil => simp
  | cons f l ih =>
    rw [List.foldl_cons, ih, List.mem_cons]
    by_cases hf : (s.func f).attached = true
    · rw [if_pos hf, State.detach_attached]
      by_cases hi : i = f <;> simp_all
    · rw [if_neg hf]
      have hf' : s.attached f = false := by simpa [State.attached] using hf
      by_cases hi : i = f <;> simp_all

theorem State.modFunc_attached_keeps {g : FuncRegs → FuncRegs} (hg : ∀ r, (g r).attached = r.attached) (s : State) (f i : Nat) :
    (s.modFunc f g).attached i = s.attached i := by
  unfold State.attached
  by_cases h : i = f
  · rw [h, State.modFunc_func_self, hg]
  · rw [State.modFunc_func_ne s g h]

/-- A cause leaves which functions are attached. -/
theorem State.cause_attached (s : State) (f bit i : Nat) : (s.cause f bit).attached i = s.attached i := by
  have hset : (s.modFunc f fun r => { r with intCause := r.intCause ||| BitVec.ofNat 32 (2 ^ bit) }).attached i = s.attached i :=
    State.modFunc_attached_keeps (fun _ => by rfl) s f i
  unfold State.cause
  dsimp only
  split
  · split
    · exact hset
    · unfold State.vector
      split
      · split
        · exact (State.modFunc_attached_keeps (fun _ => by rfl) _ f i).trans hset
        · exact hset
      · exact hset
  · rfl

theorem State.peerLink_attached (s : State) (l i : Nat) : (s.peerLink l).attached i = s.attached i := by
  unfold State.peerLink
  split
  · exact s.cause_attached _ _ i
  · rfl

/-- What the attachment and the detachment of functions leave. -/
theorem State.attachAll_frame (l : List Nat) (s : State) :
    (l.foldl State.attach s).links = s.links ∧ (l.foldl State.attach s).mem = s.mem ∧ (l.foldl State.attach s).work = s.work :=
  foldl_holds (P := fun t : State => t.links = s.links ∧ t.mem = s.mem ∧ t.work = s.work) (fun t f ht => by
    unfold State.attach
    dsimp only
    split <;> exact ht) l ⟨rfl, rfl, rfl⟩

theorem State.detachAll_frame (l : List Nat) (s : State) :
    (s.detachAll l).mem = s.mem ∧ (s.detachAll l).contexts = s.contexts ∧ (s.detachAll l).indexes = s.indexes ∧
      (s.detachAll l).tables = s.tables ∧ (s.detachAll l).node = s.node ∧ (s.detachAll l).links = s.links :=
  foldl_holds (P := fun t : State => t.mem = s.mem ∧ t.contexts = s.contexts ∧ t.indexes = s.indexes ∧ t.tables = s.tables ∧
    t.node = s.node ∧ t.links = s.links) (fun t f ht => by
    split
    · exact ht
    · exact ht) l ⟨rfl, rfl, rfl, rfl, rfl, rfl⟩

theorem State.peerLink_links (s : State) (l : Nat) : (s.peerLink l).links = s.links := by
  unfold State.peerLink
  split <;> simp

theorem State.link_congr {s t : State} (h : t.links = s.links) (l : Nat) : t.link l = s.link l := by
  rw [State.link, State.link, h]

/-! ## A function level reset (R360, R371) -/

theorem State.attach_func_self (s : State) (f : Nat) : (s.attach f).func f = { s.func f with attached := true } := by
  unfold State.attach
  dsimp only
  split
  · rw [State.modMailbox_func, State.modFunc_func_self]
  · rw [State.modFunc_func_self]

theorem State.attach_mailbox_self (s : State) (f : Nat) : (s.attach f).mailbox f =
    if s.node.served then { s.mailbox f with ready := true, reqFree := true } else s.mailbox f := by
  unfold State.attach
  dsimp only
  split
  · rw [State.modMailbox_mailbox_self, State.modFunc_mailbox]
  · rw [State.modFunc_mailbox]

/-- An attachment leaves the other functions, and the rings and the memory. -/
theorem State.attach_frame (s : State) (f : Nat) : (∀ g, g ≠ f → (s.attach f).func g = s.func g ∧
    (s.attach f).mailbox g = s.mailbox g) ∧ (s.attach f).rings = s.rings ∧ (s.attach f).mem = s.mem := by
  unfold State.attach
  dsimp only
  split
  · refine ⟨fun g hg => ⟨?_, ?_⟩, rfl, rfl⟩
    · rw [State.modMailbox_func, State.modFunc_func_ne s _ hg]
    · rw [State.modMailbox_mailbox_ne _ _ hg, State.modFunc_mailbox]
  · exact ⟨fun g hg => ⟨State.modFunc_func_ne s _ hg, State.modFunc_mailbox ..⟩, rfl, rfl⟩

/-- The request of a function that detached: it is carried out and never answered. -/
def Request.muted (q : Request) : Request := { q with mute := true }

theorem State.detach_func_self (s : State) (f : Nat) : (s.detach f).func f = { FuncRegs.reset with detachPending := true } :=
  State.modFunc_func_self s f fun _ => { FuncRegs.reset with detachPending := true }

theorem State.detach_mailbox_self (s : State) (f : Nat) :
    (s.detach f).mailbox f = { Mailbox.reset with taken := (s.mailbox f).taken.map Request.muted } :=
  State.modMailbox_mailbox_self (s.modFunc f fun _ => { FuncRegs.reset with detachPending := true }) f fun m =>
    { Mailbox.reset with taken := m.taken.map Request.muted }

/-- A detachment leaves the other functions. -/
theorem State.detach_ne (s : State) {f g : Nat} (hg : g ≠ f) :
    (s.detach f).func g = s.func g ∧ (s.detach f).mailbox g = s.mailbox g :=
  ⟨State.modFunc_func_ne s (fun _ => { FuncRegs.reset with detachPending := true }) hg,
    State.modMailbox_mailbox_ne (s.modFunc f fun _ => { FuncRegs.reset with detachPending := true })
      (fun m => { Mailbox.reset with taken := m.taken.map Request.muted }) hg⟩

theorem State.detach_rings (s : State) (f : Nat) :
    (s.detach f).rings = SMap.mapVals s.rings fun _ r => if r.func = f then r.lose else r := rfl

/-! ## Rates (R339) -/

theorem mem_bitList {n v i : Nat} : i ∈ bitList n v ↔ i < n ∧ bitOf v i = true := by
  rw [bitList, List.mem_filter, List.mem_range]

/-- The common rate is one more than the highest of the rates. -/
theorem commonRate_spec {r : BitVec 6} (hr : r ≠ 0) :
    r.getLsbD (commonRate r - 1) = true ∧ ∀ i < 6, r.getLsbD i = true → i < commonRate r := by
  have hmem : ∀ i, i ∈ bitList 6 r.toNat ↔ i < 6 ∧ r.getLsbD i = true := fun i => by rw [mem_bitList, bitOf_toNat]
  obtain ⟨i, hi, hbit⟩ : ∃ i < 6, r.getLsbD i = true := by
    by_contra hnone
    push Not at hnone
    exact hr (BitVec.eq_of_getLsbD_eq fun i hi => by simpa using hnone i hi)
  have hne : (bitList 6 r.toNat).map (· + 1) ≠ [] := List.ne_nil_of_mem (List.mem_map.2 ⟨i, (hmem i).2 ⟨hi, hbit⟩, rfl⟩)
  refine ⟨?_, fun j hj hbit => ?_⟩
  · obtain ⟨j, hj, hrate⟩ := List.mem_map.1 (maxNat_mem hne)
    rw [commonRate, ← hrate]
    exact ((hmem j).1 hj).2
  · exact le_maxNat_of_mem (List.mem_map.2 ⟨j, (hmem j).2 ⟨hj, hbit⟩, rfl⟩)

/-! ## Functions of a link -/

theorem State.linkFuncs_nodup (s : State) (l : Nat) : (s.linkFuncs l).Nodup := by
  unfold State.linkFuncs
  split
  · exact List.nodup_range.map fun _ _ h => Nat.add_right_cancel h
  · split
    · exact List.nodup_range
    · exact List.nodup_nil

/-- Settles O24, clause by clause. -/
theorem linksAndFunctions : Obligations.LinksAndFunctions := by
  refine ⟨?up, ?down, ?reset, ?removal, ?integrity, ?busMaster⟩
  case up =>
    intro l r s hl hdown hhas hrails htack hr
    have hup : linkUpEff l r s = ((s.linkFuncs l).foldl State.attach (s.modLink l fun _ =>
        { Link.reset with up := true, rate := commonRate r, lanes := s.linkLanes l,
                          numVfs := (s.linkFuncs l).length - 1 })).peerLink l := by
      refine if_neg ?_
      cases htack' : s.node.tack with
      | none => exact absurd htack' htack
      | some k =>
        simp [hdown, hhas, hrails]
        exact hr
    refine ⟨_, guarded_decide hl hup, ?_⟩
    obtain ⟨hlinks, hmem, hwork⟩ := State.attachAll_frame (s.linkFuncs l) (s.modLink l fun _ =>
        { Link.reset with up := true, rate := commonRate r, lanes := s.linkLanes l, numVfs := (s.linkFuncs l).length - 1 })
    have hlink := (State.link_congr ((State.peerLink_links _ l).trans hlinks) l).trans (State.modLink_link_self ..)
    obtain ⟨hrate, hhighest⟩ := commonRate_spec hr
    rw [hlink]
    refine ⟨rfl, rfl, rfl, hrate, hhighest, rfl, fun f hf => ?_, ?_, ?_⟩
    · exact (State.peerLink_attached ..).trans ((State.attachAll_attached ..).2 (.inl hf))
    · refine Eq.trans ?_ hmem
      unfold State.peerLink
      split <;> simp
    · refine Eq.trans ?_ hwork
      unfold State.peerLink
      split <;> simp
  case down =>
    intro l s hl hup
    have hdown : linkDownEff l s = ((s.detachAll (s.linkFuncs l)).modLink l fun _ => Link.reset).peerLink l := if_pos hup
    refine ⟨_, guarded_decide hl hdown, guarded_decide hl hdown, ?_, fun f hf => ?_, ?_⟩
    · exact (State.link_congr (State.peerLink_links ..) l).trans (State.modLink_link_self ..)
    · have hdetached := (State.detachAll_attached (s.linkFuncs l) s f).not.2 (fun h => h.1 hf)
      exact (State.peerLink_attached ..).trans (Bool.eq_false_iff.2 hdetached)
    · obtain ⟨hmem, hcontexts, hindexes, htables, -, -⟩ := State.detachAll_frame (s.linkFuncs l) s
      refine ⟨Eq.trans ?_ hmem, Eq.trans ?_ hcontexts, Eq.trans ?_ hindexes, Eq.trans ?_ htables⟩ <;>
        (unfold State.peerLink; split <;> simp)
  case reset =>
    intro f s hf hattached
    obtain ⟨hother, hrings, hmem⟩ := (s.detach f).attach_frame f
    refine ⟨_, guarded_funcOk hf (if_pos hattached), ?_, ?_, ?_, ?_, ?_, fun g hg => ?_, fun r hr hfunc => ?_, hmem⟩
    · rw [State.attach_func_self, State.detach_func_self]
    · rw [State.attach_mailbox_self, State.detach_mailbox_self]
      change (if s.node.served = true then _ else _ : Mailbox).ready = s.node.served
      cases s.node.served
      · rfl
      · rfl
    · rw [State.attach_mailbox_self, State.detach_mailbox_self]
      split <;> rfl
    · rw [State.attach_mailbox_self, State.detach_mailbox_self]
      split <;> rfl
    · rw [State.attach_mailbox_self, State.detach_mailbox_self]
      intro q hq
      have hq : q ∈ (s.mailbox f).taken.map Request.muted := by
        split at hq <;> exact hq
      obtain ⟨q', -, rfl⟩ := List.mem_map.1 hq
      rfl
    · obtain ⟨hfunc, hmailbox⟩ := s.detach_ne hg
      exact ⟨(hother g hg).1.trans hfunc, (hother g hg).2.trans hmailbox⟩
    · rw [hrings, State.detach_rings] at hr
      obtain ⟨⟨k, x⟩, -, rfl⟩ := List.mem_map.1 hr
      dsimp only at hfunc ⊢
      split
      · rfl
      · next hne =>
        rw [if_neg hne] at hfunc
        exact absurd hfunc hne
  case removal =>
    intro l n s hl hn hup hlen
    have hmin : min n ((s.linkFuncs l).length - 1) = n := by omega
    have hremoval : vfRemovalEff l (min n ((s.linkFuncs l).length - 1)) s = (((s.linkFuncs l).take (n + 1)).foldl
        (fun s f => if (s.func f).attached then s else s.attach f) (s.detachAll (s.vfsAbove l n))).modLink l fun x =>
          { x with numVfs := n } := by
      rw [hmin]
      exact if_pos hup
    have hattached : ∀ f, State.attached ((((s.linkFuncs l).take (n + 1)).foldl
        (fun s f => if (s.func f).attached then s else s.attach f) (s.detachAll (s.vfsAbove l n))).modLink l fun x =>
          { x with numVfs := n }) f = true ↔ f ∈ (s.linkFuncs l).take (n + 1) ∨ (f ∉ s.vfsAbove l n ∧ s.attached f = true) := by
      intro f
      refine Iff.trans ?_ ((State.reattachAll_attached ..).trans (or_congr_right (State.detachAll_attached ..)))
      exact Iff.rfl
    refine ⟨_, guarded_next.2 ⟨by simp [linkOk, hl, hn], hremoval.symm⟩, ?_, fun f hf => ?_, fun f hf => (hattached f).2 (.inl hf)⟩
    · rw [State.modLink_link_self]
    · have hparts := List.nodup_append.1 ((List.take_append_drop (n + 1) (s.linkFuncs l)).symm ▸ s.linkFuncs_nodup l)
      refine Bool.eq_false_iff.2 ((hattached f).not.2 ?_)
      rintro (htaken | ⟨hkept, -⟩)
      · exact hparts.2.2 f htaken f hf rfl
      · exact hkept hf
  case integrity =>
    intro l k s hl hk hup
    exact guarded_next.2 ⟨by simp [linkOk, hl, hk], (if_pos hup).symm⟩
  case busMaster =>
    intro f e s hf hattached
    exact guarded_funcOk hf (if_pos hattached)

end Sys2Proof.Machine
end

section
/-! SUPPORT. The mailboxes: submission, rotation, replies and notifications (R363 to R365, R377, R378). -/

namespace Sys2Proof.Machine

/-- How far a mailbox stands behind the one that the rotation serves next. -/
def State.turnsTo (s : State) (f : Nat) : Nat := (f + 63 - s.ctl.turn % 64) % 64

/-- The mailbox of place `i` in the rotation. -/
theorem State.turnsTo_place (s : State) {i : Nat} (hi : i < 64) : s.turnsTo ((s.ctl.turn + 1 + i) % 64) = i := by
  unfold State.turnsTo
  omega

theorem State.place_turnsTo (s : State) {f : Nat} (hf : f < 64) : (s.ctl.turn + 1 + s.turnsTo f) % 64 = f := by
  unfold State.turnsTo
  omega

/-- The rotation serves the first mailbox that has a request to take. -/
theorem State.nextTaken_first {s : State} {f g : Nat} (hf : s.nextTaken = some f) (hg : g < 64) (htake : s.takeable g = true) :
    s.takeable f = true ∧ f < 64 ∧ s.turnsTo f ≤ s.turnsTo g := by
  unfold State.nextTaken at hf
  rw [List.find?_map, Option.map_eq_some_iff] at hf
  obtain ⟨i, hi, rfl⟩ := hf
  obtain ⟨htakes, hmem, hearlier⟩ := List.find?_range_eq_some.1 hi
  have hi64 : i < 64 := List.mem_range.1 hmem
  refine ⟨htakes, Nat.mod_lt _ (by decide), ?_⟩
  rw [s.turnsTo_place hi64]
  by_contra hlt
  have hno := hearlier (s.turnsTo g) (Nat.not_le.1 hlt)
  rw [Function.comp_apply, s.place_turnsTo hg, htake] at hno
  cases hno

/-- Settles O18, clause by clause. -/
theorem mailboxServed : Obligations.MailboxServed := by
  refine ⟨?submit, ?busy, ?ack, ?noReply, ?head, ?outside, ?take, ?notNext, ?rotation, ?reply, ?notify, ?note⟩
  case submit => exact fun f s hf hreach hfree => guarded_funcOk hf (if_pos (by simp [hreach, hfree]))
  case busy => exact fun f s hf hbusy => guarded_funcOk hf (if_neg (by simp [hbusy]))
  case ack => exact fun f s hf hreach hvalid => guarded_funcOk hf (if_pos (by simp [hreach, hvalid]))
  case noReply => exact fun f s hf hnone => guarded_funcOk hf (if_neg (by simp [hnone]))
  case head => exact fun f v s hf hreach hlow hhigh => guarded_funcOk hf (if_pos (by
    rw [hreach, decide_eq_true hlow, decide_eq_true hhigh]; rfl))
  case outside =>
    intro f v s hf hout
    refine guarded_funcOk hf (if_neg ?_)
    simp only [Bool.and_eq_true, decide_eq_true_eq]
    rintro ⟨⟨-, hlow⟩, hhigh⟩
    omega
  case take => exact fun f d s hf hnext => guarded_funcOk hf (if_neg (not_not.2 hnext))
  case notNext => exact fun f d s hf hnext => guarded_funcOk hf (if_pos hnext)
  case rotation => exact fun s f g hf hg htake => State.nextTaken_first hf hg htake
  case reply =>
    intro f r s hf hr hvalid hready hcore hdirect
    refine guarded_funcOk hf ?_
    simp [replyPostEff, hr, hvalid, hready, hcore, hdirect]
  case notify =>
    intro f n rest s hf hn hready hcore hroom
    refine guarded_funcOk hf ?_
    unfold notificationPostEff
    simp only [hn]
    rw [if_neg (by simp [hready, hcore]), if_pos hroom]
  case note =>
    intro s f op c tag st stride p hcore hready
    simp [State.note, Mailbox.queueNote, Mailbox.noteRoom, hcore, hready]

end Sys2Proof.Machine
end

section
/-! SUPPORT. The management core's answers and the farrier's sweeps (R403, R412, R428, R429, R431). -/

namespace Sys2Proof.Machine

/-! ## MCTP (R403, R428) -/

theorem State.mctpReply_serves {s : State} (hup : s.ctl.mgmtDown = false) (hserved : s.node.served = true) (body : Bytes) :
    s.mctpReply body = { s with out := { s.out with mctp := s.out.mctp ++ [body] } } := by
  simp [State.mctpReply, hup, hserved]

theorem State.mctpReply_silent {s : State} (hdown : s.ctl.mgmtDown = true ∨ s.node.served = false) (body : Bytes) :
    s.mctpReply body = s := by
  rcases hdown with h | h <;> simp [State.mctpReply, h]

/-! ## Records by domain (R434) -/

theorem recordOf_domain (l : List DomainRecord) (d : Nat) : (recordOf l d).domain = d := by
  unfold recordOf
  cases h : l.find? fun r => r.domain = d with
  | none => rfl
  | some r => simpa using List.find?_some h

theorem recordOf_putRecord_self (l : List DomainRecord) {x : DomainRecord} {d : Nat} (hx : x.domain = d) :
    recordOf (putRecord l x) d = x := by
  have hnone : (l.filter fun y => y.domain ≠ x.domain).find? (fun r => r.domain = d) = none := by
    simp [List.find?_eq_none, hx]
  rw [recordOf, putRecord, List.find?_append, hnone]
  simp [hx]

theorem recordOf_putRecord_ne (l : List DomainRecord) {x : DomainRecord} {d : Nat} (hx : x.domain ≠ d) :
    recordOf (putRecord l x) d = recordOf l d := by
  have hkept : (l.filter fun y => y.domain ≠ x.domain).find? (fun r => r.domain = d) = l.find? fun r => r.domain = d := by
    rw [List.find?_filter]
    congr 1
    funext r
    by_cases hr : r.domain = d
    · simp [hr, hx.symm]
    · simp [hr]
  rw [recordOf, putRecord, List.find?_append, hkept, recordOf]
  simp [hx]

/-! ## The worst unit (R431) -/

/-- The margin that a domain's units are compared by. -/
def marginIn (d : Nat) (u : UnitMargin) : Int := if timed d then u.timing else u.voltage

/-- The first of the least of a list, from a start. -/
theorem foldl_least {α : Type} (m : α → Int) (l : List α) (u : α) :
    l.foldl (fun w x => if m x < m w then x else w) u ∈ u :: l ∧
      ∀ x ∈ u :: l, m (l.foldl (fun w x => if m x < m w then x else w) u) ≤ m x := by
  induction l generalizing u with
  | nil => simp
  | cons y l ih =>
    obtain ⟨hmem, hleast⟩ := ih (if m y < m u then y else u)
    rw [List.foldl_cons]
    refine ⟨?_, fun x hx => ?_⟩
    · rcases List.mem_cons.1 hmem with h | h
      · rw [h]
        split <;> simp
      · exact List.mem_cons_of_mem _ (List.mem_cons_of_mem _ h)
    · have hfirst := hleast _ List.mem_cons_self
      rcases List.mem_cons.1 hx with rfl | hx
      · refine hfirst.trans ?_
        split
        · next h => exact le_of_lt h
        · exact le_refl _
      · rcases List.mem_cons.1 hx with rfl | hx
        · refine hfirst.trans ?_
          split
          · exact le_refl _
          · next h => exact not_lt.1 h
        · exact hleast x (List.mem_cons_of_mem _ hx)

theorem worstUnit_least {r : DomainReport} (hunits : unitsOf r ≠ []) :
    worstUnit r ∈ unitsOf r ∧ ∀ u ∈ unitsOf r, marginIn r.domain (worstUnit r) ≤ marginIn r.domain u := by
  obtain ⟨u, l, hl⟩ := List.exists_cons_of_ne_nil hunits
  have hworst : worstUnit r =
      l.foldl (fun w x => if marginIn r.domain x < marginIn r.domain w then x else w) u := by
    unfold worstUnit
    simp only [hl]
    rfl
  rw [hworst, hl]
  exact foldl_least (marginIn r.domain) l u

/-! ## A sweep (R429) -/

/-- The reads of the reference pages leave all but flash. -/
theorem State.farrierReads_eq (s : State) : ∃ flash, s.farrierReads = { s with flash := flash } := by
  refine foldl_holds (P := fun t : State => ∃ flash, t = { s with flash := flash }) ?_ _ ⟨s.flash, rfl⟩
  rintro _ ch ⟨flash, rfl⟩
  split
  · exact ⟨_, rfl⟩
  · exact ⟨flash, rfl⟩

/-- The record that a sweep leaves of its domain. -/
def State.sweptRecord (s : State) (r : DomainReport) : DomainRecord :=
  { recordOf s.node.sweep r.domain with
    flags := if !(unitsBelow r 0).isEmpty then 1 else (recordOf s.node.sweep r.domain).flags
    worst := (worstUnit r).num, timing := if timed r.domain then (worstUnit r).timing else 0
    voltage := (worstUnit r).voltage, life := (recordOf s.node.record.plan r.domain).life, hours := s.hours
    stride := s.stride }

/-- A sweep that is due puts its record, and a unit newly below its floor raises the PLDM event. -/
theorem farrierSweepEff_due {r : DomainReport} {s : State} (hrunning : s.running = true)
    (hdomain : s.mountedSet.hasDomain r.domain = true) (hdue : s.sweepDue r.domain = true)
    (hreads : r.domain = 0x30 → s.farrierSpent = false) :
    ∃ t flash, t = ({ s with flash := flash, node := { s.node with sweep := putRecord s.node.sweep (s.sweptRecord r) } } : State) ∧
      farrierSweepEff r s = if (!(unitsBelow r 0).isEmpty) = true ∧ (recordOf s.node.sweep r.domain).flags = 0 then
        t.pldm pldmFloor r.domain s.stride else t := by
  have hgo : ¬(!s.running || !s.mountedSet.hasDomain r.domain || !s.sweepDue r.domain ||
      (decide (r.domain = 0x30) && s.farrierSpent)) = true := by
    by_cases h : r.domain = 0x30
    · simp [hrunning, hdomain, hdue, hreads h]
    · simp [hrunning, hdomain, hdue, h]
  obtain ⟨flash, hflash⟩ : ∃ flash, (if r.domain = 0x30 then s.farrierReads else s) = { s with flash := flash } := by
    split
    · exact s.farrierReads_eq
    · exact ⟨s.flash, rfl⟩
  refine ⟨_, flash, rfl, ?_⟩
  unfold farrierSweepEff
  rw [if_neg hgo, hflash]
  rfl

/-- Settles O41, clause by clause. -/
theorem managementAndSweeps : Obligations.ManagementAndSweeps := by
  refine ⟨?answers, ?mirror, ?silent, ?sweep, ?notDue, ?worst⟩
  case answers =>
    intro p s hup hserved
    exact ⟨congrArg Host.Outcome.next (State.mctpReply_serves hup hserved _),
      congrArg Host.Outcome.next (State.mctpReply_serves hup hserved _),
      congrArg Host.Outcome.next (State.mctpReply_serves hup hserved _),
      congrArg Host.Outcome.next (State.mctpReply_serves hup hserved _),
      congrArg Host.Outcome.next (State.mctpReply_serves hup hserved _)⟩
  case mirror =>
    intro o n s hup hserved halign hmost hinside
    exact guarded_decide (by omega) (Eq.trans (if_neg (by omega)) (State.mctpReply_serves hup hserved _))
  case silent =>
    intro p s hdown
    exact ⟨congrArg Host.Outcome.next (State.mctpReply_silent hdown _),
      congrArg Host.Outcome.next (State.mctpReply_silent hdown _),
      congrArg Host.Outcome.next (State.mctpReply_silent hdown _),
      congrArg Host.Outcome.next (State.mctpReply_silent hdown _),
      congrArg Host.Outcome.next (State.mctpReply_silent hdown _)⟩
  case sweep =>
    intro r s hcode hrunning hdomain hdue hreads
    obtain ⟨t, flash, ht, heff⟩ := farrierSweepEff_due hrunning hdomain hdue hreads
    have hswept : (s.sweptRecord r).domain = r.domain := recordOf_domain s.node.sweep r.domain
    refine ⟨_, guarded_next.2 ⟨hcode, rfl⟩, ?_⟩
    have hnode : (farrierSweepEff r s).node = t.node := by
      rw [heff]
      split
      · exact State.pldm_node ..
      · rfl
    have hself : recordOf t.node.sweep r.domain = s.sweptRecord r := by
      rw [ht]
      exact recordOf_putRecord_self _ hswept
    rw [hnode, hself]
    refine ⟨rfl, rfl, rfl, rfl, rfl, fun d hd => ?_, ?_, fun hnone => ?_, fun hsome hflags hup => ?_⟩
    · rw [ht]
      exact recordOf_putRecord_ne _ (hswept.trans_ne hd.symm)
    · rw [ht]
    · rw [heff, if_neg (by simp [hnone]), ht]
      exact ⟨rfl, rfl⟩
    · rw [heff, if_pos ⟨by simpa using hsome, hflags⟩, ht]
      simp [State.pldm, hup]
  case notDue =>
    intro r s hcode hdue
    refine guarded_next.2 ⟨hcode, ?_⟩
    unfold farrierSweepEff
    rw [if_pos (by simp [hdue])]
  case worst =>
    intro r hunits
    obtain ⟨hmem, hleast⟩ := worstUnit_least hunits
    refine ⟨hmem, fun u hu => ?_⟩
    have h := hleast u hu
    unfold marginIn at h
    split
    · next ht => rwa [if_pos ht, if_pos ht] at h
    · next ht => rwa [if_neg ht, if_neg ht] at h

end Sys2Proof.Machine
end

section
/-! SUPPORT. The statement of the stages 1 to 6 of a start. -/

namespace Sys2Proof.Machine

/-! ## Stages and failure (R409, R410) -/

/-- A stage that runs is the present one of a start with its supply on. -/
theorem State.stage_of_inStage {s : State} {n : Nat} (h : s.inStage n = true) :
    s.node.supply = true ∧ s.node.st = 0 ∧ s.node.stage = n ∧ s.node.stopped = false := by
  simpa [State.inStage, and_assoc] using h

/-- What a failed start changes outside of the events for the management plane. -/
theorem State.fail_keeps (s : State) (code : Nat) :
    (s.fail code).node = { s.node with st := 6, stopped := true, failure := code, alert := true } ∧
      (s.fail code).memb = { s.memb with beating := false } ∧ (s.fail code).mem = s.mem ∧
      (s.fail code).flash = s.flash ∧ (s.fail code).clk = s.clk := by
  simp only [State.fail]
  split
  · simp [State.halt]
  · exact ⟨rfl, rfl, rfl, rfl, rfl⟩

theorem railsInRegulationEff_good {s : State} (h : s.inStage 1 = true) :
    railsInRegulationEff 0 s = { s with node := { s.node with railsOn := true, stage := 2 } } := by
  simp [railsInRegulationEff, h, State.enter]

theorem railsInRegulationEff_failed {s : State} {c : Nat} (h : s.inStage 1 = true) (hc : c ≠ 0) :
    railsInRegulationEff c s = s.fail c := by
  simp [railsInRegulationEff, h, hc]

theorem stageTimeoutEff_eq {s : State} {n : Nat} (hlow : 1 ≤ n) (hhigh : n ≤ 9) (h : s.inStage n = true) :
    stageTimeoutEff s = s.fail (256 * n + 0xFF) := by
  obtain ⟨hsupply, hst, rfl, hstopped⟩ := State.stage_of_inStage h
  simp [stageTimeoutEff, hsupply, hst, hstopped, hlow, hhigh]

/-! ## The measured firmware (R395 to R398) -/

/-- The copy that the ROM uses, by which of the two verify. -/
theorem State.chosenCopy_eq (s : State) : s.chosenCopy = match s.node.copies.1.verifies, s.node.copies.2.verifies with
    | true, true => some (decide (s.node.copies.1.sequence < s.node.copies.2.sequence))
    | true, false => some false
    | false, true => some true
    | false, false => none := by
  unfold State.chosenCopy
  generalize s.node.copies = copies
  obtain ⟨a, b⟩ := copies
  cases ha : a.verifies <;> cases hb : b.verifies
  case true.true => by_cases hlater : a.sequence < b.sequence <;> simp [ha, hb, hlater]
  all_goals simp [ha, hb]

theorem FwCopy.verifies_iff (c : FwCopy) : c.verifies = true ↔ c.digest = sha384 c.image ∧ c.length = c.image.length ∧
    fwSigned c.image = true ∧ fwWellMade c.image = true := by
  rw [FwCopy.verifies, Bool.and_eq_true, Bool.and_eq_true, decide_eq_true_iff, and_assoc, and_assoc]

/-- The node once the copy that it uses is measured. -/
def State.measured (s : State) (secret : Bytes) (b : Bool) : State :=
  (({ s with node := { s.node with
      secret := secret, copyB := b,
      measures := (List.range 48).map Config.romMeasureByte ::
        fwStages (if b then s.node.copies.2 else s.node.copies.1).image,
      version := le (if b then s.node.copies.2 else s.node.copies.1).image 8 4,
      digest := fwDigest (if b then s.node.copies.2 else s.node.copies.1).image, served := true, challenge := none,
      remountStart := s.node.record.remount.isSome } } : State).enter 3).pldm pldmTack 0 0

theorem firmwareMeasuredStartEff_wrongKey {secret : Bytes} {s : State} (h : s.inStage 2 = true)
    (hkey : s.keyAgrees secret = false) : firmwareMeasuredStartEff secret s = s.fail 0x0202 := by
  rw [firmwareMeasuredStartEff, h, hkey]
  rfl

theorem firmwareMeasuredStartEff_wrongBrand {secret : Bytes} {s : State} (h : s.inStage 2 = true)
    (hkey : s.keyAgrees secret = true) (hbrand : s.brandVerifies = false) :
    firmwareMeasuredStartEff secret s = s.fail 0x0203 := by
  rw [firmwareMeasuredStartEff, h, hkey, hbrand]
  rfl

theorem firmwareMeasuredStartEff_noCopy {secret : Bytes} {s : State} (h : s.inStage 2 = true)
    (hkey : s.keyAgrees secret = true) (hbrand : s.brandVerifies = true) (hcopy : s.chosenCopy = none) :
    firmwareMeasuredStartEff secret s = s.fail 0x0201 := by
  rw [firmwareMeasuredStartEff, h, hkey, hbrand, hcopy]
  rfl

theorem firmwareMeasuredStartEff_copy {secret : Bytes} {s : State} {b : Bool} (h : s.inStage 2 = true)
    (hkey : s.keyAgrees secret = true) (hbrand : s.brandVerifies = true) (hcopy : s.chosenCopy = some b) :
    firmwareMeasuredStartEff secret s = s.measured secret b := by
  rw [firmwareMeasuredStartEff, h, hkey, hbrand, hcopy]
  rfl

/-! ## The tack image (R399, R400, R413) -/

theorem tackImageReceiveEff_none {s : State} (h : s.inStage 3 = true) : tackImageReceiveEff [] s = s.fail 0x0301 := by
  rw [tackImageReceiveEff, h]
  rfl

theorem tackImageReceiveEff_refused {s : State} {b : Bytes} (h : s.inStage 3 = true) (hb : b ≠ [])
    (hparse : parseTack b = none) : tackImageReceiveEff b s = s.fail 0x0302 := by
  simp [tackImageReceiveEff, h, hb, hparse]

/-- The node with an accepted image, its stride code and its routes those to use. -/
def State.withTack (s : State) (b : Bytes) (k : Tack) (code : Nat) (route : Bytes) : State :=
  let s1 := ({ s with
    clk := { s.clk with code := code },
    node := { s.node with
      tack := some { k with code := code, route := route }, id := k.node,
      measures := s.node.measures.take 5 ++ [sha384 b, sha384 ((b.drop 32).take 96)] } } : State).adoptRoute route
  ({ s1 with fab := { s1.fab with strideIn := k.strideIn } }).enter 4

theorem tackImageReceiveEff_accepted {s : State} {b : Bytes} {k : Tack} (h : s.inStage 3 = true) (hb : b ≠ [])
    (hparse : parseTack b = some k) (hremount : s.node.record.remount = none) :
    tackImageReceiveEff b s = s.withTack b k k.code k.route := by
  simp [tackImageReceiveEff, h, hb, hparse, hremount, State.withTack]

theorem tackImageReceiveEff_remounted {s : State} {b m : Bytes} {k : Tack} {r c : Nat} (h : s.inStage 3 = true) (hb : b ≠ [])
    (hparse : parseTack b = some k) (hremount : s.node.record.remount = some (r, c, m)) :
    tackImageReceiveEff b s = s.withTack b k c m := by
  simp [tackImageReceiveEff, h, hb, hparse, hremount, State.withTack]

/-! ## Unit tests (R414, R415, R432) -/

/-- A unit that failed its test is retired, but for lanes. -/
theorem State.settleUnits_retired (s : State) (stage : Nat) {failed : List (Nat × Nat)} {u : Nat × Nat} (hu : u ∈ failed)
    (hkind : u.1 ≠ 0x10) : u ∈ (s.settleUnits stage failed).node.record.retired := by
  simp only [State.settleUnits, List.mem_append, List.mem_filter]
  by_cases hbefore : u ∈ s.node.record.retired
  · exact .inl ⟨hbefore, by simp [hu]⟩
  · exact .inr ⟨hu, by simp [hkind, hbefore]⟩

/-- The tests of a stage take the units of its kinds off the test list. -/
theorem State.settleUnits_testList (s : State) (stage : Nat) (failed : List (Nat × Nat)) :
    (s.settleUnits stage failed).node.record.testList =
      s.node.record.testList.filter (fun u => stageOfKind u.1 ≠ stage) := by
  refine List.filter_congr fun u hu => ?_
  simp [hu]

/-- A re-plan retires units and lets none back. -/
theorem State.replan_retired {s : State} (r : DomainReport) {u : Nat × Nat} (hu : u ∈ s.node.record.retired) :
    u ∈ (s.replan r).node.record.retired := List.mem_append_left _ hu

/-- What the tests of a stage, with the re-plan of its domains, have changed nothing of: all but the node's figures, and of these
the ones that later stages go by. -/
structure State.Tested (s t : State) : Prop where
  rest : ∃ node, t = { s with node := node }
  id : t.node.id = s.node.id
  serial : t.node.serial = s.node.serial

/-- The state after the tests of a stage and the re-plan of its domains. -/
def State.tested (s : State) (stage : Nat) (r : UnitReport) : State :=
  r.domains.foldl State.replan (s.settleUnits stage r.failed)

theorem State.tested_keeps (s : State) (stage : Nat) (r : UnitReport) : s.Tested (s.tested stage r) := by
  refine foldl_holds (P := s.Tested) ?_ _ ⟨⟨_, rfl⟩, rfl, rfl⟩
  rintro t d ⟨⟨node, rfl⟩, hid, hserial⟩
  exact ⟨⟨_, rfl⟩, hid, hserial⟩

theorem State.tested_testList (s : State) (stage : Nat) (r : UnitReport) :
    (s.tested stage r).node.record.testList = s.node.record.testList.filter (fun u => stageOfKind u.1 ≠ stage) :=
  (foldl_keeps (fun t : State => t.node.record.testList) (fun _ _ => by rfl) _ _).trans (s.settleUnits_testList stage r.failed)

theorem State.tested_retired (s : State) (stage : Nat) {r : UnitReport} {u : Nat × Nat} (hu : u ∈ r.failed)
    (hkind : u.1 ≠ 0x10) : u ∈ (s.tested stage r).node.record.retired :=
  foldl_holds (P := fun t : State => u ∈ t.node.record.retired) (fun _ d h => State.replan_retired d h) _
    (s.settleUnits_retired stage hu hkind)

/-- Does a stack of HBM lie below the floor of its domain, as the report has it? -/
def stackBelow (r : UnitReport) : Bool := r.domains.any fun d => (planBelow d).any fun u => u.1 = 0

theorem stackBelow_iff (r : UnitReport) : stackBelow r = true ↔ ∃ d ∈ r.domains, ∃ u ∈ planBelow d, u.1 = 0 := by
  simp [stackBelow]

theorem stackBelow_eq_false {r : UnitReport} (h : ∀ d ∈ r.domains, ∀ u ∈ planBelow d, u.1 ≠ 0) :
    stackBelow r = false := by
  rw [Bool.eq_false_iff, ne_eq, stackBelow_iff r]
  rintro ⟨d, hd, u, hu, hzero⟩
  exact h d hd u hu hzero

/-- A stack that failed, or is below its floor, ends the start. -/
theorem unitTrainingEff_noStack {s : State} {r : UnitReport} (h : s.inStage 4 = true)
    (hstack : r.stackFailed = true ∨ stackBelow r = true) : unitTrainingEff 4 r s = s.fail 0x0401 := by
  rw [stackBelow] at hstack
  unfold unitTrainingEff
  rw [if_neg (by simp [h]), if_pos ⟨rfl, hstack⟩]

/-- A module that the node does not support ends the start. -/
theorem unitTrainingEff_noModule {s : State} {r : UnitReport} (h : s.inStage 4 = true)
    (hfailed : r.stackFailed = false) (hbelow : stackBelow r = false) (hmodule : modules.contains r.module = false) :
    unitTrainingEff 4 r s = s.fail 0x0402 := by
  unfold unitTrainingEff
  rw [stackBelow] at hbelow
  rw [if_neg (by simp [h]), if_neg (by simp [hfailed, hbelow]), if_pos ⟨rfl, by rw [hmodule, Bool.not_false]⟩]

/-- Stage 4 with good stacks and a module that the node supports. -/
theorem unitTrainingEff_units {s : State} {r : UnitReport} (h : s.inStage 4 = true)
    (hfailed : r.stackFailed = false) (hbelow : stackBelow r = false) (hmodule : modules.contains r.module = true) :
    unitTrainingEff 4 r s = (({ (s.tested 4 r).admitUnits 0 with
      mem := { (s.tested 4 r).mem with
        ddrModule := r.module * 2 ^ 30
        ddrChannels := (bitList 12 ((s.tested 4 r).admitUnits 0).gaits.admitted.ddr.toNat).length } } : State).enter 5) := by
  rw [stackBelow] at hbelow
  simp only [unitTrainingEff, h, hfailed, hbelow, hmodule]
  rfl

theorem unitTrainingEff_flash {s : State} {r : UnitReport} (h : s.inStage 5 = true) :
    unitTrainingEff 5 r s = s.tested 5 r := by
  simp [unitTrainingEff, h, State.tested]

/-! ## Lanes (R414, R432) -/

/-- Bit `l` of a four-bit word put together from its bits. -/
theorem bitOf_lanes (c : Nat → Bool) {l : Nat} (hl : l < 4) :
    bitOf (BitVec.ofNat 4 (sumNat ((List.range 4).map fun i => if c i then 2 ^ i else 0))).toNat l = c l := by
  have hrange : List.range 4 = [0, 1, 2, 3] := rfl
  rw [hrange]
  simp only [List.map_cons, List.map_nil]
  generalize hc0 : c 0 = c0
  generalize hc1 : c 1 = c1
  generalize hc2 : c 2 = c2
  generalize hc3 : c 3 = c3
  match l, hl with
  | 0, _ => rw [hc0]; clear * -; revert c0 c1 c2 c3; decide
  | 1, _ => rw [hc1]; clear * -; revert c0 c1 c2 c3; decide
  | 2, _ => rw [hc2]; clear * -; revert c0 c1 c2 c3; decide
  | 3, _ => rw [hc3]; clear * -; revert c0 c1 c2 c3; decide

theorem State.dropLanes_lanes (s : State) (lost : List (Nat × Nat)) {p l : Nat} (hp : p < s.fab.ports.length) (hl : l < 4) :
    bitOf ((s.dropLanes lost).port p).lanes.toNat l =
      (bitOf (s.port p).lanes.toNat l && !lost.contains (0x10, 4 * p + l)) := by
  have hport : s.port p = s.fab.ports[p] := by
    rw [State.port, List.getD_eq_getElem?_getD, List.getElem?_eq_getElem hp, Option.getD_some]
  have hlanes : ((s.dropLanes lost).port p).lanes = BitVec.ofNat 4 (sumNat ((List.range 4).map fun i =>
      if bitOf (s.port p).lanes.toNat i && !lost.contains (0x10, 4 * p + i) then 2 ^ i else 0)) := by
    rw [hport]
    simp [State.dropLanes, State.port, List.getD_eq_getElem?_getD, List.getElem?_eq_getElem hp]
  rw [hlanes]
  exact bitOf_lanes (fun i => bitOf (s.port p).lanes.toNat i && !lost.contains (0x10, 4 * p + i)) hl

/-! ## The entry into the join (R410, R418) -/

/-- A join record toward the parents goes out by the ports. -/
theorem State.toParents_eq (s : State) (b : Bytes) : ∃ fab out, s.toParents b = { s with fab := fab, out := out } := by
  refine foldl_holds (P := fun t => ∃ fab out, t = { s with fab := fab, out := out }) ?_ _ ⟨s.fab, s.out, rfl⟩
  rintro _ p ⟨fab, out, rfl⟩
  exact ⟨_, _, rfl⟩

/-- The node that enters the join. -/
def State.joining (s : State) : State :=
  { s with node := { s.node with
      record := { s.node.record with remount := none }, joins := [(s.me, s.flash.lastStride, s.node.serial)], stage := 7 } }

theorem State.enterJoin_eq (s : State) : ∃ fab out, s.enterJoin = { s.joining with fab := fab, out := out } :=
  s.joining.toParents_eq _

/-- The state after the tests of stage 6 and the loss of the lanes that failed. -/
def State.lanesTested (s : State) (r : UnitReport) : State :=
  (s.tested 6 r).dropLanes (r.failed ++ r.domains.flatMap planBelow)

/-- With a Coffle port and the needed span port in service, stage 6 leads to the join. -/
theorem unitTrainingEff_ports {s : State} {r : UnitReport} {p : Nat} (h : s.inStage 6 = true) (hp : p < 9)
    (hst : ((s.lanesTested r).port p).st = 2) (hrole : ((s.lanesTested r).port p).role = 1)
    (hspan : (s.lanesTested r).spanMissing = false) :
    unitTrainingEff 6 r s = ((s.lanesTested r).admitUnits (s.lanesTested r).portLanes).enterJoin := by
  have hcoffle : ((s.lanesTested r).portsInService.any fun q => ((s.lanesTested r).port q).role = 1) = true :=
    List.any_eq_true.2 ⟨p, List.mem_filter.2 ⟨List.mem_range.2 hp, decide_eq_true hst⟩, decide_eq_true hrole⟩
  unfold unitTrainingEff
  rw [if_neg (by simp [h]), if_neg (by simp), if_neg (by simp)]
  exact (if_neg (by decide)).trans ((if_pos rfl).trans
    ((if_neg (by rw [Bool.not_eq_true, Bool.not_eq_false']; exact hcoffle)).trans (if_neg (by rw [Bool.not_eq_true]; exact hspan))))

/-- The ports after the tests are those of the lanes lost, whatever was retired. -/
theorem State.lanesTested_keeps (s : State) (r : UnitReport) :
    ∃ node, s.lanesTested r = { s.dropLanes (r.failed ++ r.domains.flatMap planBelow) with node := node } ∧
      node.id = s.node.id ∧ node.serial = s.node.serial := by
  obtain ⟨⟨node, hrest⟩, hid, hserial⟩ := s.tested_keeps 6 r
  refine ⟨node, ?_, ?_, ?_⟩
  · rw [State.lanesTested, hrest]
    rfl
  · rw [hrest] at hid
    exact hid
  · rw [hrest] at hserial
    exact hserial

/-- Stage 6 ends in the join, with what its first acts change. -/
theorem unitTrainingEff_joins {s d : State} {r : UnitReport} {p : Nat} (h : s.inStage 6 = true)
    (hd : d = s.dropLanes (r.failed ++ r.domains.flatMap planBelow)) (hp : p < 9) (hst : (d.port p).st = 2)
    (hrole : (d.port p).role = 1) (hspan : s.isNear = true ∨ (d.port 8).st = 2) :
    (unitTrainingEff 6 r s).node.stage = 7 ∧
      (unitTrainingEff 6 r s).node.joins = [(s.me, s.flash.lastStride, s.node.serial)] ∧
      (unitTrainingEff 6 r s).node.record.remount = none ∧ (unitTrainingEff 6 r s).gaits.admitted.lanes = d.portLanes ∧
      (unitTrainingEff 6 r s).mem = s.mem ∧ (unitTrainingEff 6 r s).flash = s.flash ∧ (unitTrainingEff 6 r s).clk = s.clk := by
  obtain ⟨node, htested, hid, hserial⟩ := s.lanesTested_keeps r
  rw [← hd] at htested
  have hmissing : (s.lanesTested r).spanMissing = false := by
    rw [htested, State.spanMissing, State.isNear, hid, Bool.and_eq_false_iff, Bool.not_eq_false', decide_eq_false_iff_not,
      not_not]
    exact hspan
  have hports := unitTrainingEff_ports h hp (by rw [htested]; exact hst) (by rw [htested]; exact hrole) hmissing
  obtain ⟨fab, out, hjoin⟩ := ((s.lanesTested r).admitUnits (s.lanesTested r).portLanes).enterJoin_eq
  rw [hports, hjoin, htested, hd]
  refine ⟨rfl, ?_, rfl, rfl, rfl, rfl, rfl⟩
  rw [State.me, ← hid, ← hserial]
  rfl

/-! ## The flash scan (R257, R267, R416) -/

/-- What the rebuilding of the maps leaves as it is. -/
def State.scanView (s : State) : Memory × Clock × Nat × Nat × Nat × Bool :=
  (s.mem, s.clk, s.flash.targets, s.flash.dieBlocks, s.flash.endurance, s.flash.flushed)

theorem State.pageGood_scanView (s : State) (ch : Nat) (o : ArrayOp) : (s.pageGood ch o).scanView = s.scanView := by
  unfold State.pageGood
  split <;> rfl

theorem State.programNow_scanView (ch : Nat) (s : State) (o : ArrayOp) : (s.programNow ch o).scanView = s.scanView := by
  unfold State.programNow
  split
  · rfl
  · exact State.pageGood_scanView ..

theorem State.programUnits_scanView (pad : Nat) (s : State) (ch : Nat) :
    (s.programUnits pad ch).scanView = s.scanView :=
  foldl_keeps State.scanView (fun _ _ => State.programNow_scanView ..) _ _

/-- Programming back the flush region empties it and changes the maps. -/
theorem State.programBack_scanView (s : State) :
    s.programBack.scanView = (s.mem, s.clk, s.flash.targets, s.flash.dieBlocks, s.flash.endurance, false) := by
  have hback := foldl_keeps State.scanView (f := fun s pad => (List.range 32).foldl (State.programUnits pad) s)
    (fun t pad => foldl_keeps State.scanView (State.programUnits_scanView pad) _ t) (s.flash.paddocks.map (·.1)) s
  simp only [State.scanView, Prod.mk.injEq] at hback
  obtain ⟨hmem, hclk, htargets, hdies, hendurance, -⟩ := hback
  simp only [State.scanView, State.programBack, hmem, hclk, htargets, hdies, hendurance]

theorem State.moveOut_scanView (s : State) (ch key n cls : Nat) (paid : Bool) :
    (s.moveOut ch key n cls paid).scanView = s.scanView :=
  foldl_keeps State.scanView (fun _ _ => by rfl) _ _

theorem State.enterReadOnly_scanView (s : State) (ch : Nat) : (s.enterReadOnly ch).scanView = s.scanView := by
  unfold State.enterReadOnly
  split <;> rfl

theorem State.retireBlock_scanView (s : State) (ch key : Nat) : (s.retireBlock ch key).scanView = s.scanView := by
  unfold State.retireBlock
  extract_lets c cls s1 s2
  have hmoved : s2.scanView = s.scanView := s.moveOut_scanView ch key 1024 cls true
  split
  · rfl
  · split
    · exact (s2.enterReadOnly_scanView ch).trans hmoved
    · exact hmoved

theorem State.movesNow_scanView (s : State) (ch : Nat) : (s.movesNow ch).scanView = s.scanView :=
  foldl_keeps State.scanView (State.programNow_scanView ch) _ _

theorem State.retireDie_scanView (s : State) (u : Nat × Nat) : (s.retireDie u).scanView = s.scanView := by
  unfold State.retireDie
  split
  · rfl
  · exact (State.movesNow_scanView ..).trans (foldl_keeps State.scanView (fun _ _ => State.retireBlock_scanView ..) _ _)

/-- A paddock whose map is lost becomes read-only. -/
def State.readOnlyPaddock (s : State) (n : Nat) : State := s.modPaddock n fun p => { p with st := 2 }

theorem State.readOnlyPaddock_self (s : State) (n : Nat) {p : Paddock}
    (h : SMap.find? (s.readOnlyPaddock n).flash.paddocks n = some p) : p.st = 2 := by
  have hfind : SMap.find? (s.readOnlyPaddock n).flash.paddocks n = _ := SMap.find?_update_self ..
  rw [hfind, Option.map_eq_some_iff] at h
  obtain ⟨q, -, rfl⟩ := h
  rfl

/-- A paddock that is read-only stays so while others become it. -/
theorem State.readOnlyPaddock_keeps {s : State} {n : Nat} (m : Nat)
    (h : ∀ p, SMap.find? s.flash.paddocks n = some p → p.st = 2) :
    ∀ p, SMap.find? (s.readOnlyPaddock m).flash.paddocks n = some p → p.st = 2 := by
  by_cases hn : n = m
  · subst hn
    exact fun _ => s.readOnlyPaddock_self n
  · have hfind : SMap.find? (s.readOnlyPaddock m).flash.paddocks n = SMap.find? s.flash.paddocks n := SMap.find?_update_ne _ _ hn
    rwa [hfind]

theorem State.readOnlyPaddocks_st (s : State) {l : List Nat} {n : Nat} (hn : n ∈ l) :
    ∀ p, SMap.find? (l.foldl State.readOnlyPaddock s).flash.paddocks n = some p → p.st = 2 := by
  induction l generalizing s with
  | nil => exact absurd hn List.not_mem_nil
  | cons m l ih =>
    rcases List.mem_cons.1 hn with rfl | hlater
    · exact foldl_holds (P := fun t : State => ∀ p, SMap.find? t.flash.paddocks n = some p → p.st = 2)
        (fun _ m h => State.readOnlyPaddock_keeps m h) _ (s := s.readOnlyPaddock n) fun _ => s.readOnlyPaddock_self n
    · exact ih _ hlater

/-- The maps as the scan rebuilds them, of the population that it found. -/
def State.scanned (s : State) (r : ScanReport) : State :=
  let s1 := { s with flash := { s.flash with targets := r.targets, dieBlocks := r.dieBlocks, endurance := r.endurance } }
  r.lostPaddocks.foldl State.readOnlyPaddock (s1.node.record.retired.foldl State.retireDie s1.programBack)

theorem State.scanned_scanView (s : State) (r : ScanReport) :
    (s.scanned r).scanView = (s.mem, s.clk, r.targets, r.dieBlocks, r.endurance, false) :=
  (foldl_keeps State.scanView (fun _ _ => by rfl) _ _).trans
    ((foldl_keeps State.scanView State.retireDie_scanView _ _).trans (State.programBack_scanView _))

theorem flashScanEff_good {s : State} {r : ScanReport} (h : s.inStage 5 = true)
    (hgood : ¬ (r.targets = 0 ∨ 8 < r.targets ∨ (r.dieBlocks ≠ 8192 ∧ r.dieBlocks ≠ 16384) ∨ r.endurance < 10000))
    (hmaps : r.mapsLost = false) : flashScanEff r s = (s.scanned r).enterTraining := by
  unfold flashScanEff
  rw [if_neg (by simp [h]), if_neg hgood, if_neg (by simp [hmaps])]
  rfl

theorem flashScanEff_failed {s : State} {r : ScanReport} (h : s.inStage 5 = true)
    (hbad : r.targets = 0 ∨ 8 < r.targets ∨ (r.dieBlocks ≠ 8192 ∧ r.dieBlocks ≠ 16384) ∨ r.endurance < 10000) :
    flashScanEff r s = s.fail 0x0501 := by
  unfold flashScanEff
  rw [if_neg (by simp [h]), if_pos hbad]

/-! ## Ports (R294, R295, R417) -/

/-- Port `x` once it has trained, or failed to. -/
def Port.trained (x : Port) (reason : Nat) (r : PortReport) : Port :=
  if reason = 0 then { x with st := 2, reason := 0, lanes := r.adapted, delay := measuredDelay r, peer := r.peer }
  else { x with st := 3, reason := reason, lanes := 0, delay := 0, peer := 0 }

theorem portTrainingEff_used {s : State} {r : PortReport} {p : Nat} (h : s.inStage 6 = true) (hrole : (s.port p).role ≠ 0) :
    portTrainingEff p r s = ({ s with node := { s.node with trained := insertNat p s.node.trained } } : State).modPort p
      fun x => x.trained (s.trainingReason p r) r := by
  unfold portTrainingEff
  rw [if_neg (by simp [h, hrole])]
  rfl

/-- The peer's identity holds where its herd, its stride code and its routes agree and it is the node that the port leads to. -/
theorem State.identityReason_eq_zero (s : State) (p : Nat) (r : PortReport) :
    s.identityReason p r = 0 ↔ r.herd = (s.node.tack.map (·.herd)).getD 0 ∧ r.code = s.clk.code ∧ r.peer ≠ s.me ∧
      (p = 8 → r.peer = s.partner) ∧ Config.routesAgree ((s.fab.image.drop 32).take 16) r.route = true := by
  unfold State.identityReason
  by_cases hherd : r.herd = (s.node.tack.map (·.herd)).getD 0
  · by_cases hcode : r.code = s.clk.code
    · simp [hherd, hcode]
    · simp [hherd, hcode]
  · simp [hherd]

/-- A port trains where no step of its training fails. -/
theorem State.trainingReason_eq_zero (s : State) (p : Nat) (r : PortReport) :
    s.trainingReason p r = 0 ↔ (p < 8 → r.light = true) ∧ r.adapted ≠ 0 ∧ r.locked = true ∧ s.identityReason p r = 0 ∧
      delaySpreads r = false := by
  unfold State.trainingReason
  by_cases hdark : p < 8 ∧ (!r.light) = true
  · rw [if_pos hdark]
    exact iff_of_false (by decide) fun h => by simp [h.1 hdark.1] at hdark
  · have hlight : p < 8 → r.light = true := by simpa using hdark
    rw [if_neg hdark]
    by_cases hadapted : r.adapted = 0
    · simp [hadapted]
    · rw [if_neg hadapted, and_iff_right hlight, and_iff_right hadapted]
      cases r.locked
      · simp
      · by_cases hidentity : s.identityReason p r = 0 <;> simp [hidentity]

/-! ## The statement -/

theorem exec_railsInRegulation {c : Nat} {s t : State} (hc : c = 0 ∨ c = 0x0101 ∨ c = 0x0102)
    (heff : railsInRegulationEff c s = t) : exec (.railsInRegulation c) s = .next t := guarded_decide hc heff

theorem exec_unitTraining {n : Nat} {r : UnitReport} {s t : State} (hn : 4 ≤ n ∧ n ≤ 6)
    (heff : unitTrainingEff n r s = t) : exec (.unitTraining n r) s = .next t := guarded_decide hn heff

theorem exec_portTraining {p : Nat} {r : PortReport} {s t : State} (hp : p < 9) (hpeer : r.peer < 2 ^ 15)
    (heff : portTrainingEff p r s = t) : exec (.portTraining p r) s = .next t :=
  guarded_next.2 ⟨Bool.and_eq_true_iff.2 ⟨decide_eq_true hp, decide_eq_true hpeer⟩, heff.symm⟩

/-- Settles O44: each command of a start, in its stage, by its cases. -/
theorem stagesRun : Obligations.StagesRun := by
  refine ⟨fun s h => exec_railsInRegulation (.inl rfl) (railsInRegulationEff_good h), fun s c h hc => ?rails,
    fun s n hlow hhigh h => congrArg Host.Outcome.next (stageTimeoutEff_eq hlow hhigh h), fun s c => ?failure,
    fun s secret h => congrArg Host.Outcome.next ?firmware, State.chosenCopy_eq, FwCopy.verifies_iff,
    fun s h => congrArg Host.Outcome.next (tackImageReceiveEff_none h), fun s b h hb hremount => ⟨_, guarded_true .., ?tack⟩,
    fun s b r c m h hb hremount => ⟨_, guarded_true .., ?remount⟩,
    fun s b h hb hparse => congrArg Host.Outcome.next (tackImageReceiveEff_refused h hb hparse),
    fun s r h hfailed hmodule hbelow => ?units,
    fun s r h hfailed => exec_unitTraining (by decide) (unitTrainingEff_noStack h (.inl hfailed)),
    fun s r h hbelow => exec_unitTraining (by decide) (unitTrainingEff_noStack h (.inr ((stackBelow_iff r).2 hbelow))),
    fun s r h hfailed hbelow hmodule => ?noModule,
    fun s r h => exec_unitTraining (by decide) (unitTrainingEff_flash h),
    fun s lost p l hp hl => s.dropLanes_lanes lost hp hl,
    fun s r d p h hd hp hst hrole hspan =>
      ⟨_, exec_unitTraining (by decide) rfl, unitTrainingEff_joins h hd hp hst hrole hspan⟩,
    fun s r h hlow hhigh hdies hendurance hmaps => ?scan, fun s r h hbad => ?scanFailed,
    fun s r p h hp hlength hrole hpeer => ?port, fun s r p => ?reason⟩
  case rails =>
    rcases hc with rfl | rfl
    · exact exec_railsInRegulation (.inr (.inl rfl)) (railsInRegulationEff_failed h (by decide))
    · exact exec_railsInRegulation (.inr (.inr rfl)) (railsInRegulationEff_failed h (by decide))
  case failure =>
    obtain ⟨hnode, hmemb, hmem, hflash, hclk⟩ := s.fail_keeps c
    rw [hnode, hmemb]
    exact ⟨rfl, rfl, rfl, rfl, rfl, hmem, hflash, hclk⟩
  case firmware =>
    cases hkey : s.keyAgrees secret
    · exact firmwareMeasuredStartEff_wrongKey h hkey
    cases hbrand : s.brandVerifies
    · exact firmwareMeasuredStartEff_wrongBrand h hkey hbrand
    cases hcopy : s.chosenCopy
    · exact firmwareMeasuredStartEff_noCopy h hkey hbrand hcopy
    · exact firmwareMeasuredStartEff_copy h hkey hbrand hcopy
  case tack =>
    intro k hparse
    rw [tackImageReceiveEff_accepted h hb hparse hremount]
    exact ⟨rfl, rfl, rfl, rfl, rfl, rfl, rfl, rfl, rfl⟩
  case remount =>
    intro k hparse
    rw [tackImageReceiveEff_remounted h hb hparse hremount]
    exact ⟨rfl, rfl, rfl, rfl⟩
  case units =>
    refine ⟨_, exec_unitTraining (by decide)
      (unitTrainingEff_units h hfailed (stackBelow_eq_false hbelow) (List.contains_iff_mem.2 hmodule)), ?_⟩
    obtain ⟨⟨node, hrest⟩, -, -⟩ := s.tested_keeps 4 r
    refine ⟨rfl, rfl, ?_, ?_, ?_, ?_, fun u => s.tested_retired 4, s.tested_testList 4 r, rfl, rfl, rfl⟩
    · exact congrArg (·.mem.bytes) hrest
    · exact congrArg (·.flash) hrest
    · exact congrArg (·.fab) hrest
    · exact congrArg (·.clk) hrest
  case noModule =>
    refine exec_unitTraining (by decide) (unitTrainingEff_noModule h hfailed (stackBelow_eq_false hbelow) ?_)
    exact Bool.eq_false_iff.2 fun hmem => hmodule (List.contains_iff_mem.1 hmem)
  case scan =>
    have hview := s.scanned_scanView r
    simp only [State.scanView, Prod.mk.injEq] at hview
    obtain ⟨hmem, hclk, htargets, hdie, hend, hflushed⟩ := hview
    exact ⟨_, congrArg Host.Outcome.next (flashScanEff_good h (by omega) hmaps), rfl, htargets, hdie, hend, hflushed, hmem,
      hclk, fun n hn => State.readOnlyPaddocks_st _ hn⟩
  case scanFailed =>
    exact congrArg Host.Outcome.next (flashScanEff_failed h (by omega))
  case port =>
    refine ⟨_, exec_portTraining hp hpeer (portTrainingEff_used h hrole), ?_, ?_, ?_, rfl, rfl⟩
    · exact State.modPort_port_self _ _ hlength
    · exact fun q hq => State.modPort_port_ne _ _ hq
    · exact mem_insertNat ..
  case reason =>
    rw [State.trainingReason_eq_zero, State.identityReason_eq_zero]
    simp only [and_assoc]

end Sys2Proof.Machine
end
